-- ==== Sys2Proof/Word.lean ====
section
/-!
DEFINITION. The plain words of the Ghedric W1200: bytes, 64-byte lines, and the numbers of dies,
functions, partitions, clusters and cores (spec/00_scope.md R4, R8; spec/02_wafer_geography.md R36).
-/

namespace Sys2Proof

/-- One byte. -/
abbrev Byte := BitVec 8

/-- Bytes in address order. A 64-byte line (R51) is a `Bytes` of length 64. -/
abbrev Bytes := List (BitVec 8)

/-- Host die H0 to H3. -/
abbrev Die := Fin 4
/-- Function of a host die: 0 is the PF, n is VF n (R434). -/
abbrev Fn := Fin 16
/-- Partition P0 to P15 (R198). -/
abbrev Part := Fin 16
/-- Cluster number 40 × y + x (R4). -/
abbrev Cl := Fin 1200
/-- Logical core number 16 × r + k within a cluster (R4). -/
abbrev LCore := Fin 256
/-- Physical core number 17 × r + p within a cluster (R36). -/
abbrev PCore := Fin 272
/-- Link die L0 to L15. -/
abbrev LDie := Fin 16
/-- HBM stack M0 to M7. -/
abbrev Stack := Fin 8

/-- A sparse map: number and value pairs in strictly rising order of the number, with no entry equal to what
an unlisted number holds. -/
abbrev SMap (α : Type) := List (Nat × α)

end Sys2Proof
end

