-- ==== Sys2Proof/Syntax.lean ====
section
/-!
DEFINITION. The commands and events of the block: one constructor of `Instr` for each row of
spec/opcode_table.json, with the operands the row's rule gives it. The table gives no row any bits,
so an operand is what its rule names: a register and a value, the place of a command in a mailbox, an
event of the engine and what its surroundings decide in it (data read from the host, a reading of a
sensor, what an ECC check finds).
-/

namespace Sys2Proof

/-- The BAR of a function that an MMIO access addresses (R434). -/
inductive Bar where
  | bar0
  | bar2
  deriving DecidableEq, Repr

/-- The four directions of a switch, in the order of Table 5.2's source codes. -/
inductive Dir where
  | n
  | e
  | s
  | w
  deriving DecidableEq, Repr

/-- The two data networks (R113). -/
inductive Net where
  | vec
  | sca
  deriving DecidableEq, Repr

/-- What the SECDED check of R55 finds in all that a core step reads, its lines and the words of its configuration
store: how many words have a single-bit error, the ports whose line has a double-bit error, and the words of the active
slot that have one (the step word, or those of the preset it selects). -/
structure Ecc where
  single : Nat := 0
  lines : List (Fin 4) := []
  store : List (Fin 512) := []
  deriving DecidableEq, Repr

/-- No error. -/
def Ecc.clean : Ecc := {}

/-- What the inline check of R276 finds in an HBM line. -/
inductive HbmEcc where
  | clean
  | single
  | double
  deriving DecidableEq, Repr

/-- The sender of a strings frame (Table 5.5, flit 2). -/
inductive Src where
  | pup (p : Fin 16)
  | cluster (c : Cl)
  deriving DecidableEq, Repr

/-- Where a strings frame goes (Table 5.5, flit 0): one cluster, or, with bcast, every cluster of a partition. -/
inductive Dest where
  | cluster (c : Cl)
  | part (p : Part)
  deriving DecidableEq, Repr

/-- The header of a strings frame (Table 5.5): destination, target, source and the number of payload flits. -/
structure Hdr where
  dest : Dest
  target : BitVec 9
  src : Src
  length : Fin 128
  deriving DecidableEq, Repr

/-- A register reached over the strings (R87, R139). A SET-writable register is named by its index of
Table 3.12. -/
inductive StrReg where
  | coSet (index : BitVec 10)
  | coStatus
  | coSlipRange
  | coSlipQueue
  | coSlipHolds
  | coEccCe
  | coEccUeAddr
  | coFence
  | coQmax
  | clRepairMap
  | nodeCfg
  | strErr
  | violCount
  deriving DecidableEq, Repr

/-- What an urgent firmware frame tells (R182, R384): a cluster's halt report to its leader, the answer to a
heartbeat, or another message of the firmware. -/
inductive Urgent where
  | haltReport
  | heartbeatAnswer
  | other
  deriving DecidableEq, Repr

/-- A GLP data cell as received (Table 12.2); a cell that fails its CRC is the command `cellDiscard`. -/
structure Cell where
  retrans : Bool
  position : Nat
  part : Part
  group : Fin 8
  seq : BitVec 16
  stream : BitVec 12
  index : Nat
  et : BitVec 64
  tag : BitVec 32
  payload : Bytes
  deriving DecidableEq, Repr

/-- A SYNC cell (Table 12.3) with the sender's et of its header, and whether its sender is in E0 (R318). -/
structure SyncCell where
  et : BitVec 64
  serial : BitVec 64
  timePri : BitVec 8
  isMaster : Bool
  masterSerial : BitVec 64
  lastSyncEt : BitVec 64
  inE0 : Bool := true
  deriving DecidableEq, Repr

/-- A JOIN cell (Table 12.3): `count` owned positions offered, and the positions of its bitmap; and whether the rates of its
sender's records fit the positions that both ends then own (R318). -/
structure JoinCell where
  token : BitVec 64
  members : Nat
  position : Nat
  group : Fin 8
  count : Nat
  offered : List Nat
  fits : Bool := true
  deriving DecidableEq, Repr

/-- What the two ends of a port learn when it trains (R297, R307, R323): the partner, the round trip of a SYNC in ticks, and the
partner's SYNC. -/
structure PortTrain where
  partnerSerial : BitVec 64
  partnerDie : BitVec 8
  partnerPort : BitVec 8
  roundTrip : Nat
  sync : SyncCell
  deriving DecidableEq, Repr

/-- What a full retime finds at one port (R310): the round trip of step 3 in ticks, θ after step 7, and the length of the
shortest path to the time master that leaves through it (R306). -/
structure RetimePort where
  die : LDie
  port : Fin 3
  roundTrip : Nat
  offset : BitVec 16
  hops : Nat
  deriving DecidableEq, Repr

/-- Another engine of a link domain (R306). -/
structure Peer where
  serial : BitVec 64
  timePri : BitVec 8
  et : BitVec 64
  deriving DecidableEq, Repr

/-- What a full retime finds in the domain (R306, R310): its other engines, and the ports of this one that are up. -/
structure Retime where
  peers : List Peer
  ports : List RetimePort
  deriving DecidableEq, Repr

/-- What the module's surroundings decide in a cold boot (R403, R430): the address straps, the clusters whose
Marionette or always-on slice fails its self-test, the rows whose understudy fails BIST, the VCORE zones whose regulator does
not report its voltage (R349), and the step from 5 to 9, less 5, in which PFW_N is asserted, if it is (R406). -/
structure BootIn where
  straps : BitVec 3
  selfTestFail : List Cl
  understudyFail : List (Cl × Fin 16)
  noReport : List (Fin 48) := []
  pfwIn : Option (Fin 5) := none
  deriving DecidableEq, Repr

/-- What the host does to a flash device through the SPI pins (R407, R423): a page program, of what stands in one page of
256 bytes, or the erase of a 4 KiB sector. -/
inductive SpiOp where
  | program (addr : BitVec 26) (data : List Byte)
  | erase (addr : BitVec 26)
  deriving DecidableEq, Repr

/-- A device on the edge interconnect that fails to answer (R380). -/
inductive Edge where
  | link (d : LDie)
  | stack (m : Stack)
  deriving DecidableEq, Repr

/-- How a host-die transfer ends (R276, R289): in full, by a host-side completion error or by a double-bit error
of HBM, the last two after `bytes` bytes. -/
inductive DmaEnd where
  | done
  | hostError (bytes : Nat)
  | hbmDouble (bytes : Nat)
  deriving DecidableEq, Repr

/-- Where an MMIO access goes in a BAR, and whether it is 64 bits wide or 32 (R10). -/
structure Access where
  off : BitVec 24
  wide : Bool
  deriving DecidableEq, Repr

/-- PERST_N of a host die, and the level it takes (R402). -/
structure PerstPin where
  die : Die
  asserted : Bool
  deriving DecidableEq, Repr

/-- A command that writes a report, by its seq or its slot, and whether the host rejects the write (R237). -/
structure Reporting (α : Type) where
  cmd : α
  lost : Bool
  deriving DecidableEq, Repr

/-- What reading HBM lines comes to, and the lines in which it corrects a single-bit error (R276). -/
structure Found (α : Type) where
  res : α
  singles : List Nat
  deriving DecidableEq, Repr

/-- A TAP that loads EXTEST, and what the host then drives through its pins (R423). -/
structure TapDrive where
  tap : Fin 20
  spi : List SpiOp
  deriving DecidableEq, Repr

/-- One constructor per row of spec/opcode_table.json, in the table's order. -/
inductive Instr where
  -- MMIO (R10 to R12, R211, R213, R221 to R225, R254, R256, R262, R287)
  | registerWrite (die : Die) (fn : Fn) (bar : Bar) (off : BitVec 24) (wide : Bool) (val : BitVec 64)
  | splitWriteLower (die : Die) (fn : Fn) (bar : Bar) (off : BitVec 24) (val : BitVec 32)
  | splitWriteUpper (die : Die) (fn : Fn) (bar : Bar) (off : BitVec 24) (val : BitVec 32)
  | splitReadLower (die : Die) (fn : Fn) (bar : Bar) (acc : Access)
  | unhonouredMmioAccess (die : Die) (fn : Fn) (bar : Bar) (off : BitVec 24) (bits : Nat) (write : Option (BitVec 64))
  | mmioViolation (die : Die) (fn : Fn) (bar : Bar) (acc : Access) (write : Option (BitVec 64))
  | hdMbDoorbell (die : Die) (fn : Fn) (val : BitVec 32)
  | hdMbOutAck (die : Die) (fn : Fn) (val : BitVec 32)
  | outboundMessageWrite (die : Die) (fn : Fn)
  | hdViolClear (die : Die) (val : BitVec 32)
  | hdClassAmbigClear (die : Die) (val : BitVec 32)
  | functionLevelReset (die : Die) (fn : Fn)
  | perstN (pin : PerstPin)
  | ringEnable (die : Die) (fn : Fn) (ring : Fin 7) (val : BitVec 32)
  | ringDisable (die : Die) (fn : Fn) (ring : Fin 7) (val : BitVec 32)
  | hdSqTail (die : Die) (fn : Fn) (ring : Fin 7) (val : BitVec 32)
  | hdCqHead (die : Die) (fn : Fn) (ring : Fin 7) (val : BitVec 32)
  | dmaQueueEnable (die : Die) (fn : Fn) (val : BitVec 32)
  | dmaQueueDisable (die : Die) (fn : Fn) (val : BitVec 32)
  | hdDmaTail (die : Die) (fn : Fn) (val : BitVec 32)
  -- GMP commands, each read from a busy inbound slot of a window (R223, R227, Table 9.9)
  | commandReservedCode (die : Die) (fn : Fn) (slot : Fin 32)
  | engineInfo (die : Die) (fn : Fn) (slot : Fin 32)
  | engineState (die : Die) (fn : Fn) (slot : Fin 32)
  | engineResume (die : Die) (fn : Fn) (slot : Fin 32)
  | engineStandby (die : Die) (fn : Fn) (slot : Fin 32)
  | partCreate (die : Die) (fn : Fn) (slot : Fin 32)
  | partCreateBuild (part : Part)
  | partDestroy (die : Die) (fn : Fn) (slot : Fin 32)
  | partDestroyFinish (part : Part)
  | partQuery (die : Die) (fn : Fn) (slot : Fin 32)
  | partReset (die : Die) (fn : Fn) (slot : Fin 32)
  | planLoad (die : Die) (fn : Fn) (slot : Fin 32)
  | planLoadDone (die : Die) (fn : Fn) (seq : BitVec 16)
  | planUnload (die : Die) (fn : Fn) (slot : Fin 32)
  | planBind (die : Die) (fn : Fn) (slot : Fin 32)
  | planBindDone (die : Die) (fn : Fn) (rep : Reporting (BitVec 16))
  | planVerify (die : Die) (fn : Fn) (slot : Fin 32)
  | planVerifyDone (die : Die) (fn : Fn) (rep : Reporting (BitVec 16))
  | queueConfigQueueSetting (die : Die) (fn : Fn) (slot : Fin 32)
  | queueConfigRuleWrite (die : Die) (fn : Fn) (slot : Fin 32)
  | queueStats (die : Die) (fn : Fn) (slot : Fin 32)
  | testRun (die : Die) (fn : Fn) (slot : Fin 32)
  | testRunStart (part : Part)
  | testDeferTimeout (part : Part)
  | testRunDone (part : Part) (failed : List (Cl × LCore))
  | calRun (die : Die) (fn : Fn) (slot : Fin 32)
  | calRunStart
  | calRunDone (failed : BitVec 4)
  | maintWindowRead (die : Die) (fn : Fn) (slot : Fin 32)
  | maintWindowOpen (die : Die) (fn : Fn) (slot : Fin 32)
  | maintWindowClose (die : Die) (fn : Fn) (slot : Fin 32)
  | maintWindowSetDeferral (die : Die) (fn : Fn) (slot : Fin 32)
  | maintWindowOpened
  | maintWindowExpiry
  | powerPolicyRead (die : Die) (fn : Fn) (slot : Fin 32)
  | powerPolicySet (die : Die) (fn : Fn) (slot : Fin 32)
  | powerIdleQuery (die : Die) (fn : Fn) (slot : Fin 32)
  | powerIdlePark (die : Die) (fn : Fn) (slot : Fin 32)
  | powerIdleUnpark (die : Die) (fn : Fn) (slot : Fin 32)
  | snapTake (die : Die) (fn : Fn) (slot : Fin 32)
  | snapTakeDone (die : Die) (fn : Fn) (seq : BitVec 16) (timeouts : List Cl)
  | snapRestore (die : Die) (fn : Fn) (slot : Fin 32)
  | snapRestoreDone (die : Die) (fn : Fn) (seq : BitVec 16)
  | faultLog (die : Die) (fn : Fn) (rep : Reporting (Fin 32))
  | seize (die : Die) (fn : Fn) (slot : Fin 32)
  | linkStateSummary (die : Die) (fn : Fn) (slot : Fin 32)
  | linkStateDie (die : Die) (fn : Fn) (slot : Fin 32)
  | linkStateSet (die : Die) (fn : Fn) (slot : Fin 32)
  | linkRetime (die : Die) (fn : Fn) (slot : Fin 32)
  | collGroupJoin (die : Die) (fn : Fn) (slot : Fin 32)
  | collGroupLeave (die : Die) (fn : Fn) (slot : Fin 32)
  | collGroupStatus (die : Die) (fn : Fn) (slot : Fin 32)
  | fwUpdateWrite (die : Die) (fn : Fn) (slot : Fin 32) (image : Bytes)
  | fwUpdateWriteDone (readBackA : Bool) (readBackB : Bool)
  | fwUpdateStatus (die : Die) (fn : Fn) (slot : Fin 32)
  | fwActivate (die : Die) (fn : Fn) (slot : Fin 32)
  | fwActivateRestart (fuseOk : Bool)
  | dump (die : Die) (fn : Fn) (slot : Fin 32)
  | dumpDone (doubles : Found (List Nat))
  -- Serving (R252)
  | fetch (die : Die) (fn : Fn) (ring : Fin 7) (desc : Bytes)
  | ready (part : Part) (req : Nat) (input : Bytes)
  | ingressTimeout (part : Part) (req : Nat)
  | start (part : Part)
  | endRun (part : Part)
  | egressComplete (part : Part) (req : Nat) (double : Found (Option Nat))
  | completionWrite (die : Die) (fn : Fn) (ring : Fin 7)
  -- The core (R72 to R86)
  | fireWord (cl : Cl) (core : LCore) (ecc : Ecc)
  | setWord (cl : Cl) (core : LCore) (ecc : Ecc)
  | loop (cl : Cl) (core : LCore) (ecc : Ecc)
  | wait (cl : Cl) (core : LCore) (ecc : Ecc)
  | waitEnd (cl : Cl) (core : LCore)
  | halt (cl : Cl) (core : LCore) (ecc : Ecc)
  | coreHalted (cl : Cl) (core : LCore)
  | holdEnd (cl : Cl) (core : LCore)
  | watchdogTrip (cl : Cl) (core : LCore)
  | accumulatorUpdate (cl : Cl) (core : LCore)
  | gangAccumulatorUpdate (cl : Cl) (k : Fin 16)
  | drainWrite (cl : Cl) (core : LCore)
  | vectorResultWrite (cl : Cl) (core : LCore)
  | scalarResultWrite (cl : Cl) (core : LCore)
  | weightLoadLand (cl : Cl) (core : LCore)
  | scaleLoadLand (cl : Cl) (core : LCore)
  -- The vector and scalar networks (R114 to R121)
  | wordArrival (cl : Cl) (core : LCore) (net : Net) (port : Dir)
  | queueWordDepart (cl : Cl) (core : LCore) (net : Net) (port : Dir)
  | creditReturn (cl : Cl) (core : LCore) (net : Net) (out : Dir)
  -- Slot switches and the strings (R131, R182 to R191)
  | slotSwitch (part : Part)
  | switchCclk (part : Part)
  | reloadComplete (part : Part) (load : Nat)
  | regRead (hdr : Hdr) (reg : StrReg)
  | regWrite (hdr : Hdr) (reg : StrReg) (val : BitVec 64)
  | regReply (hdr : Hdr) (reg : StrReg)
  | slotData (hdr : Hdr) (slot : Fin 4) (first : Nat) (rows : BitVec 16) (cols : BitVec 16) (words : List (BitVec 64))
  | scanCtl (hdr : Hdr)
  | fwMsg (hdr : Hdr)
  | fwUrgent (hdr : Hdr) (msg : Urgent)
  | viol (cl : Cl)
  | noTarget (hdr : Hdr)
  | coreEvent (cl : Cl) (core : LCore)
  | seizeFrame (hdr : Hdr) (kind : BitVec 4) (index : BitVec 16) (tag : BitVec 16)
  | storeData (hdr : Hdr) (place : Fin 16) (first : Nat) (words : List (BitVec 64))
  | stringsReservedFrame (cl : Cl)
  | flitParityError (cl : Cl) (dir : Dir) (resends : Nat) (failed : Bool)
  | scanTimeout (cl : Cl)
  -- HBM, channels and host-die DMA (R57, R272 to R290)
  | channelLineWrite (cl : Cl) (core : LCore)
  | coreToHbmRead (cl : Cl) (core : LCore) (ecc : Ecc)
  | coreToHbmForcedRead (cl : Cl) (core : LCore) (ecc : Ecc)
  | hbmSlotTransfer (part : Part) (rec : Nat) (line : Nat) (ecc : HbmEcc)
  | hbmRefresh (stack : Stack)
  | hbmScrub (line : Nat) (ecc : HbmEcc) (cancelled : Bool)
  | hbmTempRead (stack : Stack) (celsius : Nat)
  | dmaDescriptorFetch (die : Die) (fn : Fn) (desc : Bytes)
  | dmaTransferComplete (die : Die) (fn : Fn) (source : Bytes) (how : Found DmaEnd)
  -- Links (R295 to R325)
  | portUp (ld : LDie) (port : Fin 3) (train : PortTrain)
  | portDown (ld : LDie) (port : Fin 3)
  | glpCycleStart (ld : LDie) (port : Fin 3)
  | dataS (ld : LDie) (port : Fin 3) (cell : Cell)
  | dataB (ld : LDie) (port : Fin 3) (cell : Cell)
  | sync (ld : LDie) (port : Fin 3) (cell : SyncCell)
  | ack (ld : LDie) (port : Fin 3) (high : BitVec 16) (naks : List (BitVec 16)) (free : List Nat)
  | join (ld : LDie) (port : Fin 3) (cell : JoinCell)
  | idle (ld : LDie) (port : Fin 3)
  | cellDiscard (ld : LDie) (port : Fin 3)
  | retransmitTimeout (ld : LDie) (port : Fin 3) (seq : BitVec 16)
  | linkLineRead (part : Part) (group : Fin 8) (rec : Nat) (ecc : Ecc)
  | linkCellSend (ld : LDie) (port : Fin 3) (position : Nat)
  | linkCellRelease (part : Part) (group : Fin 8) (rec : Nat)
  | fullRetime (found : Retime)
  -- Clusters, temperature, regulators (R331 to R357)
  | clusterEntryComplete (cl : Cl)
  | clusterExitComplete (cl : Cl)
  | thermalSensorRead (cl : Cl) (raw0 : Nat) (raw1 : Nat)
  | breathAllowanceUpdate (powerW : Nat)
  | avsCurrentRead (zone : Fin 48) (milliAmps : Nat)
  | pmbusStatusPoll (addr : BitVec 7) (page : BitVec 2) (status : BitVec 16) (vout : Nat) (iout : Nat) (pout : Nat)
  | voltageAckTimeout (zone : Fin 48)
  | powerCapAlarm
  -- Engine states and the brace (R338 to R374)
  | standbyEntry
  | standbyExit
  | wakeTimer
  | linkPartnerDetect (ld : LDie) (port : Fin 3)
  | pfwNAssert
  | pfwNDeassert
  | forcedQuiesceStop
  | commitPoint
  | finishingCutoff
  | braceComplete
  | resumeQuietExpiry
  | e1ExitComplete
  | braceHoldExpiry
  -- Faults, self-test and recovery (R380 to R395)
  | heartbeatSend
  | heartbeatTimeout (cl : Cl)
  | marionetteResetDone (cl : Cl) (passed : Bool)
  | edgeRequestTimeout (edge : Edge)
  | fieldRepair (cl : Cl) (core : LCore)
  | understudyTestStart (cl : Cl) (row : Fin 16)
  | understudyTestEnd (cl : Cl) (row : Fin 16) (passed : Bool)
  | authorityCheckMiss
  -- Reset, boot, JTAG and management (R400 to R440)
  | power48vApplied (boot : BootIn)
  | resetNAssert
  | resetNDeassert (boot : BootIn)
  | firmwareRetry (boot : BootIn)
  | undervoltageLockout
  | refclkLoss
  | refclkReturn (boot : BootIn)
  | extest (drive : TapDrive)
  | idcode (tap : Fin 20) (boot : BootIn)
  | samplePreload (tap : Fin 20) (cells : List Bool) (boot : BootIn)
  | bypass (tap : Fin 20) (boot : BootIn)
  | privateInstruction (tap : Fin 20) (code : BitVec 8) (boot : BootIn)
  | coolantSample (inlet : BitVec 8) (outlet : BitVec 8) (flow : BitVec 16) (millivolts10 : BitVec 16) (deciAmps : BitVec 16)
  | setEndpointId (eid : BitVec 8)
  | getEndpointId
  | getMctpVersionSupport
  | getMessageTypeSupport
  | getVendorDefinedMessageSupport
  | getInfo
  | getStatus
  | mctpUnsupportedCommand (code : BitVec 8)
  | fwReady (die : Die) (fn : Fn)
  | tapReset (tap : Fin 20) (boot : BootIn)
  deriving DecidableEq, Repr

end Sys2Proof
end

