-- ==== Sys2Proof/Decode.lean ====
section
/-!
DEFINITION. The command a word spells by the bits of spec/opcode_table.json. The table gives no row any bits: the
commands are MMIO accesses, mailbox commands, frames, cells, pins and events of the engine, whose operands
`Instr` holds.
-/

namespace Sys2Proof

/-- No word spells a command. -/
def decodeTableWord (_nbits _w : Nat) : Option Instr := none

end Sys2Proof
end

