-- ==== Sys2Proof/Config.lean ====
section
/-!
DEFINITION. What the manual leaves open, as constants with no body: nothing in Lean can evaluate one or
prove a value of it, so a claim that mentions one holds whatever it is. Each is logged in
notes/assumptions (10 to 19).
-/

namespace Sys2Proof.Config

/-- Free value number `n` as a bit: whether a word a stopped layer or an abandoned load would write holds its
new value (R188, R364, R376). Drawn with the model's own counter `State.freeCount`. -/
opaque freeBool : Nat → Bool

/-- Free value number `n` as a byte: output bytes written before a double-bit error (R276), results of a run
whose host broke the placement of R283, pipeline latches of a scan (R192). -/
opaque freeByte : Nat → BitVec 8

/-- The engine's own bound on the worst-case power of a plan image (R179, check 10 of Table 9.14): index 48 is
the total, index n below 48 is field Fn. The manual states no formula for it. -/
opaque powerBound : Bytes → Nat → Nat

/-- Whether a weight load or HBM transfer of the image reads the stored place of a tile its bitmap marks absent
(R157, check 6). The manual relates no tile to a place. -/
opaque absentTileRead : Bytes → Bool

/-- I and E of S bytes at q = 0, a share that only P0 may have: the formula of R15 divides by q. -/
opaque boundAtZeroShare : Nat → Nat

/-- SHA-384 of FIPS 180-4, which the manual names and does not restate (R413). -/
opaque sha384 : Bytes → Bytes

/-- ECDSA P-384 verification of FIPS 186-5 (R413): public key, message, signature. -/
opaque ecdsaP384 : Bytes → Bytes → Bytes → Bool

/-- Keurn's JEDEC JEP106 identity (R421). -/
opaque jep106 : BitVec 11

/-- Keurn's PCI vendor ID (R437). -/
opaque pciVendor : BitVec 16

/-- The MCTP version numbers Get MCTP Version Support returns (R437); the DMTF binding sets them. -/
opaque mctpVersions : Bytes

/-- The vendor-defined numeric value that Get Vendor Defined Message Support returns (R437); the manual states none. -/
opaque mctpVendorSet : BitVec 16

end Sys2Proof.Config
end

