-- ==== Sys2Proof/Machine/Types.lean ====
section
/-!
DEFINITION. The pieces of the machine's state: the core, the cluster, the plan, the request, the partition,
the mailbox window, the link die and the rest, each as plain data. Every map is sparse (`SMap`): a key that is
not listed holds the piece's reset value, which is the default of its structure.
-/

namespace Sys2Proof.Machine

open Sys2Proof

/-- Byte memory: strictly rising addresses, no byte equal to what an unlisted address reads as. -/
abbrev Mem := List Host.Cell

/-! ## The core (spec/03_core.md, spec/05_fabric.md) -/

/-- A word in an input queue (R115, R119). `dests` is none until one destination has taken the word; then it
holds the outputs that have still to take it, and whether the core's receive has. -/
structure QWord where
  data : Bytes
  dests : Option (List Dir × Bool) := none
  deriving DecidableEq, Repr

/-- One input port: its queue, head first, the time from which the head may be taken (R115), and the time at
which a word last left it (R116). -/
structure InPort where
  queue : List QWord := []
  headFrom : Nat := 0
  lastLeave : Option Nat := none
  deriving DecidableEq, Repr

/-- One output: credits taken out of the queue depth (R121), the time it last passed a word on (R115), and one more than
the time at which a word already counted, sent by this core, leaves (R122). -/
structure OutPort where
  used : Nat := 0
  last : Option Nat := none
  ahead : Nat := 0
  deriving DecidableEq, Repr

/-- One network's side of a switch, by direction number 0 N, 1 E, 2 S, 3 W. -/
structure Switch where
  inp : SMap InPort := []
  out : SMap OutPort := []
  deriving DecidableEq, Repr

/-- The cause a held CCLK counts under (R85). -/
inductive HoldKind where
  | range
  | queue
  deriving DecidableEq, Repr

/-- Why a core holds: the word at its program counter (R83, R84), a deferred drain write (R83), a forced
core-to-HBM read (R281) or the freeze of its ganged cluster begun by a core (R149). -/
inductive HoldCause where
  | word
  | drain
  | forced
  | follow (leader : LCore)
  deriving DecidableEq, Repr

/-- A hold in progress: the phase at which it began, the CCLK counted so far, the cause they count under. -/
structure Hold where
  phase : Nat
  count : Nat
  kind : HoldKind
  cause : HoldCause
  deriving DecidableEq, Repr

/-- Work in a core's pipelines. -/
inductive Act where
  /-- Column sums on their way to an accumulator entry (R62). -/
  | mac (entry : Nat) (init : Bool) (sums : List (BitVec 32))
  /-- A converted drain result for byte `offset` of a line index, through port 1 (R65). -/
  | drain (line : Nat) (offset : Nat) (data : Bytes)
  /-- Lanes on their way to a vector register (R67). -/
  | vec (vd : Nat) (lanes : List (Nat × BitVec 32))
  /-- A scalar result (R68). -/
  | sca (sd : Nat) (val : BitVec 32)
  /-- Rows of a weight load (R61). -/
  | wload (rows : List (List (BitVec 16)))
  /-- Entries of a scale load (R64). -/
  | sload (entries : List (BitVec 64))
  deriving DecidableEq, Repr

/-- One piece of pipeline work: the pipeline CCLK at whose end (or in which) it lands, and its issue CCLK. -/
structure Pend where
  due : Nat
  issued : Nat
  act : Act
  deriving DecidableEq, Repr

/-- A configuration slot: step words S, presets n and the slot words (R70). -/
structure Slot where
  steps : Nat := 0
  presets : Nat := 0
  words : SMap (BitVec 64) := []
  deriving DecidableEq, Repr

/-- Where a channel line belongs: line `line` of transfer record `rec` (R280), or lines of link record `rec` of a
group (R312). -/
inductive LineOf where
  | sched (part : Part) (rec : Nat) (line : Nat)
  | link (part : Part) (group : Fin 8) (rec : Nat) (cell : Nat) (line : Nat)
  deriving DecidableEq, Repr

/-- A channel line waiting at a core to be written through port 3 (R57): eligible from, channel (0 to 63 cluster-edge,
64 + d link), its scratchpad address and its data. -/
structure ChanLine where
  eligible : Nat
  chan : Nat
  addr : BitVec 18
  data : Bytes
  line : LineOf
  deriving DecidableEq, Repr

/-- A core (R50). Everything but the slots, the fence and the counters that R85, R88 and R139 keep is reset at
START (R80). Registers are keyed by their SET index of Table 3.12. -/
structure Core where
  /-- In a slot of a run in progress (R71). -/
  active : Bool := false
  slot : Fin 4 := 0
  guarded : Bool := false
  pc : Nat := 0
  /-- The pipeline clock: CCLK since START in which the core did not hold (R84). -/
  pt : Nat := 0
  /-- The pipeline CCLK from which the next word may issue. -/
  nextIssue : Nat := 0
  /-- The free-running counters have made this CCLK's advance: a SET does so with the values it replaces (R76, R78). -/
  counted : Bool := false
  /-- The pipeline CCLK at which a WAIT has expired (R77). -/
  waitEnd : Option Nat := none
  /-- The pipeline CCLK in which HALT issued (R77). -/
  haltAt : Option Nat := none
  halted : Bool := false
  hold : Option Hold := none
  /-- The run ended in a CCLK in which this core's hold had come to its 4,097th: that time, and the hold's cause (R86). -/
  late : Option (Nat × HoldKind) := none
  ue : Bool := false
  wdog : Bool := false
  /-- K of the eight counters (R78). -/
  k : SMap (BitVec 20) := []
  regs : SMap (BitVec 40) := []
  /-- The time of the SET that last armed each range (R82), and one more than that of the write that last took its count
  to zero: a write commits at the end of its CCLK (R54). -/
  armed : SMap Nat := []
  cleared : SMap Nat := []
  preset : Nat := 0
  /-- The preset in force from the next CCLK (R73). -/
  presetNext : Nat := 0
  /-- The SLOT_SWITCH received and not yet acted on: slot, guarded mode, low 48 bits of the switch CCLK (R81, R184). -/
  cmd : Option (Fin 4 × Bool × BitVec 48) := none
  /-- V registers: lane j of register v at 32 v + j (R66). -/
  vreg : SMap (BitVec 32) := []
  sreg : SMap (BitVec 32) := []
  /-- Lane j of accumulator entry a at 32 a + j (R62). -/
  acc : SMap (BitVec 32) := []
  /-- Element i of stored row j at 32 j + i, 8-bit elements as expanded (R60, Table 7.4). -/
  active_w : SMap (BitVec 16) := []
  shadow_w : SMap (BitVec 16) := []
  wfill : Nat := 0
  /-- The scale table's entries as loaded (R64). -/
  scale : SMap (BitVec 64) := []
  sfill : Nat := 0
  pipe : List Pend := []
  vec : Switch := {}
  sca : Switch := {}
  /-- Channel lines waiting for port 3, and the time a step word last claimed it (R57). -/
  chan : List ChanLine := []
  port3 : Option Nat := none
  /-- Channel lines of the tick named, link channels included: at most 8 in a tick (R278, R305). -/
  lineTick : Nat := 0
  lineCount : Nat := 0
  slipRange : BitVec 32 := 0
  slipQueue : BitVec 32 := 0
  slipHolds : BitVec 32 := 0
  eccCe : BitVec 16 := 0
  eccUe : BitVec 19 := 0
  fence : BitVec 4 := 0b1111#4
  /-- CO_QMAX: vector ports at 0 to 3, scalar ports at 4 to 7 (Table 5.9). -/
  qmax : SMap Nat := []
  slots : SMap Slot := []
  deriving DecidableEq, Repr

/-- A strings frame for cores of a cluster, with what it carries (R131, R184, R186). -/
inductive CoreFrame where
  | regRead (reg : StrReg)
  | regWrite (reg : StrReg) (val : BitVec 64)
  | slotData (slot : Fin 4) (first : Nat) (rows : BitVec 16) (cols : BitVec 16) (words : List (BitVec 64))
  | slotSwitch (flits : List (BitVec 16))
  /-- A frame of a type that means nothing to a core. -/
  | other
  deriving DecidableEq, Repr

/-- A word between two switches (R114), by physical core and the port it arrives at. -/
structure Flight where
  net : Net
  cl : Cl
  core : PCore
  port : Dir
  time : Nat
  data : Bytes
  deriving DecidableEq, Repr

/-- A credit on its way back to an output, usable from `time` (R121). -/
structure Credit where
  net : Net
  cl : Cl
  core : PCore
  out : Dir
  time : Nat
  deriving DecidableEq, Repr

/-! ## Clusters (spec/02_wafer_geography.md, spec/13_clocks_and_power_states.md) -/

/-- Cluster states (Table 13.1). -/
inductive CState where
  | c0
  | c1
  | c2
  | c3
  deriving DecidableEq, Repr

/-- A change of cluster state in progress: an entry, with the exit a wake has latched meanwhile (R344, R345), or
an exit. -/
inductive Trans where
  | enter (aim : CState) (wake : Option CState)
  | exit (aim : CState)
  deriving DecidableEq, Repr

/-- A gang step in flight (R143, R144): the gang clock of its issue, its accumulator entry and mac_init, the
CO_ARR_CFG in force, the activation vector of each row, the tiles already swapped out from under it (R146), by
16 r + k, and the columns whose update has landed. -/
structure GangStep where
  issued : Nat
  entry : Nat
  init : Bool
  cfg : BitVec 40
  rows : SMap (List (BitVec 16))
  tiles : SMap (SMap (BitVec 16))
  done : List Nat
  deriving DecidableEq, Repr

/-- A place of a cluster's image store (R175): the plan that owns it, its image index, and the image. -/
structure Place where
  part : Part
  handle : Nat
  image : Nat
  slot : Slot
  deriving DecidableEq, Repr

/-- A cluster. The repair map is kept as its fields of Table 2.4. -/
structure Cluster where
  power : CState := .c3
  trans : Option Trans := none
  /-- Held in C3 by a thermal trip (R351) or by its zone's regulator (R349). -/
  tripped : Bool := false
  zoneHeld : Bool := false
  /-- Readings of its two thermal sensors, in 0.25 °C (R351, R416). -/
  t0 : Nat := 0
  t1 : Nat := 0
  /-- Calibration of the two thermal sensors done since boot (R351, R393). -/
  calibrated : Bool := false
  retired : Bool := false
  fieldRow : BitVec 16 := 0
  spareBad : BitVec 16 := 0
  /-- Omitted column of each row XOR 8, so that an unlisted row is unrepaired (R38, R416). -/
  omitXor : SMap (BitVec 5) := []
  /-- The slot the cluster runs is ganged (R140). -/
  ganged : Bool := false
  gangPt : Nat := 0
  gang : List GangStep := []
  -- the strings node (R139)
  assigned : Bool := false
  partition : Part := 0
  /-- Links whose mesh_en bit a failure has cleared (R136). -/
  linksOff : BitVec 4 := 0
  dropCount : BitVec 16 := 0
  parityCount : BitVec 16 := 0
  violCount : BitVec 32 := 0
  /-- Violations not yet sent to the host dies (R129, R212). -/
  violUnsent : Nat := 0
  scanBypass : Bool := false
  /-- A scan in progress, and when it began (R191). -/
  scanning : Bool := false
  scanAt : Nat := 0
  /-- The Marionette is out of service: its self-test has failed (R43, R48, R384). -/
  marOut : Bool := false
  /-- Frames for cores that wait at the row nodes until the cluster is in C0, oldest first (R344). -/
  rowWait : List (Hdr × CoreFrame) := []
  store : SMap Place := []
  /-- Words that STORE_DATA frames have brought to places no loaded plan owns, word w of place p at 512 p + w (R177). -/
  fill : SMap (BitVec 64) := []
  /-- Logical cores whose CORE_EVENT with halted has reached the Marionette in this layer, and the time at which the
  cluster's last core halted (R182). -/
  haltSeen : List LCore := []
  lastHalt : Nat := 0
  /-- Heartbeats missed in a row, the time of an unanswered one, and a reset in progress (R384). -/
  missed : Nat := 0
  beatAt : Option Nat := none
  resetting : Bool := false
  /-- The row under background test, the rows whose last completed test failed, and the ET of each pass (R387). -/
  testRow : Option (Fin 16) := none
  testAt : Nat := 0
  lastFailed : BitVec 16 := 0
  passEt : SMap (BitVec 64) := []
  /-- One more than the time of the last double-bit error of each physical core (R385). -/
  doubleAt : SMap Nat := []
  /-- Lines of the link channel of a link die, by its number, in the tick named first (R305). -/
  linkUse : SMap (Nat × Nat) := []
  deriving DecidableEq, Repr

/-! ## Plans (spec/07_plans_and_scan.md, spec/11_memory_and_dma.md) -/

/-- A slot image record (R169). -/
structure SlotImage where
  steps : Nat
  presets : Nat
  words : List (BitVec 64)
  deriving DecidableEq, Repr

/-- A layer record (R170). -/
structure Layer where
  slot : Fin 4
  guarded : Bool
  load : Option Nat
  len : Nat
  deriving DecidableEq, Repr

/-- An assignment of a load record (R171). -/
structure Assign where
  rows : BitVec 16
  cols : BitVec 16
  image : Nat
  valid : Bool
  deriving DecidableEq, Repr

/-- A cluster block of a load record (R171). -/
structure Block where
  gang : Bool
  assigns : List Assign
  deriving DecidableEq, Repr

/-- A load record (R171). -/
structure Load where
  slot : Fin 4
  resident : Bool
  blocks : List Block
  deriving DecidableEq, Repr

/-- An entry record (R172). -/
structure Entry where
  first : Nat
  count : Nat
  sIn : Nat
  sOut : Nat
  n : Nat
  inOff : Nat
  outOff : Nat
  deriving DecidableEq, Repr

/-- A transfer record (R280): kind 1 HBM to core, 2 core to HBM; area 0 fixed, 1 input, 2 output. -/
structure Transfer where
  layer : Nat
  kind : Nat
  area : Nat
  start : Nat
  count : Nat
  period : Nat
  channel : Nat
  hbm : Nat
  cluster : Nat
  core : Nat
  spad : BitVec 18
  deriving DecidableEq, Repr

/-- A sparsity bitmap record (R156, R168): layer, To, Ti and the number of present tiles. -/
structure Bitmap where
  layer : Nat
  tilesO : Nat
  tilesI : Nat
  present : Nat
  deriving DecidableEq, Repr

/-- A parsed plan image (R166). -/
structure Plan where
  elastic : Bool := false
  planId : BitVec 64 := 0
  x0 : Nat := 0
  y0 : Nat := 0
  w : Nat := 0
  h : Nat := 0
  powerW : Nat := 0
  fieldPower : List Nat := []
  images : List SlotImage := []
  layers : List Layer := []
  loads : List Load := []
  entries : List Entry := []
  sched : List Transfer := []
  bitmaps : List Bitmap := []
  scales : List (BitVec 64) := []
  /-- Partition-relative offset of section 6 (R168). -/
  scaleOff : Nat := 0
  deriving DecidableEq, Repr

/-- A loaded plan (R174 to R181): its image range, its mark of verification, and I and E of each entry once
bound (R15). -/
structure Loaded where
  off : Nat := 0
  len : Nat := 0
  plan : Plan := {}
  image : Bytes := []
  verified : Bool := false
  bounds : List (Nat × Nat) := []
  deriving DecidableEq, Repr

/-! ## Requests and runs (spec/01_timing_contract.md, spec/10_serving_requests.md) -/

/-- The five timing flags of Table 1.1. -/
structure Flags where
  slip : Bool := false
  breath : Bool := false
  elastic : Bool := false
  linkRetry : Bool := false
  retimed : Bool := false
  deriving DecidableEq, Repr

/-- A completion waiting to be written to its ring (R258): the status, flags and reason decided, the request it
closes, and whether its DONE frees a queue place. -/
structure Compl where
  ring : Fin 7
  tag : BitVec 32
  fetch : BitVec 64
  ready : Option (BitVec 64) := none
  start : Option (BitVec 64) := none
  endAt : Option (BitVec 64) := none
  status : BitVec 8
  flags : Flags := {}
  reason : BitVec 8 := 0
  part : Part
  /-- The request was admitted, and is DONE once this is written (R270). -/
  admitted : Bool := false
  /-- The admitted request that this completes, while it still holds its queue place (R265). -/
  req : Option Nat := none
  /-- The request finished under a brace (R363). -/
  finishing : Bool := false
  /-- E, P, PROMISE and the deadline of an admitted request, for R27 and R28. -/
  bounds : Option (Nat × Nat × Nat × Nat) := none
  deriving DecidableEq, Repr

/-- The stage of an admitted request: waiting for READY, ready, running, in egress, or with its completion
decided and not yet written. -/
inductive Stage where
  | ingress
  | ready
  | running
  | egress
  | closing
  deriving DecidableEq, Repr

/-- An admitted request (R265, R266). -/
structure Request where
  id : Nat
  die : Die
  fn : Fn
  ring : Fin 7
  tag : BitVec 32
  entry : Nat
  prio : Nat
  deadline : Nat
  inLen : Nat
  outAddr : Nat
  outLen : Nat
  fetch : Nat
  p : Nat
  b : Nat
  i : Nat
  e : Nat
  /-- e*: the promised END (R266). -/
  promisedEnd : Nat
  promise : Nat
  pair : Nat
  /-- Partition-relative offsets of its input and output buffers (R263). -/
  inBase : Nat
  outBase : Nat
  stage : Stage := .ingress
  readyAt : Option (BitVec 64) := none
  startAt : Option (BitVec 64) := none
  endAt : Option (BitVec 64) := none
  flags : Flags := {}
  /-- The records of the window are discarded (R221, R256). -/
  discard : Bool := false
  /-- It finishes under a brace (R361). -/
  finishing : Bool := false
  /-- The run ahead ended after its promised END: when it ended, and the flags it carried (R22). -/
  delay : Option (Nat × Flags) := none
  deriving DecidableEq, Repr

/-- A slot switch decided at a layer end (R182): the next layer, the time of its word 0, and the payload of the SLOT_SWITCH
frame that tells it (R184); `sent` once the frame has gone out. -/
structure SwitchTo where
  layer : Nat
  time : Nat
  flits : List (BitVec 16)
  sent : Bool := false
  deriving DecidableEq, Repr

/-- Why a run stops at the end of its layer, and since when: τ = 0 of the brace or of the quiesce (R364, R394). -/
inductive Stop where
  | brace (since : Nat)
  | cal (since : Nat)
  deriving DecidableEq, Repr

/-- Progress of a link record in its layer (R314, R316): cells done, lines of the present cell read, and the data
of its local lines. -/
structure LinkProg where
  cell : Nat := 0
  lines : List (Nat × Bytes) := []
  /-- Cells handed to the port and not yet sent. -/
  queued : Nat := 0
  /-- Lines still to be written through port 3. -/
  writing : Nat := 0
  deriving DecidableEq, Repr

/-- A run of an entry in progress (R71). Times are of `State.now`. -/
structure Run where
  req : Nat
  handle : Nat
  entry : Nat
  /-- Index in the layer table. -/
  layer : Nat
  /-- Time of the layer's word 0. -/
  layerAt : Nat
  layerEnd : Option Nat := none
  /-- Every core has halted, and link records still delay the layer's end since then (R316); when they were done. -/
  haltedAt : Option Nat := none
  linkEnd : Nat := 0
  switch : Option SwitchTo := none
  /-- Halt reports that have reached the leader: the time of the last halt of each cluster (R182). -/
  reports : SMap Nat := []
  /-- Breath spent, in ticks, and the end of a breath in progress (R354). -/
  spent : Nat := 0
  breathing : Option Nat := none
  /-- CCLK in which some core of the partition held (R266). -/
  held : Nat := 0
  flags : Flags := {}
  /-- Run loads in progress or complete: load index, and whether its words have all landed (R188). -/
  loads : List (Nat × Bool) := []
  /-- Lines of each transfer record that have used their slot in this layer (R281). -/
  moved : SMap Nat := []
  /-- Core-to-HBM lines read and waiting for their slot. -/
  readLines : List (Nat × Nat × Bytes) := []
  /-- Progress of link record r of group g, at 4096 g + r (R314). -/
  links : SMap LinkProg := []
  stop : Option Stop := none
  /-- A watchdog has tripped in this CCLK: the run ends with DEADLOCK at its end (R86). -/
  deadlock : Bool := false
  /-- A finishing run of a brace or a forced quiesce (R361, R394). -/
  finishing : Bool := false
  deriving DecidableEq, Repr

/-! ## Partitions (spec/08_partitions.md) -/

/-- The partition record (Table 8.1). -/
structure PartRec where
  attr : BitVec 8 := 0
  hostMask : BitVec 8 := 0
  linkShare : Nat := 0
  x0 : Nat := 0
  y0 : Nat := 0
  w : Nat := 0
  h : Nat := 0
  q : Nat := 0
  rcCount : Nat := 0
  rules : Nat := 0
  granules : List Nat := []
  deriving DecidableEq, Repr

/-- The life of a partition (R198, R207, R216). -/
inductive Life where
  | none
  | building
  | live
  deriving DecidableEq, Repr

/-- A queue setting (R263, R270): D, s_in, s_out and the staging offset. -/
structure QueueCfg where
  d : Nat
  sIn : Nat
  sOut : Nat
  off : Nat
  deriving DecidableEq, Repr

/-- The counts of Table 10.6. -/
structure Stats where
  admitted : Nat := 0
  kept : Nat := 0
  shedDeadline : Nat := 0
  shedBound : Nat := 0
  shedUnmatched : Nat := 0
  shedOther : Nat := 0
  retry : Nat := 0
  faulted : Nat := 0
  aborted : Nat := 0
  flagged : Nat := 0
  most : Nat := 0
  deriving DecidableEq, Repr

/-- Park status (R335). -/
inductive Park where
  | serving
  | parking
  | parked
  | unparking
  deriving DecidableEq, Repr

/-- A self-test asked for (R389): deferred since a time, or running since a time. -/
inductive Test where
  | deferred (since : Nat) (level : Nat)
  | running (since : Nat) (level : Nat)
  deriving DecidableEq, Repr

/-- A link record (Table 12.4). -/
structure LinkRec where
  layer : Nat
  op : Nat
  bulk : Bool
  start : Nat
  due : Nat
  count : Nat
  period : Nat
  die : Nat
  inPort : Nat
  outPort : Nat
  context : Nat
  stream : Nat
  cluster : Nat
  core : Nat
  fmt : BitVec 4
  spad : BitVec 18
  deriving DecidableEq, Repr

/-- A port entry of a group record (R312) and whether the group is joined on it (R318). -/
structure GroupPort where
  die : Nat
  port : Nat
  partner : Nat
  joined : Bool := false
  /-- The group's number at the partner, as its JOIN gave it (R301). -/
  theirs : Fin 8 := 0
  /-- JOINs that have come for the entry since the last one sent for it (R318). -/
  heard : Nat := 0
  deriving DecidableEq, Repr

/-- A collective group of a partition (R312). -/
structure Group where
  token : BitVec 64
  planId : BitVec 64
  mask : BitVec 64
  members : Nat
  position : Nat
  ports : List GroupPort
  recs : List LinkRec
  deriving DecidableEq, Repr

/-- What a PART.DESTROY gives back at its end (R216): the record, rule indices by host die, contexts by link die. -/
structure Leave where
  cfg : PartRec
  ruleIdx : SMap (List Nat)
  ctxIdx : SMap (List Nat)
  deriving DecidableEq, Repr

/-- A partition. -/
structure PartState where
  life : Life := .none
  cfg : PartRec := {}
  /-- Classifier rule indices by host die, and reduction contexts by link die (R205). -/
  ruleIdx : SMap (List Nat) := []
  ctxIdx : SMap (List Nat) := []
  plans : SMap Loaded := []
  bound : Option Nat := none
  /-- The queue setting in force, once QUEUE.CONFIG has given one (R263, R270). -/
  qcfg : Option QueueCfg := none
  changeover : Bool := false
  /-- The tick and host die of the latest FETCH (R265). -/
  lastFetch : Option (Nat × Nat) := none
  queue : List Request := []
  run : Option Run := none
  stats : Stats := {}
  braced : Bool := false
  park : Park := .serving
  parkTo : CState := .c1
  recovering : Bool := false
  test : Option Test := none
  /-- A PART.RESET waiting for recovery to end: its mode (R396). -/
  resetWait : Option Bool := none
  /-- Fetching is stopped until every cluster is back in C1 (R377, R390, R396). -/
  fetchHold : Bool := false
  /-- What PART.DESTROYs that have taken steps 1 to 4 have still to give back, oldest first (R216). -/
  leaving : List Leave := []
  groups : SMap Group := []
  deriving DecidableEq, Repr

/-! ## Mailboxes and rings (spec/09_mailboxes_and_commands.md, spec/10_serving_requests.md) -/

/-- An outbound message (Table 9.6). -/
structure Msg where
  seq : BitVec 16
  command : BitVec 8
  final : Bool
  event : Bool
  status : BitVec 8
  payload : Bytes
  deriving DecidableEq, Repr

/-- An MSI-X vector: an outstanding signal (R234), its pending bit, and how many times it was signalled. -/
structure Vector8 where
  outstanding : Bool := false
  pending : Bool := false
  sent : Nat := 0
  deriving DecidableEq, Repr

/-- A ring pair's registers (Table 10.1). -/
structure Ring where
  sqBase : BitVec 64 := 0
  cqBase : BitVec 64 := 0
  enable : Bool := false
  cqLog2 : BitVec 4 := 0
  sqLog2 : BitVec 4 := 0
  irqEn : Bool := false
  cfgErr : Bool := false
  ptrErr : Bool := false
  sqTail : BitVec 16 := 0
  sqHead : BitVec 16 := 0
  cqTail : BitVec 16 := 0
  cqHead : BitVec 16 := 0
  /-- Requests fetched from the ring and not yet DONE (R256). -/
  openReqs : Nat := 0
  deriving DecidableEq, Repr

/-- A descriptor DMA transfer in progress (R289). -/
structure DmaJob where
  index : BitVec 16
  tag : BitVec 32
  kind : Nat
  length : Nat
  src : Nat
  dst : Nat
  deriving DecidableEq, Repr

/-- The descriptor DMA queue (Table 11.4). -/
structure DmaQueue where
  base : BitVec 64 := 0
  enable : Bool := false
  sizeLog2 : BitVec 4 := 0
  cfgErr : Bool := false
  ptrErr : Bool := false
  tail : BitVec 16 := 0
  head : BitVec 16 := 0
  done : BitVec 16 := 0
  job : Option DmaJob := none
  deriving DecidableEq, Repr

/-- The window of a function on a host die, with its BAR2 (R219, R287). -/
structure Window where
  fwReady : Bool := false
  dbErr : Bool := false
  busy : BitVec 32 := 0
  /-- The busy slots in the order in which they are taken (R218, R223). -/
  rung : List Nat := []
  outTail : BitVec 16 := 0
  outAck : BitVec 16 := 0
  /-- HD_MB_VERSION (its major resets to gmp_major: kept XOR 1). -/
  majorXor : BitVec 8 := 0
  minor : BitVec 8 := 0
  /-- The bytes of the inbound and outbound slots. -/
  inSlots : SMap Byte := []
  outSlots : SMap Byte := []
  /-- The MSI-X table, byte b XOR its PCI Express reset value. -/
  msixXor : SMap Byte := []
  vectors : SMap Vector8 := []
  /-- Outbound messages not yet written (R226). -/
  outQ : List Msg := []
  rings : SMap Ring := []
  /-- Completions not yet written, oldest first (R259). -/
  compl : List Compl := []
  /-- R12, by BAR and offset: one more than the upper half held by a read, or than the lower half held by a write. -/
  readHeld : SMap Nat := []
  writeHeld : SMap Nat := []
  dma : DmaQueue := {}
  deriving DecidableEq, Repr

/-- A long command that has not sent its final message (R230): its window, seq, code, the partition whose
window sent it, the partition it names, and its payload. -/
structure LongCmd where
  die : Die
  fn : Fn
  seq : BitVec 16
  code : BitVec 8
  sender : Part
  part : Part
  payload : Bytes
  /-- Its window was reset: the final message is discarded (Table 9.16). -/
  discard : Bool := false
  /-- A repair map of its partition changed while it ran (R180). -/
  stale : Bool := false
  deriving DecidableEq, Repr

/-! ## Links (spec/12_links_collectives_time.md) -/

/-- A data cell kept until an ACK covers it (R302): its class, the cycles since it was sent, and whether it waits to
be sent again. -/
structure SentCell where
  cell : Cell
  bulk : Bool
  age : Nat := 0
  again : Bool := false
  deriving DecidableEq, Repr

/-- A data cell received and held (R314), with its class. -/
structure RxCell where
  cell : Cell
  bulk : Bool
  deriving DecidableEq, Repr

/-- A data cell waiting to leave (R314): not before a time, with its record. -/
structure OutCell where
  cell : Cell
  bulk : Bool
  since : Nat
  recNo : Nat
  deriving DecidableEq, Repr

/-- A port of a link die (R323, Table 12.6). -/
structure Port where
  up : Bool := false
  /-- Came up at least once since boot (R309). -/
  everUp : Bool := false
  partnerSerial : BitVec 64 := 0
  partnerDie : BitVec 8 := 0
  partnerPort : BitVec 8 := 0
  delay : BitVec 12 := 0
  /-- θ at its full width; Table 12.6 shows its low 16 bits. -/
  offset : BitVec 64 := 0
  upstream : Bool := false
  retx : BitVec 32 := 0
  /-- FEC codewords corrected: counted by the IEEE 802.3 layer, which this manual does not restate. -/
  fecCorrected : BitVec 32 := 0
  discarded : Nat := 0
  nextSeq : BitVec 16 := 0
  /-- Highest seq received in order, and the cells to name in the next NAK list. -/
  high : Option (BitVec 16) := none
  nak : List (BitVec 16) := []
  /-- Seqs received out of order, beyond `high` (R302). -/
  ahead : List (BitVec 16) := []
  lastSync : BitVec 64 := 0
  /-- The SYNC of the partner last received. -/
  partner : Option SyncCell := none
  /-- Cycles begun since the port came up, and the control cell of the present cycle: type code (Table 12.3). -/
  cycles : Nat := 0
  control : BitVec 8 := 0
  /-- Positions of the present cycle already used. -/
  used : List Nat := []
  /-- Free buffer cells the partner reports for each partition. -/
  free : List Nat := []
  sent : List SentCell := []
  outQ : List OutCell := []
  /-- Cells received and held (R314). -/
  held : List RxCell := []
  /-- Positions each partition owns on the port (R303), and joins waiting to be sent. -/
  owned : SMap (List Nat) := []
  joins : List (Part × Fin 8) := []
  /-- The partition last served in a free position (R304). -/
  turn : Nat := 15
  /-- The cell last sent, as its 288 bytes (Table 12.2): what goes out on the cable. -/
  tx : Bytes := []
  deriving DecidableEq, Repr

/-- A reduction context's registers (Table 12.6). -/
structure Context where
  stream : BitVec 12 := 0
  partition : Part := 0
  fmt : BitVec 4 := 0
  op : BitVec 3 := 0
  busy : Bool := false
  next : BitVec 32 := 0
  deriving DecidableEq, Repr

/-- A link die: port mode less 1 (a new module's mode is 1, R323), its ports and its reduction contexts. -/
structure LinkDie where
  modeLess1 : Nat := 0
  ports : SMap Port := []
  contexts : SMap Context := []
  deriving DecidableEq, Repr

/-! ## Power, brace, maintenance, faults, boot (spec/13 to spec/17) -/

/-- Engine states (Table 13.3); E3 is `Supply.off`. -/
inductive EState where
  | e0
  | e1
  | e2
  | resuming
  | booting
  deriving DecidableEq, Repr

/-- Whether the engine has supply and is out of reset, and how far a boot has come: no 48 V (E3), RESET_N held (or
what acts as it), no valid firmware image found (R414), waiting at the end of step 4 for PFW_N (R406), or up. -/
inductive Supply where
  | off
  | reset
  | noImage
  | waitQuiet
  | up
  deriving DecidableEq, Repr

/-- Which clock advances ET (R342, R403): none before boot step 6, TCLK, or the always-on domain. -/
inductive EtClock where
  | held
  | tclk
  | alwaysOn
  deriving DecidableEq, Repr

/-- A brace (R360 to R373): the time and ET of τ = 0, whether it is abortable, past its commit point, complete, and
whether an exit from E1 has begun. -/
structure Brace where
  time : Nat
  et : BitVec 64
  abortable : Bool
  committed : Bool := false
  complete : Bool := false
  exiting : Bool := false
  deriving DecidableEq, Repr

/-- The maintenance window (R391, R392). -/
inductive Maint where
  | closed
  | opening (ms : Nat)
  | opened (untilTime : Nat)
  | closing
  deriving DecidableEq, Repr

/-- A CAL.RUN in progress (R393, R394): kinds, whether it quiesces by force, the quiesce's start and ET, whether its
calibrations run, and whether the re-trim has written the voltages, with every cluster in C3 (R349). -/
structure Cal where
  kinds : BitVec 4
  forced : Bool
  time : Nat
  running : Bool := false
  written : Bool := false
  deriving DecidableEq, Repr

/-- The power policy (R355). -/
structure Policy where
  capW : Nat := 23000
  fMax : Nat := 256
  tBreath : Nat := 90
  braceHold : Nat := 30000
  resumeQuiet : Nat := 20
  deriving DecidableEq, Repr

/-- A VCORE zone (R349): its trim code XOR 12 (a fuse code; 12 is 0.72 V), a voltage write that waits for its
report (time and tries), whether its clusters are held in C3, and its current in mA. -/
structure Zone where
  codeXor : BitVec 5 := 0
  await : Option (Nat × Nat) := none
  held : Bool := false
  milliAmps : Nat := 0
  deriving DecidableEq, Repr

/-- The limits last written to a regulator output, as the fuses give them (Table 16.5), its status and its telemetry (R348).
Puppeteer 7's copy of every limit and voltage (R350) never differs from what was written. -/
structure Rail where
  limits : BitVec 16 := 0
  status : BitVec 16 := 0
  vout : Nat := 0
  iout : Nat := 0
  pout : Nat := 0
  deriving DecidableEq, Repr

/-- The clocks and rails that change with the engine state (R330, R340). -/
structure Rails where
  core : Bool := false
  host : Bool := false
  hbmSelfRefresh : Bool := false
  hbmTrained : Bool := false
  pll : Bool := false
  puppeteersOnKclk : Bool := false
  cclk : Bool := false
  deriving DecidableEq, Repr

/-- An HBM stack: its temperature (R272, R275) and its counted single-bit errors (R276). -/
structure HbmStack where
  celsius : Nat := 0
  corrected : Nat := 0
  /-- One more than the time of its last 0x0103 record, and the errors counted since (Table 15.5). -/
  logAt : Nat := 0
  since : Nat := 0
  deriving DecidableEq, Repr

/-- A fault record (Table 15.4). -/
structure FaultRec where
  et : BitVec 64
  seq : Nat
  code : BitVec 16
  part : BitVec 8
  cluster : BitVec 16
  core : BitVec 16
  die : BitVec 8
  puppeteer : BitVec 8
  detail : BitVec 64
  deriving DecidableEq, Repr

/-- A firmware image (R412): the header fields that R413, R419 and R420 read, whether checks 1 to 4 of R413 but for revocation
hold of its bytes, and the bytes. -/
structure FwImage where
  key : Fin 2
  build : BitVec 32
  gmpMajor : BitVec 8
  gmpMinor : BitVec 8
  rollback : Nat
  revoke : Bool
  authentic : Bool
  bytes : Bytes
  deriving DecidableEq, Repr

/-- A directory copy that is valid (R409). -/
structure Directory where
  active : Fin 2
  generation : BitVec 32
  deriving DecidableEq, Repr

/-- A valid link settings record (R411). -/
structure LinkSettings where
  generation : BitVec 32
  modes : List Nat
  timePri : BitVec 8
  g : Nat
  deriving DecidableEq, Repr

/-- One SPI NOR flash device (R407, R408): its bytes XOR 0xFF, so that an unlisted byte is erased, and the images that the
factory has left in its slots, whose bytes the manual does not state; a slot that is written holds its bytes alone. -/
structure Flash where
  mem : Mem := []
  slot0 : Option FwImage := none
  slot1 : Option FwImage := none
  deriving DecidableEq, Repr

/-- A device as the factory delivers it (notes/assumptions/3.md): directory copy 0 names slot 0 with generation 1, slot 0 holds
an image, and the rest is erased. -/
def Flash.delivered : Flash :=
  { mem := [(0, 0xb4), (1, 0xbb), (2, 0xb6), (3, 0xad), (4, 0xff), (5, 0xff), (6, 0xff), (7, 0xff),
            (8, 0xfe), (9, 0xff), (10, 0xff), (11, 0xff), (12, 0xce), (13, 0xcf), (14, 0xe7), (15, 0x6c)]
    slot0 := some { key := 0, build := 0x01000000, gmpMajor := 1, gmpMinor := 0, rollback := 0, revoke := false, authentic := true, bytes := [] } }

/-- The fuses (R415, R416), each bit the OR of its two copies. `trim` and `repair` are kept as blown XOR the value of an
unlisted zone or row. -/
structure Fuses where
  serial : BitVec 64 := 0
  part : BitVec 16 := 0x1200
  stepping : BitVec 8 := 0xB1
  debugOff : Bool := true
  keyRevoke : BitVec 2 := 0
  rollback : BitVec 64 := 0
  railLimit : BitVec 128 := 0
  key0Hash : BitVec 384 := 0
  key1Hash : BitVec 384 := 0
  /-- Zone z's VCORE trim code XOR 12. -/
  trimXor : SMap (BitVec 5) := []
  /-- Row r of cluster c at 16 c + r: f_r, so that the fuse value is f_r XOR 8. -/
  repair : SMap (BitVec 5) := []
  /-- Trims of thermal sensors 0 and 1 of cluster c at 2 c and 2 c + 1. -/
  sensorTrim : SMap (BitVec 6) := []
  deriving DecidableEq, Repr

/-- A firmware update or activation in progress (R419, R420). -/
inductive FwJob where
  | write (slot : Fin 2) (image : FwImage)
  | activate (slot : Fin 2) (commit : Bool)
  deriving DecidableEq, Repr

/-- The firmware that runs: build, GMP version, and the candidate of R414 that booted. -/
structure Firmware where
  build : BitVec 32 := 0
  gmpMajor : BitVec 8 := 1
  gmpMinor : BitVec 8 := 0
  candidate : Nat := 0
  deriving DecidableEq, Repr

/-- What the carrier measures (R427, Table 17.6). -/
structure Carrier where
  inlet : BitVec 8 := 0
  outlet : BitVec 8 := 0
  flow : BitVec 16 := 0
  volts : BitVec 16 := 0
  amps : BitVec 16 := 0
  deriving DecidableEq, Repr

/-- The MCTP endpoint: its endpoint ID, its address straps, and the body of the last response sent (R437, R438). -/
structure Mctp where
  eid : BitVec 8 := 0
  straps : BitVec 3 := 0
  response : Option Bytes := none
  deriving DecidableEq, Repr

/-- A dump in progress (R293). -/
structure DumpJob where
  die : Die
  fn : Fn
  seq : BitVec 16
  granules : List Nat
  dies : List Die
  addrs : List Nat
  deriving DecidableEq, Repr

end Sys2Proof.Machine
end

