-- ==== Sys2Proof/Machine/Mem.lean ====
section
/-!
DEFINITION. Sparse maps and byte memories: reading, writing in the one canonical form, and the little-endian
byte order of every structure the host sees (spec/00_scope.md R8).
-/

namespace Sys2Proof.Machine

open Sys2Proof

/-! ## Sparse maps -/

/-- What a map lists at `k`. -/
def sfind? {α : Type} (m : SMap α) (k : Nat) : Option α :=
  match m with
  | [] => none
  | (j, v) :: r => if j = k then some v else sfind? r k

/-- What a map holds at `k`, where an unlisted number holds `d`. -/
def sget {α : Type} (d : α) (m : SMap α) (k : Nat) : α := (sfind? m k).getD d

/-- The map without an entry at `k`. -/
def sdel {α : Type} (k : Nat) (m : SMap α) : SMap α :=
  match m with
  | [] => []
  | (j, v) :: r => if j = k then sdel k r else (j, v) :: sdel k r

/-- The map with entry `v` listed at `k`, in rising order. -/
def sins {α : Type} (k : Nat) (v : α) (m : SMap α) : SMap α :=
  match m with
  | [] => [(k, v)]
  | (j, w) :: r =>
    if k < j then (k, v) :: (j, w) :: r else if k = j then (k, v) :: r else (j, w) :: sins k v r

/-- Writing `v` at `k`: the entry goes when `v` is what an unlisted number holds. -/
def sput {α : Type} [DecidableEq α] (d : α) (k : Nat) (v : α) (m : SMap α) : SMap α :=
  if v = d then sdel k m else sins k v m

/-- Changing what the map holds at `k`. -/
def smod {α : Type} [DecidableEq α] (d : α) (k : Nat) (f : α → α) (m : SMap α) : SMap α :=
  sput d k (f (sget d m k)) m

/-- Writing several entries, in order. -/
def sputAll {α : Type} [DecidableEq α] (d : α) (kv : List (Nat × α)) (m : SMap α) : SMap α :=
  match kv with
  | [] => m
  | (k, v) :: r => sputAll d r (sput d k v m)

/-- Changing every listed entry, dropping those that become what an unlisted number holds. -/
def smapAll {α : Type} [DecidableEq α] (d : α) (f : Nat → α → α) (m : SMap α) : SMap α :=
  match m with
  | [] => []
  | (k, v) :: r => if f k v = d then smapAll d f r else (k, f k v) :: smapAll d f r

/-- The canonical form: numbers strictly rising, no entry equal to `d`. -/
def swf {α : Type} [DecidableEq α] (d : α) (m : SMap α) : Bool :=
  match m with
  | [] => true
  | (k, v) :: r => (v != d) && (match r with | [] => true | (j, _) :: _ => decide (k < j)) && swf d r

/-! ## Byte memories: an unlisted byte reads 0 (HBM by R217, a scratchpad by R56) -/

/-- The byte at an address. -/
def mread (m : Mem) (a : Nat) : Byte := sget 0#8 m a

/-- Writing a byte. -/
def mwrite (a : Nat) (b : Byte) (m : Mem) : Mem := sput 0#8 a b m

/-- The canonical form of a byte memory. -/
def Mem.wf (m : Mem) : Bool := swf 0#8 m

/-- `n` bytes from address `a` on. -/
def mreads (m : Mem) (a n : Nat) : Bytes :=
  match n with
  | 0 => []
  | k + 1 => mread m a :: mreads m (a + 1) k

/-- Writing bytes from address `a` on. -/
def mwrites (a : Nat) (bs : Bytes) (m : Mem) : Mem :=
  match bs with
  | [] => m
  | b :: r => mwrites (a + 1) r (mwrite a b m)

/-- Zero to every byte from `lo` to `hi` − 1. -/
def mclear (lo hi : Nat) (m : Mem) : Mem :=
  match m with
  | [] => []
  | (a, b) :: r => if lo ≤ a ∧ a < hi then mclear lo hi r else (a, b) :: mclear lo hi r

/-! ## Little-endian fields (R8) -/

/-- The number that bytes hold, byte 0 least significant. -/
def leNat (bs : Bytes) : Nat :=
  match bs with
  | [] => 0
  | b :: r => b.toNat + 256 * leNat r

/-- A number as `n` bytes. -/
def toLe (n v : Nat) : Bytes :=
  match n with
  | 0 => []
  | k + 1 => BitVec.ofNat 8 v :: toLe k (v / 256)

/-- The `n` bytes at offset `o`, padded with zero. -/
def slice (bs : Bytes) (o n : Nat) : Bytes :=
  match n with
  | 0 => []
  | k + 1 => bs.getD o 0#8 :: slice bs (o + 1) k

/-- The `n`-byte field at offset `o`. -/
def field (bs : Bytes) (o n : Nat) : Nat := leNat (slice bs o n)

/-- A `w`-bit value as bytes. -/
def leBytes {w : Nat} (n : Nat) (v : BitVec w) : Bytes := toLe n v.toNat

/-- `n` zero bytes. -/
def zeros (n : Nat) : Bytes := List.replicate n 0#8

/-- Bytes cut or zero-padded to length `n`. -/
def padTo (n : Nat) (bs : Bytes) : Bytes := slice bs 0 n

/-- Bits [hi:lo] of a number. -/
def bitsOf (v hi lo : Nat) : Nat := v / 2 ^ lo % 2 ^ (hi + 1 - lo)

/-- Bit `i` of a bitmap held in bytes: bit (i mod 8) of byte ⌊i/8⌋ (R201). -/
def bitmapGet (bs : Bytes) (i : Nat) : Bool := (bs.getD (i / 8) 0#8).getLsbD (i % 8)

/-- The indices below `n` whose bit is set. -/
def bitmapList (bs : Bytes) (n : Nat) : List Nat := (List.range n).filter (bitmapGet bs)

/-- A bitmap of `n` bytes with the listed bits set. -/
def bitmapOf (n : Nat) (l : List Nat) : Bytes :=
  toLe n (l.foldl (fun a i => a ||| 2 ^ i) 0)

/-- Saturating addition to a counter. -/
def satAdd {w : Nat} (c : BitVec w) (n : Nat) : BitVec w :=
  if c.toNat + n < 2 ^ w then BitVec.ofNat w (c.toNat + n) else BitVec.allOnes w

/-- ⌈a / b⌉. -/
def ceilDiv (a b : Nat) : Nat := if b = 0 then 0 else (a + b - 1) / b

/-- The number less 1 in 1 … a multiple of `m` at or above `a`. -/
def alignUp (a m : Nat) : Nat := ceilDiv a m * m

/-! ## CRC-32C (Castagnoli), of plan images, directories and link settings (R166, R409, R411) -/

/-- One bit of the reflected division. -/
def crcBit (c : BitVec 32) : BitVec 32 := if c.getLsbD 0 then (c >>> 1) ^^^ 0x82F63B78#32 else c >>> 1

/-- One byte. -/
def crcByte (c : BitVec 32) (b : Byte) : BitVec 32 :=
  crcBit (crcBit (crcBit (crcBit (crcBit (crcBit (crcBit (crcBit (c ^^^ b.setWidth 32))))))))

/-- CRC-32C of bytes. -/
def crc32c (bs : Bytes) : BitVec 32 := ~~~(bs.foldl crcByte 0xFFFFFFFF#32)

end Sys2Proof.Machine
end

