-- ==== Sys2Proof/Machine/Geometry.lean ====
section
/-!
DEFINITION. The layout of the wafer (spec/02_wafer_geography.md): coordinates, rows and understudies, hops, edge
dies and channels (spec/11_memory_and_dma.md R278), the leader and the slot-switch time (R182, R183).
-/

namespace Sys2Proof.Machine

open Sys2Proof

/-! ## Clusters (R4, R5) -/

/-- West to east. -/
def clX (c : Nat) : Nat := c % 40
/-- North to south. -/
def clY (c : Nat) : Nat := c / 40
/-- Cluster number of C(x,y). -/
def clNum (x y : Nat) : Nat := 40 * y + x
/-- The reticle field, and so the regulator zone, of a cluster (R5, R346). -/
def clField (c : Nat) : Nat := 8 * (clY c / 5) + clX c / 5

/-- The clusters of a rectangle, in row-major order. -/
def rectClusters (x0 y0 w h : Nat) : List Nat :=
  (List.range h).flatMap fun j => (List.range w).map fun i => clNum (x0 + i) (y0 + j)

/-- Whether a cluster lies in a rectangle. -/
def inRect (x0 y0 w h c : Nat) : Bool :=
  decide (x0 ≤ clX c ∧ clX c < x0 + w ∧ y0 ≤ clY c ∧ clY c < y0 + h)

/-- The leader of a rectangle (R182). -/
def rectLeader (x0 y0 w h : Nat) : Nat := clNum (x0 + w / 2) (y0 + h / 2)

/-- The slot-switch time W in CCLK (R183). -/
def switchTime (w h : Nat) : Nat := 544 + 8 * (w / 2 + h / 2)

/-- The next number that is a Fin. -/
def toCl (n : Nat) : Cl := Fin.ofNat 1200 n

/-! ## Rows (R36 to R38) -/

/-- The omitted column of row r: the fuse value's XOR with 8 is what the state keeps. -/
def Cluster.omitCol (c : Cluster) (r : Nat) : Nat := (8#5 ^^^ sget 0#5 c.omitXor r).toNat

/-- The physical column of logical column k in a row whose omitted column is u (R37). -/
def physCol (u k : Nat) : Nat := if k < u then k else k + 1

/-- The physical core number of a logical core (R36, R37). -/
def Cluster.phys (c : Cluster) (lc : Nat) : Nat := 17 * (lc / 16) + physCol (c.omitCol (lc / 16)) (lc % 16)

/-- The logical core at a physical core, if it is one. -/
def Cluster.logical (c : Cluster) (pc : Nat) : Option Nat :=
  let r := pc / 17
  let p := pc % 17
  let u := c.omitCol r
  if p = u then none else if p < u then some (16 * r + p) else some (16 * r + p - 1)

/-- CL_REPAIR_MAP (Table 2.4). -/
def Cluster.repairMap (c : Cluster) : Nat :=
  (if c.retired then 2 ^ 112 else 0) + c.fieldRow.toNat * 2 ^ 96 + c.spareBad.toNat * 2 ^ 80 +
    (List.range 16).foldl (fun a r => a + c.omitCol r * 2 ^ (5 * r)) 0

/-! ## Neighbours and hops (R39) -/

/-- The direction a word arrives from when it left in a direction. -/
def dirOpp (d : Dir) : Dir :=
  match d with
  | .n => .s
  | .e => .w
  | .s => .n
  | .w => .e

/-- Number of a direction: N 0, E 1, S 2, W 3 (Tables 5.8, 7.5). -/
def dirNum (d : Dir) : Nat :=
  match d with
  | .n => 0
  | .e => 1
  | .s => 2
  | .w => 3

/-- The direction of a number. -/
def dirOf (n : Nat) : Dir :=
  match n with
  | 0 => .n
  | 1 => .e
  | 2 => .s
  | _ => .w

/-- The four directions. -/
def allDirs : List Dir := [.n, .e, .s, .w]

/-- The logical neighbour of logical core lc of cluster c, or none at the wafer's edge. -/
def neighbour (c lc : Nat) (d : Dir) : Option (Nat × Nat) :=
  let r := lc / 16
  let k := lc % 16
  match d with
  | .n => if 0 < r then some (c, lc - 16) else if 0 < clY c then some (c - 40, 240 + k) else none
  | .s => if r < 15 then some (c, lc + 16) else if clY c < 29 then some (c + 40, k) else none
  | .e => if k < 15 then some (c, lc + 1) else if clX c < 39 then some (c + 1, 16 * r) else none
  | .w => if 0 < k then some (c, lc - 1) else if 0 < clX c then some (c - 1, 16 * r + 15) else none

/-- The cost in CCLK of a hop (R39): the difference of physical columns within a row, 1 otherwise. -/
def hopCost (cl : Cluster) (lc : Nat) (d : Dir) : Nat :=
  let u := cl.omitCol (lc / 16)
  let k := lc % 16
  match d with
  | .e => if k < 15 then physCol u (k + 1) - physCol u k else 1
  | .w => if 0 < k then physCol u k - physCol u (k - 1) else 1
  | _ => 1

/-! ## Edge dies (Table 2.6) -/

/-- Columns a … a + n − 1 of row y. -/
def runX (y a n : Nat) : List Nat := (List.range n).map fun i => clNum (a + i) y
/-- Rows a … a + n − 1 of column x. -/
def runY (x a n : Nat) : List Nat := (List.range n).map fun i => clNum x (a + i)

/-- The clusters of a wafer edge clockwise from the corner of a host die (R47): north for H0, east for H1, south for H2,
west for H3. -/
def dieEdge (h : Nat) : List Nat :=
  match h with
  | 0 => runX 0 0 40
  | 1 => runY 39 0 30
  | 2 => (runX 29 0 40).reverse
  | _ => (runY 0 0 30).reverse

/-- The direction in which a host die lies from the cluster it is attached to: that of the edge along which R48 goes
clockwise. A corner cluster faces two edges, and the manual names neither (DESIGN CHOICE, notes/assumptions/103.md). -/
def dieDir (h : Nat) : Dir := dirOf h

/-- The links of a strings node to other nodes, bits as mesh_en (Table 5.10). -/
def innerLinks (c : Nat) : BitVec 4 :=
  let bit (b : Bool) (n : Nat) : BitVec 4 := if b then BitVec.ofNat 4 (2 ^ n) else 0
  bit (decide (0 < clY c)) 0 ||| bit (decide (clX c < 39)) 1 ||| bit (decide (clY c < 29)) 2 ||| bit (decide (0 < clX c)) 3

/-- The clusters stack Mm adjoins, in clockwise order from position 0. -/
def stackRun (m : Nat) : List Nat :=
  match m with
  | 0 => runX 0 5 10
  | 1 => runX 0 25 10
  | 2 => runY 39 4 7
  | 3 => runY 39 19 7
  | 4 => (runX 29 25 10).reverse
  | 5 => (runX 29 5 10).reverse
  | 6 => (runY 0 19 7).reverse
  | 7 => (runY 0 4 7).reverse
  | _ => []

/-- The clusters link die Ld adjoins, in clockwise order. -/
def linkRun (d : Nat) : List Nat :=
  match d with
  | 0 => runX 0 0 5
  | 1 => runX 0 15 5
  | 2 => runX 0 20 5
  | 3 => runX 0 35 5
  | 4 => runY 39 0 4
  | 5 => runY 39 11 4
  | 6 => runY 39 15 4
  | 7 => runY 39 26 4
  | 8 => (runX 29 35 5).reverse
  | 9 => (runX 29 20 5).reverse
  | 10 => (runX 29 15 5).reverse
  | 11 => (runX 29 0 5).reverse
  | 12 => (runY 0 26 4).reverse
  | 13 => (runY 0 15 4).reverse
  | 14 => (runY 0 11 4).reverse
  | 15 => (runY 0 0 4).reverse
  | _ => []

/-- The positions of its stack's run that channel 8 m + i serves (Table 11.2). -/
def channelPositions (ch : Nat) : List Nat :=
  let i := ch % 8
  if (stackRun (ch / 8)).length = 10 then
    if i = 0 then [0, 1] else if i = 7 then [8, 9] else [i + 1]
  else
    if i ≤ 3 then [i] else if i = 4 then [3] else [i - 1]

/-- The clusters a channel serves, in position order. -/
def channelClusters (ch : Nat) : List Nat :=
  (channelPositions ch).filterMap fun p => (stackRun (ch / 8))[p]?

/-- The first or second cluster of a channel's span (Table 15.2, kind 3). -/
def channelSpan (ch c : Nat) : Nat := if (channelClusters ch).head? = some c then 0 else 1

/-- The stack that holds a granule (R273). -/
def granuleStack (g : Nat) : Nat := g / 96
/-- The first engine address of a granule (R203). -/
def granuleBase (g : Nat) : Nat := g * 0x10000000
/-- Bytes of a granule. -/
def granuleSize : Nat := 0x10000000
/-- The granule of an engine address of HBM. -/
def granuleOf (ea : Nat) : Nat := ea / 0x10000000

/-- Whether some cluster of a list is adjoined by a stack. -/
def adjoinsStack (cls : List Nat) : Bool := (List.range 8).any fun m => (stackRun m).any cls.contains
/-- Whether some cluster of a list is adjoined by a link die. -/
def adjoinsLink (cls : List Nat) : Bool := (List.range 16).any fun d => (linkRun d).any cls.contains

end Sys2Proof.Machine
end

