-- ==== Sys2Proof/Machine/State.lean ====
section
/-!
DEFINITION. The state of the engine: everything the manual names, as plain data, and the state before the first
supply of 48 V, `State.reset`. INVENTORY.md, under State, lists each field with its rule and its reset value.
-/

namespace Sys2Proof.Machine

open Sys2Proof

/-- The engine. Times named `now` count CCLK (1 ns, R6) of the model's own clock; ET is the engine's (R7). -/
structure State where
  /-- The commands that wait, first in, first out. -/
  pending : List Instr := []
  -- time (R7, R326, R342)
  now : Nat := 0
  et : BitVec 64 := 0
  /-- CCLK since the last TCLK edge; while the always-on domain counts, ns since its last increment. -/
  sub : Nat := 0
  etClock : EtClock := .held
  -- the wafer
  /-- Physical core 17 r + p of cluster c, at 272 c + 17 r + p. -/
  cores : SMap Core := []
  /-- Scratchpad byte a of physical core n, at 262144 n + a. -/
  spad : Mem := []
  flights : List Flight := []
  credits : List Credit := []
  clusters : SMap Cluster := []
  /-- CORE_EVENT frames on their way: cluster, logical core, ue, wdog, halted (Table 5.6). -/
  coreEvents : List (Cl × LCore × Bool × Bool × Bool) := []
  /-- Replies of REG_READ on their way: the cluster that replies, the header of the frame that asked, and the value (R131). -/
  regReplies : List (Cl × Hdr × StrReg × BitVec 128) := []
  /-- NO_TARGET frames on their way: from which cluster, to whom, and the physical core (R137). -/
  noTargets : List (Cl × Src × BitVec 9) := []
  -- memory outside the wafer
  /-- HBM, by engine address (R273). -/
  hbm : Mem := []
  hbmStacks : SMap HbmStack := []
  /-- Granule slot last used: granule and ET (R274). -/
  slotUse : SMap Nat := []
  /-- What the engine has written to host memory, byte a of host die h at 2^64 h + a. -/
  hostMem : Mem := []
  -- the host dies
  /-- Window of function f on host die h, at 16 h + f. -/
  windows : SMap Window := []
  /-- Classifier rule i of host die h, at 256 h + i (R260). -/
  rules : SMap (BitVec 64) := []
  /-- HD_CLASS_AMBIGn of host die h, at 16 h + n (R262). -/
  ambig : SMap (BitVec 32) := []
  /-- HD_VIOL_COUNTn, one count for all copies (R212): bits as Table 8.2. -/
  violCounts : SMap (BitVec 64) := []
  opFaulted : BitVec 16 := 0
  /-- PERST_N of each host die, asserted (R402). -/
  perst : BitVec 4 := 0
  /-- The data of the last MMIO read's completion. -/
  mmioData : Option (BitVec 64) := none
  longs : List LongCmd := []
  /-- Rings of host die h that have been served in the present turn, ring r of function f as 7 f + r (R255). -/
  fetchTurn : SMap (List Nat) := []
  -- partitions
  parts : SMap PartState := []
  nextReq : Nat := 0
  /-- Lease of kind k, index i at 65536 k + i: owner tag XOR 0x0FFF, so that an unlisted lease is free (R379). -/
  leases : SMap (BitVec 16) := []
  -- links
  links : SMap LinkDie := []
  timePriXor : BitVec 8 := 0
  guardG : Nat := 250
  timeMaster : Bool := true
  masterSerial : BitVec 64 := 0
  fullRetimes : BitVec 32 := 0
  fastResumes : BitVec 32 := 0
  /-- A full retime is asked for, with the LINK.RETIME command that waits for it (R309, R324). -/
  retimeWanted : Bool := false
  -- the engine
  supply : Supply := .off
  estate : EState := .booting
  stateEt : BitVec 64 := 0
  authority : Bool := false
  standbyOk : Bool := false
  /-- Checks of Puppeteer 3 missed in a row, and the time of the last miss (R395). -/
  authorityMisses : Nat := 0
  missAt : Nat := 0
  /-- The engine authority is lost: H0 failed while standby_ok was 0 (R395). -/
  authorityLost : Bool := false
  /-- ENGINE.STANDBY is draining (R246); the wake ET it armed. -/
  draining : Bool := false
  wakeEt : BitVec 64 := 0
  /-- AON_WAKE (R343), the wake reasons of the latest exit (Table 9.12), and the PFW_N quiet source armed (R372). -/
  aonWake : BitVec 4 := 0
  wakeReasons : BitVec 4 := 0
  quietArmed : Bool := false
  brace : Option Brace := none
  /-- The recognised level of PFW_N (true: asserted), when it was last deasserted, and the time of the
  deassertion that last aborted a brace (R358, R367). -/
  pfw : Bool := false
  pfwHighSince : Nat := 0
  lastAbort : Option Nat := none
  maint : Maint := .closed
  testDeferMax : Nat := 60000
  cal : Option Cal := none
  dump : Option DumpJob := none
  policy : Policy := {}
  /-- The breath allowance in force (R352), the engine power over the last 1 ms, and how long that has stayed above
  cap_w with the allowance at f_max: since when (R357). -/
  allowance : Nat := 0
  powerW : Nat := 0
  overSince : Option Nat := none
  /-- The excess that lasts has its fault record (R357). -/
  overLogged : Bool := false
  /-- The latest update of the allowance found engine power above cap_w (R354). -/
  overCap : Bool := false
  therm : Bool := false
  rails : Rails := {}
  zones : SMap Zone := []
  regulators : SMap Rail := []
  faults : List FaultRec := []
  faultSeq : Nat := 0
  faultsLost : Nat := 0
  /-- Physical cores declared failed and not yet repaired (R385). -/
  declared : List Nat := []
  -- module
  fuses : Fuses := {}
  flashA : Flash := .delivered
  flashB : Flash := .delivered
  firmware : Firmware := {}
  fwJob : Option FwJob := none
  /-- When the boot ROM last found no valid image (R414). -/
  noImageAt : Nat := 0
  /-- A boot that has steps 5 to 10 still to run, with what its surroundings decide in them, and the time from which it
  waits for PFW_N (R406). -/
  bootRest : Option BootIn := none
  bootWait : Nat := 0
  resetN : Bool := false
  refclkLost : Bool := false
  /-- Instruction register of each TAP, XOR IDCODE (R421), and its boundary scan cells. -/
  tapIr : SMap (BitVec 8) := []
  boundary : SMap (List Bool) := []
  /-- The identification register last selected by a TAP (R421). -/
  tapOut : Option (BitVec 32) := none
  carrier : Carrier := {}
  mctp : Mctp := {}
  /-- How many free values have been drawn: the model's own field (see notes/assumptions/10.md). -/
  freeCount : Nat := 0
  deriving DecidableEq, Repr

/-- Why the engine stops. -/
inductive Fault where
  /-- Raised by PRIVATE_INSTRUCTION alone, on a module that reads DEBUG_OFF clear: "A module that reads DEBUG_OFF
  clear is not a production module, and this manual does not describe its private functions" (R422). Safe: the
  model stops where the manual gives no effect. -/
  | privateFunctions
  deriving DecidableEq, Repr

/-- Why a command has no meaning. -/
inductive Refusal where
  /-- The command of this mnemonic has no meaning in the model yet. Safe. -/
  | notModelled (mnemonic : String)
  deriving DecidableEq, Repr

/-- The outcome of a command. -/
abbrev Outcome := Host.Outcome State Fault Refusal

/-- The engine before its first 48 V (R400): every register at its reset value, no partition but P0, all memory
unlisted, the flash and fuses of a module as delivered (R45). The values the manual does not state are those of
notes/assumptions 2 and 3. -/
def State.reset : State := { parts := [(0, { life := .live })] }

end Sys2Proof.Machine
end

