-- ==== Sys2Proof/Machine/Ops.lean ====
section
/-!
DEFINITION. Named operations over the whole state: each piece read and changed in one place, time, partitions and
their memory, the fault log (spec/15_faults_and_selftest.md R397), mailbox messages and events
(spec/09_mailboxes_and_commands.md R225 to R234), and leases (R378).
-/

namespace Sys2Proof.Machine

open Sys2Proof

/-! ## Reading and changing one piece -/

/-- Physical core `n`, at 272 × cluster + physical core number. -/
def State.coreAt (s : State) (n : Nat) : Core := sget {} s.cores n
/-- Changing a physical core. -/
def State.modCore (s : State) (n : Nat) (f : Core → Core) : State := { s with cores := smod {} n f s.cores }
/-- A cluster. -/
def State.cluster (s : State) (c : Nat) : Cluster := sget {} s.clusters c
/-- Changing a cluster. -/
def State.modCluster (s : State) (c : Nat) (f : Cluster → Cluster) : State :=
  { s with clusters := smod {} c f s.clusters }
/-- The physical core that a logical core of a cluster is (R37). -/
def State.lcore (s : State) (c lc : Nat) : Nat := 272 * c + (s.cluster c).phys lc
/-- The window of function `f` on host die `h`. -/
def State.window (s : State) (h f : Nat) : Window := sget {} s.windows (16 * h + f)
/-- Changing a window. -/
def State.modWindow (s : State) (h f : Nat) (g : Window → Window) : State :=
  { s with windows := smod {} (16 * h + f) g s.windows }
/-- A partition. -/
def State.part (s : State) (p : Nat) : PartState := sget {} s.parts p
/-- Changing a partition. -/
def State.modPart (s : State) (p : Nat) (f : PartState → PartState) : State :=
  { s with parts := smod {} p f s.parts }
/-- A link die. -/
def State.link (s : State) (d : Nat) : LinkDie := sget {} s.links d
/-- Changing a link die. -/
def State.modLink (s : State) (d : Nat) (f : LinkDie → LinkDie) : State := { s with links := smod {} d f s.links }
/-- A port of a link die. -/
def State.port (s : State) (d p : Nat) : Port := sget {} (s.link d).ports p
/-- Changing a port. -/
def State.modPort (s : State) (d p : Nat) (f : Port → Port) : State :=
  s.modLink d fun l => { l with ports := smod {} p f l.ports }
/-- A reduction context of a link die. -/
def State.ctx (s : State) (d c : Nat) : Context := sget {} (s.link d).contexts c
/-- Changing a reduction context. -/
def State.modCtx (s : State) (d c : Nat) (f : Context → Context) : State :=
  s.modLink d fun l => { l with contexts := smod {} c f l.contexts }
/-- An HBM stack. -/
def State.stack (s : State) (m : Nat) : HbmStack := sget {} s.hbmStacks m
/-- Changing a stack. -/
def State.modStack (s : State) (m : Nat) (f : HbmStack → HbmStack) : State :=
  { s with hbmStacks := smod {} m f s.hbmStacks }
/-- A VCORE zone. -/
def State.zone (s : State) (z : Nat) : Zone := sget {} s.zones z
/-- Changing a zone. -/
def State.modZone (s : State) (z : Nat) (f : Zone → Zone) : State := { s with zones := smod {} z f s.zones }
/-- A line of a physical core's scratchpad, or any bytes of it (R51). -/
def State.spadRead (s : State) (n a len : Nat) : Bytes := mreads s.spad (262144 * n + a) len
/-- Writing bytes of a scratchpad. -/
def State.spadWrite (s : State) (n a : Nat) (bs : Bytes) : State :=
  { s with spad := mwrites (262144 * n + a) bs s.spad }
/-- Writing host memory through a host die. -/
def State.hostWrite (s : State) (h a : Nat) (bs : Bytes) : State :=
  { s with hostMem := mwrites (18446744073709551616 * h + a) bs s.hostMem }
/-- A fold of state changes over a list. -/
def State.each {α : Type} (s : State) (l : List α) (f : State → α → State) : State :=
  match l with
  | [] => s
  | a :: r => (f s a).each r f

/-- A free bit, drawn with the model's own counter (notes/assumptions/10.md). -/
def State.freeBit (s : State) : Bool := Config.freeBool s.freeCount
/-- The counter once a free value has been drawn. -/
def State.drew (s : State) : State := { s with freeCount := s.freeCount + 1 }

/-! ## Time (R6, R7, R326) -/

/-- The engine's CCLK count, 8 × ET + c (R326). -/
def State.cclk (s : State) : Nat := 8 * s.et.toNat + s.sub
/-- The phase (R53). -/
def State.phase (s : State) : Nat := s.sub % 4
/-- A TCLK edge. -/
def State.onEdge (s : State) : Bool := s.sub == 0
/-- ET as a number. -/
def State.tick (s : State) : Nat := s.et.toNat
/-- CCLK of a duration in ms. -/
def msCclk (n : Nat) : Nat := 1000000 * n
/-- Whether the engine serves in E0. -/
def State.inE0 (s : State) : Bool := s.supply == .up && s.estate == .e0
/-- Whether CCLK reaches the wafer (R330). -/
def State.wafer (s : State) : Bool := s.supply == .up && s.rails.cclk

/-! ## Partitions (R198 to R205) -/

/-- The clusters of a partition, row-major (R202). -/
def PartRec.clusters (r : PartRec) : List Nat := rectClusters r.x0 r.y0 r.w r.h
/-- The clusters of a partition. -/
def State.partClusters (s : State) (p : Nat) : List Nat := (s.part p).cfg.clusters
/-- Every logical core of a partition, as physical core numbers, with its cluster. -/
def State.partCores (s : State) (p : Nat) : List Nat :=
  (s.partClusters p).flatMap fun c => (List.range 256).map (s.lcore c)
/-- Pn exists (R198). -/
def State.exists (s : State) (p : Nat) : Bool := (s.part p).life == .live
/-- The partitions that exist. -/
def State.existing (s : State) : List Nat := (List.range 16).filter s.exists
/-- Whether a partition's resources are taken: existing, or being built (R206). -/
def State.taken (s : State) (p : Nat) : Bool := (s.part p).life != .none
/-- Enabled on a host die: P0 on every die, a tenant by its host mask (R201). -/
def PartRec.onDie (r : PartRec) (p h : Nat) : Bool := p == 0 || r.hostMask.getLsbD h
/-- Whether Pn exists and is enabled on host die Hh. -/
def State.enabled (s : State) (p h : Nat) : Bool := s.exists p && (s.part p).cfg.onDie p h
/-- A window is open: P0's from boot, a tenant's while its partition exists (R220). -/
def State.isOpen (s : State) (h f : Nat) : Bool := f == 0 || s.enabled f h
/-- The elastic attribute (R208). -/
def PartState.elastic (q : PartState) : Bool := q.cfg.attr.getLsbD 0
/-- The retain attribute (R209). -/
def PartState.retain (q : PartState) : Bool := q.cfg.attr.getLsbD 1
/-- The link dies a partition uses (R203). -/
def PartRec.linkDies (r : PartRec) : List Nat :=
  (List.range 16).filter fun d => (linkRun d).any r.clusters.contains
/-- The partition that holds a cluster. -/
def State.partOf (s : State) (c : Nat) : Option Nat :=
  (List.range 16).find? fun p =>
    s.taken p && (let r := (s.part p).cfg; inRect r.x0 r.y0 r.w r.h c)
/-- The host die whose Puppeteer owns the partition's queue (R252). -/
def PartRec.queueOwner (r : PartRec) (p : Nat) : Nat := ((List.range 4).find? (r.onDie p)).getD 0
/-- The bound plan. -/
def PartState.boundPlan (q : PartState) : Option Loaded := q.bound.bind (sfind? q.plans)
/-- Whether two rectangles share an edge. -/
def borders (a b : PartRec) : Bool :=
  a.clusters.any fun c =>
    (decide (0 < clX c) && inRect b.x0 b.y0 b.w b.h (c - 1)) || (decide (clX c < 39) && inRect b.x0 b.y0 b.w b.h (c + 1)) ||
    (decide (0 < clY c) && inRect b.x0 b.y0 b.w b.h (c - 40)) || (decide (clY c < 29) && inRect b.x0 b.y0 b.w b.h (c + 40))
/-- Whether a partition that borders a rectangle has a run in progress (R207, R216). -/
def State.borderRun (s : State) (r : PartRec) : Bool :=
  (List.range 16).any fun q => (s.part q).run.isSome && borders r (s.part q).cfg

/-! ## Collective groups (R303, R312, R314, R318) -/

/-- A group's record names an entry of the bound plan. -/
def PartState.names (q : PartState) (g : Group) (entry : Nat) : Bool :=
  g.mask.getLsbD entry && q.boundPlan.any fun l => l.plan.planId == g.planId
/-- A group is joined once every port entry is (R318). -/
def Group.joined (g : Group) : Bool := g.ports.all (·.joined)
/-- A joined group of the partition names an entry. -/
def PartState.grouped (q : PartState) (entry : Nat) : Bool := q.groups.any fun g => g.2.joined && q.names g.2 entry
/-- The port entry of a group for a port. -/
def Group.entryOn (g : Group) (d p : Nat) : Option GroupPort := g.ports.find? fun e => e.die == d && e.port == p
/-- The partition that owns a position of a port. -/
def Port.owner (o : Port) (k : Nat) : Option Nat := (o.owned.find? fun x => x.2.contains k).map (·.1)
/-- A cell received on a port is for a group of partition p: it carries the partner's number of the group and, scheduled, came
in a position that the partition owns (notes/assumptions/49.md). -/
def Group.takes (g : Group) (o : Port) (p d k : Nat) (x : RxCell) : Bool :=
  match g.entryOn d k with
  | some e => x.cell.group == e.theirs && (x.bulk || o.owner x.cell.position == some p)
  | none => false
/-- Keeping of the cells held at the ports those that a test picks, by die and port. -/
def State.keepHeld (s : State) (test : Nat → Nat → Port → RxCell → Bool) : State :=
  { s with links := smapAll {} (fun d l => { l with ports := smapAll {} (fun k o => { o with held := o.held.filter (test d k o) }) l.ports }) s.links }

/-! ## Partition memory (R203) -/

/-- The engine address of a partition-relative offset. -/
def PartRec.ea (r : PartRec) (off : Nat) : Option Nat :=
  (r.granules[off / granuleSize]?).map fun g => granuleBase g + off % granuleSize
/-- Whether `n` bytes at an offset lie within the partition's granules. -/
def PartRec.holds (r : PartRec) (off n : Nat) : Bool := decide (off + n ≤ r.granules.length * granuleSize)
/-- Reading bytes at a partition-relative offset. -/
def State.relRead (s : State) (r : PartRec) (off n : Nat) : Bytes :=
  match n with
  | 0 => []
  | k + 1 => (match r.ea off with | some a => mread s.hbm a | none => 0#8) :: s.relRead r (off + 1) k
/-- Writing bytes at a partition-relative offset. -/
def relWrite (r : PartRec) (off : Nat) (bs : Bytes) (m : Mem) : Mem :=
  match bs with
  | [] => m
  | b :: t => relWrite r (off + 1) t (match r.ea off with | some a => mwrite a b m | none => m)

/-! ## The fault log (R397, Table 15.4) -/

/-- One record; the oldest goes when 16,384 are held. -/
def State.log (s : State) (code : Nat) (part : Option Nat := none) (cluster : Option Nat := none)
    (core : Option Nat := none) (die : Nat := 0) (pup : Nat := 15) (detail : Nat := 0) : State :=
  let r : FaultRec :=
    { et := s.et, seq := s.faultSeq, code := BitVec.ofNat 16 code, part := BitVec.ofNat 8 (part.getD 0xFF)
      cluster := BitVec.ofNat 16 (cluster.getD 0xFFFF), core := BitVec.ofNat 16 (core.getD 0xFFFF)
      die := BitVec.ofNat 8 die, puppeteer := BitVec.ofNat 8 pup, detail := BitVec.ofNat 64 detail }
  let full := decide (16384 ≤ s.faults.length)
  { s with faults := (if full then s.faults.drop 1 else s.faults) ++ [r]
           faultSeq := s.faultSeq + 1, faultsLost := s.faultsLost + (if full then 1 else 0) }
/-- The Puppeteer that serves as engine authority (R395). -/
def State.authorityPup (s : State) : Nat := if s.authority then 7 else 3
/-- The die byte of Table 15.4 for host die, link die and HBM stack. -/
def dieByte (kind index : Nat) : Nat := 64 * kind + index

/-! ## Errors of HBM (R276) -/

/-- A corrected single-bit error: counted, and recorded at most once a second for a stack (Table 15.5). -/
def State.hbmSingle (s : State) (ea : Nat) : State :=
  let m := granuleStack (granuleOf ea)
  let k := s.stack m
  let s := s.modStack m fun k => { k with corrected := k.corrected + 1, since := k.since + 1 }
  if k.logAt = 0 ∨ k.logAt + 1000000000 ≤ s.now + 1 then
    (s.modStack m fun k => { k with logAt := s.now + 1, since := 0 }).log 0x0103 none none none (dieByte 3 m) 15
      (ea + (k.since + 1) % 65536 * 281474976710656)
  else s

/-- The record of a double-bit error: 1 run, 2 egress, 3 host DMA, 4 DUMP, 5 scrub. -/
def State.hbmDouble (s : State) (part : Option Nat) (ea kind : Nat) : State :=
  s.log 0x0104 part none none (dieByte 3 (granuleStack (granuleOf ea))) 15 (ea + kind * 72057594037927936)

/-- The corrected errors that reads of some granules found. -/
def State.hbmSingles (s : State) (granules : List Nat) (l : List Nat) : State :=
  s.each (l.filter fun a => granules.contains (granuleOf a)) State.hbmSingle

/-! ## MSI-X (R234) -/

/-- Whether vector v is masked: the mask bit of its table entry, which PCI Express resets to 1. -/
def Window.masked (w : Window) (v : Nat) : Bool := !(sget 0#8 w.msixXor (16 * v + 12)).getLsbD 0
/-- Signalling a vector: sent, or kept pending while the vector is masked. -/
def Window.fire (w : Window) (v : Nat) : Window :=
  let x := sget {} w.vectors v
  let y : Vector8 := if w.masked v then { x with outstanding := true, pending := true }
    else { x with outstanding := true, sent := x.sent + 1 }
  { w with vectors := sput {} v y w.vectors }
/-- Signalling a vector unless a signal of it is outstanding. -/
def Window.signal (w : Window) (v : Nat) : Window :=
  if (sget {} w.vectors v).outstanding then w else w.fire v
/-- The host's write ends the outstanding signal; a new one follows at once when something remains. With nothing left a
masked vector is no longer pending. -/
def Window.ackVector (w : Window) (v : Nat) (remains : Bool) : Window :=
  let w := { w with vectors := smod {} v (fun x => { x with outstanding := false, pending := x.pending && remains }) w.vectors }
  if remains then w.fire v else w

/-! ## Messages (R225 to R233) -/

/-- Adding an outbound message of a window: it waits until the ring has room (R226). -/
def State.post (s : State) (h f : Nat) (m : Msg) : State := s.modWindow h f fun w => { w with outQ := w.outQ ++ [m] }

/-- A reply (R230). -/
def State.reply (s : State) (h f : Nat) (seq : BitVec 16) (code : BitVec 8) (final : Bool) (status : Nat)
    (payload : Bytes := []) : State :=
  s.post h f { seq := seq, command := code, final := final, event := false, status := BitVec.ofNat 8 status,
               payload := payload }

/-- Status codes (Table 9.10). -/
def stOk : Nat := 0x00
/-- ACCEPTED. -/
def stAccepted : Nat := 0x01
/-- DEFERRED. -/
def stDeferred : Nat := 0x02
/-- BUSY. -/
def stBusy : Nat := 0x10
/-- DENIED. -/
def stDenied : Nat := 0x11
/-- BAD_ARG. -/
def stBadArg : Nat := 0x12
/-- NO_RESOURCE. -/
def stNoResource : Nat := 0x13
/-- NOT_READY. -/
def stNotReady : Nat := 0x14
/-- FAULTED. -/
def stFaulted : Nat := 0x20
/-- SHED. -/
def stShed : Nat := 0x21
/-- RETRY. -/
def stRetry : Nat := 0x22
/-- ABORTED. -/
def stAborted : Nat := 0x23

/-- Reason codes (Table 1.2). -/
def rsBrace : Nat := 1
/-- WATCHDOG. -/
def rsWatchdog : Nat := 2
/-- FORCED_CAL. -/
def rsForcedCal : Nat := 3
/-- RESET. -/
def rsReset : Nat := 4
/-- HOST_LATE. -/
def rsHostLate : Nat := 5
/-- BRACED. -/
def rsBraced : Nat := 6

/-- Engine state code of HD_MB_STATUS and of the engine state record (Tables 9.3, 9.12). -/
def State.stateCode (s : State) : Nat :=
  if s.supply != .up then 4
  else match s.estate with
    | .e0 => 0
    | .e1 => 1
    | .e2 => 2
    | .resuming => 3
    | .booting => 4
/-- A maintenance window is open: from opened until it is closed (R392). -/
def State.maintOpen (s : State) : Bool :=
  match s.maint with
  | .opened _ => true
  | .closing => true
  | _ => false
/-- A forced calibration quiesces the engine (R394). -/
def State.quiescing (s : State) : Bool := match s.cal with | some c => c.forced | none => false
/-- A bit of a bitmap. -/
def bit (b : Bool) (n : Nat) : Nat := if b then 2 ^ n else 0
/-- The partitions that exist, as a bitmap. -/
def State.existMask (s : State) : Nat := (List.range 16).foldl (fun a p => a + bit (s.exists p) p) 0

/-- The engine state record for the window of function `f` (Table 9.12, R245). -/
def State.engineRecord (s : State) (f : Nat) (causes : Nat) : Bytes :=
  let mine (m : Nat) : Nat := if f = 0 then m else m / 2 ^ f % 2 * 2 ^ f
  toLe 1 s.stateCode ++
  toLe 1 (bit s.maintOpen 0 + bit s.quiescing 1 + bit s.dump.isSome 2 + bit s.pfw 3) ++
  toLe 2 s.wakeReasons.toNat ++ toLe 2 (mine s.existMask) ++ toLe 2 (mine s.opFaulted.toNat) ++
  leBytes 8 s.stateEt ++ leBytes 8 s.et ++ toLe 2 (if f = 0 then s.powerW else 0) ++ toLe 2 s.allowance ++
  toLe 2 causes ++ zeros 2

/-- The causes a pending event carries. -/
def Msg.causes (m : Msg) : Nat := field m.payload 0x1C 2
/-- The event of one window: merged into its pending event, if it has one (R233). -/
def Window.event (w : Window) (record : Nat → Bytes) (causes : Nat) : Window :=
  let mk (c : Nat) : Msg :=
    { seq := 0xFFFF, command := 0x02, final := true, event := true, status := 0, payload := record c }
  if w.outQ.any Msg.event then
    { w with outQ := w.outQ.map fun m => if m.event then mk (m.causes ||| causes) else m }
  else { w with outQ := w.outQ ++ [mk causes] }

/-- The windows of every die and function, in order. -/
def allWindows : List (Nat × Nat) := (List.range 4).flatMap fun h => (List.range 16).map fun f => (h, f)
/-- The windows of a partition. -/
def State.windowsOf (s : State) (p : Nat) : List (Nat × Nat) :=
  ((List.range 4).filter ((s.part p).cfg.onDie p)).map fun h => (h, p)
/-- The event to one window. -/
def State.eventTo (s : State) (causes : Nat) (hf : Nat × Nat) : State :=
  s.modWindow hf.1 hf.2 fun w => w.event (s.engineRecord hf.2) causes
/-- The event to every open window (R233). -/
def State.eventAll (s : State) (causes : Nat) : State :=
  s.each (allWindows.filter fun hf => s.isOpen hf.1 hf.2) fun t hf => t.eventTo causes hf

/-- Event causes (Table 9.12 at 0x1C): state, maintenance window, firmware activated, own partition faulted, breath
allowance. -/
def evState : Nat := 1
/-- Maintenance window. -/
def evMaint : Nat := 2
/-- Firmware activated. -/
def evFirmware : Nat := 4
/-- Own partition faulted. -/
def evFaulted : Nat := 8
/-- Breath allowance. -/
def evBreath : Nat := 16

/-- The engine state changes: its ET is kept and every open window is told (R233, R245). -/
def State.toState (s : State) (e : EState) : State :=
  ({ s with estate := e, stateEt := s.et } : State).eventAll evState

/-- A run or command of Pp ended FAULTED: its bit of HD_OP_FAULTED, and the event to its windows (R376, Table
9.5). -/
def State.faulted (s : State) (p : Nat) : State :=
  let s := { s with opFaulted := s.opFaulted ||| BitVec.ofNat 16 (2 ^ p) }
  s.each ((s.windowsOf p).filter fun hf => s.isOpen hf.1 hf.2) fun t hf => t.eventTo evFaulted hf

/-! ## Long commands (R230, R232, R240) -/

/-- The long command of a window and seq that has not sent its final message. -/
def State.long? (s : State) (h f : Nat) (seq : BitVec 16) : Option LongCmd :=
  s.longs.find? fun c => c.die.val == h && c.fn.val == f && c.seq == seq
/-- The long command of a code for a partition. -/
def State.longOf? (s : State) (code : BitVec 8) (p : Nat) : Option LongCmd :=
  s.longs.find? fun c => c.code == code && c.part.val == p
/-- The long command of a code. -/
def State.longCode? (s : State) (code : BitVec 8) : Option LongCmd := s.longs.find? fun c => c.code == code
/-- Whether two long commands are the same. -/
def LongCmd.same (a b : LongCmd) : Bool := a.die == b.die && a.fn == b.fn && a.seq == b.seq
/-- The final message of a long command; FAULTED is told to the partition that sent it (Table 9.5). -/
def State.finish (s : State) (c : LongCmd) (status : Nat) (payload : Bytes := []) : State :=
  let s : State := { s with longs := s.longs.filter fun x => !x.same c }
  let s := if status = stFaulted then s.faulted c.sender.val else s
  if c.discard then s else s.reply c.die.val c.fn.val c.seq c.code true status payload
/-- The final message of every long command that a test picks. -/
def State.finishAll (s : State) (p : LongCmd → Bool) (status : Nat) : State :=
  s.each (s.longs.filter p) fun t c => t.finish c status

/-- Writing a report buffer through the function that carried the command, at most its length; a write that the host rejects is
lost (R237). -/
def State.report (s : State) (h : Nat) (desc : Bytes) (body : Bytes) (lost : Bool) : State :=
  let n := field desc 8 4
  if n = 0 || lost then s else s.hostWrite h (field desc 0 8) (body.take n)

/-! ## Violations (R211, R212) -/

/-- HD_VIOL_COUNTn (Table 8.2) after `n` more violations: the kind of the latest in the upper half, the saturating count
below it. -/
def countViol (kind n : Nat) (v : BitVec 64) : BitVec 64 := BitVec.ofNat 32 kind ++ satAdd (v.setWidth 32) n

/-- Counting `n` violations of kind 1 MMIO, 2 DMA, 3 fabric for a partition number, on every copy at once. -/
def State.violate (s : State) (p kind n : Nat) : State :=
  { s with violCounts := smod 0#64 p (countViol kind n) s.violCounts }

/-! ## Leases (Table 15.2, R379) -/

/-- Where a lease is kept. -/
def leaseKey (kind index : Nat) : Nat := 65536 * kind + index
/-- The owner tag of a lease: 0x0FFF when free. -/
def State.lease (s : State) (kind index : Nat) : BitVec 16 := sget 0#16 s.leases (leaseKey kind index) ^^^ 0x0FFF#16
/-- The owner tag of a partition and holder. -/
def ownerTag (p holder : Nat) : BitVec 16 := BitVec.ofNat 16 (4096 * p + holder)
/-- Granting a lease. -/
def State.grant (s : State) (kind index : Nat) (tag : BitVec 16) : State :=
  { s with leases := sput 0#16 (leaseKey kind index) (tag ^^^ 0x0FFF#16) s.leases }
/-- Releasing a lease. -/
def State.release (s : State) (kind index : Nat) : State :=
  { s with leases := sdel (leaseKey kind index) s.leases }
/-- The partition of a stored lease. -/
def tagPart (stored : BitVec 16) : Nat := (stored ^^^ 0x0FFF#16).toNat / 4096
/-- Releasing every lease of some kinds that a partition holds (R376, R396). -/
def State.releasePart (s : State) (p : Nat) (kinds : List Nat) : State :=
  { s with leases := s.leases.filter fun (k, v) => !(tagPart v == p && kinds.contains (k / 65536)) }

end Sys2Proof.Machine
end

