-- ==== Sys2Proof/Machine/Flash.lean ====
section
/-!
DEFINITION. The two SPI NOR flash devices (spec/16_boot_and_security.md R407 to R414): what a device does, its layout, the
directory, the field repair table, the link settings record, and the firmware images with the fuses that judge them (R413,
R418).
-/

namespace Sys2Proof.Machine

open Sys2Proof

/-! ## A device (R407) -/

/-- Bytes of a device: an erased one reads 0xFF. -/
def Flash.get (f : Flash) (a n : Nat) : Bytes := (mreads f.mem a n).map fun b => ~~~b

/-- Where an image slot begins, and its size (Table 16.3). -/
def slotBase (n : Fin 2) : Nat := 0x100000 + 0x1800000 * n.val
/-- 24 MiB. -/
def slotSize : Nat := 0x1800000

/-- A slot with bytes from `lo` up to `hi` written or erased no longer holds its factory image. -/
def Flash.touch (f : Flash) (lo hi : Nat) : Flash :=
  let hit (n : Fin 2) : Bool := decide (lo < slotBase n + slotSize) && decide (slotBase n < hi)
  { f with slot0 := if hit 0 then none else f.slot0, slot1 := if hit 1 then none else f.slot1 }

/-- Programming bytes: a 1 becomes the 0 that is written, a 0 stays (notes/assumptions/108.md). -/
def progBytes (a : Nat) (bs : Bytes) (m : Mem) : Mem :=
  match bs with
  | [] => m
  | b :: r => progBytes (a + 1) r (mwrite a (mread m a ||| ~~~b) m)

/-- Page programs of bytes from an address on. -/
def Flash.program (f : Flash) (a : Nat) (bs : Bytes) : Flash :=
  { f.touch a (a + bs.length) with mem := progBytes a bs f.mem }

/-- Erases of 4 KiB sectors, `n` of them from an address on. -/
def Flash.erase (f : Flash) (a n : Nat) : Flash :=
  let lo := a / 4096 * 4096
  { f.touch lo (lo + 4096 * n) with mem := mclear lo (lo + 4096 * n) f.mem }

/-- What the host drives through the pins (R423). Bytes past the end of a page change nothing (notes/assumptions/108.md). -/
def Flash.drive (f : Flash) (o : SpiOp) : Flash :=
  match o with
  | .program a b => f.program a.toNat (b.take (256 - a.toNat % 256))
  | .erase a => f.erase a.toNat 1

/-! ## The directory (R409) -/

/-- The CRC-32C of a record stands behind its first `n` bytes. -/
def crcHolds (b : Bytes) (n : Nat) : Bool := crc32c (b.take n) == BitVec.ofNat 32 (field b n 4)

/-- A directory copy, if it is valid. -/
def Flash.copy (f : Flash) (i : Nat) : Option Directory :=
  let b := f.get (4096 * i) 16
  if field b 0 4 == 0x5249444B && crcHolds b 12 then
    some { active := if field b 4 1 = 0 then 0 else 1, generation := BitVec.ofNat 32 (field b 8 4) }
  else none

/-- The valid copy with the higher generation. -/
def Flash.directory (f : Flash) : Option Directory :=
  match f.copy 0, f.copy 1 with
  | some a, some b => some (if a.generation.toNat < b.generation.toNat then b else a)
  | some a, none => some a
  | none, b => b

/-- A directory copy as bytes. -/
def Directory.bytes (d : Directory) : Bytes :=
  let b := toLe 4 0x5249444B ++ toLe 1 d.active.val ++ zeros 3 ++ leBytes 4 d.generation
  b ++ leBytes 4 (crc32c b)

/-- The copy that does not hold the directory. -/
def Flash.spareCopy (f : Flash) : Nat :=
  match f.copy 0, f.copy 1 with
  | some a, some b => if a.generation.toNat < b.generation.toNat then 0 else 1
  | some _, none => 1
  | none, _ => 0

/-- Changing the directory: the copy that does not hold it is erased and written, with the generation one higher. -/
def Flash.setActive (f : Flash) (slot : Fin 2) : Flash :=
  let d : Directory := { active := slot, generation := match f.directory with | some d => d.generation + 1 | none => 1 }
  (f.erase (4096 * f.spareCopy) 1).program (4096 * f.spareCopy) d.bytes

/-- The active slot: device A's directory, or device B's. With neither valid the manual names none: a free value. -/
def State.activeSlot (s : State) : Fin 2 :=
  match s.flashA.directory, s.flashB.directory with
  | some d, _ => d.active
  | none, some d => d.active
  | none, none => if s.freeBit then 1 else 0

/-- The other slot. -/
def otherSlot (n : Fin 2) : Fin 2 := if n = 0 then 1 else 0

/-! ## The field repair table (R46, R410) -/

/-- Where entry `i` of a copy stands. -/
def entryAt (copy i : Nat) : Nat := 0x3100000 + 0x8000 * copy + 8 * i

/-- An entry of a copy. -/
def Flash.entry (f : Flash) (copy i : Nat) : BitVec 64 := BitVec.ofNat 64 (field (f.get (entryAt copy i) 8) 0 8)

/-- Copies A0, A1, B0 and B1 of an entry. -/
def State.entries (s : State) (i : Nat) : List (BitVec 64) :=
  [s.flashA.entry 0 i, s.flashA.entry 1 i, s.flashB.entry 0 i, s.flashB.entry 1 i]

/-- The entries of the table from index `i` on, `fuel` at most: it ends where every copy is unwritten. Of the four copies the
first that a test passes counts; with none, the first that is written. -/
def State.tableFrom (s : State) (valid : BitVec 64 → Bool) (fuel i : Nat) : List (BitVec 64) :=
  match fuel with
  | 0 => []
  | n + 1 =>
    let l := s.entries i
    match l.find? (· != 0xFFFFFFFFFFFFFFFF#64) with
    | none => []
    | some e => ((l.find? valid).getD e) :: s.tableFrom valid n (i + 1)

/-- The table, of 4,096 entries at most. -/
def State.table (s : State) (valid : BitVec 64 → Bool) : List (BitVec 64) := s.tableFrom valid 4096 0

/-- An entry appended to both copies of a device. -/
def Flash.append (f : Flash) (i : Nat) (e : BitVec 64) : Flash :=
  (f.program (entryAt 0 i) (leBytes 8 e)).program (entryAt 1 i) (leBytes 8 e)

/-! ## The link settings record (R411) -/

/-- The record of a device, if it is valid. -/
def Flash.settings (f : Flash) : Option LinkSettings :=
  let b := f.get 0x3110000 32
  let modes := (List.range 16).map fun d => field b (8 + d) 1
  let g := field b 0x1A 2
  if field b 0 4 == 0x534C4B4B && crcHolds b 28 && modes.all (fun m => decide (1 ≤ m ∧ m ≤ 3)) && field b 0x19 1 == 0 &&
      decide (125 ≤ g ∧ g ≤ 1250) then
    some { generation := BitVec.ofNat 32 (field b 4 4), modes := modes, timePri := BitVec.ofNat 8 (field b 0x18 1), g := g }
  else none

/-- The record as bytes. -/
def LinkSettings.bytes (k : LinkSettings) : Bytes :=
  let b := toLe 4 0x534C4B4B ++ leBytes 4 k.generation ++ k.modes.flatMap (toLe 1) ++ leBytes 1 k.timePri ++ zeros 1 ++ toLe 2 k.g
  b ++ leBytes 4 (crc32c b)

/-- The record of a device erased and written. -/
def Flash.settle (f : Flash) (k : LinkSettings) : Flash := (f.erase 0x3110000 1).program 0x3110000 k.bytes

/-- The link settings in force: the valid record of the higher generation. -/
def State.settings (s : State) : Option LinkSettings :=
  match s.flashA.settings, s.flashB.settings with
  | some a, some b => some (if a.generation.toNat < b.generation.toNat then b else a)
  | some a, none => some a
  | none, b => b

/-- New link settings, on FLASH_A and then FLASH_B, with a generation one higher than that of the record in force. -/
def State.saveSettings (s : State) (modes : List Nat) (pri : BitVec 8) (g : Nat) : State :=
  let k : LinkSettings :=
    { generation := match s.settings with | some k => k.generation + 1 | none => 1, modes := modes, timePri := pri, g := g }
  { s with flashA := s.flashA.settle k, flashB := s.flashB.settle k }

/-! ## Firmware images (R412, R413, R418) -/

/-- The rollback count: one more than the highest blown fuse (R418). -/
def Fuses.count (f : Fuses) : Nat :=
  (List.range 64).foldl (fun a i => if f.rollback.getLsbD i then i + 1 else a) 0

/-- Checks 1 and 2 of R413: the header's fixed fields, reserved bytes, the body's length and hash. Bits [7:1] of the flags
are reserved, but R413 speaks of reserved bytes: an image with one of them set is accepted (DESIGN CHOICE,
notes/assumptions/109.md). -/
def imageForm (b : Bytes) : Bool :=
  let n := field b 0x14 4
  field b 0 4 == 0x5746474B && field b 4 2 == 1 && field b 6 2 == 512 && field b 8 2 == 0x1200 && field b 0x0A 1 == 0xB1 &&
  decide (field b 0x0B 1 ≤ 1) &&
  slice b 0xA9 23 == zeros 23 && slice b 0x120 224 == zeros 224 &&
  n % 64 == 0 && decide (64 ≤ n ∧ n ≤ 25165312) && Config.sha384 (slice b 512 n) == slice b 0x18 48

/-- Check 3 but for revocation, and check 4. -/
def Fuses.signed (f : Fuses) (b : Bytes) : Bool :=
  let key := slice b 0x48 97
  Config.sha384 key == leBytes 48 (if field b 0x0B 1 = 0 then f.key0Hash else f.key1Hash) &&
    Config.ecdsaP384 key (slice b 0 0xC0) (slice b 0xC0 96)

/-- The image that bytes hold. -/
def Fuses.image (f : Fuses) (b : Bytes) : FwImage :=
  { key := if field b 0x0B 1 = 0 then 0 else 1, build := BitVec.ofNat 32 (field b 0x0C 4), gmpMajor := BitVec.ofNat 8 (field b 0x11 1)
    gmpMinor := BitVec.ofNat 8 (field b 0x10 1), rollback := field b 0x12 1, revoke := field b 0x13 1 % 2 == 1
    authentic := imageForm b && f.signed b, bytes := b }

/-- R413, with the fuses as they are now. -/
def Fuses.accepts (f : Fuses) (i : FwImage) : Bool :=
  i.authentic && !f.keyRevoke.getLsbD i.key.val && decide (f.count ≤ i.rollback)

/-- The image of a slot: the factory's, or what its bytes hold. -/
def Flash.slot (f : Flash) (k : Fuses) (n : Fin 2) : FwImage :=
  match if n = 0 then f.slot0 else f.slot1 with
  | some i => i
  | none => k.image (f.get (slotBase n) (512 + Nat.min 25165312 (field (f.get (slotBase n + 0x14) 4) 0 4)))

/-- The valid image in a slot of a device. -/
def State.validAt (s : State) (f : Flash) (n : Fin 2) : Option FwImage :=
  if s.fuses.accepts (f.slot s.fuses n) then some (f.slot s.fuses n) else none

/-- Valid under R413 on both devices. -/
def State.validBoth (s : State) (n : Fin 2) : Option FwImage :=
  match s.validAt s.flashA n, s.validAt s.flashB n with
  | some a, some _ => some a
  | _, _ => none

/-- A slot erased. -/
def Flash.eraseSlot (f : Flash) (n : Fin 2) : Flash := f.erase (slotBase n) (slotSize / 4096)

/-- An image written to a slot of a device. One that does not read back leaves no valid image
(notes/assumptions/108.md). -/
def Flash.store (f : Flash) (n : Fin 2) (i : FwImage) (ok : Bool) : Flash :=
  if ok then (f.eraseSlot n).program (slotBase n) i.bytes else f.eraseSlot n

/-- A write that is cut off leaves a slot with its old image or partly written, which is no valid image (R240, Table 16.7). -/
def Flash.losing (f : Flash) (slot : Fin 2) (keep : Bool) : Flash := if keep then f else f.eraseSlot slot

/-- Every admitted request is done. -/
def State.drained (s : State) : Bool := (List.range 16).all fun p => (s.part p).queue.isEmpty && (s.part p).run.isNone

/-! ## Blowing fuses (R417, R418, R420) and cut-off work (R240, Table 16.7) -/

/-- Blowing the rollback fuses from `lo` up to below `hi`; when one fails its read-back twice, which of them hold is free. -/
def State.blow (s : State) (lo n : Nat) (ok : Bool) : State :=
  match n with
  | 0 => s
  | k + 1 =>
    let s : State := if ok || s.freeBit then { s with fuses := { s.fuses with rollback := s.fuses.rollback ||| BitVec.ofNat 64 (2 ^ lo) } } else s
    s.drew.blow (lo + 1) k ok

/-- Step 3 of R420. -/
def State.commitFuses (s : State) (i : FwImage) (ok : Bool) : State :=
  let n := s.fuses.count
  let s := s.blow n (i.rollback - n) ok
  let other : BitVec 2 := if i.key = 0 then 2#2 else 1#2
  if i.revoke && (ok || s.freeBit) then { s.drew with fuses := { s.fuses with keyRevoke := s.fuses.keyRevoke ||| other } } else s.drew

/-- A commit of an image has a fuse to blow. -/
def Fuses.blows (f : Fuses) (i : FwImage) : Bool :=
  decide (f.count < i.rollback) || (i.revoke && !f.keyRevoke.getLsbD (if i.key = 0 then 1 else 0))

/-- Fuses blown one after another until power is lost: how many is free. -/
def State.blowSome (s : State) (lo n : Nat) : State :=
  match n with
  | 0 => s
  | k + 1 =>
    if s.freeBit then
      ({ s.drew with fuses := { s.fuses with rollback := s.fuses.rollback ||| BitVec.ofNat 64 (2 ^ lo) } } : State).blowSome (lo + 1) k
    else s.drew

/-- A commit that is cut off: the count lies between its old value and the image's index, and the key is revoked only after
that. -/
def State.cutCommit (s : State) (i : FwImage) : State :=
  let s := s.blowSome s.fuses.count (i.rollback - s.fuses.count)
  let other : BitVec 2 := if i.key = 0 then 2#2 else 1#2
  if i.revoke && decide (i.rollback ≤ s.fuses.count) && s.freeBit then
    { s.drew with fuses := { s.fuses with keyRevoke := s.fuses.keyRevoke ||| other } }
  else s.drew

/-- An activation that is cut off, once every admitted request is done: each device has its old or its new directory, and
with both written the fuses may be partly blown. -/
def State.cutActivation (s : State) (slot : Fin 2) (commit : Bool) : State :=
  if s.drained then
    let a := s.freeBit
    let b := s.drew.freeBit
    let image := s.validBoth slot
    let s : State := { s.drew.drew with flashA := if a then s.flashA.setActive slot else s.flashA
                                        flashB := if b then s.flashB.setActive slot else s.flashB }
    match image with
    | some i => if a && b && commit then s.cutCommit i else s
    | none => s
  else s

/-- The firmware job in progress is cut off: a write leaves each device's inactive slot with its old image, when a test lets
it, or with none. -/
def State.cutFirmware (s : State) (may : Bool) : State :=
  match s.fwJob with
  | some (.write slot _) =>
    { s.drew.drew with flashA := s.flashA.losing slot (may && s.freeBit), flashB := s.flashB.losing slot (may && s.drew.freeBit)
                       fwJob := none }
  | some (.activate slot commit) => { s.cutActivation slot commit with fwJob := none }
  | none => s

end Sys2Proof.Machine
end

