-- ==== Sys2Proof/Machine/Clusters.lean ====
section
/-!
DEFINITION. Clusters as a whole: the reset of their cores (spec/03_core.md R80, spec/13_clocks_and_power_states.md
R332), their power states (R331 to R345), fences (spec/05_fabric.md R128), slot loads
(spec/07_plans_and_scan.md R171, R181) and the repair map (spec/02_wafer_geography.md R42, R43).
-/

namespace Sys2Proof.Machine

open Sys2Proof

/-! ## Reset of a core -/

/-- A core after START (R80) in a slot and mode: the slots, the fence and the counters of R85, R88 and R139 stay. -/
def Core.startReset (c : Core) (slot : Fin 4) (guarded : Bool) : Core :=
  { active := true, slot := slot, guarded := guarded
    slipRange := c.slipRange, slipQueue := c.slipQueue, slipHolds := c.slipHolds, eccCe := c.eccCe, eccUe := c.eccUe
    fence := c.fence, qmax := c.qmax, slots := c.slots }

/-- A core after an exit from C2 or C3 (R332): every register, queue, counter, slot and pipeline at its reset value.
The fence stays as R128 sets it. -/
def Core.powerReset (c : Core) : Core := { fence := c.fence }

/-- A core after the soft form of PART.RESET (R396): the state of R80, no slot active, and the slip counters and
CO_QMAX clear. -/
def Core.softReset (c : Core) : Core :=
  { eccCe := c.eccCe, eccUe := c.eccUe, fence := c.fence, slots := c.slots }

/-- Changing every physical core of a cluster. -/
def State.modClusterCores (s : State) (c : Nat) (f : Core → Core) : State :=
  s.each (List.range 272) fun t i => t.modCore (272 * c + i) f

/-- Changing every listed core of a cluster, the others being at reset already. -/
def State.modListedCores (s : State) (c : Nat) (f : Core → Core) : State :=
  { s with cores := smapAll {} (fun k v => if k / 272 = c then f v else v) s.cores }

/-- Zero to every scratchpad of a cluster (R56). -/
def State.zeroSpads (s : State) (c : Nat) : State :=
  { s with spad := mclear (262144 * 272 * c) (262144 * 272 * (c + 1)) s.spad }

/-! ## Power states (Table 13.1) -/

/-- Depth of a cluster state. -/
def CState.depth (p : CState) : Nat :=
  match p with
  | .c0 => 0
  | .c1 => 1
  | .c2 => 2
  | .c3 => 3

/-- The deeper of two states. -/
def deeper (a b : CState) : CState := if a.depth < b.depth then b else a

/-- The command to enter a deeper state (R331). A change in progress towards a deeper one goes on, and ends no higher
than the state commanded; C2 or C3 ends a background test of the cluster (R388). A retired, tripped or held cluster is in C3 and stays there. -/
def Cluster.enter (c : Cluster) (aim : CState) : Cluster :=
  let c : Cluster := if 2 ≤ aim.depth then { c with testRow := none } else c
  match c.trans with
  | some (.enter e w) =>
    { c with trans := some (if aim.depth < e.depth then .enter e (w.map fun x => deeper x aim) else .enter aim none) }
  | some (.exit e) =>
    { c with trans := some (if aim.depth ≤ 1 ∧ aim.depth < c.power.depth then .exit (deeper e aim)
        else .enter (deeper c.power aim) none) }
  | none => if c.power.depth < aim.depth then { c with trans := some (.enter aim none) } else c

/-- Whether a cluster may leave C3 (R44, R349, R351). -/
def Cluster.mayWake (c : Cluster) : Bool := !(c.retired || c.tripped || c.zoneHeld)

/-- A wake: an exit begins, or is latched while an entry completes (R344, R345). -/
def Cluster.wake (c : Cluster) (aim : CState) : Cluster :=
  if c.mayWake then
    match c.trans with
    | some (.enter e _) => { c with trans := some (.enter e (some aim)) }
    | some (.exit e) => { c with trans := some (.exit (if aim.depth < e.depth then aim else e)) }
    | none => if aim.depth < c.power.depth then { c with trans := some (.exit aim) } else c
  else c

/-- The cluster is in a state with no change in progress. -/
def Cluster.at (c : Cluster) (p : CState) : Bool := c.power == p && c.trans.isNone

/-- Row nodes answer NO_TARGET from the start of a C2 or C3 entry (R137, R345). -/
def Cluster.noTarget (c : Cluster) : Bool :=
  match c.trans with
  | some (.enter e _) => decide (2 ≤ e.depth)
  | _ => decide (2 ≤ c.power.depth)

/-- Every cluster of a list enters a state. -/
def State.enterAll (s : State) (l : List Nat) (aim : CState) : State :=
  s.each l fun t c => t.modCluster c (·.enter aim)

/-- Every cluster of a list wakes to a state. -/
def State.wakeAll (s : State) (l : List Nat) (aim : CState) : State :=
  s.each l fun t c => t.modCluster c (·.wake aim)

/-- The state a partition's clusters are placed in with no run in progress (Table 13.2). -/
def PartState.restState (q : PartState) : CState :=
  if q.bound.isNone then .c3 else match q.park with
    | .parked => q.parkTo
    | _ => .c1

/-- The clusters of a partition that serves its bound plan wake to C1 (Table 13.2). -/
def State.place (s : State) (p : Nat) : State :=
  let q := s.part p
  if q.bound.isSome && (q.park == .serving || q.park == .unparking) then s.wakeAll (s.partClusters p) .c1 else s

/-- A cluster is as deep as a park state asks, with no change in progress; a retired one always is. -/
def Cluster.parkedAt (c : Cluster) (aim : CState) : Bool := c.retired || (c.trans.isNone && decide (aim.depth ≤ c.power.depth))

/-- A park is complete once its entry queue is empty and every cluster is in the park state (R336). -/
def State.parkDone (s : State) (p : Nat) : State :=
  let q := s.part p
  if q.park == .parking && q.queue.isEmpty && q.run.isNone && q.cfg.clusters.all (fun c => (s.cluster c).parkedAt q.parkTo) then
    s.modPart p fun q => { q with park := .parked }
  else s

/-! ## Slot contents (R70, R171) -/

/-- The listed words of a slot body. -/
def wordMap (i : Nat) (l : List (BitVec 64)) : SMap (BitVec 64) :=
  match l with
  | [] => []
  | w :: r => if w = 0#64 then wordMap (i + 1) r else (i, w) :: wordMap (i + 1) r

/-- A slot image as it stands in a slot. -/
def SlotImage.toSlot (i : SlotImage) : Slot :=
  { steps := i.steps, presets := i.presets, words := wordMap 0 i.words }

/-- The built-in halt image (R171): S = 1, n = 0, word 0 a HALT. -/
def haltSlot : Slot := { steps := 1, presets := 0, words := [(0, 0x9000000000000000#64)] }

/-- Whether an assignment covers a logical core (R171). -/
def Assign.covers (a : Assign) (lc : Nat) : Bool :=
  a.valid && a.rows.getLsbD (lc / 16) && a.cols.getLsbD (lc % 16)

/-- What a load puts into a logical core of the cluster of index `i` in the rectangle: the image of the assignment
that covers it, otherwise the halt image. -/
def Plan.loadSlot (pl : Plan) (ld : Load) (i lc : Nat) : Slot :=
  match ld.blocks[i]? with
  | none => haltSlot
  | some b =>
    match b.assigns.find? (·.covers lc) with
    | none => haltSlot
    | some a => match pl.images[a.image]? with
      | none => haltSlot
      | some im => im.toSlot

/-- The index of a cluster in a plan's rectangle, row-major (R171). -/
def Plan.clusterIndex (pl : Plan) (c : Nat) : Nat := (clY c - pl.y0) * pl.w + (clX c - pl.x0)

/-- Placing a load in one cluster. -/
def State.placeLoad (s : State) (pl : Plan) (ld : Load) (c : Nat) : State :=
  s.each (List.range 256) fun t lc =>
    t.modCore (t.lcore c lc) fun k => { k with slots := sput {} ld.slot.val (pl.loadSlot ld (pl.clusterIndex c) lc) k.slots }

/-- The resident loads of a partition's bound plan, in one cluster, one after another (R181, R332). -/
def State.placeResident (s : State) (p c : Nat) : State :=
  match (s.part p).boundPlan with
  | none => s
  | some l => s.each (l.plan.loads.filter (·.resident)) fun t ld => t.placeLoad l.plan ld c

/-! ## Fences (R128) -/

/-- A logical core's fence: clear only towards a neighbour of the same partition when both are in service. -/
def State.fenceOf (s : State) (r : PartRec) (c lc : Nat) : BitVec 4 :=
  allDirs.foldl (fun f d =>
    match neighbour c lc d with
    | some (c', _) =>
      if inRect r.x0 r.y0 r.w r.h c' && !(s.cluster c').retired && !(s.cluster c).retired then f
      else f ||| BitVec.ofNat 4 (2 ^ dirNum d)
    | none => f ||| BitVec.ofNat 4 (2 ^ dirNum d)) 0#4

/-- Writing CO_FENCE in every core of a cluster: every bit of a core that is not a logical core. -/
def State.fenceCluster (s : State) (r : PartRec) (c : Nat) : State :=
  s.each (List.range 272) fun t i =>
    t.modCore (272 * c + i) fun k =>
      { k with fence := match (s.cluster c).logical i with
          | some lc => s.fenceOf r c lc
          | none => 0b1111#4 }

/-- Setting every fence bit of a cluster (R216). -/
def State.sealCluster (s : State) (c : Nat) : State := s.modListedCores c fun k => { k with fence := 0b1111#4 }

/-! ## The repair map (R42, R43, Table 2.5) -/

/-- A repair table entry: kind 0x01 map-out, 0x02 spare-bad, 0x03 retire. -/
def repairEntry (kind column row cluster : Nat) : BitVec 64 :=
  BitVec.ofNat 64 (column * 4294967296 + kind * 16777216 + row * 65536 + cluster)

/-- Whether an entry is valid (R46). -/
def repairValid (e : BitVec 64) : Bool :=
  let kind := bitsOf e.toNat 31 24
  decide (1 ≤ kind ∧ kind ≤ 3) && decide (bitsOf e.toNat 10 0 < 1200) &&
    !(kind == 1 && decide (17 ≤ bitsOf e.toNat 36 32))

/-- Applying a valid entry to its cluster's map: the new map, and the condition of R43 that retires it (Table 15.5). -/
def Cluster.repair (c : Cluster) (e : BitVec 64) : Cluster × Option Nat :=
  let kind := bitsOf e.toNat 31 24
  let row := bitsOf e.toNat 19 16
  let col := bitsOf e.toNat 36 32
  let u := c.omitCol row
  if c.retired then (c, none)
  else if kind == 3 then ({ c with retired := true }, some 4)
  else if kind == 2 || (kind == 1 && col == 8 && u == 8) then
    if u != 8 then ({ c with retired := true }, some 3)
    else ({ c with spareBad := c.spareBad ||| BitVec.ofNat 16 (2 ^ row) }, none)
  else if u != 8 then ({ c with retired := true }, some 1)
  else if c.spareBad.getLsbD row then ({ c with retired := true }, some 2)
  else ({ c with omitXor := sput 0#5 row (BitVec.ofNat 5 col ^^^ 8#5) c.omitXor
                 fieldRow := c.fieldRow ||| BitVec.ofNat 16 (2 ^ row) }, none)

/-- Appending an entry to both copies of the field repair table on both devices; full at 4,096 entries (R386, R410). -/
def State.appendRepair (s : State) (e : BitVec 64) : State :=
  let n := (s.table repairValid).length
  if n < 4096 then { s with flashA := s.flashA.append n e, flashB := s.flashB.append n e }
  else s.log 0x0205 none (some (bitsOf e.toNat 10 0)) none 0 15 n

/-- A cluster retires: in C3, bypassed, fenced on every side, as its neighbours are towards it (R43, R44, R128,
R191). -/
def State.retire (s : State) (c cause : Nat) : State :=
  let s := (s.modCluster c fun k => { k with retired := true }).log 0x0303 (s.partOf c) (some c) none 0 15 cause
  let s := (s.sealCluster c).modCluster c (·.enter .c3)
  match s.partOf c with
  | none => s
  | some p =>
    let r := (s.part p).cfg
    s.each ((List.range 256).flatMap fun lc => allDirs.filterMap fun d =>
        (neighbour c lc d).map fun (c', lc') => (c', lc', d)) fun t (c', lc', d) =>
      if c' != c && inRect r.x0 r.y0 r.w r.h c' then
        t.modCore (t.lcore c' lc') fun k => { k with fence := k.fence ||| BitVec.ofNat 4 (2 ^ dirNum (dirOpp d)) }
      else t

/-- R129, R212: the words that the fences of a cluster have counted reach HD_VIOL_COUNT of the partition that owns it. -/
def State.sendViol (s : State) (c : Nat) : State :=
  let k := s.cluster c
  if k.violUnsent = 0 then s
  else
    let s := s.modCluster c fun k => { k with violUnsent := 0 }
    if k.assigned then s.violate k.partition.val 3 k.violUnsent else s

/-- Every loaded plan of a partition becomes unverified, and a PLAN.VERIFY that runs will answer BUSY (R180). -/
def State.unverify (s : State) (p : Nat) : State :=
  let s : State := { s with longs := s.longs.map fun l => if l.code = 0x23 ∧ l.part.val = p then { l with stale := true } else l }
  s.modPart p fun q => { q with plans := smapAll {} (fun _ l => { l with verified := false }) q.plans }

end Sys2Proof.Machine
end

