-- ==== Sys2Proof/Machine/Num.lean ====
section
/-!
DEFINITION. Numbers (spec/04_number_formats.md): exact values, rounding, the formats of Table 4.1 with their
conversions (R90 to R103), the array's sums (R98 to R101), and the vector unit's operations and functions (R105 to
R111).
-/

namespace Sys2Proof.Machine

open Sys2Proof

/-- An exact value: NaN, a signed infinity, or ±mant × 2^exp with a signed zero when mant is 0. -/
inductive FVal where
  | nan
  | inf (neg : Bool)
  | fin (neg : Bool) (mant : Nat) (exp : Int)
  deriving DecidableEq, Repr

/-- Signed zero. -/
def FVal.zero (neg : Bool) : FVal := .fin neg 0 0

/-! ## Exact arithmetic -/

/-- The integer ±mant at a common exponent `e` not above its own. -/
def scaled (neg : Bool) (m : Nat) (x e : Int) : Int :=
  let n : Int := Int.ofNat (m * 2 ^ (x - e).toNat)
  if neg then -n else n

/-- Exact sum; a zero sum is −0 only when both terms are negative (IEEE 754 to nearest and toward zero). -/
def FVal.add (a b : FVal) : FVal :=
  match a, b with
  | .nan, _ => .nan
  | _, .nan => .nan
  | .inf x, .inf y => if x = y then .inf x else .nan
  | .inf x, _ => .inf x
  | _, .inf y => .inf y
  | .fin s m x, .fin t n y =>
    let e := if x ≤ y then x else y
    let z := scaled s m x e + scaled t n y e
    if z = 0 then .fin (s && t) 0 0 else .fin (decide (z < 0)) z.natAbs e

/-- Exact product (R98). -/
def FVal.mul (a b : FVal) : FVal :=
  match a, b with
  | .nan, _ => .nan
  | _, .nan => .nan
  | .inf x, .inf y => .inf (x != y)
  | .inf x, .fin t n _ => if n = 0 then .nan else .inf (x != t)
  | .fin s m _, .inf y => if m = 0 then .nan else .inf (s != y)
  | .fin s m x, .fin t n y => if m = 0 ∨ n = 0 then .fin (s != t) 0 0 else .fin (s != t) (m * n) (x + y)

/-- The other sign. -/
def FVal.neg (a : FVal) : FVal :=
  match a with
  | .nan => .nan
  | .inf x => .inf (!x)
  | .fin s m x => .fin (!s) m x

/-- Zero, of either sign. -/
def FVal.isZero (a : FVal) : Bool := match a with | .fin _ 0 _ => true | _ => false

/-- a < b for values that are not NaN; zeros are equal. -/
def FVal.lt (a b : FVal) : Bool :=
  match a, b with
  | .nan, _ => false
  | _, .nan => false
  | .inf x, .inf y => x && !y
  | .inf x, _ => x
  | _, .inf y => !y
  | .fin s m x, .fin t n y =>
    let e := if x ≤ y then x else y
    decide (scaled s m x e < scaled t n y e)

/-! ## Rounding -/

/-- mant × 2^exp as a multiple of 2^q, to nearest with ties to even or toward zero. -/
def roundMant (rtz : Bool) (m : Nat) (x q : Int) : Nat :=
  if q ≤ x then m * 2 ^ (x - q).toNat
  else
    let d := 2 ^ (q - x).toNat
    let n := m / d
    let r := m % d
    if rtz then n else if d < 2 * r ∨ (2 * r = d ∧ n % 2 = 1) then n + 1 else n

/-- The exponent of the last bit kept of `p` significant bits, not below `qmin` where there is one. -/
def lastBit (m : Nat) (x : Int) (p : Nat) (qmin : Option Int) : Int :=
  let q := x + Int.ofNat (Nat.log2 m) + 1 - Int.ofNat p
  match qmin with
  | some k => if q < k then k else q
  | none => q

/-- Rounding a finite value to `p` significant bits. -/
def FVal.round (rtz : Bool) (p : Nat) (qmin : Option Int) (a : FVal) : FVal :=
  match a with
  | .fin s m x =>
    if m = 0 then .fin s 0 0
    else
      let q := lastBit m x p qmin
      let n := roundMant rtz m x q
      if n = 0 then .fin s 0 0 else .fin s n q
  | _ => a

/-- |a| ≥ n × 2^e. -/
def FVal.atLeast (a : FVal) (n : Nat) (e : Int) : Bool :=
  match a with
  | .nan => false
  | .inf _ => true
  | .fin _ m x => !(FVal.lt (.fin false m x) (.fin false n e))

/-- The sign. -/
def FVal.sign (a : FVal) : Bool :=
  match a with
  | .nan => false
  | .inf x => x
  | .fin s _ _ => s

/-- The formats of Table 4.1. -/
inductive Fmt where
  | fp32
  | bf16
  | fp16
  | e4m3
  | e5m2
  | int8
  deriving DecidableEq, Repr

/-- Significant bits, exponent width and bias, for the floating-point formats. -/
def Fmt.shape (f : Fmt) : Nat × Nat × Nat :=
  match f with
  | .fp32 => (24, 8, 127)
  | .bf16 => (8, 8, 127)
  | .fp16 => (11, 5, 15)
  | .e4m3 => (4, 4, 7)
  | .e5m2 => (3, 5, 15)
  | .int8 => (8, 0, 0)

/-- Bits of an element. -/
def Fmt.bits (f : Fmt) : Nat :=
  match f with
  | .fp32 => 32
  | .bf16 => 16
  | .fp16 => 16
  | _ => 8

/-- Exponent of the smallest subnormal. -/
def Fmt.qmin (f : Fmt) : Int := let (p, _, b) := f.shape; 2 - Int.ofNat b - Int.ofNat p
/-- The largest finite value. -/
def Fmt.largest (f : Fmt) : Nat × Int :=
  match f with
  | .fp32 => (16777215, 104)
  | .bf16 => (255, 120)
  | .fp16 => (2047, 5)
  | .e4m3 => (448, 0)
  | .e5m2 => (57344, 0)
  | .int8 => (127, 0)
/-- The value at or above which a rounded result overflows. -/
def Fmt.over (f : Fmt) : Nat × Int :=
  match f with
  | .fp32 => (1, 128)
  | .bf16 => (1, 128)
  | .fp16 => (1, 16)
  | .e4m3 => (480, 0)
  | .e5m2 => (1, 16)
  | .int8 => (128, 0)

/-- Table 4.4: a value in a narrower format (or FP32), as a value of that format. -/
def FVal.aim (a : FVal) (f : Fmt) (rtz sat : Bool) : FVal :=
  let e4over (s : Bool) : FVal := if sat then .nan else .fin s 448 0
  match a with
  | .nan => if f = .int8 then .zero false else .nan
  | .inf s =>
    if f = .int8 then .fin s (if s then 128 else 127) 0 else if f = .e4m3 then e4over s else .inf s
  | .fin s _ _ =>
    if f = .int8 then
      match a.round rtz 300 (some 0) with
      | .fin s m x =>
        let n := m * 2 ^ x.toNat
        let top := if s then 128 else 127
        if n = 0 then .zero false else .fin s (if top < n then top else n) 0
      | v => v
    else
      let (p, _, _) := f.shape
      let v := a.round rtz p (some f.qmin)
      if v.atLeast f.over.1 f.over.2 then
        if f = .e4m3 then e4over s else if rtz then .fin s f.largest.1 f.largest.2 else .inf s
      else v

/-! ## Encoding (R90, R91) -/

/-- The canonical NaN (Table 4.2). -/
def Fmt.nan (f : Fmt) : Nat :=
  match f with
  | .fp32 => 0x7FC00000
  | .bf16 => 0x7FC0
  | .fp16 => 0x7E00
  | .e4m3 => 0x7F
  | .e5m2 => 0x7E
  | .int8 => 0

/-- The encoding of a value of the format. -/
def FVal.encode (a : FVal) (f : Fmt) : Nat :=
  let (p, w, b) := f.shape
  let signBit (s : Bool) : Nat := if s then 2 ^ (f.bits - 1) else 0
  match a with
  | .nan => f.nan
  | .inf s => signBit s + (2 ^ w - 1) * 2 ^ (p - 1)
  | .fin s m x =>
    if f = .int8 then (let n := m * 2 ^ x.toNat; if s then (256 - n) % 256 else n % 256)
    else if m = 0 then signBit s
    else
      let top := x + Int.ofNat (Nat.log2 m)
      let e := top + Int.ofNat b
      if 1 ≤ e then
        let n := roundMant true m x (top + 1 - Int.ofNat p)
        signBit s + e.toNat * 2 ^ (p - 1) + n % 2 ^ (p - 1)
      else signBit s + roundMant true m x f.qmin

/-- The value an encoding holds. -/
def Fmt.decode (f : Fmt) (v : Nat) : FVal :=
  let (p, w, b) := f.shape
  if f = .int8 then (let n := v % 256; if n < 128 then .fin false n 0 else .fin true (256 - n) 0)
  else
    let s := v / 2 ^ (f.bits - 1) % 2 = 1
    let e := v / 2 ^ (p - 1) % 2 ^ w
    let m := v % 2 ^ (p - 1)
    if f = .e4m3 ∧ e = 15 ∧ m = 7 then .nan
    else if f ≠ .e4m3 ∧ e = 2 ^ w - 1 then (if m = 0 then .inf s else .nan)
    else if e = 0 then .fin s m f.qmin
    else .fin s (m + 2 ^ (p - 1)) (Int.ofNat e - Int.ofNat b - Int.ofNat (p - 1))

/-- An FP32 word's value. -/
def f32 (v : BitVec 32) : FVal := Fmt.fp32.decode v.toNat
/-- A value of at most FP32 precision as an FP32 word. -/
def FVal.word (a : FVal) : BitVec 32 := BitVec.ofNat 32 (a.encode .fp32)

/-! ## The array (R92 to R103) -/

/-- R98: a BF16 or FP16 subnormal input to a MAC is zero of its sign. -/
def macInput (f : Fmt) (v : Nat) : FVal :=
  let a := f.decode v
  match f, a with
  | .bf16, .fin s m _ => if m < 128 then .zero s else a
  | .fp16, .fin s m _ => if m < 1024 then .zero s else a
  | _, _ => a

/-- Table 4.3: K4 to INT8. -/
def k4Int (n : Nat) : Nat := if n < 8 then n else 240 + n
/-- Table 4.3: K4 to E4M3. -/
def k4E4m3 (n : Nat) : Nat :=
  [0x00, 0x38, 0x40, 0x44, 0x48, 0x4A, 0x4C, 0x4E, 0xD0, 0xCE, 0xCC, 0xCA, 0xC8, 0xC4, 0xC0, 0xB8].getD n 0
/-- Table 4.3: K4E to E4M3. -/
def k4eE4m3 (n : Nat) : Nat :=
  [0x00, 0x20, 0x28, 0x30, 0x38, 0x40, 0x48, 0x50, 0x00, 0xA0, 0xA8, 0xB0, 0xB8, 0xC0, 0xC8, 0xD0].getD n 0

/-- R100: to nearest even at 24 bits; tiny after rounding gives a signed zero; overflow gives infinity. -/
def FVal.array (a : FVal) : FVal :=
  let v := a.round false 24 none
  match v with
  | .fin s _ _ => if v.isZero then v else if v.atLeast 1 128 then .inf s else if v.atLeast 1 (-126) then v else .zero s
  | _ => v

/-- R99, R101: a column sum going on from `s` through the products of one row run. -/
def columnFrom (s : FVal) (l : List (FVal × FVal)) : FVal :=
  l.foldl (fun s x => (s.add (x.1.mul x.2)).array) s

/-- R99: the column sum of one core. -/
def columnSum (l : List (FVal × FVal)) : FVal :=
  match l with
  | [] => .zero false
  | x :: r => columnFrom (x.1.mul x.2).array r

/-- R95: a KS12 scale; e = 0 and e = 255 are zero. -/
def ks12 (v : Nat) : FVal :=
  let e := v / 16 % 256
  if e = 0 ∨ e = 255 then .zero false else .fin false (16 + v % 16) (Int.ofNat e - 131)

/-- R102: scale, bias and conversion of one channel; `entry` is its scale-table entry. -/
def convert (acc : BitVec 32) (entry : BitVec 64) (scaleEn biasEn : Bool) (out : Fmt) (sat : Bool) : Nat :=
  let v := f32 acc
  let v := if scaleEn then (v.mul (ks12 (entry.toNat % 4096))).array else v
  let v := if biasEn then (v.add (f32 (entry.extractLsb' 32 32))).array else v
  (v.aim out false sat).encode out

/-- R99 step 3: the accumulator's new value. -/
def accUpdate (old sum : BitVec 32) (init : Bool) : BitVec 32 := if init then sum else ((f32 old).add (f32 sum)).array.word

/-! ## The vector unit (R105 to R111) -/

/-- Rounding to a compute format by rnd, held as FP32. -/
def vround (f : Fmt) (rtz : Bool) (a : FVal) : FVal := a.aim f rtz false

/-- R106: the larger or smaller. -/
def vmax (larger : Bool) (a b : FVal) : FVal :=
  match a, b with
  | .nan, _ => .nan
  | _, .nan => .nan
  | a, b =>
    if a.isZero && b.isZero then (if larger then (if a.sign then b else a) else (if a.sign then a else b))
    else if a.lt b == larger then b else a

/-- One FP32 operation to nearest even. -/
def FVal.rn (a : FVal) : FVal := a.aim .fp32 false false
/-- FMA, rounded once. -/
def fma (a b c : FVal) : FVal := ((a.mul b).add c).rn

/-- R108: subnormal inputs are zero; tiny results are zero. -/
def FVal.flush (a : FVal) : FVal :=
  match a with
  | .fin s _ _ => if a.isZero || a.atLeast 1 (-126) then a else .zero s
  | _ => a

/-- Seed of RCP (R109). -/
def rcpSeed (b : Nat) : Nat := (2 * 131072 + (257 + 2 * b)) / (2 * (257 + 2 * b))

/-- The largest `t` below 2^n for which (2t − 1)² × d ≤ k: the nearest integer, ties upward, to half of √(k/d). -/
def halfRoot (n d k : Nat) (t : Nat) : Nat :=
  match n with
  | 0 => t
  | j + 1 => let u := t + 2 ^ j; halfRoot j d k (if (2 * u - 1) * (2 * u - 1) * d ≤ k then u else t)

/-- Seed of RSQ (R110): 512 / √v for v = (129 + 2f)/128, or (129 + 2f)/64 when E is odd. -/
def rsqSeed (odd : Bool) (f : Nat) : Nat := halfRoot 10 (129 + 2 * f) (4 * 262144 * (if odd then 64 else 128)) 0

/-- One. -/
def fone : FVal := .fin false 1 0

/-- R109. -/
def rcp (x : FVal) : FVal :=
  match x.flush with
  | .nan => .nan
  | .inf s => .zero s
  | .fin s m e =>
    if m = 0 then .inf s
    else
      let x : FVal := .fin s m e
      let l := Nat.log2 m
      let big := x.atLeast 1 126
      if big then (if m = 2 ^ l ∧ e + Int.ofNat l = 126 then .fin s 1 (-126) else .zero s)
      else
        let b := (m * 128 / 2 ^ l) % 128
        let y0 : FVal := .fin s (rcpSeed b) (-(e + Int.ofNat l) - 9)
        let y1 := fma y0 (fma x.neg y0 fone) y0
        (fma y1 (fma x.neg y1 fone) y1).flush

/-- R110. -/
def rsq (x : FVal) : FVal :=
  match x.flush with
  | .nan => .nan
  | .inf s => if s then .nan else .zero false
  | .fin s m e =>
    if m = 0 then .inf s
    else if s then .nan
    else
      let l := Nat.log2 m
      let ex := e + Int.ofNat l
      let odd := ex % 2 = 1
      let ev := if odd then ex - 1 else ex
      let f := (m * 64 / 2 ^ l) % 64
      let y0 : FVal := .fin false (rsqSeed odd f) (-(ev / 2) - 9)
      let h : FVal := .fin false m (e - 1)
      let half3 : FVal := .fin false 3 (-1)
      let y1 := (y0.mul (fma h.neg ((y0.mul y0).rn) half3)).rn
      ((y1.mul (fma h.neg ((y1.mul y1).rn) half3)).rn).flush

/-- T(k) × 2^23 of EXP: the FP32 value nearest 2^(k/64) (R111). -/
def expTable : List Nat :=
  [8388608, 8479954, 8572295, 8665641, 8760003, 8855394, 8951823, 9049301, 9147842, 9247455, 9348154, 9449948,
   9552851, 9656875, 9762032, 9868333] ++
  [9975792, 10084422, 10194234, 10305242, 10417458, 10530897, 10645571, 10761494, 10878679, 10997140, 11116891,
   11237946, 11360319, 11484025, 11609078, 11735492] ++
  [11863283, 11992466, 12123055, 12255067, 12388516, 12523418, 12659789, 12797645, 12937002, 13077877, 13220286,
   13364245, 13509772, 13656884, 13805598, 13955931] ++
  [14107901, 14261526, 14416824, 14573813, 14732511, 14892937, 15055111, 15219050, 15384775, 15552304, 15721658,
   15892855, 16065917, 16240863, 16417715, 16596492]

/-- A value as an integer, to nearest even. -/
def FVal.toInt (a : FVal) : Int :=
  match a with
  | .fin s m x => let n : Int := Int.ofNat (roundMant false m x 0); if s then -n else n
  | _ => 0

/-- An integer as a value. -/
def FVal.ofInt (z : Int) : FVal := .fin (decide (z < 0)) z.natAbs 0

/-- R111, with the constants ln 2 / 64 in two parts, 64 / ln 2 and 1/6 of its steps. A product at or past 2^128 is +infinity:
every step rounds to nearest in FP32 (notes/assumptions/118.md). -/
def exp (x : FVal) : FVal :=
  match x.flush with
  | .nan => .nan
  | .inf s => if s then .zero false else .inf false
  | .fin s m e =>
    if m = 0 then fone
    else
      let x : FVal := .fin s m e
      -- 88.72284 and 87.33655 as hundred-thousandths
      let times : FVal := .fin false (m * 100000) e
      if !s && times.atLeast 8872284 0 then .inf false
      else if s && times.atLeast 8733655 0 then .zero false
      else
        let a := (x.mul (.fin false 12102203 (-17))).rn
        let k := a.toInt
        let n := k / 64
        let i := (k % 64).toNat
        let mk := (FVal.ofInt k).neg
        let r := fma mk (.fin false 2839 (-18)) x
        let r := fma mk (.fin false 8781300 (-44)) r
        let q := fma r (.fin false 11184811 (-26)) (.fin false 1 (-1))
        let q := fma q r fone
        let q := fma q r fone
        let y := ((FVal.fin false (expTable.getD i 0) (-23)).mul q).rn
        (y.mul (.fin false 1 n)).flush.rn

/-- RSUM (R105): lane 0 rounded, then each lane added and rounded. -/
def rsum (f : Fmt) (rtz : Bool) (l : List FVal) : FVal :=
  match l with
  | [] => .zero false
  | a :: r => r.foldl (fun s x => vround f rtz (s.add x)) (vround f rtz a)

end Sys2Proof.Machine
end

