-- ==== Sys2Proof/Machine/Operands.lean ====
section
/-!
DEFINITION. The operand forms of the commands: the fields of a step word (spec/03_core.md R72 to R77, Tables 3.8 and
3.9), of the registers that describe an operation (Tables 3.3, 3.5, R68, R75, R78, R82), the lines of a scratchpad and
their elements (R51, R60, R63, R64, R66), and route presets (spec/05_fabric.md R118).
-/

namespace Sys2Proof.Machine

open Sys2Proof

/-! ## Words of a slot -/

/-- The slot a core is in. -/
def Core.curSlot (k : Core) : Slot := sget {} k.slots k.slot.val

/-- HALT, which also stands at word S (R72). -/
def haltWord : BitVec 64 := 0x9000000000000000#64

/-- The word at the program counter. -/
def Core.word (k : Core) : BitVec 64 := if k.pc < k.curSlot.steps then sget 0#64 k.curSlot.words k.pc else haltWord

/-- Bits [hi:lo] of a word. -/
def wbits (w : BitVec 64) (hi lo : Nat) : Nat := bitsOf w.toNat hi lo

/-- The kinds of step word that issue; a reserved one never stands in a loaded plan (R79). -/
inductive WordKind where
  | fire
  | set
  | loop
  | wait
  | halt
  | reserved
  deriving DecidableEq, Repr

/-- R72, R77. -/
def wordKind (w : BitVec 64) : WordKind :=
  match wbits w 63 62 with
  | 0 => .fire
  | 1 => .set
  | 2 => match wbits w 61 59 with
    | 0 => .loop
    | 1 => .wait
    | 2 => .halt
    | _ => .reserved
  | _ => .reserved

/-! ## SET-writable registers (Table 3.12) -/

/-- The writable bits of a register by SET index; none for an index that is not in Table 3.12. -/
def regMask (i : Nat) : Option (BitVec 40) :=
  if i < 0x08 then some 0x80000FFFFF#40
  else if 0x10 ≤ i ∧ i < 0x20 then some 0xFFFFFFFFF8#40
  else if 0x20 ≤ i ∧ i < 0x30 then some 0xFFFFFF0000#40
  else if 0x30 ≤ i ∧ i < 0x40 then some 0xFFFFFFFFFC#40
  else if i = 0x40 then some 0xFFF8000000#40
  else if 0x48 ≤ i ∧ i < 0x50 then some 0xFFFFFFFFF0#40
  else none

/-- A SET-writable register. -/
def Core.reg (k : Core) (i : Nat) : BitVec 40 := sget 0#40 k.regs i

/-- Writing a SET-writable register; its reserved bits read zero. -/
def Core.setReg (k : Core) (i : Nat) (v : BitVec 40) : Core :=
  match regMask i with
  | some m => { k with regs := sput 0#40 i (v &&& m) k.regs }
  | none => k

/-! ## Counters (R74, R78) -/

/-- K of a counter. -/
def Core.kval (k : Core) (c : Nat) : Nat := (sget 0#20 k.k c).toNat
/-- L of a counter. -/
def Core.lval (k : Core) (c : Nat) : Nat := bitsOf (k.reg c).toNat 19 0
/-- A free-running counter. -/
def Core.free (k : Core) (c : Nat) : Bool := (k.reg c).getLsbD 39
/-- Setting K. -/
def Core.setK (k : Core) (c v : Nat) : Core := { k with k := sput 0#20 c (BitVec.ofNat 20 v) k.k }

/-- `n` advances of a counter from K: K + 1 while below L, else 0 (R78). -/
def advance (n K L : Nat) : Nat :=
  match n with
  | 0 => K
  | m + 1 => advance m (if K < L then K + 1 else 0) L

/-- Every free-running counter advances `n` times. -/
def Core.advanceFree (k : Core) (n : Nat) : Core :=
  (List.range 8).foldl (fun k c => if k.free c then k.setK c (advance n (k.kval c) (k.lval c)) else k) k

/-- Table 3.9. Predicate 7 is reserved and never stands in a loaded plan. -/
def predicate (code K L : Nat) : Bool :=
  match code with
  | 0 => K == 0
  | 1 => K != 0
  | 2 => K == L
  | 3 => K != L
  | 4 => K % 2 == 0
  | 5 => K % 2 == 1
  | 6 => K + 1 == L
  | _ => false

/-- Whether a unit with a fire selector at [lo+1:lo] fires (R73). -/
def Core.fires (k : Core) (w : BitVec 64) (lo : Nat) : Bool :=
  let cond (ctr pred : Nat) : Bool := predicate pred (k.kval ctr) (k.lval ctr)
  match wbits w (lo + 1) lo with
  | 0 => false
  | 1 => true
  | 2 => cond (wbits w 61 59) (wbits w 58 56)
  | _ => cond (wbits w 55 53) (wbits w 52 50)

/-- What fires in a FIRE word (Table 3.8). -/
structure Fired where
  mac : Bool
  init : Bool
  swap : Bool
  pb : Option Nat
  vec : Option Nat
  sca : Option Nat
  net : Option Bool
  rte : Option Nat
  deriving DecidableEq, Repr

/-- R73: `net` is true for a receive. -/
def Core.fired (k : Core) (w : BitVec 64) : Fired :=
  let on (lo : Nat) (v : Nat) : Option Nat := if k.fires w lo then some v else none
  { mac := k.fires w 48, init := k.fires w 46, swap := k.fires w 44, pb := on 42 (wbits w 41 40)
    vec := on 38 (wbits w 37 34), sca := on 32 (wbits w 31 28), net := (on 26 (wbits w 25 25)).map (· == 1)
    rte := on 23 (wbits w 22 20) }

/-! ## Address generators and scratchpad lines (R51, R52, R75) -/

/-- The line index an address generator gives. -/
def Core.agLine (k : Core) (a : Nat) : Nat :=
  let v := (k.reg (0x10 + a)).toNat
  (bitsOf v 39 30 + bitsOf v 26 17 * k.kval (bitsOf v 29 27) + bitsOf v 13 4 * k.kval (bitsOf v 16 14)) % 1024

/-- The half bit of an address generator. -/
def Core.agHalf (k : Core) (a : Nat) : Nat := bitsOf (k.reg (0x10 + a)).toNat 3 3

/-- The bank that port p reaches in a CCLK of a phase (Table 3.2). -/
def bankOf (port phase : Nat) : Nat := (port + phase) % 4

/-- The scratchpad address of a line index in a bank. -/
def lineAddr (bank line : Nat) : Nat := bank * 65536 + line % 1024 * 64

/-- The bank of a scratchpad address. -/
def addrBank (a : Nat) : Nat := a / 65536 % 4
/-- The line index of a scratchpad address. -/
def addrLine (a : Nat) : Nat := a / 64 % 1024

/-! ## CO_ARR_CFG (Table 3.3) -/

/-- The activation format; a reserved code never stands in a loaded plan. -/
def actFmt (cfg : BitVec 40) : Fmt :=
  match bitsOf cfg.toNat 39 37 with
  | 0 => .int8
  | 1 => .e4m3
  | 2 => .e5m2
  | 3 => .bf16
  | _ => .fp16

/-- Code of the weight format. -/
def wtCode (cfg : BitVec 40) : Nat := bitsOf cfg.toNat 36 34

/-- The format of the expanded weight elements (R92). -/
def wtFmt (cfg : BitVec 40) : Fmt :=
  match wtCode cfg with
  | 0 => .int8
  | 1 => .e4m3
  | 2 => .e5m2
  | 3 => .bf16
  | 4 => .fp16
  | 5 => if cfg.getLsbD 33 then .e4m3 else .int8
  | _ => .e4m3

/-- The output formats of CO_ARR_CFG and the formats of a CO_VOP. -/
def outFmt (code : Nat) : Fmt :=
  match code with
  | 0 => .fp32
  | 1 => .bf16
  | 2 => .fp16
  | 3 => .e4m3
  | 4 => .e5m2
  | _ => .int8

/-- Half rate (R63). -/
def halfRate (cfg : BitVec 40) : Bool := (actFmt cfg).bits == 16

/-- The pairs of R59, with no reserved format. -/
def arrCfgOk (cfg : BitVec 40) : Bool :=
  let a := bitsOf cfg.toNat 39 37
  let w := wtCode cfg
  let k4 := cfg.getLsbD 33
  decide (bitsOf cfg.toNat 32 30 ≤ 5) &&
  (match a with
   | 0 => w == 0 || (w == 5 && !k4)
   | 1 => w == 1 || w == 2 || w == 6 || (w == 5 && k4)
   | 2 => w == 1 || w == 2 || w == 6 || (w == 5 && k4)
   | 3 => w == 3
   | 4 => w == 4
   | _ => false)

/-! ## Elements of a line -/

/-- `n` little-endian elements of `size` bytes from a byte offset. -/
def elements (size off n : Nat) (line : Bytes) : List Nat := (List.range n).map fun i => field line (off + size * i) size

/-- The activation vector of a MAC step (R63): the half line that bit [3] selects, or the whole line. -/
def activation (cfg : BitVec 40) (half : Nat) (line : Bytes) : List (BitVec 16) :=
  let e := if halfRate cfg then elements 2 0 32 line else elements 1 (32 * half) 32 line
  e.map (BitVec.ofNat 16)

/-- Expanding a 4-bit element (R92). -/
def expand4 (cfg : BitVec 40) (n : Nat) : Nat :=
  if wtCode cfg = 6 then k4eE4m3 n else if cfg.getLsbD 33 then k4E4m3 n else k4Int n

/-- The rows of a weight line as expanded (R60). -/
def weightRows (cfg : BitVec 40) (line : Bytes) : List (List (BitVec 16)) :=
  let w := wtCode cfg
  if 5 ≤ w then (List.range 4).map fun j => (List.range 32).map fun i =>
    BitVec.ofNat 16 (expand4 cfg (field line (16 * j + i / 2) 1 / (if i % 2 = 0 then 1 else 16) % 16))
  else if 3 ≤ w then [(elements 2 0 32 line).map (BitVec.ofNat 16)]
  else (List.range 2).map fun j => (elements 1 (32 * j) 32 line).map (BitVec.ofNat 16)

/-- The entries of a scale line (R64); bits [31:12] are reserved. -/
def scaleEntries (line : Bytes) : List (BitVec 64) :=
  (elements 8 0 8 line).map fun v => BitVec.ofNat 64 v &&& 0xFFFFFFFF00000FFF#64

/-- The element of row `j` and index `i` of a weight buffer. -/
def tileAt (tile : SMap (BitVec 16)) (j i : Nat) : Nat := (sget 0#16 tile (32 * j + i)).toNat

/-- Activation and weight of the 32 products of column `j` (R58). A tile keeps its elements as the load's wt_fmt expanded
them, and a MAC step decodes them in its own CO_ARR_CFG format, also where SET has changed wt_fmt in between (DESIGN CHOICE,
notes/assumptions/119.md). -/
def products (cfg : BitVec 40) (acts : List (BitVec 16)) (tile : SMap (BitVec 16)) (j : Nat) : List (FVal × FVal) :=
  (List.range 32).map fun i => (macInput (actFmt cfg) (acts.getD i 0#16).toNat, macInput (wtFmt cfg) (tileAt tile j i))

/-- Lanes packed into a line or half line in a format. -/
def packLanes (f : Fmt) (l : List Nat) : Bytes := l.flatMap fun v => toLe (f.bits / 8) v

/-! ## Vector and scalar operations (Tables 3.5 to 3.7) -/

/-- A CO_VOP. -/
structure VOp where
  op : Nat
  vd : Nat
  va : Nat
  vb : Nat
  vc : Nat
  fmt : Nat
  rtz : Bool
  sat : Bool
  half : Bool
  deriving DecidableEq, Repr

/-- Table 3.5. -/
def vopOf (v : BitVec 40) : VOp :=
  let b (hi lo : Nat) : Nat := bitsOf v.toNat hi lo
  { op := b 39 34, vd := b 33 31, va := b 30 28, vb := b 27 25, vc := b 24 22, fmt := b 21 19, rtz := v.getLsbD 18
    sat := v.getLsbD 17, half := v.getLsbD 16 }

/-- Whether a CO_VOP holds an operation and a format that Tables 3.5 and 3.6 allow. -/
def VOp.ok (v : VOp) : Bool :=
  if v.op = 0x10 ∨ v.op = 0x11 then decide (v.fmt ≤ 5)
  else decide (1 ≤ v.op ∧ v.op ≤ 0x0E) && decide (v.fmt ≤ 2)

/-- Latency (Table 3.6). -/
def VOp.latency (v : VOp) : Nat :=
  if v.op = 0x09 ∨ v.op = 0x0A ∨ v.op = 0x0B then 12 else if v.op = 0x0D then 36 else if v.op = 0x10 then 2
  else if v.op = 0x11 then 0 else 4

/-- LOAD or STORE, through port 2. -/
def VOp.mem (v : VOp) : Bool := v.op == 0x10 || v.op == 0x11

/-- A CO_SOP. -/
structure SOp where
  op : Nat
  sd : Nat
  sa : Nat
  sb : Nat
  imm : Nat
  deriving DecidableEq, Repr

/-- R68. -/
def sopOf (v : BitVec 40) : SOp :=
  let b (hi lo : Nat) : Nat := bitsOf v.toNat hi lo
  { op := b 39 34, sd := b 33 30, sa := b 29 26, sb := b 25 22, imm := b 21 2 }

/-- The signed 20-bit immediate as a 32-bit word. -/
def SOp.simm (o : SOp) : BitVec 32 := (BitVec.ofNat 20 o.imm).signExtend 32

/-- Whether a CO_SOP holds an operation of Table 3.7. -/
def SOp.ok (o : SOp) : Bool := decide (1 ≤ o.op ∧ o.op ≤ 0x0D) || decide (0x10 ≤ o.op ∧ o.op ≤ 0x13)

/-- LOAD or STORE, through port 2. -/
def SOp.mem (o : SOp) : Bool := o.op == 0x10 || o.op == 0x11

/-- Latency (Table 3.7). -/
def SOp.latency (o : SOp) : Nat := if o.op = 0x0A then 3 else if o.op = 0x10 then 2 else 1

/-- A scalar register. -/
def Core.s (k : Core) (i : Nat) : BitVec 32 := sget 0#32 k.sreg (i % 16)
/-- A lane of a vector register. -/
def Core.v (k : Core) (r j : Nat) : FVal := f32 (sget 0#32 k.vreg (32 * r + j))

/-- The result of a register-only scalar operation (Table 3.7). -/
def Core.scalar (k : Core) (o : SOp) : BitVec 32 :=
  let a := k.s o.sa
  let b := k.s o.sb
  match o.op with
  | 0x01 => a + b
  | 0x02 => a - b
  | 0x03 => a + o.simm
  | 0x04 => a &&& b
  | 0x05 => a ||| b
  | 0x06 => a ^^^ b
  | 0x07 => a <<< (b.toNat % 32)
  | 0x08 => a >>> (b.toNat % 32)
  | 0x09 => a.sshiftRight (b.toNat % 32)
  | 0x0A => a * b
  | 0x0B => if a.slt b then 1 else 0
  | 0x0C => BitVec.ofNat 32 (k.kval (o.imm % 8))
  | _ => 0

/-- The address v of a scalar LOAD or STORE. -/
def Core.scaAddr (k : Core) (o : SOp) : Nat := (k.s o.sa + o.simm).toNat
/-- Its line index, v[13:4]. -/
def Core.scaLine (k : Core) (o : SOp) : Nat := bitsOf (k.scaAddr o) 13 4

/-- A vector result as an FP32 lane: rounded by rnd to fmt (R105, R108). -/
def laneOf (f : Fmt) (rtz : Bool) (a : FVal) : BitVec 32 := (vround f rtz a).word

/-- EXP, RCP or RSQ, an FP32 result then rounded to fmt if fmt is narrower (R108). -/
def functionLane (f : Fmt) (rtz : Bool) (a : FVal) : BitVec 32 := if f = .fp32 then a.word else laneOf f rtz a

/-- One lane of a vector operation other than LOAD, STORE and RSUM (Table 3.6). -/
def Core.vlane (k : Core) (o : VOp) (j : Nat) : BitVec 32 :=
  let f := outFmt o.fmt
  let a := k.v o.va j
  let b := k.v o.vb j
  let c := k.v o.vc j
  match o.op with
  | 0x01 => laneOf f o.rtz (a.add b)
  | 0x02 => laneOf f o.rtz (a.add b.neg)
  | 0x03 => laneOf f o.rtz (a.mul b)
  | 0x04 => laneOf f o.rtz ((a.mul b).add c)
  | 0x05 => (vmax true a b).word
  | 0x06 => (vmax false a b).word
  | 0x07 => (if a.sign then a.neg else a).word
  | 0x08 => a.neg.word
  | 0x09 => functionLane f o.rtz (exp a)
  | 0x0A => functionLane f o.rtz (rcp a)
  | 0x0B => functionLane f o.rtz (rsq a)
  | 0x0C => laneOf f o.rtz a
  | 0x0E => (k.v o.va 0).word
  | _ => 0

/-- The lanes a vector operation writes, LOAD apart. -/
def Core.vlanes (k : Core) (o : VOp) : List (Nat × BitVec 32) :=
  if o.op = 0x0D then
    (List.range 32).map fun j =>
      (j, if j = 0 then (rsum (outFmt o.fmt) o.rtz ((List.range 32).map (k.v o.va))).word else 0#32)
  else (List.range 32).map fun j => (j, k.vlane o j)

/-- The lanes a vector LOAD writes from its line (R66, R107). -/
def loadLanes (o : VOp) (line : Bytes) : List (Nat × BitVec 32) :=
  let f := outFmt o.fmt
  let widen (v : Nat) : BitVec 32 := (f.decode v).word
  if f.bits = 32 then (elements 4 0 16 line).zipIdx.map fun (v, j) => ((if o.half then 16 else 0) + j, widen v)
  else if f.bits = 16 then (elements 2 0 32 line).zipIdx.map fun (v, j) => (j, widen v)
  else (elements 1 (if o.half then 32 else 0) 32 line).zipIdx.map fun (v, j) => (j, widen v)

/-- What a vector STORE writes: the byte offset in the line and the bytes (R66, R107). -/
def Core.storeLanes (k : Core) (o : VOp) : Nat × Bytes :=
  let f := outFmt o.fmt
  let first := if f.bits = 32 ∧ o.half then 16 else 0
  let n := if f.bits = 32 then 16 else 32
  (if f.bits = 8 ∧ o.half then 32 else 0,
    packLanes f ((List.range n).map fun j => (((k.v o.va (first + j)).aim f o.rtz o.sat).encode f)))

/-! ## Armed ranges (R82) -/

/-- The count of a range. -/
def Core.rangeCount (k : Core) (i : Nat) : Nat := bitsOf (k.reg (0x48 + i)).toNat 15 4

/-- Whether a range covers a line. -/
def Core.covers (k : Core) (bank line i : Nat) : Bool :=
  let v := (k.reg (0x48 + i)).toNat
  decide (bitsOf v 39 30 ≤ line ∧ line ≤ bitsOf v 29 20) && bitsOf v 19 16 / 2 ^ bank % 2 == 1

/-- Whether a range covers a line, and was not armed in this CCLK. -/
def Core.rangeHas (k : Core) (now bank line i : Nat) : Bool := sget 0 k.armed i != now && k.covers bank line i

/-- Whether some armed range holds a line in this CCLK: a write that takes a count to zero commits at the CCLK's end
(R54). -/
def Core.armedAt (k : Core) (now bank line : Nat) : Bool :=
  (List.range 8).any fun i => (k.rangeCount i != 0 || sget 0 k.cleared i == now + 1) && k.rangeHas now bank line i

/-- A port-3 write in guarded mode lowers the count of every armed range that holds its line. -/
def Core.lower (k : Core) (now bank line : Nat) : Core :=
  if k.guarded then
    (List.range 8).foldl (fun k i =>
      if k.rangeCount i != 0 && k.rangeHas now bank line i then
        { k with regs := smod 0#40 (0x48 + i) (· - 0x10#40) k.regs
                 cleared := if k.rangeCount i = 1 then sput 0 i (now + 1) k.cleared else k.cleared }
      else k) k
  else k

/-! ## Route presets (R70, R118, R119) -/

/-- Preset word of a network in the preset of a number: zero if the slot does not declare it. -/
def Core.preset? (k : Core) (net : Net) (i : Nat) : BitVec 64 :=
  if i < k.curSlot.presets then
    sget 0#64 k.curSlot.words (504 - 8 * i + (match net with | .vec => 0 | .sca => 1))
  else 0

/-- Source code of an output (Table 5.3). -/
def outSource (p : BitVec 64) (d : Dir) : Nat := bitsOf p.toNat (4 * dirNum d + 3) (4 * dirNum d)

/-- rx of a preset word (Table 5.2). -/
def rxOf (p : BitVec 64) : Nat := bitsOf p.toNat 19 16

/-- The outputs with a source, and whether the receive reads the queue of that code. -/
def outsOf (p : BitVec 64) (source : Nat) : List Dir := allDirs.filter fun d => outSource p d == source

end Sys2Proof.Machine
end

