-- ==== Sys2Proof/Machine/Flags.lean ====
section
/-!
DEFINITION. Status registers as they read (spec/03_core.md Tables 3.10 and 3.11, spec/05_fabric.md Tables 5.8 to 5.11),
what each of them counts, and the counts that a hold adds to (R85).
-/

namespace Sys2Proof.Machine

open Sys2Proof

/-- CO_STATUS (Table 3.10). -/
def Core.status (k : Core) : Nat :=
  k.slot.val * 1024 + bit k.guarded 9 + bit k.halted 8 + bit k.hold.isSome 7 +
    bit (match k.hold with | some h => h.kind == .queue | none => false) 6 + bit k.ue 5 + bit k.wdog 4

/-- CO_QMAX (Table 5.9): vector ports N to W, then scalar ports N to W. -/
def Core.qmaxReg (k : Core) : Nat :=
  (List.range 4).foldl (fun a i => a + sget 0 k.qmax i * 2 ^ (5 * i)) 0 +
    (List.range 4).foldl (fun a i => a + sget 0 k.qmax (4 + i) * 2 ^ (20 + 6 * i)) 0

/-- The cluster through whose Marionette a host die joins the mesh: its corner's, or the nearest clockwise along the edge
whose Marionette is in service (R48). -/
def State.attach (s : State) (h : Nat) : Nat :=
  ((dieEdge h).find? fun c => !(s.cluster c).marOut).getD ((dieEdge h).headD 0)

/-- The mesh links a strings node has: those to other nodes, and a host die's where one is attached (R48). -/
def State.meshLinks (s : State) (c : Nat) : BitVec 4 :=
  (List.range 4).foldl (fun m h => if s.attach h = c then m ||| BitVec.ofNat 4 (2 ^ dirNum (dieDir h)) else m) (innerLinks c)

/-- mesh_en of a node: its links that are in service. -/
def State.meshEn (s : State) (c : Nat) : BitVec 4 := s.meshLinks c &&& ~~~(s.cluster c).linksOff

/-- STR_NODE_CFG (Table 5.10). -/
def State.nodeCfg (s : State) (c : Nat) : Nat :=
  let k := s.cluster c
  bit k.assigned 8 + k.partition.val * 16 + (s.meshEn c).toNat

/-- STR_ERR (Table 5.11). -/
def Cluster.strErr (k : Cluster) : Nat := k.dropCount.toNat * 65536 + k.parityCount.toNat

/-- A frame dropped at a node (R131, R133). -/
def Cluster.drop (k : Cluster) : Cluster := { k with dropCount := satAdd k.dropCount 1 }

/-- Corrected single-bit errors of `n` words (R55). -/
def Core.corrected (k : Core) (n : Nat) : Core := { k with eccCe := satAdd k.eccCe n }

/-- A hold begins. It counts with its first CCLK. -/
def Core.beginHold (k : Core) (phase : Nat) (kind : HoldKind) (cause : HoldCause) : Core :=
  { k with hold := some { phase := phase, count := 0, kind := kind, cause := cause } }

/-- `n` held CCLK under a cause (R85). -/
def Core.slips (k : Core) (kind : HoldKind) (n : Nat) : Core :=
  match kind with
  | .range => { k with slipRange := satAdd k.slipRange n }
  | .queue => { k with slipQueue := satAdd k.slipQueue n }

/-- One held CCLK, the first of which counts the hold; `cause` is what holds in it, or none once every cause has cleared
(R85, R88). -/
def Core.heldOnce (k : Core) (cause : Option HoldKind) : Core :=
  match k.hold with
  | some h =>
    let kind := if h.count = 0 then h.kind else cause.getD h.kind
    { k.slips kind 1 with
        hold := some { h with count := h.count + 1, kind := kind }
        slipHolds := if h.count = 0 then satAdd k.slipHolds 1 else k.slipHolds }
  | none => k

/-- Words discarded at fenced outputs (R129): they count once each, and go to the host dies later. -/
def Cluster.discard (k : Cluster) (n : Nat) : Cluster :=
  { k with violCount := satAdd k.violCount n, violUnsent := k.violUnsent + n }

end Sys2Proof.Machine
end

