-- ==== Sys2Proof/Machine/Fabric.lean ====
section
/-!
DEFINITION. The vector and scalar networks (spec/05_fabric.md R113 to R122, R129): queues, credits, cut-through and
forwarding, fences, and the meanings of WORD_ARRIVAL, QUEUE_WORD_DEPART and CREDIT_RETURN.
-/

namespace Sys2Proof.Machine

open Sys2Proof

/-! ## One network of one core -/

/-- Queue depth (Table 5.1). -/
def depth (net : Net) : Nat :=
  match net with
  | .vec => 16
  | .sca => 32

/-- A core's switch on a network. -/
def Core.sw (k : Core) (net : Net) : Switch :=
  match net with
  | .vec => k.vec
  | .sca => k.sca

/-- Changing a core's switch on a network. -/
def Core.modSw (k : Core) (net : Net) (f : Switch → Switch) : Core :=
  match net with
  | .vec => { k with vec := f k.vec }
  | .sca => { k with sca := f k.sca }

/-- An input port. -/
def Core.inPort (k : Core) (net : Net) (d : Dir) : InPort := sget {} (k.sw net).inp (dirNum d)
/-- Changing an input port. -/
def Core.modIn (k : Core) (net : Net) (d : Dir) (f : InPort → InPort) : Core :=
  k.modSw net fun w => { w with inp := smod {} (dirNum d) f w.inp }
/-- An output. -/
def Core.outPort (k : Core) (net : Net) (d : Dir) : OutPort := sget {} (k.sw net).out (dirNum d)
/-- Changing an output. -/
def Core.modOut (k : Core) (net : Net) (d : Dir) (f : OutPort → OutPort) : Core :=
  k.modSw net fun w => { w with out := smod {} (dirNum d) f w.out }
/-- A fenced direction (R128). -/
def Core.fenced (k : Core) (d : Dir) : Bool := k.fence.getLsbD (dirNum d)

/-- Where the head of an input queue goes under the preset in force: outputs, and whether the receive reads it
(R115). -/
def Core.destsOf (k : Core) (net : Net) (port : Dir) : List Dir × Bool :=
  let p := k.preset? net k.preset
  (outsOf p (dirNum port + 1), rxOf p == dirNum port + 1)

/-- The port whose queue the receive reads. -/
def Core.rxPort (k : Core) (net : Net) : Option Dir :=
  let r := rxOf (k.preset? net k.preset)
  if 1 ≤ r ∧ r ≤ 4 then some (dirOf (r - 1)) else none

/-- The word the receive would take, if there is one (R114, R115). -/
def Core.rxHead (k : Core) (net : Net) (now : Nat) : Option Bytes :=
  match k.rxPort net with
  | none => none
  | some d =>
    let q := k.inPort net d
    match q.queue with
    | [] => none
    | w :: _ => if q.headFrom ≤ now && (match w.dests with | some (_, rx) => rx | none => true) then some w.data else none

/-! ## Credits (R121) -/

/-- Whether a credit in flight is for an output. -/
def Credit.isFor (x : Credit) (n : Nat) (net : Net) (d : Dir) : Bool :=
  272 * x.cl.val + x.core.val == n && x.net == net && x.out == d

/-- Credits in flight for an output that may be used by a time. -/
def State.creditsBy (s : State) (n : Nat) (net : Net) (d : Dir) (t : Nat) : Nat :=
  (s.credits.filter fun x => x.isFor n net d && decide (x.time ≤ t)).length

/-- The credits taken at a time: not yet that of a word which this core has sent and which leaves later (R122). -/
def OutPort.usedAt (o : OutPort) (t : Nat) : Nat := if t + 1 < o.ahead then o.used - 1 else o.used

/-- An output may pass a word on at a time: fenced, or with credit and not already passing one on then. -/
def State.canPass (s : State) (n : Nat) (net : Net) (d : Dir) (t : Nat) : Bool :=
  let k := s.coreAt n
  let o := k.outPort net d
  k.fenced d || (decide (o.usedAt t < depth net + s.creditsBy n net d t) && o.last != some t)

/-- Passing a word on by an output at a time, now or in the next CCLK; a fenced output discards it (R129). -/
def State.passOut (s : State) (c lc : Nat) (net : Net) (data : Bytes) (t : Nat) (d : Dir) : State :=
  let n := s.lcore c lc
  if (s.coreAt n).fenced d then s
  else match neighbour c lc d with
    | none => s
    | some (c', lc') =>
      let f : Flight :=
        { net := net, cl := toCl c', core := Fin.ofNat 272 (s.lcore c' lc' % 272), port := dirOpp d
          time := t + hopCost (s.cluster c) lc d, data := data }
      let s := s.modCore n fun k => k.modOut net d fun o =>
        { used := o.used + 1, last := some (match o.last with | some x => Nat.max x t | none => t)
          ahead := if s.now < t then t + 1 else o.ahead }
      { s with flights := s.flights ++ [f] }

/-- Passing a word on by several outputs: it counts once if any of them is fenced (R129). -/
def State.passAll (s : State) (c lc : Nat) (net : Net) (data : Bytes) (t : Nat) (outs : List Dir) : State :=
  let k := s.coreAt (s.lcore c lc)
  let s := s.each outs fun u d => u.passOut c lc net data t d
  if outs.any k.fenced then s.modCluster c (·.discard 1) else s

/-- The credit that a port gives back for a word it has passed on (R121). -/
def State.creditBack (s : State) (c lc : Nat) (net : Net) (port : Dir) : State :=
  match neighbour c lc port with
  | none => s
  | some (c', lc') =>
    let x : Credit :=
      { net := net, cl := toCl c', core := Fin.ofNat 272 (s.lcore c' lc' % 272), out := dirOpp port
        time := s.now + hopCost (s.cluster c) lc port }
    { s with credits := s.credits ++ [x] }

/-- The head leaves its queue; the word behind it may be taken from the next CCLK on (R115). -/
def State.popHead (s : State) (c lc : Nat) (net : Net) (port : Dir) : State :=
  (s.modCore (s.lcore c lc) fun k => k.modIn net port fun q =>
    { queue := q.queue.drop 1, headFrom := s.now + 1, lastLeave := some s.now }).creditBack c lc net port

/-- Fixing what a head has still to reach (R119). -/
def State.setHead (s : State) (c lc : Nat) (net : Net) (port : Dir) (outs : List Dir) (rx : Bool) : State :=
  s.modCore (s.lcore c lc) fun k => k.modIn net port fun q =>
    { q with queue := match q.queue with
        | [] => []
        | w :: r => { w with dests := some (outs, rx) } :: r }

/-- The word a receive takes leaves the queue once its outputs have it too (R69, R115). -/
def State.takeRx (s : State) (c lc : Nat) (net : Net) : State :=
  let k := s.coreAt (s.lcore c lc)
  match k.rxPort net with
  | none => s
  | some d =>
    match (k.inPort net d).queue with
    | [] => s
    | w :: _ =>
      let outs := match w.dests with
        | some (o, _) => o
        | none => (k.destsOf net d).1
      if outs.isEmpty then s.popHead c lc net d else s.setHead c lc net d outs false

/-! ## Arrival, departure, credit -/

/-- Adding a word to an input queue, with the highest occupancy (R139). Its first destination may take it from the next
CCLK on, also one that had credit in this one: R116 sends a word on in its own CCLK only when every output of it has
credit (DESIGN CHOICE, notes/assumptions/101.md). -/
def Core.enqueue (k : Core) (net : Net) (port : Dir) (data : Bytes) (now : Nat) : Core :=
  let q := k.inPort net port
  let i := (match net with | .vec => 0 | .sca => 4) + dirNum port
  let k := k.modIn net port fun q =>
    { q with queue := q.queue ++ [{ data := data }], headFrom := if q.queue.isEmpty then now + 1 else q.headFrom }
  { k with qmax := smod 0 i (Nat.max (q.queue.length + 1)) k.qmax }

/-- Whether an arriving word cuts through (R116). -/
def State.cutsThrough (s : State) (c lc : Nat) (net : Net) (port : Dir) : Bool :=
  let n := s.lcore c lc
  let k := s.coreAt n
  let q := k.inPort net port
  let (outs, rx) := k.destsOf net port
  q.queue.isEmpty && q.lastLeave != some s.now && !rx && !outs.isEmpty && outs.all fun d => s.canPass n net d s.now

/-- The word that has come to an input port. -/
def State.arriving (s : State) (n : Nat) (net : Net) (port : Dir) : Option Flight :=
  s.flights.find? fun f => f.net == net && 272 * f.cl.val + f.core.val == n && f.port == port && decide (f.time ≤ s.now)

/-- A word reaches an input port (R114, R116). A fenced input never receives it (R129). -/
def State.arrive (s : State) (c lc : Nat) (net : Net) (port : Dir) : State :=
  let n := s.lcore c lc
  match s.arriving n net port with
  | none => s
  | some f =>
    let cut := s.cutsThrough c lc net port
    let s : State := { s with flights := s.flights.erase f }
    if (s.coreAt n).fenced port then s
    else if cut then (s.passAll c lc net f.data s.now ((s.coreAt n).destsOf net port).1).creditBack c lc net port
    else s.modCore n fun k => k.enqueue net port f.data s.now

/-- An output has still to pass on, in this CCLK, the head of a queue or a word that cuts through. -/
def State.takesNow (s : State) (c lc : Nat) (net : Net) (d : Dir) : Bool :=
  let n := s.lcore c lc
  let k := s.coreAt n
  s.canPass n net d s.now && allDirs.any fun port =>
    (let q := k.inPort net port
     match q.queue with
     | [] => false
     | w :: _ => decide (q.headFrom ≤ s.now) && (w.dests.getD (k.destsOf net port)).1.contains d) ||
    ((s.arriving n net port).isSome && !k.fenced port && s.cutsThrough c lc net port && (k.destsOf net port).1.contains d)

/-- A word sent in this CCLK may leave on an output in the next one: the output has credit then for what it still passes
on in this CCLK and for the word (R121, R122). -/
def State.canSend (s : State) (c lc : Nat) (net : Net) (d : Dir) : Bool :=
  let n := s.lcore c lc
  let k := s.coreAt n
  let o := k.outPort net d
  k.fenced d || (decide (o.used + (if s.takesNow c lc net d then 1 else 0) < depth net + s.creditsBy n net d (s.now + 1)) &&
    o.last != some (s.now + 1))

/-- The outputs that can take the head of a queue take it; it leaves when the last of its destinations has (R115). -/
def State.depart (s : State) (c lc : Nat) (net : Net) (port : Dir) : State :=
  let n := s.lcore c lc
  let k := s.coreAt n
  let q := k.inPort net port
  match q.queue with
  | [] => s
  | w :: _ =>
    let (outs, rx) := w.dests.getD (k.destsOf net port)
    let taken := outs.filter fun d => s.canPass n net d s.now
    let rest := outs.filter fun d => !s.canPass n net d s.now
    if s.now < q.headFrom || taken.isEmpty then s
    else
      let s := s.passAll c lc net w.data s.now taken
      if rest.isEmpty && !rx then s.popHead c lc net port else s.setHead c lc net port rest rx

/-- The credits of an output that may now be used raise its count. -/
def State.credit (s : State) (c lc : Nat) (net : Net) (d : Dir) : State :=
  let n := s.lcore c lc
  let m := s.creditsBy n net d s.now
  let s : State := { s with credits := s.credits.filter fun x => !(x.isFor n net d && decide (x.time ≤ s.now)) }
  s.modCore n fun k => k.modOut net d fun o => { o with used := o.used - m }

/-! ## Meanings -/

/-- R116. -/
def execWordArrival (cl : Cl) (core : LCore) (net : Net) (port : Dir) (s : State) : Outcome :=
  .next (if s.wafer then s.arrive cl.val core.val net port else s)

/-- R115. -/
def execQueueWordDepart (cl : Cl) (core : LCore) (net : Net) (port : Dir) (s : State) : Outcome :=
  .next (if s.wafer then s.depart cl.val core.val net port else s)

/-- R121. -/
def execCreditReturn (cl : Cl) (core : LCore) (net : Net) (out : Dir) (s : State) : Outcome :=
  .next (if s.wafer then s.credit cl.val core.val net out else s)

end Sys2Proof.Machine
end

