-- ==== Sys2Proof/Machine/Requests.lean ====
section
/-!
DEFINITION. What ends a request or a run: completions (spec/10_serving_requests.md R258, R259), the early end of a
run (spec/03_core.md R71, R80, spec/07_plans_and_scan.md R188), contained and recovery faults
(spec/15_faults_and_selftest.md R376, R377) and seizures (R381).
-/

namespace Sys2Proof.Machine

open Sys2Proof

/-! ## Flags and counts (R19, R22, R271) -/

/-- Flags of two sources together. -/
def Flags.or (a b : Flags) : Flags :=
  { slip := a.slip || b.slip, breath := a.breath || b.breath, elastic := a.elastic || b.elastic
    linkRetry := a.linkRetry || b.linkRetry, retimed := a.retimed || b.retimed }
/-- The flags byte of Table 1.1. -/
def Flags.byte (f : Flags) : Nat := bit f.slip 0 + bit f.breath 1 + bit f.elastic 2 + bit f.linkRetry 3 + bit f.retimed 4
/-- Any timing flag set. -/
def Flags.any (f : Flags) : Bool := f.slip || f.breath || f.elastic || f.linkRetry || f.retimed

/-- Adding one to a saturating 32-bit count (R271). -/
def sat32 (n : Nat) : Nat := if n < 4294967295 then n + 1 else n
/-- Adding one to a saturating 64-bit count. -/
def sat64 (n : Nat) : Nat := if n < 18446744073709551615 then n + 1 else n

/-- The count of a completion that is written or discarded (Table 10.6). -/
def Stats.done (t : Stats) (status : BitVec 8) (flags : Flags) (kept : Bool) : Stats :=
  let t := if kept then { t with kept := sat64 t.kept } else t
  if status == 0x22#8 then { t with retry := sat32 t.retry }
  else if status == 0x20#8 then { t with faulted := sat32 t.faulted }
  else if status == 0x23#8 then { t with aborted := sat32 t.aborted }
  else if status == 0#8 && flags.any then { t with flagged := sat32 t.flagged }
  else t

/-! ## The entry queue (R265) -/

/-- Changing one admitted request. -/
def State.modReq (s : State) (p id : Nat) (f : Request → Request) : State :=
  s.modPart p fun q => { q with queue := q.queue.map fun r => if r.id = id then f r else r }

/-- An admitted request. -/
def PartState.req? (q : PartState) (id : Nat) : Option Request := q.queue.find? fun r => r.id == id

/-- An admitted request has still to run. -/
def Request.waits (r : Request) : Bool := r.stage == .ingress || r.stage == .ready

/-- The first waiting request, ready, with no run ahead of it (R265). -/
def PartState.next? (q : PartState) : Option Request :=
  match q.run with
  | some _ => none
  | none => match q.queue.find? (·.waits) with
    | some r => if r.stage == .ready then some r else none
    | none => none

/-- The flag retimed (R19). -/
def Flags.retime (f : Flags) : Flags := { f with retimed := true }

/-- retimed on the requests whose START the retime held: first to run, ready, of a group entry. -/
def State.flagHeld (s : State) : State :=
  s.each (List.range 16) fun t p => match (t.part p).next? with
    | some r => if (t.part p).grouped r.entry then t.modReq p r.id fun x => { x with flags := x.flags.retime } else t
    | none => t

/-- A group leaves the joined state on the port entries that a test picks (R318). A retime that is to come has held the STARTs
of its entries until now (R311). -/
def State.unjoin (s : State) (test : GroupPort → Bool) : State :=
  let off (g : Group) : Group := { g with ports := g.ports.map fun e => if test e then { e with joined := false } else e }
  let s := if s.retimeWanted then s.flagHeld else s
  { s with parts := smapAll {} (fun _ q => { q with groups := q.groups.map fun x => (x.1, off x.2) }) s.parts }

/-- With no run and no request that waits to run, the clusters of a partition go to C1 (Table 13.2). -/
def State.rest (s : State) (p : Nat) : State :=
  let q := s.part p
  if q.run.isSome || (s.estate == .e0 && !q.recovering && q.queue.any (·.waits)) then s else s.enterAll q.cfg.clusters .c1

/-- A record of an admitted request of a partition has still to be written. -/
def State.unwritten (s : State) (p : Nat) : Bool :=
  (List.range 4).any fun h => (s.window h p).compl.any (·.admitted)

/-- With every request DONE a changeover ends (R270), and with an empty queue a park begins (R336). -/
def State.emptied (s : State) (p : Nat) : State :=
  let q := s.part p
  if q.queue.isEmpty then
    let s := if s.unwritten p then s else s.modPart p fun q => { q with changeover := false }
    if q.park = .parking then (s.enterAll q.cfg.clusters q.parkTo).parkDone p else s
  else s

/-- A request leaves the queue. -/
def State.dequeue (s : State) (p id : Nat) : State :=
  ((s.modPart p fun q => { q with queue := q.queue.filter fun r => r.id != id }).rest p).emptied p

/-- The reason that is written, by the order of R25: what was decided; HOST_LATE when DONE − END exceeds E (R27); a
pending BRACED (R370). -/
def Compl.finalReason (c : Compl) (done : Nat) (braced : Bool) : Nat :=
  if c.reason ≠ 0#8 then c.reason.toNat
  else
    let late := c.status == 0#8 && (match c.endAt, c.bounds with
      | some e, some (eb, _, _, _) => decide (e.toNat + eb < done)
      | _, _ => false)
    if late then rsHostLate else if braced then rsBraced else 0

/-- A kept contract (R28). -/
def Compl.kept (c : Compl) (reason : Nat) : Bool := c.status == 0#8 && !c.flags.any && reason != rsHostLate

/-- A record that goes unwritten still counts, and its request is DONE (R256). -/
def State.discarded (s : State) (c : Compl) : State :=
  let p := c.part.val
  let s := if c.admitted then
      s.modPart p fun q => { q with stats := q.stats.done c.status c.flags (c.kept (c.finalReason s.tick q.braced)) } else s
  match c.req with
  | some id => s.dequeue p id
  | none => s.emptied p

/-- Deciding the completion of a request: its record waits for a place of its ring, or goes unwritten when its
window was reset (R256). -/
def State.close (s : State) (p : Nat) (r : Request) (status reason : Nat) (flags : Flags) : State :=
  let c : Compl :=
    { ring := r.ring, tag := r.tag, fetch := BitVec.ofNat 64 r.fetch, ready := r.readyAt, start := r.startAt
      endAt := r.endAt, status := BitVec.ofNat 8 status, flags := { flags with elastic := (s.part p).elastic }
      reason := BitVec.ofNat 8 reason, part := Fin.ofNat 16 p, admitted := true, req := some r.id, finishing := r.finishing
      bounds := some (r.e, r.p, r.promise, r.deadline) }
  if r.discard then s.discarded c
  else
    (s.modReq p r.id fun x => { x with stage := .closing }).modWindow r.die.val r.fn.val fun w =>
      { w with compl := w.compl ++ [c] }

/-! ## Stopping cores -/

/-- Eight-byte words that were about to be written: each holds its old or its new value (R364, R376). -/
def State.mixWrite (s : State) (n a : Nat) (bs : Bytes) : State :=
  match bs with
  | b0 :: b1 :: b2 :: b3 :: b4 :: b5 :: b6 :: b7 :: r =>
    let t := if s.freeBit then s.spadWrite n a [b0, b1, b2, b3, b4, b5, b6, b7] else s
    State.mixWrite t.drew n (a + 8) r
  | _ => s

/-- The scratchpad address a drain write reaches, when `d` CCLK from now (R52, R65). -/
def State.drainAddr (s : State) (d line offset : Nat) : Nat := (s.cclk + d + 1) % 4 * 65536 + line * 64 + offset

/-- Halting a core over the strings (R376): nothing issues or lands after, and what was about to be written is old
or new. -/
def State.haltCore (s : State) (n : Nat) : State :=
  let c := s.coreAt n
  let s := s.each c.pipe fun t x => match x.act with
    | .drain line off data => t.mixWrite n (t.drainAddr (x.due - c.pt) line off) data
    | _ => t
  let s := s.each c.chan fun t x => t.mixWrite n x.addr.toNat x.data
  s.modCore n fun k =>
    { k with active := false, halted := k.halted || k.active, pipe := [], chan := [], hold := none, waitEnd := none, haltAt := none
             late := match k.hold with | some h => if 4096 ≤ h.count then some (s.now, h.kind) else k.late | none => k.late }

/-- The words of an abandoned run load: each holds its old or its new value (R188). -/
def State.mixSlot (s : State) (n slot : Nat) (new : Slot) (w : Nat) : State :=
  match w with
  | 0 => s
  | k + 1 =>
    let v := sget 0#64 new.words k
    let t := if s.freeBit then s.modCore n fun c =>
      { c with slots := smod {} slot (fun o => { o with words := sput 0#64 k v o.words }) c.slots } else s
    State.mixSlot t.drew n slot new k

/-- Abandoning the run loads still in progress (R188). -/
def State.abandonLoads (s : State) (p : Nat) (run : Run) : State :=
  match sfind? (s.part p).plans run.handle with
  | none => s
  | some l => s.each (run.loads.filter fun x => !x.2) fun t x =>
    match l.plan.loads[x.1]? with
    | none => t
    | some ld => t.each (s.partClusters p) fun t c => t.each (List.range 256) fun t lc =>
        t.mixSlot (t.lcore c lc) ld.slot.val (l.plan.loadSlot ld (l.plan.clusterIndex c) lc) 512

/-- Where the clusters go once a run is over: on through a committed brace by RETAIN (R365), else to rest unless
another request waits to run (Table 13.2). -/
def State.afterRun (s : State) (p : Nat) : State :=
  let q := s.part p
  let committed := match s.brace with | some b => b.committed | none => false
  if committed then s.enterAll q.cfg.clusters (if q.retain then .c2 else .c3) else s.rest p

/-- The requests behind a run that ended late carry its flags if it delays their START (R22). -/
def State.markDelay (s : State) (p : Nat) (late : Bool) (flags : Flags) : State :=
  s.modPart p fun q => { q with queue := q.queue.map fun r =>
    if r.waits then { r with delay := if late then some (s.tick, flags) else none }
    else r }

/-- The link traffic of a partition's run goes: cells not yet sent, and what its contexts add (R376). -/
def State.stopLinks (s : State) (p : Nat) : State :=
  { s with links := smapAll {} (fun _ d => { d with
      ports := smapAll {} (fun _ o => { o with outQ := o.outQ.filter fun x => x.cell.part.val != p }) d.ports
      contexts := smapAll {} (fun _ x => if x.partition.val = p then { x with busy := false } else x) d.contexts }) s.links }

/-- Taking a run away: its cores halt, its transfers, link records and loads stop, its leases go (R71, R80, R188,
R376). -/
def State.stopRun (s : State) (p : Nat) : State :=
  match (s.part p).run with
  | none => s
  | some run =>
    let cls := s.partClusters p
    let s := s.each (s.partCores p) State.haltCore
    let s := s.abandonLoads p run
    let s := s.each cls fun t c => t.modCluster c fun k => { k with ganged := false, gang := [], haltSeen := [] }
    let s : State := { s with flights := s.flights.filter (fun f => !cls.contains f.cl.val)
                              credits := s.credits.filter (fun f => !cls.contains f.cl.val) }
    let s := (s.stopLinks p).releasePart p [1, 2, 3]
    let s := s.modPart p fun q => { q with run := none }
    let s := match (s.part p).req? run.req with
      | some r => s.markDelay p (decide (r.promisedEnd < s.tick)) (r.flags.or run.flags)
      | none => s
    s.afterRun p

/-- Ending one admitted request early; a run of it stops first. A request whose completion is decided keeps it (R25). -/
def State.endReq (s : State) (p : Nat) (r : Request) (status reason : Nat) (clear : Bool := false) : State :=
  let runFlags := match (s.part p).run with
    | some run => if run.req = r.id then run.flags else {}
    | none => {}
  let s := if (s.part p).run.any (fun run => run.req == r.id) then s.stopRun p else s
  if r.stage == .closing then s else s.close p r status reason (if clear then {} else r.flags.or runFlags)

/-- Ending every admitted request that a test picks and that has no completion yet, oldest place first. -/
def State.endReqs (s : State) (p : Nat) (test : Request → Bool) (status reason : Nat) (clear : Bool := false) : State :=
  s.each ((s.part p).queue.filter fun r => test r && r.stage != .closing) fun t r => t.endReq p r status reason clear

/-! ## Faults (R376, R377) -/

/-- A contained fault: the run ends and its request completes; FAULTED is reported to the operator and the partition.
With no run in progress there is nothing to end. -/
def State.contain (s : State) (p status reason : Nat) : State :=
  match (s.part p).run with
  | none => s
  | some run =>
    let s := match (s.part p).req? run.req with
      | some r => s.endReq p r status reason
      | none => s.stopRun p
    if status = stFaulted then s.faulted p else s

/-- A recovery fault up to step 2: the run ends FAULTED, fetching stops, every other admitted request completes
FAULTED, reason NONE. -/
def State.beginRecovery (s : State) (p : Nat) : State :=
  if s.taken p then
    let s := s.modPart p fun q => { q with recovering := true, fetchHold := true }
    let s := s.contain p stFaulted 0
    (s.endReqs p (fun _ => true) stFaulted 0).rest p
  else s

/-- How deep a cluster of a partition may rest: C3 with no plan bound, the park state of a parked partition that no hard reset
takes to C1, else C1 (Table 13.2, R396). -/
def PartState.restDepth (q : PartState) : Nat :=
  if q.bound.isNone then 3 else if q.park = .parked ∧ q.resetWait ≠ some true then Nat.max 1 q.parkTo.depth else 1

/-- A cluster is retired, or in service and back in the state in which it rests (R377). -/
def Cluster.recovered (c : Cluster) (depth : Nat) : Bool :=
  c.retired || (!c.resetting && !c.tripped && !c.zoneHeld && (depth == 3 || (c.trans.isNone && decide (c.power.depth ≤ depth))))

/-- Step 4 of R377: fetching resumes once every cluster of the partition is back. -/
def State.tryResume (s : State) (p : Nat) : State :=
  let q := s.part p
  if q.recovering && q.cfg.clusters.all (fun c => (s.cluster c).recovered q.restDepth) &&
      !s.declared.any (fun n => q.cfg.clusters.contains (n / 272)) then
    s.modPart p fun q => { q with recovering := false, fetchHold := false }
  else s

/-- A self-test of the partition goes, as every self-test does, with every scratchpad at zero and the resident loads in
place if it had begun (R390). -/
def State.dropTest (s : State) (p : Nat) : State :=
  let t := s.modPart p fun q => { q with test := none }
  match (s.part p).test with
  | some (.running _ _) => t.each (t.partClusters p) fun u c => (u.zeroSpads c).placeResident p c
  | _ => t

/-- The resources that a lease of kind 3 covers: the lines of a channel at one cluster (Table 15.2). -/
def State.dropChannel (s : State) (ch c : Nat) : State :=
  s.each (List.range 272) fun t i =>
    t.modCore (272 * c + i) fun k => { k with chan := k.chan.filter fun l => l.chan != ch }

/-- The controller of a leased resource abandons it and goes idle (step 5 of R381). -/
def State.abandonLease (s : State) (kind index : Nat) : State :=
  if kind = 2 then s.modCtx (index / 256) (index % 256) fun x => { x with busy := false, next := 0 }
  else if kind = 3 then
    match (channelClusters (index / 2))[index % 2]? with
    | some c => s.dropChannel (index / 2) c
    | none => s
  else if kind = 4 then
    let h := index / 512
    let f := index % 512 / 32
    let i := index % 32
    let w := s.window h f
    let b := (List.range 3).map fun k => sget 0#8 w.inSlots (128 * i + k)
    ((s.modWindow h f fun w =>
      { w with busy := w.busy &&& ~~~BitVec.ofNat 32 (2 ^ i), rung := w.rung.filter (· != i) }).reply h f
      (BitVec.ofNat 16 (field b 0 2)) (BitVec.ofNat 8 (field b 2 1)) true stFaulted).faulted f
  else if kind = 5 then s.modCluster index fun c => { c with scanning := false }
  else s

/-- A lease marked to be seized: its kind, its index and its owner tag then. -/
structure Seized where
  kind : Nat
  index : Nat
  tag : BitVec 16
  deriving DecidableEq, Repr

/-- Steps 3 to 6 of R381 for a lease that is marked. -/
def State.seizeOne (s : State) (x : Seized) : State :=
  let holder := x.tag.toNat % 4096
  let s := if holder < 1200 then s.modCluster holder fun c => { c with scanBypass := true } else s
  ((s.abandonLease x.kind x.index).release x.kind x.index).log 0x0601 (some (x.tag.toNat / 4096))
    (if holder < 1200 then some holder else none) none 0 15 (x.tag.toNat + x.kind * 65536 + x.index * 4294967296)

/-- Seizing leases, all of them marked first (step 1 of R381), so that the recovery of their partitions, which releases what
their runs hold, leaves none of them out. -/
def State.seizeList (s : State) (l : List Seized) : State :=
  let s := s.each l fun t x => t.beginRecovery (x.tag.toNat / 4096)
  let s := s.each l State.seizeOne
  s.each l fun t x => t.tryResume (x.tag.toNat / 4096)

/-- The seizure of a lease, if it is held (R381, R383). -/
def State.seize (s : State) (kind index : Nat) : State :=
  if s.lease kind index = 0x0FFF#16 then s else s.seizeList [{ kind := kind, index := index, tag := s.lease kind index }]

/-- Every lease held with a holder (R384, R380). -/
def State.leasesOf (s : State) (holder : Nat) : List Seized :=
  (s.leases.filter fun (_, v) => (v ^^^ 0x0FFF#16).toNat % 4096 == holder).map fun (k, v) =>
    { kind := k / 65536, index := k % 65536, tag := v ^^^ 0x0FFF#16 }

/-- Seizing every lease of a faulty holder. -/
def State.seizeAll (s : State) (holder : Nat) : State := s.seizeList (s.leasesOf holder)

end Sys2Proof.Machine
end

