-- ==== Sys2Proof/Machine/Issue.lean ====
section
/-!
DEFINITION. Holds (spec/03_core.md R82 to R86, spec/06_layers_and_sparsity.md R149, R162) and what every issued word
shares: when a core may issue, why it holds instead, what SECDED finds (R55), and the reads of a FIRE word.
-/

namespace Sys2Proof.Machine

open Sys2Proof

/-! ## Where a core stands -/

/-- The run of the partition that holds a cluster. -/
def State.runAt (s : State) (c : Nat) : Option (Nat × Run) :=
  (s.partOf c).bind fun p => (s.part p).run.map fun r => (p, r)

/-- The partition of a cluster has the ELASTIC attribute (R208). -/
def State.elasticAt (s : State) (c : Nat) : Bool := match s.partOf c with | some p => (s.part p).elastic | none => false

/-- Changing the run of the partition that holds a cluster. -/
def State.modRunAt (s : State) (c : Nat) (f : Run → Run) : State :=
  match s.partOf c with
  | some p => s.modPart p fun q => { q with run := q.run.map f }
  | none => s

/-- The cores of a cluster are clocked: in C0, with CCLK on (R330, R331). -/
def State.clocked (s : State) (c : Nat) : Bool := s.wafer && (s.cluster c).at .c0

/-- A core that issues its word in this CCLK unless it holds. -/
def Core.ready (k : Core) : Bool :=
  k.active && !k.halted && k.haltAt.isNone && k.waitEnd.isNone && decide (k.nextIssue ≤ k.pt)

/-- Whether a MAC step of this core reads port 0: every core in core mode, column 0 of a ganged cluster (R142). -/
def State.macReads (s : State) (c lc : Nat) : Bool := !(s.cluster c).ganged || lc % 16 == 0

/-! ## The lines a FIRE word touches -/

/-- Port and address of each line that a FIRE word reads (R60, R62, R64, R66, R68, R69). -/
def Core.reads (k : Core) (w : BitVec 64) (phase : Nat) (mac : Bool) : List (Nat × Nat) :=
  let f := k.fired w
  let at' (port line : Nat) : Nat × Nat := (port, lineAddr (bankOf port phase) line)
  (if f.mac && mac then [at' 0 (k.agLine (wbits w 19 16))] else []) ++
  (match f.pb with | some 0 => [at' 1 (k.agLine (wbits w 15 12))] | some 2 => [at' 1 (k.agLine (wbits w 15 12))] | _ => []) ++
  (match f.vec with | some v => if (vopOf (k.reg (0x20 + v))).op = 0x10 then [at' 2 (k.agLine (wbits w 11 8))] else [] | none => []) ++
  (match f.sca with | some v => (let o := sopOf (k.reg (0x30 + v)); if o.op = 0x10 then [at' 2 (k.scaLine o)] else []) | none => []) ++
  (if f.net = some false then [at' 3 (k.agLine (wbits w 7 4))] else [])

/-- Port and address of each line that a FIRE word writes in its own CCLK. -/
def Core.stores (k : Core) (w : BitVec 64) (phase : Nat) : List (Nat × Nat) :=
  let f := k.fired w
  let at' (port line : Nat) : Nat × Nat := (port, lineAddr (bankOf port phase) line)
  (match f.vec with | some v => if (vopOf (k.reg (0x20 + v))).op = 0x11 then [at' 2 (k.agLine (wbits w 11 8))] else [] | none => []) ++
  (match f.sca with | some v => (let o := sopOf (k.reg (0x30 + v)); if o.op = 0x11 then [at' 2 (k.scaLine o)] else []) | none => []) ++
  (if f.net = some true then [at' 3 (k.agLine (wbits w 7 4))] else [])

/-- A word claims port 3. -/
def Core.claims3 (k : Core) (w : BitVec 64) : Bool := wordKind w == .fire && (k.fired w).net.isSome

/-! ## Core-to-HBM reads waiting for port 3 (R281) -/

/-- A read that waits: eligible from, last CCLK, channel, transfer record, line, scratchpad address. -/
structure Waiting where
  since : Nat
  until_ : Nat
  chan : Nat
  recNo : Nat
  line : Nat
  addr : Nat
  deriving DecidableEq, Repr

/-- The first tick edge at or after a time. -/
def State.edgeFrom (s : State) (t : Nat) : Nat :=
  let off := (s.now + 8 - s.sub % 8) % 8
  t + (off + 8 - t % 8) % 8

/-- The slot of line `i` of a record in the running layer. -/
def State.slotOf (s : State) (run : Run) (t : Transfer) (i : Nat) : Nat :=
  s.edgeFrom (run.layerAt + t.start + 8 * t.period * i)

/-- The last CCLK at or before `t` in which port 3 reaches a bank: the phase of time `x` is that of x + (sub − now). -/
def State.lastTurn (s : State) (bank t : Nat) : Nat :=
  let phase := (t + 4 * s.now + s.sub - s.now) % 4
  t - (bankOf 3 phase + 4 - bank % 4) % 4

/-- The lines of a core-to-HBM record that have been read: those committed and those that wait for their slot. -/
def Run.readCount (run : Run) (rec : Nat) : Nat :=
  sget 0 run.moved rec + (run.readLines.filter fun x => x.1 == rec).length

/-- The scratchpad address of a record's line (R280). -/
def Transfer.spadOf (t : Transfer) (i : Nat) : Nat := (t.spad.toNat + 64 * i) % 262144

/-- The waiting reads of one core, the next line of each record. -/
def State.waiting (s : State) (c lc : Nat) : List Waiting :=
  match s.runAt c with
  | none => []
  | some (p, run) => match sfind? (s.part p).plans run.handle with
    | none => []
    | some l => (l.plan.sched.zipIdx).filterMap fun (t, r) =>
      let i := run.readCount r
      if t.layer = run.layer ∧ t.kind = 2 ∧ t.cluster = c ∧ t.core = lc ∧ i < t.count ∧ run.layerEnd = none then
        let slot := s.slotOf run t i
        let w : Waiting :=
          { since := Nat.max (slot - 48) run.layerAt, until_ := s.lastTurn (addrBank (t.spadOf i)) (slot - 40)
            chan := t.channel, recNo := r, line := i, addr := t.spadOf i }
        if w.since ≤ s.now then some w else none
      else none

/-- A read that must be made in this CCLK (R281). -/
def State.forcedRead (s : State) (c lc : Nat) : Option Waiting := (s.waiting c lc).find? fun w => decide (w.until_ ≤ s.now)

/-! ## Causes of a hold -/

/-- A drain of the word names an entry with a MAC step or gang step still in flight, in an elastic partition
(R162). -/
def State.drainWaits (s : State) (c lc : Nat) : Bool :=
  let k := s.coreAt (s.lcore c lc)
  let w := k.word
  let e := k.agLine (wbits w 3 0) % 64
  s.elasticAt c && wordKind w == .fire && (k.fired w).pb == some 1 &&
    (k.pipe.any (fun x => match x.act with | .mac a _ _ => a == e | _ => false) ||
      ((s.cluster c).ganged && decide (240 ≤ lc) && (s.cluster c).gang.any fun g => g.entry == e && !g.done.contains (lc % 16)))

/-- A send of the word finds no credit at some output (R122). -/
def State.sendWaits (s : State) (c lc : Nat) (net : Net) (preset : Nat) : Bool :=
  (outsOf ((s.coreAt (s.lcore c lc)).preset? net preset) 5).any fun d => !s.canSend c lc net d

/-- The preset in force from the CCLK after the word. -/
def Core.nextPreset (k : Core) (w : BitVec 64) : Nat :=
  match wordKind w with
  | .fire => (k.fired w).rte.getD k.presetNext
  | _ => k.presetNext

/-- Why the word at the program counter would hold its core, in a CCLK of a phase (R83, R84, R162). -/
def State.wordCause (s : State) (c lc phase : Nat) : Option HoldKind :=
  let n := s.lcore c lc
  let k := s.coreAt n
  let w := k.word
  if wordKind w ≠ .fire then none
  else
    let f := k.fired w
    let touched := (k.reads w phase (s.macReads c lc)) ++ (k.stores w phase).filter fun x => x.1 != 3
    let range := k.guarded && touched.any fun x => k.armedAt s.now (addrBank x.2) (addrLine x.2)
    let sop := f.sca.map fun v => (sopOf (k.reg (0x30 + v))).op
    let queue := (f.net == some false && s.sendWaits c lc .vec (k.nextPreset w)) ||
      (f.net == some true && (k.rxHead .vec s.now).isNone) ||
      (sop == some 0x12 && s.sendWaits c lc .sca (k.nextPreset w)) || (sop == some 0x13 && (k.rxHead .sca s.now).isNone)
    if range || s.drainWaits c lc then some .range else if queue then some .queue else none

/-- A deferred drain write due in this CCLK would go to an armed line (R83). -/
def State.drainCause (s : State) (n phase : Nat) : Option HoldKind :=
  let k := s.coreAt n
  if k.guarded && k.pipe.any fun x => match x.act with
      | .drain line _ _ => decide (x.due ≤ k.pt) && k.armedAt s.now (bankOf 1 phase) (line % 1024)
      | _ => false
  then some .range else none

/-- A word needs port 3 in the CCLK in which a forced read takes it (R281). -/
def State.forcedOut (s : State) (c lc : Nat) : Bool :=
  let k := s.coreAt (s.lcore c lc)
  k.claims3 k.word && (k.port3 == some s.now || (s.forcedRead c lc).isSome)

/-- The hold that a core begins in this CCLK, if any. -/
def State.ownHold (s : State) (c lc : Nat) : Option (HoldKind × HoldCause) :=
  let n := s.lcore c lc
  let k := s.coreAt n
  if k.hold.isSome || !k.active then none
  else match s.drainCause n s.phase with
    | some r => some (r, .drain)
    | none =>
      if !k.ready then none
      else match s.wordCause c lc s.phase with
        | some r => some (r, .word)
        | none => if s.forcedOut c lc then some (.queue, .forced) else none

/-- The causes that hold a holding core now, its own only. -/
def State.ownCause (s : State) (c lc : Nat) : Option HoldKind :=
  let n := s.lcore c lc
  let k := s.coreAt n
  match k.hold with
  | none => none
  | some h => match h.cause with
    | .follow _ => none
    | _ => match s.drainCause n h.phase with
      | some r => some r
      | none => if k.ready then s.wordCause c lc h.phase else none

/-- The causes that hold a core: its own, else those of its ganged cluster (R149). -/
def State.causeNow (s : State) (c lc : Nat) : Option HoldKind :=
  match s.ownCause c lc with
  | some r => some r
  | none =>
    if (s.cluster c).ganged then
      let l := (List.range 256).filterMap (s.ownCause c)
      if l.contains .range then some .range else l.head?
    else none

/-! ## A hold begins -/

/-- A core holds from this CCLK on. -/
def State.beginHold (s : State) (c lc : Nat) (kind : HoldKind) (cause : HoldCause) : State :=
  s.modCore (s.lcore c lc) fun k => k.beginHold s.phase kind cause

/-- The freeze of a ganged cluster (R149): each core that would hold does, and every other one follows. -/
def State.freeze (s : State) (c : Nat) (l : List (Nat × HoldKind × HoldCause)) : State :=
  let kind : HoldKind := if l.any fun x => x.2.1 == .range then .range else .queue
  let lead : LCore := match l with | (lc, _) :: _ => Fin.ofNat 256 lc | [] => 0
  s.each (List.range 256) fun t lc =>
    match l.find? fun x => x.1 == lc with
    | some (_, r, cause) => t.beginHold c lc r cause
    | none => if (t.coreAt (t.lcore c lc)).hold.isSome then t else t.beginHold c lc kind (.follow lead)

/-- The holds that begin in a cluster in this CCLK. -/
def State.gangHolds (s : State) (c : Nat) : List (Nat × HoldKind × HoldCause) :=
  (List.range 256).filterMap fun lc => (s.ownHold c lc).map fun x => (lc, x)

/-- The state with the hold that begins for a core in this CCLK, if one does. -/
def State.holdNow (s : State) (c lc : Nat) : Option State :=
  if (s.cluster c).ganged then
    match s.gangHolds c with
    | [] => none
    | l => some (s.freeze c l)
  else (s.ownHold c lc).map fun (r, cause) => s.beginHold c lc r cause

/-- The core's pipelines stand still in this CCLK. -/
def State.stalled (s : State) (c lc : Nat) : Bool := (s.coreAt (s.lcore c lc)).hold.isSome || (s.holdNow c lc).isSome

/-- MAC and gang steps go on landing in a hold that waits for one of them (R162). -/
def State.macRuns (s : State) (c lc : Nat) : Bool :=
  let k := s.coreAt (s.lcore c lc)
  k.hold.isSome && k.ready && s.drainWaits c lc

/-- Some core of a cluster holds for a MAC or gang step to land. -/
def State.gangRuns (s : State) (c : Nat) : Bool := (List.range 256).any (s.macRuns c)

/-- A hold that began in this CCLK. -/
def Core.heldNow (k : Core) : Bool := match k.hold with | some h => h.count == 0 | none => false

/-- Taking back a hold that began in this CCLK, so that the word is judged again: a send for which the credit has been
raised since, in the same CCLK, does not hold (R122). A ganged cluster's freeze goes with it. -/
def State.reconsider (s : State) (c lc : Nat) : State :=
  if (s.coreAt (s.lcore c lc)).heldNow then
    if (s.cluster c).ganged then
      s.each (List.range 256) fun t j => t.modCore (t.lcore c j) fun k => if k.heldNow then { k with hold := none } else k
    else s.modCore (s.lcore c lc) fun k => { k with hold := none }
  else s

/-! ## The watchdog (R86) -/

/-- A hold is over: its causes have cleared and its phase is back (R84). -/
def State.holdOver (s : State) (c lc : Nat) (h : Hold) : Bool :=
  decide (0 < h.count) && s.phase == h.phase && (s.causeNow c lc).isNone

/-- A watchdog trips: wdog, the report to the Marionette and the record. -/
def State.wdogTrip (s : State) (c lc : Nat) (kind : HoldKind) : State :=
  let n := s.lcore c lc
  let s := s.modCore n fun k => { k with wdog := true }
  let s : State := { s with coreEvents := s.coreEvents ++ [(toCl c, Fin.ofNat 256 lc, false, true, false)] }
  s.log 0x0201 (s.partOf c) (some c) (some (n % 272)) 0 15 (if kind = .queue then 1 else 0)

/-! ## Double-bit errors (R55, R385) -/

/-- CCLK of 24 hours. -/
def dayCclk : Nat := 86400000000000

/-- A double-bit error at a core: its registers, CORE_EVENT, the log, the end of the run, and the second one in 24
hours. -/
def State.doubleBit (s : State) (c lc addr : Nat) (store : Bool) : State :=
  let n := s.lcore c lc
  let s := s.modCore n fun k => { k with ue := true, eccUe := BitVec.ofNat 19 (addr + bit store 18) }
  let s : State := { s with coreEvents := s.coreEvents ++ [(toCl c, Fin.ofNat 256 lc, true, false, false)] }
  let last := sget 0 (s.cluster c).doubleAt (n % 272)
  let again := decide (0 < last) && decide (s.now + 1 ≤ last + dayCclk)
  let s := s.modCluster c fun k => { k with doubleAt := sput 0 (n % 272) (s.now + 1) k.doubleAt }
  let s : State := if again && !s.declared.contains n then { s with declared := s.declared ++ [n] } else s
  let s := s.log 0x0102 (s.partOf c) (some c) (some (n % 272)) 0 15 (addr + bit store 32)
  match s.partOf c with
  | some p => s.contain p stFaulted 0
  | none => s

/-- The words of the configuration store that the word at the program counter reads: itself, and the words of the preset it
selects (R118). -/
def Core.storeReads (k : Core) : List Nat :=
  k.pc :: (if wordKind k.word = .fire then
    match (k.fired k.word).rte with
    | some i => if i < k.curSlot.presets then (List.range 8).map fun j => 504 - 8 * i + j else []
    | none => []
  else [])

/-- What SECDED finds in the words of the store and in the lines that a step reads (R55): every word with a single-bit
error counts, and every double-bit error ends the run. -/
def State.secded (s : State) (c lc slot : Nat) (words : List Nat) (reads : List (Nat × Nat)) (ecc : Ecc) : State :=
  let n := s.lcore c lc
  let s := if ecc.single = 0 then s else s.modCore n (·.corrected (Nat.min ecc.single (words.length + 8 * reads.length)))
  let s := s.each (reads.filter fun x => ecc.lines.any fun p => p.val == x.1) fun t x => t.doubleBit c lc (x.2 / 64 * 64) false
  s.each (words.filter fun w => ecc.store.any fun v => v.val == w) fun t w => t.doubleBit c lc (0x1000 * slot + 8 * w) true

/-- Issuing a word of a kind: the core holds, or the word has its effect and what SECDED finds follows. A step word with a
double-bit error has no effect. -/
def State.issue (s : State) (c lc : Nat) (want : WordKind) (ecc : Ecc) (act : State → State) : State :=
  let u := s.reconsider c lc
  let n := u.lcore c lc
  let k := u.coreAt n
  if !(u.clocked c && k.hold.isNone && k.ready && wordKind k.word == want) then s
  else match u.holdNow c lc with
    | some t => t
    | none =>
      let reads := if want = .fire then k.reads k.word u.phase (u.macReads c lc) else []
      (if ecc.store.any (fun v => v.val == k.pc) then u else act u).secded c lc k.slot.val k.storeReads reads ecc

end Sys2Proof.Machine
end

