-- ==== Sys2Proof/Machine/Exec.lean ====
section
/-!
DEFINITION. The core's step words and pipelines (spec/03_core.md R58 to R86, spec/06_layers_and_sparsity.md R143 to R149
and R159 to R162): FIRE, SET, LOOP, WAIT, HALT, the end of each, and the landings of what a FIRE word began.
-/

namespace Sys2Proof.Machine

open Sys2Proof

/-! ## What lands in a core -/

/-- Lands a MAC step's column sums (R62, R99). -/
def Core.landMac (k : Core) (e : Nat) (init : Bool) (sums : List (BitVec 32)) : Core :=
  { k with acc := sputAll 0#32 (sums.zipIdx.map fun (v, j) => (32 * e + j, accUpdate (sget 0#32 k.acc (32 * e + j)) v init)) k.acc }

/-- Lands rows of a weight load at the fill pointer, which wraps after row 31: stored row j is the row of the line that R60
gives row j, its j mod n-th of n. -/
def Core.landWeights (k : Core) (rows : List (List (BitVec 16))) : Core :=
  let put (d : Nat) : List (Nat × BitVec 16) :=
    (rows.getD ((k.wfill + d) % rows.length) []).zipIdx.map fun (v, i) => (32 * ((k.wfill + d) % 32) + i, v)
  { k with
      shadow_w := sputAll 0#16 ((List.range rows.length).flatMap put) k.shadow_w
      wfill := (k.wfill + rows.length) % 32 }

/-- Lands scale entries at the scale fill pointer (R64). -/
def Core.landScales (k : Core) (es : List (BitVec 64)) : Core :=
  { k with
      scale := sputAll 0#64 (es.zipIdx.map fun (v, d) => ((k.sfill + d) % 32, v)) k.scale
      sfill := (k.sfill + es.length) % 32 }

/-- Lands one piece of work that stays within the core; a drain write goes to the scratchpad instead. -/
def Core.landOne (k : Core) (a : Act) : Core :=
  match a with
  | .mac e init sums => k.landMac e init sums
  | .drain _ _ _ => k
  | .vec vd lanes => { k with vreg := sputAll 0#32 (lanes.map fun (j, v) => (32 * vd + j, v)) k.vreg }
  | .sca sd v => { k with sreg := sput 0#32 sd v k.sreg }
  | .wload rows => k.landWeights rows
  | .sload es => k.landScales es

/-- The kinds of pipeline work, one for each landing event. -/
inductive Stream where
  | mac
  | drain
  | vec
  | sca
  | wload
  | sload
  deriving DecidableEq, Repr

/-- The kind of a piece of work. -/
def Act.stream (a : Act) : Stream :=
  match a with
  | .mac _ _ _ => .mac
  | .drain _ _ _ => .drain
  | .vec _ _ => .vec
  | .sca _ _ => .sca
  | .wload _ => .wload
  | .sload _ => .sload

/-- Work of a kind that is due. The pipeline list is in issue order, so of two results for one register the later
issue prevails (R67, R68). -/
def Core.due (k : Core) (q : Stream) : List Pend := k.pipe.filter fun x => x.act.stream == q && decide (x.due ≤ k.pt)

/-- The core once the due work of a kind has left its pipelines. -/
def Core.undue (k : Core) (q : Stream) : Core :=
  { k with pipe := k.pipe.filter fun x => !(x.act.stream == q && decide (x.due ≤ k.pt)) }

/-- Landing all due work of a kind. -/
def Core.land (k : Core) (q : Stream) : Core := (k.due q).foldl (fun k x => k.landOne x.act) (k.undue q)

/-! ## FIRE -/

/-- The work a FIRE word starts in the core's pipelines (R60 to R68); `line` reads a line through a port. -/
def Core.started (k : Core) (w : BitVec 64) (gang : Bool) (line : Nat → Nat → Bytes) (rx : Bytes) : List Pend :=
  let f := k.fired w
  let cfg := k.reg 0x40
  let at' (d : Nat) (a : Act) : Pend := { due := k.pt + d, issued := k.pt, act := a }
  let entry := k.agLine (wbits w 3 0) % 64
  let b := wbits w 15 12
  let mac :=
    if f.mac && !gang then
      let acts := activation cfg (k.agHalf (wbits w 19 16)) (line 0 (k.agLine (wbits w 19 16)))
      [at' (if halfRate cfg then 36 else 35)
        (.mac entry f.init ((List.range 32).map fun j => (columnSum (products cfg acts k.active_w j)).word))]
    else []
  let pb :=
    match f.pb with
    | some 0 => [at' 1 (.wload (weightRows cfg (line 1 (k.agLine b))))]
    | some 1 =>
      let fmt := outFmt (bitsOf cfg.toNat 32 30)
      let out (j : Nat) : Nat := convert (sget 0#32 k.acc (32 * entry + j)) (sget 0#64 k.scale j)
        (cfg.getLsbD 27) (cfg.getLsbD 28) fmt (cfg.getLsbD 29)
      if fmt = .fp32 then
        [at' 6 (.drain (k.agLine b) 0 (packLanes fmt ((List.range 16).map out))),
         at' 7 (.drain (k.agLine b) 0 (packLanes fmt ((List.range 16).map fun j => out (16 + j))))]
      else [at' 6 (.drain (k.agLine b) (if fmt.bits = 8 then 32 * k.agHalf b else 0) (packLanes fmt ((List.range 32).map out)))]
    | some 2 => [at' 1 (.sload (scaleEntries (line 1 (k.agLine b))))]
    | _ => []
  let vec :=
    match f.vec with
    | some v =>
      let o := vopOf (k.reg (0x20 + v))
      if !o.ok ∨ o.op = 0x11 then []
      else if o.op = 0x10 then [at' 1 (.vec o.vd (loadLanes o (line 2 (k.agLine (wbits w 11 8)))))]
      else [at' (o.latency - 1) (.vec o.vd (k.vlanes o))]
    | none => []
  let sca :=
    match f.sca with
    | some v =>
      let o := sopOf (k.reg (0x30 + v))
      if !o.ok ∨ o.op = 0x0D ∨ o.op = 0x11 ∨ o.op = 0x12 then []
      else if o.op = 0x10 then
        [at' 1 (.sca o.sd (BitVec.ofNat 32 (field (line 2 (k.scaLine o)) (4 * bitsOf (k.scaAddr o) 3 0) 4)))]
      else if o.op = 0x13 then [at' 0 (.sca o.sd (BitVec.ofNat 32 (leNat rx)))]
      else [at' (o.latency - 1) (.sca o.sd (k.scalar o))]
    | none => []
  mac ++ pb ++ vec ++ sca

/-- The tiles of the gang steps that a swap leaves the old tile to: those whose u(r,k) is not later (R146). -/
def GangStep.keepTile (g : GangStep) (now lc : Nat) (old : SMap (BitVec 16)) : GangStep :=
  if g.issued + 2 + lc % 16 + 33 * (lc / 16) ≤ now && (sfind? g.tiles lc).isNone then { g with tiles := sins lc old g.tiles }
  else g

/-- A swap of weight buffers (R61): due loads land first, and the fill pointer goes to 0. -/
def State.swap (s : State) (c lc : Nat) : State :=
  let n := s.lcore c lc
  let old := (s.coreAt n).active_w
  let s := if (s.cluster c).ganged then
      s.modCluster c fun k => { k with gang := k.gang.map fun g => g.keepTile k.gangPt lc old }
    else s
  s.modCore n fun k =>
    let k := k.land .wload
    { k with active_w := k.shadow_w, shadow_w := k.active_w, wfill := 0 }

/-- One row of a gang step: the step of this CCLK, begun by the first row to issue; entry, mac_init and CO_ARR_CFG are
those of c(0,0) (R143, R144). -/
def Cluster.gangRow (k : Cluster) (row entry : Nat) (init : Bool) (cfg : BitVec 40) (acts : List (BitVec 16)) : Cluster :=
  let g : GangStep := (k.gang.find? fun g => g.issued == k.gangPt).getD
    { issued := k.gangPt, entry := 0, init := false, cfg := 0, rows := [], tiles := [], done := [] }
  let g := if row = 0 then { g with entry := entry, init := init, cfg := cfg } else g
  let g := { g with rows := sins row acts g.rows }
  { k with gang := (k.gang.filter fun x => x.issued != k.gangPt) ++ [g] }

/-- What a scalar operation does beside its result: STORE, SEND, WRAGB (R68). -/
def State.scalarSide (s : State) (c lc : Nat) (k : Core) (o : SOp) (preset : Nat) : State :=
  let n := s.lcore c lc
  match o.op with
  | 0x0D => s.modCore n fun x =>
      x.setReg (0x10 + o.imm % 16) ((x.reg (0x10 + o.imm % 16) &&& 0x3FFFFFFF#40) ||| BitVec.ofNat 40 ((k.s o.sa).toNat % 1024 * 1073741824))
  | 0x11 => s.spadWrite n (lineAddr (bankOf 2 s.phase) (k.scaLine o) + 8 * bitsOf (k.scaAddr o) 3 1)
      (leBytes 4 (k.s o.sb) ++ leBytes 4 (k.s (o.sb + 1)))
  | 0x12 => s.passAll c lc .sca (leBytes 4 (k.s o.sa)) (s.now + 1) (outsOf (k.preset? .sca preset) 5)
  | 0x13 => s.takeRx c lc .sca
  | _ => s

/-- The network port of a FIRE word (R69): a send leaves in the next CCLK under the preset then in force (R122); a
receive writes its line and lowers ranges (R82). -/
def State.netSide (s : State) (c lc : Nat) (k : Core) (w : BitVec 64) (receive : Bool) (rx : Bytes) (preset : Nat) : State :=
  let n := s.lcore c lc
  let line := k.agLine (wbits w 7 4)
  let bank := bankOf 3 s.phase
  let s :=
    if receive then
      ((s.spadWrite n (lineAddr bank line) rx).takeRx c lc .vec).modCore n fun x => x.lower s.now bank line
    else s.passAll c lc .vec (s.spadRead n (lineAddr bank line) 64) (s.now + 1) (outsOf (k.preset? .vec preset) 5)
  s.modCore n fun x => { x with port3 := some s.now }

/-- The effect of a FIRE word that issues (R73). -/
def State.fire (s : State) (c lc : Nat) : State :=
  let n := s.lcore c lc
  let k := s.coreAt n
  let w := k.word
  let f := k.fired w
  let phase := s.phase
  let gang := (s.cluster c).ganged
  let line (port l : Nat) : Bytes := s.spadRead n (lineAddr (bankOf port phase) l) 64
  let preset := k.nextPreset w
  let started := k.started w gang line ((k.rxHead .sca s.now).getD [])
  let s := if f.mac && gang && lc % 16 == 0 then
      let cfg := k.reg 0x40
      let acts := activation cfg (k.agHalf (wbits w 19 16)) (line 0 (k.agLine (wbits w 19 16)))
      s.modCluster c fun x => x.gangRow (lc / 16) (k.agLine (wbits w 3 0) % 64) f.init cfg acts
    else s
  let s := if f.swap then s.swap c lc else s
  let s := match f.vec with
    | some v =>
      let o := vopOf (k.reg (0x20 + v))
      if o.op = 0x11 ∧ o.ok then
        s.spadWrite n (lineAddr (bankOf 2 phase) (k.agLine (wbits w 11 8)) + (k.storeLanes o).1) (k.storeLanes o).2
      else s
    | none => s
  let s := match f.sca with
    | some v => s.scalarSide c lc k (sopOf (k.reg (0x30 + v))) preset
    | none => s
  let s := match f.net with
    | some receive => s.netSide c lc k w receive ((k.rxHead .vec s.now).getD []) preset
    | none => s
  s.modCore n fun x => { x with pipe := x.pipe ++ started, presetNext := preset, pc := k.pc + 1, nextIssue := k.pt + 1 }

/-- R73. -/
def execFireWord (cl : Cl) (core : LCore) (ecc : Ecc) (s : State) : Outcome :=
  .next (s.issue cl.val core.val .fire ecc fun t => t.fire cl.val core.val)

/-! ## SET, WAIT, HALT -/

/-- The effect of a SET word (R76), whose value applies from the next CCLK: the free-running counters advance first (R78).
A SET that leaves a range with a count arms it (R82). -/
def Core.setWord (k : Core) (now : Nat) : Core :=
  let w := k.word
  let i := wbits w 57 48
  let v := BitVec.ofNat 40 (wbits w 39 0)
  let k := { (k.advanceFree 1).setReg i v with pc := k.pc + 1, nextIssue := k.pt + 1, counted := true }
  if 0x48 ≤ i ∧ i < 0x50 then { k with armed := sput 0 (i - 0x48) now k.armed } else k

/-- R76. -/
def execSetWord (cl : Cl) (core : LCore) (ecc : Ecc) (s : State) : Outcome :=
  .next (s.issue cl.val core.val .set ecc fun t => t.modCore (t.lcore cl.val core.val) fun k => k.setWord t.now)

/-- The effect of a WAIT word of n CCLK (R77). -/
def Core.wait (k : Core) : Core :=
  let n := wbits k.word 58 39 + 1
  { k with waitEnd := some (k.pt + n), nextIssue := k.pt + n }

/-- R77. -/
def execWait (cl : Cl) (core : LCore) (ecc : Ecc) (s : State) : Outcome :=
  .next (s.issue cl.val core.val .wait ecc fun t => t.modCore (t.lcore cl.val core.val) Core.wait)

/-- A WAIT whose count has expired goes on at the next word. -/
def Core.waitDone (k : Core) : Core :=
  match k.waitEnd with
  | some e => if e ≤ k.pt && k.hold.isNone then { k with waitEnd := none, pc := k.pc + 1 } else k
  | none => k

/-- R77. -/
def execWaitEnd (cl : Cl) (core : LCore) (s : State) : Outcome :=
  .next (if s.clocked cl.val then s.modCore (s.lcore cl.val core.val) Core.waitDone else s)

/-- The effect of a HALT word, or of word S (R72, R77). -/
def Core.halt (k : Core) : Core := { k with haltAt := some k.pt, nextIssue := k.pt + 1 }

/-- R77. -/
def execHalt (cl : Cl) (core : LCore) (ecc : Ecc) (s : State) : Outcome :=
  .next (s.issue cl.val core.val .halt ecc fun t => t.modCore (t.lcore cl.val core.val) Core.halt)

/-! ## LOOP and skipped iterations -/

/-- The effect of a LOOP word (R77). -/
def Core.loop (k : Core) : Core :=
  let w := k.word
  let c := wbits w 58 56
  if k.kval c < k.lval c then { k.setK c (k.kval c + 1) with pc := wbits w 55 47, nextIssue := k.pt + 1 }
  else { k.setK c 0 with pc := k.pc + 1, nextIssue := k.pt + 1 }

/-- Every value of a weight tile is finite (R159). -/
def tileFinite (f : Fmt) (tile : SMap (BitVec 16)) : Bool :=
  tile.all fun x => match f.decode x.2.toNat with | .fin _ _ _ => true | _ => false

/-- Writing bytes into a line at an offset. -/
def splice (line : Bytes) (off : Nat) (data : Bytes) : Bytes := line.take off ++ data ++ line.drop (off + data.length)

/-- A line as a read through port 0 will find it `d` CCLK from now if nothing but the core's own drains, now in its
pipelines, writes it (R54, R65). -/
def State.lineAfter (s : State) (n : Nat) (k : Core) (bank l d : Nat) : Bytes :=
  k.pipe.foldl (fun b x => match x.act with
    | .drain line off data =>
      if x.due < k.pt + d ∧ bankOf 1 (s.phase + (x.due - k.pt)) = bank ∧ line % 1024 = l % 1024 then splice b off data else b
    | _ => b) (s.spadRead n (lineAddr bank l) 64)

/-- The MAC step of a word that issues `d` CCLK from now is a zero step (R159). Its tags are those of the line as it stands
now and as the core's drains still in the pipeline leave it: R161 names no CCLK in which they are read (DESIGN CHOICE,
notes/assumptions/102.md). A line of an armed range may still arrive, and is no zero vector. -/
def State.zeroStep (s : State) (n : Nat) (k : Core) (w : BitVec 64) (d : Nat) : Bool :=
  let cfg := k.reg 0x40
  let bank := bankOf 0 (s.phase + d)
  let l := k.agLine (wbits w 19 16)
  !k.armedAt s.now bank l && tileFinite (wtFmt cfg) k.active_w &&
    (activation cfg (k.agHalf (wbits w 19 16)) (s.lineAfter n k bank l d)).all (· == 0#16)

/-- No unit but mac fires in a FIRE word, and mac_init does not (R161). -/
def Fired.macOnly (f : Fired) : Bool :=
  !f.init && !f.swap && f.pb.isNone && f.vec.isNone && f.sca.isNone && f.net.isNone && f.rte.isNone

/-- The iteration as it would run, from the word at the program counter, `d` CCLK from now, to the LOOP word at `stop` (or
to a HALT): its FIRE words fire mac at most, and each MAC step they issue is zero. LOOP words within it branch as they
would. -/
def Core.zeroFrom (fuel : Nat) (k : Core) (stop d : Nat) (zero : Core → BitVec 64 → Nat → Bool) : Bool :=
  match fuel with
  | 0 => false
  | m + 1 =>
    if k.pc = stop then true
    else
      let w := k.word
      match wordKind w with
      | .fire =>
        let f := k.fired w
        f.macOnly && (!f.mac || zero k w d) && Core.zeroFrom m ({ k with pc := k.pc + 1 }.advanceFree 1) stop (d + 1) zero
      | .loop => Core.zeroFrom m (k.loop.advanceFree 1) stop (d + 1) zero
      | .halt => true
      | _ => false

/-- CCLK of an iteration after which it is not followed further (notes/assumptions/54.md). -/
def iterFuel : Nat := 4294967296

/-- Whether the LOOP word at the program counter may skip an iteration (R161), when `zero` tells the zero steps. -/
def State.maySkip (s : State) (c lc : Nat) (zero : Core → BitVec 64 → Nat → Bool) : Bool :=
  let k := s.coreAt (s.lcore c lc)
  let w := k.word
  let ctr := wbits w 58 56
  let target := wbits w 55 47
  let m := k.pc + 1 - target
  s.elasticAt c && !(s.cluster c).ganged && k.guarded && decide (target ≤ k.pc) && decide (8 ≤ m ∧ m ≤ 32) && m % 4 == 0 &&
    decide (k.kval ctr < k.lval ctr) &&
    (List.range (m - 1)).all (fun j => let x := wordKind (sget 0#64 k.curSlot.words (target + j)); x != .wait && x != .set) &&
    Core.zeroFrom iterFuel ({ k.setK ctr (k.kval ctr + 1) with pc := target }.advanceFree 1) k.pc 1 zero

/-- Whether the LOOP word at the program counter skips an iteration. -/
def State.skips (s : State) (c lc : Nat) : Bool := s.maySkip c lc (s.zeroStep (s.lcore c lc))

/-- A skipped iteration: 4 CCLK without an issue, after which every free-running counter has advanced by its length
in words: by all but 4 now, and once in each of the 4 CCLK. The LOOP word is then evaluated again. -/
def Core.skip (k : Core) : Core :=
  let w := k.word
  let c := wbits w 58 56
  { (k.setK c (k.kval c + 1)).advanceFree (k.pc + 1 - wbits w 55 47 - 4) with nextIssue := k.pt + 4 }

/-- R77, R161. -/
def execLoop (cl : Cl) (core : LCore) (ecc : Ecc) (s : State) : Outcome :=
  .next (s.issue cl.val core.val .loop ecc fun t =>
    t.modCore (t.lcore cl.val core.val) fun k => if t.skips cl.val core.val then k.skip else k.loop)

/-! ## Landings -/

/-- Landing a kind of work in a core that does not hold; MAC work also lands in a hold that waits for it (R162). -/
def State.landing (s : State) (c lc : Nat) (q : Stream) : State :=
  if s.clocked c && (!s.stalled c lc || (q == .mac && s.macRuns c lc)) then
    s.modCore (s.lcore c lc) (·.land q)
  else s

/-- Drain writes due in this CCLK, or the hold that an armed line begins (R65, R83). -/
def State.drainWrite (s : State) (c lc : Nat) : State :=
  let n := s.lcore c lc
  if !(s.clocked c) || (s.coreAt n).hold.isSome then s
  else match s.holdNow c lc with
    | some t => if ((s.coreAt n).due .drain).isEmpty then s else t
    | none =>
      let due := (s.coreAt n).due .drain
      (s.each due fun t x => match x.act with
        | .drain line off data => t.spadWrite n (lineAddr (bankOf 1 t.phase) line + off) data
        | _ => t).modCore n (·.undue .drain)

/-- The 512-long sum of a gang column (R101). -/
def State.gangSum (s : State) (c : Nat) (g : GangStep) (k j : Nat) : FVal :=
  let part (r : Nat) : List (FVal × FVal) :=
    let tile := match sfind? g.tiles (16 * r + k) with
      | some t => t
      | none => (s.coreAt (s.lcore c (16 * r + k))).active_w
    products g.cfg (sget [] g.rows r) tile j
  (List.range 15).foldl (fun a r => columnFrom a (part (r + 1))) (columnSum (part 0))

/-- The update of c(15,k) by the oldest gang step due there (R144, R145). -/
def State.gangUpdate (s : State) (c k : Nat) : State :=
  let cl := s.cluster c
  if !(s.clocked c) || ((s.stalled c (240 + k)) && !s.gangRuns c) then s
  else match cl.gang.find? fun g =>
      decide (g.issued + 530 + k + (if halfRate g.cfg then 1 else 0) ≤ cl.gangPt) && !g.done.contains k with
    | none => s
    | some g =>
      let sums := (List.range 32).map fun j => (s.gangSum c g k j).word
      let s := s.modCore (s.lcore c (240 + k)) fun x => x.landMac g.entry g.init sums
      s.modCluster c fun x =>
        { x with gang := (x.gang.map fun y => if y.issued = g.issued then { y with done := y.done ++ [k] } else y).filter fun y =>
            decide (y.done.length < 16) }

/-- R62. -/
def execAccumulatorUpdate (cl : Cl) (core : LCore) (s : State) : Outcome := .next (s.landing cl.val core.val .mac)

/-- R144. -/
def execGangAccumulatorUpdate (cl : Cl) (k : Fin 16) (s : State) : Outcome := .next (s.gangUpdate cl.val k.val)

/-- R65. -/
def execDrainWrite (cl : Cl) (core : LCore) (s : State) : Outcome := .next (s.drainWrite cl.val core.val)

/-- R67. -/
def execVectorResultWrite (cl : Cl) (core : LCore) (s : State) : Outcome := .next (s.landing cl.val core.val .vec)

/-- R68. -/
def execScalarResultWrite (cl : Cl) (core : LCore) (s : State) : Outcome := .next (s.landing cl.val core.val .sca)

/-- R61. -/
def execWeightLoadLand (cl : Cl) (core : LCore) (s : State) : Outcome := .next (s.landing cl.val core.val .wload)

/-- R64. -/
def execScaleLoadLand (cl : Cl) (core : LCore) (s : State) : Outcome := .next (s.landing cl.val core.val .sload)

/-! ## Halts, the end of a layer, holds -/

/-- The link records of the running layer have read, sent or delivered all of their cells (R316). -/
def PartState.linksDone (q : PartState) (run : Run) : Bool :=
  q.groups.all fun (g, grp) => !q.names grp run.entry ||
    grp.recs.zipIdx.all fun (r, i) => r.layer != run.layer ||
      (let x := sget {} run.links (4096 * g + i); decide (r.count ≤ x.cell) && x.queued == 0 && x.writing == 0)

/-- The first CCLK of phase 0 at or after a time. -/
def State.phase0From (s : State) (t : Nat) : Nat :=
  let off := (s.now + 4 - s.sub % 4) % 4
  t + (off + 4 - t % 4) % 4

/-- The breath at the end of a layer, in ticks (R354): none for a cool partition or below 100 ticks, none
in a brace or a forced quiesce (R360, R394). -/
def State.breathOf (s : State) (p : Nat) (run : Run) (r : Request) (n len : Nat) : Nat :=
  let hot := (s.partClusters p).any fun c => let k := s.cluster c; decide (4 * s.policy.tBreath ≤ Nat.max k.t0 k.t1)
  let b := Nat.min (ceilDiv (r.b * len) n) (r.b - run.spent)
  if (hot || s.overCap) && decide (100 ≤ b) && s.brace.isNone && !s.quiescing then b else 0

/-- The low 48 bits of the engine's CCLK count at a time to come. -/
def State.cclkAt (s : State) (t : Nat) : BitVec 48 := BitVec.ofNat 48 (s.cclk + (t - s.now))

/-- The payload of SLOT_SWITCH (R184): slot and mode, then the switch CCLK, least significant flit first. -/
def switchFlits (slot : Fin 4) (guarded : Bool) (c : BitVec 48) : List (BitVec 16) :=
  [BitVec.ofNat 16 (slot.val + bit guarded 2), c.setWidth 16, c.extractLsb' 16 16, c.extractLsb' 32 16]

/-- LAYER_END (R182, R151, R354): with every cluster's report in, the leader takes the layer's end from the reports (and
from its link records, R316), and fixes any breath, the switch CCLK and the frame that tells it. The clusters of a
breathing partition are in C1 from the end of the layer. -/
def State.fixSwitch (s : State) (p : Nat) : State :=
  let q := s.part p
  match q.run with
  | none => s
  | some run =>
    match run.layerEnd, (sfind? q.plans run.handle).bind (fun l => (l.plan.entries[run.entry]?).map fun e => (l, e)), q.req? run.req with
    | some _, some (l, e), some r =>
      if run.switch.isSome || run.stop.isSome || run.layer + 1 == e.first + e.count ||
          !q.cfg.clusters.all (fun c => (sfind? run.reports c).isSome) then s
      else
        let t := run.reports.foldl (fun m x => Nat.max m x.2) run.linkEnd
        let b := s.breathOf p run r e.n (t - run.layerAt)
        let time := s.phase0From (t + 8 * b + switchTime q.cfg.w q.cfg.h)
        let flits := match l.plan.layers[run.layer + 1]? with
          | some y => switchFlits y.slot y.guarded (s.cclkAt time)
          | none => []
        let s := if b = 0 then s else s.each q.cfg.clusters fun u c => u.modCluster c fun k => { k with power := .c1 }
        s.modPart p fun q => { q with run := q.run.map fun x =>
          { x with switch := some { layer := run.layer + 1, time := time, flits := flits }, spent := x.spent + b
                   breathing := if b = 0 then none else some (t + 8 * b)
                   flags := { x.flags with breath := x.flags.breath || decide (0 < b) } } }
    | _, _, _ => s

/-- A layer ends once every logical core of the partition has halted (R150) and its link records are done (R316). A run
told to stop stops here (R364). -/
def State.layerEnds (s : State) (p : Nat) : State :=
  match (s.part p).run with
  | none => s
  | some run =>
    if run.layerEnd.isSome || !(s.partCores p).all fun n => (s.coreAt n).halted then s
    else if !(s.part p).linksDone run then
      if run.haltedAt.isSome then s else s.modPart p fun q => { q with run := q.run.map fun r => { r with haltedAt := some s.now } }
    else
      let s := s.modPart p fun q => { q with run := q.run.map fun r =>
        { r with layerEnd := some s.now, haltedAt := none, linkEnd := if r.haltedAt.isSome then s.now else r.linkEnd } }
      if run.stop.isSome then s.stopRun p else s.fixSwitch p

/-- A core is halted from the first CCLK after HALT in which none of its work remains (R77). -/
def State.coreHalt (s : State) (c lc : Nat) : State :=
  let n := s.lcore c lc
  let k := s.coreAt n
  let past := match k.haltAt with | some t => decide (t < k.pt) | none => false
  if s.clocked c && k.active && !k.halted && k.hold.isNone && past && k.pipe.isEmpty && (s.cluster c).gang.isEmpty then
    let s := (s.modCore n fun k => { k with halted := true }).modCluster c fun k => { k with lastHalt := s.now }
    let s : State := { s with coreEvents := s.coreEvents ++ [(toCl c, Fin.ofNat 256 lc, false, false, true)] }
    match s.partOf c with
    | some p => s.layerEnds p
    | none => s
  else s

/-- R77. -/
def execCoreHalted (cl : Cl) (core : LCore) (s : State) : Outcome := .next (s.coreHalt cl.val core.val)

/-- The hold of a core ends in the first CCLK after its causes clear whose phase is that of its beginning (R84). -/
def State.holdEnds (s : State) (c lc : Nat) : State :=
  match (s.coreAt (s.lcore c lc)).hold with
  | none => s
  | some h =>
    if s.clocked c && s.holdOver c lc h then s.modCore (s.lcore c lc) fun k => { k with hold := none } else s

/-- R84. -/
def execHoldEnd (cl : Cl) (core : LCore) (s : State) : Outcome := .next (s.holdEnds cl.val core.val)

/-- A watchdog trips in a run, which ends with DEADLOCK at the end of this CCLK unless it ends FAULTED before (R86). -/
def State.deadlock (s : State) (c lc : Nat) (kind : HoldKind) : State :=
  (s.wdogTrip c lc kind).modRunAt c fun r => { r with deadlock := true }

/-- The 4,097th CCLK of a hold (R86), or of the wait of halted cores for link records (R316). Where a fault has ended the
run in this CCLK, the watchdog is recorded as well. -/
def State.trip (s : State) (c lc : Nat) : State :=
  let k := s.coreAt (s.lcore c lc)
  if k.wdog then s
  else match k.hold, k.late with
    | some h, _ => if s.clocked c && decide (4096 ≤ h.count) && !s.holdOver c lc h then s.deadlock c lc h.kind else s
    | none, some (t, kind) => if t = s.now then s.wdogTrip c lc kind else s
    | none, none =>
      match s.runAt c with
      | some (_, run) => match run.haltedAt with
        | some t => if t + 4096 ≤ s.now then s.deadlock c lc .queue else s
        | none => s
      | none => s

/-- R86. -/
def execWatchdogTrip (cl : Cl) (core : LCore) (s : State) : Outcome := .next (s.trip cl.val core.val)

end Sys2Proof.Machine
end

