-- ==== Sys2Proof/Machine/DmaOps.lean ====
section
/-!
DEFINITION. What a descriptor DMA transfer moves (spec/11_memory_and_dma.md R288 to R290) under the rights of its
partition (spec/08_partitions.md R210, R211), and its end before all of it has moved.
-/

namespace Sys2Proof.Machine

open Sys2Proof

/-- Whether spans meet a loaded image range (R176). -/
def PartState.inImage (q : PartState) (off n : Nat) : Bool :=
  q.plans.any fun x => decide (off < x.2.off + x.2.len) && decide (x.2.off < off + n)

/-- Writing bytes at a partition-relative offset within the partition's rights: the others are discarded (R176,
R211). -/
def dmaWrite (q : PartState) (off : Nat) (bs : Bytes) (m : Mem) : Mem :=
  match bs with
  | [] => m
  | b :: t => dmaWrite q (off + 1) t (match q.cfg.ea off with
      | some a => if q.inImage off 1 then m else mwrite a b m
      | none => m)

/-- Whether a transfer touches a byte outside the partition's rights (R210). -/
def DmaJob.violates (j : DmaJob) (q : PartState) : Bool :=
  ((j.kind == 1 || j.kind == 3) && (!q.cfg.holds j.dst j.length || q.inImage j.dst j.length)) ||
  ((j.kind == 2 || j.kind == 3) && !q.cfg.holds j.src j.length)

/-- Moving the first `n` bytes of a transfer; `source` is what the host's memory holds for kind 1. -/
def State.dmaMove (s : State) (h f : Nat) (j : DmaJob) (n : Nat) (source : Bytes) : State :=
  let q := s.part f
  if j.kind = 1 then { s with hbm := dmaWrite q j.dst (slice source 0 n) s.hbm }
  else if j.kind = 2 then s.hostWrite h j.dst (s.relRead q.cfg j.src n)
  else { s with hbm := dmaWrite q j.dst (s.relRead q.cfg j.src n) s.hbm }

/-- Bytes 0x38 to 0x3F of the descriptor in place, then done (R289). -/
def State.dmaDescriptor (s : State) (h f : Nat) (index : BitVec 16) (moved status : Nat) : State :=
  let d := (s.window h f).dma
  (s.hostWrite h (d.base.toNat + 64 * (index.toNat % 2 ^ d.sizeLog2.toNat) + 0x38)
    (toLe 4 moved ++ toLe 1 status ++ toLe 1 1 ++ zeros 2)).modWindow h f fun w =>
      { w with dma := { w.dma with done := w.dma.done + 1, job := none } }

/-- `n` free bytes (notes/assumptions/10.md). -/
def State.freeBytes (s : State) (n : Nat) : Bytes := (List.range n).map fun i => Config.freeByte (s.freeCount + i)

/-- A transfer stopped at a line boundary (R290): how many lines have moved, and what the host's memory held of them,
are free values. -/
def State.stopTransfer (s : State) (h f : Nat) (descriptor : Bool) : State :=
  match (s.window h f).dma.job with
  | none => s
  | some j =>
    let n := leNat (s.freeBytes 4) % (j.length / 64 + 1) * 64
    let s : State := { s with freeCount := s.freeCount + 4 }
    let t := (if j.violates (s.part f) then s.violate f 2 1 else s).dmaMove h f j n (s.freeBytes n)
    let t : State := { t with freeCount := t.freeCount + n }
    if descriptor then t.dmaDescriptor h f j.index n stAborted
    else t.modWindow h f fun w => { w with dma := { w.dma with job := none } }

end Sys2Proof.Machine
end

