-- ==== Sys2Proof/Machine/Mmio.lean ====
section
/-!
DEFINITION. Registers of a host die as the host reaches them by MMIO: access codes and split accesses
(spec/00_scope.md R10 to R12), the mailbox window and operator block (spec/09_mailboxes_and_commands.md R219 to R225,
R234), ring pairs (spec/10_serving_requests.md R253 to R259), the descriptor DMA queue (spec/11_memory_and_dma.md
R287), violations (spec/08_partitions.md R210 to R213) and the resets of a function and of a host die (R221, R402).
-/

namespace Sys2Proof.Machine

open Sys2Proof

/-! ## Reading (Tables 9.3, 9.5, 8.2, 10.1, 11.4) -/

/-- Whether a host die answers MMIO: supply, boot to step 4 (R435), and no PERST_N (R402). -/
def State.hostUp (s : State) (h : Nat) : Bool := (s.supply == .up || s.supply == .waitQuiet) && !s.perst.getLsbD h

/-- Modulo-65,536 difference of two counts. -/
def diff16 (a b : BitVec 16) : Nat := (a - b).toNat

/-- Bits [31:12] of a base register read and write as zero. -/
def baseMask : BitVec 64 := 0xFFFFFFFFFFFFF000#64

/-- The ring pair at an offset of the ring block, and the offset within it (R253). -/
def ringAt (off : Nat) : Option (Nat × Nat) :=
  if 0x3000 ≤ off ∧ off < 0x31C0 then some ((off - 0x3000) / 64, (off - 0x3000) % 64) else none

/-- A ring pair of a window. -/
def Window.ring (w : Window) (k : Nat) : Ring := sget {} w.rings k
/-- Changing a ring pair. -/
def Window.modRing (w : Window) (k : Nat) (f : Ring → Ring) : Window := { w with rings := smod {} k f w.rings }
/-- quiet of a ring pair (Table 10.1). -/
def Ring.quiet (r : Ring) : Bool := !r.enable && r.openReqs == 0
/-- quiet of a DMA queue (Table 11.4). -/
def DmaQueue.quiet (d : DmaQueue) : Bool := !d.enable && d.job.isNone

/-- Whether an 8-aligned offset holds a 64-bit register. -/
def isReg64 (f : Nat) (bar : Bar) (off : Nat) : Bool :=
  match bar with
  | .bar2 => off == 0
  | .bar0 =>
    off == 0 || off == 0x38 || off == 0x4800 ||
    (match ringAt off with | some (_, o) => o == 0 || o == 8 | none => false) ||
    (f == 0 && (decide (0x10000 ≤ off ∧ off < 0x10080) || decide (0x10100 ≤ off ∧ off < 0x10180) || off == 0x11000))

/-- HD_OP_STATUS (Table 9.5). -/
def State.opStatus (s : State) : Nat :=
  s.existMask * 65536 + bit s.authority 10 + bit s.standbyOk 9 + bit s.pfw 8 + bit s.therm 7 + s.stateCode * 16 +
    bit s.maintOpen 3 + bit (s.supply == .up && !s.authorityLost) 0

/-- A 64-bit register's value. -/
def State.reg64 (s : State) (h f : Nat) (bar : Bar) (off : Nat) : BitVec 64 :=
  let w := s.window h f
  match bar with
  | .bar2 => if off = 0 then w.dma.base else 0
  | .bar0 =>
    if off = 0 then
      BitVec.ofNat 64 (s.firmware.gmpMinor.toNat * 4294967296 + s.firmware.gmpMajor.toNat * 16777216 + h * 65536 +
        bit (f == 0) 4 + f)
    else if off = 0x38 then s.et
    else if off = 0x4800 then BitVec.ofNat 64 ((List.range 8).foldl (fun a v => a + bit (sget {} w.vectors v).pending v) 0)
    else match ringAt off with
      | some (k, 0) => (w.ring k).sqBase
      | some (k, 8) => (w.ring k).cqBase
      | some _ => 0
      | none =>
        if f ≠ 0 then 0
        else if 0x10000 ≤ off ∧ off < 0x10080 then sget 0#64 s.violCounts ((off - 0x10000) / 8)
        else if 0x10100 ≤ off ∧ off < 0x10180 then (sget 0#32 s.ambig (16 * h + (off - 0x10100) / 8)).setWidth 64
        else if off = 0x11000 then BitVec.ofNat 64 s.opStatus
        else 0

/-- A byte of the MSI-X table: PCI Express resets the mask bit of each vector control to 1. -/
def Window.msixByte (w : Window) (b : Nat) : Byte :=
  sget 0#8 w.msixXor b ^^^ (if b % 16 = 12 then 1#8 else 0#8)

/-- A 32-bit register's value; RZ space, and a register that is write only, reads zero. -/
def State.reg32 (s : State) (h f : Nat) (bar : Bar) (off : Nat) : BitVec 32 :=
  let w := s.window h f
  let n : Nat :=
    match bar with
    | .bar2 =>
      let d := w.dma
      if off = 0x08 then bit d.enable 31 + d.sizeLog2.toNat
      else if off = 0x0C then bit d.quiet 2 + bit d.cfgErr 1 + bit d.ptrErr 0
      else if off = 0x10 then d.tail.toNat
      else if off = 0x14 then d.head.toNat
      else if off = 0x18 then d.done.toNat
      else 0
    | .bar0 =>
      if off = 0x08 then bit w.dbErr 7 + s.stateCode * 16 + bit s.maintOpen 3 + bit w.fwReady 0
      else if off = 0x18 then w.busy.toNat
      else if off = 0x20 then w.outTail.toNat
      else if off = 0x28 then w.outAck.toNat
      else if off = 0x30 then (w.majorXor ^^^ 1#8).toNat * 256 + w.minor.toNat
      else if 0x1000 ≤ off ∧ off < 0x2000 then leNat ((List.range 4).map fun i => sget 0#8 w.inSlots (off - 0x1000 + i))
      else if 0x2000 ≤ off ∧ off < 0x3000 then leNat ((List.range 4).map fun i => sget 0#8 w.outSlots (off - 0x2000 + i))
      else if 0x4000 ≤ off ∧ off < 0x4080 then leNat ((List.range 4).map fun i => w.msixByte (off - 0x4000 + i))
      else if f = 0 ∧ off = 0x11008 then s.opFaulted.toNat
      else match ringAt off with
        | some (k, o) =>
          let r := w.ring k
          if o = 0x10 then bit r.enable 31 + r.cqLog2.toNat * 256 + r.sqLog2.toNat * 16 + bit r.irqEn 0
          else if o = 0x14 then bit r.quiet 2 + bit r.cfgErr 1 + bit r.ptrErr 0
          else if o = 0x18 then r.sqTail.toNat
          else if o = 0x1C then r.sqHead.toNat
          else if o = 0x20 then r.cqTail.toNat
          else if o = 0x24 then r.cqHead.toNat
          else 0
        | none => 0
  BitVec.ofNat 32 n

/-! ## Registers with a rule of their own -/

/-- HD_MB_DOORBELL (R220, R223): each rung slot is leased from now to the clearing of its bit (Table 15.2). -/
def State.doorbell (s : State) (h f : Nat) (v : BitVec 32) : State :=
  let w := s.window h f
  if w.fwReady then
    let new := v &&& ~~~w.busy
    let s := s.modWindow h f fun w =>
      { w with busy := w.busy ||| v, dbErr := w.dbErr || (v &&& w.busy) != 0#32
               rung := w.rung ++ (List.range 32).filter new.getLsbD }
    s.each ((List.range 32).filter new.getLsbD) fun t i =>
      t.grant 4 (512 * h + 32 * f + i) (ownerTag f (0xF00 + 4 * h))
  else s

/-- HD_MB_OUT_ACK (R225, R234). -/
def State.outAckWrite (s : State) (h f : Nat) (v : BitVec 16) : State :=
  s.modWindow h f fun w =>
    if 32 < diff16 w.outTail v then { w with dbErr := true }
    else ({ w with outAck := v } : Window).ackVector 0 (w.outTail != v)

/-- HD_RING_CFG (R253, R254, R256). -/
def Ring.writeCfg (r : Ring) (v : BitVec 32) : Ring :=
  let en := v.getLsbD 31
  let sq := v.extractLsb' 4 4
  let cq := v.extractLsb' 8 4
  let r := { r with irqEn := v.getLsbD 0 }
  if r.enable then { r with enable := en }
  else
    let r := { r with sqLog2 := sq, cqLog2 := cq }
    if en then
      if 4 ≤ sq.toNat ∧ sq.toNat ≤ 12 ∧ 4 ≤ cq.toNat ∧ cq.toNat ≤ 12 ∧ sq.toNat ≤ cq.toNat then
        { r with enable := true, sqTail := 0, sqHead := 0, cqTail := 0, cqHead := 0 }
      else { r with cfgErr := true }
    else r

/-- HD_SQ_TAIL (R254). -/
def Ring.writeTail (r : Ring) (v : BitVec 16) : Ring :=
  if 2 ^ r.sqLog2.toNat < diff16 v r.sqHead then { r with ptrErr := true } else { r with sqTail := v }

/-- Starting the exit of a parked or parking partition (R337): a cluster still entering completes its entry first. Outside E0
the clusters stay where the brace or E2 has put them until E0 is reached again (Table 13.2). -/
def State.unpark (s : State) (p : Nat) : State :=
  let q := s.part p
  if q.park = .parked ∨ q.park = .parking then
    let s := s.modPart p fun q => { q with park := .unparking }
    let s := if s.inE0 then s.place p else s
    if q.bound.isNone || q.cfg.clusters.all (fun c => let k := s.cluster c; k.retired || (k.trans.isNone && decide (k.power.depth ≤ 1)))
    then s.modPart p fun q => { q with park := .serving } else s
  else s

/-- HD_SQ_TAIL of a window: a write to an enabled ring ends a park (R337). -/
def State.sqTailWrite (s : State) (h f k : Nat) (v : BitVec 16) : State :=
  let en := ((s.window h f).ring k).enable
  let s := s.modWindow h f fun w => w.modRing k (·.writeTail v)
  if en then s.unpark f else s

/-- HD_CQ_HEAD (R254, R259): a write that would pass the tail is ignored. -/
def Window.writeCqHead (w : Window) (k : Nat) (v : BitVec 16) : Window :=
  let r := w.ring k
  if diff16 r.cqTail r.cqHead < diff16 r.cqTail v then w.modRing k fun r => { r with ptrErr := true }
  else (w.modRing k fun r => { r with cqHead := v }).ackVector (k + 1) (r.irqEn && r.cqTail != v)

/-- HD_DMA_CFG (R287). -/
def DmaQueue.writeCfg (d : DmaQueue) (v : BitVec 32) : DmaQueue :=
  let en := v.getLsbD 31
  let sz := v.extractLsb' 0 4
  if d.enable then { d with enable := en }
  else
    let d := { d with sizeLog2 := sz }
    if en then
      if 4 ≤ sz.toNat ∧ sz.toNat ≤ 10 then { d with enable := true, tail := 0, head := 0, done := 0 }
      else { d with cfgErr := true }
    else d

/-- HD_DMA_TAIL (R287). -/
def DmaQueue.writeTail (d : DmaQueue) (v : BitVec 16) : DmaQueue :=
  if 2 ^ d.sizeLog2.toNat < diff16 v d.head then { d with ptrErr := true } else { d with tail := v }

/-- HD_VIOL_CLEAR (R213): every copy at once. -/
def State.violClear (s : State) (v : BitVec 32) : State :=
  s.each ((List.range 16).filter v.getLsbD) fun t n => { t with violCounts := sdel n t.violCounts }

/-- HD_CLASS_AMBIG_CLEAR of one host die (R262). -/
def State.ambigClear (s : State) (h : Nat) (v : BitVec 32) : State :=
  s.each ((List.range 16).filter v.getLsbD) fun t n => { t with ambig := sdel (16 * h + n) t.ambig }

/-- A byte of the MSI-X table: address and data as written, the mask bit, and zero in the reserved bits. Unmasking a
vector that is pending sends it (R234). -/
def Window.writeMsix (w : Window) (b : Nat) (v : Byte) : Window :=
  let v := if b % 16 = 12 then v &&& 1#8 else if 12 < b % 16 then 0#8 else v
  let w := { w with msixXor := sput 0#8 b (v ^^^ (if b % 16 = 12 then 1#8 else 0#8)) w.msixXor }
  let x := sget {} w.vectors (b / 16)
  if b % 16 = 12 ∧ v = 0#8 ∧ x.pending then
    { w with vectors := sput {} (b / 16) { x with pending := false, sent := x.sent + 1 } w.vectors }
  else w

/-! ## Writing (R10, R12) -/

/-- Writing a 32-bit register under its access code. -/
def State.write32 (s : State) (h f : Nat) (bar : Bar) (off : Nat) (v : BitVec 32) : State :=
  let lo := v.setWidth 16
  match bar with
  | .bar2 => s.modWindow h f fun w =>
      if off = 0x08 then { w with dma := w.dma.writeCfg v }
      else if off = 0x0C then
        { w with dma := { w.dma with cfgErr := w.dma.cfgErr && !v.getLsbD 1, ptrErr := w.dma.ptrErr && !v.getLsbD 0 } }
      else if off = 0x10 then { w with dma := w.dma.writeTail lo }
      else w
  | .bar0 =>
    if off = 0x08 then s.modWindow h f fun w => { w with dbErr := w.dbErr && !v.getLsbD 7 }
    else if off = 0x10 then s.doorbell h f v
    else if off = 0x28 then s.outAckWrite h f lo
    else if off = 0x30 then s.modWindow h f fun w =>
      { w with majorXor := v.extractLsb' 8 8 ^^^ 1#8, minor := v.extractLsb' 0 8 }
    else if 0x1000 ≤ off ∧ off < 0x2000 then s.modWindow h f fun w =>
      { w with inSlots := mwrites (off - 0x1000) (leBytes 4 v) w.inSlots }
    else if 0x4000 ≤ off ∧ off < 0x4080 then s.modWindow h f fun w =>
      (List.range 4).foldl (fun w i => w.writeMsix (off - 0x4000 + i) (BitVec.ofNat 8 (v.toNat / 256 ^ i))) w
    else if f = 0 ∧ off = 0x10080 then s.violClear v
    else if f = 0 ∧ off = 0x10180 then s.ambigClear h v
    else if f = 0 ∧ off = 0x11008 then { s with opFaulted := s.opFaulted &&& ~~~lo }
    else match ringAt off with
      | some (k, o) =>
        if o = 0x10 then s.modWindow h f fun w => w.modRing k (·.writeCfg v)
        else if o = 0x14 then s.modWindow h f fun w => w.modRing k fun r =>
          { r with cfgErr := r.cfgErr && !v.getLsbD 1, ptrErr := r.ptrErr && !v.getLsbD 0 }
        else if o = 0x18 then s.sqTailWrite h f k lo
        else if o = 0x24 then s.modWindow h f fun w => w.writeCqHead k lo
        else s
      | none => s

/-- Writing a whole 64-bit register under its access code. -/
def State.write64 (s : State) (h f : Nat) (bar : Bar) (off : Nat) (v : BitVec 64) : State :=
  match bar with
  | .bar2 => s.modWindow h f fun w =>
      if off = 0 ∧ !w.dma.enable then { w with dma := { w.dma with base := v &&& baseMask } } else w
  | .bar0 =>
    match ringAt off with
    | some (k, 0) => s.modWindow h f fun w => w.modRing k fun r => if r.enable then r else { r with sqBase := v &&& baseMask }
    | some (k, 8) => s.modWindow h f fun w => w.modRing k fun r => if r.enable then r else { r with cqBase := v &&& baseMask }
    | _ => s

/-- Where a held half is kept. -/
def heldKey (bar : Bar) (off : Nat) : Nat := (match bar with | .bar0 => 0 | .bar2 => 16777216) + off

/-- No half of a register is held any longer. -/
def Window.unhold (w : Window) (key : Nat) : Window :=
  { w with readHeld := sdel key w.readHeld, writeHeld := sdel key w.writeHeld }

/-- A 32-bit write to the lower half of a 64-bit register: held aside (R12). -/
def State.splitLower (s : State) (h f : Nat) (bar : Bar) (off : Nat) (v : BitVec 32) : State :=
  s.modWindow h f fun w =>
    { w.unhold (heldKey bar off) with writeHeld := sput 0 (heldKey bar off) (v.toNat + 1) w.writeHeld }

/-- A 32-bit write to the upper half: both halves at once, or the upper alone (R12). -/
def State.splitUpper (s : State) (h f : Nat) (bar : Bar) (off : Nat) (v : BitVec 32) : State :=
  let base := off - 4
  let held := sget 0 (s.window h f).writeHeld (heldKey bar base)
  let low : BitVec 32 := if held = 0 then (s.reg64 h f bar base).setWidth 32 else BitVec.ofNat 32 (held - 1)
  (s.modWindow h f fun w => w.unhold (heldKey bar base)).write64 h f bar base (v ++ low)

/-- An honoured write of 32 bits. -/
def State.mmioWrite32 (s : State) (h f : Nat) (bar : Bar) (off : Nat) (v : BitVec 32) : State :=
  if isReg64 f bar (off / 8 * 8) then
    if off % 8 = 0 then s.splitLower h f bar off v else s.splitUpper h f bar off v
  else s.write32 h f bar off v

/-- An honoured write: 64 bits whole to a 64-bit register, else as its halves, the lower first. -/
def State.mmioWrite (s : State) (h f : Nat) (bar : Bar) (off : Nat) (wide : Bool) (v : BitVec 64) : State :=
  if wide then
    if isReg64 f bar off then (s.modWindow h f fun w => w.unhold (heldKey bar off)).write64 h f bar off v
    else (s.write32 h f bar off (v.setWidth 32)).write32 h f bar (off + 4) (v.extractLsb' 32 32)
  else s.mmioWrite32 h f bar off (v.setWidth 32)

/-- Naturally aligned (R10). -/
def aligned (off : Nat) (wide : Bool) : Bool := if wide then off % 8 == 0 else off % 4 == 0

/-- An MMIO access reaches the window of a function or, on a closed window, is a violation of kind 1 (R210, R211). -/
def State.mmio (s : State) (h f : Nat) (act : State → State) : State :=
  if s.hostUp h then if s.isOpen h f then act s else s.violate f 1 1 else s

/-! ## Resets of a function and of a host die (R221, R256, R402) -/

/-- Completions that go unwritten still count and free their places (R256). -/
def State.dropCompl (s : State) (l : List Compl) : State := s.each l State.discarded

/-- A function's window and BAR2 reset: registers at their reset values, unwritten slots, messages and records
discarded. Long commands and requests go on, their messages and records discarded. -/
def State.resetWindow (s : State) (h f : Nat) : State :=
  let s := s.stopTransfer h f false
  let old := s.window h f
  let s := s.each ((List.range 32).filter old.busy.getLsbD) fun t i => t.release 4 (512 * h + 32 * f + i)
  let s := s.dropCompl old.compl
  let s : State := { s with longs := s.longs.map fun c => if c.die.val = h ∧ c.fn.val = f then { c with discard := true } else c }
  let s : State := { s with parts := smapAll {} (fun _ q => { q with queue := q.queue.map fun r =>
      if r.die.val = h ∧ r.fn.val = f then { r with discard := true } else r }) s.parts }
  { s with windows := sput {} (16 * h + f) { majorXor := s.firmware.gmpMajor ^^^ 1#8 } s.windows }

/-! ## Meanings -/

/-- R10: a write to a host-visible register. -/
def execRegisterWrite (die : Die) (fn : Fn) (bar : Bar) (off : BitVec 24) (wide : Bool) (val : BitVec 64) (s : State) :
    Outcome :=
  .next (if aligned off.toNat wide then
    s.mmio die.val fn.val fun t => t.mmioWrite die.val fn.val bar off.toNat wide val else s)

/-- R12: the lower half of a 64-bit register. -/
def execSplitWriteLower (die : Die) (fn : Fn) (bar : Bar) (off : BitVec 24) (val : BitVec 32) (s : State) : Outcome :=
  .next (if off.toNat % 8 = 0 then
    s.mmio die.val fn.val fun t =>
      if isReg64 fn.val bar off.toNat then t.splitLower die.val fn.val bar off.toNat val else t
    else s)

/-- R12: the upper half of a 64-bit register. -/
def execSplitWriteUpper (die : Die) (fn : Fn) (bar : Bar) (off : BitVec 24) (val : BitVec 32) (s : State) : Outcome :=
  .next (if off.toNat % 8 = 4 then
    s.mmio die.val fn.val fun t =>
      if isReg64 fn.val bar (off.toNat - 4) then t.splitUpper die.val fn.val bar off.toNat val else t
    else s)

/-- What a closed window answers: zero (R211). -/
def State.readZero (s : State) : State := { s with mmioData := some 0 }

/-- A 32-bit read of an open window: the lower half of a 64-bit register holds the upper half, and a read of the upper half
then answers what is held (R12); a register of 32 bits answers its value. -/
def State.read32 (s : State) (h f : Nat) (bar : Bar) (o : Nat) : State :=
  if isReg64 f bar (o / 8 * 8) then
    let key := heldKey bar (o / 8 * 8)
    let v := s.reg64 h f bar (o / 8 * 8)
    if o % 8 = 0 then
      { s.modWindow h f (fun w => { w with readHeld := sput 0 key (v.toNat / 4294967296 + 1) w.readHeld }) with
        mmioData := some ((v.setWidth 32).setWidth 64) }
    else
      let held := sget 0 (s.window h f).readHeld key
      { s.modWindow h f (fun w => { w with readHeld := sdel key w.readHeld }) with
        mmioData := some (BitVec.ofNat 64 (if held = 0 then v.toNat / 4294967296 else held - 1)) }
  else { s with mmioData := some ((s.reg32 h f bar o).setWidth 64) }

/-- A 64-bit read of an open window: a 64-bit register whole, which ends what R12 holds of it, else both registers of 32
bits (R10). -/
def State.read64 (s : State) (h f : Nat) (bar : Bar) (o : Nat) : State :=
  if isReg64 f bar o then
    { s.modWindow h f (fun w => { w with readHeld := sdel (heldKey bar o) w.readHeld }) with mmioData := some (s.reg64 h f bar o) }
  else { s with mmioData := some (s.reg32 h f bar (o + 4) ++ s.reg32 h f bar o) }

/-- R10, R12: a read of 32 or, wide, of 64 bits. -/
def execSplitReadLower (die : Die) (fn : Fn) (bar : Bar) (acc : Access) (s : State) : Outcome :=
  let h := die.val
  let f := fn.val
  .next (if !aligned acc.off.toNat acc.wide || !s.hostUp h then s
    else if !s.isOpen h f then (s.violate f 1 1).readZero
    else if acc.wide then s.read64 h f bar acc.off.toNat
    else s.read32 h f bar acc.off.toNat)

/-- R11: neither counted nor reported. -/
def execUnhonouredMmioAccess (die : Die) (_fn : Fn) (_bar : Bar) (off : BitVec 24) (bits : Nat)
    (write : Option (BitVec 64)) (s : State) : Outcome :=
  .next (if s.hostUp die.val && write.isNone && !((bits == 32 && off.toNat % 4 == 0) || (bits == 64 && off.toNat % 8 == 0))
    then s.readZero else s)

/-- R211: an MMIO access to a closed window; one that is not honoured is none (R11). -/
def execMmioViolation (die : Die) (fn : Fn) (_bar : Bar) (acc : Access) (write : Option (BitVec 64)) (s : State) : Outcome :=
  .next (if s.hostUp die.val && aligned acc.off.toNat acc.wide && !s.isOpen die.val fn.val then
    (if write.isNone then (s.violate fn.val 1 1).readZero else s.violate fn.val 1 1) else s)

/-- R223. -/
def execHdMbDoorbell (die : Die) (fn : Fn) (val : BitVec 32) (s : State) : Outcome :=
  .next (s.mmio die.val fn.val fun t => t.doorbell die.val fn.val val)

/-- R225. -/
def execHdMbOutAck (die : Die) (fn : Fn) (val : BitVec 32) (s : State) : Outcome :=
  .next (s.mmio die.val fn.val fun t => t.outAckWrite die.val fn.val (val.setWidth 16))

/-- An outbound slot (Table 9.6). -/
def Msg.slot (m : Msg) : Bytes :=
  leBytes 2 m.seq ++ leBytes 1 m.command ++ toLe 1 (bit m.final 0 + bit m.event 1) ++ toLe 1 m.payload.length ++
  leBytes 1 m.status ++ zeros 2 ++ padTo 120 m.payload

/-- The next message into the ring (R225): the whole slot, then the tail, then vector 0. -/
def Window.writeOut (w : Window) (m : Msg) (rest : List Msg) : Window :=
  ({ w with outSlots := mwrites (w.outTail.toNat % 32 * 128) m.slot w.outSlots
            outTail := w.outTail + 1, outQ := rest } : Window).signal 0

/-- R225. -/
def execOutboundMessageWrite (die : Die) (fn : Fn) (s : State) : Outcome :=
  let w := s.window die.val fn.val
  .next (match w.outQ with
    | m :: r =>
      if s.hostUp die.val && s.isOpen die.val fn.val && w.fwReady && decide (diff16 w.outTail w.outAck < 32) then
        s.modWindow die.val fn.val fun w => w.writeOut m r
      else s
    | [] => s)

/-- R213. -/
def execHdViolClear (die : Die) (val : BitVec 32) (s : State) : Outcome :=
  .next (if s.hostUp die.val then s.violClear val else s)

/-- R262. -/
def execHdClassAmbigClear (die : Die) (val : BitVec 32) (s : State) : Outcome :=
  .next (if s.hostUp die.val then s.ambigClear die.val val else s)

/-- R221. -/
def execFunctionLevelReset (die : Die) (fn : Fn) (s : State) : Outcome :=
  .next (if s.hostUp die.val then s.resetWindow die.val fn.val else s)

/-- R402: PERST_N goes low or, not asserted, high again; a hot reset is one of each. The endpoint and every window of the die
are reset, and answer nothing while the signal is low. -/
def execPerstN (pin : PerstPin) (s : State) : Outcome :=
  let h := pin.die.val
  let b := BitVec.ofNat 4 (2 ^ h)
  let t : State := { s with perst := if pin.asserted then s.perst ||| b else s.perst &&& ~~~b }
  .next (if s.hostUp h then t.each (List.range 16) fun t f => t.resetWindow h f else t)

/-- R254: the write carries enable set. -/
def execRingEnable (die : Die) (fn : Fn) (ring : Fin 7) (val : BitVec 32) (s : State) : Outcome :=
  .next (s.mmio die.val fn.val fun t => t.modWindow die.val fn.val fun w =>
    w.modRing ring.val (·.writeCfg (val ||| 0x80000000#32)))

/-- R256: the write carries enable clear. -/
def execRingDisable (die : Die) (fn : Fn) (ring : Fin 7) (val : BitVec 32) (s : State) : Outcome :=
  .next (s.mmio die.val fn.val fun t => t.modWindow die.val fn.val fun w =>
    w.modRing ring.val (·.writeCfg (val &&& 0x7FFFFFFF#32)))

/-- R254, R337. -/
def execHdSqTail (die : Die) (fn : Fn) (ring : Fin 7) (val : BitVec 32) (s : State) : Outcome :=
  .next (s.mmio die.val fn.val fun t => t.sqTailWrite die.val fn.val ring.val (val.setWidth 16))

/-- R254, R259. -/
def execHdCqHead (die : Die) (fn : Fn) (ring : Fin 7) (val : BitVec 32) (s : State) : Outcome :=
  .next (s.mmio die.val fn.val fun t => t.modWindow die.val fn.val fun w => w.writeCqHead ring.val (val.setWidth 16))

/-- R287: the write carries enable set. -/
def execDmaQueueEnable (die : Die) (fn : Fn) (val : BitVec 32) (s : State) : Outcome :=
  .next (s.mmio die.val fn.val fun t => t.modWindow die.val fn.val fun w =>
    { w with dma := w.dma.writeCfg (val ||| 0x80000000#32) })

/-- R287: the write carries enable clear. -/
def execDmaQueueDisable (die : Die) (fn : Fn) (val : BitVec 32) (s : State) : Outcome :=
  .next (s.mmio die.val fn.val fun t => t.modWindow die.val fn.val fun w =>
    { w with dma := w.dma.writeCfg (val &&& 0x7FFFFFFF#32) })

/-- R287. -/
def execHdDmaTail (die : Die) (fn : Fn) (val : BitVec 32) (s : State) : Outcome :=
  .next (s.mmio die.val fn.val fun t => t.modWindow die.val fn.val fun w =>
    { w with dma := w.dma.writeTail (val.setWidth 16) })

/-- R221: the firmware serves the window. -/
def execFwReady (die : Die) (fn : Fn) (s : State) : Outcome :=
  .next (if s.supply == .up && s.hostUp die.val && s.isOpen die.val fn.val then
    s.modWindow die.val fn.val fun w => { w with fwReady := true } else s)

end Sys2Proof.Machine
end

