-- ==== Sys2Proof/Machine/Gmp.lean ====
section
/-!
DEFINITION. The Ghedric Mailbox Protocol's common path (spec/09_mailboxes_and_commands.md R223, R224, R227 to R232,
R235, R239, R241): the engine takes a busy slot, reads it once, makes the checks every command shares and runs the
command's own rule.
-/

namespace Sys2Proof.Machine

open Sys2Proof

/-- A command as read from its slot (Table 9.6). -/
structure Cmd where
  die : Nat
  fn : Nat
  slot : Nat
  seq : BitVec 16
  code : Nat
  len : Nat
  payload : Bytes
  deriving DecidableEq, Repr

/-- A field of the payload. -/
def Cmd.at (c : Cmd) (off n : Nat) : Nat := field c.payload off n
/-- The partition named in payload byte 0x00 (R229). -/
def Cmd.named (c : Cmd) : Nat := c.at 0 1

/-- The bytes of an inbound slot. -/
def Window.inSlot (w : Window) (i : Nat) : Bytes := mreads w.inSlots (128 * i) 128

/-- The command in a slot. -/
def State.readCmd (s : State) (h f i : Nat) : Cmd :=
  let b := (s.window h f).inSlot i
  { die := h, fn := f, slot := i, seq := BitVec.ofNat 16 (field b 0 2), code := field b 2 1, len := field b 4 1
    payload := slice b 8 120 }

/-- The codes of Table 9.9. -/
def gmpCodes : List Nat :=
  [0x01, 0x02, 0x03, 0x04, 0x10, 0x11, 0x12, 0x13, 0x20, 0x21, 0x22, 0x23, 0x30, 0x31, 0x40, 0x41, 0x42, 0x50, 0x51,
   0x60, 0x61, 0x70, 0x71, 0x80, 0x81, 0x82, 0x90, 0x91, 0xA0]

/-- Whether Table 9.7 lets a command be served in the present engine state. -/
def State.serves (s : State) (code : Nat) : Bool :=
  let e1 := [0x01, 0x02, 0x12, 0x31, 0x70, 0x80].contains code
  match s.estate with
  | .e0 => true
  | .e1 => e1
  | .e2 => e1 || [0x03, 0x04, 0xA0, 0x90].contains code
  | .resuming => e1 || code == 0x03
  | .booting => e1

/-- What the shared checks need to know of a command: its code, its request payload's length, whether this row of the
command table is the one that the command's selecting byte picks, whether it is P0's alone, names a partition, is
long, or changes engine or partition state (R395). -/
structure CmdRow where
  code : Nat
  need : Cmd → Nat := fun _ => 0
  mine : Cmd → Bool := fun _ => true
  p0 : Bool := false
  named : Bool := false
  long : Bool := false
  changes : Bool := true

/-- The slot is taken: its busy bit clears and its lease ends (R224). -/
def State.take (s : State) (c : Cmd) : State :=
  (s.modWindow c.die c.fn fun w =>
    { w with busy := w.busy &&& ~~~BitVec.ofNat 32 (2 ^ c.slot), rung := w.rung.drop 1 }).release 4
      (512 * c.die + 32 * c.fn + c.slot)

/-- The one message of a synchronous or refused command. -/
def State.answer (s : State) (c : Cmd) (status : Nat) (payload : Bytes := []) : State :=
  s.reply c.die c.fn c.seq (BitVec.ofNat 8 c.code) true status payload

/-- The first message of a long command, which stays open until its final one (R230). -/
def State.accept (s : State) (c : Cmd) (part : Nat) (status : Nat := stAccepted) (payload : Bytes := []) : State :=
  let l : LongCmd :=
    { die := Fin.ofNat 4 c.die, fn := Fin.ofNat 16 c.fn, seq := c.seq, code := BitVec.ofNat 8 c.code
      sender := Fin.ofNat 16 c.fn, part := Fin.ofNat 16 part, payload := c.payload }
  let s := s.reply c.die c.fn c.seq (BitVec.ofNat 8 c.code) false status payload
  { s with longs := s.longs ++ [l] }

/-- A long command that answers ACCEPTED and whose work, within its bound, leaves one final message (R230). -/
def State.acceptDone (s : State) (c : Cmd) (status : Nat) (payload : Bytes := []) : State :=
  (s.reply c.die c.fn c.seq (BitVec.ofNat 8 c.code) false stAccepted).answer c status payload

/-- The first shared check that a command fails, as its status (R228, R229, R232, R235, R239, R395). -/
def State.refusal (s : State) (row : CmdRow) (c : Cmd) : Option Nat :=
  let w := s.window c.die c.fn
  if row.code ≠ 0x01 ∧ (w.majorXor ^^^ 1#8) ≠ s.firmware.gmpMajor then some stBadArg
  else if 120 < c.len ∨ c.len < row.need c ∨ c.seq = 0xFFFF#16 ∨ (s.long? c.die c.fn c.seq).isSome then some stBadArg
  else if row.p0 ∧ c.fn ≠ 0 then some stDenied
  else if row.named ∧ c.fn ≠ 0 ∧ c.named ≠ c.fn then some stDenied
  else if row.named ∧ !s.exists c.named then some stBadArg
  else if !s.serves row.code then some stNotReady
  else if row.changes ∧ s.authorityLost then some stNotReady
  else if row.long ∧ 8 ≤ (s.longs.filter fun l => l.sender.val == c.fn).length then some stBusy
  else none

/-- Whether the slot at the front of the window's order is this one and the firmware serves the window. -/
def State.canTake (s : State) (h f i : Nat) : Bool :=
  let w := s.window h f
  s.supply == .up && s.isOpen h f && w.fwReady && w.rung.head? == some i

/-- Taking a command of a row: refused by a shared check, or run by its own rule. -/
def State.serve (s : State) (h f i : Nat) (row : CmdRow) (act : State → Cmd → State) : State :=
  let c := s.readCmd h f i
  if s.canTake h f i && c.code == row.code && row.mine c then
    match s.refusal row c with
    | some st => (s.take c).answer c st
    | none => act (s.take c) c
  else s

/-- Whether the selecting byte of a command picks an operation, is out of range (any of the command's rows then
answers BAD_ARG) or is not reached. -/
def picks (off op last : Nat) (c : Cmd) : Bool := c.len ≤ off || c.at off 1 == op || decide (last < c.at off 1)

/-- R228: a code that Table 9.9 does not list. -/
def execCommandReservedCode (die : Die) (fn : Fn) (slot : Fin 32) (s : State) : Outcome :=
  let c := s.readCmd die.val fn.val slot.val
  .next (if s.canTake die.val fn.val slot.val && !gmpCodes.contains c.code then (s.take c).answer c stBadArg else s)

end Sys2Proof.Machine
end

