-- ==== Sys2Proof/Machine/Aborts.lean ====
section
/-!
DEFINITION. What a long command that ends ABORTED leaves behind (spec/09_mailboxes_and_commands.md R240,
spec/08_partitions.md R216, spec/15_faults_and_selftest.md R395, R396), and the restoring of cores from a snapshot, which
such a command may have done in part (spec/07_plans_and_scan.md R196).
-/

namespace Sys2Proof.Machine

open Sys2Proof

/-! ## Restoring from a snapshot (R196) -/

/-- The words of slot `i` in a record. -/
def recordSlot (b : Bytes) (i : Nat) : List (BitVec 64) :=
  (List.range 512).map fun w => BitVec.ofNat 64 (field b (4096 * i + 8 * w) 8)

/-- What a slot of a record may be: empty, an image of the target cluster's store, or the halt image. -/
def Cluster.knownSlot (k : Cluster) (l : List (BitVec 64)) : Option Slot :=
  let m := wordMap 0 l
  if m = [] then some {}
  else match k.store.find? fun x => x.2.slot.words = m with
    | some x => some x.2.slot
    | none => if m = haltSlot.words then some haltSlot else none

/-- Every slot of a record is known and every queue count is zero: four of 5 bits and four of 6 bits (Table 7.5). -/
def Cluster.recordOk (k : Cluster) (b : Bytes) : Bool :=
  field b 0x876C 4 % 1048576 == 0 && field b 0x8770 4 % 16777216 == 0 &&
    (List.range 4).all fun i => (k.knownSlot (recordSlot b i)).isSome

/-- A map of `n` elements of `size` bytes. -/
def elementMap {w : Nat} (b : Bytes) (o size n : Nat) : SMap (BitVec w) :=
  ((List.range n).map fun i => (i, BitVec.ofNat w (field b (o + size * i) size))).filter fun x => x.2 != 0#w

/-- A core restored from its record. -/
def Core.restore (k : Core) (b : Bytes) (slots : List Slot) : Core :=
  let regs := (List.range 80).foldl (fun (x : Core) i => x.setReg i (BitVec.ofNat 40 (field b (0x87C0 + 8 * i) 8))) k
  { regs with
      slots := slots.zipIdx.foldl (fun m x => sput {} x.2 x.1 m) k.slots
      active_w := elementMap b 0x5200 2 1024, shadow_w := elementMap b 0x5A00 2 1024, acc := elementMap b 0x6200 4 2048
      scale := elementMap b 0x8200 8 32, vreg := elementMap b 0x8300 4 256, sreg := elementMap b 0x8700 4 16
      pc := field b 0x8740 2 % 512, k := elementMap b 0x8748 4 8
      wfill := field b 0x8768 1 % 32, sfill := field b 0x8769 1 % 32, vec := {}, sca := {} }

/-- A cluster is bypassed by a scan (R191). -/
def Cluster.bypassed (k : Cluster) : Bool := k.scanBypass || k.retired || decide (2 ≤ k.power.depth) || k.noTarget

/-- Bytes of a cluster block. -/
def blockSize : Nat := 10485824
/-- The length of a partition's snapshot (R193). -/
def PartRec.snapSize (r : PartRec) : Nat := 64 + r.w * r.h * blockSize
/-- plan_id of the bound plan. With no plan bound it is zero, which R196 then compares like any other (DESIGN CHOICE,
notes/assumptions/112.md). -/
def PartState.planId (q : PartState) : BitVec 64 := match q.boundPlan with | some l => l.plan.planId | none => 0

/-- The snapshot in the caller's granules. From a source range that is too short, or that leaves the granules, nothing is
read, so that the checks of R196 fail (DESIGN CHOICE, notes/assumptions/110.md). -/
def State.snapBytes (s : State) (l : LongCmd) : Bytes :=
  let r := (s.part l.sender.val).cfg
  let n := (s.part l.part.val).cfg.snapSize
  if r.holds (field l.payload 8 8) n && decide (n ≤ field l.payload 16 8) then s.relRead r (field l.payload 8 8) n else []

/-- The record of core `lc` of block `i`. -/
def snapRecord (b : Bytes) (i lc : Nat) : Bytes := slice b (64 + blockSize * i + 64 + 40960 * lc) 40960
/-- Block `i` is marked absent. -/
def snapAbsent (b : Bytes) (i : Nat) : Bool := field b (64 + blockSize * i + 2) 1 % 2 == 1

/-- The checks of R196, of every record, in an absent block too. -/
def State.snapOk (s : State) (p : Nat) (b : Bytes) : Bool :=
  let q := s.part p
  field b 0 4 == 0x50534E4B && field b 4 2 == 1 && field b 0x20 4 == 40960 && field b 0x1C 2 == q.cfg.w && field b 0x1E 2 == q.cfg.h &&
    field b 8 8 == q.planId.toNat &&
    q.cfg.clusters.zipIdx.all fun (c, i) => (List.range 256).all fun lc => (s.cluster c).recordOk (snapRecord b i lc)

/-- Restoring a cluster from its block. A cluster that is bypassed now cannot be scanned (R191): it is skipped, like one whose
block is absent (DESIGN CHOICE, notes/assumptions/111.md). -/
def State.restoreCluster (s : State) (b : Bytes) (c i : Nat) : State :=
  if snapAbsent b i || (s.cluster c).bypassed then s
  else s.each (List.range 256) fun t lc =>
    let r := snapRecord b i lc
    t.modCore (t.lcore c lc) fun k => k.restore r ((List.range 4).map fun j => ((s.cluster c).knownSlot (recordSlot r j)).getD {})

/-! ## Aborted commands -/

/-- A SNAP.RESTORE that is cut off leaves each cluster's slots as they were or restored (R240). -/
def State.cutRestore (s : State) (l : LongCmd) : State :=
  let p := l.part.val
  let b := s.snapBytes l
  if s.snapOk p b then
    s.each (s.partClusters p).zipIdx fun t (c, i) => (if t.freeBit then t.restoreCluster b c i else t).drew
  else s

/-- The window closes: fetching resumes and the event is sent (R392). -/
def State.closeWindow (s : State) : State := ({ s with maint := .closed } : State).eventAll evMaint

/-- Every voltage report has come (R349). -/
def State.voltagesReached (s : State) : State := { s with zones := smapAll {} (fun _ k => { k with await := none }) s.zones }

/-- A CAL.RUN is over: a re-trim in progress comes to its end and the clusters that it took to C3 go where Table 13.2 puts
them; a quiesce ends with the event of R233; a window that waited for it closes (R392, R394). -/
def State.calOver (s : State) : State :=
  match s.cal with
  | none => s
  | some k =>
    let s : State := { s with cal := none }
    let s := if k.running && k.kinds.getLsbD 3 then s.voltagesReached.each (List.range 16) State.place else s
    let s := if k.forced then s.eventAll evState else s
    if s.maint = .closing then s.closeWindow else s

/-- A PLAN.BIND that is cut off leaves its plan unbound, and the clusters in C3 if it was the bound one (R240, Table
13.2). -/
def State.cutBind (s : State) (p h : Nat) : State :=
  if (s.part p).bound == some h then (s.modPart p fun q => { q with bound := none }).enterAll (s.partClusters p) .c3 else s

/-- What one long command in progress leaves behind when it ends ABORTED: a drain, a build, a restore, a binding, a self-test,
a calibration, a firmware job or a dump is over; a partition being destroyed goes on. -/
def State.cutOff (s : State) (l : LongCmd) : State :=
  let p := l.part.val
  if l.code = 0x04#8 then { s with draining := false, wakeEt := 0 }
  else if l.code = 0x10#8 then s.modPart p fun q => if p = 0 then { q with cfg := {} } else { leaving := q.leaving }
  else if l.code = 0x13#8 then s.modPart p fun q => { q with resetWait := none }
  else if l.code = 0x22#8 then s.cutBind p (field l.payload 1 1)
  else if l.code = 0x40#8 then s.dropTest p
  else if l.code = 0x41#8 then s.calOver
  else if l.code = 0x61#8 then s.cutRestore l
  else if l.code = 0x90#8 ∨ l.code = 0x91#8 then s.cutFirmware true
  else if l.code = 0xA0#8 ∧ s.dump.isSome then { s with dump := none, rails := { s.rails with hbmSelfRefresh := true } }
  else s

/-- The long commands that a test picks end ABORTED, each with what it leaves behind. -/
def State.abort (s : State) (test : LongCmd → Bool) : State :=
  s.each (s.longs.filter test) fun t l => (t.cutOff l).finish l stAborted

end Sys2Proof.Machine
end

