-- ==== Sys2Proof/Machine/Partitions.lean ====
section
/-!
DEFINITION. Partitions (spec/08_partitions.md): the partition record, PART.CREATE and PART.DESTROY with the steps
that follow each, PART.QUERY (spec/09_mailboxes_and_commands.md R248) and PART.RESET
(spec/15_faults_and_selftest.md R396).
-/

namespace Sys2Proof.Machine

open Sys2Proof

/-- The partition record read from a payload (Table 8.1). -/
def parseRecord (b : Bytes) : PartRec :=
  { attr := BitVec.ofNat 8 (field b 0x01 1), hostMask := BitVec.ofNat 8 (field b 0x02 1), linkShare := field b 0x03 1
    x0 := field b 0x04 2, y0 := field b 0x06 2, w := field b 0x08 2, h := field b 0x0A 2, q := field b 0x0C 2
    rcCount := field b 0x0E 1, rules := field b 0x10 2, granules := bitmapList (slice b 0x18 96) 768 }

/-- The partition record as bytes (Table 8.1). -/
def PartRec.bytes (r : PartRec) (p : Nat) : Bytes :=
  toLe 1 p ++ leBytes 1 r.attr ++ leBytes 1 r.hostMask ++ toLe 1 r.linkShare ++ toLe 2 r.x0 ++ toLe 2 r.y0 ++
  toLe 2 r.w ++ toLe 2 r.h ++ toLe 2 r.q ++ toLe 1 r.rcCount ++ zeros 1 ++ toLe 2 r.rules ++ zeros 6 ++
  bitmapOf 96 r.granules

/-- Check 3 of R206, but for the partition's existence: reserved fields, ranges, and conditions 1, 4 and 5 of R202. Table 8.1
says of host_mask that P0 ignores it, and that its bits [7:4] are reserved: those are checked for P0 as for a tenant (DESIGN
CHOICE, notes/assumptions/113.md). -/
def recordOk (b : Bytes) (p : Nat) (r : PartRec) : Bool :=
  let empty := r.w == 0 && r.h == 0
  decide (p < 16) && decide (field b 0x01 1 < 4) && decide (field b 0x02 1 < 16) && decide (r.linkShare ≤ 64) &&
  field b 0x0F 1 == 0 && field b 0x12 6 == 0 &&
  decide (r.x0 ≤ 39 ∧ r.y0 ≤ 29) && decide (r.q ≤ 384) && decide (r.rcCount ≤ 32) && decide (r.rules ≤ 256) &&
  (if p = 0 then empty || (r.w != 0 && r.h != 0) else r.hostMask != 0#8 && r.w != 0 && r.h != 0 && r.q != 0) &&
  ((p == 0 && empty) ||
    (decide (r.x0 + r.w ≤ 40 ∧ r.y0 + r.h ≤ 30) && adjoinsStack r.clusters &&
      ((r.linkShare == 0 && r.rcCount == 0) || adjoinsLink r.clusters)))

/-- The records whose resources are taken, but for the one that a new record of Pn replaces: those of the other partitions, and
all that a PART.DESTROY has still to give back (R206, R216). -/
def State.takenBut (s : State) (p : Nat) : List (Nat × PartRec) :=
  (List.range 16).flatMap fun q =>
    (if q != p && s.taken q then [(q, (s.part q).cfg)] else []) ++ (s.part q).leaving.map fun x => (q, x.cfg)

/-- A sum over records. -/
def sumRecs (l : List (Nat × PartRec)) (f : Nat → PartRec → Nat) : Nat := l.foldl (fun a x => a + f x.1 x.2) 0

/-- Check 4 of R206: conditions 2 and 3 of R202, free granules, and the sums of R204 with the new record. -/
def State.roomFor (s : State) (p : Nat) (r : PartRec) : Bool :=
  let cls := r.clusters
  let l := s.takenBut p
  l.all (fun x => !cls.any (inRect x.2.x0 x.2.y0 x.2.w x.2.h) && !r.granules.any x.2.granules.contains) &&
  cls.all (fun c => !(s.cluster c).retired) &&
  (List.range 4).all (fun h => !r.onDie p h ||
    (decide (r.q + sumRecs l (fun q o => if o.onDie q h then o.q else 0) ≤ 384) &&
     decide (r.rules + sumRecs l (fun q o => if o.onDie q h then o.rules else 0) ≤ 256))) &&
  r.linkDies.all (fun d =>
    decide (r.linkShare + sumRecs l (fun _ o => if o.linkDies.contains d then o.linkShare else 0) ≤ 64) &&
    decide (r.rcCount + sumRecs l (fun _ o => if o.linkDies.contains d then o.rcCount else 0) ≤ 32))

/-- A record names no clusters and no granules. -/
def PartRec.bare (r : PartRec) : Bool := r.w == 0 && r.granules.isEmpty

/-- Whether a PART.CREATE naming p may go ahead: p does not exist and none is completing; P0 holds no clusters and no granules,
nor has any to give back (R206). -/
def State.creatable (s : State) (p : Nat) : Bool :=
  (s.longOf? 0x10#8 p).isNone &&
    (if p = 0 then (s.part 0).cfg.bare && (s.part 0).leaving.all (·.cfg.bare) else !s.taken p)

/-- R206: the checks in order, then every resource of the record reserved. -/
def State.partCreate (s : State) (c : Cmd) : State :=
  let p := c.named
  let r := parseRecord c.payload
  if !s.inE0 || s.maint != .closed then s.answer c stNotReady
  else if !recordOk c.payload p r || !s.creatable p then s.answer c stBadArg
  else if !s.roomFor p r then s.answer c stNoResource
  else
    (s.modPart p fun q => { q with cfg := r, life := if p = 0 then .live else .building }).accept c p

/-- The first `n` numbers below `top` that are not in a list (R205). -/
def lowestFree (used : List Nat) (top n : Nat) : List Nat :=
  ((List.range top).filter fun i => !used.contains i).take n

/-- Clearing classifier rules (R216, R217). -/
def State.clearRules (s : State) (idx : SMap (List Nat)) : State :=
  s.each idx fun t (h, l) => t.each l fun t i => { t with rules := sdel (256 * h + i) t.rules }
/-- Resetting reduction contexts to idle. -/
def State.clearContexts (s : State) (idx : SMap (List Nat)) : State :=
  s.each idx fun t (d, l) => t.each l fun t i => t.modCtx d i fun _ => {}

/-- A partition gives up its indices; a record of P0 replaces an earlier one that names no clusters or granules (R206). -/
def State.dropIndices (s : State) (p : Nat) : State :=
  ((s.clearRules (s.part p).ruleIdx).clearContexts (s.part p).ctxIdx).modPart p fun q => { q with ruleIdx := [], ctxIdx := [] }

/-- The indices of a host die, or of a link die, that are not free. -/
def State.usedIndices (s : State) (live : PartState → SMap (List Nat)) (left : Leave → SMap (List Nat)) (h : Nat) : List Nat :=
  (List.range 16).flatMap fun q => sget [] (live (s.part q)) h ++ (s.part q).leaving.flatMap fun x => sget [] (left x) h

/-- Step 5 of R207: classifier rule indices and reduction contexts. -/
def State.assign (s : State) (p : Nat) : State :=
  let r := (s.part p).cfg
  let s := (s.dropIndices p).each ((List.range 4).filter (r.onDie p)) fun t h =>
    let mine := lowestFree (t.usedIndices (·.ruleIdx) (·.ruleIdx) h) 256 r.rules
    t.modPart p fun q => { q with ruleIdx := sput [] h mine q.ruleIdx }
  s.each r.linkDies fun t d =>
    let used := t.usedIndices (·.ctxIdx) (·.ctxIdx) d
    let mine := lowestFree used 32 r.rcCount
    (t.each mine fun t i => t.modCtx d i fun _ => { partition := Fin.ofNat 16 p }).modPart p fun q =>
      { q with ctxIdx := sput [] d mine q.ctxIdx }

/-- Steps 2 to 6 of R207. -/
def State.build (s : State) (p : Nat) : State :=
  let r := (s.part p).cfg
  let s := s.each r.clusters fun t c => t.modCluster c fun k => { k with assigned := true, partition := Fin.ofNat 16 p }
  let s := s.each r.clusters fun t c => t.fenceCluster r c
  let s := s.enterAll r.clusters .c3
  let s := s.assign p
  let s := s.modPart p fun q => { q with life := .live }
  if p = 0 then s
  else s.each ((List.range 4).filter (r.onDie p)) fun t h =>
    { t with windows := sput {} (16 * h + p) { fwReady := true, majorXor := t.firmware.gmpMajor ^^^ 1#8 } t.windows }

/-- R207, once no bordering partition has a run. -/
def State.partBuilt (s : State) (p : Nat) : State :=
  match s.longOf? 0x10#8 p with
  | some l => if s.borderRun (s.part p).cfg then s else (s.build p).finish l stOk
  | none => s

/-- Unloading every plan of a partition and clearing its places in the image stores, with the words that frames have brought to
them (R216, R217). -/
def State.unloadAll (s : State) (p : Nat) : State :=
  let cls := s.partClusters p
  let s := s.modPart p fun q => { q with plans := [], bound := none, groups := [] }
  { s with clusters := smapAll {} (fun c k =>
      { k with store := k.store.filter (fun x => x.2.part.val != p), fill := if cls.contains c then [] else k.fill }) s.clusters }

/-- A partition gives up what it has of the ports: cells received and cells to send, positions, joins to come (R216, R217,
R303). -/
def State.leavePorts (s : State) (p : Nat) : State :=
  let s := s.keepHeld fun d k o x => !(s.part p).groups.any fun g => g.2.takes o p d k x
  { s with links := smapAll {} (fun _ d => { d with ports := smapAll {} (fun _ o =>
      { o with owned := sdel p o.owned, joins := o.joins.filter (fun x => x.1.val != p)
               outQ := o.outQ.filter fun x => x.cell.part.val != p }) d.ports }) s.links }

/-- The long commands of a partition: sent from its windows or naming it (R216, R396). -/
def LongCmd.ofPart (l : LongCmd) (p : Nat) : Bool := l.part.val == p || (p != 0 && l.sender.val == p)

/-- Stopping every descriptor DMA transfer of a partition's windows (R216, R290). -/
def State.stopDma (s : State) (p : Nat) : State :=
  s.each (List.range 4) fun t h => t.stopTransfer h p true

/-- Steps 1 to 4 of R216: what the partition still has to give back stands apart from then on, and but for P0 it no longer
exists (R198). -/
def State.destroyStart (s : State) (p : Nat) : State :=
  let s := (s.dropTest p).endReqs p (fun _ => true) stAborted rsReset
  let s := ((s.stopDma p).stopRun p).abort fun l => l.ofPart p && l.code != 0x11#8
  let s := (s.leavePorts p).unloadAll p
  let q := s.part p
  let s := (s.clearRules q.ruleIdx).clearContexts q.ctxIdx
  let l : Leave := { cfg := q.cfg, ruleIdx := q.ruleIdx, ctxIdx := q.ctxIdx }
  { s with parts := sput {} p { life := if p = 0 then .live else .none, leaving := q.leaving ++ [l] } s.parts }

/-- R216: the checks, then ACCEPTED and steps 1 to 4. -/
def State.partDestroy (s : State) (c : Cmd) : State :=
  let p := c.named
  if !s.inE0 || s.maint != .closed then s.answer c stNotReady
  else if 16 ≤ p ∨ !s.exists p then s.answer c stBadArg
  else (s.destroyStart p).accept c p

/-- Steps 6 to 8 of R216. What the fabric has counted in a cluster and not yet sent is counted for its partition (R211). -/
def State.destroyEnd (s : State) (p : Nat) (x : Leave) : State :=
  let cls := x.cfg.clusters
  let s := (s.each cls State.sendViol).enterAll cls .c3
  let s := s.each cls State.sealCluster
  let s := s.each cls fun t c => t.modCluster c fun k => { k with assigned := false, partition := 0, scanning := false }
  let s := s.each x.cfg.granules fun t g => { t with hbm := mclear (granuleBase g) (granuleBase (g + 1)) t.hbm }
  let s := s.releasePart p (if p = 0 then [1, 2, 3, 5] else [1, 2, 3, 4, 5])
  s.modPart p fun q => { q with leaving := q.leaving.drop 1 }

/-- R216, once no bordering partition has a run. The command of the oldest PART.DESTROY that is still open completes, unless it
has been aborted. -/
def State.partDestroyed (s : State) (p : Nat) : State :=
  match (s.part p).leaving with
  | [] => s
  | x :: r =>
    if s.borderRun x.cfg then s
    else match s.longOf? 0x11#8 p with
      | some l => if (s.longs.filter fun y => y.code == 0x11#8 && y.part.val == p).length = r.length + 1 then
          (s.destroyEnd p x).finish l stOk else s.destroyEnd p x
      | none => s.destroyEnd p x

/-- A page of PART.QUERY (Table 13 of its chapter: 9.13). -/
def State.queryPage (s : State) (p page : Nat) : Bytes :=
  let q := s.part p
  let r := q.cfg
  if page = 0 then r.bytes p
  else if page = 1 then
    let held := r.w != 0
    toLe 2 (if held then rectLeader r.x0 r.y0 r.w r.h else 0) ++ toLe 2 (if held then switchTime r.w r.h else 0) ++
    toLe 2 (r.linkDies.foldl (fun a d => a + 2 ^ d) 0) ++ zeros 2 ++
    (List.range 16).flatMap fun d => bitmapOf 4 (sget [] q.ctxIdx d)
  else bitmapOf 32 (sget [] q.ruleIdx (page - 2))

/-- R248. -/
def State.partQuery (s : State) (c : Cmd) : State :=
  if 5 < c.at 1 1 then s.answer c stBadArg else s.answer c stOk (s.queryPage c.named (c.at 1 1))

/-- Through C3 to C1, from whatever state a cluster is in (R396). -/
def Cluster.cycle (k : Cluster) : Cluster :=
  if !k.mayWake then k
  else if k.at .c3 then { k with trans := some (.exit .c1) }
  else { k with testRow := none, trans := some (.enter .c3 (some .c1)) }

/-- Steps 1 to 5 of R396, in soft (false) or hard (true) mode. -/
def State.resetPart (s : State) (p : Nat) (hard : Bool) (cmd : Option LongCmd) : State :=
  let s := (s.stopRun p).endReqs p (fun _ => true) stAborted rsReset
  let s := (s.abort fun l => l.ofPart p && !(cmd.any l.same)).dropTest p
  let cls := s.partClusters p
  let s := (s.releasePart p [1, 2, 3, 4, 5]).each cls fun t c => t.modCluster c fun k => { k with scanning := false }
  let s := (s.each cls fun t c => t.modListedCores c Core.softReset).rest p
  let wait := hard && (s.part p).bound.isSome
  let s := if wait then
      (s.each cls fun t c => t.modCluster c Cluster.cycle).modPart p fun q => { q with fetchHold := true, recovering := true }
    else s
  let s := s.log 0x0602 (some p) none none 0 15 (if hard then 1 else 0)
  match cmd with
  | some l => if wait then s.modPart p fun q => { q with resetWait := some true } else s.finish l stOk
  | none => s

/-- R396: at once, or once the recovery in progress has ended. -/
def State.partReset (s : State) (c : Cmd) : State :=
  if 1 < c.at 1 1 then s.answer c stBadArg
  else
    let p := c.named
    let s := s.accept c p
    if (s.part p).recovering then s.modPart p fun q => { q with resetWait := some false }
    else s.resetPart p (c.at 1 1 == 1) (s.long? c.die c.fn c.seq)

/-- A PART.RESET that waits: one that awaited a recovery runs now, one in hard mode whose clusters are back is
complete. -/
def State.resumeReset (s : State) (p : Nat) : State :=
  if (s.part p).recovering then s
  else match (s.part p).resetWait, s.longOf? 0x13#8 p with
    | some false, some l => (s.modPart p fun q => { q with resetWait := none }).resetPart p (field l.payload 1 1 == 1) (some l)
    | some true, some l => (s.modPart p fun q => { q with resetWait := none }).finish l stOk
    | _, _ => s

/-- The clusters of a parked partition that are up go back to the park state, once nothing waits for them in C1 (Table
13.2). -/
def State.repark (s : State) (p : Nat) : State :=
  let q := s.part p
  if s.estate == .e0 && q.park == .parked && !q.recovering && q.cfg.clusters.any (fun c => !(s.cluster c).parkedAt q.parkTo) then
    ((s.modPart p fun q => { q with park := .parking }).enterAll q.cfg.clusters q.parkTo).parkDone p
  else s

/-- Step 4 of R377, a PART.RESET that waited for it (R396), and then the park state. -/
def State.resume (s : State) (p : Nat) : State := ((s.tryResume p).resumeReset p).repark p

/-! ## Meanings -/

/-- R206. -/
def execPartCreate (die : Die) (fn : Fn) (slot : Fin 32) (s : State) : Outcome :=
  .next (s.serve die.val fn.val slot.val { code := 0x10, need := fun _ => 120, p0 := true, long := true }
    State.partCreate)

/-- R207. -/
def execPartCreateBuild (part : Part) (s : State) : Outcome := .next (s.partBuilt part.val)

/-- R216. -/
def execPartDestroy (die : Die) (fn : Fn) (slot : Fin 32) (s : State) : Outcome :=
  .next (s.serve die.val fn.val slot.val { code := 0x11, need := fun _ => 1, p0 := true, long := true }
    State.partDestroy)

/-- R216, from step 5. -/
def execPartDestroyFinish (part : Part) (s : State) : Outcome := .next (s.partDestroyed part.val)

/-- R248. -/
def execPartQuery (die : Die) (fn : Fn) (slot : Fin 32) (s : State) : Outcome :=
  .next (s.serve die.val fn.val slot.val { code := 0x12, need := fun _ => 2, named := true, changes := false }
    State.partQuery)

/-- R396. -/
def execPartReset (die : Die) (fn : Fn) (slot : Fin 32) (s : State) : Outcome :=
  .next (s.serve die.val fn.val slot.val { code := 0x13, need := fun _ => 2, named := true, long := true }
    State.partReset)

end Sys2Proof.Machine
end

