-- ==== Sys2Proof/Machine/PlanImage.lean ====
section
/-!
DEFINITION. The plan image (spec/07_plans_and_scan.md R166 to R175, R187): its layout read into a `Plan`, the checks of
PLAN.LOAD that need no step word to run (R174 checks 1 to 5, 7 to 9; spec/11_memory_and_dma.md R280, R283), and the
reload time of a load.
-/

namespace Sys2Proof.Machine

open Sys2Proof

/-! ## Reading (Tables 7.1 to 7.2, R168 to R172, R280) -/

/-- The offset and length of a section. -/
def sectionAt (b : Bytes) (i : Nat) : Nat × Nat := (field b (0x30 + 8 * i) 4, field b (0x34 + 8 * i) 4)

/-- Slot image record at an offset (R169). -/
def parseImage (b : Bytes) (o : Nat) : SlotImage :=
  { steps := field b o 2, presets := field b (o + 2) 1
    words := (List.range 512).map fun w => BitVec.ofNat 64 (field b (o + 16 + 8 * w) 8) }

/-- Layer record at an offset (R170). -/
def parseLayer (b : Bytes) (o : Nat) : Layer :=
  let v := field b o 1
  let l := field b (o + 2) 2
  { slot := Fin.ofNat 4 v, guarded := bitsOf v 2 2 == 1, load := if l = 0xFFFF then none else some l, len := field b (o + 4) 4 }

/-- An assignment (R171). -/
def parseAssign (b : Bytes) (o : Nat) : Assign :=
  let v := field b o 8
  { rows := BitVec.ofNat 16 v, cols := BitVec.ofNat 16 (bitsOf v 31 16), image := bitsOf v 43 32, valid := bitsOf v 44 44 == 1 }

/-- Load record at an offset, for `n` clusters (R171). -/
def parseLoad (b : Bytes) (o n : Nat) : Load :=
  let v := field b o 1
  { slot := Fin.ofNat 4 v, resident := bitsOf v 7 7 == 1
    blocks := (List.range n).map fun i =>
      let p := o + 8 + 40 * i
      { gang := field b p 1 % 2 == 1, assigns := (List.range 4).map fun a => parseAssign b (p + 8 + 8 * a) } }

/-- Entry record at an offset (R172). -/
def parseEntry (b : Bytes) (o : Nat) : Entry :=
  { first := field b o 2, count := field b (o + 2) 2, sIn := field b (o + 4) 4, sOut := field b (o + 8) 4
    n := field b (o + 16) 8, inOff := field b (o + 24) 8, outOff := field b (o + 32) 8 }

/-- Transfer record at an offset (Table 11.3). -/
def parseTransfer (b : Bytes) (o : Nat) : Transfer :=
  { layer := field b o 2, kind := field b (o + 2) 1, area := field b (o + 3) 1, start := field b (o + 4) 4
    count := field b (o + 8) 4, period := field b (o + 12) 2, channel := field b (o + 14) 1, hbm := field b (o + 16) 8
    cluster := field b (o + 24) 2, core := field b (o + 26) 1, spad := BitVec.ofNat 18 (field b (o + 28) 4) }

/-- Bytes of the bitmap of To × Ti tiles (R156). -/
def bitmapBytes (o i : Nat) : Nat := ceilDiv (o * i) 64 * 8

/-- Bitmap records from an offset to the section's end, with their offsets; none if a record runs past the end. -/
def parseBitmaps (fuel : Nat) (b : Bytes) (o e : Nat) : Option (List (Nat × Bitmap)) :=
  match fuel with
  | 0 => if o = e then some [] else none
  | k + 1 =>
    if o = e then some []
    else
      let x := field b (o + 2) 2
      let y := field b (o + 4) 2
      let n := 8 + bitmapBytes x y
      if e < o + n then none
      else
        let r : Bitmap :=
          { layer := field b o 2, tilesO := x, tilesI := y, present := (bitmapList (slice b (o + 8) (n - 8)) (x * y)).length }
        (parseBitmaps k b (o + n) e).map fun l => (o, r) :: l

/-- A plan image whose layout check 4 has passed. -/
def parsePlan (b : Bytes) : Plan :=
  let w := field b 0x1C 2
  let h := field b 0x1E 2
  let sec (i : Nat) : Nat := (sectionAt b i).1
  { elastic := field b 0x0B 1 % 2 == 1, planId := BitVec.ofNat 64 (field b 0x10 8), x0 := field b 0x18 2
    y0 := field b 0x1A 2, w := w, h := h, powerW := field b 0x20 4
    fieldPower := (List.range 48).map fun n => field b (0x70 + 2 * n) 2
    images := (List.range (field b 0x28 2)).map fun i => parseImage b (sec 0 + 4112 * i)
    layers := (List.range (field b 0x24 2)).map fun i => parseLayer b (sec 1 + 16 * i)
    loads := (List.range (field b 0x2A 2)).map fun i => parseLoad b (sec 2 + (8 + 40 * (w * h)) * i) (w * h)
    entries := (List.range (field b 0x26 2)).map fun i => parseEntry b (sec 3 + 48 * i)
    sched := (List.range (field b (sec 4) 4)).map fun i => parseTransfer b (sec 4 + 16 + 32 * i)
    bitmaps := ((parseBitmaps 4096 b (sec 5) (sec 5 + (sectionAt b 5).2)).getD []).map (·.2)
    scales := (List.range ((sectionAt b 6).2 / 8)).map fun i => BitVec.ofNat 64 (field b (sec 6 + 8 * i) 8)
    scaleOff := sec 6 }

/-! ## Reload time (R187) -/

/-- Flits of the frames that carry a run of `m` words, 31 to a frame. -/
def frameFlits (m : Nat) : Nat := 6 * ceilDiv m 31 + 4 * m

/-- Flits that carry an image: words 0 to S − 1 and 512 − 8n to 511, in one run or two. -/
def SlotImage.flits (i : SlotImage) : Nat :=
  if i.presets = 0 ∨ i.steps = 512 - 8 * i.presets then frameFlits (i.steps + 8 * i.presets)
  else frameFlits i.steps + frameFlits (8 * i.presets)

/-- A cluster's reload time in KCLK. -/
def Plan.clusterReload (pl : Plan) (b : Block) : Nat :=
  let live := b.assigns.filter fun a => a.valid && a.rows != 0#16 && a.cols != 0#16
  let covered := (List.range 256).all fun lc => b.assigns.any (·.covers lc)
  200 + live.foldl (fun t a => t + (match pl.images[a.image]? with | some i => i.flits | none => 0)) 0 +
    (if covered then 0 else frameFlits 1)

/-- T_rl of a load, in KCLK. -/
def Plan.reload (pl : Plan) (ld : Load) : Nat := ld.blocks.foldl (fun m b => Nat.max m (pl.clusterReload b)) 0

/-- The resident loads' T_rl together, in KCLK: they run one after another (R181). -/
def Plan.residentTime (pl : Plan) : Nat :=
  (pl.loads.filter (·.resident)).foldl (fun t ld => t + pl.reload ld) 0

/-! ## Checks of R174: each answers the image offset at which it fails -/

/-- No offset applies (R249). -/
def noOffset : Nat := 0xFFFFFFFF

/-- The offset of the first condition that does not hold. -/
def firstBad (l : List (Bool × Nat)) : Option Nat := (l.find? fun x => !x.1).map (·.2)

/-- Check 1: magic, format, header size, part and stepping (R2). -/
def check1 (b : Bytes) : Option Nat :=
  firstBad [(field b 0 4 == 0x4E4C504B, 0), (field b 4 2 == 1, 4), (field b 6 2 == 256, 6), (field b 8 2 == 0x1200, 8),
    (field b 0x0A 1 == 0xB1, 0x0A)]

/-- Check 2: the range lies within the granules and is the image's length. -/
def check2 (r : PartRec) (b : Bytes) (off len : Nat) : Option Nat :=
  firstBad [(r.holds off len, noOffset), (field b 0x0C 4 == len, 0x0C)]

/-- Check 3: the CRC of the image with its own field zero. -/
def check3 (b : Bytes) : Option Nat :=
  firstBad [(crc32c (b.take 0x2C ++ zeros 4 ++ b.drop 0x30) == BitVec.ofNat 32 (field b 0x2C 4), 0x2C)]

/-- The exact length R167 sets for a section, where it sets one. -/
def sectionNeed (b : Bytes) (i : Nat) : Option Nat :=
  let wh := field b 0x1C 2 * field b 0x1E 2
  match i with
  | 0 => some (field b 0x28 2 * 4112)
  | 1 => some (field b 0x24 2 * 16)
  | 2 => some (field b 0x2A 2 * (8 + 40 * wh))
  | 3 => some (field b 0x26 2 * 48)
  | 4 => some (16 + 32 * field b (sectionAt b 4).1 4)
  | _ => none

/-- Whether two spans meet. -/
def meets (a b : Nat × Nat) : Bool := decide (a.1 < b.1 + b.2) && decide (b.1 < a.1 + a.2)

/-- R167 for the offset and the length of one section, each with its place in the header. -/
def sectionOk (b : Bytes) (i : Nat) : List (Bool × Nat) :=
  let s := sectionAt b i
  let n := field b 0x0C 4
  let apart := (List.range i).all fun j => (sectionAt b j).2 == 0 || !meets s (sectionAt b j)
  let long : Bool := match sectionNeed b i with
    | some k => s.2 == k
    | none => i != 6 || s.2 % 8 == 0
  [(s.1 % 64 == 0 && (i != 7 || s.1 == 0) && (if s.2 = 0 then decide (s.1 ≤ n) else decide (256 ≤ s.1) && apart), 0x30 + 8 * i),
   ((if s.2 = 0 then decide (5 ≤ i) else i != 7 && decide (s.1 + s.2 ≤ n)) && long, 0x34 + 8 * i)]

/-- The bitmap records of section 5 (R168). -/
def bitmapsOk (l : List (Nat × Bitmap)) (layers : Nat) (last : Option Nat) : Option Nat :=
  match l with
  | [] => none
  | (o, m) :: r =>
    if m.tilesO = 0 ∨ m.tilesI = 0 ∨ layers ≤ m.layer ∨ last.any (fun k => decide (m.layer ≤ k)) then some o
    else bitmapsOk r layers (some m.layer)

/-- R280: a transfer record's own fields, each with its offset. -/
def Transfer.ok (t : Transfer) (b : Bytes) (o layers : Nat) : List (Bool × Nat) :=
  [(decide (t.layer < layers), o), (t.kind == 1 || t.kind == 2, o + 2), (decide (t.area ≤ 2), o + 3), (t.start % 8 == 0, o + 4),
   (decide (1 ≤ t.count ∧ t.count ≤ 1048576), o + 8), (decide (1 ≤ t.period ∧ t.period ≤ 1024), o + 12),
   (decide (t.channel < 64), o + 14), (t.hbm % 64 == 0, o + 16), (decide (t.cluster < 1200), o + 24),
   (field b (o + 28) 4 % 64 == 0, o + 28)]

/-- The indexed list of a list. -/
def enum {α : Type} (i : Nat) (l : List α) : List (Nat × α) :=
  match l with
  | [] => []
  | a :: r => (i, a) :: enum (i + 1) r

/-- Check 4: sections, counts and indices (R166 to R168, R172, R280). The image index of an assignment that is not valid
names nothing, and its range is not checked, though R174 speaks of every index (DESIGN CHOICE, notes/assumptions/107.md). -/
def check4 (b : Bytes) : Option Nat :=
  let layers := field b 0x24 2
  let entries := field b 0x26 2
  let images := field b 0x28 2
  let loads := field b 0x2A 2
  let inR (v top : Nat) : Bool := decide (1 ≤ v ∧ v ≤ top)
  match firstBad ([(inR layers 4096, 0x24), (inR entries 64, 0x26), (inR images 4096, 0x28), (inR loads 4096, 0x2A)] ++
      (List.range 8).flatMap (sectionOk b)) with
  | some o => some o
  | none =>
    let sec (i : Nat) : Nat := (sectionAt b i).1
    let pl := parsePlan b
    let wh := pl.w * pl.h
    match firstBad (
        (enum 0 pl.layers).map (fun (i, l) => ((match l.load with | some k => decide (k < loads) | none => true), sec 1 + 16 * i + 2)) ++
        (enum 0 pl.loads).flatMap (fun (i, l) => (enum 0 l.blocks).flatMap fun (j, k) => (enum 0 k.assigns).map fun (n, a) =>
          (!a.valid || decide (a.image < images), sec 2 + (8 + 40 * wh) * i + 16 + 40 * j + 8 * n)) ++
        (enum 0 pl.entries).map (fun (i, e) => (decide (1 ≤ e.count) && decide (e.first + e.count ≤ layers), sec 3 + 48 * i)) ++
        (enum 0 pl.sched).flatMap (fun (i, t) => t.ok b (sec 4 + 16 + 32 * i) layers)) with
    | some o => some o
    | none => match parseBitmaps 4096 b (sec 5) (sec 5 + (sectionAt b 5).2) with
      | none => some (sec 5)
      | some l => bitmapsOk l layers none

/-- Check 5: the rectangle and the ELASTIC attribute. -/
def check5 (r : PartRec) (b : Bytes) : Option Nat :=
  firstBad [(field b 0x18 2 == r.x0 && field b 0x1A 2 == r.y0 && field b 0x1C 2 == r.w && field b 0x1E 2 == r.h, 0x18),
    ((field b 0x0B 1 % 2 == 1) == r.attr.getLsbD 0, 0x0B)]

/-! ### Check 7 -/

/-- Every reserved field of the image (R166, R169 to R172, R280, R64), with its offset. -/
def reservedOk (b : Bytes) (pl : Plan) : List (Bool × Nat) :=
  let sec (i : Nat) : Nat := (sectionAt b i).1
  let wh := pl.w * pl.h
  let z (o n : Nat) : Bool × Nat := (field b o n == 0, o)
  let below (o n top : Nat) : Bool × Nat := (decide (field b o n < top), o)
  [below 0x0B 1 2, z 0xD0 48] ++
  (List.range pl.images.length).map (fun i => z (sec 0 + 4112 * i + 3) 13) ++
  (List.range pl.layers.length).flatMap (fun i =>
    let o := sec 1 + 16 * i
    [below o 1 8, z (o + 1) 1, z (o + 8) 8]) ++
  (List.range pl.loads.length).flatMap (fun i =>
    let o := sec 2 + (8 + 40 * wh) * i
    [(bitsOf (field b o 1) 6 2 == 0, o), z (o + 1) 7] ++
      (List.range wh).flatMap (fun c => below (o + 8 + 40 * c) 8 2 ::
        (List.range 4).map fun a => below (o + 16 + 40 * c + 8 * a) 8 (2 ^ 45))) ++
  (List.range pl.entries.length).flatMap (fun i =>
    let o := sec 3 + 48 * i
    [z (o + 12) 4, z (o + 40) 8]) ++
  [z (sec 4 + 4) 12] ++
  (List.range pl.sched.length).flatMap (fun i =>
    let o := sec 4 + 16 + 32 * i
    [z (o + 15) 1, z (o + 27) 1, below (o + 28) 4 262144]) ++
  ((parseBitmaps 4096 b (sec 5) (sec 5 + (sectionAt b 5).2)).getD []).map (fun (o, _) => z (o + 6) 2) ++
  (enum 0 pl.scales).map (fun (i, v) => (bitsOf v.toNat 31 12 == 0, sec 6 + 8 * i))

/-- Slots that resident loads fill, or that run loads fill. -/
def Plan.targets (pl : Plan) (resident : Bool) : List (Fin 4) :=
  (pl.loads.filter fun l => l.resident == resident).map (·.slot)

/-- The layers of an entry, in order. -/
def Plan.entryLayers (pl : Plan) (e : Entry) : List Layer := (pl.layers.drop e.first).take e.count

/-- Each use of a run-load slot follows a run load of it in the same entry. -/
def runSlotsOk (pl : Plan) (ls : List Layer) (loaded : List (Fin 4)) : Bool :=
  match ls with
  | [] => true
  | l :: r =>
    (!(pl.targets false).contains l.slot || loaded.contains l.slot) &&
      runSlotsOk pl r (match l.load.bind (fun k => pl.loads[k]?) with | some ld => ld.slot :: loaded | none => loaded)

/-- A line of the memory schedule as R283 counts it: tick, granule, channel, cluster, core. -/
abbrev Slotted := Nat × Nat × Nat × Nat × Nat

/-- The area offset an entry gives a record (R280). -/
def Entry.areaOff (e : Entry) (t : Transfer) : Nat :=
  if t.area = 1 then e.inOff + t.hbm else if t.area = 2 then e.outOff + t.hbm else t.hbm

/-- The lines of a record as an entry places them. -/
def Transfer.slots (t : Transfer) (r : PartRec) (e : Entry) : List Slotted :=
  (List.range t.count).map fun n =>
    (t.start / 8 + t.period * n, (r.granules[(e.areaOff t + 64 * n) / granuleSize]?).getD 768, t.channel, t.cluster, t.core)

/-- How many lines match. -/
def tally (l : List Slotted) (p : Slotted → Bool) : Nat := (l.filter p).length

/-- R283's first two checks over the lines of one layer: one line for each granule slot, and the rates of R278. A line
outside the partition's granules uses no slot, and fails check 8. -/
def linesOk (l : List Slotted) : Bool :=
  l.all fun (t, g, ch, c, k) =>
    (g == 768 || tally l (fun x => x.1 == t && x.2.1 == g) == 1) &&
    decide (tally l (fun x => x.1 == t && x.2.2.1 == ch) ≤ 16) &&
    ((channelClusters ch).length != 2 || decide (tally l (fun x => x.1 == t && x.2.2.1 == ch && x.2.2.2.1 == c) ≤ 8)) &&
    decide (tally l (fun x => x.1 == t && x.2.2.2.1 == c && x.2.2.2.2 == k) ≤ 8)

/-- The records of a layer. -/
def Plan.layerSched (pl : Plan) (k : Nat) : List Transfer := pl.sched.filter fun t => t.layer == k

/-- R283, for every layer of every entry. -/
def Plan.schedOk (pl : Plan) (r : PartRec) : Bool :=
  pl.sched.all (fun t => (channelClusters t.channel).contains t.cluster) &&
  pl.entries.all fun e => (List.range e.count).all fun i =>
    let ts := pl.layerSched (e.first + i)
    ts.all (fun t => (t.slots r e).all fun x => x.2.1 == 768 || granuleStack x.2.1 == t.channel / 8) &&
    linesOk (ts.flatMap fun t => t.slots r e)

/-- Check 7: reserved fields, coverage, slots, loads and the memory schedule. -/
def check7 (b : Bytes) (pl : Plan) (r : PartRec) : Option Nat :=
  let sec (i : Nat) : Nat := (sectionAt b i).1
  let wh := pl.w * pl.h
  let loadOff (i : Nat) : Nat := sec 2 + (8 + 40 * wh) * i
  firstBad (reservedOk b pl ++
    (enum 0 pl.loads).map (fun (i, l) => (
      l.blocks.all (fun k => (List.range 256).all fun lc => decide ((k.assigns.filter (·.covers lc)).length ≤ 1)) &&
      !(pl.targets (!l.resident)).contains l.slot && decide (pl.reload l ≤ 6000), loadOff i)) ++
    (enum 0 pl.layers).map (fun (i, l) => ((match l.load.bind (fun k => pl.loads[k]?) with
      | some ld => !ld.resident && ld.slot != l.slot
      | none => true), sec 1 + 16 * i + 2)) ++
    (enum 0 pl.entries).map (fun (i, e) => (
      (match (pl.entryLayers e).head? with
        | some l => (pl.targets true).contains l.slot
        | none => false) && runSlotsOk pl (pl.entryLayers e) [], sec 3 + 48 * i)) ++
    [(pl.schedOk r, sec 4)])

/-- Check 8: every HBM address of the entry records and the memory schedule. -/
def check8 (b : Bytes) (pl : Plan) (r : PartRec) : Option Nat :=
  let sec (i : Nat) : Nat := (sectionAt b i).1
  firstBad ((enum 0 pl.entries).map (fun (i, e) => (r.holds e.inOff e.sIn && r.holds e.outOff e.sOut, sec 3 + 48 * i)) ++
    (enum 0 pl.sched).map (fun (i, t) => (
      pl.entries.all fun e => !(decide (e.first ≤ t.layer ∧ t.layer < e.first + e.count)) || r.holds (e.areaOff t) (64 * t.count),
      sec 4 + 16 + 32 * i)))

/-- The images a plan needs in the store of the cluster of index `i` (R175). -/
def Plan.storeImages (pl : Plan) (i : Nat) : List Nat :=
  (pl.loads.flatMap fun l => match l.blocks[i]? with
    | some b => (b.assigns.filter fun a => a.valid && a.rows != 0#16 && a.cols != 0#16).map (·.image)
    | none => []).eraseDups

/-- The plan's images in every cluster's store, with those of the plans already loaded, are at most 16 (R175). -/
def storeFits (plans : List Plan) (n : Nat) : Bool :=
  (List.range n).all fun i => decide ((plans.foldl (fun t pl => t + (pl.storeImages i).length) 0) ≤ 16)

/-- Check 9: fewer than 4 loaded plans, and the image store limit. -/
def check9 (q : PartState) (pl : Plan) : Option Nat :=
  firstBad [(decide (q.plans.length < 4), noOffset), (storeFits (pl :: q.plans.map fun x => x.2.plan) (pl.w * pl.h), noOffset)]

end Sys2Proof.Machine
end

