-- ==== Sys2Proof/Machine/Control.lean ====
section
/-!
DEFINITION. The engine's own commands: ENGINE.INFO to ENGINE.STANDBY (spec/09_mailboxes_and_commands.md R244 to R247),
QUEUE.CONFIG and QUEUE.STATS (spec/10_serving_requests.md R270, R271), TEST.RUN, CAL.RUN, MAINT.WINDOW, FAULT.LOG and
SEIZE (spec/15_faults_and_selftest.md R383, R389 to R394, R399), POWER.POLICY and POWER.IDLE
(spec/13_clocks_and_power_states.md R335 to R337, R355).
-/

namespace Sys2Proof.Machine

open Sys2Proof

/-! ## Engine commands -/

/-- Retired clusters. -/
def State.retiredCount (s : State) : Nat := (s.clusters.filter fun x => x.2.retired).length

/-- The ENGINE.INFO reply (Table 9.11); R438 asks for it with ET and sender zero. -/
def State.infoBytes (s : State) (et : BitVec 64) (die sender : Nat) : Bytes :=
  leBytes 2 s.fuses.part ++ leBytes 1 s.fuses.stepping ++ zeros 1 ++ toLe 2 s.retiredCount ++ zeros 2 ++ leBytes 4 s.firmware.build ++
  leBytes 1 s.firmware.gmpMinor ++ leBytes 1 s.firmware.gmpMajor ++ zeros 2 ++ leBytes 8 s.fuses.serial ++
  leBytes 8 et ++ toLe 1 die ++ toLe 1 sender ++ zeros 6 ++
  toLe 8 s.fuses.count ++ toLe 1 (bit s.fuses.debugOff 0)

/-- PFW_N is quiet: deasserted for RESUME_QUIET (R368). -/
def State.quiet (s : State) : Bool :=
  !s.pfw && (s.pfwHighSince == 0 || decide (s.pfwHighSince + msCclk s.policy.resumeQuiet ≤ s.now))

/-- The engine writes the voltage of each zone and waits for the report (R349). -/
def State.writeVoltages (s : State) (zs : List Nat) : State :=
  s.each (zs.filter fun z => !(s.zone z).held) fun t z => t.modZone z fun k => { k with await := some (t.now, 1) }

/-- An exit from E2 starts when a source is latched, PFW_N is quiet and no dump runs (R294, R343). -/
def State.tryExit (s : State) : State :=
  if s.estate == .e2 && s.supply == .up && s.aonWake != 0#4 && s.quiet && s.dump.isNone then
    ((s.writeVoltages (List.range 48)).toState .resuming).log 0x0406 none none none 0 s.authorityPup
  else s

/-- ENGINE.STANDBY's drain ends without standby (Table 9.16). -/
def State.endDrain (s : State) : State :=
  ({ s with draining := false, wakeEt := 0 } : State).finishAll (fun l => l.code == 0x04#8) stAborted

/-- R247. -/
def State.engineResume (s : State) (c : Cmd) : State :=
  if s.estate == .e0 then
    (if s.draining then s.endDrain else s).answer c stOk (zeros 8 ++ leBytes 8 s.stateEt)
  else if !s.quiet then s.answer c stNotReady
  else (({ s with aonWake := s.aonWake ||| 1#4 } : State).accept c 0).tryExit

/-- R246. In E2 it answers at once; a wake ET that is not zero arms the timer all the same (R343). -/
def State.engineStandby (s : State) (c : Cmd) : State :=
  if s.estate == .e2 then
    (if c.at 0 8 = 0 then s else { s with wakeEt := BitVec.ofNat 64 (c.at 0 8) } : State).answer c stOk
  else ({ s with draining := true, wakeEt := BitVec.ofNat 64 (c.at 0 8) } : State).accept c 0

/-- R244. -/
def execEngineInfo (die : Die) (fn : Fn) (slot : Fin 32) (s : State) : Outcome :=
  .next (s.serve die.val fn.val slot.val { code := 0x01, changes := false } fun t c =>
    t.answer c stOk (t.infoBytes t.et die.val fn.val))

/-- R245. -/
def execEngineState (die : Die) (fn : Fn) (slot : Fin 32) (s : State) : Outcome :=
  .next (s.serve die.val fn.val slot.val { code := 0x02, changes := false } fun t c =>
    t.answer c stOk (t.engineRecord fn.val 0))

/-- R247. -/
def execEngineResume (die : Die) (fn : Fn) (slot : Fin 32) (s : State) : Outcome :=
  .next (s.serve die.val fn.val slot.val { code := 0x03, long := s.estate != .e0 } State.engineResume)

/-- R246. -/
def execEngineStandby (die : Die) (fn : Fn) (slot : Fin 32) (s : State) : Outcome :=
  .next (s.serve die.val fn.val slot.val { code := 0x04, need := fun _ => 8, p0 := true, long := true }
    State.engineStandby)

/-! ## QUEUE.CONFIG and QUEUE.STATS -/

/-- The stacks that hold a staging region (R263). -/
def PartRec.stagingStacks (r : PartRec) (k : QueueCfg) : List Nat :=
  let len := k.d * 4096 * (k.sIn + k.sOut)
  if len = 0 then []
  else (((r.granules.take ((k.off + len - 1) / granuleSize + 1)).drop (k.off / granuleSize)).map granuleStack).eraseDups

/-- A partition's load on the host lane of a stack: 2 × q × n with a staging buffer there (R286). -/
def laneLoad (r : PartRec) (p : Nat) (k : Option QueueCfg) (m : Nat) : Nat :=
  match k with
  | some k => if (r.stagingStacks k).contains m then 2 * r.q * ((List.range 4).filter (r.onDie p)).length else 0
  | none => 0

/-- R286: every host lane carries at most 320 bytes per tick with the new setting. -/
def State.lanesFit (s : State) (p : Nat) (k : QueueCfg) : Bool :=
  (List.range 8).all fun m => decide ((List.range 16).foldl (fun a x =>
    a + laneLoad (s.part x).cfg x (if x = p then some k else (s.part x).qcfg) m) 0 ≤ 320)

/-- R270, operation 0x00. -/
def State.queueSetting (s : State) (c : Cmd) : State :=
  let q := s.part c.named
  let d := c.at 2 2
  let k : QueueCfg := { d := d, sIn := c.at 4 2, sOut := c.at 6 2, off := c.at 8 8 }
  let len := d * 4096 * (k.sIn + k.sOut)
  if 1 < c.at 1 1 ∨ d < 1 ∨ 64 < d ∨ k.off % 4096 ≠ 0 then s.answer c stBadArg
  else if !q.cfg.holds k.off len || q.plans.any (fun x => len != 0 && meets (k.off, len) (x.2.off, x.2.len)) ||
      !s.lanesFit c.named k then s.answer c stNoResource
  else (s.modPart c.named fun q => { q with qcfg := some k, changeover := !q.queue.isEmpty }).answer c stOk

/-- Rules in the payload of a rule write. -/
def Cmd.rules (c : Cmd) : List (BitVec 64) := (List.range (c.at 3 1)).map fun i => BitVec.ofNat 64 (c.at (8 + 8 * i) 8)

/-- Reserved fields of a rule (Table 10.4). -/
def ruleOk (v : BitVec 64) : Bool := bitsOf v.toNat 30 27 == 0 && bitsOf v.toNat 19 6 == 0

/-- The rule as kept: the engine writes its partition. -/
def ownRule (v : BitVec 64) (p : Nat) : BitVec 64 := (v &&& ~~~0xF00000#64) ||| BitVec.ofNat 64 (p * 1048576)

/-- R270, operation 0x01. -/
def State.ruleWrite (s : State) (c : Cmd) : State :=
  let idx := sget [] (s.part c.named).ruleIdx c.die
  let j := c.at 2 1
  let n := c.at 3 1
  if 1 < c.at 1 1 ∨ n < 1 ∨ 13 < n ∨ idx.length < j + n ∨ !c.rules.all ruleOk then s.answer c stBadArg
  else
    (s.each ((idx.drop j).zip c.rules) fun t (i, v) =>
      { t with rules := sput 0#64 (256 * c.die + i) (ownRule v c.named) t.rules }).answer c stOk

/-- A sum over the physical cores of a partition. -/
def State.sumCores (s : State) (p : Nat) (f : Core → Nat) : Nat :=
  let cls := s.partClusters p
  s.cores.foldl (fun a x => if cls.contains (x.1 / 272) then a + f x.2 else a) 0

/-- The QUEUE.STATS reply (Table 10.6). -/
def State.statsBytes (s : State) (p h : Nat) : Bytes :=
  let q := s.part p
  let t := q.stats
  toLe 8 t.admitted ++ toLe 8 t.kept ++ toLe 4 t.shedDeadline ++ toLe 4 t.shedBound ++ toLe 4 t.shedUnmatched ++
  toLe 4 t.shedOther ++ toLe 4 t.retry ++ toLe 4 t.faulted ++ toLe 4 t.aborted ++ toLe 4 t.flagged ++
  toLe 8 (s.sumCores p fun k => k.slipRange.toNat) ++ toLe 8 (s.sumCores p fun k => k.slipQueue.toNat) ++
  toLe 8 (s.sumCores p fun k => k.slipHolds.toNat) ++ toLe 4 (sget 0#32 s.ambig (16 * h + p)).toNat ++
  toLe 2 q.queue.length ++ toLe 2 t.most ++ leBytes 8 s.et

/-- R271. -/
def State.queueStats (s : State) (c : Cmd) : State :=
  let t := s.answer c stOk (s.statsBytes c.named c.die)
  if c.at 1 1 % 2 = 1 then t.modPart c.named fun q => { q with stats := {} } else t

/-- R270: the length a QUEUE.CONFIG needs by its operation (R228). -/
def queueConfigNeed (c : Cmd) : Nat :=
  if c.len ≤ 1 then 2 else if c.at 1 1 = 0 then 16 else if c.at 1 1 = 1 then (if c.len ≤ 3 then 4 else 8 + 8 * c.at 3 1) else 2

/-- R270. -/
def execQueueConfigQueueSetting (die : Die) (fn : Fn) (slot : Fin 32) (s : State) : Outcome :=
  .next (s.serve die.val fn.val slot.val
    { code := 0x30, need := queueConfigNeed, mine := picks 1 0 1, named := true } State.queueSetting)

/-- R270. -/
def execQueueConfigRuleWrite (die : Die) (fn : Fn) (slot : Fin 32) (s : State) : Outcome :=
  .next (s.serve die.val fn.val slot.val
    { code := 0x30, need := queueConfigNeed, mine := picks 1 1 1, named := true } State.ruleWrite)

/-- R271. -/
def execQueueStats (die : Die) (fn : Fn) (slot : Fin 32) (s : State) : Outcome :=
  .next (s.serve die.val fn.val slot.val { code := 0x31, need := fun _ => 2, named := true, changes := false }
    State.queueStats)

/-! ## TEST.RUN -/

/-- A partition is idle: no admitted request, no run (R389). -/
def PartState.idle (q : PartState) : Bool := q.queue.isEmpty && q.run.isNone

/-- R389. -/
def State.testRun (s : State) (c : Cmd) : State :=
  let p := c.named
  let q := s.part p
  let lv := c.at 1 1
  if 1 < lv then s.answer c stBadArg
  else if q.test.isSome || (s.longOf? 0x40#8 p).isSome then s.answer c stBusy
  else if q.idle then (s.modPart p fun q => { q with test := some (.running s.now lv) }).accept c p
  else
    (s.modPart p fun q => { q with test := some (.deferred s.now lv) }).accept c p stDeferred
      (toLe 8 (q.queue.foldl (fun m r => Nat.max m r.promisedEnd) 0))

/-- R389: the first moment the entry queue is empty. -/
def State.testStart (s : State) (p : Nat) : State :=
  match (s.part p).test with
  | some (.deferred _ lv) =>
    if (s.part p).idle then s.modPart p fun q => { q with test := some (.running s.now lv) } else s
  | _ => s

/-- R389: test_defer_max has passed. -/
def State.testTimeout (s : State) (p : Nat) : State :=
  match (s.part p).test, s.longOf? 0x40#8 p with
  | some (.deferred since _), some l =>
    if since + msCclk s.testDeferMax ≤ s.now then
      (s.modPart p fun q => { q with test := none }).finish l stBusy
    else s
  | _, _ => s

/-- The cores a self-test exercises: every logical core in service (R390). -/
def State.testedCores (s : State) (p : Nat) : Nat :=
  256 * ((s.partClusters p).filter fun c => !(s.cluster c).retired).length

/-- The two bytes of a count of cores: above 65,535 the manual states no value (R390). -/
def State.coreCount (s : State) (n : Nat) : Bytes :=
  if n < 65536 then toLe 2 n else [Config.freeByte s.freeCount, Config.freeByte (s.freeCount + 1)]

/-- R390. -/
def State.testDone (s : State) (p : Nat) (failed : List (Nat × Nat)) : State :=
  match (s.part p).test, s.longOf? 0x40#8 p with
  | some (.running _ _), some l =>
    let cls := s.partClusters p
    let bad := failed.filter fun x => cls.contains x.1
    let tested := s.coreCount (s.testedCores p)
    let first : Bytes := match bad.head? with
      | some (c, lc) => toLe 2 c ++ toLe 2 (s.lcore c lc % 272)
      | none => toLe 4 0xFFFFFFFF
    let many := s.coreCount bad.length
    let s := s.each cls fun t c => (t.zeroSpads c).placeResident p c
    let s : State := { s with declared := (s.declared ++ bad.map fun x => s.lcore x.1 x.2).eraseDups, freeCount := s.freeCount + 2 }
    let s := s.modPart p fun q => { q with test := none }
    (s.finish l stOk (tested ++ many ++ first)).log 0x0604 (some p) none none 0 15
      (leNat tested + 65536 * leNat many)
  | _, _ => s

/-- R389. -/
def execTestRun (die : Die) (fn : Fn) (slot : Fin 32) (s : State) : Outcome :=
  .next (s.serve die.val fn.val slot.val { code := 0x40, need := fun _ => 2, named := true, long := true } State.testRun)

/-- R389. -/
def execTestRunStart (part : Part) (s : State) : Outcome := .next (s.testStart part.val)

/-- R389. -/
def execTestDeferTimeout (part : Part) (s : State) : Outcome := .next (s.testTimeout part.val)

/-- R390. -/
def execTestRunDone (part : Part) (failed : List (Cl × LCore)) (s : State) : Outcome :=
  .next (s.testDone part.val (failed.map fun x => (x.1.val, x.2.val)))

/-! ## CAL.RUN -/

/-- Whether an admitted request finishes under a brace or a forced quiesce (R361, R394): its run is in progress, no
joined group names its entry, and at most 500,000 ticks of P remain. -/
def State.finishing (s : State) (p : Nat) (r : Request) : Bool :=
  let q := s.part p
  (match q.run with
   | some run => run.req == r.id && !q.grouped r.entry
   | none => false) &&
  (match r.startAt with
   | some t => decide (t.toNat + r.p ≤ s.tick + 500000)
   | none => false)

/-- Ending a request under a brace or quiesce: its completion is decided at once and its run, if any, goes on to the
end of its layer and stops there (R362, R364, R394). A brace leaves no flag but elastic (R362); a quiesce keeps them (R19). -/
def State.endQuiesced (s : State) (p : Nat) (reason : Nat) (stop : Stop) (r : Request) : State :=
  let running := (s.part p).run.any fun run => run.req == r.id
  let runFlags := match (s.part p).run with | some run => if running then run.flags else {} | none => {}
  let s := s.close p r stRetry reason (if reason = rsBrace then {} else r.flags.or runFlags)
  if running then s.modPart p fun q => { q with run := q.run.map fun run => { run with stop := some stop } } else s

/-- Sorting the admitted requests (R361): finishing runs go on; every other request that is not in egress or already
completed ends RETRY. -/
def State.sortRequests (s : State) (reason : Nat) (stop : Stop) : State :=
  s.each (List.range 16) fun t p =>
    let fin := (t.part p).queue.filter (t.finishing p)
    let t := t.each ((t.part p).queue.filter fun r =>
        !t.finishing p r && r.stage != .egress && r.stage != .closing) fun t r => t.endQuiesced p reason stop r
    t.modPart p fun q =>
      { q with run := q.run.map fun run => { run with finishing := fin.any fun r => r.id == run.req }
               queue := q.queue.map fun r => { r with finishing := fin.any fun x => x.id == r.id } }

/-- A stopped run whose layer has ended before its next word 0, or whose layer ends, stops at once (R364). -/
def State.stopBetween (s : State) : State :=
  s.each (List.range 16) fun t p => match (t.part p).run with
    | some run => if run.stop.isSome && run.layerEnd.isSome then t.stopRun p else t
    | none => t

/-- R393, R394. -/
def State.calRun (s : State) (c : Cmd) : State :=
  let k := c.at 0 1
  let force := c.at 1 1 % 2 == 1
  let win := match s.maint with | .opened _ => true | _ => false
  if k = 0 ∨ 16 ≤ k ∨ 2 ≤ c.at 1 1 then s.answer c stBadArg
  else if c.fn ≠ 0 ∧ (force ∨ 8 ≤ k) then s.answer c stDenied
  else if s.cal.isSome then s.answer c stBusy
  else if !win && (!force || decide (8 ≤ k)) then s.answer c stBusy
  else
    let s := s.accept c 0
    let s : State := { s with cal := some { kinds := BitVec.ofNat 4 k, forced := !win, time := s.now } }
    if win then s else (s.sortRequests rsForcedCal (.cal s.now)).stopBetween

/-- The re-trim of a CAL.RUN writes the voltages once every cluster is in C3 (R349, R393). -/
def State.retrim (s : State) : State :=
  match s.cal with
  | some k =>
    if k.running && k.kinds.getLsbD 3 && !k.written && s.clusters.all (fun x => x.2.at .c3) then
      ({ s with cal := some { k with written := true } } : State).writeVoltages (List.range 48)
    else s
  | none => s

/-- Asking for JOIN on every port of a group that is up (R318). -/
def State.askJoin (s : State) (p g : Nat) (grp : Group) : State :=
  s.each grp.ports fun t e => t.modPort e.die e.port fun o =>
    if o.up && !o.joins.contains (Fin.ofNat 16 p, Fin.ofNat 8 g) then { o with joins := o.joins ++ [(Fin.ofNat 16 p, Fin.ofNat 8 g)] } else o

/-- Every group asks to join again, but for those that are joined (R318, R369). -/
def State.rejoin (s : State) : State :=
  s.each ((List.range 16).flatMap fun p => (s.part p).groups.map fun g => (p, g)) fun t (p, g) =>
    if g.2.joined then t else t.askJoin p g.1 { g.2 with ports := g.2.ports.filter fun e => !e.joined }

/-- A port that has gone down. -/
def Port.down (o : Port) : Port := { o with up := false, upstream := false, owned := [], joins := [], used := [] }

/-- Link retraining (R393): the lanes of every port that is up train again (each port's PORT_UP ends its training), so that
every group leaves the joined state (R318), and a full retime then runs (R310). -/
def State.retrainLinks (s : State) : State :=
  let s : State := { s.unjoin fun _ => true with retimeWanted := true }
  { s with links := smapAll {} (fun _ d => { d with ports := smapAll {} (fun _ o => if o.up then o.down else o) d.ports }) s.links }

/-- R394: every run has ended under the quiesce; in a window, at once. Re-trim takes every cluster to C3. -/
def State.calStart (s : State) : State :=
  match s.cal with
  | some k =>
    if !k.running && (!k.forced || (List.range 16).all fun p => (s.part p).run.isNone) then
      let s : State := { s with cal := some { k with running := true } }
      let s := if k.kinds.getLsbD 1 then s.retrainLinks else s
      if k.kinds.getLsbD 3 then (s.enterAll (List.range 1200) .c3).retrim else s
    else s
  | none => s

/-- The effect of a calibration kind that succeeds (R393); the ports have trained and the retime has run by themselves. -/
def State.calEffect (s : State) (kind : Nat) : State :=
  if kind = 0 then { s with rails := { s.rails with hbmTrained := true } }
  else if kind = 1 then s
  else if kind = 2 then s.each (List.range 1200) fun t c => t.modCluster c fun k => { k with calibrated := true }
  else s.each (List.range 48) fun t z =>
    (t.modZone z fun k => { k with codeXor := BitVec.ofNat 5 ((Config.freeByte t.freeCount).toNat % 25) ^^^ 12#5 }).drew

/-- R393, R394. -/
def State.calDone (s : State) (failed : BitVec 4) : State :=
  match s.cal, s.longCode? 0x41#8 with
  | some k, some l =>
    if k.running && (!k.kinds.getLsbD 3 || k.written) then
      let bad := k.kinds &&& failed
      let good := k.kinds &&& ~~~failed
      let s := s.each ([2, 0, 1, 3].filter good.getLsbD) State.calEffect
      let s := (s.finish l stOk (leBytes 1 (good.setWidth 8) ++ leBytes 1 (bad.setWidth 8))).log 0x0605 none none none 0 15
        (good.toNat + 256 * bad.toNat)
      s.calOver
    else s
  | _, _ => s

/-- R393. -/
def execCalRun (die : Die) (fn : Fn) (slot : Fin 32) (s : State) : Outcome :=
  .next (s.serve die.val fn.val slot.val { code := 0x41, need := fun _ => 2, long := true } State.calRun)

/-- R394. -/
def execCalRunStart (s : State) : Outcome := .next s.calStart

/-- R393. -/
def execCalRunDone (failed : BitVec 4) (s : State) : Outcome := .next (s.calDone failed)

/-! ## MAINT.WINDOW (R391, R392) -/

/-- The MAINT.WINDOW reply. -/
def State.maintBytes (s : State) : Bytes :=
  let (st, left) := match s.maint with
    | .closed => (0, 0)
    | .opening ms => (1, ms)
    | .opened t => (2, ceilDiv (t - s.now) 1000000)
    | .closing => (3, 0)
  toLe 1 st ++ zeros 3 ++ toLe 4 left ++ toLe 4 s.testDeferMax

/-- The length a MAINT.WINDOW needs by its operation (R228). -/
def maintNeed (c : Cmd) : Nat := if c.at 0 1 = 1 then 8 else if c.at 0 1 = 3 then 12 else 1

/-- An operation byte out of range answers BAD_ARG. -/
def State.maintOp (s : State) (c : Cmd) (f : State) (bad : Bool) : State :=
  if 3 < c.at 0 1 ∨ bad then s.answer c stBadArg else f.answer c stOk f.maintBytes

/-- R392: open, or restart the duration. -/
def State.maintOpenOp (s : State) (ms : Nat) : State :=
  { s with maint := match s.maint with
      | .closed => .opening ms
      | .opening _ => .opening ms
      | _ => .opened (s.now + msCclk ms) }

/-- R392: close, after any CAL.RUN in progress. -/
def State.maintClose (s : State) : State :=
  match s.maint with
  | .closed => s
  | .opening _ => s.closeWindow
  | _ => if s.cal.isSome then { s with maint := .closing } else s.closeWindow

/-- R392: the last admitted request is done. -/
def State.maintOpened (s : State) : State :=
  match s.maint with
  | .opening ms =>
    if (List.range 16).all fun p => (s.part p).queue.isEmpty then
      ({ s with maint := .opened (s.now + msCclk ms) } : State).eventAll evMaint
    else s
  | _ => s

/-- R392: the duration ends. -/
def State.maintExpire (s : State) : State :=
  match s.maint with
  | .opened t => if t ≤ s.now then s.maintClose else s
  | _ => s

/-- R391. -/
def execMaintWindowRead (die : Die) (fn : Fn) (slot : Fin 32) (s : State) : Outcome :=
  .next (s.serve die.val fn.val slot.val { code := 0x42, need := maintNeed, mine := picks 0 0 3, p0 := true, changes := false }
    fun t c => t.maintOp c t false)

/-- R392. -/
def execMaintWindowOpen (die : Die) (fn : Fn) (slot : Fin 32) (s : State) : Outcome :=
  .next (s.serve die.val fn.val slot.val { code := 0x42, need := maintNeed, mine := picks 0 1 3, p0 := true }
    fun t c => t.maintOp c (t.maintOpenOp (c.at 4 4)) (c.at 4 4 < 1000 || decide (3600000 < c.at 4 4)))

/-- R392. -/
def execMaintWindowClose (die : Die) (fn : Fn) (slot : Fin 32) (s : State) : Outcome :=
  .next (s.serve die.val fn.val slot.val { code := 0x42, need := maintNeed, mine := picks 0 2 3, p0 := true }
    fun t c => t.maintOp c t.maintClose false)

/-- R391. -/
def execMaintWindowSetDeferral (die : Die) (fn : Fn) (slot : Fin 32) (s : State) : Outcome :=
  .next (s.serve die.val fn.val slot.val { code := 0x42, need := maintNeed, mine := picks 0 3 3, p0 := true }
    fun t c => t.maintOp c { t with testDeferMax := c.at 8 4 } (decide (600000 < c.at 8 4)))

/-- R392. -/
def execMaintWindowOpened (s : State) : Outcome := .next s.maintOpened

/-- R392. -/
def execMaintWindowExpiry (s : State) : Outcome := .next s.maintExpire

/-! ## POWER.POLICY and POWER.IDLE -/

/-- The committed power (R356). -/
def State.committedPower (s : State) : Nat :=
  2600 + (List.range 16).foldl (fun a p => a + (match (s.part p).boundPlan with | some l => l.plan.powerW | none => 0)) 0

/-- The hottest cluster reading, in 0.25 °C. -/
def State.hottest (s : State) : Nat := s.clusters.foldl (fun m x => Nat.max m (Nat.max x.2.t0 x.2.t1)) 0
/-- The same in whole °C, as replies tell it: rounded down (DESIGN CHOICE, notes/assumptions/114.md). -/
def State.hottestC (s : State) : Nat := s.hottest / 4

/-- The POWER.POLICY reply (R355). -/
def State.policyBytes (s : State) : Bytes :=
  let p := s.policy
  zeros 2 ++ toLe 2 p.capW ++ toLe 2 p.fMax ++ toLe 1 p.tBreath ++ zeros 1 ++ toLe 4 p.braceHold ++ toLe 4 p.resumeQuiet ++
  toLe 2 s.allowance ++ toLe 2 s.powerW ++ toLe 2 s.committedPower ++ toLe 1 s.hottestC

/-- A change of the breath allowance in force (R233, R352). -/
def State.setAllowance (s : State) (a : Nat) : State :=
  if a = s.allowance then s else ({ s with allowance := a } : State).eventAll evBreath

/-- The policy a set carries. -/
def Cmd.policy (c : Cmd) : Policy :=
  { capW := c.at 2 2, fMax := c.at 4 2, tBreath := c.at 6 1, braceHold := c.at 8 4, resumeQuiet := c.at 12 4 }

/-- Every field in its range (R355). -/
def Policy.ok (p : Policy) : Bool :=
  decide (3000 ≤ p.capW ∧ p.capW ≤ 23000) && decide (p.fMax ≤ 1024) && decide (70 ≤ p.tBreath ∧ p.tBreath ≤ 100) &&
  decide (p.braceHold ≤ 600000) && decide (20 ≤ p.resumeQuiet ∧ p.resumeQuiet ≤ 60000)

/-- R355: every field at once; a lowered f_max lowers the allowance. -/
def State.setPolicy (s : State) (p : Policy) : State :=
  ({ s with policy := p } : State).setAllowance (Nat.min s.allowance p.fMax)

/-- R355. -/
def execPowerPolicyRead (die : Die) (fn : Fn) (slot : Fin 32) (s : State) : Outcome :=
  .next (s.serve die.val fn.val slot.val
    { code := 0x50, need := fun c => if c.at 0 1 = 1 then 16 else 1, mine := picks 0 0 1, p0 := true, changes := false }
    fun t c => if 1 < c.at 0 1 then t.answer c stBadArg else t.answer c stOk t.policyBytes)

/-- R355. -/
def execPowerPolicySet (die : Die) (fn : Fn) (slot : Fin 32) (s : State) : Outcome :=
  .next (s.serve die.val fn.val slot.val
    { code := 0x50, need := fun c => if c.at 0 1 = 1 then 16 else 1, mine := picks 0 1 1, p0 := true }
    fun t c => if 1 < c.at 0 1 ∨ !c.policy.ok then t.answer c stBadArg
      else (t.setPolicy c.policy).answer c stOk (t.setPolicy c.policy).policyBytes)

/-- The POWER.IDLE reply (R335): status, park state in force, and its exit bound. -/
def State.idleBytes (s : State) (p : Nat) : Bytes :=
  let q := s.part p
  let (st, force) := match q.park with
    | .serving => (0, false)
    | .parking => (1, true)
    | .parked => (2, true)
    | .unparking => (3, true)
  let loads := match q.boundPlan with | some l => ceilDiv (2 * l.plan.residentTime) 1000 | none => 0
  toLe 1 st ++ toLe 1 (if force then q.parkTo.depth else 0) ++ zeros 2 ++
    toLe 4 (if force then (if q.parkTo = .c2 then 60 else 400) + loads else 0)

/-- R336: fetching stops at the reply; the clusters park once the entry queue is empty. A park while parked, or while
the clusters already enter, changes nothing. -/
def State.parkPart (s : State) (p : Nat) (aim : CState) : State :=
  let q := s.part p
  match q.park with
  | .parked => s
  | .parking => if q.queue.isEmpty then s else s.modPart p fun q => { q with parkTo := aim }
  | _ =>
    let s := s.modPart p fun q => { q with park := .parking, parkTo := aim }
    if q.idle then (s.enterAll q.cfg.clusters aim).parkDone p else s

/-- The checks of POWER.IDLE (R335). -/
def State.idleOp (s : State) (c : Cmd) (bad : Bool) (f : State → Nat → State) : State :=
  if 2 < c.at 1 1 ∨ bad ∨ (s.part c.named).cfg.w = 0 then s.answer c stBadArg
  else (f s c.named).answer c stOk ((f s c.named).idleBytes c.named)

/-- The row of a POWER.IDLE operation. -/
def idleRow (op : Nat) : CmdRow :=
  { code := 0x51, need := fun c => if c.at 1 1 = 1 then 3 else 2, mine := picks 1 op 2, named := true, changes := op != 0 }

/-- R335. -/
def execPowerIdleQuery (die : Die) (fn : Fn) (slot : Fin 32) (s : State) : Outcome :=
  .next (s.serve die.val fn.val slot.val (idleRow 0) fun t c => t.idleOp c false fun t _ => t)

/-- R336. -/
def execPowerIdlePark (die : Die) (fn : Fn) (slot : Fin 32) (s : State) : Outcome :=
  .next (s.serve die.val fn.val slot.val (idleRow 1) fun t c =>
    t.idleOp c (c.at 2 1 != 2 && c.at 2 1 != 3) fun t p => t.parkPart p (if c.at 2 1 = 2 then .c2 else .c3))

/-- R337. -/
def execPowerIdleUnpark (die : Die) (fn : Fn) (slot : Fin 32) (s : State) : Outcome :=
  .next (s.serve die.val fn.val slot.val (idleRow 2) fun t c => t.idleOp c false State.unpark)

/-! ## FAULT.LOG and SEIZE -/

/-- A fault record as bytes (Table 15.4). -/
def FaultRec.bytes (r : FaultRec) : Bytes :=
  leBytes 8 r.et ++ toLe 4 r.seq ++ leBytes 2 r.code ++ leBytes 1 r.part ++ zeros 1 ++ leBytes 2 r.cluster ++
  leBytes 2 r.core ++ leBytes 1 r.die ++ leBytes 1 r.puppeteer ++ zeros 2 ++ leBytes 8 r.detail

/-- Whether a record is for this window (R242, R399). -/
def logPick (fn filter : Nat) (r : FaultRec) : Bool :=
  if fn ≠ 0 then r.part.toNat == fn
  else if filter = 0xFF then true
  else if filter = 0xFE then r.part == 0xFF#8
  else r.part.toNat == filter

/-- The newest seq held (R399). -/
def State.newestSeq (s : State) : Nat := match s.faults.getLast? with | some r => r.seq | none => 0

/-- The report of a FAULT.LOG: the header, then the matching records in seq order (R399). -/
def State.logReport (s : State) (c : Cmd) : Bytes :=
  let recs := (s.faults.filter fun r => logPick c.fn (c.at 1 1) r).filter fun r => decide (c.at 0x18 4 ≤ r.seq % 4294967296)
  let oldest := match s.faults.head? with | some r => r.seq | none => 0
  toLe 4 0x474C464B ++ toLe 2 1 ++ zeros 2 ++ toLe 4 recs.length ++ toLe 4 oldest ++ toLe 4 s.newestSeq ++ toLe 4 s.faultsLost ++
    zeros 8 ++ recs.flatMap FaultRec.bytes

/-- R399: the report, then the final message. -/
def State.faultLog (s : State) (c : Cmd) (lost : Bool) : State :=
  let body := s.logReport c
  (s.report c.die (slice c.payload 8 16) body lost).acceptDone c stOk (toLe 4 body.length ++ toLe 4 s.newestSeq)

/-- The lease a SEIZE names, or none out of range (R383). -/
def Cmd.lease (c : Cmd) : Option (Nat × Nat) :=
  let k := c.at 0 1
  let d := c.at 1 1
  let i := c.at 2 2
  if k = 1 ∧ i < 768 ∨ k = 3 ∧ i < 128 ∨ k = 5 ∧ i < 1200 then some (k, i)
  else if k = 2 ∧ d < 16 ∧ i < 32 then some (2, 256 * d + i)
  else if k = 4 ∧ d < 4 ∧ i < 512 then some (4, 512 * d + i)
  else none

/-- R383: the seizure of R381 if the lease is held. -/
def State.seizeCmd (s : State) (c : Cmd) : State :=
  match c.lease with
  | none => s.answer c stBadArg
  | some (k, i) =>
    if k = 4 ∧ i = 512 * c.die + 32 * c.fn + c.slot then s.answer c stBadArg
    else
      let tag := s.lease k i
      (s.seize k i).acceptDone c stOk (leBytes 2 tag ++ toLe 1 (if tag = 0x0FFF#16 then 0 else 1))

/-- R399. -/
def execFaultLog (die : Die) (fn : Fn) (rep : Reporting (Fin 32)) (s : State) : Outcome :=
  .next (s.serve die.val fn.val rep.cmd.val { code := 0x70, need := fun _ => 0x1C, long := true, changes := false } fun t c =>
    t.faultLog c rep.lost)

/-- R383. -/
def execSeize (die : Die) (fn : Fn) (slot : Fin 32) (s : State) : Outcome :=
  .next (s.serve die.val fn.val slot.val { code := 0x71, need := fun _ => 4, p0 := true, long := true } State.seizeCmd)

end Sys2Proof.Machine
end

