-- ==== Sys2Proof/Machine/Serving.lean ====
section
/-!
DEFINITION. Serving requests (spec/10_serving_requests.md R252 to R269, spec/01_timing_contract.md R13 to R28): fetch,
classification, admission and queue order, ingress, START, END, egress and the completion record.
-/

namespace Sys2Proof.Machine

open Sys2Proof

/-! ## Fetching (R255, R269) -/

/-- Whether the engine fetches from a partition's rings: in E0, with no window, park, recovery, self-test or firmware
activation stopping it (R336, R377, R390, R392, R420). -/
def State.fetching (s : State) (p : Nat) : Bool :=
  let q := s.part p
  s.inE0 && s.exists p && q.cfg.w != 0 && s.maint == .closed && q.park == .serving && !q.fetchHold &&
  (match q.test with | some (.running _ _) => false | _ => true) &&
  (match s.fwJob with | some (.activate _ _) => false | _ => true)

/-- A descriptor (Table 10.2). -/
structure Desc where
  tag : BitVec 32
  cls : BitVec 16
  deadline : Nat
  inAddr : Nat
  inLen : Nat
  outAddr : Nat
  outLen : Nat
  clean : Bool
  deriving DecidableEq, Repr

/-- Reading a descriptor; `clean` when its reserved bytes are zero. -/
def parseDesc (b : Bytes) : Desc :=
  { tag := BitVec.ofNat 32 (field b 0 4), cls := BitVec.ofNat 16 (field b 4 2), deadline := field b 8 8
    inAddr := field b 0x10 8, inLen := field b 0x18 4, outAddr := field b 0x20 8, outLen := field b 0x28 4
    clean := field b 6 2 == 0 && field b 0x1C 4 == 0 && field b 0x2C 20 == 0 }

/-! ## Classification (R260 to R262) -/

/-- Whether a rule matches (R261). -/
def ruleMatches (v : BitVec 64) (p : Nat) (cls : BitVec 16) : Bool :=
  v.getLsbD 31 && bitsOf v.toNat 23 20 == p &&
    (cls &&& v.extractLsb' 32 16) == (v.extractLsb' 48 16 &&& v.extractLsb' 32 16)

/-- Priority of a rule. -/
def rulePrio (v : BitVec 64) : Nat := bitsOf v.toNat 26 24

/-- The matching rules of a host die in index order. -/
def State.matching (s : State) (h p : Nat) (cls : BitVec 16) : List (BitVec 64) :=
  (s.rules.filter fun x => x.1 / 256 == h && ruleMatches x.2 p cls).map (·.2)

/-- The matching rules of the highest priority. -/
def topRules (l : List (BitVec 64)) : List (BitVec 64) :=
  l.filter fun v => l.all fun w => decide (rulePrio w ≤ rulePrio v)

/-! ## Planned ENDs and placement (R266, R267) -/


/-- The planned END of a request that runs or has ended: START + P + B + the ticks it was held, or its END. None if it
ends without one. -/
def PartState.plannedHead (q : PartState) (r : Request) : Option Nat :=
  match r.endAt with
  | some e => some e.toNat
  | none =>
    if r.stage = .running then
      r.startAt.map fun t => t.toNat + r.p + r.b + ceilDiv ((q.run.map (·.held)).getD 0) 8
    else none

/-- The planned END of a waiting request behind one whose planned END is `ahead`. -/
def Request.planned (r : Request) (ahead : Nat) : Nat := Nat.max (r.fetch + r.i) ahead + r.p + r.b

/-- The planned ENDs of waiting requests in order. -/
def plannedEnds (ahead : Nat) (l : List Request) : List (Request × Nat) :=
  match l with
  | [] => []
  | r :: t => (r, r.planned ahead) :: plannedEnds (r.planned ahead) t

/-- Every promise of a list behind `ahead` is kept. -/
def keeps (ahead : Nat) (l : List Request) : Bool := (plannedEnds ahead l).all fun x => decide (x.2 ≤ x.1.promisedEnd)

/-- The latest planned END of the requests that no longer wait: what the first waiting one follows. -/
def PartState.headEnd (q : PartState) : Nat :=
  (q.queue.filter fun r => !r.waits).foldl (fun m r => Nat.max m ((q.plannedHead r).getD 0)) 0

/-- R267 steps 1 and 2: the frontmost place, counted among the waiting requests from `i` on, at which x goes ahead of
lower priorities only and every promise behind it is kept; else the tail. -/
def place (x : Request) (ahead : Nat) (i : Nat) (l : List Request) : Nat :=
  match l with
  | [] => i
  | r :: t =>
    if (r :: t).all (fun y => decide (y.prio < x.prio)) && keeps (x.planned ahead) (r :: t) then i
    else place x (r.planned ahead) (i + 1) t

/-- Q of R17: the latest of the promised and planned ENDs of the requests ahead; FETCH if there are none. -/
def PartState.qOf (q : PartState) (n fetch : Nat) : Nat :=
  let heads := q.queue.filterMap fun r => if r.waits then none else some (Nat.max ((q.plannedHead r).getD 0) r.promisedEnd)
  let waits := ((plannedEnds q.headEnd (q.queue.filter (·.waits))).take n).map fun x => Nat.max x.1.promisedEnd x.2
  match heads ++ waits with
  | [] => fetch
  | l => l.foldl Nat.max 0

/-- Insertion before the n-th waiting request. -/
def insertWaiting (x : Request) (n : Nat) (l : List Request) : List Request :=
  match l with
  | [] => [x]
  | r :: t => if r.waits then (match n with | 0 => x :: r :: t | k + 1 => r :: insertWaiting x k t) else r :: insertWaiting x n t

/-- The lowest buffer pair that no request of the queue holds (R263). -/
def freePair (l : List Request) (d : Nat) : Nat := ((List.range d).find? fun b => !l.any fun r => r.pair == b).getD d

/-! ## Admission (R17, R268) -/

/-- Why a descriptor is shed, by the count it adds to. -/
inductive Shed where
  | deadline
  | bound
  | unmatched
  | other
  deriving DecidableEq, Repr

/-- Counting a shed (R268). -/
def Stats.shed (t : Stats) (w : Shed) : Stats :=
  match w with
  | .deadline => { t with shedDeadline := sat32 t.shedDeadline }
  | .bound => { t with shedBound := sat32 t.shedBound }
  | .unmatched => { t with shedUnmatched := sat32 t.shedUnmatched }
  | .other => { t with shedOther := sat32 t.shedOther }

/-- I or E of S bytes (R15). -/
def hostBound (q size : Nat) : Nat := 250 + (if q = 0 then Config.boundAtZeroShare size else ceilDiv size q)

/-- Admission is stopped: ENGINE.STANDBY drains, or a forced CAL.RUN quiesces (R246, R394). -/
def State.stopped (s : State) : Bool := s.draining || s.quiescing

/-- The request a descriptor asks for, or why it is shed before its place is sought. -/
def State.candidate (s : State) (h p ring : Nat) (d : Desc) : Except Shed Request :=
  let q := s.part p
  if s.stopped then .error .other
  else match (topRules (s.matching h p d.cls)).head? with
    | none => .error .unmatched
    | some v => match q.boundPlan, q.qcfg with
      | some l, some k =>
        let e := bitsOf v.toNat 5 0
        match l.plan.entries[e]? with
        | none => .error .other
        | some en =>
          let pp := ceilDiv en.n 8
          let b := ceilDiv (pp * s.allowance) 1024
          let pair := freePair q.queue k.d
          let base := k.off + pair * 4096 * (k.sIn + k.sOut)
          if !l.verified || q.changeover || decide (4096 * k.sIn < en.sIn) || decide (4096 * k.sOut < en.sOut) ||
              d.inLen == 0 || decide (en.sIn < d.inLen) || decide (d.outLen < en.sOut) || d.inAddr % 64 != 0 ||
              d.outAddr % 64 != 0 || !d.clean || q.groups.any (fun g => q.names g.2 e && !g.2.joined) then .error .other
          else .ok
            { id := s.nextReq, die := Fin.ofNat 4 h, fn := Fin.ofNat 16 p, ring := Fin.ofNat 7 ring, tag := d.tag, entry := e
              prio := rulePrio v, deadline := d.deadline, inLen := d.inLen, outAddr := d.outAddr, outLen := en.sOut
              fetch := s.tick, p := pp, b := b, i := hostBound q.cfg.q en.sIn, e := hostBound q.cfg.q en.sOut
              promisedEnd := 0, promise := 0, pair := pair, inBase := base, outBase := base + 4096 * k.sIn }
      | _, _ => .error .other

/-- R267 steps 3 and 4: the place, the promise, and admission or the reason of the shed. -/
def PartState.decide (q : PartState) (x : Request) : Except Shed (Nat × Request) :=
  let n := place x q.headEnd 0 (q.queue.filter (·.waits))
  let pe := Nat.max (x.fetch + x.i) (q.qOf n x.fetch) + x.p + x.b
  let x := { x with promisedEnd := pe, promise := pe + x.e }
  if x.deadline < x.promise then .error .deadline
  else if (match q.qcfg with | some k => k.d | none => 0) ≤ q.queue.length then .error .bound
  else .ok (n, x)

/-- A shed: the count, and a completion with fetch and done only (R268). -/
def State.shed (s : State) (h p ring : Nat) (d : Desc) (w : Shed) : State :=
  let s := s.modPart p fun q => { q with stats := q.stats.shed w }
  let c : Compl :=
    { ring := Fin.ofNat 7 ring, tag := d.tag, fetch := s.et, status := BitVec.ofNat 8 stShed
      flags := { elastic := (s.part p).elastic }, reason := 0, part := Fin.ofNat 16 p }
  s.modWindow h p fun w => { w with compl := w.compl ++ [c] }

/-- Admission: the request takes its place, and clusters at rest in C1 begin their exit (R334); those of a partition that
breathes stay in C1 until the switch (R354). -/
def State.letIn (s : State) (p n : Nat) (x : Request) : State :=
  let s := s.modPart p fun q =>
    let l := insertWaiting x n q.queue
    { q with queue := l, stats := { q.stats with admitted := sat64 q.stats.admitted, most := Nat.max q.stats.most l.length } }
  let s : State := { s with nextReq := s.nextReq + 1 }
  if (s.part p).run.any (·.breathing.isSome) then s else s.wakeAll (s.partClusters p) .c0

/-- R17, R252 to R268: the engine takes the descriptor at the ring's head. -/
def State.fetchDesc (s : State) (h p ring : Nat) (b : Bytes) : State :=
  let d := parseDesc b
  let s := s.modWindow h p fun w => w.modRing ring fun r => { r with sqHead := r.sqHead + 1, openReqs := r.openReqs + 1 }
  let s := if 1 < (topRules (s.matching h p d.cls)).length then
      { s with ambig := smod 0#32 (16 * h + p) (satAdd · 1) s.ambig } else s
  match s.candidate h p ring d with
  | .error w => s.shed h p ring d w
  | .ok x => match (s.part p).decide x with
    | .error w => s.shed h p ring d w
    | .ok (n, x) => s.letIn p n x

/-- Whether a ring has a descriptor to fetch. -/
def Ring.hasWork (r : Ring) : Bool := r.enable && r.sqHead != r.sqTail

/-- A ring from which the engine may fetch a descriptor now. -/
def State.mayFetch (s : State) (h f r : Nat) : Bool :=
  s.fetching f && s.isOpen h f && ((s.window h f).ring r).hasWork

/-- The rings of a host die take turns, one descriptor from each in a turn (R255): a ring that has been served in this turn
waits until every other one with work has been. -/
def State.turnOf (s : State) (h f r : Nat) : Bool :=
  let served := sget [] s.fetchTurn h
  !served.contains (7 * f + r) || (List.range 112).all fun i => served.contains i || !s.mayFetch h (i / 7) (i % 7)

/-- The turn goes on, or the next one begins with this ring. -/
def State.tookTurn (s : State) (h f r : Nat) : State :=
  let served := sget [] s.fetchTurn h
  { s with fetchTurn := sput [] h (if served.contains (7 * f + r) then [7 * f + r] else served ++ [7 * f + r]) s.fetchTurn }

/-- The queue owner takes FETCHes of one tick in host-die order (R265). -/
def PartState.dieOrder (q : PartState) (tick h : Nat) : Bool :=
  match q.lastFetch with | some (t, d) => t != tick || Decidable.decide (d ≤ h) | none => true

/-- R17, R255, R265: FETCH. -/
def execFetch (die : Die) (fn : Fn) (ring : Fin 7) (desc : Bytes) (s : State) : Outcome :=
  let h := die.val
  let p := fn.val
  .next (if s.mayFetch h p ring.val && s.turnOf h p ring.val && (s.part p).dieOrder s.tick h then
    ((s.tookTurn h p ring.val).modPart p fun q => { q with lastFetch := some (s.tick, h) }).fetchDesc h p ring.val desc
  else s)

/-! ## Ingress -/

/-- The entry of a request in the bound plan. -/
def PartState.entryOf (q : PartState) (r : Request) : Option Entry := q.boundPlan.bind fun l => l.plan.entries[r.entry]?

/-- R264: the input and zero padding to S_in in the input buffer; the last byte is READY. A PLAN.LOAD that has come since may
have made an image range of those bytes (R176): they are written all the same, and no violation counts, for the write is
the engine's own, to the buffer it gave the request (DESIGN CHOICE, notes/assumptions/105.md). -/
def State.landInput (s : State) (p : Nat) (r : Request) (input : Bytes) : State :=
  let q := s.part p
  let sIn := match q.entryOf r with | some e => e.sIn | none => r.inLen
  let s : State := { s with hbm := relWrite q.cfg r.inBase (padTo sIn (padTo r.inLen input)) s.hbm }
  s.modReq p r.id fun x => { x with stage := .ready, readyAt := some s.et }

/-- R264. -/
def execReady (part : Part) (req : Nat) (input : Bytes) (s : State) : Outcome :=
  .next (match (s.part part.val).req? req with
    | some r => if r.stage == .ingress && decide (s.tick ≤ r.fetch + r.i) && s.inE0 then s.landInput part.val r input else s
    | none => s)

/-- R26: RETRY, HOST_LATE; the place and the buffer pair are free at once. -/
def State.ingressLate (s : State) (p : Nat) (r : Request) : State :=
  let c : Compl :=
    { ring := r.ring, tag := r.tag, fetch := BitVec.ofNat 64 r.fetch, status := BitVec.ofNat 8 stRetry
      flags := { r.flags with elastic := (s.part p).elastic }, reason := BitVec.ofNat 8 rsHostLate, part := Fin.ofNat 16 p
      admitted := true }
  let s := if r.discard then s.discarded c
    else s.modWindow r.die.val r.fn.val fun w => { w with compl := w.compl ++ [c] }
  s.dequeue p r.id

/-- R26. -/
def execIngressTimeout (part : Part) (req : Nat) (s : State) : Outcome :=
  .next (match (s.part part.val).req? req with
    | some r => if r.stage == .ingress && decide (r.fetch + r.i ≤ s.tick) then s.ingressLate part.val r else s
    | none => s)

/-! ## START and END -/

/-- The clusters that run a load's slot ganged: the gang flags of the load that last filled the slot (R140, R171). -/
def Plan.gangs (pl : Plan) (slot : Fin 4) (loads : List Nat) (i : Nat) : Bool :=
  let last := (loads.filterMap fun k => pl.loads[k]?).reverse.find? fun l => l.slot == slot
  let ld := match last with
    | some l => some l
    | none => pl.loads.reverse.find? fun l => l.resident && l.slot == slot
  match ld.bind fun l => l.blocks[i]? with
  | some b => b.gang
  | none => false

/-- Setting the gang attribute of every cluster for a layer. -/
def State.setGang (s : State) (p : Nat) (pl : Plan) (slot : Fin 4) (loads : List Nat) : State :=
  s.each (s.partClusters p) fun t c => t.modCluster c fun k =>
    { k with ganged := pl.gangs slot loads (pl.clusterIndex c), gangPt := 0, gang := [], haltSeen := [] }

/-- A START may be taken: E0, a TCLK edge, every cluster of the partition in C0 (R14, R331), and no retime that holds a
request of a group entry (R310). -/
def State.canStart (s : State) (p : Nat) (r : Request) : Bool :=
  s.inE0 && s.wafer && s.onEdge && !(s.retimeWanted && (s.part p).grouped r.entry) &&
    (s.partClusters p).all fun c => (s.cluster c).at .c0

/-- Late flags of R22: the run ahead delayed this START if the request was ready when that run ended. -/
def Request.startFlags (r : Request) : Flags :=
  match r.delay with
  | some (ended, f) => if (match r.readyAt with | some t => decide (t.toNat < ended) | none => false) then r.flags.or f else r.flags
  | none => r.flags

/-- A held cell belongs to a group that names a run's entry. -/
def PartState.heldFor (q : PartState) (p entry d k : Nat) (o : Port) (x : RxCell) : Bool :=
  q.groups.any fun g => q.names g.2 entry && g.2.takes o p d k x

/-- A scheduled cell that was sent again waits for the request of a tag (R325). -/
def State.resentFor (s : State) (p entry : Nat) (tag : BitVec 32) : Bool :=
  s.links.any fun l => l.2.ports.any fun o => o.2.held.any fun x =>
    x.cell.retrans && !x.bulk && x.cell.tag == tag && (s.part p).heldFor p entry l.1 o.1 o.2 x

/-- R80: every core of the partition reset but for its scratchpad and slots; word 0 of the first layer issues now. Cells
of its groups with another tag are discarded (R314), and one with its tag that was sent again marks the run (R325). -/
def State.startRun (s : State) (p : Nat) (r : Request) (l : Loaded) (e : Entry) (first : Layer) : State :=
  let handle := ((s.part p).bound).getD 0
  let s := s.each (s.partCores p) fun t n => t.modCore n fun k => k.startReset first.slot first.guarded
  let cls := s.partClusters p
  let s := s.setGang p l.plan first.slot []
  let s : State := { s with flights := s.flights.filter (fun f => !cls.contains f.cl.val)
                            credits := s.credits.filter (fun f => !cls.contains f.cl.val)
                            coreEvents := s.coreEvents.filter (fun f => !cls.contains f.1.val) }
  let s := s.each (s.part p).cfg.granules fun t g => t.grant 1 g (ownerTag p (0xF80 + granuleStack g))
  let run : Run :=
    { req := r.id, handle := handle, entry := r.entry, layer := e.first, layerAt := s.now
      flags := { linkRetry := s.resentFor p r.entry r.tag }
      loads := match first.load with | some k => [(k, false)] | none => [] }
  let s := s.modPart p fun q => { q with run := some run }
  let s := s.modReq p r.id fun x => { x with stage := .running, startAt := some s.et, flags := x.startFlags }
  s.keepHeld fun d k o x => !(x.cell.tag != r.tag && (s.part p).heldFor p r.entry d k o x)

/-- R14, R80: START. -/
def execStart (part : Part) (s : State) : Outcome :=
  let q := s.part part.val
  .next (match q.next?, q.boundPlan with
    | some r, some l => match l.plan.entries[r.entry]? with
      | some e => match l.plan.layers[e.first]? with
        | some first => if s.canStart part.val r then s.startRun part.val r l e first else s
        | none => s
      | none => s
    | _, _ => s)

/-- The last layer of the run's entry has ended. -/
def PartState.runEnded (q : PartState) (run : Run) : Bool :=
  match (sfind? q.plans run.handle).bind fun l => l.plan.entries[run.entry]? with
  | some e => run.layerEnd.isSome && run.layer + 1 == e.first + e.count
  | none => false

/-- The run is complete: its leases go, a load still in progress is abandoned, egress begins (R14, R188, R264). -/
def State.endOfRun (s : State) (p : Nat) (run : Run) : State :=
  let s := s.abandonLoads p run
  let s := s.releasePart p [1, 2, 3]
  let s := s.each (s.partCores p) fun t n => t.modCore n fun k => { k with active := false }
  let s := s.each (s.partClusters p) fun t c => t.modCluster c fun k => { k with ganged := false, gang := [], haltSeen := [] }
  let s := s.modPart p fun q => { q with run := none }
  let s := s.modReq p run.req fun x =>
    { x with stage := .egress, endAt := some s.et, flags := x.flags.or run.flags }
  let s := match (s.part p).req? run.req with
    | some r => s.markDelay p (decide (r.promisedEnd < s.tick)) r.flags
    | none => s
  s.afterRun p

/-- R14: END, on the TCLK edge at or after the end of the last layer. -/
def execEndRun (part : Part) (s : State) : Outcome :=
  let q := s.part part.val
  .next (match q.run with
    | some run =>
      if q.runEnded run && s.onEdge && run.stop.isNone && (match run.layerEnd with | some t => decide (t ≤ s.now) | none => false)
      then s.endOfRun part.val run else s
    | none => s)

/-! ## Egress and completion -/

/-- R264: S_out bytes of the output buffer to out_addr. -/
def State.egress (s : State) (p : Nat) (r : Request) : State :=
  (s.hostWrite r.die.val r.outAddr (s.relRead (s.part p).cfg r.outBase r.outLen)).close p r stOk 0 r.flags

/-- R276: a double-bit error in egress. The bytes written before it have no meaning: free values. -/
def State.egressFault (s : State) (p : Nat) (r : Request) (line : Nat) : State :=
  let t := s.hostWrite r.die.val r.outAddr (s.freeBytes r.outLen)
  let t : State := { t with freeCount := t.freeCount + r.outLen }
  ((t.close p r stFaulted 0 r.flags).faulted p).hbmDouble (some p) line 2

/-- R264, R276. -/
def execEgressComplete (part : Part) (req : Nat) (double : Found (Option Nat)) (s : State) : Outcome :=
  .next (match (s.part part.val).req? req with
    | some r =>
      if r.stage == .egress && s.supply == .up then
        let s := s.hbmSingles (s.part part.val).cfg.granules double.singles
        match double.res with
        | none => s.egress part.val r
        | some l => s.egressFault part.val r l
      else s
    | none => s)

/-- The offset of an instant after FETCH (R29, R258). -/
def Compl.offset (c : Compl) (t : Option (BitVec 64)) : Nat :=
  match t with
  | some x => Nat.min (x.toNat - c.fetch.toNat) 0xFFFFFFFF
  | none => 0

/-- A completion record (Table 10.3). -/
def Compl.bytes (c : Compl) (et : BitVec 64) (reason : Nat) (phase : Bool) : Bytes :=
  leBytes 8 c.fetch ++ toLe 4 (c.offset c.ready) ++ toLe 4 (c.offset c.start) ++ toLe 4 (c.offset c.endAt) ++
  toLe 4 (c.offset (some et)) ++ leBytes 4 c.tag ++ leBytes 1 c.status ++ toLe 1 c.flags.byte ++ toLe 1 reason ++
  toLe 1 (bit phase 7 + c.ring.val)

/-- The record into its ring, the tail, the vector, and the counts (R259, R271). -/
def State.writeRecord (s : State) (h f : Nat) (c : Compl) : State :=
  let r := (s.window h f).ring c.ring.val
  let p := c.part.val
  let reason := c.finalReason s.tick (s.part p).braced
  let slot := r.cqTail.toNat % 2 ^ r.cqLog2.toNat
  let phase := r.cqTail.toNat / 2 ^ r.cqLog2.toNat % 2 == 0
  let s := s.hostWrite h (r.cqBase.toNat + 32 * slot) (c.bytes s.et reason phase)
  let s := s.modWindow h f fun w =>
    let w := { w with compl := w.compl.erase c }
    let w := w.modRing c.ring.val fun r => { r with cqTail := r.cqTail + 1, openReqs := r.openReqs - 1 }
    if r.irqEn then w.signal (c.ring.val + 1) else w
  if s.taken p then
    let s := s.modPart p fun q =>
      { q with stats := q.stats.done c.status c.flags (c.kept reason)
               braced := q.braced && reason != rsBraced }
    match c.req with
    | some id => s.dequeue p id
    | none => s.emptied p
  else s

/-- R259: the oldest record of a ring, once the ring has a place. -/
def execCompletionWrite (die : Die) (fn : Fn) (ring : Fin 7) (s : State) : Outcome :=
  let w := s.window die.val fn.val
  let r := w.ring ring.val
  .next (match w.compl.find? fun c => c.ring == ring with
    | some c =>
      if s.supply == .up && s.estate != .e2 && decide (diff16 r.cqTail r.cqHead < 2 ^ r.cqLog2.toNat) then
        s.writeRecord die.val fn.val c
      else s
    | none => s)

end Sys2Proof.Machine
end

