-- ==== Sys2Proof/Machine/Strings.lean ====
section
/-!
DEFINITION. The strings (spec/05_fabric.md R130 to R139), slot switches and reloads (spec/07_plans_and_scan.md R182 to
R189, spec/03_core.md R81), and the scan ring's frames (R190, R191, spec/15_faults_and_selftest.md R382). The bodies of
firmware frames are no part of the interface (R132).
-/

namespace Sys2Proof.Machine

open Sys2Proof

/-! ## Routes (R48, R130, R136) -/

/-- The steps a frame at a node may take towards a cluster: east or west, then north or south. -/
def stepsTo (c d : Nat) : List (Dir × Nat) :=
  (if clX c < clX d then [(Dir.e, c + 1)] else if clX d < clX c then [(Dir.w, c - 1)] else []) ++
  (if clY c < clY d then [(Dir.s, c + 40)] else if clY d < clY c then [(Dir.n, c - 40)] else [])

/-- The node at which a unicast frame that stands at a node is dropped on its way to a cluster, if it is: each node sends it
east or west first, north or south where that link is disabled, and drops it where neither way is open (R130, R136). The
header says nothing of a turn taken before (Table 5.5), so every node decides so (notes/assumptions/104.md). -/
def State.lostFrom (fuel : Nat) (s : State) (c d : Nat) : Option Nat :=
  match fuel with
  | 0 => none
  | n + 1 =>
    if c = d then none
    else match (stepsTo c d).find? fun x => (s.meshEn c).getLsbD (dirNum x.1) with
      | some x => State.lostFrom n s x.2 d
      | none => some c

/-- The same for a frame from its sender: a Puppeteer's enters through the attachment of its host die. -/
def State.lostTo (s : State) (src : Src) (d : Nat) : Option Nat :=
  match src with
  | .cluster c => s.lostFrom 80 c.val d
  | .pup p =>
    let a := s.attach (p.val / 4)
    if (s.meshEn a).getLsbD (dirNum (dieDir (p.val / 4))) then s.lostFrom 80 a d else some a

/-- And for a frame from a cluster to a Puppeteer of a host die. -/
def State.lostToDie (s : State) (c h : Nat) : Option Nat :=
  let a := s.attach h
  match s.lostFrom 80 c a with
  | some n => some n
  | none => if (s.meshEn a).getLsbD (dirNum (dieDir h)) then none else some a

/-- A frame from a cluster to a sender of frames. -/
def State.lostBack (s : State) (c : Nat) (to_ : Src) : Option Nat :=
  match to_ with
  | .cluster d => s.lostFrom 80 c d.val
  | .pup p => s.lostToDie c (p.val / 4)

/-! ## Delivery (R131, R133, R137) -/

/-- The source may send to the nodes of a partition: a Puppeteer, or a node of the partition (R133). -/
def State.fromPart (s : State) (src : Src) (p : Part) : Bool :=
  match src with
  | .pup _ => true
  | .cluster c => let k := s.cluster c.val; k.assigned && k.partition == p

/-- A node delivers a unicast frame that has reached it (R133). -/
def State.delivers (s : State) (src : Src) (d : Nat) : Bool :=
  match src with
  | .pup _ => true
  | .cluster _ => (s.cluster d).assigned && s.fromPart src (s.cluster d).partition

/-- A frame at every cluster that takes it: a unicast frame at its destination, unless it is dropped and counted on its way
or there; a broadcast at every node of the target partition. Nothing runs the strings without supply. -/
def State.frame (s : State) (h : Hdr) (act : State → Nat → State) : State :=
  if s.supply != .up then s
  else match h.dest with
    | .cluster d => match s.lostTo h.src d.val with
      | some n => s.modCluster n Cluster.drop
      | none => if s.delivers h.src d.val then act s d.val else s.modCluster d.val Cluster.drop
    | .part p =>
      if s.fromPart h.src p then
        s.each ((s.clusters.filter fun x => x.2.assigned && x.2.partition == p).map (·.1)) act
      else s

/-- A frame for a cluster's node or Marionette (Table 5.5, target 0x1FF). -/
def forNode (h : Hdr) : Bool := h.target == 0x1FF#9

/-- The physical cores a target names (Table 5.5). -/
def targetCores (t : Nat) : List Nat := if t < 272 then [t] else if t = 0x1FE then List.range 272 else []

/-- The cores of a cluster that a frame is for: those of its target, and for SLOT_DATA the logical cores of its masks among
them (R186). -/
def State.coresFor (s : State) (c : Nat) (h : Hdr) (f : CoreFrame) : List Nat :=
  let l := targetCores h.target.toNat
  match f with
  | .slotData _ _ rows cols _ => l.filter fun n => match (s.cluster c).logical n with
      | some lc => rows.getLsbD (lc / 16) && cols.getLsbD (lc % 16)
      | none => false
  | _ => l

/-! ## Registers (R87 to R89, R139) -/

/-- A register is the node's or the cluster's rather than a core's. -/
def nodeReg (r : StrReg) : Bool :=
  match r with
  | .clRepairMap => true
  | .nodeCfg => true
  | .strErr => true
  | .violCount => true
  | _ => false

/-- A core register's value. -/
def Core.readReg (k : Core) (r : StrReg) : Nat :=
  match r with
  | .coSet i => (k.reg i.toNat).toNat
  | .coStatus => k.status
  | .coSlipRange => k.slipRange.toNat
  | .coSlipQueue => k.slipQueue.toNat
  | .coSlipHolds => k.slipHolds.toNat
  | .coEccCe => k.eccCe.toNat
  | .coEccUeAddr => k.eccUe.toNat
  | .coFence => k.fence.toNat
  | .coQmax => k.qmaxReg
  | _ => 0

/-- A node or cluster register's value. -/
def State.readNode (s : State) (c : Nat) (r : StrReg) : Nat :=
  let k := s.cluster c
  match r with
  | .clRepairMap => k.repairMap
  | .nodeCfg => s.nodeCfg c
  | .strErr => k.strErr
  | .violCount => k.violCount.toNat
  | _ => 0

/-- Sending a REG_REPLY. -/
def State.sendReply (s : State) (c : Nat) (h : Hdr) (r : StrReg) (v : Nat) : State :=
  { s with regReplies := s.regReplies ++ [(toCl c, h, r, BitVec.ofNat 128 v)] }

/-- A write of a core register: RW registers and CO_FENCE, which only firmware writes (Table 5.8). -/
def Core.writeReg (k : Core) (r : StrReg) (v : BitVec 64) : Core :=
  match r with
  | .coSet i => k.setReg i.toNat (v.setWidth 40)
  | .coFence => { k with fence := v.setWidth 4 }
  | _ => k

/-- A write of STR_NODE_CFG; a link that the node does not have stays out of service. -/
def Cluster.writeCfg (k : Cluster) (v : BitVec 64) : Cluster :=
  { k with assigned := v.getLsbD 8, partition := Fin.ofNat 16 (bitsOf v.toNat 7 4), linksOff := ~~~(v.setWidth 4) }

/-- Slot words from a place on, to word 511 at most. -/
def writeWords (l : List (BitVec 64)) (w : Nat) (m : SMap (BitVec 64)) : SMap (BitVec 64) :=
  match l with
  | [] => m
  | v :: r => if w < 512 then writeWords r (w + 1) (sput 0#64 w v m) else m

/-- Words for a slot of a core; the active slot is never written (R71). -/
def Core.writeSlot (k : Core) (slot first : Nat) (words : List (BitVec 64)) : Core :=
  if k.active && k.slot.val == slot then k
  else { k with slots := smod {} slot (fun o => { o with words := writeWords words first o.words }) k.slots }

/-- The command in a SLOT_SWITCH frame's payload (R184). -/
def switchCmd (flits : List (BitVec 16)) : Fin 4 × Bool × BitVec 48 :=
  let f (i : Nat) : BitVec 16 := flits.getD i 0
  (Fin.ofNat 4 ((f 0).toNat % 4), (f 0).getLsbD 2, f 3 ++ f 2 ++ f 1)

/-- A frame reaches one core. -/
def State.coreGets (s : State) (c n : Nat) (h : Hdr) (f : CoreFrame) : State :=
  let i := 272 * c + n
  match f with
  | .regRead r => s.sendReply c h r ((s.coreAt i).readReg r)
  | .regWrite r v => s.modCore i (·.writeReg r v)
  | .slotData slot first _ _ words => s.modCore i (·.writeSlot slot.val first words)
  | .slotSwitch flits => s.modCore i fun k => { k with cmd := some (switchCmd flits) }
  | .other => s

/-- A frame reaches the cores it is for. -/
def State.coresGet (s : State) (c : Nat) (h : Hdr) (f : CoreFrame) : State :=
  s.each (s.coresFor c h f) fun t n => t.coreGets c n h f

/-- The clusters of a partition that breathes stay in C1 (R354). -/
def State.breathes (s : State) (c : Nat) : Bool := match s.runAt c with | some (_, r) => r.breathing.isSome | none => false

/-- NO_TARGET for each core that a frame is for (R137). -/
def State.refuseRow (s : State) (c : Nat) (h : Hdr) (f : CoreFrame) : State :=
  { s with noTargets := s.noTargets ++ (s.coresFor c h f).map fun n => (toCl c, h.src, BitVec.ofNat 9 n) }

/-- A frame for cores at the row nodes of a cluster: discarded while the region is in C2 or C3, with NO_TARGET for each core
it is for (R137, R345); waiting, with a wake, while the cluster is in C1 or on its way out (R344). -/
def State.toCores (s : State) (c : Nat) (h : Hdr) (f : CoreFrame) : State :=
  let k := s.cluster c
  if k.noTarget then s.refuseRow c h f
  else if k.at .c0 then s.coresGet c h f
  else
    let s := s.modCluster c fun k => { k with rowWait := k.rowWait ++ [(h, f)] }
    if s.breathes c then s else s.modCluster c (·.wake .c0)

/-- The frames that waited reach their cores. -/
def State.rowsGo (s : State) (c : Nat) : State :=
  let l := (s.cluster c).rowWait
  (s.modCluster c fun k => { k with rowWait := [] }).each l fun t x => t.coresGet c x.1 x.2

/-- The frames that waited at a cluster that goes to C2 or C3 instead get the answer of R345. -/
def State.rowsRefused (s : State) (c : Nat) : State :=
  let l := (s.cluster c).rowWait
  (s.modCluster c fun k => { k with rowWait := [] }).each l fun t x => t.refuseRow c x.1 x.2

/-- A frame that means something to a Marionette or node only: for cores it means nothing. -/
def State.toNode (s : State) (c : Nat) (h : Hdr) (act : State → State) : State :=
  if forNode h then act s else s.toCores c h .other

/-- R131: a reply for each core or node that the frame reads. -/
def execRegRead (hdr : Hdr) (reg : StrReg) (s : State) : Outcome :=
  .next (s.frame hdr fun t c =>
    if nodeReg reg then t.toNode c hdr fun t => t.sendReply c hdr reg (t.readNode c reg)
    else if forNode hdr then t else t.toCores c hdr (.regRead reg))

/-- R131. -/
def execRegWrite (hdr : Hdr) (reg : StrReg) (val : BitVec 64) (s : State) : Outcome :=
  .next (s.frame hdr fun t c =>
    if nodeReg reg then t.toNode c hdr fun t => if reg = .nodeCfg then t.modCluster c (·.writeCfg val) else t
    else if forNode hdr then t else t.toCores c hdr (.regWrite reg val))

/-- R131: the oldest reply to a read with this header reaches its reader, or is dropped on its way. -/
def execRegReply (hdr : Hdr) (reg : StrReg) (s : State) : Outcome :=
  .next (match s.regReplies.find? fun x => x.2.1 == hdr && x.2.2.1 == reg with
    | some x =>
      let t : State := { s with regReplies := s.regReplies.erase x }
      match s.lostBack x.1.val hdr.src with
      | some n => t.modCluster n Cluster.drop
      | none => t
    | none => s)

/-! ## Slot loads (R186) and image stores (R177) -/

/-- R186: the words go into the logical cores of the masks. -/
def execSlotData (hdr : Hdr) (slot : Fin 4) (first : Nat) (rows : BitVec 16) (cols : BitVec 16) (words : List (BitVec 64))
    (s : State) : Outcome :=
  .next (s.frame hdr fun t c => if forNode hdr then t else t.toCores c hdr (.slotData slot first rows cols words))

/-- Words for a place of an image store that no loaded plan owns (R177). -/
def Cluster.storeData (k : Cluster) (place first : Nat) (words : List (BitVec 64)) : Cluster :=
  if (sfind? k.store place).isSome then k
  else { k with fill := (words.zipIdx.filter fun x => first + x.2 < 512).foldl (fun m x => sput 0#64 (512 * place + first + x.2) x.1 m) k.fill }

/-- R177: the frame ends at the Marionette, whatever its target. -/
def execStoreData (hdr : Hdr) (place : Fin 16) (first : Nat) (words : List (BitVec 64)) (s : State) : Outcome :=
  .next (s.frame hdr fun t c => t.modCluster c (·.storeData place.val first words))

/-! ## Firmware frames, core events, violations -/

/-- R131: a firmware message means nothing to the engine's architecture. -/
def execFwMsg (hdr : Hdr) (s : State) : Outcome := .next (s.frame hdr fun t c => t.toNode c hdr fun u => u)

/-- A cluster's halt report at its leader (R182), once all of its cores have halted: it carries the CCLK of the last halt. -/
def State.haltReport (s : State) (h : Hdr) (d : Nat) : State :=
  match h.src with
  | .pup _ => s
  | .cluster c =>
    match s.runAt c.val with
    | none => s
    | some (p, _) =>
      let r := (s.part p).cfg
      let k := s.cluster c.val
      if d == rectLeader r.x0 r.y0 r.w r.h && k.haltSeen.length == 256 then
        (s.modPart p fun q => { q with run := q.run.map fun x => { x with reports := sins c.val k.lastHalt x.reports } }).fixSwitch p
      else s

/-- A Marionette's answer to a heartbeat (R384), on its way to the fault authority, Puppeteer 15 on H3. -/
def State.heartbeatAnswer (s : State) (h : Hdr) : State :=
  match h.src with
  | .pup _ => s
  | .cluster c => match s.lostToDie c.val 3 with
    | some n => s.modCluster n Cluster.drop
    | none => s.modCluster c.val fun k => { k with beatAt := none, missed := if k.beatAt.isSome then 0 else k.missed }

/-- R131, R182, R384. -/
def execFwUrgent (hdr : Hdr) (msg : Urgent) (s : State) : Outcome :=
  .next (match msg with
    | .haltReport => s.frame hdr fun t c => t.toNode c hdr fun u => u.haltReport hdr c
    | .heartbeatAnswer => if s.supply == .up then s.heartbeatAnswer hdr else s
    | .other => s.frame hdr fun t c => t.toNode c hdr fun u => u)

/-- R131, R182: a core's report reaches its Marionette. -/
def State.coreEvent (s : State) (c lc : Nat) : State :=
  match s.coreEvents.find? fun x => x.1.val == c && x.2.1.val == lc with
  | none => s
  | some x =>
    let s : State := { s with coreEvents := s.coreEvents.erase x }
    if x.2.2.2.2 then s.modCluster c fun k => { k with haltSeen := if k.haltSeen.contains x.2.1 then k.haltSeen else k.haltSeen ++ [x.2.1] }
    else s

/-- R131. -/
def execCoreEvent (cl : Cl) (core : LCore) (s : State) : Outcome := .next (s.coreEvent cl.val core.val)

/-- R212. -/
def execViol (cl : Cl) (s : State) : Outcome := .next (if s.supply == .up then s.sendViol cl.val else s)

/-- A NO_TARGET frame answers to this header: from the cluster it names as source, to the cluster it is for or to a
Puppeteer (whom no header's destination names). -/
def noTargetFor (h : Hdr) (x : Cl × Src × BitVec 9) : Bool :=
  h.src == .cluster x.1 && (match x.2.1, h.dest with | .cluster c, .cluster d => c == d | .pup _, _ => true | _, _ => false)

/-- R137: the frame reaches the sender of the one that was discarded, or is dropped on its way. -/
def execNoTarget (hdr : Hdr) (s : State) : Outcome :=
  .next (match s.noTargets.find? (noTargetFor hdr) with
    | some x =>
      let t : State := { s with noTargets := s.noTargets.erase x }
      match s.lostBack x.1.val x.2.1 with
      | some n => t.modCluster n Cluster.drop
      | none => t
    | none => s)

/-- R131. -/
def execStringsReservedFrame (cl : Cl) (s : State) : Outcome :=
  .next (if s.supply == .up then s.modCluster cl.val Cluster.drop else s)

/-- R136. -/
def execFlitParityError (cl : Cl) (dir : Dir) (resends : Nat) (failed : Bool) (s : State) : Outcome :=
  .next (if s.supply != .up then s
    else
      let n := if failed then 16 else resends
      let s := s.modCluster cl.val fun k => { k with parityCount := satAdd k.parityCount n }
      if failed then
        (s.modCluster cl.val fun k => { k.drop with linksOff := k.linksOff ||| BitVec.ofNat 4 (2 ^ dirNum dir) }).log
          0x0202 (s.partOf cl.val) (some cl.val) none 0 15 (2 ^ dirNum dir)
      else s)

/-! ## Scan ring frames -/

/-- A scan may run: no run of the partition in progress, or a recovery (R190); a bypassed ring is skipped (R191). -/
def State.mayScan (s : State) (c : Nat) : Bool :=
  !(s.cluster c).scanBypass && !(s.cluster c).retired && !(s.cluster c).noTarget &&
    (match s.partOf c with | some p => (s.part p).run.isNone || (s.part p).recovering | none => true)

/-- R190, R378: a scan begins and takes the lease of its ring segment; the frame that ends it gives the lease back. A
scan-out changes no state. -/
def State.scanCtl (s : State) (c : Nat) : State :=
  let p := match s.partOf c with | some p => p | none => 0
  if (s.cluster c).scanning then (s.modCluster c fun k => { k with scanning := false }).release 5 c
  else if s.mayScan c && s.lease 5 c == 0x0FFF#16 then
    (s.modCluster c fun k => { k with scanning := true, scanAt := s.now }).grant 5 c (ownerTag p c)
  else s

/-- R190. -/
def execScanCtl (hdr : Hdr) (s : State) : Outcome := .next (s.frame hdr fun t c => t.toNode c hdr fun u => u.scanCtl c)

/-- R191, R380: a ring that does not return is bypassed, and what its holder leases is seized. -/
def State.scanLost (s : State) (c : Nat) : State :=
  ((s.modCluster c fun k => { k with scanBypass := true }).log 0x0203 (s.partOf c) (some c)).seizeAll c

/-- R191: 40 µs after its scan began the ring has not returned. -/
def execScanTimeout (cl : Cl) (s : State) : Outcome :=
  let k := s.cluster cl.val
  .next (if k.scanning && decide (k.scanAt + 40000 ≤ s.now) then s.scanLost cl.val else s)

/-- A SEIZE frame at its node (R381 steps 4 and 5): the node sets its cluster's scan bypass, and the controller of the
resource abandons it while the lease is still the one named. -/
def State.seizeAt (s : State) (c kind index : Nat) (tag : BitVec 16) : State :=
  let s := s.modCluster c fun k => { k with scanBypass := true }
  if s.lease kind index == tag && tag != 0x0FFF#16 then s.abandonLease kind index else s

/-- R381, R382. A frame for a core passes its row node too (R135): nothing is seized where that discards it (R137). -/
def execSeizeFrame (hdr : Hdr) (kind : BitVec 4) (index : BitVec 16) (tag : BitVec 16) (s : State) : Outcome :=
  .next (s.frame hdr fun t c =>
    if !forNode hdr && (t.cluster c).noTarget then t.toCores c hdr .other else t.seizeAt c kind.toNat index.toNat tag)

/-! ## Slot switches (R81, R182 to R189) -/

/-- A switch that waits: every core counts the CCLK as held with a queue cause, and the run carries slip (R185). -/
def State.delaySwitch (s : State) (p d : Nat) : State :=
  if d = 0 then s
  else
    let s := s.each (s.partCores p) fun t n => t.modCore n fun k => { k.slips .queue d with slipHolds := satAdd k.slipHolds 1 }
    s.modPart p fun q => { q with run := q.run.map fun r => { r with held := r.held + d, flags := { r.flags with slip := true } } }

/-- The time that a switch CCLK of 48 bits names: within 2^47 CCLK of now. -/
def State.timeOf (s : State) (c : BitVec 48) : Nat := ((s.now : Int) + (c - BitVec.ofNat 48 s.cclk).toInt).toNat

/-- The header of the leader's SLOT_SWITCH broadcast (R182). -/
def PartRec.switchHdr (r : PartRec) (p : Nat) : Hdr :=
  { dest := .part (Fin.ofNat 16 p), target := 0x1FE, src := .cluster (toCl (rectLeader r.x0 r.y0 r.w r.h)), length := 4 }

/-- A core has SLOT_SWITCH, or its row node holds it while the partition breathes. -/
def State.hasSwitch (s : State) (c lc : Nat) : Bool :=
  (s.coreAt (s.lcore c lc)).cmd.isSome ||
    (s.breathes c && (s.cluster c).rowWait.any fun x => match x.2 with | .slotSwitch _ => true | _ => false)

/-- Every core of a partition has SLOT_SWITCH. -/
def State.switchKnown (s : State) (p : Nat) : Bool :=
  (s.partClusters p).all fun c => (List.range 256).all (s.hasSwitch c)

/-- SLOT_SWITCH reaches the cores (R184). Once every one has it, after its switch CCLK, the switch moves to the first phase-0
CCLK from then on (R185). -/
def State.slotSwitch (s : State) (p : Nat) : State :=
  match (s.part p).run.bind (·.switch) with
  | none => s
  | some w =>
    if w.sent && s.switchKnown p then s
    else
      let h := (s.part p).cfg.switchHdr p
      let s := s.frame h fun t c => t.toCores c h (.slotSwitch w.flits)
      let due := s.timeOf (switchCmd w.flits).2.2
      let time := if s.now ≤ due || !s.switchKnown p then due else s.phase0From s.now
      (s.delaySwitch p (time - due)).modPart p fun q =>
        { q with run := q.run.map fun r => { r with switch := some { w with time := time, sent := true } } }

/-- R184. -/
def execSlotSwitch (part : Part) (s : State) : Outcome := .next (if s.wafer then s.slotSwitch part.val else s)

/-- A core takes the new slot of its command (R81, R119). -/
def Core.switchTo (k : Core) (slot : Fin 4) (guarded : Bool) : Core :=
  { k with active := true, slot := slot, guarded := guarded, pc := 0, k := [], nextIssue := k.pt, waitEnd := none, haltAt := none
           halted := false, preset := 0, presetNext := 0, cmd := none }

/-- A core acts on its SLOT_SWITCH. -/
def Core.obey (k : Core) : Core := match k.cmd with | some x => k.switchTo x.1 x.2.1 | none => k

/-- The run loads that fill a slot are complete (R189). -/
def Run.loaded (run : Run) (pl : Plan) (slot : Fin 4) : Bool :=
  run.loads.all fun (i, done) => done || (match pl.loads[i]? with | some l => l.slot != slot | none => true)

/-- The switch CCLK (R81): word 0 of the next layer issues now, and the run load it names starts (R188). -/
def State.switchNow (s : State) (p : Nat) (run : Run) (pl : Plan) (w : SwitchTo) (l : Layer) : State :=
  let s := s.delaySwitch p (s.now - w.time)
  let s := if run.breathing.isSome then
      s.each (s.partClusters p) fun t c => (t.modCluster c fun k => { k with power := .c0 }).rowsGo c else s
  let s := s.each (s.partCores p) fun t n => t.modCore n Core.obey
  let s := s.setGang p pl l.slot (run.loads.map (·.1))
  s.modPart p fun q => { q with run := q.run.map fun r =>
    { r with layer := w.layer, layerAt := s.now, layerEnd := none, haltedAt := none, linkEnd := 0, switch := none, reports := [], breathing := none
             loads := match l.load with | some i => (r.loads.filter fun x => x.1 != i) ++ [(i, false)] | none => r.loads
             moved := [], readLines := [], links := [] } }

/-- R81: a phase-0 CCLK at or after the switch CCLK at which every core has SLOT_SWITCH and the slot is loaded. -/
def execSwitchCclk (part : Part) (s : State) : Outcome :=
  let q := s.part part.val
  .next (match q.run with
    | none => s
    | some run => match run.switch, sfind? q.plans run.handle with
      | some w, some pl => match pl.plan.layers[w.layer]? with
        | some l =>
          if s.wafer && w.sent && s.switchKnown part.val && decide (w.time ≤ s.now) && s.phase == 0 && run.loaded pl.plan l.slot &&
              (s.partClusters part.val).all (fun c => let k := s.cluster c; k.trans.isNone && decide (k.power.depth ≤ 1)) then
            s.switchNow part.val run pl.plan w l
          else s
        | none => s
      | _, _ => s)

/-- A run load is complete in every core (R188). -/
def State.reloaded (s : State) (p load : Nat) : State :=
  match (s.part p).run with
  | none => s
  | some run =>
    match (sfind? (s.part p).plans run.handle).bind fun l => (l.plan.loads[load]?).map fun ld => (l.plan, ld) with
    | some (pl, ld) =>
      if run.loads.contains (load, false) then
        (s.each (s.partClusters p) fun t c => t.placeLoad pl ld c).modPart p fun q => { q with run := q.run.map fun r =>
          { r with loads := r.loads.map fun x => if x.1 = load then (load, true) else x } }
      else s
    | none => s

/-- R188. -/
def execReloadComplete (part : Part) (load : Nat) (s : State) : Outcome := .next (if s.wafer then s.reloaded part.val load else s)

end Sys2Proof.Machine
end

