-- ==== Sys2Proof/Machine/Hbm.lean ====
section
/-!
DEFINITION. HBM and data movement (spec/11_memory_and_dma.md R272 to R294, spec/03_core.md R57): granule slots, channel
lines through port 3, scrub and temperature, descriptor DMA, DUMP.
-/

namespace Sys2Proof.Machine

open Sys2Proof

/-! ## Port 3 (R57) -/

/-- The step word of a core claims port 3 in this CCLK: it has, or it will. -/
def State.wordTakes3 (s : State) (c lc : Nat) : Bool :=
  let k := s.coreAt (s.lcore c lc)
  k.port3 == some s.now || (k.hold.isNone && k.ready && k.claims3 k.word && (s.holdNow c lc).isNone)

/-- The bank of port 3 now. -/
def State.bank3 (s : State) : Nat := bankOf 3 s.phase

/-- A link channel and a core have room for a line more in this tick: at most 8 lines on the channel, and 8 of the core on
all channels (R278, R305). A line that finds none waits for the next tick (DEDUCED, notes/assumptions/106.md). -/
def State.linkRoom (s : State) (c lc die : Nat) : Bool :=
  let k := s.coreAt (s.lcore c lc)
  let u := sget (0, 0) (s.cluster c).linkUse die
  (k.lineTick != s.tick || decide (k.lineCount < 8)) && (u.1 != s.tick || decide (u.2 < 8))

/-- The writes of a core whose bank port 3 reaches now. -/
def State.writesDue (s : State) (c lc : Nat) : List ChanLine :=
  (s.coreAt (s.lcore c lc)).chan.filter fun l => decide (l.eligible ≤ s.now) && addrBank l.addr.toNat == s.bank3

/-- The writes of a core that port 3 could serve now. -/
def State.writesNow (s : State) (c lc : Nat) : List ChanLine :=
  (s.writesDue c lc).filter fun l => decide (l.chan < 64) || s.linkRoom c lc (l.chan - 64)

/-- The reads of a core that port 3 could serve now. -/
def State.readsNow (s : State) (c lc : Nat) : List Waiting :=
  (s.waiting c lc).filter fun w => addrBank w.addr == s.bank3

/-- Operations of a link record that read local lines (Table 12.5). -/
def LinkRec.readsLocal (r : LinkRec) : Bool := r.op == 1 || r.op == 3 || r.op == 4
/-- Operations that add. -/
def LinkRec.adds (r : LinkRec) : Bool := r.op == 3 || r.op == 4

/-- The scratchpad address of line `j` of cell `n` (R313). -/
def LinkRec.spadOf (r : LinkRec) (n j : Nat) : Nat := (r.spad.toNat + 64 * (4 * n + j)) % 262144

/-- The first CCLK of a record's cell on its layer's timeline (R314). -/
def Run.cellAt (run : Run) (r : LinkRec) (n : Nat) : Nat := run.layerAt + r.start + 8 * r.period * n

/-- The reduction context of a record, by its number on the die (R205, R317). -/
def PartState.context (q : PartState) (r : LinkRec) : Nat := ((sget [] q.ctxIdx r.die)[r.context]?).getD 0

/-- The incoming cell that a record would take next: held at its port, in index order, with the running request's tag
(R302, R314). -/
def State.incoming (s : State) (p : Nat) (grp : Group) (run : Run) (r : LinkRec) (n : Nat) : Option RxCell :=
  let tag := ((s.part p).req? run.req).map (·.tag)
  let o := s.port r.die r.inPort
  o.held.find? fun x =>
    grp.takes o p r.die r.inPort x && x.bulk == r.bulk && x.cell.stream.toNat == r.stream && x.cell.index == n && some x.cell.tag == tag

/-- Whether record `i` of group `g` may read its next local line from now on: on its timeline, and for an adding record once
its cell has come and its context adds no other one. -/
def State.linkDue (s : State) (p g i : Nat) (grp : Group) (run : Run) (r : LinkRec) : Bool :=
  let x := sget {} run.links (4096 * g + i)
  let j := x.lines.length
  r.layer == run.layer && grp.joined && (s.part p).names grp run.entry && run.layerEnd.isNone && r.readsLocal &&
    decide (x.cell < r.count) && decide (j < 4) && decide (run.cellAt r x.cell + j ≤ s.now) &&
    (!r.adds || ((s.incoming p grp run r x.cell).isSome && (decide (0 < j) || !(s.ctx r.die ((s.part p).context r)).busy)))

/-- The link reads of a core that wait for port 3. -/
def State.linkReads (s : State) (c lc : Nat) : List Waiting :=
  match s.runAt c with
  | none => []
  | some (p, run) => (s.part p).groups.flatMap fun (g, grp) => grp.recs.zipIdx.filterMap fun (r, i) =>
    if r.cluster = c ∧ r.core = lc ∧ s.linkDue p g i grp run r then
      let x := sget {} run.links (4096 * g + i)
      let t := run.cellAt r x.cell + x.lines.length
      some { since := t, until_ := t, chan := 64 + r.die, recNo := 4096 * g + i, line := x.lines.length, addr := r.spadOf x.cell x.lines.length }
    else none

/-- The link reads of a core whose bank port 3 reaches now. -/
def State.linkReadsDue (s : State) (c lc : Nat) : List Waiting :=
  (s.linkReads c lc).filter fun w => addrBank w.addr == s.bank3

/-- The link reads that port 3 could serve now. -/
def State.linkReadsNow (s : State) (c lc : Nat) : List Waiting :=
  (s.linkReadsDue c lc).filter fun w => s.linkRoom c lc (w.chan - 64)

/-- A link line of a core waits for a rate alone. -/
def State.overRate (s : State) (c lc : Nat) : Bool :=
  (s.writesDue c lc).any (fun l => decide (64 ≤ l.chan) && !s.linkRoom c lc (l.chan - 64)) ||
    (s.linkReadsDue c lc).any fun w => !s.linkRoom c lc (w.chan - 64)

/-- A core's line counts in a tick. -/
def Core.lineIn (k : Core) (tick : Nat) : Core :=
  { k with lineTick := tick, lineCount := if k.lineTick = tick then k.lineCount + 1 else 1 }

/-- A line on the link channel of a core counts in this tick. -/
def State.linkLineIn (s : State) (c lc die : Nat) : State :=
  (s.modCluster c fun k =>
    { k with linkUse := smod (0, 0) die (fun u => (s.tick, if u.1 = s.tick then u.2 + 1 else 1)) k.linkUse }).modCore
      (s.lcore c lc) (·.lineIn s.tick)

/-- Whether a line that is eligible from `e` on channel `ch` is served ahead of every other one. -/
def State.served3 (s : State) (c lc e ch : Nat) : Bool :=
  let ahead (e' ch' : Nat) : Bool := decide (e' < e) || (e' == e && decide (ch' < ch))
  !(s.writesNow c lc).any (fun l => ahead l.eligible l.chan) && !(s.readsNow c lc ++ s.linkReadsNow c lc).any fun w => ahead w.since w.chan

/-- A line written through port 3: ranges in guarded mode go down (R82), and a link record that waits for it goes on
(R316). -/
def State.portWrite (s : State) (c lc : Nat) (l : ChanLine) : State :=
  let n := s.lcore c lc
  let a := l.addr.toNat
  let s := (s.spadWrite n (a / 64 * 64) l.data).modCore n fun k =>
    { k.lower s.now (addrBank a) (addrLine a) with port3 := some s.now, chan := k.chan.erase l }
  let s := if 64 ≤ l.chan then s.linkLineIn c lc (l.chan - 64) else s
  match l.line with
  | .sched _ _ _ => s
  | .link p g rec _ _ =>
    (s.modPart p.val fun q => { q with run := q.run.map fun r =>
      { r with links := smod {} (4096 * g.val + rec) (fun x => { x with writing := x.writing - 1 }) r.links } }).layerEnds p.val

/-- R57: the write that port 3 serves first. -/
def execChannelLineWrite (cl : Cl) (core : LCore) (s : State) : Outcome :=
  let c := cl.val
  let lc := core.val
  .next (if !(s.clocked c) || s.wordTakes3 c lc then s
    else match (s.writesNow c lc).find? fun l => s.served3 c lc l.eligible l.chan with
      | some l => s.portWrite c lc l
      | none => s)

/-- A core-to-HBM line read through port 3 (R281); its data wait for the slot. -/
def State.portRead (s : State) (c lc : Nat) (w : Waiting) (ecc : Ecc) : State :=
  let n := s.lcore c lc
  let data := s.spadRead n (w.addr / 64 * 64) 64
  let s := (s.modCore n fun k => { k with port3 := some s.now }).modRunAt c fun r =>
    { r with readLines := r.readLines ++ [(w.recNo, w.line, data)] }
  let s := s.modCore n (·.corrected (Nat.min ecc.single 8))
  if ecc.lines.isEmpty then s else s.doubleBit c lc (w.addr / 64 * 64) false

/-- R281: the read that port 3 serves first. -/
def execCoreToHbmRead (cl : Cl) (core : LCore) (ecc : Ecc) (s : State) : Outcome :=
  let c := cl.val
  let lc := core.val
  .next (if !(s.clocked c) || s.wordTakes3 c lc then s
    else match (s.readsNow c lc).find? fun w => s.served3 c lc w.since w.chan with
      | some w => s.portRead c lc w ecc
      | none => s)

/-- R281: at its last CCLK a read goes ahead of the step word, which holds its core with a queue cause, and of every
other waiting line. -/
def execCoreToHbmForcedRead (cl : Cl) (core : LCore) (ecc : Ecc) (s : State) : Outcome :=
  let c := cl.val
  let lc := core.val
  .next (if !(s.clocked c) || (s.coreAt (s.lcore c lc)).port3 == some s.now then s
    else match (s.readsNow c lc).find? fun w => decide (w.until_ ≤ s.now) with
      | some w => ((s.holdNow c lc).getD s).portRead c lc w ecc
      | none => s)

/-! ## Granule slots (R274, R279 to R284) -/

/-- The partition-relative offset of a line of a run's record (R284). -/
def Request.lineOff (r : Request) (t : Transfer) (i : Nat) : Nat :=
  (if t.area = 1 then r.inBase else if t.area = 2 then r.outBase else 0) + t.hbm + 64 * i

/-- The engine address of a run's line, if R279 lets its channel reach it. -/
def PartRec.reach (r : PartRec) (t : Transfer) (off : Nat) : Option Nat :=
  match r.ea off with
  | some a => if granuleStack (granuleOf a) = t.channel / 8 ∧ (channelClusters t.channel).contains t.cluster ∧
      inRect r.x0 r.y0 r.w r.h t.cluster then some a else none
  | none => none

/-- Lines of a layer's records for one channel and cluster that have still to use their slot. -/
def Run.linesLeft (run : Run) (pl : Plan) (ch c : Nat) : Nat :=
  pl.sched.zipIdx.foldl (fun a (t, i) =>
    if t.layer = run.layer ∧ t.channel = ch ∧ t.cluster = c then a + (t.count - sget 0 run.moved i) else a) 0

/-- What a line from HBM brings its core: free bytes where the host broke the placement of R283, zero words where R279
does not let the channel reach it. -/
def State.lineIn (s : State) (ea : Option Nat) (clash : Bool) : Bytes :=
  match ea with
  | none => zeros 64
  | some a => if clash then s.freeBytes 64 else mreads s.hbm a 64

/-- A line leaves its granule in its slot, or is committed there. -/
def State.moveLine (s : State) (p rec line : Nat) (run : Run) (r : Request) (t : Transfer) (pl : Plan) (ecc : HbmEcc) : State :=
  let cfg := (s.part p).cfg
  let ea := cfg.reach t (r.lineOff t line)
  let clash := match ea with | some a => sget 0 s.slotUse (granuleOf a) == s.tick + 1 | none => false
  let s : State := match ea with | some a => { s with slotUse := sput 0 (granuleOf a) (s.tick + 1) s.slotUse } | none => s
  let lease := 2 * t.channel + channelSpan t.channel t.cluster
  let s := s.grant 3 lease (ownerTag p t.cluster)
  let n := s.lcore t.cluster t.core
  let s := s.modCore n (·.lineIn s.tick)
  let s :=
    if !inRect cfg.x0 cfg.y0 cfg.w cfg.h t.cluster then s
    else if t.kind = 1 then
      let l : ChanLine :=
        { eligible := s.now + 160, chan := t.channel, addr := BitVec.ofNat 18 (t.spadOf line), data := s.lineIn ea clash
          line := .sched (Fin.ofNat 16 p) rec line }
      s.modCore n fun k => { k with chan := k.chan ++ [l] }
    else
      match ea, run.readLines.find? fun x => x.1 == rec && x.2.1 == line with
      | some a, some x => { s with hbm := mwrites a (if clash then s.freeBytes 64 else x.2.2) s.hbm }
      | _, _ => s
  let s : State := if clash then { s with freeCount := s.freeCount + 64 } else s
  let s := s.modPart p fun q => { q with run := q.run.map fun x =>
    { x with moved := smod 0 rec (· + 1) x.moved, readLines := x.readLines.filter fun y => !(y.1 == rec && y.2.1 == line) } }
  let left := match (s.part p).run with | some x => x.linesLeft pl t.channel t.cluster | none => 0
  let s := if left = 0 then s.release 3 lease else s
  match t.kind, ea, ecc with
  | 1, some a, .single => s.hbmSingle a
  | 1, some a, .double => (s.hbmDouble (some p) a 1).contain p stFaulted 0
  | _, _, _ => s

/-- The slot of the next line of a record has come: on a tick edge, and a line for HBM has been read. -/
def State.slotReady (s : State) (run : Run) (t : Transfer) (rec line : Nat) : Bool :=
  s.onEdge && t.layer == run.layer && sget 0 run.moved rec == line && decide (line < t.count) &&
    decide (s.slotOf run t line ≤ s.now) &&
    (t.kind == 1 || run.readLines.any fun x => x.1 == rec && x.2.1 == line)

/-- The line in its slot. -/
def State.slotTransfer (s : State) (p rec line : Nat) (ecc : HbmEcc) : State :=
  let q := s.part p
  match q.run with
  | none => s
  | some run => match sfind? q.plans run.handle, q.req? run.req with
    | some l, some r => match l.plan.sched[rec]? with
      | some t => if s.slotReady run t rec line then s.moveLine p rec line run r t l.plan ecc else s
      | none => s
    | _, _ => s

/-- R281. -/
def execHbmSlotTransfer (part : Part) (rec : Nat) (line : Nat) (ecc : HbmEcc) (s : State) : Outcome :=
  .next (if s.wafer then s.slotTransfer part.val rec line ecc else s)

/-- R275: refresh delays nothing and changes no content. -/
def execHbmRefresh (_stack : Stack) (s : State) : Outcome := .next s

/-- R277: the scrubbed line keeps what it holds, corrected or not; errors are counted and recorded. -/
def execHbmScrub (line : Nat) (ecc : HbmEcc) (cancelled : Bool) (s : State) : Outcome :=
  .next (if s.supply != .up || cancelled && ecc == .clean || 0xC0000000 ≤ line then s
    else match ecc with
      | .clean => s
      | .single => s.hbmSingle (64 * line)
      | .double => s.hbmDouble none (64 * line) 5)

/-- R272. -/
def execHbmTempRead (stack : Stack) (celsius : Nat) (s : State) : Outcome :=
  .next (if s.supply == .up then s.modStack stack.val fun k => { k with celsius := celsius } else s)

/-! ## Descriptor DMA (R287 to R290) -/

/-- A DMA descriptor's own faults (R289). -/
def dmaBad (b : Bytes) : Bool :=
  let kind := field b 4 1
  let len := field b 8 4
  let src := field b 0x10 8
  let dst := field b 0x18 8
  kind == 0 || decide (3 < kind) || len % 64 != 0 || decide (len < 64) || decide (1073741824 < len) || src % 64 != 0 ||
    dst % 64 != 0 || field b 5 3 != 0 || field b 0x0C 4 != 0 || field b 0x20 24 != 0 || field b 0x3E 2 != 0 ||
    (kind == 3 && decide (src < dst + len) && decide (dst < src + len))

/-- The next descriptor of a queue: BAD_ARG at once, or the transfer begins. -/
def State.dmaFetch (s : State) (h f : Nat) (b : Bytes) : State :=
  let i := (s.window h f).dma.head
  let s := s.modWindow h f fun w => { w with dma := { w.dma with head := w.dma.head + 1 } }
  if dmaBad b then s.dmaDescriptor h f i 0 stBadArg
  else
    let j : DmaJob :=
      { index := i, tag := BitVec.ofNat 32 (field b 0 4), kind := field b 4 1, length := field b 8 4, src := field b 0x10 8
        dst := field b 0x18 8 }
    s.modWindow h f fun w => { w with dma := { w.dma with job := some j } }

/-- R289: in E0, in ring order, one at a time. -/
def execDmaDescriptorFetch (die : Die) (fn : Fn) (desc : Bytes) (s : State) : Outcome :=
  let d := (s.window die.val fn.val).dma
  .next (if s.inE0 && s.isOpen die.val fn.val && d.enable && d.job.isNone && d.head != d.tail then
    s.dmaFetch die.val fn.val desc else s)

/-- The end of a transfer after `n` bytes, with the violation of R211 counted once. -/
def State.dmaEnd (s : State) (h f : Nat) (j : DmaJob) (n : Nat) (source : Bytes) (moved status : Nat) : State :=
  let s := if j.violates (s.part f) then s.violate f 2 1 else s
  (s.dmaMove h f j n source).dmaDescriptor h f j.index moved status

/-- The end of a transfer: in full, on a host-side completion error, or on a double-bit error of HBM (R276, R289). -/
def State.dmaDone (s : State) (h f : Nat) (source : Bytes) (how : DmaEnd) (singles : List Nat) : State :=
  match (s.window h f).dma.job with
  | none => s
  | some j =>
    let s := if j.kind = 1 then s else s.hbmSingles (s.part f).cfg.granules singles
    match how with
    | .done => s.dmaEnd h f j j.length source j.length stOk
    | .hostError n =>
      if j.kind = 3 then s else s.dmaEnd h f j (Nat.min n j.length) source (Nat.min n j.length) stFaulted
    | .hbmDouble n =>
      if j.kind = 1 then s
      else
        let n := Nat.min n j.length / 64 * 64
        let s := match (s.part f).cfg.ea (j.src + n) with | some a => s.hbmDouble (some f) a 3 | none => s
        s.dmaEnd h f j n source n stFaulted

/-- R289. -/
def execDmaTransferComplete (die : Die) (fn : Fn) (source : Bytes) (how : Found DmaEnd) (s : State) : Outcome :=
  .next (if s.inE0 then s.dmaDone die.val fn.val source how.res how.singles else s)

/-! ## DUMP (R292 to R294) -/

/-- The dies of a DUMP's mask. -/
def Cmd.dumpDies (c : Cmd) : List Nat := (List.range 4).filter fun h => c.at 1 1 / 2 ^ h % 2 == 1

/-- The granules a DUMP selects. -/
def State.dumpGranules (s : State) (c : Cmd) : List Nat :=
  if c.at 0 1 = 0xFF then List.range 768 else (s.part (c.at 0 1)).cfg.granules

/-- Granules written through the i-th of k dies. -/
def dumpShare (n i k : Nat) : Nat := if i < n then (n - i - 1) / k + 1 else 0

/-- R292, R285: served in E2 alone, where no request, run or descriptor DMA goes on; the exit from E2 waits for it (R294). -/
def State.dumpCmd (s : State) (c : Cmd) : State :=
  let dies := c.dumpDies
  let gs := s.dumpGranules c
  if s.estate != .e2 then s.answer c stNotReady
  else if dies.isEmpty || dies.any (fun h => c.at (8 + 8 * h) 8 % 64 != 0) || (c.at 0 1 != 0xFF && !s.exists (c.at 0 1)) then
    s.answer c stBadArg
  else if s.dump.isSome then s.answer c stBusy
  else if dies.zipIdx.any fun (h, i) => decide (c.at (0x28 + 8 * h) 8 < dumpShare gs.length i dies.length * granuleSize) then
    s.answer c stNoResource
  else
    let j : DumpJob :=
      { die := Fin.ofNat 4 c.die, fn := Fin.ofNat 16 c.fn, seq := c.seq, granules := gs, dies := dies.map (Fin.ofNat 4)
        addrs := dies.map fun h => c.at (8 + 8 * h) 8 }
    ({ s with dump := some j, rails := { s.rails with hbmSelfRefresh := false } } : State).accept c 0

/-- A span of one memory copied into another, byte for byte. -/
def mcopy (src : Mem) (lo n dst : Nat) (m : Mem) : Mem :=
  src.foldl (fun m x => if lo ≤ x.1 ∧ x.1 < lo + n then mwrite (dst + (x.1 - lo)) x.2 m else m) (mclear dst (dst + n) m)

/-- R293: granule i through die i mod k, at offset ⌊i/k⌋ × 256 MiB, but for the lines with double-bit errors. -/
def State.dumpWrite (s : State) (j : DumpJob) (bad : List Nat) : State :=
  let k := j.dies.length
  let src := bad.foldl (fun m a => mclear (a / 64 * 64) (a / 64 * 64 + 64) m) s.hbm
  s.each j.granules.zipIdx fun t (g, i) =>
    let base := match j.dies[i % k]?, j.addrs[i % k]? with
      | some h, some a => 18446744073709551616 * h.val + a + i / k * granuleSize
      | _, _ => 0
    { t with hostMem := mcopy src (granuleBase g) granuleSize base t.hostMem }

/-- R293, R294: the dump's end; a latched exit from E2 then begins. -/
def State.dumpEnd (s : State) (double singles : List Nat) : State :=
  match s.dump with
  | none => s
  | some j =>
    let bad := ((double.map fun a => a / 64 * 64).filter fun a => j.granules.contains (granuleOf a)).eraseDups
    let s := s.dumpWrite j bad
    let s := (s.hbmSingles j.granules singles).each bad fun t a => t.hbmDouble none a 4
    let s : State := { s with dump := none, rails := { s.rails with hbmSelfRefresh := true } }
    let s := match s.long? j.die.val j.fn.val j.seq with
      | some l => s.finish l stOk (toLe 4 j.granules.length ++ toLe 4 bad.length ++ leBytes 8 s.et)
      | none => s
    s.tryExit

/-- The bytes a DUMP reads: to the buffer length of the last die of its mask (R228). -/
def Cmd.dumpNeed (c : Cmd) : Nat := c.dumpDies.foldl (fun n h => Nat.max n (0x30 + 8 * h)) 2

/-- R292. -/
def execDump (die : Die) (fn : Fn) (slot : Fin 32) (s : State) : Outcome :=
  .next (s.serve die.val fn.val slot.val { code := 0xA0, need := Cmd.dumpNeed, p0 := true, long := true } State.dumpCmd)

/-- R293. -/
def execDumpDone (doubles : Found (List Nat)) (s : State) : Outcome :=
  .next (s.dumpEnd doubles.res doubles.singles)

end Sys2Proof.Machine
end

