-- ==== Sys2Proof/Machine/Links.lean ====
section
/-!
DEFINITION. Links (spec/12_links_collectives_time.md R295 to R325): ports and their cells, engine time across links,
collective groups, link records and reduction contexts, LINK.STATE, LINK.RETIME and COLL.GROUP.
-/

namespace Sys2Proof.Machine

open Sys2Proof

/-! ## Ports and cells (R295 to R303) -/

/-- Ports of a die in its mode. -/
def LinkDie.portCount (d : LinkDie) : Nat := d.modeLess1 + 1
/-- Cell positions per cycle, C (Table 12.1). -/
def LinkDie.positions (d : LinkDie) : Nat := 300 / d.portCount
/-- time_pri. -/
def State.timePri (s : State) : BitVec 8 := s.timePriXor ^^^ 128#8
/-- |θ| of a port. -/
def Port.skew (o : Port) : Nat := o.offset.toInt.natAbs
/-- θ of a SYNC received now: local ET − (sender's et + d) (R307). -/
def State.theta (s : State) (et : BitVec 64) (d : BitVec 12) : BitVec 64 := s.et - (et + d.setWidth 64)
/-- The one-way delay d of a round trip: half of it, rounded up (R307). -/
def delayOf (roundTrip : Nat) : BitVec 12 := BitVec.ofNat 12 ((roundTrip + 1) / 2)
/-- The links run: supply, and not asleep. -/
def State.linksOn (s : State) : Bool := s.supply == .up && s.estate != .e2
/-- A port that is up on a running engine. -/
def State.portUp (s : State) (d p : Nat) : Bool := s.linksOn && (s.port d p).up

/-- A cell as it leaves (Table 12.2). -/
def cellBytes (type flags position part group seq stream index : Nat) (et : BitVec 64) (tag : BitVec 32) (payload : Bytes) : Bytes :=
  let head := toLe 1 type ++ toLe 1 flags ++ toLe 2 position ++ toLe 1 part ++ toLe 1 group ++ toLe 2 seq ++ toLe 2 stream ++
    zeros 2 ++ toLe 4 index ++ leBytes 8 et ++ leBytes 4 tag
  head ++ leBytes 4 (crc32c (head ++ payload)) ++ payload

/-- A control cell, in position 0. -/
def controlCell (type : Nat) (et : BitVec 64) (payload : Bytes) : Bytes :=
  cellBytes type 0 0 0xFF 0 0 0 0 et 0 (padTo 256 payload)

/-- The payload of SYNC (Table 12.3). -/
def State.syncPayload (s : State) (o : Port) : Bytes :=
  leBytes 8 s.fuses.serial ++ leBytes 1 s.timePri ++ toLe 1 (bit s.timeMaster 0) ++ zeros 6 ++ leBytes 8 s.masterSerial ++
    leBytes 8 o.lastSync

/-- The payload of ACK. The manual gives no buffer sizes: the free cells it reports are free values. -/
def State.ackPayload (s : State) (o : Port) : Bytes :=
  let naks := o.nak.take 60
  padTo 128 (leBytes 2 (o.high.getD 0xFFFF#16) ++ toLe 2 naks.length ++ naks.flatMap (leBytes 2)) ++ s.freeBytes 32

/-- Data positions a partition owns in a cycle, by its link share (R303). -/
def LinkDie.ownCount (d : LinkDie) (r : PartRec) : Nat := (d.positions - 1) * r.linkShare / 64

/-- Data positions of a port that no other partition owns. -/
def Port.unowned (o : Port) (positions p : Nat) : List Nat :=
  (List.range positions).filter fun k => k != 0 && !o.owned.any fun x => x.1 != p && x.2.contains k

/-- The positions that the end with the lower serial number chooses for `n`: the lowest that are free. -/
def Port.choose (o : Port) (positions p n : Nat) : List Nat := (o.unowned positions p).take n

/-- Whether this end chooses the positions. -/
def State.chooses (s : State) (o : Port) : Bool := decide (s.fuses.serial.toNat < o.partnerSerial.toNat)

/-- The payload of JOIN for a group: positions offered by the end that chooses them. -/
def State.joinPayload (s : State) (d p : Nat) (part : Nat) (g : Nat) (grp : Group) : Bytes :=
  let die := s.link d
  let o := s.port d p
  let n := die.ownCount (s.part part).cfg
  let offer := if s.chooses o then (match sfind? o.owned part with | some l => l | none => o.choose die.positions part n) else []
  leBytes 8 grp.token ++ toLe 1 grp.members ++ toLe 1 grp.position ++ toLe 1 g ++ zeros 1 ++
    toLe 2 (if offer.isEmpty then n else offer.length) ++ zeros 2 ++ bitmapOf 40 offer

/-- A JOIN goes out for a group on a port: the JOINs that come for it count afresh. -/
def Group.told (grp : Group) (d p : Nat) : Group :=
  { grp with ports := grp.ports.map fun e => if e.die = d ∧ e.port = p then { e with heard := 0 } else e }

/-- The control cell of a cycle: SYNC and ACK in turn, JOIN in place of SYNC while one is pending (R301). A JOIN stays
pending until its port entry is joined, and goes out once more then. -/
def State.control (s : State) (d p : Nat) : State :=
  let o := s.port d p
  if o.cycles % 2 = 1 then
    ({ s with freeCount := s.freeCount + 32 } : State).modPort d p fun x =>
      { x with control := 0x11, nak := x.nak.drop 60, tx := controlCell 0x11 s.et (s.ackPayload o) }
  else match o.joins with
    | (part, g) :: rest => match sfind? (s.part part.val).groups g.val with
      | some grp =>
        let joined := match grp.entryOn d p with | some e => e.joined | none => true
        (s.modPort d p fun x =>
          { x with control := 0x13, joins := if joined then rest else rest ++ [(part, g)]
                   tx := controlCell 0x13 s.et (s.joinPayload d p part.val g.val grp) }).modPart part.val fun q =>
          { q with groups := sins g.val (grp.told d p) q.groups }
      | none => s.modPort d p fun x => { x with control := 0x10, joins := rest, tx := controlCell 0x10 s.et (s.syncPayload o) }
    | [] => s.modPort d p fun x => { x with control := 0x10, tx := controlCell 0x10 s.et (s.syncPayload o) }

/-- R299: a cycle starts at every ET that is a multiple of 36. -/
def State.cycleStart (s : State) (d p : Nat) : State :=
  if s.portUp d p && s.onEdge && s.tick % 36 == 0 then
    (s.control d p).modPort d p fun o =>
      { o with cycles := o.cycles + 1, used := [0], sent := o.sent.map fun x => { x with age := x.age + 1 } }
  else s

/-- R299. -/
def execGlpCycleStart (ld : LDie) (port : Fin 3) (s : State) : Outcome := .next (s.cycleStart ld.val port.val)

/-! ## Ports up and down, SYNC (R297, R306 to R309) -/

/-- The outcome of a SYNC: the offset, a full retime when it passes G (R309), and the end of the joined state on the port when
its partner is not in E0 (R318, notes/assumptions/115.md). -/
def State.sync (s : State) (d p : Nat) (c : SyncCell) : State :=
  let o := s.port d p
  let s := s.modPort d p fun x => { x with offset := s.theta c.et o.delay, partner := some c, lastSync := s.et }
  let s := if c.inE0 then s else s.unjoin fun e => e.die == d && e.port == p
  if s.guardG < (s.port d p).skew then { s with retimeWanted := true } else s

/-- The data cells that no ACK has covered, numbered afresh from 0 and to be sent again (R302). -/
def renumber (l : List SentCell) : List SentCell :=
  l.zipIdx.map fun (x, i) => { x with cell := { x.cell with seq := BitVec.ofNat 16 i }, again := true }

/-- A port trains: its first time since boot asks for a full retime; later it resumes fast when |θ| ≤ G (R309). Sequence
numbers start afresh in both directions. -/
def State.trainPort (s : State) (d p : Nat) (t : PortTrain) : State :=
  let o := s.port d p
  let s := s.modPort d p fun x =>
    { x with up := true, everUp := true, partnerSerial := t.partnerSerial, partnerDie := t.partnerDie, partnerPort := t.partnerPort
             delay := delayOf t.roundTrip, upstream := false, nextSeq := BitVec.ofNat 16 x.sent.length, high := none, nak := [], ahead := []
             cycles := 0, used := [], free := [], sent := renumber x.sent }
  let s := s.sync d p t.sync
  let s : State :=
    if !o.everUp then { s with retimeWanted := true }
    else if (s.port d p).skew ≤ s.guardG then { s with fastResumes := s.fastResumes + 1 } else s
  s.each ((List.range 16).flatMap fun q => (s.part q).groups.map fun g => (q, g)) fun u (q, g) =>
    if (g.2.entryOn d p).isSome then u.askJoin q g.1 g.2 else u

/-- R297. -/
def execPortUp (ld : LDie) (port : Fin 3) (train : PortTrain) (s : State) : Outcome :=
  .next (if s.linksOn && decide (port.val < (s.link ld.val).portCount) && !(s.port ld.val port.val).up then
    s.trainPort ld.val port.val train else s)

/-- The ports of the engine that are up. -/
def State.upPorts (s : State) : List (Nat × Nat) :=
  (List.range 16).flatMap fun d => ((List.range 3).filter fun p => (s.port d p).up).map fun p => (d, p)

/-- The PLL moves to the next path to the master, or to REFCLK (R306): which of the ports that are up lies on it, the
domain decides, and the model leaves free. -/
def State.nextUpstream (s : State) : State :=
  let l := s.upPorts
  let i := (Config.freeByte s.freeCount).toNat % (l.length + 1)
  match l[i]? with
  | some (d, p) => s.drew.modPort d p fun o => { o with upstream := true }
  | none => s.drew

/-- A port goes down as a whole. -/
def State.dropPort (s : State) (d p : Nat) : State :=
  let was := (s.port d p).upstream
  let s := s.modPort d p Port.down
  let s := (s.unjoin fun e => e.die == d && e.port == p).log 0x0501 none none none (dieByte 2 d) 15 p
  if was then s.nextUpstream else s

/-- R297. -/
def execPortDown (ld : LDie) (port : Fin 3) (s : State) : Outcome :=
  .next (if s.portUp ld.val port.val then s.dropPort ld.val port.val else s)

/-- R307. -/
def execSync (ld : LDie) (port : Fin 3) (cell : SyncCell) (s : State) : Outcome :=
  .next (if s.portUp ld.val port.val then s.sync ld.val port.val cell else s)

/-! ## Sending (R302 to R304, R314) -/

/-- The run that owns a cell of a partition. -/
def State.retryRun (s : State) (p : Nat) (tag : BitVec 32) : State :=
  let q := s.part p
  if q.run.any fun r => (q.req? r.req).any fun x => x.tag == tag then
    s.modPart p fun q => { q with run := q.run.map fun r => { r with flags := { r.flags with linkRetry := true } } }
  else s

/-- What goes out in a data position: a cell again, or a new one. -/
inductive Pick where
  | again (c : SentCell)
  | new (c : OutCell)
  deriving DecidableEq, Repr

/-- The partner has room for a cell of a partition (R302). -/
def Port.room (o : Port) (p : Nat) : Bool := decide (0 < o.free.getD p 0)

/-- The cell of a class that a partition would send next: cells to resend first, then new ones that have waited 8
ticks. -/
def Port.pickOf (o : Port) (now p : Nat) (bulk : Bool) : Option Pick :=
  match o.sent.find? fun x => x.again && x.cell.part.val == p && x.bulk == bulk with
  | some x => some (.again x)
  | none => match o.outQ.find? fun x => x.cell.part.val == p && x.bulk == bulk with
    | some x => if x.since + 64 ≤ now && o.room p then some (.new x) else none
    | none => none

/-- The bulk cell of a free position: partitions in turn, one cell each (R304). -/
def Port.pickBulk (o : Port) (now : Nat) : Option Pick :=
  (List.range 16).findSome? fun i => o.pickOf now ((o.turn + 1 + i) % 16) true

/-- What a position carries: the owner's scheduled cells, resends first, then its bulk resends, else a bulk cell of a partition in
turn (R302 to R304). Scheduled traffic runs while |θ| ≤ G (R307). -/
def Port.pick (o : Port) (k now g : Nat) : Option Pick :=
  match o.owner k with
  | some p =>
    let resend := (o.sent.find? fun x => x.again && x.cell.part.val == p).map Pick.again
    (((if o.skew ≤ g then o.pickOf now p false else none).or resend)).or (o.pickBulk now)
  | none => o.pickBulk now

/-- Changing the progress of a record of the running layer. -/
def State.modProg (s : State) (p key : Nat) (f : LinkProg → LinkProg) : State :=
  s.modPart p fun q => { q with run := q.run.map fun r => { r with links := smod {} key f r.links } }

/-- The bytes of a data cell leaving in a position. -/
def dataBytes (c : Cell) (bulk : Bool) (k : Nat) (et : BitVec 64) : Bytes :=
  cellBytes (if bulk then 2 else 1) (bit c.retrans 0) k c.part.val c.group.val c.seq.toNat c.stream.toNat c.index et c.tag
    (padTo 256 c.payload)

/-- A cell again, with flags bit 0 set. -/
def State.resend (s : State) (d p k : Nat) (x : SentCell) : State :=
  let c : Cell := { x.cell with retrans := true, position := k, et := s.et }
  let s := s.modPort d p fun o =>
    { o with retx := satAdd o.retx 1, tx := dataBytes c x.bulk k s.et
             sent := o.sent.map fun y => if y.cell.seq = x.cell.seq then { y with cell := c, age := 0, again := false } else y
             turn := if x.bulk then c.part.val else o.turn }
  if x.bulk then s else s.retryRun c.part.val c.tag

/-- A new cell. -/
def State.sendNew (s : State) (d p k : Nat) (x : OutCell) : State :=
  let o := s.port d p
  let c : Cell := { x.cell with position := k, seq := o.nextSeq, et := s.et }
  let s := s.modPort d p fun o =>
    { o with nextSeq := o.nextSeq + 1, outQ := o.outQ.erase x, sent := o.sent ++ [{ cell := c, bulk := x.bulk }]
             free := o.free.set c.part.val (o.free.getD c.part.val 0 - 1), tx := dataBytes c x.bulk k s.et
             turn := if x.bulk then c.part.val else o.turn }
  (s.modProg c.part.val (4096 * c.group.val + x.recNo) fun g => { g with queued := g.queued - 1 }).layerEnds c.part.val

/-- The CCLK of its cycle in which a position begins. -/
def positionAt (k positions : Nat) : Nat := 288 * k / positions

/-- A data position of the running cycle begins now. -/
def State.atPosition (s : State) (d p k : Nat) : Bool :=
  let n := (s.link d).positions
  s.portUp d p && decide (1 ≤ k ∧ k < n) && !(s.port d p).used.contains k && s.tick % 36 * 8 + s.sub == positionAt k n

/-- R302 to R304: what the position carries, else IDLE. -/
def State.sendAt (s : State) (d p k : Nat) : State :=
  let o := s.port d p
  let s := s.modPort d p fun x => { x with used := x.used ++ [k] }
  match o.pick k s.now s.guardG with
  | some (.again x) => s.resend d p k x
  | some (.new x) => s.sendNew d p k x
  | none => s.modPort d p fun x => { x with tx := cellBytes 0x14 0 k 0xFF 0 0 0 0 s.et 0 (zeros 256) }

/-- R314. -/
def execLinkCellSend (ld : LDie) (port : Fin 3) (position : Nat) (s : State) : Outcome :=
  .next (if s.atPosition ld.val port.val position then s.sendAt ld.val port.val position else s)

/-- A cell that an ACK covers, modulo 65,536. -/
def covered (high seq : BitVec 16) : Bool := decide ((high - seq).toNat < 32768)

/-- R302: the cells covered go, those of the NAK list are to be sent again. -/
def Port.acked (o : Port) (high : BitVec 16) (naks : List (BitVec 16)) (free : List Nat) : Port :=
  { o with free := free
           sent := (o.sent.filter fun x => !covered high x.cell.seq || naks.contains x.cell.seq).map fun x =>
             if naks.contains x.cell.seq then { x with again := true } else x }

/-- R302. -/
def execAck (ld : LDie) (port : Fin 3) (high : BitVec 16) (naks : List (BitVec 16)) (free : List Nat) (s : State) : Outcome :=
  .next (if s.portUp ld.val port.val then s.modPort ld.val port.val fun o => o.acked high naks free else s)

/-- R302: no ACK within 4 cycles. -/
def execRetransmitTimeout (ld : LDie) (port : Fin 3) (seq : BitVec 16) (s : State) : Outcome :=
  .next (if s.portUp ld.val port.val then s.modPort ld.val port.val fun o =>
      { o with sent := o.sent.map fun x => if x.cell.seq = seq ∧ 4 ≤ x.age then { x with again := true } else x }
    else s)

/-! ## Receiving (R301, R302, R314) -/

/-- The seq expected next. -/
def Port.expected (o : Port) : BitVec 16 := match o.high with | some h => h + 1 | none => 0

/-- Going on through seqs already received out of order. -/
def Port.advance (o : Port) (n : Nat) : Port :=
  match n with
  | 0 => o
  | k + 1 => if o.ahead.contains o.expected then
      Port.advance { o with high := some o.expected, ahead := o.ahead.filter (· != o.expected) } k else o

/-- The seqs from one up to another. -/
def seqsTo (a b : BitVec 16) : List (BitVec 16) := (List.range (b - a).toNat).map fun i => a + BitVec.ofNat 16 i

/-- A seq received: whether it is new, and the port after it. What it shows to be missing is to be named in NAK. -/
def Port.receive (o : Port) (seq : BitVec 16) : Bool × Port :=
  let e := o.expected
  if seq = e then (true, Port.advance { o with high := some e, nak := o.nak.filter (· != seq) } o.ahead.length)
  else if 32768 ≤ (seq - e).toNat ∨ o.ahead.contains seq then (false, o)
  else
    let missing := (seqsTo e seq).filter fun x => !o.ahead.contains x && !o.nak.contains x
    (true, { o with ahead := o.ahead ++ [seq], nak := o.nak.filter (· != seq) ++ missing })

/-- Two cells are the same one, sent twice. -/
def sameCell (a b : Cell) : Bool :=
  a.part == b.part && a.group == b.group && a.stream == b.stream && a.index == b.index && a.tag == b.tag

/-- A scheduled cell that was sent again marks the run that owns it, of whatever partition takes it (R325). -/
def State.retried (s : State) (d p : Nat) (x : RxCell) : State :=
  s.each (List.range 16) fun t q => if (t.part q).groups.any fun g => g.2.takes (t.port d p) q d p x then t.retryRun q x.cell.tag else t

/-- A data cell that passes its CRC: held at the die. A scheduled one that was sent again, new here or not, marks its run, or
waits for it marked (R325). -/
def State.receiveCell (s : State) (d p : Nat) (c : Cell) (bulk : Bool) : State :=
  let (new, o) := (s.port d p).receive c.seq
  let s := s.modPort d p fun _ => o
  let x : RxCell := { cell := c, bulk := bulk }
  let s := s.modPort d p fun o => { o with held := o.held.map fun y =>
    if c.retrans && !bulk && !y.bulk && sameCell y.cell c then { y with cell := { y.cell with retrans := true } } else y }
  let s := if new then s.modPort d p fun o => { o with held := o.held ++ [x] } else s
  if c.retrans && !bulk then s.retried d p x else s

/-- R314. -/
def execDataS (ld : LDie) (port : Fin 3) (cell : Cell) (s : State) : Outcome :=
  .next (if s.portUp ld.val port.val then s.receiveCell ld.val port.val cell false else s)

/-- R304. -/
def execDataB (ld : LDie) (port : Fin 3) (cell : Cell) (s : State) : Outcome :=
  .next (if s.portUp ld.val port.val then s.receiveCell ld.val port.val cell true else s)

/-- R301: an IDLE cell received fills its position and does nothing. -/
def execIdle (_ld : LDie) (_port : Fin 3) (s : State) : Outcome := .next s

/-- R301. -/
def execCellDiscard (ld : LDie) (port : Fin 3) (s : State) : Outcome :=
  .next (if s.portUp ld.val port.val then s.modPort ld.val port.val fun o => { o with discarded := o.discarded + 1 } else s)

/-! ## JOIN (R303, R318) -/

/-- A sum of 36 / period as a fraction. -/
def rateSum (l : List LinkRec) : Nat × Nat := l.foldl (fun (a, b) r => (a * r.period + 36 * b, b * r.period)) (0, 1)

/-- The scheduled records of a group fit `n` positions of a port in each direction, layer by layer. -/
def Group.ratesFit (g : Group) (d p n : Nat) : Bool :=
  let fits (l : List LinkRec) : Bool := let (a, b) := rateSum l; decide (a ≤ n * b)
  g.recs.all fun r =>
    fits (g.recs.filter fun x => x.layer == r.layer && x.die == d && x.outPort == p && !x.bulk) &&
    fits (g.recs.filter fun x => x.layer == r.layer && x.die == d && x.inPort == p && !x.bulk)

/-- The positions both ends use: as many as the smaller count, chosen by the end with the lower serial number. -/
def State.agree (s : State) (d p part : Nat) (c : JoinCell) : List Nat :=
  let die := s.link d
  let o := s.port d p
  let n := Nat.min (die.ownCount (s.part part).cfg) c.count
  if s.chooses o then o.choose die.positions part n
  else (c.offered.filter fun k => decide (1 ≤ k ∧ k < die.positions)).take n

/-- A JOIN has come for the port entry of a group: the partner's number of the group, and that it was heard. -/
def Group.hears (grp : Group) (d p : Nat) (c : JoinCell) (joined : Bool) : Group :=
  { grp with ports := grp.ports.map fun e => if e.die = d ∧ e.port = p then
      { e with joined := e.joined || joined, theirs := c.group, heard := e.heard + 1 } else e }

/-- One group's answer to a JOIN. An entry that is joined already answers a second JOIN since its own last one: the partner has
missed that (notes/assumptions/116.md). -/
def State.joinGroup (s : State) (d p part g : Nat) (grp : Group) (c : JoinCell) : State :=
  match grp.entryOn d p with
  | none => s
  | some e =>
    if grp.token == c.token && grp.members == c.members && e.partner == c.position then
      let l := s.agree d p part c
      let s := s.modPort d p fun o => { o with owned := sput [] part l o.owned }
      let s := s.modPart part fun q => { q with groups := sins g (grp.hears d p c (c.fits && grp.ratesFit d p l.length)) q.groups }
      if e.joined && decide (1 ≤ e.heard) then s.askJoin part g { grp with ports := [e] } else s
    else s

/-- R318. -/
def execJoin (ld : LDie) (port : Fin 3) (cell : JoinCell) (s : State) : Outcome :=
  .next (if s.portUp ld.val port.val then
    s.each ((List.range 16).flatMap fun q => (s.part q).groups.map fun g => (q, g)) fun t (q, g) =>
      t.joinGroup ld.val port.val q g.1 g.2 cell
    else s)

/-! ## Link records (R313 to R316, R320) -/

/-- The sum of two cells in a record's format (R320). -/
def linkSum (fmt : BitVec 4) (a b : Bytes) : Bytes :=
  let f := outFmt (fmt.toNat % 8)
  let n := f.bits / 8
  (List.range (256 / n)).flatMap fun i =>
    toLe n ((((f.decode (field a (n * i) n)).add (f.decode (field b (n * i) n))).aim f false (fmt.getLsbD 3)).encode f)

/-- Handing a cell of a record to its port, which it may leave 8 ticks from now (R314). -/
def State.handOut (s : State) (p g i : Nat) (run : Run) (r : LinkRec) (n : Nat) (payload : Bytes) : State :=
  let tag := match (s.part p).req? run.req with | some x => x.tag | none => 0
  let c : Cell :=
    { retrans := false, position := 0, part := Fin.ofNat 16 p, group := Fin.ofNat 8 g, seq := 0, stream := BitVec.ofNat 12 r.stream
      index := n, et := 0, tag := tag, payload := payload }
  let x : OutCell := { cell := c, bulk := r.bulk, since := s.now, recNo := i }
  (s.modPort r.die r.outPort fun o => { o with outQ := o.outQ ++ [x] }).modProg p (4096 * g + i) fun k => { k with queued := k.queued + 1 }

/-- Writing a cell into its core, line by line under R57. -/
def State.handIn (s : State) (p g i : Nat) (r : LinkRec) (n : Nat) (payload : Bytes) : State :=
  let lines : List ChanLine := (List.range 4).map fun j =>
    { eligible := s.now, chan := 64 + r.die, addr := BitVec.ofNat 18 (r.spadOf n j), data := slice payload (64 * j) 64
      line := .link (Fin.ofNat 16 p) (Fin.ofNat 8 g) i n j }
  (s.modCore (s.lcore r.cluster r.core) fun k => { k with chan := k.chan ++ lines }).modProg p (4096 * g + i) fun k =>
    { k with writing := k.writing + 4 }

/-- The running record of a group, with its progress. -/
def State.linkRec (s : State) (p g i : Nat) : Option (Run × Group × LinkRec × LinkProg) :=
  (s.part p).run.bind fun run => (sfind? (s.part p).groups g).bind fun grp => (grp.recs[i]?).map fun r =>
    (run, grp, r, sget {} run.links (4096 * g + i))

/-- A context starts on a cell: its registers, and its lease from the record's first cell (R322, Table 15.2). -/
def State.contextStart (s : State) (p : Nat) (r : LinkRec) (n : Nat) : State :=
  let c := (s.part p).context r
  let s := s.modCtx r.die c fun x =>
    { x with stream := BitVec.ofNat 12 r.stream, partition := Fin.ofNat 16 p, fmt := r.fmt, op := BitVec.ofNat 3 r.op, busy := true
             next := BitVec.ofNat 32 n }
  if s.lease 2 (256 * r.die + c) = 0x0FFF#16 then s.grant 2 (256 * r.die + c) (ownerTag p r.cluster) else s

/-- A context is done with a cell; after the record's last one its lease ends. -/
def State.contextDone (s : State) (p : Nat) (r : LinkRec) (n : Nat) : State :=
  let c := (s.part p).context r
  let s := s.modCtx r.die c fun x => { x with busy := false, next := BitVec.ofNat 32 (n + 1) }
  if n + 1 = r.count ∧ s.lease 2 (256 * r.die + c) = ownerTag p r.cluster then s.release 2 (256 * r.die + c) else s

/-- A local line read; the fourth of a SEND hands its cell to the port. -/
def State.lineRead (s : State) (p g i : Nat) (run : Run) (r : LinkRec) (x : LinkProg) (ecc : Ecc) : State :=
  let n := s.lcore r.cluster r.core
  let a := r.spadOf x.cell x.lines.length
  let data := s.spadRead n (a / 64 * 64) 64
  let lines := x.lines ++ [(x.lines.length, data)]
  let s := (s.modCore n fun k => { k with port3 := some s.now }).linkLineIn r.cluster r.core r.die
  let s := if r.adds && x.lines.isEmpty then s.contextStart p r x.cell else s
  let s :=
    if r.op = 1 ∧ lines.length = 4 then
      (s.handOut p g i run r x.cell (lines.flatMap (·.2))).modProg p (4096 * g + i) fun k => { k with cell := k.cell + 1, lines := [] }
    else s.modProg p (4096 * g + i) fun k => { k with lines := lines }
  let s := s.modCore n (·.corrected (Nat.min ecc.single 8))
  if ecc.lines.isEmpty then s else s.doubleBit r.cluster r.core (a / 64 * 64) false

/-- R314: in the first CCLK of its bank in which port 3 is free for it. -/
def execLinkLineRead (part : Part) (group : Fin 8) (rec : Nat) (ecc : Ecc) (s : State) : Outcome :=
  let p := part.val
  let g := group.val
  .next (match s.linkRec p g rec with
    | none => s
    | some (run, grp, r, x) =>
      let t := run.cellAt r x.cell + x.lines.length
      if s.clocked r.cluster && s.linkDue p g rec grp run r && addrBank (r.spadOf x.cell x.lines.length) == s.bank3 &&
          s.linkRoom r.cluster r.core r.die && !s.wordTakes3 r.cluster r.core && (s.forcedRead r.cluster r.core).isNone &&
          s.served3 r.cluster r.core t (64 + r.die) then
        s.lineRead p g rec run r x ecc
      else s)

/-- A held cell goes on: into the core, out again, or both (Table 12.5). -/
def State.releaseCell (s : State) (p g i : Nat) (run : Run) (r : LinkRec) (x : LinkProg) (c : RxCell) : State :=
  let payload := if r.adds then linkSum r.fmt c.cell.payload (x.lines.flatMap (·.2)) else padTo 256 c.cell.payload
  let s := s.modPort r.die r.inPort fun o => { o with held := o.held.erase c }
  let s := if r.op = 2 ∨ r.op = 4 ∨ r.op = 5 then s.handIn p g i r x.cell payload else s
  let s := if r.op = 3 ∨ r.op = 4 ∨ r.op = 5 then s.handOut p g i run r x.cell payload else s
  let s := if r.adds then s.contextDone p r x.cell else s
  (s.modProg p (4096 * g + i) fun k => { k with cell := k.cell + 1, lines := [] }).layerEnds p

/-- R314: at the record's time, in index order, with the running request's tag; an adding record has read its lines. -/
def execLinkCellRelease (part : Part) (group : Fin 8) (rec : Nat) (s : State) : Outcome :=
  let p := part.val
  let g := group.val
  .next (match s.linkRec p g rec with
    | none => s
    | some (run, grp, r, x) =>
      if s.clocked r.cluster && r.layer == run.layer && grp.joined && (s.part p).names grp run.entry && run.layerEnd.isNone && r.op != 1 &&
          decide (x.cell < r.count) && decide (run.cellAt r x.cell ≤ s.now) && (!r.adds || x.lines.length == 4) then
        match s.incoming p grp run r x.cell with
        | some c => s.releaseCell p g rec run r x c
        | none => s
      else s)

/-! ## Full retimes (R306, R310, R311, R324) -/

/-- retimed on every request in flight, admitted or with its record unwritten (R33, R311). -/
def State.flagAll (s : State) : State :=
  { s with parts := smapAll {} (fun _ q => { q with queue := q.queue.map fun r => { r with flags := r.flags.retime } }) s.parts
           windows := smapAll {} (fun _ w => { w with compl := w.compl.map fun c => { c with flags := c.flags.retime } }) s.windows }

/-- Whether an engine goes before another as time master: the higher time_pri, then the lower serial number (R306). -/
def beats (a b : Peer) : Bool :=
  decide (b.timePri.toNat < a.timePri.toNat) || (a.timePri == b.timePri && decide (a.serial.toNat < b.serial.toNat))

/-- The time master that a domain elects. -/
def elect (me : Peer) (l : List Peer) : Peer := l.foldl (fun m x => if beats x m then x else m) me

/-- The port on the shortest path to the time master; the first of several (notes/assumptions/117.md). -/
def nearest (f : Retime) : Option RetimePort :=
  f.ports.find? fun x => f.ports.all fun y => decide (x.hops ≤ y.hops)

/-- This engine, as its domain sees it. -/
def State.self (s : State) : Peer := { serial := s.fuses.serial, timePri := s.timePri, et := s.et }

/-- Steps 3 to 7 of R310: the delays, the election, the PLL's input, the step of ET, and the offsets that the ports then show. -/
def State.retimed (s : State) (f : Retime) : State :=
  let latest := f.peers.foldl (fun m x => Nat.max m x.et.toNat) s.tick
  let step := latest - s.tick
  let master := elect s.self f.peers
  let mine := master.serial == s.fuses.serial
  let s := s.flagHeld
  let s : State := if 0 < step then { s.flagAll with et := BitVec.ofNat 64 latest } else s
  let s := s.each f.ports fun t x => t.modPort x.die.val x.port.val fun o =>
    { o with delay := delayOf x.roundTrip, offset := x.offset.signExtend 64, upstream := !mine && nearest f == some x }
  let s : State :=
    { s with timeMaster := mine, masterSerial := master.serial, fullRetimes := s.fullRetimes + 1, retimeWanted := false }
  (s.finishAll (fun l => l.code == 0x81#8) stOk).log 0x0502 none none none 0 15 step

/-- Step 2 of R310: no run of an entry that a joined group names. -/
def State.groupsQuiet (s : State) : Bool :=
  (List.range 16).all fun p => match (s.part p).run with
    | some run => !(s.part p).grouped run.entry
    | none => true

/-- A full retime takes in every port that is up, and those alone, and leaves each of them at |θ| ≤ 1 tick (R307). -/
def State.retimes (s : State) (f : Retime) : Bool :=
  f.ports.map (fun x => (x.die.val, x.port.val)) == s.upPorts && f.ports.all fun x => decide (x.offset.toInt.natAbs ≤ 1)

/-- R310: on a tick edge. -/
def execFullRetime (found : Retime) (s : State) : Outcome :=
  .next (if s.linksOn && s.onEdge && s.etClock == .tclk && s.groupsQuiet && s.retimes found then
    s.retimed found else s)

/-- R324. -/
def State.linkRetime (s : State) (c : Cmd) : State := ({ s with retimeWanted := true } : State).accept c 0

/-- R324. -/
def execLinkRetime (die : Die) (fn : Fn) (slot : Fin 32) (s : State) : Outcome :=
  .next (s.serve die.val fn.val slot.val { code := 0x81, p0 := true, long := true } State.linkRetime)

/-! ## LINK.STATE (R323, R242) -/

/-- Link dies a window may see: all for P0, its own for a tenant. -/
def State.seesDie (s : State) (f d : Nat) : Bool := f == 0 || (s.part f).cfg.linkDies.contains d

/-- The summary; a tenant's shows its own dies and zero from 0x02 on. -/
def State.linkSummary (s : State) (f : Nat) : Bytes :=
  let up := (List.range 16).foldl (fun a d => a + bit (s.seesDie f d && (List.range 3).any fun p => (s.port d p).up) d) 0
  toLe 2 up ++ (if f ≠ 0 then zeros 30
    else toLe 1 (bit s.timeMaster 0) ++ leBytes 1 s.timePri ++ toLe 2 s.guardG ++ zeros 2 ++ leBytes 8 s.masterSerial ++
      leBytes 8 s.et ++ leBytes 4 s.fullRetimes ++ leBytes 4 s.fastResumes)

/-- One port's block of a die's reply. -/
def Port.block (o : Port) (lanes : Nat) : Bytes :=
  leBytes 8 o.partnerSerial ++ leBytes 1 o.partnerDie ++ leBytes 1 o.partnerPort ++ toLe 1 lanes ++ zeros 1 ++
    leBytes 2 (o.delay.setWidth 16) ++ leBytes 2 (o.offset.setWidth 16) ++ leBytes 4 o.fecCorrected ++ leBytes 4 o.retx

/-- A die's reply. -/
def State.linkDieBytes (s : State) (d : Nat) : Bytes :=
  let l := s.link d
  toLe 1 l.portCount ++ toLe 1 ((List.range 3).foldl (fun a p => a + bit (s.port d p).up p) 0) ++ zeros 6 ++
    (List.range l.portCount).flatMap fun p => (s.port d p).block (12 / l.portCount)

/-- Some group is joined on a die. -/
def State.joinedOn (s : State) (d : Nat) : Bool :=
  (List.range 16).any fun p => (s.part p).groups.any fun g => g.2.joined && g.2.ports.any fun e => e.die == d

/-- A die takes a new mode: every port of it trains again. -/
def State.setMode (s : State) (d mode : Nat) : State :=
  if (s.link d).portCount = mode then s
  else
    let s := s.each ((List.range 3).filter fun p => (s.port d p).up) fun t p => t.dropPort d p
    s.modLink d fun l => { l with modeLess1 := mode - 1, ports := [] }

/-- The set. -/
def State.linkSet (s : State) (c : Cmd) : State :=
  let g := c.at 4 2
  let modes := (List.range 16).map fun d => c.at (8 + d) 1
  if c.fn ≠ 0 then s.answer c stDenied
  else if g < 125 ∨ 1250 < g ∨ !modes.all (fun m => decide (1 ≤ m ∧ m ≤ 3)) then s.answer c stBadArg
  else if modes.zipIdx.any fun (m, d) => (s.link d).portCount != m && s.joinedOn d then s.answer c stBusy
  else
    let pri := BitVec.ofNat 8 (c.at 2 1)
    let s := s.each modes.zipIdx fun t (m, d) => t.setMode d m
    (({ s with timePriXor := pri ^^^ 128#8, guardG := g } : State).saveSettings modes pri g).answer c stOk

/-- The length a LINK.STATE needs by its selection (R228). -/
def linkNeed (c : Cmd) : Nat := if c.at 1 1 = 0xFE then 24 else 2

/-- A selection out of range answers BAD_ARG. -/
def linkBad (c : Cmd) : Bool := c.len ≤ 1 || decide (16 ≤ c.at 1 1 ∧ c.at 1 1 < 0xFE)

/-- R323. -/
def execLinkStateSummary (die : Die) (fn : Fn) (slot : Fin 32) (s : State) : Outcome :=
  .next (s.serve die.val fn.val slot.val
    { code := 0x80, need := linkNeed, mine := fun c => linkBad c || c.at 1 1 == 0xFF, changes := false }
    fun t c => if linkBad c then t.answer c stBadArg else t.answer c stOk (t.linkSummary fn.val))

/-- R323. -/
def execLinkStateDie (die : Die) (fn : Fn) (slot : Fin 32) (s : State) : Outcome :=
  .next (s.serve die.val fn.val slot.val
    { code := 0x80, need := linkNeed, mine := fun c => linkBad c || decide (c.at 1 1 < 16), changes := false }
    fun t c => if linkBad c then t.answer c stBadArg
      else if t.seesDie fn.val (c.at 1 1) then t.answer c stOk (t.linkDieBytes (c.at 1 1)) else t.answer c stDenied)

/-- R323. -/
def execLinkStateSet (die : Die) (fn : Fn) (slot : Fin 32) (s : State) : Outcome :=
  .next (s.serve die.val fn.val slot.val
    { code := 0x80, need := linkNeed, mine := fun c => linkBad c || c.at 1 1 == 0xFE }
    fun t c => if linkBad c then t.answer c stBadArg else t.linkSet c)

/-! ## COLL.GROUP (R312, R315, R317) -/

/-- A link record (Table 12.4). -/
def parseLinkRec (b : Bytes) (o : Nat) : LinkRec :=
  { layer := field b o 2, op := field b (o + 2) 1, bulk := field b (o + 3) 1 == 1, start := field b (o + 4) 4, due := field b (o + 8) 4
    count := field b (o + 12) 4, period := field b (o + 16) 2, die := field b (o + 18) 1, inPort := field b (o + 19) 1
    outPort := field b (o + 20) 1, context := field b (o + 21) 1, stream := field b (o + 22) 2, cluster := field b (o + 24) 2
    core := field b (o + 26) 1, fmt := BitVec.ofNat 4 (field b (o + 27) 1), spad := BitVec.ofNat 18 (field b (o + 28) 4) }

/-- A group record. -/
def parseGroup (b : Bytes) : Group :=
  let k := field b 0x24 1
  { token := BitVec.ofNat 64 (field b 8 8), planId := BitVec.ofNat 64 (field b 0x10 8), mask := BitVec.ofNat 64 (field b 0x18 8)
    members := field b 0x20 1, position := field b 0x21 1
    ports := (List.range k).map fun i =>
      { die := field b (64 + 8 * i) 1, port := field b (65 + 8 * i) 1, partner := field b (66 + 8 * i) 1 }
    recs := (List.range (field b 0x22 2)).map fun i => parseLinkRec b (64 + 8 * k + 32 * i) }

/-- The header and the length. -/
def groupHeadOk (b : Bytes) : Bool :=
  let n := field b 0x20 1
  let m := field b 0x22 2
  let k := field b 0x24 1
  field b 0 4 == 0x5052474B && field b 4 2 == 1 && field b 6 2 == 0 && field b 0x25 27 == 0 && decide (2 ≤ n ∧ n ≤ 64) &&
    decide (field b 0x21 1 < n) && decide (1 ≤ m ∧ m ≤ 4096) && decide (1 ≤ k ∧ k ≤ 48) && b.length == 64 + 8 * k + 32 * m

/-- A link record's own fields. -/
def LinkRec.ok (r : LinkRec) (b : Bytes) (o : Nat) : Bool :=
  decide (1 ≤ r.op ∧ r.op ≤ 5) && decide (field b (o + 3) 1 ≤ 1) && r.start % 8 == 0 && (if r.op = 1 then r.due == 0 else r.due % 8 == 0) &&
    decide (1 ≤ r.count ∧ r.count ≤ 65536) && decide (1 ≤ r.period ∧ r.period ≤ 1024) && decide (r.die < 16) &&
    (if r.op = 1 then r.inPort == 0xFF else decide (r.inPort < 3)) && (if r.op = 2 then r.outPort == 0xFF else decide (r.outPort < 3)) &&
    (r.adds || r.context == 0xFF) && decide (r.stream < 4096) && decide (field b (o + 27) 1 < 16) && decide (r.fmt.toNat % 8 ≤ 4) &&
    decide (field b (o + 28) 4 < 262144)

/-- What a record names: a layer of an entry of the mask, a die the partition uses, its ports, a cluster the die adjoins. -/
def State.recNames (s : State) (p : Nat) (g : Group) (r : LinkRec) : Bool :=
  let q := s.part p
  let ports := (s.link r.die).portCount
  q.plans.any (fun x => x.2.plan.planId == g.planId && x.2.plan.entries.zipIdx.any fun (e, i) =>
      g.mask.getLsbD i && decide (e.first ≤ r.layer ∧ r.layer < e.first + e.count)) &&
    q.cfg.linkDies.contains r.die && (r.op == 1 || decide (r.inPort < ports)) && (r.op == 2 || decide (r.outPort < ports)) &&
    (linkRun r.die).contains r.cluster && inRect q.cfg.x0 q.cfg.y0 q.cfg.w q.cfg.h r.cluster && (q.elastic || !r.bulk)

/-- The checks of R317 that answer BAD_ARG. -/
def State.groupOk (s : State) (p : Nat) (b : Bytes) : Bool :=
  let g := parseGroup b
  let k := g.ports.length
  groupHeadOk b && (s.part p).plans.any (fun x => x.2.plan.planId == g.planId) &&
    g.ports.zipIdx.all (fun (e, i) => field b (64 + 8 * i + 3) 5 == 0 && decide (e.die < 16) && decide (e.port < (s.link e.die).portCount) &&
      (s.part p).cfg.linkDies.contains e.die && decide (e.partner < g.members)) &&
    g.recs.zipIdx.all fun (r, i) => r.ok b (64 + 8 * k + 32 * i) && s.recNames p g r

/-- Every loaded plan of a plan_id becomes unverified (R315). -/
def State.unverifyId (s : State) (p : Nat) (id : BitVec 64) : State :=
  let named (l : LongCmd) : Bool :=
    l.code == 0x23#8 && l.part.val == p && ((sfind? (s.part p).plans (field l.payload 1 1)).any fun x => x.plan.planId == id)
  let s : State := { s with longs := s.longs.map fun l => if named l then { l with stale := true } else l }
  s.modPart p fun q => { q with plans := smapAll {} (fun _ l => if l.plan.planId = id then { l with verified := false } else l) q.plans }

/-- A group's ports no longer ask for JOIN. -/
def State.dropJoins (s : State) (p g : Nat) : State :=
  { s with links := smapAll {} (fun _ d => { d with ports := smapAll {} (fun _ o =>
      { o with joins := o.joins.filter fun x => !(x.1.val == p && x.2.val == g) }) d.ports }) s.links }

/-- R317: the group record and its checks. -/
def State.groupJoin (s : State) (c : Cmd) : State :=
  let p := c.named
  let r := (s.part p).cfg
  let b := if r.holds (c.at 8 8) (c.at 16 4) then s.relRead r (c.at 8 8) (c.at 16 4) else []
  let g := parseGroup b
  if 2 < c.at 1 1 ∨ 8 ≤ c.at 2 1 then s.answer c stBadArg
  else if !s.groupOk p b then s.acceptDone c stBadArg
  else if g.recs.any fun x => x.adds && decide (r.rcCount ≤ x.context) then s.acceptDone c stNoResource
  else
    let s := (s.dropJoins p (c.at 2 1)).modPart p fun q => { q with groups := sins (c.at 2 1) g q.groups }
    ((s.unverifyId p g.planId).askJoin p (c.at 2 1) g).acceptDone c stOk

/-- R317: the joined state ends at once. -/
def State.groupLeave (s : State) (c : Cmd) : State :=
  let p := c.named
  if 2 < c.at 1 1 ∨ 8 ≤ c.at 2 1 then s.answer c stBadArg
  else match sfind? (s.part p).groups (c.at 2 1) with
    | none => s.acceptDone c stOk
    | some g =>
      let s := if s.retimeWanted then s.flagHeld else s
      let s := (s.dropJoins p (c.at 2 1)).modPart p fun q => { q with groups := sdel (c.at 2 1) q.groups }
      (s.unverifyId p g.planId).acceptDone c stOk

/-- R317: bit g for each joined group. -/
def State.groupStatus (s : State) (c : Cmd) : State :=
  if 2 < c.at 1 1 ∨ 8 ≤ c.at 2 1 then s.answer c stBadArg
  else s.acceptDone c stOk (toLe 1 ((s.part c.named).groups.foldl (fun a g => a + bit g.2.joined g.1) 0))

/-- The length a COLL.GROUP needs by its operation (R228). -/
def groupNeed (c : Cmd) : Nat := if c.at 1 1 = 0 ∧ 1 < c.len then 20 else 3

/-- R317. -/
def execCollGroupJoin (die : Die) (fn : Fn) (slot : Fin 32) (s : State) : Outcome :=
  .next (s.serve die.val fn.val slot.val { code := 0x82, need := groupNeed, mine := picks 1 0 2, named := true, long := true }
    State.groupJoin)

/-- R317. -/
def execCollGroupLeave (die : Die) (fn : Fn) (slot : Fin 32) (s : State) : Outcome :=
  .next (s.serve die.val fn.val slot.val { code := 0x82, need := groupNeed, mine := picks 1 1 2, named := true, long := true }
    State.groupLeave)

/-- R317. -/
def execCollGroupStatus (die : Die) (fn : Fn) (slot : Fin 32) (s : State) : Outcome :=
  .next (s.serve die.val fn.val slot.val { code := 0x82, need := groupNeed, mine := picks 1 2 2, named := true, long := true }
    State.groupStatus)

end Sys2Proof.Machine
end

