-- ==== Sys2Proof/Machine/Power.lean ====
section
/-!
DEFINITION. Cluster states, temperature, breaths' allowance and the regulators (spec/13_clocks_and_power_states.md
R331 to R337, R344 to R357).
-/

namespace Sys2Proof.Machine

open Sys2Proof

/-! ## Cluster states (R331, R332, R337, R344, R345) -/

/-- A cluster is in the state it was entering; a wake latched meanwhile begins its exit at once. C1 keeps everything;
C2 keeps the scratchpads; C3 keeps nothing. -/
def State.entryDone (s : State) (c : Nat) : State :=
  match (s.cluster c).trans with
  | some (.enter aim wake) =>
    let s := if aim.depth ≤ 1 then s else s.modListedCores c Core.powerReset
    let s := if aim = .c3 then s.zeroSpads c else s
    let s := if aim.depth ≤ 1 then s else s.rowsRefused c
    let s := s.modCluster c fun k => { k with power := aim, trans := none }
    let s := match wake with | some w => s.modCluster c (·.wake w) | none => s
    let s := s.retrim
    match s.partOf c with
    | some p => (s.parkDone p).resume p
    | none => s
  | _ => s

/-- R331, R344, R345. -/
def execClusterEntryComplete (cl : Cl) (s : State) : Outcome := .next (if s.supply == .up then s.entryDone cl.val else s)

/-- The end of an unpark, once every cluster is back (R337). -/
def State.unparked (s : State) (p : Nat) : State :=
  let q := s.part p
  if q.park == .unparking && q.cfg.clusters.all (fun c => let k := s.cluster c; k.retired || (k.trans.isNone && decide (k.power.depth ≤ 1)))
  then s.modPart p fun q => { q with park := .serving } else s

/-- A cluster of a partition is up: the frames that waited for it in C0 reach their cores (R344), and with nothing to run it goes
to C1 again (Table 13.2). -/
def State.settled (s : State) (p c : Nat) : State :=
  if (s.cluster c).at .c0 then (s.rowsGo c).rest p else s

/-- A cluster has left C1, C2 or C3: out of C2 its cores are as after reset, with the bound plan's resident loads
repeated; out of C3 every scratchpad reads zero as well. -/
def State.exitDone (s : State) (c : Nat) : State :=
  match (s.cluster c).trans with
  | some (.exit aim) =>
    let was := (s.cluster c).power
    let s := if was.depth ≤ 1 then s else s.modListedCores c Core.powerReset
    let s := if was = .c3 then s.zeroSpads c else s
    let s := s.modCluster c fun k => { k with power := aim, trans := none }
    match s.partOf c with
    | some p =>
      let s := if was.depth ≤ 1 then s else s.placeResident p c
      ((s.settled p c).unparked p).resume p
    | none => s
  | _ => s

/-- R332, R337, R377. -/
def execClusterExitComplete (cl : Cl) (s : State) : Outcome := .next (if s.supply == .up then s.exitDone cl.val else s)

/-! ## Temperature (R351) -/

/-- The hotter sensor. -/
def Cluster.hotter (k : Cluster) : Nat := Nat.max k.t0 k.t1

/-- THERM_ALERT_N: asserted at 105 °C, released once every cluster reads below 100 °C. -/
def State.thermAlert (s : State) (hot : Nat) : State :=
  { s with therm := decide (4 * 105 ≤ hot) || (s.therm && decide (4 * 100 ≤ s.hottest)) }

/-- The thermal trip: C3 at once, a recovery fault for the partition, and the record. -/
def State.thermTrip (s : State) (c hot : Nat) : State :=
  let p := s.partOf c
  let s := s.modCluster c fun k => { (k.enter .c3) with tripped := true }
  let s := match p with | some p => s.beginRecovery p | none => s
  s.log 0x0410 p (some c) none 0 15 (hot / 4)

/-- Both sensors read below 95 °C: the cluster follows Table 13.2 again. -/
def State.thermRelease (s : State) (c : Nat) : State :=
  let s := s.modCluster c fun k => { k with tripped := false }
  match s.partOf c with
  | some p => (if s.estate == .e0 then s.place p else s).resume p
  | none => s

/-- What a sensor of a cluster reads, in 0.25 °C, with its trim (R416). -/
def State.trimmed (s : State) (c sensor raw : Nat) : Nat := ((raw : Int) + (sget 0#6 s.fuses.sensorTrim (2 * c + sensor)).toInt).toNat

/-- A reading of a cluster's two sensors. -/
def State.thermalRead (s : State) (c raw0 raw1 : Nat) : State :=
  let t0 := s.trimmed c 0 raw0
  let t1 := s.trimmed c 1 raw1
  let hot := Nat.max t0 t1
  let s := (s.modCluster c fun k => { k with t0 := t0, t1 := t1 }).thermAlert hot
  if (s.cluster c).tripped then (if hot < 4 * 95 then s.thermRelease c else s)
  else if 4 * 115 ≤ hot then s.thermTrip c hot
  else s

/-- R351: the sensors as they are, in 0.25 °C. -/
def execThermalSensorRead (cl : Cl) (raw0 raw1 : Nat) (s : State) : Outcome :=
  .next (if s.supply == .up then s.thermalRead cl.val raw0 raw1 else s)

/-! ## The breath allowance (R352, R357) -/

/-- R352: the new allowance, from the power of the last 1 ms. -/
def State.newAllowance (s : State) (w : Nat) : Nat :=
  let hot := s.existing.any fun p => (s.partClusters p).any fun c => decide (4 * s.policy.tBreath ≤ (s.cluster c).hotter)
  if hot ∨ s.policy.capW < w then Nat.min s.policy.fMax (s.allowance + 64)
  else if s.hottest + 4 * 5 ≤ 4 * s.policy.tBreath ∧ 100 * w ≤ 95 * s.policy.capW then s.allowance - 16
  else s.allowance

/-- Since when power has stayed above cap_w with the allowance at f_max (R357). -/
def State.trackExcess (s : State) : State :=
  if s.overCap && s.allowance == s.policy.fMax then
    { s with overSince := match s.overSince with | some t => some t | none => some s.now }
  else { s with overSince := none, overLogged := false }

/-- The update of every 1 ms. -/
def State.breathUpdate (s : State) (w : Nat) : State :=
  let a := s.newAllowance w
  (({ s with powerW := w, overCap := decide (s.policy.capW < w) } : State).setAllowance a).trackExcess

/-- R352. -/
def execBreathAllowanceUpdate (powerW : Nat) (s : State) : Outcome :=
  .next (if s.supply == .up then s.breathUpdate powerW else s)

/-- 100 ms above cap_w: one record. -/
def State.capAlarm (s : State) : State :=
  match s.overSince with
  | some t =>
    if t + msCclk 100 ≤ s.now ∧ !s.overLogged then
      ({ s with overLogged := true } : State).log 0x0413 none none none 0 s.authorityPup (s.powerW % 65536)
    else s
  | none => s

/-- R357. -/
def execPowerCapAlarm (s : State) : Outcome := .next (if s.supply == .up then s.capAlarm else s)

/-! ## Regulators (R347 to R349) -/

/-- R347: the current of a VCORE zone. -/
def execAvsCurrentRead (zone : Fin 48) (milliAmps : Nat) (s : State) : Outcome :=
  .next (if s.supply == .up then s.modZone zone.val fun k => { k with milliAmps := milliAmps } else s)

/-- The PMBus addresses of R348; only an HBM regulator has pages beyond 0. -/
def pmbusKnown (addr page : Nat) : Bool :=
  (page == 0 && (decide (0x20 ≤ addr ∧ addr ≤ 0x51) || decide (0x60 ≤ addr ∧ addr ≤ 0x73))) ||
    (decide (0x58 ≤ addr ∧ addr ≤ 0x5F) && decide (page < 3))

/-- The bits of STATUS_WORD that report a fault: all but OFF, BUSY and POWER_GOOD# (notes/assumptions/31.md). -/
def statusFault (w : BitVec 16) : Bool := (w &&& 0xF73F#16) != 0

/-- Every regulator output, as 4 × address + page, with its rail class (R348, Table 16.5). -/
def railOutputs : List (Nat × Nat) :=
  (List.range 48).map (fun z => (4 * (0x20 + z), 0)) ++ [(4 * 0x50, 1), (4 * 0x51, 2)] ++
  (List.range 8).flatMap (fun m => (List.range 3).map fun g => (4 * (0x58 + m) + g, 3 + g)) ++
  (List.range 16).map (fun d => (4 * (0x60 + d), 6)) ++ (List.range 4).map fun h => (4 * (0x70 + h), 7)

/-- The limits of some outputs written from the fuses (R348, R403). -/
def State.writeLimits (s : State) (l : List (Nat × Nat)) : State :=
  s.each l fun t x => { t with regulators := smod {} x.1 (fun r => { r with limits := t.fuses.railLimit.extractLsb' (16 * x.2) 16 }) t.regulators }

/-- One output's status, and its telemetry unless it is a VCORE zone; a fault is recorded when its bit is new. -/
def State.statusPoll (s : State) (addr page : Nat) (w : BitVec 16) (v i p : Nat) : State :=
  let key := 4 * addr + page
  let old := sget {} s.regulators key
  let new : Rail := if addr < 0x50 then { old with status := w } else { old with status := w, vout := v, iout := i, pout := p }
  let s : State := { s with regulators := sput {} key new s.regulators }
  if statusFault (w &&& ~~~old.status) then
    s.log 0x0412 none none none 0 s.authorityPup (addr + page * 256 + w.toNat * 65536)
  else s

/-- R348: in E0 and E1. -/
def execPmbusStatusPoll (addr : BitVec 7) (page : BitVec 2) (status : BitVec 16) (vout iout pout : Nat) (s : State) : Outcome :=
  .next (if s.supply == .up && (s.estate == .e0 || s.estate == .e1) && pmbusKnown addr.toNat page.toNat then
    s.statusPoll addr.toNat page.toNat status vout iout pout else s)

/-- The clusters of a zone: those of its reticle field (R346). -/
def zoneClusters (z : Nat) : List Nat := (List.range 1200).filter fun c => clField c == z

/-- A zone is held: its clusters stay in C3 until the next cold boot (R349). -/
def State.holdZone (s : State) (z : Nat) : State :=
  let s := s.modZone z fun k => { k with await := none, held := true }
  s.each (zoneClusters z) fun t c => t.modCluster c fun k => { (k.enter .c3) with zoneHeld := true }

/-- A second missing report: every partition with a cluster of the zone faults. -/
def State.ackMissing (s : State) (z : Nat) : State :=
  let hit := (List.range 16).filter fun p => s.taken p && (s.partClusters p).any fun c => clField c == z
  ((s.holdZone z).each hit State.beginRecovery).log 0x0411 none none none 0 s.authorityPup z

/-- 1 ms after a voltage write without the report: the second write, or the hold. -/
def State.ackTimeout (s : State) (z : Nat) : State :=
  match (s.zone z).await with
  | some (t, n) =>
    if s.now < t + msCclk 1 then s
    else if n ≤ 1 then s.modZone z fun k => { k with await := some (s.now, 2) }
    else s.ackMissing z
  | none => s

/-- R349. -/
def execVoltageAckTimeout (zone : Fin 48) (s : State) : Outcome :=
  .next (if s.supply == .up then s.ackTimeout zone.val else s)

end Sys2Proof.Machine
end

