-- ==== Sys2Proof/Machine/PlanCheck.lean ====
section
/-!
DEFINITION. Check 6 of PLAN.LOAD (spec/07_plans_and_scan.md R174): the step words and presets of every slot image
(spec/03_core.md R79, spec/05_fabric.md R120, spec/06_layers_and_sparsity.md R142), the declared scales
(spec/04_number_formats.md R96), and the tracked run of each entry in which every fire condition, register and preset is
known.
-/

namespace Sys2Proof.Machine

open Sys2Proof

/-! ## Words on their own (first group of R79, first three conditions of R120) -/

/-- A FIRE word: no reserved predicate or pb_op, and a preset the slot declares. -/
def fireOk (w : BitVec 64) (presets : Nat) : Bool :=
  wbits w 58 56 != 7 && wbits w 52 50 != 7 && wbits w 41 40 != 3 && (wbits w 24 23 == 0 || decide (wbits w 22 20 < presets))

/-- A SET word: a register of Table 3.12, and zero in every reserved bit. -/
def setOk (w : BitVec 64) : Bool :=
  wbits w 61 58 == 0 && wbits w 47 40 == 0 &&
    (match regMask (wbits w 57 48) with
     | some m =>
       let v := BitVec.ofNat 40 (wbits w 39 0)
       (v &&& ~~~m) == 0#40 && (wbits w 57 48 != 0x40 || arrCfgOk v)
     | none => false)

/-- A CTL word. -/
def ctlOk (w : BitVec 64) (steps : Nat) : Bool :=
  match wbits w 61 59 with
  | 0 => wbits w 46 0 == 0 && decide (wbits w 55 47 < steps)
  | 1 => wbits w 38 0 == 0
  | 2 => wbits w 58 0 == 0
  | _ => false

/-- A step word of a slot image. -/
def stepOk (w : BitVec 64) (i : SlotImage) : Bool :=
  match wbits w 63 62 with
  | 0 => fireOk w i.presets
  | 1 => setOk w
  | 2 => ctlOk w i.steps
  | _ => false

/-- A preset word of a network: no reserved source, rx or bit, and no output fed by its own direction's input. -/
def presetWordOk (w : BitVec 64) : Bool :=
  wbits w 63 20 == 0 && decide (rxOf w ≤ 4) && allDirs.all fun d => decide (outSource w d ≤ 5) && outSource w d != dirNum d + 1

/-- Word `j` of a slot image, in its place by R70: a step word, a preset word, or zero. -/
def SlotImage.wordOk (i : SlotImage) (j : Nat) (w : BitVec 64) : Bool :=
  if j < i.steps then stepOk w i
  else if 512 - 8 * i.presets ≤ j then (if j % 8 ≤ 1 then presetWordOk w else w == 0#64)
  else w == 0#64

/-- The first group of checks over every slot image, with the image offset of each word. -/
def imagesOk (b : Bytes) (pl : Plan) : Option Nat :=
  firstBad ((enum 0 pl.images).flatMap fun (i, im) =>
    let o := (sectionAt b 0).1 + 4112 * i
    (decide (im.steps + 8 * im.presets ≤ 512), o) :: (enum 0 im.words).map fun (j, w) => (im.wordOk j w, o + 16 + 8 * j))

/-- R96: no declared scale has e = 255. -/
def scalesOk (b : Bytes) (pl : Plan) : Option Nat :=
  firstBad ((enum 0 pl.scales).map fun (i, v) => (bitsOf v.toNat 11 4 != 255, (sectionAt b 6).1 + 8 * i))

/-! ## Presets of a gang load (R142) -/

/-- Every vector preset word of a slot. -/
def Slot.vecPresets (x : Slot) : List (BitVec 64) := (List.range x.presets).map fun i => sget 0#64 x.words (504 - 8 * i)

/-- Cluster `i` of a load that gangs it: no vector preset in it, and none outside that drives a word into it. -/
def Plan.gangPresetsOk (pl : Plan) (ld : Load) (i : Nat) : Bool :=
  let c := clNum (pl.x0 + i % pl.w) (pl.y0 + i / pl.w)
  (List.range 256).all fun lc =>
    (pl.loadSlot ld i lc).vecPresets.all (· == 0#64) &&
    allDirs.all fun d => match neighbour c lc d with
      | some (c', lc') =>
        c' == c || !inRect pl.x0 pl.y0 pl.w pl.h c' ||
          (pl.loadSlot ld (pl.clusterIndex c') lc').vecPresets.all fun w => outSource w (dirOpp d) == 0
      | none => true

/-- R142, over every load that gangs a cluster. -/
def gangsOk (b : Bytes) (pl : Plan) : Option Nat :=
  firstBad ((enum 0 pl.loads).map fun (i, ld) =>
    ((enum 0 ld.blocks).all fun (j, k) => !k.gang || pl.gangPresetsOk ld j, (sectionAt b 2).1 + (8 + 40 * (pl.w * pl.h)) * i))

/-! ## The tracked run (second group of R79) -/

/-- The content of a slot for a layer: the run load that last filled it, of those named so far, else the resident load
that last did. -/
def Plan.slotIn (pl : Plan) (slot : Fin 4) (loads : List Nat) (i lc : Nat) : Slot :=
  match (loads.filterMap fun k => pl.loads[k]?).reverse.find? fun l => l.slot == slot with
  | some l => pl.loadSlot l i lc
  | none => match pl.loads.reverse.find? fun l => l.resident && l.slot == slot with
    | some l => pl.loadSlot l i lc
    | none => {}

/-- Whether a plan's cluster runs a slot ganged, by the loads named so far (R140). -/
def Plan.gangIn (pl : Plan) (slot : Fin 4) (loads : List Nat) (i : Nat) : Bool :=
  let ld := match (loads.filterMap fun k => pl.loads[k]?).reverse.find? fun l => l.slot == slot with
    | some l => some l
    | none => pl.loads.reverse.find? fun l => l.resident && l.slot == slot
  match ld.bind fun l => l.blocks[i]? with
  | some b => b.gang
  | none => false

/-- A core of the tracked run: its registers, the ports claimed ahead of the pipeline clock, the CCLK of its MAC steps in
the running layer, and whether every check has held. -/
structure Track where
  core : Core
  claims : List (Nat × Nat) := []
  macs : List Nat := []
  ok : Bool := true
  deriving DecidableEq, Repr

/-- The claims of a FIRE word issued in CCLK t: time and port (R79). -/
def Core.claims (k : Core) (w : BitVec 64) (t : Nat) : List (Nat × Nat) :=
  let f := k.fired w
  let cfg := k.reg 0x40
  let mem2 : Bool := match f.vec with | some v => (vopOf (k.reg (0x20 + v))).mem | none => false
  let mem2s : Bool := match f.sca with | some v => (sopOf (k.reg (0x30 + v))).mem | none => false
  (if f.mac then (if halfRate cfg then [(t, 0), (t + 1, 0)] else [(t, 0)]) else []) ++
  (match f.pb with
   | some 1 => if outFmt (bitsOf cfg.toNat 32 30) = .fp32 then [(t + 6, 1), (t + 7, 1)] else [(t + 6, 1)]
   | some _ => [(t, 1)]
   | none => []) ++
  (if mem2 then [(t, 2)] else []) ++ (if mem2s then [(t, 2)] else []) ++ (if f.net.isSome then [(t, 3)] else [])

/-- No claim twice. -/
def claimsOk (l : List (Nat × Nat)) (old : List (Nat × Nat)) : Bool :=
  match l with
  | [] => true
  | x :: r => !old.contains x && !r.contains x && claimsOk r old

/-- What a FIRE word needs: operations that are not reserved (R79), a send with an output and a receive with a queue
(R120), and in a ganged cluster MAC steps in column 0 only and no vector traffic (R142). -/
def Core.fireHolds (k : Core) (w : BitVec 64) (gang : Bool) (lc : Nat) : Bool :=
  let f := k.fired w
  let next := f.rte.getD k.preset
  let sop := match f.sca with | some v => some (sopOf (k.reg (0x30 + v))) | none => none
  (match f.vec with | some v => (vopOf (k.reg (0x20 + v))).ok | none => true) &&
  (match sop with | some o => o.ok | none => true) &&
  (f.net != some false || !(outsOf (k.preset? .vec next) 5).isEmpty) &&
  (f.net != some true || rxOf (k.preset? .vec k.preset) != 0) &&
  (match sop with
   | some o => (o.op != 0x12 || !(outsOf (k.preset? .sca next) 5).isEmpty) && (o.op != 0x13 || rxOf (k.preset? .sca k.preset) != 0)
   | none => true) &&
  (!gang || ((!f.mac || lc % 16 == 0) && f.net.isNone))

/-- The scalar side of a FIRE word that changes a register of Table 3.12 in a tracked run: WRAGB, whose base depends on
data and changes no claim. -/
def Core.trackFire (k : Core) (w : BitVec 64) : Core :=
  { k with pc := k.pc + 1, preset := (k.fired w).rte.getD k.preset, nextIssue := k.pt + 1 }

/-- One word of the tracked run, with no hold and no skip; its CCLK pass. -/
def Track.word (x : Track) (gang : Bool) (lc : Nat) : Track :=
  let k := x.core
  let w := k.word
  let x := { x with claims := x.claims.filter fun c => decide (k.pt ≤ c.1) }
  let pass (k : Core) (n : Nat) : Core := { k.advanceFree n with pt := k.pt + n }
  match wordKind w with
  | .fire =>
    let l := k.claims w k.pt
    { core := pass (k.trackFire w) 1, claims := x.claims ++ l, macs := if (k.fired w).mac then x.macs ++ [k.pt] else x.macs
      ok := x.ok && k.fireHolds w gang lc && claimsOk l x.claims }
  | .set => { x with core := { k.setWord 0 with pt := k.pt + 1, counted := false } }
  | .loop => { x with core := pass k.loop 1, ok := x.ok && !k.free (wbits w 58 56) }
  | .wait => { x with core := pass { k with pc := k.pc + 1 } (wbits w 58 39 + 1) }
  | .halt => { x with core := { pass k 1 with halted := true } }
  | .reserved => { x with core := { k with halted := true }, ok := false }

/-- A layer of the tracked run, to the core's HALT. -/
def Track.layer (fuel : Nat) (x : Track) (gang : Bool) (lc : Nat) : Track :=
  match fuel with
  | 0 => x
  | n + 1 => if x.core.halted || !x.ok then x else Track.layer n (x.word gang lc) gang lc

/-- A core enters a layer: registers carry over, counters and the program counter start at 0 (R81). Work of an earlier
layer has landed. -/
def Track.enter (x : Track) (slot : Slot) : Track :=
  { x with core := { x.core with slots := sput {} 0 slot [], slot := 0, pc := 0, k := [], preset := 0, halted := false, pt := 0 }, claims := [], macs := [] }

/-- The CCLK that a tracked layer may take: the largest L a layer record can hold. A core that has not halted by then
has none of R79's faults so far; PLAN.VERIFY finds its length. -/
def trackFuel : Nat := 4294967296

/-- The layers of an entry in one core: whether every check holds, and its MAC steps layer by layer. -/
def trackCore (pl : Plan) (i lc : Nat) (x : Track) (loads : List Nat) (l : List Layer) : Bool × List (List Nat) :=
  match l with
  | [] => (x.ok, [])
  | y :: r =>
    let loads := match y.load with | some k => loads ++ [k] | none => loads
    let x := Track.layer trackFuel (x.enter (pl.slotIn y.slot loads i lc)) (pl.gangIn y.slot loads i) lc
    let (ok, m) := trackCore pl i lc x loads r
    (x.ok && ok, x.macs :: m)

/-- The loads named by the layers of an entry up to and with the n-th. -/
def loadsUpTo (l : List Layer) (n : Nat) : List Nat := (l.take (n + 1)).filterMap (·.load)

/-- The tracked run of an entry in one cluster: every core's checks, and MAC steps of column 0 in the same CCLK wherever a
slot gangs it (R142). -/
def trackCluster (pl : Plan) (i : Nat) (l : List Layer) : Bool :=
  let runs := (List.range 256).map fun lc => trackCore pl i lc { core := {} } [] l
  runs.all (·.1) &&
    (enum 0 l).all fun (n, y) =>
      !pl.gangIn y.slot (loadsUpTo l n) i ||
        (let at' (r : Nat) : List Nat := (((runs[16 * r]?).map (·.2)).bind fun m => m[n]?).getD []
         (List.range 16).all fun r => at' r == at' 0)

/-- The tracked run of every entry. -/
def tracksOk (b : Bytes) (pl : Plan) : Option Nat :=
  firstBad ((enum 0 pl.entries).map fun (i, e) =>
    ((List.range (pl.w * pl.h)).all fun c => trackCluster pl c (pl.entryLayers e), (sectionAt b 3).1 + 48 * i))

/-- Check 6. -/
def check6 (b : Bytes) (pl : Plan) : Option Nat :=
  match imagesOk b pl with
  | some o => some o
  | none => match scalesOk b pl with
    | some o => some o
    | none => match gangsOk b pl with
      | some o => some o
      | none => tracksOk b pl

end Sys2Proof.Machine
end

