-- ==== Sys2Proof/Machine/Tick.lean ====
section
/-!
DEFINITION. One CCLK of the engine's clocks: ET (spec/00_scope.md R7, spec/12_links_collectives_time.md R326,
spec/13_clocks_and_power_states.md R342) and what a core's pipeline clock, counters, preset and hold do in it whatever
is commanded (spec/03_core.md R73, R78, R84, R85, spec/06_layers_and_sparsity.md R162). `step` takes it on an empty
queue.
-/

namespace Sys2Proof.Machine

open Sys2Proof

/-- ET goes on by one at each TCLK edge, and by 5 every 40 ns while the always-on domain counts. -/
def State.clock (s : State) : State :=
  let s : State := { s with now := s.now + 1 }
  match s.etClock with
  | .held => s
  | .tclk => if s.sub + 1 < 8 then { s with sub := s.sub + 1 } else { s with sub := 0, et := s.et + 1 }
  | .alwaysOn => if s.sub + 1 < 40 then { s with sub := s.sub + 1 } else { s with sub := 0, et := s.et + 5 }

/-- MAC work on its way while the rest of the core stands still (R162). -/
def Pend.macOn (x : Pend) : Pend :=
  match x.act with
  | .mac _ _ _ => { x with due := x.due - 1 }
  | _ => x

/-- One CCLK of a core in a run. Free-running counters advance in a CCLK in which a word issued or waits (R78). -/
def Core.tick (k : Core) (cause : Option HoldKind) (mac : Bool) : Core :=
  let k := { k with preset := k.presetNext }
  match k.hold with
  | some _ =>
    let k := k.heldOnce cause
    if mac then { k with pipe := k.pipe.map Pend.macOn } else k
  | none =>
    let k := if k.pt < k.nextIssue && !k.counted then k.advanceFree 1 else k
    { k with pt := k.pt + 1, counted := false }

/-- One CCLK of a cluster; a ganged one's gang clock stands still in a freeze unless a MAC step may land (R149, R162). -/
def State.tickCluster (s : State) (c : Nat) : State :=
  if s.clocked c then
    let t := s.each (List.range 256) fun t lc => t.modCore (s.lcore c lc) fun k =>
      if k.active then k.tick (s.ownCause c lc) (s.macRuns c lc) else k
    let frozen := (List.range 256).any fun lc => (s.coreAt (s.lcore c lc)).hold.isSome
    if (s.cluster c).ganged && (!frozen || s.gangRuns c) then t.modCluster c fun k => { k with gangPt := k.gangPt + 1 } else t
  else s

/-- A CCLK in which halted cores wait for the link records of their layer: every core counts it as held with a queue cause,
and the first one as a hold (R316). -/
def State.linkWait (s : State) (p since : Nat) : State :=
  s.each (s.partCores p) fun t n => t.modCore n fun k =>
    if s.now = since then { k.slips .queue 1 with slipHolds := satAdd k.slipHolds 1 } else k.slips .queue 1

/-- One CCLK of a partition with a run: its clusters, slip and the count of CCLK in which some core held (R85, R266), and
the end of a run whose watchdog has tripped (R86). -/
def State.tickPart (s : State) (p : Nat) : State :=
  match (s.part p).run with
  | none => s
  | some run =>
    let cls := (s.partClusters p).filter s.clocked
    let holds := run.haltedAt.isSome || cls.any fun c => (List.range 256).any fun lc => (s.coreAt (s.lcore c lc)).hold.isSome
    let t := s.each cls State.tickCluster
    let t := match run.haltedAt with | some since => t.linkWait p since | none => t
    let t := if holds then t.modPart p fun q => { q with run := q.run.map fun r =>
        { r with held := r.held + 1, flags := { r.flags with slip := true } } } else t
    if run.deadlock then t.contain p stRetry rsWatchdog else t

/-- One CCLK of the engine. -/
def State.tickAll (s : State) : State := (s.each (List.range 16) State.tickPart).clock

end Sys2Proof.Machine
end

