-- ==== Sys2Proof/Machine/Cycle.lean ====
section
/-!
DEFINITION. The simulation of PLAN.VERIFY (spec/07_plans_and_scan.md R179): every entry of a plan, CCLK by CCLK, on a copy
of the partition that holds nothing but the plan (spec/05_fabric.md R125, spec/06_layers_and_sparsity.md R148, R154, R164,
spec/11_memory_and_dma.md R282, spec/12_links_collectives_time.md R315), by the same operations that run the wafer.
-/

namespace Sys2Proof.Machine

open Sys2Proof

/-- Where a check of Table 9.14 fails; an absent field is 0xFF in every byte (R249). -/
structure VFail where
  code : Nat
  layer : Option Nat := none
  cluster : Option Nat := none
  core : Option Nat := none
  /-- CCLK from the layer's word 0. -/
  cclk : Option Int := none
  deriving DecidableEq, Repr

/-- The simulation: the copy of the engine, and the first failure. -/
structure Sim where
  st : State
  fail : Option VFail := none
  deriving DecidableEq, Repr

/-- What is being simulated: the partition, its plan, the link records that bring cells, and whether skips are taken. -/
structure SimOf where
  p : Nat
  plan : Plan
  recvs : List LinkRec
  skip : Bool
  deriving DecidableEq, Repr

/-- Going on unless a check has failed. -/
def Sim.go (x : Sim) (f : State → State) : Sim := if x.fail.isSome then x else { x with st := f x.st }

/-- A failure at a core in the present CCLK; the first one stays. -/
def Sim.stop (x : Sim) (code c lc : Nat) (run : Run) : Sim :=
  if x.fail.isSome then x
  else
    let t : Int := Int.ofNat x.st.now - Int.ofNat run.layerAt
    { x with fail := some { code := code, layer := some run.layer, cluster := some c, core := some lc, cclk := some t } }

/-- A fold over a list that stops at a failure. -/
def Sim.each {α : Type} (x : Sim) (l : List α) (f : Sim → α → Sim) : Sim :=
  match l with
  | [] => x
  | a :: r => if x.fail.isSome then x else Sim.each (f x a) r f

/-- The run of the copy. -/
def Sim.run (x : Sim) (o : SimOf) : Option Run := (x.st.part o.p).run

/-- Every logical core of the copy's partition. -/
def SimOf.cores (o : SimOf) : List (Nat × Nat) :=
  (rectClusters o.plan.x0 o.plan.y0 o.plan.w o.plan.h).flatMap fun c => (List.range 256).map fun lc => (c, lc)

/-! ## What may not be touched (R282, R315) -/

/-- Line numbers of a scratchpad that a record of the layer has still to bring to a core. -/
def State.awaited (s : State) (o : SimOf) (run : Run) (c lc a : Nat) : Bool :=
  (o.plan.sched.zipIdx.any fun (t, r) =>
    t.layer == run.layer && t.kind == 1 && t.cluster == c && t.core == lc &&
      (List.range t.count).any fun i => decide (sget 0 run.moved r ≤ i) && t.spadOf i / 64 == a / 64) ||
  ((s.coreAt (s.lcore c lc)).chan.any fun l => l.addr.toNat / 64 == a / 64) ||
  (o.recvs.any fun r => r.layer == run.layer && r.cluster == c && r.core == lc && decide (run.layerAt + r.start ≤ s.now) &&
    (List.range r.count).any fun n => decide (s.now ≤ run.layerAt + r.due + 8 * r.period * n) &&
      (List.range 4).any fun j => r.spadOf n j / 64 == a / 64)

/-- A line that a record of the layer has still to read for HBM. -/
def owedToHbm (o : SimOf) (run : Run) (c lc a : Nat) : Bool :=
  o.plan.sched.zipIdx.any fun (t, r) =>
    t.layer == run.layer && t.kind == 2 && t.cluster == c && t.core == lc &&
      (List.range t.count).any fun i => decide (run.readCount r ≤ i) && t.spadOf i / 64 == a / 64

/-- A line that a link record of the layer reads, once its start has come. -/
def State.linkLine (s : State) (o : SimOf) (run : Run) (c lc a : Nat) : Bool :=
  (s.part o.p).groups.any fun g => g.2.recs.any fun r =>
    r.layer == run.layer && r.cluster == c && r.core == lc && decide (run.layerAt + r.start ≤ s.now) &&
      (List.range r.count).any fun n => (List.range 4).any fun j => r.spadOf n j / 64 == a / 64

/-- A line that a link record of the layer writes. -/
def linkWrites (o : SimOf) (run : Run) (c lc a : Nat) : Bool :=
  o.recvs.any fun r => r.layer == run.layer && r.cluster == c && r.core == lc &&
    (List.range r.count).any fun n => (List.range 4).any fun j => r.spadOf n j / 64 == a / 64

/-- A line is under a range that has been armed (R82). -/
def Core.ranged (k : Core) (a : Nat) : Bool :=
  (List.range 8).any fun i => sget 0 k.armed i != 0 && k.covers (addrBank a) (addrLine a) i

/-- A step word's access to a line keeps the conditions of R154, R282 and R315. -/
def State.mayTouch (s : State) (o : SimOf) (run : Run) (c lc a : Nat) (write : Bool) : Bool :=
  let k := s.coreAt (s.lcore c lc)
  !s.awaited o run c lc a && !(write && (owedToHbm o run c lc a || s.linkLine o run c lc a)) &&
    (write || !linkWrites o run c lc a || (k.guarded && k.ranged a))

/-! ## One CCLK -/

/-- Words and credits arrive. -/
def State.arriveAll (s : State) : State :=
  let s := s.each (s.flights.filter fun f => decide (f.time ≤ s.now)) fun t f =>
    match (t.cluster f.cl.val).logical f.core.val with
    | some lc => t.arrive f.cl.val lc f.net f.port
    | none => t
  s.each (s.credits.filter fun x => decide (x.time ≤ s.now)) fun t x =>
    match (t.cluster x.cl.val).logical x.core.val with
    | some lc => t.credit x.cl.val lc x.net x.out
    | none => t

/-- What ends at the beginning of a CCLK: waits, holds, the work of halted cores. -/
def State.endings (s : State) (l : List (Nat × Nat)) : State :=
  s.each l fun t (c, lc) => ((t.modCore (t.lcore c lc) Core.waitDone).holdEnds c lc).coreHalt c lc

/-- HBM lines in their slots, and cells of link records at their due times. -/
def State.movements (s : State) (o : SimOf) (run : Run) : State :=
  let s := s.each o.plan.sched.zipIdx fun t (x, r) =>
    if x.layer = run.layer then t.slotTransfer o.p r (sget 0 (((t.part o.p).run.map (·.moved)).getD []) r) .clean else t
  s.each o.recvs fun t r =>
    if r.layer = run.layer then
      t.each (List.range r.count) fun t n =>
        if run.layerAt + r.due + 8 * r.period * n = t.now then
          t.modCore (t.lcore r.cluster r.core) fun k => { k with chan := k.chan ++ (List.range 4).map fun j =>
            { eligible := t.now, chan := 64 + r.die, addr := BitVec.ofNat 18 (r.spadOf n j), data := zeros 64
              line := .sched (Fin.ofNat 16 o.p) 0 0 } }
        else t
    else t

/-- Forced core-to-HBM reads: one that is late, or that a step word stands in the way of, fails condition 3 of R282, in
the CCLK in which port 3 would make it. -/
def Sim.forced (x : Sim) (run : Run) (c lc : Nat) : Sim :=
  let s := x.st
  match s.forcedRead c lc with
  | none => x
  | some w =>
    let k := s.coreAt (s.lcore c lc)
    if !(s.readsNow c lc).contains w then x
    else if w.until_ < s.now ∨ (k.ready ∧ k.hold.isNone ∧ k.claims3 k.word) then x.stop 4 c lc run
    else x.go fun s => s.portRead c lc w .clean

/-- A core of scheduled mode would hold on a queue in this CCLK: a receive that finds its queue empty, or a send without
credit (R125). -/
def State.queueHold (s : State) (c lc : Nat) : Bool :=
  match s.ownHold c lc with
  | some (.queue, _) => !(s.coreAt (s.lcore c lc)).guarded
  | _ => false

/-- The word of a core in this CCLK: its checks, those of a ganged cluster for all of its cores at once, then its issue. -/
def Sim.issue (x : Sim) (o : SimOf) (run : Run) (c lc : Nat) : Sim :=
  let s := x.st
  let k := s.coreAt (s.lcore c lc)
  if s.queueHold c lc then x.stop 1 c lc run
  else if (s.cluster c).ganged && (List.range 256).any (s.queueHold c) then
    x.stop 1 c (((List.range 256).find? (s.queueHold c)).getD 0) run
  else if k.hold.isSome || !k.ready then x
  else if (s.holdNow c lc).isSome then x.go fun s => (s.holdNow c lc).getD s
  else
    let w := k.word
    match wordKind w with
    | .fire =>
      let touched := (k.reads w s.phase (s.macReads c lc)).map (fun a => (a.2, false)) ++ (k.stores w s.phase).map fun a => (a.2, true)
      let mixed := (s.cluster c).ganged && lc == 0 && (k.fired w).mac &&
        !(List.range 256).all fun j => (s.coreAt (s.lcore c j)).reg 0x40 == k.reg 0x40
      if mixed then x.stop 3 c lc run
      else if !touched.all fun a => s.mayTouch o run c lc a.1 a.2 then x.stop 4 c lc run
      else x.go fun s => s.issue c lc .fire .clean fun t => t.fire c lc
    | .set => x.go fun s => s.issue c lc .set .clean fun t => t.modCore (t.lcore c lc) fun k => k.setWord t.now
    | .loop => x.go fun s => s.issue c lc .loop .clean fun t =>
        t.modCore (t.lcore c lc) fun k => if o.skip && t.maySkip c lc (fun _ _ _ => true) then k.skip else k.loop
    | .wait => x.go fun s => s.issue c lc .wait .clean fun t => t.modCore (t.lcore c lc) Core.wait
    | .halt => x.go fun s => s.issue c lc .halt .clean fun t => t.modCore (t.lcore c lc) Core.halt
    | .reserved => x.stop 8 c lc run

/-- A core has a word to issue, and it or another core of its ganged cluster has a send without credit so far. -/
def State.lacksCredit (s : State) (c lc : Nat) : Bool :=
  let lacks (j : Nat) : Bool :=
    let k := s.coreAt (s.lcore c j)
    let w := k.word
    let f := k.fired w
    k.active && k.hold.isNone && k.ready && wordKind w == .fire &&
      ((f.net == some false && s.sendWaits c j .vec (k.nextPreset w)) ||
        (f.sca.any fun v => (sopOf (k.reg (0x30 + v))).op == 0x12 && s.sendWaits c j .sca (k.nextPreset w)))
  if (s.cluster c).ganged then (List.range 256).any lacks else lacks lc

/-- The words of all cores in this CCLK. A core whose send lacks credit waits for those that may still raise it in the same
CCLK (R122); the cores that are left hold. -/
def Sim.issueAll (fuel : Nat) (x : Sim) (o : SimOf) (run : Run) (l : List (Nat × Nat)) : Sim :=
  let (wait, ready) := l.partition fun a => x.st.lacksCredit a.1 a.2
  match fuel with
  | 0 => x.each l fun x a => x.issue o run a.1 a.2
  | n + 1 =>
    if ready.isEmpty then x.each wait fun x a => x.issue o run a.1 a.2
    else Sim.issueAll n (x.each ready fun x a => x.issue o run a.1 a.2) o run wait

/-- Port 3 of a core: the write, read or link read that it serves in this CCLK. A link line that a rate of R305 keeps waiting
fails. -/
def Sim.port3 (x : Sim) (o : SimOf) (run : Run) (c lc : Nat) : Sim :=
  let s := x.st
  if s.overRate c lc then x.stop 4 c lc run
  else if s.wordTakes3 c lc then x
  else match (s.writesNow c lc).find? fun l => s.served3 c lc l.eligible l.chan with
    | some l => x.go fun s => s.portWrite c lc l
    | none => match (s.readsNow c lc).find? fun w => s.served3 c lc w.since w.chan with
      | some w => x.go fun s => s.portRead c lc w .clean
      | none => match (s.linkReadsNow c lc).find? fun w => s.served3 c lc w.since w.chan with
        | some w => match s.linkRec o.p (w.recNo / 4096) (w.recNo % 4096) with
          | some (r, _, rec, g) =>
            x.go fun s => (s.lineRead o.p (w.recNo / 4096) (w.recNo % 4096) r rec g .clean).modProg o.p w.recNo
              fun y => { y with queued := 0 }
          | none => x
        | none => x

/-- Every queue of a core passes on what it can. -/
def State.departAll (s : State) (c lc : Nat) : State :=
  s.each [Net.vec, Net.sca] fun t net => t.each allDirs fun t d => t.depart c lc net d

/-- Drain writes, with the checks of their lines. -/
def Sim.drains (x : Sim) (o : SimOf) (run : Run) (c lc : Nat) : Sim :=
  let s := x.st
  let k := s.coreAt (s.lcore c lc)
  if k.hold.isSome || (s.holdNow c lc).isSome then x.go fun s => s.drainWrite c lc
  else
    let lines := (k.due .drain).filterMap fun d => match d.act with
      | .drain l _ _ => some (lineAddr (bankOf 1 s.phase) l)
      | _ => none
    if !lines.all fun a => s.mayTouch o run c lc a true then x.stop 4 c lc run else x.go fun s => s.drainWrite c lc

/-- Everything that lands at the end of a CCLK in a core. -/
def State.landAll (s : State) (c lc : Nat) : State :=
  s.each [Stream.vec, .sca, .wload, .sload, .mac] fun t q => t.landing c lc q

/-- The watchdog (R86). -/
def Sim.watch (x : Sim) (run : Run) (c lc : Nat) : Sim :=
  match (x.st.coreAt (x.st.lcore c lc)).hold with
  | some h => if 4096 ≤ h.count ∧ !x.st.holdOver c lc h then x.stop 12 c lc run else x
  | none => x

/-- One CCLK, unless the layer ends at its beginning. -/
def Sim.cycle (x : Sim) (o : SimOf) : Sim :=
  let l := o.cores
  let x := x.go fun s => s.arriveAll.endings l
  match x.run o with
  | none => x
  | some run =>
    if run.layerEnd.isSome then x
    else
      let x := x.go fun s => s.movements o run
      let x := x.go fun s => s.each l fun t a => t.departAll a.1 a.2
      let x := x.each l fun x a => x.forced run a.1 a.2
      let x := x.issueAll l.length o run l
      let x := x.each l fun x a => x.port3 o run a.1 a.2
      let x := x.each l fun x a => x.drains o run a.1 a.2
      let x := x.go fun s => s.each l fun t a => t.landAll a.1 a.2
      let x := x.go fun s => s.each (s.partClusters o.p) fun t c => t.each (List.range 16) fun t k => t.gangUpdate c k
      let x := x.each l fun x a => x.watch run a.1 a.2
      x.go fun s => (s.tickPart o.p).clock

/-! ## Layers and entries -/

/-- A layer, CCLK by CCLK. -/
def Sim.layer (fuel : Nat) (x : Sim) (o : SimOf) : Sim :=
  match fuel with
  | 0 => x
  | n + 1 =>
    if x.fail.isSome || (match x.run o with | some r => r.layerEnd.isSome | none => true) then x else Sim.layer n (x.cycle o) o

/-- A word left in a core when its layer has ended (R125). -/
def State.wordLeft (s : State) (c lc : Nat) : Bool :=
  let k := s.coreAt (s.lcore c lc)
  [Net.vec, Net.sca].any fun net => allDirs.any fun d => !(k.inPort net d).queue.isEmpty

/-- A credit outstanding in a core when its layer has ended (R125). -/
def State.creditLeft (s : State) (c lc : Nat) : Bool :=
  let n := s.lcore c lc
  let k := s.coreAt n
  [Net.vec, Net.sca].any fun net => allDirs.any fun d => decide (s.creditsBy n net d s.now < (k.outPort net d).used)

/-- The checks at a layer's end: queues, then credits (R125), then every line moved (condition 4 of R282). -/
def Sim.atEnd (x : Sim) (o : SimOf) : Sim :=
  match x.run o with
  | none => x
  | some run =>
    if run.layerEnd.isNone then (if x.fail.isSome then x else { x with fail := some { code := 8, layer := some run.layer } })
    else
      let x := x.each o.cores fun x a => if x.st.wordLeft a.1 a.2 then x.stop 2 a.1 a.2 run else x
      let x := x.each o.cores fun x a => if x.st.creditLeft a.1 a.2 then x.stop 2 a.1 a.2 run else x
      let x := x.each o.cores fun x a => if !(x.st.coreAt (x.st.lcore a.1 a.2)).chan.isEmpty then x.stop 4 a.1 a.2 run else x
      x.each o.plan.sched.zipIdx fun x (t, r) =>
        if t.layer = run.layer ∧ sget 0 run.moved r < t.count then x.stop 4 t.cluster t.core run else x

/-- Word 0 of a layer, at a time: the cores in its slot, with its content; START before the first (R80, R81). -/
def Sim.enter (x : Sim) (o : SimOf) (n : Nat) (y : Layer) (first : Bool) (loads : List Nat) (time : Nat) : Sim :=
  x.go fun s =>
    let d := time - s.now
    let s : State := { s with now := time, sub := (s.sub + d) % 8, et := s.et + BitVec.ofNat 64 ((s.sub + d) / 8), coreEvents := [] }
    let s := s.each (s.partClusters o.p) fun t c => t.modCluster c fun k =>
      { k with ganged := o.plan.gangIn y.slot loads (o.plan.clusterIndex c), gangPt := 0, gang := [] }
    let s := s.each o.cores fun t (c, lc) => t.modCore (t.lcore c lc) fun k =>
      let k := { k with slots := sput {} y.slot.val (o.plan.slotIn y.slot loads (o.plan.clusterIndex c) lc) [] }
      if first then k.startReset y.slot y.guarded else k.switchTo y.slot y.guarded
    s.modPart o.p fun q => { q with run := q.run.map fun r =>
      { r with layer := n, layerAt := time, layerEnd := none, haltedAt := none, linkEnd := 0, moved := [], readLines := [], links := [] } }

/-- The layers of an entry from the n-th on: the length of each and the time of its word 0. -/
def Sim.layers (x : Sim) (o : SimOf) (n : Nat) (first : Bool) (loads : List Nat) (time : Nat) (l : List Layer) : Sim × List (Nat × Nat) :=
  match l with
  | [] => (x, [])
  | y :: r =>
    let loads := match y.load with | some k => loads ++ [k] | none => loads
    let x := Sim.atEnd (Sim.layer trackFuel (x.enter o n y first loads time) o) o
    if x.fail.isSome then (x, [])
    else
      let e := ((x.run o).bind (·.layerEnd)).getD time
      let next := x.st.phase0From (e + switchTime o.plan.w o.plan.h)
      let (x, m) := Sim.layers x o (n + 1) false loads next r
      (x, (time, e - time) :: m)

/-- The link records of groups that name the plan, as the simulation runs them: those that read local lines as sends, on
their own timeline. -/
def Group.sending (g : Group) (id : BitVec 64) : Group :=
  let all := g.recs.filter LinkRec.readsLocal
  { g with ports := g.ports.map fun e => { e with joined := true }
           recs := if g.planId = id then all.map fun r => { r with op := 1 } else [] }

/-- The copy of the engine for an entry: nothing but the partition, its plan and the effective repair maps, with START at a
tick offset. -/
def State.copyFor (s : State) (p off : Nat) (l : Loaded) (i : Nat) (e : Entry) : State :=
  let q := s.part p
  let req : Request :=
    { id := 0, die := 0, fn := 0, ring := 0, tag := 0, entry := i, prio := 0, deadline := 0, inLen := 0, outAddr := 0, outLen := 0
      fetch := 0, p := 0, b := 0, i := 0, e := 0, promisedEnd := 0, promise := 0, pair := 0, inBase := e.inOff, outBase := e.outOff
      stage := .running }
  let run : Run := { req := 0, handle := 0, entry := i, layer := e.first, layerAt := 0 }
  let q' : PartState :=
    { life := .live, cfg := q.cfg, plans := [(0, l)], bound := some 0, queue := [req], run := some run
      groups := q.groups.map fun g => (g.1, g.2.sending l.plan.planId) }
  let mine (c : Nat) : Bool := q.cfg.clusters.contains c
  let cluster (c : Nat) (k : Cluster) : Cluster :=
    if mine c then { power := .c0, omitXor := k.omitXor, assigned := k.assigned, partition := k.partition } else k
  let bare : State := { parts := sput {} p q' [] }
  { bare with
      supply := .up, estate := .e0, etClock := .tclk, now := 4096 + off, sub := off % 8
      rails := { core := true, cclk := true }
      clusters := q.cfg.clusters.foldl (fun m c => sput {} c (cluster c (s.cluster c)) m) []
      cores := smapAll {} (fun n k => if mine (n / 272) then { fence := k.fence } else {}) s.cores
      links := s.links, leases := [] }

/-- Simulating an entry with START at a tick offset, with or without skips: the times and lengths of its layers. -/
def State.simulate (s : State) (p off : Nat) (l : Loaded) (i : Nat) (e : Entry) (skip : Bool) : Except VFail (List (Nat × Nat)) :=
  let recvs := (s.part p).groups.flatMap fun g =>
    if g.2.planId = l.plan.planId ∧ g.2.mask.getLsbD i then g.2.recs.filter fun r => r.op == 2 || r.op == 4 || r.op == 5 else []
  let o : SimOf := { p := p, plan := l.plan, recvs := recvs, skip := skip }
  let (x, m) := Sim.layers { st := s.copyFor p off l i e } o e.first true [] (4096 + off) (l.plan.entryLayers e)
  match x.fail with
  | some f => .error f
  | none => .ok m

end Sys2Proof.Machine
end

