-- ==== Sys2Proof/Machine/Plans.lean ====
section
/-!
DEFINITION. The plan commands (spec/07_plans_and_scan.md R174 to R181, spec/09_mailboxes_and_commands.md R249 to R251):
PLAN.LOAD, PLAN.UNLOAD, PLAN.BIND and PLAN.VERIFY, and the completion of each that is long.
-/

namespace Sys2Proof.Machine

open Sys2Proof

/-! ## PLAN.LOAD -/

/-- The first check of R174 that an image fails: its number and the image offset. -/
def PartState.loadFails (q : PartState) (b : Bytes) (off len : Nat) : Option (Nat × Nat) :=
  let pl := parsePlan b
  let tries : List (Nat × (Unit → Option Nat)) :=
    [(1, fun _ => check1 b), (2, fun _ => check2 q.cfg b off len), (3, fun _ => check3 b), (4, fun _ => check4 b),
     (5, fun _ => check5 q.cfg b), (6, fun _ => check6 b pl), (7, fun _ => check7 b pl q.cfg), (8, fun _ => check8 b pl q.cfg),
     (9, fun _ => check9 q pl)]
  tries.findSome? fun (n, f) => (f ()).map fun o => (n, o)

/-- The lowest handle that is free. -/
def PartState.freeHandle (q : PartState) : Nat := ((List.range 4).find? fun h => (sfind? q.plans h).isNone).getD 0

/-- Copying images into free places of a cluster's store (R175, R177). -/
def Cluster.storeImages (k : Cluster) (p : Part) (h : Nat) (pl : Plan) (l : List Nat) : Cluster :=
  match l with
  | [] => k
  | i :: r =>
    let place := ((List.range 16).find? fun n => (sfind? k.store n).isNone).getD 0
    let slot := match pl.images[i]? with | some im => im.toSlot | none => {}
    Cluster.storeImages { k with
        store := sins place { part := p, handle := h, image := i, slot := slot } k.store
        fill := k.fill.filter fun x => x.1 / 512 != place } p h pl r

/-- A loaded plan takes its handle and its places; slip counters and CO_QMAX clear (R85, R139). -/
def State.loadPlan (s : State) (p : Nat) (b : Bytes) (off : Nat) : State × Nat :=
  let h := (s.part p).freeHandle
  let pl := parsePlan b
  let s := s.modPart p fun q => { q with plans := sins h { off := off, len := b.length, plan := pl, image := b } q.plans }
  let s := s.each (s.partClusters p) fun t c => t.modCluster c fun k => k.storeImages (Fin.ofNat 16 p) h pl (pl.storeImages (pl.clusterIndex c))
  let s := s.each (s.partClusters p) fun t c => t.modListedCores c fun k =>
    { k with slipRange := 0, slipQueue := 0, slipHolds := 0, qmax := [] }
  (s, h)

/-- The checks are done: the plan is loaded, or the first that failed is told (R174, R249). -/
def State.loadDone (s : State) (l : LongCmd) : State :=
  let p := l.part.val
  let q := s.part p
  let off := field l.payload 8 8
  let len := field l.payload 16 4
  let b := if q.cfg.holds off len then s.relRead q.cfg off len else s.relRead q.cfg off 256
  match q.loadFails b off len with
  | some (n, o) => s.finish l (if n ≤ 7 then stBadArg else stNoResource) (toLe 4 n ++ toLe 4 o)
  | none => (s.loadPlan p b off).1.finish l stOk (toLe 8 (s.loadPlan p b off).2)

/-- R174. -/
def execPlanLoad (die : Die) (fn : Fn) (slot : Fin 32) (s : State) : Outcome :=
  .next (s.serve die.val fn.val slot.val { code := 0x20, need := fun _ => 20, named := true, long := true } fun t c => t.accept c c.named)

/-- The long command of a completion, if it has the code. -/
def State.ending (s : State) (h f : Nat) (seq : BitVec 16) (code : BitVec 8) (act : State → LongCmd → State) : State :=
  match s.long? h f seq with
  | some l => if l.code = code then act s l else s
  | none => s

/-- R174, R177. -/
def execPlanLoadDone (die : Die) (fn : Fn) (seq : BitVec 16) (s : State) : Outcome :=
  .next (s.ending die.val fn.val seq 0x20 State.loadDone)

/-! ## PLAN.UNLOAD -/

/-- R178: the run and the requests of a bound plan end; the handle, the places and the range are free. -/
def State.unloadPlan (s : State) (p h : Nat) : State :=
  let bound := (s.part p).bound == some h
  let s := if bound then s.endReqs p (fun _ => true) stAborted rsReset else s
  let s := if bound then s.stopRun p else s
  let s := s.modPart p fun q => { q with plans := sdel h q.plans, bound := if bound then none else q.bound }
  let s := s.each (s.partClusters p) fun t c => t.modCluster c fun k =>
    { k with store := k.store.filter fun x => !(x.2.part.val == p && x.2.handle == h) }
  if bound then s.enterAll (s.partClusters p) .c3 else s

/-- R178. -/
def State.planUnload (s : State) (c : Cmd) : State :=
  if (sfind? (s.part c.named).plans (c.at 1 1)).isNone then s.answer c stBadArg
  else
    let s := s.finishAll (fun l => (l.code == 0x22#8 || l.code == 0x23#8) && l.part.val == c.named && field l.payload 1 1 == c.at 1 1) stAborted
    (s.unloadPlan c.named (c.at 1 1)).acceptDone c stOk

/-- R178. -/
def execPlanUnload (die : Die) (fn : Fn) (slot : Fin 32) (s : State) : Outcome :=
  .next (s.serve die.val fn.val slot.val { code := 0x21, need := fun _ => 2, named := true, long := true } State.planUnload)

/-! ## PLAN.BIND -/

/-- R356: the committed power with a plan bound instead of the partition's own, and twice the power of a field. -/
def State.powerFits (s : State) (p : Nat) (pl : Plan) : Bool :=
  let plans := (List.range 16).filterMap fun q => if q = p then some pl else (s.part q).boundPlan.map (·.plan)
  let total := plans.foldl (fun a x => a + x.powerW) 2600
  decide (total ≤ s.policy.capW) && (List.range 48).all fun n =>
    decide (25 + 2 * plans.foldl (fun a x => a + x.fieldPower.getD n 0) 0 ≤ 890)

/-- R181: the statuses in which binding changes nothing. -/
def State.planBind (s : State) (c : Cmd) : State :=
  let q := s.part c.named
  match sfind? q.plans (c.at 1 1) with
  | none => s.answer c stBadArg
  | some l =>
    if !l.verified || !s.powerFits c.named l.plan then s.answer c stNotReady
    else if !q.queue.isEmpty || q.run.isSome then s.answer c stBusy
    else s.accept c c.named

/-- I and E of each entry (R15). -/
def Plan.bounds (pl : Plan) (q : Nat) : List (Nat × Nat) := pl.entries.map fun e => (hostBound q e.sIn, hostBound q e.sOut)

/-- The PLAN.BIND report (R251). -/
def bindReport (l : List (Nat × Nat)) : Bytes :=
  toLe 4 0x444E424B ++ toLe 2 l.length ++ zeros 10 ++ l.flatMap fun (i, e) => toLe 4 i ++ toLe 4 e

/-- The plan is bound: its resident loads stand in every cluster that keeps state, and the others wake to take them
(R181). -/
def State.bindPlan (s : State) (p h : Nat) (l : Loaded) : State :=
  let bounds := l.plan.bounds (s.part p).cfg.q
  let s := s.modPart p fun q => { q with bound := some h, plans := sins h { l with bounds := bounds } q.plans }
  let up := (s.partClusters p).filter fun c => (s.cluster c).trans.isNone && decide ((s.cluster c).power.depth ≤ 1)
  (s.each up fun t c => t.placeResident p c).place p

/-- R181, R251. -/
def State.bindDone (s : State) (l : LongCmd) (lost : Bool) : State :=
  let p := l.part.val
  let q := s.part p
  let h := field l.payload 1 1
  match sfind? q.plans h with
  | none => s.finish l stBadArg
  | some x =>
    if !x.verified || !s.powerFits p x.plan then s.finish l stNotReady
    else if !q.queue.isEmpty || q.run.isSome then s.finish l stBusy
    else
      let body := bindReport (x.plan.bounds q.cfg.q)
      ((s.bindPlan p h x).report l.die.val (slice l.payload 8 16) body lost).finish l stOk (toLe 4 body.length)

/-- R181. -/
def execPlanBind (die : Die) (fn : Fn) (slot : Fin 32) (s : State) : Outcome :=
  .next (s.serve die.val fn.val slot.val { code := 0x22, need := fun _ => 24, named := true, long := true } State.planBind)

/-- R181. -/
def execPlanBindDone (die : Die) (fn : Fn) (rep : Reporting (BitVec 16)) (s : State) : Outcome :=
  .next (s.ending die.val fn.val rep.cmd 0x22 fun t l => t.bindDone l rep.lost)

/-! ## PLAN.VERIFY -/

/-- R188: the first run load of an entry that is late, by the times of its layers. The CCLK is counted from word 0 of the
layer that uses the slot. -/
def Plan.lateLoad (pl : Plan) (e : Entry) (times : List (Nat × Nat)) : Option VFail :=
  let ls := pl.entryLayers e
  (enum 0 ls).findSome? fun (i, y) =>
    match y.load.bind fun k => pl.loads[k]? with
    | none => none
    | some ld =>
      match (enum 0 ls).find? fun (j, z) => decide (i < j) && z.slot == ld.slot with
      | none => none
      | some (j, _) => match times[i]?, times[j - 1]?, times[j]? with
        | some (t, _), some (b, n), some (u, _) =>
          if b + n < t + 2 * pl.reload ld then
            some { code := 5, layer := some (e.first + j), cclk := some (Int.ofNat (t + 2 * pl.reload ld) - Int.ofNat u) }
          else none
        | _, _, _ => none

/-- The layers whose simulated length differs from the record's L, and an N that differs from the declared one. -/
def Plan.lengthFail (pl : Plan) (e : Entry) (times : List (Nat × Nat)) : Option VFail :=
  match (enum 0 (times.zip (pl.entryLayers e))).find? fun x => x.2.1.2 != x.2.2.len with
  | some (i, x) => some { code := 8, layer := some (e.first + i), cclk := some (Int.ofNat x.1.2) }
  | none => match times.head?, times.getLast? with
    | some a, some z => if z.1 + z.2 - a.1 = e.n then none else some { code := 9 }
    | _, _ => none

/-- A failure in the simulation with skips is check 7, but for the conditions of R282 (check 4). -/
def VFail.skipped (f : VFail) : VFail := if f.code = 4 then f else { f with code := 7 }

/-- The simulations of an entry, in order: at both tick offsets, and for an elastic plan with skips. -/
def State.verifyEntry (s : State) (p : Nat) (l : Loaded) (i : Nat) (e : Entry) : Except VFail (List (Nat × Nat)) :=
  match s.simulate p 0 l i e false with
  | .error f => .error f
  | .ok times => match s.simulate p 4 l i e false with
    | .error f => .error f
    | .ok _ =>
      let skipped : Option VFail :=
        if l.plan.elastic then
          [0, 4].findSome? fun off => match s.simulate p off l i e true with
            | .error f => some f.skipped
            | .ok _ => none
        else none
      match skipped with
      | some f => .error f
      | none => match l.plan.lengthFail e times with
        | some f => .error f
        | none => match l.plan.lateLoad e times with
          | some f => .error f
          | none => .ok times

/-- The lengths of an entry's layers. -/
def layerLengths (e : Entry) (times : List (Nat × Nat)) : List (Nat × Nat) := (enum e.first times).map fun x => (x.1, x.2.2)

/-- Every entry of a plan: the simulated lengths of the layers it runs, by layer. -/
def State.verifyEntries (s : State) (p : Nat) (l : Loaded) (es : List (Nat × Entry)) : Except VFail (List (Nat × Nat)) :=
  match es with
  | [] => .ok []
  | (i, e) :: r => match s.verifyEntry p l i e with
    | .error f => .error f
    | .ok times => match s.verifyEntries p l r with
      | .error f => .error f
      | .ok m => .ok (layerLengths e times ++ m)

/-- Some bitmap of a plan marks a tile absent (R156). -/
def Plan.absent (pl : Plan) : Bool := pl.bitmaps.any fun b => decide (b.present < b.tilesO * b.tilesI)

/-- R179: the checks of a plan. -/
def State.verify (s : State) (p : Nat) (l : Loaded) : Except VFail (List (Nat × Nat)) :=
  match (s.partClusters p).find? fun c => (s.cluster c).retired || (s.cluster c).zoneHeld with
  | some c => .error { code := 11, cluster := some c }
  | none => match s.verifyEntries p l (enum 0 l.plan.entries) with
    | .error f => .error f
    | .ok m =>
      if l.plan.absent && Config.absentTileRead l.image then .error { code := 6 }
      else if l.plan.powerW < Config.powerBound l.image 48 || (List.range 48).any fun n =>
          decide (l.plan.fieldPower.getD n 0 < Config.powerBound l.image n) then .error { code := 10 }
      else .ok m

/-- A field of a failure; absent, it is 0xFF in every byte. -/
def failField (n : Nat) (v : Option Nat) : Bytes := match v with | some x => toLe n x | none => List.replicate n 0xFF#8

/-- The payload of a failure (R249). -/
def VFail.bytes (f : VFail) : Bytes :=
  failField 2 f.layer ++ failField 2 f.cluster ++ failField 1 f.core ++ toLe 1 f.code ++ zeros 2 ++
    (match f.cclk with | some t => leBytes 8 (BitVec.ofInt 64 t) | none => List.replicate 8 0xFF#8)

/-- The PLAN.VERIFY report (R250). -/
def Plan.verifyReport (pl : Plan) (m : List (Nat × Nat)) : Bytes :=
  let n := 32 + 16 * pl.entries.length + 16 * pl.layers.length + 8 * pl.loads.length
  toLe 4 0x5256504B ++ toLe 2 pl.entries.length ++ toLe 2 pl.layers.length ++ toLe 2 pl.loads.length ++
  toLe 2 (switchTime pl.w pl.h) ++ zeros 4 ++ leBytes 8 pl.planId ++ toLe 4 n ++ zeros 4 ++
  pl.entries.flatMap (fun e => toLe 8 e.n ++ toLe 8 (ceilDiv e.n 8)) ++
  (enum 0 pl.layers).flatMap (fun (i, y) =>
    let len := match m.find? fun x => x.1 == i with | some x => x.2 | none => y.len
    let t := match pl.bitmaps.find? fun b => b.layer == i with | some b => (b.present, b.tilesO * b.tilesI) | none => (0, 0)
    toLe 4 len ++ toLe 4 t.1 ++ toLe 4 t.2 ++ zeros 4) ++
  pl.loads.flatMap fun ld => toLe 4 (pl.reload ld) ++ zeros 4

/-- R179, R180. -/
def State.verifyDone (s : State) (l : LongCmd) (lost : Bool) : State :=
  let p := l.part.val
  let h := field l.payload 1 1
  match sfind? (s.part p).plans h with
  | none => s.finish l stBadArg
  | some x =>
    if l.stale then s.finish l stBusy
    else match s.verify p x with
      | .error f => s.finish l stBadArg f.bytes
      | .ok m =>
        let body := x.plan.verifyReport m
        let s := s.modPart p fun q => { q with plans := sins h { x with verified := true } q.plans }
        (s.report l.die.val (slice l.payload 8 16) body lost).finish l stOk (toLe 4 body.length)

/-- R179. -/
def execPlanVerify (die : Die) (fn : Fn) (slot : Fin 32) (s : State) : Outcome :=
  .next (s.serve die.val fn.val slot.val { code := 0x23, need := fun _ => 24, named := true, long := true }
    fun t c => if (sfind? (t.part c.named).plans (c.at 1 1)).isNone then t.answer c stBadArg else t.accept c c.named)

/-- R179, R249, R250. -/
def execPlanVerifyDone (die : Die) (fn : Fn) (rep : Reporting (BitVec 16)) (s : State) : Outcome :=
  .next (s.ending die.val fn.val rep.cmd 0x23 fun t l => t.verifyDone l rep.lost)

end Sys2Proof.Machine
end

