-- ==== Sys2Proof/Machine/Snapshots.lean ====
section
/-!
DEFINITION. Scan records and snapshots (spec/07_plans_and_scan.md R190 to R197): SNAP.TAKE, SNAP.RESTORE and their
completions.
-/

namespace Sys2Proof.Machine

open Sys2Proof

/-! ## The core scan record (Tables 7.4 and 7.5) -/

/-- The words of a slot as they stand in the configuration store. -/
def Slot.bytes (x : Slot) : Bytes := (List.range 512).flatMap fun w => leBytes 8 (sget 0#64 x.words w)

/-- The words of an input queue, zero past its count. -/
def InPort.bytes (q : InPort) (size depth : Nat) : Bytes := padTo (size * depth) (q.queue.flatMap fun w => padTo size w.data)

/-- A weight buffer. -/
def tileBytes (t : SMap (BitVec 16)) : Bytes := (List.range 1024).flatMap fun i => leBytes 2 (sget 0#16 t i)

/-- `n` 32-bit words of a map. -/
def wordBytes (m : SMap (BitVec 32)) (n : Nat) : Bytes := (List.range n).flatMap fun i => leBytes 4 (sget 0#32 m i)

/-- Four counts of `w` bits, N first. -/
def fourCounts (w : Nat) (f : Nat → Nat) : Nat := (List.range 4).foldl (fun a i => a + f i * 2 ^ (w * i)) 0

/-- The control block. -/
def State.controlBlock (s : State) (n : Nat) : Bytes :=
  let k := s.coreAt n
  let count (net : Net) (i : Nat) : Nat := (k.inPort net (dirOf i)).queue.length
  let credit (net : Net) (i : Nat) : Nat := depth net + s.creditsBy n net (dirOf i) s.now - (k.outPort net (dirOf i)).used
  toLe 4 (k.pc % 512 + k.slot.val * 512 + bit k.guarded 11 + k.preset * 4096) ++ toLe 4 k.status ++
  (List.range 8).flatMap (fun c => toLe 4 (k.kval c)) ++ toLe 4 (k.wfill + k.sfill * 256) ++
  toLe 4 (fourCounts 5 (count .vec)) ++ toLe 4 (fourCounts 6 (count .sca)) ++
  toLe 4 (fourCounts 5 (credit .vec)) ++ toLe 4 (fourCounts 6 (credit .sca)) ++ toLe 4 k.fence.toNat ++
  leBytes 4 k.slipRange ++ leBytes 4 k.slipQueue ++ leBytes 4 k.slipHolds ++ toLe 4 k.eccCe.toNat ++ toLe 4 k.eccUe.toNat ++
  zeros 4 ++ toLe 8 k.qmaxReg ++ zeros 32

/-- A core's record. The order of its pipeline latches is not defined (R192): with work in them they are free bytes. -/
def State.coreRecord (s : State) (n : Nat) : Bytes :=
  let k := s.coreAt n
  (List.range 4).flatMap (fun i => (sget {} k.slots i).bytes) ++
  allDirs.flatMap (fun d => (k.inPort .vec d).bytes 64 16) ++ allDirs.flatMap (fun d => (k.inPort .sca d).bytes 4 32) ++
  tileBytes k.active_w ++ tileBytes k.shadow_w ++ wordBytes k.acc 2048 ++
  (List.range 32).flatMap (fun j => leBytes 8 (sget 0#64 k.scale j)) ++ wordBytes k.vreg 256 ++ wordBytes k.sreg 16 ++
  s.controlBlock n ++ (List.range 80).flatMap (fun x => toLe 8 (k.reg x).toNat) ++
  (if k.pipe.isEmpty then zeros 5568 else s.freeBytes 5568)

/-- What a tenant's snapshot taken by P0 loses on a production module (R195). -/
def redact (b : Bytes) : Bytes := b.take 0x4000 ++ zeros 0x4740 ++ (b.drop 0x8740).take 0x300 ++ zeros 0x15C0

/-! ## The snapshot (R193) -/

/-- A cluster block. -/
def State.clusterBlock (s : State) (c : Nat) (redacted : Bool) : Bytes :=
  let k := s.cluster c
  toLe 2 c ++ toLe 1 (bit k.bypassed 0) ++ zeros 13 ++ toLe 16 k.repairMap ++ zeros 32 ++
  (List.range 256).flatMap fun lc =>
    if k.bypassed then zeros 40960
    else if redacted then redact (s.coreRecord (s.lcore c lc)) else s.coreRecord (s.lcore c lc)

/-- A snapshot of a partition. -/
def State.snapshot (s : State) (p : Nat) (redacted : Bool) : Bytes :=
  let r := (s.part p).cfg
  toLe 4 0x50534E4B ++ toLe 2 1 ++ toLe 2 p ++ leBytes 8 (s.part p).planId ++ leBytes 8 s.et ++ toLe 2 r.x0 ++ toLe 2 r.y0 ++
  toLe 2 r.w ++ toLe 2 r.h ++ toLe 4 40960 ++ toLe 1 (bit redacted 0) ++ zeros 27 ++
  r.clusters.flatMap fun c => s.clusterBlock c redacted

/-- R193: the rights are those of every command that names a partition; a run, an admitted request or a destination that
is too small refuses it. -/
def State.snapTake (s : State) (c : Cmd) : State :=
  let q := s.part c.named
  if q.run.isSome || !q.queue.isEmpty then s.answer c stBusy
  else if c.at 16 8 < q.cfg.snapSize ∨ !(s.part c.fn).cfg.holds (c.at 8 8) q.cfg.snapSize then s.answer c stNoResource
  else s.accept c c.named

/-- Rings that do not return are bypassed (R191), then the snapshot is written to the caller's granules. -/
def State.snapTaken (s : State) (l : LongCmd) (timeouts : List Nat) : State :=
  let p := l.part.val
  if (s.part p).run.isSome || !(s.part p).queue.isEmpty then s.finish l stBusy
  else
    let lost := timeouts.filter fun c => (s.partClusters p).contains c && !(s.cluster c).bypassed
    let s := s.each lost State.scanLost
    let redacted := s.fuses.debugOff && l.sender.val == 0 && p != 0
    let body := s.snapshot p redacted
    let s : State := { s with hbm := relWrite (s.part l.sender.val).cfg (field l.payload 8 8) body s.hbm, freeCount := s.freeCount + 5568 }
    s.finish l stOk

/-- R193. -/
def execSnapTake (die : Die) (fn : Fn) (slot : Fin 32) (s : State) : Outcome :=
  .next (s.serve die.val fn.val slot.val { code := 0x60, need := fun _ => 24, named := true, long := true } State.snapTake)

/-- R194. -/
def execSnapTakeDone (die : Die) (fn : Fn) (seq : BitVec 16) (timeouts : List Cl) (s : State) : Outcome :=
  .next (s.ending die.val fn.val seq 0x60 fun t l => t.snapTaken l (timeouts.map (·.val)))

/-! ## SNAP.RESTORE (R196) -/

/-- R196. -/
def State.snapRestored (s : State) (l : LongCmd) : State :=
  let p := l.part.val
  let b := s.snapBytes l
  if (s.part p).run.isSome || !(s.part p).queue.isEmpty then s.finish l stBusy
  else if !s.snapOk p b then s.finish l stBadArg
  else
    let s := s.each (s.partClusters p).zipIdx fun t (c, i) => t.restoreCluster b c i
    let s : State := { s with credits := s.credits.filter fun x => !(s.partClusters p).contains x.cl.val }
    s.finish l stOk

/-- R196. -/
def execSnapRestore (die : Die) (fn : Fn) (slot : Fin 32) (s : State) : Outcome :=
  .next (s.serve die.val fn.val slot.val { code := 0x61, need := fun _ => 24, named := true, long := true } fun t c =>
    let q := t.part c.named
    if q.run.isSome || !q.queue.isEmpty then t.answer c stBusy else t.accept c c.named)

/-- R196. -/
def execSnapRestoreDone (die : Die) (fn : Fn) (seq : BitVec 16) (s : State) : Outcome :=
  .next (s.ending die.val fn.val seq 0x61 State.snapRestored)

end Sys2Proof.Machine
end

