-- ==== Sys2Proof/Machine/Brace.lean ====
section
/-!
DEFINITION. Engine states (spec/13_clocks_and_power_states.md R338 to R343) and the brace
(spec/14_site_power_events.md R358 to R374): PFW_N, the sorting of requests, the commit point, completion, the exits
from E1 and E2, and standby.
-/

namespace Sys2Proof.Machine

open Sys2Proof

/-! ## What a brace ends (R240, R290, R360) -/

/-- Every long command in progress ends ABORTED, but those a test keeps. -/
def State.abortLongs (s : State) (keep : LongCmd → Bool) : State := s.abort fun l => !keep l

/-- Descriptor DMA stops in every window (R290). -/
def State.stopAllDma (s : State) : State := s.each allWindows fun t hf => t.stopTransfer hf.1 hf.2 true

/-- A breath in progress is cut short (R360): the whole ticks already spent stay, and the switch CCLK moves up. -/
def State.cutBreath (s : State) (p : Nat) : State :=
  match (s.part p).run with
  | some run => match run.breathing, run.switch, run.layerEnd with
    | some upto, some w, some t =>
      let past := Nat.min (ceilDiv (s.now - t) 8) ((upto - t) / 8)
      let r := (s.part p).cfg
      let time := s.phase0From (t + 8 * past + switchTime r.w r.h)
      let s := s.each (s.partClusters p) fun u c => u.modCluster c fun k => { k with power := .c0 }
      s.modPart p fun q => { q with run := q.run.map fun x =>
        { x with breathing := none, spent := x.spent - ((upto - t) / 8 - past), switch := some { w with time := Nat.min w.time time } } }
    | _, _, _ => s
  | none => s

/-- Every background test is abandoned (R388). -/
def State.stopTests (s : State) : State :=
  { s with clusters := smapAll {} (fun _ k => { k with testRow := none }) s.clusters }

/-! ## The brace (R360 to R366) -/

/-- A brace may abort unless it began within RESUME_QUIET of the deassertion that aborted an earlier one (R367). -/
def State.mayAbort (s : State) : Bool :=
  match s.lastAbort with
  | some t => decide (t + msCclk s.policy.resumeQuiet ≤ s.now)
  | none => true

/-- Every group leaves the joined state, and asks for no JOIN, as the engine leaves E0 (R318). -/
def State.leaveGroups (s : State) : State :=
  { s.unjoin fun _ => true with links := smapAll {} (fun _ d => { d with ports := smapAll {} (fun _ o => { o with joins := [] }) d.ports }) s.links }

/-- τ = 0. -/
def State.braceStart (s : State) : State :=
  let b : Brace := { time := s.now, et := s.et, abortable := s.mayAbort }
  let s := ({ s with brace := some b } : State).log 0x0401 none none none 0 s.authorityPup
  let s := ((s.toState .e1).stopAllDma.abortLongs fun l => l.code == 0x03#8).stopTests
  let s := ((s.sortRequests rsBrace (.brace s.now)).stopBetween).leaveGroups
  s.each (List.range 16) fun t p =>
    if (t.part p).run.isNone then t.enterAll (t.partClusters p) .c1 else t.cutBreath p

/-- Where the commit point puts a partition's clusters (R365). -/
def PartState.bracedState (q : PartState) : CState := if q.retain then .c2 else .c3

/-- R365 for every partition without a run. -/
def State.powerDown (s : State) : State :=
  s.each (List.range 16) fun t p => if (t.part p).run.isNone then t.enterAll (t.partClusters p) (t.part p).bracedState else t

/-- R364: a partition whose run was ended is stopped 2.5 ms after τ = 0, wherever its layer is. -/
def State.forcedStop (s : State) : State :=
  let due (x : Stop) : Bool := match x with
    | .brace t => decide (t + 2500000 ≤ s.now)
    | .cal t => decide (t + 2500000 ≤ s.now)
  s.each (List.range 16) fun t p =>
    if (t.part p).run.any (fun r => r.stop.any due) then t.stopRun p else t

/-- R364. -/
def execForcedQuiesceStop (s : State) : Outcome := .next s.forcedStop

/-- The commit point (R365): not before τ = 3 ms. -/
def State.commit (s : State) : State :=
  match s.brace with
  | some b =>
    if b.committed ∨ s.now < b.time + msCclk 3 then s
    else
      (({ s.forcedStop with brace := some { b with committed := true } } : State).powerDown).log 0x0403 none none none 0
        s.authorityPup
  | none => s

/-- R365. -/
def execCommitPoint (s : State) : Outcome := .next s.commit

/-- R363, R394: the finishing runs end RETRY. -/
def State.endFinishing (s : State) (reason : Nat) : State :=
  s.each (List.range 16) fun t p => match (t.part p).run with
    | some run => if run.finishing then t.contain p stRetry reason else t
    | none => t

/-- R363, R394: 6 ms after τ = 0 of a brace or of the quiesce of a forced CAL.RUN. -/
def State.cutoff (s : State) : State :=
  match s.brace, s.cal with
  | some b, _ => if b.time + msCclk 6 ≤ s.now then s.endFinishing rsBrace else s
  | none, some k => if k.forced ∧ k.time + msCclk 6 ≤ s.now then s.endFinishing rsForcedCal else s
  | none, none => s

/-- R363. -/
def execFinishingCutoff (s : State) : Outcome := .next s.cutoff

/-! ## The exit from E1 (R368, R369, R373) -/

/-- The clusters of every partition with a bound plan leave C2 and C3 (R369 step 1). -/
def State.exitE1 (s : State) : State :=
  match s.brace with
  | some b =>
    if s.estate == .e1 && b.complete && !b.exiting && s.quiet then
      let s := ({ s with brace := some { b with exiting := true } } : State).log 0x0406 none none none 0 s.authorityPup
      s.each (List.range 16) fun t p => if (t.part p).bound.isSome then t.wakeAll (t.partClusters p) .c1 else t
    else s
  | none => s

/-- An exit from E1 stops (R373): the clusters that have left C2 or C3 go back. -/
def State.stopExit (s : State) : State :=
  match s.brace with
  | some b => if b.exiting then ({ s with brace := some { b with exiting := false } } : State).powerDown else s
  | none => s

/-- A cluster of a bound partition that can leave C3 has reached C1. -/
def State.backInC1 (s : State) : Bool :=
  (List.range 16).all fun p => (s.part p).bound.isNone || (s.partClusters p).all fun c =>
    let k := s.cluster c
    !k.mayWake || (k.trans.isNone && decide (k.power.depth ≤ 1))

/-- In E0 again, a parked partition's clusters return to their park state (Table 13.2), and recoveries that waited for
clusters go on. -/
def State.settle (s : State) : State :=
  s.each (List.range 16) fun t p =>
    let q := t.part p
    let t := if q.park = .parked ∧ q.bound.isSome then
        (t.modPart p fun q => { q with park := .parking }).enterAll q.cfg.clusters q.parkTo
      else t
    (t.unparked p).resume p

/-- R369 step 2: E0. No wake source was latched. -/
def State.e1ExitDone (s : State) : State :=
  match s.brace with
  | some b =>
    if s.estate == .e1 && b.exiting && !s.pfw && s.backInC1 then
      ((({ s with brace := none, wakeReasons := 0#4 } : State).toState .e0).log 0x0407 none none none 0 s.authorityPup).settle.rejoin
    else s
  | none => s

/-- R369. -/
def execE1ExitComplete (s : State) : Outcome := .next s.e1ExitDone

/-! ## Completion of a brace (R366, R370) -/

/-- A completion that a test picks is neither written nor held for want of a place. -/
def Window.owes (w : Window) (test : Compl → Bool) : Bool :=
  w.compl.any fun c => test c && (let r := w.ring c.ring.val; decide (diff16 r.cqTail r.cqHead < 2 ^ r.cqLog2.toNat))
/-- A completion of R362 or R363. -/
def Compl.ofBrace (c : Compl) : Bool := c.finishing || (c.status == 0x22#8 && c.reason == 0x01#8)

/-- A finishing request of a partition has still to run or to egress. -/
def PartState.finishes (q : PartState) : Bool := q.queue.any fun r => r.finishing && (r.stage == .running || r.stage == .egress)

/-- Every cluster is in C2 or C3, and every completion of R362 and R363 is written or held (R366). -/
def State.braceDone (s : State) : Bool :=
  (List.range 16).all (fun p => (s.part p).run.isNone && !(s.part p).finishes) &&
    s.clusters.all (fun x => x.2.trans.isNone && decide (2 ≤ x.2.power.depth)) && s.windows.all fun x => !x.2.owes Compl.ofBrace

/-! ## Standby (R340 to R343, R371 to R373) -/

/-- A port with its lanes down to signal detection (R340 step 2). -/
def Port.rest (o : Port) : Port :=
  { o with up := false, upstream := false, owned := [], joins := [], used := [], outQ := [], held := [], sent := [] }

/-- Every port at rest and every group unjoined. -/
def State.restLinks (s : State) : State :=
  { s with links := smapAll {} (fun _ d => { d with ports := smapAll {} (fun _ o => o.rest) d.ports }) s.links
           parts := smapAll {} (fun _ q => { q with groups := q.groups.map fun x =>
             (x.1, { x.2 with ports := x.2.ports.map fun e => { e with joined := false } }) }) s.parts }

/-- A cluster in E2: C3, its Marionette stopped. -/
def Cluster.rest (k : Cluster) : Cluster :=
  { k with power := .c3, trans := none, ganged := false, gang := [], scanning := false, fill := [], haltSeen := [], missed := 0
           beatAt := none, testRow := none, rowWait := [] }

/-- Every cluster in E2 and what was on its way on the wafer gone. -/
def State.restWafer (s : State) : State :=
  { s with clusters := smapAll {} (fun _ k => k.rest) s.clusters, cores := smapAll {} (fun _ k => k.powerReset) s.cores, spad := []
           flights := [], credits := [], coreEvents := [], regReplies := [], noTargets := [] }

/-- Completions still held are discarded; their requests count (R366). -/
def State.dropHeld (s : State) : State :=
  s.each allWindows fun t (h, f) =>
    let l := (t.window h f).compl
    (t.dropCompl l).modWindow h f fun w =>
      l.foldl (fun w c => w.modRing c.ring.val fun r => { r with openReqs := r.openReqs - 1 }) { w with compl := [] }

/-- The rails and clocks of E2 (R330, R340). -/
def Rails.standby (r : Rails) : Rails :=
  { core := false, host := false, hbmSelfRefresh := r.hbmTrained, hbmTrained := r.hbmTrained, pll := false, puppeteersOnKclk := false
    cclk := false }

/-- The rails and clocks of E0. -/
def Rails.up : Rails :=
  { core := true, host := true, hbmSelfRefresh := false, hbmTrained := true, pll := true, puppeteersOnKclk := true, cclk := true }

/-- PFW_N quiet is a latched wake source when it is armed (R372). -/
def State.latchQuiet (s : State) : State := if s.quietArmed && s.quiet then { s with aonWake := s.aonWake ||| 8#4 } else s

/-- E2 is reached. A source already latched starts the exit at once (R345, R372). -/
def State.enterE2 (s : State) (arm : Bool) : State :=
  let s := s.stopAllDma.dropHeld.restLinks.restWafer.stopTests
  let s : State := { s with rails := s.rails.standby, brace := none, draining := false, quietArmed := arm, sub := 0
                            etClock := if s.etClock = .tclk then .alwaysOn else s.etClock }
  let s := ((s.toState .e2).log 0x0405 none none none 0 s.authorityPup).finishAll (fun l => l.code == 0x04#8) stOk
  s.latchQuiet.tryExit

/-- The TCLK edge at which the always-on domain may take ET: ET is a multiple of 5 (R342). -/
def State.handover (s : State) : Bool := s.onEdge && s.tick % 5 == 0

/-- BRACE_HOLD has passed, the brace is complete, no exit from E1 has begun and PFW_N is not quiet: E2 (R339, R371). -/
def State.braceHeld (s : State) : State :=
  match s.brace with
  | some b =>
    if s.supply == .up && s.estate == .e1 && b.complete && !b.exiting && !s.quiet && decide (b.time + msCclk s.policy.braceHold ≤ s.now) &&
        s.handover then s.enterE2 true else s
  | none => s

/-- R366, R370: with PFW_N quiet the exit from E1 begins at once; with BRACE_HOLD over already E2 follows (R371). -/
def State.braceComplete (s : State) : State :=
  match s.brace with
  | some b =>
    if s.estate == .e1 && b.committed && !b.complete && s.braceDone then
      let s := ({ s with brace := some { b with complete := true } } : State).log 0x0404 none none none 0 s.authorityPup
      ((s.each s.existing fun t p => t.modPart p fun q => { q with braced := true }).exitE1).braceHeld
    else s
  | none => s

/-- R366. -/
def execBraceComplete (s : State) : Outcome := .next s.braceComplete

/-- ENGINE.STANDBY has drained: every admitted request is done, what can be written is written, and no other command
is under way. -/
def State.mayStandby (s : State) : Bool :=
  s.inE0 && s.draining && s.drained && s.handover && s.longs.all (fun l => l.code == 0x04#8) &&
    s.windows.all fun x => !x.2.owes fun _ => true

/-- R246, R340. -/
def execStandbyEntry (s : State) : Outcome := .next (if s.mayStandby then s.enterE2 false else s)

/-- The clusters of a partition with a bound plan are in C1, their cores at reset, their scratchpads zero and the
resident loads in place (R332, R341 step 5). -/
def State.wakeBound (s : State) (p : Nat) : State :=
  if (s.part p).bound.isSome then
    s.each ((s.partClusters p).filter fun c => (s.cluster c).mayWake) fun t c =>
      (t.modCluster c fun k => { k with power := .c1, trans := none }).placeResident p c
  else s

/-- R341: E0 is reached from E2; the ENGINE.RESUMEs get their final message with every reason latched (R247). -/
def State.leaveE2 (s : State) : State :=
  let s := (s.voltagesReached).each (List.range 16) State.wakeBound
  let reasons := s.aonWake
  let s : State := { s with rails := Rails.up, etClock := .tclk, sub := 0, wakeReasons := reasons, aonWake := 0#4, quietArmed := false, wakeEt := 0 }
  let s := ((s.toState .e0).log 0x0407 none none none 0 s.authorityPup).settle
  let l := s.longs.filter fun l => l.code == 0x03#8
  s.each l fun t l => t.finish l stOk (toLe 2 reasons.toNat ++ zeros 6 ++ leBytes 8 t.stateEt)

/-- R343: the timer. -/
def State.wakeTimer (s : State) : State :=
  if (s.estate == .e2 || s.estate == .resuming) && s.supply == .up && s.wakeEt != 0 && decide (s.wakeEt.toNat ≤ s.tick) then
    ({ s with aonWake := s.aonWake ||| 2#4, wakeEt := 0 } : State).tryExit
  else s

/-- R343. -/
def execWakeTimer (s : State) : Outcome := .next s.wakeTimer

/-- R343: a partner trains on a port. -/
def execLinkPartnerDetect (ld : LDie) (port : Fin 3) (s : State) : Outcome :=
  .next (if (s.estate == .e2 || s.estate == .resuming) && s.supply == .up && decide (port.val < (s.link ld.val).portCount) then
    ({ s with aonWake := s.aonWake ||| 4#4 } : State).tryExit else s)

/-! ## PFW_N (R358, R367, R368, R373) -/

/-- A recognised assertion: a brace, the end of an exit in progress, or, in E2 and in boot, the level alone. -/
def State.pfwLow (s : State) : State :=
  if s.pfw then s
  else
    let s : State := { s with pfw := true }
    if s.supply != .up then s
    else match s.estate with
      | .e0 => s.braceStart
      | .e1 => s.stopExit
      | .resuming => ({ s.voltagesReached with quietArmed := true } : State).toState .e2 |>.log 0x0405 none none none 0 s.authorityPup
      | _ => s

/-- R360. -/
def execPfwNAssert (s : State) : Outcome := .next s.pfwLow

/-- R367: the brace aborts. Ended requests stay ended, finishing runs go on. -/
def State.abortBrace (s : State) : State :=
  let s := ({ s with brace := none, lastAbort := some s.now } : State).log 0x0402 none none none 0 s.authorityPup
  let s := s.each (List.range 16) fun t p => (if (t.part p).run.isSome then t.modPart p fun q =>
    { q with run := q.run.map fun r => { r with finishing := false } } else t).place p
  ((s.toState .e0).log 0x0407 none none none 0 s.authorityPup).rejoin

/-- A recognised deassertion. -/
def State.pfwHigh (s : State) : State :=
  if !s.pfw then s
  else
    let s : State := { s with pfw := false, pfwHighSince := s.now }
    match s.brace with
    | some b => if b.abortable ∧ !b.committed ∧ s.now < b.time + msCclk 3 then s.abortBrace else s
    | none => s

/-- R358, R367. -/
def execPfwNDeassert (s : State) : Outcome := .next s.pfwHigh

end Sys2Proof.Machine
end

