-- ==== Sys2Proof/Machine/Faults.lean ====
section
/-!
DEFINITION. Recovery from faults (spec/15_faults_and_selftest.md): the Marionette heartbeat, unanswered edge requests,
field repair, background tests of understudies and the takeover of the engine authority (R380, R384 to R388, R395).
-/

namespace Sys2Proof.Machine

open Sys2Proof

/-! ## Heartbeats (R384) -/

/-- A heartbeat goes to every Marionette that serves. -/
def Cluster.beat (k : Cluster) (now : Nat) : Cluster :=
  if k.retired || k.resetting then k else { k with beatAt := some now }

/-- R384: in E0 and E1. -/
def execHeartbeatSend (s : State) : Outcome :=
  .next (if s.supply == .up && (s.estate == .e0 || s.estate == .e1) then
    s.each (List.range 1200) fun t c => t.modCluster c fun k => k.beat t.now else s)

/-- The Marionette is faulty: its leases are seized, its partition recovers, and its reset begins. -/
def State.marionetteFaulty (s : State) (c : Nat) : State :=
  let p := s.partOf c
  let s := ((s.modCluster c fun k => { k with missed := 0, resetting := true }).log 0x0204 p (some c)).seizeAll c
  match p with | some p => s.beginRecovery p | none => s

/-- 500 µs without an answer; the second miss in a row declares the Marionette faulty. -/
def State.heartbeatLost (s : State) (c : Nat) : State :=
  match (s.cluster c).beatAt with
  | some t =>
    if s.now < t + 500000 then s
    else
      let s := s.modCluster c fun k => { k with beatAt := none, missed := k.missed + 1 }
      if 2 ≤ (s.cluster c).missed then s.marionetteFaulty c else s
  | none => s

/-- R384. -/
def execHeartbeatTimeout (cl : Cl) (s : State) : Outcome := .next (s.heartbeatLost cl.val)

/-- The reset ends: the image store is reloaded and the partition goes on, or the cluster retires. -/
def State.marionetteBack (s : State) (c : Nat) (passed : Bool) : State :=
  let p := s.partOf c
  let s := s.modCluster c fun k => { k with resetting := false, fill := [], marOut := k.marOut || !passed }
  let s := if passed then s
    else
      let s := (s.retire c 5).log 0x0204 p (some c) none 0 15 1
      match p with | some p => s.unverify p | none => s
  match p with
  | some p => s.resume p
  | none => s

/-- R384. -/
def execMarionetteResetDone (cl : Cl) (passed : Bool) (s : State) : Outcome :=
  .next (if s.supply == .up && (s.cluster cl.val).resetting then s.marionetteBack cl.val passed else s)

/-! ## Edge requests (R380) -/

/-- The holder number of a device (R379). -/
def edgeHolder (e : Edge) : Nat :=
  match e with
  | .link d => 0xF40 + d.val
  | .stack m => 0xF80 + m.val

/-- R380, R381. -/
def execEdgeRequestTimeout (edge : Edge) (s : State) : Outcome :=
  .next (if s.supply == .up then s.seizeAll (edgeHolder edge) else s)

/-! ## Field repair (R385, R386) -/

/-- Row of physical core `n`. -/
def coreRow (n : Nat) : Nat := n % 272 / 17
/-- Its physical column. -/
def coreCol (n : Nat) : Nat := n % 17

/-- The row has a usable spare: unrepaired, its understudy not known bad, its last completed test passed. -/
def Cluster.usable (k : Cluster) (r : Nat) : Bool := k.omitCol r == 8 && !k.spareBad.getLsbD r && !k.lastFailed.getLsbD r

/-- The understudy failed its last test in a row not yet marked so. -/
def Cluster.failedSpare (k : Cluster) (r : Nat) : Bool := k.omitCol r == 8 && !k.spareBad.getLsbD r && k.lastFailed.getLsbD r

/-- Appending an entry to the table and to the map of its cluster (R386 steps 3 and 4). -/
def State.applyEntry (s : State) (c : Nat) (e : BitVec 64) : State :=
  (s.appendRepair e).modCluster c fun k => (k.repair e).1

/-- Spare-bad for a row, with its record. -/
def State.markSpareBad (s : State) (c r : Nat) : State :=
  (s.applyEntry c (repairEntry 2 0 r c)).log 0x0302 (s.partOf c) (some c) none 0 15 r

/-- The failed core is mapped out: the understudy takes part with a zero scratchpad, the fences follow the new map, and
the resident loads are repeated in the cluster. -/
def State.mapOut (s : State) (c n : Nat) : State :=
  let r := coreRow n
  let s := s.applyEntry c (repairEntry 1 (coreCol n) r c)
  let u := 272 * c + 17 * r + 8
  let s : State := { s with spad := mclear (262144 * u) (262144 * (u + 1)) s.spad }
  let s := match s.partOf c with
    | some p =>
      let s := s.fenceCluster (s.part p).cfg c
      if (s.cluster c).power.depth ≤ 1 then s.placeResident p c else s
    | none => s
  s.log 0x0301 (s.partOf c) (some c) (some (n % 272)) 0 15 (r + 256 * coreCol n)

/-- No spare is left: the row's understudy is marked when that is why, and the cluster retires. -/
def State.retireFor (s : State) (c r : Nat) : State :=
  let s := if (s.cluster c).failedSpare r then s.markSpareBad c r else s
  (s.appendRepair (repairEntry 3 0 0 c)).retire c 4

/-- R386 for physical core `n` of a cluster. -/
def State.fieldRepair (s : State) (c n : Nat) : State :=
  let p := s.partOf c
  let s := match p with | some p => s.beginRecovery p | none => s
  let r := coreRow n
  let s := s.modCluster c fun k => if k.testRow.any (·.val == r) then { k with testRow := none } else k
  let s := if (s.cluster c).retired then s
    else if (s.cluster c).usable r then s.mapOut c n
    else s.retireFor c r
  let s : State := { s with declared := s.declared.filter (· != n) }
  match p with
  | some p => (s.unverify p).resume p
  | none => s

/-- R386: for a core that was declared failed. -/
def execFieldRepair (cl : Cl) (core : LCore) (s : State) : Outcome :=
  let n := s.lcore cl.val core.val
  .next (if s.supply == .up && s.declared.contains n then s.fieldRepair cl.val n else s)

/-! ## Background tests (R387, R388) -/

/-- Tests in progress. -/
def State.testsNow (s : State) : Nat := (s.clusters.filter fun x => x.2.testRow.isSome).length

/-- An understudy may be tested. -/
def State.mayTest (s : State) (c r : Nat) : Bool :=
  let k := s.cluster c
  s.inE0 && !k.retired && k.trans.isNone && decide (k.power.depth ≤ 1) && k.omitCol r == 8 && !k.spareBad.getLsbD r &&
    k.testRow.isNone && decide (s.testsNow < 64)

/-- R387. -/
def execUnderstudyTestStart (cl : Cl) (row : Fin 16) (s : State) : Outcome :=
  .next (if s.mayTest cl.val row.val then s.modCluster cl.val fun k => { k with testRow := some row, testAt := s.now } else s)

/-- A test ends: the ET of the pass is kept, or the understudy is marked bad. -/
def State.testEnd (s : State) (c : Nat) (row : Fin 16) (passed : Bool) : State :=
  let b := BitVec.ofNat 16 (2 ^ row.val)
  let s := s.modCluster c fun k =>
    if passed then { k with testRow := none, lastFailed := k.lastFailed &&& ~~~b, passEt := sput 0#64 row.val s.et k.passEt }
    else { k with testRow := none, lastFailed := k.lastFailed ||| b }
  if passed then s else s.markSpareBad c row.val

/-- R388. -/
def execUnderstudyTestEnd (cl : Cl) (row : Fin 16) (passed : Bool) (s : State) : Outcome :=
  .next (if (s.cluster cl.val).testRow == some row then s.testEnd cl.val row passed else s)

/-! ## Authority takeover (R395) -/

/-- H1 becomes engine authority; it finishes the voltage transitions of a re-trim that is aborted (R350). -/
def State.takeover (s : State) : State :=
  let s := s.abortLongs fun _ => false
  let s : State := { s with authority := true, standbyOk := false, authorityMisses := 0 }
  (s.eventAll evState).log 0x0603 none none none 0 7

/-- Checks missed in a row, this one with them: checks come every 1 ms. -/
def State.missesNow (s : State) : Nat := if s.now < s.missAt + msCclk 2 then s.authorityMisses + 1 else 1

/-- A missed check; two in a row, 1 ms apart, are H0's failure. -/
def State.checkMiss (s : State) : State :=
  let t : State := { s with authorityMisses := s.missesNow, missAt := s.now }
  if s.missesNow < 2 then t
  else if s.standbyOk then t.takeover
  else { t with authorityLost := true }

/-- R395. -/
def execAuthorityCheckMiss (s : State) : Outcome :=
  .next (if s.supply == .up && !s.authority && !s.authorityLost then s.checkMiss else s)

end Sys2Proof.Machine
end

