-- ==== Sys2Proof/Machine/Boot.lean ====
section
/-!
DEFINITION. Reset sources and the cold boot (spec/16_boot_and_security.md R400 to R418, spec/17_module_and_signals.md
R428, R433), and the events that end a wait in E1, in E2 or in a boot: PFW_N quiet, BRACE_HOLD, the exit from E2.
-/

namespace Sys2Proof.Machine

open Sys2Proof

/-! ## Firmware candidates (R414) -/

/-- The candidates in order, with their numbers (R414). -/
def State.candidates (s : State) : List (Nat × Option FwImage) :=
  let a := s.activeSlot
  [(1, s.validAt s.flashA a), (2, s.validAt s.flashB a), (3, s.validAt s.flashA (otherSlot a)), (4, s.validAt s.flashB (otherSlot a))]

/-- The first valid candidate. -/
def firstValid (l : List (Nat × Option FwImage)) : Option (Nat × FwImage) :=
  match l with
  | [] => none
  | (n, some i) :: _ => some (n, i)
  | (_, none) :: r => firstValid r

/-- The firmware of an image. -/
def FwImage.firmware (i : FwImage) (candidate : Nat) : Firmware :=
  { build := i.build, gmpMajor := i.gmpMajor, gmpMinor := i.gmpMinor, candidate := candidate }

/-! ## Resets (R400, R401) -/

/-- What no reset clears: the host's memory, the flash, the fuses, the pins, the carrier, the TAPs and the model's own
fields. -/
def State.cleared (s : State) (supply : Supply) : State :=
  { State.reset with
    pending := s.pending, now := s.now, hostMem := s.hostMem, fuses := s.fuses, flashA := s.flashA, flashB := s.flashB, pfw := s.pfw
    pfwHighSince := s.pfwHighSince, resetN := s.resetN, refclkLost := s.refclkLost, tapIr := s.tapIr, boundary := s.boundary
    tapOut := s.tapOut, perst := s.perst
    carrier := s.carrier, freeCount := s.freeCount, mctp := { straps := s.mctp.straps }, supply := supply }

/-- R401: everything stops and nothing is completed. -/
def State.resetEngine (s : State) : State := if s.supply == .off then s else (s.cutFirmware false).cleared .reset

/-- R428: E3. -/
def State.powerOff (s : State) : State := { (s.cutFirmware false).cleared .off with tapIr := [], boundary := [], tapOut := none }

/-! ## The repair maps (R42, R43) -/

/-- The rows of a cluster that have a repair fuse blown. -/
def State.fuseRows (s : State) (c : Nat) : SMap (BitVec 5) :=
  (s.fuses.repair.filter fun x => x.1 / 16 == c && x.2 != 0#5).map fun x => (x.1 % 16, x.2)

/-- The clusters that have a repair fuse blown. -/
def State.fusedClusters (s : State) : List Nat := (s.fuses.repair.map fun x => x.1 / 16).eraseDups

/-- Step 1 of R42: each row starts from its fuse value, whatever an earlier pass of the boot has found (R406). -/
def State.fuseMaps (s : State) : State :=
  let s : State := { s with clusters := smapAll {} (fun _ k =>
    { k with retired := false, marOut := false, omitXor := [], fieldRow := 0, spareBad := 0 }) s.clusters }
  s.each s.fusedClusters fun t c => t.modCluster c fun k => { k with omitXor := t.fuseRows c }

/-- The first condition of R43, which like the others is applied once the table has been (step 3 of R42): a row's fuse value
lies between 17 and 31. -/
def State.retireFused (s : State) : State :=
  s.each s.fusedClusters fun t c =>
    if !(t.cluster c).retired && (t.fuseRows c).any (fun x => decide (16 < (x.2 ^^^ 8#5).toNat)) then t.retire c 0 else t

/-- Step 2 of R42: the entries in table order; an invalid one is skipped and recorded (R46, R410). -/
def State.repairTable (s : State) (i : Nat) (l : List (BitVec 64)) : State :=
  match l with
  | [] => s
  | e :: r =>
    let s :=
      if repairValid e then
        let c := bitsOf e.toNat 10 0
        let x := (s.cluster c).repair e
        match x.2 with
        | some cause => s.retire c cause
        | none => s.modCluster c fun _ => x.1
      else s.log 0x0205 none none none 0 15 i
    s.repairTable (i + 1) r

/-- An understudy that fails BIST fails a test (R388); in a row that has no understudy to spare it is the row's second
failed core (R43). -/
def State.bistFail (s : State) (c r : Nat) : State :=
  let k := s.cluster c
  if k.retired || (k.omitCol r == 8 && k.spareBad.getLsbD r) then s
  else if k.omitCol r == 8 then s.markSpareBad c r
  else (s.appendRepair (repairEntry 2 0 r c)).retire c 3

/-- A Marionette or always-on slice that fails its self-test: the cluster retires. -/
def State.selfTestFailed (s : State) (c : Nat) : State :=
  let s := s.modCluster c fun k => { k with marOut := true }
  if (s.cluster c).retired then s else s.retire c 5

/-- Step 7 of Table 16.2. -/
def State.bist (s : State) (b : BootIn) : State :=
  let s := (s.fuseMaps.repairTable 0 (s.table repairValid)).retireFused
  let s := s.each b.selfTestFail fun t c => t.selfTestFailed c.val
  s.each b.understudyFail fun t x => t.bistFail x.1.val x.2.val

/-! ## Steps of the cold boot (R403) -/

/-- Step 9: each die in its stored mode, time_pri and G; alone until a full retime, the engine is its own master. -/
def State.linkSettings (s : State) : State :=
  let s : State := { s with timeMaster := true, masterSerial := s.fuses.serial }
  match s.settings with
  | none => s
  | some k =>
    ({ s with timePriXor := k.timePri ^^^ 128#8, guardG := k.g } : State).each k.modes.zipIdx fun t (m, d) =>
      t.modLink d fun l => { l with modeLess1 := m - 1 }

/-- A zone at its trim; codes 25 to 31 hold its clusters in C3 (R415), and so does a regulator that reports nothing after two
writes (R349). -/
def State.zoneUp (s : State) (silent : List (Fin 48)) (z : Nat) : State :=
  let x := sget 0#5 s.fuses.trimXor z
  let s := s.modZone z fun k => { k with codeXor := x }
  if 24 < (x ^^^ 12#5).toNat then s.holdZone z
  else if silent.any (·.val == z) then s.ackMissing z
  else s

/-- Step k + 5 of Table 16.2, for k from 0 to 4. -/
def State.bootStep (s : State) (b : BootIn) (k : Nat) : State :=
  match k with
  | 0 =>
    let s : State := { s.writeLimits railOutputs with rails := { s.rails with core := true } }
    s.each (List.range 48) fun t z => t.zoneUp b.noReport z
  | 1 => { s with rails := { s.rails with cclk := true }, et := 0, sub := 0, etClock := .tclk }
  | 2 => s.bist b
  | 3 => { s with hbm := [], rails := { s.rails with hbmTrained := true, hbmSelfRefresh := false } }
  | _ => s.linkSettings

/-- The P0 window of a host die is served, unless PERST_N holds the die (R402). -/
def State.serveP0 (s : State) : State :=
  s.each (List.range 4) fun t h =>
    t.modWindow h 0 fun w => { w with fwReady := !t.perst.getLsbD h, majorXor := t.firmware.gmpMajor ^^^ 1#8 }

/-- Step 10: the engine is ready. -/
def State.bootReady (s : State) : State :=
  let s : State := { s with supply := .up, bootRest := none, aonWake := 0#4, quietArmed := false, standbyOk := true }
  let l := s.longs.filter fun l => l.code == 0x03#8
  let s := s.serveP0.toState .e0
  s.each l fun t l => t.finish l stOk (toLe 2 s.wakeReasons.toNat ++ zeros 6 ++ leBytes 8 t.stateEt)

/-- PFW_N is asserted in a boot: the rails of steps 5 and 6 go off, and the boot waits at the end of step 4 (R406). -/
def State.bootStop (s : State) (b : BootIn) : State :=
  { s with pfw := true, supply := .waitQuiet, bootRest := some { b with pfwIn := none }, bootWait := s.now, etClock := .held
           rails := { s.rails with core := false, cclk := false } }

/-- Steps 5 to 10, or those before the one in which PFW_N is asserted. -/
def State.bootTail (s : State) (b : BootIn) : State :=
  match b.pfwIn with
  | none => (s.each (List.range 5) fun t k => t.bootStep b k).bootReady
  | some n => (s.each (List.range n.val) fun t k => t.bootStep b k).bootStop b

/-- Step 4: the PLL, and the Puppeteers on KCLK (R330). With PFW_N asserted, or not yet quiet, the boot waits at its end
(R406). -/
def State.bootStep4 (s : State) (b : BootIn) : State :=
  let s : State := { s with rails := { s.rails with pll := true, puppeteersOnKclk := true } }
  if s.quiet then s.bootTail b else { s with supply := .waitQuiet, bootRest := some b, bootWait := s.now }

/-- Step 3: the first valid candidate is loaded, or the boot ROM waits 10 s (R414). -/
def State.bootStep3 (s : State) (b : BootIn) : State :=
  match firstValid s.candidates with
  | some (n, i) => ({ s.drew with firmware := i.firmware n } : State).bootStep4 b
  | none => { s.drew with supply := .noImage, noImageAt := s.now }

/-- A cold boot from step 1: step 2 turns VHOST on with its limits. -/
def State.boot (s : State) (b : BootIn) : State :=
  let s : State := { s.cleared .noImage with mctp := { straps := b.straps }, rails := { host := true } }
  (s.writeLimits (railOutputs.filter fun x => x.2 == 7)).bootStep3 b

/-- EXTEST is loaded in some TAP (R421: the instruction register is kept XOR IDCODE). -/
def State.extest (s : State) : Bool := s.tapIr.any fun x => x.2 == 0x01#8

/-- Nothing holds the engine in reset any more: the cold boot starts. -/
def State.unreset (s : State) (b : BootIn) : State :=
  if s.supply == .reset && !s.resetN && !s.refclkLost && !s.extest then s.boot b else s

/-! ## Reset events -/

/-- R400, R403, R428. -/
def execPower48vApplied (boot : BootIn) (s : State) : Outcome :=
  .next (if s.supply == .off then ({ s with supply := .reset } : State).unreset boot else s)

/-- R401. -/
def execResetNAssert (s : State) : Outcome := .next ({ s.resetEngine with resetN := true })

/-- R401, R403. -/
def execResetNDeassert (boot : BootIn) (s : State) : Outcome := .next (({ s with resetN := false } : State).unreset boot)

/-- R414: 10 s after no valid image was found. -/
def execFirmwareRetry (boot : BootIn) (s : State) : Outcome :=
  .next (if s.supply == .noImage && decide (s.noImageAt + msCclk 10000 ≤ s.now) then s.bootStep3 boot else s)

/-- R428. -/
def execUndervoltageLockout (s : State) : Outcome := .next (if s.supply == .off then s else s.powerOff)

/-- R433. -/
def execRefclkLoss (s : State) : Outcome := .next ({ s.resetEngine with refclkLost := true })

/-- R433. -/
def execRefclkReturn (boot : BootIn) (s : State) : Outcome := .next (({ s with refclkLost := false } : State).unreset boot)

/-! ## The ends of waits (R341, R368, R371, R372, R406) -/

/-- PFW_N has been quiet for RESUME_QUIET: a boot goes on, an exit from E1 begins, or a latched source acts in E2. -/
def State.nowQuiet (s : State) : State :=
  if !s.quiet then s
  else match s.supply, s.bootRest with
    | .waitQuiet, some b => s.bootTail b
    | .up, _ => if s.estate == .e2 then s.latchQuiet.tryExit else s.exitE1
    | _, _ => s

/-- R368. -/
def execResumeQuietExpiry (s : State) : Outcome := .next s.nowQuiet

/-- E2 out of a boot that waits for PFW_N: the rails of steps 5 and 6 are off, and the P0 windows serve (R406). -/
def State.bootStandby (s : State) : State :=
  ({ s.serveP0 with supply := .up } : State).enterE2 true

/-- BRACE_HOLD has passed: E1 goes to E2, and so does a boot that waits, with PFW_N not yet quiet (R339, R406). -/
def State.holdPassed (s : State) : State :=
  if s.supply == .waitQuiet then (if s.bootWait + msCclk s.policy.braceHold ≤ s.now ∧ s.quiet = false then s.bootStandby else s) else s.braceHeld

/-- R371. -/
def execBraceHoldExpiry (s : State) : Outcome := .next s.holdPassed

/-- R341: the exit from E2 is complete, on an increment of the always-on count; a boot that had not finished goes on
instead. -/
def execStandbyExit (s : State) : Outcome :=
  .next (if s.supply == .up && s.estate == .resuming && s.sub == 0 && !s.pfw then
    (match s.bootRest with
      | some b => (({ s with wakeReasons := s.aonWake } : State).bootTail b).log 0x0407 none none none 0 s.authorityPup
      | none => s.leaveE2)
    else s)

end Sys2Proof.Machine
end

