-- ==== Sys2Proof/Machine/Module.lean ====
section
/-!
DEFINITION. The module around the engine: FW.UPDATE and FW.ACTIVATE, JTAG (spec/16_boot_and_security.md R412 to R423),
the carrier's measurements and the MCTP endpoint (spec/17_module_and_signals.md R427, R437, R438).
-/

namespace Sys2Proof.Machine

open Sys2Proof

/-! ## FW.UPDATE (R419) -/

/-- The length an FW.UPDATE needs by its operation (R228). -/
def updateNeed (c : Cmd) : Nat := if c.at 0 1 = 0 then 20 else 1

/-- The row of an FW.UPDATE operation. -/
def updateRow (op : Nat) : CmdRow := { code := 0x90, need := updateNeed, mine := picks 0 op 1, p0 := true, long := true, changes := op == 0 }

/-- Operation 0: the image as read from the host. -/
def State.updateWrite (s : State) (c : Cmd) (image : Bytes) : State :=
  let b := padTo (c.at 0x10 4) image
  let i := s.fuses.image b
  if 1 < c.at 0 1 ∨ c.at 8 8 % 64 ≠ 0 then s.answer c stBadArg
  else if s.fwJob.isSome then s.answer c stBusy
  else if c.at 0x10 4 < 512 ∨ !s.fuses.accepts i ∨ c.at 0x10 4 ≠ field b 0x14 4 + 512 then s.acceptDone c stBadArg
  else ({ s.drew with fwJob := some (.write (otherSlot s.activeSlot) i) } : State).accept c 0

/-- R419. -/
def execFwUpdateWrite (die : Die) (fn : Fn) (slot : Fin 32) (image : Bytes) (s : State) : Outcome :=
  .next (s.serve die.val fn.val slot.val (updateRow 0) fun t c => t.updateWrite c image)

/-- R419: both copies are written and read back. -/
def State.updateDone (s : State) (okA okB : Bool) : State :=
  match s.fwJob, s.longCode? 0x90#8 with
  | some (.write n i), some l =>
    let s : State := { s with flashA := s.flashA.store n i okA, flashB := s.flashB.store n i okB, fwJob := none }
    if okA && okB then s.finish l stOk (toLe 1 n.val) else s.finish l stFaulted
  | _, _ => s

/-- R419. -/
def execFwUpdateWriteDone (readBackA readBackB : Bool) (s : State) : Outcome :=
  .next (if s.supply == .up then s.updateDone readBackA readBackB else s)

/-- The FW.UPDATE status. -/
def State.updateBytes (s : State) : Bytes :=
  let a := s.validBoth 0
  let b := s.validBoth 1
  let build (x : Option FwImage) : Nat := match x with | some i => i.build.toNat | none => 0
  let roll (x : Option FwImage) : Nat := match x with | some i => i.rollback | none => 0
  toLe 1 s.activeSlot.val ++ toLe 1 s.firmware.candidate ++ toLe 1 (bit a.isSome 0 + bit b.isSome 1) ++ zeros 1 ++ toLe 4 (build a) ++
  toLe 4 (build b) ++ toLe 1 (roll a) ++ toLe 1 (roll b) ++ zeros 2 ++ toLe 8 s.fuses.count ++ leBytes 1 (s.fuses.keyRevoke.setWidth 8)

/-- R419. -/
def execFwUpdateStatus (die : Die) (fn : Fn) (slot : Fin 32) (s : State) : Outcome :=
  .next (s.serve die.val fn.val slot.val (updateRow 1) fun t c =>
    if 1 < c.at 0 1 then t.answer c stBadArg
    else if t.fwJob.isSome then t.answer c stBusy
    else t.drew.acceptDone c stOk t.updateBytes)

/-! ## FW.ACTIVATE (R420) -/

/-- R420: the checks and step 1. -/
def State.activate (s : State) (c : Cmd) : State :=
  let n : Fin 2 := if c.at 0 1 = 0 then 0 else 1
  if 1 < c.at 0 1 ∨ (s.validBoth n).isNone then s.answer c stBadArg
  else if s.cal.isSome ∨ s.fwJob.isSome then s.answer c stBusy
  else ({ s with fwJob := some (.activate n (c.at 1 1 % 2 == 1)) } : State).accept c 0

/-- R420. -/
def execFwActivate (die : Die) (fn : Fn) (slot : Fin 32) (s : State) : Outcome :=
  .next (s.serve die.val fn.val slot.val { code := 0x91, need := fun _ => 2, p0 := true, long := true } State.activate)

/-- The Marionettes start on new firmware with their image stores reloaded (R176). -/
def State.restartNodes (s : State) : State :=
  { s with clusters := smapAll {} (fun _ k => { k with fill := [], beatAt := none, missed := 0 }) s.clusters }

/-- Steps 2 to 5 of R420. -/
def State.activateDone (s : State) (n : Fin 2) (commit ok : Bool) (l : LongCmd) : State :=
  match s.validBoth n with
  | none => ({ s with fwJob := none } : State).finish l stFaulted
  | some i =>
    let short := commit && !ok && s.fuses.blows i
    let s : State := { s with flashA := s.flashA.setActive n, flashB := s.flashB.setActive n }
    let s := if commit then s.commitFuses i ok else s
    let s : State := { s.restartNodes with firmware := i.firmware s.firmware.candidate, fwJob := none }
    (s.eventAll evFirmware).finish l (if short then stFaulted else stOk)

/-- R420: once every admitted request is done. -/
def execFwActivateRestart (fuseOk : Bool) (s : State) : Outcome :=
  .next (match s.fwJob, s.longCode? 0x91#8 with
    | some (.activate n commit), some l => if s.inE0 && s.drained then s.activateDone n commit fuseOk l else s
    | _, _ => s)

/-! ## JTAG (R421 to R423) -/

/-- Loading an instruction into a TAP that has power: the register is kept XOR IDCODE. -/
def State.loadIr (s : State) (tap : Nat) (code : BitVec 8) : State :=
  if s.supply == .off then s else { s with tapIr := sput 0#8 tap (code ^^^ 0x01#8) s.tapIr }

/-- The IDCODE of a TAP: H0 to H3, then L0 to L15 (R421). -/
def idcodeOf (tap : Nat) : BitVec 32 := 1#4 ++ (if tap < 4 then 0x1210#16 else 0x1220#16) ++ Config.jep106 ++ 1#1

/-- A TAP selects its identification register, which shifts out (R421). -/
def State.identify (s : State) (tap : Nat) : State :=
  let t := s.loadIr tap 0x01#8
  if s.supply == .off then t else { t with tapOut := some (idcodeOf tap) }

/-- What the SPI pins of H0 and H1 are driven to do, through the TAPs of these dies (R423). -/
def State.drive (s : State) (tap : Nat) (spi : List SpiOp) : State :=
  if s.supply == .off then s
  else if tap = 0 then { s with flashA := spi.foldl Flash.drive s.flashA }
  else if tap = 1 then { s with flashB := spi.foldl Flash.drive s.flashB }
  else s

/-- R423: EXTEST acts as RESET_N while RESET_N is deasserted, and then drives the pins of its die. -/
def execExtest (drive : TapDrive) (s : State) : Outcome :=
  .next (let t := s.loadIr drive.tap.val 0x00#8
         (if s.resetN then t else t.resetEngine).drive drive.tap.val drive.spi)

/-- R421. -/
def execIdcode (tap : Fin 20) (boot : BootIn) (s : State) : Outcome := .next ((s.identify tap.val).unreset boot)

/-- R421: the boundary register takes the cells that were sampled or preloaded. -/
def execSamplePreload (tap : Fin 20) (cells : List Bool) (boot : BootIn) (s : State) : Outcome :=
  .next ((let t := s.loadIr tap.val 0x02#8
          if s.supply == .off then t else { t with boundary := sput [] tap.val cells t.boundary }).unreset boot)

/-- R421. -/
def execBypass (tap : Fin 20) (boot : BootIn) (s : State) : Outcome := .next ((s.loadIr tap.val 0xFF#8).unreset boot)

/-- R422: with DEBUG_OFF blown a private instruction selects the bypass register. Codes outside 0x03 to 0xFE are not
private. -/
def execPrivateInstruction (tap : Fin 20) (code : BitVec 8) (boot : BootIn) (s : State) : Outcome :=
  if code.toNat < 3 ∨ code = 0xFF#8 ∨ s.supply = .off then .next s
  else if s.fuses.debugOff then .next ((s.loadIr tap.val code).unreset boot)
  else .fault .privateFunctions

/-- R421: a TAP reset selects IDCODE. -/
def execTapReset (tap : Fin 20) (boot : BootIn) (s : State) : Outcome := .next ((s.identify tap.val).unreset boot)

/-! ## The carrier and MCTP (R427, R437, R438) -/

/-- R427: while 48 V is present. -/
def execCoolantSample (inlet outlet : BitVec 8) (flow millivolts10 deciAmps : BitVec 16) (s : State) : Outcome :=
  .next (if s.supply == .off then s
    else { s with carrier := { inlet := inlet, outlet := outlet, flow := flow, volts := millivolts10, amps := deciAmps } })

/-- The endpoint answers from the end of boot step 4 on. -/
def State.mctpUp (s : State) : Bool := s.supply == .up || s.supply == .waitQuiet

/-- A response. -/
def State.respond (s : State) (b : Bytes) : State :=
  if s.mctpUp then { s with mctp := { s.mctp with response := some b } } else s

/-- Set Endpoint ID: the null and broadcast IDs are invalid data (0x02); otherwise the ID is accepted (DSP0236). -/
def execSetEndpointId (eid : BitVec 8) (s : State) : Outcome :=
  .next (if eid = 0#8 ∨ eid = 0xFF#8 then s.respond [0x02#8]
    else (if s.mctpUp then { s with mctp := { s.mctp with eid := eid } } else s).respond [0#8, 0#8, eid, 0#8])

/-- R437: the ID, a simple endpoint, no medium-specific information. -/
def execGetEndpointId (s : State) : Outcome := .next (s.respond [0#8, s.mctp.eid, 0#8, 0#8])

/-- R437. -/
def execGetMctpVersionSupport (s : State) : Outcome := .next (s.respond (0#8 :: Config.mctpVersions))

/-- R437: one type beside control, Vendor Defined - PCI. -/
def execGetMessageTypeSupport (s : State) : Outcome := .next (s.respond [0#8, 1#8, 0x7E#8])

/-- A PCI vendor ID on the wire: most significant byte first. -/
def vendorBytes : Bytes := [Config.pciVendor.extractLsb' 8 8, Config.pciVendor.extractLsb' 0 8]

/-- R437: one vendor ID set, the last. -/
def execGetVendorDefinedMessageSupport (s : State) : Outcome :=
  .next (s.respond ([0#8, 0xFF#8, 0#8] ++ vendorBytes ++ [Config.mctpVendorSet.extractLsb' 8 8, Config.mctpVendorSet.extractLsb' 0 8]))

/-- A vendor response: vendor ID, command, completion code, payload (R438). -/
def vendorReply (command code : BitVec 8) (payload : Bytes) : Bytes := vendorBytes ++ [command, code] ++ payload

/-- The firmware may be restarting: an activation whose requests are done. When in its steps it does, the manual leaves
open. -/
def State.restarting (s : State) : Bool :=
  (match s.fwJob with | some (.activate _ _) => true | _ => false) && s.drained && s.freeBit

/-- A vendor command: 0x02 while firmware restarts, else its payload (R438). -/
def State.vendor (s : State) (command : BitVec 8) (payload : Bytes) : State :=
  (s.respond (if s.restarting then vendorReply command 0x02#8 [] else vendorReply command 0x00#8 payload)).drew

/-- R438, Table 17.5. -/
def execGetInfo (s : State) : Outcome :=
  .next (s.vendor 0x01#8 (s.infoBytes 0 0 0))

/-- Table 17.6. -/
def State.statusBytes (s : State) : Bytes :=
  toLe 1 s.stateCode ++ toLe 1 (bit s.maintOpen 0 + bit s.quiescing 1 + bit s.dump.isSome 2 + bit s.pfw 3) ++ toLe 2 s.powerW ++
  toLe 2 s.policy.capW ++ leBytes 2 s.carrier.volts ++ leBytes 2 s.carrier.amps ++ toLe 1 s.hottestC ++ leBytes 1 s.carrier.inlet ++
  leBytes 1 s.carrier.outlet ++ zeros 1 ++ leBytes 2 s.carrier.flow ++ toLe 2 s.retiredCount ++
  toLe 1 (bit s.therm 0 + bit s.pfw 1 + bit (s.supply == .up && !s.authorityLost) 2) ++ zeros 5 ++ leBytes 8 s.et

/-- R438. -/
def execGetStatus (s : State) : Outcome := .next (s.vendor 0x02#8 s.statusBytes)

/-- R438: a vendor command that is neither. -/
def execMctpUnsupportedCommand (code : BitVec 8) (s : State) : Outcome :=
  .next (if code = 0x01#8 ∨ code = 0x02#8 then s else s.respond (vendorReply code 0x01#8 []))

end Sys2Proof.Machine
end

