-- ==== Sys2Proof/Machine/Dispatch.lean ====
section
/-!
DEFINITION. One arm per command: its meaning in the file of its family, one direct call each.
-/

namespace Sys2Proof.Machine

/-- The effect of a command on everything but the queue of waiting commands. -/
def exec (i : Instr) (s : State) : Host.Outcome State Fault Refusal :=
  match i with
  | .registerWrite die fn bar off wide val => Sys2Proof.Machine.execRegisterWrite die fn bar off wide val s
  | .splitWriteLower die fn bar off val => Sys2Proof.Machine.execSplitWriteLower die fn bar off val s
  | .splitWriteUpper die fn bar off val => Sys2Proof.Machine.execSplitWriteUpper die fn bar off val s
  | .splitReadLower die fn bar acc => Sys2Proof.Machine.execSplitReadLower die fn bar acc s
  | .unhonouredMmioAccess die fn bar off bits write => Sys2Proof.Machine.execUnhonouredMmioAccess die fn bar off bits write s
  | .mmioViolation die fn bar acc write => Sys2Proof.Machine.execMmioViolation die fn bar acc write s
  | .hdMbDoorbell die fn val => Sys2Proof.Machine.execHdMbDoorbell die fn val s
  | .hdMbOutAck die fn val => Sys2Proof.Machine.execHdMbOutAck die fn val s
  | .outboundMessageWrite die fn => Sys2Proof.Machine.execOutboundMessageWrite die fn s
  | .hdViolClear die val => Sys2Proof.Machine.execHdViolClear die val s
  | .hdClassAmbigClear die val => Sys2Proof.Machine.execHdClassAmbigClear die val s
  | .functionLevelReset die fn => Sys2Proof.Machine.execFunctionLevelReset die fn s
  | .perstN pin => Sys2Proof.Machine.execPerstN pin s
  | .ringEnable die fn ring val => Sys2Proof.Machine.execRingEnable die fn ring val s
  | .ringDisable die fn ring val => Sys2Proof.Machine.execRingDisable die fn ring val s
  | .hdSqTail die fn ring val => Sys2Proof.Machine.execHdSqTail die fn ring val s
  | .hdCqHead die fn ring val => Sys2Proof.Machine.execHdCqHead die fn ring val s
  | .dmaQueueEnable die fn val => Sys2Proof.Machine.execDmaQueueEnable die fn val s
  | .dmaQueueDisable die fn val => Sys2Proof.Machine.execDmaQueueDisable die fn val s
  | .hdDmaTail die fn val => Sys2Proof.Machine.execHdDmaTail die fn val s
  | .commandReservedCode die fn slot => Sys2Proof.Machine.execCommandReservedCode die fn slot s
  | .engineInfo die fn slot => Sys2Proof.Machine.execEngineInfo die fn slot s
  | .engineState die fn slot => Sys2Proof.Machine.execEngineState die fn slot s
  | .engineResume die fn slot => Sys2Proof.Machine.execEngineResume die fn slot s
  | .engineStandby die fn slot => Sys2Proof.Machine.execEngineStandby die fn slot s
  | .partCreate die fn slot => Sys2Proof.Machine.execPartCreate die fn slot s
  | .partCreateBuild part => Sys2Proof.Machine.execPartCreateBuild part s
  | .partDestroy die fn slot => Sys2Proof.Machine.execPartDestroy die fn slot s
  | .partDestroyFinish part => Sys2Proof.Machine.execPartDestroyFinish part s
  | .partQuery die fn slot => Sys2Proof.Machine.execPartQuery die fn slot s
  | .partReset die fn slot => Sys2Proof.Machine.execPartReset die fn slot s
  | .planLoad die fn slot => Sys2Proof.Machine.execPlanLoad die fn slot s
  | .planLoadDone die fn seq => Sys2Proof.Machine.execPlanLoadDone die fn seq s
  | .planUnload die fn slot => Sys2Proof.Machine.execPlanUnload die fn slot s
  | .planBind die fn slot => Sys2Proof.Machine.execPlanBind die fn slot s
  | .planBindDone die fn rep => Sys2Proof.Machine.execPlanBindDone die fn rep s
  | .planVerify die fn slot => Sys2Proof.Machine.execPlanVerify die fn slot s
  | .planVerifyDone die fn rep => Sys2Proof.Machine.execPlanVerifyDone die fn rep s
  | .queueConfigQueueSetting die fn slot => Sys2Proof.Machine.execQueueConfigQueueSetting die fn slot s
  | .queueConfigRuleWrite die fn slot => Sys2Proof.Machine.execQueueConfigRuleWrite die fn slot s
  | .queueStats die fn slot => Sys2Proof.Machine.execQueueStats die fn slot s
  | .testRun die fn slot => Sys2Proof.Machine.execTestRun die fn slot s
  | .testRunStart part => Sys2Proof.Machine.execTestRunStart part s
  | .testDeferTimeout part => Sys2Proof.Machine.execTestDeferTimeout part s
  | .testRunDone part failed => Sys2Proof.Machine.execTestRunDone part failed s
  | .calRun die fn slot => Sys2Proof.Machine.execCalRun die fn slot s
  | .calRunStart => Sys2Proof.Machine.execCalRunStart s
  | .calRunDone failed => Sys2Proof.Machine.execCalRunDone failed s
  | .maintWindowRead die fn slot => Sys2Proof.Machine.execMaintWindowRead die fn slot s
  | .maintWindowOpen die fn slot => Sys2Proof.Machine.execMaintWindowOpen die fn slot s
  | .maintWindowClose die fn slot => Sys2Proof.Machine.execMaintWindowClose die fn slot s
  | .maintWindowSetDeferral die fn slot => Sys2Proof.Machine.execMaintWindowSetDeferral die fn slot s
  | .maintWindowOpened => Sys2Proof.Machine.execMaintWindowOpened s
  | .maintWindowExpiry => Sys2Proof.Machine.execMaintWindowExpiry s
  | .powerPolicyRead die fn slot => Sys2Proof.Machine.execPowerPolicyRead die fn slot s
  | .powerPolicySet die fn slot => Sys2Proof.Machine.execPowerPolicySet die fn slot s
  | .powerIdleQuery die fn slot => Sys2Proof.Machine.execPowerIdleQuery die fn slot s
  | .powerIdlePark die fn slot => Sys2Proof.Machine.execPowerIdlePark die fn slot s
  | .powerIdleUnpark die fn slot => Sys2Proof.Machine.execPowerIdleUnpark die fn slot s
  | .snapTake die fn slot => Sys2Proof.Machine.execSnapTake die fn slot s
  | .snapTakeDone die fn seq timeouts => Sys2Proof.Machine.execSnapTakeDone die fn seq timeouts s
  | .snapRestore die fn slot => Sys2Proof.Machine.execSnapRestore die fn slot s
  | .snapRestoreDone die fn seq => Sys2Proof.Machine.execSnapRestoreDone die fn seq s
  | .faultLog die fn rep => Sys2Proof.Machine.execFaultLog die fn rep s
  | .seize die fn slot => Sys2Proof.Machine.execSeize die fn slot s
  | .linkStateSummary die fn slot => Sys2Proof.Machine.execLinkStateSummary die fn slot s
  | .linkStateDie die fn slot => Sys2Proof.Machine.execLinkStateDie die fn slot s
  | .linkStateSet die fn slot => Sys2Proof.Machine.execLinkStateSet die fn slot s
  | .linkRetime die fn slot => Sys2Proof.Machine.execLinkRetime die fn slot s
  | .collGroupJoin die fn slot => Sys2Proof.Machine.execCollGroupJoin die fn slot s
  | .collGroupLeave die fn slot => Sys2Proof.Machine.execCollGroupLeave die fn slot s
  | .collGroupStatus die fn slot => Sys2Proof.Machine.execCollGroupStatus die fn slot s
  | .fwUpdateWrite die fn slot image => Sys2Proof.Machine.execFwUpdateWrite die fn slot image s
  | .fwUpdateWriteDone readBackA readBackB => Sys2Proof.Machine.execFwUpdateWriteDone readBackA readBackB s
  | .fwUpdateStatus die fn slot => Sys2Proof.Machine.execFwUpdateStatus die fn slot s
  | .fwActivate die fn slot => Sys2Proof.Machine.execFwActivate die fn slot s
  | .fwActivateRestart fuseOk => Sys2Proof.Machine.execFwActivateRestart fuseOk s
  | .dump die fn slot => Sys2Proof.Machine.execDump die fn slot s
  | .dumpDone doubles => Sys2Proof.Machine.execDumpDone doubles s
  | .fetch die fn ring desc => Sys2Proof.Machine.execFetch die fn ring desc s
  | .ready part req input => Sys2Proof.Machine.execReady part req input s
  | .ingressTimeout part req => Sys2Proof.Machine.execIngressTimeout part req s
  | .start part => Sys2Proof.Machine.execStart part s
  | .endRun part => Sys2Proof.Machine.execEndRun part s
  | .egressComplete part req double => Sys2Proof.Machine.execEgressComplete part req double s
  | .completionWrite die fn ring => Sys2Proof.Machine.execCompletionWrite die fn ring s
  | .fireWord cl core ecc => Sys2Proof.Machine.execFireWord cl core ecc s
  | .setWord cl core ecc => Sys2Proof.Machine.execSetWord cl core ecc s
  | .loop cl core ecc => Sys2Proof.Machine.execLoop cl core ecc s
  | .wait cl core ecc => Sys2Proof.Machine.execWait cl core ecc s
  | .waitEnd cl core => Sys2Proof.Machine.execWaitEnd cl core s
  | .halt cl core ecc => Sys2Proof.Machine.execHalt cl core ecc s
  | .coreHalted cl core => Sys2Proof.Machine.execCoreHalted cl core s
  | .holdEnd cl core => Sys2Proof.Machine.execHoldEnd cl core s
  | .watchdogTrip cl core => Sys2Proof.Machine.execWatchdogTrip cl core s
  | .accumulatorUpdate cl core => Sys2Proof.Machine.execAccumulatorUpdate cl core s
  | .gangAccumulatorUpdate cl k => Sys2Proof.Machine.execGangAccumulatorUpdate cl k s
  | .drainWrite cl core => Sys2Proof.Machine.execDrainWrite cl core s
  | .vectorResultWrite cl core => Sys2Proof.Machine.execVectorResultWrite cl core s
  | .scalarResultWrite cl core => Sys2Proof.Machine.execScalarResultWrite cl core s
  | .weightLoadLand cl core => Sys2Proof.Machine.execWeightLoadLand cl core s
  | .scaleLoadLand cl core => Sys2Proof.Machine.execScaleLoadLand cl core s
  | .wordArrival cl core net port => Sys2Proof.Machine.execWordArrival cl core net port s
  | .queueWordDepart cl core net port => Sys2Proof.Machine.execQueueWordDepart cl core net port s
  | .creditReturn cl core net out => Sys2Proof.Machine.execCreditReturn cl core net out s
  | .slotSwitch part => Sys2Proof.Machine.execSlotSwitch part s
  | .switchCclk part => Sys2Proof.Machine.execSwitchCclk part s
  | .reloadComplete part load => Sys2Proof.Machine.execReloadComplete part load s
  | .regRead hdr reg => Sys2Proof.Machine.execRegRead hdr reg s
  | .regWrite hdr reg val => Sys2Proof.Machine.execRegWrite hdr reg val s
  | .regReply hdr reg => Sys2Proof.Machine.execRegReply hdr reg s
  | .slotData hdr slot first rows cols words => Sys2Proof.Machine.execSlotData hdr slot first rows cols words s
  | .scanCtl hdr => Sys2Proof.Machine.execScanCtl hdr s
  | .fwMsg hdr => Sys2Proof.Machine.execFwMsg hdr s
  | .fwUrgent hdr msg => Sys2Proof.Machine.execFwUrgent hdr msg s
  | .viol cl => Sys2Proof.Machine.execViol cl s
  | .noTarget hdr => Sys2Proof.Machine.execNoTarget hdr s
  | .coreEvent cl core => Sys2Proof.Machine.execCoreEvent cl core s
  | .seizeFrame hdr kind index tag => Sys2Proof.Machine.execSeizeFrame hdr kind index tag s
  | .storeData hdr place first words => Sys2Proof.Machine.execStoreData hdr place first words s
  | .stringsReservedFrame cl => Sys2Proof.Machine.execStringsReservedFrame cl s
  | .flitParityError cl dir resends failed => Sys2Proof.Machine.execFlitParityError cl dir resends failed s
  | .scanTimeout cl => Sys2Proof.Machine.execScanTimeout cl s
  | .channelLineWrite cl core => Sys2Proof.Machine.execChannelLineWrite cl core s
  | .coreToHbmRead cl core ecc => Sys2Proof.Machine.execCoreToHbmRead cl core ecc s
  | .coreToHbmForcedRead cl core ecc => Sys2Proof.Machine.execCoreToHbmForcedRead cl core ecc s
  | .hbmSlotTransfer part rec line ecc => Sys2Proof.Machine.execHbmSlotTransfer part rec line ecc s
  | .hbmRefresh stack => Sys2Proof.Machine.execHbmRefresh stack s
  | .hbmScrub line ecc cancelled => Sys2Proof.Machine.execHbmScrub line ecc cancelled s
  | .hbmTempRead stack celsius => Sys2Proof.Machine.execHbmTempRead stack celsius s
  | .dmaDescriptorFetch die fn desc => Sys2Proof.Machine.execDmaDescriptorFetch die fn desc s
  | .dmaTransferComplete die fn source how => Sys2Proof.Machine.execDmaTransferComplete die fn source how s
  | .portUp ld port train => Sys2Proof.Machine.execPortUp ld port train s
  | .portDown ld port => Sys2Proof.Machine.execPortDown ld port s
  | .glpCycleStart ld port => Sys2Proof.Machine.execGlpCycleStart ld port s
  | .dataS ld port cell => Sys2Proof.Machine.execDataS ld port cell s
  | .dataB ld port cell => Sys2Proof.Machine.execDataB ld port cell s
  | .sync ld port cell => Sys2Proof.Machine.execSync ld port cell s
  | .ack ld port high naks free => Sys2Proof.Machine.execAck ld port high naks free s
  | .join ld port cell => Sys2Proof.Machine.execJoin ld port cell s
  | .idle ld port => Sys2Proof.Machine.execIdle ld port s
  | .cellDiscard ld port => Sys2Proof.Machine.execCellDiscard ld port s
  | .retransmitTimeout ld port seq => Sys2Proof.Machine.execRetransmitTimeout ld port seq s
  | .linkLineRead part group rec ecc => Sys2Proof.Machine.execLinkLineRead part group rec ecc s
  | .linkCellSend ld port position => Sys2Proof.Machine.execLinkCellSend ld port position s
  | .linkCellRelease part group rec => Sys2Proof.Machine.execLinkCellRelease part group rec s
  | .fullRetime found => Sys2Proof.Machine.execFullRetime found s
  | .clusterEntryComplete cl => Sys2Proof.Machine.execClusterEntryComplete cl s
  | .clusterExitComplete cl => Sys2Proof.Machine.execClusterExitComplete cl s
  | .thermalSensorRead cl raw0 raw1 => Sys2Proof.Machine.execThermalSensorRead cl raw0 raw1 s
  | .breathAllowanceUpdate powerW => Sys2Proof.Machine.execBreathAllowanceUpdate powerW s
  | .avsCurrentRead zone milliAmps => Sys2Proof.Machine.execAvsCurrentRead zone milliAmps s
  | .pmbusStatusPoll addr page status vout iout pout => Sys2Proof.Machine.execPmbusStatusPoll addr page status vout iout pout s
  | .voltageAckTimeout zone => Sys2Proof.Machine.execVoltageAckTimeout zone s
  | .powerCapAlarm => Sys2Proof.Machine.execPowerCapAlarm s
  | .standbyEntry => Sys2Proof.Machine.execStandbyEntry s
  | .standbyExit => Sys2Proof.Machine.execStandbyExit s
  | .wakeTimer => Sys2Proof.Machine.execWakeTimer s
  | .linkPartnerDetect ld port => Sys2Proof.Machine.execLinkPartnerDetect ld port s
  | .pfwNAssert => Sys2Proof.Machine.execPfwNAssert s
  | .pfwNDeassert => Sys2Proof.Machine.execPfwNDeassert s
  | .forcedQuiesceStop => Sys2Proof.Machine.execForcedQuiesceStop s
  | .commitPoint => Sys2Proof.Machine.execCommitPoint s
  | .finishingCutoff => Sys2Proof.Machine.execFinishingCutoff s
  | .braceComplete => Sys2Proof.Machine.execBraceComplete s
  | .resumeQuietExpiry => Sys2Proof.Machine.execResumeQuietExpiry s
  | .e1ExitComplete => Sys2Proof.Machine.execE1ExitComplete s
  | .braceHoldExpiry => Sys2Proof.Machine.execBraceHoldExpiry s
  | .heartbeatSend => Sys2Proof.Machine.execHeartbeatSend s
  | .heartbeatTimeout cl => Sys2Proof.Machine.execHeartbeatTimeout cl s
  | .marionetteResetDone cl passed => Sys2Proof.Machine.execMarionetteResetDone cl passed s
  | .edgeRequestTimeout edge => Sys2Proof.Machine.execEdgeRequestTimeout edge s
  | .fieldRepair cl core => Sys2Proof.Machine.execFieldRepair cl core s
  | .understudyTestStart cl row => Sys2Proof.Machine.execUnderstudyTestStart cl row s
  | .understudyTestEnd cl row passed => Sys2Proof.Machine.execUnderstudyTestEnd cl row passed s
  | .authorityCheckMiss => Sys2Proof.Machine.execAuthorityCheckMiss s
  | .power48vApplied boot => Sys2Proof.Machine.execPower48vApplied boot s
  | .resetNAssert => Sys2Proof.Machine.execResetNAssert s
  | .resetNDeassert boot => Sys2Proof.Machine.execResetNDeassert boot s
  | .firmwareRetry boot => Sys2Proof.Machine.execFirmwareRetry boot s
  | .undervoltageLockout => Sys2Proof.Machine.execUndervoltageLockout s
  | .refclkLoss => Sys2Proof.Machine.execRefclkLoss s
  | .refclkReturn boot => Sys2Proof.Machine.execRefclkReturn boot s
  | .extest drive => Sys2Proof.Machine.execExtest drive s
  | .idcode tap boot => Sys2Proof.Machine.execIdcode tap boot s
  | .samplePreload tap cells boot => Sys2Proof.Machine.execSamplePreload tap cells boot s
  | .bypass tap boot => Sys2Proof.Machine.execBypass tap boot s
  | .privateInstruction tap code boot => Sys2Proof.Machine.execPrivateInstruction tap code boot s
  | .coolantSample inlet outlet flow millivolts10 deciAmps => Sys2Proof.Machine.execCoolantSample inlet outlet flow millivolts10 deciAmps s
  | .setEndpointId eid => Sys2Proof.Machine.execSetEndpointId eid s
  | .getEndpointId => Sys2Proof.Machine.execGetEndpointId s
  | .getMctpVersionSupport => Sys2Proof.Machine.execGetMctpVersionSupport s
  | .getMessageTypeSupport => Sys2Proof.Machine.execGetMessageTypeSupport s
  | .getVendorDefinedMessageSupport => Sys2Proof.Machine.execGetVendorDefinedMessageSupport s
  | .getInfo => Sys2Proof.Machine.execGetInfo s
  | .getStatus => Sys2Proof.Machine.execGetStatus s
  | .mctpUnsupportedCommand code => Sys2Proof.Machine.execMctpUnsupportedCommand code s
  | .fwReady die fn => Sys2Proof.Machine.execFwReady die fn s
  | .tapReset tap boot => Sys2Proof.Machine.execTapReset tap boot s

end Sys2Proof.Machine
end

