-- ==== Sys2Proof/Machine/Step.lean ====
section
/-!
DEFINITION. The step: the command at the front of the queue runs, or, on an empty queue, one CCLK passes.
-/

namespace Sys2Proof.Machine

open Sys2Proof

/-- One step of the engine (notes/assumptions/1.md). -/
def step (s : State) : Host.Outcome State Fault Refusal :=
  match s.pending with
  | [] => .next s.tickAll
  | c :: r => exec c { s with pending := r }

/-- The engine with the command that a word spells at the front of its queue. No row of the command table has bits,
so no word spells one. -/
def State.withFetchWord (s : State) (nbits w : Nat) : State :=
  match decodeTableWord nbits w with
  | some c => { s with pending := c :: s.pending }
  | none => s

end Sys2Proof.Machine
end

