-- ==== Sys2Proof/Safety.lean ====
section
/-!
DEFINITION. The terms of the claims: a well-kept state, the conditions on which a command is taken, and what a
command may change.
-/

namespace Sys2Proof.Machine

open Sys2Proof

/-! ## A well-kept state -/

/-- The memories and the maps of the engine are canonical. -/
def State.canonical (s : State) : Bool :=
  Mem.wf s.spad && Mem.wf s.hbm && Mem.wf s.hostMem && swf {} s.cores && swf {} s.clusters && swf {} s.windows &&
    swf {} s.parts && swf 0#16 s.leases && swf 0#64 s.rules && swf 0#64 s.violCounts

/-- The subcount of ET stays below the period of the clock that advances ET. -/
def State.subOk (s : State) : Bool :=
  match s.etClock with
  | .alwaysOn => decide (s.sub < 40)
  | _ => decide (s.sub < 8)

/-! ## What a host's access or a mailbox command meets -/

/-- The host die answers MMIO and the window is open (R210, R220, R435). -/
def State.reach (s : State) (h f : Nat) : Bool := s.hostUp h && s.isOpen h f

/-- The engine is about to take slot `i` of a window (R223): the window is open and served, and the command in the slot
has this code, a payload of at least `need` bytes, the GMP version of the firmware, and a seq that is free (R228,
R230, R232). -/
def State.offers (s : State) (h f i code need : Nat) : Bool :=
  let w := s.window h f
  let c := s.readCmd h f i
  s.supply == .up && s.isOpen h f && w.fwReady && w.rung.head? == some i && c.code == code &&
    (code == 1 || (w.majorXor ^^^ 1#8) == s.firmware.gmpMajor) && decide (need ≤ c.len ∧ c.len ≤ 120) &&
    c.seq != 0xFFFF#16 && (s.long? h f c.seq).isNone

/-- The engine authority is in place (R395): state-changing commands are served. -/
def State.ruled (s : State) : Bool := !s.authorityLost

/-- The sender may have one more long command open (R232). -/
def State.longRoom (s : State) (f : Nat) : Bool := decide ((s.longs.filter fun l => l.sender.val == f).length < 8)

/-- The partition a command names is one of the 16, exists, and the sender is P0 or that partition (R198, R229, R239). -/
def State.mayName (s : State) (c : Cmd) : Bool :=
  (c.fn == 0 || c.named == c.fn) && s.exists c.named && decide (c.named < 16)

/-- The message the engine answers a command with. -/
def Cmd.msg (c : Cmd) (final : Bool) (status : Nat) (payload : Bytes) : Msg :=
  { seq := c.seq, command := BitVec.ofNat 8 c.code, final := final, event := false, status := BitVec.ofNat 8 status
    payload := payload }

/-- The long command that ACCEPTED or DEFERRED leaves open (R230). -/
def Cmd.long (c : Cmd) (part : Nat) : LongCmd :=
  { die := Fin.ofNat 4 c.die, fn := Fin.ofNat 16 c.fn, seq := c.seq, code := BitVec.ofNat 8 c.code
    sender := Fin.ofNat 16 c.fn, part := Fin.ofNat 16 part, payload := c.payload }

/-- A window once the engine has taken its slot `i` (R224) and added messages. -/
def Window.took (w : Window) (i : Nat) (ms : List Msg) : Window :=
  { w with busy := w.busy &&& ~~~BitVec.ofNat 32 (2 ^ i), rung := w.rung.drop 1, outQ := w.outQ ++ ms }

/-- The core issues a word of this kind in this CCLK: it is clocked, at a word of the kind, and neither holds nor begins a
hold (R73, R83). -/
def State.issues (s : State) (c lc : Nat) (kind : WordKind) : Bool :=
  let k := s.coreAt (s.lcore c lc)
  s.clocked c && k.hold.isNone && k.ready && wordKind k.word == kind && (s.holdNow c lc).isNone

/-- The pipelines of a core move in this CCLK (R84). -/
def State.moves (s : State) (c lc : Nat) : Bool := s.clocked c && !s.stalled c lc

/-! ## What a command may change -/

/-- Nothing but the windows differs. -/
def WindowsOnly (s t : State) : Prop := t = { s with windows := t.windows }
/-- Nothing but the cores differs. -/
def CoresOnly (s t : State) : Prop := t = { s with cores := t.cores }
/-- Nothing but the clusters differs. -/
def ClustersOnly (s t : State) : Prop := t = { s with clusters := t.clusters }
/-- Nothing but the partitions differs. -/
def PartsOnly (s t : State) : Prop := t = { s with parts := t.parts }
/-- Nothing but the link dies differs. -/
def LinksOnly (s t : State) : Prop := t = { s with links := t.links }

/-- Of the windows, only that of function `f` on host die `h` differs. -/
def OneWindow (s t : State) (h f : Nat) : Prop := ∀ k, k ≠ 16 * h + f → sget {} t.windows k = sget {} s.windows k
/-- Of the windows, only the messages still to be written differ. -/
def Queued (s t : State) : Prop := ∀ k, sget {} t.windows k = { sget {} s.windows k with outQ := (sget {} t.windows k).outQ }
/-- Every window that is open has an event of this cause waiting (R233). -/
def Tells (s t : State) (cause : Nat) : Prop :=
  ∀ h f, h < 4 → f < 16 → s.isOpen h f = true → ∃ x ∈ (t.window h f).outQ, x.event = true ∧ x.causes &&& cause = cause
/-- Of the partitions, only Pp differs. -/
def OnePart (s t : State) (p : Nat) : Prop := ∀ k, k ≠ p → sget {} t.parts k = sget {} s.parts k
/-- Nothing of the cores and clusters outside a partition's rectangle differs. -/
def Within (s t : State) (p : Nat) : Prop :=
  (∀ c, c ∉ s.partClusters p → t.cluster c = s.cluster c) ∧ ∀ n, n / 272 ∉ s.partClusters p → t.coreAt n = s.coreAt n
/-- A cluster is in C1 or C0, or on its way there (R331, R344). -/
def Cluster.comesUp (k : Cluster) : Prop :=
  (k.trans = none ∧ k.power.depth ≤ 1) ∨ (∃ e, k.trans = some (.exit e) ∧ e.depth ≤ 1) ∨ ∃ e, k.trans = some (.enter e (some .c1))
/-- A cluster is as deep as a state or on its way there, and nothing latched takes it higher (R331, R344). -/
def Cluster.goesDown (k : Cluster) (aim : CState) : Prop :=
  (k.trans = none ∧ aim.depth ≤ k.power.depth) ∨
    ∃ e w, k.trans = some (.enter e w) ∧ aim.depth ≤ e.depth ∧ ∀ y, w = some y → aim.depth ≤ y.depth
/-- A report has gone to the buffer that a long command's payload names at 0x08, as much as the buffer takes, and no other byte
of host memory differs (R237). -/
def Reported (s t : State) (l : LongCmd) (body : Bytes) (lost : Bool) : Prop :=
  let base := 18446744073709551616 * l.die.val + field l.payload 8 8
  let n := if lost then 0 else Nat.min (field l.payload 16 4) body.length
  (∀ i, i < n → mread t.hostMem (base + i) = body.getD i 0#8) ∧
    ∀ a, (a < base ∨ base + n ≤ a) → mread t.hostMem a = mread s.hostMem a

/-- Of the leases, only that of kind `kind` and index `i` differs. -/
def OneLease (s t : State) (kind i : Nat) : Prop :=
  ∀ k, k ≠ leaseKey kind i → sget 0#16 t.leases k = sget 0#16 s.leases k
/-- Of the physical cores, only core `n` differs. -/
def OneCore (s t : State) (n : Nat) : Prop := ∀ k, k ≠ n → sget {} t.cores k = sget {} s.cores k
/-- Of the clusters, only cluster `c` differs. -/
def OneCluster (s t : State) (c : Nat) : Prop := ∀ k, k ≠ c → sget {} t.clusters k = sget {} s.clusters k
/-- Of the link dies, only Ld differs. -/
def OneLink (s t : State) (d : Nat) : Prop := ∀ k, k ≠ d → sget {} t.links k = sget {} s.links k

/-- Slot `i` of a window is taken: its busy bit clears, its lease ends, the messages are added, and no other window
and no other lease differs (R224, R230). -/
def Took (s t : State) (h f i : Nat) (ms : List Msg) : Prop :=
  t.window h f = (s.window h f).took i ms ∧ t.lease 4 (512 * h + 32 * f + i) = 0x0FFF#16 ∧ OneWindow s t h f ∧
    OneLease s t 4 (512 * h + 32 * f + i)

/-- Slot `i` is taken and its command answered, and nothing else of the engine differs. -/
def Answered (s t : State) (h f i : Nat) (ms : List Msg) : Prop :=
  t = { s with windows := t.windows, leases := t.leases } ∧ Took s t h f i ms

/-- Slot `i` is taken, its command stays open as a long command of a partition, and nothing else differs. -/
def Opened (s t : State) (h f i part status : Nat) (payload : Bytes) : Prop :=
  t = { s with windows := t.windows, leases := t.leases, longs := s.longs ++ [(s.readCmd h f i).long part] } ∧
    Took s t h f i [(s.readCmd h f i).msg false status payload]

/-- A long command has sent its final message, or, its window reset, has ended without one (R230, Table 9.16). -/
def Finished (s t : State) (l : LongCmd) (status : Nat) (payload : Bytes) : Prop :=
  t.longs = s.longs.filter (fun x => !x.same l) ∧ OneWindow s t l.die.val l.fn.val ∧
    t.window l.die.val l.fn.val = (let w := s.window l.die.val l.fn.val
      if l.discard then w
      else { w with outQ := w.outQ ++ [{ seq := l.seq, command := l.code, final := true, event := false
                                         status := BitVec.ofNat 8 status, payload := payload }] })

/-! ## Reset and boot -/

/-- Nothing is left of what a reset clears: no partition but an empty P0, no run, no lease, no long command, no byte of
the scratchpads or HBM; what no reset clears is as it was, but for a firmware job that it cuts off (R401, Table 16.7). -/
def Wiped (s t : State) : Prop :=
  t.parts = State.reset.parts ∧ t.cores = [] ∧ t.spad = [] ∧ t.hbm = [] ∧ t.leases = [] ∧ t.longs = [] ∧ t.windows = [] ∧
    t.et = 0 ∧ t.etClock = .held ∧ t.fwJob = none ∧ t.hostMem = s.hostMem ∧
    ((∀ n, s.fwJob ≠ some (.activate n true)) → t.fuses = s.fuses)

/-- Nothing but the supply and RESET_N keeps the engine from booting (R401, R423, R433). -/
def State.mayBoot (s : State) : Bool := !s.refclkLost && !s.extest

/-- PFW_N is quiet for a boot: deasserted for RESUME_QUIET, which is 20 ms after a reset (R355, R406). -/
def State.bootQuiet (s : State) : Bool := !s.pfw && (s.pfwHighSince == 0 || decide (s.pfwHighSince + 20000000 ≤ s.now))

/-- The engine waits for PFW_N at the end of boot step 4 (R406). -/
def Waits (s t : State) : Prop :=
  t.supply = .waitQuiet ∧ t.bootWait = s.now ∧ t.rails.core = false ∧ t.rails.cclk = false ∧ t.rails.pll = true ∧ t.etClock = .held

/-- The engine is ready, with no power-fail warning in the boot: E0, every rail and clock up, every regulator limit written from
the fuses (R348, R403). -/
def Ready (s t : State) : Prop :=
  t.supply = .up ∧ t.estate = .e0 ∧ t.et = 0 ∧ t.etClock = .tclk ∧ t.standbyOk = true ∧ t.hbm = [] ∧
    ∀ x ∈ railOutputs, (sget {} t.regulators x.1).limits = s.fuses.railLimit.extractLsb' (16 * x.2) 16

/-- Where a cold boot of `s` ends: with no valid firmware image, at the wait for PFW_N, or in E0 (R403, R406, R414). -/
def Booted (s t : State) (b : BootIn) : Prop :=
  t.mctp.straps = b.straps ∧ match firstValid s.candidates with
  | none => t.supply = .noImage ∧ t.noImageAt = s.now
  | some (n, i) => t.firmware = i.firmware n ∧ (s.bootQuiet = false → Waits s t ∧ t.bootRest = some b) ∧
      (s.bootQuiet = true → b.pfwIn.isSome = true → Waits s t ∧ t.pfw = true ∧ t.bootRest = some { b with pfwIn := none }) ∧
      (s.bootQuiet = true → b.pfwIn = none → Ready s t ∧ t.rails = Rails.up ∧ t.bootRest = none)

/-! ## The rows of Table 9.9 -/

/-- A row: the command that serves it, its code, the length its payload needs (R228), whether it is P0's alone, whether it
has partition scope (R229), whether it is long (R230), and the payload byte and value that select it among the
rows of its code. -/
structure GmpRow where
  cmd : Instr
  code : Nat
  need : Nat
  p0 : Bool := false
  scope : Bool := false
  long : Bool := false
  op : Option (Nat × Nat) := none

/-- Every row, for slot `i` of a window; `image` is what FW.UPDATE reads, `lost` whether the host takes a FAULT.LOG report. -/
def gmpRows (d : Die) (f : Fn) (i : Fin 32) (image : Bytes) (lost : Bool) : List GmpRow :=
  [{ cmd := .engineInfo d f i, code := 0x01, need := 0 }, { cmd := .engineState d f i, code := 0x02, need := 0 },
   { cmd := .engineResume d f i, code := 0x03, need := 0 },
   { cmd := .engineStandby d f i, code := 0x04, need := 8, p0 := true, long := true },
   { cmd := .partCreate d f i, code := 0x10, need := 120, p0 := true, long := true },
   { cmd := .partDestroy d f i, code := 0x11, need := 1, p0 := true, long := true },
   { cmd := .partQuery d f i, code := 0x12, need := 2, scope := true },
   { cmd := .partReset d f i, code := 0x13, need := 2, scope := true, long := true },
   { cmd := .planLoad d f i, code := 0x20, need := 20, scope := true, long := true },
   { cmd := .planUnload d f i, code := 0x21, need := 2, scope := true, long := true },
   { cmd := .planBind d f i, code := 0x22, need := 24, scope := true, long := true },
   { cmd := .planVerify d f i, code := 0x23, need := 24, scope := true, long := true },
   { cmd := .queueConfigQueueSetting d f i, code := 0x30, need := 16, scope := true, op := some (1, 0) },
   { cmd := .queueConfigRuleWrite d f i, code := 0x30, need := 112, scope := true, op := some (1, 1) },
   { cmd := .queueStats d f i, code := 0x31, need := 2, scope := true },
   { cmd := .testRun d f i, code := 0x40, need := 2, scope := true, long := true },
   { cmd := .calRun d f i, code := 0x41, need := 2, long := true }] ++
  [{ cmd := .maintWindowRead d f i, code := 0x42, need := 1, p0 := true, op := some (0, 0) },
   { cmd := .maintWindowOpen d f i, code := 0x42, need := 8, p0 := true, op := some (0, 1) },
   { cmd := .maintWindowClose d f i, code := 0x42, need := 1, p0 := true, op := some (0, 2) },
   { cmd := .maintWindowSetDeferral d f i, code := 0x42, need := 12, p0 := true, op := some (0, 3) },
   { cmd := .powerPolicyRead d f i, code := 0x50, need := 1, p0 := true, op := some (0, 0) },
   { cmd := .powerPolicySet d f i, code := 0x50, need := 16, p0 := true, op := some (0, 1) },
   { cmd := .powerIdleQuery d f i, code := 0x51, need := 2, scope := true, op := some (1, 0) },
   { cmd := .powerIdlePark d f i, code := 0x51, need := 3, scope := true, op := some (1, 1) },
   { cmd := .powerIdleUnpark d f i, code := 0x51, need := 2, scope := true, op := some (1, 2) },
   { cmd := .snapTake d f i, code := 0x60, need := 24, scope := true, long := true },
   { cmd := .snapRestore d f i, code := 0x61, need := 24, scope := true, long := true },
   { cmd := .faultLog d f ⟨i, lost⟩, code := 0x70, need := 0x1C, long := true },
   { cmd := .seize d f i, code := 0x71, need := 4, p0 := true, long := true },
   { cmd := .linkStateSummary d f i, code := 0x80, need := 2, op := some (1, 0xFF) },
   { cmd := .linkStateDie d f i, code := 0x80, need := 2, op := some (1, 0) },
   { cmd := .linkStateSet d f i, code := 0x80, need := 24, op := some (1, 0xFE) },
   { cmd := .linkRetime d f i, code := 0x81, need := 0, p0 := true, long := true }] ++
  [{ cmd := .collGroupJoin d f i, code := 0x82, need := 20, scope := true, long := true, op := some (1, 0) },
   { cmd := .collGroupLeave d f i, code := 0x82, need := 3, scope := true, long := true, op := some (1, 1) },
   { cmd := .collGroupStatus d f i, code := 0x82, need := 3, scope := true, long := true, op := some (1, 2) },
   { cmd := .fwUpdateWrite d f i image, code := 0x90, need := 20, p0 := true, long := true, op := some (0, 0) },
   { cmd := .fwUpdateStatus d f i, code := 0x90, need := 1, p0 := true, long := true, op := some (0, 1) },
   { cmd := .fwActivate d f i, code := 0x91, need := 2, p0 := true, long := true },
   { cmd := .dump d f i, code := 0xA0, need := 0x48, p0 := true, long := true }]

/-- The codes Table 9.7 lets the engine serve in a state; beyond the table, the model's state before boot is as E1. -/
def servedIn (e : EState) (code : Nat) : Bool :=
  let e1 := [0x01, 0x02, 0x12, 0x31, 0x70, 0x80]
  match e with
  | .e0 => true
  | .e1 => e1.contains code
  | .e2 => (e1 ++ [0x03, 0x04, 0xA0, 0x90]).contains code
  | .resuming => (e1 ++ [0x03]).contains code
  | .booting => e1.contains code

end Sys2Proof.Machine
end

