-- ==== Sys2Proof/Certificates/Slice0/Obligations.lean ====
section
/-!
DEFINITION. The statements for the provers, family by family of the command table.
-/

open Sys2Proof Sys2Proof.Machine

/-! ## The step -/

/-- A step with commands waiting runs the first of them on the engine with the rest of the queue.
The model's own readings it rests on: notes/assumptions 1. -/
def Obligations.StepRunsFront : Prop :=
  ∀ (c : Instr) (r : List Instr) (s : State), s.pending = c :: r → step s = exec c { s with pending := r }

/-- On an empty queue one CCLK passes (DESIGN CHOICE, notes/assumptions/1.md): ET goes on by one tick every 8 CCLK of
TCLK, by 5 every 40 ns while the always-on domain counts, and stands while no clock runs. Beside time, a CCLK in which no
run ends of a tripped watchdog changes cores, clusters and partitions alone. -/
def Obligations.EmptyQueueTicks : Prop :=
  ∀ s : State, s.pending = [] → ∃ t, step s = .next t ∧ t.now = s.now + 1 ∧
    ((∀ p run, p < 16 → (s.part p).run = some run → run.deadlock = false) →
      t = { s with now := s.now + 1, et := t.et, sub := t.sub, cores := t.cores, clusters := t.clusters, parts := t.parts }) ∧
    (s.etClock = .held → t.et = s.et ∧ t.sub = s.sub) ∧
    (s.etClock = .tclk → s.sub < 7 → t.et = s.et ∧ t.sub = s.sub + 1) ∧
    (s.etClock = .tclk → 7 ≤ s.sub → t.et = s.et + 1 ∧ t.sub = 0) ∧
    (s.etClock = .alwaysOn → s.sub < 39 → t.et = s.et ∧ t.sub = s.sub + 1) ∧
    (s.etClock = .alwaysOn → 39 ≤ s.sub → t.et = s.et + 5 ∧ t.sub = 0)

/-! ## MMIO -/

/-- An aligned MMIO access of 32 or 64 bits to a closed window changes the violation count of the function's partition number
alone, by one and kind 1, and a read answers zero (R210, R211); writes and reads by their own commands do the same; an
unaligned access counts nothing (R11). -/
def Obligations.ClosedWindowIsViolation : Prop :=
  ∀ (die : Die) (fn : Fn) (bar : Bar) (off : BitVec 24) (wide : Bool) (v : BitVec 64) (w : Option (BitVec 64)) (s : State),
    s.hostUp die.val = true → s.isOpen die.val fn.val = false →
    (aligned off.toNat wide = true →
      (∃ t, exec (.mmioViolation die fn bar ⟨off, wide⟩ w) s = .next t ∧
        t = { s with violCounts := t.violCounts, mmioData := if w.isNone then some 0 else s.mmioData } ∧
        sget 0#64 t.violCounts fn.val = countViol 1 1 (sget 0#64 s.violCounts fn.val) ∧
        ∀ k, k ≠ fn.val → sget 0#64 t.violCounts k = sget 0#64 s.violCounts k) ∧
      exec (.registerWrite die fn bar off wide v) s = exec (.mmioViolation die fn bar ⟨off, wide⟩ (some v)) s ∧
      exec (.splitReadLower die fn bar ⟨off, wide⟩) s = exec (.mmioViolation die fn bar ⟨off, wide⟩ none) s) ∧
    (aligned off.toNat wide = false → exec (.mmioViolation die fn bar ⟨off, wide⟩ w) s = .next s)

/-- The halves of a 64-bit register: a written lower half is held aside and the register stays; the upper half then
brings both at once; a read of the lower half holds the upper half, which the read of the upper half answers. A read of
64 bits answers the whole register (R10, R12).
The model's own readings it rests on: notes/assumptions 97. -/
def Obligations.SplitHalves : Prop :=
  ∀ (die : Die) (fn : Fn) (ring : Fin 7) (lo hi : BitVec 32) (s : State),
    s.reach die.val fn.val = true → ((s.window die.val fn.val).ring ring.val).enable = false →
    let base : BitVec 24 := BitVec.ofNat 24 (0x3000 + 64 * ring.val)
    ∃ t u, exec (.splitWriteLower die fn .bar0 base lo) s = .next t ∧
      exec (.splitWriteUpper die fn .bar0 (base + 4#24) hi) t = .next u ∧
      WindowsOnly s t ∧ OneWindow s t die.val fn.val ∧
      t.window die.val fn.val = { s.window die.val fn.val with
        readHeld := (t.window die.val fn.val).readHeld, writeHeld := (t.window die.val fn.val).writeHeld } ∧
      WindowsOnly s u ∧ OneWindow s u die.val fn.val ∧
      ((u.window die.val fn.val).ring ring.val).sqBase = (hi ++ lo) &&& baseMask ∧
      (∃ x, exec (.splitReadLower die fn .bar0 ⟨base, true⟩) s = .next x ∧ x = { s with windows := x.windows, mmioData := x.mmioData } ∧
        OneWindow s x die.val fn.val ∧ x.mmioData = some ((s.window die.val fn.val).ring ring.val).sqBase) ∧
      ∃ r q, exec (.splitReadLower die fn .bar0 ⟨base, false⟩) s = .next r ∧
        exec (.splitReadLower die fn .bar0 ⟨base + 4#24, false⟩) r = .next q ∧
        r = { s with windows := r.windows, mmioData := r.mmioData } ∧ OneWindow s r die.val fn.val ∧
        r.mmioData = some ((((s.window die.val fn.val).ring ring.val).sqBase.setWidth 32).setWidth 64) ∧
        q = { s with windows := q.windows, mmioData := q.mmioData } ∧ OneWindow s q die.val fn.val ∧
        q.mmioData = some (((s.window die.val fn.val).ring ring.val).sqBase >>> 32)

/-- A write to a host-visible register: HD_MB_VERSION takes major and minor, and a byte of an inbound slot takes what is
written; an access of another width or alignment changes nothing, and reads zero. -/
def Obligations.RegisterWrites : Prop :=
  ∀ (die : Die) (fn : Fn) (bar : Bar) (off : BitVec 24) (wide : Bool) (bits : Nat) (v : BitVec 64) (s : State), s.reach die.val fn.val = true →
    (∃ t, exec (.registerWrite die fn .bar0 0x30#24 false v) s = .next t ∧ WindowsOnly s t ∧
      OneWindow s t die.val fn.val ∧
      t.window die.val fn.val = { s.window die.val fn.val with majorXor := v.extractLsb' 8 8 ^^^ 1#8, minor := v.extractLsb' 0 8 }) ∧
    (0x1000 ≤ off.toNat → off.toNat < 0x2000 → off.toNat % 4 = 0 →
      ∃ t, exec (.registerWrite die fn .bar0 off false v) s = .next t ∧ WindowsOnly s t ∧
        OneWindow s t die.val fn.val ∧
        t.window die.val fn.val = { s.window die.val fn.val with inSlots := (t.window die.val fn.val).inSlots } ∧
        ∀ a, mread (t.window die.val fn.val).inSlots a =
          if off.toNat - 0x1000 ≤ a ∧ a < off.toNat - 0x1000 + 4 then v.extractLsb' (8 * (a - (off.toNat - 0x1000))) 8
          else mread (s.window die.val fn.val).inSlots a) ∧
    (¬ ((bits = 32 ∧ off.toNat % 4 = 0) ∨ (bits = 64 ∧ off.toNat % 8 = 0)) →
      exec (.unhonouredMmioAccess die fn bar off bits none) s = .next { s with mmioData := some 0 } ∧
      exec (.unhonouredMmioAccess die fn bar off bits (some v)) s = .next s) ∧
    (aligned off.toNat wide = false → exec (.registerWrite die fn bar off wide v) s = .next s)

/-- HD_MB_DOORBELL: the rung slots become busy in ascending order, each under a lease of the engine, and a bit of a busy
slot sets db_err; while fw_ready is 0 it does nothing. HD_MB_OUT_ACK moves ack and ends the outstanding signal of vector
0, which is signalled again at once where tail differs from ack; it is ignored and sets db_err where tail − ack would
exceed 32. The engine writes an outbound message while the ring has room, a whole slot and the tail up by one, and
signals vector 0; while the ring is full it waits (R220, R223, R225, R226, R234).
The model's own readings it rests on: notes/assumptions 37, 41. -/
def Obligations.Mailboxes : Prop :=
  (∀ (die : Die) (fn : Fn) (v : BitVec 32) (s : State), s.reach die.val fn.val = true →
     let w := s.window die.val fn.val
     let new := (List.range 32).filter (v &&& ~~~w.busy).getLsbD
     (w.fwReady = true → ∃ t, exec (.hdMbDoorbell die fn v) s = .next t ∧ t = { s with windows := t.windows, leases := t.leases } ∧
       OneWindow s t die.val fn.val ∧
       t.window die.val fn.val = { w with busy := w.busy ||| v, dbErr := w.dbErr || (v &&& w.busy) != 0#32, rung := w.rung ++ new } ∧
       (∀ i, i ∈ new → t.lease 4 (512 * die.val + 32 * fn.val + i) = ownerTag fn.val (0xF00 + 4 * die.val)) ∧
       ∀ k, (∀ i ∈ new, k ≠ leaseKey 4 (512 * die.val + 32 * fn.val + i)) → sget 0#16 t.leases k = sget 0#16 s.leases k) ∧
     (w.fwReady = false → exec (.hdMbDoorbell die fn v) s = .next s)) ∧
  (∀ (die : Die) (fn : Fn) (v : BitVec 32) (s : State), s.reach die.val fn.val = true →
     let w := s.window die.val fn.val
     ∃ t, exec (.hdMbOutAck die fn v) s = .next t ∧ WindowsOnly s t ∧ OneWindow s t die.val fn.val ∧
       (32 < (w.outTail - v.setWidth 16).toNat → t.window die.val fn.val = { w with dbErr := true }) ∧
       ((w.outTail - v.setWidth 16).toNat ≤ 32 →
         t.window die.val fn.val = { w with outAck := v.setWidth 16, vectors := (t.window die.val fn.val).vectors } ∧
         (w.outTail = v.setWidth 16 → (sget {} (t.window die.val fn.val).vectors 0).outstanding = false) ∧
         (w.outTail ≠ v.setWidth 16 → (sget {} (t.window die.val fn.val).vectors 0).outstanding = true))) ∧
  (∀ (die : Die) (fn : Fn) (m : Msg) (rest : List Msg) (s : State), s.reach die.val fn.val = true →
     (s.window die.val fn.val).outQ = m :: rest →
     let w := s.window die.val fn.val
     (w.fwReady = true → (w.outTail - w.outAck).toNat < 32 →
       ∃ t, exec (.outboundMessageWrite die fn) s = .next t ∧ WindowsOnly s t ∧ OneWindow s t die.val fn.val ∧
         t.window die.val fn.val = { w with outTail := w.outTail + 1, outQ := rest
                                            outSlots := (t.window die.val fn.val).outSlots
                                            vectors := (t.window die.val fn.val).vectors } ∧
         (sget {} (t.window die.val fn.val).vectors 0).outstanding = true ∧
         ∀ i, i < 128 → mread (t.window die.val fn.val).outSlots (w.outTail.toNat % 32 * 128 + i) = m.slot.getD i 0#8) ∧
     (32 ≤ (w.outTail - w.outAck).toNat → exec (.outboundMessageWrite die fn) s = .next s))

/-- Writing 1 to bit n of HD_VIOL_CLEAR clears the count and last kind of partition n; HD_CLASS_AMBIG_CLEAR clears the
ambiguity counts of its own host die. -/
def Obligations.CountersClear : Prop :=
  ∀ (die : Die) (v : BitVec 32) (s : State), s.hostUp die.val = true →
    (∃ t, exec (.hdViolClear die v) s = .next t ∧ t = { s with violCounts := t.violCounts } ∧
      ∀ n, sget 0#64 t.violCounts n = if n < 16 ∧ v.getLsbD n then 0#64 else sget 0#64 s.violCounts n) ∧
    (∃ t, exec (.hdClassAmbigClear die v) s = .next t ∧ t = { s with ambig := t.ambig } ∧
      (∀ n, n < 16 → sget 0#32 t.ambig (16 * die.val + n) = if v.getLsbD n then 0#32 else sget 0#32 s.ambig (16 * die.val + n)) ∧
      ∀ k, (k < 16 * die.val ∨ 16 * die.val + 16 ≤ k) → sget 0#32 t.ambig k = sget 0#32 s.ambig k)

/-- The enable of a ring pair and of the descriptor DMA queue: set only with sizes in range, then with all counts zero;
refused with cfg_err; cleared by a write of 0; sizes are taken only while it is clear. A tail or head that runs too far is
ignored and sets ptr_err, another is taken (R253, R254, R256, R287). A tail write is stated here where it ends no park. -/
def Obligations.Rings : Prop :=
  (∀ (die : Die) (fn : Fn) (k : Fin 7) (v : BitVec 32) (s : State), s.reach die.val fn.val = true →
     let w := s.window die.val fn.val
     let r := w.ring k.val
     let sq := v.extractLsb' 4 4
     let cq := v.extractLsb' 8 4
     (∃ t, exec (.ringEnable die fn k v) s = .next t ∧ WindowsOnly s t ∧ OneWindow s t die.val fn.val ∧
       t.window die.val fn.val = { w with rings := (t.window die.val fn.val).rings } ∧
       (∀ j, j ≠ k.val → (t.window die.val fn.val).ring j = w.ring j) ∧
       (r.enable = false → 4 ≤ sq.toNat → sq.toNat ≤ cq.toNat → cq.toNat ≤ 12 → (t.window die.val fn.val).ring k.val =
         { r with enable := true, irqEn := v.getLsbD 0, sqLog2 := sq, cqLog2 := cq, sqTail := 0, sqHead := 0, cqTail := 0, cqHead := 0 }) ∧
       (r.enable = false → (sq.toNat < 4 ∨ cq.toNat < sq.toNat ∨ 12 < cq.toNat) → (t.window die.val fn.val).ring k.val =
         { r with irqEn := v.getLsbD 0, sqLog2 := sq, cqLog2 := cq, cfgErr := true }) ∧
       (r.enable = true → (t.window die.val fn.val).ring k.val = { r with irqEn := v.getLsbD 0 })) ∧
     (∃ t, exec (.ringDisable die fn k v) s = .next t ∧ WindowsOnly s t ∧ OneWindow s t die.val fn.val ∧
       t.window die.val fn.val = { w with rings := (t.window die.val fn.val).rings } ∧
       (∀ j, j ≠ k.val → (t.window die.val fn.val).ring j = w.ring j) ∧
       (r.enable = true → (t.window die.val fn.val).ring k.val = { r with enable := false, irqEn := v.getLsbD 0 }) ∧
       (r.enable = false → (t.window die.val fn.val).ring k.val = { r with irqEn := v.getLsbD 0, sqLog2 := sq, cqLog2 := cq }))) ∧
  (∀ (die : Die) (fn : Fn) (v : BitVec 32) (s : State), s.reach die.val fn.val = true →
     let w := s.window die.val fn.val
     let sz := v.extractLsb' 0 4
     (∃ t, exec (.dmaQueueEnable die fn v) s = .next t ∧ WindowsOnly s t ∧ OneWindow s t die.val fn.val ∧
       (w.dma.enable = false → 4 ≤ sz.toNat → sz.toNat ≤ 10 → t.window die.val fn.val =
         { w with dma := { w.dma with enable := true, sizeLog2 := sz, tail := 0, head := 0, done := 0 } }) ∧
       (w.dma.enable = false → (sz.toNat < 4 ∨ 10 < sz.toNat) → t.window die.val fn.val =
         { w with dma := { w.dma with sizeLog2 := sz, cfgErr := true } }) ∧
       (w.dma.enable = true → t.window die.val fn.val = w)) ∧
     (∃ t, exec (.dmaQueueDisable die fn v) s = .next t ∧ WindowsOnly s t ∧ OneWindow s t die.val fn.val ∧
       (w.dma.enable = true → t.window die.val fn.val = { w with dma := { w.dma with enable := false } }) ∧
       (w.dma.enable = false → t.window die.val fn.val = { w with dma := { w.dma with sizeLog2 := sz } })) ∧
     (∃ t, exec (.hdDmaTail die fn v) s = .next t ∧ WindowsOnly s t ∧ OneWindow s t die.val fn.val ∧
       t.window die.val fn.val = { w with dma :=
         if 2 ^ w.dma.sizeLog2.toNat < (v.setWidth 16 - w.dma.head).toNat then { w.dma with ptrErr := true }
         else { w.dma with tail := v.setWidth 16 } })) ∧
  (∀ (die : Die) (fn : Fn) (k : Fin 7) (v : BitVec 32) (s : State), s.reach die.val fn.val = true →
     let w := s.window die.val fn.val
     let r := w.ring k.val
     let x := v.setWidth 16
     ((r.enable = false ∨ ((s.part fn.val).park ≠ .parked ∧ (s.part fn.val).park ≠ .parking)) →
       ∃ t, exec (.hdSqTail die fn k v) s = .next t ∧ WindowsOnly s t ∧ OneWindow s t die.val fn.val ∧
         t.window die.val fn.val = { w with rings := (t.window die.val fn.val).rings } ∧
         (∀ j, j ≠ k.val → (t.window die.val fn.val).ring j = w.ring j) ∧
         (t.window die.val fn.val).ring k.val =
           if 2 ^ r.sqLog2.toNat < (x - r.sqHead).toNat then { r with ptrErr := true } else { r with sqTail := x }) ∧
     (∃ t, exec (.hdCqHead die fn k v) s = .next t ∧ WindowsOnly s t ∧ OneWindow s t die.val fn.val ∧
       t.window die.val fn.val = { w with rings := (t.window die.val fn.val).rings, vectors := (t.window die.val fn.val).vectors } ∧
       (∀ j, j ≠ k.val → (t.window die.val fn.val).ring j = w.ring j) ∧
       (t.window die.val fn.val).ring k.val =
         if (r.cqTail - r.cqHead).toNat < (r.cqTail - x).toNat then { r with ptrErr := true } else { r with cqHead := x }))

/-- A function-level reset puts the window of its function, and PERST_N every window of its host die, at its reset values but
for the firmware's GMP major; PERST_N also leaves its level. The busy slots' leases end, and the long commands and
requests of a reset window go on, marked so that their messages and records are discarded. Of a partition only the
request queue, its counts and a changeover or park that ends with the queue may differ; no core, scratchpad, fuse or link
does, and without a DMA transfer of these windows no memory and no count. The window is ready again once the firmware
serves it (R221, R256, R290, R402).
The model's own readings it rests on: notes/assumptions 42, 120. -/
def Obligations.FunctionReset : Prop :=
  ∀ (die : Die) (fn : Fn) (low : Bool) (s : State), s.canonical = true →
    let blank : Window := { majorXor := s.firmware.gmpMajor ^^^ 1#8 }
    let level : BitVec 4 := if low then s.perst ||| BitVec.ofNat 4 (2 ^ die.val) else s.perst &&& ~~~BitVec.ofNat 4 (2 ^ die.val)
    let frame (t : State) : Prop :=
      t = { s with windows := t.windows, leases := t.leases, longs := t.longs, parts := t.parts, clusters := t.clusters
                   hbm := t.hbm, hostMem := t.hostMem, violCounts := t.violCounts, freeCount := t.freeCount, perst := t.perst } ∧
      ∀ p, t.part p = { s.part p with queue := (t.part p).queue, stats := (t.part p).stats, changeover := (t.part p).changeover
                                      park := (t.part p).park }
    let still (t : State) : Prop := t.hbm = s.hbm ∧ t.hostMem = s.hostMem ∧ t.violCounts = s.violCounts ∧ t.freeCount = s.freeCount
    (s.hostUp die.val = true → ∃ t, exec (.functionLevelReset die fn) s = .next t ∧ frame t ∧ t.perst = s.perst ∧
      OneWindow s t die.val fn.val ∧ t.window die.val fn.val = blank ∧
      (∀ i, i < 32 → (s.window die.val fn.val).busy.getLsbD i = true → t.lease 4 (512 * die.val + 32 * fn.val + i) = 0x0FFF#16) ∧
      t.longs = (s.longs.map fun c => if c.die = die ∧ c.fn = fn then { c with discard := true } else c) ∧
      (∀ p, ∀ x ∈ (t.part p).queue, x.die = die → x.fn = fn → x.discard = true) ∧
      ((s.window die.val fn.val).dma.job = none → still t)) ∧
    (s.hostUp die.val = true → ∃ t, exec (.perstN ⟨die, low⟩) s = .next t ∧ frame t ∧ t.perst = level ∧
      (∀ f, f < 16 → t.window die.val f = blank) ∧
      (∀ k, (k < 16 * die.val ∨ 16 * die.val + 16 ≤ k) → sget {} t.windows k = sget {} s.windows k) ∧
      t.longs = (s.longs.map fun c => if c.die = die then { c with discard := true } else c) ∧
      (∀ p, ∀ x ∈ (t.part p).queue, x.die = die → x.discard = true) ∧
      ((∀ f, f < 16 → (s.window die.val f).dma.job = none) → still t)) ∧
    (s.hostUp die.val = false → exec (.perstN ⟨die, low⟩) s = .next { s with perst := level }) ∧
    (s.supply = .up → s.reach die.val fn.val = true →
      ∃ t, exec (.fwReady die fn) s = .next t ∧ WindowsOnly s t ∧ OneWindow s t die.val fn.val ∧
        t.window die.val fn.val = { s.window die.val fn.val with fwReady := true })

/-! ## GMP commands that read -/

/-- The commands that only read answer one message and have no other effect: ENGINE.INFO, ENGINE.STATE, PART.QUERY, the reads
of MAINT.WINDOW, POWER.POLICY and POWER.IDLE, and LINK.STATE. QUEUE.STATS answers the counts of the partition, and clears
them when its clear bit asks for it. A reserved code, a page, a die out of range and POWER.IDLE of a partition with no
clusters answer BAD_ARG with no other effect (R228, R244, R245, R248, R271, R323, R335, R355, R391).
The model's own readings it rests on: notes/assumptions 40, 51, 92. -/
def Obligations.EngineReads : Prop :=
  (∀ (die : Die) (fn : Fn) (slot : Fin 32) (s : State),
     let c := s.readCmd die.val fn.val slot.val
     (s.offers die.val fn.val slot.val 0x01 0 = true → ∃ t, exec (.engineInfo die fn slot) s = .next t ∧
       Answered s t die.val fn.val slot.val [c.msg true stOk (s.infoBytes s.et die.val fn.val)]) ∧
     (s.offers die.val fn.val slot.val 0x02 0 = true → ∃ t, exec (.engineState die fn slot) s = .next t ∧
       Answered s t die.val fn.val slot.val [c.msg true stOk (s.engineRecord fn.val 0)]) ∧
     (s.offers die.val fn.val slot.val 0x12 2 = true → s.mayName c = true → ∃ t, exec (.partQuery die fn slot) s = .next t ∧
       Answered s t die.val fn.val slot.val
         [if 5 < c.at 1 1 then c.msg true stBadArg [] else c.msg true stOk (s.queryPage c.named (c.at 1 1))]) ∧
     (s.canTake die.val fn.val slot.val = true → c.code ∉ gmpCodes → ∃ t, exec (.commandReservedCode die fn slot) s = .next t ∧
       Answered s t die.val fn.val slot.val [c.msg true stBadArg []])) ∧
  (∀ (die : Die) (fn : Fn) (slot : Fin 32) (s : State),
     let c := s.readCmd die.val fn.val slot.val
     s.offers die.val fn.val slot.val 0x31 2 = true → s.mayName c = true →
       ∃ t, exec (.queueStats die fn slot) s = .next t ∧
         t = { s with windows := t.windows, leases := t.leases, parts := t.parts } ∧
         Took s t die.val fn.val slot.val [c.msg true stOk (s.statsBytes c.named die.val)] ∧ OnePart s t c.named ∧
         t.part c.named = if c.at 1 1 % 2 = 1 then { s.part c.named with stats := {} } else s.part c.named) ∧
  (∀ (die : Die) (fn : Fn) (slot : Fin 32) (s : State),
     let c := s.readCmd die.val fn.val slot.val
     (s.offers die.val fn.val slot.val 0x42 1 = true → fn = 0 → s.estate = .e0 → c.at 0 1 = 0 →
       ∃ t, exec (.maintWindowRead die fn slot) s = .next t ∧ Answered s t die.val fn.val slot.val [c.msg true stOk s.maintBytes]) ∧
     (s.offers die.val fn.val slot.val 0x50 1 = true → fn = 0 → s.estate = .e0 → c.at 0 1 = 0 →
       ∃ t, exec (.powerPolicyRead die fn slot) s = .next t ∧ Answered s t die.val fn.val slot.val [c.msg true stOk s.policyBytes]) ∧
     (s.offers die.val fn.val slot.val 0x51 2 = true → s.estate = .e0 → s.mayName c = true → c.at 1 1 = 0 →
       ∃ t, exec (.powerIdleQuery die fn slot) s = .next t ∧ Answered s t die.val fn.val slot.val
         [if (s.part c.named).cfg.w = 0 then c.msg true stBadArg [] else c.msg true stOk (s.idleBytes c.named)]) ∧
     (s.offers die.val fn.val slot.val 0x80 2 = true → c.at 1 1 = 0xFF →
       ∃ t, exec (.linkStateSummary die fn slot) s = .next t ∧ Answered s t die.val fn.val slot.val [c.msg true stOk (s.linkSummary fn.val)]) ∧
     (s.offers die.val fn.val slot.val 0x80 2 = true → c.at 1 1 < 0xFE →
       ∃ t, exec (.linkStateDie die fn slot) s = .next t ∧ Answered s t die.val fn.val slot.val
         [if 16 ≤ c.at 1 1 then c.msg true stBadArg []
          else if s.seesDie fn.val (c.at 1 1) then c.msg true stOk (s.linkDieBytes (c.at 1 1)) else c.msg true stDenied []]))

/-- The long commands that only read, COLL.GROUP status, FW.UPDATE status and FAULT.LOG: ACCEPTED, then one final message with
what they read, and no other effect. FAULT.LOG writes as much of its report as the buffer takes into the memory of the
host die that carried it, and nowhere else; a write that the host rejects leaves it as it was (R237, R317, R399, R419).
The model's own readings it rests on: notes/assumptions 9, 10, 51, 77. -/
def Obligations.LongReads : Prop :=
  ∀ (die : Die) (fn : Fn) (slot : Fin 32) (lost : Bool) (s : State),
    let c := s.readCmd die.val fn.val slot.val
    (s.offers die.val fn.val slot.val 0x82 3 = true → s.estate = .e0 → s.ruled = true → s.longRoom fn.val = true → s.mayName c = true →
      c.at 1 1 = 2 → c.at 2 1 < 8 → ∃ t, exec (.collGroupStatus die fn slot) s = .next t ∧
        Answered s t die.val fn.val slot.val [c.msg false stAccepted [],
          c.msg true stOk (toLe 1 ((s.part c.named).groups.foldl (fun a g => a + bit g.2.joined g.1) 0))]) ∧
    (s.offers die.val fn.val slot.val 0x90 1 = true → fn = 0 → (s.estate = .e0 ∨ s.estate = .e2) → s.longRoom fn.val = true →
      c.at 0 1 = 1 → s.fwJob = none →
      ∃ t, exec (.fwUpdateStatus die fn slot) s = .next t ∧
        t = { s with windows := t.windows, leases := t.leases, freeCount := s.freeCount + 1 } ∧
        Took s t die.val fn.val slot.val [c.msg false stAccepted [], c.msg true stOk s.updateBytes]) ∧
    (s.offers die.val fn.val slot.val 0x70 0x1C = true → s.longRoom fn.val = true →
      let body := s.logReport c
      let base := 18446744073709551616 * die.val + c.at 8 8
      let n := if lost then 0 else Nat.min (c.at 16 4) body.length
      ∃ t, exec (.faultLog die fn ⟨slot, lost⟩) s = .next t ∧
        t = { s with windows := t.windows, leases := t.leases, hostMem := t.hostMem } ∧
        Took s t die.val fn.val slot.val [c.msg false stAccepted [], c.msg true stOk (toLe 4 body.length ++ toLe 4 s.newestSeq)] ∧
        (∀ i, i < n → mread t.hostMem (base + i) = body.getD i 0#8) ∧
        ∀ a, (a < base ∨ base + n ≤ a) → mread t.hostMem a = mread s.hostMem a)

/-! ## GMP commands that stay open -/

/-- Commands that check, answer ACCEPTED and stay open until their work is done; until then nothing but the queue of
long commands and the fields named here differs. ENGINE.STANDBY in E2 answers OK and arms its wake ET (R246).
PART.CREATE reserves what its record asks for, once its checks pass, in E0 with no maintenance window (R206).
DUMP starts in E2, with no dump in progress and buffers that hold each die's share; HBM leaves self-refresh (R292, R293).
The model's own readings it rests on: notes/assumptions 40, 69, 88. -/
def Obligations.LongOpens : Prop :=
  (∀ (die : Die) (fn : Fn) (slot : Fin 32) (image : Bytes) (s : State),
     let c := s.readCmd die.val fn.val slot.val
     let q := s.part c.named
     s.ruled = true → s.longRoom fn.val = true → s.estate = .e0 →
     (s.offers die.val fn.val slot.val 0x20 20 = true → s.mayName c = true → ∃ t, exec (.planLoad die fn slot) s = .next t ∧
       Opened s t die.val fn.val slot.val c.named stAccepted []) ∧
     (s.offers die.val fn.val slot.val 0x22 24 = true → s.mayName c = true → q.queue = [] → q.run = none →
       (∃ l, sfind? q.plans (c.at 1 1) = some l ∧ l.verified = true ∧ s.powerFits c.named l.plan = true) →
       ∃ t, exec (.planBind die fn slot) s = .next t ∧ Opened s t die.val fn.val slot.val c.named stAccepted []) ∧
     (s.offers die.val fn.val slot.val 0x23 24 = true → s.mayName c = true → (sfind? q.plans (c.at 1 1)).isSome = true →
       ∃ t, exec (.planVerify die fn slot) s = .next t ∧ Opened s t die.val fn.val slot.val c.named stAccepted []) ∧
     (s.offers die.val fn.val slot.val 0x60 24 = true → s.mayName c = true → q.run = none → q.queue = [] →
       q.cfg.snapSize ≤ c.at 16 8 → (s.part fn.val).cfg.holds (c.at 8 8) q.cfg.snapSize = true →
       ∃ t, exec (.snapTake die fn slot) s = .next t ∧ Opened s t die.val fn.val slot.val c.named stAccepted []) ∧
     (s.offers die.val fn.val slot.val 0x61 24 = true → s.mayName c = true → q.run = none → q.queue = [] →
       ∃ t, exec (.snapRestore die fn slot) s = .next t ∧ Opened s t die.val fn.val slot.val c.named stAccepted []) ∧
     (s.offers die.val fn.val slot.val 0x81 0 = true → fn = 0 → ∃ t, exec (.linkRetime die fn slot) s = .next t ∧
       Opened { s with retimeWanted := true } t die.val fn.val slot.val 0 stAccepted []) ∧
     (s.offers die.val fn.val slot.val 0x04 8 = true → fn = 0 → ∃ t, exec (.engineStandby die fn slot) s = .next t ∧
       Opened { s with draining := true, wakeEt := BitVec.ofNat 64 (c.at 0 8) } t die.val fn.val slot.val 0 stAccepted []) ∧
     (s.offers die.val fn.val slot.val 0x91 2 = true → fn = 0 → c.at 0 1 ≤ 1 → (s.validBoth (if c.at 0 1 = 0 then 0 else 1)).isSome = true →
       s.cal = none → s.fwJob = none → ∃ t, exec (.fwActivate die fn slot) s = .next t ∧
         Opened { s with fwJob := some (.activate (if c.at 0 1 = 0 then 0 else 1) (c.at 1 1 % 2 == 1)) } t die.val fn.val slot.val 0 stAccepted []) ∧
     (s.offers die.val fn.val slot.val 0x90 20 = true → fn = 0 → c.at 0 1 = 0 → c.at 8 8 % 64 = 0 → s.fwJob = none → 512 ≤ c.at 0x10 4 →
       let b := padTo (c.at 0x10 4) image
       s.fuses.accepts (s.fuses.image b) = true → c.at 0x10 4 = field b 0x14 4 + 512 →
       ∃ t, exec (.fwUpdateWrite die fn slot image) s = .next t ∧
         Opened { s with freeCount := s.freeCount + 1, fwJob := some (.write (otherSlot s.activeSlot) (s.fuses.image b)) } t
           die.val fn.val slot.val 0 stAccepted [])) ∧
  (∀ (die : Die) (fn : Fn) (slot : Fin 32) (s : State),
     let c := s.readCmd die.val fn.val slot.val
     let gs := s.dumpGranules c
     let held : State := if c.at 0 8 = 0 then s else { s with wakeEt := BitVec.ofNat 64 (c.at 0 8) }
     fn = 0 → s.longRoom fn.val = true → s.ruled = true → s.estate = .e2 →
     (s.offers die.val fn.val slot.val 0x04 8 = true → ∃ t, exec (.engineStandby die fn slot) s = .next t ∧
       Answered held t die.val fn.val slot.val [c.msg true stOk []]) ∧
     (s.offers die.val fn.val slot.val 0xA0 c.dumpNeed = true → s.dump = none → c.dumpDies ≠ [] →
       (∀ h ∈ c.dumpDies, c.at (8 + 8 * h) 8 % 64 = 0) → (c.at 0 1 = 0xFF ∨ s.exists (c.at 0 1) = true) →
       (∀ x ∈ c.dumpDies.zipIdx, dumpShare gs.length x.2 c.dumpDies.length * granuleSize ≤ c.at (0x28 + 8 * x.1) 8) →
       ∃ t j, exec (.dump die fn slot) s = .next t ∧
         Opened { s with dump := some j, rails := { s.rails with hbmSelfRefresh := false } } t die.val fn.val slot.val 0 stAccepted [] ∧
         j.granules = gs ∧ j.die = die ∧ j.fn = fn ∧ j.seq = c.seq ∧ j.dies.map (·.val) = c.dumpDies ∧
         j.addrs = c.dumpDies.map fun h => c.at (8 + 8 * h) 8)) ∧
  (∀ (die : Die) (fn : Fn) (slot : Fin 32) (s : State),
     let c := s.readCmd die.val fn.val slot.val
     let r := parseRecord c.payload
     s.offers die.val fn.val slot.val 0x10 120 = true → fn = 0 → s.ruled = true → s.longRoom fn.val = true → s.estate = .e0 → s.maint = .closed →
     recordOk c.payload c.named r = true → s.creatable c.named = true → s.roomFor c.named r = true →
     ∃ t, exec (.partCreate die fn slot) s = .next t ∧
       t = { s with windows := t.windows, leases := t.leases, longs := s.longs ++ [c.long c.named], parts := t.parts } ∧
       Took s t die.val fn.val slot.val [c.msg false stAccepted []] ∧ OnePart s t c.named ∧
       t.part c.named = { s.part c.named with cfg := r, life := if c.named = 0 then .live else .building })

/-- TEST.RUN on an idle partition starts at once and answers ACCEPTED, on another it waits and answers DEFERRED with the
latest promised END (R389). A deferred self-test starts when its partition is idle, or answers BUSY once test_defer_max has
passed. Its end tells the cores tested, the cores failed and the first of them, declares these failed, leaves every
scratchpad of the partition at zero and a record 0x0604; no other scratchpad and no other cluster's core differs (R390).
CAL.RUN in a maintenance window quiesces nothing; its calibrations start at once, under a forced quiesce once no run is in
progress, and its end in a window answers which kinds succeeded and failed, with a record 0x0605. Link retraining takes every
port down, so that no group stays joined; re-trim takes every cluster towards C3 first (R393, R394).
The model's own readings it rests on: notes/assumptions 9, 10, 75, 91. -/
def Obligations.SelfTestAndCal : Prop :=
  (∀ (die : Die) (fn : Fn) (slot : Fin 32) (s : State),
     let c := s.readCmd die.val fn.val slot.val
     let q := s.part c.named
     s.ruled = true → s.longRoom fn.val = true → s.estate = .e0 →
     (s.offers die.val fn.val slot.val 0x40 2 = true → s.mayName c = true → c.at 1 1 ≤ 1 → q.test = none →
       s.longOf? 0x40#8 c.named = none →
       ∃ t, exec (.testRun die fn slot) s = .next t ∧
         t = { s with windows := t.windows, leases := t.leases, longs := s.longs ++ [c.long c.named], parts := t.parts } ∧
         OnePart s t c.named ∧
         (q.idle = true → Took s t die.val fn.val slot.val [c.msg false stAccepted []] ∧
           t.part c.named = { q with test := some (.running s.now (c.at 1 1)) }) ∧
         (q.idle = false → Took s t die.val fn.val slot.val
             [c.msg false stDeferred (toLe 8 (q.queue.foldl (fun m r => Nat.max m r.promisedEnd) 0))] ∧
           t.part c.named = { q with test := some (.deferred s.now (c.at 1 1)) })) ∧
     (s.offers die.val fn.val slot.val 0x41 2 = true → s.cal = none → (∃ u, s.maint = .opened u) → 0 < c.at 0 1 → c.at 0 1 < 16 →
       c.at 1 1 < 2 → (fn = 0 ∨ (c.at 0 1 < 8 ∧ c.at 1 1 = 0)) →
       ∃ t, exec (.calRun die fn slot) s = .next t ∧
         Opened { s with cal := some { kinds := BitVec.ofNat 4 (c.at 0 1), forced := false, time := s.now } } t
           die.val fn.val slot.val 0 stAccepted [])) ∧
  (∀ (part : Part) (since lv : Nat) (failed : List (Cl × LCore)) (l : LongCmd) (s : State),
     let p := part.val
     let q := s.part p
     let bad := (failed.map fun x => (x.1.val, x.2.val)).filter fun x => (s.partClusters p).contains x.1
     (q.test = some (.deferred since lv) → q.idle = true → ∃ t, exec (.testRunStart part) s = .next t ∧ PartsOnly s t ∧
       OnePart s t p ∧ t.part p = { q with test := some (.running s.now lv) }) ∧
     (q.test = some (.deferred since lv) → s.longOf? 0x40#8 p = some l → since + msCclk s.testDeferMax ≤ s.now →
       ∃ t, exec (.testDeferTimeout part) s = .next t ∧ t = { s with parts := t.parts, windows := t.windows, longs := t.longs } ∧
         Finished s t l stBusy [] ∧ OnePart s t p ∧ t.part p = { q with test := none }) ∧
     (q.test = some (.running since lv) → s.longOf? 0x40#8 p = some l → ∃ t, exec (.testRunDone part failed) s = .next t ∧
       t = { s with windows := t.windows, longs := t.longs, parts := t.parts, cores := t.cores, spad := t.spad, declared := t.declared
                    freeCount := t.freeCount, faults := t.faults, faultSeq := t.faultSeq, faultsLost := t.faultsLost } ∧
       (bad = [] → Finished s t l stOk (s.coreCount (s.testedCores p) ++ toLe 2 0 ++ toLe 4 0xFFFFFFFF)) ∧
       (∀ c lc r, bad = (c, lc) :: r → Finished s t l stOk
         (s.coreCount (s.testedCores p) ++ s.coreCount bad.length ++ (toLe 2 c ++ toLe 2 (s.lcore c lc % 272)))) ∧
       t.declared = (s.declared ++ bad.map fun x => s.lcore x.1 x.2).eraseDups ∧ (∃ r ∈ t.faults, r.code = 0x0604#16) ∧
       OnePart s t p ∧ t.part p = { q with test := none } ∧
       (∀ n, n / 272 ∉ s.partClusters p → t.coreAt n = s.coreAt n) ∧
       (∀ c ∈ s.partClusters p, ∀ i a, i < 272 → a < 262144 → mread t.spad (262144 * (272 * c + i) + a) = 0#8) ∧
       (∀ c, c ∉ s.partClusters p → ∀ i a, i < 272 → a < 262144 →
         mread t.spad (262144 * (272 * c + i) + a) = mread s.spad (262144 * (272 * c + i) + a)))) ∧
  (∀ (k : Cal) (l : LongCmd) (failed : BitVec 4) (s : State), s.cal = some k →
     (k.running = false → k.written = false → (k.forced = false ∨ ∀ p, p < 16 → (s.part p).run = none) →
       ∃ t b, exec .calRunStart s = .next t ∧ t.cal = some { k with running := true, written := b } ∧
         t = { s with cal := t.cal, retimeWanted := t.retimeWanted, parts := t.parts, links := t.links, clusters := t.clusters, zones := t.zones } ∧
         (k.kinds.getLsbD 1 = false → t.retimeWanted = s.retimeWanted ∧ t.parts = s.parts ∧ t.links = s.links) ∧
         (k.kinds.getLsbD 1 = true → t.retimeWanted = true ∧ (∀ d n, (t.port d n).up = false) ∧
           ∀ p, ∀ g ∈ (t.part p).groups, ∀ e ∈ g.2.ports, e.joined = false) ∧
         (k.kinds.getLsbD 3 = false → t.clusters = s.clusters ∧ t.zones = s.zones ∧ b = false) ∧
         (k.kinds.getLsbD 3 = true → (∀ c, c < 1200 → t.cluster c = (s.cluster c).enter .c3) ∧ (b = false → t.zones = s.zones) ∧
           (b = true → ∀ c, c < 1200 → (t.cluster c).at .c3 = true))) ∧
     (k.running = false → k.forced = true → (∃ p, p < 16 ∧ (s.part p).run ≠ none) → exec .calRunStart s = .next s) ∧
     (k.running = true → (k.kinds.getLsbD 3 = true → k.written = true) → s.longCode? 0x41#8 = some l → k.forced = false → s.maint ≠ .closing →
       let good := k.kinds &&& ~~~failed
       ∃ t, exec (.calRunDone failed) s = .next t ∧
         t = { s with cal := none, windows := t.windows, longs := t.longs, faults := t.faults, faultSeq := t.faultSeq
                      faultsLost := t.faultsLost, rails := t.rails, clusters := t.clusters, zones := t.zones, freeCount := t.freeCount } ∧
         Finished s t l stOk (leBytes 1 (good.setWidth 8) ++ leBytes 1 ((k.kinds &&& failed).setWidth 8)) ∧
         (∃ r ∈ t.faults, r.code = 0x0605#16) ∧
         t.rails = (if good.getLsbD 0 then { s.rails with hbmTrained := true } else s.rails) ∧
         (k.kinds.getLsbD 3 = false → t.zones = s.zones ∧ t.freeCount = s.freeCount ∧
           (good.getLsbD 2 = false → t.clusters = s.clusters) ∧
           (good.getLsbD 2 = true → ∀ c, c < 1200 → t.cluster c = { s.cluster c with calibrated := true }))))

/-! ## GMP commands that set -/

/-- QUEUE.CONFIG: a queue setting that fits takes effect, with a changeover while requests are queued; a rule write puts
its rules, owned by the partition, at the partition's own indices of that host die, and no other rule differs (R270).
The model's own readings it rests on: notes/assumptions 45. -/
def Obligations.QueueConfig : Prop :=
  ∀ (die : Die) (fn : Fn) (slot : Fin 32) (s : State),
    let c := s.readCmd die.val fn.val slot.val
    let q := s.part c.named
    let k : QueueCfg := { d := c.at 2 2, sIn := c.at 4 2, sOut := c.at 6 2, off := c.at 8 8 }
    let len := k.d * 4096 * (k.sIn + k.sOut)
    s.ruled = true → s.estate = .e0 → s.mayName c = true →
    (s.offers die.val fn.val slot.val 0x30 16 = true → c.at 1 1 = 0 → 1 ≤ k.d → k.d ≤ 64 → k.off % 4096 = 0 → q.cfg.holds k.off len = true →
      (∀ x ∈ q.plans, len = 0 ∨ meets (k.off, len) (x.2.off, x.2.len) = false) → s.lanesFit c.named k = true →
      ∃ t, exec (.queueConfigQueueSetting die fn slot) s = .next t ∧
        t = { s with windows := t.windows, leases := t.leases, parts := t.parts } ∧
        Took s t die.val fn.val slot.val [c.msg true stOk []] ∧ OnePart s t c.named ∧
        t.part c.named = { q with qcfg := some k, changeover := !q.queue.isEmpty }) ∧
    (s.offers die.val fn.val slot.val 0x30 (8 + 8 * c.at 3 1) = true → c.at 1 1 = 1 → 1 ≤ c.at 3 1 → c.at 3 1 ≤ 13 →
      let idx := sget [] q.ruleIdx die.val
      c.at 2 1 + c.at 3 1 ≤ idx.length → c.rules.all ruleOk = true →
      ∃ t, exec (.queueConfigRuleWrite die fn slot) s = .next t ∧
        t = { s with windows := t.windows, leases := t.leases, rules := t.rules } ∧
        Took s t die.val fn.val slot.val [c.msg true stOk []] ∧
        (∀ j, j < c.at 3 1 → (∀ m, j < m → m < c.at 3 1 → idx.getD (c.at 2 1 + m) 0 ≠ idx.getD (c.at 2 1 + j) 0) → sget 0#64 t.rules (256 * die.val + idx.getD (c.at 2 1 + j) 0) = ownRule (c.rules.getD j 0#64) c.named) ∧
        ∀ n, (∀ i ∈ (idx.drop (c.at 2 1)).take (c.at 3 1), n ≠ 256 * die.val + i) → sget 0#64 t.rules n = sget 0#64 s.rules n)

/-- MAINT.WINDOW: opening asks for the drain of every queue, or restarts the duration of an open window; closing with no
calibration in progress, or before the window is open, tells every open window of every host die, and else waits for the
calibration; the deferral is set (R391, R392). A maintenance window opens once every entry queue is empty, for the time
asked, and closes when that time ends, after any calibration in progress; every open window is told.
The model's own readings it rests on: notes/assumptions 4. -/
def Obligations.MaintWindow : Prop :=
  (∀ (die : Die) (fn : Fn) (slot : Fin 32) (s : State),
     let c := s.readCmd die.val fn.val slot.val
     let shut : State := { s with maint := .closed }
     s.ruled = true → s.estate = .e0 → fn = 0 →
     (s.offers die.val fn.val slot.val 0x42 8 = true → c.at 0 1 = 1 → 1000 ≤ c.at 4 4 → c.at 4 4 ≤ 3600000 →
       let m : Maint := match s.maint with
         | .closed => .opening (c.at 4 4)
         | .opening _ => .opening (c.at 4 4)
         | _ => .opened (s.now + msCclk (c.at 4 4))
       ∃ t, exec (.maintWindowOpen die fn slot) s = .next t ∧
         Answered { s with maint := m } t die.val fn.val slot.val [c.msg true stOk ({ s with maint := m } : State).maintBytes]) ∧
     (s.offers die.val fn.val slot.val 0x42 1 = true → c.at 0 1 = 2 →
       ∃ t, exec (.maintWindowClose die fn slot) s = .next t ∧
         (s.maint = .closed → Answered s t die.val fn.val slot.val [c.msg true stOk s.maintBytes]) ∧
         (s.maint ≠ .closed → (s.cal = none ∨ ∃ ms, s.maint = .opening ms) →
           t = { s with windows := t.windows, leases := t.leases, maint := .closed } ∧ Tells s t evMaint ∧
           c.msg true stOk shut.maintBytes ∈ (t.window die.val fn.val).outQ ∧
           t.lease 4 (512 * die.val + 32 * fn.val + slot.val) = 0x0FFF#16) ∧
         (s.cal ≠ none → (s.maint = .closing ∨ ∃ u, s.maint = .opened u) →
           Answered { s with maint := .closing } t die.val fn.val slot.val
             [c.msg true stOk ({ s with maint := .closing } : State).maintBytes])) ∧
     (s.offers die.val fn.val slot.val 0x42 12 = true → c.at 0 1 = 3 → c.at 8 4 ≤ 600000 →
       ∃ t, exec (.maintWindowSetDeferral die fn slot) s = .next t ∧
         Answered { s with testDeferMax := c.at 8 4 } t die.val fn.val slot.val
           [c.msg true stOk ({ s with testDeferMax := c.at 8 4 } : State).maintBytes])) ∧
  (∀ (ms u : Nat) (s : State),
     (s.maint = .opening ms → (∀ p, p < 16 → (s.part p).queue = []) → ∃ t, exec .maintWindowOpened s = .next t ∧
       t = { s with maint := .opened (s.now + 1000000 * ms), windows := t.windows } ∧ Queued s t ∧ Tells s t evMaint) ∧
     (s.maint = .opening ms → (∃ p, p < 16 ∧ (s.part p).queue ≠ []) → exec .maintWindowOpened s = .next s) ∧
     (s.maint = .opened u → u ≤ s.now → s.cal = none → ∃ t, exec .maintWindowExpiry s = .next t ∧
       t = { s with maint := .closed, windows := t.windows } ∧ Queued s t ∧ Tells s t evMaint) ∧
     (s.maint = .opened u → u ≤ s.now → s.cal ≠ none → exec .maintWindowExpiry s = .next { s with maint := .closing }) ∧
     (s.maint = .opened u → s.now < u → exec .maintWindowExpiry s = .next s))

/-- POWER.POLICY sets every field at once, and lowers the breath allowance to a lower f_max, which every open window is told;
out of range it answers BAD_ARG and sets nothing (R352, R355).
POWER.IDLE: a park stops fetching and, on an idle partition, sends every cluster to the park state or deeper, and is complete
once all are there (R336); an unpark, or a tail write to an enabled ring in E0, starts the way back of every cluster that may
wake; outside E0 a tail write moves no cluster (R337, Table 13.2).
The model's own readings it rests on: notes/assumptions 60, 114. -/
def Obligations.PowerCommands : Prop :=
  (∀ (die : Die) (fn : Fn) (slot : Fin 32) (s : State),
     let c := s.readCmd die.val fn.val slot.val
     let a := Nat.min s.allowance c.policy.fMax
     s.offers die.val fn.val slot.val 0x50 16 = true → s.ruled = true → s.estate = .e0 → fn = 0 → c.at 0 1 = 1 →
     (c.policy.ok = true → ∃ t, exec (.powerPolicySet die fn slot) s = .next t ∧
       t = { s with windows := t.windows, leases := t.leases, policy := c.policy, allowance := a } ∧
       t.lease 4 (512 * die.val + 32 * fn.val + slot.val) = 0x0FFF#16 ∧
       (s.allowance ≤ c.policy.fMax → Took s t die.val fn.val slot.val [c.msg true stOk ({ s with policy := c.policy } : State).policyBytes]) ∧
       (c.policy.fMax < s.allowance → Tells s t evBreath ∧
         c.msg true stOk ({ s with policy := c.policy, allowance := a } : State).policyBytes ∈ (t.window die.val fn.val).outQ)) ∧
     (c.policy.ok = false → ∃ t, exec (.powerPolicySet die fn slot) s = .next t ∧
       Answered s t die.val fn.val slot.val [c.msg true stBadArg []])) ∧
  (∀ (die : Die) (fn : Fn) (slot : Fin 32) (s : State),
     let c := s.readCmd die.val fn.val slot.val
     let q := s.part c.named
     let aim : CState := if c.at 2 1 = 2 then .c2 else .c3
     let frame (t : State) : Prop :=
       t = { s with windows := t.windows, leases := t.leases, parts := t.parts, clusters := t.clusters } ∧ OnePart s t c.named ∧
       (∀ x, x ∉ q.cfg.clusters → t.cluster x = s.cluster x) ∧
       Took s t die.val fn.val slot.val [c.msg true stOk (t.idleBytes c.named)]
     s.ruled = true → s.estate = .e0 → s.mayName c = true → q.cfg.w ≠ 0 →
     (s.offers die.val fn.val slot.val 0x51 3 = true → c.at 1 1 = 1 → (c.at 2 1 = 2 ∨ c.at 2 1 = 3) →
       (q.park = .serving ∨ q.park = .unparking) →
       ∃ t, exec (.powerIdlePark die fn slot) s = .next t ∧ frame t ∧
         t.part c.named = { q with park := (t.part c.named).park, parkTo := aim } ∧
         ((t.part c.named).park = .parking ∨
           ((t.part c.named).park = .parked ∧ ∀ x ∈ q.cfg.clusters, (t.cluster x).parkedAt aim = true)) ∧
         (q.idle = false → t.clusters = s.clusters ∧ (t.part c.named).park = .parking) ∧
         (q.idle = true → ∀ x ∈ q.cfg.clusters, (t.cluster x).goesDown aim)) ∧
     (s.offers die.val fn.val slot.val 0x51 2 = true → c.at 1 1 = 2 → (q.park = .parked ∨ q.park = .parking) →
       ∃ t, exec (.powerIdleUnpark die fn slot) s = .next t ∧ frame t ∧
         t.part c.named = { q with park := (t.part c.named).park } ∧
         ((t.part c.named).park = .unparking ∨ (t.part c.named).park = .serving) ∧
         (q.bound = none → t.clusters = s.clusters) ∧
         (q.bound ≠ none → ∀ x ∈ q.cfg.clusters, (s.cluster x).mayWake = true →
           (t.cluster x).comesUp))) ∧
  (∀ (die : Die) (fn : Fn) (ring : Fin 7) (v : BitVec 32) (s : State),
     let q := s.part fn.val
     s.reach die.val fn.val = true → ((s.window die.val fn.val).ring ring.val).enable = true → (q.park = .parked ∨ q.park = .parking) →
     ∃ t, exec (.hdSqTail die fn ring v) s = .next t ∧
       t = { s with windows := t.windows, parts := t.parts, clusters := t.clusters } ∧ OneWindow s t die.val fn.val ∧
       t.window die.val fn.val = (s.window die.val fn.val).modRing ring.val (·.writeTail (v.setWidth 16)) ∧
       OnePart s t fn.val ∧ t.part fn.val = { q with park := (t.part fn.val).park } ∧
       ((t.part fn.val).park = .unparking ∨ (t.part fn.val).park = .serving) ∧
       ((s.inE0 = false ∨ q.bound = none) → t.clusters = s.clusters) ∧ (∀ x, x ∉ q.cfg.clusters → t.cluster x = s.cluster x) ∧
       (s.inE0 = true → q.bound ≠ none → ∀ x ∈ q.cfg.clusters, (s.cluster x).mayWake = true → (t.cluster x).comesUp))

/-! ## The work of long commands -/

/-- PLAN.LOAD loads the image of the partition's granules under the lowest free handle, unverified, with places of its own in
the image stores, and clears the partition's slip counters and CO_QMAX; or it tells the first check that fails (R174, R85,
R139). PLAN.BIND binds a verified plan of an idle partition, which becomes able to serve: a cluster that may wake comes up
(R181); PLAN.VERIFY marks a plan verified or tells what fails, or BUSY where a repair made it stale (R179, R180). Both write
their report where the command says, and nowhere else (R237). PLAN.UNLOAD frees the handle and its places; of a bound plan,
the run is gone, every request has its completion, the partition is unbound and its clusters go to C3 (R178).
The model's own readings it rests on: notes/assumptions 53, 55, 56, 59. -/
def Obligations.PlanWork : Prop :=
  (∀ (die : Die) (fn : Fn) (seq : BitVec 16) (lost : Bool) (l : LongCmd) (s : State), s.canonical = true →
     s.long? die.val fn.val seq = some l →
     let p := l.part.val
     let q := s.part p
     let off := field l.payload 8 8
     let len := field l.payload 16 4
     let b := if q.cfg.holds off len then s.relRead q.cfg off len else s.relRead q.cfg off 256
     let h := field l.payload 1 1
     (l.code = 0x20#8 → q.loadFails b off len = none →
       ∃ t, exec (.planLoadDone die fn seq) s = .next t ∧
         t = { s with windows := t.windows, longs := t.longs, parts := t.parts, clusters := t.clusters, cores := t.cores } ∧
         Finished s t l stOk (toLe 8 q.freeHandle) ∧ OnePart s t p ∧ Within s t p ∧
         t.part p = { q with plans := sins q.freeHandle { off := off, len := b.length, plan := parsePlan b, image := b } q.plans } ∧
         (∀ c ∈ s.partClusters p, t.cluster c = { s.cluster c with store := (t.cluster c).store, fill := (t.cluster c).fill } ∧
           ∀ x ∈ (t.cluster c).store, x ∈ (s.cluster c).store ∨ (x.2.part = l.part ∧ x.2.handle = q.freeHandle)) ∧
         ∀ n, n / 272 ∈ s.partClusters p →
           t.coreAt n = { s.coreAt n with slipRange := 0, slipQueue := 0, slipHolds := 0, qmax := [] }) ∧
     (l.code = 0x20#8 → ∀ n o, q.loadFails b off len = some (n, o) →
       ∃ t, exec (.planLoadDone die fn seq) s = .next t ∧ t = { s with windows := t.windows, longs := t.longs } ∧
         Finished s t l (if n ≤ 7 then stBadArg else stNoResource) (toLe 4 n ++ toLe 4 o)) ∧
     (l.code = 0x22#8 → ∀ x, sfind? q.plans h = some x → x.verified = true → s.powerFits p x.plan = true → q.queue = [] → q.run = none →
       let body := bindReport (x.plan.bounds q.cfg.q)
       ∃ t, exec (.planBindDone die fn ⟨seq, lost⟩) s = .next t ∧
         t = { s with windows := t.windows, longs := t.longs, parts := t.parts, clusters := t.clusters, cores := t.cores, hostMem := t.hostMem } ∧
         Finished s t l stOk (toLe 4 body.length) ∧ Reported s t l body lost ∧ OnePart s t p ∧ Within s t p ∧
         t.part p = { q with bound := some h, plans := sins h { x with bounds := x.plan.bounds q.cfg.q } q.plans } ∧
         ((q.park = .serving ∨ q.park = .unparking) → ∀ c ∈ s.partClusters p, (s.cluster c).mayWake = true → (t.cluster c).comesUp)) ∧
     (l.code = 0x23#8 → ∀ x, sfind? q.plans h = some x → l.stale = false →
       (∀ m, s.verify p x = .ok m → ∃ t, exec (.planVerifyDone die fn ⟨seq, lost⟩) s = .next t ∧
         t = { s with windows := t.windows, longs := t.longs, parts := t.parts, hostMem := t.hostMem } ∧
         Finished s t l stOk (toLe 4 (x.plan.verifyReport m).length) ∧ Reported s t l (x.plan.verifyReport m) lost ∧ OnePart s t p ∧
         t.part p = { q with plans := sins h { x with verified := true } q.plans }) ∧
       ∀ f, s.verify p x = .error f → ∃ t, exec (.planVerifyDone die fn ⟨seq, lost⟩) s = .next t ∧
         t = { s with windows := t.windows, longs := t.longs } ∧ Finished s t l stBadArg f.bytes) ∧
     (l.code = 0x23#8 → l.stale = true → (sfind? q.plans h).isSome = true →
       ∃ t, exec (.planVerifyDone die fn ⟨seq, lost⟩) s = .next t ∧ t = { s with windows := t.windows, longs := t.longs } ∧
         Finished s t l stBusy [])) ∧
  (∀ (die : Die) (fn : Fn) (slot : Fin 32) (s : State),
     let c := s.readCmd die.val fn.val slot.val
     let p := c.named
     let q := s.part p
     let h := c.at 1 1
     let open' (l : LongCmd) : Prop := (l.code = 0x22#8 ∨ l.code = 0x23#8) ∧ l.part.val = p ∧ field l.payload 1 1 = h
     s.offers die.val fn.val slot.val 0x21 2 = true → s.mayName c = true → s.ruled = true → s.longRoom fn.val = true → s.estate = .e0 →
     ((sfind? q.plans h).isSome = true → q.bound ≠ some h → ∃ t, exec (.planUnload die fn slot) s = .next t ∧
       t = { s with windows := t.windows, leases := t.leases, longs := t.longs, parts := t.parts, clusters := t.clusters } ∧
       OnePart s t p ∧ t.part p = { q with plans := sdel h q.plans } ∧ (∀ l ∈ t.longs, l ∈ s.longs ∧ ¬ open' l) ∧
       (∀ x, t.cluster x = { s.cluster x with store := (t.cluster x).store }) ∧ (∀ x, x ∉ s.partClusters p → t.cluster x = s.cluster x) ∧
       (∀ x ∈ s.partClusters p, (t.cluster x).store =
         (s.cluster x).store.filter fun y => !(y.2.part.val == p && y.2.handle == h)) ∧
       ((∀ l ∈ s.longs, ¬ open' l) → Took s t die.val fn.val slot.val [c.msg false stAccepted [], c.msg true stOk []])) ∧
     ((sfind? q.plans h).isSome = true → q.bound = some h → ∃ t, exec (.planUnload die fn slot) s = .next t ∧
       OnePart s t p ∧ Within s t p ∧ (t.part p).plans = sdel h q.plans ∧ (t.part p).bound = none ∧ (t.part p).run = none ∧
       (∀ r ∈ (t.part p).queue, r.stage = .closing) ∧ (∀ l ∈ t.longs, l ∈ s.longs ∧ ¬ open' l) ∧
       (∀ x ∈ s.partClusters p, (t.cluster x).goesDown .c3 ∧ ∀ y ∈ (t.cluster x).store, ¬ (y.2.part.val = p ∧ y.2.handle = h)) ∧
       c.msg true stOk [] ∈ (t.window die.val fn.val).outQ ∧ t.hbm = s.hbm ∧ t.fuses = s.fuses ∧ t.hostMem = s.hostMem ∧ t.faults = s.faults) ∧
     (sfind? q.plans h = none → ∃ t, exec (.planUnload die fn slot) s = .next t ∧
       Answered s t die.val fn.val slot.val [c.msg true stBadArg []]))

/-- SNAP.TAKE writes the snapshot into the caller's granules alone, once the clusters whose scan has not returned are
bypassed, stated here where none of these holds a lease (R191, R193, R194); SNAP.RESTORE writes cores of the partition alone and clears what credits they had to come, or
answers BAD_ARG; either answers BUSY when requests came meanwhile (R196).
The model's own readings it rests on: notes/assumptions 56, 57, 110, 111, 112. -/
def Obligations.SnapWork : Prop :=
  ∀ (die : Die) (fn : Fn) (seq : BitVec 16) (late : List Cl) (l : LongCmd) (s : State), s.long? die.val fn.val seq = some l →
    let p := l.part.val
    let q := s.part p
    let cfg := (s.part l.sender.val).cfg
    let redacted := s.fuses.debugOff && l.sender.val == 0 && p != 0
    let lost (c : Nat) : Prop := (∃ x ∈ late, x.val = c) ∧ c ∈ s.partClusters p ∧ (s.cluster c).bypassed = false
    (l.code = 0x60#8 → q.run = none → q.queue = [] → (∀ c, lost c → s.leasesOf c = []) → ∃ t u, exec (.snapTakeDone die fn seq late) s = .next t ∧
      t = { s with windows := t.windows, longs := t.longs, hbm := t.hbm, freeCount := t.freeCount, clusters := t.clusters
                   faults := t.faults, faultSeq := t.faultSeq, faultsLost := t.faultsLost } ∧ Finished s t l stOk [] ∧
      t.hbm = relWrite cfg (field l.payload 8 8) (u.snapshot p redacted) s.hbm ∧
      (∀ a, granuleOf a ∉ cfg.granules → mread t.hbm a = mread s.hbm a) ∧
      u = { s with clusters := t.clusters, faults := t.faults, faultSeq := t.faultSeq, faultsLost := t.faultsLost } ∧
      (∀ c, lost c → (t.cluster c).scanBypass = true) ∧ (∀ c, ¬ lost c → t.cluster c = s.cluster c) ∧
      ((∀ c, ¬ lost c) → t.faults = s.faults)) ∧
    (l.code = 0x61#8 → q.run = none → q.queue = [] → s.snapOk p (s.snapBytes l) = true →
      ∃ t, exec (.snapRestoreDone die fn seq) s = .next t ∧
        t = { s with windows := t.windows, longs := t.longs, cores := t.cores
                     credits := s.credits.filter fun x => !(s.partClusters p).contains x.cl.val } ∧
        Finished s t l stOk [] ∧ Within s t p ∧
        ∀ c ∈ s.partClusters p, (s.cluster c).bypassed = true → ∀ n, n / 272 = c → t.coreAt n = s.coreAt n) ∧
    (l.code = 0x61#8 → q.run = none → q.queue = [] → s.snapOk p (s.snapBytes l) = false →
      ∃ t, exec (.snapRestoreDone die fn seq) s = .next t ∧ t = { s with windows := t.windows, longs := t.longs } ∧
        Finished s t l stBadArg []) ∧
    (l.code = 0x60#8 → (q.queue ≠ [] ∨ q.run ≠ none) → ∃ t, exec (.snapTakeDone die fn seq late) s = .next t ∧
      t = { s with windows := t.windows, longs := t.longs } ∧ Finished s t l stBusy []) ∧
    (l.code = 0x61#8 → (q.queue ≠ [] ∨ q.run ≠ none) → ∃ t, exec (.snapRestoreDone die fn seq) s = .next t ∧
      t = { s with windows := t.windows, longs := t.longs } ∧ Finished s t l stBusy [])

/-- A partition is built once no bordering partition runs: it exists, its clusters are assigned to it, fenced towards every
core that is not its own, and in C3 or on their way there, and a tenant's windows open ready; until then nothing changes
(R128, R207). It is cleared the same way: its clusters are assigned to nobody, fenced on every side, its granules are zero,
and no other byte of HBM differs (R216).
The model's own readings it rests on: notes/assumptions 4, 72, 73. -/
def Obligations.PartitionLife : Prop :=
  ∀ (part : Part) (l : LongCmd) (s : State), s.canonical = true →
    let p := part.val
    let q := s.part p
    (s.longOf? 0x10#8 p = some l → s.borderRun q.cfg = false → ∃ t, exec (.partCreateBuild part) s = .next t ∧
      t = { s with windows := t.windows, longs := s.longs.filter (fun x => !x.same l), parts := t.parts, clusters := t.clusters
                   cores := t.cores, rules := t.rules, links := t.links } ∧ OnePart s t p ∧ Within s t p ∧
      t.part p = { q with life := .live, ruleIdx := (t.part p).ruleIdx, ctxIdx := (t.part p).ctxIdx } ∧
      (∀ c ∈ q.cfg.clusters, (t.cluster c).assigned = true ∧ (t.cluster c).partition = part ∧ (t.cluster c).goesDown .c3 ∧
        ∀ i, i < 272 → (t.coreAt (272 * c + i)).fence =
          match (s.cluster c).logical i with | some lc => s.fenceOf q.cfg c lc | none => 0b1111#4) ∧
      (∀ h f, f < 16 → (f ≠ p ∨ p = 0 ∨ q.cfg.onDie p h = false) → (h ≠ l.die.val ∨ f ≠ l.fn.val) → t.window h f = s.window h f) ∧
      (p ≠ 0 → ∀ h, h < 4 → q.cfg.onDie p h = true → (h ≠ l.die.val ∨ p ≠ l.fn.val) →
        t.window h p = { fwReady := true, majorXor := s.firmware.gmpMajor ^^^ 1#8 }) ∧
      (l.discard = false → ∃ m ∈ (t.window l.die.val l.fn.val).outQ, m.seq = l.seq ∧ m.final = true ∧ m.status = 0#8)) ∧
    (s.longOf? 0x10#8 p = some l → s.borderRun q.cfg = true → exec (.partCreateBuild part) s = .next s) ∧
    (∀ x r, q.leaving = x :: r → s.borderRun x.cfg = false → ∃ t, exec (.partDestroyFinish part) s = .next t ∧
      t = { s with windows := t.windows, longs := t.longs, parts := t.parts, clusters := t.clusters, cores := t.cores
                   hbm := t.hbm, leases := t.leases, violCounts := t.violCounts } ∧
      OnePart s t p ∧ t.part p = { q with leaving := r } ∧
      (∀ a, granuleOf a ∈ x.cfg.granules → mread t.hbm a = 0#8) ∧
      (∀ a, granuleOf a ∉ x.cfg.granules → mread t.hbm a = mread s.hbm a) ∧
      (∀ c ∈ x.cfg.clusters, (t.cluster c).assigned = false ∧ (t.cluster c).goesDown .c3) ∧
      (∀ c, c ∉ x.cfg.clusters → t.cluster c = s.cluster c) ∧
      (∀ n, n / 272 ∈ x.cfg.clusters → (t.coreAt n).fence = 0b1111#4) ∧
      (∀ n, n / 272 ∉ x.cfg.clusters → t.coreAt n = s.coreAt n) ∧
      ((∀ c ∈ x.cfg.clusters, (s.cluster c).violUnsent = 0) → t.violCounts = s.violCounts) ∧
      (s.longOf? 0x11#8 p = some l → (s.longs.filter fun y => y.code == 0x11#8 && y.part.val == p).length = r.length + 1 →
        Finished s t l stOk []) ∧
      (s.longOf? 0x11#8 p = none → t.windows = s.windows ∧ t.longs = s.longs)) ∧
    (∀ x r, q.leaving = x :: r → s.borderRun x.cfg = true → exec (.partDestroyFinish part) s = .next s)

/-- PART.DESTROY in E0 with no maintenance window answers ACCEPTED and at once leaves no run, request, plan, group or bound
plan of the partition; but for P0 it no longer exists, and what it has still to give back stands apart (R198, R216).
PART.RESET leaves no run, no self-test and no request without a completion, every core at reset but for its slots, fence and
error counts, and a record 0x0602; with no other long command of the partition open, its plans, its record, every other
partition and its cores and all HBM stay; during a recovery it waits (R396).
The model's own readings it rests on: notes/assumptions 72, 74. -/
def Obligations.PartitionEnds : Prop :=
  ∀ (die : Die) (fn : Fn) (slot : Fin 32) (s : State),
    let c := s.readCmd die.val fn.val slot.val
    let p := c.named
    let q := s.part p
    s.ruled = true → s.longRoom fn.val = true → s.estate = .e0 →
    (s.offers die.val fn.val slot.val 0x11 1 = true → fn = 0 → s.maint = .closed → p < 16 → s.exists p = true →
      ∃ t x, exec (.partDestroy die fn slot) s = .next t ∧
        t.part p = { life := if p = 0 then .live else .none, leaving := q.leaving ++ [x] } ∧
        ((∀ l ∈ s.longs, l.part.val = p → l.code ≠ 0x10#8) → x = { cfg := q.cfg, ruleIdx := q.ruleIdx, ctxIdx := q.ctxIdx }) ∧
        (∃ l ∈ t.longs, l = c.long p) ∧ c.msg false stAccepted [] ∈ (t.window die.val fn.val).outQ ∧
        t.policy = s.policy ∧ (s.fwJob = none → t.fuses = s.fuses)) ∧
    (s.offers die.val fn.val slot.val 0x13 2 = true → s.mayName c = true → c.at 1 1 ≤ 1 → q.recovering = false → s.canonical = true →
      ∃ t, exec (.partReset die fn slot) s = .next t ∧ (t.part p).run = none ∧ (t.part p).test = none ∧
        (∀ r ∈ (t.part p).queue, r.stage = .closing) ∧
        (∃ r ∈ t.faults, r.code = 0x0602#16 ∧ r.part = BitVec.ofNat 8 p ∧ r.detail = BitVec.ofNat 64 (c.at 1 1)) ∧
        (∀ n, n / 272 ∈ s.partClusters p → t.coreAt n = { eccCe := (t.coreAt n).eccCe, eccUe := (t.coreAt n).eccUe
                                                          fence := (t.coreAt n).fence, slots := (t.coreAt n).slots }) ∧
        c.msg false stAccepted [] ∈ (t.window die.val fn.val).outQ ∧
        ((∀ l ∈ s.longs, l.ofPart p = false) → (t.part p).plans = q.plans ∧ (t.part p).bound = q.bound ∧ (t.part p).cfg = q.cfg ∧
          OnePart s t p ∧ Within s t p ∧ t.hbm = s.hbm ∧ t.hostMem = s.hostMem ∧ t.fuses = s.fuses ∧
          (c.at 1 1 = 0 → ∃ m ∈ (t.window die.val fn.val).outQ, m = c.msg true stOk []))) ∧
    (s.offers die.val fn.val slot.val 0x13 2 = true → s.mayName c = true → c.at 1 1 ≤ 1 → q.recovering = true →
      ∃ t, exec (.partReset die fn slot) s = .next t ∧
        t = { s with windows := t.windows, leases := t.leases, longs := s.longs ++ [c.long p], parts := t.parts } ∧
        Took s t die.val fn.val slot.val [c.msg false stAccepted []] ∧ OnePart s t p ∧
        t.part p = { q with resetWait := some false })

/-- FW.UPDATE ends with the slot of both devices written and OK only if both read back, else FAULTED (R419); FW.ACTIVATE makes
the slot active on both devices and runs its image once the engine is drained, blows the rollback fuses up to the image's
index and revokes the other key only when asked to commit, and leaves every other fuse; every open window is told (R420).
DUMP ends with its granules in the buffers of host memory, its counts told and HBM in self-refresh; with no exit latched the
engine stays in E2 (R293, R294).
The model's own readings it rests on: notes/assumptions 71, 88, 108. -/
def Obligations.FirmwareWork : Prop :=
  ∀ (l : LongCmd) (n : Fin 2) (i a b : FwImage) (ok1 ok2 commit : Bool) (double singles : List Nat) (j : DumpJob) (s : State),
    s.supply = .up →
    (s.fwJob = some (.write n i) → s.longCode? 0x90#8 = some l → ∃ t, exec (.fwUpdateWriteDone ok1 ok2) s = .next t ∧
      t = { s with flashA := s.flashA.store n i ok1, flashB := s.flashB.store n i ok2, fwJob := none, windows := t.windows
                   longs := t.longs, opFaulted := t.opFaulted } ∧ Queued s t ∧
      ((ok1 && ok2) = true → Finished s t l stOk (toLe 1 n.val) ∧ t.opFaulted = s.opFaulted) ∧
      ((ok1 && ok2) = false → t.longs = s.longs.filter (fun x => !x.same l) ∧
        t.opFaulted = s.opFaulted ||| BitVec.ofNat 16 (2 ^ l.sender.val) ∧
        (l.discard = false → ∃ m ∈ (t.window l.die.val l.fn.val).outQ, m.seq = l.seq ∧ m.final = true ∧ m.status = 0x20#8))) ∧
    (s.fwJob = some (.activate n commit) → s.longCode? 0x91#8 = some l → s.estate = .e0 → s.drained = true →
      s.validAt s.flashA n = some a → s.validAt s.flashB n = some b →
      let short := commit && !ok1 && s.fuses.blows a
      ∃ t, exec (.fwActivateRestart ok1) s = .next t ∧
        t = { s with flashA := s.flashA.setActive n, flashB := s.flashB.setActive n, fuses := t.fuses, firmware := a.firmware s.firmware.candidate
                     fwJob := none, clusters := t.clusters, windows := t.windows, longs := s.longs.filter (fun x => !x.same l)
                     opFaulted := t.opFaulted, freeCount := t.freeCount } ∧
        t.fuses = { s.fuses with rollback := t.fuses.rollback, keyRevoke := t.fuses.keyRevoke } ∧
        (∀ k, s.fuses.rollback.getLsbD k = true → t.fuses.rollback.getLsbD k = true) ∧
        (∀ k, s.fuses.keyRevoke.getLsbD k = true → t.fuses.keyRevoke.getLsbD k = true) ∧ (commit = false → t.fuses = s.fuses) ∧
        (commit = true → ok1 = true →
          (∀ k, k < 64 → s.fuses.count ≤ k → k < a.rollback → t.fuses.rollback.getLsbD k = true) ∧
          (a.revoke = true → t.fuses.keyRevoke.getLsbD (if a.key = 0 then 1 else 0) = true)) ∧
        Queued s t ∧ Tells s t evFirmware ∧
        (l.discard = false → ∃ m ∈ (t.window l.die.val l.fn.val).outQ, m.seq = l.seq ∧ m.final = true ∧
          m.status = if short then 0x20#8 else 0#8)) ∧
    (s.dump = some j → s.long? j.die.val j.fn.val j.seq = some l → s.aonWake = 0#4 →
      let bad := ((double.map fun x => x / 64 * 64).filter fun x => j.granules.contains (granuleOf x)).eraseDups
      ∃ t, exec (.dumpDone ⟨double, singles⟩) s = .next t ∧
        t = { s with dump := none, rails := { s.rails with hbmSelfRefresh := true }, hostMem := t.hostMem, windows := t.windows
                     longs := t.longs, hbmStacks := t.hbmStacks, faults := t.faults, faultSeq := t.faultSeq, faultsLost := t.faultsLost } ∧
        t.hostMem = (s.dumpWrite j bad).hostMem ∧ (bad ≠ [] → ∃ r ∈ t.faults, r.code = 0x0104#16) ∧
        Finished s t l stOk (toLe 4 j.granules.length ++ toLe 4 bad.length ++ leBytes 8 s.et))

/-- SEIZE frees the named lease and answers the tag it had, with a record 0x0601 and the holder bypassed by scans (R381,
R383); a lease that is free changes nothing but the messages; a lease out of range, or that of the command's own slot, is
BAD_ARG.
The model's own readings it rests on: notes/assumptions 38. -/
def Obligations.Seizes : Prop :=
  ∀ (die : Die) (fn : Fn) (slot : Fin 32) (k i : Nat) (s : State),
    let c := s.readCmd die.val fn.val slot.val
    let tag := s.lease k i
    s.offers die.val fn.val slot.val 0x71 4 = true → fn = 0 → s.ruled = true → s.longRoom fn.val = true → s.estate = .e0 →
    (c.lease = some (k, i) → ¬ (k = 4 ∧ i = 512 * die.val + 32 * fn.val + slot.val) →
      ∃ t, exec (.seize die fn slot) s = .next t ∧ t.lease k i = 0x0FFF#16 ∧
        (tag = 0x0FFF#16 → Answered s t die.val fn.val slot.val
          [c.msg false stAccepted [], c.msg true stOk (leBytes 2 0x0FFF#16 ++ toLe 1 0)]) ∧
        (tag ≠ 0x0FFF#16 → (∃ r ∈ t.faults, r.code = 0x0601#16) ∧
          (tag.toNat % 4096 < 1200 → (t.cluster (tag.toNat % 4096)).scanBypass = true) ∧
          c.msg true stOk (leBytes 2 tag ++ toLe 1 1) ∈ (t.window die.val fn.val).outQ ∧
          t.hbm = s.hbm ∧ t.fuses = s.fuses ∧ t.longs = s.longs)) ∧
    ((c.lease = none ∨ c.lease = some (4, 512 * die.val + 32 * fn.val + slot.val)) →
      ∃ t, exec (.seize die fn slot) s = .next t ∧ Answered s t die.val fn.val slot.val [c.msg true stBadArg []])

/-- COLL.GROUP: a join whose record passes its checks keeps the group, asks for JOIN on each of its ports that is up, and
makes every plan of its plan_id unverified; a leave removes the group at once (R315, R317). LINK.STATE's set is P0's alone:
it takes G, time_pri and the modes, keeps them on both flash devices with a generation one higher than that in force, and
takes the ports of a die whose mode changes down (R323, R411).
The model's own readings it rests on: notes/assumptions 77. -/
def Obligations.LinkCommands : Prop :=
  (∀ (die : Die) (fn : Fn) (slot : Fin 32) (s : State),
     let c := s.readCmd die.val fn.val slot.val
     let p := c.named
     let q := s.part p
     let b := s.relRead q.cfg (c.at 8 8) (c.at 16 4)
     let g := parseGroup b
     let frame (t : State) : Prop :=
       t = { s with windows := t.windows, leases := t.leases, longs := t.longs, parts := t.parts, links := t.links } ∧
       Took s t die.val fn.val slot.val [c.msg false stAccepted [], c.msg true stOk []] ∧
       ∃ f : LongCmd → Bool, t.longs = s.longs.map fun l => if f l then { l with stale := true } else l
     s.ruled = true → s.longRoom fn.val = true → s.estate = .e0 → s.mayName c = true → c.at 2 1 < 8 →
     (s.offers die.val fn.val slot.val 0x82 20 = true → c.at 1 1 = 0 → q.cfg.holds (c.at 8 8) (c.at 16 4) = true → s.groupOk p b = true →
       (∀ r ∈ g.recs, r.adds = true → r.context < q.cfg.rcCount) →
       ∃ t, exec (.collGroupJoin die fn slot) s = .next t ∧ frame t ∧ OnePart s t p ∧
         t.part p = { q with groups := sins (c.at 2 1) g q.groups, plans := (t.part p).plans } ∧
         (∀ x ∈ (t.part p).plans, x.2.plan.planId = g.planId → x.2.verified = false) ∧
         ∀ e ∈ g.ports, (t.port e.die e.port).up = true →
           (Fin.ofNat 16 p, Fin.ofNat 8 (c.at 2 1)) ∈ (t.port e.die e.port).joins) ∧
     (s.offers die.val fn.val slot.val 0x82 3 = true → c.at 1 1 = 1 →
       ∃ t, exec (.collGroupLeave die fn slot) s = .next t ∧ frame t ∧ (s.retimeWanted = false → OnePart s t p) ∧
         (t.part p).groups = sdel (c.at 2 1) q.groups)) ∧
  (∀ (die : Die) (fn : Fn) (slot : Fin 32) (s : State),
     let c := s.readCmd die.val fn.val slot.val
     let modes := (List.range 16).map fun d => c.at (8 + d) 1
     let pri := BitVec.ofNat 8 (c.at 2 1)
     let k : LinkSettings :=
       { generation := match s.settings with | some k => k.generation + 1 | none => 1, modes := modes, timePri := pri, g := c.at 4 2 }
     s.offers die.val fn.val slot.val 0x80 24 = true → s.ruled = true → c.at 1 1 = 0xFE →
     (fn ≠ 0 → ∃ t, exec (.linkStateSet die fn slot) s = .next t ∧ Answered s t die.val fn.val slot.val [c.msg true stDenied []]) ∧
     (fn = 0 → 125 ≤ c.at 4 2 → c.at 4 2 ≤ 1250 → (∀ m ∈ modes, 1 ≤ m ∧ m ≤ 3) →
       (∀ d, d < 16 → (s.link d).portCount ≠ c.at (8 + d) 1 → s.joinedOn d = false) →
       ∃ t, exec (.linkStateSet die fn slot) s = .next t ∧ Took s t die.val fn.val slot.val [c.msg true stOk []] ∧
         t.guardG = c.at 4 2 ∧ t.timePri = pri ∧ t.flashA = s.flashA.settle k ∧ t.flashB = s.flashB.settle k ∧
         (∀ d, d < 16 → (t.link d).portCount = c.at (8 + d) 1) ∧
         (∀ d, d < 16 → (s.link d).portCount ≠ c.at (8 + d) 1 → ∀ n, (t.port d n).up = false) ∧
         ((∀ d, d < 16 → (s.link d).portCount = c.at (8 + d) 1) → t =
           { s with windows := t.windows, leases := t.leases, flashA := t.flashA, flashB := t.flashB, guardG := t.guardG, timePriXor := t.timePriXor }) ∧
         t.cores = s.cores ∧ t.hbm = s.hbm ∧ t.fuses = s.fuses ∧ t.longs = s.longs))

/-! ## Serving -/

/-- Admission decides by the promise: max(FETCH + I, Q) + P + B is the promised END, the promise is E later, and a request
is admitted only if its deadline is not before it and the queue has a place.
The model's own readings it rests on: notes/assumptions 44. -/
def Obligations.AdmissionPromise : Prop :=
  ∀ (q : PartState) (x y : Request) (n : Nat) (k : QueueCfg), q.qcfg = some k → q.decide x = .ok (n, y) →
    y.promisedEnd = Nat.max (x.fetch + x.i) (q.qOf n x.fetch) + x.p + x.b ∧ y.promise = y.promisedEnd + x.e ∧
    y.promise ≤ x.deadline ∧ q.queue.length < k.d ∧ n ≤ (q.queue.filter Request.waits).length ∧
    (∀ m z, (q.queue.filter Request.waits)[m]? = some z → n ≤ m → z.prio < x.prio)

/-- FETCH, where the engine fetches and it is the ring's turn, takes the descriptor at the ring's head: it is admitted at its
place in the queue, and the clusters that may wake are on their way to C0 unless the partition breathes; or it is shed, with a
count and a completion of its own. The head moves by one either way, and an ambiguous match is counted (R255, R262, R265,
R268, R334). Where the engine does not fetch from the ring, nothing changes.
The model's own readings it rests on: notes/assumptions 44. -/
def Obligations.FetchDecides : Prop :=
  ∀ (die : Die) (fn : Fn) (ring : Fin 7) (desc : Bytes) (s : State),
    let p := fn.val
    let q := s.part p
    let w := s.window die.val p
    let r := w.ring ring.val
    let d := parseDesc desc
    let last := some (s.tick, die.val)
    let taken (t : State) : Prop := OneWindow s t die.val p ∧ OnePart s t p ∧
      (∀ j, j ≠ ring.val → (t.window die.val p).ring j = w.ring j) ∧
      (t.window die.val p).ring ring.val = { r with sqHead := r.sqHead + 1, openReqs := r.openReqs + 1 } ∧
      sget 0#32 t.ambig (16 * die.val + p) = (if 1 < (topRules (s.matching die.val p d.cls)).length
        then satAdd (sget 0#32 s.ambig (16 * die.val + p)) 1 else sget 0#32 s.ambig (16 * die.val + p)) ∧
      ∀ k, k ≠ 16 * die.val + p → sget 0#32 t.ambig k = sget 0#32 s.ambig k
    (s.mayFetch die.val p ring.val = false → exec (.fetch die fn ring desc) s = .next s) ∧
    (s.mayFetch die.val p ring.val = true → s.turnOf die.val p ring.val = true → q.dieOrder s.tick die.val = true →
      (∀ x n y, s.candidate die.val p ring.val d = .ok x → q.decide x = .ok (n, y) →
        let l := insertWaiting y n q.queue
        ∃ t, exec (.fetch die fn ring desc) s = .next t ∧ taken t ∧
          t = { s with windows := t.windows, parts := t.parts, ambig := t.ambig, clusters := t.clusters, nextReq := s.nextReq + 1
                       fetchTurn := t.fetchTurn } ∧
          t.part p = { q with lastFetch := last, queue := l
                              stats := { q.stats with admitted := sat64 q.stats.admitted, most := Nat.max q.stats.most l.length } } ∧
          (t.window die.val p).compl = w.compl ∧ (∀ c, c ∉ s.partClusters p → t.cluster c = s.cluster c) ∧
          (q.run.any (·.breathing.isSome) = true → t.clusters = s.clusters) ∧
          (q.run.any (·.breathing.isSome) = false → ∀ c ∈ s.partClusters p, (s.cluster c).mayWake = true →
            (t.cluster c).at .c0 = true ∨ (t.cluster c).trans = some (.exit .c0) ∨ ∃ e, (t.cluster c).trans = some (.enter e (some .c0)))) ∧
      (∀ why, (s.candidate die.val p ring.val d = .error why ∨ ∃ x, s.candidate die.val p ring.val d = .ok x ∧ q.decide x = .error why) →
        ∃ t c, exec (.fetch die fn ring desc) s = .next t ∧ taken t ∧
          t = { s with windows := t.windows, parts := t.parts, ambig := t.ambig, fetchTurn := t.fetchTurn } ∧
          t.part p = { q with lastFetch := last, stats := q.stats.shed why } ∧ (t.window die.val p).compl = w.compl ++ [c] ∧
          c.status = 0x21#8 ∧ c.reason = 0#8 ∧ c.tag = d.tag ∧ c.ring = ring ∧ c.fetch = s.et ∧ c.ready = none ∧ c.start = none ∧
          c.endAt = none))

/-- READY within its bound: the input and its zero padding stand in the input buffer, and nothing else of HBM differs (R264).
INGRESS_TIMEOUT: the request leaves the queue with RETRY, HOST_LATE, its record to be written, or counted where its window
was reset (R26, R256).
The model's own readings it rests on: notes/assumptions 6, 105. -/
def Obligations.Ingress : Prop :=
  ∀ (part : Part) (req : Nat) (input : Bytes) (r : Request) (s : State),
    let p := part.val
    let q := s.part p
    let sIn := match q.entryOf r with | some e => e.sIn | none => r.inLen
    q.req? req = some r → r.stage = .ingress →
    (s.tick ≤ r.fetch + r.i → s.inE0 = true → ∃ t, exec (.ready part req input) s = .next t ∧
      t = { s with hbm := relWrite q.cfg r.inBase (padTo sIn (padTo r.inLen input)) s.hbm, parts := t.parts } ∧ OnePart s t p ∧
      t.part p = { q with queue := q.queue.map fun x => if x.id = r.id then { x with stage := .ready, readyAt := some s.et } else x } ∧
      (∀ a, (∀ i, i < sIn → q.cfg.ea (r.inBase + i) ≠ some a) → mread t.hbm a = mread s.hbm a)) ∧
    (r.fetch + r.i ≤ s.tick → ∃ t, exec (.ingressTimeout part req) s = .next t ∧
      t = { s with windows := t.windows, parts := t.parts, clusters := t.clusters } ∧ OnePart s t p ∧
      (t.part p).queue = q.queue.filter (fun x => x.id != r.id) ∧ (∀ c, c ∉ s.partClusters p → t.cluster c = s.cluster c) ∧
      (r.discard = false → (t.part p).stats = q.stats ∧ OneWindow s t r.die.val r.fn.val ∧ ∃ c,
        t.window r.die.val r.fn.val = { s.window r.die.val r.fn.val with compl := (s.window r.die.val r.fn.val).compl ++ [c] } ∧
        c.status = 0x22#8 ∧ c.reason = 5#8 ∧ c.tag = r.tag ∧ c.ring = r.ring) ∧
      (r.discard = true → t.windows = s.windows ∧ (t.part p).stats = { q.stats with retry := sat32 q.stats.retry }))

/-- START resets every core of the partition but for its slots, counters and fences, leases its granules, discards the cells of
its groups that carry another tag, and word 0 of the entry's first layer is at the present CCLK; no scratchpad and no byte
of HBM differs (R14, R80, R314). END, on a TCLK edge at or after the end of the last layer: the run is gone with its leases,
its cores are not active, and its request is in egress with END at this tick (R14, R264).
The model's own readings it rests on: notes/assumptions 37. -/
def Obligations.Runs : Prop :=
  (∀ (part : Part) (r : Request) (l : Loaded) (e : Entry) (first : Layer) (s : State),
     let p := part.val
     let q := s.part p
     let cls := s.partClusters p
     q.next? = some r → q.boundPlan = some l → l.plan.entries[r.entry]? = some e → l.plan.layers[e.first]? = some first →
     s.canStart p r = true →
     ∃ t, exec (.start part) s = .next t ∧
       t = { s with parts := t.parts, cores := t.cores, clusters := t.clusters, leases := t.leases, links := t.links
                    flights := s.flights.filter (fun f => !cls.contains f.cl.val), credits := s.credits.filter (fun f => !cls.contains f.cl.val)
                    coreEvents := s.coreEvents.filter (fun f => !cls.contains f.1.val) } ∧
       OnePart s t p ∧
       (t.part p).run = some { req := r.id, handle := q.bound.getD 0, entry := r.entry, layer := e.first, layerAt := s.now
                               flags := { linkRetry := s.resentFor p r.entry r.tag }
                               loads := match first.load with | some k => [(k, false)] | none => [] } ∧
       (∀ n ∈ s.partCores p, t.coreAt n = (s.coreAt n).startReset first.slot first.guarded) ∧
       (∀ n, n ∉ s.partCores p → t.coreAt n = s.coreAt n) ∧ (∀ c, c ∉ cls → t.cluster c = s.cluster c) ∧
       (∀ g ∈ q.cfg.granules, t.lease 1 g = ownerTag p (0xF80 + granuleStack g)) ∧
       (∀ d k, ∀ x ∈ (t.port d k).held, q.heldFor p r.entry d k (t.port d k) x = true → x.cell.tag = r.tag) ∧
       (t.part p).queue = q.queue.map fun x => if x.id = r.id then
         { x with stage := .running, startAt := some s.et, flags := x.startFlags } else x) ∧
  (∀ (part : Part) (run : Run) (at' : Nat) (s : State),
     let p := part.val
     let q := s.part p
     q.run = some run → q.runEnded run = true → s.onEdge = true → run.stop = none → run.layerEnd = some at' → at' ≤ s.now →
     ∃ t, exec (.endRun part) s = .next t ∧
       t = { s with parts := t.parts, cores := t.cores, clusters := t.clusters, leases := t.leases, freeCount := t.freeCount } ∧
       OnePart s t p ∧ t.part p = { q with run := none, queue := (t.part p).queue } ∧
       (t.part p).queue.map (·.id) = q.queue.map (·.id) ∧
       (∀ y ∈ (t.part p).queue, y.id = run.req → y.stage = .egress ∧ y.endAt = some s.et) ∧
       (∀ n ∈ s.partCores p, (t.coreAt n).active = false) ∧ (∀ n, n ∉ s.partCores p → t.coreAt n = s.coreAt n) ∧
       (∀ c, c ∉ s.partClusters p → t.cluster c = s.cluster c) ∧
       ∀ k i, 1 ≤ k → k ≤ 3 → i < 65536 → t.lease k i = 0x0FFF#16 ∨ (t.lease k i).toNat / 4096 ≠ p)

/-- Egress writes S_out bytes of the output buffer to the host, counts the single-bit errors it corrects, and decides OK; a
double-bit error decides FAULTED, sets the partition's bit of HD_OP_FAULTED and is recorded; no byte outside the host's
buffer is written (R264, R276). A completion record is written once its ring has a place: its 32 bytes at the tail, the tail
then up by one, the record no longer waits and is counted (R258, R259, R271).
The model's own readings it rests on: notes/assumptions 4, 9, 86. -/
def Obligations.EgressAndRecord : Prop :=
  (∀ (part : Part) (req : Nat) (r : Request) (line : Nat) (singles : List Nat) (s : State),
     let p := part.val
     let q := s.part p
     let base := 18446744073709551616 * r.die.val + r.outAddr
     let w := s.window r.die.val r.fn.val
     let found := singles.filter fun a => q.cfg.granules.contains (granuleOf a)
     let outside (t : State) : Prop := ∀ a, (a < base ∨ base + r.outLen ≤ a) → mread t.hostMem a = mread s.hostMem a
     q.req? req = some r → r.stage = .egress → s.supply = .up →
     (∃ t, exec (.egressComplete part req ⟨none, singles⟩) s = .next t ∧ outside t ∧ OnePart s t p ∧
       t = { s with hostMem := t.hostMem, windows := t.windows, parts := t.parts, clusters := t.clusters, hbmStacks := t.hbmStacks
                    faults := t.faults, faultSeq := t.faultSeq, faultsLost := t.faultsLost } ∧
       (∀ i, i < r.outLen → mread t.hostMem (base + i) = (s.relRead q.cfg r.outBase r.outLen).getD i 0#8) ∧
       (∀ m, (t.stack m).corrected = (s.stack m).corrected + (found.filter fun a => granuleStack (granuleOf a) == m).length) ∧
       (found = [] → t.faults = s.faults ∧ t.hbmStacks = s.hbmStacks) ∧
       (r.discard = false → OneWindow s t r.die.val r.fn.val ∧ t.clusters = s.clusters ∧
         t.part p = { q with queue := q.queue.map fun x => if x.id = r.id then { x with stage := .closing } else x } ∧
         ∃ c, t.window r.die.val r.fn.val = { w with compl := w.compl ++ [c] } ∧ c.status = 0#8 ∧ c.reason = 0#8 ∧ c.tag = r.tag ∧
           c.ring = r.ring ∧ c.fetch = BitVec.ofNat 64 r.fetch ∧ c.ready = r.readyAt ∧ c.start = r.startAt ∧ c.endAt = r.endAt ∧
           c.flags = { r.flags with elastic := q.elastic } ∧ c.req = some r.id) ∧
       (r.discard = true → t.windows = s.windows ∧ (t.part p).queue = q.queue.filter fun x => x.id != r.id)) ∧
     (r.discard = false → ∃ t c, exec (.egressComplete part req ⟨some line, singles⟩) s = .next t ∧ outside t ∧
       (t.window r.die.val r.fn.val).compl = w.compl ++ [c] ∧ c.status = 0x20#8 ∧ c.tag = r.tag ∧
       t.opFaulted = s.opFaulted ||| BitVec.ofNat 16 (2 ^ p) ∧ (∃ x ∈ t.faults, x.code = 0x0104#16) ∧ t.hbm = s.hbm ∧
       t.cores = s.cores)) ∧
  (∀ (die : Die) (fn : Fn) (ring : Fin 7) (c : Compl) (s : State),
     let w := s.window die.val fn.val
     let r := w.ring ring.val
     let q := s.part c.part.val
     let base := 18446744073709551616 * die.val + r.cqBase.toNat + 32 * (r.cqTail.toNat % 2 ^ r.cqLog2.toNat)
     let phase := r.cqTail.toNat / 2 ^ r.cqLog2.toNat % 2 == 0
     let reason := c.finalReason s.tick q.braced
     w.compl.find? (fun c => c.ring == ring) = some c → s.supply = .up →
     (s.estate ≠ .e2 → (r.cqTail - r.cqHead).toNat < 2 ^ r.cqLog2.toNat →
       ∃ t, exec (.completionWrite die fn ring) s = .next t ∧
         t = { s with hostMem := t.hostMem, windows := t.windows, parts := t.parts, clusters := t.clusters } ∧
         OneWindow s t die.val fn.val ∧ OnePart s t c.part.val ∧
         t.window die.val fn.val = { w with compl := w.compl.erase c, rings := (t.window die.val fn.val).rings
                                            vectors := (t.window die.val fn.val).vectors } ∧
         (∀ j, j ≠ ring.val → (t.window die.val fn.val).ring j = w.ring j) ∧
         (t.window die.val fn.val).ring ring.val = { r with cqTail := r.cqTail + 1, openReqs := r.openReqs - 1 } ∧
         (r.irqEn = true → (sget {} (t.window die.val fn.val).vectors (ring.val + 1)).outstanding = true) ∧
         (∀ a, (a < base ∨ base + 32 ≤ a) → mread t.hostMem a = mread s.hostMem a) ∧
         (∀ i, i < 32 → mread t.hostMem (base + i) = (c.bytes s.et reason phase).getD i 0#8) ∧
         (s.taken c.part.val = true → (t.part c.part.val).stats = q.stats.done c.status c.flags (c.kept reason) ∧
           (∀ id, c.req = some id → (t.part c.part.val).queue = q.queue.filter fun x => x.id != id) ∧
           (c.req = none → (t.part c.part.val).queue = q.queue))) ∧
     (2 ^ r.cqLog2.toNat ≤ (r.cqTail - r.cqHead).toNat → exec (.completionWrite die fn ring) s = .next s))

/-! ## The core -/

/-- SET writes its register, under the register's mask, and no other; the free-running counters advance first; a range is
armed by its SET (R76, R78, R82). -/
def Obligations.SetWrites : Prop :=
  ∀ (cl : Cl) (core : LCore) (s : State), s.issues cl.val core.val .set = true →
    let n := s.lcore cl.val core.val
    let k := s.coreAt n
    let i := wbits k.word 57 48
    let v := BitVec.ofNat 40 (wbits k.word 39 0)
    ∃ t, exec (.setWord cl core .clean) s = .next t ∧ CoresOnly s t ∧ OneCore s t n ∧
      t.coreAt n = { k with regs := (t.coreAt n).regs, k := (k.advanceFree 1).k, pc := k.pc + 1, nextIssue := k.pt + 1, counted := true
                            armed := (t.coreAt n).armed } ∧
      (∀ m, regMask i = some m → (t.coreAt n).reg i = v &&& m) ∧ (∀ j, j ≠ i → (t.coreAt n).reg j = k.reg j) ∧
      (0x48 ≤ i → i < 0x50 → sget 0 (t.coreAt n).armed (i - 0x48) = s.now) ∧ ((i < 0x48 ∨ 0x50 ≤ i) → (t.coreAt n).armed = k.armed)

/-- LOOP counts up and branches while its counter is below its limit, else clears the counter and falls through; a skipped
iteration counts up in 4 CCLK without a branch (R77, R161). WAIT holds its word for n CCLK and then goes on; HALT marks the
core (R77). A double-bit error in the step word gives a word of any kind no effect: the core stays at it, CO_ECC_UE_ADDR and
the record 0x0102 name its place, and CORE_EVENT tells it; a corrected error there lets the word act and adds one to
CO_ECC_CE (R55).
The model's own readings it rests on: notes/assumptions 24, 81. -/
def Obligations.ControlWords : Prop :=
  (∀ (cl : Cl) (core : LCore) (e : Nat) (s : State),
     let n := s.lcore cl.val core.val
     let k := s.coreAt n
     let c := wbits k.word 58 56
     (s.issues cl.val core.val .loop = true → ∃ t, exec (.loop cl core .clean) s = .next t ∧ CoresOnly s t ∧ OneCore s t n ∧
       (s.skips cl.val core.val = false → k.kval c < k.lval c →
         t.coreAt n = { k.setK c (k.kval c + 1) with pc := wbits k.word 55 47, nextIssue := k.pt + 1 }) ∧
       (s.skips cl.val core.val = false → k.lval c ≤ k.kval c →
         t.coreAt n = { k.setK c 0 with pc := k.pc + 1, nextIssue := k.pt + 1 }) ∧
       (s.skips cl.val core.val = true → t.coreAt n =
         { (k.setK c (k.kval c + 1)).advanceFree (k.pc + 1 - wbits k.word 55 47 - 4) with nextIssue := k.pt + 4 })) ∧
     (s.issues cl.val core.val .wait = true → ∃ t, exec (.wait cl core .clean) s = .next t ∧ CoresOnly s t ∧ OneCore s t n ∧
       t.coreAt n = { k with waitEnd := some (k.pt + (wbits k.word 58 39 + 1)), nextIssue := k.pt + (wbits k.word 58 39 + 1) }) ∧
     (s.clocked cl.val = true → k.hold = none → k.waitEnd = some e → e ≤ k.pt →
       ∃ t, exec (.waitEnd cl core) s = .next t ∧ CoresOnly s t ∧ OneCore s t n ∧
         t.coreAt n = { k with waitEnd := none, pc := k.pc + 1 }) ∧
     (s.issues cl.val core.val .halt = true → ∃ t, exec (.halt cl core .clean) s = .next t ∧ CoresOnly s t ∧ OneCore s t n ∧
       t.coreAt n = { k with haltAt := some k.pt, nextIssue := k.pt + 1 })) ∧
  (∀ (cl : Cl) (core : LCore) (ecc : Ecc) (s : State),
     let n := s.lcore cl.val core.val
     let k := s.coreAt n
     (∃ v ∈ ecc.store, v.val = k.pc) →
     (∀ x ∈ [(WordKind.set, Instr.setWord cl core ecc), (.loop, .loop cl core ecc), (.wait, .wait cl core ecc), (.halt, .halt cl core ecc),
         (.fire, .fireWord cl core ecc)],
       s.issues cl.val core.val x.1 = true → ∃ t, exec x.2 s = .next t ∧ (t.coreAt n).pc = k.pc ∧ (t.coreAt n).ue = true ∧
         (x.1 ≠ .fire → (t.coreAt n).eccUe = BitVec.ofNat 19 (0x1000 * k.slot.val + 8 * k.pc + 2 ^ 18)) ∧
         (cl, core, true, false, false) ∈ t.coreEvents ∧ (∃ r ∈ t.faults, r.code = 0x0102#16) ∧ t.hbm = s.hbm)) ∧
  (∀ (cl : Cl) (core : LCore) (s : State), s.issues cl.val core.val .halt = true →
     let n := s.lcore cl.val core.val
     let k := s.coreAt n
     ∃ t, exec (.halt cl core { single := 1 }) s = .next t ∧ CoresOnly s t ∧ OneCore s t n ∧
       t.coreAt n = { k with haltAt := some k.pt, nextIssue := k.pt + 1, eccCe := satAdd k.eccCe 1 })

/-- A FIRE word that issues goes on to the next word and starts its work; its loads and stores stay in its own scratchpad
and switch, and no other core, no partition and no byte of HBM differs.
The model's own readings it rests on: notes/assumptions 24, 25. -/
def Obligations.FireIssues : Prop :=
  ∀ (cl : Cl) (core : LCore) (s : State), s.issues cl.val core.val .fire = true →
    let n := s.lcore cl.val core.val
    let k := s.coreAt n
    (∀ b, k.rxHead .vec s.now = some b → b.length ≤ 64) →
    let work := k.started k.word (s.cluster cl.val).ganged
      (fun port l => s.spadRead n (lineAddr (bankOf port s.phase) l) 64) ((k.rxHead .sca s.now).getD [])
    ∃ t, exec (.fireWord cl core .clean) s = .next t ∧
      t = { s with cores := t.cores, clusters := t.clusters, spad := t.spad, flights := t.flights, credits := t.credits } ∧
      OneCore s t n ∧ OneCluster s t cl.val ∧
      (t.coreAt n).pc = k.pc + 1 ∧ (t.coreAt n).nextIssue = k.pt + 1 ∧ (t.coreAt n).presetNext = k.nextPreset k.word ∧
      (t.coreAt n).pt = k.pt ∧ (t.coreAt n).slots = k.slots ∧ (t.coreAt n).acc = k.acc ∧
      ((k.fired k.word).swap = false → (t.coreAt n).pipe = k.pipe ++ work ∧ (t.coreAt n).active_w = k.active_w) ∧
      ((k.fired k.word).swap = true → (k.due .wload) = [] → (t.coreAt n).active_w = k.shadow_w ∧
        (t.coreAt n).shadow_w = k.active_w ∧ (t.coreAt n).wfill = 0) ∧
      ∀ a, (a < 262144 * n ∨ 262144 * (n + 1) ≤ a) → mread t.spad a = mread s.spad a

/-- The landings of a core whose pipelines move: all due work of the kind lands, and nothing else; what one piece of due work
leaves, for each kind: an accumulator entry, a vector register, a scalar register, rows of the shadow tile at the fill
pointer (R60, R61), scale entries at theirs (R64).
The model's own readings it rests on: notes/assumptions 24. -/
def Obligations.Landings : Prop :=
  ∀ (cl : Cl) (core : LCore) (x : Pend) (s : State), s.moves cl.val core.val = true →
    let n := s.lcore cl.val core.val
    let k := s.coreAt n
    (∃ t, exec (.accumulatorUpdate cl core) s = .next t ∧ CoresOnly s t ∧ OneCore s t n ∧
      ∀ e init sums, k.due .mac = [x] → x.act = .mac e init sums →
        (∀ j v, sums[j]? = some v → sget 0#32 (t.coreAt n).acc (32 * e + j) = accUpdate (sget 0#32 k.acc (32 * e + j)) v init) ∧
        (t.coreAt n) = { k.undue .mac with acc := (t.coreAt n).acc }) ∧
    (∃ t, exec (.vectorResultWrite cl core) s = .next t ∧ CoresOnly s t ∧ OneCore s t n ∧
      ∀ vd lanes, k.due .vec = [x] → x.act = .vec vd lanes → (lanes.map (·.1)).Nodup →
        (∀ y ∈ lanes, sget 0#32 (t.coreAt n).vreg (32 * vd + y.1) = y.2) ∧
        (t.coreAt n) = { k.undue .vec with vreg := (t.coreAt n).vreg }) ∧
    (∃ t, exec (.scalarResultWrite cl core) s = .next t ∧ CoresOnly s t ∧ OneCore s t n ∧
      ∀ sd v, k.due .sca = [x] → x.act = .sca sd v → sget 0#32 (t.coreAt n).sreg sd = v ∧
        (∀ d, d ≠ sd → sget 0#32 (t.coreAt n).sreg d = sget 0#32 k.sreg d) ∧
        (t.coreAt n) = { k.undue .sca with sreg := (t.coreAt n).sreg }) ∧
    (∃ t, exec (.weightLoadLand cl core) s = .next t ∧ CoresOnly s t ∧ OneCore s t n ∧
      ∀ rows, k.due .wload = [x] → x.act = .wload rows → (t.coreAt n).wfill = (k.wfill + rows.length) % 32 ∧
        (t.coreAt n) = { k.undue .wload with shadow_w := (t.coreAt n).shadow_w, wfill := (t.coreAt n).wfill } ∧
        (rows.length ≤ 32 → (∀ r ∈ rows, r.length ≤ 32) → ∀ d i v, d < rows.length →
          (rows.getD ((k.wfill + d) % rows.length) [])[i]? = some v →
          sget 0#16 (t.coreAt n).shadow_w (32 * ((k.wfill + d) % 32) + i) = v)) ∧
    (∃ t, exec (.scaleLoadLand cl core) s = .next t ∧ CoresOnly s t ∧ OneCore s t n ∧
      ∀ es, k.due .sload = [x] → x.act = .sload es → (t.coreAt n).sfill = (k.sfill + es.length) % 32 ∧
        (t.coreAt n) = { k.undue .sload with scale := (t.coreAt n).scale, sfill := (t.coreAt n).sfill } ∧
        (es.length ≤ 32 → ∀ d v, es[d]? = some v → sget 0#64 (t.coreAt n).scale ((k.sfill + d) % 32) = v))

/-- A drain write reaches the bank of port 1 in this CCLK and no other byte of any scratchpad; a gang step updates the
accumulator of its bottom-row core alone.
The model's own readings it rests on: notes/assumptions 28. -/
def Obligations.DrainAndGang : Prop :=
  ∀ (cl : Cl) (core : LCore) (k16 : Fin 16) (x : Pend) (line off : Nat) (data : Bytes) (g : GangStep) (s : State),
    let n := s.lcore cl.val core.val
    let k := s.coreAt n
    (s.clocked cl.val = true → k.hold = none → s.holdNow cl.val core.val = none → k.due .drain = [x] → x.act = .drain line off data →
      ∃ t, exec (.drainWrite cl core) s = .next t ∧ t = { s with spad := t.spad, cores := t.cores } ∧ OneCore s t n ∧
        t.coreAt n = k.undue .drain ∧
        (∀ i, i < data.length → mread t.spad (262144 * n + (lineAddr (bankOf 1 s.phase) line + off) + i) = data.getD i 0#8) ∧
        ∀ a, (a < 262144 * n + (lineAddr (bankOf 1 s.phase) line + off) ∨
            262144 * n + (lineAddr (bankOf 1 s.phase) line + off) + data.length ≤ a) → mread t.spad a = mread s.spad a) ∧
    (s.moves cl.val (240 + k16.val) = true →
      (s.cluster cl.val).gang.find? (fun g => decide (g.issued + 530 + k16.val + (if halfRate g.cfg then 1 else 0) ≤ (s.cluster cl.val).gangPt)
        && !g.done.contains k16.val) = some g →
      let m := s.lcore cl.val (240 + k16.val)
      ∃ t, exec (.gangAccumulatorUpdate cl k16) s = .next t ∧ t = { s with cores := t.cores, clusters := t.clusters } ∧
        OneCore s t m ∧ OneCluster s t cl.val ∧
        t.coreAt m = (s.coreAt m).landMac g.entry g.init ((List.range 32).map fun j => (s.gangSum cl.val g k16.val j).word))

/-- A core whose pipelines are empty after HALT is halted, tells its Marionette and stamps its cluster's last halt (R77, R182);
a hold ends at the phase of its beginning once no cause remains (R84); the 4,097th CCLK of a hold that does not end in it, or
of the wait of halted cores for link records, trips the watchdog: the core's bit, CORE_EVENT, a record 0x0201, and the run
ends with DEADLOCK (R86, R316); where a fault has ended the run in that CCLK the watchdog is recorded as well.
The model's own readings it rests on: notes/assumptions 4, 23, 24. -/
def Obligations.HaltsAndHolds : Prop :=
  ∀ (cl : Cl) (core : LCore) (h : Hold) (at' p : Nat) (run : Run) (s : State), s.clocked cl.val = true →
    let n := s.lcore cl.val core.val
    let k := s.coreAt n
    let tripped (t : State) : Prop :=
      t = { s with cores := t.cores, coreEvents := s.coreEvents ++ [(cl, core, false, true, false)], parts := t.parts
                   faults := t.faults, faultSeq := t.faultSeq, faultsLost := t.faultsLost } ∧
      OneCore s t n ∧ t.coreAt n = { k with wdog := true } ∧ ∃ r ∈ t.faults, r.code = 0x0201#16
    (k.active = true → k.halted = false → k.hold = none → k.haltAt = some at' → at' < k.pt → k.pipe = [] → (s.cluster cl.val).gang = [] →
      ∃ t, exec (.coreHalted cl core) s = .next t ∧ (t.coreAt n).halted = true ∧ (t.cluster cl.val).lastHalt = s.now ∧
        t.coreEvents = s.coreEvents ++ [(cl, core, false, false, true)] ∧ t.hbm = s.hbm ∧ t.windows = s.windows ∧
        ((∀ p run, s.partOf cl.val = some p → (s.part p).run = some run → run.stop = none) →
          t = { s with cores := t.cores, clusters := t.clusters, coreEvents := t.coreEvents, parts := t.parts } ∧ OneCore s t n ∧
          t.coreAt n = { k with halted := true })) ∧
    (k.hold = some h → 0 < h.count → s.phase = h.phase → s.causeNow cl.val core.val = none →
      ∃ t, exec (.holdEnd cl core) s = .next t ∧ CoresOnly s t ∧ OneCore s t n ∧ t.coreAt n = { k with hold := none }) ∧
    (k.wdog = false → k.hold = some h → 4096 ≤ h.count → (s.phase ≠ h.phase ∨ (s.causeNow cl.val core.val).isSome = true) →
      ∃ t, exec (.watchdogTrip cl core) s = .next t ∧ tripped t ∧
        (s.partOf cl.val = some p → (s.part p).run = some run → OnePart s t p ∧ (t.part p).run = some { run with deadlock := true })) ∧
    (k.wdog = false → k.hold = none → k.late = none → s.runAt cl.val = some (p, run) → run.haltedAt = some at' → at' + 4096 ≤ s.now →
      ∃ t, exec (.watchdogTrip cl core) s = .next t ∧ tripped t ∧ OnePart s t p ∧ (t.part p).run = some { run with deadlock := true }) ∧
    (∀ kind, k.wdog = false → k.hold = none → k.late = some (s.now, kind) →
      ∃ t, exec (.watchdogTrip cl core) s = .next t ∧ tripped t ∧ t.parts = s.parts) ∧
    (k.hold = some h → h.count < 4096 → exec (.watchdogTrip cl core) s = .next s)

/-! ## The data networks -/

/-- An arriving word that cannot cut through joins its input queue, and may be taken from the next CCLK on; one that can leaves
by each of its outputs and the queue as it was, and a credit goes back for it; one at a fenced input is gone (R115, R116,
R129).
A queued word leaves by the outputs that can take it, and its queue once all of its destinations have it; a fenced
output discards it, and the discard counts once.
The credits of an output that may be used now raise its count, and are spent (R121).
The model's own readings it rests on: notes/assumptions 5, 26, 27, 101, 129. -/
def Obligations.DataNetworks : Prop :=
  let left (s t : State) (c lc : Nat) (net : Net) (data : Bytes) (outs : List Dir) : Prop :=
    ∀ d ∈ outs, (s.coreAt (s.lcore c lc)).fenced d = false → ∀ c' lc', neighbour c lc d = some (c', lc') →
      ∃ x ∈ t.flights, x.net = net ∧ x.cl = toCl c' ∧ x.core = Fin.ofNat 272 (s.lcore c' lc' % 272) ∧ x.port = dirOpp d ∧
        x.time = s.now + hopCost (s.cluster c) lc d ∧ x.data = data
  (∀ (cl : Cl) (core : LCore) (net : Net) (port : Dir) (f : Flight) (s : State), s.wafer = true →
     let n := s.lcore cl.val core.val
     let q := (s.coreAt n).inPort net port
     s.arriving n net port = some f →
     ((s.coreAt n).fenced port = true → exec (.wordArrival cl core net port) s = .next { s with flights := s.flights.erase f }) ∧
     ((s.coreAt n).fenced port = false → s.cutsThrough cl.val core.val net port = false →
       ∃ t, exec (.wordArrival cl core net port) s = .next t ∧
       t = { s with flights := s.flights.erase f, cores := t.cores } ∧ OneCore s t n ∧
       (t.coreAt n).inPort net port =
         { q with queue := q.queue ++ [{ data := f.data }], headFrom := if q.queue.isEmpty then s.now + 1 else q.headFrom } ∧
       (∀ d, d ≠ port → (t.coreAt n).inPort net d = (s.coreAt n).inPort net d) ∧
       t.coreAt n = { s.coreAt n with vec := (t.coreAt n).vec, sca := (t.coreAt n).sca, qmax := (t.coreAt n).qmax }) ∧
     ((s.coreAt n).fenced port = false → s.cutsThrough cl.val core.val net port = true →
       ∃ t, exec (.wordArrival cl core net port) s = .next t ∧
       t = { s with flights := t.flights, cores := t.cores, clusters := t.clusters, credits := t.credits } ∧ OneCore s t n ∧
       OneCluster s t cl.val ∧ (t.coreAt n).inPort net port = q ∧
       left s t cl.val core.val net f.data ((s.coreAt n).destsOf net port).1 ∧
       ((neighbour cl.val core.val port).isSome = true → t.credits.length = s.credits.length + 1))) ∧
  (∀ (cl : Cl) (core : LCore) (net : Net) (port : Dir) (w : QWord) (rest : List QWord) (s : State), s.wafer = true →
     let n := s.lcore cl.val core.val
     let k := s.coreAt n
     let q := k.inPort net port
     let d := w.dests.getD (k.destsOf net port)
     let taken := d.1.filter fun x => s.canPass n net x s.now
     q.queue = w :: rest → q.headFrom ≤ s.now →
     (taken = [] → exec (.queueWordDepart cl core net port) s = .next s) ∧
     (taken ≠ [] → ∃ t, exec (.queueWordDepart cl core net port) s = .next t ∧
       t = { s with flights := t.flights, cores := t.cores, clusters := t.clusters, credits := t.credits } ∧
       OneCore s t n ∧ OneCluster s t cl.val ∧ left s t cl.val core.val net w.data taken ∧
       (taken = d.1 → d.2 = false → ((t.coreAt n).inPort net port).queue = rest ∧
         ((t.coreAt n).inPort net port).headFrom = s.now + 1 ∧
         ((neighbour cl.val core.val port).isSome = true → t.credits.length = s.credits.length + 1)) ∧
       (¬ (taken = d.1 ∧ d.2 = false) → t.credits = s.credits ∧ ((t.coreAt n).inPort net port).queue =
         { w with dests := some (d.1.filter fun x => !s.canPass n net x s.now, d.2) } :: rest) ∧
       ((∀ x ∈ taken, k.fenced x = true) → t.flights = s.flights) ∧
       (t.cluster cl.val).violCount =
         satAdd (s.cluster cl.val).violCount (if taken.any k.fenced then 1 else 0))) ∧
  (∀ (cl : Cl) (core : LCore) (net : Net) (out : Dir) (s : State), s.wafer = true →
     let n := s.lcore cl.val core.val
     let o := (s.coreAt n).outPort net out
     ∃ t, exec (.creditReturn cl core net out) s = .next t ∧ t = { s with cores := t.cores, credits := t.credits } ∧ OneCore s t n ∧
       (t.coreAt n).outPort net out = { o with used := o.used - s.creditsBy n net out s.now } ∧
       t.creditsBy n net out s.now = 0 ∧ (∀ x ∈ s.credits, x.isFor n net out = false → x ∈ t.credits) ∧
       ∀ d, d ≠ out → (t.coreAt n).outPort net d = (s.coreAt n).outPort net d)

/-! ## The strings -/

/-- A unicast frame whose way is broken is dropped and counted at the node where it can go on neither way; at its destination
it is delivered if it comes from a Puppeteer or from a node of the destination's partition, else dropped and counted there;
a broadcast that comes from neither does nothing, another reaches every node of its partition and no other: whatever the
frame carries (R130, R133, R136, R137).
The model's own readings it rests on: notes/assumptions 29, 104. -/
def Obligations.FrameRights : Prop :=
  ∀ (hdr : Hdr) (reg : StrReg) (val : BitVec 64) (slot : Fin 4) (place : Fin 16) (first : Nat) (rows cols : BitVec 16)
      (words : List (BitVec 64)) (kind : BitVec 4) (index tag : BitVec 16) (s : State),
    let every (s t : State) : Prop :=
      exec (.regRead hdr reg) s = .next t ∧ exec (.regWrite hdr reg val) s = .next t ∧
      exec (.slotData hdr slot first rows cols words) s = .next t ∧ exec (.storeData hdr place first words) s = .next t ∧
      exec (.scanCtl hdr) s = .next t ∧ exec (.fwMsg hdr) s = .next t ∧ exec (.fwUrgent hdr .haltReport) s = .next t ∧
      exec (.fwUrgent hdr .other) s = .next t ∧ exec (.seizeFrame hdr kind index tag) s = .next t
    let lost (n : Nat) : Prop := ∃ t, every s t ∧ ClustersOnly s t ∧ OneCluster s t n ∧
      t.cluster n = { s.cluster n with dropCount := satAdd (s.cluster n).dropCount 1 }
    (s.supply ≠ .up → every s s) ∧
    (∀ d n, s.supply = .up → hdr.dest = .cluster d → s.lostTo hdr.src d.val = some n → lost n) ∧
    (∀ d, s.supply = .up → hdr.dest = .cluster d → s.lostTo hdr.src d.val = none → s.delivers hdr.src d.val = false → lost d.val) ∧
    (∀ p, s.supply = .up → hdr.dest = .part p → s.fromPart hdr.src p = false → every s s) ∧
    (∀ p, s.supply = .up → s.canonical = true → hdr.dest = .part p → s.fromPart hdr.src p = true →
      ∃ t, exec (.storeData hdr place first words) s = .next t ∧ ClustersOnly s t ∧
        ∀ c, t.cluster c = if (s.cluster c).assigned = true ∧ (s.cluster c).partition = p
          then (s.cluster c).storeData place.val first words else s.cluster c)

/-- REG_READ of one core, or of the node, leaves one reply with its value; REG_WRITE writes a writable register of the core
it names and no other, and STR_NODE_CFG of the node; a frame for a core of a cluster in C2 or C3 leaves NO_TARGET, one
for a cluster in C1 waits at the row node and wakes the cluster; the oldest reply to a read reaches its reader, or is
dropped on its way (R131, R137, R139, R344).
The model's own readings it rests on: notes/assumptions 29, 104, 130. -/
def Obligations.RegisterFrames : Prop :=
  ∀ (hdr : Hdr) (d : Cl) (reg : StrReg) (i : BitVec 10) (m : BitVec 40) (val : BitVec 64) (x : Cl × Hdr × StrReg × BitVec 128) (s : State),
    s.supply = .up →
    let c := d.val
    let n := 272 * c + hdr.target.toNat
    let k := s.cluster c
    let there := hdr.dest = .cluster d ∧ s.lostTo hdr.src c = none ∧ s.delivers hdr.src c = true
    (there → hdr.target.toNat < 272 → k.at .c0 = true → nodeReg reg = false →
      ∃ t, exec (.regRead hdr reg) s = .next t ∧
        t = { s with regReplies := s.regReplies ++ [(d, hdr, reg, BitVec.ofNat 128 ((s.coreAt n).readReg reg))] }) ∧
    (there → hdr.target = 0x1FF#9 → nodeReg reg = true → ∃ t, exec (.regRead hdr reg) s = .next t ∧
      t = { s with regReplies := s.regReplies ++ [(d, hdr, reg, BitVec.ofNat 128 (s.readNode c reg))] }) ∧
    (there → hdr.target.toNat < 272 → k.at .c0 = true → regMask i.toNat = some m →
      ∃ t, exec (.regWrite hdr (.coSet i) val) s = .next t ∧ CoresOnly s t ∧ OneCore s t n ∧
        t.coreAt n = { s.coreAt n with regs := (t.coreAt n).regs } ∧ (t.coreAt n).reg i.toNat = val.setWidth 40 &&& m ∧
        ∀ j, j ≠ i.toNat → (t.coreAt n).reg j = (s.coreAt n).reg j) ∧
    (there → hdr.target.toNat < 272 → k.at .c0 = true → ∃ t, exec (.regWrite hdr .coFence val) s = .next t ∧ CoresOnly s t ∧
      OneCore s t n ∧ t.coreAt n = { s.coreAt n with fence := val.setWidth 4 }) ∧
    (there → hdr.target = 0x1FF#9 → ∃ t, exec (.regWrite hdr .nodeCfg val) s = .next t ∧ ClustersOnly s t ∧ OneCluster s t c ∧
      t.cluster c = { k with assigned := val.getLsbD 8, partition := Fin.ofNat 16 (val.extractLsb' 4 4).toNat
                             linksOff := ~~~(val.setWidth 4) }) ∧
    (there → hdr.target.toNat < 272 → k.noTarget = true → nodeReg reg = false →
      ∃ t, t = { s with noTargets := s.noTargets ++ [(d, hdr.src, hdr.target)] } ∧
        exec (.regRead hdr reg) s = .next t ∧ exec (.regWrite hdr reg val) s = .next t) ∧
    (there → hdr.target.toNat < 272 → k.noTarget = false → k.at .c0 = false → nodeReg reg = false → s.breathes c = false →
      ∃ t, exec (.regRead hdr reg) s = .next t ∧ ClustersOnly s t ∧ OneCluster s t c ∧
        t.cluster c = { k.wake .c0 with rowWait := k.rowWait ++ [(hdr, .regRead reg)] }) ∧
    (s.regReplies.find? (fun x => x.2.1 == hdr && x.2.2.1 == reg) = some x →
      (s.lostBack x.1.val hdr.src = none → exec (.regReply hdr reg) s = .next { s with regReplies := s.regReplies.erase x }) ∧
      ∀ l, s.lostBack x.1.val hdr.src = some l → ∃ t, exec (.regReply hdr reg) s = .next t ∧
        t = { s with regReplies := s.regReplies.erase x, clusters := t.clusters } ∧ OneCluster s t l ∧
        t.cluster l = { s.cluster l with dropCount := satAdd (s.cluster l).dropCount 1 }) ∧
    ((∀ x ∈ s.regReplies, ¬ (x.2.1 = hdr ∧ x.2.2.1 = reg)) → exec (.regReply hdr reg) s = .next s)

/-- SLOT_DATA writes its words into every logical core of its masks but never into an active slot, and into none of a cluster in
C2 or C3, which answers NO_TARGET; STORE_DATA writes a place that no loaded plan owns (R71, R137, R177, R186).
The model's own readings it rests on: notes/assumptions 30, 104, 130. -/
def Obligations.SlotLoads : Prop :=
  ∀ (hdr : Hdr) (d : Cl) (slot : Fin 4) (place : Fin 16) (first : Nat) (rows cols : BitVec 16) (w : BitVec 64) (core : LCore) (s : State),
    s.supply = .up → hdr.dest = .cluster d → s.lostTo hdr.src d.val = none → s.delivers hdr.src d.val = true → first < 512 →
    let c := d.val
    let n := s.lcore c core.val
    ((s.cluster c).at .c0 = true → hdr.target = 0x1FE#9 →
      ∃ t, exec (.slotData hdr slot first rows cols [w]) s = .next t ∧ CoresOnly s t ∧
      (∀ m, m / 272 ≠ c → t.coreAt m = s.coreAt m) ∧
      (((s.coreAt n).active = true ∧ (s.coreAt n).slot = slot) ∨ rows.getLsbD (core.val / 16) = false ∨
        cols.getLsbD (core.val % 16) = false → t.coreAt n = s.coreAt n) ∧
      (rows.getLsbD (core.val / 16) = true → cols.getLsbD (core.val % 16) = true →
        ((s.coreAt n).active = false ∨ (s.coreAt n).slot ≠ slot) →
        t.coreAt n = { s.coreAt n with slots := (t.coreAt n).slots } ∧
        sget 0#64 (sget {} (t.coreAt n).slots slot.val).words first = w ∧
        (∀ a, a ≠ first → sget 0#64 (sget {} (t.coreAt n).slots slot.val).words a =
          sget 0#64 (sget {} (s.coreAt n).slots slot.val).words a) ∧
        ∀ j, j ≠ slot.val → sget {} (t.coreAt n).slots j = sget {} (s.coreAt n).slots j)) ∧
    ((s.cluster c).noTarget = true → hdr.target ≠ 0x1FF#9 → ∃ t, exec (.slotData hdr slot first rows cols [w]) s = .next t ∧
      t = { s with noTargets := t.noTargets } ∧ (hdr.target = 0x1FE#9 →
        rows.getLsbD (core.val / 16) = true → cols.getLsbD (core.val % 16) = true →
        (d, hdr.src, BitVec.ofNat 9 (n - 272 * c)) ∈ t.noTargets)) ∧
    (∃ t, exec (.storeData hdr place first [w]) s = .next t ∧ ClustersOnly s t ∧ OneCluster s t c ∧
      t.cluster c = { s.cluster c with fill := (t.cluster c).fill } ∧
      ((sfind? (s.cluster c).store place.val).isSome = true → (t.cluster c).fill = (s.cluster c).fill) ∧
      (sfind? (s.cluster c).store place.val = none → sget 0#64 (t.cluster c).fill (512 * place.val + first) = w ∧
        ∀ a, a ≠ 512 * place.val + first → sget 0#64 (t.cluster c).fill a = sget 0#64 (s.cluster c).fill a))

/-- Firmware frames: a message means nothing to the engine; an answered heartbeat clears the misses; a halt report of all 256
cores reaches the run at its leader with the time of the last halt. A core's halt reaches its Marionette (R131, R182, R384).
The fabric's own counts: unsent violations reach HD_VIOL_COUNT of the owner; a reserved frame counts as a drop; parity
resends count, and a link that fails leaves service with a record; a NO_TARGET frame reaches its sender or is dropped on its
way (R129, R131, R136, R137, R212).
The model's own readings it rests on: notes/assumptions 27, 99, 104. -/
def Obligations.StringsNode : Prop :=
  (∀ (hdr : Hdr) (c d cl : Cl) (core : LCore) (x : Cl × LCore × Bool × Bool × Bool) (p : Nat) (run : Run) (s : State), s.supply = .up →
     let there := hdr.dest = .cluster d ∧ s.lostTo hdr.src d.val = none ∧ s.delivers hdr.src d.val = true
     (there → (forNode hdr = true ∨ (s.cluster d.val).at .c0 = true) →
       exec (.fwMsg hdr) s = .next s ∧ exec (.fwUrgent hdr .other) s = .next s) ∧
     (there → forNode hdr = true → hdr.src = .cluster c → s.runAt c.val = some (p, run) →
       d.val = rectLeader (s.part p).cfg.x0 (s.part p).cfg.y0 (s.part p).cfg.w (s.part p).cfg.h → (s.cluster c.val).haltSeen.length = 256 →
       ∃ t u, exec (.fwUrgent hdr .haltReport) s = .next t ∧ t = { s with parts := t.parts, clusters := t.clusters } ∧ OnePart s t p ∧
         (t.part p).run = some u ∧ u.reports = sins c.val (s.cluster c.val).lastHalt run.reports) ∧
     (hdr.src = .cluster c → s.lostToDie c.val 3 = none →
       ∃ t, exec (.fwUrgent hdr .heartbeatAnswer) s = .next t ∧ ClustersOnly s t ∧ OneCluster s t c.val ∧
       t.cluster c.val = { s.cluster c.val with beatAt := none, missed := if (s.cluster c.val).beatAt.isSome then 0 else (s.cluster c.val).missed }) ∧
     (∀ n, hdr.src = .cluster c → s.lostToDie c.val 3 = some n →
       ∃ t, exec (.fwUrgent hdr .heartbeatAnswer) s = .next t ∧ ClustersOnly s t ∧ OneCluster s t n ∧
       t.cluster n = { s.cluster n with dropCount := satAdd (s.cluster n).dropCount 1 }) ∧
     (s.coreEvents.find? (fun x => x.1.val == cl.val && x.2.1.val == core.val) = some x →
       ∃ t, exec (.coreEvent cl core) s = .next t ∧ t = { s with coreEvents := s.coreEvents.erase x, clusters := t.clusters } ∧
         OneCluster s t cl.val ∧ (x.2.2.2.2 = true → core ∈ (t.cluster cl.val).haltSeen) ∧
         (x.2.2.2.2 = false → t.clusters = s.clusters))) ∧
  (∀ (cl : Cl) (dir : Dir) (resends : Nat) (hdr : Hdr) (x : Cl × Src × BitVec 9) (s : State), s.supply = .up →
     let k := s.cluster cl.val
     (∃ t, exec (.viol cl) s = .next t ∧ t = { s with clusters := t.clusters, violCounts := t.violCounts } ∧ OneCluster s t cl.val ∧
       t.cluster cl.val = { k with violUnsent := 0 } ∧
       (∀ p, p ≠ k.partition.val → sget 0#64 t.violCounts p = sget 0#64 s.violCounts p) ∧
       sget 0#64 t.violCounts k.partition.val =
         if k.violUnsent ≠ 0 ∧ k.assigned = true then countViol 3 k.violUnsent (sget 0#64 s.violCounts k.partition.val)
         else sget 0#64 s.violCounts k.partition.val) ∧
     (∃ t, exec (.stringsReservedFrame cl) s = .next t ∧ ClustersOnly s t ∧ OneCluster s t cl.val ∧
       t.cluster cl.val = { k with dropCount := satAdd k.dropCount 1 }) ∧
     (∃ t, exec (.flitParityError cl dir resends false) s = .next t ∧ ClustersOnly s t ∧ OneCluster s t cl.val ∧
       t.cluster cl.val = { k with parityCount := satAdd k.parityCount resends }) ∧
     (∃ t, exec (.flitParityError cl dir resends true) s = .next t ∧
       t = { s with clusters := t.clusters, faults := t.faults, faultSeq := t.faultSeq, faultsLost := t.faultsLost } ∧ OneCluster s t cl.val ∧
       t.cluster cl.val = { k with parityCount := satAdd k.parityCount 16, dropCount := satAdd k.dropCount 1
                                   linksOff := k.linksOff ||| BitVec.ofNat 4 (2 ^ dirNum dir) } ∧
       (∃ r ∈ t.faults, r.code = 0x0202#16)) ∧
     (s.noTargets.find? (noTargetFor hdr) = some x →
       (s.lostBack x.1.val x.2.1 = none → exec (.noTarget hdr) s = .next { s with noTargets := s.noTargets.erase x }) ∧
       ∀ n, s.lostBack x.1.val x.2.1 = some n → ∃ t, exec (.noTarget hdr) s = .next t ∧
         t = { s with noTargets := s.noTargets.erase x, clusters := t.clusters } ∧ OneCluster s t n ∧
         t.cluster n = { s.cluster n with dropCount := satAdd (s.cluster n).dropCount 1 }))

/-- A scan takes the lease of its ring segment and gives it back; a ring that has not returned 40 µs after its scan began is
bypassed, with a record, and what its holder leases is seized; a seizure frame bypasses the ring, and ends what its lease
covers only while the lease has the tag named (R190, R191, R378, R381).
The model's own readings it rests on: notes/assumptions 32, 33, 131. -/
def Obligations.Scans : Prop :=
  ∀ (hdr : Hdr) (d cl : Cl) (tag : BitVec 16) (s : State), s.supply = .up →
    let c := d.val
    let p := match s.partOf c with | some p => p | none => 0
    let there := hdr.dest = .cluster d ∧ s.lostTo hdr.src c = none ∧ s.delivers hdr.src c = true
    (there → forNode hdr = true → (s.cluster c).scanning = false → s.mayScan c = true → s.lease 5 c = 0x0FFF#16 →
      ∃ t, exec (.scanCtl hdr) s = .next t ∧
      t = { s with clusters := t.clusters, leases := t.leases } ∧ OneCluster s t c ∧ OneLease s t 5 c ∧
      t.cluster c = { s.cluster c with scanning := true, scanAt := s.now } ∧ t.lease 5 c = ownerTag p c) ∧
    (there → forNode hdr = true → (s.cluster c).scanning = false → s.mayScan c = false → exec (.scanCtl hdr) s = .next s) ∧
    (there → forNode hdr = true → (s.cluster c).scanning = true → ∃ t, exec (.scanCtl hdr) s = .next t ∧
      t = { s with clusters := t.clusters, leases := t.leases } ∧ OneCluster s t c ∧ OneLease s t 5 c ∧
      t.cluster c = { s.cluster c with scanning := false } ∧ t.lease 5 c = 0x0FFF#16) ∧
    ((s.cluster cl.val).scanning = true → (s.cluster cl.val).scanAt + 40000 ≤ s.now →
      ∃ t, exec (.scanTimeout cl) s = .next t ∧ (t.cluster cl.val).scanBypass = true ∧
      (s.leasesOf cl.val = [] → OneCluster s t cl.val ∧ ∃ r ∈ t.faults, r.code = 0x0203#16) ∧
      (s.leasesOf cl.val = [{ kind := 5, index := cl.val, tag := s.lease 5 cl.val }] → (t.cluster cl.val).scanning = false ∧
        t.lease 5 cl.val = 0x0FFF#16 ∧ ∃ r ∈ t.faults, r.code = 0x0601#16)) ∧
    (((s.cluster cl.val).scanning = false ∨ s.now < (s.cluster cl.val).scanAt + 40000) → exec (.scanTimeout cl) s = .next s) ∧
    (there → forNode hdr = true → (s.lease 5 c = tag → tag = 0x0FFF#16) →
      ∃ t, exec (.seizeFrame hdr 5#4 (BitVec.ofNat 16 c) tag) s = .next t ∧ ClustersOnly s t ∧
      OneCluster s t c ∧ t.cluster c = { s.cluster c with scanBypass := true }) ∧
    (there → forNode hdr = true → s.lease 5 c = tag → tag ≠ 0x0FFF#16 →
      ∃ t, exec (.seizeFrame hdr 5#4 (BitVec.ofNat 16 c) tag) s = .next t ∧ ClustersOnly s t ∧
      OneCluster s t c ∧ t.cluster c = { s.cluster c with scanBypass := true, scanning := false }) ∧
    (there → hdr.target.toNat < 272 → (s.cluster c).noTarget = true →
      exec (.seizeFrame hdr 5#4 (BitVec.ofNat 16 c) tag) s = .next { s with noTargets := s.noTargets ++ [(d, hdr.src, hdr.target)] })

/-! ## Slot switches -/

/-- The last halt report fixes the switch: at the first CCLK of phase 0 that is W after the layer's end, later by a breath, with
the slot and mode of the next layer in the frame. SLOT_SWITCH reaches every core of the partition, before its CCLK with no
effect but the command held, after it with the switch moved to the next phase 0 and the cores counting the CCLK between as
held. The switch then starts word 0 of the next layer in every core at this CCLK, as its command says, and a completed run
load stands in its slot in every core (R81, R182 to R185, R188, R354).
The model's own readings it rests on: notes/assumptions 34, 58. -/
def Obligations.SlotSwitches : Prop :=
  ∀ (part : Part) (hdr : Hdr) (c d : Cl) (run : Run) (w : SwitchTo) (l : Loaded) (e : Entry) (r : Request) (y : Layer) (load : Nat) (ld : Load)
      (s : State), s.wafer = true →
    let p := part.val
    let cfg := (s.part p).cfg
    let h := cfg.switchHdr p
    let due := s.timeOf (switchCmd w.flits).2.2
    let reps := sins c.val (s.cluster c.val).lastHalt run.reports
    let fin := reps.foldl (fun m x => Nat.max m x.2) run.linkEnd
    let b := s.breathOf p run r e.n (fin - run.layerAt)
    let at' := s.phase0From (fin + 8 * b + switchTime cfg.w cfg.h)
    (s.part p).run = some run → sfind? (s.part p).plans run.handle = some l →
    (hdr.dest = .cluster d → s.lostTo hdr.src d.val = none → s.delivers hdr.src d.val = true → forNode hdr = true → hdr.src = .cluster c →
      s.partOf c.val = some p → d.val = rectLeader cfg.x0 cfg.y0 cfg.w cfg.h → (s.cluster c.val).haltSeen.length = 256 →
      run.layerEnd.isSome = true → run.switch = none → run.stop = none → l.plan.entries[run.entry]? = some e →
      (s.part p).req? run.req = some r → run.layer + 1 ≠ e.first + e.count → l.plan.layers[run.layer + 1]? = some y →
      (∀ x ∈ cfg.clusters, x = c.val ∨ (sfind? run.reports x).isSome = true) →
      ∃ t, exec (.fwUrgent hdr .haltReport) s = .next t ∧ t = { s with parts := t.parts, clusters := t.clusters } ∧ OnePart s t p ∧
        (t.part p).run = some { run with reports := reps, spent := run.spent + b
                                         switch := some { layer := run.layer + 1, time := at', flits := switchFlits y.slot y.guarded (s.cclkAt at') }
                                         breathing := if b = 0 then none else some (fin + 8 * b)
                                         flags := { run.flags with breath := run.flags.breath || decide (0 < b) } } ∧
        (b = 0 → t.clusters = s.clusters)) ∧
    (run.switch = some w → w.sent = false → s.canonical = true → s.fromPart h.src part = true →
      (∀ c, ((s.cluster c).assigned = true ∧ (s.cluster c).partition = part) ↔ c ∈ s.partClusters p) →
      (∀ c ∈ s.partClusters p, (s.cluster c).at .c0 = true) →
      ∃ t, exec (.slotSwitch part) s = .next t ∧ t = { s with parts := t.parts, cores := t.cores } ∧ OnePart s t p ∧
        (∀ n, n / 272 ∉ s.partClusters p → t.coreAt n = s.coreAt n) ∧
        (s.now ≤ due → (∀ n ∈ s.partCores p, t.coreAt n = { s.coreAt n with cmd := some (switchCmd w.flits) }) ∧
          t.part p = { s.part p with run := some { run with switch := some { w with time := due, sent := true } } }) ∧
        (due < s.now →
          (t.part p).run = some { run with held := run.held + (s.phase0From s.now - due), flags := { run.flags with slip := true }
                                           switch := some { w with time := s.phase0From s.now, sent := true } } ∧
          ((s.partClusters p).Nodup → ∀ n ∈ s.partCores p,
            (t.coreAt n).slipQueue = satAdd (s.coreAt n).slipQueue (s.phase0From s.now - due) ∧
            (t.coreAt n).slipHolds = satAdd (s.coreAt n).slipHolds 1))) ∧
    (run.switch = some w → w.sent = true → s.switchKnown p = true → w.time ≤ s.now → s.phase = 0 → l.plan.layers[w.layer]? = some y →
      run.loaded l.plan y.slot = true → (∀ c ∈ s.partClusters p, (s.cluster c).trans = none ∧ (s.cluster c).power.depth ≤ 1) →
      ∃ t u, exec (.switchCclk part) s = .next t ∧ OnePart s t p ∧ (t.part p).run = some u ∧ u.layer = w.layer ∧ u.layerAt = s.now ∧
        u.layerEnd = none ∧ u.switch = none ∧ u.reports = [] ∧ u.breathing = none ∧
        (run.breathing.isSome = true → ∀ c ∈ s.partClusters p, (t.cluster c).power = .c0) ∧
        (run.breathing = none → t = { s with parts := t.parts, cores := t.cores, clusters := t.clusters } ∧
          (∀ n, n ∉ s.partCores p → t.coreAt n = s.coreAt n) ∧
          ∀ n ∈ s.partCores p, ∀ sl g z, (s.coreAt n).cmd = some (sl, g, z) →
            (t.coreAt n).slot = sl ∧ (t.coreAt n).guarded = g ∧ (t.coreAt n).pc = 0 ∧ (t.coreAt n).halted = false ∧
            (t.coreAt n).active = true ∧ (t.coreAt n).acc = (s.coreAt n).acc ∧ (t.coreAt n).cmd = none)) ∧
    (l.plan.loads[load]? = some ld → run.loads.contains (load, false) = true →
      ∃ t, exec (.reloadComplete part load) s = .next t ∧ t = { s with parts := t.parts, cores := t.cores } ∧ OnePart s t p ∧
        (∀ n, n ∉ s.partCores p → t.coreAt n = s.coreAt n) ∧
        (∀ c ∈ s.partClusters p, ∀ lc, lc < 256 →
          sget {} (t.coreAt (s.lcore c lc)).slots ld.slot.val = l.plan.loadSlot ld (l.plan.clusterIndex c) lc) ∧
        (t.part p).run = some { run with loads := run.loads.map fun x => if x.1 = load then (load, true) else x })

/-! ## HBM and data movement -/

/-- Port 3 of a core: the channel line first served is written, the core-to-HBM read first served is made, and a read at its
last CCLK goes ahead of the step word, which holds its core with a queue cause. A line of a transfer record then moves in its
granule slot; one that its channel does not reach brings zero words (R57, R274, R279, R281, R284). A double-bit error of the
line read is kept and recorded (R55).
The model's own readings it rests on: notes/assumptions 84, 85, 106. -/
def Obligations.ChannelLines : Prop :=
  ∀ (cl : Cl) (core : LCore) (part : Part) (p rec line a : Nat) (l : ChanLine) (w : Waiting) (run : Run) (ld : Loaded) (r : Request)
      (x : Transfer) (y : Nat × Nat × Bytes) (q : Part) (k i : Nat) (g : Fin 8) (ecc : Ecc) (s : State),
    let n := s.lcore cl.val core.val
    let base := 262144 * n + l.addr.toNat / 64 * 64
    let stored (t : State) : Prop :=
      OneCore s t n ∧ OneCluster s t cl.val ∧ (t.coreAt n).chan = (s.coreAt n).chan.erase l ∧ (t.coreAt n).port3 = some s.now ∧
        (∀ i, i < l.data.length → mread t.spad (base + i) = l.data.getD i 0#8) ∧
        ∀ a, (a < base ∨ base + l.data.length ≤ a) → mread t.spad a = mread s.spad a
    let read := (w.recNo, w.line, s.spadRead n (w.addr / 64 * 64) 64)
    let m := s.lcore x.cluster x.core
    let cfg := (s.part part.val).cfg
    let came (data : Bytes) : List ChanLine :=
      (s.coreAt m).chan ++ [⟨s.now + 160, x.channel, BitVec.ofNat 18 (x.spadOf line), data, .sched part rec line⟩]
    (s.clocked cl.val = true → s.wordTakes3 cl.val core.val = false →
      (s.writesNow cl.val core.val).find? (fun l => s.served3 cl.val core.val l.eligible l.chan) = some l →
      (l.line = .sched q rec k → ∃ t, exec (.channelLineWrite cl core) s = .next t ∧
        t = { s with spad := t.spad, cores := t.cores, clusters := t.clusters } ∧ stored t ∧ (l.chan < 64 → t.clusters = s.clusters)) ∧
      (l.line = .link q g rec k i → (∀ u, (s.part q.val).run = some u → u.stop = none ∨ ∃ n ∈ s.partCores q.val, (s.coreAt n).halted = false) →
        ∃ t, exec (.channelLineWrite cl core) s = .next t ∧
          t = { s with spad := t.spad, cores := t.cores, clusters := t.clusters, parts := t.parts } ∧ stored t ∧ OnePart s t q.val ∧
          ∀ u, (s.part q.val).run = some u → ∃ v, (t.part q.val).run = some v ∧
            ((∃ n ∈ s.partCores q.val, (s.coreAt n).halted = false) → v = { u with links := v.links }) ∧
            v.links = smod {} (4096 * g.val + rec) (fun z : LinkProg => { z with writing := z.writing - 1 }) u.links)) ∧
    (s.clocked cl.val = true → s.runAt cl.val = some (p, run) → s.wordTakes3 cl.val core.val = false →
      (s.readsNow cl.val core.val).find? (fun w => s.served3 cl.val core.val w.since w.chan) = some w →
      (∃ t, exec (.coreToHbmRead cl core .clean) s = .next t ∧ t = { s with cores := t.cores, parts := t.parts } ∧ OneCore s t n ∧
        OnePart s t p ∧ t.coreAt n = { s.coreAt n with port3 := some s.now } ∧
        t.part p = { s.part p with run := some { run with readLines := run.readLines ++ [read] } }) ∧
      (ecc.lines ≠ [] → ∃ t, exec (.coreToHbmRead cl core ecc) s = .next t ∧ (t.coreAt n).ue = true ∧
        (t.coreAt n).eccUe = BitVec.ofNat 19 (w.addr / 64 * 64) ∧ ∃ z ∈ t.faults, z.code = 0x0102#16)) ∧
    (s.clocked cl.val = true → s.runAt cl.val = some (p, run) → (s.coreAt n).port3 ≠ some s.now →
      (s.readsNow cl.val core.val).find? (fun w => decide (w.until_ ≤ s.now)) = some w →
      ∃ t, exec (.coreToHbmForcedRead cl core .clean) s = .next t ∧ t = { s with cores := t.cores, parts := t.parts } ∧ OnePart s t p ∧
        t.part p = { s.part p with run := some { run with readLines := run.readLines ++ [read] } } ∧
        (s.holdNow cl.val core.val = none → OneCore s t n ∧ t.coreAt n = { s.coreAt n with port3 := some s.now }) ∧
        ((s.cluster cl.val).ganged = false → s.ownHold cl.val core.val = some (.queue, .forced) → OneCore s t n ∧
          t.coreAt n = { s.coreAt n with port3 := some s.now, hold := some ⟨s.phase, 0, .queue, .forced⟩ })) ∧
    (s.wafer = true → (s.part part.val).run = some run → sfind? (s.part part.val).plans run.handle = some ld →
      (s.part part.val).req? run.req = some r → ld.plan.sched[rec]? = some x → s.slotReady run x rec line = true →
      (cfg.reach x (r.lineOff x line) = some a → sget 0 s.slotUse (granuleOf a) ≠ s.tick + 1 →
        (x.kind = 1 → ∃ t, exec (.hbmSlotTransfer part rec line .clean) s = .next t ∧
          t = { s with slotUse := t.slotUse, leases := t.leases, cores := t.cores, parts := t.parts } ∧ OnePart s t part.val ∧
          OneCore s t m ∧ sget 0 t.slotUse (granuleOf a) = s.tick + 1 ∧
          (∃ u, (t.part part.val).run = some u ∧ sget 0 u.moved rec = line + 1) ∧
          t.coreAt m = { (s.coreAt m).lineIn s.tick with chan := came (mreads s.hbm a 64) }) ∧
        (x.kind = 2 → run.readLines.find? (fun y => y.1 == rec && y.2.1 == line) = some y →
          ∃ t, exec (.hbmSlotTransfer part rec line .clean) s = .next t ∧
            t = { s with slotUse := t.slotUse, leases := t.leases, hbm := t.hbm, cores := t.cores, parts := t.parts } ∧ OnePart s t part.val ∧
            OneCore s t m ∧ t.coreAt m = (s.coreAt m).lineIn s.tick ∧
            sget 0 t.slotUse (granuleOf a) = s.tick + 1 ∧ (∃ u, (t.part part.val).run = some u ∧ sget 0 u.moved rec = line + 1) ∧
            (∀ i, i < y.2.2.length → mread t.hbm (a + i) = y.2.2.getD i 0#8) ∧
            ∀ b, (b < a ∨ a + y.2.2.length ≤ b) → mread t.hbm b = mread s.hbm b)) ∧
      (cfg.reach x (r.lineOff x line) = none → ∃ t, exec (.hbmSlotTransfer part rec line .clean) s = .next t ∧
        t = { s with leases := t.leases, cores := t.cores, parts := t.parts } ∧ OnePart s t part.val ∧ OneCore s t m ∧
        (∃ u, (t.part part.val).run = some u ∧ sget 0 u.moved rec = line + 1) ∧
        (x.kind = 1 → inRect cfg.x0 cfg.y0 cfg.w cfg.h x.cluster = true →
          t.coreAt m = { (s.coreAt m).lineIn s.tick with chan := came (zeros 64) }) ∧
        (x.kind ≠ 1 ∨ inRect cfg.x0 cfg.y0 cfg.w cfg.h x.cluster = false → t.coreAt m = (s.coreAt m).lineIn s.tick)))

/-- HBM keeps its content under refresh and scrub: a corrected error is counted, a double-bit error recorded, and a
temperature reading kept (R272, R275 to R277). Descriptor DMA: a faulty descriptor ends at once with BAD_ARG, another becomes
the transfer in progress; a transfer moves its bytes within its partition's granules, counts one violation if it reaches
beyond them, and writes its descriptor back: OK, or FAULTED after a host-side error or a double-bit error (R210, R211, R276,
R289).
The model's own readings it rests on: notes/assumptions 86. -/
def Obligations.HbmAndDma : Prop :=
  ∀ (m : Stack) (line celsius k : Nat) (die : Die) (fn : Fn) (desc source : Bytes) (singles : List Nat) (j : DmaJob) (s : State),
    let w := s.window die.val fn.val
    let cfg := (s.part fn.val).cfg
    let at' (i : BitVec 16) := 18446744073709551616 * die.val + (w.dma.base.toNat + 64 * (i.toNat % 2 ^ w.dma.sizeLog2.toNat) + 0x38)
    let written (t : State) (i : BitVec 16) (status : Nat) : Prop :=
      mread t.hostMem (at' i + 4) = BitVec.ofNat 8 status ∧ mread t.hostMem (at' i + 5) = 1#8
    let ended (t : State) : Prop := OneWindow s t die.val fn.val ∧
      t.window die.val fn.val = { w with dma := { w.dma with done := w.dma.done + 1, job := none } } ∧
      (∀ a, granuleOf a ∉ cfg.granules → mread t.hbm a = mread s.hbm a) ∧ (j.kind = 2 → t.hbm = s.hbm) ∧
      (∀ n, n ≠ fn.val → sget 0#64 t.violCounts n = sget 0#64 s.violCounts n) ∧
      sget 0#64 t.violCounts fn.val =
        (if j.violates (s.part fn.val) then countViol 2 1 (sget 0#64 s.violCounts fn.val) else sget 0#64 s.violCounts fn.val)
    exec (.hbmRefresh m) s = .next s ∧
    (s.supply = .up → ∃ t, exec (.hbmTempRead m celsius) s = .next t ∧ t = { s with hbmStacks := t.hbmStacks } ∧
      t.stack m.val = { s.stack m.val with celsius := celsius } ∧ ∀ k, k ≠ m.val → t.stack k = s.stack k) ∧
    (s.supply = .up → line < 0xC0000000 → exec (.hbmScrub line .clean false) s = .next s ∧
      (∃ t, exec (.hbmScrub line .single false) s = .next t ∧
        t = { s with hbmStacks := t.hbmStacks, faults := t.faults, faultSeq := t.faultSeq, faultsLost := t.faultsLost } ∧
        (t.stack (granuleStack (granuleOf (64 * line)))).corrected = (s.stack (granuleStack (granuleOf (64 * line)))).corrected + 1 ∧
        ((s.stack (granuleStack (granuleOf (64 * line)))).logAt = 0 → ∃ r ∈ t.faults, r.code = 0x0103#16)) ∧
      (∃ t, exec (.hbmScrub line .double false) s = .next t ∧
        t = { s with faults := t.faults, faultSeq := t.faultSeq, faultsLost := t.faultsLost } ∧ ∃ r ∈ t.faults, r.code = 0x0104#16)) ∧
    (s.inE0 = true → s.isOpen die.val fn.val = true → w.dma.enable = true → w.dma.job = none → w.dma.head ≠ w.dma.tail →
      (dmaBad desc = true → ∃ t, exec (.dmaDescriptorFetch die fn desc) s = .next t ∧
        t = { s with windows := t.windows, hostMem := t.hostMem } ∧ OneWindow s t die.val fn.val ∧
        t.window die.val fn.val = { w with dma := { w.dma with head := w.dma.head + 1, done := w.dma.done + 1 } } ∧
        written t w.dma.head stBadArg ∧
        ∀ a, (a < at' w.dma.head ∨ at' w.dma.head + 8 ≤ a) → mread t.hostMem a = mread s.hostMem a) ∧
      (dmaBad desc = false →
        let j : Option DmaJob := some ⟨w.dma.head, BitVec.ofNat 32 (field desc 0 4), field desc 4 1, field desc 8 4, field desc 0x10 8, field desc 0x18 8⟩
        ∃ t, exec (.dmaDescriptorFetch die fn desc) s = .next t ∧ WindowsOnly s t ∧ OneWindow s t die.val fn.val ∧
        t.window die.val fn.val = { w with dma := { w.dma with head := w.dma.head + 1, job := j } })) ∧
    (s.inE0 = true → w.dma.job = some j →
      (∃ t, exec (.dmaTransferComplete die fn source ⟨.done, singles⟩) s = .next t ∧
        t = { s with hbm := t.hbm, hostMem := t.hostMem, windows := t.windows, violCounts := t.violCounts, hbmStacks := t.hbmStacks
                     faults := t.faults, faultSeq := t.faultSeq, faultsLost := t.faultsLost } ∧ ended t ∧ written t j.index stOk ∧
        ((singles = [] ∨ j.kind = 1) → t.hbmStacks = s.hbmStacks ∧ t.faults = s.faults) ∧
        (j.kind = 1 → cfg.granules.Nodup → ∀ i a, i < j.length → cfg.ea (j.dst + i) = some a → (s.part fn.val).inImage (j.dst + i) 1 = false →
          mread t.hbm a = source.getD i 0#8) ∧
        (j.kind = 2 → ∀ i, i < j.length →
          let b := 18446744073709551616 * die.val + j.dst + i
          (b < at' j.index ∨ at' j.index + 8 ≤ b) → mread t.hostMem b = (s.relRead cfg j.src j.length).getD i 0#8)) ∧
      (j.kind ≠ 3 → ∃ t, exec (.dmaTransferComplete die fn source ⟨.hostError k, []⟩) s = .next t ∧
        t = { s with hbm := t.hbm, hostMem := t.hostMem, windows := t.windows, violCounts := t.violCounts } ∧ ended t ∧
        written t j.index stFaulted) ∧
      (j.kind ≠ 1 → ∀ a, cfg.ea (j.src + Nat.min k j.length / 64 * 64) = some a →
        ∃ t, exec (.dmaTransferComplete die fn source ⟨.hbmDouble k, []⟩) s = .next t ∧
        t = { s with hbm := t.hbm, hostMem := t.hostMem, windows := t.windows, violCounts := t.violCounts
                     faults := t.faults, faultSeq := t.faultSeq, faultsLost := t.faultsLost } ∧ ended t ∧
        written t j.index stFaulted ∧ ∃ r ∈ t.faults, r.code = 0x0104#16))

/-! ## Links -/

/-- A port comes up with its partner's identity, the delay of its round trip and the offset, the cells no ACK has covered to be
sent again and every group on it asking to join: the first time since boot it asks for a full retime, later it resumes fast or
asks too; it goes down with its positions and every group unjoined on it; SYNC keeps the offset, asks for a full retime
beyond G, and ends the joined state when the partner has left E0; a cycle starts every 36 ticks with SYNC and ACK in turn, JOIN in
place of SYNC (R297, R299, R301, R302, R307, R309, R318).
A full retime waits for the runs of joined groups; it takes the best engine of the domain as master and the latest ET, forward
only and with retimed on every request, counts, sets the delays and the upstream port, answers every LINK.RETIME and is
recorded (R306, R310, R311, R324).
The model's own readings it rests on: notes/assumptions 46, 50, 115, 117. -/
def Obligations.LinkPorts : Prop :=
  (∀ (ld : LDie) (port : Fin 3) (train : PortTrain) (cell : SyncCell) (s : State), s.linksOn = true →
     let o := s.port ld.val port.val
     let theta0 := s.theta train.sync.et (delayOf train.roundTrip)
     let unjoined (t : State) : Prop :=
       ∀ p, ∀ g ∈ (t.part p).groups, ∀ e ∈ g.2.ports, e.die = ld.val → e.port = port.val → e.joined = false
     exec (.idle ld port) s = .next s ∧
     (port.val < (s.link ld.val).portCount → o.up = false → ∃ t, exec (.portUp ld port train) s = .next t ∧
       t = { s with links := t.links, parts := t.parts, retimeWanted := t.retimeWanted, fastResumes := t.fastResumes } ∧
       (let u := t.port ld.val port.val;
         u.up = true ∧ u.everUp = true ∧ u.partnerSerial = train.partnerSerial ∧ u.delay = delayOf train.roundTrip ∧ u.offset = theta0 ∧
         u.nextSeq = BitVec.ofNat 16 o.sent.length ∧ u.sent = renumber o.sent ∧ (∀ z ∈ u.sent, z.again = true) ∧
         ∀ p, p < 16 → ∀ g ∈ (s.part p).groups, (g.2.entryOn ld.val port.val).isSome = true →
           (Fin.ofNat 16 p, Fin.ofNat 8 g.1) ∈ u.joins) ∧
       (o.everUp = false ∨ s.guardG < theta0.toInt.natAbs → t.retimeWanted = true ∧ t.fastResumes = s.fastResumes) ∧
       (o.everUp = true → theta0.toInt.natAbs ≤ s.guardG → t.fastResumes = s.fastResumes + 1 ∧ t.retimeWanted = s.retimeWanted) ∧
       (if train.sync.inE0 then t.parts = s.parts else unjoined t)) ∧
     (o.up = true → ∃ t, exec (.portDown ld port) s = .next t ∧
       t.port ld.val port.val = { o with up := false, upstream := false, owned := [], joins := [], used := [] } ∧
       (∃ r ∈ t.faults, r.code = 0x0501#16) ∧ unjoined t ∧
       t = { s with links := t.links, parts := t.parts, freeCount := t.freeCount, faults := t.faults, faultSeq := t.faultSeq
                    faultsLost := t.faultsLost } ∧
       (o.upstream = false → OneLink s t ld.val ∧ t.freeCount = s.freeCount)) ∧
     (o.up = true → ∃ t, exec (.sync ld port cell) s = .next t ∧
       t = { s with links := t.links, parts := t.parts, retimeWanted := t.retimeWanted } ∧ OneLink s t ld.val ∧
       t.port ld.val port.val = { o with offset := s.theta cell.et o.delay, partner := some cell, lastSync := s.et } ∧
       t.retimeWanted = (s.retimeWanted || decide (s.guardG < (s.theta cell.et o.delay).toInt.natAbs)) ∧
       (if cell.inE0 then t.parts = s.parts else unjoined t)) ∧
     (o.up = true → s.onEdge = true → s.tick % 36 = 0 → ∃ t, exec (.glpCycleStart ld port) s = .next t ∧
       t = { s with links := t.links, parts := t.parts, freeCount := t.freeCount } ∧ OneLink s t ld.val ∧
       (t.port ld.val port.val).cycles = o.cycles + 1 ∧ (t.port ld.val port.val).used = [0] ∧
       (t.port ld.val port.val).nextSeq = o.nextSeq ∧
       (o.cycles % 2 = 1 → (t.port ld.val port.val).control = 0x11#8 ∧ t.parts = s.parts) ∧
       (o.cycles % 2 = 0 → o.joins = [] → (t.port ld.val port.val).control = 0x10#8 ∧ t.parts = s.parts) ∧
       (∀ p g rest grp, o.cycles % 2 = 0 → o.joins = (p, g) :: rest → sfind? (s.part p.val).groups g.val = some grp →
         (t.port ld.val port.val).control = 0x13#8 ∧ OnePart s t p.val)) ∧
     (o.up = true → ∃ t, exec (.cellDiscard ld port) s = .next t ∧ LinksOnly s t ∧ OneLink s t ld.val ∧
       t.port ld.val port.val = { o with discarded := o.discarded + 1 })) ∧
  (∀ (f : Retime) (s : State), s.linksOn = true → s.onEdge = true → s.etClock = .tclk →
     ((s.groupsQuiet = false ∨ s.retimes f = false) → exec (.fullRetime f) s = .next s) ∧
     (s.groupsQuiet = true → s.retimes f = true → ∃ t, exec (.fullRetime f) s = .next t ∧
       s.tick ≤ t.tick ∧ (∀ x ∈ f.peers, x.et.toNat ≤ t.tick) ∧ (t.et = s.et ∨ ∃ x ∈ f.peers, t.et = x.et) ∧
       (s.tick < t.tick → (∀ p, ∀ x ∈ (t.part p).queue, x.flags.retimed = true) ∧
         ∀ h f, ∀ x ∈ (t.window h f).compl, x.flags.retimed = true) ∧
       (∃ m ∈ s.self :: f.peers, t.masterSerial = m.serial ∧ t.timeMaster = (m.serial == s.fuses.serial) ∧
         ∀ x ∈ s.self :: f.peers, x.timePri.toNat ≤ m.timePri.toNat ∧ (x.timePri = m.timePri → m.serial.toNat ≤ x.serial.toNat)) ∧
       (∀ x ∈ f.ports, let u := t.port x.die.val x.port.val
         u.delay = delayOf x.roundTrip ∧ u.offset.toInt.natAbs ≤ 1 ∧ u.upstream = (!t.timeMaster && nearest f == some x)) ∧
       t.fullRetimes = s.fullRetimes + 1 ∧ t.retimeWanted = false ∧ (∀ l ∈ t.longs, l.code ≠ 0x81#8) ∧
       (∃ r ∈ t.faults, r.code = 0x0502#16) ∧ t.cores = s.cores ∧ t.spad = s.spad ∧ t.hbm = s.hbm ∧ t.fuses = s.fuses))

/-- Data cells: one received in order is held once, a repeat is not, but marks the run that its scheduled cell belongs to; an
ACK drops what it covers and marks what its NAK list names; an unacknowledged cell is marked after 4 cycles; and a position
carries the cell picked for it, with flags bit 0 in one sent again, or IDLE (R301, R302, R304, R314, R325).
The model's own readings it rests on: notes/assumptions 47, 48, 49. -/
def Obligations.LinkCells : Prop :=
  ∀ (ld : LDie) (port : Fin 3) (cell : Cell) (high seq : BitVec 16) (naks : List (BitVec 16)) (free : List Nat) (k : Nat)
      (x : OutCell) (y : SentCell) (s : State), s.portUp ld.val port.val = true →
    let o := s.port ld.val port.val
    (cell.seq = o.expected → o.ahead = [] → cell.retrans = false →
      (∃ t, exec (.dataS ld port cell) s = .next t ∧ LinksOnly s t ∧ OneLink s t ld.val ∧
        (t.port ld.val port.val).held = o.held ++ [{ cell := cell, bulk := false }] ∧ (t.port ld.val port.val).high = some cell.seq) ∧
      (∃ t, exec (.dataB ld port cell) s = .next t ∧ LinksOnly s t ∧ OneLink s t ld.val ∧
        (t.port ld.val port.val).held = o.held ++ [{ cell := cell, bulk := true }] ∧ (t.port ld.val port.val).high = some cell.seq)) ∧
    (32768 ≤ (cell.seq - o.expected).toNat →
      (cell.retrans = false → ∃ t, exec (.dataS ld port cell) s = .next t ∧ LinksOnly s t ∧ OneLink s t ld.val ∧ t.port ld.val port.val = o) ∧
      (∃ t, exec (.dataB ld port cell) s = .next t ∧ LinksOnly s t ∧ OneLink s t ld.val ∧ t.port ld.val port.val = o)) ∧
    (cell.retrans = true → ∃ t, exec (.dataS ld port cell) s = .next t ∧ t = { s with links := t.links, parts := t.parts } ∧
      OneLink s t ld.val ∧ ∀ p run r, p < 16 → (s.part p).run = some run → (s.part p).req? run.req = some r → r.tag = cell.tag →
        (∃ g ∈ (s.part p).groups, g.2.takes o p ld.val port.val { cell := cell, bulk := false } = true) →
        (t.part p).run = some { run with flags := { run.flags with linkRetry := true } }) ∧
    (∃ t, exec (.ack ld port high naks free) s = .next t ∧ LinksOnly s t ∧ OneLink s t ld.val ∧
      t.port ld.val port.val = { o with free := free, sent := (t.port ld.val port.val).sent } ∧
      (∀ z ∈ (t.port ld.val port.val).sent, (naks.contains z.cell.seq = true → z.again = true) ∧
        (naks.contains z.cell.seq = false → covered high z.cell.seq = false ∧ z ∈ o.sent)) ∧
      ∀ z ∈ o.sent, covered high z.cell.seq = false → naks.contains z.cell.seq = false → z ∈ (t.port ld.val port.val).sent) ∧
    (∃ t, exec (.retransmitTimeout ld port seq) s = .next t ∧ LinksOnly s t ∧ OneLink s t ld.val ∧
      t.port ld.val port.val = { o with sent := (t.port ld.val port.val).sent } ∧
      (t.port ld.val port.val).sent.length = o.sent.length ∧
      ∀ z ∈ (t.port ld.val port.val).sent, z.cell.seq = seq → 4 ≤ z.age → z.again = true) ∧
    (s.atPosition ld.val port.val k = true →
      (o.pick k s.now s.guardG = none → ∃ t, exec (.linkCellSend ld port k) s = .next t ∧ LinksOnly s t ∧ OneLink s t ld.val ∧
        t.port ld.val port.val = { o with used := o.used ++ [k], tx := cellBytes 0x14 0 k 0xFF 0 0 0 0 s.et 0 (zeros 256) }) ∧
      (o.pick k s.now s.guardG = some (.again y) → ∃ t, exec (.linkCellSend ld port k) s = .next t ∧
        t = { s with links := t.links, parts := t.parts } ∧ OneLink s t ld.val ∧ (t.port ld.val port.val).retx = satAdd o.retx 1 ∧
        (t.port ld.val port.val).nextSeq = o.nextSeq ∧
        (t.port ld.val port.val).tx = dataBytes { y.cell with retrans := true, position := k, et := s.et } y.bulk k s.et ∧
        ∀ z ∈ (t.port ld.val port.val).sent, z.cell.seq = y.cell.seq → z.again = false) ∧
      (o.pick k s.now s.guardG = some (.new x) →
        (∀ u, (s.part x.cell.part.val).run = some u → u.stop = none ∨ ∃ n ∈ s.partCores x.cell.part.val, (s.coreAt n).halted = false) →
        ∃ t, exec (.linkCellSend ld port k) s = .next t ∧
        t = { s with links := t.links, parts := t.parts, clusters := t.clusters } ∧ OneLink s t ld.val ∧ OnePart s t x.cell.part.val ∧
        (t.port ld.val port.val).nextSeq = o.nextSeq + 1 ∧ (t.port ld.val port.val).outQ = o.outQ.erase x ∧
        (t.port ld.val port.val).sent =
          o.sent ++ [{ cell := { x.cell with position := k, seq := o.nextSeq, et := s.et }, bulk := x.bulk }] ∧
        (t.port ld.val port.val).tx = dataBytes { x.cell with position := k, seq := o.nextSeq, et := s.et } x.bulk k s.et))

/-- Link records: a local line is read through port 3 into the record's cell, and the fourth of a SEND hands the cell to its
port; a held cell goes on in its turn, a RECEIVE into its core as four lines (R313, R314, R316). A JOIN that matches a group
takes up the agreed positions and joins it on the port, if the rates of both ends fit; one that matches none changes
nothing; an entry that is joined already answers a second JOIN (R301, R303, R318).
The model's own readings it rests on: notes/assumptions 36, 49, 106, 115, 116. -/
def Obligations.LinkRecords : Prop :=
  ∀ (part : Part) (group : Fin 8) (rec : Nat) (run : Run) (grp : Group) (r : LinkRec) (x : LinkProg) (c : RxCell) (ld : LDie) (port : Fin 3)
      (e : GroupPort) (j : JoinCell) (s : State),
    let p := part.val
    let g := group.val
    let n := s.lcore r.cluster r.core
    let a := r.spadOf x.cell x.lines.length
    (s.linkRec p g rec = some (run, grp, r, x) → s.clocked r.cluster = true → s.linkDue p g rec grp run r = true →
      addrBank a = s.bank3 → s.linkRoom r.cluster r.core r.die = true → s.wordTakes3 r.cluster r.core = false →
      s.forcedRead r.cluster r.core = none →
      s.served3 r.cluster r.core (run.cellAt r x.cell + x.lines.length) (64 + r.die) = true →
      ∃ t u, exec (.linkLineRead part group rec .clean) s = .next t ∧
        t = { s with cores := t.cores, parts := t.parts, links := t.links, leases := t.leases, clusters := t.clusters } ∧ OneCore s t n ∧
        OnePart s t p ∧ OneCluster s t r.cluster ∧
        t.coreAt n = { (s.coreAt n).lineIn s.tick with port3 := some s.now } ∧ (t.part p).run = some u ∧
        (let z := sget {} u.links (4096 * g + rec)
         (r.op ≠ 1 ∨ x.lines.length ≠ 3 → z.cell = x.cell ∧ z.lines = x.lines ++ [(x.lines.length, s.spadRead n (a / 64 * 64) 64)]) ∧
         (r.op = 1 → x.lines.length = 3 → z.cell = x.cell + 1 ∧ z.lines = [] ∧ z.queued = x.queued + 1 ∧
           (t.port r.die r.outPort).outQ.length = (s.port r.die r.outPort).outQ.length + 1)) ∧
        (r.adds = true → x.lines = [] → (t.ctx r.die ((s.part p).context r)).busy = true)) ∧
    (s.linkRec p g rec = some (run, grp, r, x) → s.clocked r.cluster = true → r.layer = run.layer → grp.joined = true →
      (s.part p).names grp run.entry = true → run.layerEnd = none → (r.op = 2 ∨ r.op = 3 ∨ r.op = 4 ∨ r.op = 5) → x.cell < r.count →
      run.cellAt r x.cell ≤ s.now → (r.adds = true → x.lines.length = 4) → s.incoming p grp run r x.cell = some c →
      (run.stop = none ∨ ∃ n ∈ s.partCores p, (s.coreAt n).halted = false) →
      ∃ t u, exec (.linkCellRelease part group rec) s = .next t ∧
        t = { s with cores := t.cores, parts := t.parts, links := t.links, leases := t.leases, clusters := t.clusters } ∧ OneCore s t n ∧
        OnePart s t p ∧ (t.port r.die r.inPort).held = (s.port r.die r.inPort).held.erase c ∧ (t.part p).run = some u ∧
        (sget {} u.links (4096 * g + rec)).cell = x.cell + 1 ∧ (sget {} u.links (4096 * g + rec)).lines = [] ∧
        (r.op = 2 → ∀ i, i < 4 → ∃ l ∈ (t.coreAt n).chan, l.addr = BitVec.ofNat 18 (r.spadOf x.cell i) ∧ l.eligible = s.now ∧
          l.data = slice (padTo 256 c.cell.payload) (64 * i) 64) ∧
        (r.op = 3 → t.cores = s.cores) ∧
        (r.adds = true → (t.ctx r.die ((s.part p).context r)).busy = false)) ∧
    (s.portUp ld.val port.val = true →
      (∀ q, q < 16 → ∀ y ∈ (s.part q).groups, ∀ e, y.2.entryOn ld.val port.val = some e →
        ¬ (y.2.token = j.token ∧ y.2.members = j.members ∧ e.partner = j.position)) → exec (.join ld port j) s = .next s) ∧
    (s.portUp ld.val port.val = true → (∀ q, q < 16 → q ≠ p → (s.part q).groups = []) → (s.part p).groups = [(g, grp)] →
      grp.entryOn ld.val port.val = some e → grp.token = j.token → grp.members = j.members → e.partner = j.position →
      let l := s.agree ld.val port.val p j
      ∃ t, exec (.join ld port j) s = .next t ∧ t = { s with links := t.links, parts := t.parts } ∧ OneLink s t ld.val ∧ OnePart s t p ∧
        sget [] (t.port ld.val port.val).owned p = l ∧
        (t.part p).groups = [(g, { grp with ports := grp.ports.map fun y =>
          if y.die = ld.val ∧ y.port = port.val then
            { y with joined := y.joined || (j.fits && grp.ratesFit ld.val port.val l.length), theirs := j.group, heard := y.heard + 1 }
          else y })] ∧
        (e.joined = true → 1 ≤ e.heard → (part, group) ∈ (t.port ld.val port.val).joins) ∧
        (e.joined = false → (t.port ld.val port.val).joins = (s.port ld.val port.val).joins))

/-! ## Power -/

/-- A cluster that has entered its state is there, C2 with its cores at reset, C3 with its scratchpads zero as well, or goes
on to the wake latched meanwhile, and frames that waited in C2 or C3 get NO_TARGET; an exit leaves it in the state asked for,
out of C2 with its cores at reset but for the resident loads, out of C3 with its scratchpads zero, and in C0 with nothing to
run it goes to C1 again. A thermal reading is kept, trimmed; 115 °C trips the cluster into C3, and below 95 °C a tripped one
is released; THERM_ALERT_N asserts at 105 °C until every reading is below 100 °C (R331, R332, R344, R345, R351, R416).
The model's own readings it rests on: notes/assumptions 62, 94, 123. -/
def Obligations.ClusterStates : Prop :=
  ∀ (cl : Cl) (aim w : CState) (raw0 raw1 : Nat) (s : State), s.supply = .up → s.canonical = true →
    let c := cl.val
    let k := s.cluster c
    let inside (a : Nat) : Prop := 262144 * 272 * c ≤ a ∧ a < 262144 * 272 * (c + 1)
    let t0 := s.trimmed c 0 raw0
    let t1 := s.trimmed c 1 raw1
    let calm := s.cal = none ∧ ∀ p, s.partOf c = some p →
      (s.part p).recovering = false ∧ (s.part p).resetWait = none ∧ (s.part p).park ≠ .parked ∧ (s.part p).park ≠ .parking
    let idle (p : Nat) : Prop := (s.part p).run = none ∧ ∀ x ∈ (s.part p).queue, x.waits = false
    (k.trans = some (.enter aim none) → ∃ t, exec (.clusterEntryComplete cl) s = .next t ∧ (t.cluster c).power = aim ∧
      (calm → t = { s with cores := t.cores, spad := t.spad, clusters := t.clusters, noTargets := t.noTargets } ∧ OneCluster s t c ∧
        t.cluster c = { k with power := aim, trans := none, rowWait := if aim.depth ≤ 1 then k.rowWait else [] } ∧
        (aim.depth ≤ 1 ∨ k.rowWait = [] → t.noTargets = s.noTargets) ∧
        (aim.depth ≤ 1 → t.cores = s.cores) ∧ (aim.depth ≤ 2 → t.spad = s.spad) ∧
        (2 ≤ aim.depth → (∀ n, n / 272 = c → t.coreAt n = { fence := (s.coreAt n).fence }) ∧
          ∀ n, n / 272 ≠ c → t.coreAt n = s.coreAt n) ∧
        (aim = .c3 → (∀ a, inside a → mread t.spad a = 0#8) ∧ ∀ a, ¬ inside a → mread t.spad a = mread s.spad a))) ∧
    (k.trans = some (.enter aim (some w)) → calm → k.mayWake = true → w.depth < aim.depth →
      ∃ t, exec (.clusterEntryComplete cl) s = .next t ∧ (t.cluster c).power = aim ∧ (t.cluster c).trans = some (.exit w)) ∧
    (k.trans = some (.exit aim) → ∃ t, exec (.clusterExitComplete cl) s = .next t ∧ (t.cluster c).power = aim ∧
      (calm → k.rowWait = [] →
        t = { s with cores := t.cores, spad := t.spad, clusters := t.clusters, parts := t.parts } ∧
        (k.power.depth ≤ 1 → t.cores = s.cores ∧ t.spad = s.spad) ∧
        (2 ≤ k.power.depth → (∀ n, n / 272 = c → t.coreAt n = { fence := (s.coreAt n).fence, slots := (t.coreAt n).slots }) ∧
          ∀ n, n / 272 ≠ c → t.coreAt n = s.coreAt n) ∧
        (k.power = .c3 → (∀ a, inside a → mread t.spad a = 0#8) ∧ ∀ a, ¬ inside a → mread t.spad a = mread s.spad a) ∧
        (aim ≠ .c0 ∨ (∀ p, s.partOf c = some p → (s.part p).run.isSome = true) →
          OneCluster s t c ∧ t.cluster c = { k with power := aim, trans := none }) ∧
        (aim = .c0 → ∀ p, s.partOf c = some p → idle p → (t.cluster c).trans = some (.enter .c1 none)))) ∧
    (k.tripped = false → t0 < 460 → t1 < 460 → ∃ t, exec (.thermalSensorRead cl raw0 raw1) s = .next t ∧
      t = { s with clusters := t.clusters, therm := t.therm } ∧ OneCluster s t c ∧ t.cluster c = { k with t0 := t0, t1 := t1 } ∧
      t.therm = (decide (420 ≤ Nat.max t0 t1) || (s.therm && decide (400 ≤ t.hottest)))) ∧
    (k.tripped = false → 460 ≤ Nat.max t0 t1 → ∃ t, exec (.thermalSensorRead cl raw0 raw1) s = .next t ∧ (t.cluster c).tripped = true ∧
      (t.cluster c).goesDown .c3 ∧ t.therm = true ∧ ∃ r ∈ t.faults, r.code = 0x0410#16 ∧ r.detail = BitVec.ofNat 64 (Nat.max t0 t1 / 4)) ∧
    (k.tripped = true → ∃ t, exec (.thermalSensorRead cl raw0 raw1) s = .next t ∧
      (t.cluster c).tripped = decide (380 ≤ Nat.max t0 t1) ∧ (t.cluster c).t0 = t0 ∧ (t.cluster c).t1 = t1)

/-- The breath allowance rises by 64 up to f_max above the cap or with a hot partition, falls by 16 with margin on both, and
else stays; an excess with the allowance at f_max is timed; regulator readings are kept and a new fault bit is recorded; a
voltage write without its report is written once more, then holds its zone in C3; 100 ms above the cap is recorded once (R347,
R348, R349, R352, R357).
The model's own readings it rests on: notes/assumptions 4, 31, 63, 64. -/
def Obligations.PowerManagement : Prop :=
  ∀ (watt : Nat) (zone : Fin 48) (ma : Nat) (addr : BitVec 7) (page : BitVec 2) (st : BitVec 16) (v i p from' n : Nat) (s : State), s.supply = .up →
    let hot := ∃ q, q < 16 ∧ s.exists q = true ∧ ∃ c ∈ s.partClusters q, 4 * s.policy.tBreath ≤ (s.cluster c).hotter
    let margin := s.hottest + 20 ≤ 4 * s.policy.tBreath ∧ 100 * watt ≤ 95 * s.policy.capW
    (∃ t, exec (.breathAllowanceUpdate watt) s = .next t ∧
      t = { s with powerW := watt, overCap := decide (s.policy.capW < watt), allowance := t.allowance, windows := t.windows
                   overSince := t.overSince, overLogged := t.overLogged } ∧ Queued s t ∧
      (hot ∨ s.policy.capW < watt → t.allowance = Nat.min s.policy.fMax (s.allowance + 64)) ∧
      (¬ hot → watt ≤ s.policy.capW → margin → t.allowance = s.allowance - 16) ∧
      (¬ hot → watt ≤ s.policy.capW → ¬ margin → t.allowance = s.allowance) ∧
      (t.allowance = s.allowance → t.windows = s.windows) ∧
      (s.policy.capW < watt → t.allowance = s.policy.fMax → t.overSince = some (s.overSince.getD s.now) ∧ t.overLogged = s.overLogged) ∧
      (watt ≤ s.policy.capW ∨ t.allowance ≠ s.policy.fMax → t.overSince = none ∧ t.overLogged = false)) ∧
    (∃ t, exec (.avsCurrentRead zone ma) s = .next t ∧ t = { s with zones := t.zones } ∧
      t.zone zone.val = { s.zone zone.val with milliAmps := ma } ∧ ∀ z, z ≠ zone.val → t.zone z = s.zone z) ∧
    ((s.estate = .e0 ∨ s.estate = .e1) → pmbusKnown addr.toNat page.toNat = true →
      let old := sget {} s.regulators (4 * addr.toNat + page.toNat)
      ∃ t, exec (.pmbusStatusPoll addr page st v i p) s = .next t ∧
        t = { s with regulators := t.regulators, faults := t.faults, faultSeq := t.faultSeq, faultsLost := t.faultsLost } ∧
        sget {} t.regulators (4 * addr.toNat + page.toNat) =
          (if addr.toNat < 0x50 then { old with status := st } else { old with status := st, vout := v, iout := i, pout := p }) ∧
        (∀ k, k ≠ 4 * addr.toNat + page.toNat → sget {} t.regulators k = sget {} s.regulators k) ∧
        (statusFault (st &&& ~~~old.status) = true → ∃ r ∈ t.faults, r.code = 0x0412#16) ∧
        (statusFault (st &&& ~~~old.status) = false → t.faults = s.faults)) ∧
    ((s.zone zone.val).await = some (from', n) →
      (s.now < from' + 1000000 → exec (.voltageAckTimeout zone) s = .next s) ∧
      (from' + 1000000 ≤ s.now → n ≤ 1 → ∃ t, exec (.voltageAckTimeout zone) s = .next t ∧ t = { s with zones := t.zones } ∧
        (t.zone zone.val).await = some (s.now, 2) ∧ ∀ z, z ≠ zone.val → t.zone z = s.zone z) ∧
      (from' + 1000000 ≤ s.now → 2 ≤ n → ∃ t, exec (.voltageAckTimeout zone) s = .next t ∧ (t.zone zone.val).held = true ∧
        (∀ c, c < 1200 → clField c = zone.val → (t.cluster c).zoneHeld = true ∧ (t.cluster c).goesDown .c3) ∧
        ∃ r ∈ t.faults, r.code = 0x0411#16)) ∧
    (s.overSince = some from' → from' + 100000000 ≤ s.now →
      (s.overLogged = false → ∃ t, exec .powerCapAlarm s = .next t ∧
        t = { s with overLogged := true, faults := t.faults, faultSeq := t.faultSeq, faultsLost := t.faultsLost } ∧
        ∃ r ∈ t.faults, r.code = 0x0413#16) ∧
      (s.overLogged = true → exec .powerCapAlarm s = .next s))

/-! ## Engine states -/

/-- The brace: an asserted PFW_N takes E0 to E1, every long command but ENGINE.RESUME ends and every group leaves the joined
state; in E1 it stops an exit, in the exit from E2 it goes back to E2, elsewhere only its level changes. A deassertion before
the commit point returns to E0, one after it leaves the brace alone; stopped runs end after 2.5 ms, the commit point comes
no sooner than 3 ms and takes the clusters to C2 or C3, finishing runs end after 6 ms; a complete brace marks every partition,
and leaves E1 at once when PFW_N is quiet, or for E2 when BRACE_HOLD is over already (R240, R318, R360, R363 to R367, R370,
R371, R373, R374).
The model's own readings it rests on: notes/assumptions 4, 89, 90, 126. -/
def Obligations.BracePath : Prop :=
  ∀ (b : Brace) (s : State),
    let held := s.quiet = false ∧ b.time + msCclk s.policy.braceHold ≤ s.now ∧ s.handover = true ∧ s.supply = .up
    (s.pfw = false → s.supply = .up → s.estate = .e0 → ∃ t, exec .pfwNAssert s = .next t ∧ t.pfw = true ∧ t.estate = .e1 ∧ t.stateEt = s.et ∧
      t.brace = some { time := s.now, et := s.et, abortable := s.mayAbort } ∧ (∀ l ∈ t.longs, l.code = 0x03#8) ∧
      ((s.cal = none ∨ ∃ l ∈ s.longs, l.code = 0x41#8) → t.cal = none) ∧
      ((s.fwJob = none ∨ ∃ l ∈ s.longs, l.code = 0x90#8 ∨ l.code = 0x91#8) → t.fwJob = none) ∧
      (∀ p, ∀ g ∈ (t.part p).groups, ∀ e ∈ g.2.ports, e.joined = false) ∧ t.et = s.et) ∧
    (s.pfw = false → s.supply = .up → s.estate = .e1 → s.brace = some b → b.exiting = true → ∃ t, exec .pfwNAssert s = .next t ∧
      t.pfw = true ∧ t.estate = .e1 ∧ t.brace = some { b with exiting := false } ∧ ∀ p, p < 16 → (s.part p).run = none →
        ∀ c ∈ s.partClusters p, (t.cluster c).goesDown (s.part p).bracedState) ∧
    (s.pfw = false → s.supply = .up → s.estate = .resuming → ∃ t, exec .pfwNAssert s = .next t ∧ t.pfw = true ∧ t.estate = .e2 ∧
      t.quietArmed = true ∧ ∃ r ∈ t.faults, r.code = 0x0405#16) ∧
    (s.pfw = false → (s.supply ≠ .up ∨ s.estate = .e2) → exec .pfwNAssert s = .next { s with pfw := true }) ∧
    (s.pfw = true → exec .pfwNAssert s = .next s) ∧ (s.pfw = false → exec .pfwNDeassert s = .next s) ∧
    (s.pfw = true → s.brace = some b → b.abortable = true → b.committed = false → s.now < b.time + 3000000 →
      ∃ t, exec .pfwNDeassert s = .next t ∧ t.pfw = false ∧ t.pfwHighSince = s.now ∧ t.estate = .e0 ∧ t.brace = none ∧ t.lastAbort = some s.now ∧
        (∃ r ∈ t.faults, r.code = 0x0402#16) ∧ (∃ r ∈ t.faults, r.code = 0x0407#16) ∧
        ∀ p run, p < 16 → (t.part p).run = some run → run.finishing = false) ∧
    (s.pfw = true → (∀ b, s.brace = some b → b.abortable = false ∨ b.committed = true ∨ b.time + 3000000 ≤ s.now) →
      exec .pfwNDeassert s = .next { s with pfw := false, pfwHighSince := s.now }) ∧
    (∃ t, exec .forcedQuiesceStop s = .next t ∧ t.brace = s.brace ∧ t.estate = s.estate ∧
      (∀ p run since, p < 16 → (s.part p).run = some run → (run.stop = some (.brace since) ∨ run.stop = some (.cal since)) →
        since + 2500000 ≤ s.now → (t.part p).run = none) ∧
      ((∀ p run, p < 16 → (s.part p).run = some run → run.stop = none) → t = s)) ∧
    (s.brace = some b → b.committed = false → b.time + 3000000 ≤ s.now → ∃ t, exec .commitPoint s = .next t ∧
      t.brace = some { b with committed := true } ∧ t.estate = s.estate ∧ (∃ r ∈ t.faults, r.code = 0x0403#16) ∧
      ∀ p, p < 16 → (s.part p).run = none → ∀ c ∈ s.partClusters p, (t.cluster c).goesDown (s.part p).bracedState) ∧
    (s.brace = some b → s.now < b.time + 3000000 → exec .commitPoint s = .next s) ∧
    (s.brace = some b → b.time + 6000000 ≤ s.now → ∃ t, exec .finishingCutoff s = .next t ∧ t.estate = s.estate ∧
      ∀ p run, p < 16 → (s.part p).run = some run → run.finishing = true → (t.part p).run = none) ∧
    (s.brace = some b → s.now < b.time + 6000000 → exec .finishingCutoff s = .next s) ∧
    (s.brace = some b → s.estate = .e1 → b.committed = true → b.complete = false → b.exiting = false → s.braceDone = true →
      ∃ t, exec .braceComplete s = .next t ∧ (∃ r ∈ t.faults, r.code = 0x0404#16) ∧ (∀ p, p < 16 → s.exists p = true → (t.part p).braced = true) ∧
        (¬ held → t.estate = .e1 ∧ t.brace = some { b with complete := true, exiting := s.quiet }) ∧
        (held → s.aonWake = 0#4 → t.estate = .e2 ∧ t.brace = none ∧ t.quietArmed = true)) ∧
    (s.braceDone = false → exec .braceComplete s = .next s)

/-- The ways out of E1: quiet on PFW_N begins the exit of a complete brace, whose end is E0, and BRACE_HOLD takes E1 to E2 while
PFW_N is not quiet. In E2, quiet, the timer and a link partner start the exit, whose end is E0 with the reasons latched;
ENGINE.STANDBY enters E2 once it has drained; ENGINE.RESUME answers at once in E0 and wakes in the other states (R246, R247,
R294, R339 to R343, R368, R369, R371, R372).
The model's own readings it rests on: notes/assumptions 4, 65, 66, 89. -/
def Obligations.StandbyPath : Prop :=
  ∀ (b : Brace) (ld : LDie) (port : Fin 3) (die : Die) (fn : Fn) (slot : Fin 32) (s : State), s.supply = .up →
    let c := s.readCmd die.val fn.val slot.val
    (s.quiet = false → exec .resumeQuietExpiry s = .next s) ∧
    (s.quiet = true → s.estate = .e1 → s.brace = some b → b.complete = true → b.exiting = false → ∃ t, exec .resumeQuietExpiry s = .next t ∧
      t.brace = some { b with exiting := true } ∧ t.estate = .e1 ∧ (∃ r ∈ t.faults, r.code = 0x0406#16) ∧
      ∀ p, p < 16 → (s.part p).bound.isSome = true → ∀ c ∈ s.partClusters p, (s.cluster c).mayWake = true → (t.cluster c).comesUp) ∧
    (s.quiet = true → s.estate = .e2 → s.quietArmed = true → s.dump = none → ∃ t, exec .resumeQuietExpiry s = .next t ∧
      t.estate = .resuming ∧ t.aonWake = s.aonWake ||| 8#4) ∧
    (s.estate = .e1 → s.brace = some b → b.exiting = true → s.pfw = false → s.backInC1 = true → ∃ t, exec .e1ExitComplete s = .next t ∧
      t.estate = .e0 ∧ t.brace = none ∧ t.wakeReasons = 0#4 ∧ t.et = s.et ∧ ∃ r ∈ t.faults, r.code = 0x0407#16) ∧
    (s.backInC1 = false → exec .e1ExitComplete s = .next s) ∧
    (s.estate = .e1 → s.brace = some b → b.complete = true → b.exiting = false → b.time + msCclk s.policy.braceHold ≤ s.now → s.handover = true →
      s.quiet = false → ∃ t, exec .braceHoldExpiry s = .next t ∧ t.brace = none ∧ t.rails = s.rails.standby ∧ t.spad = [] ∧
        ((∀ h f, (s.window h f).dma.job = none) → t.hbm = s.hbm) ∧
        (∀ c, (t.cluster c).power = .c3) ∧ t.estate = .e2 ∧ t.quietArmed = true ∧ ∃ r ∈ t.faults, r.code = 0x0405#16) ∧
    ((s.handover = false ∨ s.quiet = true) → exec .braceHoldExpiry s = .next s) ∧
    (s.handover = false → exec .standbyEntry s = .next s) ∧
    (s.mayStandby = true → s.aonWake = 0#4 → ∃ t, exec .standbyEntry s = .next t ∧ t.estate = .e2 ∧ t.draining = false ∧
      t.rails = s.rails.standby ∧ t.longs = [] ∧ t.spad = [] ∧ t.flights = [] ∧ t.wakeEt = s.wakeEt ∧ ∀ c, (t.cluster c).power = .c3) ∧
    (s.estate = .resuming → s.sub = 0 → s.pfw = false → s.bootRest = none → ∃ t, exec .standbyExit s = .next t ∧ t.estate = .e0 ∧
      t.rails = Rails.up ∧ t.etClock = .tclk ∧ t.et = s.et ∧ t.wakeReasons = s.aonWake ∧ t.aonWake = 0#4 ∧ ∀ l ∈ t.longs, l.code ≠ 0x03#8) ∧
    (s.estate ≠ .resuming → exec .standbyExit s = .next s) ∧
    ((s.estate = .e2 ∨ s.estate = .resuming) → s.wakeEt ≠ 0#64 → s.wakeEt.toNat ≤ s.tick → ∃ t, exec .wakeTimer s = .next t ∧ t.wakeEt = 0#64 ∧
      t.aonWake = s.aonWake ||| 2#4 ∧ (s.estate = .e2 → s.quiet = true → s.dump = none → t.estate = .resuming) ∧
      (s.quiet = false ∨ s.dump.isSome = true → t.estate = s.estate)) ∧
    (s.tick < s.wakeEt.toNat → exec .wakeTimer s = .next s) ∧
    ((s.estate = .e2 ∨ s.estate = .resuming) → port.val < (s.link ld.val).portCount → ∃ t, exec (.linkPartnerDetect ld port) s = .next t ∧
      t.aonWake = s.aonWake ||| 4#4 ∧ (s.estate = .e2 → s.quiet = true → s.dump = none → t.estate = .resuming) ∧
      (s.quiet = false ∨ s.dump.isSome = true → t.estate = s.estate)) ∧
    (s.offers die.val fn.val slot.val 0x03 0 = true → s.ruled = true → s.estate = .e0 → s.draining = false →
      ∃ t, exec (.engineResume die fn slot) s = .next t ∧
        Answered s t die.val fn.val slot.val [c.msg true stOk (zeros 8 ++ leBytes 8 s.stateEt)]) ∧
    (s.offers die.val fn.val slot.val 0x03 0 = true → s.ruled = true → s.longRoom fn.val = true → (s.estate = .e2 ∨ s.estate = .resuming) →
      (s.quiet = false → ∃ t, exec (.engineResume die fn slot) s = .next t ∧ Answered s t die.val fn.val slot.val [c.msg true stNotReady []]) ∧
      (s.quiet = true → s.dump = none → ∃ t, exec (.engineResume die fn slot) s = .next t ∧ t.estate = .resuming ∧
        t.aonWake = s.aonWake ||| 1#4 ∧ t.longs = s.longs ++ [c.long 0]))

/-! ## Faults and self-test -/

/-- Heartbeats go out in E0 and E1; the first one lost counts, the second in a row resets the Marionette, which comes back or
retires its cluster. A declared core is mapped out if its row has a usable spare, else its cluster retires. An
understudy's test ends with its pass kept, or with the understudy marked bad. A second missed check of the authority
hands it to H1 if that stands by.
The model's own readings it rests on: notes/assumptions 4, 38, 76, 78, 122, 126. -/
def Obligations.FaultRecovery : Prop :=
  ∀ (cl : Cl) (core : LCore) (row : Fin 16) (edge : Edge) (at' : Nat) (s : State), s.supply = .up →
    let c := cl.val
    let k := s.cluster c
    let n := s.lcore c core.val
    let r := coreRow n
    ((s.estate = .e0 ∨ s.estate = .e1) → ∃ t, exec .heartbeatSend s = .next t ∧ ClustersOnly s t ∧
      ∀ d, d < 1200 → t.cluster d = if (s.cluster d).retired || (s.cluster d).resetting then s.cluster d else { s.cluster d with beatAt := some s.now }) ∧
    (k.beatAt = some at' →
      (s.now < at' + 500000 → exec (.heartbeatTimeout cl) s = .next s) ∧
      (at' + 500000 ≤ s.now → k.missed = 0 → ∃ t, exec (.heartbeatTimeout cl) s = .next t ∧ ClustersOnly s t ∧ OneCluster s t c ∧
        t.cluster c = { k with beatAt := none, missed := 1 }) ∧
      (at' + 500000 ≤ s.now → k.missed = 1 → ∃ t, exec (.heartbeatTimeout cl) s = .next t ∧ (t.cluster c).resetting = true ∧
        (t.cluster c).missed = 0 ∧ (s.leasesOf c = [] → ∃ x ∈ t.faults, x.code = 0x0204#16))) ∧
    (k.resetting = true → ∃ t, exec (.marionetteResetDone cl true) s = .next t ∧ (t.cluster c).resetting = false ∧
      (t.cluster c).retired = k.retired ∧ (t.cluster c).fill = []) ∧
    (k.resetting = true → ∃ t, exec (.marionetteResetDone cl false) s = .next t ∧ (t.cluster c).resetting = false ∧
      (t.cluster c).retired = true) ∧
    (k.resetting = false → exec (.marionetteResetDone cl true) s = .next s) ∧
    (s.leasesOf (edgeHolder edge) = [] → exec (.edgeRequestTimeout edge) s = .next s) ∧
    (∀ kind i, kind < 6 → i < 65536 → s.leases = [(leaseKey kind i, s.lease kind i ^^^ 0x0FFF#16)] → (s.lease kind i).toNat % 4096 = edgeHolder edge →
      ∃ t, exec (.edgeRequestTimeout edge) s = .next t ∧ t.lease kind i = 0x0FFF#16 ∧ ∃ x ∈ t.faults, x.code = 0x0601#16) ∧
    (s.declared.contains n = true → ∃ t, exec (.fieldRepair cl core) s = .next t ∧ t.declared = s.declared.filter (fun x => x != n) ∧
      (k.retired = true → (t.cluster c).omitXor = k.omitXor) ∧
      (k.retired = false → k.usable r = true → (t.cluster c).omitCol r = coreCol n ∧ (t.cluster c).retired = false) ∧
      (k.retired = false → k.usable r = false → (t.cluster c).retired = true)) ∧
    (s.declared.contains n = false → exec (.fieldRepair cl core) s = .next s) ∧
    (s.mayTest c row.val = true → ∃ t, exec (.understudyTestStart cl row) s = .next t ∧ ClustersOnly s t ∧ OneCluster s t c ∧
      t.cluster c = { k with testRow := some row, testAt := s.now }) ∧
    (k.testRow = some row → ∃ t, exec (.understudyTestEnd cl row true) s = .next t ∧ ClustersOnly s t ∧ OneCluster s t c ∧
      t.cluster c = { k with testRow := none, lastFailed := k.lastFailed &&& ~~~BitVec.ofNat 16 (2 ^ row.val)
                             passEt := sput 0#64 row.val s.et k.passEt }) ∧
    (k.testRow = some row → k.retired = false → k.omitCol row.val = 8 → ∃ t, exec (.understudyTestEnd cl row false) s = .next t ∧
      (t.cluster c).testRow = none ∧ (t.cluster c).spareBad = k.spareBad ||| BitVec.ofNat 16 (2 ^ row.val) ∧ ∃ x ∈ t.faults, x.code = 0x0302#16) ∧
    (s.authority = false → s.authorityLost = false →
      (s.missesNow = 1 → exec .authorityCheckMiss s = .next { s with authorityMisses := 1, missAt := s.now }) ∧
      (2 ≤ s.missesNow → s.standbyOk = true → ∃ t, exec .authorityCheckMiss s = .next t ∧ t.authority = true ∧ t.standbyOk = false ∧
        t.longs = [] ∧ ∃ x ∈ t.faults, x.code = 0x0603#16) ∧
      (2 ≤ s.missesNow → s.standbyOk = false →
        exec .authorityCheckMiss s = .next { s with authorityMisses := s.missesNow, missAt := s.now, authorityLost := true }))

/-! ## Reset, boot and the module -/

/-- RESET_N, the loss of REFCLK, EXTEST and the loss of 48 V put the engine into reset with nothing completed, and a firmware
job in progress cut off; it boots when the last of them has gone (R400, R401, R403, R423, R428, R433). While RESET_N is held,
EXTEST drives a flash device and does nothing else: an erase leaves 0xFF in one 4 KiB sector, a program clears bits within one
page of 256 bytes (R407). A boot without a valid image waits 10 s and tries again (R414); one that finds PFW_N asserted or not
yet quiet waits at the end of step 4, goes on from step 5 when PFW_N is quiet, and goes to E2 when BRACE_HOLD passes first, from
where the exit resumes it (R406).
The model's own readings it rests on: notes/assumptions 4, 66, 67, 108. -/
def Obligations.ResetsAndBoot : Prop :=
  (∀ (tap : Fin 20) (spi : List SpiOp) (b : BootIn) (n : Nat) (i : FwImage) (s : State),
    (s.supply ≠ .off →
      (∃ t, exec .resetNAssert s = .next t ∧ t.supply = .reset ∧ t.resetN = true ∧ Wiped s t ∧
        (s.fwJob = none → t.flashA = s.flashA ∧ t.flashB = s.flashB)) ∧
      (∃ t, exec .refclkLoss s = .next t ∧ t.supply = .reset ∧ t.refclkLost = true ∧ Wiped s t ∧
        (s.fwJob = none → t.flashA = s.flashA ∧ t.flashB = s.flashB)) ∧
      (∃ t, exec .undervoltageLockout s = .next t ∧ t.supply = .off ∧ t.tapIr = [] ∧ Wiped s t ∧
        (s.fwJob = none → t.flashA = s.flashA ∧ t.flashB = s.flashB)) ∧
      (∃ t, exec (.extest ⟨tap, spi⟩) s = .next t ∧ sget 0#8 t.tapIr tap.val = 0x01#8 ∧
        (∀ k, k ≠ tap.val → sget 0#8 t.tapIr k = sget 0#8 s.tapIr k) ∧
        (s.resetN = true → t = { s with tapIr := t.tapIr, flashA := t.flashA, flashB := t.flashB }) ∧
        (s.resetN = false → t.supply = .reset ∧ t.extest = true ∧ Wiped s t) ∧
        (s.resetN = true ∨ s.fwJob = none →
          t.flashA = (if tap = 0 then spi.foldl Flash.drive s.flashA else s.flashA) ∧
          t.flashB = if tap = 1 then spi.foldl Flash.drive s.flashB else s.flashB)) ∧
      exec (.power48vApplied b) s = .next s) ∧
    (s.supply = .off → exec .undervoltageLockout s = .next s ∧ exec .resetNAssert s = .next { s with resetN := true } ∧
      exec .refclkLoss s = .next { s with refclkLost := true } ∧ exec (.extest ⟨tap, spi⟩) s = .next s ∧
      (s.resetN = false → s.mayBoot = true → ∃ t, exec (.power48vApplied b) s = .next t ∧ Booted s t b) ∧
      ((s.resetN = true ∨ s.mayBoot = false) → exec (.power48vApplied b) s = .next { s with supply := .reset })) ∧
    (s.supply = .reset → s.mayBoot = true → ∃ t, exec (.resetNDeassert b) s = .next t ∧ Booted s t b) ∧
    ((s.supply ≠ .reset ∨ s.mayBoot = false) → exec (.resetNDeassert b) s = .next { s with resetN := false }) ∧
    (s.supply = .reset → s.resetN = false → s.extest = false → ∃ t, exec (.refclkReturn b) s = .next t ∧ Booted s t b) ∧
    ((s.supply ≠ .reset ∨ s.resetN = true ∨ s.extest = true) → exec (.refclkReturn b) s = .next { s with refclkLost := false }) ∧
    (s.supply = .noImage → s.noImageAt + 10000000000 ≤ s.now →
      (firstValid s.candidates = none → exec (.firmwareRetry b) s = .next { s.drew with noImageAt := s.now }) ∧
      (firstValid s.candidates = some (n, i) → ∃ t, exec (.firmwareRetry b) s = .next t ∧ t.firmware = i.firmware n ∧
        (s.quiet = true → b.pfwIn = none → Ready s t ∧ t.bootRest = none) ∧
        (s.quiet = true → b.pfwIn.isSome = true → Waits s t ∧ t.pfw = true ∧ t.bootRest = some { b with pfwIn := none }) ∧
        (s.quiet = false → t.supply = .waitQuiet ∧ t.bootWait = s.now ∧ t.bootRest = some b))) ∧
    ((s.supply ≠ .noImage ∨ s.now < s.noImageAt + 10000000000) → exec (.firmwareRetry b) s = .next s) ∧
    (s.supply = .waitQuiet →
      (s.bootRest = some b → s.quiet = true → ∃ t, exec .resumeQuietExpiry s = .next t ∧
        (b.pfwIn = none → Ready s t ∧ t.bootRest = none) ∧
        (b.pfwIn.isSome = true → t.supply = .waitQuiet ∧ t.bootWait = s.now ∧ t.pfw = true ∧ t.rails.core = false ∧
          t.rails.cclk = false ∧ t.bootRest = some { b with pfwIn := none })) ∧
      (s.quiet = false → exec .resumeQuietExpiry s = .next s) ∧
      (s.quiet = false → s.bootWait + msCclk s.policy.braceHold ≤ s.now → ∃ t, exec .braceHoldExpiry s = .next t ∧ t.supply = .up ∧
        t.estate = .e2 ∧ t.quietArmed = true ∧ t.rails = s.rails.standby ∧ t.bootRest = s.bootRest) ∧
      ((s.quiet = true ∨ s.now < s.bootWait + msCclk s.policy.braceHold) → exec .braceHoldExpiry s = .next s)) ∧
    (s.supply = .up → s.estate = .resuming → s.sub = 0 → s.pfw = false → s.bootRest = some b → b.pfwIn = none →
      ∃ t, exec .standbyExit s = .next t ∧ Ready s t ∧ t.bootRest = none ∧ t.wakeReasons = s.aonWake)) ∧
  ∀ (f : Flash) (a : BitVec 26) (d : Bytes) (x : Nat),
    (f.drive (.erase a)).get x 1 = (if x / 4096 = a.toNat / 4096 then [0xFF#8] else f.get x 1) ∧
    (f.drive (.program a d)).get x 1 = (if a.toNat ≤ x ∧ x < a.toNat + Nat.min d.length (256 - a.toNat % 256) then
      [~~~mread f.mem x &&& d.getD (x - a.toNat) 0#8] else f.get x 1)

/-- The TAPs: an instruction loaded into a TAP selects its register; IDCODE and a TAP reset give out the TAP's identification,
SAMPLE/PRELOAD takes the cells, and nothing else changes (R421); an instruction that takes the place of the last EXTEST lets
the engine boot (R423). A private instruction selects bypass while DEBUG_OFF is blown, and stops the model otherwise (R422). A
module without power has no TAP.
The carrier's samples are kept (R427). Every MCTP command leaves one response, once the endpoint answers, and changes nothing
else of the engine: the control responses follow DSP0236 (PRESUMED, notes/assumptions/68.md).
The model's own readings it rests on: notes/assumptions 4, 128. -/
def Obligations.ModuleAndTaps : Prop :=
  (∀ (tap : Fin 20) (code : BitVec 8) (cells : List Bool) (b : BootIn) (s : State),
     (s.supply = .off → exec (.idcode tap b) s = .next s ∧ exec (.tapReset tap b) s = .next s ∧ exec (.bypass tap b) s = .next s ∧
       exec (.samplePreload tap cells b) s = .next s ∧ exec (.privateInstruction tap code b) s = .next s) ∧
     (s.supply ≠ .off →
       let ir (x : BitVec 8) : State := { s with tapIr := sput 0#8 tap.val (x ^^^ 0x01#8) s.tapIr }
       let id : State := { ir 0x01#8 with tapOut := some (idcodeOf tap.val) }
       (s.supply ≠ .reset →
         exec (.idcode tap b) s = .next id ∧ exec (.tapReset tap b) s = .next id ∧ exec (.bypass tap b) s = .next (ir 0xFF#8) ∧
         (∃ t, exec (.samplePreload tap cells b) s = .next t ∧ t = { ir 0x02#8 with boundary := t.boundary } ∧
           sget [] t.boundary tap.val = cells ∧ ∀ k, k ≠ tap.val → sget [] t.boundary k = sget [] s.boundary k) ∧
         (3 ≤ code.toNat → code.toNat ≤ 0xFE → s.fuses.debugOff = true → exec (.privateInstruction tap code b) s = .next (ir code))) ∧
       (3 ≤ code.toNat → code.toNat ≤ 0xFE → s.fuses.debugOff = false → exec (.privateInstruction tap code b) s = .fault .privateFunctions) ∧
       ((code.toNat < 3 ∨ code = 0xFF#8) → exec (.privateInstruction tap code b) s = .next s) ∧
       (s.supply = .reset → s.resetN = false → s.refclkLost = false →
         ((ir 0x01#8).extest = false →
           (∃ t, exec (.idcode tap b) s = .next t ∧ Booted s t b ∧ t.tapOut = some (idcodeOf tap.val)) ∧
           ∃ t, exec (.tapReset tap b) s = .next t ∧ Booted s t b ∧ t.tapOut = some (idcodeOf tap.val)) ∧
         ((ir 0x02#8).extest = false →
           ∃ t, exec (.samplePreload tap cells b) s = .next t ∧ Booted s t b ∧ sget [] t.boundary tap.val = cells) ∧
         ((ir 0xFF#8).extest = false → ∃ t, exec (.bypass tap b) s = .next t ∧ Booted s t b) ∧
         (3 ≤ code.toNat → code.toNat ≤ 0xFE → s.fuses.debugOff = true → (ir code).extest = false →
           ∃ t, exec (.privateInstruction tap code b) s = .next t ∧ Booted s t b)))) ∧
  (∀ (a b code eid : BitVec 8) (x y z : BitVec 16) (s : State),
     let resp (r : Bytes) : State := { s with mctp := { s.mctp with response := some r } }
     (s.supply ≠ .off → exec (.coolantSample a b x y z) s = .next { s with carrier := ⟨a, b, x, y, z⟩ }) ∧
     (s.supply = .off → exec (.coolantSample a b x y z) s = .next s) ∧
     (s.mctpUp = false → exec (.setEndpointId eid) s = .next s ∧ exec .getEndpointId s = .next s ∧ exec .getMctpVersionSupport s = .next s ∧
       exec .getMessageTypeSupport s = .next s ∧ exec .getVendorDefinedMessageSupport s = .next s ∧ exec .getInfo s = .next s.drew ∧
       exec .getStatus s = .next s.drew ∧ exec (.mctpUnsupportedCommand code) s = .next s) ∧
     (s.mctpUp = true →
       (eid ≠ 0#8 → eid ≠ 0xFF#8 → exec (.setEndpointId eid) s =
         .next { s with mctp := { s.mctp with eid := eid, response := some [0#8, 0#8, eid, 0#8] } }) ∧
       ((eid = 0#8 ∨ eid = 0xFF#8) → exec (.setEndpointId eid) s = .next (resp [0x02#8])) ∧
       exec .getEndpointId s = .next (resp [0#8, s.mctp.eid, 0#8, 0#8]) ∧
       exec .getMctpVersionSupport s = .next (resp (0#8 :: Config.mctpVersions)) ∧
       exec .getMessageTypeSupport s = .next (resp [0#8, 1#8, 0x7E#8]) ∧
       exec .getVendorDefinedMessageSupport s = .next (resp ([0#8, 0xFF#8, 0#8] ++ vendorBytes ++
         [Config.mctpVendorSet.extractLsb' 8 8, Config.mctpVendorSet.extractLsb' 0 8])) ∧
       (s.restarting = false →
         exec .getInfo s = .next { resp (vendorBytes ++ [0x01#8, 0x00#8] ++ s.infoBytes 0 0 0) with freeCount := s.freeCount + 1 } ∧
         exec .getStatus s = .next { resp (vendorBytes ++ [0x02#8, 0x00#8] ++ s.statusBytes) with freeCount := s.freeCount + 1 }) ∧
       (s.restarting = true →
         exec .getInfo s = .next { resp (vendorBytes ++ [0x01#8, 0x02#8]) with freeCount := s.freeCount + 1 } ∧
         exec .getStatus s = .next { resp (vendorBytes ++ [0x02#8, 0x02#8]) with freeCount := s.freeCount + 1 }) ∧
       (code ≠ 0x01#8 → code ≠ 0x02#8 → exec (.mctpUnsupportedCommand code) s = .next (resp (vendorBytes ++ [code, 0x01#8])))))

/-! ## Rights and states -/

/-- A command with partition scope that names another partition answers DENIED to a tenant, one that names a partition that
does not exist answers BAD_ARG, and a command that is P0's alone answers DENIED to a tenant: with no other effect. -/
def Obligations.PartitionRights : Prop :=
  ∀ (die : Die) (fn : Fn) (slot : Fin 32) (image : Bytes) (lost : Bool) (r : GmpRow) (s : State), r ∈ gmpRows die fn slot image lost →
    s.offers die.val fn.val slot.val r.code r.need = true →
    let c := s.readCmd die.val fn.val slot.val
    (∀ o, r.op = some o → c.at o.1 1 = o.2) → (r.cmd = .queueConfigRuleWrite die fn slot → c.at 3 1 ≤ 13) →
    (r.scope = true → fn ≠ 0 → c.named ≠ fn → ∃ t, exec r.cmd s = .next t ∧ Answered s t die.val fn.val slot.val [c.msg true stDenied []]) ∧
    (r.scope = true → (fn = 0 ∨ c.named = fn) → s.exists c.named = false →
      ∃ t, exec r.cmd s = .next t ∧ Answered s t die.val fn.val slot.val [c.msg true stBadArg []]) ∧
    (r.p0 = true → fn ≠ 0 → ∃ t, exec r.cmd s = .next t ∧ Answered s t die.val fn.val slot.val [c.msg true stDenied []]) ∧
    (fn = 0 → s.ruled = true → s.longRoom fn.val = true →
      ((r.cmd = .partDestroy die fn slot ∧ s.estate = .e0 ∧ s.maint = .closed) ∨ (r.cmd = .dump die fn slot ∧ s.estate = .e2 ∧ c.named ≠ 0xFF)) →
      s.exists c.named = false → ∃ t, exec r.cmd s = .next t ∧ Answered s t die.val fn.val slot.val [c.msg true stBadArg []])

/-- A command that Table 9.7 does not allow in the engine's state answers NOT_READY with no effect; a partition's ninth open
long command answers BUSY with no effect. -/
def Obligations.ServedByState : Prop :=
  ∀ (die : Die) (fn : Fn) (slot : Fin 32) (image : Bytes) (lost : Bool) (r : GmpRow) (s : State), r ∈ gmpRows die fn slot image lost →
    s.offers die.val fn.val slot.val r.code r.need = true →
    let c := s.readCmd die.val fn.val slot.val
    (∀ o, r.op = some o → c.at o.1 1 = o.2) → (r.cmd = .queueConfigRuleWrite die fn slot → c.at 3 1 ≤ 13) →
    (r.p0 = true → fn = 0) → (r.scope = true → s.mayName c = true) →
    (servedIn s.estate r.code = false → ∃ t, exec r.cmd s = .next t ∧ Answered s t die.val fn.val slot.val [c.msg true stNotReady []]) ∧
    (servedIn s.estate r.code = true → s.ruled = true → r.long = true → s.longRoom fn.val = false →
      ∃ t, exec r.cmd s = .next t ∧ Answered s t die.val fn.val slot.val [c.msg true stBusy []])

/-! ## The whole machine -/

/-- Every command answers a next state, but a private instruction of a module with DEBUG_OFF clear; no command changes the
queue of waiting commands or the model's clock: only the step does.
The model's own readings it rests on: notes/assumptions 4, 7. -/
def Obligations.CommandsRun : Prop :=
  ∀ (i : Instr) (s : State),
    (∃ t, exec i s = .next t ∧ t.pending = s.pending ∧ t.now = s.now) ∨
      ∃ tap code b, i = .privateInstruction tap code b ∧ s.fuses.debugOff = false ∧ exec i s = .fault .privateFunctions

/-- ET never moves backwards while the engine stays up (below its wrap after 4,600 years): beside the passing of time, only a
full retime moves it, forwards, and every request in flight then carries retimed.
The model's own readings it rests on: notes/assumptions 7, 96. -/
def Obligations.EtForward : Prop :=
  (∀ s t : State, step s = .next t → s.supply = .up → t.supply = .up → s.bootRest = none → s.tick + 5 < 18446744073709551616 →
    s.tick ≤ t.tick) ∧
  ∀ (i : Instr) (s t : State), exec i s = .next t → s.supply = .up → t.supply = .up → s.bootRest = none → t.et ≠ s.et →
    (∃ f, i = .fullRetime f) ∧ s.tick < t.tick ∧ (∀ p, ∀ x ∈ (t.part p).queue, x.flags.retimed = true) ∧
      ∀ h f, ∀ x ∈ (t.window h f).compl, x.flags.retimed = true

/-- Fuses change by FW.ACTIVATE with its commit alone, when it ends or is cut off, and only the rollback and key_revoke fields:
no blown fuse is ever cleared (R415, R418, R420, Table 16.7).
The model's own readings it rests on: notes/assumptions 4. -/
def Obligations.FusesOnlyByActivation : Prop :=
  ∀ (i : Instr) (s t : State), exec i s = .next t →
    t.fuses = { s.fuses with rollback := t.fuses.rollback, keyRevoke := t.fuses.keyRevoke } ∧
    (∀ n, s.fuses.rollback.getLsbD n = true → t.fuses.rollback.getLsbD n = true) ∧
    (∀ n, s.fuses.keyRevoke.getLsbD n = true → t.fuses.keyRevoke.getLsbD n = true) ∧
    (t.fuses ≠ s.fuses → ∃ n, s.fwJob = some (.activate n true))

/-- The state before the first 48 V: no supply, no partition but P0, no command waiting, nothing in memory, the flash as
delivered.
The model's own readings it rests on: notes/assumptions 2, 3. -/
def Obligations.ResetState : Prop :=
  State.reset.canonical = true ∧ State.reset.subOk = true ∧ State.reset.supply = .off ∧ State.reset.pending = [] ∧
    State.reset.existing = [0] ∧ State.reset.hbm = [] ∧ State.reset.spad = [] ∧ State.reset.cores = [] ∧ State.reset.longs = [] ∧
    (State.reset.part 0).cfg.granules = [] ∧ (∀ c, (State.reset.cluster c).retired = false) ∧
    State.reset.flashA = Flash.delivered ∧ State.reset.flashB = Flash.delivered ∧ State.reset.bootRest = none

/-- Every step keeps the memories and maps in their canonical form, and the subcount of ET below its period.
The model's own readings it rests on: notes/assumptions 7, 9. -/
def Obligations.StepKeepsForm : Prop :=
  ∀ s t : State, s.canonical = true → s.subOk = true → step s = .next t → t.canonical = true ∧ t.subOk = true
end

