-- ==== Sys2Proof/Laws/Maps.lean ====
section
/-!
SUPPORT. Sparse maps and byte memories: reading after writing, and the canonical form, kept by every operation.
-/

namespace Sys2Proof.Machine

open Sys2Proof

variable {α : Type}

/-! ## Reading after writing -/

@[simp] theorem sfind?_nil (k : Nat) : sfind? ([] : SMap α) k = none := rfl

theorem sfind?_sdel_same (k : Nat) (m : SMap α) : sfind? (sdel k m) k = none := by
  induction m with
  | nil => rfl
  | cons x r ih => simp only [sdel]; split <;> simp_all [sfind?]

theorem sfind?_sdel_ne (m : SMap α) (k n : Nat) (h : n ≠ k) : sfind? (sdel k m) n = sfind? m n := by
  induction m with
  | nil => rfl
  | cons x r ih =>
    obtain ⟨j, v⟩ := x
    simp only [sdel]
    split
    · subst_vars; rw [ih]; simp [sfind?, Ne.symm h]
    · simp only [sfind?, ih]

theorem sfind?_sins_same (k : Nat) (v : α) (m : SMap α) : sfind? (sins k v m) k = some v := by
  induction m with
  | nil => simp [sins, sfind?]
  | cons x r ih =>
    obtain ⟨j, w⟩ := x
    simp only [sins]
    split
    · simp [sfind?]
    · split
      · simp [sfind?]
      · have : j ≠ k := by omega
        simp [sfind?, this, ih]

theorem sfind?_sins_ne (v : α) (m : SMap α) (k n : Nat) (h : n ≠ k) : sfind? (sins k v m) n = sfind? m n := by
  induction m with
  | nil => simp [sins, sfind?, Ne.symm h]
  | cons x r ih =>
    obtain ⟨j, w⟩ := x
    simp only [sins]
    split
    · simp [sfind?, Ne.symm h]
    · split
      · subst_vars; simp [sfind?, Ne.symm h]
      · simp only [sfind?, ih]

@[simp] theorem sget_sdel_same (d : α) (k : Nat) (m : SMap α) : sget d (sdel k m) k = d := by
  simp [sget, sfind?_sdel_same]

theorem sget_sdel_ne (d : α) (m : SMap α) (k n : Nat) (h : n ≠ k) : sget d (sdel k m) n = sget d m n := by
  simp [sget, sfind?_sdel_ne m k n h]

variable [DecidableEq α]

@[simp] theorem sget_sput_same (d : α) (k : Nat) (v : α) (m : SMap α) : sget d (sput d k v m) k = v := by
  unfold sput
  split
  · subst_vars; simp
  · simp [sget, sfind?_sins_same]

theorem sget_sput_ne (d v : α) (m : SMap α) (k n : Nat) (h : n ≠ k) : sget d (sput d k v m) n = sget d m n := by
  unfold sput
  split
  · exact sget_sdel_ne d m k n h
  · simp [sget, sfind?_sins_ne v m k n h]

@[simp] theorem sget_smod_same (d : α) (k : Nat) (f : α → α) (m : SMap α) : sget d (smod d k f m) k = f (sget d m k) :=
  sget_sput_same d k _ m

theorem sget_smod_ne (d : α) (f : α → α) (m : SMap α) (k n : Nat) (h : n ≠ k) : sget d (smod d k f m) n = sget d m n :=
  sget_sput_ne d _ m k n h

/-! ## The canonical form -/

/-- The canonical form, as a property of the list. -/
theorem swf_iff (d : α) (m : SMap α) : swf d m = true ↔ (∀ x ∈ m, x.2 ≠ d) ∧ m.Pairwise fun x y => x.1 < y.1 := by
  induction m with
  | nil => simp [swf]
  | cons x r ih =>
    obtain ⟨k, v⟩ := x
    cases r with
    | nil => simp [swf]
    | cons y r =>
      obtain ⟨j, w⟩ := y
      simp only [swf, Bool.and_eq_true, bne_iff_ne, decide_eq_true_eq] at ih ⊢
      rw [ih]
      simp only [List.mem_cons, List.pairwise_cons, forall_eq_or_imp]
      constructor
      · rintro ⟨⟨hv, hk⟩, ⟨hw, hr⟩, hj, hp⟩
        exact ⟨⟨hv, hw, hr⟩, ⟨hk, fun a ha => Nat.lt_trans hk (hj a ha)⟩, hj, hp⟩
      · rintro ⟨⟨hv, hw, hr⟩, ⟨hk, _⟩, hj, hp⟩
        exact ⟨⟨hv, hk⟩, ⟨hw, hr⟩, hj, hp⟩

omit [DecidableEq α] in
theorem mem_sdel (k : Nat) (m : SMap α) (x : Nat × α) (h : x ∈ sdel k m) : x ∈ m ∧ x.1 ≠ k := by
  induction m with
  | nil => cases h
  | cons y r ih =>
    obtain ⟨j, w⟩ := y
    simp only [sdel] at h
    split at h
    · exact ⟨.tail _ (ih h).1, (ih h).2⟩
    · rcases List.mem_cons.1 h with rfl | h
      · exact ⟨.head _, ‹_›⟩
      · exact ⟨.tail _ (ih h).1, (ih h).2⟩

omit [DecidableEq α] in
theorem mem_sins (k : Nat) (v : α) (m : SMap α) (x : Nat × α) (h : x ∈ sins k v m) : x = (k, v) ∨ x ∈ m := by
  induction m with
  | nil => simpa [sins] using h
  | cons y r ih =>
    obtain ⟨j, w⟩ := y
    simp only [sins] at h
    split at h
    · simpa using h
    · split at h
      · rcases List.mem_cons.1 h with rfl | h
        · exact .inl rfl
        · exact .inr (.tail _ h)
      · rcases List.mem_cons.1 h with rfl | h
        · exact .inr (.head _)
        · exact (ih h).imp id (.tail _)

theorem swf_sdel (d : α) (k : Nat) (m : SMap α) (h : swf d m = true) : swf d (sdel k m) = true := by
  rw [swf_iff] at h ⊢
  refine ⟨fun x hx => h.1 x (mem_sdel k m x hx).1, ?_⟩
  replace h := h.2
  induction m with
  | nil => exact h
  | cons y r ih =>
    obtain ⟨j, w⟩ := y
    rw [List.pairwise_cons] at h
    simp only [sdel]
    split
    · exact ih h.2
    · exact List.pairwise_cons.2 ⟨fun x hx => h.1 x (mem_sdel k r x hx).1, ih h.2⟩

theorem swf_sins (d : α) (k : Nat) (v : α) (m : SMap α) (hv : v ≠ d) (h : swf d m = true) : swf d (sins k v m) = true := by
  rw [swf_iff] at h ⊢
  refine ⟨fun x hx => (mem_sins k v m x hx).elim (fun e => e ▸ hv) (h.1 x), ?_⟩
  replace h := h.2
  induction m with
  | nil => simp [sins]
  | cons y r ih =>
    obtain ⟨j, w⟩ := y
    have h' := List.pairwise_cons.1 h
    simp only [sins]
    split
    · refine List.pairwise_cons.2 ⟨fun x hx => ?_, h⟩
      rcases List.mem_cons.1 hx with rfl | hx
      · assumption
      · exact Nat.lt_trans ‹k < j› (h'.1 x hx)
    · split
      · subst_vars; exact List.pairwise_cons.2 h'
      · refine List.pairwise_cons.2 ⟨fun x hx => ?_, ih h'.2⟩
        rcases mem_sins k v r x hx with rfl | hx
        · show j < k; omega
        · exact h'.1 x hx

theorem swf_sput (d : α) (k : Nat) (v : α) (m : SMap α) (h : swf d m = true) : swf d (sput d k v m) = true := by
  unfold sput
  split
  · exact swf_sdel d k m h
  · exact swf_sins d k v m ‹_› h

theorem swf_smod (d : α) (k : Nat) (f : α → α) (m : SMap α) (h : swf d m = true) : swf d (smod d k f m) = true :=
  swf_sput d k _ m h

theorem swf_filter (d : α) (p : Nat × α → Bool) (m : SMap α) (h : swf d m = true) : swf d (m.filter p) = true := by
  rw [swf_iff] at h ⊢
  exact ⟨fun x hx => h.1 x (List.mem_filter.1 hx).1, h.2.filter _⟩

theorem mem_smapAll (d : α) (f : Nat → α → α) (m : SMap α) (x : Nat × α) (h : x ∈ smapAll d f m) :
    x.2 ≠ d ∧ ∃ v, (x.1, v) ∈ m := by
  induction m with
  | nil => cases h
  | cons y r ih =>
    obtain ⟨j, w⟩ := y
    simp only [smapAll] at h
    split at h
    · exact ⟨(ih h).1, (ih h).2.imp fun _ => .tail _⟩
    · rcases List.mem_cons.1 h with rfl | h
      · exact ⟨‹_›, w, .head _⟩
      · exact ⟨(ih h).1, (ih h).2.imp fun _ => .tail _⟩

theorem swf_smapAll (d : α) (f : Nat → α → α) (m : SMap α) (h : swf d m = true) : swf d (smapAll d f m) = true := by
  rw [swf_iff] at h ⊢
  refine ⟨fun x hx => (mem_smapAll d f m x hx).1, ?_⟩
  replace h := h.2
  induction m with
  | nil => exact h
  | cons y r ih =>
    obtain ⟨j, w⟩ := y
    rw [List.pairwise_cons] at h
    simp only [smapAll]
    split
    · exact ih h.2
    · refine List.pairwise_cons.2 ⟨fun x hx => ?_, ih h.2⟩
      obtain ⟨v, hv⟩ := (mem_smapAll d f r x hx).2
      exact h.1 (x.1, v) hv

/-! ## Byte memories -/

@[simp] theorem mread_mwrite_same (m : Mem) (a : Nat) (b : Byte) : mread (mwrite a b m) a = b := sget_sput_same ..

theorem mread_mwrite_ne (m : Mem) (a n : Nat) (b : Byte) (h : n ≠ a) : mread (mwrite a b m) n = mread m n :=
  sget_sput_ne 0#8 b m a n h

theorem wf_mwrite (a : Nat) (b : Byte) (m : Mem) (h : Mem.wf m = true) : Mem.wf (mwrite a b m) = true :=
  swf_sput 0#8 a b m h

theorem wf_mwrites (a : Nat) (bs : Bytes) (m : Mem) (h : Mem.wf m = true) : Mem.wf (mwrites a bs m) = true := by
  induction bs generalizing a m with
  | nil => exact h
  | cons b r ih => exact ih _ _ (wf_mwrite a b m h)

/-- A byte outside the written span reads as before. -/
theorem mread_mwrites_out (m : Mem) (a n : Nat) (bs : Bytes) (h : n < a ∨ a + bs.length ≤ n) :
    mread (mwrites a bs m) n = mread m n := by
  induction bs generalizing a m with
  | nil => rfl
  | cons b r ih =>
    simp only [List.length_cons] at h
    rw [mwrites, ih _ (a + 1) (by omega), mread_mwrite_ne _ _ _ _ (by omega)]

/-- A byte of the written span reads as written. -/
theorem mread_mwrites_in (m : Mem) (a i : Nat) (bs : Bytes) (h : i < bs.length) :
    mread (mwrites a bs m) (a + i) = bs[i] := by
  induction bs generalizing a m i with
  | nil => simp at h
  | cons b r ih =>
    cases i with
    | zero => rw [mwrites, mread_mwrites_out _ _ _ _ (by omega)]; simp
    | succ i =>
      rw [mwrites, show a + (i + 1) = a + 1 + i by omega, ih]
      · simp
      · simpa using h

theorem mclear_eq (lo hi : Nat) (m : Mem) : mclear lo hi m = m.filter fun x => !(decide (lo ≤ x.1) && decide (x.1 < hi)) := by
  induction m with
  | nil => rfl
  | cons y r ih =>
    obtain ⟨j, w⟩ := y
    simp only [mclear, List.filter_cons, ih]
    by_cases h1 : lo ≤ j <;> by_cases h2 : j < hi <;> simp [h1, h2]

theorem wf_mclear (lo hi : Nat) (m : Mem) (h : Mem.wf m = true) : Mem.wf (mclear lo hi m) = true := by
  rw [mclear_eq]; exact swf_filter 0#8 _ m h

/-- A cleared byte reads zero. -/
theorem mread_mclear_in (lo hi n : Nat) (m : Mem) (h : lo ≤ n ∧ n < hi) : mread (mclear lo hi m) n = 0#8 := by
  induction m with
  | nil => rfl
  | cons y r ih =>
    obtain ⟨j, w⟩ := y
    simp only [mclear]
    split
    · exact ih
    · have : j ≠ n := by rintro rfl; contradiction
      simpa [mread, sget, sfind?, this] using ih

/-- Every other byte reads as before. -/
theorem mread_mclear_out (lo hi n : Nat) (m : Mem) (h : n < lo ∨ hi ≤ n) : mread (mclear lo hi m) n = mread m n := by
  induction m with
  | nil => rfl
  | cons y r ih =>
    obtain ⟨j, w⟩ := y
    simp only [mclear]
    split
    · have : j ≠ n := by omega
      rw [ih]; simp [mread, sget, sfind?, this]
    · by_cases e : j = n
      · simp [mread, sget, sfind?, e]
      · simpa [mread, sget, sfind?, e] using ih

theorem wf_relWrite (r : PartRec) (off : Nat) (bs : Bytes) (m : Mem) (h : Mem.wf m = true) :
    Mem.wf (relWrite r off bs m) = true := by
  induction bs generalizing off m with
  | nil => exact h
  | cons b t ih =>
    refine ih _ _ ?_
    split
    · exact wf_mwrite _ _ _ h
    · exact h

theorem wf_dmaWrite (q : PartState) (off : Nat) (bs : Bytes) (m : Mem) (h : Mem.wf m = true) :
    Mem.wf (dmaWrite q off bs m) = true := by
  induction bs generalizing off m with
  | nil => exact h
  | cons b t ih =>
    refine ih _ _ ?_
    split
    · split
      · exact h
      · exact wf_mwrite _ _ _ h
    · exact h

theorem wf_mcopy (src : Mem) (lo n dst : Nat) (m : Mem) (h : Mem.wf m = true) : Mem.wf (mcopy src lo n dst m) = true := by
  have aux : ∀ (l : Mem) (m : Mem), Mem.wf m = true → Mem.wf (l.foldl (fun m x =>
      if lo ≤ x.1 ∧ x.1 < lo + n then mwrite (dst + (x.1 - lo)) x.2 m else m) m) = true := by
    intro l
    induction l with
    | nil => exact fun m h => h
    | cons x r ih =>
      intro m h
      refine ih _ ?_
      dsimp only
      split
      · exact wf_mwrite _ _ _ h
      · exact h
  exact aux src _ (wf_mclear _ _ _ h)

end Sys2Proof.Machine
end

