-- ==== Sys2Proof/Laws/Keeps.lean ====
section
/-!
SUPPORT. What an operation on the state leaves as it was: three relations between the state before and after, each
weaker than the one before it. Sys2Proof/Laws/Frames.lean says for each operation which of them holds.
-/

namespace Sys2Proof.Machine

open Sys2Proof

/-- Held by every command: the queue of waiting commands, the model's time, and the canonical form. -/
structure Held (s t : State) : Prop where
  pending : t.pending = s.pending
  now : t.now = s.now
  canon : s.canonical = true → t.canonical = true

/-- And ET, the fuses, and what stands outside the engine: pins, TAPs, the carrier and the MCTP endpoint. -/
structure Keeps (s t : State) : Prop extends Held s t where
  et : t.et = s.et
  fuses : t.fuses = s.fuses
  carrier : t.carrier = s.carrier
  resetN : t.resetN = s.resetN
  refclkLost : t.refclkLost = s.refclkLost
  tapIr : t.tapIr = s.tapIr
  boundary : t.boundary = s.boundary
  mctp : t.mctp = s.mctp

/-- And the engine state, its supply and the clock of ET. -/
structure Steady (s t : State) : Prop extends Keeps s t where
  supply : t.supply = s.supply
  estate : t.estate = s.estate
  sub : t.sub = s.sub
  etClock : t.etClock = s.etClock

theorem Held.refl (s : State) : Held s s := ⟨rfl, rfl, id⟩
theorem Keeps.refl (s : State) : Keeps s s := ⟨.refl s, rfl, rfl, rfl, rfl, rfl, rfl, rfl, rfl⟩
theorem Steady.refl (s : State) : Steady s s := ⟨.refl s, rfl, rfl, rfl, rfl⟩

theorem Held.trans {s t u : State} (a : Held s t) (b : Held t u) : Held s u :=
  ⟨b.pending.trans a.pending, b.now.trans a.now, fun h => b.canon (a.canon h)⟩

theorem Keeps.trans {s t u : State} (a : Keeps s t) (b : Keeps t u) : Keeps s u :=
  ⟨a.toHeld.trans b.toHeld, b.et.trans a.et, b.fuses.trans a.fuses, b.carrier.trans a.carrier, b.resetN.trans a.resetN,
    b.refclkLost.trans a.refclkLost, b.tapIr.trans a.tapIr, b.boundary.trans a.boundary, b.mctp.trans a.mctp⟩

theorem Steady.trans {s t u : State} (a : Steady s t) (b : Steady t u) : Steady s u :=
  ⟨a.toKeeps.trans b.toKeeps, b.supply.trans a.supply, b.estate.trans a.estate, b.sub.trans a.sub, b.etClock.trans a.etClock⟩

theorem Held.ite {s a b : State} {c : Prop} [Decidable c] (ha : Held s a) (hb : Held s b) : Held s (if c then a else b) := by
  split <;> assumption
theorem Keeps.ite {s a b : State} {c : Prop} [Decidable c] (ha : Keeps s a) (hb : Keeps s b) : Keeps s (if c then a else b) := by
  split <;> assumption
theorem Steady.ite {s a b : State} {c : Prop} [Decidable c] (ha : Steady s a) (hb : Steady s b) : Steady s (if c then a else b) := by
  split <;> assumption

theorem Held.each {α : Type} {s x : State} {f : State → α → State} (h : Held s x) (l : List α)
    (hf : ∀ t a, Held t (f t a)) : Held s (x.each l f) := by
  induction l generalizing x with
  | nil => exact h
  | cons a r ih => exact ih (h.trans (hf x a))
theorem Keeps.each {α : Type} {s x : State} {f : State → α → State} (h : Keeps s x) (l : List α)
    (hf : ∀ t a, Keeps t (f t a)) : Keeps s (x.each l f) := by
  induction l generalizing x with
  | nil => exact h
  | cons a r ih => exact ih (h.trans (hf x a))
theorem Steady.each {α : Type} {s x : State} {f : State → α → State} (h : Steady s x) (l : List α)
    (hf : ∀ t a, Steady t (f t a)) : Steady s (x.each l f) := by
  induction l generalizing x with
  | nil => exact h
  | cons a r ih => exact ih (h.trans (hf x a))

/-- The parts of the canonical form. -/
theorem canonical_iff (s : State) : s.canonical = true ↔
    Mem.wf s.spad = true ∧ Mem.wf s.hbm = true ∧ Mem.wf s.hostMem = true ∧ swf {} s.cores = true ∧ swf {} s.clusters = true ∧
      swf {} s.windows = true ∧ swf {} s.parts = true ∧ swf 0#16 s.leases = true ∧ swf 0#64 s.rules = true ∧
      swf 0#64 s.violCounts = true := by
  simp [State.canonical, Bool.and_eq_true, and_assoc]

/-- A change of a memory or a map that keeps its canonical form. -/
theorem Steady.setSpad (s : State) (m : Mem) (h : Mem.wf s.spad = true → Mem.wf m = true) : Steady s { s with spad := m } :=
  ⟨⟨⟨rfl, rfl, fun c => by rw [canonical_iff] at c ⊢; exact ⟨h c.1, c.2⟩⟩, rfl, rfl, rfl, rfl, rfl, rfl, rfl, rfl⟩, rfl, rfl, rfl, rfl⟩
theorem Steady.setHbm (s : State) (m : Mem) (h : Mem.wf s.hbm = true → Mem.wf m = true) : Steady s { s with hbm := m } :=
  ⟨⟨⟨rfl, rfl, fun c => by rw [canonical_iff] at c ⊢; exact ⟨c.1, h c.2.1, c.2.2⟩⟩, rfl, rfl, rfl, rfl, rfl, rfl, rfl, rfl⟩, rfl, rfl, rfl, rfl⟩
theorem Steady.setHostMem (s : State) (m : Mem) (h : Mem.wf s.hostMem = true → Mem.wf m = true) : Steady s { s with hostMem := m } :=
  ⟨⟨⟨rfl, rfl, fun c => by rw [canonical_iff] at c ⊢; exact ⟨c.1, c.2.1, h c.2.2.1, c.2.2.2⟩⟩, rfl, rfl, rfl, rfl, rfl, rfl, rfl, rfl⟩, rfl, rfl, rfl, rfl⟩
theorem Steady.setCores (s : State) (m : SMap Core) (h : swf {} s.cores = true → swf {} m = true) : Steady s { s with cores := m } :=
  ⟨⟨⟨rfl, rfl, fun c => by rw [canonical_iff] at c ⊢; exact ⟨c.1, c.2.1, c.2.2.1, h c.2.2.2.1, c.2.2.2.2⟩⟩, rfl, rfl, rfl, rfl, rfl, rfl, rfl, rfl⟩, rfl, rfl, rfl, rfl⟩
theorem Steady.setClusters (s : State) (m : SMap Cluster) (h : swf {} s.clusters = true → swf {} m = true) : Steady s { s with clusters := m } :=
  ⟨⟨⟨rfl, rfl, fun c => by rw [canonical_iff] at c ⊢; exact ⟨c.1, c.2.1, c.2.2.1, c.2.2.2.1, h c.2.2.2.2.1, c.2.2.2.2.2⟩⟩, rfl, rfl, rfl, rfl, rfl, rfl, rfl, rfl⟩, rfl, rfl, rfl, rfl⟩
theorem Steady.setWindows (s : State) (m : SMap Window) (h : swf {} s.windows = true → swf {} m = true) : Steady s { s with windows := m } :=
  ⟨⟨⟨rfl, rfl, fun c => by rw [canonical_iff] at c ⊢; exact ⟨c.1, c.2.1, c.2.2.1, c.2.2.2.1, c.2.2.2.2.1, h c.2.2.2.2.2.1, c.2.2.2.2.2.2⟩⟩, rfl, rfl, rfl, rfl, rfl, rfl, rfl, rfl⟩, rfl, rfl, rfl, rfl⟩
theorem Steady.setParts (s : State) (m : SMap PartState) (h : swf {} s.parts = true → swf {} m = true) : Steady s { s with parts := m } :=
  ⟨⟨⟨rfl, rfl, fun c => by rw [canonical_iff] at c ⊢; exact ⟨c.1, c.2.1, c.2.2.1, c.2.2.2.1, c.2.2.2.2.1, c.2.2.2.2.2.1, h c.2.2.2.2.2.2.1, c.2.2.2.2.2.2.2⟩⟩, rfl, rfl, rfl, rfl, rfl, rfl, rfl, rfl⟩, rfl, rfl, rfl, rfl⟩
theorem Steady.setLeases (s : State) (m : SMap (BitVec 16)) (h : swf 0#16 s.leases = true → swf 0#16 m = true) : Steady s { s with leases := m } :=
  ⟨⟨⟨rfl, rfl, fun c => by rw [canonical_iff] at c ⊢; exact ⟨c.1, c.2.1, c.2.2.1, c.2.2.2.1, c.2.2.2.2.1, c.2.2.2.2.2.1, c.2.2.2.2.2.2.1, h c.2.2.2.2.2.2.2.1, c.2.2.2.2.2.2.2.2⟩⟩, rfl, rfl, rfl, rfl, rfl, rfl, rfl, rfl⟩, rfl, rfl, rfl, rfl⟩
theorem Steady.setRules (s : State) (m : SMap (BitVec 64)) (h : swf 0#64 s.rules = true → swf 0#64 m = true) : Steady s { s with rules := m } :=
  ⟨⟨⟨rfl, rfl, fun c => by rw [canonical_iff] at c ⊢; exact ⟨c.1, c.2.1, c.2.2.1, c.2.2.2.1, c.2.2.2.2.1, c.2.2.2.2.2.1, c.2.2.2.2.2.2.1, c.2.2.2.2.2.2.2.1, h c.2.2.2.2.2.2.2.2.1, c.2.2.2.2.2.2.2.2.2⟩⟩, rfl, rfl, rfl, rfl, rfl, rfl, rfl, rfl⟩, rfl, rfl, rfl, rfl⟩
theorem Steady.setViolCounts (s : State) (m : SMap (BitVec 64)) (h : swf 0#64 s.violCounts = true → swf 0#64 m = true) : Steady s { s with violCounts := m } :=
  ⟨⟨⟨rfl, rfl, fun c => by rw [canonical_iff] at c ⊢; exact ⟨c.1, c.2.1, c.2.2.1, c.2.2.2.1, c.2.2.2.2.1, c.2.2.2.2.2.1, c.2.2.2.2.2.2.1, c.2.2.2.2.2.2.2.1, c.2.2.2.2.2.2.2.2.1, h c.2.2.2.2.2.2.2.2.2⟩⟩, rfl, rfl, rfl, rfl, rfl, rfl, rfl, rfl⟩, rfl, rfl, rfl, rfl⟩

/-- A change of fields that the relations do not speak of. -/
theorem Held.upd {s t u : State} (a : Held s t) (b : Steady t u) : Held s u := a.trans b.toHeld
theorem Keeps.upd {s t u : State} (a : Keeps s t) (b : Steady t u) : Keeps s u := a.trans b.toKeeps
theorem Steady.upd {s t u : State} (a : Steady s t) (b : Steady t u) : Steady s u := a.trans b

end Sys2Proof.Machine
end

