-- ==== Sys2Proof/Laws/Frames.lean ====
section
/-!
SUPPORT. For each operation on the state, what it leaves as it was: `Steady`, `Keeps` or `Held`
(Sys2Proof/Laws/Keeps.lean), one lemma each.
-/

namespace Sys2Proof.Machine

open Sys2Proof

/-! ## Ops -/

theorem State.modCore_steady (s : State) (n : Nat) (f : Core → Core) : Steady s (s.modCore n f) := by
  unfold State.modCore
  exact (Steady.setCores _ _ (swf_smod _ _ _ _))

theorem State.modCluster_steady (s : State) (c : Nat) (f : Cluster → Cluster) : Steady s (s.modCluster c f) := by
  unfold State.modCluster
  exact (Steady.setClusters _ _ (swf_smod _ _ _ _))

theorem State.modWindow_steady (s : State) (h f : Nat) (g : Window → Window) : Steady s (s.modWindow h f g) := by
  unfold State.modWindow
  exact (Steady.setWindows _ _ (swf_smod _ _ _ _))

theorem State.modPart_steady (s : State) (p : Nat) (f : PartState → PartState) : Steady s (s.modPart p f) := by
  unfold State.modPart
  exact (Steady.setParts _ _ (swf_smod _ _ _ _))

theorem State.modLink_steady (s : State) (d : Nat) (f : LinkDie → LinkDie) : Steady s (s.modLink d f) := by
  unfold State.modLink
  exact ⟨⟨⟨rfl, rfl, id⟩, rfl, rfl, rfl, rfl, rfl, rfl, rfl, rfl⟩, rfl, rfl, rfl, rfl⟩

theorem State.modPort_steady (s : State) (d p : Nat) (f : Port → Port) : Steady s (s.modPort d p f) := by
  unfold State.modPort
  exact State.modLink_steady ..

theorem State.modCtx_steady (s : State) (d c : Nat) (f : Context → Context) : Steady s (s.modCtx d c f) := by
  unfold State.modCtx
  exact State.modLink_steady ..

theorem State.modStack_steady (s : State) (m : Nat) (f : HbmStack → HbmStack) : Steady s (s.modStack m f) := by
  unfold State.modStack
  exact ⟨⟨⟨rfl, rfl, id⟩, rfl, rfl, rfl, rfl, rfl, rfl, rfl, rfl⟩, rfl, rfl, rfl, rfl⟩

theorem State.modZone_steady (s : State) (z : Nat) (f : Zone → Zone) : Steady s (s.modZone z f) := by
  unfold State.modZone
  exact ⟨⟨⟨rfl, rfl, id⟩, rfl, rfl, rfl, rfl, rfl, rfl, rfl, rfl⟩, rfl, rfl, rfl, rfl⟩

theorem State.spadWrite_steady (s : State) (n a : Nat) (bs : Bytes) : Steady s (s.spadWrite n a bs) := by
  unfold State.spadWrite
  exact (Steady.setSpad _ _ (wf_mwrites _ _ _))

theorem State.hostWrite_steady (s : State) (h a : Nat) (bs : Bytes) : Steady s (s.hostWrite h a bs) := by
  unfold State.hostWrite
  exact (Steady.setHostMem _ _ (wf_mwrites _ _ _))

theorem State.drew_steady (s : State) : Steady s (s.drew) := by
  unfold State.drew
  exact ⟨⟨⟨rfl, rfl, id⟩, rfl, rfl, rfl, rfl, rfl, rfl, rfl, rfl⟩, rfl, rfl, rfl, rfl⟩

theorem State.keepHeld_steady (s : State) (test : Nat → Nat → Port → RxCell → Bool) : Steady s (s.keepHeld test) := by
  unfold State.keepHeld
  exact ⟨⟨⟨rfl, rfl, id⟩, rfl, rfl, rfl, rfl, rfl, rfl, rfl, rfl⟩, rfl, rfl, rfl, rfl⟩

theorem State.log_steady (s : State) (code : Nat) (part : Option Nat) (cluster : Option Nat) (core : Option Nat) (die : Nat) (pup : Nat) (detail : Nat) : Steady s (s.log code part cluster core die pup detail) := by
  unfold State.log
  extract_lets -underBinder +onlyGivenNames y1
  clear_value y1
  extract_lets -underBinder +onlyGivenNames y2
  clear_value y2
  exact ⟨⟨⟨rfl, rfl, id⟩, rfl, rfl, rfl, rfl, rfl, rfl, rfl, rfl⟩, rfl, rfl, rfl, rfl⟩

theorem State.hbmSingle_steady (s : State) (ea : Nat) : Steady s (s.hbmSingle ea) := by
  unfold State.hbmSingle
  extract_lets -underBinder +onlyGivenNames y1
  clear_value y1
  extract_lets -underBinder +onlyGivenNames y2
  clear_value y2
  extract_lets -underBinder +onlyGivenNames x3
  have hx3 : Steady s x3 := by
    subst x3
    exact State.modStack_steady ..
  clear_value x3
  refine Steady.ite ?_ ?_
  · refine Steady.trans ?_ (State.log_steady ..)
    exact hx3.trans (State.modStack_steady ..)
  · exact hx3

theorem State.hbmDouble_steady (s : State) (part : Option Nat) (ea kind : Nat) : Steady s (s.hbmDouble part ea kind) := by
  unfold State.hbmDouble
  exact State.log_steady ..

theorem State.hbmSingles_steady (s : State) (granules : List Nat) (l : List Nat) : Steady s (s.hbmSingles granules l) := by
  unfold State.hbmSingles
  refine Steady.each (Steady.refl _) _ fun t1 _ => ?_
  exact State.hbmSingle_steady ..

theorem State.post_steady (s : State) (h f : Nat) (m : Msg) : Steady s (s.post h f m) := by
  unfold State.post
  exact State.modWindow_steady ..

theorem State.reply_steady (s : State) (h f : Nat) (seq : BitVec 16) (code : BitVec 8) (final : Bool) (status : Nat) (payload : Bytes) : Steady s (s.reply h f seq code final status payload) := by
  unfold State.reply
  exact State.post_steady ..

theorem State.eventTo_steady (s : State) (causes : Nat) (hf : Nat × Nat) : Steady s (s.eventTo causes hf) := by
  unfold State.eventTo
  exact State.modWindow_steady ..

theorem State.eventAll_steady (s : State) (causes : Nat) : Steady s (s.eventAll causes) := by
  unfold State.eventAll
  refine Steady.each (Steady.refl _) _ fun t1 _ => ?_
  exact State.eventTo_steady ..

theorem State.toState_keeps (s : State) (e : EState) : Keeps s (s.toState e) := by
  unfold State.toState
  refine Keeps.trans ?_ (State.eventAll_steady ..).toKeeps
  exact ⟨⟨rfl, rfl, id⟩, rfl, rfl, rfl, rfl, rfl, rfl, rfl, rfl⟩

theorem State.faulted_steady (s : State) (p : Nat) : Steady s (s.faulted p) := by
  unfold State.faulted
  extract_lets -underBinder +onlyGivenNames x1
  have hx1 : Steady s x1 := by
    subst x1
    exact ⟨⟨⟨rfl, rfl, id⟩, rfl, rfl, rfl, rfl, rfl, rfl, rfl, rfl⟩, rfl, rfl, rfl, rfl⟩
  clear_value x1
  refine Steady.each hx1 _ fun t2 _ => ?_
  exact State.eventTo_steady ..

theorem State.finish_steady (s : State) (c : LongCmd) (status : Nat) (payload : Bytes) : Steady s (s.finish c status payload) := by
  unfold State.finish
  extract_lets -underBinder +onlyGivenNames x1
  have hx1 : Steady s x1 := by
    subst x1
    exact ⟨⟨⟨rfl, rfl, id⟩, rfl, rfl, rfl, rfl, rfl, rfl, rfl, rfl⟩, rfl, rfl, rfl, rfl⟩
  clear_value x1
  extract_lets -underBinder +onlyGivenNames x2
  have hx2 : Steady s x2 := by
    subst x2
    refine Steady.ite ?_ ?_
    · exact hx1.trans (State.faulted_steady ..)
    · exact hx1
  clear_value x2
  refine Steady.ite ?_ ?_
  · exact hx2
  · exact hx2.trans (State.reply_steady ..)

theorem State.finishAll_steady (s : State) (p : LongCmd → Bool) (status : Nat) : Steady s (s.finishAll p status) := by
  unfold State.finishAll
  refine Steady.each (Steady.refl _) _ fun t1 _ => ?_
  exact State.finish_steady ..

theorem State.report_steady (s : State) (h : Nat) (desc : Bytes) (body : Bytes) (lost : Bool) : Steady s (s.report h desc body lost) := by
  unfold State.report
  extract_lets -underBinder +onlyGivenNames y1
  clear_value y1
  refine Steady.ite ?_ ?_
  · exact Steady.refl _
  · exact State.hostWrite_steady ..

theorem State.violate_steady (s : State) (p kind n : Nat) : Steady s (s.violate p kind n) := by
  unfold State.violate
  exact (Steady.setViolCounts _ _ (swf_smod _ _ _ _))

theorem State.grant_steady (s : State) (kind index : Nat) (tag : BitVec 16) : Steady s (s.grant kind index tag) := by
  unfold State.grant
  exact (Steady.setLeases _ _ (swf_sput _ _ _ _))

theorem State.release_steady (s : State) (kind index : Nat) : Steady s (s.release kind index) := by
  unfold State.release
  exact (Steady.setLeases _ _ (swf_sdel _ _ _))

theorem State.releasePart_steady (s : State) (p : Nat) (kinds : List Nat) : Steady s (s.releasePart p kinds) := by
  unfold State.releasePart
  exact (Steady.setLeases _ _ (swf_filter _ _ _))

/-! ## Flash -/

theorem State.saveSettings_steady (s : State) (modes : List Nat) (pri : BitVec 8) (g : Nat) : Steady s (s.saveSettings modes pri g) := by
  unfold State.saveSettings
  extract_lets -underBinder +onlyGivenNames y1
  clear_value y1
  exact ⟨⟨⟨rfl, rfl, id⟩, rfl, rfl, rfl, rfl, rfl, rfl, rfl, rfl⟩, rfl, rfl, rfl, rfl⟩

theorem State.blow_held (s : State) (lo n : Nat) (ok : Bool) : Held s (s.blow lo n ok) := by
  induction n generalizing s lo with
  | zero => exact Held.refl _
  | succ k ih =>
    rw [State.blow]
    extract_lets -underBinder +onlyGivenNames t
    refine Held.trans ?_ (ih _ _)
    refine Held.trans ?_ (State.drew_steady ..).toHeld
    subst t
    exact Held.ite ⟨rfl, rfl, id⟩ (Held.refl _)

theorem State.commitFuses_held (s : State) (i : FwImage) (ok : Bool) : Held s (s.commitFuses i ok) := by
  unfold State.commitFuses
  extract_lets -underBinder +onlyGivenNames y1
  clear_value y1
  extract_lets -underBinder +onlyGivenNames x2
  have hx2 : Held s x2 := by
    subst x2
    exact State.blow_held ..
  clear_value x2
  extract_lets -underBinder +onlyGivenNames y3
  clear_value y3
  extract_lets -underBinder +onlyGivenNames x4
  have hx4 : Held s x4 := by
    subst x4
    exact hx2.trans (State.drew_steady ..).toHeld
  clear_value x4
  extract_lets -underBinder +onlyGivenNames y5
  clear_value y5
  refine Held.ite ?_ ?_
  · exact hx4.trans ⟨rfl, rfl, id⟩
  · exact hx2.trans (State.drew_steady ..).toHeld

theorem State.blowSome_held (s : State) (lo n : Nat) : Held s (s.blowSome lo n) := by
  induction n generalizing s lo with
  | zero => exact Held.refl _
  | succ k ih =>
    rw [State.blowSome]
    refine Held.ite ?_ (State.drew_steady ..).toHeld
    refine Held.trans ?_ (ih _ _)
    refine (State.drew_steady s).toHeld.trans ?_
    exact ⟨rfl, rfl, id⟩

theorem State.cutCommit_held (s : State) (i : FwImage) : Held s (s.cutCommit i) := by
  unfold State.cutCommit
  extract_lets -underBinder +onlyGivenNames x1
  have hx1 : Held s x1 := by
    subst x1
    exact State.blowSome_held ..
  clear_value x1
  extract_lets -underBinder +onlyGivenNames y2
  clear_value y2
  extract_lets -underBinder +onlyGivenNames x3
  have hx3 : Held s x3 := by
    subst x3
    exact hx1.trans (State.drew_steady ..).toHeld
  clear_value x3
  extract_lets -underBinder +onlyGivenNames y4
  clear_value y4
  refine Held.ite ?_ ?_
  · exact hx3.trans ⟨rfl, rfl, id⟩
  · exact hx1.trans (State.drew_steady ..).toHeld

theorem State.cutActivation_held (s : State) (slot : Fin 2) (commit : Bool) : Held s (s.cutActivation slot commit) := by
  unfold State.cutActivation
  extract_lets -underBinder +onlyGivenNames y1
  clear_value y1
  extract_lets -underBinder +onlyGivenNames y2
  clear_value y2
  extract_lets -underBinder +onlyGivenNames y3
  clear_value y3
  extract_lets -underBinder +onlyGivenNames x4
  have hx4 : Held s x4 := by
    subst x4
    refine Held.trans ?_ (State.drew_steady ..).toHeld
    exact (State.drew_steady ..).toHeld
  clear_value x4
  extract_lets -underBinder +onlyGivenNames x5
  have hx5 : Held s x5 := by
    subst x5
    exact hx4.trans ⟨rfl, rfl, id⟩
  clear_value x5
  refine Held.ite ?_ ?_
  · split
    · refine Held.ite ?_ ?_
      · exact hx5.trans (State.cutCommit_held ..)
      · exact hx5
    · exact hx5
  · exact Held.refl _

theorem State.cutFirmware_held (s : State) (may : Bool) : Held s (s.cutFirmware may) := by
  unfold State.cutFirmware
  split
  · extract_lets -underBinder +onlyGivenNames x1
    have hx1 : Held s x1 := by
      subst x1
      refine Held.trans ?_ (State.drew_steady ..).toHeld
      exact (State.drew_steady ..).toHeld
    clear_value x1
    exact hx1.trans ⟨rfl, rfl, id⟩
  · extract_lets -underBinder +onlyGivenNames x2
    have hx2 : Held s x2 := by
      subst x2
      exact State.cutActivation_held ..
    clear_value x2
    exact hx2.trans ⟨rfl, rfl, id⟩
  · exact Held.refl _

/-! ## Clusters -/

theorem State.modClusterCores_steady (s : State) (c : Nat) (f : Core → Core) : Steady s (s.modClusterCores c f) := by
  unfold State.modClusterCores
  refine Steady.each (Steady.refl _) _ fun t1 _ => ?_
  exact State.modCore_steady ..

theorem State.modListedCores_steady (s : State) (c : Nat) (f : Core → Core) : Steady s (s.modListedCores c f) := by
  unfold State.modListedCores
  exact (Steady.setCores _ _ (swf_smapAll _ _ _))

theorem State.zeroSpads_steady (s : State) (c : Nat) : Steady s (s.zeroSpads c) := by
  unfold State.zeroSpads
  exact (Steady.setSpad _ _ (wf_mclear _ _ _))

theorem State.enterAll_steady (s : State) (l : List Nat) (aim : CState) : Steady s (s.enterAll l aim) := by
  unfold State.enterAll
  refine Steady.each (Steady.refl _) _ fun t1 _ => ?_
  exact State.modCluster_steady ..

theorem State.wakeAll_steady (s : State) (l : List Nat) (aim : CState) : Steady s (s.wakeAll l aim) := by
  unfold State.wakeAll
  refine Steady.each (Steady.refl _) _ fun t1 _ => ?_
  exact State.modCluster_steady ..

theorem State.place_steady (s : State) (p : Nat) : Steady s (s.place p) := by
  unfold State.place
  extract_lets -underBinder +onlyGivenNames y1
  clear_value y1
  refine Steady.ite ?_ ?_
  · exact State.wakeAll_steady ..
  · exact Steady.refl _

theorem State.parkDone_steady (s : State) (p : Nat) : Steady s (s.parkDone p) := by
  unfold State.parkDone
  extract_lets -underBinder +onlyGivenNames y1
  clear_value y1
  refine Steady.ite ?_ ?_
  · exact State.modPart_steady ..
  · exact Steady.refl _

theorem State.placeLoad_steady (s : State) (pl : Plan) (ld : Load) (c : Nat) : Steady s (s.placeLoad pl ld c) := by
  unfold State.placeLoad
  refine Steady.each (Steady.refl _) _ fun t1 _ => ?_
  exact State.modCore_steady ..

theorem State.placeResident_steady (s : State) (p c : Nat) : Steady s (s.placeResident p c) := by
  unfold State.placeResident
  split
  · exact Steady.refl _
  · refine Steady.each (Steady.refl _) _ fun t1 _ => ?_
    exact State.placeLoad_steady ..

theorem State.fenceCluster_steady (s : State) (r : PartRec) (c : Nat) : Steady s (s.fenceCluster r c) := by
  unfold State.fenceCluster
  refine Steady.each (Steady.refl _) _ fun t1 _ => ?_
  exact State.modCore_steady ..

theorem State.sealCluster_steady (s : State) (c : Nat) : Steady s (s.sealCluster c) := by
  unfold State.sealCluster
  exact State.modListedCores_steady ..

theorem State.appendRepair_steady (s : State) (e : BitVec 64) : Steady s (s.appendRepair e) := by
  unfold State.appendRepair
  extract_lets -underBinder +onlyGivenNames y1
  clear_value y1
  refine Steady.ite ?_ ?_
  · exact ⟨⟨⟨rfl, rfl, id⟩, rfl, rfl, rfl, rfl, rfl, rfl, rfl, rfl⟩, rfl, rfl, rfl, rfl⟩
  · exact State.log_steady ..

theorem State.retire_steady (s : State) (c cause : Nat) : Steady s (s.retire c cause) := by
  unfold State.retire
  extract_lets -underBinder +onlyGivenNames x1
  have hx1 : Steady s x1 := by
    subst x1
    refine Steady.trans ?_ (State.log_steady ..)
    exact State.modCluster_steady ..
  clear_value x1
  extract_lets -underBinder +onlyGivenNames x2
  have hx2 : Steady s x2 := by
    subst x2
    refine Steady.trans ?_ (State.modCluster_steady ..)
    exact hx1.trans (State.sealCluster_steady ..)
  clear_value x2
  split
  · exact hx2
  · extract_lets -underBinder +onlyGivenNames y3
    clear_value y3
    refine Steady.each hx2 _ fun t4 _ => ?_
    split
    · refine Steady.ite ?_ ?_
      · exact State.modCore_steady ..
      · exact Steady.refl _

theorem State.sendViol_steady (s : State) (c : Nat) : Steady s (s.sendViol c) := by
  unfold State.sendViol
  extract_lets -underBinder +onlyGivenNames y1
  clear_value y1
  extract_lets -underBinder +onlyGivenNames x2
  have hx2 : Steady s x2 := by
    subst x2
    exact State.modCluster_steady ..
  clear_value x2
  refine Steady.ite ?_ ?_
  · exact Steady.refl _
  · refine Steady.ite ?_ ?_
    · exact hx2.trans (State.violate_steady ..)
    · exact hx2

theorem State.unverify_steady (s : State) (p : Nat) : Steady s (s.unverify p) := by
  unfold State.unverify
  extract_lets -underBinder +onlyGivenNames x1
  have hx1 : Steady s x1 := by
    subst x1
    exact ⟨⟨⟨rfl, rfl, id⟩, rfl, rfl, rfl, rfl, rfl, rfl, rfl, rfl⟩, rfl, rfl, rfl, rfl⟩
  clear_value x1
  exact hx1.trans (State.modPart_steady ..)

/-! ## Requests -/

theorem State.modReq_steady (s : State) (p id : Nat) (f : Request → Request) : Steady s (s.modReq p id f) := by
  unfold State.modReq
  exact State.modPart_steady ..

theorem State.flagHeld_steady (s : State) : Steady s (s.flagHeld) := by
  unfold State.flagHeld
  refine Steady.each (Steady.refl _) _ fun t1 _ => ?_
  split
  · refine Steady.ite ?_ ?_
    · exact State.modReq_steady ..
    · exact Steady.refl _
  · exact Steady.refl _

theorem State.unjoin_steady (s : State) (test : GroupPort → Bool) : Steady s (s.unjoin test) := by
  unfold State.unjoin
  extract_lets -underBinder +onlyGivenNames y1
  clear_value y1
  extract_lets -underBinder +onlyGivenNames x2
  have hx2 : Steady s x2 := by
    subst x2
    refine Steady.ite ?_ ?_
    · exact State.flagHeld_steady ..
    · exact Steady.refl _
  clear_value x2
  exact hx2.trans ((Steady.setParts _ _ (swf_smapAll _ _ _)))

theorem State.rest_steady (s : State) (p : Nat) : Steady s (s.rest p) := by
  unfold State.rest
  extract_lets -underBinder +onlyGivenNames y1
  clear_value y1
  refine Steady.ite ?_ ?_
  · exact Steady.refl _
  · exact State.enterAll_steady ..

theorem State.emptied_steady (s : State) (p : Nat) : Steady s (s.emptied p) := by
  unfold State.emptied
  extract_lets -underBinder +onlyGivenNames y1
  clear_value y1
  extract_lets -underBinder +onlyGivenNames x2
  have hx2 : Steady s x2 := by
    subst x2
    refine Steady.ite ?_ ?_
    · exact Steady.refl _
    · exact State.modPart_steady ..
  clear_value x2
  refine Steady.ite ?_ ?_
  · refine Steady.ite ?_ ?_
    · refine Steady.trans ?_ (State.parkDone_steady ..)
      exact hx2.trans (State.enterAll_steady ..)
    · exact hx2
  · exact Steady.refl _

theorem State.dequeue_steady (s : State) (p id : Nat) : Steady s (s.dequeue p id) := by
  unfold State.dequeue
  refine Steady.trans ?_ (State.emptied_steady ..)
  refine Steady.trans ?_ (State.rest_steady ..)
  exact State.modPart_steady ..

theorem State.discarded_steady (s : State) (c : Compl) : Steady s (s.discarded c) := by
  unfold State.discarded
  extract_lets -underBinder +onlyGivenNames y1
  clear_value y1
  extract_lets -underBinder +onlyGivenNames x2
  have hx2 : Steady s x2 := by
    subst x2
    refine Steady.ite ?_ ?_
    · exact State.modPart_steady ..
    · exact Steady.refl _
  clear_value x2
  split
  · exact hx2.trans (State.dequeue_steady ..)
  · exact hx2.trans (State.emptied_steady ..)

theorem State.close_steady (s : State) (p : Nat) (r : Request) (status reason : Nat) (flags : Flags) : Steady s (s.close p r status reason flags) := by
  unfold State.close
  extract_lets -underBinder +onlyGivenNames y1
  clear_value y1
  refine Steady.ite ?_ ?_
  · exact State.discarded_steady ..
  · refine Steady.trans ?_ (State.modWindow_steady ..)
    exact State.modReq_steady ..

theorem State.mixWrite_steady (s : State) (n a : Nat) (bs : Bytes) : Steady s (s.mixWrite n a bs) := by
  fun_induction State.mixWrite s n a bs with
  | case1 s a b0 b1 b2 b3 b4 b5 b6 b7 r t ih =>
    refine Steady.trans ?_ ih
    refine Steady.trans ?_ (State.drew_steady ..)
    refine Steady.ite ?_ (Steady.refl _)
    exact State.spadWrite_steady ..
  | case2 => exact Steady.refl _

theorem State.haltCore_steady (s : State) (n : Nat) : Steady s (s.haltCore n) := by
  unfold State.haltCore
  extract_lets -underBinder +onlyGivenNames y1
  clear_value y1
  extract_lets -underBinder +onlyGivenNames x2
  have hx2 : Steady s x2 := by
    subst x2
    refine Steady.each (Steady.refl _) _ fun t3 _ => ?_
    split
    · exact State.mixWrite_steady ..
    · exact Steady.refl _
  clear_value x2
  extract_lets -underBinder +onlyGivenNames x4
  have hx4 : Steady s x4 := by
    subst x4
    refine Steady.each hx2 _ fun t5 _ => ?_
    exact State.mixWrite_steady ..
  clear_value x4
  exact hx4.trans (State.modCore_steady ..)

theorem State.mixSlot_steady (s : State) (n slot : Nat) (new : Slot) (w : Nat) : Steady s (s.mixSlot n slot new w) := by
  induction w generalizing s with
  | zero => exact Steady.refl _
  | succ k ih =>
    rw [State.mixSlot]
    refine Steady.trans ?_ (ih _)
    refine Steady.trans ?_ (State.drew_steady ..)
    exact Steady.ite (State.modCore_steady ..) (Steady.refl _)

theorem State.abandonLoads_steady (s : State) (p : Nat) (run : Run) : Steady s (s.abandonLoads p run) := by
  unfold State.abandonLoads
  split
  · exact Steady.refl _
  · refine Steady.each (Steady.refl _) _ fun t1 _ => ?_
    split
    · exact Steady.refl _
    · refine Steady.each (Steady.refl _) _ fun t2 _ => ?_
      refine Steady.each (Steady.refl _) _ fun t3 _ => ?_
      exact State.mixSlot_steady ..

theorem State.afterRun_steady (s : State) (p : Nat) : Steady s (s.afterRun p) := by
  unfold State.afterRun
  extract_lets -underBinder +onlyGivenNames y1
  clear_value y1
  extract_lets -underBinder +onlyGivenNames y2
  clear_value y2
  refine Steady.ite ?_ ?_
  · exact State.enterAll_steady ..
  · exact State.rest_steady ..

theorem State.markDelay_steady (s : State) (p : Nat) (late : Bool) (flags : Flags) : Steady s (s.markDelay p late flags) := by
  unfold State.markDelay
  exact State.modPart_steady ..

theorem State.stopLinks_steady (s : State) (p : Nat) : Steady s (s.stopLinks p) := by
  unfold State.stopLinks
  exact ⟨⟨⟨rfl, rfl, id⟩, rfl, rfl, rfl, rfl, rfl, rfl, rfl, rfl⟩, rfl, rfl, rfl, rfl⟩

theorem State.stopRun_steady (s : State) (p : Nat) : Steady s (s.stopRun p) := by
  unfold State.stopRun
  split
  · exact Steady.refl _
  · extract_lets -underBinder +onlyGivenNames y1
    clear_value y1
    extract_lets -underBinder +onlyGivenNames x2
    have hx2 : Steady s x2 := by
      subst x2
      refine Steady.each (Steady.refl _) _ fun t3 _ => ?_
      exact State.haltCore_steady ..
    clear_value x2
    extract_lets -underBinder +onlyGivenNames x4
    have hx4 : Steady s x4 := by
      subst x4
      exact hx2.trans (State.abandonLoads_steady ..)
    clear_value x4
    extract_lets -underBinder +onlyGivenNames x5
    have hx5 : Steady s x5 := by
      subst x5
      refine Steady.each hx4 _ fun t6 _ => ?_
      exact State.modCluster_steady ..
    clear_value x5
    extract_lets -underBinder +onlyGivenNames x7
    have hx7 : Steady s x7 := by
      subst x7
      exact hx5.trans ⟨⟨⟨rfl, rfl, id⟩, rfl, rfl, rfl, rfl, rfl, rfl, rfl, rfl⟩, rfl, rfl, rfl, rfl⟩
    clear_value x7
    extract_lets -underBinder +onlyGivenNames x8
    have hx8 : Steady s x8 := by
      subst x8
      refine Steady.trans ?_ (State.releasePart_steady ..)
      exact hx7.trans (State.stopLinks_steady ..)
    clear_value x8
    extract_lets -underBinder +onlyGivenNames x9
    have hx9 : Steady s x9 := by
      subst x9
      exact hx8.trans (State.modPart_steady ..)
    clear_value x9
    extract_lets -underBinder +onlyGivenNames x10
    have hx10 : Steady s x10 := by
      subst x10
      split
      · exact hx9.trans (State.markDelay_steady ..)
      · exact hx9
    clear_value x10
    exact hx10.trans (State.afterRun_steady ..)

theorem State.endReq_steady (s : State) (p : Nat) (r : Request) (status reason : Nat) (clear : Bool) : Steady s (s.endReq p r status reason clear) := by
  unfold State.endReq
  extract_lets -underBinder +onlyGivenNames y1
  clear_value y1
  extract_lets -underBinder +onlyGivenNames x2
  have hx2 : Steady s x2 := by
    subst x2
    refine Steady.ite ?_ ?_
    · exact State.stopRun_steady ..
    · exact Steady.refl _
  clear_value x2
  refine Steady.ite ?_ ?_
  · exact hx2
  · exact hx2.trans (State.close_steady ..)

theorem State.endReqs_steady (s : State) (p : Nat) (test : Request → Bool) (status reason : Nat) (clear : Bool) : Steady s (s.endReqs p test status reason clear) := by
  unfold State.endReqs
  refine Steady.each (Steady.refl _) _ fun t1 _ => ?_
  exact State.endReq_steady ..

theorem State.contain_steady (s : State) (p status reason : Nat) : Steady s (s.contain p status reason) := by
  unfold State.contain
  split
  · exact Steady.refl _
  · extract_lets -underBinder +onlyGivenNames x1
    have hx1 : Steady s x1 := by
      subst x1
      split
      · exact State.endReq_steady ..
      · exact State.stopRun_steady ..
    clear_value x1
    refine Steady.ite ?_ ?_
    · exact hx1.trans (State.faulted_steady ..)
    · exact hx1

theorem State.beginRecovery_steady (s : State) (p : Nat) : Steady s (s.beginRecovery p) := by
  unfold State.beginRecovery
  extract_lets -underBinder +onlyGivenNames x1
  have hx1 : Steady s x1 := by
    subst x1
    exact State.modPart_steady ..
  clear_value x1
  extract_lets -underBinder +onlyGivenNames x2
  have hx2 : Steady s x2 := by
    subst x2
    exact hx1.trans (State.contain_steady ..)
  clear_value x2
  refine Steady.ite ?_ ?_
  · refine Steady.trans ?_ (State.rest_steady ..)
    exact hx2.trans (State.endReqs_steady ..)
  · exact Steady.refl _

theorem State.tryResume_steady (s : State) (p : Nat) : Steady s (s.tryResume p) := by
  unfold State.tryResume
  extract_lets -underBinder +onlyGivenNames y1
  clear_value y1
  refine Steady.ite ?_ ?_
  · exact State.modPart_steady ..
  · exact Steady.refl _

theorem State.dropTest_steady (s : State) (p : Nat) : Steady s (s.dropTest p) := by
  unfold State.dropTest
  extract_lets -underBinder +onlyGivenNames x1
  have hx1 : Steady s x1 := by
    subst x1
    exact State.modPart_steady ..
  clear_value x1
  split
  · refine Steady.each hx1 _ fun t2 _ => ?_
    refine Steady.trans ?_ (State.placeResident_steady ..)
    exact State.zeroSpads_steady ..
  · exact hx1

theorem State.dropChannel_steady (s : State) (ch c : Nat) : Steady s (s.dropChannel ch c) := by
  unfold State.dropChannel
  refine Steady.each (Steady.refl _) _ fun t1 _ => ?_
  exact State.modCore_steady ..

theorem State.abandonLease_steady (s : State) (kind index : Nat) : Steady s (s.abandonLease kind index) := by
  unfold State.abandonLease
  extract_lets -underBinder +onlyGivenNames y1
  clear_value y1
  extract_lets -underBinder +onlyGivenNames y2
  clear_value y2
  extract_lets -underBinder +onlyGivenNames y3
  clear_value y3
  extract_lets -underBinder +onlyGivenNames y4
  clear_value y4
  extract_lets -underBinder +onlyGivenNames y5
  clear_value y5
  refine Steady.ite ?_ ?_
  · exact State.modCtx_steady ..
  · refine Steady.ite ?_ ?_
    · split
      · exact State.dropChannel_steady ..
      · exact Steady.refl _
    · refine Steady.ite ?_ ?_
      · refine Steady.trans ?_ (State.faulted_steady ..)
        refine Steady.trans ?_ (State.reply_steady ..)
        exact State.modWindow_steady ..
      · refine Steady.ite ?_ ?_
        · exact State.modCluster_steady ..
        · exact Steady.refl _

theorem State.seizeOne_steady (s : State) (x : Seized) : Steady s (s.seizeOne x) := by
  unfold State.seizeOne
  extract_lets -underBinder +onlyGivenNames y1
  clear_value y1
  extract_lets -underBinder +onlyGivenNames x2
  have hx2 : Steady s x2 := by
    subst x2
    refine Steady.ite ?_ ?_
    · exact State.modCluster_steady ..
    · exact Steady.refl _
  clear_value x2
  refine Steady.trans ?_ (State.log_steady ..)
  refine Steady.trans ?_ (State.release_steady ..)
  exact hx2.trans (State.abandonLease_steady ..)

theorem State.seizeList_steady (s : State) (l : List Seized) : Steady s (s.seizeList l) := by
  unfold State.seizeList
  extract_lets -underBinder +onlyGivenNames x1
  have hx1 : Steady s x1 := by
    subst x1
    refine Steady.each (Steady.refl _) _ fun t2 _ => ?_
    exact State.beginRecovery_steady ..
  clear_value x1
  extract_lets -underBinder +onlyGivenNames x3
  have hx3 : Steady s x3 := by
    subst x3
    refine Steady.each hx1 _ fun t4 _ => ?_
    exact State.seizeOne_steady ..
  clear_value x3
  refine Steady.each hx3 _ fun t5 _ => ?_
  exact State.tryResume_steady ..

theorem State.seize_steady (s : State) (kind index : Nat) : Steady s (s.seize kind index) := by
  unfold State.seize
  refine Steady.ite ?_ ?_
  · exact Steady.refl _
  · exact State.seizeList_steady ..

theorem State.seizeAll_steady (s : State) (holder : Nat) : Steady s (s.seizeAll holder) := by
  unfold State.seizeAll
  exact State.seizeList_steady ..

/-! ## DmaOps -/

theorem State.dmaMove_steady (s : State) (h f : Nat) (j : DmaJob) (n : Nat) (source : Bytes) : Steady s (s.dmaMove h f j n source) := by
  unfold State.dmaMove
  extract_lets -underBinder +onlyGivenNames y1
  clear_value y1
  refine Steady.ite ?_ ?_
  · exact (Steady.setHbm _ _ (wf_dmaWrite _ _ _ _))
  · refine Steady.ite ?_ ?_
    · exact State.hostWrite_steady ..
    · exact (Steady.setHbm _ _ (wf_dmaWrite _ _ _ _))

theorem State.dmaDescriptor_steady (s : State) (h f : Nat) (index : BitVec 16) (moved status : Nat) : Steady s (s.dmaDescriptor h f index moved status) := by
  unfold State.dmaDescriptor
  extract_lets -underBinder +onlyGivenNames y1
  clear_value y1
  refine Steady.trans ?_ (State.modWindow_steady ..)
  exact State.hostWrite_steady ..

theorem State.stopTransfer_steady (s : State) (h f : Nat) (descriptor : Bool) : Steady s (s.stopTransfer h f descriptor) := by
  unfold State.stopTransfer
  split
  · exact Steady.refl _
  · extract_lets -underBinder +onlyGivenNames y1
    clear_value y1
    extract_lets -underBinder +onlyGivenNames x2
    have hx2 : Steady s x2 := by
      subst x2
      exact ⟨⟨⟨rfl, rfl, id⟩, rfl, rfl, rfl, rfl, rfl, rfl, rfl, rfl⟩, rfl, rfl, rfl, rfl⟩
    clear_value x2
    extract_lets -underBinder +onlyGivenNames x3
    have hx3 : Steady s x3 := by
      subst x3
      refine Steady.trans ?_ (State.dmaMove_steady ..)
      refine Steady.ite ?_ ?_
      · exact hx2.trans (State.violate_steady ..)
      · exact hx2
    clear_value x3
    extract_lets -underBinder +onlyGivenNames x4
    have hx4 : Steady s x4 := by
      subst x4
      exact hx3.trans ⟨⟨⟨rfl, rfl, id⟩, rfl, rfl, rfl, rfl, rfl, rfl, rfl, rfl⟩, rfl, rfl, rfl, rfl⟩
    clear_value x4
    refine Steady.ite ?_ ?_
    · exact hx4.trans (State.dmaDescriptor_steady ..)
    · exact hx4.trans (State.modWindow_steady ..)

/-! ## Mmio -/

theorem State.doorbell_steady (s : State) (h f : Nat) (v : BitVec 32) : Steady s (s.doorbell h f v) := by
  unfold State.doorbell
  extract_lets -underBinder +onlyGivenNames y1
  clear_value y1
  extract_lets -underBinder +onlyGivenNames y2
  clear_value y2
  extract_lets -underBinder +onlyGivenNames x3
  have hx3 : Steady s x3 := by
    subst x3
    exact State.modWindow_steady ..
  clear_value x3
  refine Steady.ite ?_ ?_
  · refine Steady.each hx3 _ fun t4 _ => ?_
    exact State.grant_steady ..
  · exact Steady.refl _

theorem State.outAckWrite_steady (s : State) (h f : Nat) (v : BitVec 16) : Steady s (s.outAckWrite h f v) := by
  unfold State.outAckWrite
  exact State.modWindow_steady ..

theorem State.unpark_steady (s : State) (p : Nat) : Steady s (s.unpark p) := by
  unfold State.unpark
  extract_lets -underBinder +onlyGivenNames y1
  clear_value y1
  extract_lets -underBinder +onlyGivenNames x2
  have hx2 : Steady s x2 := by
    subst x2
    exact State.modPart_steady ..
  clear_value x2
  extract_lets -underBinder +onlyGivenNames x3
  have hx3 : Steady s x3 := by
    subst x3
    refine Steady.ite ?_ ?_
    · exact hx2.trans (State.place_steady ..)
    · exact hx2
  clear_value x3
  refine Steady.ite ?_ ?_
  · refine Steady.ite ?_ ?_
    · exact hx3.trans (State.modPart_steady ..)
    · exact hx3
  · exact Steady.refl _

theorem State.sqTailWrite_steady (s : State) (h f k : Nat) (v : BitVec 16) : Steady s (s.sqTailWrite h f k v) := by
  unfold State.sqTailWrite
  extract_lets -underBinder +onlyGivenNames y1
  clear_value y1
  extract_lets -underBinder +onlyGivenNames x2
  have hx2 : Steady s x2 := by
    subst x2
    exact State.modWindow_steady ..
  clear_value x2
  refine Steady.ite ?_ ?_
  · exact hx2.trans (State.unpark_steady ..)
  · exact hx2

theorem State.violClear_steady (s : State) (v : BitVec 32) : Steady s (s.violClear v) := by
  unfold State.violClear
  refine Steady.each (Steady.refl _) _ fun t1 _ => ?_
  exact (Steady.setViolCounts _ _ (swf_sdel _ _ _))

theorem State.ambigClear_steady (s : State) (h : Nat) (v : BitVec 32) : Steady s (s.ambigClear h v) := by
  unfold State.ambigClear
  refine Steady.each (Steady.refl _) _ fun t1 _ => ?_
  exact ⟨⟨⟨rfl, rfl, id⟩, rfl, rfl, rfl, rfl, rfl, rfl, rfl, rfl⟩, rfl, rfl, rfl, rfl⟩

theorem State.write32_steady (s : State) (h f : Nat) (bar : Bar) (off : Nat) (v : BitVec 32) : Steady s (s.write32 h f bar off v) := by
  unfold State.write32
  extract_lets -underBinder +onlyGivenNames y1
  clear_value y1
  split
  · exact State.modWindow_steady ..
  · refine Steady.ite ?_ ?_
    · exact State.modWindow_steady ..
    · refine Steady.ite ?_ ?_
      · exact State.doorbell_steady ..
      · refine Steady.ite ?_ ?_
        · exact State.outAckWrite_steady ..
        · refine Steady.ite ?_ ?_
          · exact State.modWindow_steady ..
          · refine Steady.ite ?_ ?_
            · exact State.modWindow_steady ..
            · refine Steady.ite ?_ ?_
              · exact State.modWindow_steady ..
              · refine Steady.ite ?_ ?_
                · exact State.violClear_steady ..
                · refine Steady.ite ?_ ?_
                  · exact State.ambigClear_steady ..
                  · refine Steady.ite ?_ ?_
                    · exact ⟨⟨⟨rfl, rfl, id⟩, rfl, rfl, rfl, rfl, rfl, rfl, rfl, rfl⟩, rfl, rfl, rfl, rfl⟩
                    · split
                      · refine Steady.ite ?_ ?_
                        · exact State.modWindow_steady ..
                        · refine Steady.ite ?_ ?_
                          · exact State.modWindow_steady ..
                          · refine Steady.ite ?_ ?_
                            · exact State.sqTailWrite_steady ..
                            · refine Steady.ite ?_ ?_
                              · exact State.modWindow_steady ..
                              · exact Steady.refl _
                      · exact Steady.refl _

theorem State.write64_steady (s : State) (h f : Nat) (bar : Bar) (off : Nat) (v : BitVec 64) : Steady s (s.write64 h f bar off v) := by
  unfold State.write64
  split
  · exact State.modWindow_steady ..
  · split
    · exact State.modWindow_steady ..
    · exact State.modWindow_steady ..
    · exact Steady.refl _

theorem State.splitLower_steady (s : State) (h f : Nat) (bar : Bar) (off : Nat) (v : BitVec 32) : Steady s (s.splitLower h f bar off v) := by
  unfold State.splitLower
  exact State.modWindow_steady ..

theorem State.splitUpper_steady (s : State) (h f : Nat) (bar : Bar) (off : Nat) (v : BitVec 32) : Steady s (s.splitUpper h f bar off v) := by
  unfold State.splitUpper
  extract_lets -underBinder +onlyGivenNames y1
  clear_value y1
  extract_lets -underBinder +onlyGivenNames y2
  clear_value y2
  extract_lets -underBinder +onlyGivenNames y3
  clear_value y3
  refine Steady.trans ?_ (State.write64_steady ..)
  exact State.modWindow_steady ..

theorem State.mmioWrite32_steady (s : State) (h f : Nat) (bar : Bar) (off : Nat) (v : BitVec 32) : Steady s (s.mmioWrite32 h f bar off v) := by
  unfold State.mmioWrite32
  refine Steady.ite ?_ ?_
  · refine Steady.ite ?_ ?_
    · exact State.splitLower_steady ..
    · exact State.splitUpper_steady ..
  · exact State.write32_steady ..

theorem State.mmioWrite_steady (s : State) (h f : Nat) (bar : Bar) (off : Nat) (wide : Bool) (v : BitVec 64) : Steady s (s.mmioWrite h f bar off wide v) := by
  unfold State.mmioWrite
  refine Steady.ite ?_ ?_
  · refine Steady.ite ?_ ?_
    · refine Steady.trans ?_ (State.write64_steady ..)
      exact State.modWindow_steady ..
    · refine Steady.trans ?_ (State.write32_steady ..)
      exact State.write32_steady ..
  · exact State.mmioWrite32_steady ..

theorem State.mmio_steady (s : State) (h f : Nat) {act : State → State} (ha : ∀ t, Steady t (act t)) : Steady s (s.mmio h f act) := by
  unfold State.mmio
  exact Steady.ite (Steady.ite (ha _) (State.violate_steady ..)) (Steady.refl _)

theorem State.dropCompl_steady (s : State) (l : List Compl) : Steady s (s.dropCompl l) := by
  unfold State.dropCompl
  refine Steady.each (Steady.refl _) _ fun t1 _ => ?_
  exact State.discarded_steady ..

theorem State.resetWindow_steady (s : State) (h f : Nat) : Steady s (s.resetWindow h f) := by
  unfold State.resetWindow
  extract_lets -underBinder +onlyGivenNames x1
  have hx1 : Steady s x1 := by
    subst x1
    exact State.stopTransfer_steady ..
  clear_value x1
  extract_lets -underBinder +onlyGivenNames y2
  clear_value y2
  extract_lets -underBinder +onlyGivenNames x3
  have hx3 : Steady s x3 := by
    subst x3
    refine Steady.each hx1 _ fun t4 _ => ?_
    exact State.release_steady ..
  clear_value x3
  extract_lets -underBinder +onlyGivenNames x5
  have hx5 : Steady s x5 := by
    subst x5
    exact hx3.trans (State.dropCompl_steady ..)
  clear_value x5
  extract_lets -underBinder +onlyGivenNames x6
  have hx6 : Steady s x6 := by
    subst x6
    exact hx5.trans ⟨⟨⟨rfl, rfl, id⟩, rfl, rfl, rfl, rfl, rfl, rfl, rfl, rfl⟩, rfl, rfl, rfl, rfl⟩
  clear_value x6
  extract_lets -underBinder +onlyGivenNames x7
  have hx7 : Steady s x7 := by
    subst x7
    exact hx6.trans ((Steady.setParts _ _ (swf_smapAll _ _ _)))
  clear_value x7
  exact hx7.trans ((Steady.setWindows _ _ (swf_sput _ _ _ _)))

theorem State.readZero_steady (s : State) : Steady s (s.readZero) := by
  unfold State.readZero
  exact ⟨⟨⟨rfl, rfl, id⟩, rfl, rfl, rfl, rfl, rfl, rfl, rfl, rfl⟩, rfl, rfl, rfl, rfl⟩

theorem State.read32_steady (s : State) (h f : Nat) (bar : Bar) (o : Nat) : Steady s (s.read32 h f bar o) := by
  unfold State.read32
  extract_lets -underBinder +onlyGivenNames y1
  clear_value y1
  extract_lets -underBinder +onlyGivenNames y2
  clear_value y2
  extract_lets -underBinder +onlyGivenNames x3
  have hx3 : Steady s x3 := by
    subst x3
    exact State.modWindow_steady ..
  clear_value x3
  extract_lets -underBinder +onlyGivenNames y4
  clear_value y4
  extract_lets -underBinder +onlyGivenNames x5
  have hx5 : Steady s x5 := by
    subst x5
    exact State.modWindow_steady ..
  clear_value x5
  refine Steady.ite ?_ ?_
  · refine Steady.ite ?_ ?_
    · exact hx3.trans ⟨⟨⟨rfl, rfl, id⟩, rfl, rfl, rfl, rfl, rfl, rfl, rfl, rfl⟩, rfl, rfl, rfl, rfl⟩
    · exact hx5.trans ⟨⟨⟨rfl, rfl, id⟩, rfl, rfl, rfl, rfl, rfl, rfl, rfl, rfl⟩, rfl, rfl, rfl, rfl⟩
  · exact ⟨⟨⟨rfl, rfl, id⟩, rfl, rfl, rfl, rfl, rfl, rfl, rfl, rfl⟩, rfl, rfl, rfl, rfl⟩

theorem State.read64_steady (s : State) (h f : Nat) (bar : Bar) (o : Nat) : Steady s (s.read64 h f bar o) := by
  unfold State.read64
  extract_lets -underBinder +onlyGivenNames x1
  have hx1 : Steady s x1 := by
    subst x1
    exact State.modWindow_steady ..
  clear_value x1
  refine Steady.ite ?_ ?_
  · exact hx1.trans ⟨⟨⟨rfl, rfl, id⟩, rfl, rfl, rfl, rfl, rfl, rfl, rfl, rfl⟩, rfl, rfl, rfl, rfl⟩
  · exact ⟨⟨⟨rfl, rfl, id⟩, rfl, rfl, rfl, rfl, rfl, rfl, rfl, rfl⟩, rfl, rfl, rfl, rfl⟩

/-! ## Gmp -/

theorem State.take_steady (s : State) (c : Cmd) : Steady s (s.take c) := by
  unfold State.take
  refine Steady.trans ?_ (State.release_steady ..)
  exact State.modWindow_steady ..

theorem State.answer_steady (s : State) (c : Cmd) (status : Nat) (payload : Bytes) : Steady s (s.answer c status payload) := by
  unfold State.answer
  exact State.reply_steady ..

theorem State.accept_steady (s : State) (c : Cmd) (part : Nat) (status : Nat) (payload : Bytes) : Steady s (s.accept c part status payload) := by
  unfold State.accept
  extract_lets -underBinder +onlyGivenNames y1
  clear_value y1
  extract_lets -underBinder +onlyGivenNames x2
  have hx2 : Steady s x2 := by
    subst x2
    exact State.reply_steady ..
  clear_value x2
  exact hx2.trans ⟨⟨⟨rfl, rfl, id⟩, rfl, rfl, rfl, rfl, rfl, rfl, rfl, rfl⟩, rfl, rfl, rfl, rfl⟩

theorem State.acceptDone_steady (s : State) (c : Cmd) (status : Nat) (payload : Bytes) : Steady s (s.acceptDone c status payload) := by
  unfold State.acceptDone
  refine Steady.trans ?_ (State.answer_steady ..)
  exact State.reply_steady ..

theorem State.serve_steady (s : State) (h f i : Nat) (row : CmdRow) {act : State → Cmd → State} (ha : ∀ t c, Steady t (act t c)) :
    Steady s (s.serve h f i row act) := by
  unfold State.serve
  extract_lets -underBinder +onlyGivenNames c
  clear_value c
  refine Steady.ite ?_ (Steady.refl _)
  split
  · exact (State.take_steady ..).trans (State.answer_steady ..)
  · exact (State.take_steady ..).trans (ha _ _)

theorem State.serve_held (s : State) (h f i : Nat) (row : CmdRow) {act : State → Cmd → State} (ha : ∀ t c, Held t (act t c)) :
    Held s (s.serve h f i row act) := by
  unfold State.serve
  extract_lets -underBinder +onlyGivenNames c
  clear_value c
  refine Held.ite ?_ (Held.refl _)
  split
  · exact ((State.take_steady ..).trans (State.answer_steady ..)).toHeld
  · exact (State.take_steady ..).toHeld.trans (ha _ _)

theorem State.serve_keeps (s : State) (h f i : Nat) (row : CmdRow) {act : State → Cmd → State} (ha : ∀ t c, Keeps t (act t c)) :
    Keeps s (s.serve h f i row act) := by
  unfold State.serve
  extract_lets -underBinder +onlyGivenNames c
  clear_value c
  refine Keeps.ite ?_ (Keeps.refl _)
  split
  · exact ((State.take_steady ..).trans (State.answer_steady ..)).toKeeps
  · exact (State.take_steady ..).toKeeps.trans (ha _ _)

/-! ## Aborts -/

theorem State.restoreCluster_steady (s : State) (b : Bytes) (c i : Nat) : Steady s (s.restoreCluster b c i) := by
  unfold State.restoreCluster
  refine Steady.ite ?_ ?_
  · exact Steady.refl _
  · refine Steady.each (Steady.refl _) _ fun t1 _ => ?_
    extract_lets -underBinder +onlyGivenNames y2
    clear_value y2
    exact State.modCore_steady ..

theorem State.cutRestore_steady (s : State) (l : LongCmd) : Steady s (s.cutRestore l) := by
  unfold State.cutRestore
  extract_lets -underBinder +onlyGivenNames y1
  clear_value y1
  extract_lets -underBinder +onlyGivenNames y2
  clear_value y2
  refine Steady.ite ?_ ?_
  · refine Steady.each (Steady.refl _) _ fun t3 _ => ?_
    split
    · refine Steady.trans ?_ (State.drew_steady ..)
      refine Steady.ite ?_ ?_
      · exact State.restoreCluster_steady ..
      · exact Steady.refl _
  · exact Steady.refl _

theorem State.closeWindow_steady (s : State) : Steady s (s.closeWindow) := by
  unfold State.closeWindow
  refine Steady.trans ?_ (State.eventAll_steady ..)
  exact ⟨⟨⟨rfl, rfl, id⟩, rfl, rfl, rfl, rfl, rfl, rfl, rfl, rfl⟩, rfl, rfl, rfl, rfl⟩

theorem State.voltagesReached_steady (s : State) : Steady s (s.voltagesReached) := by
  unfold State.voltagesReached
  exact ⟨⟨⟨rfl, rfl, id⟩, rfl, rfl, rfl, rfl, rfl, rfl, rfl, rfl⟩, rfl, rfl, rfl, rfl⟩

theorem State.calOver_steady (s : State) : Steady s (s.calOver) := by
  unfold State.calOver
  split
  · exact Steady.refl _
  · extract_lets -underBinder +onlyGivenNames x1
    have hx1 : Steady s x1 := by
      subst x1
      exact ⟨⟨⟨rfl, rfl, id⟩, rfl, rfl, rfl, rfl, rfl, rfl, rfl, rfl⟩, rfl, rfl, rfl, rfl⟩
    clear_value x1
    extract_lets -underBinder +onlyGivenNames x2
    have hx2 : Steady s x2 := by
      subst x2
      refine Steady.ite ?_ ?_
      · refine Steady.each ?_ _ fun t3 _ => ?_
        · exact hx1.trans (State.voltagesReached_steady ..)
        · exact State.place_steady ..
      · exact hx1
    clear_value x2
    extract_lets -underBinder +onlyGivenNames x4
    have hx4 : Steady s x4 := by
      subst x4
      refine Steady.ite ?_ ?_
      · exact hx2.trans (State.eventAll_steady ..)
      · exact hx2
    clear_value x4
    refine Steady.ite ?_ ?_
    · exact hx4.trans (State.closeWindow_steady ..)
    · exact hx4

theorem State.cutBind_steady (s : State) (p h : Nat) : Steady s (s.cutBind p h) := by
  unfold State.cutBind
  refine Steady.ite ?_ ?_
  · refine Steady.trans ?_ (State.enterAll_steady ..)
    exact State.modPart_steady ..
  · exact Steady.refl _

theorem State.cutOff_held (s : State) (l : LongCmd) : Held s (s.cutOff l) := by
  unfold State.cutOff
  extract_lets -underBinder +onlyGivenNames y1
  clear_value y1
  extract_lets -underBinder +onlyGivenNames y2
  clear_value y2
  refine Held.ite ?_ ?_
  · exact ⟨rfl, rfl, id⟩
  · refine Held.ite ?_ ?_
    · exact (State.modPart_steady ..).toHeld
    · refine Held.ite ?_ ?_
      · exact (State.modPart_steady ..).toHeld
      · refine Held.ite ?_ ?_
        · exact (State.cutBind_steady ..).toHeld
        · refine Held.ite ?_ ?_
          · exact (State.dropTest_steady ..).toHeld
          · refine Held.ite ?_ ?_
            · exact (State.calOver_steady ..).toHeld
            · refine Held.ite ?_ ?_
              · exact (State.cutRestore_steady ..).toHeld
              · refine Held.ite ?_ ?_
                · exact State.cutFirmware_held ..
                · refine Held.ite ?_ ?_
                  · exact ⟨rfl, rfl, id⟩
                  · exact Held.refl _

theorem State.abort_held (s : State) (test : LongCmd → Bool) : Held s (s.abort test) := by
  unfold State.abort
  refine Held.each (Held.refl _) _ fun t1 _ => ?_
  refine Held.trans ?_ (State.finish_steady ..).toHeld
  exact State.cutOff_held ..

/-! ## Partitions -/

theorem State.partCreate_steady (s : State) (c : Cmd) : Steady s (s.partCreate c) := by
  unfold State.partCreate
  extract_lets -underBinder +onlyGivenNames y1
  clear_value y1
  extract_lets -underBinder +onlyGivenNames y2
  clear_value y2
  refine Steady.ite ?_ ?_
  · exact State.answer_steady ..
  · refine Steady.ite ?_ ?_
    · exact State.answer_steady ..
    · refine Steady.ite ?_ ?_
      · exact State.answer_steady ..
      · refine Steady.trans ?_ (State.accept_steady ..)
        exact State.modPart_steady ..

theorem State.clearRules_steady (s : State) (idx : SMap (List Nat)) : Steady s (s.clearRules idx) := by
  unfold State.clearRules
  refine Steady.each (Steady.refl _) _ fun t1 _ => ?_
  split
  · refine Steady.each (Steady.refl _) _ fun t2 _ => ?_
    exact (Steady.setRules _ _ (swf_sdel _ _ _))

theorem State.clearContexts_steady (s : State) (idx : SMap (List Nat)) : Steady s (s.clearContexts idx) := by
  unfold State.clearContexts
  refine Steady.each (Steady.refl _) _ fun t1 _ => ?_
  split
  · refine Steady.each (Steady.refl _) _ fun t2 _ => ?_
    exact State.modCtx_steady ..

theorem State.dropIndices_steady (s : State) (p : Nat) : Steady s (s.dropIndices p) := by
  unfold State.dropIndices
  refine Steady.trans ?_ (State.modPart_steady ..)
  refine Steady.trans ?_ (State.clearContexts_steady ..)
  exact State.clearRules_steady ..

theorem State.assign_steady (s : State) (p : Nat) : Steady s (s.assign p) := by
  unfold State.assign
  extract_lets -underBinder +onlyGivenNames y1
  clear_value y1
  extract_lets -underBinder +onlyGivenNames x2
  have hx2 : Steady s x2 := by
    subst x2
    refine Steady.each ?_ _ fun t3 _ => ?_
    · exact State.dropIndices_steady ..
    · extract_lets -underBinder +onlyGivenNames y4
      clear_value y4
      exact State.modPart_steady ..
  clear_value x2
  refine Steady.each hx2 _ fun t5 _ => ?_
  extract_lets -underBinder +onlyGivenNames y6
  clear_value y6
  extract_lets -underBinder +onlyGivenNames y7
  clear_value y7
  refine Steady.trans ?_ (State.modPart_steady ..)
  refine Steady.each (Steady.refl _) _ fun t8 _ => ?_
  exact State.modCtx_steady ..

theorem State.build_steady (s : State) (p : Nat) : Steady s (s.build p) := by
  unfold State.build
  extract_lets -underBinder +onlyGivenNames y1
  clear_value y1
  extract_lets -underBinder +onlyGivenNames x2
  have hx2 : Steady s x2 := by
    subst x2
    refine Steady.each (Steady.refl _) _ fun t3 _ => ?_
    exact State.modCluster_steady ..
  clear_value x2
  extract_lets -underBinder +onlyGivenNames x4
  have hx4 : Steady s x4 := by
    subst x4
    refine Steady.each hx2 _ fun t5 _ => ?_
    exact State.fenceCluster_steady ..
  clear_value x4
  extract_lets -underBinder +onlyGivenNames x6
  have hx6 : Steady s x6 := by
    subst x6
    exact hx4.trans (State.enterAll_steady ..)
  clear_value x6
  extract_lets -underBinder +onlyGivenNames x7
  have hx7 : Steady s x7 := by
    subst x7
    exact hx6.trans (State.assign_steady ..)
  clear_value x7
  extract_lets -underBinder +onlyGivenNames x8
  have hx8 : Steady s x8 := by
    subst x8
    exact hx7.trans (State.modPart_steady ..)
  clear_value x8
  refine Steady.ite ?_ ?_
  · exact hx8
  · refine Steady.each hx8 _ fun t9 _ => ?_
    exact (Steady.setWindows _ _ (swf_sput _ _ _ _))

theorem State.partBuilt_steady (s : State) (p : Nat) : Steady s (s.partBuilt p) := by
  unfold State.partBuilt
  split
  · refine Steady.ite ?_ ?_
    · exact Steady.refl _
    · refine Steady.trans ?_ (State.finish_steady ..)
      exact State.build_steady ..
  · exact Steady.refl _

theorem State.unloadAll_steady (s : State) (p : Nat) : Steady s (s.unloadAll p) := by
  unfold State.unloadAll
  extract_lets -underBinder +onlyGivenNames y1
  clear_value y1
  extract_lets -underBinder +onlyGivenNames x2
  have hx2 : Steady s x2 := by
    subst x2
    exact State.modPart_steady ..
  clear_value x2
  exact hx2.trans ((Steady.setClusters _ _ (swf_smapAll _ _ _)))

theorem State.leavePorts_steady (s : State) (p : Nat) : Steady s (s.leavePorts p) := by
  unfold State.leavePorts
  extract_lets -underBinder +onlyGivenNames x1
  have hx1 : Steady s x1 := by
    subst x1
    exact State.keepHeld_steady ..
  clear_value x1
  exact hx1.trans ⟨⟨⟨rfl, rfl, id⟩, rfl, rfl, rfl, rfl, rfl, rfl, rfl, rfl⟩, rfl, rfl, rfl, rfl⟩

theorem State.stopDma_steady (s : State) (p : Nat) : Steady s (s.stopDma p) := by
  unfold State.stopDma
  refine Steady.each (Steady.refl _) _ fun t1 _ => ?_
  exact State.stopTransfer_steady ..

theorem State.destroyStart_held (s : State) (p : Nat) : Held s (s.destroyStart p) := by
  unfold State.destroyStart
  extract_lets -underBinder +onlyGivenNames x1
  have hx1 : Held s x1 := by
    subst x1
    refine Held.trans ?_ (State.endReqs_steady ..).toHeld
    exact (State.dropTest_steady ..).toHeld
  clear_value x1
  extract_lets -underBinder +onlyGivenNames x2
  have hx2 : Held s x2 := by
    subst x2
    refine Held.trans ?_ (State.abort_held ..)
    refine Held.trans ?_ (State.stopRun_steady ..).toHeld
    exact hx1.trans (State.stopDma_steady ..).toHeld
  clear_value x2
  extract_lets -underBinder +onlyGivenNames x3
  have hx3 : Held s x3 := by
    subst x3
    refine Held.trans ?_ (State.unloadAll_steady ..).toHeld
    exact hx2.trans (State.leavePorts_steady ..).toHeld
  clear_value x3
  extract_lets -underBinder +onlyGivenNames y4
  clear_value y4
  extract_lets -underBinder +onlyGivenNames x5
  have hx5 : Held s x5 := by
    subst x5
    refine Held.trans ?_ (State.clearContexts_steady ..).toHeld
    exact hx3.trans (State.clearRules_steady ..).toHeld
  clear_value x5
  extract_lets -underBinder +onlyGivenNames y6
  clear_value y6
  exact hx5.trans ((Steady.setParts _ _ (swf_sput _ _ _ _)).toHeld)

theorem State.partDestroy_held (s : State) (c : Cmd) : Held s (s.partDestroy c) := by
  unfold State.partDestroy
  extract_lets -underBinder +onlyGivenNames y1
  clear_value y1
  refine Held.ite ?_ ?_
  · exact (State.answer_steady ..).toHeld
  · refine Held.ite ?_ ?_
    · exact (State.answer_steady ..).toHeld
    · refine Held.trans ?_ (State.accept_steady ..).toHeld
      exact State.destroyStart_held ..

theorem State.destroyEnd_steady (s : State) (p : Nat) (x : Leave) : Steady s (s.destroyEnd p x) := by
  unfold State.destroyEnd
  extract_lets -underBinder +onlyGivenNames y1
  clear_value y1
  extract_lets -underBinder +onlyGivenNames x2
  have hx2 : Steady s x2 := by
    subst x2
    refine Steady.trans ?_ (State.enterAll_steady ..)
    refine Steady.each (Steady.refl _) _ fun t3 _ => ?_
    exact State.sendViol_steady ..
  clear_value x2
  extract_lets -underBinder +onlyGivenNames x4
  have hx4 : Steady s x4 := by
    subst x4
    refine Steady.each hx2 _ fun t5 _ => ?_
    exact State.sealCluster_steady ..
  clear_value x4
  extract_lets -underBinder +onlyGivenNames x6
  have hx6 : Steady s x6 := by
    subst x6
    refine Steady.each hx4 _ fun t7 _ => ?_
    exact State.modCluster_steady ..
  clear_value x6
  extract_lets -underBinder +onlyGivenNames x8
  have hx8 : Steady s x8 := by
    subst x8
    refine Steady.each hx6 _ fun t9 _ => ?_
    exact (Steady.setHbm _ _ (wf_mclear _ _ _))
  clear_value x8
  extract_lets -underBinder +onlyGivenNames x10
  have hx10 : Steady s x10 := by
    subst x10
    exact hx8.trans (State.releasePart_steady ..)
  clear_value x10
  exact hx10.trans (State.modPart_steady ..)

theorem State.partDestroyed_steady (s : State) (p : Nat) : Steady s (s.partDestroyed p) := by
  unfold State.partDestroyed
  split
  · exact Steady.refl _
  · refine Steady.ite ?_ ?_
    · exact Steady.refl _
    · split
      · refine Steady.ite ?_ ?_
        · refine Steady.trans ?_ (State.finish_steady ..)
          exact State.destroyEnd_steady ..
        · exact State.destroyEnd_steady ..
      · exact State.destroyEnd_steady ..

theorem State.partQuery_steady (s : State) (c : Cmd) : Steady s (s.partQuery c) := by
  unfold State.partQuery
  refine Steady.ite ?_ ?_
  · exact State.answer_steady ..
  · exact State.answer_steady ..

theorem State.resetPart_held (s : State) (p : Nat) (hard : Bool) (cmd : Option LongCmd) : Held s (s.resetPart p hard cmd) := by
  unfold State.resetPart
  extract_lets -underBinder +onlyGivenNames x1
  have hx1 : Held s x1 := by
    subst x1
    refine Held.trans ?_ (State.endReqs_steady ..).toHeld
    exact (State.stopRun_steady ..).toHeld
  clear_value x1
  extract_lets -underBinder +onlyGivenNames x2
  have hx2 : Held s x2 := by
    subst x2
    refine Held.trans ?_ (State.dropTest_steady ..).toHeld
    exact hx1.trans (State.abort_held ..)
  clear_value x2
  extract_lets -underBinder +onlyGivenNames y3
  clear_value y3
  extract_lets -underBinder +onlyGivenNames x4
  have hx4 : Held s x4 := by
    subst x4
    refine Held.each ?_ _ fun t5 _ => ?_
    · exact hx2.trans (State.releasePart_steady ..).toHeld
    · exact (State.modCluster_steady ..).toHeld
  clear_value x4
  extract_lets -underBinder +onlyGivenNames x6
  have hx6 : Held s x6 := by
    subst x6
    refine Held.trans ?_ (State.rest_steady ..).toHeld
    refine Held.each hx4 _ fun t7 _ => ?_
    exact (State.modListedCores_steady ..).toHeld
  clear_value x6
  extract_lets -underBinder +onlyGivenNames y8
  clear_value y8
  extract_lets -underBinder +onlyGivenNames x9
  have hx9 : Held s x9 := by
    subst x9
    refine Held.ite ?_ ?_
    · refine Held.trans ?_ (State.modPart_steady ..).toHeld
      refine Held.each hx6 _ fun t10 _ => ?_
      exact (State.modCluster_steady ..).toHeld
    · exact hx6
  clear_value x9
  extract_lets -underBinder +onlyGivenNames x11
  have hx11 : Held s x11 := by
    subst x11
    exact hx9.trans (State.log_steady ..).toHeld
  clear_value x11
  split
  · refine Held.ite ?_ ?_
    · exact hx11.trans (State.modPart_steady ..).toHeld
    · exact hx11.trans (State.finish_steady ..).toHeld
  · exact hx11

theorem State.partReset_held (s : State) (c : Cmd) : Held s (s.partReset c) := by
  unfold State.partReset
  extract_lets -underBinder +onlyGivenNames y1
  clear_value y1
  extract_lets -underBinder +onlyGivenNames x2
  have hx2 : Held s x2 := by
    subst x2
    exact (State.accept_steady ..).toHeld
  clear_value x2
  refine Held.ite ?_ ?_
  · exact (State.answer_steady ..).toHeld
  · refine Held.ite ?_ ?_
    · exact hx2.trans (State.modPart_steady ..).toHeld
    · exact hx2.trans (State.resetPart_held ..)

theorem State.resumeReset_held (s : State) (p : Nat) : Held s (s.resumeReset p) := by
  unfold State.resumeReset
  refine Held.ite ?_ ?_
  · exact Held.refl _
  · split
    · refine Held.trans ?_ (State.resetPart_held ..)
      exact (State.modPart_steady ..).toHeld
    · refine Held.trans ?_ (State.finish_steady ..).toHeld
      exact (State.modPart_steady ..).toHeld
    · exact Held.refl _

theorem State.repark_steady (s : State) (p : Nat) : Steady s (s.repark p) := by
  unfold State.repark
  extract_lets -underBinder +onlyGivenNames y1
  clear_value y1
  refine Steady.ite ?_ ?_
  · refine Steady.trans ?_ (State.parkDone_steady ..)
    refine Steady.trans ?_ (State.enterAll_steady ..)
    exact State.modPart_steady ..
  · exact Steady.refl _

theorem State.resume_held (s : State) (p : Nat) : Held s (s.resume p) := by
  unfold State.resume
  refine Held.trans ?_ (State.repark_steady ..).toHeld
  refine Held.trans ?_ (State.resumeReset_held ..)
  exact (State.tryResume_steady ..).toHeld

/-! ## Control -/

theorem State.writeVoltages_steady (s : State) (zs : List Nat) : Steady s (s.writeVoltages zs) := by
  unfold State.writeVoltages
  refine Steady.each (Steady.refl _) _ fun t1 _ => ?_
  exact State.modZone_steady ..

theorem State.tryExit_keeps (s : State) : Keeps s (s.tryExit) := by
  unfold State.tryExit
  refine Keeps.ite ?_ ?_
  · refine Keeps.trans ?_ (State.log_steady ..).toKeeps
    refine Keeps.trans ?_ (State.toState_keeps ..)
    exact (State.writeVoltages_steady ..).toKeeps
  · exact Keeps.refl _

theorem State.endDrain_steady (s : State) : Steady s (s.endDrain) := by
  unfold State.endDrain
  refine Steady.trans ?_ (State.finishAll_steady ..)
  exact ⟨⟨⟨rfl, rfl, id⟩, rfl, rfl, rfl, rfl, rfl, rfl, rfl, rfl⟩, rfl, rfl, rfl, rfl⟩

theorem State.engineResume_keeps (s : State) (c : Cmd) : Keeps s (s.engineResume c) := by
  unfold State.engineResume
  refine Keeps.ite ?_ ?_
  · refine Keeps.trans ?_ (State.answer_steady ..).toKeeps
    refine Keeps.ite ?_ ?_
    · exact (State.endDrain_steady ..).toKeeps
    · exact Keeps.refl _
  · refine Keeps.ite ?_ ?_
    · exact (State.answer_steady ..).toKeeps
    · refine Keeps.trans ?_ (State.tryExit_keeps ..)
      refine Keeps.trans ?_ (State.accept_steady ..).toKeeps
      exact ⟨⟨rfl, rfl, id⟩, rfl, rfl, rfl, rfl, rfl, rfl, rfl, rfl⟩

theorem State.engineStandby_steady (s : State) (c : Cmd) : Steady s (s.engineStandby c) := by
  unfold State.engineStandby
  generalize BitVec.ofNat 64 (c.at 0 8) = w
  refine Steady.ite ?_ ?_
  · refine Steady.trans ?_ (State.answer_steady ..)
    refine Steady.ite (Steady.refl _) ?_
    exact ⟨⟨⟨rfl, rfl, id⟩, rfl, rfl, rfl, rfl, rfl, rfl, rfl, rfl⟩, rfl, rfl, rfl, rfl⟩
  · refine Steady.trans ?_ (State.accept_steady ..)
    exact ⟨⟨⟨rfl, rfl, id⟩, rfl, rfl, rfl, rfl, rfl, rfl, rfl, rfl⟩, rfl, rfl, rfl, rfl⟩

theorem State.queueSetting_steady (s : State) (c : Cmd) : Steady s (s.queueSetting c) := by
  unfold State.queueSetting
  extract_lets -underBinder +onlyGivenNames y1
  clear_value y1
  extract_lets -underBinder +onlyGivenNames y2
  clear_value y2
  extract_lets -underBinder +onlyGivenNames y3
  clear_value y3
  extract_lets -underBinder +onlyGivenNames y4
  clear_value y4
  refine Steady.ite ?_ ?_
  · exact State.answer_steady ..
  · refine Steady.ite ?_ ?_
    · exact State.answer_steady ..
    · refine Steady.trans ?_ (State.answer_steady ..)
      exact State.modPart_steady ..

theorem State.ruleWrite_steady (s : State) (c : Cmd) : Steady s (s.ruleWrite c) := by
  unfold State.ruleWrite
  extract_lets -underBinder +onlyGivenNames y1
  clear_value y1
  extract_lets -underBinder +onlyGivenNames y2
  clear_value y2
  extract_lets -underBinder +onlyGivenNames y3
  clear_value y3
  refine Steady.ite ?_ ?_
  · exact State.answer_steady ..
  · refine Steady.trans ?_ (State.answer_steady ..)
    refine Steady.each (Steady.refl _) _ fun t4 _ => ?_
    split
    · exact (Steady.setRules _ _ (swf_sput _ _ _ _))

theorem State.queueStats_steady (s : State) (c : Cmd) : Steady s (s.queueStats c) := by
  unfold State.queueStats
  extract_lets -underBinder +onlyGivenNames x1
  have hx1 : Steady s x1 := by
    subst x1
    exact State.answer_steady ..
  clear_value x1
  refine Steady.ite ?_ ?_
  · exact hx1.trans (State.modPart_steady ..)
  · exact hx1

theorem State.testRun_steady (s : State) (c : Cmd) : Steady s (s.testRun c) := by
  unfold State.testRun
  extract_lets -underBinder +onlyGivenNames y1
  clear_value y1
  extract_lets -underBinder +onlyGivenNames y2
  clear_value y2
  extract_lets -underBinder +onlyGivenNames y3
  clear_value y3
  refine Steady.ite ?_ ?_
  · exact State.answer_steady ..
  · refine Steady.ite ?_ ?_
    · exact State.answer_steady ..
    · refine Steady.ite ?_ ?_
      · refine Steady.trans ?_ (State.accept_steady ..)
        exact State.modPart_steady ..
      · refine Steady.trans ?_ (State.accept_steady ..)
        exact State.modPart_steady ..

theorem State.testStart_steady (s : State) (p : Nat) : Steady s (s.testStart p) := by
  unfold State.testStart
  split
  · refine Steady.ite ?_ ?_
    · exact State.modPart_steady ..
    · exact Steady.refl _
  · exact Steady.refl _

theorem State.testTimeout_steady (s : State) (p : Nat) : Steady s (s.testTimeout p) := by
  unfold State.testTimeout
  split
  · refine Steady.ite ?_ ?_
    · refine Steady.trans ?_ (State.finish_steady ..)
      exact State.modPart_steady ..
    · exact Steady.refl _
  · exact Steady.refl _

theorem State.testDone_steady (s : State) (p : Nat) (failed : List (Nat × Nat)) : Steady s (s.testDone p failed) := by
  unfold State.testDone
  split
  · extract_lets -underBinder +onlyGivenNames y1
    clear_value y1
    extract_lets -underBinder +onlyGivenNames y2
    clear_value y2
    extract_lets -underBinder +onlyGivenNames y3
    clear_value y3
    extract_lets -underBinder +onlyGivenNames y4
    clear_value y4
    extract_lets -underBinder +onlyGivenNames y5
    clear_value y5
    extract_lets -underBinder +onlyGivenNames x6
    have hx6 : Steady s x6 := by
      subst x6
      refine Steady.each (Steady.refl _) _ fun t7 _ => ?_
      refine Steady.trans ?_ (State.placeResident_steady ..)
      exact State.zeroSpads_steady ..
    clear_value x6
    extract_lets -underBinder +onlyGivenNames x8
    have hx8 : Steady s x8 := by
      subst x8
      exact hx6.trans ⟨⟨⟨rfl, rfl, id⟩, rfl, rfl, rfl, rfl, rfl, rfl, rfl, rfl⟩, rfl, rfl, rfl, rfl⟩
    clear_value x8
    extract_lets -underBinder +onlyGivenNames x9
    have hx9 : Steady s x9 := by
      subst x9
      exact hx8.trans (State.modPart_steady ..)
    clear_value x9
    refine Steady.trans ?_ (State.log_steady ..)
    exact hx9.trans (State.finish_steady ..)
  · exact Steady.refl _

theorem State.endQuiesced_steady (s : State) (p : Nat) (reason : Nat) (stop : Stop) (r : Request) : Steady s (s.endQuiesced p reason stop r) := by
  unfold State.endQuiesced
  extract_lets -underBinder +onlyGivenNames y1
  clear_value y1
  extract_lets -underBinder +onlyGivenNames y2
  clear_value y2
  extract_lets -underBinder +onlyGivenNames x3
  have hx3 : Steady s x3 := by
    subst x3
    exact State.close_steady ..
  clear_value x3
  refine Steady.ite ?_ ?_
  · exact hx3.trans (State.modPart_steady ..)
  · exact hx3

theorem State.sortRequests_steady (s : State) (reason : Nat) (stop : Stop) : Steady s (s.sortRequests reason stop) := by
  unfold State.sortRequests
  refine Steady.each (Steady.refl _) _ fun t1 _ => ?_
  extract_lets -underBinder +onlyGivenNames y2
  clear_value y2
  extract_lets -underBinder +onlyGivenNames x3
  have hx3 : Steady t1 x3 := by
    subst x3
    refine Steady.each (Steady.refl _) _ fun t4 _ => ?_
    exact State.endQuiesced_steady ..
  clear_value x3
  exact hx3.trans (State.modPart_steady ..)

theorem State.stopBetween_steady (s : State) : Steady s (s.stopBetween) := by
  unfold State.stopBetween
  refine Steady.each (Steady.refl _) _ fun t1 _ => ?_
  split
  · refine Steady.ite ?_ ?_
    · exact State.stopRun_steady ..
    · exact Steady.refl _
  · exact Steady.refl _

theorem State.calRun_steady (s : State) (c : Cmd) : Steady s (s.calRun c) := by
  unfold State.calRun
  extract_lets k force win a t
  refine Steady.ite (State.answer_steady ..) (Steady.ite (State.answer_steady ..) (Steady.ite (State.answer_steady ..)
    (Steady.ite (State.answer_steady ..) ?_)))
  have ht : Steady s t := by
    refine Steady.trans (t := s.accept c 0) (State.accept_steady ..) ?_
    exact ⟨⟨⟨rfl, rfl, id⟩, rfl, rfl, rfl, rfl, rfl, rfl, rfl, rfl⟩, rfl, rfl, rfl, rfl⟩
  clear_value t
  exact Steady.ite ht ((ht.trans (State.sortRequests_steady ..)).trans (State.stopBetween_steady ..))

theorem State.retrim_steady (s : State) : Steady s (s.retrim) := by
  unfold State.retrim
  split
  · refine Steady.ite ?_ ?_
    · refine Steady.trans ?_ (State.writeVoltages_steady ..)
      exact ⟨⟨⟨rfl, rfl, id⟩, rfl, rfl, rfl, rfl, rfl, rfl, rfl, rfl⟩, rfl, rfl, rfl, rfl⟩
    · exact Steady.refl _
  · exact Steady.refl _

theorem State.askJoin_steady (s : State) (p g : Nat) (grp : Group) : Steady s (s.askJoin p g grp) := by
  unfold State.askJoin
  refine Steady.each (Steady.refl _) _ fun t1 _ => ?_
  exact State.modPort_steady ..

theorem State.rejoin_steady (s : State) : Steady s (s.rejoin) := by
  unfold State.rejoin
  refine Steady.each (Steady.refl _) _ fun t1 _ => ?_
  split
  · extract_lets -underBinder +onlyGivenNames y2
    clear_value y2
    refine Steady.ite ?_ ?_
    · exact Steady.refl _
    · exact State.askJoin_steady ..

theorem State.retrainLinks_steady (s : State) : Steady s (s.retrainLinks) := by
  unfold State.retrainLinks
  extract_lets -underBinder +onlyGivenNames x1
  have hx1 : Steady s x1 := by
    subst x1
    exact State.unjoin_steady ..
  clear_value x1
  extract_lets -underBinder +onlyGivenNames x2
  have hx2 : Steady s x2 := by
    subst x2
    exact hx1.trans ⟨⟨⟨rfl, rfl, id⟩, rfl, rfl, rfl, rfl, rfl, rfl, rfl, rfl⟩, rfl, rfl, rfl, rfl⟩
  clear_value x2
  exact hx2.trans ⟨⟨⟨rfl, rfl, id⟩, rfl, rfl, rfl, rfl, rfl, rfl, rfl, rfl⟩, rfl, rfl, rfl, rfl⟩

theorem State.calStart_steady (s : State) : Steady s (s.calStart) := by
  unfold State.calStart
  split
  · extract_lets -underBinder +onlyGivenNames x1
    have hx1 : Steady s x1 := by
      subst x1
      exact ⟨⟨⟨rfl, rfl, id⟩, rfl, rfl, rfl, rfl, rfl, rfl, rfl, rfl⟩, rfl, rfl, rfl, rfl⟩
    clear_value x1
    extract_lets -underBinder +onlyGivenNames x2
    have hx2 : Steady s x2 := by
      subst x2
      refine Steady.ite ?_ ?_
      · exact hx1.trans (State.retrainLinks_steady ..)
      · exact hx1
    clear_value x2
    refine Steady.ite ?_ ?_
    · refine Steady.ite ?_ ?_
      · refine Steady.trans ?_ (State.retrim_steady ..)
        exact hx2.trans (State.enterAll_steady ..)
      · exact hx2
    · exact Steady.refl _
  · exact Steady.refl _

theorem State.calEffect_steady (s : State) (kind : Nat) : Steady s (s.calEffect kind) := by
  unfold State.calEffect
  extract_lets -underBinder +onlyGivenNames y1
  clear_value y1
  refine Steady.ite ?_ ?_
  · exact ⟨⟨⟨rfl, rfl, id⟩, rfl, rfl, rfl, rfl, rfl, rfl, rfl, rfl⟩, rfl, rfl, rfl, rfl⟩
  · refine Steady.ite ?_ ?_
    · exact Steady.refl _
    · refine Steady.ite ?_ ?_
      · refine Steady.each (Steady.refl _) _ fun t2 _ => ?_
        exact State.modCluster_steady ..
      · refine Steady.each (Steady.refl _) _ fun t3 _ => ?_
        refine Steady.trans ?_ (State.drew_steady ..)
        exact State.modZone_steady ..

theorem State.calDone_steady (s : State) (failed : BitVec 4) : Steady s (s.calDone failed) := by
  unfold State.calDone
  split
  · extract_lets -underBinder +onlyGivenNames y1
    clear_value y1
    extract_lets -underBinder +onlyGivenNames y2
    clear_value y2
    extract_lets -underBinder +onlyGivenNames x3
    have hx3 : Steady s x3 := by
      subst x3
      refine Steady.each (Steady.refl _) _ fun t4 _ => ?_
      exact State.calEffect_steady ..
    clear_value x3
    extract_lets -underBinder +onlyGivenNames x5
    have hx5 : Steady s x5 := by
      subst x5
      refine Steady.trans ?_ (State.log_steady ..)
      exact hx3.trans (State.finish_steady ..)
    clear_value x5
    refine Steady.ite ?_ ?_
    · exact hx5.trans (State.calOver_steady ..)
    · exact Steady.refl _
  · exact Steady.refl _

theorem State.maintOp_steady (s : State) (c : Cmd) (f : State) (bad : Bool) (h : Steady s f) : Steady s (s.maintOp c f bad) := by
  unfold State.maintOp
  exact Steady.ite (State.answer_steady ..) (h.trans (State.answer_steady ..))

theorem State.maintOpenOp_steady (s : State) (ms : Nat) : Steady s (s.maintOpenOp ms) := by
  unfold State.maintOpenOp
  exact ⟨⟨⟨rfl, rfl, id⟩, rfl, rfl, rfl, rfl, rfl, rfl, rfl, rfl⟩, rfl, rfl, rfl, rfl⟩

theorem State.maintClose_steady (s : State) : Steady s (s.maintClose) := by
  unfold State.maintClose
  split
  · exact Steady.refl _
  · exact State.closeWindow_steady ..
  · refine Steady.ite ?_ ?_
    · exact ⟨⟨⟨rfl, rfl, id⟩, rfl, rfl, rfl, rfl, rfl, rfl, rfl, rfl⟩, rfl, rfl, rfl, rfl⟩
    · exact State.closeWindow_steady ..

theorem State.maintOpened_steady (s : State) : Steady s (s.maintOpened) := by
  unfold State.maintOpened
  split
  · refine Steady.ite ?_ ?_
    · refine Steady.trans ?_ (State.eventAll_steady ..)
      exact ⟨⟨⟨rfl, rfl, id⟩, rfl, rfl, rfl, rfl, rfl, rfl, rfl, rfl⟩, rfl, rfl, rfl, rfl⟩
    · exact Steady.refl _
  · exact Steady.refl _

theorem State.maintExpire_steady (s : State) : Steady s (s.maintExpire) := by
  unfold State.maintExpire
  split
  · refine Steady.ite ?_ ?_
    · exact State.maintClose_steady ..
    · exact Steady.refl _
  · exact Steady.refl _

theorem State.setAllowance_steady (s : State) (a : Nat) : Steady s (s.setAllowance a) := by
  unfold State.setAllowance
  refine Steady.ite ?_ ?_
  · exact Steady.refl _
  · refine Steady.trans ?_ (State.eventAll_steady ..)
    exact ⟨⟨⟨rfl, rfl, id⟩, rfl, rfl, rfl, rfl, rfl, rfl, rfl, rfl⟩, rfl, rfl, rfl, rfl⟩

theorem State.setPolicy_steady (s : State) (p : Policy) : Steady s (s.setPolicy p) := by
  unfold State.setPolicy
  refine Steady.trans ?_ (State.setAllowance_steady ..)
  exact ⟨⟨⟨rfl, rfl, id⟩, rfl, rfl, rfl, rfl, rfl, rfl, rfl, rfl⟩, rfl, rfl, rfl, rfl⟩

theorem State.parkPart_steady (s : State) (p : Nat) (aim : CState) : Steady s (s.parkPart p aim) := by
  unfold State.parkPart
  extract_lets -underBinder +onlyGivenNames y1
  clear_value y1
  split
  · exact Steady.refl _
  · refine Steady.ite ?_ ?_
    · exact Steady.refl _
    · exact State.modPart_steady ..
  · extract_lets -underBinder +onlyGivenNames x2
    have hx2 : Steady s x2 := by
      subst x2
      exact State.modPart_steady ..
    clear_value x2
    refine Steady.ite ?_ ?_
    · refine Steady.trans ?_ (State.parkDone_steady ..)
      exact hx2.trans (State.enterAll_steady ..)
    · exact hx2

theorem State.idleOp_steady (s : State) (c : Cmd) (bad : Bool) {f : State → Nat → State} (hf : ∀ t p, Steady t (f t p)) :
    Steady s (s.idleOp c bad f) := by
  unfold State.idleOp
  exact Steady.ite (State.answer_steady ..) ((hf _ _).trans (State.answer_steady ..))

theorem State.faultLog_steady (s : State) (c : Cmd) (lost : Bool) : Steady s (s.faultLog c lost) := by
  unfold State.faultLog
  extract_lets -underBinder +onlyGivenNames y1
  clear_value y1
  refine Steady.trans ?_ (State.acceptDone_steady ..)
  exact State.report_steady ..

theorem State.seizeCmd_steady (s : State) (c : Cmd) : Steady s (s.seizeCmd c) := by
  unfold State.seizeCmd
  split
  · exact State.answer_steady ..
  · extract_lets -underBinder +onlyGivenNames y1
    clear_value y1
    refine Steady.ite ?_ ?_
    · exact State.answer_steady ..
    · refine Steady.trans ?_ (State.acceptDone_steady ..)
      exact State.seize_steady ..

/-! ## Serving -/

theorem State.shed_steady (s : State) (h p ring : Nat) (d : Desc) (w : Shed) : Steady s (s.shed h p ring d w) := by
  unfold State.shed
  extract_lets -underBinder +onlyGivenNames x1
  have hx1 : Steady s x1 := by
    subst x1
    exact State.modPart_steady ..
  clear_value x1
  extract_lets -underBinder +onlyGivenNames y2
  clear_value y2
  exact hx1.trans (State.modWindow_steady ..)

theorem State.letIn_steady (s : State) (p n : Nat) (x : Request) : Steady s (s.letIn p n x) := by
  unfold State.letIn
  extract_lets -underBinder +onlyGivenNames x1
  have hx1 : Steady s x1 := by
    subst x1
    exact State.modPart_steady ..
  clear_value x1
  extract_lets -underBinder +onlyGivenNames x2
  have hx2 : Steady s x2 := by
    subst x2
    exact hx1.trans ⟨⟨⟨rfl, rfl, id⟩, rfl, rfl, rfl, rfl, rfl, rfl, rfl, rfl⟩, rfl, rfl, rfl, rfl⟩
  clear_value x2
  refine Steady.ite ?_ ?_
  · exact hx2
  · exact hx2.trans (State.wakeAll_steady ..)

theorem State.fetchDesc_steady (s : State) (h p ring : Nat) (b : Bytes) : Steady s (s.fetchDesc h p ring b) := by
  unfold State.fetchDesc
  extract_lets -underBinder +onlyGivenNames y1
  clear_value y1
  extract_lets -underBinder +onlyGivenNames x2
  have hx2 : Steady s x2 := by
    subst x2
    exact State.modWindow_steady ..
  clear_value x2
  extract_lets -underBinder +onlyGivenNames x3
  have hx3 : Steady s x3 := by
    subst x3
    refine Steady.ite ?_ ?_
    · exact hx2.trans ⟨⟨⟨rfl, rfl, id⟩, rfl, rfl, rfl, rfl, rfl, rfl, rfl, rfl⟩, rfl, rfl, rfl, rfl⟩
    · exact hx2
  clear_value x3
  split
  · exact hx3.trans (State.shed_steady ..)
  · split
    · exact hx3.trans (State.shed_steady ..)
    · exact hx3.trans (State.letIn_steady ..)

theorem State.tookTurn_steady (s : State) (h f r : Nat) : Steady s (s.tookTurn h f r) := by
  unfold State.tookTurn
  extract_lets -underBinder +onlyGivenNames y1
  clear_value y1
  exact ⟨⟨⟨rfl, rfl, id⟩, rfl, rfl, rfl, rfl, rfl, rfl, rfl, rfl⟩, rfl, rfl, rfl, rfl⟩

theorem State.landInput_steady (s : State) (p : Nat) (r : Request) (input : Bytes) : Steady s (s.landInput p r input) := by
  unfold State.landInput
  extract_lets -underBinder +onlyGivenNames y1
  clear_value y1
  extract_lets -underBinder +onlyGivenNames y2
  clear_value y2
  extract_lets -underBinder +onlyGivenNames x3
  have hx3 : Steady s x3 := by
    subst x3
    exact (Steady.setHbm _ _ (wf_relWrite _ _ _ _))
  clear_value x3
  exact hx3.trans (State.modReq_steady ..)

theorem State.ingressLate_steady (s : State) (p : Nat) (r : Request) : Steady s (s.ingressLate p r) := by
  unfold State.ingressLate
  extract_lets -underBinder +onlyGivenNames y1
  clear_value y1
  extract_lets -underBinder +onlyGivenNames y2
  clear_value y2
  extract_lets -underBinder +onlyGivenNames x3
  have hx3 : Steady s x3 := by
    subst x3
    refine Steady.ite ?_ ?_
    · exact State.discarded_steady ..
    · exact State.modWindow_steady ..
  clear_value x3
  exact hx3.trans (State.dequeue_steady ..)

theorem State.setGang_steady (s : State) (p : Nat) (pl : Plan) (slot : Fin 4) (loads : List Nat) : Steady s (s.setGang p pl slot loads) := by
  unfold State.setGang
  refine Steady.each (Steady.refl _) _ fun t1 _ => ?_
  exact State.modCluster_steady ..

theorem State.startRun_steady (s : State) (p : Nat) (r : Request) (l : Loaded) (e : Entry) (first : Layer) : Steady s (s.startRun p r l e first) := by
  unfold State.startRun
  extract_lets -underBinder +onlyGivenNames y1
  clear_value y1
  extract_lets -underBinder +onlyGivenNames x2
  have hx2 : Steady s x2 := by
    subst x2
    refine Steady.each (Steady.refl _) _ fun t3 _ => ?_
    exact State.modCore_steady ..
  clear_value x2
  extract_lets -underBinder +onlyGivenNames y4
  clear_value y4
  extract_lets -underBinder +onlyGivenNames x5
  have hx5 : Steady s x5 := by
    subst x5
    exact hx2.trans (State.setGang_steady ..)
  clear_value x5
  extract_lets -underBinder +onlyGivenNames x6
  have hx6 : Steady s x6 := by
    subst x6
    exact hx5.trans ⟨⟨⟨rfl, rfl, id⟩, rfl, rfl, rfl, rfl, rfl, rfl, rfl, rfl⟩, rfl, rfl, rfl, rfl⟩
  clear_value x6
  extract_lets -underBinder +onlyGivenNames x7
  have hx7 : Steady s x7 := by
    subst x7
    refine Steady.each hx6 _ fun t8 _ => ?_
    exact State.grant_steady ..
  clear_value x7
  extract_lets -underBinder +onlyGivenNames y9
  clear_value y9
  extract_lets -underBinder +onlyGivenNames x10
  have hx10 : Steady s x10 := by
    subst x10
    exact hx7.trans (State.modPart_steady ..)
  clear_value x10
  extract_lets -underBinder +onlyGivenNames x11
  have hx11 : Steady s x11 := by
    subst x11
    exact hx10.trans (State.modReq_steady ..)
  clear_value x11
  exact hx11.trans (State.keepHeld_steady ..)

theorem State.endOfRun_steady (s : State) (p : Nat) (run : Run) : Steady s (s.endOfRun p run) := by
  unfold State.endOfRun
  extract_lets -underBinder +onlyGivenNames x1
  have hx1 : Steady s x1 := by
    subst x1
    exact State.abandonLoads_steady ..
  clear_value x1
  extract_lets -underBinder +onlyGivenNames x2
  have hx2 : Steady s x2 := by
    subst x2
    exact hx1.trans (State.releasePart_steady ..)
  clear_value x2
  extract_lets -underBinder +onlyGivenNames x3
  have hx3 : Steady s x3 := by
    subst x3
    refine Steady.each hx2 _ fun t4 _ => ?_
    exact State.modCore_steady ..
  clear_value x3
  extract_lets -underBinder +onlyGivenNames x5
  have hx5 : Steady s x5 := by
    subst x5
    refine Steady.each hx3 _ fun t6 _ => ?_
    exact State.modCluster_steady ..
  clear_value x5
  extract_lets -underBinder +onlyGivenNames x7
  have hx7 : Steady s x7 := by
    subst x7
    exact hx5.trans (State.modPart_steady ..)
  clear_value x7
  extract_lets -underBinder +onlyGivenNames x8
  have hx8 : Steady s x8 := by
    subst x8
    exact hx7.trans (State.modReq_steady ..)
  clear_value x8
  extract_lets -underBinder +onlyGivenNames x9
  have hx9 : Steady s x9 := by
    subst x9
    split
    · exact hx8.trans (State.markDelay_steady ..)
    · exact hx8
  clear_value x9
  exact hx9.trans (State.afterRun_steady ..)

theorem State.egress_steady (s : State) (p : Nat) (r : Request) : Steady s (s.egress p r) := by
  unfold State.egress
  refine Steady.trans ?_ (State.close_steady ..)
  exact State.hostWrite_steady ..

theorem State.egressFault_steady (s : State) (p : Nat) (r : Request) (line : Nat) : Steady s (s.egressFault p r line) := by
  unfold State.egressFault
  extract_lets -underBinder +onlyGivenNames x1
  have hx1 : Steady s x1 := by
    subst x1
    exact State.hostWrite_steady ..
  clear_value x1
  extract_lets -underBinder +onlyGivenNames x2
  have hx2 : Steady s x2 := by
    subst x2
    exact hx1.trans ⟨⟨⟨rfl, rfl, id⟩, rfl, rfl, rfl, rfl, rfl, rfl, rfl, rfl⟩, rfl, rfl, rfl, rfl⟩
  clear_value x2
  refine Steady.trans ?_ (State.hbmDouble_steady ..)
  refine Steady.trans ?_ (State.faulted_steady ..)
  exact hx2.trans (State.close_steady ..)

theorem State.writeRecord_steady (s : State) (h f : Nat) (c : Compl) : Steady s (s.writeRecord h f c) := by
  unfold State.writeRecord
  extract_lets -underBinder +onlyGivenNames y1
  clear_value y1
  extract_lets -underBinder +onlyGivenNames y2
  clear_value y2
  extract_lets -underBinder +onlyGivenNames y3
  clear_value y3
  extract_lets -underBinder +onlyGivenNames y4
  clear_value y4
  extract_lets -underBinder +onlyGivenNames y5
  clear_value y5
  extract_lets -underBinder +onlyGivenNames x6
  have hx6 : Steady s x6 := by
    subst x6
    exact State.hostWrite_steady ..
  clear_value x6
  extract_lets -underBinder +onlyGivenNames x7
  have hx7 : Steady s x7 := by
    subst x7
    exact hx6.trans (State.modWindow_steady ..)
  clear_value x7
  extract_lets -underBinder +onlyGivenNames x8
  have hx8 : Steady s x8 := by
    subst x8
    exact hx7.trans (State.modPart_steady ..)
  clear_value x8
  refine Steady.ite ?_ ?_
  · split
    · exact hx8.trans (State.dequeue_steady ..)
    · exact hx8.trans (State.emptied_steady ..)
  · exact hx7

/-! ## Fabric -/

theorem State.passOut_steady (s : State) (c lc : Nat) (net : Net) (data : Bytes) (t : Nat) (d : Dir) : Steady s (s.passOut c lc net data t d) := by
  unfold State.passOut
  extract_lets -underBinder +onlyGivenNames y1
  clear_value y1
  refine Steady.ite ?_ ?_
  · exact Steady.refl _
  · split
    · exact Steady.refl _
    · extract_lets -underBinder +onlyGivenNames y2
      clear_value y2
      extract_lets -underBinder +onlyGivenNames x3
      have hx3 : Steady s x3 := by
        subst x3
        exact State.modCore_steady ..
      clear_value x3
      exact hx3.trans ⟨⟨⟨rfl, rfl, id⟩, rfl, rfl, rfl, rfl, rfl, rfl, rfl, rfl⟩, rfl, rfl, rfl, rfl⟩

theorem State.passAll_steady (s : State) (c lc : Nat) (net : Net) (data : Bytes) (t : Nat) (outs : List Dir) : Steady s (s.passAll c lc net data t outs) := by
  unfold State.passAll
  extract_lets -underBinder +onlyGivenNames y1
  clear_value y1
  extract_lets -underBinder +onlyGivenNames x2
  have hx2 : Steady s x2 := by
    subst x2
    refine Steady.each (Steady.refl _) _ fun t3 _ => ?_
    exact State.passOut_steady ..
  clear_value x2
  refine Steady.ite ?_ ?_
  · exact hx2.trans (State.modCluster_steady ..)
  · exact hx2

theorem State.creditBack_steady (s : State) (c lc : Nat) (net : Net) (port : Dir) : Steady s (s.creditBack c lc net port) := by
  unfold State.creditBack
  split
  · exact Steady.refl _
  · extract_lets -underBinder +onlyGivenNames y1
    clear_value y1
    exact ⟨⟨⟨rfl, rfl, id⟩, rfl, rfl, rfl, rfl, rfl, rfl, rfl, rfl⟩, rfl, rfl, rfl, rfl⟩

theorem State.popHead_steady (s : State) (c lc : Nat) (net : Net) (port : Dir) : Steady s (s.popHead c lc net port) := by
  unfold State.popHead
  refine Steady.trans ?_ (State.creditBack_steady ..)
  exact State.modCore_steady ..

theorem State.setHead_steady (s : State) (c lc : Nat) (net : Net) (port : Dir) (outs : List Dir) (rx : Bool) : Steady s (s.setHead c lc net port outs rx) := by
  unfold State.setHead
  exact State.modCore_steady ..

theorem State.takeRx_steady (s : State) (c lc : Nat) (net : Net) : Steady s (s.takeRx c lc net) := by
  unfold State.takeRx
  extract_lets -underBinder +onlyGivenNames y1
  clear_value y1
  split
  · exact Steady.refl _
  · split
    · exact Steady.refl _
    · extract_lets -underBinder +onlyGivenNames y2
      clear_value y2
      refine Steady.ite ?_ ?_
      · exact State.popHead_steady ..
      · exact State.setHead_steady ..

theorem State.arrive_steady (s : State) (c lc : Nat) (net : Net) (port : Dir) : Steady s (s.arrive c lc net port) := by
  unfold State.arrive
  extract_lets -underBinder +onlyGivenNames y1
  clear_value y1
  split
  · exact Steady.refl _
  · extract_lets -underBinder +onlyGivenNames y2
    clear_value y2
    extract_lets -underBinder +onlyGivenNames x3
    have hx3 : Steady s x3 := by
      subst x3
      exact ⟨⟨⟨rfl, rfl, id⟩, rfl, rfl, rfl, rfl, rfl, rfl, rfl, rfl⟩, rfl, rfl, rfl, rfl⟩
    clear_value x3
    refine Steady.ite ?_ ?_
    · exact hx3
    · refine Steady.ite ?_ ?_
      · refine Steady.trans ?_ (State.creditBack_steady ..)
        exact hx3.trans (State.passAll_steady ..)
      · exact hx3.trans (State.modCore_steady ..)

theorem State.depart_steady (s : State) (c lc : Nat) (net : Net) (port : Dir) : Steady s (s.depart c lc net port) := by
  unfold State.depart
  extract_lets -underBinder +onlyGivenNames y1
  clear_value y1
  extract_lets -underBinder +onlyGivenNames y2
  clear_value y2
  extract_lets -underBinder +onlyGivenNames y3
  clear_value y3
  split
  · exact Steady.refl _
  · split
    · extract_lets -underBinder +onlyGivenNames y4
      clear_value y4
      extract_lets -underBinder +onlyGivenNames y5
      clear_value y5
      extract_lets -underBinder +onlyGivenNames x6
      have hx6 : Steady s x6 := by
        subst x6
        exact State.passAll_steady ..
      clear_value x6
      refine Steady.ite ?_ ?_
      · exact Steady.refl _
      · refine Steady.ite ?_ ?_
        · exact hx6.trans (State.popHead_steady ..)
        · exact hx6.trans (State.setHead_steady ..)

theorem State.credit_steady (s : State) (c lc : Nat) (net : Net) (d : Dir) : Steady s (s.credit c lc net d) := by
  unfold State.credit
  extract_lets -underBinder +onlyGivenNames y1
  clear_value y1
  extract_lets -underBinder +onlyGivenNames y2
  clear_value y2
  extract_lets -underBinder +onlyGivenNames x3
  have hx3 : Steady s x3 := by
    subst x3
    exact ⟨⟨⟨rfl, rfl, id⟩, rfl, rfl, rfl, rfl, rfl, rfl, rfl, rfl⟩, rfl, rfl, rfl, rfl⟩
  clear_value x3
  exact hx3.trans (State.modCore_steady ..)

/-! ## Issue -/

theorem State.modRunAt_steady (s : State) (c : Nat) (f : Run → Run) : Steady s (s.modRunAt c f) := by
  unfold State.modRunAt
  split
  · exact State.modPart_steady ..
  · exact Steady.refl _

theorem State.beginHold_steady (s : State) (c lc : Nat) (kind : HoldKind) (cause : HoldCause) : Steady s (s.beginHold c lc kind cause) := by
  unfold State.beginHold
  exact State.modCore_steady ..

theorem State.freeze_steady (s : State) (c : Nat) (l : List (Nat × HoldKind × HoldCause)) : Steady s (s.freeze c l) := by
  unfold State.freeze
  extract_lets -underBinder +onlyGivenNames y1
  clear_value y1
  extract_lets -underBinder +onlyGivenNames y2
  clear_value y2
  refine Steady.each (Steady.refl _) _ fun t3 _ => ?_
  split
  · exact State.beginHold_steady ..
  · refine Steady.ite ?_ ?_
    · exact Steady.refl _
    · exact State.beginHold_steady ..

theorem State.holdNow_steady (s t : State) (c lc : Nat) (h : s.holdNow c lc = some t) : Steady s t := by
  unfold State.holdNow at h
  split at h
  · split at h
    · exact (Option.some_ne_none _ h.symm).elim
    · exact Option.some.inj h ▸ State.freeze_steady ..
  · obtain ⟨x, -, rfl⟩ := Option.map_eq_some_iff.1 h
    exact State.beginHold_steady ..

theorem State.reconsider_steady (s : State) (c lc : Nat) : Steady s (s.reconsider c lc) := by
  unfold State.reconsider
  refine Steady.ite ?_ ?_
  · refine Steady.ite ?_ ?_
    · refine Steady.each (Steady.refl _) _ fun t1 _ => ?_
      exact State.modCore_steady ..
    · exact State.modCore_steady ..
  · exact Steady.refl _

theorem State.wdogTrip_steady (s : State) (c lc : Nat) (kind : HoldKind) : Steady s (s.wdogTrip c lc kind) := by
  unfold State.wdogTrip
  extract_lets -underBinder +onlyGivenNames y1
  clear_value y1
  extract_lets -underBinder +onlyGivenNames x2
  have hx2 : Steady s x2 := by
    subst x2
    exact State.modCore_steady ..
  clear_value x2
  extract_lets -underBinder +onlyGivenNames x3
  have hx3 : Steady s x3 := by
    subst x3
    exact hx2.trans ⟨⟨⟨rfl, rfl, id⟩, rfl, rfl, rfl, rfl, rfl, rfl, rfl, rfl⟩, rfl, rfl, rfl, rfl⟩
  clear_value x3
  exact hx3.trans (State.log_steady ..)

theorem State.doubleBit_steady (s : State) (c lc addr : Nat) (store : Bool) : Steady s (s.doubleBit c lc addr store) := by
  unfold State.doubleBit
  extract_lets -underBinder +onlyGivenNames y1
  clear_value y1
  extract_lets -underBinder +onlyGivenNames x2
  have hx2 : Steady s x2 := by
    subst x2
    exact State.modCore_steady ..
  clear_value x2
  extract_lets -underBinder +onlyGivenNames x3
  have hx3 : Steady s x3 := by
    subst x3
    exact hx2.trans ⟨⟨⟨rfl, rfl, id⟩, rfl, rfl, rfl, rfl, rfl, rfl, rfl, rfl⟩, rfl, rfl, rfl, rfl⟩
  clear_value x3
  extract_lets -underBinder +onlyGivenNames y4
  clear_value y4
  extract_lets -underBinder +onlyGivenNames y5
  clear_value y5
  extract_lets -underBinder +onlyGivenNames x6
  have hx6 : Steady s x6 := by
    subst x6
    exact hx3.trans (State.modCluster_steady ..)
  clear_value x6
  extract_lets -underBinder +onlyGivenNames x7
  have hx7 : Steady s x7 := by
    subst x7
    refine Steady.ite ?_ ?_
    · exact hx6.trans ⟨⟨⟨rfl, rfl, id⟩, rfl, rfl, rfl, rfl, rfl, rfl, rfl, rfl⟩, rfl, rfl, rfl, rfl⟩
    · exact hx6
  clear_value x7
  extract_lets -underBinder +onlyGivenNames x8
  have hx8 : Steady s x8 := by
    subst x8
    exact hx7.trans (State.log_steady ..)
  clear_value x8
  split
  · exact hx8.trans (State.contain_steady ..)
  · exact hx8

theorem State.secded_steady (s : State) (c lc slot : Nat) (words : List Nat) (reads : List (Nat × Nat)) (ecc : Ecc) : Steady s (s.secded c lc slot words reads ecc) := by
  unfold State.secded
  extract_lets -underBinder +onlyGivenNames y1
  clear_value y1
  extract_lets -underBinder +onlyGivenNames x2
  have hx2 : Steady s x2 := by
    subst x2
    refine Steady.ite ?_ ?_
    · exact Steady.refl _
    · exact State.modCore_steady ..
  clear_value x2
  extract_lets -underBinder +onlyGivenNames x3
  have hx3 : Steady s x3 := by
    subst x3
    refine Steady.each hx2 _ fun t4 _ => ?_
    exact State.doubleBit_steady ..
  clear_value x3
  refine Steady.each hx3 _ fun t5 _ => ?_
  exact State.doubleBit_steady ..

theorem State.issue_steady (s : State) (c lc : Nat) (want : WordKind) (ecc : Ecc) {act : State → State} (ha : ∀ t, Steady t (act t)) :
    Steady s (s.issue c lc want ecc act) := by
  unfold State.issue
  extract_lets -underBinder +onlyGivenNames u
  have hu : Steady s u := State.reconsider_steady ..
  clear_value u
  dsimp only
  refine Steady.ite (Steady.refl _) ?_
  split
  · exact hu.trans (State.holdNow_steady _ _ c lc ‹_›)
  · refine Steady.trans ?_ (State.secded_steady ..)
    exact Steady.ite hu (hu.trans (ha _))

/-! ## Exec -/

theorem State.swap_steady (s : State) (c lc : Nat) : Steady s (s.swap c lc) := by
  unfold State.swap
  extract_lets -underBinder +onlyGivenNames y1
  clear_value y1
  extract_lets -underBinder +onlyGivenNames y2
  clear_value y2
  extract_lets -underBinder +onlyGivenNames x3
  have hx3 : Steady s x3 := by
    subst x3
    refine Steady.ite ?_ ?_
    · exact State.modCluster_steady ..
    · exact Steady.refl _
  clear_value x3
  exact hx3.trans (State.modCore_steady ..)

theorem State.scalarSide_steady (s : State) (c lc : Nat) (k : Core) (o : SOp) (preset : Nat) : Steady s (s.scalarSide c lc k o preset) := by
  unfold State.scalarSide
  extract_lets -underBinder +onlyGivenNames y1
  clear_value y1
  split
  · exact State.modCore_steady ..
  · exact State.spadWrite_steady ..
  · exact State.passAll_steady ..
  · exact State.takeRx_steady ..
  · exact Steady.refl _

theorem State.netSide_steady (s : State) (c lc : Nat) (k : Core) (w : BitVec 64) (receive : Bool) (rx : Bytes) (preset : Nat) : Steady s (s.netSide c lc k w receive rx preset) := by
  unfold State.netSide
  extract_lets -underBinder +onlyGivenNames y1
  clear_value y1
  extract_lets -underBinder +onlyGivenNames y2
  clear_value y2
  extract_lets -underBinder +onlyGivenNames y3
  clear_value y3
  extract_lets -underBinder +onlyGivenNames x4
  have hx4 : Steady s x4 := by
    subst x4
    refine Steady.ite ?_ ?_
    · refine Steady.trans ?_ (State.modCore_steady ..)
      refine Steady.trans ?_ (State.takeRx_steady ..)
      exact State.spadWrite_steady ..
    · exact State.passAll_steady ..
  clear_value x4
  exact hx4.trans (State.modCore_steady ..)

theorem State.fire_steady (s : State) (c lc : Nat) : Steady s (s.fire c lc) := by
  unfold State.fire
  extract_lets -underBinder +onlyGivenNames y1
  clear_value y1
  extract_lets -underBinder +onlyGivenNames y2
  clear_value y2
  extract_lets -underBinder +onlyGivenNames y3
  clear_value y3
  extract_lets -underBinder +onlyGivenNames y4
  clear_value y4
  extract_lets -underBinder +onlyGivenNames y5
  clear_value y5
  extract_lets -underBinder +onlyGivenNames y6
  clear_value y6
  extract_lets -underBinder +onlyGivenNames y7
  clear_value y7
  extract_lets -underBinder +onlyGivenNames y8
  clear_value y8
  extract_lets -underBinder +onlyGivenNames y9
  clear_value y9
  extract_lets -underBinder +onlyGivenNames y10
  clear_value y10
  extract_lets -underBinder +onlyGivenNames y11
  clear_value y11
  extract_lets -underBinder +onlyGivenNames x12
  have hx12 : Steady s x12 := by
    subst x12
    refine Steady.ite ?_ ?_
    · exact State.modCluster_steady ..
    · exact Steady.refl _
  clear_value x12
  extract_lets -underBinder +onlyGivenNames x13
  have hx13 : Steady s x13 := by
    subst x13
    refine Steady.ite ?_ ?_
    · exact hx12.trans (State.swap_steady ..)
    · exact hx12
  clear_value x13
  extract_lets -underBinder +onlyGivenNames x14
  have hx14 : Steady s x14 := by
    subst x14
    split
    · extract_lets -underBinder +onlyGivenNames y15
      clear_value y15
      refine Steady.ite ?_ ?_
      · exact hx13.trans (State.spadWrite_steady ..)
      · exact hx13
    · exact hx13
  clear_value x14
  extract_lets -underBinder +onlyGivenNames x16
  have hx16 : Steady s x16 := by
    subst x16
    split
    · exact hx14.trans (State.scalarSide_steady ..)
    · exact hx14
  clear_value x16
  extract_lets -underBinder +onlyGivenNames x17
  have hx17 : Steady s x17 := by
    subst x17
    split
    · exact hx16.trans (State.netSide_steady ..)
    · exact hx16
  clear_value x17
  exact hx17.trans (State.modCore_steady ..)

theorem State.landing_steady (s : State) (c lc : Nat) (q : Stream) : Steady s (s.landing c lc q) := by
  unfold State.landing
  refine Steady.ite ?_ ?_
  · exact State.modCore_steady ..
  · exact Steady.refl _

theorem State.drainWrite_steady (s : State) (c lc : Nat) : Steady s (s.drainWrite c lc) := by
  unfold State.drainWrite
  dsimp only
  refine Steady.ite (Steady.refl _) ?_
  split
  · exact Steady.ite (Steady.refl _) (State.holdNow_steady _ _ c lc ‹_›)
  · refine Steady.trans ?_ (State.modCore_steady ..)
    refine Steady.each (Steady.refl _) _ fun t x => ?_
    split
    · exact State.spadWrite_steady ..
    · exact Steady.refl _

theorem State.gangUpdate_steady (s : State) (c k : Nat) : Steady s (s.gangUpdate c k) := by
  unfold State.gangUpdate
  extract_lets -underBinder +onlyGivenNames y1
  clear_value y1
  refine Steady.ite ?_ ?_
  · exact Steady.refl _
  · split
    · exact Steady.refl _
    · extract_lets -underBinder +onlyGivenNames y2
      clear_value y2
      extract_lets -underBinder +onlyGivenNames x3
      have hx3 : Steady s x3 := by
        subst x3
        exact State.modCore_steady ..
      clear_value x3
      exact hx3.trans (State.modCluster_steady ..)

theorem State.fixSwitch_steady (s : State) (p : Nat) : Steady s (s.fixSwitch p) := by
  unfold State.fixSwitch
  extract_lets -underBinder +onlyGivenNames y1
  clear_value y1
  split
  · exact Steady.refl _
  · split
    · extract_lets -underBinder +onlyGivenNames y2
      clear_value y2
      extract_lets -underBinder +onlyGivenNames y3
      clear_value y3
      extract_lets -underBinder +onlyGivenNames y4
      clear_value y4
      extract_lets -underBinder +onlyGivenNames y5
      clear_value y5
      extract_lets -underBinder +onlyGivenNames x6
      have hx6 : Steady s x6 := by
        subst x6
        refine Steady.ite ?_ ?_
        · exact Steady.refl _
        · refine Steady.each (Steady.refl _) _ fun t7 _ => ?_
          exact State.modCluster_steady ..
      clear_value x6
      refine Steady.ite ?_ ?_
      · exact Steady.refl _
      · exact hx6.trans (State.modPart_steady ..)
    · exact Steady.refl _

theorem State.layerEnds_steady (s : State) (p : Nat) : Steady s (s.layerEnds p) := by
  unfold State.layerEnds
  split
  · exact Steady.refl _
  · extract_lets -underBinder +onlyGivenNames x1
    have hx1 : Steady s x1 := by
      subst x1
      exact State.modPart_steady ..
    clear_value x1
    refine Steady.ite ?_ ?_
    · exact Steady.refl _
    · refine Steady.ite ?_ ?_
      · refine Steady.ite ?_ ?_
        · exact Steady.refl _
        · exact State.modPart_steady ..
      · refine Steady.ite ?_ ?_
        · exact hx1.trans (State.stopRun_steady ..)
        · exact hx1.trans (State.fixSwitch_steady ..)

theorem State.coreHalt_steady (s : State) (c lc : Nat) : Steady s (s.coreHalt c lc) := by
  unfold State.coreHalt
  extract_lets -underBinder +onlyGivenNames y1
  clear_value y1
  extract_lets -underBinder +onlyGivenNames y2
  clear_value y2
  extract_lets -underBinder +onlyGivenNames y3
  clear_value y3
  extract_lets -underBinder +onlyGivenNames x4
  have hx4 : Steady s x4 := by
    subst x4
    refine Steady.trans ?_ (State.modCluster_steady ..)
    exact State.modCore_steady ..
  clear_value x4
  extract_lets -underBinder +onlyGivenNames x5
  have hx5 : Steady s x5 := by
    subst x5
    exact hx4.trans ⟨⟨⟨rfl, rfl, id⟩, rfl, rfl, rfl, rfl, rfl, rfl, rfl, rfl⟩, rfl, rfl, rfl, rfl⟩
  clear_value x5
  refine Steady.ite ?_ ?_
  · split
    · exact hx5.trans (State.layerEnds_steady ..)
    · exact hx5
  · exact Steady.refl _

theorem State.holdEnds_steady (s : State) (c lc : Nat) : Steady s (s.holdEnds c lc) := by
  unfold State.holdEnds
  split
  · exact Steady.refl _
  · refine Steady.ite ?_ ?_
    · exact State.modCore_steady ..
    · exact Steady.refl _

theorem State.deadlock_steady (s : State) (c lc : Nat) (kind : HoldKind) : Steady s (s.deadlock c lc kind) := by
  unfold State.deadlock
  refine Steady.trans ?_ (State.modRunAt_steady ..)
  exact State.wdogTrip_steady ..

theorem State.trip_steady (s : State) (c lc : Nat) : Steady s (s.trip c lc) := by
  unfold State.trip
  extract_lets -underBinder +onlyGivenNames y1
  clear_value y1
  refine Steady.ite ?_ ?_
  · exact Steady.refl _
  · split
    · refine Steady.ite ?_ ?_
      · exact State.deadlock_steady ..
      · exact Steady.refl _
    · refine Steady.ite ?_ ?_
      · exact State.wdogTrip_steady ..
      · exact Steady.refl _
    · split
      · split
        · refine Steady.ite ?_ ?_
          · exact State.deadlock_steady ..
          · exact Steady.refl _
        · exact Steady.refl _
      · exact Steady.refl _

/-! ## Strings -/

theorem State.frame_steady (s : State) (h : Hdr) {act : State → Nat → State} (ha : ∀ t c, Steady t (act t c)) :
    Steady s (s.frame h act) := by
  unfold State.frame
  refine Steady.ite (Steady.refl _) ?_
  split
  · split
    · exact State.modCluster_steady ..
    · exact Steady.ite (ha _ _) (State.modCluster_steady ..)
  · exact Steady.ite (Steady.each (Steady.refl _) _ ha) (Steady.refl _)

theorem State.sendReply_steady (s : State) (c : Nat) (h : Hdr) (r : StrReg) (v : Nat) : Steady s (s.sendReply c h r v) := by
  unfold State.sendReply
  exact ⟨⟨⟨rfl, rfl, id⟩, rfl, rfl, rfl, rfl, rfl, rfl, rfl, rfl⟩, rfl, rfl, rfl, rfl⟩

theorem State.coreGets_steady (s : State) (c n : Nat) (h : Hdr) (f : CoreFrame) : Steady s (s.coreGets c n h f) := by
  unfold State.coreGets
  extract_lets -underBinder +onlyGivenNames y1
  clear_value y1
  split
  · exact State.sendReply_steady ..
  · exact State.modCore_steady ..
  · exact State.modCore_steady ..
  · exact State.modCore_steady ..
  · exact Steady.refl _

theorem State.coresGet_steady (s : State) (c : Nat) (h : Hdr) (f : CoreFrame) : Steady s (s.coresGet c h f) := by
  unfold State.coresGet
  refine Steady.each (Steady.refl _) _ fun t1 _ => ?_
  exact State.coreGets_steady ..

theorem State.refuseRow_steady (s : State) (c : Nat) (h : Hdr) (f : CoreFrame) : Steady s (s.refuseRow c h f) := by
  unfold State.refuseRow
  exact ⟨⟨⟨rfl, rfl, id⟩, rfl, rfl, rfl, rfl, rfl, rfl, rfl, rfl⟩, rfl, rfl, rfl, rfl⟩

theorem State.toCores_steady (s : State) (c : Nat) (h : Hdr) (f : CoreFrame) : Steady s (s.toCores c h f) := by
  unfold State.toCores
  extract_lets -underBinder +onlyGivenNames y1
  clear_value y1
  extract_lets -underBinder +onlyGivenNames x2
  have hx2 : Steady s x2 := by
    subst x2
    exact State.modCluster_steady ..
  clear_value x2
  refine Steady.ite ?_ ?_
  · exact State.refuseRow_steady ..
  · refine Steady.ite ?_ ?_
    · exact State.coresGet_steady ..
    · refine Steady.ite ?_ ?_
      · exact hx2
      · exact hx2.trans (State.modCluster_steady ..)

theorem State.rowsGo_steady (s : State) (c : Nat) : Steady s (s.rowsGo c) := by
  unfold State.rowsGo
  extract_lets -underBinder +onlyGivenNames y1
  clear_value y1
  refine Steady.each ?_ _ fun t2 _ => ?_
  · exact State.modCluster_steady ..
  · exact State.coresGet_steady ..

theorem State.rowsRefused_steady (s : State) (c : Nat) : Steady s (s.rowsRefused c) := by
  unfold State.rowsRefused
  extract_lets -underBinder +onlyGivenNames y1
  clear_value y1
  refine Steady.each ?_ _ fun t2 _ => ?_
  · exact State.modCluster_steady ..
  · exact State.refuseRow_steady ..

theorem State.toNode_steady (s : State) (c : Nat) (h : Hdr) {act : State → State} (ha : ∀ t, Steady t (act t)) :
    Steady s (s.toNode c h act) := by
  unfold State.toNode
  exact Steady.ite (ha _) (State.toCores_steady ..)

theorem State.haltReport_steady (s : State) (h : Hdr) (d : Nat) : Steady s (s.haltReport h d) := by
  unfold State.haltReport
  split
  · exact Steady.refl _
  · split
    · exact Steady.refl _
    · extract_lets -underBinder +onlyGivenNames y1
      clear_value y1
      extract_lets -underBinder +onlyGivenNames y2
      clear_value y2
      refine Steady.ite ?_ ?_
      · refine Steady.trans ?_ (State.fixSwitch_steady ..)
        exact State.modPart_steady ..
      · exact Steady.refl _

theorem State.heartbeatAnswer_steady (s : State) (h : Hdr) : Steady s (s.heartbeatAnswer h) := by
  unfold State.heartbeatAnswer
  split
  · exact Steady.refl _
  · split
    · exact State.modCluster_steady ..
    · exact State.modCluster_steady ..

theorem State.coreEvent_steady (s : State) (c lc : Nat) : Steady s (s.coreEvent c lc) := by
  unfold State.coreEvent
  split
  · exact Steady.refl _
  · extract_lets -underBinder +onlyGivenNames x1
    have hx1 : Steady s x1 := by
      subst x1
      exact ⟨⟨⟨rfl, rfl, id⟩, rfl, rfl, rfl, rfl, rfl, rfl, rfl, rfl⟩, rfl, rfl, rfl, rfl⟩
    clear_value x1
    refine Steady.ite ?_ ?_
    · exact hx1.trans (State.modCluster_steady ..)
    · exact hx1

theorem State.scanCtl_steady (s : State) (c : Nat) : Steady s (s.scanCtl c) := by
  unfold State.scanCtl
  extract_lets -underBinder +onlyGivenNames y1
  clear_value y1
  refine Steady.ite ?_ ?_
  · refine Steady.trans ?_ (State.release_steady ..)
    exact State.modCluster_steady ..
  · refine Steady.ite ?_ ?_
    · refine Steady.trans ?_ (State.grant_steady ..)
      exact State.modCluster_steady ..
    · exact Steady.refl _

theorem State.scanLost_steady (s : State) (c : Nat) : Steady s (s.scanLost c) := by
  unfold State.scanLost
  refine Steady.trans ?_ (State.seizeAll_steady ..)
  refine Steady.trans ?_ (State.log_steady ..)
  exact State.modCluster_steady ..

theorem State.seizeAt_steady (s : State) (c kind index : Nat) (tag : BitVec 16) : Steady s (s.seizeAt c kind index tag) := by
  unfold State.seizeAt
  extract_lets -underBinder +onlyGivenNames x1
  have hx1 : Steady s x1 := by
    subst x1
    exact State.modCluster_steady ..
  clear_value x1
  refine Steady.ite ?_ ?_
  · exact hx1.trans (State.abandonLease_steady ..)
  · exact hx1

theorem State.delaySwitch_steady (s : State) (p d : Nat) : Steady s (s.delaySwitch p d) := by
  unfold State.delaySwitch
  extract_lets -underBinder +onlyGivenNames x1
  have hx1 : Steady s x1 := by
    subst x1
    refine Steady.each (Steady.refl _) _ fun t2 _ => ?_
    exact State.modCore_steady ..
  clear_value x1
  refine Steady.ite ?_ ?_
  · exact Steady.refl _
  · exact hx1.trans (State.modPart_steady ..)

theorem State.slotSwitch_steady (s : State) (p : Nat) : Steady s (s.slotSwitch p) := by
  unfold State.slotSwitch
  split
  · exact Steady.refl _
  · extract_lets -underBinder +onlyGivenNames y1
    clear_value y1
    extract_lets -underBinder +onlyGivenNames x2
    have hx2 : Steady s x2 := by
      subst x2
      refine State.frame_steady _ _ fun t3 _ => ?_
      exact State.toCores_steady ..
    clear_value x2
    extract_lets -underBinder +onlyGivenNames y4
    clear_value y4
    extract_lets -underBinder +onlyGivenNames y5
    clear_value y5
    refine Steady.ite ?_ ?_
    · exact Steady.refl _
    · refine Steady.trans ?_ (State.modPart_steady ..)
      exact hx2.trans (State.delaySwitch_steady ..)

theorem State.switchNow_steady (s : State) (p : Nat) (run : Run) (pl : Plan) (w : SwitchTo) (l : Layer) : Steady s (s.switchNow p run pl w l) := by
  unfold State.switchNow
  extract_lets -underBinder +onlyGivenNames x1
  have hx1 : Steady s x1 := by
    subst x1
    exact State.delaySwitch_steady ..
  clear_value x1
  extract_lets -underBinder +onlyGivenNames x2
  have hx2 : Steady s x2 := by
    subst x2
    refine Steady.ite ?_ ?_
    · refine Steady.each hx1 _ fun t3 _ => ?_
      refine Steady.trans ?_ (State.rowsGo_steady ..)
      exact State.modCluster_steady ..
    · exact hx1
  clear_value x2
  extract_lets -underBinder +onlyGivenNames x4
  have hx4 : Steady s x4 := by
    subst x4
    refine Steady.each hx2 _ fun t5 _ => ?_
    exact State.modCore_steady ..
  clear_value x4
  extract_lets -underBinder +onlyGivenNames x6
  have hx6 : Steady s x6 := by
    subst x6
    exact hx4.trans (State.setGang_steady ..)
  clear_value x6
  exact hx6.trans (State.modPart_steady ..)

theorem State.reloaded_steady (s : State) (p load : Nat) : Steady s (s.reloaded p load) := by
  unfold State.reloaded
  split
  · exact Steady.refl _
  · split
    · refine Steady.ite ?_ ?_
      · refine Steady.trans ?_ (State.modPart_steady ..)
        refine Steady.each (Steady.refl _) _ fun t1 _ => ?_
        exact State.placeLoad_steady ..
      · exact Steady.refl _
    · exact Steady.refl _

/-! ## Hbm -/

theorem State.linkLineIn_steady (s : State) (c lc die : Nat) : Steady s (s.linkLineIn c lc die) := by
  unfold State.linkLineIn
  refine Steady.trans ?_ (State.modCore_steady ..)
  exact State.modCluster_steady ..

theorem State.portWrite_steady (s : State) (c lc : Nat) (l : ChanLine) : Steady s (s.portWrite c lc l) := by
  unfold State.portWrite
  extract_lets -underBinder +onlyGivenNames y1
  clear_value y1
  extract_lets -underBinder +onlyGivenNames y2
  clear_value y2
  extract_lets -underBinder +onlyGivenNames x3
  have hx3 : Steady s x3 := by
    subst x3
    refine Steady.trans ?_ (State.modCore_steady ..)
    exact State.spadWrite_steady ..
  clear_value x3
  extract_lets -underBinder +onlyGivenNames x4
  have hx4 : Steady s x4 := by
    subst x4
    refine Steady.ite ?_ ?_
    · exact hx3.trans (State.linkLineIn_steady ..)
    · exact hx3
  clear_value x4
  split
  · exact hx4
  · refine Steady.trans ?_ (State.layerEnds_steady ..)
    exact hx4.trans (State.modPart_steady ..)

theorem State.portRead_steady (s : State) (c lc : Nat) (w : Waiting) (ecc : Ecc) : Steady s (s.portRead c lc w ecc) := by
  unfold State.portRead
  extract_lets -underBinder +onlyGivenNames y1
  clear_value y1
  extract_lets -underBinder +onlyGivenNames y2
  clear_value y2
  extract_lets -underBinder +onlyGivenNames x3
  have hx3 : Steady s x3 := by
    subst x3
    refine Steady.trans ?_ (State.modRunAt_steady ..)
    exact State.modCore_steady ..
  clear_value x3
  extract_lets -underBinder +onlyGivenNames x4
  have hx4 : Steady s x4 := by
    subst x4
    exact hx3.trans (State.modCore_steady ..)
  clear_value x4
  refine Steady.ite ?_ ?_
  · exact hx4
  · exact hx4.trans (State.doubleBit_steady ..)

theorem State.moveLine_steady (s : State) (p rec line : Nat) (run : Run) (r : Request) (t : Transfer) (pl : Plan) (ecc : HbmEcc) : Steady s (s.moveLine p rec line run r t pl ecc) := by
  unfold State.moveLine
  extract_lets -underBinder +onlyGivenNames y1
  clear_value y1
  extract_lets -underBinder +onlyGivenNames y2
  clear_value y2
  extract_lets -underBinder +onlyGivenNames y3
  clear_value y3
  extract_lets -underBinder +onlyGivenNames x4
  have hx4 : Steady s x4 := by
    subst x4
    split
    · exact ⟨⟨⟨rfl, rfl, id⟩, rfl, rfl, rfl, rfl, rfl, rfl, rfl, rfl⟩, rfl, rfl, rfl, rfl⟩
    · exact Steady.refl _
  clear_value x4
  extract_lets -underBinder +onlyGivenNames y5
  clear_value y5
  extract_lets -underBinder +onlyGivenNames x6
  have hx6 : Steady s x6 := by
    subst x6
    exact hx4.trans (State.grant_steady ..)
  clear_value x6
  extract_lets -underBinder +onlyGivenNames y7
  clear_value y7
  extract_lets -underBinder +onlyGivenNames x8
  have hx8 : Steady s x8 := by
    subst x8
    exact hx6.trans (State.modCore_steady ..)
  clear_value x8
  extract_lets -underBinder +onlyGivenNames y9
  clear_value y9
  extract_lets -underBinder +onlyGivenNames x10
  have hx10 : Steady s x10 := by
    subst x10
    refine Steady.ite ?_ ?_
    · exact hx8
    · refine Steady.ite ?_ ?_
      · exact hx8.trans (State.modCore_steady ..)
      · split
        · exact hx8.trans ((Steady.setHbm _ _ (wf_mwrites _ _ _)))
        · exact hx8
  clear_value x10
  extract_lets -underBinder +onlyGivenNames x11
  have hx11 : Steady s x11 := by
    subst x11
    refine Steady.ite ?_ ?_
    · exact hx10.trans ⟨⟨⟨rfl, rfl, id⟩, rfl, rfl, rfl, rfl, rfl, rfl, rfl, rfl⟩, rfl, rfl, rfl, rfl⟩
    · exact hx10
  clear_value x11
  extract_lets -underBinder +onlyGivenNames x12
  have hx12 : Steady s x12 := by
    subst x12
    exact hx11.trans (State.modPart_steady ..)
  clear_value x12
  extract_lets -underBinder +onlyGivenNames y13
  clear_value y13
  extract_lets -underBinder +onlyGivenNames x14
  have hx14 : Steady s x14 := by
    subst x14
    refine Steady.ite ?_ ?_
    · exact hx12.trans (State.release_steady ..)
    · exact hx12
  clear_value x14
  split
  · exact hx14.trans (State.hbmSingle_steady ..)
  · refine Steady.trans ?_ (State.contain_steady ..)
    exact hx14.trans (State.hbmDouble_steady ..)
  · exact hx14

theorem State.slotTransfer_steady (s : State) (p rec line : Nat) (ecc : HbmEcc) : Steady s (s.slotTransfer p rec line ecc) := by
  unfold State.slotTransfer
  extract_lets -underBinder +onlyGivenNames y1
  clear_value y1
  split
  · exact Steady.refl _
  · split
    · split
      · refine Steady.ite ?_ ?_
        · exact State.moveLine_steady ..
        · exact Steady.refl _
      · exact Steady.refl _
    · exact Steady.refl _

theorem State.dmaFetch_steady (s : State) (h f : Nat) (b : Bytes) : Steady s (s.dmaFetch h f b) := by
  unfold State.dmaFetch
  extract_lets -underBinder +onlyGivenNames y1
  clear_value y1
  extract_lets -underBinder +onlyGivenNames x2
  have hx2 : Steady s x2 := by
    subst x2
    exact State.modWindow_steady ..
  clear_value x2
  extract_lets -underBinder +onlyGivenNames y3
  clear_value y3
  refine Steady.ite ?_ ?_
  · exact hx2.trans (State.dmaDescriptor_steady ..)
  · exact hx2.trans (State.modWindow_steady ..)

theorem State.dmaEnd_steady (s : State) (h f : Nat) (j : DmaJob) (n : Nat) (source : Bytes) (moved status : Nat) : Steady s (s.dmaEnd h f j n source moved status) := by
  unfold State.dmaEnd
  extract_lets -underBinder +onlyGivenNames x1
  have hx1 : Steady s x1 := by
    subst x1
    refine Steady.ite ?_ ?_
    · exact State.violate_steady ..
    · exact Steady.refl _
  clear_value x1
  refine Steady.trans ?_ (State.dmaDescriptor_steady ..)
  exact hx1.trans (State.dmaMove_steady ..)

theorem State.dmaDone_steady (s : State) (h f : Nat) (source : Bytes) (how : DmaEnd) (singles : List Nat) : Steady s (s.dmaDone h f source how singles) := by
  unfold State.dmaDone
  split
  · exact Steady.refl _
  · extract_lets -underBinder +onlyGivenNames x1
    have hx1 : Steady s x1 := by
      subst x1
      refine Steady.ite ?_ ?_
      · exact Steady.refl _
      · exact State.hbmSingles_steady ..
    clear_value x1
    split
    · exact hx1.trans (State.dmaEnd_steady ..)
    · refine Steady.ite ?_ ?_
      · exact hx1
      · exact hx1.trans (State.dmaEnd_steady ..)
    · extract_lets -underBinder +onlyGivenNames y2
      clear_value y2
      extract_lets -underBinder +onlyGivenNames x3
      have hx3 : Steady s x3 := by
        subst x3
        split
        · exact hx1.trans (State.hbmDouble_steady ..)
        · exact hx1
      clear_value x3
      refine Steady.ite ?_ ?_
      · exact hx1
      · exact hx3.trans (State.dmaEnd_steady ..)

theorem State.dumpCmd_steady (s : State) (c : Cmd) : Steady s (s.dumpCmd c) := by
  unfold State.dumpCmd
  extract_lets -underBinder +onlyGivenNames y1
  clear_value y1
  extract_lets -underBinder +onlyGivenNames y2
  clear_value y2
  extract_lets -underBinder +onlyGivenNames y3
  clear_value y3
  extract_lets -underBinder +onlyGivenNames y4
  clear_value y4
  refine Steady.ite ?_ ?_
  · exact State.answer_steady ..
  · refine Steady.ite ?_ ?_
    · exact State.answer_steady ..
    · refine Steady.ite ?_ ?_
      · exact State.answer_steady ..
      · refine Steady.ite ?_ ?_
        · exact State.answer_steady ..
        · refine Steady.trans ?_ (State.accept_steady ..)
          exact ⟨⟨⟨rfl, rfl, id⟩, rfl, rfl, rfl, rfl, rfl, rfl, rfl, rfl⟩, rfl, rfl, rfl, rfl⟩

theorem State.dumpWrite_steady (s : State) (j : DumpJob) (bad : List Nat) : Steady s (s.dumpWrite j bad) := by
  unfold State.dumpWrite
  extract_lets -underBinder +onlyGivenNames y1
  clear_value y1
  extract_lets -underBinder +onlyGivenNames y2
  clear_value y2
  refine Steady.each (Steady.refl _) _ fun t3 _ => ?_
  split
  · extract_lets -underBinder +onlyGivenNames y4
    clear_value y4
    exact (Steady.setHostMem _ _ (wf_mcopy _ _ _ _ _))

theorem State.dumpEnd_keeps (s : State) (double singles : List Nat) : Keeps s (s.dumpEnd double singles) := by
  unfold State.dumpEnd
  split
  · exact Keeps.refl _
  · extract_lets -underBinder +onlyGivenNames y1
    clear_value y1
    extract_lets -underBinder +onlyGivenNames x2
    have hx2 : Keeps s x2 := by
      subst x2
      exact (State.dumpWrite_steady ..).toKeeps
    clear_value x2
    extract_lets -underBinder +onlyGivenNames x3
    have hx3 : Keeps s x3 := by
      subst x3
      refine Keeps.each ?_ _ fun t4 _ => ?_
      · exact hx2.trans (State.hbmSingles_steady ..).toKeeps
      · exact (State.hbmDouble_steady ..).toKeeps
    clear_value x3
    extract_lets -underBinder +onlyGivenNames y5
    clear_value y5
    extract_lets -underBinder +onlyGivenNames x6
    have hx6 : Keeps s x6 := by
      subst x6
      exact hx3.trans ⟨⟨rfl, rfl, id⟩, rfl, rfl, rfl, rfl, rfl, rfl, rfl, rfl⟩
    clear_value x6
    extract_lets -underBinder +onlyGivenNames x7
    have hx7 : Keeps s x7 := by
      subst x7
      split
      · exact hx6.trans (State.finish_steady ..).toKeeps
      · exact hx6
    clear_value x7
    exact hx7.trans (State.tryExit_keeps ..)

/-! ## Tick -/

theorem State.tickCluster_steady (s : State) (c : Nat) : Steady s (s.tickCluster c) := by
  unfold State.tickCluster
  extract_lets -underBinder +onlyGivenNames x1
  have hx1 : Steady s x1 := by
    subst x1
    refine Steady.each (Steady.refl _) _ fun t2 _ => ?_
    exact State.modCore_steady ..
  clear_value x1
  extract_lets -underBinder +onlyGivenNames y3
  clear_value y3
  refine Steady.ite ?_ ?_
  · refine Steady.ite ?_ ?_
    · exact hx1.trans (State.modCluster_steady ..)
    · exact hx1
  · exact Steady.refl _

theorem State.linkWait_steady (s : State) (p since : Nat) : Steady s (s.linkWait p since) := by
  unfold State.linkWait
  refine Steady.each (Steady.refl _) _ fun t1 _ => ?_
  exact State.modCore_steady ..

theorem State.tickPart_steady (s : State) (p : Nat) : Steady s (s.tickPart p) := by
  unfold State.tickPart
  split
  · exact Steady.refl _
  · extract_lets -underBinder +onlyGivenNames y1
    clear_value y1
    extract_lets -underBinder +onlyGivenNames y2
    clear_value y2
    extract_lets -underBinder +onlyGivenNames x3
    have hx3 : Steady s x3 := by
      subst x3
      refine Steady.each (Steady.refl _) _ fun t4 _ => ?_
      exact State.tickCluster_steady ..
    clear_value x3
    extract_lets -underBinder +onlyGivenNames x5
    have hx5 : Steady s x5 := by
      subst x5
      split
      · exact hx3.trans (State.linkWait_steady ..)
      · exact hx3
    clear_value x5
    extract_lets -underBinder +onlyGivenNames x6
    have hx6 : Steady s x6 := by
      subst x6
      refine Steady.ite ?_ ?_
      · exact hx5.trans (State.modPart_steady ..)
      · exact hx5
    clear_value x6
    refine Steady.ite ?_ ?_
    · exact hx6.trans (State.contain_steady ..)
    · exact hx6

/-! ## Links -/

theorem State.control_steady (s : State) (d p : Nat) : Steady s (s.control d p) := by
  unfold State.control
  extract_lets -underBinder +onlyGivenNames y1
  clear_value y1
  refine Steady.ite ?_ ?_
  · refine Steady.trans ?_ (State.modPort_steady ..)
    exact ⟨⟨⟨rfl, rfl, id⟩, rfl, rfl, rfl, rfl, rfl, rfl, rfl, rfl⟩, rfl, rfl, rfl, rfl⟩
  · split
    · split
      · extract_lets -underBinder +onlyGivenNames y2
        clear_value y2
        refine Steady.trans ?_ (State.modPart_steady ..)
        exact State.modPort_steady ..
      · exact State.modPort_steady ..
    · exact State.modPort_steady ..

theorem State.cycleStart_steady (s : State) (d p : Nat) : Steady s (s.cycleStart d p) := by
  unfold State.cycleStart
  refine Steady.ite ?_ ?_
  · refine Steady.trans ?_ (State.modPort_steady ..)
    exact State.control_steady ..
  · exact Steady.refl _

theorem State.sync_steady (s : State) (d p : Nat) (c : SyncCell) : Steady s (s.sync d p c) := by
  unfold State.sync
  extract_lets -underBinder +onlyGivenNames y1
  clear_value y1
  extract_lets -underBinder +onlyGivenNames x2
  have hx2 : Steady s x2 := by
    subst x2
    exact State.modPort_steady ..
  clear_value x2
  extract_lets -underBinder +onlyGivenNames x3
  have hx3 : Steady s x3 := by
    subst x3
    refine Steady.ite ?_ ?_
    · exact hx2
    · exact hx2.trans (State.unjoin_steady ..)
  clear_value x3
  refine Steady.ite ?_ ?_
  · exact hx3.trans ⟨⟨⟨rfl, rfl, id⟩, rfl, rfl, rfl, rfl, rfl, rfl, rfl, rfl⟩, rfl, rfl, rfl, rfl⟩
  · exact hx3

theorem State.trainPort_steady (s : State) (d p : Nat) (t : PortTrain) : Steady s (s.trainPort d p t) := by
  unfold State.trainPort
  extract_lets -underBinder +onlyGivenNames y1
  clear_value y1
  extract_lets -underBinder +onlyGivenNames x2
  have hx2 : Steady s x2 := by
    subst x2
    exact State.modPort_steady ..
  clear_value x2
  extract_lets -underBinder +onlyGivenNames x3
  have hx3 : Steady s x3 := by
    subst x3
    exact hx2.trans (State.sync_steady ..)
  clear_value x3
  extract_lets -underBinder +onlyGivenNames x4
  have hx4 : Steady s x4 := by
    subst x4
    refine Steady.ite ?_ ?_
    · exact hx3.trans ⟨⟨⟨rfl, rfl, id⟩, rfl, rfl, rfl, rfl, rfl, rfl, rfl, rfl⟩, rfl, rfl, rfl, rfl⟩
    · refine Steady.ite ?_ ?_
      · exact hx3.trans ⟨⟨⟨rfl, rfl, id⟩, rfl, rfl, rfl, rfl, rfl, rfl, rfl, rfl⟩, rfl, rfl, rfl, rfl⟩
      · exact hx3
  clear_value x4
  refine Steady.each hx4 _ fun t5 _ => ?_
  split
  · refine Steady.ite ?_ ?_
    · exact State.askJoin_steady ..
    · exact Steady.refl _

theorem State.nextUpstream_steady (s : State) : Steady s (s.nextUpstream) := by
  unfold State.nextUpstream
  extract_lets -underBinder +onlyGivenNames y1
  clear_value y1
  extract_lets -underBinder +onlyGivenNames y2
  clear_value y2
  split
  · refine Steady.trans ?_ (State.modPort_steady ..)
    exact State.drew_steady ..
  · exact State.drew_steady ..

theorem State.dropPort_steady (s : State) (d p : Nat) : Steady s (s.dropPort d p) := by
  unfold State.dropPort
  extract_lets -underBinder +onlyGivenNames y1
  clear_value y1
  extract_lets -underBinder +onlyGivenNames x2
  have hx2 : Steady s x2 := by
    subst x2
    exact State.modPort_steady ..
  clear_value x2
  extract_lets -underBinder +onlyGivenNames x3
  have hx3 : Steady s x3 := by
    subst x3
    refine Steady.trans ?_ (State.log_steady ..)
    exact hx2.trans (State.unjoin_steady ..)
  clear_value x3
  refine Steady.ite ?_ ?_
  · exact hx3.trans (State.nextUpstream_steady ..)
  · exact hx3

theorem State.retryRun_steady (s : State) (p : Nat) (tag : BitVec 32) : Steady s (s.retryRun p tag) := by
  unfold State.retryRun
  extract_lets -underBinder +onlyGivenNames y1
  clear_value y1
  refine Steady.ite ?_ ?_
  · exact State.modPart_steady ..
  · exact Steady.refl _

theorem State.modProg_steady (s : State) (p key : Nat) (f : LinkProg → LinkProg) : Steady s (s.modProg p key f) := by
  unfold State.modProg
  exact State.modPart_steady ..

theorem State.resend_steady (s : State) (d p k : Nat) (x : SentCell) : Steady s (s.resend d p k x) := by
  unfold State.resend
  extract_lets -underBinder +onlyGivenNames y1
  clear_value y1
  extract_lets -underBinder +onlyGivenNames y2
  clear_value y2
  extract_lets -underBinder +onlyGivenNames x3
  have hx3 : Steady s x3 := by
    subst x3
    exact State.modPort_steady ..
  clear_value x3
  refine Steady.ite ?_ ?_
  · exact hx3
  · exact hx3.trans (State.retryRun_steady ..)

theorem State.sendNew_steady (s : State) (d p k : Nat) (x : OutCell) : Steady s (s.sendNew d p k x) := by
  unfold State.sendNew
  extract_lets -underBinder +onlyGivenNames y1
  clear_value y1
  extract_lets -underBinder +onlyGivenNames y2
  clear_value y2
  extract_lets -underBinder +onlyGivenNames y3
  clear_value y3
  extract_lets -underBinder +onlyGivenNames x4
  have hx4 : Steady s x4 := by
    subst x4
    exact State.modPort_steady ..
  clear_value x4
  refine Steady.trans ?_ (State.layerEnds_steady ..)
  exact hx4.trans (State.modProg_steady ..)

theorem State.sendAt_steady (s : State) (d p k : Nat) : Steady s (s.sendAt d p k) := by
  unfold State.sendAt
  extract_lets -underBinder +onlyGivenNames y1
  clear_value y1
  extract_lets -underBinder +onlyGivenNames x2
  have hx2 : Steady s x2 := by
    subst x2
    exact State.modPort_steady ..
  clear_value x2
  split
  · exact hx2.trans (State.resend_steady ..)
  · exact hx2.trans (State.sendNew_steady ..)
  · exact hx2.trans (State.modPort_steady ..)

theorem State.retried_steady (s : State) (d p : Nat) (x : RxCell) : Steady s (s.retried d p x) := by
  unfold State.retried
  refine Steady.each (Steady.refl _) _ fun t1 _ => ?_
  refine Steady.ite ?_ ?_
  · exact State.retryRun_steady ..
  · exact Steady.refl _

theorem State.receiveCell_steady (s : State) (d p : Nat) (c : Cell) (bulk : Bool) : Steady s (s.receiveCell d p c bulk) := by
  unfold State.receiveCell
  split
  · extract_lets -underBinder +onlyGivenNames x1
    have hx1 : Steady s x1 := by
      subst x1
      exact State.modPort_steady ..
    clear_value x1
    extract_lets -underBinder +onlyGivenNames y2
    clear_value y2
    extract_lets -underBinder +onlyGivenNames x3
    have hx3 : Steady s x3 := by
      subst x3
      exact hx1.trans (State.modPort_steady ..)
    clear_value x3
    extract_lets -underBinder +onlyGivenNames x4
    have hx4 : Steady s x4 := by
      subst x4
      refine Steady.ite ?_ ?_
      · exact hx3.trans (State.modPort_steady ..)
      · exact hx3
    clear_value x4
    refine Steady.ite ?_ ?_
    · exact hx4.trans (State.retried_steady ..)
    · exact hx4

theorem State.joinGroup_steady (s : State) (d p part g : Nat) (grp : Group) (c : JoinCell) : Steady s (s.joinGroup d p part g grp c) := by
  unfold State.joinGroup
  split
  · exact Steady.refl _
  · extract_lets -underBinder +onlyGivenNames y1
    clear_value y1
    extract_lets -underBinder +onlyGivenNames x2
    have hx2 : Steady s x2 := by
      subst x2
      exact State.modPort_steady ..
    clear_value x2
    extract_lets -underBinder +onlyGivenNames x3
    have hx3 : Steady s x3 := by
      subst x3
      exact hx2.trans (State.modPart_steady ..)
    clear_value x3
    refine Steady.ite ?_ ?_
    · refine Steady.ite ?_ ?_
      · exact hx3.trans (State.askJoin_steady ..)
      · exact hx3
    · exact Steady.refl _

theorem State.handOut_steady (s : State) (p g i : Nat) (run : Run) (r : LinkRec) (n : Nat) (payload : Bytes) : Steady s (s.handOut p g i run r n payload) := by
  unfold State.handOut
  extract_lets -underBinder +onlyGivenNames y1
  clear_value y1
  extract_lets -underBinder +onlyGivenNames y2
  clear_value y2
  extract_lets -underBinder +onlyGivenNames y3
  clear_value y3
  refine Steady.trans ?_ (State.modProg_steady ..)
  exact State.modPort_steady ..

theorem State.handIn_steady (s : State) (p g i : Nat) (r : LinkRec) (n : Nat) (payload : Bytes) : Steady s (s.handIn p g i r n payload) := by
  unfold State.handIn
  extract_lets -underBinder +onlyGivenNames y1
  clear_value y1
  refine Steady.trans ?_ (State.modProg_steady ..)
  exact State.modCore_steady ..

theorem State.contextStart_steady (s : State) (p : Nat) (r : LinkRec) (n : Nat) : Steady s (s.contextStart p r n) := by
  unfold State.contextStart
  extract_lets -underBinder +onlyGivenNames y1
  clear_value y1
  extract_lets -underBinder +onlyGivenNames x2
  have hx2 : Steady s x2 := by
    subst x2
    exact State.modCtx_steady ..
  clear_value x2
  refine Steady.ite ?_ ?_
  · exact hx2.trans (State.grant_steady ..)
  · exact hx2

theorem State.contextDone_steady (s : State) (p : Nat) (r : LinkRec) (n : Nat) : Steady s (s.contextDone p r n) := by
  unfold State.contextDone
  extract_lets -underBinder +onlyGivenNames y1
  clear_value y1
  extract_lets -underBinder +onlyGivenNames x2
  have hx2 : Steady s x2 := by
    subst x2
    exact State.modCtx_steady ..
  clear_value x2
  refine Steady.ite ?_ ?_
  · exact hx2.trans (State.release_steady ..)
  · exact hx2

theorem State.lineRead_steady (s : State) (p g i : Nat) (run : Run) (r : LinkRec) (x : LinkProg) (ecc : Ecc) : Steady s (s.lineRead p g i run r x ecc) := by
  unfold State.lineRead
  extract_lets -underBinder +onlyGivenNames y1
  clear_value y1
  extract_lets -underBinder +onlyGivenNames y2
  clear_value y2
  extract_lets -underBinder +onlyGivenNames y3
  clear_value y3
  extract_lets -underBinder +onlyGivenNames y4
  clear_value y4
  extract_lets -underBinder +onlyGivenNames x5
  have hx5 : Steady s x5 := by
    subst x5
    refine Steady.trans ?_ (State.linkLineIn_steady ..)
    exact State.modCore_steady ..
  clear_value x5
  extract_lets -underBinder +onlyGivenNames x6
  have hx6 : Steady s x6 := by
    subst x6
    refine Steady.ite ?_ ?_
    · exact hx5.trans (State.contextStart_steady ..)
    · exact hx5
  clear_value x6
  extract_lets -underBinder +onlyGivenNames x7
  have hx7 : Steady s x7 := by
    subst x7
    refine Steady.ite ?_ ?_
    · refine Steady.trans ?_ (State.modProg_steady ..)
      exact hx6.trans (State.handOut_steady ..)
    · exact hx6.trans (State.modProg_steady ..)
  clear_value x7
  extract_lets -underBinder +onlyGivenNames x8
  have hx8 : Steady s x8 := by
    subst x8
    exact hx7.trans (State.modCore_steady ..)
  clear_value x8
  refine Steady.ite ?_ ?_
  · exact hx8
  · exact hx8.trans (State.doubleBit_steady ..)

theorem State.releaseCell_steady (s : State) (p g i : Nat) (run : Run) (r : LinkRec) (x : LinkProg) (c : RxCell) : Steady s (s.releaseCell p g i run r x c) := by
  unfold State.releaseCell
  extract_lets -underBinder +onlyGivenNames y1
  clear_value y1
  extract_lets -underBinder +onlyGivenNames x2
  have hx2 : Steady s x2 := by
    subst x2
    exact State.modPort_steady ..
  clear_value x2
  extract_lets -underBinder +onlyGivenNames x3
  have hx3 : Steady s x3 := by
    subst x3
    refine Steady.ite ?_ ?_
    · exact hx2.trans (State.handIn_steady ..)
    · exact hx2
  clear_value x3
  extract_lets -underBinder +onlyGivenNames x4
  have hx4 : Steady s x4 := by
    subst x4
    refine Steady.ite ?_ ?_
    · exact hx3.trans (State.handOut_steady ..)
    · exact hx3
  clear_value x4
  extract_lets -underBinder +onlyGivenNames x5
  have hx5 : Steady s x5 := by
    subst x5
    refine Steady.ite ?_ ?_
    · exact hx4.trans (State.contextDone_steady ..)
    · exact hx4
  clear_value x5
  refine Steady.trans ?_ (State.layerEnds_steady ..)
  exact hx5.trans (State.modProg_steady ..)

theorem State.flagAll_steady (s : State) : Steady s (s.flagAll) := by
  unfold State.flagAll
  exact ((Steady.setWindows _ _ (swf_smapAll _ _ _)).trans (Steady.setParts _ _ (swf_smapAll _ _ _)))

theorem State.retimed_held (s : State) (f : Retime) : Held s (s.retimed f) := by
  unfold State.retimed
  extract_lets -underBinder +onlyGivenNames y1
  clear_value y1
  extract_lets -underBinder +onlyGivenNames y2
  clear_value y2
  extract_lets -underBinder +onlyGivenNames y3
  clear_value y3
  extract_lets -underBinder +onlyGivenNames y4
  clear_value y4
  extract_lets -underBinder +onlyGivenNames x5
  have hx5 : Held s x5 := by
    subst x5
    exact (State.flagHeld_steady ..).toHeld
  clear_value x5
  extract_lets -underBinder +onlyGivenNames x6
  have hx6 : Held s x6 := by
    subst x6
    exact hx5.trans (State.flagAll_steady ..).toHeld
  clear_value x6
  extract_lets -underBinder +onlyGivenNames x7
  have hx7 : Held s x7 := by
    subst x7
    refine Held.ite ?_ ?_
    · exact hx6.trans ⟨rfl, rfl, id⟩
    · exact hx5
  clear_value x7
  extract_lets -underBinder +onlyGivenNames x8
  have hx8 : Held s x8 := by
    subst x8
    refine Held.each hx7 _ fun t9 _ => ?_
    exact (State.modPort_steady ..).toHeld
  clear_value x8
  extract_lets -underBinder +onlyGivenNames x10
  have hx10 : Held s x10 := by
    subst x10
    exact hx8.trans ⟨rfl, rfl, id⟩
  clear_value x10
  refine Held.trans ?_ (State.log_steady ..).toHeld
  exact hx10.trans (State.finishAll_steady ..).toHeld

theorem State.linkRetime_steady (s : State) (c : Cmd) : Steady s (s.linkRetime c) := by
  unfold State.linkRetime
  refine Steady.trans ?_ (State.accept_steady ..)
  exact ⟨⟨⟨rfl, rfl, id⟩, rfl, rfl, rfl, rfl, rfl, rfl, rfl, rfl⟩, rfl, rfl, rfl, rfl⟩

theorem State.setMode_steady (s : State) (d mode : Nat) : Steady s (s.setMode d mode) := by
  unfold State.setMode
  extract_lets -underBinder +onlyGivenNames x1
  have hx1 : Steady s x1 := by
    subst x1
    refine Steady.each (Steady.refl _) _ fun t2 _ => ?_
    exact State.dropPort_steady ..
  clear_value x1
  refine Steady.ite ?_ ?_
  · exact Steady.refl _
  · exact hx1.trans (State.modLink_steady ..)

theorem State.linkSet_steady (s : State) (c : Cmd) : Steady s (s.linkSet c) := by
  unfold State.linkSet
  extract_lets -underBinder +onlyGivenNames y1
  clear_value y1
  extract_lets -underBinder +onlyGivenNames y2
  clear_value y2
  extract_lets -underBinder +onlyGivenNames y3
  clear_value y3
  extract_lets -underBinder +onlyGivenNames x4
  have hx4 : Steady s x4 := by
    subst x4
    refine Steady.each (Steady.refl _) _ fun t5 _ => ?_
    split
    · exact State.setMode_steady ..
  clear_value x4
  refine Steady.ite ?_ ?_
  · exact State.answer_steady ..
  · refine Steady.ite ?_ ?_
    · exact State.answer_steady ..
    · refine Steady.ite ?_ ?_
      · exact State.answer_steady ..
      · refine Steady.trans ?_ (State.answer_steady ..)
        refine Steady.trans ?_ (State.saveSettings_steady ..)
        exact hx4.trans ⟨⟨⟨rfl, rfl, id⟩, rfl, rfl, rfl, rfl, rfl, rfl, rfl, rfl⟩, rfl, rfl, rfl, rfl⟩

theorem State.unverifyId_steady (s : State) (p : Nat) (id : BitVec 64) : Steady s (s.unverifyId p id) := by
  unfold State.unverifyId
  extract_lets named t
  have ht : Steady s t := by
    refine ⟨⟨⟨rfl, rfl, fun h => ?_⟩, rfl, rfl, rfl, rfl, rfl, rfl, rfl, rfl⟩, rfl, rfl, rfl, rfl⟩
    rw [canonical_iff] at h ⊢
    exact h
  clear_value t
  exact ht.trans (State.modPart_steady ..)

theorem State.dropJoins_steady (s : State) (p g : Nat) : Steady s (s.dropJoins p g) := by
  unfold State.dropJoins
  exact ⟨⟨⟨rfl, rfl, id⟩, rfl, rfl, rfl, rfl, rfl, rfl, rfl, rfl⟩, rfl, rfl, rfl, rfl⟩

theorem State.groupJoin_steady (s : State) (c : Cmd) : Steady s (s.groupJoin c) := by
  unfold State.groupJoin
  extract_lets -underBinder +onlyGivenNames y1
  clear_value y1
  extract_lets -underBinder +onlyGivenNames y2
  clear_value y2
  extract_lets -underBinder +onlyGivenNames y3
  clear_value y3
  extract_lets -underBinder +onlyGivenNames y4
  clear_value y4
  extract_lets -underBinder +onlyGivenNames x5
  have hx5 : Steady s x5 := by
    subst x5
    refine Steady.trans ?_ (State.modPart_steady ..)
    exact State.dropJoins_steady ..
  clear_value x5
  refine Steady.ite ?_ ?_
  · exact State.answer_steady ..
  · refine Steady.ite ?_ ?_
    · exact State.acceptDone_steady ..
    · refine Steady.ite ?_ ?_
      · exact State.acceptDone_steady ..
      · refine Steady.trans ?_ (State.acceptDone_steady ..)
        refine Steady.trans ?_ (State.askJoin_steady ..)
        exact hx5.trans (State.unverifyId_steady ..)

theorem State.groupLeave_steady (s : State) (c : Cmd) : Steady s (s.groupLeave c) := by
  unfold State.groupLeave
  extract_lets -underBinder +onlyGivenNames y1
  clear_value y1
  refine Steady.ite ?_ ?_
  · exact State.answer_steady ..
  · split
    · exact State.acceptDone_steady ..
    · extract_lets -underBinder +onlyGivenNames x2
      have hx2 : Steady s x2 := by
        subst x2
        refine Steady.ite ?_ ?_
        · exact State.flagHeld_steady ..
        · exact Steady.refl _
      clear_value x2
      extract_lets -underBinder +onlyGivenNames x3
      have hx3 : Steady s x3 := by
        subst x3
        refine Steady.trans ?_ (State.modPart_steady ..)
        exact hx2.trans (State.dropJoins_steady ..)
      clear_value x3
      refine Steady.trans ?_ (State.acceptDone_steady ..)
      exact hx3.trans (State.unverifyId_steady ..)

theorem State.groupStatus_steady (s : State) (c : Cmd) : Steady s (s.groupStatus c) := by
  unfold State.groupStatus
  refine Steady.ite ?_ ?_
  · exact State.answer_steady ..
  · exact State.acceptDone_steady ..

/-! ## Cycle -/

theorem State.arriveAll_steady (s : State) : Steady s (s.arriveAll) := by
  unfold State.arriveAll
  extract_lets -underBinder +onlyGivenNames x1
  have hx1 : Steady s x1 := by
    subst x1
    refine Steady.each (Steady.refl _) _ fun t2 _ => ?_
    split
    · exact State.arrive_steady ..
    · exact Steady.refl _
  clear_value x1
  refine Steady.each hx1 _ fun t3 _ => ?_
  split
  · exact State.credit_steady ..
  · exact Steady.refl _

theorem State.endings_steady (s : State) (l : List (Nat × Nat)) : Steady s (s.endings l) := by
  unfold State.endings
  refine Steady.each (Steady.refl _) _ fun t1 _ => ?_
  split
  · refine Steady.trans ?_ (State.coreHalt_steady ..)
    refine Steady.trans ?_ (State.holdEnds_steady ..)
    exact State.modCore_steady ..

theorem State.movements_steady (s : State) (o : SimOf) (run : Run) : Steady s (s.movements o run) := by
  unfold State.movements
  extract_lets -underBinder +onlyGivenNames x1
  have hx1 : Steady s x1 := by
    subst x1
    refine Steady.each (Steady.refl _) _ fun t2 _ => ?_
    split
    · refine Steady.ite ?_ ?_
      · exact State.slotTransfer_steady ..
      · exact Steady.refl _
  clear_value x1
  refine Steady.each hx1 _ fun t3 _ => ?_
  refine Steady.ite ?_ ?_
  · refine Steady.each (Steady.refl _) _ fun t4 _ => ?_
    refine Steady.ite ?_ ?_
    · exact State.modCore_steady ..
    · exact Steady.refl _
  · exact Steady.refl _

theorem State.departAll_steady (s : State) (c lc : Nat) : Steady s (s.departAll c lc) := by
  unfold State.departAll
  refine Steady.each (Steady.refl _) _ fun t1 _ => ?_
  refine Steady.each (Steady.refl _) _ fun t2 _ => ?_
  exact State.depart_steady ..

theorem State.landAll_steady (s : State) (c lc : Nat) : Steady s (s.landAll c lc) := by
  unfold State.landAll
  refine Steady.each (Steady.refl _) _ fun t1 _ => ?_
  exact State.landing_steady ..

/-! ## Plans -/

theorem State.loadPlan_steady (s : State) (p : Nat) (b : Bytes) (off : Nat) : Steady s (s.loadPlan p b off).1 := by
  unfold State.loadPlan
  dsimp only
  refine Steady.each (Steady.each ?_ _ fun t c => State.modCluster_steady ..) _ fun t c => State.modListedCores_steady ..
  exact State.modPart_steady ..

theorem State.loadDone_steady (s : State) (l : LongCmd) : Steady s (s.loadDone l) := by
  unfold State.loadDone
  dsimp only
  split
  · exact State.finish_steady ..
  · exact (State.loadPlan_steady ..).trans (State.finish_steady ..)

theorem State.ending_steady (s : State) (h f : Nat) (seq : BitVec 16) (code : BitVec 8) {act : State → LongCmd → State}
    (ha : ∀ t l, Steady t (act t l)) : Steady s (s.ending h f seq code act) := by
  unfold State.ending
  split
  · exact Steady.ite (ha _ _) (Steady.refl _)
  · exact Steady.refl _

theorem State.unloadPlan_steady (s : State) (p h : Nat) : Steady s (s.unloadPlan p h) := by
  unfold State.unloadPlan
  extract_lets -underBinder +onlyGivenNames y1
  clear_value y1
  extract_lets -underBinder +onlyGivenNames x2
  have hx2 : Steady s x2 := by
    subst x2
    refine Steady.ite ?_ ?_
    · exact State.endReqs_steady ..
    · exact Steady.refl _
  clear_value x2
  extract_lets -underBinder +onlyGivenNames x3
  have hx3 : Steady s x3 := by
    subst x3
    refine Steady.ite ?_ ?_
    · exact hx2.trans (State.stopRun_steady ..)
    · exact hx2
  clear_value x3
  extract_lets -underBinder +onlyGivenNames x4
  have hx4 : Steady s x4 := by
    subst x4
    exact hx3.trans (State.modPart_steady ..)
  clear_value x4
  extract_lets -underBinder +onlyGivenNames x5
  have hx5 : Steady s x5 := by
    subst x5
    refine Steady.each hx4 _ fun t6 _ => ?_
    exact State.modCluster_steady ..
  clear_value x5
  refine Steady.ite ?_ ?_
  · exact hx5.trans (State.enterAll_steady ..)
  · exact hx5

theorem State.planUnload_steady (s : State) (c : Cmd) : Steady s (s.planUnload c) := by
  unfold State.planUnload
  extract_lets -underBinder +onlyGivenNames x1
  have hx1 : Steady s x1 := by
    subst x1
    exact State.finishAll_steady ..
  clear_value x1
  refine Steady.ite ?_ ?_
  · exact State.answer_steady ..
  · refine Steady.trans ?_ (State.acceptDone_steady ..)
    exact hx1.trans (State.unloadPlan_steady ..)

theorem State.planBind_steady (s : State) (c : Cmd) : Steady s (s.planBind c) := by
  unfold State.planBind
  extract_lets -underBinder +onlyGivenNames y1
  clear_value y1
  split
  · exact State.answer_steady ..
  · refine Steady.ite ?_ ?_
    · exact State.answer_steady ..
    · refine Steady.ite ?_ ?_
      · exact State.answer_steady ..
      · exact State.accept_steady ..

theorem State.bindPlan_steady (s : State) (p h : Nat) (l : Loaded) : Steady s (s.bindPlan p h l) := by
  unfold State.bindPlan
  extract_lets -underBinder +onlyGivenNames y1
  clear_value y1
  extract_lets -underBinder +onlyGivenNames x2
  have hx2 : Steady s x2 := by
    subst x2
    exact State.modPart_steady ..
  clear_value x2
  extract_lets -underBinder +onlyGivenNames y3
  clear_value y3
  refine Steady.trans ?_ (State.place_steady ..)
  refine Steady.each hx2 _ fun t4 _ => ?_
  exact State.placeResident_steady ..

theorem State.bindDone_steady (s : State) (l : LongCmd) (lost : Bool) : Steady s (s.bindDone l lost) := by
  unfold State.bindDone
  extract_lets -underBinder +onlyGivenNames y1
  clear_value y1
  extract_lets -underBinder +onlyGivenNames y2
  clear_value y2
  extract_lets -underBinder +onlyGivenNames y3
  clear_value y3
  split
  · exact State.finish_steady ..
  · extract_lets -underBinder +onlyGivenNames y4
    clear_value y4
    refine Steady.ite ?_ ?_
    · exact State.finish_steady ..
    · refine Steady.ite ?_ ?_
      · exact State.finish_steady ..
      · refine Steady.trans ?_ (State.finish_steady ..)
        refine Steady.trans ?_ (State.report_steady ..)
        exact State.bindPlan_steady ..

theorem State.verifyDone_steady (s : State) (l : LongCmd) (lost : Bool) : Steady s (s.verifyDone l lost) := by
  unfold State.verifyDone
  extract_lets -underBinder +onlyGivenNames y1
  clear_value y1
  extract_lets -underBinder +onlyGivenNames y2
  clear_value y2
  split
  · exact State.finish_steady ..
  · refine Steady.ite ?_ ?_
    · exact State.finish_steady ..
    · split
      · exact State.finish_steady ..
      · extract_lets -underBinder +onlyGivenNames y3
        clear_value y3
        extract_lets -underBinder +onlyGivenNames x4
        have hx4 : Steady s x4 := by
          subst x4
          exact State.modPart_steady ..
        clear_value x4
        refine Steady.trans ?_ (State.finish_steady ..)
        exact hx4.trans (State.report_steady ..)

/-! ## Snapshots -/

theorem State.snapTake_steady (s : State) (c : Cmd) : Steady s (s.snapTake c) := by
  unfold State.snapTake
  extract_lets -underBinder +onlyGivenNames y1
  clear_value y1
  refine Steady.ite ?_ ?_
  · exact State.answer_steady ..
  · refine Steady.ite ?_ ?_
    · exact State.answer_steady ..
    · exact State.accept_steady ..

theorem State.snapTaken_steady (s : State) (l : LongCmd) (timeouts : List Nat) : Steady s (s.snapTaken l timeouts) := by
  unfold State.snapTaken
  extract_lets -underBinder +onlyGivenNames y1
  clear_value y1
  extract_lets -underBinder +onlyGivenNames y2
  clear_value y2
  extract_lets -underBinder +onlyGivenNames x3
  have hx3 : Steady s x3 := by
    subst x3
    refine Steady.each (Steady.refl _) _ fun t4 _ => ?_
    exact State.scanLost_steady ..
  clear_value x3
  extract_lets -underBinder +onlyGivenNames y5
  clear_value y5
  extract_lets -underBinder +onlyGivenNames y6
  clear_value y6
  extract_lets -underBinder +onlyGivenNames x7
  have hx7 : Steady s x7 := by
    subst x7
    exact hx3.trans (((Steady.setHbm _ _ (wf_relWrite _ _ _ _))).trans ⟨⟨⟨rfl, rfl, id⟩, rfl, rfl, rfl, rfl, rfl, rfl, rfl, rfl⟩, rfl, rfl, rfl, rfl⟩)
  clear_value x7
  refine Steady.ite ?_ ?_
  · exact State.finish_steady ..
  · exact hx7.trans (State.finish_steady ..)

theorem State.snapRestored_steady (s : State) (l : LongCmd) : Steady s (s.snapRestored l) := by
  unfold State.snapRestored
  extract_lets -underBinder +onlyGivenNames y1
  clear_value y1
  extract_lets -underBinder +onlyGivenNames y2
  clear_value y2
  extract_lets -underBinder +onlyGivenNames x3
  have hx3 : Steady s x3 := by
    subst x3
    refine Steady.each (Steady.refl _) _ fun t4 _ => ?_
    split
    · exact State.restoreCluster_steady ..
  clear_value x3
  extract_lets -underBinder +onlyGivenNames x5
  have hx5 : Steady s x5 := by
    subst x5
    exact hx3.trans ⟨⟨⟨rfl, rfl, id⟩, rfl, rfl, rfl, rfl, rfl, rfl, rfl, rfl⟩, rfl, rfl, rfl, rfl⟩
  clear_value x5
  refine Steady.ite ?_ ?_
  · exact State.finish_steady ..
  · refine Steady.ite ?_ ?_
    · exact State.finish_steady ..
    · exact hx5.trans (State.finish_steady ..)

/-! ## Power -/

theorem State.entryDone_held (s : State) (c : Nat) : Held s (s.entryDone c) := by
  unfold State.entryDone
  split
  · extract_lets -underBinder +onlyGivenNames x1
    have hx1 : Held s x1 := by
      subst x1
      refine Held.ite ?_ ?_
      · exact Held.refl _
      · exact (State.modListedCores_steady ..).toHeld
    clear_value x1
    extract_lets -underBinder +onlyGivenNames x2
    have hx2 : Held s x2 := by
      subst x2
      refine Held.ite ?_ ?_
      · exact hx1.trans (State.zeroSpads_steady ..).toHeld
      · exact hx1
    clear_value x2
    extract_lets -underBinder +onlyGivenNames x3
    have hx3 : Held s x3 := by
      subst x3
      refine Held.ite ?_ ?_
      · exact hx2
      · exact hx2.trans (State.rowsRefused_steady ..).toHeld
    clear_value x3
    extract_lets -underBinder +onlyGivenNames x4
    have hx4 : Held s x4 := by
      subst x4
      exact hx3.trans (State.modCluster_steady ..).toHeld
    clear_value x4
    extract_lets -underBinder +onlyGivenNames x5
    have hx5 : Held s x5 := by
      subst x5
      split
      · exact hx4.trans (State.modCluster_steady ..).toHeld
      · exact hx4
    clear_value x5
    extract_lets -underBinder +onlyGivenNames x6
    have hx6 : Held s x6 := by
      subst x6
      exact hx5.trans (State.retrim_steady ..).toHeld
    clear_value x6
    split
    · refine Held.trans ?_ (State.resume_held ..)
      exact hx6.trans (State.parkDone_steady ..).toHeld
    · exact hx6
  · exact Held.refl _

theorem State.unparked_steady (s : State) (p : Nat) : Steady s (s.unparked p) := by
  unfold State.unparked
  extract_lets -underBinder +onlyGivenNames y1
  clear_value y1
  refine Steady.ite ?_ ?_
  · exact State.modPart_steady ..
  · exact Steady.refl _

theorem State.settled_steady (s : State) (p c : Nat) : Steady s (s.settled p c) := by
  unfold State.settled
  refine Steady.ite ?_ ?_
  · refine Steady.trans ?_ (State.rest_steady ..)
    exact State.rowsGo_steady ..
  · exact Steady.refl _

theorem State.exitDone_held (s : State) (c : Nat) : Held s (s.exitDone c) := by
  unfold State.exitDone
  split
  · extract_lets -underBinder +onlyGivenNames y1
    clear_value y1
    extract_lets -underBinder +onlyGivenNames x2
    have hx2 : Held s x2 := by
      subst x2
      refine Held.ite ?_ ?_
      · exact Held.refl _
      · exact (State.modListedCores_steady ..).toHeld
    clear_value x2
    extract_lets -underBinder +onlyGivenNames x3
    have hx3 : Held s x3 := by
      subst x3
      refine Held.ite ?_ ?_
      · exact hx2.trans (State.zeroSpads_steady ..).toHeld
      · exact hx2
    clear_value x3
    extract_lets -underBinder +onlyGivenNames x4
    have hx4 : Held s x4 := by
      subst x4
      exact hx3.trans (State.modCluster_steady ..).toHeld
    clear_value x4
    split
    · extract_lets -underBinder +onlyGivenNames x5
      have hx5 : Held s x5 := by
        subst x5
        refine Held.ite ?_ ?_
        · exact hx4
        · exact hx4.trans (State.placeResident_steady ..).toHeld
      clear_value x5
      refine Held.trans ?_ (State.resume_held ..)
      refine Held.trans ?_ (State.unparked_steady ..).toHeld
      exact hx5.trans (State.settled_steady ..).toHeld
    · exact hx4
  · exact Held.refl _

theorem State.thermAlert_steady (s : State) (hot : Nat) : Steady s (s.thermAlert hot) := by
  unfold State.thermAlert
  exact ⟨⟨⟨rfl, rfl, id⟩, rfl, rfl, rfl, rfl, rfl, rfl, rfl, rfl⟩, rfl, rfl, rfl, rfl⟩

theorem State.thermTrip_steady (s : State) (c hot : Nat) : Steady s (s.thermTrip c hot) := by
  unfold State.thermTrip
  extract_lets -underBinder +onlyGivenNames y1
  clear_value y1
  extract_lets -underBinder +onlyGivenNames x2
  have hx2 : Steady s x2 := by
    subst x2
    exact State.modCluster_steady ..
  clear_value x2
  extract_lets -underBinder +onlyGivenNames x3
  have hx3 : Steady s x3 := by
    subst x3
    split
    · exact hx2.trans (State.beginRecovery_steady ..)
    · exact hx2
  clear_value x3
  exact hx3.trans (State.log_steady ..)

theorem State.thermRelease_held (s : State) (c : Nat) : Held s (s.thermRelease c) := by
  unfold State.thermRelease
  extract_lets -underBinder +onlyGivenNames x1
  have hx1 : Held s x1 := by
    subst x1
    exact (State.modCluster_steady ..).toHeld
  clear_value x1
  split
  · refine Held.trans ?_ (State.resume_held ..)
    refine Held.ite ?_ ?_
    · exact hx1.trans (State.place_steady ..).toHeld
    · exact hx1
  · exact hx1

theorem State.thermalRead_held (s : State) (c raw0 raw1 : Nat) : Held s (s.thermalRead c raw0 raw1) := by
  unfold State.thermalRead
  extract_lets -underBinder +onlyGivenNames y1
  clear_value y1
  extract_lets -underBinder +onlyGivenNames y2
  clear_value y2
  extract_lets -underBinder +onlyGivenNames y3
  clear_value y3
  extract_lets -underBinder +onlyGivenNames x4
  have hx4 : Held s x4 := by
    subst x4
    refine Held.trans ?_ (State.thermAlert_steady ..).toHeld
    exact (State.modCluster_steady ..).toHeld
  clear_value x4
  refine Held.ite ?_ ?_
  · refine Held.ite ?_ ?_
    · exact hx4.trans (State.thermRelease_held ..)
    · exact hx4
  · refine Held.ite ?_ ?_
    · exact hx4.trans (State.thermTrip_steady ..).toHeld
    · exact hx4

theorem State.trackExcess_steady (s : State) : Steady s (s.trackExcess) := by
  unfold State.trackExcess
  refine Steady.ite ?_ ?_
  · exact ⟨⟨⟨rfl, rfl, id⟩, rfl, rfl, rfl, rfl, rfl, rfl, rfl, rfl⟩, rfl, rfl, rfl, rfl⟩
  · exact ⟨⟨⟨rfl, rfl, id⟩, rfl, rfl, rfl, rfl, rfl, rfl, rfl, rfl⟩, rfl, rfl, rfl, rfl⟩

theorem State.breathUpdate_steady (s : State) (w : Nat) : Steady s (s.breathUpdate w) := by
  unfold State.breathUpdate
  extract_lets -underBinder +onlyGivenNames y1
  clear_value y1
  refine Steady.trans ?_ (State.trackExcess_steady ..)
  refine Steady.trans ?_ (State.setAllowance_steady ..)
  exact ⟨⟨⟨rfl, rfl, id⟩, rfl, rfl, rfl, rfl, rfl, rfl, rfl, rfl⟩, rfl, rfl, rfl, rfl⟩

theorem State.capAlarm_steady (s : State) : Steady s (s.capAlarm) := by
  unfold State.capAlarm
  split
  · refine Steady.ite ?_ ?_
    · refine Steady.trans ?_ (State.log_steady ..)
      exact ⟨⟨⟨rfl, rfl, id⟩, rfl, rfl, rfl, rfl, rfl, rfl, rfl, rfl⟩, rfl, rfl, rfl, rfl⟩
    · exact Steady.refl _
  · exact Steady.refl _

theorem State.writeLimits_steady (s : State) (l : List (Nat × Nat)) : Steady s (s.writeLimits l) := by
  unfold State.writeLimits
  refine Steady.each (Steady.refl _) _ fun t1 _ => ?_
  exact ⟨⟨⟨rfl, rfl, id⟩, rfl, rfl, rfl, rfl, rfl, rfl, rfl, rfl⟩, rfl, rfl, rfl, rfl⟩

theorem State.statusPoll_steady (s : State) (addr page : Nat) (w : BitVec 16) (v i p : Nat) : Steady s (s.statusPoll addr page w v i p) := by
  unfold State.statusPoll
  extract_lets -underBinder +onlyGivenNames y1
  clear_value y1
  extract_lets -underBinder +onlyGivenNames y2
  clear_value y2
  extract_lets -underBinder +onlyGivenNames y3
  clear_value y3
  extract_lets -underBinder +onlyGivenNames x4
  have hx4 : Steady s x4 := by
    subst x4
    exact ⟨⟨⟨rfl, rfl, id⟩, rfl, rfl, rfl, rfl, rfl, rfl, rfl, rfl⟩, rfl, rfl, rfl, rfl⟩
  clear_value x4
  refine Steady.ite ?_ ?_
  · exact hx4.trans (State.log_steady ..)
  · exact hx4

theorem State.holdZone_steady (s : State) (z : Nat) : Steady s (s.holdZone z) := by
  unfold State.holdZone
  extract_lets -underBinder +onlyGivenNames x1
  have hx1 : Steady s x1 := by
    subst x1
    exact State.modZone_steady ..
  clear_value x1
  refine Steady.each hx1 _ fun t2 _ => ?_
  exact State.modCluster_steady ..

theorem State.ackMissing_steady (s : State) (z : Nat) : Steady s (s.ackMissing z) := by
  unfold State.ackMissing
  extract_lets -underBinder +onlyGivenNames y1
  clear_value y1
  refine Steady.trans ?_ (State.log_steady ..)
  refine Steady.each ?_ _ fun t2 _ => ?_
  · exact State.holdZone_steady ..
  · exact State.beginRecovery_steady ..

theorem State.ackTimeout_steady (s : State) (z : Nat) : Steady s (s.ackTimeout z) := by
  unfold State.ackTimeout
  split
  · refine Steady.ite ?_ ?_
    · exact Steady.refl _
    · refine Steady.ite ?_ ?_
      · exact State.modZone_steady ..
      · exact State.ackMissing_steady ..
  · exact Steady.refl _

/-! ## Brace -/

theorem State.abortLongs_held (s : State) (keep : LongCmd → Bool) : Held s (s.abortLongs keep) := by
  unfold State.abortLongs
  exact State.abort_held ..

theorem State.stopAllDma_steady (s : State) : Steady s (s.stopAllDma) := by
  unfold State.stopAllDma
  refine Steady.each (Steady.refl _) _ fun t1 _ => ?_
  exact State.stopTransfer_steady ..

theorem State.cutBreath_steady (s : State) (p : Nat) : Steady s (s.cutBreath p) := by
  unfold State.cutBreath
  split
  · split
    · extract_lets -underBinder +onlyGivenNames y1
      clear_value y1
      extract_lets -underBinder +onlyGivenNames y2
      clear_value y2
      extract_lets -underBinder +onlyGivenNames y3
      clear_value y3
      extract_lets -underBinder +onlyGivenNames x4
      have hx4 : Steady s x4 := by
        subst x4
        refine Steady.each (Steady.refl _) _ fun t5 _ => ?_
        exact State.modCluster_steady ..
      clear_value x4
      exact hx4.trans (State.modPart_steady ..)
    · exact Steady.refl _
  · exact Steady.refl _

theorem State.stopTests_steady (s : State) : Steady s (s.stopTests) := by
  unfold State.stopTests
  exact (Steady.setClusters _ _ (swf_smapAll _ _ _))

theorem State.leaveGroups_steady (s : State) : Steady s (s.leaveGroups) := by
  unfold State.leaveGroups
  extract_lets -underBinder +onlyGivenNames x1
  have hx1 : Steady s x1 := by
    subst x1
    exact State.unjoin_steady ..
  clear_value x1
  exact hx1.trans ⟨⟨⟨rfl, rfl, id⟩, rfl, rfl, rfl, rfl, rfl, rfl, rfl, rfl⟩, rfl, rfl, rfl, rfl⟩

theorem State.braceStart_held (s : State) : Held s (s.braceStart) := by
  unfold State.braceStart
  extract_lets -underBinder +onlyGivenNames y1
  clear_value y1
  extract_lets -underBinder +onlyGivenNames x2
  have hx2 : Held s x2 := by
    subst x2
    refine Held.trans ?_ (State.log_steady ..).toHeld
    exact ⟨rfl, rfl, id⟩
  clear_value x2
  extract_lets -underBinder +onlyGivenNames x3
  have hx3 : Held s x3 := by
    subst x3
    refine Held.trans ?_ (State.stopTests_steady ..).toHeld
    refine Held.trans ?_ (State.abortLongs_held ..)
    refine Held.trans ?_ (State.stopAllDma_steady ..).toHeld
    exact hx2.trans (State.toState_keeps ..).toHeld
  clear_value x3
  extract_lets -underBinder +onlyGivenNames x4
  have hx4 : Held s x4 := by
    subst x4
    refine Held.trans ?_ (State.leaveGroups_steady ..).toHeld
    refine Held.trans ?_ (State.stopBetween_steady ..).toHeld
    exact hx3.trans (State.sortRequests_steady ..).toHeld
  clear_value x4
  refine Held.each hx4 _ fun t5 _ => ?_
  refine Held.ite ?_ ?_
  · exact (State.enterAll_steady ..).toHeld
  · exact (State.cutBreath_steady ..).toHeld

theorem State.powerDown_steady (s : State) : Steady s (s.powerDown) := by
  unfold State.powerDown
  refine Steady.each (Steady.refl _) _ fun t1 _ => ?_
  refine Steady.ite ?_ ?_
  · exact State.enterAll_steady ..
  · exact Steady.refl _

theorem State.forcedStop_steady (s : State) : Steady s (s.forcedStop) := by
  unfold State.forcedStop
  extract_lets -underBinder +onlyGivenNames y1
  clear_value y1
  refine Steady.each (Steady.refl _) _ fun t2 _ => ?_
  refine Steady.ite ?_ ?_
  · exact State.stopRun_steady ..
  · exact Steady.refl _

theorem State.commit_steady (s : State) : Steady s (s.commit) := by
  unfold State.commit
  split
  · extract_lets -underBinder +onlyGivenNames x1
    have hx1 : Steady s x1 := by
      subst x1
      exact State.forcedStop_steady ..
    clear_value x1
    refine Steady.ite ?_ ?_
    · exact Steady.refl _
    · refine Steady.trans ?_ (State.log_steady ..)
      refine Steady.trans ?_ (State.powerDown_steady ..)
      exact hx1.trans ⟨⟨⟨rfl, rfl, id⟩, rfl, rfl, rfl, rfl, rfl, rfl, rfl, rfl⟩, rfl, rfl, rfl, rfl⟩
  · exact Steady.refl _

theorem State.endFinishing_steady (s : State) (reason : Nat) : Steady s (s.endFinishing reason) := by
  unfold State.endFinishing
  refine Steady.each (Steady.refl _) _ fun t1 _ => ?_
  split
  · refine Steady.ite ?_ ?_
    · exact State.contain_steady ..
    · exact Steady.refl _
  · exact Steady.refl _

theorem State.cutoff_steady (s : State) : Steady s (s.cutoff) := by
  unfold State.cutoff
  split
  · refine Steady.ite ?_ ?_
    · exact State.endFinishing_steady ..
    · exact Steady.refl _
  · refine Steady.ite ?_ ?_
    · exact State.endFinishing_steady ..
    · exact Steady.refl _
  · exact Steady.refl _

theorem State.exitE1_steady (s : State) : Steady s (s.exitE1) := by
  unfold State.exitE1
  split
  · extract_lets -underBinder +onlyGivenNames x1
    have hx1 : Steady s x1 := by
      subst x1
      refine Steady.trans ?_ (State.log_steady ..)
      exact ⟨⟨⟨rfl, rfl, id⟩, rfl, rfl, rfl, rfl, rfl, rfl, rfl, rfl⟩, rfl, rfl, rfl, rfl⟩
    clear_value x1
    refine Steady.ite ?_ ?_
    · refine Steady.each hx1 _ fun t2 _ => ?_
      refine Steady.ite ?_ ?_
      · exact State.wakeAll_steady ..
      · exact Steady.refl _
    · exact Steady.refl _
  · exact Steady.refl _

theorem State.stopExit_steady (s : State) : Steady s (s.stopExit) := by
  unfold State.stopExit
  split
  · refine Steady.ite ?_ ?_
    · refine Steady.trans ?_ (State.powerDown_steady ..)
      exact ⟨⟨⟨rfl, rfl, id⟩, rfl, rfl, rfl, rfl, rfl, rfl, rfl, rfl⟩, rfl, rfl, rfl, rfl⟩
    · exact Steady.refl _
  · exact Steady.refl _

theorem State.settle_held (s : State) : Held s (s.settle) := by
  unfold State.settle
  refine Held.each (Held.refl _) _ fun t1 _ => ?_
  extract_lets -underBinder +onlyGivenNames y2
  clear_value y2
  extract_lets -underBinder +onlyGivenNames x3
  have hx3 : Held t1 x3 := by
    subst x3
    refine Held.ite ?_ ?_
    · refine Held.trans ?_ (State.enterAll_steady ..).toHeld
      exact (State.modPart_steady ..).toHeld
    · exact Held.refl _
  clear_value x3
  refine Held.trans ?_ (State.resume_held ..)
  exact hx3.trans (State.unparked_steady ..).toHeld

theorem State.e1ExitDone_held (s : State) : Held s (s.e1ExitDone) := by
  unfold State.e1ExitDone
  split
  · refine Held.ite ?_ ?_
    · refine Held.trans ?_ (State.rejoin_steady ..).toHeld
      refine Held.trans ?_ (State.settle_held ..)
      refine Held.trans ?_ (State.log_steady ..).toHeld
      refine Held.trans ?_ (State.toState_keeps ..).toHeld
      exact ⟨rfl, rfl, id⟩
    · exact Held.refl _
  · exact Held.refl _

theorem State.restLinks_steady (s : State) : Steady s (s.restLinks) := by
  unfold State.restLinks
  exact ((Steady.setParts _ _ (swf_smapAll _ _ _))).trans ⟨⟨⟨rfl, rfl, id⟩, rfl, rfl, rfl, rfl, rfl, rfl, rfl, rfl⟩, rfl, rfl, rfl, rfl⟩

theorem State.restWafer_steady (s : State) : Steady s (s.restWafer) := by
  unfold State.restWafer
  exact ((((Steady.setCores _ _ (swf_smapAll _ _ _)).trans (Steady.setSpad _ _ (fun _ => rfl))).trans (Steady.setClusters _ _ (swf_smapAll _ _ _)))).trans ⟨⟨⟨rfl, rfl, id⟩, rfl, rfl, rfl, rfl, rfl, rfl, rfl, rfl⟩, rfl, rfl, rfl, rfl⟩

theorem State.dropHeld_steady (s : State) : Steady s (s.dropHeld) := by
  unfold State.dropHeld
  refine Steady.each (Steady.refl _) _ fun t1 _ => ?_
  split
  · extract_lets -underBinder +onlyGivenNames y2
    clear_value y2
    refine Steady.trans ?_ (State.modWindow_steady ..)
    exact State.dropCompl_steady ..

theorem State.latchQuiet_steady (s : State) : Steady s (s.latchQuiet) := by
  unfold State.latchQuiet
  refine Steady.ite ?_ ?_
  · exact ⟨⟨⟨rfl, rfl, id⟩, rfl, rfl, rfl, rfl, rfl, rfl, rfl, rfl⟩, rfl, rfl, rfl, rfl⟩
  · exact Steady.refl _

theorem State.enterE2_keeps (s : State) (arm : Bool) : Keeps s (s.enterE2 arm) := by
  unfold State.enterE2
  extract_lets -underBinder +onlyGivenNames x1
  have hx1 : Keeps s x1 := by
    subst x1
    refine Keeps.trans ?_ (State.stopTests_steady ..).toKeeps
    refine Keeps.trans ?_ (State.restWafer_steady ..).toKeeps
    refine Keeps.trans ?_ (State.restLinks_steady ..).toKeeps
    refine Keeps.trans ?_ (State.dropHeld_steady ..).toKeeps
    exact (State.stopAllDma_steady ..).toKeeps
  clear_value x1
  extract_lets -underBinder +onlyGivenNames x2
  have hx2 : Keeps s x2 := by
    subst x2
    exact hx1.trans ⟨⟨rfl, rfl, id⟩, rfl, rfl, rfl, rfl, rfl, rfl, rfl, rfl⟩
  clear_value x2
  extract_lets -underBinder +onlyGivenNames x3
  have hx3 : Keeps s x3 := by
    subst x3
    refine Keeps.trans ?_ (State.finishAll_steady ..).toKeeps
    refine Keeps.trans ?_ (State.log_steady ..).toKeeps
    exact hx2.trans (State.toState_keeps ..)
  clear_value x3
  refine Keeps.trans ?_ (State.tryExit_keeps ..)
  exact hx3.trans (State.latchQuiet_steady ..).toKeeps

theorem State.braceHeld_keeps (s : State) : Keeps s (s.braceHeld) := by
  unfold State.braceHeld
  split
  · refine Keeps.ite ?_ ?_
    · exact State.enterE2_keeps ..
    · exact Keeps.refl _
  · exact Keeps.refl _

theorem State.braceComplete_keeps (s : State) : Keeps s (s.braceComplete) := by
  unfold State.braceComplete
  split
  · extract_lets -underBinder +onlyGivenNames x1
    have hx1 : Keeps s x1 := by
      subst x1
      refine Keeps.trans ?_ (State.log_steady ..).toKeeps
      exact ⟨⟨rfl, rfl, id⟩, rfl, rfl, rfl, rfl, rfl, rfl, rfl, rfl⟩
    clear_value x1
    refine Keeps.ite ?_ ?_
    · refine Keeps.trans ?_ (State.braceHeld_keeps ..)
      refine Keeps.trans ?_ (State.exitE1_steady ..).toKeeps
      refine Keeps.each hx1 _ fun t2 _ => ?_
      exact (State.modPart_steady ..).toKeeps
    · exact Keeps.refl _
  · exact Keeps.refl _

theorem State.wakeBound_steady (s : State) (p : Nat) : Steady s (s.wakeBound p) := by
  unfold State.wakeBound
  refine Steady.ite ?_ ?_
  · refine Steady.each (Steady.refl _) _ fun t1 _ => ?_
    refine Steady.trans ?_ (State.placeResident_steady ..)
    exact State.modCluster_steady ..
  · exact Steady.refl _

theorem State.leaveE2_held (s : State) : Held s (s.leaveE2) := by
  unfold State.leaveE2
  extract_lets -underBinder +onlyGivenNames x1
  have hx1 : Held s x1 := by
    subst x1
    refine Held.each ?_ _ fun t2 _ => ?_
    · exact (State.voltagesReached_steady ..).toHeld
    · exact (State.wakeBound_steady ..).toHeld
  clear_value x1
  extract_lets -underBinder +onlyGivenNames y3
  clear_value y3
  extract_lets -underBinder +onlyGivenNames x4
  have hx4 : Held s x4 := by
    subst x4
    exact hx1.trans ⟨rfl, rfl, id⟩
  clear_value x4
  extract_lets -underBinder +onlyGivenNames x5
  have hx5 : Held s x5 := by
    subst x5
    refine Held.trans ?_ (State.settle_held ..)
    refine Held.trans ?_ (State.log_steady ..).toHeld
    exact hx4.trans (State.toState_keeps ..).toHeld
  clear_value x5
  extract_lets -underBinder +onlyGivenNames y6
  clear_value y6
  refine Held.each hx5 _ fun t7 _ => ?_
  exact (State.finish_steady ..).toHeld

theorem State.wakeTimer_keeps (s : State) : Keeps s (s.wakeTimer) := by
  unfold State.wakeTimer
  refine Keeps.ite ?_ ?_
  · refine Keeps.trans ?_ (State.tryExit_keeps ..)
    exact ⟨⟨rfl, rfl, id⟩, rfl, rfl, rfl, rfl, rfl, rfl, rfl, rfl⟩
  · exact Keeps.refl _

theorem State.pfwLow_held (s : State) : Held s (s.pfwLow) := by
  unfold State.pfwLow
  extract_lets -underBinder +onlyGivenNames x1
  have hx1 : Held s x1 := by
    subst x1
    exact ⟨rfl, rfl, id⟩
  clear_value x1
  refine Held.ite ?_ ?_
  · exact Held.refl _
  · refine Held.ite ?_ ?_
    · exact hx1
    · split
      · exact hx1.trans (State.braceStart_held ..)
      · exact hx1.trans (State.stopExit_steady ..).toHeld
      · extract_lets -underBinder +onlyGivenNames x2
        have hx2 : Held s x2 := by
          subst x2
          exact hx1.trans (State.voltagesReached_steady ..).toHeld
        clear_value x2
        refine Held.trans ?_ (State.log_steady ..).toHeld
        refine Held.trans ?_ (State.toState_keeps ..).toHeld
        exact hx2.trans ⟨rfl, rfl, id⟩
      · exact hx1

theorem State.abortBrace_keeps (s : State) : Keeps s (s.abortBrace) := by
  unfold State.abortBrace
  extract_lets -underBinder +onlyGivenNames x1
  have hx1 : Keeps s x1 := by
    subst x1
    refine Keeps.trans ?_ (State.log_steady ..).toKeeps
    exact ⟨⟨rfl, rfl, id⟩, rfl, rfl, rfl, rfl, rfl, rfl, rfl, rfl⟩
  clear_value x1
  extract_lets -underBinder +onlyGivenNames x2
  have hx2 : Keeps s x2 := by
    subst x2
    refine Keeps.each hx1 _ fun t3 _ => ?_
    refine Keeps.trans ?_ (State.place_steady ..).toKeeps
    refine Keeps.ite ?_ ?_
    · exact (State.modPart_steady ..).toKeeps
    · exact Keeps.refl _
  clear_value x2
  refine Keeps.trans ?_ (State.rejoin_steady ..).toKeeps
  refine Keeps.trans ?_ (State.log_steady ..).toKeeps
  exact hx2.trans (State.toState_keeps ..)

theorem State.pfwHigh_keeps (s : State) : Keeps s (s.pfwHigh) := by
  unfold State.pfwHigh
  extract_lets -underBinder +onlyGivenNames x1
  have hx1 : Keeps s x1 := by
    subst x1
    exact ⟨⟨rfl, rfl, id⟩, rfl, rfl, rfl, rfl, rfl, rfl, rfl, rfl⟩
  clear_value x1
  refine Keeps.ite ?_ ?_
  · exact Keeps.refl _
  · split
    · refine Keeps.ite ?_ ?_
      · exact hx1.trans (State.abortBrace_keeps ..)
      · exact hx1
    · exact hx1

/-! ## Faults -/

theorem State.marionetteFaulty_steady (s : State) (c : Nat) : Steady s (s.marionetteFaulty c) := by
  unfold State.marionetteFaulty
  extract_lets -underBinder +onlyGivenNames y1
  clear_value y1
  extract_lets -underBinder +onlyGivenNames x2
  have hx2 : Steady s x2 := by
    subst x2
    refine Steady.trans ?_ (State.seizeAll_steady ..)
    refine Steady.trans ?_ (State.log_steady ..)
    exact State.modCluster_steady ..
  clear_value x2
  split
  · exact hx2.trans (State.beginRecovery_steady ..)
  · exact hx2

theorem State.heartbeatLost_steady (s : State) (c : Nat) : Steady s (s.heartbeatLost c) := by
  unfold State.heartbeatLost
  split
  · extract_lets -underBinder +onlyGivenNames x1
    have hx1 : Steady s x1 := by
      subst x1
      exact State.modCluster_steady ..
    clear_value x1
    refine Steady.ite ?_ ?_
    · exact Steady.refl _
    · refine Steady.ite ?_ ?_
      · exact hx1.trans (State.marionetteFaulty_steady ..)
      · exact hx1
  · exact Steady.refl _

theorem State.marionetteBack_held (s : State) (c : Nat) (passed : Bool) : Held s (s.marionetteBack c passed) := by
  unfold State.marionetteBack
  extract_lets -underBinder +onlyGivenNames y1
  clear_value y1
  extract_lets -underBinder +onlyGivenNames x2
  have hx2 : Held s x2 := by
    subst x2
    exact (State.modCluster_steady ..).toHeld
  clear_value x2
  extract_lets -underBinder +onlyGivenNames x3
  have hx3 : Held s x3 := by
    subst x3
    refine Held.trans ?_ (State.log_steady ..).toHeld
    exact hx2.trans (State.retire_steady ..).toHeld
  clear_value x3
  extract_lets -underBinder +onlyGivenNames x4
  have hx4 : Held s x4 := by
    subst x4
    refine Held.ite ?_ ?_
    · exact hx2
    · split
      · exact hx3.trans (State.unverify_steady ..).toHeld
      · exact hx3
  clear_value x4
  split
  · exact hx4.trans (State.resume_held ..)
  · exact hx4

theorem State.applyEntry_steady (s : State) (c : Nat) (e : BitVec 64) : Steady s (s.applyEntry c e) := by
  unfold State.applyEntry
  refine Steady.trans ?_ (State.modCluster_steady ..)
  exact State.appendRepair_steady ..

theorem State.markSpareBad_steady (s : State) (c r : Nat) : Steady s (s.markSpareBad c r) := by
  unfold State.markSpareBad
  refine Steady.trans ?_ (State.log_steady ..)
  exact State.applyEntry_steady ..

theorem State.mapOut_steady (s : State) (c n : Nat) : Steady s (s.mapOut c n) := by
  unfold State.mapOut
  extract_lets -underBinder +onlyGivenNames y1
  clear_value y1
  extract_lets -underBinder +onlyGivenNames x2
  have hx2 : Steady s x2 := by
    subst x2
    exact State.applyEntry_steady ..
  clear_value x2
  extract_lets -underBinder +onlyGivenNames y3
  clear_value y3
  extract_lets -underBinder +onlyGivenNames x4
  have hx4 : Steady s x4 := by
    subst x4
    exact hx2.trans ((Steady.setSpad _ _ (wf_mclear _ _ _)))
  clear_value x4
  extract_lets -underBinder +onlyGivenNames x5
  have hx5 : Steady s x5 := by
    subst x5
    split
    · extract_lets -underBinder +onlyGivenNames x6
      have hx6 : Steady s x6 := by
        subst x6
        exact hx4.trans (State.fenceCluster_steady ..)
      clear_value x6
      refine Steady.ite ?_ ?_
      · exact hx6.trans (State.placeResident_steady ..)
      · exact hx6
    · exact hx4
  clear_value x5
  exact hx5.trans (State.log_steady ..)

theorem State.retireFor_steady (s : State) (c r : Nat) : Steady s (s.retireFor c r) := by
  unfold State.retireFor
  extract_lets -underBinder +onlyGivenNames x1
  have hx1 : Steady s x1 := by
    subst x1
    refine Steady.ite ?_ ?_
    · exact State.markSpareBad_steady ..
    · exact Steady.refl _
  clear_value x1
  refine Steady.trans ?_ (State.retire_steady ..)
  exact hx1.trans (State.appendRepair_steady ..)

theorem State.fieldRepair_held (s : State) (c n : Nat) : Held s (s.fieldRepair c n) := by
  unfold State.fieldRepair
  extract_lets -underBinder +onlyGivenNames y1
  clear_value y1
  extract_lets -underBinder +onlyGivenNames x2
  have hx2 : Held s x2 := by
    subst x2
    split
    · exact (State.beginRecovery_steady ..).toHeld
    · exact Held.refl _
  clear_value x2
  extract_lets -underBinder +onlyGivenNames y3
  clear_value y3
  extract_lets -underBinder +onlyGivenNames x4
  have hx4 : Held s x4 := by
    subst x4
    exact hx2.trans (State.modCluster_steady ..).toHeld
  clear_value x4
  extract_lets -underBinder +onlyGivenNames x5
  have hx5 : Held s x5 := by
    subst x5
    refine Held.ite ?_ ?_
    · exact hx4
    · refine Held.ite ?_ ?_
      · exact hx4.trans (State.mapOut_steady ..).toHeld
      · exact hx4.trans (State.retireFor_steady ..).toHeld
  clear_value x5
  extract_lets -underBinder +onlyGivenNames x6
  have hx6 : Held s x6 := by
    subst x6
    exact hx5.trans ⟨rfl, rfl, id⟩
  clear_value x6
  split
  · refine Held.trans ?_ (State.resume_held ..)
    exact hx6.trans (State.unverify_steady ..).toHeld
  · exact hx6

theorem State.testEnd_steady (s : State) (c : Nat) (row : Fin 16) (passed : Bool) : Steady s (s.testEnd c row passed) := by
  unfold State.testEnd
  extract_lets -underBinder +onlyGivenNames y1
  clear_value y1
  extract_lets -underBinder +onlyGivenNames x2
  have hx2 : Steady s x2 := by
    subst x2
    exact State.modCluster_steady ..
  clear_value x2
  refine Steady.ite ?_ ?_
  · exact hx2
  · exact hx2.trans (State.markSpareBad_steady ..)

theorem State.takeover_held (s : State) : Held s (s.takeover) := by
  unfold State.takeover
  extract_lets -underBinder +onlyGivenNames x1
  have hx1 : Held s x1 := by
    subst x1
    exact State.abortLongs_held ..
  clear_value x1
  extract_lets -underBinder +onlyGivenNames x2
  have hx2 : Held s x2 := by
    subst x2
    exact hx1.trans ⟨rfl, rfl, id⟩
  clear_value x2
  refine Held.trans ?_ (State.log_steady ..).toHeld
  exact hx2.trans (State.eventAll_steady ..).toHeld

theorem State.checkMiss_held (s : State) : Held s s.checkMiss := by
  unfold State.checkMiss
  extract_lets -underBinder +onlyGivenNames t
  have ht : Held s t := by
    refine ⟨rfl, rfl, fun h => ?_⟩
    rw [canonical_iff] at h ⊢
    exact h
  clear_value t
  refine Held.ite ht (Held.ite (ht.trans (State.takeover_held ..)) ?_)
  exact ht.trans ⟨rfl, rfl, id⟩

/-! ## Boot -/

theorem State.reset_parts_wf : swf {} State.reset.parts = true := by
  rw [swf_iff]
  refine ⟨fun x hx => ?_, by simp [State.reset]⟩
  simp only [State.reset, List.mem_singleton] at hx
  subst hx
  exact fun h => by injection h with h; cases h

theorem State.cleared_held (s : State) (supply : Supply) : Held s (s.cleared supply) := by
  refine ⟨rfl, rfl, fun h => ?_⟩
  rw [canonical_iff] at h ⊢
  exact ⟨rfl, rfl, h.2.2.1, rfl, rfl, rfl, State.reset_parts_wf, rfl, rfl, rfl⟩

theorem State.resetEngine_held (s : State) : Held s (s.resetEngine) := by
  unfold State.resetEngine
  refine Held.ite ?_ ?_
  · exact Held.refl _
  · refine Held.trans ?_ (State.cleared_held ..)
    exact State.cutFirmware_held ..

theorem State.powerOff_held (s : State) : Held s (s.powerOff) := by
  unfold State.powerOff
  extract_lets -underBinder +onlyGivenNames x1
  have hx1 : Held s x1 := by
    subst x1
    refine Held.trans ?_ (State.cleared_held ..)
    exact State.cutFirmware_held ..
  clear_value x1
  exact hx1.trans ⟨rfl, rfl, id⟩

theorem State.fuseMaps_steady (s : State) : Steady s (s.fuseMaps) := by
  unfold State.fuseMaps
  extract_lets -underBinder +onlyGivenNames x1
  have hx1 : Steady s x1 := by
    subst x1
    exact (Steady.setClusters _ _ (swf_smapAll _ _ _))
  clear_value x1
  refine Steady.each hx1 _ fun t2 _ => ?_
  exact State.modCluster_steady ..

theorem State.retireFused_steady (s : State) : Steady s (s.retireFused) := by
  unfold State.retireFused
  refine Steady.each (Steady.refl _) _ fun t1 _ => ?_
  refine Steady.ite ?_ ?_
  · exact State.retire_steady ..
  · exact Steady.refl _

theorem State.repairTable_steady (s : State) (i : Nat) (l : List (BitVec 64)) : Steady s (s.repairTable i l) := by
  induction l generalizing s i with
  | nil => exact Steady.refl _
  | cons e r ih =>
    rw [State.repairTable]
    extract_lets -underBinder +onlyGivenNames t
    refine Steady.trans ?_ (ih _ _)
    subst t
    refine Steady.ite ?_ (State.log_steady ..)
    dsimp only
    split
    · exact State.retire_steady ..
    · exact State.modCluster_steady ..

theorem State.bistFail_steady (s : State) (c r : Nat) : Steady s (s.bistFail c r) := by
  unfold State.bistFail
  extract_lets -underBinder +onlyGivenNames y1
  clear_value y1
  refine Steady.ite ?_ ?_
  · exact Steady.refl _
  · refine Steady.ite ?_ ?_
    · exact State.markSpareBad_steady ..
    · refine Steady.trans ?_ (State.retire_steady ..)
      exact State.appendRepair_steady ..

theorem State.selfTestFailed_steady (s : State) (c : Nat) : Steady s (s.selfTestFailed c) := by
  unfold State.selfTestFailed
  extract_lets -underBinder +onlyGivenNames x1
  have hx1 : Steady s x1 := by
    subst x1
    exact State.modCluster_steady ..
  clear_value x1
  refine Steady.ite ?_ ?_
  · exact hx1
  · exact hx1.trans (State.retire_steady ..)

theorem State.bist_steady (s : State) (b : BootIn) : Steady s (s.bist b) := by
  unfold State.bist
  extract_lets -underBinder +onlyGivenNames x1
  have hx1 : Steady s x1 := by
    subst x1
    refine Steady.trans ?_ (State.retireFused_steady ..)
    refine Steady.trans ?_ (State.repairTable_steady ..)
    exact State.fuseMaps_steady ..
  clear_value x1
  extract_lets -underBinder +onlyGivenNames x2
  have hx2 : Steady s x2 := by
    subst x2
    refine Steady.each hx1 _ fun t3 _ => ?_
    exact State.selfTestFailed_steady ..
  clear_value x2
  refine Steady.each hx2 _ fun t4 _ => ?_
  exact State.bistFail_steady ..

theorem State.linkSettings_steady (s : State) : Steady s (s.linkSettings) := by
  unfold State.linkSettings
  extract_lets -underBinder +onlyGivenNames x1
  have hx1 : Steady s x1 := by
    subst x1
    exact ⟨⟨⟨rfl, rfl, id⟩, rfl, rfl, rfl, rfl, rfl, rfl, rfl, rfl⟩, rfl, rfl, rfl, rfl⟩
  clear_value x1
  split
  · exact hx1
  · refine Steady.each ?_ _ fun t2 _ => ?_
    · exact hx1.trans ⟨⟨⟨rfl, rfl, id⟩, rfl, rfl, rfl, rfl, rfl, rfl, rfl, rfl⟩, rfl, rfl, rfl, rfl⟩
    · split
      · exact State.modLink_steady ..

theorem State.zoneUp_steady (s : State) (silent : List (Fin 48)) (z : Nat) : Steady s (s.zoneUp silent z) := by
  unfold State.zoneUp
  extract_lets -underBinder +onlyGivenNames y1
  clear_value y1
  extract_lets -underBinder +onlyGivenNames x2
  have hx2 : Steady s x2 := by
    subst x2
    exact State.modZone_steady ..
  clear_value x2
  refine Steady.ite ?_ ?_
  · exact hx2.trans (State.holdZone_steady ..)
  · refine Steady.ite ?_ ?_
    · exact hx2.trans (State.ackMissing_steady ..)
    · exact hx2

theorem State.bootStep_held (s : State) (b : BootIn) (k : Nat) : Held s (s.bootStep b k) := by
  unfold State.bootStep
  split
  · extract_lets -underBinder +onlyGivenNames x1
    have hx1 : Held s x1 := by
      subst x1
      exact (State.writeLimits_steady ..).toHeld
    clear_value x1
    extract_lets -underBinder +onlyGivenNames y2
    clear_value y2
    extract_lets -underBinder +onlyGivenNames x3
    have hx3 : Held s x3 := by
      subst x3
      exact hx1.trans ⟨rfl, rfl, id⟩
    clear_value x3
    refine Held.each hx3 _ fun t4 _ => ?_
    exact (State.zoneUp_steady ..).toHeld
  · extract_lets -underBinder +onlyGivenNames y5
    clear_value y5
    exact ⟨rfl, rfl, id⟩
  · exact (State.bist_steady ..).toHeld
  · extract_lets -underBinder +onlyGivenNames y6
    clear_value y6
    exact ((Steady.setHbm _ _ (fun _ => rfl)).toHeld).trans ⟨rfl, rfl, id⟩
  · exact (State.linkSettings_steady ..).toHeld

theorem State.serveP0_steady (s : State) : Steady s (s.serveP0) := by
  unfold State.serveP0
  refine Steady.each (Steady.refl _) _ fun t1 _ => ?_
  exact State.modWindow_steady ..

theorem State.bootReady_keeps (s : State) : Keeps s (s.bootReady) := by
  unfold State.bootReady
  extract_lets -underBinder +onlyGivenNames x1
  have hx1 : Keeps s x1 := by
    subst x1
    exact ⟨⟨rfl, rfl, id⟩, rfl, rfl, rfl, rfl, rfl, rfl, rfl, rfl⟩
  clear_value x1
  extract_lets -underBinder +onlyGivenNames y2
  clear_value y2
  extract_lets -underBinder +onlyGivenNames x3
  have hx3 : Keeps s x3 := by
    subst x3
    refine Keeps.trans ?_ (State.toState_keeps ..)
    exact hx1.trans (State.serveP0_steady ..).toKeeps
  clear_value x3
  refine Keeps.each hx3 _ fun t4 _ => ?_
  exact (State.finish_steady ..).toKeeps

theorem State.bootStop_keeps (s : State) (b : BootIn) : Keeps s (s.bootStop b) := by
  unfold State.bootStop
  extract_lets -underBinder +onlyGivenNames y1
  clear_value y1
  exact ⟨⟨rfl, rfl, id⟩, rfl, rfl, rfl, rfl, rfl, rfl, rfl, rfl⟩

theorem State.bootTail_held (s : State) (b : BootIn) : Held s (s.bootTail b) := by
  unfold State.bootTail
  split
  · refine Held.trans ?_ (State.bootReady_keeps ..).toHeld
    refine Held.each (Held.refl _) _ fun t1 _ => ?_
    exact State.bootStep_held ..
  · refine Held.trans ?_ (State.bootStop_keeps ..).toHeld
    refine Held.each (Held.refl _) _ fun t2 _ => ?_
    exact State.bootStep_held ..

theorem State.bootStep4_held (s : State) (b : BootIn) : Held s (s.bootStep4 b) := by
  unfold State.bootStep4
  extract_lets -underBinder +onlyGivenNames y1
  clear_value y1
  extract_lets -underBinder +onlyGivenNames x2
  have hx2 : Held s x2 := by
    subst x2
    exact ⟨rfl, rfl, id⟩
  clear_value x2
  refine Held.ite ?_ ?_
  · exact hx2.trans (State.bootTail_held ..)
  · exact hx2.trans ⟨rfl, rfl, id⟩

theorem State.bootStep3_held (s : State) (b : BootIn) : Held s (s.bootStep3 b) := by
  unfold State.bootStep3
  split
  · extract_lets -underBinder +onlyGivenNames x1
    have hx1 : Held s x1 := by
      subst x1
      exact (State.drew_steady ..).toHeld
    clear_value x1
    refine Held.trans ?_ (State.bootStep4_held ..)
    exact hx1.trans ⟨rfl, rfl, id⟩
  · extract_lets -underBinder +onlyGivenNames x2
    have hx2 : Held s x2 := by
      subst x2
      exact (State.drew_steady ..).toHeld
    clear_value x2
    exact hx2.trans ⟨rfl, rfl, id⟩

theorem State.boot_held (s : State) (b : BootIn) : Held s (s.boot b) := by
  unfold State.boot
  extract_lets -underBinder +onlyGivenNames x1
  have hx1 : Held s x1 := by
    subst x1
    exact State.cleared_held ..
  clear_value x1
  extract_lets -underBinder +onlyGivenNames x2
  have hx2 : Held s x2 := by
    subst x2
    exact hx1.trans ⟨rfl, rfl, id⟩
  clear_value x2
  refine Held.trans ?_ (State.bootStep3_held ..)
  exact hx2.trans (State.writeLimits_steady ..).toHeld

theorem State.unreset_held (s : State) (b : BootIn) : Held s (s.unreset b) := by
  unfold State.unreset
  refine Held.ite ?_ ?_
  · exact State.boot_held ..
  · exact Held.refl _

theorem State.nowQuiet_held (s : State) : Held s (s.nowQuiet) := by
  unfold State.nowQuiet
  refine Held.ite ?_ ?_
  · exact Held.refl _
  · split
    · exact State.bootTail_held ..
    · refine Held.ite ?_ ?_
      · refine Held.trans ?_ (State.tryExit_keeps ..).toHeld
        exact (State.latchQuiet_steady ..).toHeld
      · exact (State.exitE1_steady ..).toHeld
    · exact Held.refl _

theorem State.bootStandby_keeps (s : State) : Keeps s (s.bootStandby) := by
  unfold State.bootStandby
  extract_lets -underBinder +onlyGivenNames x1
  have hx1 : Keeps s x1 := by
    subst x1
    exact (State.serveP0_steady ..).toKeeps
  clear_value x1
  refine Keeps.trans ?_ (State.enterE2_keeps ..)
  exact hx1.trans ⟨⟨rfl, rfl, id⟩, rfl, rfl, rfl, rfl, rfl, rfl, rfl, rfl⟩

theorem State.holdPassed_keeps (s : State) : Keeps s (s.holdPassed) := by
  unfold State.holdPassed
  refine Keeps.ite ?_ ?_
  · refine Keeps.ite ?_ ?_
    · exact State.bootStandby_keeps ..
    · exact Keeps.refl _
  · exact State.braceHeld_keeps ..

/-! ## Module -/

theorem State.updateWrite_steady (s : State) (c : Cmd) (image : Bytes) : Steady s (s.updateWrite c image) := by
  unfold State.updateWrite
  extract_lets -underBinder +onlyGivenNames y1
  clear_value y1
  extract_lets -underBinder +onlyGivenNames y2
  clear_value y2
  extract_lets -underBinder +onlyGivenNames x3
  have hx3 : Steady s x3 := by
    subst x3
    exact State.drew_steady ..
  clear_value x3
  refine Steady.ite ?_ ?_
  · exact State.answer_steady ..
  · refine Steady.ite ?_ ?_
    · exact State.answer_steady ..
    · refine Steady.ite ?_ ?_
      · exact State.acceptDone_steady ..
      · refine Steady.trans ?_ (State.accept_steady ..)
        exact hx3.trans ⟨⟨⟨rfl, rfl, id⟩, rfl, rfl, rfl, rfl, rfl, rfl, rfl, rfl⟩, rfl, rfl, rfl, rfl⟩

theorem State.updateDone_steady (s : State) (okA okB : Bool) : Steady s (s.updateDone okA okB) := by
  unfold State.updateDone
  split
  · extract_lets -underBinder +onlyGivenNames x1
    have hx1 : Steady s x1 := by
      subst x1
      exact ⟨⟨⟨rfl, rfl, id⟩, rfl, rfl, rfl, rfl, rfl, rfl, rfl, rfl⟩, rfl, rfl, rfl, rfl⟩
    clear_value x1
    refine Steady.ite ?_ ?_
    · exact hx1.trans (State.finish_steady ..)
    · exact hx1.trans (State.finish_steady ..)
  · exact Steady.refl _

theorem State.activate_steady (s : State) (c : Cmd) : Steady s (s.activate c) := by
  unfold State.activate
  extract_lets -underBinder +onlyGivenNames y1
  clear_value y1
  refine Steady.ite ?_ ?_
  · exact State.answer_steady ..
  · refine Steady.ite ?_ ?_
    · exact State.answer_steady ..
    · refine Steady.trans ?_ (State.accept_steady ..)
      exact ⟨⟨⟨rfl, rfl, id⟩, rfl, rfl, rfl, rfl, rfl, rfl, rfl, rfl⟩, rfl, rfl, rfl, rfl⟩

theorem State.restartNodes_steady (s : State) : Steady s (s.restartNodes) := by
  unfold State.restartNodes
  exact (Steady.setClusters _ _ (swf_smapAll _ _ _))

theorem State.activateDone_held (s : State) (n : Fin 2) (commit ok : Bool) (l : LongCmd) : Held s (s.activateDone n commit ok l) := by
  unfold State.activateDone
  split
  · refine Held.trans ?_ (State.finish_steady ..).toHeld
    exact ⟨rfl, rfl, id⟩
  · extract_lets -underBinder +onlyGivenNames y1
    clear_value y1
    extract_lets -underBinder +onlyGivenNames x2
    have hx2 : Held s x2 := by
      subst x2
      exact ⟨rfl, rfl, id⟩
    clear_value x2
    extract_lets -underBinder +onlyGivenNames x3
    have hx3 : Held s x3 := by
      subst x3
      refine Held.ite ?_ ?_
      · exact hx2.trans (State.commitFuses_held ..)
      · exact hx2
    clear_value x3
    extract_lets -underBinder +onlyGivenNames x4
    have hx4 : Held s x4 := by
      subst x4
      exact hx3.trans (State.restartNodes_steady ..).toHeld
    clear_value x4
    extract_lets -underBinder +onlyGivenNames x5
    have hx5 : Held s x5 := by
      subst x5
      exact hx4.trans ⟨rfl, rfl, id⟩
    clear_value x5
    refine Held.trans ?_ (State.finish_steady ..).toHeld
    exact hx5.trans (State.eventAll_steady ..).toHeld

theorem State.loadIr_held (s : State) (tap : Nat) (code : BitVec 8) : Held s (s.loadIr tap code) := by
  unfold State.loadIr
  refine Held.ite ?_ ?_
  · exact Held.refl _
  · exact ⟨rfl, rfl, id⟩

theorem State.identify_held (s : State) (tap : Nat) : Held s (s.identify tap) := by
  unfold State.identify
  extract_lets -underBinder +onlyGivenNames x1
  have hx1 : Held s x1 := by
    subst x1
    exact State.loadIr_held ..
  clear_value x1
  refine Held.ite ?_ ?_
  · exact hx1
  · exact hx1.trans ⟨rfl, rfl, id⟩

theorem State.drive_steady (s : State) (tap : Nat) (spi : List SpiOp) : Steady s (s.drive tap spi) := by
  unfold State.drive
  refine Steady.ite ?_ ?_
  · exact Steady.refl _
  · refine Steady.ite ?_ ?_
    · exact ⟨⟨⟨rfl, rfl, id⟩, rfl, rfl, rfl, rfl, rfl, rfl, rfl, rfl⟩, rfl, rfl, rfl, rfl⟩
    · refine Steady.ite ?_ ?_
      · exact ⟨⟨⟨rfl, rfl, id⟩, rfl, rfl, rfl, rfl, rfl, rfl, rfl, rfl⟩, rfl, rfl, rfl, rfl⟩
      · exact Steady.refl _

theorem State.respond_held (s : State) (b : Bytes) : Held s (s.respond b) := by
  unfold State.respond
  extract_lets -underBinder +onlyGivenNames y1
  clear_value y1
  refine Held.ite ?_ ?_
  · exact ⟨rfl, rfl, id⟩
  · exact Held.refl _

theorem State.vendor_held (s : State) (command : BitVec 8) (payload : Bytes) : Held s (s.vendor command payload) := by
  unfold State.vendor
  refine Held.trans ?_ (State.drew_steady ..).toHeld
  exact State.respond_held ..

end Sys2Proof.Machine
end

