-- ==== Sys2Proof/Laws/State.lean ====
section
/-!
SUPPORT. The state after one named update: every other field, and every other piece, as it was; the piece itself as the
update leaves it.
-/

namespace Sys2Proof.Machine

open Sys2Proof

/-! ## modCore -/

section

variable (s : State) (n : Nat) (f : Core → Core)

@[simp] theorem State.modCore_pending : (s.modCore n f).pending = s.pending := rfl
@[simp] theorem State.modCore_now : (s.modCore n f).now = s.now := rfl
@[simp] theorem State.modCore_perst : (s.modCore n f).perst = s.perst := rfl
@[simp] theorem State.modCore_et : (s.modCore n f).et = s.et := rfl
@[simp] theorem State.modCore_sub : (s.modCore n f).sub = s.sub := rfl
@[simp] theorem State.modCore_etClock : (s.modCore n f).etClock = s.etClock := rfl
@[simp] theorem State.modCore_spad : (s.modCore n f).spad = s.spad := rfl
@[simp] theorem State.modCore_flights : (s.modCore n f).flights = s.flights := rfl
@[simp] theorem State.modCore_credits : (s.modCore n f).credits = s.credits := rfl
@[simp] theorem State.modCore_clusters : (s.modCore n f).clusters = s.clusters := rfl
@[simp] theorem State.modCore_coreEvents : (s.modCore n f).coreEvents = s.coreEvents := rfl
@[simp] theorem State.modCore_regReplies : (s.modCore n f).regReplies = s.regReplies := rfl
@[simp] theorem State.modCore_noTargets : (s.modCore n f).noTargets = s.noTargets := rfl
@[simp] theorem State.modCore_hbm : (s.modCore n f).hbm = s.hbm := rfl
@[simp] theorem State.modCore_stacks : (s.modCore n f).hbmStacks = s.hbmStacks := rfl
@[simp] theorem State.modCore_slotUse : (s.modCore n f).slotUse = s.slotUse := rfl
@[simp] theorem State.modCore_hostMem : (s.modCore n f).hostMem = s.hostMem := rfl
@[simp] theorem State.modCore_windows : (s.modCore n f).windows = s.windows := rfl
@[simp] theorem State.modCore_rules : (s.modCore n f).rules = s.rules := rfl
@[simp] theorem State.modCore_ambig : (s.modCore n f).ambig = s.ambig := rfl
@[simp] theorem State.modCore_violCounts : (s.modCore n f).violCounts = s.violCounts := rfl
@[simp] theorem State.modCore_opFaulted : (s.modCore n f).opFaulted = s.opFaulted := rfl
@[simp] theorem State.modCore_mmioData : (s.modCore n f).mmioData = s.mmioData := rfl
@[simp] theorem State.modCore_longs : (s.modCore n f).longs = s.longs := rfl
@[simp] theorem State.modCore_parts : (s.modCore n f).parts = s.parts := rfl
@[simp] theorem State.modCore_nextReq : (s.modCore n f).nextReq = s.nextReq := rfl
@[simp] theorem State.modCore_fetchTurn : (s.modCore n f).fetchTurn = s.fetchTurn := rfl
@[simp] theorem State.modCore_leases : (s.modCore n f).leases = s.leases := rfl
@[simp] theorem State.modCore_links : (s.modCore n f).links = s.links := rfl
@[simp] theorem State.modCore_timePriXor : (s.modCore n f).timePriXor = s.timePriXor := rfl
@[simp] theorem State.modCore_guardG : (s.modCore n f).guardG = s.guardG := rfl
@[simp] theorem State.modCore_timeMaster : (s.modCore n f).timeMaster = s.timeMaster := rfl
@[simp] theorem State.modCore_masterSerial : (s.modCore n f).masterSerial = s.masterSerial := rfl
@[simp] theorem State.modCore_fullRetimes : (s.modCore n f).fullRetimes = s.fullRetimes := rfl
@[simp] theorem State.modCore_fastResumes : (s.modCore n f).fastResumes = s.fastResumes := rfl
@[simp] theorem State.modCore_retimeWanted : (s.modCore n f).retimeWanted = s.retimeWanted := rfl
@[simp] theorem State.modCore_supply : (s.modCore n f).supply = s.supply := rfl
@[simp] theorem State.modCore_estate : (s.modCore n f).estate = s.estate := rfl
@[simp] theorem State.modCore_stateEt : (s.modCore n f).stateEt = s.stateEt := rfl
@[simp] theorem State.modCore_authority : (s.modCore n f).authority = s.authority := rfl
@[simp] theorem State.modCore_standbyOk : (s.modCore n f).standbyOk = s.standbyOk := rfl
@[simp] theorem State.modCore_authorityMisses : (s.modCore n f).authorityMisses = s.authorityMisses := rfl
@[simp] theorem State.modCore_missAt : (s.modCore n f).missAt = s.missAt := rfl
@[simp] theorem State.modCore_authorityLost : (s.modCore n f).authorityLost = s.authorityLost := rfl
@[simp] theorem State.modCore_draining : (s.modCore n f).draining = s.draining := rfl
@[simp] theorem State.modCore_wakeEt : (s.modCore n f).wakeEt = s.wakeEt := rfl
@[simp] theorem State.modCore_aonWake : (s.modCore n f).aonWake = s.aonWake := rfl
@[simp] theorem State.modCore_wakeReasons : (s.modCore n f).wakeReasons = s.wakeReasons := rfl
@[simp] theorem State.modCore_quietArmed : (s.modCore n f).quietArmed = s.quietArmed := rfl
@[simp] theorem State.modCore_brace : (s.modCore n f).brace = s.brace := rfl
@[simp] theorem State.modCore_pfw : (s.modCore n f).pfw = s.pfw := rfl
@[simp] theorem State.modCore_pfwHighSince : (s.modCore n f).pfwHighSince = s.pfwHighSince := rfl
@[simp] theorem State.modCore_lastAbort : (s.modCore n f).lastAbort = s.lastAbort := rfl
@[simp] theorem State.modCore_maint : (s.modCore n f).maint = s.maint := rfl
@[simp] theorem State.modCore_testDeferMax : (s.modCore n f).testDeferMax = s.testDeferMax := rfl
@[simp] theorem State.modCore_cal : (s.modCore n f).cal = s.cal := rfl
@[simp] theorem State.modCore_dump : (s.modCore n f).dump = s.dump := rfl
@[simp] theorem State.modCore_policy : (s.modCore n f).policy = s.policy := rfl
@[simp] theorem State.modCore_allowance : (s.modCore n f).allowance = s.allowance := rfl
@[simp] theorem State.modCore_powerW : (s.modCore n f).powerW = s.powerW := rfl
@[simp] theorem State.modCore_overSince : (s.modCore n f).overSince = s.overSince := rfl
@[simp] theorem State.modCore_overLogged : (s.modCore n f).overLogged = s.overLogged := rfl
@[simp] theorem State.modCore_overCap : (s.modCore n f).overCap = s.overCap := rfl
@[simp] theorem State.modCore_therm : (s.modCore n f).therm = s.therm := rfl
@[simp] theorem State.modCore_rails : (s.modCore n f).rails = s.rails := rfl
@[simp] theorem State.modCore_zones : (s.modCore n f).zones = s.zones := rfl
@[simp] theorem State.modCore_regulators : (s.modCore n f).regulators = s.regulators := rfl
@[simp] theorem State.modCore_faults : (s.modCore n f).faults = s.faults := rfl
@[simp] theorem State.modCore_faultSeq : (s.modCore n f).faultSeq = s.faultSeq := rfl
@[simp] theorem State.modCore_faultsLost : (s.modCore n f).faultsLost = s.faultsLost := rfl
@[simp] theorem State.modCore_declared : (s.modCore n f).declared = s.declared := rfl
@[simp] theorem State.modCore_fuses : (s.modCore n f).fuses = s.fuses := rfl
@[simp] theorem State.modCore_flashA : (s.modCore n f).flashA = s.flashA := rfl
@[simp] theorem State.modCore_flashB : (s.modCore n f).flashB = s.flashB := rfl
@[simp] theorem State.modCore_firmware : (s.modCore n f).firmware = s.firmware := rfl
@[simp] theorem State.modCore_fwJob : (s.modCore n f).fwJob = s.fwJob := rfl
@[simp] theorem State.modCore_noImageAt : (s.modCore n f).noImageAt = s.noImageAt := rfl
@[simp] theorem State.modCore_bootRest : (s.modCore n f).bootRest = s.bootRest := rfl
@[simp] theorem State.modCore_bootWait : (s.modCore n f).bootWait = s.bootWait := rfl
@[simp] theorem State.modCore_resetN : (s.modCore n f).resetN = s.resetN := rfl
@[simp] theorem State.modCore_refclkLost : (s.modCore n f).refclkLost = s.refclkLost := rfl
@[simp] theorem State.modCore_tapIr : (s.modCore n f).tapIr = s.tapIr := rfl
@[simp] theorem State.modCore_tapOut : (s.modCore n f).tapOut = s.tapOut := rfl
@[simp] theorem State.modCore_boundary : (s.modCore n f).boundary = s.boundary := rfl
@[simp] theorem State.modCore_carrier : (s.modCore n f).carrier = s.carrier := rfl
@[simp] theorem State.modCore_mctp : (s.modCore n f).mctp = s.mctp := rfl
@[simp] theorem State.modCore_freeCount : (s.modCore n f).freeCount = s.freeCount := rfl
@[simp] theorem State.modCore_cluster' (n' : Nat) : (s.modCore n f).cluster n' = s.cluster n' := rfl
@[simp] theorem State.modCore_lcore' (n' m' : Nat) : (s.modCore n f).lcore n' m' = s.lcore n' m' := rfl
@[simp] theorem State.modCore_window' (n' m' : Nat) : (s.modCore n f).window n' m' = s.window n' m' := rfl
@[simp] theorem State.modCore_part' (n' : Nat) : (s.modCore n f).part n' = s.part n' := rfl
@[simp] theorem State.modCore_link' (n' : Nat) : (s.modCore n f).link n' = s.link n' := rfl
@[simp] theorem State.modCore_port' (n' m' : Nat) : (s.modCore n f).port n' m' = s.port n' m' := rfl
@[simp] theorem State.modCore_ctx' (n' m' : Nat) : (s.modCore n f).ctx n' m' = s.ctx n' m' := rfl
@[simp] theorem State.modCore_stack' (n' : Nat) : (s.modCore n f).stack n' = s.stack n' := rfl
@[simp] theorem State.modCore_zone' (n' : Nat) : (s.modCore n f).zone n' = s.zone n' := rfl
@[simp] theorem State.modCore_spadRead' (n' m' l' : Nat) : (s.modCore n f).spadRead n' m' l' = s.spadRead n' m' l' := rfl
@[simp] theorem State.modCore_lease' (n' m' : Nat) : (s.modCore n f).lease n' m' = s.lease n' m' := rfl
@[simp] theorem State.modCore_isOpen' (n' m' : Nat) : (s.modCore n f).isOpen n' m' = s.isOpen n' m' := rfl
@[simp] theorem State.modCore_exists' (n' : Nat) : (s.modCore n f).exists n' = s.exists n' := rfl
@[simp] theorem State.modCore_hostUp' : (s.modCore n f).hostUp = s.hostUp := rfl
@[simp] theorem State.modCore_wafer' : (s.modCore n f).wafer = s.wafer := rfl
@[simp] theorem State.modCore_inE0' : (s.modCore n f).inE0 = s.inE0 := rfl
@[simp] theorem State.modCore_tick' : (s.modCore n f).tick = s.tick := rfl
@[simp] theorem State.modCore_phase' : (s.modCore n f).phase = s.phase := rfl
@[simp] theorem State.modCore_onEdge' : (s.modCore n f).onEdge = s.onEdge := rfl
@[simp] theorem State.modCore_longOf' (n' m' : Nat) (q' : BitVec 16) : (s.modCore n f).long? n' m' q' = s.long? n' m' q' := rfl

end

/-! ## modCluster -/

section

variable (s : State) (c : Nat) (f : Cluster → Cluster)

@[simp] theorem State.modCluster_pending : (s.modCluster c f).pending = s.pending := rfl
@[simp] theorem State.modCluster_now : (s.modCluster c f).now = s.now := rfl
@[simp] theorem State.modCluster_perst : (s.modCluster c f).perst = s.perst := rfl
@[simp] theorem State.modCluster_et : (s.modCluster c f).et = s.et := rfl
@[simp] theorem State.modCluster_sub : (s.modCluster c f).sub = s.sub := rfl
@[simp] theorem State.modCluster_etClock : (s.modCluster c f).etClock = s.etClock := rfl
@[simp] theorem State.modCluster_cores : (s.modCluster c f).cores = s.cores := rfl
@[simp] theorem State.modCluster_spad : (s.modCluster c f).spad = s.spad := rfl
@[simp] theorem State.modCluster_flights : (s.modCluster c f).flights = s.flights := rfl
@[simp] theorem State.modCluster_credits : (s.modCluster c f).credits = s.credits := rfl
@[simp] theorem State.modCluster_coreEvents : (s.modCluster c f).coreEvents = s.coreEvents := rfl
@[simp] theorem State.modCluster_regReplies : (s.modCluster c f).regReplies = s.regReplies := rfl
@[simp] theorem State.modCluster_noTargets : (s.modCluster c f).noTargets = s.noTargets := rfl
@[simp] theorem State.modCluster_hbm : (s.modCluster c f).hbm = s.hbm := rfl
@[simp] theorem State.modCluster_stacks : (s.modCluster c f).hbmStacks = s.hbmStacks := rfl
@[simp] theorem State.modCluster_slotUse : (s.modCluster c f).slotUse = s.slotUse := rfl
@[simp] theorem State.modCluster_hostMem : (s.modCluster c f).hostMem = s.hostMem := rfl
@[simp] theorem State.modCluster_windows : (s.modCluster c f).windows = s.windows := rfl
@[simp] theorem State.modCluster_rules : (s.modCluster c f).rules = s.rules := rfl
@[simp] theorem State.modCluster_ambig : (s.modCluster c f).ambig = s.ambig := rfl
@[simp] theorem State.modCluster_violCounts : (s.modCluster c f).violCounts = s.violCounts := rfl
@[simp] theorem State.modCluster_opFaulted : (s.modCluster c f).opFaulted = s.opFaulted := rfl
@[simp] theorem State.modCluster_mmioData : (s.modCluster c f).mmioData = s.mmioData := rfl
@[simp] theorem State.modCluster_longs : (s.modCluster c f).longs = s.longs := rfl
@[simp] theorem State.modCluster_parts : (s.modCluster c f).parts = s.parts := rfl
@[simp] theorem State.modCluster_nextReq : (s.modCluster c f).nextReq = s.nextReq := rfl
@[simp] theorem State.modCluster_fetchTurn : (s.modCluster c f).fetchTurn = s.fetchTurn := rfl
@[simp] theorem State.modCluster_leases : (s.modCluster c f).leases = s.leases := rfl
@[simp] theorem State.modCluster_links : (s.modCluster c f).links = s.links := rfl
@[simp] theorem State.modCluster_timePriXor : (s.modCluster c f).timePriXor = s.timePriXor := rfl
@[simp] theorem State.modCluster_guardG : (s.modCluster c f).guardG = s.guardG := rfl
@[simp] theorem State.modCluster_timeMaster : (s.modCluster c f).timeMaster = s.timeMaster := rfl
@[simp] theorem State.modCluster_masterSerial : (s.modCluster c f).masterSerial = s.masterSerial := rfl
@[simp] theorem State.modCluster_fullRetimes : (s.modCluster c f).fullRetimes = s.fullRetimes := rfl
@[simp] theorem State.modCluster_fastResumes : (s.modCluster c f).fastResumes = s.fastResumes := rfl
@[simp] theorem State.modCluster_retimeWanted : (s.modCluster c f).retimeWanted = s.retimeWanted := rfl
@[simp] theorem State.modCluster_supply : (s.modCluster c f).supply = s.supply := rfl
@[simp] theorem State.modCluster_estate : (s.modCluster c f).estate = s.estate := rfl
@[simp] theorem State.modCluster_stateEt : (s.modCluster c f).stateEt = s.stateEt := rfl
@[simp] theorem State.modCluster_authority : (s.modCluster c f).authority = s.authority := rfl
@[simp] theorem State.modCluster_standbyOk : (s.modCluster c f).standbyOk = s.standbyOk := rfl
@[simp] theorem State.modCluster_authorityMisses : (s.modCluster c f).authorityMisses = s.authorityMisses := rfl
@[simp] theorem State.modCluster_missAt : (s.modCluster c f).missAt = s.missAt := rfl
@[simp] theorem State.modCluster_authorityLost : (s.modCluster c f).authorityLost = s.authorityLost := rfl
@[simp] theorem State.modCluster_draining : (s.modCluster c f).draining = s.draining := rfl
@[simp] theorem State.modCluster_wakeEt : (s.modCluster c f).wakeEt = s.wakeEt := rfl
@[simp] theorem State.modCluster_aonWake : (s.modCluster c f).aonWake = s.aonWake := rfl
@[simp] theorem State.modCluster_wakeReasons : (s.modCluster c f).wakeReasons = s.wakeReasons := rfl
@[simp] theorem State.modCluster_quietArmed : (s.modCluster c f).quietArmed = s.quietArmed := rfl
@[simp] theorem State.modCluster_brace : (s.modCluster c f).brace = s.brace := rfl
@[simp] theorem State.modCluster_pfw : (s.modCluster c f).pfw = s.pfw := rfl
@[simp] theorem State.modCluster_pfwHighSince : (s.modCluster c f).pfwHighSince = s.pfwHighSince := rfl
@[simp] theorem State.modCluster_lastAbort : (s.modCluster c f).lastAbort = s.lastAbort := rfl
@[simp] theorem State.modCluster_maint : (s.modCluster c f).maint = s.maint := rfl
@[simp] theorem State.modCluster_testDeferMax : (s.modCluster c f).testDeferMax = s.testDeferMax := rfl
@[simp] theorem State.modCluster_cal : (s.modCluster c f).cal = s.cal := rfl
@[simp] theorem State.modCluster_dump : (s.modCluster c f).dump = s.dump := rfl
@[simp] theorem State.modCluster_policy : (s.modCluster c f).policy = s.policy := rfl
@[simp] theorem State.modCluster_allowance : (s.modCluster c f).allowance = s.allowance := rfl
@[simp] theorem State.modCluster_powerW : (s.modCluster c f).powerW = s.powerW := rfl
@[simp] theorem State.modCluster_overSince : (s.modCluster c f).overSince = s.overSince := rfl
@[simp] theorem State.modCluster_overLogged : (s.modCluster c f).overLogged = s.overLogged := rfl
@[simp] theorem State.modCluster_overCap : (s.modCluster c f).overCap = s.overCap := rfl
@[simp] theorem State.modCluster_therm : (s.modCluster c f).therm = s.therm := rfl
@[simp] theorem State.modCluster_rails : (s.modCluster c f).rails = s.rails := rfl
@[simp] theorem State.modCluster_zones : (s.modCluster c f).zones = s.zones := rfl
@[simp] theorem State.modCluster_regulators : (s.modCluster c f).regulators = s.regulators := rfl
@[simp] theorem State.modCluster_faults : (s.modCluster c f).faults = s.faults := rfl
@[simp] theorem State.modCluster_faultSeq : (s.modCluster c f).faultSeq = s.faultSeq := rfl
@[simp] theorem State.modCluster_faultsLost : (s.modCluster c f).faultsLost = s.faultsLost := rfl
@[simp] theorem State.modCluster_declared : (s.modCluster c f).declared = s.declared := rfl
@[simp] theorem State.modCluster_fuses : (s.modCluster c f).fuses = s.fuses := rfl
@[simp] theorem State.modCluster_flashA : (s.modCluster c f).flashA = s.flashA := rfl
@[simp] theorem State.modCluster_flashB : (s.modCluster c f).flashB = s.flashB := rfl
@[simp] theorem State.modCluster_firmware : (s.modCluster c f).firmware = s.firmware := rfl
@[simp] theorem State.modCluster_fwJob : (s.modCluster c f).fwJob = s.fwJob := rfl
@[simp] theorem State.modCluster_noImageAt : (s.modCluster c f).noImageAt = s.noImageAt := rfl
@[simp] theorem State.modCluster_bootRest : (s.modCluster c f).bootRest = s.bootRest := rfl
@[simp] theorem State.modCluster_bootWait : (s.modCluster c f).bootWait = s.bootWait := rfl
@[simp] theorem State.modCluster_resetN : (s.modCluster c f).resetN = s.resetN := rfl
@[simp] theorem State.modCluster_refclkLost : (s.modCluster c f).refclkLost = s.refclkLost := rfl
@[simp] theorem State.modCluster_tapIr : (s.modCluster c f).tapIr = s.tapIr := rfl
@[simp] theorem State.modCluster_tapOut : (s.modCluster c f).tapOut = s.tapOut := rfl
@[simp] theorem State.modCluster_boundary : (s.modCluster c f).boundary = s.boundary := rfl
@[simp] theorem State.modCluster_carrier : (s.modCluster c f).carrier = s.carrier := rfl
@[simp] theorem State.modCluster_mctp : (s.modCluster c f).mctp = s.mctp := rfl
@[simp] theorem State.modCluster_freeCount : (s.modCluster c f).freeCount = s.freeCount := rfl
@[simp] theorem State.modCluster_coreAt' (n' : Nat) : (s.modCluster c f).coreAt n' = s.coreAt n' := rfl
@[simp] theorem State.modCluster_window' (n' m' : Nat) : (s.modCluster c f).window n' m' = s.window n' m' := rfl
@[simp] theorem State.modCluster_part' (n' : Nat) : (s.modCluster c f).part n' = s.part n' := rfl
@[simp] theorem State.modCluster_link' (n' : Nat) : (s.modCluster c f).link n' = s.link n' := rfl
@[simp] theorem State.modCluster_port' (n' m' : Nat) : (s.modCluster c f).port n' m' = s.port n' m' := rfl
@[simp] theorem State.modCluster_ctx' (n' m' : Nat) : (s.modCluster c f).ctx n' m' = s.ctx n' m' := rfl
@[simp] theorem State.modCluster_stack' (n' : Nat) : (s.modCluster c f).stack n' = s.stack n' := rfl
@[simp] theorem State.modCluster_zone' (n' : Nat) : (s.modCluster c f).zone n' = s.zone n' := rfl
@[simp] theorem State.modCluster_spadRead' (n' m' l' : Nat) : (s.modCluster c f).spadRead n' m' l' = s.spadRead n' m' l' := rfl
@[simp] theorem State.modCluster_lease' (n' m' : Nat) : (s.modCluster c f).lease n' m' = s.lease n' m' := rfl
@[simp] theorem State.modCluster_isOpen' (n' m' : Nat) : (s.modCluster c f).isOpen n' m' = s.isOpen n' m' := rfl
@[simp] theorem State.modCluster_exists' (n' : Nat) : (s.modCluster c f).exists n' = s.exists n' := rfl
@[simp] theorem State.modCluster_hostUp' : (s.modCluster c f).hostUp = s.hostUp := rfl
@[simp] theorem State.modCluster_wafer' : (s.modCluster c f).wafer = s.wafer := rfl
@[simp] theorem State.modCluster_inE0' : (s.modCluster c f).inE0 = s.inE0 := rfl
@[simp] theorem State.modCluster_tick' : (s.modCluster c f).tick = s.tick := rfl
@[simp] theorem State.modCluster_phase' : (s.modCluster c f).phase = s.phase := rfl
@[simp] theorem State.modCluster_onEdge' : (s.modCluster c f).onEdge = s.onEdge := rfl
@[simp] theorem State.modCluster_longOf' (n' m' : Nat) (q' : BitVec 16) : (s.modCluster c f).long? n' m' q' = s.long? n' m' q' := rfl

end

/-! ## modWindow -/

section

variable (s : State) (h f : Nat) (g : Window → Window)

@[simp] theorem State.modWindow_pending : (s.modWindow h f g).pending = s.pending := rfl
@[simp] theorem State.modWindow_now : (s.modWindow h f g).now = s.now := rfl
@[simp] theorem State.modWindow_perst : (s.modWindow h f g).perst = s.perst := rfl
@[simp] theorem State.modWindow_et : (s.modWindow h f g).et = s.et := rfl
@[simp] theorem State.modWindow_sub : (s.modWindow h f g).sub = s.sub := rfl
@[simp] theorem State.modWindow_etClock : (s.modWindow h f g).etClock = s.etClock := rfl
@[simp] theorem State.modWindow_cores : (s.modWindow h f g).cores = s.cores := rfl
@[simp] theorem State.modWindow_spad : (s.modWindow h f g).spad = s.spad := rfl
@[simp] theorem State.modWindow_flights : (s.modWindow h f g).flights = s.flights := rfl
@[simp] theorem State.modWindow_credits : (s.modWindow h f g).credits = s.credits := rfl
@[simp] theorem State.modWindow_clusters : (s.modWindow h f g).clusters = s.clusters := rfl
@[simp] theorem State.modWindow_coreEvents : (s.modWindow h f g).coreEvents = s.coreEvents := rfl
@[simp] theorem State.modWindow_regReplies : (s.modWindow h f g).regReplies = s.regReplies := rfl
@[simp] theorem State.modWindow_noTargets : (s.modWindow h f g).noTargets = s.noTargets := rfl
@[simp] theorem State.modWindow_hbm : (s.modWindow h f g).hbm = s.hbm := rfl
@[simp] theorem State.modWindow_stacks : (s.modWindow h f g).hbmStacks = s.hbmStacks := rfl
@[simp] theorem State.modWindow_slotUse : (s.modWindow h f g).slotUse = s.slotUse := rfl
@[simp] theorem State.modWindow_hostMem : (s.modWindow h f g).hostMem = s.hostMem := rfl
@[simp] theorem State.modWindow_rules : (s.modWindow h f g).rules = s.rules := rfl
@[simp] theorem State.modWindow_ambig : (s.modWindow h f g).ambig = s.ambig := rfl
@[simp] theorem State.modWindow_violCounts : (s.modWindow h f g).violCounts = s.violCounts := rfl
@[simp] theorem State.modWindow_opFaulted : (s.modWindow h f g).opFaulted = s.opFaulted := rfl
@[simp] theorem State.modWindow_mmioData : (s.modWindow h f g).mmioData = s.mmioData := rfl
@[simp] theorem State.modWindow_longs : (s.modWindow h f g).longs = s.longs := rfl
@[simp] theorem State.modWindow_parts : (s.modWindow h f g).parts = s.parts := rfl
@[simp] theorem State.modWindow_nextReq : (s.modWindow h f g).nextReq = s.nextReq := rfl
@[simp] theorem State.modWindow_fetchTurn : (s.modWindow h f g).fetchTurn = s.fetchTurn := rfl
@[simp] theorem State.modWindow_leases : (s.modWindow h f g).leases = s.leases := rfl
@[simp] theorem State.modWindow_links : (s.modWindow h f g).links = s.links := rfl
@[simp] theorem State.modWindow_timePriXor : (s.modWindow h f g).timePriXor = s.timePriXor := rfl
@[simp] theorem State.modWindow_guardG : (s.modWindow h f g).guardG = s.guardG := rfl
@[simp] theorem State.modWindow_timeMaster : (s.modWindow h f g).timeMaster = s.timeMaster := rfl
@[simp] theorem State.modWindow_masterSerial : (s.modWindow h f g).masterSerial = s.masterSerial := rfl
@[simp] theorem State.modWindow_fullRetimes : (s.modWindow h f g).fullRetimes = s.fullRetimes := rfl
@[simp] theorem State.modWindow_fastResumes : (s.modWindow h f g).fastResumes = s.fastResumes := rfl
@[simp] theorem State.modWindow_retimeWanted : (s.modWindow h f g).retimeWanted = s.retimeWanted := rfl
@[simp] theorem State.modWindow_supply : (s.modWindow h f g).supply = s.supply := rfl
@[simp] theorem State.modWindow_estate : (s.modWindow h f g).estate = s.estate := rfl
@[simp] theorem State.modWindow_stateEt : (s.modWindow h f g).stateEt = s.stateEt := rfl
@[simp] theorem State.modWindow_authority : (s.modWindow h f g).authority = s.authority := rfl
@[simp] theorem State.modWindow_standbyOk : (s.modWindow h f g).standbyOk = s.standbyOk := rfl
@[simp] theorem State.modWindow_authorityMisses : (s.modWindow h f g).authorityMisses = s.authorityMisses := rfl
@[simp] theorem State.modWindow_missAt : (s.modWindow h f g).missAt = s.missAt := rfl
@[simp] theorem State.modWindow_authorityLost : (s.modWindow h f g).authorityLost = s.authorityLost := rfl
@[simp] theorem State.modWindow_draining : (s.modWindow h f g).draining = s.draining := rfl
@[simp] theorem State.modWindow_wakeEt : (s.modWindow h f g).wakeEt = s.wakeEt := rfl
@[simp] theorem State.modWindow_aonWake : (s.modWindow h f g).aonWake = s.aonWake := rfl
@[simp] theorem State.modWindow_wakeReasons : (s.modWindow h f g).wakeReasons = s.wakeReasons := rfl
@[simp] theorem State.modWindow_quietArmed : (s.modWindow h f g).quietArmed = s.quietArmed := rfl
@[simp] theorem State.modWindow_brace : (s.modWindow h f g).brace = s.brace := rfl
@[simp] theorem State.modWindow_pfw : (s.modWindow h f g).pfw = s.pfw := rfl
@[simp] theorem State.modWindow_pfwHighSince : (s.modWindow h f g).pfwHighSince = s.pfwHighSince := rfl
@[simp] theorem State.modWindow_lastAbort : (s.modWindow h f g).lastAbort = s.lastAbort := rfl
@[simp] theorem State.modWindow_maint : (s.modWindow h f g).maint = s.maint := rfl
@[simp] theorem State.modWindow_testDeferMax : (s.modWindow h f g).testDeferMax = s.testDeferMax := rfl
@[simp] theorem State.modWindow_cal : (s.modWindow h f g).cal = s.cal := rfl
@[simp] theorem State.modWindow_dump : (s.modWindow h f g).dump = s.dump := rfl
@[simp] theorem State.modWindow_policy : (s.modWindow h f g).policy = s.policy := rfl
@[simp] theorem State.modWindow_allowance : (s.modWindow h f g).allowance = s.allowance := rfl
@[simp] theorem State.modWindow_powerW : (s.modWindow h f g).powerW = s.powerW := rfl
@[simp] theorem State.modWindow_overSince : (s.modWindow h f g).overSince = s.overSince := rfl
@[simp] theorem State.modWindow_overLogged : (s.modWindow h f g).overLogged = s.overLogged := rfl
@[simp] theorem State.modWindow_overCap : (s.modWindow h f g).overCap = s.overCap := rfl
@[simp] theorem State.modWindow_therm : (s.modWindow h f g).therm = s.therm := rfl
@[simp] theorem State.modWindow_rails : (s.modWindow h f g).rails = s.rails := rfl
@[simp] theorem State.modWindow_zones : (s.modWindow h f g).zones = s.zones := rfl
@[simp] theorem State.modWindow_regulators : (s.modWindow h f g).regulators = s.regulators := rfl
@[simp] theorem State.modWindow_faults : (s.modWindow h f g).faults = s.faults := rfl
@[simp] theorem State.modWindow_faultSeq : (s.modWindow h f g).faultSeq = s.faultSeq := rfl
@[simp] theorem State.modWindow_faultsLost : (s.modWindow h f g).faultsLost = s.faultsLost := rfl
@[simp] theorem State.modWindow_declared : (s.modWindow h f g).declared = s.declared := rfl
@[simp] theorem State.modWindow_fuses : (s.modWindow h f g).fuses = s.fuses := rfl
@[simp] theorem State.modWindow_flashA : (s.modWindow h f g).flashA = s.flashA := rfl
@[simp] theorem State.modWindow_flashB : (s.modWindow h f g).flashB = s.flashB := rfl
@[simp] theorem State.modWindow_firmware : (s.modWindow h f g).firmware = s.firmware := rfl
@[simp] theorem State.modWindow_fwJob : (s.modWindow h f g).fwJob = s.fwJob := rfl
@[simp] theorem State.modWindow_noImageAt : (s.modWindow h f g).noImageAt = s.noImageAt := rfl
@[simp] theorem State.modWindow_bootRest : (s.modWindow h f g).bootRest = s.bootRest := rfl
@[simp] theorem State.modWindow_bootWait : (s.modWindow h f g).bootWait = s.bootWait := rfl
@[simp] theorem State.modWindow_resetN : (s.modWindow h f g).resetN = s.resetN := rfl
@[simp] theorem State.modWindow_refclkLost : (s.modWindow h f g).refclkLost = s.refclkLost := rfl
@[simp] theorem State.modWindow_tapIr : (s.modWindow h f g).tapIr = s.tapIr := rfl
@[simp] theorem State.modWindow_tapOut : (s.modWindow h f g).tapOut = s.tapOut := rfl
@[simp] theorem State.modWindow_boundary : (s.modWindow h f g).boundary = s.boundary := rfl
@[simp] theorem State.modWindow_carrier : (s.modWindow h f g).carrier = s.carrier := rfl
@[simp] theorem State.modWindow_mctp : (s.modWindow h f g).mctp = s.mctp := rfl
@[simp] theorem State.modWindow_freeCount : (s.modWindow h f g).freeCount = s.freeCount := rfl
@[simp] theorem State.modWindow_coreAt' (n' : Nat) : (s.modWindow h f g).coreAt n' = s.coreAt n' := rfl
@[simp] theorem State.modWindow_cluster' (n' : Nat) : (s.modWindow h f g).cluster n' = s.cluster n' := rfl
@[simp] theorem State.modWindow_lcore' (n' m' : Nat) : (s.modWindow h f g).lcore n' m' = s.lcore n' m' := rfl
@[simp] theorem State.modWindow_part' (n' : Nat) : (s.modWindow h f g).part n' = s.part n' := rfl
@[simp] theorem State.modWindow_link' (n' : Nat) : (s.modWindow h f g).link n' = s.link n' := rfl
@[simp] theorem State.modWindow_port' (n' m' : Nat) : (s.modWindow h f g).port n' m' = s.port n' m' := rfl
@[simp] theorem State.modWindow_ctx' (n' m' : Nat) : (s.modWindow h f g).ctx n' m' = s.ctx n' m' := rfl
@[simp] theorem State.modWindow_stack' (n' : Nat) : (s.modWindow h f g).stack n' = s.stack n' := rfl
@[simp] theorem State.modWindow_zone' (n' : Nat) : (s.modWindow h f g).zone n' = s.zone n' := rfl
@[simp] theorem State.modWindow_spadRead' (n' m' l' : Nat) : (s.modWindow h f g).spadRead n' m' l' = s.spadRead n' m' l' := rfl
@[simp] theorem State.modWindow_lease' (n' m' : Nat) : (s.modWindow h f g).lease n' m' = s.lease n' m' := rfl
@[simp] theorem State.modWindow_isOpen' (n' m' : Nat) : (s.modWindow h f g).isOpen n' m' = s.isOpen n' m' := rfl
@[simp] theorem State.modWindow_exists' (n' : Nat) : (s.modWindow h f g).exists n' = s.exists n' := rfl
@[simp] theorem State.modWindow_hostUp' : (s.modWindow h f g).hostUp = s.hostUp := rfl
@[simp] theorem State.modWindow_wafer' : (s.modWindow h f g).wafer = s.wafer := rfl
@[simp] theorem State.modWindow_inE0' : (s.modWindow h f g).inE0 = s.inE0 := rfl
@[simp] theorem State.modWindow_tick' : (s.modWindow h f g).tick = s.tick := rfl
@[simp] theorem State.modWindow_phase' : (s.modWindow h f g).phase = s.phase := rfl
@[simp] theorem State.modWindow_onEdge' : (s.modWindow h f g).onEdge = s.onEdge := rfl
@[simp] theorem State.modWindow_longOf' (n' m' : Nat) (q' : BitVec 16) : (s.modWindow h f g).long? n' m' q' = s.long? n' m' q' := rfl

end

/-! ## modPart -/

section

variable (s : State) (p : Nat) (f : PartState → PartState)

@[simp] theorem State.modPart_pending : (s.modPart p f).pending = s.pending := rfl
@[simp] theorem State.modPart_now : (s.modPart p f).now = s.now := rfl
@[simp] theorem State.modPart_perst : (s.modPart p f).perst = s.perst := rfl
@[simp] theorem State.modPart_et : (s.modPart p f).et = s.et := rfl
@[simp] theorem State.modPart_sub : (s.modPart p f).sub = s.sub := rfl
@[simp] theorem State.modPart_etClock : (s.modPart p f).etClock = s.etClock := rfl
@[simp] theorem State.modPart_cores : (s.modPart p f).cores = s.cores := rfl
@[simp] theorem State.modPart_spad : (s.modPart p f).spad = s.spad := rfl
@[simp] theorem State.modPart_flights : (s.modPart p f).flights = s.flights := rfl
@[simp] theorem State.modPart_credits : (s.modPart p f).credits = s.credits := rfl
@[simp] theorem State.modPart_clusters : (s.modPart p f).clusters = s.clusters := rfl
@[simp] theorem State.modPart_coreEvents : (s.modPart p f).coreEvents = s.coreEvents := rfl
@[simp] theorem State.modPart_regReplies : (s.modPart p f).regReplies = s.regReplies := rfl
@[simp] theorem State.modPart_noTargets : (s.modPart p f).noTargets = s.noTargets := rfl
@[simp] theorem State.modPart_hbm : (s.modPart p f).hbm = s.hbm := rfl
@[simp] theorem State.modPart_stacks : (s.modPart p f).hbmStacks = s.hbmStacks := rfl
@[simp] theorem State.modPart_slotUse : (s.modPart p f).slotUse = s.slotUse := rfl
@[simp] theorem State.modPart_hostMem : (s.modPart p f).hostMem = s.hostMem := rfl
@[simp] theorem State.modPart_windows : (s.modPart p f).windows = s.windows := rfl
@[simp] theorem State.modPart_rules : (s.modPart p f).rules = s.rules := rfl
@[simp] theorem State.modPart_ambig : (s.modPart p f).ambig = s.ambig := rfl
@[simp] theorem State.modPart_violCounts : (s.modPart p f).violCounts = s.violCounts := rfl
@[simp] theorem State.modPart_opFaulted : (s.modPart p f).opFaulted = s.opFaulted := rfl
@[simp] theorem State.modPart_mmioData : (s.modPart p f).mmioData = s.mmioData := rfl
@[simp] theorem State.modPart_longs : (s.modPart p f).longs = s.longs := rfl
@[simp] theorem State.modPart_nextReq : (s.modPart p f).nextReq = s.nextReq := rfl
@[simp] theorem State.modPart_fetchTurn : (s.modPart p f).fetchTurn = s.fetchTurn := rfl
@[simp] theorem State.modPart_leases : (s.modPart p f).leases = s.leases := rfl
@[simp] theorem State.modPart_links : (s.modPart p f).links = s.links := rfl
@[simp] theorem State.modPart_timePriXor : (s.modPart p f).timePriXor = s.timePriXor := rfl
@[simp] theorem State.modPart_guardG : (s.modPart p f).guardG = s.guardG := rfl
@[simp] theorem State.modPart_timeMaster : (s.modPart p f).timeMaster = s.timeMaster := rfl
@[simp] theorem State.modPart_masterSerial : (s.modPart p f).masterSerial = s.masterSerial := rfl
@[simp] theorem State.modPart_fullRetimes : (s.modPart p f).fullRetimes = s.fullRetimes := rfl
@[simp] theorem State.modPart_fastResumes : (s.modPart p f).fastResumes = s.fastResumes := rfl
@[simp] theorem State.modPart_retimeWanted : (s.modPart p f).retimeWanted = s.retimeWanted := rfl
@[simp] theorem State.modPart_supply : (s.modPart p f).supply = s.supply := rfl
@[simp] theorem State.modPart_estate : (s.modPart p f).estate = s.estate := rfl
@[simp] theorem State.modPart_stateEt : (s.modPart p f).stateEt = s.stateEt := rfl
@[simp] theorem State.modPart_authority : (s.modPart p f).authority = s.authority := rfl
@[simp] theorem State.modPart_standbyOk : (s.modPart p f).standbyOk = s.standbyOk := rfl
@[simp] theorem State.modPart_authorityMisses : (s.modPart p f).authorityMisses = s.authorityMisses := rfl
@[simp] theorem State.modPart_missAt : (s.modPart p f).missAt = s.missAt := rfl
@[simp] theorem State.modPart_authorityLost : (s.modPart p f).authorityLost = s.authorityLost := rfl
@[simp] theorem State.modPart_draining : (s.modPart p f).draining = s.draining := rfl
@[simp] theorem State.modPart_wakeEt : (s.modPart p f).wakeEt = s.wakeEt := rfl
@[simp] theorem State.modPart_aonWake : (s.modPart p f).aonWake = s.aonWake := rfl
@[simp] theorem State.modPart_wakeReasons : (s.modPart p f).wakeReasons = s.wakeReasons := rfl
@[simp] theorem State.modPart_quietArmed : (s.modPart p f).quietArmed = s.quietArmed := rfl
@[simp] theorem State.modPart_brace : (s.modPart p f).brace = s.brace := rfl
@[simp] theorem State.modPart_pfw : (s.modPart p f).pfw = s.pfw := rfl
@[simp] theorem State.modPart_pfwHighSince : (s.modPart p f).pfwHighSince = s.pfwHighSince := rfl
@[simp] theorem State.modPart_lastAbort : (s.modPart p f).lastAbort = s.lastAbort := rfl
@[simp] theorem State.modPart_maint : (s.modPart p f).maint = s.maint := rfl
@[simp] theorem State.modPart_testDeferMax : (s.modPart p f).testDeferMax = s.testDeferMax := rfl
@[simp] theorem State.modPart_cal : (s.modPart p f).cal = s.cal := rfl
@[simp] theorem State.modPart_dump : (s.modPart p f).dump = s.dump := rfl
@[simp] theorem State.modPart_policy : (s.modPart p f).policy = s.policy := rfl
@[simp] theorem State.modPart_allowance : (s.modPart p f).allowance = s.allowance := rfl
@[simp] theorem State.modPart_powerW : (s.modPart p f).powerW = s.powerW := rfl
@[simp] theorem State.modPart_overSince : (s.modPart p f).overSince = s.overSince := rfl
@[simp] theorem State.modPart_overLogged : (s.modPart p f).overLogged = s.overLogged := rfl
@[simp] theorem State.modPart_overCap : (s.modPart p f).overCap = s.overCap := rfl
@[simp] theorem State.modPart_therm : (s.modPart p f).therm = s.therm := rfl
@[simp] theorem State.modPart_rails : (s.modPart p f).rails = s.rails := rfl
@[simp] theorem State.modPart_zones : (s.modPart p f).zones = s.zones := rfl
@[simp] theorem State.modPart_regulators : (s.modPart p f).regulators = s.regulators := rfl
@[simp] theorem State.modPart_faults : (s.modPart p f).faults = s.faults := rfl
@[simp] theorem State.modPart_faultSeq : (s.modPart p f).faultSeq = s.faultSeq := rfl
@[simp] theorem State.modPart_faultsLost : (s.modPart p f).faultsLost = s.faultsLost := rfl
@[simp] theorem State.modPart_declared : (s.modPart p f).declared = s.declared := rfl
@[simp] theorem State.modPart_fuses : (s.modPart p f).fuses = s.fuses := rfl
@[simp] theorem State.modPart_flashA : (s.modPart p f).flashA = s.flashA := rfl
@[simp] theorem State.modPart_flashB : (s.modPart p f).flashB = s.flashB := rfl
@[simp] theorem State.modPart_firmware : (s.modPart p f).firmware = s.firmware := rfl
@[simp] theorem State.modPart_fwJob : (s.modPart p f).fwJob = s.fwJob := rfl
@[simp] theorem State.modPart_noImageAt : (s.modPart p f).noImageAt = s.noImageAt := rfl
@[simp] theorem State.modPart_bootRest : (s.modPart p f).bootRest = s.bootRest := rfl
@[simp] theorem State.modPart_bootWait : (s.modPart p f).bootWait = s.bootWait := rfl
@[simp] theorem State.modPart_resetN : (s.modPart p f).resetN = s.resetN := rfl
@[simp] theorem State.modPart_refclkLost : (s.modPart p f).refclkLost = s.refclkLost := rfl
@[simp] theorem State.modPart_tapIr : (s.modPart p f).tapIr = s.tapIr := rfl
@[simp] theorem State.modPart_tapOut : (s.modPart p f).tapOut = s.tapOut := rfl
@[simp] theorem State.modPart_boundary : (s.modPart p f).boundary = s.boundary := rfl
@[simp] theorem State.modPart_carrier : (s.modPart p f).carrier = s.carrier := rfl
@[simp] theorem State.modPart_mctp : (s.modPart p f).mctp = s.mctp := rfl
@[simp] theorem State.modPart_freeCount : (s.modPart p f).freeCount = s.freeCount := rfl
@[simp] theorem State.modPart_coreAt' (n' : Nat) : (s.modPart p f).coreAt n' = s.coreAt n' := rfl
@[simp] theorem State.modPart_cluster' (n' : Nat) : (s.modPart p f).cluster n' = s.cluster n' := rfl
@[simp] theorem State.modPart_lcore' (n' m' : Nat) : (s.modPart p f).lcore n' m' = s.lcore n' m' := rfl
@[simp] theorem State.modPart_window' (n' m' : Nat) : (s.modPart p f).window n' m' = s.window n' m' := rfl
@[simp] theorem State.modPart_link' (n' : Nat) : (s.modPart p f).link n' = s.link n' := rfl
@[simp] theorem State.modPart_port' (n' m' : Nat) : (s.modPart p f).port n' m' = s.port n' m' := rfl
@[simp] theorem State.modPart_ctx' (n' m' : Nat) : (s.modPart p f).ctx n' m' = s.ctx n' m' := rfl
@[simp] theorem State.modPart_stack' (n' : Nat) : (s.modPart p f).stack n' = s.stack n' := rfl
@[simp] theorem State.modPart_zone' (n' : Nat) : (s.modPart p f).zone n' = s.zone n' := rfl
@[simp] theorem State.modPart_spadRead' (n' m' l' : Nat) : (s.modPart p f).spadRead n' m' l' = s.spadRead n' m' l' := rfl
@[simp] theorem State.modPart_lease' (n' m' : Nat) : (s.modPart p f).lease n' m' = s.lease n' m' := rfl
@[simp] theorem State.modPart_hostUp' : (s.modPart p f).hostUp = s.hostUp := rfl
@[simp] theorem State.modPart_wafer' : (s.modPart p f).wafer = s.wafer := rfl
@[simp] theorem State.modPart_inE0' : (s.modPart p f).inE0 = s.inE0 := rfl
@[simp] theorem State.modPart_tick' : (s.modPart p f).tick = s.tick := rfl
@[simp] theorem State.modPart_phase' : (s.modPart p f).phase = s.phase := rfl
@[simp] theorem State.modPart_onEdge' : (s.modPart p f).onEdge = s.onEdge := rfl
@[simp] theorem State.modPart_longOf' (n' m' : Nat) (q' : BitVec 16) : (s.modPart p f).long? n' m' q' = s.long? n' m' q' := rfl

end

/-! ## modLink -/

section

variable (s : State) (d : Nat) (f : LinkDie → LinkDie)

@[simp] theorem State.modLink_pending : (s.modLink d f).pending = s.pending := rfl
@[simp] theorem State.modLink_now : (s.modLink d f).now = s.now := rfl
@[simp] theorem State.modLink_perst : (s.modLink d f).perst = s.perst := rfl
@[simp] theorem State.modLink_et : (s.modLink d f).et = s.et := rfl
@[simp] theorem State.modLink_sub : (s.modLink d f).sub = s.sub := rfl
@[simp] theorem State.modLink_etClock : (s.modLink d f).etClock = s.etClock := rfl
@[simp] theorem State.modLink_cores : (s.modLink d f).cores = s.cores := rfl
@[simp] theorem State.modLink_spad : (s.modLink d f).spad = s.spad := rfl
@[simp] theorem State.modLink_flights : (s.modLink d f).flights = s.flights := rfl
@[simp] theorem State.modLink_credits : (s.modLink d f).credits = s.credits := rfl
@[simp] theorem State.modLink_clusters : (s.modLink d f).clusters = s.clusters := rfl
@[simp] theorem State.modLink_coreEvents : (s.modLink d f).coreEvents = s.coreEvents := rfl
@[simp] theorem State.modLink_regReplies : (s.modLink d f).regReplies = s.regReplies := rfl
@[simp] theorem State.modLink_noTargets : (s.modLink d f).noTargets = s.noTargets := rfl
@[simp] theorem State.modLink_hbm : (s.modLink d f).hbm = s.hbm := rfl
@[simp] theorem State.modLink_stacks : (s.modLink d f).hbmStacks = s.hbmStacks := rfl
@[simp] theorem State.modLink_slotUse : (s.modLink d f).slotUse = s.slotUse := rfl
@[simp] theorem State.modLink_hostMem : (s.modLink d f).hostMem = s.hostMem := rfl
@[simp] theorem State.modLink_windows : (s.modLink d f).windows = s.windows := rfl
@[simp] theorem State.modLink_rules : (s.modLink d f).rules = s.rules := rfl
@[simp] theorem State.modLink_ambig : (s.modLink d f).ambig = s.ambig := rfl
@[simp] theorem State.modLink_violCounts : (s.modLink d f).violCounts = s.violCounts := rfl
@[simp] theorem State.modLink_opFaulted : (s.modLink d f).opFaulted = s.opFaulted := rfl
@[simp] theorem State.modLink_mmioData : (s.modLink d f).mmioData = s.mmioData := rfl
@[simp] theorem State.modLink_longs : (s.modLink d f).longs = s.longs := rfl
@[simp] theorem State.modLink_parts : (s.modLink d f).parts = s.parts := rfl
@[simp] theorem State.modLink_nextReq : (s.modLink d f).nextReq = s.nextReq := rfl
@[simp] theorem State.modLink_fetchTurn : (s.modLink d f).fetchTurn = s.fetchTurn := rfl
@[simp] theorem State.modLink_leases : (s.modLink d f).leases = s.leases := rfl
@[simp] theorem State.modLink_timePriXor : (s.modLink d f).timePriXor = s.timePriXor := rfl
@[simp] theorem State.modLink_guardG : (s.modLink d f).guardG = s.guardG := rfl
@[simp] theorem State.modLink_timeMaster : (s.modLink d f).timeMaster = s.timeMaster := rfl
@[simp] theorem State.modLink_masterSerial : (s.modLink d f).masterSerial = s.masterSerial := rfl
@[simp] theorem State.modLink_fullRetimes : (s.modLink d f).fullRetimes = s.fullRetimes := rfl
@[simp] theorem State.modLink_fastResumes : (s.modLink d f).fastResumes = s.fastResumes := rfl
@[simp] theorem State.modLink_retimeWanted : (s.modLink d f).retimeWanted = s.retimeWanted := rfl
@[simp] theorem State.modLink_supply : (s.modLink d f).supply = s.supply := rfl
@[simp] theorem State.modLink_estate : (s.modLink d f).estate = s.estate := rfl
@[simp] theorem State.modLink_stateEt : (s.modLink d f).stateEt = s.stateEt := rfl
@[simp] theorem State.modLink_authority : (s.modLink d f).authority = s.authority := rfl
@[simp] theorem State.modLink_standbyOk : (s.modLink d f).standbyOk = s.standbyOk := rfl
@[simp] theorem State.modLink_authorityMisses : (s.modLink d f).authorityMisses = s.authorityMisses := rfl
@[simp] theorem State.modLink_missAt : (s.modLink d f).missAt = s.missAt := rfl
@[simp] theorem State.modLink_authorityLost : (s.modLink d f).authorityLost = s.authorityLost := rfl
@[simp] theorem State.modLink_draining : (s.modLink d f).draining = s.draining := rfl
@[simp] theorem State.modLink_wakeEt : (s.modLink d f).wakeEt = s.wakeEt := rfl
@[simp] theorem State.modLink_aonWake : (s.modLink d f).aonWake = s.aonWake := rfl
@[simp] theorem State.modLink_wakeReasons : (s.modLink d f).wakeReasons = s.wakeReasons := rfl
@[simp] theorem State.modLink_quietArmed : (s.modLink d f).quietArmed = s.quietArmed := rfl
@[simp] theorem State.modLink_brace : (s.modLink d f).brace = s.brace := rfl
@[simp] theorem State.modLink_pfw : (s.modLink d f).pfw = s.pfw := rfl
@[simp] theorem State.modLink_pfwHighSince : (s.modLink d f).pfwHighSince = s.pfwHighSince := rfl
@[simp] theorem State.modLink_lastAbort : (s.modLink d f).lastAbort = s.lastAbort := rfl
@[simp] theorem State.modLink_maint : (s.modLink d f).maint = s.maint := rfl
@[simp] theorem State.modLink_testDeferMax : (s.modLink d f).testDeferMax = s.testDeferMax := rfl
@[simp] theorem State.modLink_cal : (s.modLink d f).cal = s.cal := rfl
@[simp] theorem State.modLink_dump : (s.modLink d f).dump = s.dump := rfl
@[simp] theorem State.modLink_policy : (s.modLink d f).policy = s.policy := rfl
@[simp] theorem State.modLink_allowance : (s.modLink d f).allowance = s.allowance := rfl
@[simp] theorem State.modLink_powerW : (s.modLink d f).powerW = s.powerW := rfl
@[simp] theorem State.modLink_overSince : (s.modLink d f).overSince = s.overSince := rfl
@[simp] theorem State.modLink_overLogged : (s.modLink d f).overLogged = s.overLogged := rfl
@[simp] theorem State.modLink_overCap : (s.modLink d f).overCap = s.overCap := rfl
@[simp] theorem State.modLink_therm : (s.modLink d f).therm = s.therm := rfl
@[simp] theorem State.modLink_rails : (s.modLink d f).rails = s.rails := rfl
@[simp] theorem State.modLink_zones : (s.modLink d f).zones = s.zones := rfl
@[simp] theorem State.modLink_regulators : (s.modLink d f).regulators = s.regulators := rfl
@[simp] theorem State.modLink_faults : (s.modLink d f).faults = s.faults := rfl
@[simp] theorem State.modLink_faultSeq : (s.modLink d f).faultSeq = s.faultSeq := rfl
@[simp] theorem State.modLink_faultsLost : (s.modLink d f).faultsLost = s.faultsLost := rfl
@[simp] theorem State.modLink_declared : (s.modLink d f).declared = s.declared := rfl
@[simp] theorem State.modLink_fuses : (s.modLink d f).fuses = s.fuses := rfl
@[simp] theorem State.modLink_flashA : (s.modLink d f).flashA = s.flashA := rfl
@[simp] theorem State.modLink_flashB : (s.modLink d f).flashB = s.flashB := rfl
@[simp] theorem State.modLink_firmware : (s.modLink d f).firmware = s.firmware := rfl
@[simp] theorem State.modLink_fwJob : (s.modLink d f).fwJob = s.fwJob := rfl
@[simp] theorem State.modLink_noImageAt : (s.modLink d f).noImageAt = s.noImageAt := rfl
@[simp] theorem State.modLink_bootRest : (s.modLink d f).bootRest = s.bootRest := rfl
@[simp] theorem State.modLink_bootWait : (s.modLink d f).bootWait = s.bootWait := rfl
@[simp] theorem State.modLink_resetN : (s.modLink d f).resetN = s.resetN := rfl
@[simp] theorem State.modLink_refclkLost : (s.modLink d f).refclkLost = s.refclkLost := rfl
@[simp] theorem State.modLink_tapIr : (s.modLink d f).tapIr = s.tapIr := rfl
@[simp] theorem State.modLink_tapOut : (s.modLink d f).tapOut = s.tapOut := rfl
@[simp] theorem State.modLink_boundary : (s.modLink d f).boundary = s.boundary := rfl
@[simp] theorem State.modLink_carrier : (s.modLink d f).carrier = s.carrier := rfl
@[simp] theorem State.modLink_mctp : (s.modLink d f).mctp = s.mctp := rfl
@[simp] theorem State.modLink_freeCount : (s.modLink d f).freeCount = s.freeCount := rfl
@[simp] theorem State.modLink_coreAt' (n' : Nat) : (s.modLink d f).coreAt n' = s.coreAt n' := rfl
@[simp] theorem State.modLink_cluster' (n' : Nat) : (s.modLink d f).cluster n' = s.cluster n' := rfl
@[simp] theorem State.modLink_lcore' (n' m' : Nat) : (s.modLink d f).lcore n' m' = s.lcore n' m' := rfl
@[simp] theorem State.modLink_window' (n' m' : Nat) : (s.modLink d f).window n' m' = s.window n' m' := rfl
@[simp] theorem State.modLink_part' (n' : Nat) : (s.modLink d f).part n' = s.part n' := rfl
@[simp] theorem State.modLink_stack' (n' : Nat) : (s.modLink d f).stack n' = s.stack n' := rfl
@[simp] theorem State.modLink_zone' (n' : Nat) : (s.modLink d f).zone n' = s.zone n' := rfl
@[simp] theorem State.modLink_spadRead' (n' m' l' : Nat) : (s.modLink d f).spadRead n' m' l' = s.spadRead n' m' l' := rfl
@[simp] theorem State.modLink_lease' (n' m' : Nat) : (s.modLink d f).lease n' m' = s.lease n' m' := rfl
@[simp] theorem State.modLink_isOpen' (n' m' : Nat) : (s.modLink d f).isOpen n' m' = s.isOpen n' m' := rfl
@[simp] theorem State.modLink_exists' (n' : Nat) : (s.modLink d f).exists n' = s.exists n' := rfl
@[simp] theorem State.modLink_hostUp' : (s.modLink d f).hostUp = s.hostUp := rfl
@[simp] theorem State.modLink_wafer' : (s.modLink d f).wafer = s.wafer := rfl
@[simp] theorem State.modLink_inE0' : (s.modLink d f).inE0 = s.inE0 := rfl
@[simp] theorem State.modLink_tick' : (s.modLink d f).tick = s.tick := rfl
@[simp] theorem State.modLink_phase' : (s.modLink d f).phase = s.phase := rfl
@[simp] theorem State.modLink_onEdge' : (s.modLink d f).onEdge = s.onEdge := rfl
@[simp] theorem State.modLink_longOf' (n' m' : Nat) (q' : BitVec 16) : (s.modLink d f).long? n' m' q' = s.long? n' m' q' := rfl

end

/-! ## modStack -/

section

variable (s : State) (m : Nat) (f : HbmStack → HbmStack)

@[simp] theorem State.modStack_pending : (s.modStack m f).pending = s.pending := rfl
@[simp] theorem State.modStack_now : (s.modStack m f).now = s.now := rfl
@[simp] theorem State.modStack_perst : (s.modStack m f).perst = s.perst := rfl
@[simp] theorem State.modStack_et : (s.modStack m f).et = s.et := rfl
@[simp] theorem State.modStack_sub : (s.modStack m f).sub = s.sub := rfl
@[simp] theorem State.modStack_etClock : (s.modStack m f).etClock = s.etClock := rfl
@[simp] theorem State.modStack_cores : (s.modStack m f).cores = s.cores := rfl
@[simp] theorem State.modStack_spad : (s.modStack m f).spad = s.spad := rfl
@[simp] theorem State.modStack_flights : (s.modStack m f).flights = s.flights := rfl
@[simp] theorem State.modStack_credits : (s.modStack m f).credits = s.credits := rfl
@[simp] theorem State.modStack_clusters : (s.modStack m f).clusters = s.clusters := rfl
@[simp] theorem State.modStack_coreEvents : (s.modStack m f).coreEvents = s.coreEvents := rfl
@[simp] theorem State.modStack_regReplies : (s.modStack m f).regReplies = s.regReplies := rfl
@[simp] theorem State.modStack_noTargets : (s.modStack m f).noTargets = s.noTargets := rfl
@[simp] theorem State.modStack_hbm : (s.modStack m f).hbm = s.hbm := rfl
@[simp] theorem State.modStack_slotUse : (s.modStack m f).slotUse = s.slotUse := rfl
@[simp] theorem State.modStack_hostMem : (s.modStack m f).hostMem = s.hostMem := rfl
@[simp] theorem State.modStack_windows : (s.modStack m f).windows = s.windows := rfl
@[simp] theorem State.modStack_rules : (s.modStack m f).rules = s.rules := rfl
@[simp] theorem State.modStack_ambig : (s.modStack m f).ambig = s.ambig := rfl
@[simp] theorem State.modStack_violCounts : (s.modStack m f).violCounts = s.violCounts := rfl
@[simp] theorem State.modStack_opFaulted : (s.modStack m f).opFaulted = s.opFaulted := rfl
@[simp] theorem State.modStack_mmioData : (s.modStack m f).mmioData = s.mmioData := rfl
@[simp] theorem State.modStack_longs : (s.modStack m f).longs = s.longs := rfl
@[simp] theorem State.modStack_parts : (s.modStack m f).parts = s.parts := rfl
@[simp] theorem State.modStack_nextReq : (s.modStack m f).nextReq = s.nextReq := rfl
@[simp] theorem State.modStack_fetchTurn : (s.modStack m f).fetchTurn = s.fetchTurn := rfl
@[simp] theorem State.modStack_leases : (s.modStack m f).leases = s.leases := rfl
@[simp] theorem State.modStack_links : (s.modStack m f).links = s.links := rfl
@[simp] theorem State.modStack_timePriXor : (s.modStack m f).timePriXor = s.timePriXor := rfl
@[simp] theorem State.modStack_guardG : (s.modStack m f).guardG = s.guardG := rfl
@[simp] theorem State.modStack_timeMaster : (s.modStack m f).timeMaster = s.timeMaster := rfl
@[simp] theorem State.modStack_masterSerial : (s.modStack m f).masterSerial = s.masterSerial := rfl
@[simp] theorem State.modStack_fullRetimes : (s.modStack m f).fullRetimes = s.fullRetimes := rfl
@[simp] theorem State.modStack_fastResumes : (s.modStack m f).fastResumes = s.fastResumes := rfl
@[simp] theorem State.modStack_retimeWanted : (s.modStack m f).retimeWanted = s.retimeWanted := rfl
@[simp] theorem State.modStack_supply : (s.modStack m f).supply = s.supply := rfl
@[simp] theorem State.modStack_estate : (s.modStack m f).estate = s.estate := rfl
@[simp] theorem State.modStack_stateEt : (s.modStack m f).stateEt = s.stateEt := rfl
@[simp] theorem State.modStack_authority : (s.modStack m f).authority = s.authority := rfl
@[simp] theorem State.modStack_standbyOk : (s.modStack m f).standbyOk = s.standbyOk := rfl
@[simp] theorem State.modStack_authorityMisses : (s.modStack m f).authorityMisses = s.authorityMisses := rfl
@[simp] theorem State.modStack_missAt : (s.modStack m f).missAt = s.missAt := rfl
@[simp] theorem State.modStack_authorityLost : (s.modStack m f).authorityLost = s.authorityLost := rfl
@[simp] theorem State.modStack_draining : (s.modStack m f).draining = s.draining := rfl
@[simp] theorem State.modStack_wakeEt : (s.modStack m f).wakeEt = s.wakeEt := rfl
@[simp] theorem State.modStack_aonWake : (s.modStack m f).aonWake = s.aonWake := rfl
@[simp] theorem State.modStack_wakeReasons : (s.modStack m f).wakeReasons = s.wakeReasons := rfl
@[simp] theorem State.modStack_quietArmed : (s.modStack m f).quietArmed = s.quietArmed := rfl
@[simp] theorem State.modStack_brace : (s.modStack m f).brace = s.brace := rfl
@[simp] theorem State.modStack_pfw : (s.modStack m f).pfw = s.pfw := rfl
@[simp] theorem State.modStack_pfwHighSince : (s.modStack m f).pfwHighSince = s.pfwHighSince := rfl
@[simp] theorem State.modStack_lastAbort : (s.modStack m f).lastAbort = s.lastAbort := rfl
@[simp] theorem State.modStack_maint : (s.modStack m f).maint = s.maint := rfl
@[simp] theorem State.modStack_testDeferMax : (s.modStack m f).testDeferMax = s.testDeferMax := rfl
@[simp] theorem State.modStack_cal : (s.modStack m f).cal = s.cal := rfl
@[simp] theorem State.modStack_dump : (s.modStack m f).dump = s.dump := rfl
@[simp] theorem State.modStack_policy : (s.modStack m f).policy = s.policy := rfl
@[simp] theorem State.modStack_allowance : (s.modStack m f).allowance = s.allowance := rfl
@[simp] theorem State.modStack_powerW : (s.modStack m f).powerW = s.powerW := rfl
@[simp] theorem State.modStack_overSince : (s.modStack m f).overSince = s.overSince := rfl
@[simp] theorem State.modStack_overLogged : (s.modStack m f).overLogged = s.overLogged := rfl
@[simp] theorem State.modStack_overCap : (s.modStack m f).overCap = s.overCap := rfl
@[simp] theorem State.modStack_therm : (s.modStack m f).therm = s.therm := rfl
@[simp] theorem State.modStack_rails : (s.modStack m f).rails = s.rails := rfl
@[simp] theorem State.modStack_zones : (s.modStack m f).zones = s.zones := rfl
@[simp] theorem State.modStack_regulators : (s.modStack m f).regulators = s.regulators := rfl
@[simp] theorem State.modStack_faults : (s.modStack m f).faults = s.faults := rfl
@[simp] theorem State.modStack_faultSeq : (s.modStack m f).faultSeq = s.faultSeq := rfl
@[simp] theorem State.modStack_faultsLost : (s.modStack m f).faultsLost = s.faultsLost := rfl
@[simp] theorem State.modStack_declared : (s.modStack m f).declared = s.declared := rfl
@[simp] theorem State.modStack_fuses : (s.modStack m f).fuses = s.fuses := rfl
@[simp] theorem State.modStack_flashA : (s.modStack m f).flashA = s.flashA := rfl
@[simp] theorem State.modStack_flashB : (s.modStack m f).flashB = s.flashB := rfl
@[simp] theorem State.modStack_firmware : (s.modStack m f).firmware = s.firmware := rfl
@[simp] theorem State.modStack_fwJob : (s.modStack m f).fwJob = s.fwJob := rfl
@[simp] theorem State.modStack_noImageAt : (s.modStack m f).noImageAt = s.noImageAt := rfl
@[simp] theorem State.modStack_bootRest : (s.modStack m f).bootRest = s.bootRest := rfl
@[simp] theorem State.modStack_bootWait : (s.modStack m f).bootWait = s.bootWait := rfl
@[simp] theorem State.modStack_resetN : (s.modStack m f).resetN = s.resetN := rfl
@[simp] theorem State.modStack_refclkLost : (s.modStack m f).refclkLost = s.refclkLost := rfl
@[simp] theorem State.modStack_tapIr : (s.modStack m f).tapIr = s.tapIr := rfl
@[simp] theorem State.modStack_tapOut : (s.modStack m f).tapOut = s.tapOut := rfl
@[simp] theorem State.modStack_boundary : (s.modStack m f).boundary = s.boundary := rfl
@[simp] theorem State.modStack_carrier : (s.modStack m f).carrier = s.carrier := rfl
@[simp] theorem State.modStack_mctp : (s.modStack m f).mctp = s.mctp := rfl
@[simp] theorem State.modStack_freeCount : (s.modStack m f).freeCount = s.freeCount := rfl
@[simp] theorem State.modStack_coreAt' (n' : Nat) : (s.modStack m f).coreAt n' = s.coreAt n' := rfl
@[simp] theorem State.modStack_cluster' (n' : Nat) : (s.modStack m f).cluster n' = s.cluster n' := rfl
@[simp] theorem State.modStack_lcore' (n' m' : Nat) : (s.modStack m f).lcore n' m' = s.lcore n' m' := rfl
@[simp] theorem State.modStack_window' (n' m' : Nat) : (s.modStack m f).window n' m' = s.window n' m' := rfl
@[simp] theorem State.modStack_part' (n' : Nat) : (s.modStack m f).part n' = s.part n' := rfl
@[simp] theorem State.modStack_link' (n' : Nat) : (s.modStack m f).link n' = s.link n' := rfl
@[simp] theorem State.modStack_port' (n' m' : Nat) : (s.modStack m f).port n' m' = s.port n' m' := rfl
@[simp] theorem State.modStack_ctx' (n' m' : Nat) : (s.modStack m f).ctx n' m' = s.ctx n' m' := rfl
@[simp] theorem State.modStack_zone' (n' : Nat) : (s.modStack m f).zone n' = s.zone n' := rfl
@[simp] theorem State.modStack_spadRead' (n' m' l' : Nat) : (s.modStack m f).spadRead n' m' l' = s.spadRead n' m' l' := rfl
@[simp] theorem State.modStack_lease' (n' m' : Nat) : (s.modStack m f).lease n' m' = s.lease n' m' := rfl
@[simp] theorem State.modStack_isOpen' (n' m' : Nat) : (s.modStack m f).isOpen n' m' = s.isOpen n' m' := rfl
@[simp] theorem State.modStack_exists' (n' : Nat) : (s.modStack m f).exists n' = s.exists n' := rfl
@[simp] theorem State.modStack_hostUp' : (s.modStack m f).hostUp = s.hostUp := rfl
@[simp] theorem State.modStack_wafer' : (s.modStack m f).wafer = s.wafer := rfl
@[simp] theorem State.modStack_inE0' : (s.modStack m f).inE0 = s.inE0 := rfl
@[simp] theorem State.modStack_tick' : (s.modStack m f).tick = s.tick := rfl
@[simp] theorem State.modStack_phase' : (s.modStack m f).phase = s.phase := rfl
@[simp] theorem State.modStack_onEdge' : (s.modStack m f).onEdge = s.onEdge := rfl
@[simp] theorem State.modStack_longOf' (n' m' : Nat) (q' : BitVec 16) : (s.modStack m f).long? n' m' q' = s.long? n' m' q' := rfl

end

/-! ## modZone -/

section

variable (s : State) (z : Nat) (f : Zone → Zone)

@[simp] theorem State.modZone_pending : (s.modZone z f).pending = s.pending := rfl
@[simp] theorem State.modZone_now : (s.modZone z f).now = s.now := rfl
@[simp] theorem State.modZone_perst : (s.modZone z f).perst = s.perst := rfl
@[simp] theorem State.modZone_et : (s.modZone z f).et = s.et := rfl
@[simp] theorem State.modZone_sub : (s.modZone z f).sub = s.sub := rfl
@[simp] theorem State.modZone_etClock : (s.modZone z f).etClock = s.etClock := rfl
@[simp] theorem State.modZone_cores : (s.modZone z f).cores = s.cores := rfl
@[simp] theorem State.modZone_spad : (s.modZone z f).spad = s.spad := rfl
@[simp] theorem State.modZone_flights : (s.modZone z f).flights = s.flights := rfl
@[simp] theorem State.modZone_credits : (s.modZone z f).credits = s.credits := rfl
@[simp] theorem State.modZone_clusters : (s.modZone z f).clusters = s.clusters := rfl
@[simp] theorem State.modZone_coreEvents : (s.modZone z f).coreEvents = s.coreEvents := rfl
@[simp] theorem State.modZone_regReplies : (s.modZone z f).regReplies = s.regReplies := rfl
@[simp] theorem State.modZone_noTargets : (s.modZone z f).noTargets = s.noTargets := rfl
@[simp] theorem State.modZone_hbm : (s.modZone z f).hbm = s.hbm := rfl
@[simp] theorem State.modZone_stacks : (s.modZone z f).hbmStacks = s.hbmStacks := rfl
@[simp] theorem State.modZone_slotUse : (s.modZone z f).slotUse = s.slotUse := rfl
@[simp] theorem State.modZone_hostMem : (s.modZone z f).hostMem = s.hostMem := rfl
@[simp] theorem State.modZone_windows : (s.modZone z f).windows = s.windows := rfl
@[simp] theorem State.modZone_rules : (s.modZone z f).rules = s.rules := rfl
@[simp] theorem State.modZone_ambig : (s.modZone z f).ambig = s.ambig := rfl
@[simp] theorem State.modZone_violCounts : (s.modZone z f).violCounts = s.violCounts := rfl
@[simp] theorem State.modZone_opFaulted : (s.modZone z f).opFaulted = s.opFaulted := rfl
@[simp] theorem State.modZone_mmioData : (s.modZone z f).mmioData = s.mmioData := rfl
@[simp] theorem State.modZone_longs : (s.modZone z f).longs = s.longs := rfl
@[simp] theorem State.modZone_parts : (s.modZone z f).parts = s.parts := rfl
@[simp] theorem State.modZone_nextReq : (s.modZone z f).nextReq = s.nextReq := rfl
@[simp] theorem State.modZone_fetchTurn : (s.modZone z f).fetchTurn = s.fetchTurn := rfl
@[simp] theorem State.modZone_leases : (s.modZone z f).leases = s.leases := rfl
@[simp] theorem State.modZone_links : (s.modZone z f).links = s.links := rfl
@[simp] theorem State.modZone_timePriXor : (s.modZone z f).timePriXor = s.timePriXor := rfl
@[simp] theorem State.modZone_guardG : (s.modZone z f).guardG = s.guardG := rfl
@[simp] theorem State.modZone_timeMaster : (s.modZone z f).timeMaster = s.timeMaster := rfl
@[simp] theorem State.modZone_masterSerial : (s.modZone z f).masterSerial = s.masterSerial := rfl
@[simp] theorem State.modZone_fullRetimes : (s.modZone z f).fullRetimes = s.fullRetimes := rfl
@[simp] theorem State.modZone_fastResumes : (s.modZone z f).fastResumes = s.fastResumes := rfl
@[simp] theorem State.modZone_retimeWanted : (s.modZone z f).retimeWanted = s.retimeWanted := rfl
@[simp] theorem State.modZone_supply : (s.modZone z f).supply = s.supply := rfl
@[simp] theorem State.modZone_estate : (s.modZone z f).estate = s.estate := rfl
@[simp] theorem State.modZone_stateEt : (s.modZone z f).stateEt = s.stateEt := rfl
@[simp] theorem State.modZone_authority : (s.modZone z f).authority = s.authority := rfl
@[simp] theorem State.modZone_standbyOk : (s.modZone z f).standbyOk = s.standbyOk := rfl
@[simp] theorem State.modZone_authorityMisses : (s.modZone z f).authorityMisses = s.authorityMisses := rfl
@[simp] theorem State.modZone_missAt : (s.modZone z f).missAt = s.missAt := rfl
@[simp] theorem State.modZone_authorityLost : (s.modZone z f).authorityLost = s.authorityLost := rfl
@[simp] theorem State.modZone_draining : (s.modZone z f).draining = s.draining := rfl
@[simp] theorem State.modZone_wakeEt : (s.modZone z f).wakeEt = s.wakeEt := rfl
@[simp] theorem State.modZone_aonWake : (s.modZone z f).aonWake = s.aonWake := rfl
@[simp] theorem State.modZone_wakeReasons : (s.modZone z f).wakeReasons = s.wakeReasons := rfl
@[simp] theorem State.modZone_quietArmed : (s.modZone z f).quietArmed = s.quietArmed := rfl
@[simp] theorem State.modZone_brace : (s.modZone z f).brace = s.brace := rfl
@[simp] theorem State.modZone_pfw : (s.modZone z f).pfw = s.pfw := rfl
@[simp] theorem State.modZone_pfwHighSince : (s.modZone z f).pfwHighSince = s.pfwHighSince := rfl
@[simp] theorem State.modZone_lastAbort : (s.modZone z f).lastAbort = s.lastAbort := rfl
@[simp] theorem State.modZone_maint : (s.modZone z f).maint = s.maint := rfl
@[simp] theorem State.modZone_testDeferMax : (s.modZone z f).testDeferMax = s.testDeferMax := rfl
@[simp] theorem State.modZone_cal : (s.modZone z f).cal = s.cal := rfl
@[simp] theorem State.modZone_dump : (s.modZone z f).dump = s.dump := rfl
@[simp] theorem State.modZone_policy : (s.modZone z f).policy = s.policy := rfl
@[simp] theorem State.modZone_allowance : (s.modZone z f).allowance = s.allowance := rfl
@[simp] theorem State.modZone_powerW : (s.modZone z f).powerW = s.powerW := rfl
@[simp] theorem State.modZone_overSince : (s.modZone z f).overSince = s.overSince := rfl
@[simp] theorem State.modZone_overLogged : (s.modZone z f).overLogged = s.overLogged := rfl
@[simp] theorem State.modZone_overCap : (s.modZone z f).overCap = s.overCap := rfl
@[simp] theorem State.modZone_therm : (s.modZone z f).therm = s.therm := rfl
@[simp] theorem State.modZone_rails : (s.modZone z f).rails = s.rails := rfl
@[simp] theorem State.modZone_regulators : (s.modZone z f).regulators = s.regulators := rfl
@[simp] theorem State.modZone_faults : (s.modZone z f).faults = s.faults := rfl
@[simp] theorem State.modZone_faultSeq : (s.modZone z f).faultSeq = s.faultSeq := rfl
@[simp] theorem State.modZone_faultsLost : (s.modZone z f).faultsLost = s.faultsLost := rfl
@[simp] theorem State.modZone_declared : (s.modZone z f).declared = s.declared := rfl
@[simp] theorem State.modZone_fuses : (s.modZone z f).fuses = s.fuses := rfl
@[simp] theorem State.modZone_flashA : (s.modZone z f).flashA = s.flashA := rfl
@[simp] theorem State.modZone_flashB : (s.modZone z f).flashB = s.flashB := rfl
@[simp] theorem State.modZone_firmware : (s.modZone z f).firmware = s.firmware := rfl
@[simp] theorem State.modZone_fwJob : (s.modZone z f).fwJob = s.fwJob := rfl
@[simp] theorem State.modZone_noImageAt : (s.modZone z f).noImageAt = s.noImageAt := rfl
@[simp] theorem State.modZone_bootRest : (s.modZone z f).bootRest = s.bootRest := rfl
@[simp] theorem State.modZone_bootWait : (s.modZone z f).bootWait = s.bootWait := rfl
@[simp] theorem State.modZone_resetN : (s.modZone z f).resetN = s.resetN := rfl
@[simp] theorem State.modZone_refclkLost : (s.modZone z f).refclkLost = s.refclkLost := rfl
@[simp] theorem State.modZone_tapIr : (s.modZone z f).tapIr = s.tapIr := rfl
@[simp] theorem State.modZone_tapOut : (s.modZone z f).tapOut = s.tapOut := rfl
@[simp] theorem State.modZone_boundary : (s.modZone z f).boundary = s.boundary := rfl
@[simp] theorem State.modZone_carrier : (s.modZone z f).carrier = s.carrier := rfl
@[simp] theorem State.modZone_mctp : (s.modZone z f).mctp = s.mctp := rfl
@[simp] theorem State.modZone_freeCount : (s.modZone z f).freeCount = s.freeCount := rfl
@[simp] theorem State.modZone_coreAt' (n' : Nat) : (s.modZone z f).coreAt n' = s.coreAt n' := rfl
@[simp] theorem State.modZone_cluster' (n' : Nat) : (s.modZone z f).cluster n' = s.cluster n' := rfl
@[simp] theorem State.modZone_lcore' (n' m' : Nat) : (s.modZone z f).lcore n' m' = s.lcore n' m' := rfl
@[simp] theorem State.modZone_window' (n' m' : Nat) : (s.modZone z f).window n' m' = s.window n' m' := rfl
@[simp] theorem State.modZone_part' (n' : Nat) : (s.modZone z f).part n' = s.part n' := rfl
@[simp] theorem State.modZone_link' (n' : Nat) : (s.modZone z f).link n' = s.link n' := rfl
@[simp] theorem State.modZone_port' (n' m' : Nat) : (s.modZone z f).port n' m' = s.port n' m' := rfl
@[simp] theorem State.modZone_ctx' (n' m' : Nat) : (s.modZone z f).ctx n' m' = s.ctx n' m' := rfl
@[simp] theorem State.modZone_stack' (n' : Nat) : (s.modZone z f).stack n' = s.stack n' := rfl
@[simp] theorem State.modZone_spadRead' (n' m' l' : Nat) : (s.modZone z f).spadRead n' m' l' = s.spadRead n' m' l' := rfl
@[simp] theorem State.modZone_lease' (n' m' : Nat) : (s.modZone z f).lease n' m' = s.lease n' m' := rfl
@[simp] theorem State.modZone_isOpen' (n' m' : Nat) : (s.modZone z f).isOpen n' m' = s.isOpen n' m' := rfl
@[simp] theorem State.modZone_exists' (n' : Nat) : (s.modZone z f).exists n' = s.exists n' := rfl
@[simp] theorem State.modZone_hostUp' : (s.modZone z f).hostUp = s.hostUp := rfl
@[simp] theorem State.modZone_wafer' : (s.modZone z f).wafer = s.wafer := rfl
@[simp] theorem State.modZone_inE0' : (s.modZone z f).inE0 = s.inE0 := rfl
@[simp] theorem State.modZone_tick' : (s.modZone z f).tick = s.tick := rfl
@[simp] theorem State.modZone_phase' : (s.modZone z f).phase = s.phase := rfl
@[simp] theorem State.modZone_onEdge' : (s.modZone z f).onEdge = s.onEdge := rfl
@[simp] theorem State.modZone_longOf' (n' m' : Nat) (q' : BitVec 16) : (s.modZone z f).long? n' m' q' = s.long? n' m' q' := rfl

end

/-! ## spadWrite -/

section

variable (s : State) (n a : Nat) (bs : Bytes)

@[simp] theorem State.spadWrite_pending : (s.spadWrite n a bs).pending = s.pending := rfl
@[simp] theorem State.spadWrite_now : (s.spadWrite n a bs).now = s.now := rfl
@[simp] theorem State.spadWrite_perst : (s.spadWrite n a bs).perst = s.perst := rfl
@[simp] theorem State.spadWrite_et : (s.spadWrite n a bs).et = s.et := rfl
@[simp] theorem State.spadWrite_sub : (s.spadWrite n a bs).sub = s.sub := rfl
@[simp] theorem State.spadWrite_etClock : (s.spadWrite n a bs).etClock = s.etClock := rfl
@[simp] theorem State.spadWrite_cores : (s.spadWrite n a bs).cores = s.cores := rfl
@[simp] theorem State.spadWrite_flights : (s.spadWrite n a bs).flights = s.flights := rfl
@[simp] theorem State.spadWrite_credits : (s.spadWrite n a bs).credits = s.credits := rfl
@[simp] theorem State.spadWrite_clusters : (s.spadWrite n a bs).clusters = s.clusters := rfl
@[simp] theorem State.spadWrite_coreEvents : (s.spadWrite n a bs).coreEvents = s.coreEvents := rfl
@[simp] theorem State.spadWrite_regReplies : (s.spadWrite n a bs).regReplies = s.regReplies := rfl
@[simp] theorem State.spadWrite_noTargets : (s.spadWrite n a bs).noTargets = s.noTargets := rfl
@[simp] theorem State.spadWrite_hbm : (s.spadWrite n a bs).hbm = s.hbm := rfl
@[simp] theorem State.spadWrite_stacks : (s.spadWrite n a bs).hbmStacks = s.hbmStacks := rfl
@[simp] theorem State.spadWrite_slotUse : (s.spadWrite n a bs).slotUse = s.slotUse := rfl
@[simp] theorem State.spadWrite_hostMem : (s.spadWrite n a bs).hostMem = s.hostMem := rfl
@[simp] theorem State.spadWrite_windows : (s.spadWrite n a bs).windows = s.windows := rfl
@[simp] theorem State.spadWrite_rules : (s.spadWrite n a bs).rules = s.rules := rfl
@[simp] theorem State.spadWrite_ambig : (s.spadWrite n a bs).ambig = s.ambig := rfl
@[simp] theorem State.spadWrite_violCounts : (s.spadWrite n a bs).violCounts = s.violCounts := rfl
@[simp] theorem State.spadWrite_opFaulted : (s.spadWrite n a bs).opFaulted = s.opFaulted := rfl
@[simp] theorem State.spadWrite_mmioData : (s.spadWrite n a bs).mmioData = s.mmioData := rfl
@[simp] theorem State.spadWrite_longs : (s.spadWrite n a bs).longs = s.longs := rfl
@[simp] theorem State.spadWrite_parts : (s.spadWrite n a bs).parts = s.parts := rfl
@[simp] theorem State.spadWrite_nextReq : (s.spadWrite n a bs).nextReq = s.nextReq := rfl
@[simp] theorem State.spadWrite_fetchTurn : (s.spadWrite n a bs).fetchTurn = s.fetchTurn := rfl
@[simp] theorem State.spadWrite_leases : (s.spadWrite n a bs).leases = s.leases := rfl
@[simp] theorem State.spadWrite_links : (s.spadWrite n a bs).links = s.links := rfl
@[simp] theorem State.spadWrite_timePriXor : (s.spadWrite n a bs).timePriXor = s.timePriXor := rfl
@[simp] theorem State.spadWrite_guardG : (s.spadWrite n a bs).guardG = s.guardG := rfl
@[simp] theorem State.spadWrite_timeMaster : (s.spadWrite n a bs).timeMaster = s.timeMaster := rfl
@[simp] theorem State.spadWrite_masterSerial : (s.spadWrite n a bs).masterSerial = s.masterSerial := rfl
@[simp] theorem State.spadWrite_fullRetimes : (s.spadWrite n a bs).fullRetimes = s.fullRetimes := rfl
@[simp] theorem State.spadWrite_fastResumes : (s.spadWrite n a bs).fastResumes = s.fastResumes := rfl
@[simp] theorem State.spadWrite_retimeWanted : (s.spadWrite n a bs).retimeWanted = s.retimeWanted := rfl
@[simp] theorem State.spadWrite_supply : (s.spadWrite n a bs).supply = s.supply := rfl
@[simp] theorem State.spadWrite_estate : (s.spadWrite n a bs).estate = s.estate := rfl
@[simp] theorem State.spadWrite_stateEt : (s.spadWrite n a bs).stateEt = s.stateEt := rfl
@[simp] theorem State.spadWrite_authority : (s.spadWrite n a bs).authority = s.authority := rfl
@[simp] theorem State.spadWrite_standbyOk : (s.spadWrite n a bs).standbyOk = s.standbyOk := rfl
@[simp] theorem State.spadWrite_authorityMisses : (s.spadWrite n a bs).authorityMisses = s.authorityMisses := rfl
@[simp] theorem State.spadWrite_missAt : (s.spadWrite n a bs).missAt = s.missAt := rfl
@[simp] theorem State.spadWrite_authorityLost : (s.spadWrite n a bs).authorityLost = s.authorityLost := rfl
@[simp] theorem State.spadWrite_draining : (s.spadWrite n a bs).draining = s.draining := rfl
@[simp] theorem State.spadWrite_wakeEt : (s.spadWrite n a bs).wakeEt = s.wakeEt := rfl
@[simp] theorem State.spadWrite_aonWake : (s.spadWrite n a bs).aonWake = s.aonWake := rfl
@[simp] theorem State.spadWrite_wakeReasons : (s.spadWrite n a bs).wakeReasons = s.wakeReasons := rfl
@[simp] theorem State.spadWrite_quietArmed : (s.spadWrite n a bs).quietArmed = s.quietArmed := rfl
@[simp] theorem State.spadWrite_brace : (s.spadWrite n a bs).brace = s.brace := rfl
@[simp] theorem State.spadWrite_pfw : (s.spadWrite n a bs).pfw = s.pfw := rfl
@[simp] theorem State.spadWrite_pfwHighSince : (s.spadWrite n a bs).pfwHighSince = s.pfwHighSince := rfl
@[simp] theorem State.spadWrite_lastAbort : (s.spadWrite n a bs).lastAbort = s.lastAbort := rfl
@[simp] theorem State.spadWrite_maint : (s.spadWrite n a bs).maint = s.maint := rfl
@[simp] theorem State.spadWrite_testDeferMax : (s.spadWrite n a bs).testDeferMax = s.testDeferMax := rfl
@[simp] theorem State.spadWrite_cal : (s.spadWrite n a bs).cal = s.cal := rfl
@[simp] theorem State.spadWrite_dump : (s.spadWrite n a bs).dump = s.dump := rfl
@[simp] theorem State.spadWrite_policy : (s.spadWrite n a bs).policy = s.policy := rfl
@[simp] theorem State.spadWrite_allowance : (s.spadWrite n a bs).allowance = s.allowance := rfl
@[simp] theorem State.spadWrite_powerW : (s.spadWrite n a bs).powerW = s.powerW := rfl
@[simp] theorem State.spadWrite_overSince : (s.spadWrite n a bs).overSince = s.overSince := rfl
@[simp] theorem State.spadWrite_overLogged : (s.spadWrite n a bs).overLogged = s.overLogged := rfl
@[simp] theorem State.spadWrite_overCap : (s.spadWrite n a bs).overCap = s.overCap := rfl
@[simp] theorem State.spadWrite_therm : (s.spadWrite n a bs).therm = s.therm := rfl
@[simp] theorem State.spadWrite_rails : (s.spadWrite n a bs).rails = s.rails := rfl
@[simp] theorem State.spadWrite_zones : (s.spadWrite n a bs).zones = s.zones := rfl
@[simp] theorem State.spadWrite_regulators : (s.spadWrite n a bs).regulators = s.regulators := rfl
@[simp] theorem State.spadWrite_faults : (s.spadWrite n a bs).faults = s.faults := rfl
@[simp] theorem State.spadWrite_faultSeq : (s.spadWrite n a bs).faultSeq = s.faultSeq := rfl
@[simp] theorem State.spadWrite_faultsLost : (s.spadWrite n a bs).faultsLost = s.faultsLost := rfl
@[simp] theorem State.spadWrite_declared : (s.spadWrite n a bs).declared = s.declared := rfl
@[simp] theorem State.spadWrite_fuses : (s.spadWrite n a bs).fuses = s.fuses := rfl
@[simp] theorem State.spadWrite_flashA : (s.spadWrite n a bs).flashA = s.flashA := rfl
@[simp] theorem State.spadWrite_flashB : (s.spadWrite n a bs).flashB = s.flashB := rfl
@[simp] theorem State.spadWrite_firmware : (s.spadWrite n a bs).firmware = s.firmware := rfl
@[simp] theorem State.spadWrite_fwJob : (s.spadWrite n a bs).fwJob = s.fwJob := rfl
@[simp] theorem State.spadWrite_noImageAt : (s.spadWrite n a bs).noImageAt = s.noImageAt := rfl
@[simp] theorem State.spadWrite_bootRest : (s.spadWrite n a bs).bootRest = s.bootRest := rfl
@[simp] theorem State.spadWrite_bootWait : (s.spadWrite n a bs).bootWait = s.bootWait := rfl
@[simp] theorem State.spadWrite_resetN : (s.spadWrite n a bs).resetN = s.resetN := rfl
@[simp] theorem State.spadWrite_refclkLost : (s.spadWrite n a bs).refclkLost = s.refclkLost := rfl
@[simp] theorem State.spadWrite_tapIr : (s.spadWrite n a bs).tapIr = s.tapIr := rfl
@[simp] theorem State.spadWrite_tapOut : (s.spadWrite n a bs).tapOut = s.tapOut := rfl
@[simp] theorem State.spadWrite_boundary : (s.spadWrite n a bs).boundary = s.boundary := rfl
@[simp] theorem State.spadWrite_carrier : (s.spadWrite n a bs).carrier = s.carrier := rfl
@[simp] theorem State.spadWrite_mctp : (s.spadWrite n a bs).mctp = s.mctp := rfl
@[simp] theorem State.spadWrite_freeCount : (s.spadWrite n a bs).freeCount = s.freeCount := rfl
@[simp] theorem State.spadWrite_coreAt' (n' : Nat) : (s.spadWrite n a bs).coreAt n' = s.coreAt n' := rfl
@[simp] theorem State.spadWrite_cluster' (n' : Nat) : (s.spadWrite n a bs).cluster n' = s.cluster n' := rfl
@[simp] theorem State.spadWrite_lcore' (n' m' : Nat) : (s.spadWrite n a bs).lcore n' m' = s.lcore n' m' := rfl
@[simp] theorem State.spadWrite_window' (n' m' : Nat) : (s.spadWrite n a bs).window n' m' = s.window n' m' := rfl
@[simp] theorem State.spadWrite_part' (n' : Nat) : (s.spadWrite n a bs).part n' = s.part n' := rfl
@[simp] theorem State.spadWrite_link' (n' : Nat) : (s.spadWrite n a bs).link n' = s.link n' := rfl
@[simp] theorem State.spadWrite_port' (n' m' : Nat) : (s.spadWrite n a bs).port n' m' = s.port n' m' := rfl
@[simp] theorem State.spadWrite_ctx' (n' m' : Nat) : (s.spadWrite n a bs).ctx n' m' = s.ctx n' m' := rfl
@[simp] theorem State.spadWrite_stack' (n' : Nat) : (s.spadWrite n a bs).stack n' = s.stack n' := rfl
@[simp] theorem State.spadWrite_zone' (n' : Nat) : (s.spadWrite n a bs).zone n' = s.zone n' := rfl
@[simp] theorem State.spadWrite_lease' (n' m' : Nat) : (s.spadWrite n a bs).lease n' m' = s.lease n' m' := rfl
@[simp] theorem State.spadWrite_isOpen' (n' m' : Nat) : (s.spadWrite n a bs).isOpen n' m' = s.isOpen n' m' := rfl
@[simp] theorem State.spadWrite_exists' (n' : Nat) : (s.spadWrite n a bs).exists n' = s.exists n' := rfl
@[simp] theorem State.spadWrite_hostUp' : (s.spadWrite n a bs).hostUp = s.hostUp := rfl
@[simp] theorem State.spadWrite_wafer' : (s.spadWrite n a bs).wafer = s.wafer := rfl
@[simp] theorem State.spadWrite_inE0' : (s.spadWrite n a bs).inE0 = s.inE0 := rfl
@[simp] theorem State.spadWrite_tick' : (s.spadWrite n a bs).tick = s.tick := rfl
@[simp] theorem State.spadWrite_phase' : (s.spadWrite n a bs).phase = s.phase := rfl
@[simp] theorem State.spadWrite_onEdge' : (s.spadWrite n a bs).onEdge = s.onEdge := rfl
@[simp] theorem State.spadWrite_longOf' (n' m' : Nat) (q' : BitVec 16) : (s.spadWrite n a bs).long? n' m' q' = s.long? n' m' q' := rfl

end

/-! ## hostWrite -/

section

variable (s : State) (h a : Nat) (bs : Bytes)

@[simp] theorem State.hostWrite_pending : (s.hostWrite h a bs).pending = s.pending := rfl
@[simp] theorem State.hostWrite_now : (s.hostWrite h a bs).now = s.now := rfl
@[simp] theorem State.hostWrite_perst : (s.hostWrite h a bs).perst = s.perst := rfl
@[simp] theorem State.hostWrite_et : (s.hostWrite h a bs).et = s.et := rfl
@[simp] theorem State.hostWrite_sub : (s.hostWrite h a bs).sub = s.sub := rfl
@[simp] theorem State.hostWrite_etClock : (s.hostWrite h a bs).etClock = s.etClock := rfl
@[simp] theorem State.hostWrite_cores : (s.hostWrite h a bs).cores = s.cores := rfl
@[simp] theorem State.hostWrite_spad : (s.hostWrite h a bs).spad = s.spad := rfl
@[simp] theorem State.hostWrite_flights : (s.hostWrite h a bs).flights = s.flights := rfl
@[simp] theorem State.hostWrite_credits : (s.hostWrite h a bs).credits = s.credits := rfl
@[simp] theorem State.hostWrite_clusters : (s.hostWrite h a bs).clusters = s.clusters := rfl
@[simp] theorem State.hostWrite_coreEvents : (s.hostWrite h a bs).coreEvents = s.coreEvents := rfl
@[simp] theorem State.hostWrite_regReplies : (s.hostWrite h a bs).regReplies = s.regReplies := rfl
@[simp] theorem State.hostWrite_noTargets : (s.hostWrite h a bs).noTargets = s.noTargets := rfl
@[simp] theorem State.hostWrite_hbm : (s.hostWrite h a bs).hbm = s.hbm := rfl
@[simp] theorem State.hostWrite_stacks : (s.hostWrite h a bs).hbmStacks = s.hbmStacks := rfl
@[simp] theorem State.hostWrite_slotUse : (s.hostWrite h a bs).slotUse = s.slotUse := rfl
@[simp] theorem State.hostWrite_windows : (s.hostWrite h a bs).windows = s.windows := rfl
@[simp] theorem State.hostWrite_rules : (s.hostWrite h a bs).rules = s.rules := rfl
@[simp] theorem State.hostWrite_ambig : (s.hostWrite h a bs).ambig = s.ambig := rfl
@[simp] theorem State.hostWrite_violCounts : (s.hostWrite h a bs).violCounts = s.violCounts := rfl
@[simp] theorem State.hostWrite_opFaulted : (s.hostWrite h a bs).opFaulted = s.opFaulted := rfl
@[simp] theorem State.hostWrite_mmioData : (s.hostWrite h a bs).mmioData = s.mmioData := rfl
@[simp] theorem State.hostWrite_longs : (s.hostWrite h a bs).longs = s.longs := rfl
@[simp] theorem State.hostWrite_parts : (s.hostWrite h a bs).parts = s.parts := rfl
@[simp] theorem State.hostWrite_nextReq : (s.hostWrite h a bs).nextReq = s.nextReq := rfl
@[simp] theorem State.hostWrite_fetchTurn : (s.hostWrite h a bs).fetchTurn = s.fetchTurn := rfl
@[simp] theorem State.hostWrite_leases : (s.hostWrite h a bs).leases = s.leases := rfl
@[simp] theorem State.hostWrite_links : (s.hostWrite h a bs).links = s.links := rfl
@[simp] theorem State.hostWrite_timePriXor : (s.hostWrite h a bs).timePriXor = s.timePriXor := rfl
@[simp] theorem State.hostWrite_guardG : (s.hostWrite h a bs).guardG = s.guardG := rfl
@[simp] theorem State.hostWrite_timeMaster : (s.hostWrite h a bs).timeMaster = s.timeMaster := rfl
@[simp] theorem State.hostWrite_masterSerial : (s.hostWrite h a bs).masterSerial = s.masterSerial := rfl
@[simp] theorem State.hostWrite_fullRetimes : (s.hostWrite h a bs).fullRetimes = s.fullRetimes := rfl
@[simp] theorem State.hostWrite_fastResumes : (s.hostWrite h a bs).fastResumes = s.fastResumes := rfl
@[simp] theorem State.hostWrite_retimeWanted : (s.hostWrite h a bs).retimeWanted = s.retimeWanted := rfl
@[simp] theorem State.hostWrite_supply : (s.hostWrite h a bs).supply = s.supply := rfl
@[simp] theorem State.hostWrite_estate : (s.hostWrite h a bs).estate = s.estate := rfl
@[simp] theorem State.hostWrite_stateEt : (s.hostWrite h a bs).stateEt = s.stateEt := rfl
@[simp] theorem State.hostWrite_authority : (s.hostWrite h a bs).authority = s.authority := rfl
@[simp] theorem State.hostWrite_standbyOk : (s.hostWrite h a bs).standbyOk = s.standbyOk := rfl
@[simp] theorem State.hostWrite_authorityMisses : (s.hostWrite h a bs).authorityMisses = s.authorityMisses := rfl
@[simp] theorem State.hostWrite_missAt : (s.hostWrite h a bs).missAt = s.missAt := rfl
@[simp] theorem State.hostWrite_authorityLost : (s.hostWrite h a bs).authorityLost = s.authorityLost := rfl
@[simp] theorem State.hostWrite_draining : (s.hostWrite h a bs).draining = s.draining := rfl
@[simp] theorem State.hostWrite_wakeEt : (s.hostWrite h a bs).wakeEt = s.wakeEt := rfl
@[simp] theorem State.hostWrite_aonWake : (s.hostWrite h a bs).aonWake = s.aonWake := rfl
@[simp] theorem State.hostWrite_wakeReasons : (s.hostWrite h a bs).wakeReasons = s.wakeReasons := rfl
@[simp] theorem State.hostWrite_quietArmed : (s.hostWrite h a bs).quietArmed = s.quietArmed := rfl
@[simp] theorem State.hostWrite_brace : (s.hostWrite h a bs).brace = s.brace := rfl
@[simp] theorem State.hostWrite_pfw : (s.hostWrite h a bs).pfw = s.pfw := rfl
@[simp] theorem State.hostWrite_pfwHighSince : (s.hostWrite h a bs).pfwHighSince = s.pfwHighSince := rfl
@[simp] theorem State.hostWrite_lastAbort : (s.hostWrite h a bs).lastAbort = s.lastAbort := rfl
@[simp] theorem State.hostWrite_maint : (s.hostWrite h a bs).maint = s.maint := rfl
@[simp] theorem State.hostWrite_testDeferMax : (s.hostWrite h a bs).testDeferMax = s.testDeferMax := rfl
@[simp] theorem State.hostWrite_cal : (s.hostWrite h a bs).cal = s.cal := rfl
@[simp] theorem State.hostWrite_dump : (s.hostWrite h a bs).dump = s.dump := rfl
@[simp] theorem State.hostWrite_policy : (s.hostWrite h a bs).policy = s.policy := rfl
@[simp] theorem State.hostWrite_allowance : (s.hostWrite h a bs).allowance = s.allowance := rfl
@[simp] theorem State.hostWrite_powerW : (s.hostWrite h a bs).powerW = s.powerW := rfl
@[simp] theorem State.hostWrite_overSince : (s.hostWrite h a bs).overSince = s.overSince := rfl
@[simp] theorem State.hostWrite_overLogged : (s.hostWrite h a bs).overLogged = s.overLogged := rfl
@[simp] theorem State.hostWrite_overCap : (s.hostWrite h a bs).overCap = s.overCap := rfl
@[simp] theorem State.hostWrite_therm : (s.hostWrite h a bs).therm = s.therm := rfl
@[simp] theorem State.hostWrite_rails : (s.hostWrite h a bs).rails = s.rails := rfl
@[simp] theorem State.hostWrite_zones : (s.hostWrite h a bs).zones = s.zones := rfl
@[simp] theorem State.hostWrite_regulators : (s.hostWrite h a bs).regulators = s.regulators := rfl
@[simp] theorem State.hostWrite_faults : (s.hostWrite h a bs).faults = s.faults := rfl
@[simp] theorem State.hostWrite_faultSeq : (s.hostWrite h a bs).faultSeq = s.faultSeq := rfl
@[simp] theorem State.hostWrite_faultsLost : (s.hostWrite h a bs).faultsLost = s.faultsLost := rfl
@[simp] theorem State.hostWrite_declared : (s.hostWrite h a bs).declared = s.declared := rfl
@[simp] theorem State.hostWrite_fuses : (s.hostWrite h a bs).fuses = s.fuses := rfl
@[simp] theorem State.hostWrite_flashA : (s.hostWrite h a bs).flashA = s.flashA := rfl
@[simp] theorem State.hostWrite_flashB : (s.hostWrite h a bs).flashB = s.flashB := rfl
@[simp] theorem State.hostWrite_firmware : (s.hostWrite h a bs).firmware = s.firmware := rfl
@[simp] theorem State.hostWrite_fwJob : (s.hostWrite h a bs).fwJob = s.fwJob := rfl
@[simp] theorem State.hostWrite_noImageAt : (s.hostWrite h a bs).noImageAt = s.noImageAt := rfl
@[simp] theorem State.hostWrite_bootRest : (s.hostWrite h a bs).bootRest = s.bootRest := rfl
@[simp] theorem State.hostWrite_bootWait : (s.hostWrite h a bs).bootWait = s.bootWait := rfl
@[simp] theorem State.hostWrite_resetN : (s.hostWrite h a bs).resetN = s.resetN := rfl
@[simp] theorem State.hostWrite_refclkLost : (s.hostWrite h a bs).refclkLost = s.refclkLost := rfl
@[simp] theorem State.hostWrite_tapIr : (s.hostWrite h a bs).tapIr = s.tapIr := rfl
@[simp] theorem State.hostWrite_tapOut : (s.hostWrite h a bs).tapOut = s.tapOut := rfl
@[simp] theorem State.hostWrite_boundary : (s.hostWrite h a bs).boundary = s.boundary := rfl
@[simp] theorem State.hostWrite_carrier : (s.hostWrite h a bs).carrier = s.carrier := rfl
@[simp] theorem State.hostWrite_mctp : (s.hostWrite h a bs).mctp = s.mctp := rfl
@[simp] theorem State.hostWrite_freeCount : (s.hostWrite h a bs).freeCount = s.freeCount := rfl
@[simp] theorem State.hostWrite_coreAt' (n' : Nat) : (s.hostWrite h a bs).coreAt n' = s.coreAt n' := rfl
@[simp] theorem State.hostWrite_cluster' (n' : Nat) : (s.hostWrite h a bs).cluster n' = s.cluster n' := rfl
@[simp] theorem State.hostWrite_lcore' (n' m' : Nat) : (s.hostWrite h a bs).lcore n' m' = s.lcore n' m' := rfl
@[simp] theorem State.hostWrite_window' (n' m' : Nat) : (s.hostWrite h a bs).window n' m' = s.window n' m' := rfl
@[simp] theorem State.hostWrite_part' (n' : Nat) : (s.hostWrite h a bs).part n' = s.part n' := rfl
@[simp] theorem State.hostWrite_link' (n' : Nat) : (s.hostWrite h a bs).link n' = s.link n' := rfl
@[simp] theorem State.hostWrite_port' (n' m' : Nat) : (s.hostWrite h a bs).port n' m' = s.port n' m' := rfl
@[simp] theorem State.hostWrite_ctx' (n' m' : Nat) : (s.hostWrite h a bs).ctx n' m' = s.ctx n' m' := rfl
@[simp] theorem State.hostWrite_stack' (n' : Nat) : (s.hostWrite h a bs).stack n' = s.stack n' := rfl
@[simp] theorem State.hostWrite_zone' (n' : Nat) : (s.hostWrite h a bs).zone n' = s.zone n' := rfl
@[simp] theorem State.hostWrite_spadRead' (n' m' l' : Nat) : (s.hostWrite h a bs).spadRead n' m' l' = s.spadRead n' m' l' := rfl
@[simp] theorem State.hostWrite_lease' (n' m' : Nat) : (s.hostWrite h a bs).lease n' m' = s.lease n' m' := rfl
@[simp] theorem State.hostWrite_isOpen' (n' m' : Nat) : (s.hostWrite h a bs).isOpen n' m' = s.isOpen n' m' := rfl
@[simp] theorem State.hostWrite_exists' (n' : Nat) : (s.hostWrite h a bs).exists n' = s.exists n' := rfl
@[simp] theorem State.hostWrite_hostUp' : (s.hostWrite h a bs).hostUp = s.hostUp := rfl
@[simp] theorem State.hostWrite_wafer' : (s.hostWrite h a bs).wafer = s.wafer := rfl
@[simp] theorem State.hostWrite_inE0' : (s.hostWrite h a bs).inE0 = s.inE0 := rfl
@[simp] theorem State.hostWrite_tick' : (s.hostWrite h a bs).tick = s.tick := rfl
@[simp] theorem State.hostWrite_phase' : (s.hostWrite h a bs).phase = s.phase := rfl
@[simp] theorem State.hostWrite_onEdge' : (s.hostWrite h a bs).onEdge = s.onEdge := rfl
@[simp] theorem State.hostWrite_longOf' (n' m' : Nat) (q' : BitVec 16) : (s.hostWrite h a bs).long? n' m' q' = s.long? n' m' q' := rfl

end

/-! ## drew -/

section

variable (s : State)

@[simp] theorem State.drew_pending : (s.drew).pending = s.pending := rfl
@[simp] theorem State.drew_now : (s.drew).now = s.now := rfl
@[simp] theorem State.drew_perst : (s.drew).perst = s.perst := rfl
@[simp] theorem State.drew_et : (s.drew).et = s.et := rfl
@[simp] theorem State.drew_sub : (s.drew).sub = s.sub := rfl
@[simp] theorem State.drew_etClock : (s.drew).etClock = s.etClock := rfl
@[simp] theorem State.drew_cores : (s.drew).cores = s.cores := rfl
@[simp] theorem State.drew_spad : (s.drew).spad = s.spad := rfl
@[simp] theorem State.drew_flights : (s.drew).flights = s.flights := rfl
@[simp] theorem State.drew_credits : (s.drew).credits = s.credits := rfl
@[simp] theorem State.drew_clusters : (s.drew).clusters = s.clusters := rfl
@[simp] theorem State.drew_coreEvents : (s.drew).coreEvents = s.coreEvents := rfl
@[simp] theorem State.drew_regReplies : (s.drew).regReplies = s.regReplies := rfl
@[simp] theorem State.drew_noTargets : (s.drew).noTargets = s.noTargets := rfl
@[simp] theorem State.drew_hbm : (s.drew).hbm = s.hbm := rfl
@[simp] theorem State.drew_stacks : (s.drew).hbmStacks = s.hbmStacks := rfl
@[simp] theorem State.drew_slotUse : (s.drew).slotUse = s.slotUse := rfl
@[simp] theorem State.drew_hostMem : (s.drew).hostMem = s.hostMem := rfl
@[simp] theorem State.drew_windows : (s.drew).windows = s.windows := rfl
@[simp] theorem State.drew_rules : (s.drew).rules = s.rules := rfl
@[simp] theorem State.drew_ambig : (s.drew).ambig = s.ambig := rfl
@[simp] theorem State.drew_violCounts : (s.drew).violCounts = s.violCounts := rfl
@[simp] theorem State.drew_opFaulted : (s.drew).opFaulted = s.opFaulted := rfl
@[simp] theorem State.drew_mmioData : (s.drew).mmioData = s.mmioData := rfl
@[simp] theorem State.drew_longs : (s.drew).longs = s.longs := rfl
@[simp] theorem State.drew_parts : (s.drew).parts = s.parts := rfl
@[simp] theorem State.drew_nextReq : (s.drew).nextReq = s.nextReq := rfl
@[simp] theorem State.drew_fetchTurn : (s.drew).fetchTurn = s.fetchTurn := rfl
@[simp] theorem State.drew_leases : (s.drew).leases = s.leases := rfl
@[simp] theorem State.drew_links : (s.drew).links = s.links := rfl
@[simp] theorem State.drew_timePriXor : (s.drew).timePriXor = s.timePriXor := rfl
@[simp] theorem State.drew_guardG : (s.drew).guardG = s.guardG := rfl
@[simp] theorem State.drew_timeMaster : (s.drew).timeMaster = s.timeMaster := rfl
@[simp] theorem State.drew_masterSerial : (s.drew).masterSerial = s.masterSerial := rfl
@[simp] theorem State.drew_fullRetimes : (s.drew).fullRetimes = s.fullRetimes := rfl
@[simp] theorem State.drew_fastResumes : (s.drew).fastResumes = s.fastResumes := rfl
@[simp] theorem State.drew_retimeWanted : (s.drew).retimeWanted = s.retimeWanted := rfl
@[simp] theorem State.drew_supply : (s.drew).supply = s.supply := rfl
@[simp] theorem State.drew_estate : (s.drew).estate = s.estate := rfl
@[simp] theorem State.drew_stateEt : (s.drew).stateEt = s.stateEt := rfl
@[simp] theorem State.drew_authority : (s.drew).authority = s.authority := rfl
@[simp] theorem State.drew_standbyOk : (s.drew).standbyOk = s.standbyOk := rfl
@[simp] theorem State.drew_authorityMisses : (s.drew).authorityMisses = s.authorityMisses := rfl
@[simp] theorem State.drew_missAt : (s.drew).missAt = s.missAt := rfl
@[simp] theorem State.drew_authorityLost : (s.drew).authorityLost = s.authorityLost := rfl
@[simp] theorem State.drew_draining : (s.drew).draining = s.draining := rfl
@[simp] theorem State.drew_wakeEt : (s.drew).wakeEt = s.wakeEt := rfl
@[simp] theorem State.drew_aonWake : (s.drew).aonWake = s.aonWake := rfl
@[simp] theorem State.drew_wakeReasons : (s.drew).wakeReasons = s.wakeReasons := rfl
@[simp] theorem State.drew_quietArmed : (s.drew).quietArmed = s.quietArmed := rfl
@[simp] theorem State.drew_brace : (s.drew).brace = s.brace := rfl
@[simp] theorem State.drew_pfw : (s.drew).pfw = s.pfw := rfl
@[simp] theorem State.drew_pfwHighSince : (s.drew).pfwHighSince = s.pfwHighSince := rfl
@[simp] theorem State.drew_lastAbort : (s.drew).lastAbort = s.lastAbort := rfl
@[simp] theorem State.drew_maint : (s.drew).maint = s.maint := rfl
@[simp] theorem State.drew_testDeferMax : (s.drew).testDeferMax = s.testDeferMax := rfl
@[simp] theorem State.drew_cal : (s.drew).cal = s.cal := rfl
@[simp] theorem State.drew_dump : (s.drew).dump = s.dump := rfl
@[simp] theorem State.drew_policy : (s.drew).policy = s.policy := rfl
@[simp] theorem State.drew_allowance : (s.drew).allowance = s.allowance := rfl
@[simp] theorem State.drew_powerW : (s.drew).powerW = s.powerW := rfl
@[simp] theorem State.drew_overSince : (s.drew).overSince = s.overSince := rfl
@[simp] theorem State.drew_overLogged : (s.drew).overLogged = s.overLogged := rfl
@[simp] theorem State.drew_overCap : (s.drew).overCap = s.overCap := rfl
@[simp] theorem State.drew_therm : (s.drew).therm = s.therm := rfl
@[simp] theorem State.drew_rails : (s.drew).rails = s.rails := rfl
@[simp] theorem State.drew_zones : (s.drew).zones = s.zones := rfl
@[simp] theorem State.drew_regulators : (s.drew).regulators = s.regulators := rfl
@[simp] theorem State.drew_faults : (s.drew).faults = s.faults := rfl
@[simp] theorem State.drew_faultSeq : (s.drew).faultSeq = s.faultSeq := rfl
@[simp] theorem State.drew_faultsLost : (s.drew).faultsLost = s.faultsLost := rfl
@[simp] theorem State.drew_declared : (s.drew).declared = s.declared := rfl
@[simp] theorem State.drew_fuses : (s.drew).fuses = s.fuses := rfl
@[simp] theorem State.drew_flashA : (s.drew).flashA = s.flashA := rfl
@[simp] theorem State.drew_flashB : (s.drew).flashB = s.flashB := rfl
@[simp] theorem State.drew_firmware : (s.drew).firmware = s.firmware := rfl
@[simp] theorem State.drew_fwJob : (s.drew).fwJob = s.fwJob := rfl
@[simp] theorem State.drew_noImageAt : (s.drew).noImageAt = s.noImageAt := rfl
@[simp] theorem State.drew_bootRest : (s.drew).bootRest = s.bootRest := rfl
@[simp] theorem State.drew_bootWait : (s.drew).bootWait = s.bootWait := rfl
@[simp] theorem State.drew_resetN : (s.drew).resetN = s.resetN := rfl
@[simp] theorem State.drew_refclkLost : (s.drew).refclkLost = s.refclkLost := rfl
@[simp] theorem State.drew_tapIr : (s.drew).tapIr = s.tapIr := rfl
@[simp] theorem State.drew_tapOut : (s.drew).tapOut = s.tapOut := rfl
@[simp] theorem State.drew_boundary : (s.drew).boundary = s.boundary := rfl
@[simp] theorem State.drew_carrier : (s.drew).carrier = s.carrier := rfl
@[simp] theorem State.drew_mctp : (s.drew).mctp = s.mctp := rfl
@[simp] theorem State.drew_coreAt' (n' : Nat) : (s.drew).coreAt n' = s.coreAt n' := rfl
@[simp] theorem State.drew_cluster' (n' : Nat) : (s.drew).cluster n' = s.cluster n' := rfl
@[simp] theorem State.drew_lcore' (n' m' : Nat) : (s.drew).lcore n' m' = s.lcore n' m' := rfl
@[simp] theorem State.drew_window' (n' m' : Nat) : (s.drew).window n' m' = s.window n' m' := rfl
@[simp] theorem State.drew_part' (n' : Nat) : (s.drew).part n' = s.part n' := rfl
@[simp] theorem State.drew_link' (n' : Nat) : (s.drew).link n' = s.link n' := rfl
@[simp] theorem State.drew_port' (n' m' : Nat) : (s.drew).port n' m' = s.port n' m' := rfl
@[simp] theorem State.drew_ctx' (n' m' : Nat) : (s.drew).ctx n' m' = s.ctx n' m' := rfl
@[simp] theorem State.drew_stack' (n' : Nat) : (s.drew).stack n' = s.stack n' := rfl
@[simp] theorem State.drew_zone' (n' : Nat) : (s.drew).zone n' = s.zone n' := rfl
@[simp] theorem State.drew_spadRead' (n' m' l' : Nat) : (s.drew).spadRead n' m' l' = s.spadRead n' m' l' := rfl
@[simp] theorem State.drew_lease' (n' m' : Nat) : (s.drew).lease n' m' = s.lease n' m' := rfl
@[simp] theorem State.drew_isOpen' (n' m' : Nat) : (s.drew).isOpen n' m' = s.isOpen n' m' := rfl
@[simp] theorem State.drew_exists' (n' : Nat) : (s.drew).exists n' = s.exists n' := rfl
@[simp] theorem State.drew_hostUp' : (s.drew).hostUp = s.hostUp := rfl
@[simp] theorem State.drew_wafer' : (s.drew).wafer = s.wafer := rfl
@[simp] theorem State.drew_inE0' : (s.drew).inE0 = s.inE0 := rfl
@[simp] theorem State.drew_tick' : (s.drew).tick = s.tick := rfl
@[simp] theorem State.drew_phase' : (s.drew).phase = s.phase := rfl
@[simp] theorem State.drew_onEdge' : (s.drew).onEdge = s.onEdge := rfl
@[simp] theorem State.drew_longOf' (n' m' : Nat) (q' : BitVec 16) : (s.drew).long? n' m' q' = s.long? n' m' q' := rfl

end

/-! ## grant -/

section

variable (s : State) (k i : Nat) (tag : BitVec 16)

@[simp] theorem State.grant_pending : (s.grant k i tag).pending = s.pending := rfl
@[simp] theorem State.grant_now : (s.grant k i tag).now = s.now := rfl
@[simp] theorem State.grant_perst : (s.grant k i tag).perst = s.perst := rfl
@[simp] theorem State.grant_et : (s.grant k i tag).et = s.et := rfl
@[simp] theorem State.grant_sub : (s.grant k i tag).sub = s.sub := rfl
@[simp] theorem State.grant_etClock : (s.grant k i tag).etClock = s.etClock := rfl
@[simp] theorem State.grant_cores : (s.grant k i tag).cores = s.cores := rfl
@[simp] theorem State.grant_spad : (s.grant k i tag).spad = s.spad := rfl
@[simp] theorem State.grant_flights : (s.grant k i tag).flights = s.flights := rfl
@[simp] theorem State.grant_credits : (s.grant k i tag).credits = s.credits := rfl
@[simp] theorem State.grant_clusters : (s.grant k i tag).clusters = s.clusters := rfl
@[simp] theorem State.grant_coreEvents : (s.grant k i tag).coreEvents = s.coreEvents := rfl
@[simp] theorem State.grant_regReplies : (s.grant k i tag).regReplies = s.regReplies := rfl
@[simp] theorem State.grant_noTargets : (s.grant k i tag).noTargets = s.noTargets := rfl
@[simp] theorem State.grant_hbm : (s.grant k i tag).hbm = s.hbm := rfl
@[simp] theorem State.grant_stacks : (s.grant k i tag).hbmStacks = s.hbmStacks := rfl
@[simp] theorem State.grant_slotUse : (s.grant k i tag).slotUse = s.slotUse := rfl
@[simp] theorem State.grant_hostMem : (s.grant k i tag).hostMem = s.hostMem := rfl
@[simp] theorem State.grant_windows : (s.grant k i tag).windows = s.windows := rfl
@[simp] theorem State.grant_rules : (s.grant k i tag).rules = s.rules := rfl
@[simp] theorem State.grant_ambig : (s.grant k i tag).ambig = s.ambig := rfl
@[simp] theorem State.grant_violCounts : (s.grant k i tag).violCounts = s.violCounts := rfl
@[simp] theorem State.grant_opFaulted : (s.grant k i tag).opFaulted = s.opFaulted := rfl
@[simp] theorem State.grant_mmioData : (s.grant k i tag).mmioData = s.mmioData := rfl
@[simp] theorem State.grant_longs : (s.grant k i tag).longs = s.longs := rfl
@[simp] theorem State.grant_parts : (s.grant k i tag).parts = s.parts := rfl
@[simp] theorem State.grant_nextReq : (s.grant k i tag).nextReq = s.nextReq := rfl
@[simp] theorem State.grant_fetchTurn : (s.grant k i tag).fetchTurn = s.fetchTurn := rfl
@[simp] theorem State.grant_links : (s.grant k i tag).links = s.links := rfl
@[simp] theorem State.grant_timePriXor : (s.grant k i tag).timePriXor = s.timePriXor := rfl
@[simp] theorem State.grant_guardG : (s.grant k i tag).guardG = s.guardG := rfl
@[simp] theorem State.grant_timeMaster : (s.grant k i tag).timeMaster = s.timeMaster := rfl
@[simp] theorem State.grant_masterSerial : (s.grant k i tag).masterSerial = s.masterSerial := rfl
@[simp] theorem State.grant_fullRetimes : (s.grant k i tag).fullRetimes = s.fullRetimes := rfl
@[simp] theorem State.grant_fastResumes : (s.grant k i tag).fastResumes = s.fastResumes := rfl
@[simp] theorem State.grant_retimeWanted : (s.grant k i tag).retimeWanted = s.retimeWanted := rfl
@[simp] theorem State.grant_supply : (s.grant k i tag).supply = s.supply := rfl
@[simp] theorem State.grant_estate : (s.grant k i tag).estate = s.estate := rfl
@[simp] theorem State.grant_stateEt : (s.grant k i tag).stateEt = s.stateEt := rfl
@[simp] theorem State.grant_authority : (s.grant k i tag).authority = s.authority := rfl
@[simp] theorem State.grant_standbyOk : (s.grant k i tag).standbyOk = s.standbyOk := rfl
@[simp] theorem State.grant_authorityMisses : (s.grant k i tag).authorityMisses = s.authorityMisses := rfl
@[simp] theorem State.grant_missAt : (s.grant k i tag).missAt = s.missAt := rfl
@[simp] theorem State.grant_authorityLost : (s.grant k i tag).authorityLost = s.authorityLost := rfl
@[simp] theorem State.grant_draining : (s.grant k i tag).draining = s.draining := rfl
@[simp] theorem State.grant_wakeEt : (s.grant k i tag).wakeEt = s.wakeEt := rfl
@[simp] theorem State.grant_aonWake : (s.grant k i tag).aonWake = s.aonWake := rfl
@[simp] theorem State.grant_wakeReasons : (s.grant k i tag).wakeReasons = s.wakeReasons := rfl
@[simp] theorem State.grant_quietArmed : (s.grant k i tag).quietArmed = s.quietArmed := rfl
@[simp] theorem State.grant_brace : (s.grant k i tag).brace = s.brace := rfl
@[simp] theorem State.grant_pfw : (s.grant k i tag).pfw = s.pfw := rfl
@[simp] theorem State.grant_pfwHighSince : (s.grant k i tag).pfwHighSince = s.pfwHighSince := rfl
@[simp] theorem State.grant_lastAbort : (s.grant k i tag).lastAbort = s.lastAbort := rfl
@[simp] theorem State.grant_maint : (s.grant k i tag).maint = s.maint := rfl
@[simp] theorem State.grant_testDeferMax : (s.grant k i tag).testDeferMax = s.testDeferMax := rfl
@[simp] theorem State.grant_cal : (s.grant k i tag).cal = s.cal := rfl
@[simp] theorem State.grant_dump : (s.grant k i tag).dump = s.dump := rfl
@[simp] theorem State.grant_policy : (s.grant k i tag).policy = s.policy := rfl
@[simp] theorem State.grant_allowance : (s.grant k i tag).allowance = s.allowance := rfl
@[simp] theorem State.grant_powerW : (s.grant k i tag).powerW = s.powerW := rfl
@[simp] theorem State.grant_overSince : (s.grant k i tag).overSince = s.overSince := rfl
@[simp] theorem State.grant_overLogged : (s.grant k i tag).overLogged = s.overLogged := rfl
@[simp] theorem State.grant_overCap : (s.grant k i tag).overCap = s.overCap := rfl
@[simp] theorem State.grant_therm : (s.grant k i tag).therm = s.therm := rfl
@[simp] theorem State.grant_rails : (s.grant k i tag).rails = s.rails := rfl
@[simp] theorem State.grant_zones : (s.grant k i tag).zones = s.zones := rfl
@[simp] theorem State.grant_regulators : (s.grant k i tag).regulators = s.regulators := rfl
@[simp] theorem State.grant_faults : (s.grant k i tag).faults = s.faults := rfl
@[simp] theorem State.grant_faultSeq : (s.grant k i tag).faultSeq = s.faultSeq := rfl
@[simp] theorem State.grant_faultsLost : (s.grant k i tag).faultsLost = s.faultsLost := rfl
@[simp] theorem State.grant_declared : (s.grant k i tag).declared = s.declared := rfl
@[simp] theorem State.grant_fuses : (s.grant k i tag).fuses = s.fuses := rfl
@[simp] theorem State.grant_flashA : (s.grant k i tag).flashA = s.flashA := rfl
@[simp] theorem State.grant_flashB : (s.grant k i tag).flashB = s.flashB := rfl
@[simp] theorem State.grant_firmware : (s.grant k i tag).firmware = s.firmware := rfl
@[simp] theorem State.grant_fwJob : (s.grant k i tag).fwJob = s.fwJob := rfl
@[simp] theorem State.grant_noImageAt : (s.grant k i tag).noImageAt = s.noImageAt := rfl
@[simp] theorem State.grant_bootRest : (s.grant k i tag).bootRest = s.bootRest := rfl
@[simp] theorem State.grant_bootWait : (s.grant k i tag).bootWait = s.bootWait := rfl
@[simp] theorem State.grant_resetN : (s.grant k i tag).resetN = s.resetN := rfl
@[simp] theorem State.grant_refclkLost : (s.grant k i tag).refclkLost = s.refclkLost := rfl
@[simp] theorem State.grant_tapIr : (s.grant k i tag).tapIr = s.tapIr := rfl
@[simp] theorem State.grant_tapOut : (s.grant k i tag).tapOut = s.tapOut := rfl
@[simp] theorem State.grant_boundary : (s.grant k i tag).boundary = s.boundary := rfl
@[simp] theorem State.grant_carrier : (s.grant k i tag).carrier = s.carrier := rfl
@[simp] theorem State.grant_mctp : (s.grant k i tag).mctp = s.mctp := rfl
@[simp] theorem State.grant_freeCount : (s.grant k i tag).freeCount = s.freeCount := rfl
@[simp] theorem State.grant_coreAt' (n' : Nat) : (s.grant k i tag).coreAt n' = s.coreAt n' := rfl
@[simp] theorem State.grant_cluster' (n' : Nat) : (s.grant k i tag).cluster n' = s.cluster n' := rfl
@[simp] theorem State.grant_lcore' (n' m' : Nat) : (s.grant k i tag).lcore n' m' = s.lcore n' m' := rfl
@[simp] theorem State.grant_window' (n' m' : Nat) : (s.grant k i tag).window n' m' = s.window n' m' := rfl
@[simp] theorem State.grant_part' (n' : Nat) : (s.grant k i tag).part n' = s.part n' := rfl
@[simp] theorem State.grant_link' (n' : Nat) : (s.grant k i tag).link n' = s.link n' := rfl
@[simp] theorem State.grant_port' (n' m' : Nat) : (s.grant k i tag).port n' m' = s.port n' m' := rfl
@[simp] theorem State.grant_ctx' (n' m' : Nat) : (s.grant k i tag).ctx n' m' = s.ctx n' m' := rfl
@[simp] theorem State.grant_stack' (n' : Nat) : (s.grant k i tag).stack n' = s.stack n' := rfl
@[simp] theorem State.grant_zone' (n' : Nat) : (s.grant k i tag).zone n' = s.zone n' := rfl
@[simp] theorem State.grant_spadRead' (n' m' l' : Nat) : (s.grant k i tag).spadRead n' m' l' = s.spadRead n' m' l' := rfl
@[simp] theorem State.grant_isOpen' (n' m' : Nat) : (s.grant k i tag).isOpen n' m' = s.isOpen n' m' := rfl
@[simp] theorem State.grant_exists' (n' : Nat) : (s.grant k i tag).exists n' = s.exists n' := rfl
@[simp] theorem State.grant_hostUp' : (s.grant k i tag).hostUp = s.hostUp := rfl
@[simp] theorem State.grant_wafer' : (s.grant k i tag).wafer = s.wafer := rfl
@[simp] theorem State.grant_inE0' : (s.grant k i tag).inE0 = s.inE0 := rfl
@[simp] theorem State.grant_tick' : (s.grant k i tag).tick = s.tick := rfl
@[simp] theorem State.grant_phase' : (s.grant k i tag).phase = s.phase := rfl
@[simp] theorem State.grant_onEdge' : (s.grant k i tag).onEdge = s.onEdge := rfl
@[simp] theorem State.grant_longOf' (n' m' : Nat) (q' : BitVec 16) : (s.grant k i tag).long? n' m' q' = s.long? n' m' q' := rfl

end

/-! ## release -/

section

variable (s : State) (k i : Nat)

@[simp] theorem State.release_pending : (s.release k i).pending = s.pending := rfl
@[simp] theorem State.release_now : (s.release k i).now = s.now := rfl
@[simp] theorem State.release_perst : (s.release k i).perst = s.perst := rfl
@[simp] theorem State.release_et : (s.release k i).et = s.et := rfl
@[simp] theorem State.release_sub : (s.release k i).sub = s.sub := rfl
@[simp] theorem State.release_etClock : (s.release k i).etClock = s.etClock := rfl
@[simp] theorem State.release_cores : (s.release k i).cores = s.cores := rfl
@[simp] theorem State.release_spad : (s.release k i).spad = s.spad := rfl
@[simp] theorem State.release_flights : (s.release k i).flights = s.flights := rfl
@[simp] theorem State.release_credits : (s.release k i).credits = s.credits := rfl
@[simp] theorem State.release_clusters : (s.release k i).clusters = s.clusters := rfl
@[simp] theorem State.release_coreEvents : (s.release k i).coreEvents = s.coreEvents := rfl
@[simp] theorem State.release_regReplies : (s.release k i).regReplies = s.regReplies := rfl
@[simp] theorem State.release_noTargets : (s.release k i).noTargets = s.noTargets := rfl
@[simp] theorem State.release_hbm : (s.release k i).hbm = s.hbm := rfl
@[simp] theorem State.release_stacks : (s.release k i).hbmStacks = s.hbmStacks := rfl
@[simp] theorem State.release_slotUse : (s.release k i).slotUse = s.slotUse := rfl
@[simp] theorem State.release_hostMem : (s.release k i).hostMem = s.hostMem := rfl
@[simp] theorem State.release_windows : (s.release k i).windows = s.windows := rfl
@[simp] theorem State.release_rules : (s.release k i).rules = s.rules := rfl
@[simp] theorem State.release_ambig : (s.release k i).ambig = s.ambig := rfl
@[simp] theorem State.release_violCounts : (s.release k i).violCounts = s.violCounts := rfl
@[simp] theorem State.release_opFaulted : (s.release k i).opFaulted = s.opFaulted := rfl
@[simp] theorem State.release_mmioData : (s.release k i).mmioData = s.mmioData := rfl
@[simp] theorem State.release_longs : (s.release k i).longs = s.longs := rfl
@[simp] theorem State.release_parts : (s.release k i).parts = s.parts := rfl
@[simp] theorem State.release_nextReq : (s.release k i).nextReq = s.nextReq := rfl
@[simp] theorem State.release_fetchTurn : (s.release k i).fetchTurn = s.fetchTurn := rfl
@[simp] theorem State.release_links : (s.release k i).links = s.links := rfl
@[simp] theorem State.release_timePriXor : (s.release k i).timePriXor = s.timePriXor := rfl
@[simp] theorem State.release_guardG : (s.release k i).guardG = s.guardG := rfl
@[simp] theorem State.release_timeMaster : (s.release k i).timeMaster = s.timeMaster := rfl
@[simp] theorem State.release_masterSerial : (s.release k i).masterSerial = s.masterSerial := rfl
@[simp] theorem State.release_fullRetimes : (s.release k i).fullRetimes = s.fullRetimes := rfl
@[simp] theorem State.release_fastResumes : (s.release k i).fastResumes = s.fastResumes := rfl
@[simp] theorem State.release_retimeWanted : (s.release k i).retimeWanted = s.retimeWanted := rfl
@[simp] theorem State.release_supply : (s.release k i).supply = s.supply := rfl
@[simp] theorem State.release_estate : (s.release k i).estate = s.estate := rfl
@[simp] theorem State.release_stateEt : (s.release k i).stateEt = s.stateEt := rfl
@[simp] theorem State.release_authority : (s.release k i).authority = s.authority := rfl
@[simp] theorem State.release_standbyOk : (s.release k i).standbyOk = s.standbyOk := rfl
@[simp] theorem State.release_authorityMisses : (s.release k i).authorityMisses = s.authorityMisses := rfl
@[simp] theorem State.release_missAt : (s.release k i).missAt = s.missAt := rfl
@[simp] theorem State.release_authorityLost : (s.release k i).authorityLost = s.authorityLost := rfl
@[simp] theorem State.release_draining : (s.release k i).draining = s.draining := rfl
@[simp] theorem State.release_wakeEt : (s.release k i).wakeEt = s.wakeEt := rfl
@[simp] theorem State.release_aonWake : (s.release k i).aonWake = s.aonWake := rfl
@[simp] theorem State.release_wakeReasons : (s.release k i).wakeReasons = s.wakeReasons := rfl
@[simp] theorem State.release_quietArmed : (s.release k i).quietArmed = s.quietArmed := rfl
@[simp] theorem State.release_brace : (s.release k i).brace = s.brace := rfl
@[simp] theorem State.release_pfw : (s.release k i).pfw = s.pfw := rfl
@[simp] theorem State.release_pfwHighSince : (s.release k i).pfwHighSince = s.pfwHighSince := rfl
@[simp] theorem State.release_lastAbort : (s.release k i).lastAbort = s.lastAbort := rfl
@[simp] theorem State.release_maint : (s.release k i).maint = s.maint := rfl
@[simp] theorem State.release_testDeferMax : (s.release k i).testDeferMax = s.testDeferMax := rfl
@[simp] theorem State.release_cal : (s.release k i).cal = s.cal := rfl
@[simp] theorem State.release_dump : (s.release k i).dump = s.dump := rfl
@[simp] theorem State.release_policy : (s.release k i).policy = s.policy := rfl
@[simp] theorem State.release_allowance : (s.release k i).allowance = s.allowance := rfl
@[simp] theorem State.release_powerW : (s.release k i).powerW = s.powerW := rfl
@[simp] theorem State.release_overSince : (s.release k i).overSince = s.overSince := rfl
@[simp] theorem State.release_overLogged : (s.release k i).overLogged = s.overLogged := rfl
@[simp] theorem State.release_overCap : (s.release k i).overCap = s.overCap := rfl
@[simp] theorem State.release_therm : (s.release k i).therm = s.therm := rfl
@[simp] theorem State.release_rails : (s.release k i).rails = s.rails := rfl
@[simp] theorem State.release_zones : (s.release k i).zones = s.zones := rfl
@[simp] theorem State.release_regulators : (s.release k i).regulators = s.regulators := rfl
@[simp] theorem State.release_faults : (s.release k i).faults = s.faults := rfl
@[simp] theorem State.release_faultSeq : (s.release k i).faultSeq = s.faultSeq := rfl
@[simp] theorem State.release_faultsLost : (s.release k i).faultsLost = s.faultsLost := rfl
@[simp] theorem State.release_declared : (s.release k i).declared = s.declared := rfl
@[simp] theorem State.release_fuses : (s.release k i).fuses = s.fuses := rfl
@[simp] theorem State.release_flashA : (s.release k i).flashA = s.flashA := rfl
@[simp] theorem State.release_flashB : (s.release k i).flashB = s.flashB := rfl
@[simp] theorem State.release_firmware : (s.release k i).firmware = s.firmware := rfl
@[simp] theorem State.release_fwJob : (s.release k i).fwJob = s.fwJob := rfl
@[simp] theorem State.release_noImageAt : (s.release k i).noImageAt = s.noImageAt := rfl
@[simp] theorem State.release_bootRest : (s.release k i).bootRest = s.bootRest := rfl
@[simp] theorem State.release_bootWait : (s.release k i).bootWait = s.bootWait := rfl
@[simp] theorem State.release_resetN : (s.release k i).resetN = s.resetN := rfl
@[simp] theorem State.release_refclkLost : (s.release k i).refclkLost = s.refclkLost := rfl
@[simp] theorem State.release_tapIr : (s.release k i).tapIr = s.tapIr := rfl
@[simp] theorem State.release_tapOut : (s.release k i).tapOut = s.tapOut := rfl
@[simp] theorem State.release_boundary : (s.release k i).boundary = s.boundary := rfl
@[simp] theorem State.release_carrier : (s.release k i).carrier = s.carrier := rfl
@[simp] theorem State.release_mctp : (s.release k i).mctp = s.mctp := rfl
@[simp] theorem State.release_freeCount : (s.release k i).freeCount = s.freeCount := rfl
@[simp] theorem State.release_coreAt' (n' : Nat) : (s.release k i).coreAt n' = s.coreAt n' := rfl
@[simp] theorem State.release_cluster' (n' : Nat) : (s.release k i).cluster n' = s.cluster n' := rfl
@[simp] theorem State.release_lcore' (n' m' : Nat) : (s.release k i).lcore n' m' = s.lcore n' m' := rfl
@[simp] theorem State.release_window' (n' m' : Nat) : (s.release k i).window n' m' = s.window n' m' := rfl
@[simp] theorem State.release_part' (n' : Nat) : (s.release k i).part n' = s.part n' := rfl
@[simp] theorem State.release_link' (n' : Nat) : (s.release k i).link n' = s.link n' := rfl
@[simp] theorem State.release_port' (n' m' : Nat) : (s.release k i).port n' m' = s.port n' m' := rfl
@[simp] theorem State.release_ctx' (n' m' : Nat) : (s.release k i).ctx n' m' = s.ctx n' m' := rfl
@[simp] theorem State.release_stack' (n' : Nat) : (s.release k i).stack n' = s.stack n' := rfl
@[simp] theorem State.release_zone' (n' : Nat) : (s.release k i).zone n' = s.zone n' := rfl
@[simp] theorem State.release_spadRead' (n' m' l' : Nat) : (s.release k i).spadRead n' m' l' = s.spadRead n' m' l' := rfl
@[simp] theorem State.release_isOpen' (n' m' : Nat) : (s.release k i).isOpen n' m' = s.isOpen n' m' := rfl
@[simp] theorem State.release_exists' (n' : Nat) : (s.release k i).exists n' = s.exists n' := rfl
@[simp] theorem State.release_hostUp' : (s.release k i).hostUp = s.hostUp := rfl
@[simp] theorem State.release_wafer' : (s.release k i).wafer = s.wafer := rfl
@[simp] theorem State.release_inE0' : (s.release k i).inE0 = s.inE0 := rfl
@[simp] theorem State.release_tick' : (s.release k i).tick = s.tick := rfl
@[simp] theorem State.release_phase' : (s.release k i).phase = s.phase := rfl
@[simp] theorem State.release_onEdge' : (s.release k i).onEdge = s.onEdge := rfl
@[simp] theorem State.release_longOf' (n' m' : Nat) (q' : BitVec 16) : (s.release k i).long? n' m' q' = s.long? n' m' q' := rfl

end

/-! ## violate -/

section

variable (s : State) (p k n : Nat)

@[simp] theorem State.violate_pending : (s.violate p k n).pending = s.pending := rfl
@[simp] theorem State.violate_now : (s.violate p k n).now = s.now := rfl
@[simp] theorem State.violate_perst : (s.violate p k n).perst = s.perst := rfl
@[simp] theorem State.violate_et : (s.violate p k n).et = s.et := rfl
@[simp] theorem State.violate_sub : (s.violate p k n).sub = s.sub := rfl
@[simp] theorem State.violate_etClock : (s.violate p k n).etClock = s.etClock := rfl
@[simp] theorem State.violate_cores : (s.violate p k n).cores = s.cores := rfl
@[simp] theorem State.violate_spad : (s.violate p k n).spad = s.spad := rfl
@[simp] theorem State.violate_flights : (s.violate p k n).flights = s.flights := rfl
@[simp] theorem State.violate_credits : (s.violate p k n).credits = s.credits := rfl
@[simp] theorem State.violate_clusters : (s.violate p k n).clusters = s.clusters := rfl
@[simp] theorem State.violate_coreEvents : (s.violate p k n).coreEvents = s.coreEvents := rfl
@[simp] theorem State.violate_regReplies : (s.violate p k n).regReplies = s.regReplies := rfl
@[simp] theorem State.violate_noTargets : (s.violate p k n).noTargets = s.noTargets := rfl
@[simp] theorem State.violate_hbm : (s.violate p k n).hbm = s.hbm := rfl
@[simp] theorem State.violate_stacks : (s.violate p k n).hbmStacks = s.hbmStacks := rfl
@[simp] theorem State.violate_slotUse : (s.violate p k n).slotUse = s.slotUse := rfl
@[simp] theorem State.violate_hostMem : (s.violate p k n).hostMem = s.hostMem := rfl
@[simp] theorem State.violate_windows : (s.violate p k n).windows = s.windows := rfl
@[simp] theorem State.violate_rules : (s.violate p k n).rules = s.rules := rfl
@[simp] theorem State.violate_ambig : (s.violate p k n).ambig = s.ambig := rfl
@[simp] theorem State.violate_opFaulted : (s.violate p k n).opFaulted = s.opFaulted := rfl
@[simp] theorem State.violate_mmioData : (s.violate p k n).mmioData = s.mmioData := rfl
@[simp] theorem State.violate_longs : (s.violate p k n).longs = s.longs := rfl
@[simp] theorem State.violate_parts : (s.violate p k n).parts = s.parts := rfl
@[simp] theorem State.violate_nextReq : (s.violate p k n).nextReq = s.nextReq := rfl
@[simp] theorem State.violate_fetchTurn : (s.violate p k n).fetchTurn = s.fetchTurn := rfl
@[simp] theorem State.violate_leases : (s.violate p k n).leases = s.leases := rfl
@[simp] theorem State.violate_links : (s.violate p k n).links = s.links := rfl
@[simp] theorem State.violate_timePriXor : (s.violate p k n).timePriXor = s.timePriXor := rfl
@[simp] theorem State.violate_guardG : (s.violate p k n).guardG = s.guardG := rfl
@[simp] theorem State.violate_timeMaster : (s.violate p k n).timeMaster = s.timeMaster := rfl
@[simp] theorem State.violate_masterSerial : (s.violate p k n).masterSerial = s.masterSerial := rfl
@[simp] theorem State.violate_fullRetimes : (s.violate p k n).fullRetimes = s.fullRetimes := rfl
@[simp] theorem State.violate_fastResumes : (s.violate p k n).fastResumes = s.fastResumes := rfl
@[simp] theorem State.violate_retimeWanted : (s.violate p k n).retimeWanted = s.retimeWanted := rfl
@[simp] theorem State.violate_supply : (s.violate p k n).supply = s.supply := rfl
@[simp] theorem State.violate_estate : (s.violate p k n).estate = s.estate := rfl
@[simp] theorem State.violate_stateEt : (s.violate p k n).stateEt = s.stateEt := rfl
@[simp] theorem State.violate_authority : (s.violate p k n).authority = s.authority := rfl
@[simp] theorem State.violate_standbyOk : (s.violate p k n).standbyOk = s.standbyOk := rfl
@[simp] theorem State.violate_authorityMisses : (s.violate p k n).authorityMisses = s.authorityMisses := rfl
@[simp] theorem State.violate_missAt : (s.violate p k n).missAt = s.missAt := rfl
@[simp] theorem State.violate_authorityLost : (s.violate p k n).authorityLost = s.authorityLost := rfl
@[simp] theorem State.violate_draining : (s.violate p k n).draining = s.draining := rfl
@[simp] theorem State.violate_wakeEt : (s.violate p k n).wakeEt = s.wakeEt := rfl
@[simp] theorem State.violate_aonWake : (s.violate p k n).aonWake = s.aonWake := rfl
@[simp] theorem State.violate_wakeReasons : (s.violate p k n).wakeReasons = s.wakeReasons := rfl
@[simp] theorem State.violate_quietArmed : (s.violate p k n).quietArmed = s.quietArmed := rfl
@[simp] theorem State.violate_brace : (s.violate p k n).brace = s.brace := rfl
@[simp] theorem State.violate_pfw : (s.violate p k n).pfw = s.pfw := rfl
@[simp] theorem State.violate_pfwHighSince : (s.violate p k n).pfwHighSince = s.pfwHighSince := rfl
@[simp] theorem State.violate_lastAbort : (s.violate p k n).lastAbort = s.lastAbort := rfl
@[simp] theorem State.violate_maint : (s.violate p k n).maint = s.maint := rfl
@[simp] theorem State.violate_testDeferMax : (s.violate p k n).testDeferMax = s.testDeferMax := rfl
@[simp] theorem State.violate_cal : (s.violate p k n).cal = s.cal := rfl
@[simp] theorem State.violate_dump : (s.violate p k n).dump = s.dump := rfl
@[simp] theorem State.violate_policy : (s.violate p k n).policy = s.policy := rfl
@[simp] theorem State.violate_allowance : (s.violate p k n).allowance = s.allowance := rfl
@[simp] theorem State.violate_powerW : (s.violate p k n).powerW = s.powerW := rfl
@[simp] theorem State.violate_overSince : (s.violate p k n).overSince = s.overSince := rfl
@[simp] theorem State.violate_overLogged : (s.violate p k n).overLogged = s.overLogged := rfl
@[simp] theorem State.violate_overCap : (s.violate p k n).overCap = s.overCap := rfl
@[simp] theorem State.violate_therm : (s.violate p k n).therm = s.therm := rfl
@[simp] theorem State.violate_rails : (s.violate p k n).rails = s.rails := rfl
@[simp] theorem State.violate_zones : (s.violate p k n).zones = s.zones := rfl
@[simp] theorem State.violate_regulators : (s.violate p k n).regulators = s.regulators := rfl
@[simp] theorem State.violate_faults : (s.violate p k n).faults = s.faults := rfl
@[simp] theorem State.violate_faultSeq : (s.violate p k n).faultSeq = s.faultSeq := rfl
@[simp] theorem State.violate_faultsLost : (s.violate p k n).faultsLost = s.faultsLost := rfl
@[simp] theorem State.violate_declared : (s.violate p k n).declared = s.declared := rfl
@[simp] theorem State.violate_fuses : (s.violate p k n).fuses = s.fuses := rfl
@[simp] theorem State.violate_flashA : (s.violate p k n).flashA = s.flashA := rfl
@[simp] theorem State.violate_flashB : (s.violate p k n).flashB = s.flashB := rfl
@[simp] theorem State.violate_firmware : (s.violate p k n).firmware = s.firmware := rfl
@[simp] theorem State.violate_fwJob : (s.violate p k n).fwJob = s.fwJob := rfl
@[simp] theorem State.violate_noImageAt : (s.violate p k n).noImageAt = s.noImageAt := rfl
@[simp] theorem State.violate_bootRest : (s.violate p k n).bootRest = s.bootRest := rfl
@[simp] theorem State.violate_bootWait : (s.violate p k n).bootWait = s.bootWait := rfl
@[simp] theorem State.violate_resetN : (s.violate p k n).resetN = s.resetN := rfl
@[simp] theorem State.violate_refclkLost : (s.violate p k n).refclkLost = s.refclkLost := rfl
@[simp] theorem State.violate_tapIr : (s.violate p k n).tapIr = s.tapIr := rfl
@[simp] theorem State.violate_tapOut : (s.violate p k n).tapOut = s.tapOut := rfl
@[simp] theorem State.violate_boundary : (s.violate p k n).boundary = s.boundary := rfl
@[simp] theorem State.violate_carrier : (s.violate p k n).carrier = s.carrier := rfl
@[simp] theorem State.violate_mctp : (s.violate p k n).mctp = s.mctp := rfl
@[simp] theorem State.violate_freeCount : (s.violate p k n).freeCount = s.freeCount := rfl
@[simp] theorem State.violate_coreAt' (n' : Nat) : (s.violate p k n).coreAt n' = s.coreAt n' := rfl
@[simp] theorem State.violate_cluster' (n' : Nat) : (s.violate p k n).cluster n' = s.cluster n' := rfl
@[simp] theorem State.violate_lcore' (n' m' : Nat) : (s.violate p k n).lcore n' m' = s.lcore n' m' := rfl
@[simp] theorem State.violate_window' (n' m' : Nat) : (s.violate p k n).window n' m' = s.window n' m' := rfl
@[simp] theorem State.violate_part' (n' : Nat) : (s.violate p k n).part n' = s.part n' := rfl
@[simp] theorem State.violate_link' (n' : Nat) : (s.violate p k n).link n' = s.link n' := rfl
@[simp] theorem State.violate_port' (n' m' : Nat) : (s.violate p k n).port n' m' = s.port n' m' := rfl
@[simp] theorem State.violate_ctx' (n' m' : Nat) : (s.violate p k n).ctx n' m' = s.ctx n' m' := rfl
@[simp] theorem State.violate_stack' (n' : Nat) : (s.violate p k n).stack n' = s.stack n' := rfl
@[simp] theorem State.violate_zone' (n' : Nat) : (s.violate p k n).zone n' = s.zone n' := rfl
@[simp] theorem State.violate_spadRead' (n' m' l' : Nat) : (s.violate p k n).spadRead n' m' l' = s.spadRead n' m' l' := rfl
@[simp] theorem State.violate_lease' (n' m' : Nat) : (s.violate p k n).lease n' m' = s.lease n' m' := rfl
@[simp] theorem State.violate_isOpen' (n' m' : Nat) : (s.violate p k n).isOpen n' m' = s.isOpen n' m' := rfl
@[simp] theorem State.violate_exists' (n' : Nat) : (s.violate p k n).exists n' = s.exists n' := rfl
@[simp] theorem State.violate_hostUp' : (s.violate p k n).hostUp = s.hostUp := rfl
@[simp] theorem State.violate_wafer' : (s.violate p k n).wafer = s.wafer := rfl
@[simp] theorem State.violate_inE0' : (s.violate p k n).inE0 = s.inE0 := rfl
@[simp] theorem State.violate_tick' : (s.violate p k n).tick = s.tick := rfl
@[simp] theorem State.violate_phase' : (s.violate p k n).phase = s.phase := rfl
@[simp] theorem State.violate_onEdge' : (s.violate p k n).onEdge = s.onEdge := rfl
@[simp] theorem State.violate_longOf' (n' m' : Nat) (q' : BitVec 16) : (s.violate p k n).long? n' m' q' = s.long? n' m' q' := rfl

end

/-! ## post -/

section

variable (s : State) (h f : Nat) (m : Msg)

@[simp] theorem State.post_pending : (s.post h f m).pending = s.pending := rfl
@[simp] theorem State.post_now : (s.post h f m).now = s.now := rfl
@[simp] theorem State.post_perst : (s.post h f m).perst = s.perst := rfl
@[simp] theorem State.post_et : (s.post h f m).et = s.et := rfl
@[simp] theorem State.post_sub : (s.post h f m).sub = s.sub := rfl
@[simp] theorem State.post_etClock : (s.post h f m).etClock = s.etClock := rfl
@[simp] theorem State.post_cores : (s.post h f m).cores = s.cores := rfl
@[simp] theorem State.post_spad : (s.post h f m).spad = s.spad := rfl
@[simp] theorem State.post_flights : (s.post h f m).flights = s.flights := rfl
@[simp] theorem State.post_credits : (s.post h f m).credits = s.credits := rfl
@[simp] theorem State.post_clusters : (s.post h f m).clusters = s.clusters := rfl
@[simp] theorem State.post_coreEvents : (s.post h f m).coreEvents = s.coreEvents := rfl
@[simp] theorem State.post_regReplies : (s.post h f m).regReplies = s.regReplies := rfl
@[simp] theorem State.post_noTargets : (s.post h f m).noTargets = s.noTargets := rfl
@[simp] theorem State.post_hbm : (s.post h f m).hbm = s.hbm := rfl
@[simp] theorem State.post_stacks : (s.post h f m).hbmStacks = s.hbmStacks := rfl
@[simp] theorem State.post_slotUse : (s.post h f m).slotUse = s.slotUse := rfl
@[simp] theorem State.post_hostMem : (s.post h f m).hostMem = s.hostMem := rfl
@[simp] theorem State.post_rules : (s.post h f m).rules = s.rules := rfl
@[simp] theorem State.post_ambig : (s.post h f m).ambig = s.ambig := rfl
@[simp] theorem State.post_violCounts : (s.post h f m).violCounts = s.violCounts := rfl
@[simp] theorem State.post_opFaulted : (s.post h f m).opFaulted = s.opFaulted := rfl
@[simp] theorem State.post_mmioData : (s.post h f m).mmioData = s.mmioData := rfl
@[simp] theorem State.post_longs : (s.post h f m).longs = s.longs := rfl
@[simp] theorem State.post_parts : (s.post h f m).parts = s.parts := rfl
@[simp] theorem State.post_nextReq : (s.post h f m).nextReq = s.nextReq := rfl
@[simp] theorem State.post_fetchTurn : (s.post h f m).fetchTurn = s.fetchTurn := rfl
@[simp] theorem State.post_leases : (s.post h f m).leases = s.leases := rfl
@[simp] theorem State.post_links : (s.post h f m).links = s.links := rfl
@[simp] theorem State.post_timePriXor : (s.post h f m).timePriXor = s.timePriXor := rfl
@[simp] theorem State.post_guardG : (s.post h f m).guardG = s.guardG := rfl
@[simp] theorem State.post_timeMaster : (s.post h f m).timeMaster = s.timeMaster := rfl
@[simp] theorem State.post_masterSerial : (s.post h f m).masterSerial = s.masterSerial := rfl
@[simp] theorem State.post_fullRetimes : (s.post h f m).fullRetimes = s.fullRetimes := rfl
@[simp] theorem State.post_fastResumes : (s.post h f m).fastResumes = s.fastResumes := rfl
@[simp] theorem State.post_retimeWanted : (s.post h f m).retimeWanted = s.retimeWanted := rfl
@[simp] theorem State.post_supply : (s.post h f m).supply = s.supply := rfl
@[simp] theorem State.post_estate : (s.post h f m).estate = s.estate := rfl
@[simp] theorem State.post_stateEt : (s.post h f m).stateEt = s.stateEt := rfl
@[simp] theorem State.post_authority : (s.post h f m).authority = s.authority := rfl
@[simp] theorem State.post_standbyOk : (s.post h f m).standbyOk = s.standbyOk := rfl
@[simp] theorem State.post_authorityMisses : (s.post h f m).authorityMisses = s.authorityMisses := rfl
@[simp] theorem State.post_missAt : (s.post h f m).missAt = s.missAt := rfl
@[simp] theorem State.post_authorityLost : (s.post h f m).authorityLost = s.authorityLost := rfl
@[simp] theorem State.post_draining : (s.post h f m).draining = s.draining := rfl
@[simp] theorem State.post_wakeEt : (s.post h f m).wakeEt = s.wakeEt := rfl
@[simp] theorem State.post_aonWake : (s.post h f m).aonWake = s.aonWake := rfl
@[simp] theorem State.post_wakeReasons : (s.post h f m).wakeReasons = s.wakeReasons := rfl
@[simp] theorem State.post_quietArmed : (s.post h f m).quietArmed = s.quietArmed := rfl
@[simp] theorem State.post_brace : (s.post h f m).brace = s.brace := rfl
@[simp] theorem State.post_pfw : (s.post h f m).pfw = s.pfw := rfl
@[simp] theorem State.post_pfwHighSince : (s.post h f m).pfwHighSince = s.pfwHighSince := rfl
@[simp] theorem State.post_lastAbort : (s.post h f m).lastAbort = s.lastAbort := rfl
@[simp] theorem State.post_maint : (s.post h f m).maint = s.maint := rfl
@[simp] theorem State.post_testDeferMax : (s.post h f m).testDeferMax = s.testDeferMax := rfl
@[simp] theorem State.post_cal : (s.post h f m).cal = s.cal := rfl
@[simp] theorem State.post_dump : (s.post h f m).dump = s.dump := rfl
@[simp] theorem State.post_policy : (s.post h f m).policy = s.policy := rfl
@[simp] theorem State.post_allowance : (s.post h f m).allowance = s.allowance := rfl
@[simp] theorem State.post_powerW : (s.post h f m).powerW = s.powerW := rfl
@[simp] theorem State.post_overSince : (s.post h f m).overSince = s.overSince := rfl
@[simp] theorem State.post_overLogged : (s.post h f m).overLogged = s.overLogged := rfl
@[simp] theorem State.post_overCap : (s.post h f m).overCap = s.overCap := rfl
@[simp] theorem State.post_therm : (s.post h f m).therm = s.therm := rfl
@[simp] theorem State.post_rails : (s.post h f m).rails = s.rails := rfl
@[simp] theorem State.post_zones : (s.post h f m).zones = s.zones := rfl
@[simp] theorem State.post_regulators : (s.post h f m).regulators = s.regulators := rfl
@[simp] theorem State.post_faults : (s.post h f m).faults = s.faults := rfl
@[simp] theorem State.post_faultSeq : (s.post h f m).faultSeq = s.faultSeq := rfl
@[simp] theorem State.post_faultsLost : (s.post h f m).faultsLost = s.faultsLost := rfl
@[simp] theorem State.post_declared : (s.post h f m).declared = s.declared := rfl
@[simp] theorem State.post_fuses : (s.post h f m).fuses = s.fuses := rfl
@[simp] theorem State.post_flashA : (s.post h f m).flashA = s.flashA := rfl
@[simp] theorem State.post_flashB : (s.post h f m).flashB = s.flashB := rfl
@[simp] theorem State.post_firmware : (s.post h f m).firmware = s.firmware := rfl
@[simp] theorem State.post_fwJob : (s.post h f m).fwJob = s.fwJob := rfl
@[simp] theorem State.post_noImageAt : (s.post h f m).noImageAt = s.noImageAt := rfl
@[simp] theorem State.post_bootRest : (s.post h f m).bootRest = s.bootRest := rfl
@[simp] theorem State.post_bootWait : (s.post h f m).bootWait = s.bootWait := rfl
@[simp] theorem State.post_resetN : (s.post h f m).resetN = s.resetN := rfl
@[simp] theorem State.post_refclkLost : (s.post h f m).refclkLost = s.refclkLost := rfl
@[simp] theorem State.post_tapIr : (s.post h f m).tapIr = s.tapIr := rfl
@[simp] theorem State.post_tapOut : (s.post h f m).tapOut = s.tapOut := rfl
@[simp] theorem State.post_boundary : (s.post h f m).boundary = s.boundary := rfl
@[simp] theorem State.post_carrier : (s.post h f m).carrier = s.carrier := rfl
@[simp] theorem State.post_mctp : (s.post h f m).mctp = s.mctp := rfl
@[simp] theorem State.post_freeCount : (s.post h f m).freeCount = s.freeCount := rfl
@[simp] theorem State.post_coreAt' (n' : Nat) : (s.post h f m).coreAt n' = s.coreAt n' := rfl
@[simp] theorem State.post_cluster' (n' : Nat) : (s.post h f m).cluster n' = s.cluster n' := rfl
@[simp] theorem State.post_lcore' (n' m' : Nat) : (s.post h f m).lcore n' m' = s.lcore n' m' := rfl
@[simp] theorem State.post_part' (n' : Nat) : (s.post h f m).part n' = s.part n' := rfl
@[simp] theorem State.post_link' (n' : Nat) : (s.post h f m).link n' = s.link n' := rfl
@[simp] theorem State.post_port' (n' m' : Nat) : (s.post h f m).port n' m' = s.port n' m' := rfl
@[simp] theorem State.post_ctx' (n' m' : Nat) : (s.post h f m).ctx n' m' = s.ctx n' m' := rfl
@[simp] theorem State.post_stack' (n' : Nat) : (s.post h f m).stack n' = s.stack n' := rfl
@[simp] theorem State.post_zone' (n' : Nat) : (s.post h f m).zone n' = s.zone n' := rfl
@[simp] theorem State.post_spadRead' (n' m' l' : Nat) : (s.post h f m).spadRead n' m' l' = s.spadRead n' m' l' := rfl
@[simp] theorem State.post_lease' (n' m' : Nat) : (s.post h f m).lease n' m' = s.lease n' m' := rfl
@[simp] theorem State.post_isOpen' (n' m' : Nat) : (s.post h f m).isOpen n' m' = s.isOpen n' m' := rfl
@[simp] theorem State.post_exists' (n' : Nat) : (s.post h f m).exists n' = s.exists n' := rfl
@[simp] theorem State.post_hostUp' : (s.post h f m).hostUp = s.hostUp := rfl
@[simp] theorem State.post_wafer' : (s.post h f m).wafer = s.wafer := rfl
@[simp] theorem State.post_inE0' : (s.post h f m).inE0 = s.inE0 := rfl
@[simp] theorem State.post_tick' : (s.post h f m).tick = s.tick := rfl
@[simp] theorem State.post_phase' : (s.post h f m).phase = s.phase := rfl
@[simp] theorem State.post_onEdge' : (s.post h f m).onEdge = s.onEdge := rfl
@[simp] theorem State.post_longOf' (n' m' : Nat) (q' : BitVec 16) : (s.post h f m).long? n' m' q' = s.long? n' m' q' := rfl

end

/-! ## reply -/

section

variable (s : State) (h f : Nat) (q : BitVec 16) (c : BitVec 8) (e : Bool) (st : Nat) (b : Bytes)

@[simp] theorem State.reply_pending : (s.reply h f q c e st b).pending = s.pending := rfl
@[simp] theorem State.reply_now : (s.reply h f q c e st b).now = s.now := rfl
@[simp] theorem State.reply_perst : (s.reply h f q c e st b).perst = s.perst := rfl
@[simp] theorem State.reply_et : (s.reply h f q c e st b).et = s.et := rfl
@[simp] theorem State.reply_sub : (s.reply h f q c e st b).sub = s.sub := rfl
@[simp] theorem State.reply_etClock : (s.reply h f q c e st b).etClock = s.etClock := rfl
@[simp] theorem State.reply_cores : (s.reply h f q c e st b).cores = s.cores := rfl
@[simp] theorem State.reply_spad : (s.reply h f q c e st b).spad = s.spad := rfl
@[simp] theorem State.reply_flights : (s.reply h f q c e st b).flights = s.flights := rfl
@[simp] theorem State.reply_credits : (s.reply h f q c e st b).credits = s.credits := rfl
@[simp] theorem State.reply_clusters : (s.reply h f q c e st b).clusters = s.clusters := rfl
@[simp] theorem State.reply_coreEvents : (s.reply h f q c e st b).coreEvents = s.coreEvents := rfl
@[simp] theorem State.reply_regReplies : (s.reply h f q c e st b).regReplies = s.regReplies := rfl
@[simp] theorem State.reply_noTargets : (s.reply h f q c e st b).noTargets = s.noTargets := rfl
@[simp] theorem State.reply_hbm : (s.reply h f q c e st b).hbm = s.hbm := rfl
@[simp] theorem State.reply_stacks : (s.reply h f q c e st b).hbmStacks = s.hbmStacks := rfl
@[simp] theorem State.reply_slotUse : (s.reply h f q c e st b).slotUse = s.slotUse := rfl
@[simp] theorem State.reply_hostMem : (s.reply h f q c e st b).hostMem = s.hostMem := rfl
@[simp] theorem State.reply_rules : (s.reply h f q c e st b).rules = s.rules := rfl
@[simp] theorem State.reply_ambig : (s.reply h f q c e st b).ambig = s.ambig := rfl
@[simp] theorem State.reply_violCounts : (s.reply h f q c e st b).violCounts = s.violCounts := rfl
@[simp] theorem State.reply_opFaulted : (s.reply h f q c e st b).opFaulted = s.opFaulted := rfl
@[simp] theorem State.reply_mmioData : (s.reply h f q c e st b).mmioData = s.mmioData := rfl
@[simp] theorem State.reply_longs : (s.reply h f q c e st b).longs = s.longs := rfl
@[simp] theorem State.reply_parts : (s.reply h f q c e st b).parts = s.parts := rfl
@[simp] theorem State.reply_nextReq : (s.reply h f q c e st b).nextReq = s.nextReq := rfl
@[simp] theorem State.reply_fetchTurn : (s.reply h f q c e st b).fetchTurn = s.fetchTurn := rfl
@[simp] theorem State.reply_leases : (s.reply h f q c e st b).leases = s.leases := rfl
@[simp] theorem State.reply_links : (s.reply h f q c e st b).links = s.links := rfl
@[simp] theorem State.reply_timePriXor : (s.reply h f q c e st b).timePriXor = s.timePriXor := rfl
@[simp] theorem State.reply_guardG : (s.reply h f q c e st b).guardG = s.guardG := rfl
@[simp] theorem State.reply_timeMaster : (s.reply h f q c e st b).timeMaster = s.timeMaster := rfl
@[simp] theorem State.reply_masterSerial : (s.reply h f q c e st b).masterSerial = s.masterSerial := rfl
@[simp] theorem State.reply_fullRetimes : (s.reply h f q c e st b).fullRetimes = s.fullRetimes := rfl
@[simp] theorem State.reply_fastResumes : (s.reply h f q c e st b).fastResumes = s.fastResumes := rfl
@[simp] theorem State.reply_retimeWanted : (s.reply h f q c e st b).retimeWanted = s.retimeWanted := rfl
@[simp] theorem State.reply_supply : (s.reply h f q c e st b).supply = s.supply := rfl
@[simp] theorem State.reply_estate : (s.reply h f q c e st b).estate = s.estate := rfl
@[simp] theorem State.reply_stateEt : (s.reply h f q c e st b).stateEt = s.stateEt := rfl
@[simp] theorem State.reply_authority : (s.reply h f q c e st b).authority = s.authority := rfl
@[simp] theorem State.reply_standbyOk : (s.reply h f q c e st b).standbyOk = s.standbyOk := rfl
@[simp] theorem State.reply_authorityMisses : (s.reply h f q c e st b).authorityMisses = s.authorityMisses := rfl
@[simp] theorem State.reply_missAt : (s.reply h f q c e st b).missAt = s.missAt := rfl
@[simp] theorem State.reply_authorityLost : (s.reply h f q c e st b).authorityLost = s.authorityLost := rfl
@[simp] theorem State.reply_draining : (s.reply h f q c e st b).draining = s.draining := rfl
@[simp] theorem State.reply_wakeEt : (s.reply h f q c e st b).wakeEt = s.wakeEt := rfl
@[simp] theorem State.reply_aonWake : (s.reply h f q c e st b).aonWake = s.aonWake := rfl
@[simp] theorem State.reply_wakeReasons : (s.reply h f q c e st b).wakeReasons = s.wakeReasons := rfl
@[simp] theorem State.reply_quietArmed : (s.reply h f q c e st b).quietArmed = s.quietArmed := rfl
@[simp] theorem State.reply_brace : (s.reply h f q c e st b).brace = s.brace := rfl
@[simp] theorem State.reply_pfw : (s.reply h f q c e st b).pfw = s.pfw := rfl
@[simp] theorem State.reply_pfwHighSince : (s.reply h f q c e st b).pfwHighSince = s.pfwHighSince := rfl
@[simp] theorem State.reply_lastAbort : (s.reply h f q c e st b).lastAbort = s.lastAbort := rfl
@[simp] theorem State.reply_maint : (s.reply h f q c e st b).maint = s.maint := rfl
@[simp] theorem State.reply_testDeferMax : (s.reply h f q c e st b).testDeferMax = s.testDeferMax := rfl
@[simp] theorem State.reply_cal : (s.reply h f q c e st b).cal = s.cal := rfl
@[simp] theorem State.reply_dump : (s.reply h f q c e st b).dump = s.dump := rfl
@[simp] theorem State.reply_policy : (s.reply h f q c e st b).policy = s.policy := rfl
@[simp] theorem State.reply_allowance : (s.reply h f q c e st b).allowance = s.allowance := rfl
@[simp] theorem State.reply_powerW : (s.reply h f q c e st b).powerW = s.powerW := rfl
@[simp] theorem State.reply_overSince : (s.reply h f q c e st b).overSince = s.overSince := rfl
@[simp] theorem State.reply_overLogged : (s.reply h f q c e st b).overLogged = s.overLogged := rfl
@[simp] theorem State.reply_overCap : (s.reply h f q c e st b).overCap = s.overCap := rfl
@[simp] theorem State.reply_therm : (s.reply h f q c e st b).therm = s.therm := rfl
@[simp] theorem State.reply_rails : (s.reply h f q c e st b).rails = s.rails := rfl
@[simp] theorem State.reply_zones : (s.reply h f q c e st b).zones = s.zones := rfl
@[simp] theorem State.reply_regulators : (s.reply h f q c e st b).regulators = s.regulators := rfl
@[simp] theorem State.reply_faults : (s.reply h f q c e st b).faults = s.faults := rfl
@[simp] theorem State.reply_faultSeq : (s.reply h f q c e st b).faultSeq = s.faultSeq := rfl
@[simp] theorem State.reply_faultsLost : (s.reply h f q c e st b).faultsLost = s.faultsLost := rfl
@[simp] theorem State.reply_declared : (s.reply h f q c e st b).declared = s.declared := rfl
@[simp] theorem State.reply_fuses : (s.reply h f q c e st b).fuses = s.fuses := rfl
@[simp] theorem State.reply_flashA : (s.reply h f q c e st b).flashA = s.flashA := rfl
@[simp] theorem State.reply_flashB : (s.reply h f q c e st b).flashB = s.flashB := rfl
@[simp] theorem State.reply_firmware : (s.reply h f q c e st b).firmware = s.firmware := rfl
@[simp] theorem State.reply_fwJob : (s.reply h f q c e st b).fwJob = s.fwJob := rfl
@[simp] theorem State.reply_noImageAt : (s.reply h f q c e st b).noImageAt = s.noImageAt := rfl
@[simp] theorem State.reply_bootRest : (s.reply h f q c e st b).bootRest = s.bootRest := rfl
@[simp] theorem State.reply_bootWait : (s.reply h f q c e st b).bootWait = s.bootWait := rfl
@[simp] theorem State.reply_resetN : (s.reply h f q c e st b).resetN = s.resetN := rfl
@[simp] theorem State.reply_refclkLost : (s.reply h f q c e st b).refclkLost = s.refclkLost := rfl
@[simp] theorem State.reply_tapIr : (s.reply h f q c e st b).tapIr = s.tapIr := rfl
@[simp] theorem State.reply_tapOut : (s.reply h f q c e st b).tapOut = s.tapOut := rfl
@[simp] theorem State.reply_boundary : (s.reply h f q c e st b).boundary = s.boundary := rfl
@[simp] theorem State.reply_carrier : (s.reply h f q c e st b).carrier = s.carrier := rfl
@[simp] theorem State.reply_mctp : (s.reply h f q c e st b).mctp = s.mctp := rfl
@[simp] theorem State.reply_freeCount : (s.reply h f q c e st b).freeCount = s.freeCount := rfl
@[simp] theorem State.reply_coreAt' (n' : Nat) : (s.reply h f q c e st b).coreAt n' = s.coreAt n' := rfl
@[simp] theorem State.reply_cluster' (n' : Nat) : (s.reply h f q c e st b).cluster n' = s.cluster n' := rfl
@[simp] theorem State.reply_lcore' (n' m' : Nat) : (s.reply h f q c e st b).lcore n' m' = s.lcore n' m' := rfl
@[simp] theorem State.reply_part' (n' : Nat) : (s.reply h f q c e st b).part n' = s.part n' := rfl
@[simp] theorem State.reply_link' (n' : Nat) : (s.reply h f q c e st b).link n' = s.link n' := rfl
@[simp] theorem State.reply_port' (n' m' : Nat) : (s.reply h f q c e st b).port n' m' = s.port n' m' := rfl
@[simp] theorem State.reply_ctx' (n' m' : Nat) : (s.reply h f q c e st b).ctx n' m' = s.ctx n' m' := rfl
@[simp] theorem State.reply_stack' (n' : Nat) : (s.reply h f q c e st b).stack n' = s.stack n' := rfl
@[simp] theorem State.reply_zone' (n' : Nat) : (s.reply h f q c e st b).zone n' = s.zone n' := rfl
@[simp] theorem State.reply_spadRead' (n' m' l' : Nat) : (s.reply h f q c e st b).spadRead n' m' l' = s.spadRead n' m' l' := rfl
@[simp] theorem State.reply_lease' (n' m' : Nat) : (s.reply h f q c e st b).lease n' m' = s.lease n' m' := rfl
@[simp] theorem State.reply_isOpen' (n' m' : Nat) : (s.reply h f q c e st b).isOpen n' m' = s.isOpen n' m' := rfl
@[simp] theorem State.reply_exists' (n' : Nat) : (s.reply h f q c e st b).exists n' = s.exists n' := rfl
@[simp] theorem State.reply_hostUp' : (s.reply h f q c e st b).hostUp = s.hostUp := rfl
@[simp] theorem State.reply_wafer' : (s.reply h f q c e st b).wafer = s.wafer := rfl
@[simp] theorem State.reply_inE0' : (s.reply h f q c e st b).inE0 = s.inE0 := rfl
@[simp] theorem State.reply_tick' : (s.reply h f q c e st b).tick = s.tick := rfl
@[simp] theorem State.reply_phase' : (s.reply h f q c e st b).phase = s.phase := rfl
@[simp] theorem State.reply_onEdge' : (s.reply h f q c e st b).onEdge = s.onEdge := rfl
@[simp] theorem State.reply_longOf' (n' m' : Nat) (q' : BitVec 16) : (s.reply h f q c e st b).long? n' m' q' = s.long? n' m' q' := rfl

end

/-! ## log -/

section

variable (s : State) (c : Nat) (p l k : Option Nat) (d u x : Nat)

@[simp] theorem State.log_pending : (s.log c p l k d u x).pending = s.pending := rfl
@[simp] theorem State.log_now : (s.log c p l k d u x).now = s.now := rfl
@[simp] theorem State.log_perst : (s.log c p l k d u x).perst = s.perst := rfl
@[simp] theorem State.log_et : (s.log c p l k d u x).et = s.et := rfl
@[simp] theorem State.log_sub : (s.log c p l k d u x).sub = s.sub := rfl
@[simp] theorem State.log_etClock : (s.log c p l k d u x).etClock = s.etClock := rfl
@[simp] theorem State.log_cores : (s.log c p l k d u x).cores = s.cores := rfl
@[simp] theorem State.log_spad : (s.log c p l k d u x).spad = s.spad := rfl
@[simp] theorem State.log_flights : (s.log c p l k d u x).flights = s.flights := rfl
@[simp] theorem State.log_credits : (s.log c p l k d u x).credits = s.credits := rfl
@[simp] theorem State.log_clusters : (s.log c p l k d u x).clusters = s.clusters := rfl
@[simp] theorem State.log_coreEvents : (s.log c p l k d u x).coreEvents = s.coreEvents := rfl
@[simp] theorem State.log_regReplies : (s.log c p l k d u x).regReplies = s.regReplies := rfl
@[simp] theorem State.log_noTargets : (s.log c p l k d u x).noTargets = s.noTargets := rfl
@[simp] theorem State.log_hbm : (s.log c p l k d u x).hbm = s.hbm := rfl
@[simp] theorem State.log_stacks : (s.log c p l k d u x).hbmStacks = s.hbmStacks := rfl
@[simp] theorem State.log_slotUse : (s.log c p l k d u x).slotUse = s.slotUse := rfl
@[simp] theorem State.log_hostMem : (s.log c p l k d u x).hostMem = s.hostMem := rfl
@[simp] theorem State.log_windows : (s.log c p l k d u x).windows = s.windows := rfl
@[simp] theorem State.log_rules : (s.log c p l k d u x).rules = s.rules := rfl
@[simp] theorem State.log_ambig : (s.log c p l k d u x).ambig = s.ambig := rfl
@[simp] theorem State.log_violCounts : (s.log c p l k d u x).violCounts = s.violCounts := rfl
@[simp] theorem State.log_opFaulted : (s.log c p l k d u x).opFaulted = s.opFaulted := rfl
@[simp] theorem State.log_mmioData : (s.log c p l k d u x).mmioData = s.mmioData := rfl
@[simp] theorem State.log_longs : (s.log c p l k d u x).longs = s.longs := rfl
@[simp] theorem State.log_parts : (s.log c p l k d u x).parts = s.parts := rfl
@[simp] theorem State.log_nextReq : (s.log c p l k d u x).nextReq = s.nextReq := rfl
@[simp] theorem State.log_fetchTurn : (s.log c p l k d u x).fetchTurn = s.fetchTurn := rfl
@[simp] theorem State.log_leases : (s.log c p l k d u x).leases = s.leases := rfl
@[simp] theorem State.log_links : (s.log c p l k d u x).links = s.links := rfl
@[simp] theorem State.log_timePriXor : (s.log c p l k d u x).timePriXor = s.timePriXor := rfl
@[simp] theorem State.log_guardG : (s.log c p l k d u x).guardG = s.guardG := rfl
@[simp] theorem State.log_timeMaster : (s.log c p l k d u x).timeMaster = s.timeMaster := rfl
@[simp] theorem State.log_masterSerial : (s.log c p l k d u x).masterSerial = s.masterSerial := rfl
@[simp] theorem State.log_fullRetimes : (s.log c p l k d u x).fullRetimes = s.fullRetimes := rfl
@[simp] theorem State.log_fastResumes : (s.log c p l k d u x).fastResumes = s.fastResumes := rfl
@[simp] theorem State.log_retimeWanted : (s.log c p l k d u x).retimeWanted = s.retimeWanted := rfl
@[simp] theorem State.log_supply : (s.log c p l k d u x).supply = s.supply := rfl
@[simp] theorem State.log_estate : (s.log c p l k d u x).estate = s.estate := rfl
@[simp] theorem State.log_stateEt : (s.log c p l k d u x).stateEt = s.stateEt := rfl
@[simp] theorem State.log_authority : (s.log c p l k d u x).authority = s.authority := rfl
@[simp] theorem State.log_standbyOk : (s.log c p l k d u x).standbyOk = s.standbyOk := rfl
@[simp] theorem State.log_authorityMisses : (s.log c p l k d u x).authorityMisses = s.authorityMisses := rfl
@[simp] theorem State.log_missAt : (s.log c p l k d u x).missAt = s.missAt := rfl
@[simp] theorem State.log_authorityLost : (s.log c p l k d u x).authorityLost = s.authorityLost := rfl
@[simp] theorem State.log_draining : (s.log c p l k d u x).draining = s.draining := rfl
@[simp] theorem State.log_wakeEt : (s.log c p l k d u x).wakeEt = s.wakeEt := rfl
@[simp] theorem State.log_aonWake : (s.log c p l k d u x).aonWake = s.aonWake := rfl
@[simp] theorem State.log_wakeReasons : (s.log c p l k d u x).wakeReasons = s.wakeReasons := rfl
@[simp] theorem State.log_quietArmed : (s.log c p l k d u x).quietArmed = s.quietArmed := rfl
@[simp] theorem State.log_brace : (s.log c p l k d u x).brace = s.brace := rfl
@[simp] theorem State.log_pfw : (s.log c p l k d u x).pfw = s.pfw := rfl
@[simp] theorem State.log_pfwHighSince : (s.log c p l k d u x).pfwHighSince = s.pfwHighSince := rfl
@[simp] theorem State.log_lastAbort : (s.log c p l k d u x).lastAbort = s.lastAbort := rfl
@[simp] theorem State.log_maint : (s.log c p l k d u x).maint = s.maint := rfl
@[simp] theorem State.log_testDeferMax : (s.log c p l k d u x).testDeferMax = s.testDeferMax := rfl
@[simp] theorem State.log_cal : (s.log c p l k d u x).cal = s.cal := rfl
@[simp] theorem State.log_dump : (s.log c p l k d u x).dump = s.dump := rfl
@[simp] theorem State.log_policy : (s.log c p l k d u x).policy = s.policy := rfl
@[simp] theorem State.log_allowance : (s.log c p l k d u x).allowance = s.allowance := rfl
@[simp] theorem State.log_powerW : (s.log c p l k d u x).powerW = s.powerW := rfl
@[simp] theorem State.log_overSince : (s.log c p l k d u x).overSince = s.overSince := rfl
@[simp] theorem State.log_overLogged : (s.log c p l k d u x).overLogged = s.overLogged := rfl
@[simp] theorem State.log_overCap : (s.log c p l k d u x).overCap = s.overCap := rfl
@[simp] theorem State.log_therm : (s.log c p l k d u x).therm = s.therm := rfl
@[simp] theorem State.log_rails : (s.log c p l k d u x).rails = s.rails := rfl
@[simp] theorem State.log_zones : (s.log c p l k d u x).zones = s.zones := rfl
@[simp] theorem State.log_regulators : (s.log c p l k d u x).regulators = s.regulators := rfl
@[simp] theorem State.log_declared : (s.log c p l k d u x).declared = s.declared := rfl
@[simp] theorem State.log_fuses : (s.log c p l k d u x).fuses = s.fuses := rfl
@[simp] theorem State.log_flashA : (s.log c p l k d u x).flashA = s.flashA := rfl
@[simp] theorem State.log_flashB : (s.log c p l k d u x).flashB = s.flashB := rfl
@[simp] theorem State.log_firmware : (s.log c p l k d u x).firmware = s.firmware := rfl
@[simp] theorem State.log_fwJob : (s.log c p l k d u x).fwJob = s.fwJob := rfl
@[simp] theorem State.log_noImageAt : (s.log c p l k d u x).noImageAt = s.noImageAt := rfl
@[simp] theorem State.log_bootRest : (s.log c p l k d u x).bootRest = s.bootRest := rfl
@[simp] theorem State.log_bootWait : (s.log c p l k d u x).bootWait = s.bootWait := rfl
@[simp] theorem State.log_resetN : (s.log c p l k d u x).resetN = s.resetN := rfl
@[simp] theorem State.log_refclkLost : (s.log c p l k d u x).refclkLost = s.refclkLost := rfl
@[simp] theorem State.log_tapIr : (s.log c p l k d u x).tapIr = s.tapIr := rfl
@[simp] theorem State.log_tapOut : (s.log c p l k d u x).tapOut = s.tapOut := rfl
@[simp] theorem State.log_boundary : (s.log c p l k d u x).boundary = s.boundary := rfl
@[simp] theorem State.log_carrier : (s.log c p l k d u x).carrier = s.carrier := rfl
@[simp] theorem State.log_mctp : (s.log c p l k d u x).mctp = s.mctp := rfl
@[simp] theorem State.log_freeCount : (s.log c p l k d u x).freeCount = s.freeCount := rfl
@[simp] theorem State.log_coreAt' (n' : Nat) : (s.log c p l k d u x).coreAt n' = s.coreAt n' := rfl
@[simp] theorem State.log_cluster' (n' : Nat) : (s.log c p l k d u x).cluster n' = s.cluster n' := rfl
@[simp] theorem State.log_lcore' (n' m' : Nat) : (s.log c p l k d u x).lcore n' m' = s.lcore n' m' := rfl
@[simp] theorem State.log_window' (n' m' : Nat) : (s.log c p l k d u x).window n' m' = s.window n' m' := rfl
@[simp] theorem State.log_part' (n' : Nat) : (s.log c p l k d u x).part n' = s.part n' := rfl
@[simp] theorem State.log_link' (n' : Nat) : (s.log c p l k d u x).link n' = s.link n' := rfl
@[simp] theorem State.log_port' (n' m' : Nat) : (s.log c p l k d u x).port n' m' = s.port n' m' := rfl
@[simp] theorem State.log_ctx' (n' m' : Nat) : (s.log c p l k d u x).ctx n' m' = s.ctx n' m' := rfl
@[simp] theorem State.log_stack' (n' : Nat) : (s.log c p l k d u x).stack n' = s.stack n' := rfl
@[simp] theorem State.log_zone' (n' : Nat) : (s.log c p l k d u x).zone n' = s.zone n' := rfl
@[simp] theorem State.log_spadRead' (n' m' l' : Nat) : (s.log c p l k d u x).spadRead n' m' l' = s.spadRead n' m' l' := rfl
@[simp] theorem State.log_lease' (n' m' : Nat) : (s.log c p l k d u x).lease n' m' = s.lease n' m' := rfl
@[simp] theorem State.log_isOpen' (n' m' : Nat) : (s.log c p l k d u x).isOpen n' m' = s.isOpen n' m' := rfl
@[simp] theorem State.log_exists' (n' : Nat) : (s.log c p l k d u x).exists n' = s.exists n' := rfl
@[simp] theorem State.log_hostUp' : (s.log c p l k d u x).hostUp = s.hostUp := rfl
@[simp] theorem State.log_wafer' : (s.log c p l k d u x).wafer = s.wafer := rfl
@[simp] theorem State.log_inE0' : (s.log c p l k d u x).inE0 = s.inE0 := rfl
@[simp] theorem State.log_tick' : (s.log c p l k d u x).tick = s.tick := rfl
@[simp] theorem State.log_phase' : (s.log c p l k d u x).phase = s.phase := rfl
@[simp] theorem State.log_onEdge' : (s.log c p l k d u x).onEdge = s.onEdge := rfl
@[simp] theorem State.log_longOf' (n' m' : Nat) (q' : BitVec 16) : (s.log c p l k d u x).long? n' m' q' = s.long? n' m' q' := rfl

end

/-! ## Reading back -/

@[simp] theorem State.coreAt_modCore (s : State) (n : Nat) (f : Core → Core) : (s.modCore n f).coreAt n = f (s.coreAt n) :=
  sget_smod_same ..
theorem State.coreAt_modCore_ne (s : State) (n m : Nat) (f : Core → Core) (h : m ≠ n) : (s.modCore n f).coreAt m = s.coreAt m :=
  sget_smod_ne _ _ _ _ _ h
@[simp] theorem State.cluster_modCluster (s : State) (c : Nat) (f : Cluster → Cluster) :
    (s.modCluster c f).cluster c = f (s.cluster c) := sget_smod_same ..
theorem State.cluster_modCluster_ne (s : State) (c d : Nat) (f : Cluster → Cluster) (h : d ≠ c) :
    (s.modCluster c f).cluster d = s.cluster d := sget_smod_ne _ _ _ _ _ h
@[simp] theorem State.window_modWindow (s : State) (h f : Nat) (g : Window → Window) :
    (s.modWindow h f g).window h f = g (s.window h f) := sget_smod_same ..
theorem State.window_modWindow_ne (s : State) (h f h' f' : Nat) (g : Window → Window) (hn : 16 * h' + f' ≠ 16 * h + f) :
    (s.modWindow h f g).window h' f' = s.window h' f' := sget_smod_ne _ _ _ _ _ hn
@[simp] theorem State.part_modPart (s : State) (p : Nat) (f : PartState → PartState) : (s.modPart p f).part p = f (s.part p) :=
  sget_smod_same ..
theorem State.part_modPart_ne (s : State) (p q : Nat) (f : PartState → PartState) (h : q ≠ p) :
    (s.modPart p f).part q = s.part q := sget_smod_ne _ _ _ _ _ h
@[simp] theorem State.link_modLink (s : State) (d : Nat) (f : LinkDie → LinkDie) : (s.modLink d f).link d = f (s.link d) :=
  sget_smod_same ..
theorem State.link_modLink_ne (s : State) (d e : Nat) (f : LinkDie → LinkDie) (h : e ≠ d) : (s.modLink d f).link e = s.link e :=
  sget_smod_ne _ _ _ _ _ h
@[simp] theorem State.port_modPort (s : State) (d p : Nat) (f : Port → Port) : (s.modPort d p f).port d p = f (s.port d p) := by
  simp [State.port, State.modPort]
@[simp] theorem State.ctx_modCtx (s : State) (d c : Nat) (f : Context → Context) : (s.modCtx d c f).ctx d c = f (s.ctx d c) := by
  simp [State.ctx, State.modCtx]
@[simp] theorem State.stack_modStack (s : State) (m : Nat) (f : HbmStack → HbmStack) : (s.modStack m f).stack m = f (s.stack m) :=
  sget_smod_same ..
@[simp] theorem State.zone_modZone (s : State) (z : Nat) (f : Zone → Zone) : (s.modZone z f).zone z = f (s.zone z) :=
  sget_smod_same ..
@[simp] theorem State.lease_grant (s : State) (k i : Nat) (tag : BitVec 16) : (s.grant k i tag).lease k i = tag := by
  simp [State.lease, State.grant]
@[simp] theorem State.lease_release (s : State) (k i : Nat) : (s.release k i).lease k i = 0x0FFF#16 := by
  simp [State.lease, State.release]
theorem State.lease_grant_ne (s : State) (k i k' i' : Nat) (tag : BitVec 16) (h : leaseKey k' i' ≠ leaseKey k i) :
    (s.grant k i tag).lease k' i' = s.lease k' i' := by
  simp [State.lease, State.grant, sget_sput_ne _ _ _ _ _ h]
theorem State.lease_release_ne (s : State) (k i k' i' : Nat) (h : leaseKey k' i' ≠ leaseKey k i) :
    (s.release k i).lease k' i' = s.lease k' i' := by
  simp [State.lease, State.release, sget_sdel_ne _ _ _ _ h]

end Sys2Proof.Machine
end

