-- ==== Sys2Proof/Laws/Gmp.lean ====
section
/-!
SUPPORT. The common path of the mailbox commands: when a command is taken and runs its own rule, when it is refused, and
what taking its slot and answering it leave.
-/

namespace Sys2Proof.Machine

open Sys2Proof

/-- The parts of an offer. -/
theorem State.offers_iff (s : State) (h f i code need : Nat) : s.offers h f i code need = true ↔
    s.canTake h f i = true ∧ (s.readCmd h f i).code = code ∧
    (code = 1 ∨ ((s.window h f).majorXor ^^^ 1#8) = s.firmware.gmpMajor) ∧ need ≤ (s.readCmd h f i).len ∧
    (s.readCmd h f i).len ≤ 120 ∧ (s.readCmd h f i).seq ≠ 0xFFFF#16 ∧ s.long? h f (s.readCmd h f i).seq = none := by
  simp [State.offers, State.canTake, and_assoc, Option.isNone_iff_eq_none]

/-- A command that is offered, named and sent within its rights and served in the engine state passes the shared checks. -/
theorem State.refusal_none (s : State) (h f i : Nat) (row : CmdRow) (ho : s.offers h f i row.code (row.need (s.readCmd h f i)) = true)
    (hp : row.p0 = true → f = 0) (hn : row.named = true → s.mayName (s.readCmd h f i) = true)
    (hs : s.serves row.code = true) (hc : row.changes = true → s.ruled = true) (hl : row.long = true → s.longRoom f = true) :
    s.refusal row (s.readCmd h f i) = none := by
  obtain ⟨-, -, hv, hn1, hn2, hq, hf⟩ := (State.offers_iff ..).1 ho
  have hd : (s.readCmd h f i).die = h := rfl
  have hfn : (s.readCmd h f i).fn = f := rfl
  simp only [State.refusal, hd, hfn]
  rw [if_neg (by rintro ⟨a, b⟩; rcases hv with hv | hv <;> contradiction), if_neg, if_neg (by rintro ⟨a, b⟩; exact b (hp a)),
    if_neg, if_neg, if_neg (by simp [hs]), if_neg, if_neg]
  · rintro ⟨a, b⟩
    have := hl a
    simp only [State.longRoom, decide_eq_true_eq] at this
    omega
  · rintro ⟨a, b⟩
    have := hc a
    simp [State.ruled, b] at this
  · rintro ⟨a, b⟩
    have := hn a
    simp only [State.mayName, Bool.and_eq_true] at this
    simp [this.1.2] at b
  · rintro ⟨a, b, c⟩
    have := hn a
    simp only [State.mayName, Bool.and_eq_true, Bool.or_eq_true, beq_iff_eq, hfn] at this
    rcases this.1.1 with e | e <;> contradiction
  · rintro (a | a | a | a)
    · omega
    · omega
    · exact hq a
    · simp [hf] at a

/-- A command that passes the shared checks runs its own rule with its slot taken. -/
theorem State.serve_runs (s : State) (h f i : Nat) (row : CmdRow) (act : State → Cmd → State)
    (ho : s.offers h f i row.code (row.need (s.readCmd h f i)) = true) (hm : row.mine (s.readCmd h f i) = true)
    (hr : s.refusal row (s.readCmd h f i) = none) :
    s.serve h f i row act = act (s.take (s.readCmd h f i)) (s.readCmd h f i) := by
  obtain ⟨h1, h2, -⟩ := (State.offers_iff ..).1 ho
  simp only [State.serve, h1, h2, hm, hr, beq_self_eq_true, Bool.and_self, if_true]

/-- A command that a shared check refuses is answered with that check's status alone. -/
theorem State.serve_refuses (s : State) (h f i st : Nat) (row : CmdRow) (act : State → Cmd → State)
    (h1 : s.canTake h f i = true) (h2 : (s.readCmd h f i).code = row.code) (hm : row.mine (s.readCmd h f i) = true)
    (hr : s.refusal row (s.readCmd h f i) = some st) :
    s.serve h f i row act = (s.take (s.readCmd h f i)).answer (s.readCmd h f i) st := by
  simp only [State.serve, h1, h2, hm, hr, beq_self_eq_true, Bool.and_self, if_true]

/-- Changing a window leaves the others. -/
theorem State.modWindow_one (s : State) (h f : Nat) (g : Window → Window) : OneWindow s (s.modWindow h f g) h f :=
  fun k hk => sget_smod_ne _ g s.windows _ k hk

/-- The window of a taken slot. -/
theorem State.take_window (s : State) (c : Cmd) : (s.take c).window c.die c.fn = { s.window c.die c.fn with
    busy := (s.window c.die c.fn).busy &&& ~~~BitVec.ofNat 32 (2 ^ c.slot), rung := (s.window c.die c.fn).rung.drop 1 } := by
  simp [State.take]

/-- Taking a slot leaves the other windows. -/
theorem State.take_one (s : State) (c : Cmd) : OneWindow s (s.take c) c.die c.fn := by
  intro k hk
  exact sget_smod_ne (α := Window) {} (fun w => { w with busy := w.busy &&& ~~~BitVec.ofNat 32 (2 ^ c.slot), rung := w.rung.drop 1 }) s.windows (16 * c.die + c.fn) k hk

/-- A state whose windows and leases are those of a taken slot and its messages has taken it. -/
theorem Took.of (s t : State) (c : Cmd) (ms : List Msg)
    (hw : ∀ k, sget {} t.windows k = sget {} ((s.take c).modWindow c.die c.fn fun w => { w with outQ := w.outQ ++ ms }).windows k)
    (hl : t.leases = (s.take c).leases) : Took s t c.die c.fn c.slot ms := by
  refine ⟨?_, ?_, ?_, ?_⟩
  · refine (hw (16 * c.die + c.fn)).trans ?_
    show State.window _ c.die c.fn = _
    rw [State.window_modWindow, State.take_window]
    rfl
  · show sget 0#16 t.leases _ ^^^ _ = _
    rw [hl]
    exact State.lease_release ..
  · intro j hj
    rw [hw]
    exact (State.modWindow_one _ c.die c.fn _ j hj).trans (State.take_one s c j hj)
  · intro j hj
    rw [hl]
    exact sget_sdel_ne _ _ _ _ hj

/-- Taking a slot, field by field. -/
theorem State.take_eq (s : State) (c : Cmd) : s.take c = { s with windows := (s.take c).windows, leases := (s.take c).leases } := by
  unfold State.take State.modWindow State.release
  exact Eq.refl _

/-- Changing a window, field by field. -/
theorem State.modWindow_eq (s : State) (h f : Nat) (g : Window → Window) :
    s.modWindow h f g = { s with windows := (s.modWindow h f g).windows } := by
  unfold State.modWindow
  exact Eq.refl _

/-- Taking a slot and changing its window. -/
theorem State.take_mod (s : State) (c : Cmd) (h f : Nat) (g : Window → Window) :
    (s.take c).modWindow h f g = { s with windows := ((s.take c).modWindow h f g).windows, leases := (s.take c).leases } := by
  unfold State.modWindow State.take State.modWindow State.release
  exact Eq.refl _

/-- Two changes of one window, one after the other. -/
theorem State.modWindow_twice (s : State) (h f k : Nat) (g g' : Window → Window) :
    sget {} ((s.modWindow h f g).modWindow h f g').windows k = sget {} (s.modWindow h f fun w => g' (g w)).windows k := by
  by_cases e : k = 16 * h + f
  · subst e
    show State.window _ h f = State.window _ h f
    simp
  · exact ((State.modWindow_one _ h f g' k e).trans (State.modWindow_one s h f g k e)).trans (State.modWindow_one s h f _ k e).symm

/-- A reply is one more message of the window. -/
theorem State.reply_eq (s : State) (h f : Nat) (seq : BitVec 16) (code : BitVec 8) (final : Bool) (st : Nat) (payload : Bytes) :
    s.reply h f seq code final st payload = s.modWindow h f fun w => { w with outQ := w.outQ ++
      [{ seq := seq, command := code, final := final, event := false, status := BitVec.ofNat 8 st, payload := payload }] } := by
  unfold State.reply State.post
  exact Eq.refl _

/-- An answer is one message. -/
theorem State.answer_eq (s : State) (c : Cmd) (st : Nat) (payload : Bytes) :
    s.answer c st payload = s.modWindow c.die c.fn fun w => { w with outQ := w.outQ ++ [c.msg true st payload] } := by
  unfold State.answer Cmd.msg
  exact State.reply_eq ..

/-- One message answers a taken command, and nothing else differs. -/
theorem State.answer_answered (s : State) (c : Cmd) (st : Nat) (payload : Bytes) :
    Answered s ((s.take c).answer c st payload) c.die c.fn c.slot [c.msg true st payload] := by
  rw [State.answer_eq]
  exact ⟨State.take_mod .., Took.of _ _ _ _ (fun _ => Eq.refl _) (Eq.refl _)⟩

/-- ACCEPTED and the final message of a long command whose work is done. -/
theorem State.acceptDone_answered (s : State) (c : Cmd) (st : Nat) (payload : Bytes) :
    Answered s ((s.take c).acceptDone c st payload) c.die c.fn c.slot [c.msg false stAccepted [], c.msg true st payload] := by
  have e : (s.take c).acceptDone c st payload = ((s.take c).modWindow c.die c.fn fun w =>
      { w with outQ := w.outQ ++ [c.msg false stAccepted []] }).modWindow c.die c.fn fun w =>
      { w with outQ := w.outQ ++ [c.msg true st payload] } := by
    simp only [State.acceptDone, State.answer, State.reply_eq, Cmd.msg]
  rw [e]
  refine ⟨?_, Took.of _ _ _ _ (fun k => ?_) (Eq.refl _)⟩
  · rw [State.modWindow_eq, State.take_mod]
  · rw [State.modWindow_twice]
    simp only [List.append_assoc, List.singleton_append]

/-- A command left open has one message and is the last of the long commands. -/
theorem State.accept_eq (s : State) (c : Cmd) (p st : Nat) (payload : Bytes) :
    s.accept c p st payload = { s.modWindow c.die c.fn (fun w => { w with outQ := w.outQ ++ [c.msg false st payload] }) with
      longs := s.longs ++ [c.long p] } := by
  unfold State.accept
  rw [State.reply_eq]
  unfold Cmd.msg Cmd.long State.modWindow
  exact Eq.refl _

end Sys2Proof.Machine
end

