-- ==== Sys2Proof/Laws/Meanings.lean ====
section
/-!
SUPPORT. For each command, that it answers a next state, and what it leaves as it was: `Steady`, `Keeps` or `Held`
(Sys2Proof/Laws/Keeps.lean), one lemma each. PRIVATE_INSTRUCTION alone may end in a fault (R422).
-/

namespace Sys2Proof.Machine

open Sys2Proof

/-! ## Mmio -/

theorem execRegisterWrite_frame (die : Die) (fn : Fn) (bar : Bar) (off : BitVec 24) (wide : Bool) (val : BitVec 64) (s : State) : ∃ t, execRegisterWrite die fn bar off wide val s = .next t ∧ Steady s t := by
  refine ⟨_, rfl, ?_⟩
  refine Steady.ite ?_ ?_
  · refine State.mmio_steady _ _ _ fun t1 => ?_
    exact State.mmioWrite_steady ..
  · exact Steady.refl _

theorem execSplitWriteLower_frame (die : Die) (fn : Fn) (bar : Bar) (off : BitVec 24) (val : BitVec 32) (s : State) : ∃ t, execSplitWriteLower die fn bar off val s = .next t ∧ Steady s t := by
  refine ⟨_, rfl, ?_⟩
  refine Steady.ite ?_ ?_
  · refine State.mmio_steady _ _ _ fun t1 => ?_
    refine Steady.ite ?_ ?_
    · exact State.splitLower_steady ..
    · exact Steady.refl _
  · exact Steady.refl _

theorem execSplitWriteUpper_frame (die : Die) (fn : Fn) (bar : Bar) (off : BitVec 24) (val : BitVec 32) (s : State) : ∃ t, execSplitWriteUpper die fn bar off val s = .next t ∧ Steady s t := by
  refine ⟨_, rfl, ?_⟩
  refine Steady.ite ?_ ?_
  · refine State.mmio_steady _ _ _ fun t1 => ?_
    refine Steady.ite ?_ ?_
    · exact State.splitUpper_steady ..
    · exact Steady.refl _
  · exact Steady.refl _

theorem execSplitReadLower_frame (die : Die) (fn : Fn) (bar : Bar) (acc : Access) (s : State) : ∃ t, execSplitReadLower die fn bar acc s = .next t ∧ Steady s t := by
  refine ⟨_, rfl, ?_⟩
  refine Steady.ite ?_ ?_
  · exact Steady.refl _
  · refine Steady.ite ?_ ?_
    · refine Steady.trans ?_ (State.readZero_steady ..)
      exact State.violate_steady ..
    · refine Steady.ite ?_ ?_
      · exact State.read64_steady ..
      · exact State.read32_steady ..

theorem execUnhonouredMmioAccess_frame (die : Die) (_fn : Fn) (_bar : Bar) (off : BitVec 24) (bits : Nat) (write : Option (BitVec 64)) (s : State) : ∃ t, execUnhonouredMmioAccess die _fn _bar off bits write s = .next t ∧ Steady s t := by
  refine ⟨_, rfl, ?_⟩
  refine Steady.ite ?_ ?_
  · exact State.readZero_steady ..
  · exact Steady.refl _

theorem execMmioViolation_frame (die : Die) (fn : Fn) (_bar : Bar) (acc : Access) (write : Option (BitVec 64)) (s : State) : ∃ t, execMmioViolation die fn _bar acc write s = .next t ∧ Steady s t := by
  refine ⟨_, rfl, ?_⟩
  refine Steady.ite ?_ ?_
  · refine Steady.ite ?_ ?_
    · refine Steady.trans ?_ (State.readZero_steady ..)
      exact State.violate_steady ..
    · exact State.violate_steady ..
  · exact Steady.refl _

theorem execHdMbDoorbell_frame (die : Die) (fn : Fn) (val : BitVec 32) (s : State) : ∃ t, execHdMbDoorbell die fn val s = .next t ∧ Steady s t := by
  refine ⟨_, rfl, ?_⟩
  refine State.mmio_steady _ _ _ fun t1 => ?_
  exact State.doorbell_steady ..

theorem execHdMbOutAck_frame (die : Die) (fn : Fn) (val : BitVec 32) (s : State) : ∃ t, execHdMbOutAck die fn val s = .next t ∧ Steady s t := by
  refine ⟨_, rfl, ?_⟩
  refine State.mmio_steady _ _ _ fun t1 => ?_
  exact State.outAckWrite_steady ..

theorem execOutboundMessageWrite_frame (die : Die) (fn : Fn) (s : State) : ∃ t, execOutboundMessageWrite die fn s = .next t ∧ Steady s t := by
  refine ⟨_, rfl, ?_⟩
  split
  · refine Steady.ite ?_ ?_
    · exact State.modWindow_steady ..
    · exact Steady.refl _
  · exact Steady.refl _

theorem execHdViolClear_frame (die : Die) (val : BitVec 32) (s : State) : ∃ t, execHdViolClear die val s = .next t ∧ Steady s t := by
  refine ⟨_, rfl, ?_⟩
  refine Steady.ite ?_ ?_
  · exact State.violClear_steady ..
  · exact Steady.refl _

theorem execHdClassAmbigClear_frame (die : Die) (val : BitVec 32) (s : State) : ∃ t, execHdClassAmbigClear die val s = .next t ∧ Steady s t := by
  refine ⟨_, rfl, ?_⟩
  refine Steady.ite ?_ ?_
  · exact State.ambigClear_steady ..
  · exact Steady.refl _

theorem execFunctionLevelReset_frame (die : Die) (fn : Fn) (s : State) : ∃ t, execFunctionLevelReset die fn s = .next t ∧ Steady s t := by
  refine ⟨_, rfl, ?_⟩
  refine Steady.ite ?_ ?_
  · exact State.resetWindow_steady ..
  · exact Steady.refl _

theorem execPerstN_frame (pin : PerstPin) (s : State) : ∃ t, execPerstN pin s = .next t ∧ Steady s t := by
  refine ⟨_, rfl, ?_⟩
  refine Steady.ite ?_ ?_
  · refine Steady.each ?_ _ fun t1 _ => ?_
    · exact ⟨⟨⟨rfl, rfl, id⟩, rfl, rfl, rfl, rfl, rfl, rfl, rfl, rfl⟩, rfl, rfl, rfl, rfl⟩
    · exact State.resetWindow_steady ..
  · exact ⟨⟨⟨rfl, rfl, id⟩, rfl, rfl, rfl, rfl, rfl, rfl, rfl, rfl⟩, rfl, rfl, rfl, rfl⟩

theorem execRingEnable_frame (die : Die) (fn : Fn) (ring : Fin 7) (val : BitVec 32) (s : State) : ∃ t, execRingEnable die fn ring val s = .next t ∧ Steady s t := by
  refine ⟨_, rfl, ?_⟩
  refine State.mmio_steady _ _ _ fun t1 => ?_
  exact State.modWindow_steady ..

theorem execRingDisable_frame (die : Die) (fn : Fn) (ring : Fin 7) (val : BitVec 32) (s : State) : ∃ t, execRingDisable die fn ring val s = .next t ∧ Steady s t := by
  refine ⟨_, rfl, ?_⟩
  refine State.mmio_steady _ _ _ fun t1 => ?_
  exact State.modWindow_steady ..

theorem execHdSqTail_frame (die : Die) (fn : Fn) (ring : Fin 7) (val : BitVec 32) (s : State) : ∃ t, execHdSqTail die fn ring val s = .next t ∧ Steady s t := by
  refine ⟨_, rfl, ?_⟩
  refine State.mmio_steady _ _ _ fun t1 => ?_
  exact State.sqTailWrite_steady ..

theorem execHdCqHead_frame (die : Die) (fn : Fn) (ring : Fin 7) (val : BitVec 32) (s : State) : ∃ t, execHdCqHead die fn ring val s = .next t ∧ Steady s t := by
  refine ⟨_, rfl, ?_⟩
  refine State.mmio_steady _ _ _ fun t1 => ?_
  exact State.modWindow_steady ..

theorem execDmaQueueEnable_frame (die : Die) (fn : Fn) (val : BitVec 32) (s : State) : ∃ t, execDmaQueueEnable die fn val s = .next t ∧ Steady s t := by
  refine ⟨_, rfl, ?_⟩
  refine State.mmio_steady _ _ _ fun t1 => ?_
  exact State.modWindow_steady ..

theorem execDmaQueueDisable_frame (die : Die) (fn : Fn) (val : BitVec 32) (s : State) : ∃ t, execDmaQueueDisable die fn val s = .next t ∧ Steady s t := by
  refine ⟨_, rfl, ?_⟩
  refine State.mmio_steady _ _ _ fun t1 => ?_
  exact State.modWindow_steady ..

theorem execHdDmaTail_frame (die : Die) (fn : Fn) (val : BitVec 32) (s : State) : ∃ t, execHdDmaTail die fn val s = .next t ∧ Steady s t := by
  refine ⟨_, rfl, ?_⟩
  refine State.mmio_steady _ _ _ fun t1 => ?_
  exact State.modWindow_steady ..

theorem execFwReady_frame (die : Die) (fn : Fn) (s : State) : ∃ t, execFwReady die fn s = .next t ∧ Steady s t := by
  refine ⟨_, rfl, ?_⟩
  refine Steady.ite ?_ ?_
  · exact State.modWindow_steady ..
  · exact Steady.refl _

/-! ## Gmp -/

theorem execCommandReservedCode_frame (die : Die) (fn : Fn) (slot : Fin 32) (s : State) : ∃ t, execCommandReservedCode die fn slot s = .next t ∧ Steady s t := by
  refine ⟨_, rfl, ?_⟩
  refine Steady.ite ?_ ?_
  · refine Steady.trans ?_ (State.answer_steady ..)
    exact State.take_steady ..
  · exact Steady.refl _

/-! ## Partitions -/

theorem execPartCreate_frame (die : Die) (fn : Fn) (slot : Fin 32) (s : State) : ∃ t, execPartCreate die fn slot s = .next t ∧ Steady s t := by
  refine ⟨_, rfl, ?_⟩
  refine State.serve_steady _ _ _ _ _ fun t1 _ => ?_
  exact State.partCreate_steady ..

theorem execPartCreateBuild_frame (part : Part) (s : State) : ∃ t, execPartCreateBuild part s = .next t ∧ Steady s t := by
  refine ⟨_, rfl, ?_⟩
  exact State.partBuilt_steady ..

theorem execPartDestroy_frame (die : Die) (fn : Fn) (slot : Fin 32) (s : State) : ∃ t, execPartDestroy die fn slot s = .next t ∧ Held s t := by
  refine ⟨_, rfl, ?_⟩
  refine State.serve_held _ _ _ _ _ fun t1 _ => ?_
  exact State.partDestroy_held ..

theorem execPartDestroyFinish_frame (part : Part) (s : State) : ∃ t, execPartDestroyFinish part s = .next t ∧ Steady s t := by
  refine ⟨_, rfl, ?_⟩
  exact State.partDestroyed_steady ..

theorem execPartQuery_frame (die : Die) (fn : Fn) (slot : Fin 32) (s : State) : ∃ t, execPartQuery die fn slot s = .next t ∧ Steady s t := by
  refine ⟨_, rfl, ?_⟩
  refine State.serve_steady _ _ _ _ _ fun t1 _ => ?_
  exact State.partQuery_steady ..

theorem execPartReset_frame (die : Die) (fn : Fn) (slot : Fin 32) (s : State) : ∃ t, execPartReset die fn slot s = .next t ∧ Held s t := by
  refine ⟨_, rfl, ?_⟩
  refine State.serve_held _ _ _ _ _ fun t1 _ => ?_
  exact State.partReset_held ..

/-! ## Control -/

theorem execEngineInfo_frame (die : Die) (fn : Fn) (slot : Fin 32) (s : State) : ∃ t, execEngineInfo die fn slot s = .next t ∧ Steady s t := by
  refine ⟨_, rfl, ?_⟩
  refine State.serve_steady _ _ _ _ _ fun t1 _ => ?_
  exact State.answer_steady ..

theorem execEngineState_frame (die : Die) (fn : Fn) (slot : Fin 32) (s : State) : ∃ t, execEngineState die fn slot s = .next t ∧ Steady s t := by
  refine ⟨_, rfl, ?_⟩
  refine State.serve_steady _ _ _ _ _ fun t1 _ => ?_
  exact State.answer_steady ..

theorem execEngineResume_frame (die : Die) (fn : Fn) (slot : Fin 32) (s : State) : ∃ t, execEngineResume die fn slot s = .next t ∧ Keeps s t := by
  refine ⟨_, rfl, ?_⟩
  refine State.serve_keeps _ _ _ _ _ fun t1 _ => ?_
  exact State.engineResume_keeps ..

theorem execEngineStandby_frame (die : Die) (fn : Fn) (slot : Fin 32) (s : State) : ∃ t, execEngineStandby die fn slot s = .next t ∧ Steady s t := by
  refine ⟨_, rfl, ?_⟩
  refine State.serve_steady _ _ _ _ _ fun t1 _ => ?_
  exact State.engineStandby_steady ..

theorem execQueueConfigQueueSetting_frame (die : Die) (fn : Fn) (slot : Fin 32) (s : State) : ∃ t, execQueueConfigQueueSetting die fn slot s = .next t ∧ Steady s t := by
  refine ⟨_, rfl, ?_⟩
  refine State.serve_steady _ _ _ _ _ fun t1 _ => ?_
  exact State.queueSetting_steady ..

theorem execQueueConfigRuleWrite_frame (die : Die) (fn : Fn) (slot : Fin 32) (s : State) : ∃ t, execQueueConfigRuleWrite die fn slot s = .next t ∧ Steady s t := by
  refine ⟨_, rfl, ?_⟩
  refine State.serve_steady _ _ _ _ _ fun t1 _ => ?_
  exact State.ruleWrite_steady ..

theorem execQueueStats_frame (die : Die) (fn : Fn) (slot : Fin 32) (s : State) : ∃ t, execQueueStats die fn slot s = .next t ∧ Steady s t := by
  refine ⟨_, rfl, ?_⟩
  refine State.serve_steady _ _ _ _ _ fun t1 _ => ?_
  exact State.queueStats_steady ..

theorem execTestRun_frame (die : Die) (fn : Fn) (slot : Fin 32) (s : State) : ∃ t, execTestRun die fn slot s = .next t ∧ Steady s t := by
  refine ⟨_, rfl, ?_⟩
  refine State.serve_steady _ _ _ _ _ fun t1 _ => ?_
  exact State.testRun_steady ..

theorem execTestRunStart_frame (part : Part) (s : State) : ∃ t, execTestRunStart part s = .next t ∧ Steady s t := by
  refine ⟨_, rfl, ?_⟩
  exact State.testStart_steady ..

theorem execTestDeferTimeout_frame (part : Part) (s : State) : ∃ t, execTestDeferTimeout part s = .next t ∧ Steady s t := by
  refine ⟨_, rfl, ?_⟩
  exact State.testTimeout_steady ..

theorem execTestRunDone_frame (part : Part) (failed : List (Cl × LCore)) (s : State) : ∃ t, execTestRunDone part failed s = .next t ∧ Steady s t := by
  refine ⟨_, rfl, ?_⟩
  exact State.testDone_steady ..

theorem execCalRun_frame (die : Die) (fn : Fn) (slot : Fin 32) (s : State) : ∃ t, execCalRun die fn slot s = .next t ∧ Steady s t := by
  refine ⟨_, rfl, ?_⟩
  refine State.serve_steady _ _ _ _ _ fun t1 _ => ?_
  exact State.calRun_steady ..

theorem execCalRunStart_frame (s : State) : ∃ t, execCalRunStart s = .next t ∧ Steady s t := by
  refine ⟨_, rfl, ?_⟩
  exact State.calStart_steady ..

theorem execCalRunDone_frame (failed : BitVec 4) (s : State) : ∃ t, execCalRunDone failed s = .next t ∧ Steady s t := by
  refine ⟨_, rfl, ?_⟩
  exact State.calDone_steady ..

theorem execMaintWindowRead_frame (die : Die) (fn : Fn) (slot : Fin 32) (s : State) : ∃ t, execMaintWindowRead die fn slot s = .next t ∧ Steady s t := by
  refine ⟨_, rfl, ?_⟩
  refine State.serve_steady _ _ _ _ _ fun t1 _ => ?_
  exact State.maintOp_steady _ _ _ _ (Steady.refl _)

theorem execMaintWindowOpen_frame (die : Die) (fn : Fn) (slot : Fin 32) (s : State) : ∃ t, execMaintWindowOpen die fn slot s = .next t ∧ Steady s t := by
  refine ⟨_, rfl, ?_⟩
  refine State.serve_steady _ _ _ _ _ fun t1 _ => ?_
  exact State.maintOp_steady _ _ _ _ (State.maintOpenOp_steady ..)

theorem execMaintWindowClose_frame (die : Die) (fn : Fn) (slot : Fin 32) (s : State) : ∃ t, execMaintWindowClose die fn slot s = .next t ∧ Steady s t := by
  refine ⟨_, rfl, ?_⟩
  refine State.serve_steady _ _ _ _ _ fun t1 _ => ?_
  exact State.maintOp_steady _ _ _ _ (State.maintClose_steady ..)

theorem execMaintWindowSetDeferral_frame (die : Die) (fn : Fn) (slot : Fin 32) (s : State) : ∃ t, execMaintWindowSetDeferral die fn slot s = .next t ∧ Steady s t := by
  refine ⟨_, rfl, ?_⟩
  refine State.serve_steady _ _ _ _ _ fun t1 _ => ?_
  exact State.maintOp_steady _ _ _ _ ⟨⟨⟨rfl, rfl, id⟩, rfl, rfl, rfl, rfl, rfl, rfl, rfl, rfl⟩, rfl, rfl, rfl, rfl⟩

theorem execMaintWindowOpened_frame (s : State) : ∃ t, execMaintWindowOpened s = .next t ∧ Steady s t := by
  refine ⟨_, rfl, ?_⟩
  exact State.maintOpened_steady ..

theorem execMaintWindowExpiry_frame (s : State) : ∃ t, execMaintWindowExpiry s = .next t ∧ Steady s t := by
  refine ⟨_, rfl, ?_⟩
  exact State.maintExpire_steady ..

theorem execPowerPolicyRead_frame (die : Die) (fn : Fn) (slot : Fin 32) (s : State) : ∃ t, execPowerPolicyRead die fn slot s = .next t ∧ Steady s t := by
  refine ⟨_, rfl, ?_⟩
  refine State.serve_steady _ _ _ _ _ fun t1 _ => ?_
  refine Steady.ite ?_ ?_
  · exact State.answer_steady ..
  · exact State.answer_steady ..

theorem execPowerPolicySet_frame (die : Die) (fn : Fn) (slot : Fin 32) (s : State) : ∃ t, execPowerPolicySet die fn slot s = .next t ∧ Steady s t := by
  refine ⟨_, rfl, ?_⟩
  refine State.serve_steady _ _ _ _ _ fun t1 _ => ?_
  refine Steady.ite ?_ ?_
  · exact State.answer_steady ..
  · refine Steady.trans ?_ (State.answer_steady ..)
    exact State.setPolicy_steady ..

theorem execPowerIdleQuery_frame (die : Die) (fn : Fn) (slot : Fin 32) (s : State) : ∃ t, execPowerIdleQuery die fn slot s = .next t ∧ Steady s t := by
  refine ⟨_, rfl, ?_⟩
  refine State.serve_steady _ _ _ _ _ fun t1 _ => ?_
  refine State.idleOp_steady _ _ _ fun t2 _ => ?_
  exact Steady.refl _

theorem execPowerIdlePark_frame (die : Die) (fn : Fn) (slot : Fin 32) (s : State) : ∃ t, execPowerIdlePark die fn slot s = .next t ∧ Steady s t := by
  refine ⟨_, rfl, ?_⟩
  refine State.serve_steady _ _ _ _ _ fun t1 _ => ?_
  refine State.idleOp_steady _ _ _ fun t2 _ => ?_
  exact State.parkPart_steady ..

theorem execPowerIdleUnpark_frame (die : Die) (fn : Fn) (slot : Fin 32) (s : State) : ∃ t, execPowerIdleUnpark die fn slot s = .next t ∧ Steady s t := by
  refine ⟨_, rfl, ?_⟩
  refine State.serve_steady _ _ _ _ _ fun t1 _ => ?_
  refine State.idleOp_steady _ _ _ fun t2 _ => ?_
  exact State.unpark_steady ..

theorem execFaultLog_frame (die : Die) (fn : Fn) (rep : Reporting (Fin 32)) (s : State) : ∃ t, execFaultLog die fn rep s = .next t ∧ Steady s t := by
  refine ⟨_, rfl, ?_⟩
  refine State.serve_steady _ _ _ _ _ fun t1 _ => ?_
  exact State.faultLog_steady ..

theorem execSeize_frame (die : Die) (fn : Fn) (slot : Fin 32) (s : State) : ∃ t, execSeize die fn slot s = .next t ∧ Steady s t := by
  refine ⟨_, rfl, ?_⟩
  refine State.serve_steady _ _ _ _ _ fun t1 _ => ?_
  exact State.seizeCmd_steady ..

/-! ## Serving -/

theorem execFetch_frame (die : Die) (fn : Fn) (ring : Fin 7) (desc : Bytes) (s : State) : ∃ t, execFetch die fn ring desc s = .next t ∧ Steady s t := by
  refine ⟨_, rfl, ?_⟩
  refine Steady.ite ?_ ?_
  · refine Steady.trans ?_ (State.fetchDesc_steady ..)
    refine Steady.trans ?_ (State.modPart_steady ..)
    exact State.tookTurn_steady ..
  · exact Steady.refl _

theorem execReady_frame (part : Part) (req : Nat) (input : Bytes) (s : State) : ∃ t, execReady part req input s = .next t ∧ Steady s t := by
  refine ⟨_, rfl, ?_⟩
  split
  · refine Steady.ite ?_ ?_
    · exact State.landInput_steady ..
    · exact Steady.refl _
  · exact Steady.refl _

theorem execIngressTimeout_frame (part : Part) (req : Nat) (s : State) : ∃ t, execIngressTimeout part req s = .next t ∧ Steady s t := by
  refine ⟨_, rfl, ?_⟩
  split
  · refine Steady.ite ?_ ?_
    · exact State.ingressLate_steady ..
    · exact Steady.refl _
  · exact Steady.refl _

theorem execStart_frame (part : Part) (s : State) : ∃ t, execStart part s = .next t ∧ Steady s t := by
  refine ⟨_, rfl, ?_⟩
  split
  · split
    · split
      · refine Steady.ite ?_ ?_
        · exact State.startRun_steady ..
        · exact Steady.refl _
      · exact Steady.refl _
    · exact Steady.refl _
  · exact Steady.refl _

theorem execEndRun_frame (part : Part) (s : State) : ∃ t, execEndRun part s = .next t ∧ Steady s t := by
  refine ⟨_, rfl, ?_⟩
  split
  · refine Steady.ite ?_ ?_
    · exact State.endOfRun_steady ..
    · exact Steady.refl _
  · exact Steady.refl _

theorem execEgressComplete_frame (part : Part) (req : Nat) (double : Found (Option Nat)) (s : State) : ∃ t, execEgressComplete part req double s = .next t ∧ Steady s t := by
  refine ⟨_, rfl, ?_⟩
  split
  · extract_lets -underBinder +onlyGivenNames x1
    have hx1 : Steady s x1 := by
      subst x1
      exact State.hbmSingles_steady ..
    clear_value x1
    refine Steady.ite ?_ ?_
    · split
      · exact hx1.trans (State.egress_steady ..)
      · exact hx1.trans (State.egressFault_steady ..)
    · exact Steady.refl _
  · exact Steady.refl _

theorem execCompletionWrite_frame (die : Die) (fn : Fn) (ring : Fin 7) (s : State) : ∃ t, execCompletionWrite die fn ring s = .next t ∧ Steady s t := by
  refine ⟨_, rfl, ?_⟩
  split
  · refine Steady.ite ?_ ?_
    · exact State.writeRecord_steady ..
    · exact Steady.refl _
  · exact Steady.refl _

/-! ## Fabric -/

theorem execWordArrival_frame (cl : Cl) (core : LCore) (net : Net) (port : Dir) (s : State) : ∃ t, execWordArrival cl core net port s = .next t ∧ Steady s t := by
  refine ⟨_, rfl, ?_⟩
  refine Steady.ite ?_ ?_
  · exact State.arrive_steady ..
  · exact Steady.refl _

theorem execQueueWordDepart_frame (cl : Cl) (core : LCore) (net : Net) (port : Dir) (s : State) : ∃ t, execQueueWordDepart cl core net port s = .next t ∧ Steady s t := by
  refine ⟨_, rfl, ?_⟩
  refine Steady.ite ?_ ?_
  · exact State.depart_steady ..
  · exact Steady.refl _

theorem execCreditReturn_frame (cl : Cl) (core : LCore) (net : Net) (out : Dir) (s : State) : ∃ t, execCreditReturn cl core net out s = .next t ∧ Steady s t := by
  refine ⟨_, rfl, ?_⟩
  refine Steady.ite ?_ ?_
  · exact State.credit_steady ..
  · exact Steady.refl _

/-! ## Exec -/

theorem execFireWord_frame (cl : Cl) (core : LCore) (ecc : Ecc) (s : State) : ∃ t, execFireWord cl core ecc s = .next t ∧ Steady s t := by
  refine ⟨_, rfl, ?_⟩
  refine State.issue_steady _ _ _ _ _ fun t1 => ?_
  exact State.fire_steady ..

theorem execSetWord_frame (cl : Cl) (core : LCore) (ecc : Ecc) (s : State) : ∃ t, execSetWord cl core ecc s = .next t ∧ Steady s t := by
  refine ⟨_, rfl, ?_⟩
  refine State.issue_steady _ _ _ _ _ fun t1 => ?_
  exact State.modCore_steady ..

theorem execWait_frame (cl : Cl) (core : LCore) (ecc : Ecc) (s : State) : ∃ t, execWait cl core ecc s = .next t ∧ Steady s t := by
  refine ⟨_, rfl, ?_⟩
  refine State.issue_steady _ _ _ _ _ fun t1 => ?_
  exact State.modCore_steady ..

theorem execWaitEnd_frame (cl : Cl) (core : LCore) (s : State) : ∃ t, execWaitEnd cl core s = .next t ∧ Steady s t := by
  refine ⟨_, rfl, ?_⟩
  refine Steady.ite ?_ ?_
  · exact State.modCore_steady ..
  · exact Steady.refl _

theorem execHalt_frame (cl : Cl) (core : LCore) (ecc : Ecc) (s : State) : ∃ t, execHalt cl core ecc s = .next t ∧ Steady s t := by
  refine ⟨_, rfl, ?_⟩
  refine State.issue_steady _ _ _ _ _ fun t1 => ?_
  exact State.modCore_steady ..

theorem execLoop_frame (cl : Cl) (core : LCore) (ecc : Ecc) (s : State) : ∃ t, execLoop cl core ecc s = .next t ∧ Steady s t := by
  refine ⟨_, rfl, ?_⟩
  refine State.issue_steady _ _ _ _ _ fun t1 => ?_
  exact State.modCore_steady ..

theorem execAccumulatorUpdate_frame (cl : Cl) (core : LCore) (s : State) : ∃ t, execAccumulatorUpdate cl core s = .next t ∧ Steady s t := by
  refine ⟨_, rfl, ?_⟩
  exact State.landing_steady ..

theorem execGangAccumulatorUpdate_frame (cl : Cl) (k : Fin 16) (s : State) : ∃ t, execGangAccumulatorUpdate cl k s = .next t ∧ Steady s t := by
  refine ⟨_, rfl, ?_⟩
  exact State.gangUpdate_steady ..

theorem execDrainWrite_frame (cl : Cl) (core : LCore) (s : State) : ∃ t, execDrainWrite cl core s = .next t ∧ Steady s t := by
  refine ⟨_, rfl, ?_⟩
  exact State.drainWrite_steady ..

theorem execVectorResultWrite_frame (cl : Cl) (core : LCore) (s : State) : ∃ t, execVectorResultWrite cl core s = .next t ∧ Steady s t := by
  refine ⟨_, rfl, ?_⟩
  exact State.landing_steady ..

theorem execScalarResultWrite_frame (cl : Cl) (core : LCore) (s : State) : ∃ t, execScalarResultWrite cl core s = .next t ∧ Steady s t := by
  refine ⟨_, rfl, ?_⟩
  exact State.landing_steady ..

theorem execWeightLoadLand_frame (cl : Cl) (core : LCore) (s : State) : ∃ t, execWeightLoadLand cl core s = .next t ∧ Steady s t := by
  refine ⟨_, rfl, ?_⟩
  exact State.landing_steady ..

theorem execScaleLoadLand_frame (cl : Cl) (core : LCore) (s : State) : ∃ t, execScaleLoadLand cl core s = .next t ∧ Steady s t := by
  refine ⟨_, rfl, ?_⟩
  exact State.landing_steady ..

theorem execCoreHalted_frame (cl : Cl) (core : LCore) (s : State) : ∃ t, execCoreHalted cl core s = .next t ∧ Steady s t := by
  refine ⟨_, rfl, ?_⟩
  exact State.coreHalt_steady ..

theorem execHoldEnd_frame (cl : Cl) (core : LCore) (s : State) : ∃ t, execHoldEnd cl core s = .next t ∧ Steady s t := by
  refine ⟨_, rfl, ?_⟩
  exact State.holdEnds_steady ..

theorem execWatchdogTrip_frame (cl : Cl) (core : LCore) (s : State) : ∃ t, execWatchdogTrip cl core s = .next t ∧ Steady s t := by
  refine ⟨_, rfl, ?_⟩
  exact State.trip_steady ..

/-! ## Strings -/

theorem execRegRead_frame (hdr : Hdr) (reg : StrReg) (s : State) : ∃ t, execRegRead hdr reg s = .next t ∧ Steady s t := by
  refine ⟨_, rfl, ?_⟩
  refine State.frame_steady _ _ fun t1 _ => ?_
  refine Steady.ite ?_ ?_
  · refine State.toNode_steady _ _ _ fun t2 => ?_
    exact State.sendReply_steady ..
  · refine Steady.ite ?_ ?_
    · exact Steady.refl _
    · exact State.toCores_steady ..

theorem execRegWrite_frame (hdr : Hdr) (reg : StrReg) (val : BitVec 64) (s : State) : ∃ t, execRegWrite hdr reg val s = .next t ∧ Steady s t := by
  refine ⟨_, rfl, ?_⟩
  refine State.frame_steady _ _ fun t1 _ => ?_
  refine Steady.ite ?_ ?_
  · refine State.toNode_steady _ _ _ fun t2 => ?_
    refine Steady.ite ?_ ?_
    · exact State.modCluster_steady ..
    · exact Steady.refl _
  · refine Steady.ite ?_ ?_
    · exact Steady.refl _
    · exact State.toCores_steady ..

theorem execRegReply_frame (hdr : Hdr) (reg : StrReg) (s : State) : ∃ t, execRegReply hdr reg s = .next t ∧ Steady s t := by
  refine ⟨_, rfl, ?_⟩
  split
  · extract_lets -underBinder +onlyGivenNames x1
    have hx1 : Steady s x1 := by
      subst x1
      exact ⟨⟨⟨rfl, rfl, id⟩, rfl, rfl, rfl, rfl, rfl, rfl, rfl, rfl⟩, rfl, rfl, rfl, rfl⟩
    clear_value x1
    split
    · exact hx1.trans (State.modCluster_steady ..)
    · exact hx1
  · exact Steady.refl _

theorem execSlotData_frame (hdr : Hdr) (slot : Fin 4) (first : Nat) (rows : BitVec 16) (cols : BitVec 16) (words : List (BitVec 64)) (s : State) : ∃ t, execSlotData hdr slot first rows cols words s = .next t ∧ Steady s t := by
  refine ⟨_, rfl, ?_⟩
  refine State.frame_steady _ _ fun t1 _ => ?_
  refine Steady.ite ?_ ?_
  · exact Steady.refl _
  · exact State.toCores_steady ..

theorem execStoreData_frame (hdr : Hdr) (place : Fin 16) (first : Nat) (words : List (BitVec 64)) (s : State) : ∃ t, execStoreData hdr place first words s = .next t ∧ Steady s t := by
  refine ⟨_, rfl, ?_⟩
  refine State.frame_steady _ _ fun t1 _ => ?_
  exact State.modCluster_steady ..

theorem execFwMsg_frame (hdr : Hdr) (s : State) : ∃ t, execFwMsg hdr s = .next t ∧ Steady s t := by
  refine ⟨_, rfl, ?_⟩
  refine State.frame_steady _ _ fun t1 _ => ?_
  refine State.toNode_steady _ _ _ fun t2 => ?_
  exact Steady.refl _

theorem execFwUrgent_frame (hdr : Hdr) (msg : Urgent) (s : State) : ∃ t, execFwUrgent hdr msg s = .next t ∧ Steady s t := by
  refine ⟨_, rfl, ?_⟩
  split
  · refine State.frame_steady _ _ fun t1 _ => ?_
    refine State.toNode_steady _ _ _ fun t2 => ?_
    exact State.haltReport_steady ..
  · refine Steady.ite ?_ ?_
    · exact State.heartbeatAnswer_steady ..
    · exact Steady.refl _
  · refine State.frame_steady _ _ fun t3 _ => ?_
    refine State.toNode_steady _ _ _ fun t4 => ?_
    exact Steady.refl _

theorem execCoreEvent_frame (cl : Cl) (core : LCore) (s : State) : ∃ t, execCoreEvent cl core s = .next t ∧ Steady s t := by
  refine ⟨_, rfl, ?_⟩
  exact State.coreEvent_steady ..

theorem execViol_frame (cl : Cl) (s : State) : ∃ t, execViol cl s = .next t ∧ Steady s t := by
  refine ⟨_, rfl, ?_⟩
  refine Steady.ite ?_ ?_
  · exact State.sendViol_steady ..
  · exact Steady.refl _

theorem execNoTarget_frame (hdr : Hdr) (s : State) : ∃ t, execNoTarget hdr s = .next t ∧ Steady s t := by
  refine ⟨_, rfl, ?_⟩
  split
  · extract_lets -underBinder +onlyGivenNames x1
    have hx1 : Steady s x1 := by
      subst x1
      exact ⟨⟨⟨rfl, rfl, id⟩, rfl, rfl, rfl, rfl, rfl, rfl, rfl, rfl⟩, rfl, rfl, rfl, rfl⟩
    clear_value x1
    split
    · exact hx1.trans (State.modCluster_steady ..)
    · exact hx1
  · exact Steady.refl _

theorem execStringsReservedFrame_frame (cl : Cl) (s : State) : ∃ t, execStringsReservedFrame cl s = .next t ∧ Steady s t := by
  refine ⟨_, rfl, ?_⟩
  refine Steady.ite ?_ ?_
  · exact State.modCluster_steady ..
  · exact Steady.refl _

theorem execFlitParityError_frame (cl : Cl) (dir : Dir) (resends : Nat) (failed : Bool) (s : State) : ∃ t, execFlitParityError cl dir resends failed s = .next t ∧ Steady s t := by
  refine ⟨_, rfl, ?_⟩
  extract_lets -underBinder +onlyGivenNames y1
  clear_value y1
  extract_lets -underBinder +onlyGivenNames x2
  have hx2 : Steady s x2 := by
    subst x2
    exact State.modCluster_steady ..
  clear_value x2
  refine Steady.ite ?_ ?_
  · exact Steady.refl _
  · refine Steady.ite ?_ ?_
    · refine Steady.trans ?_ (State.log_steady ..)
      exact hx2.trans (State.modCluster_steady ..)
    · exact hx2

theorem execScanCtl_frame (hdr : Hdr) (s : State) : ∃ t, execScanCtl hdr s = .next t ∧ Steady s t := by
  refine ⟨_, rfl, ?_⟩
  refine State.frame_steady _ _ fun t1 _ => ?_
  refine State.toNode_steady _ _ _ fun t2 => ?_
  exact State.scanCtl_steady ..

theorem execScanTimeout_frame (cl : Cl) (s : State) : ∃ t, execScanTimeout cl s = .next t ∧ Steady s t := by
  refine ⟨_, rfl, ?_⟩
  refine Steady.ite ?_ ?_
  · exact State.scanLost_steady ..
  · exact Steady.refl _

theorem execSeizeFrame_frame (hdr : Hdr) (kind : BitVec 4) (index : BitVec 16) (tag : BitVec 16) (s : State) : ∃ t, execSeizeFrame hdr kind index tag s = .next t ∧ Steady s t := by
  refine ⟨_, rfl, ?_⟩
  refine State.frame_steady _ _ fun t1 _ => ?_
  refine Steady.ite ?_ ?_
  · exact State.toCores_steady ..
  · exact State.seizeAt_steady ..

theorem execSlotSwitch_frame (part : Part) (s : State) : ∃ t, execSlotSwitch part s = .next t ∧ Steady s t := by
  refine ⟨_, rfl, ?_⟩
  refine Steady.ite ?_ ?_
  · exact State.slotSwitch_steady ..
  · exact Steady.refl _

theorem execSwitchCclk_frame (part : Part) (s : State) : ∃ t, execSwitchCclk part s = .next t ∧ Steady s t := by
  refine ⟨_, rfl, ?_⟩
  split
  · exact Steady.refl _
  · split
    · split
      · refine Steady.ite ?_ ?_
        · exact State.switchNow_steady ..
        · exact Steady.refl _
      · exact Steady.refl _
    · exact Steady.refl _

theorem execReloadComplete_frame (part : Part) (load : Nat) (s : State) : ∃ t, execReloadComplete part load s = .next t ∧ Steady s t := by
  refine ⟨_, rfl, ?_⟩
  refine Steady.ite ?_ ?_
  · exact State.reloaded_steady ..
  · exact Steady.refl _

/-! ## Hbm -/

theorem execChannelLineWrite_frame (cl : Cl) (core : LCore) (s : State) : ∃ t, execChannelLineWrite cl core s = .next t ∧ Steady s t := by
  refine ⟨_, rfl, ?_⟩
  refine Steady.ite ?_ ?_
  · exact Steady.refl _
  · split
    · exact State.portWrite_steady ..
    · exact Steady.refl _

theorem execCoreToHbmRead_frame (cl : Cl) (core : LCore) (ecc : Ecc) (s : State) : ∃ t, execCoreToHbmRead cl core ecc s = .next t ∧ Steady s t := by
  refine ⟨_, rfl, ?_⟩
  refine Steady.ite ?_ ?_
  · exact Steady.refl _
  · split
    · exact State.portRead_steady ..
    · exact Steady.refl _

theorem execCoreToHbmForcedRead_frame (cl : Cl) (core : LCore) (ecc : Ecc) (s : State) :
    ∃ t, execCoreToHbmForcedRead cl core ecc s = .next t ∧ Steady s t := by
  refine ⟨_, rfl, ?_⟩
  refine Steady.ite (Steady.refl _) ?_
  split
  · refine Steady.trans ?_ (State.portRead_steady ..)
    cases h : s.holdNow cl.val core.val with
    | none => exact Steady.refl _
    | some t => exact State.holdNow_steady _ _ _ _ h
  · exact Steady.refl _

theorem execHbmSlotTransfer_frame (part : Part) (rec : Nat) (line : Nat) (ecc : HbmEcc) (s : State) : ∃ t, execHbmSlotTransfer part rec line ecc s = .next t ∧ Steady s t := by
  refine ⟨_, rfl, ?_⟩
  refine Steady.ite ?_ ?_
  · exact State.slotTransfer_steady ..
  · exact Steady.refl _

theorem execHbmRefresh_frame (_stack : Stack) (s : State) : ∃ t, execHbmRefresh _stack s = .next t ∧ Steady s t := by
  refine ⟨_, rfl, ?_⟩
  exact Steady.refl _

theorem execHbmScrub_frame (line : Nat) (ecc : HbmEcc) (cancelled : Bool) (s : State) : ∃ t, execHbmScrub line ecc cancelled s = .next t ∧ Steady s t := by
  refine ⟨_, rfl, ?_⟩
  refine Steady.ite ?_ ?_
  · exact Steady.refl _
  · split
    · exact Steady.refl _
    · exact State.hbmSingle_steady ..
    · exact State.hbmDouble_steady ..

theorem execHbmTempRead_frame (stack : Stack) (celsius : Nat) (s : State) : ∃ t, execHbmTempRead stack celsius s = .next t ∧ Steady s t := by
  refine ⟨_, rfl, ?_⟩
  refine Steady.ite ?_ ?_
  · exact State.modStack_steady ..
  · exact Steady.refl _

theorem execDmaDescriptorFetch_frame (die : Die) (fn : Fn) (desc : Bytes) (s : State) : ∃ t, execDmaDescriptorFetch die fn desc s = .next t ∧ Steady s t := by
  refine ⟨_, rfl, ?_⟩
  refine Steady.ite ?_ ?_
  · exact State.dmaFetch_steady ..
  · exact Steady.refl _

theorem execDmaTransferComplete_frame (die : Die) (fn : Fn) (source : Bytes) (how : Found DmaEnd) (s : State) : ∃ t, execDmaTransferComplete die fn source how s = .next t ∧ Steady s t := by
  refine ⟨_, rfl, ?_⟩
  refine Steady.ite ?_ ?_
  · exact State.dmaDone_steady ..
  · exact Steady.refl _

theorem execDump_frame (die : Die) (fn : Fn) (slot : Fin 32) (s : State) : ∃ t, execDump die fn slot s = .next t ∧ Steady s t := by
  refine ⟨_, rfl, ?_⟩
  refine State.serve_steady _ _ _ _ _ fun t1 _ => ?_
  exact State.dumpCmd_steady ..

theorem execDumpDone_frame (doubles : Found (List Nat)) (s : State) : ∃ t, execDumpDone doubles s = .next t ∧ Keeps s t := by
  refine ⟨_, rfl, ?_⟩
  exact State.dumpEnd_keeps ..

/-! ## Links -/

theorem execGlpCycleStart_frame (ld : LDie) (port : Fin 3) (s : State) : ∃ t, execGlpCycleStart ld port s = .next t ∧ Steady s t := by
  refine ⟨_, rfl, ?_⟩
  exact State.cycleStart_steady ..

theorem execPortUp_frame (ld : LDie) (port : Fin 3) (train : PortTrain) (s : State) : ∃ t, execPortUp ld port train s = .next t ∧ Steady s t := by
  refine ⟨_, rfl, ?_⟩
  refine Steady.ite ?_ ?_
  · exact State.trainPort_steady ..
  · exact Steady.refl _

theorem execPortDown_frame (ld : LDie) (port : Fin 3) (s : State) : ∃ t, execPortDown ld port s = .next t ∧ Steady s t := by
  refine ⟨_, rfl, ?_⟩
  refine Steady.ite ?_ ?_
  · exact State.dropPort_steady ..
  · exact Steady.refl _

theorem execSync_frame (ld : LDie) (port : Fin 3) (cell : SyncCell) (s : State) : ∃ t, execSync ld port cell s = .next t ∧ Steady s t := by
  refine ⟨_, rfl, ?_⟩
  refine Steady.ite ?_ ?_
  · exact State.sync_steady ..
  · exact Steady.refl _

theorem execLinkCellSend_frame (ld : LDie) (port : Fin 3) (position : Nat) (s : State) : ∃ t, execLinkCellSend ld port position s = .next t ∧ Steady s t := by
  refine ⟨_, rfl, ?_⟩
  refine Steady.ite ?_ ?_
  · exact State.sendAt_steady ..
  · exact Steady.refl _

theorem execAck_frame (ld : LDie) (port : Fin 3) (high : BitVec 16) (naks : List (BitVec 16)) (free : List Nat) (s : State) : ∃ t, execAck ld port high naks free s = .next t ∧ Steady s t := by
  refine ⟨_, rfl, ?_⟩
  refine Steady.ite ?_ ?_
  · exact State.modPort_steady ..
  · exact Steady.refl _

theorem execRetransmitTimeout_frame (ld : LDie) (port : Fin 3) (seq : BitVec 16) (s : State) : ∃ t, execRetransmitTimeout ld port seq s = .next t ∧ Steady s t := by
  refine ⟨_, rfl, ?_⟩
  refine Steady.ite ?_ ?_
  · exact State.modPort_steady ..
  · exact Steady.refl _

theorem execDataS_frame (ld : LDie) (port : Fin 3) (cell : Cell) (s : State) : ∃ t, execDataS ld port cell s = .next t ∧ Steady s t := by
  refine ⟨_, rfl, ?_⟩
  refine Steady.ite ?_ ?_
  · exact State.receiveCell_steady ..
  · exact Steady.refl _

theorem execDataB_frame (ld : LDie) (port : Fin 3) (cell : Cell) (s : State) : ∃ t, execDataB ld port cell s = .next t ∧ Steady s t := by
  refine ⟨_, rfl, ?_⟩
  refine Steady.ite ?_ ?_
  · exact State.receiveCell_steady ..
  · exact Steady.refl _

theorem execIdle_frame (_ld : LDie) (_port : Fin 3) (s : State) : ∃ t, execIdle _ld _port s = .next t ∧ Steady s t := by
  refine ⟨_, rfl, ?_⟩
  exact Steady.refl _

theorem execCellDiscard_frame (ld : LDie) (port : Fin 3) (s : State) : ∃ t, execCellDiscard ld port s = .next t ∧ Steady s t := by
  refine ⟨_, rfl, ?_⟩
  refine Steady.ite ?_ ?_
  · exact State.modPort_steady ..
  · exact Steady.refl _

theorem execJoin_frame (ld : LDie) (port : Fin 3) (cell : JoinCell) (s : State) : ∃ t, execJoin ld port cell s = .next t ∧ Steady s t := by
  refine ⟨_, rfl, ?_⟩
  refine Steady.ite ?_ ?_
  · refine Steady.each (Steady.refl _) _ fun t1 _ => ?_
    split
    · exact State.joinGroup_steady ..
  · exact Steady.refl _

theorem execLinkLineRead_frame (part : Part) (group : Fin 8) (rec : Nat) (ecc : Ecc) (s : State) : ∃ t, execLinkLineRead part group rec ecc s = .next t ∧ Steady s t := by
  refine ⟨_, rfl, ?_⟩
  split
  · exact Steady.refl _
  · extract_lets -underBinder +onlyGivenNames y1
    clear_value y1
    refine Steady.ite ?_ ?_
    · exact State.lineRead_steady ..
    · exact Steady.refl _

theorem execLinkCellRelease_frame (part : Part) (group : Fin 8) (rec : Nat) (s : State) : ∃ t, execLinkCellRelease part group rec s = .next t ∧ Steady s t := by
  refine ⟨_, rfl, ?_⟩
  split
  · exact Steady.refl _
  · refine Steady.ite ?_ ?_
    · split
      · exact State.releaseCell_steady ..
      · exact Steady.refl _
    · exact Steady.refl _

theorem execFullRetime_frame (found : Retime) (s : State) : ∃ t, execFullRetime found s = .next t ∧ Held s t := by
  refine ⟨_, rfl, ?_⟩
  refine Held.ite ?_ ?_
  · exact State.retimed_held ..
  · exact Held.refl _

theorem execLinkRetime_frame (die : Die) (fn : Fn) (slot : Fin 32) (s : State) : ∃ t, execLinkRetime die fn slot s = .next t ∧ Steady s t := by
  refine ⟨_, rfl, ?_⟩
  refine State.serve_steady _ _ _ _ _ fun t1 _ => ?_
  exact State.linkRetime_steady ..

theorem execLinkStateSummary_frame (die : Die) (fn : Fn) (slot : Fin 32) (s : State) : ∃ t, execLinkStateSummary die fn slot s = .next t ∧ Steady s t := by
  refine ⟨_, rfl, ?_⟩
  refine State.serve_steady _ _ _ _ _ fun t1 _ => ?_
  refine Steady.ite ?_ ?_
  · exact State.answer_steady ..
  · exact State.answer_steady ..

theorem execLinkStateDie_frame (die : Die) (fn : Fn) (slot : Fin 32) (s : State) : ∃ t, execLinkStateDie die fn slot s = .next t ∧ Steady s t := by
  refine ⟨_, rfl, ?_⟩
  refine State.serve_steady _ _ _ _ _ fun t1 _ => ?_
  refine Steady.ite ?_ ?_
  · exact State.answer_steady ..
  · refine Steady.ite ?_ ?_
    · exact State.answer_steady ..
    · exact State.answer_steady ..

theorem execLinkStateSet_frame (die : Die) (fn : Fn) (slot : Fin 32) (s : State) : ∃ t, execLinkStateSet die fn slot s = .next t ∧ Steady s t := by
  refine ⟨_, rfl, ?_⟩
  refine State.serve_steady _ _ _ _ _ fun t1 _ => ?_
  refine Steady.ite ?_ ?_
  · exact State.answer_steady ..
  · exact State.linkSet_steady ..

theorem execCollGroupJoin_frame (die : Die) (fn : Fn) (slot : Fin 32) (s : State) : ∃ t, execCollGroupJoin die fn slot s = .next t ∧ Steady s t := by
  refine ⟨_, rfl, ?_⟩
  refine State.serve_steady _ _ _ _ _ fun t1 _ => ?_
  exact State.groupJoin_steady ..

theorem execCollGroupLeave_frame (die : Die) (fn : Fn) (slot : Fin 32) (s : State) : ∃ t, execCollGroupLeave die fn slot s = .next t ∧ Steady s t := by
  refine ⟨_, rfl, ?_⟩
  refine State.serve_steady _ _ _ _ _ fun t1 _ => ?_
  exact State.groupLeave_steady ..

theorem execCollGroupStatus_frame (die : Die) (fn : Fn) (slot : Fin 32) (s : State) : ∃ t, execCollGroupStatus die fn slot s = .next t ∧ Steady s t := by
  refine ⟨_, rfl, ?_⟩
  refine State.serve_steady _ _ _ _ _ fun t1 _ => ?_
  exact State.groupStatus_steady ..

/-! ## Plans -/

theorem execPlanLoad_frame (die : Die) (fn : Fn) (slot : Fin 32) (s : State) : ∃ t, execPlanLoad die fn slot s = .next t ∧ Steady s t := by
  refine ⟨_, rfl, ?_⟩
  refine State.serve_steady _ _ _ _ _ fun t1 _ => ?_
  exact State.accept_steady ..

theorem execPlanLoadDone_frame (die : Die) (fn : Fn) (seq : BitVec 16) (s : State) : ∃ t, execPlanLoadDone die fn seq s = .next t ∧ Steady s t := by
  refine ⟨_, rfl, ?_⟩
  refine State.ending_steady _ _ _ _ _ fun t1 _ => ?_
  exact State.loadDone_steady ..

theorem execPlanUnload_frame (die : Die) (fn : Fn) (slot : Fin 32) (s : State) : ∃ t, execPlanUnload die fn slot s = .next t ∧ Steady s t := by
  refine ⟨_, rfl, ?_⟩
  refine State.serve_steady _ _ _ _ _ fun t1 _ => ?_
  exact State.planUnload_steady ..

theorem execPlanBind_frame (die : Die) (fn : Fn) (slot : Fin 32) (s : State) : ∃ t, execPlanBind die fn slot s = .next t ∧ Steady s t := by
  refine ⟨_, rfl, ?_⟩
  refine State.serve_steady _ _ _ _ _ fun t1 _ => ?_
  exact State.planBind_steady ..

theorem execPlanBindDone_frame (die : Die) (fn : Fn) (rep : Reporting (BitVec 16)) (s : State) : ∃ t, execPlanBindDone die fn rep s = .next t ∧ Steady s t := by
  refine ⟨_, rfl, ?_⟩
  refine State.ending_steady _ _ _ _ _ fun t1 _ => ?_
  exact State.bindDone_steady ..

theorem execPlanVerify_frame (die : Die) (fn : Fn) (slot : Fin 32) (s : State) : ∃ t, execPlanVerify die fn slot s = .next t ∧ Steady s t := by
  refine ⟨_, rfl, ?_⟩
  refine State.serve_steady _ _ _ _ _ fun t1 _ => ?_
  refine Steady.ite ?_ ?_
  · exact State.answer_steady ..
  · exact State.accept_steady ..

theorem execPlanVerifyDone_frame (die : Die) (fn : Fn) (rep : Reporting (BitVec 16)) (s : State) : ∃ t, execPlanVerifyDone die fn rep s = .next t ∧ Steady s t := by
  refine ⟨_, rfl, ?_⟩
  refine State.ending_steady _ _ _ _ _ fun t1 _ => ?_
  exact State.verifyDone_steady ..

/-! ## Snapshots -/

theorem execSnapTake_frame (die : Die) (fn : Fn) (slot : Fin 32) (s : State) : ∃ t, execSnapTake die fn slot s = .next t ∧ Steady s t := by
  refine ⟨_, rfl, ?_⟩
  refine State.serve_steady _ _ _ _ _ fun t1 _ => ?_
  exact State.snapTake_steady ..

theorem execSnapTakeDone_frame (die : Die) (fn : Fn) (seq : BitVec 16) (timeouts : List Cl) (s : State) : ∃ t, execSnapTakeDone die fn seq timeouts s = .next t ∧ Steady s t := by
  refine ⟨_, rfl, ?_⟩
  refine State.ending_steady _ _ _ _ _ fun t1 _ => ?_
  exact State.snapTaken_steady ..

theorem execSnapRestore_frame (die : Die) (fn : Fn) (slot : Fin 32) (s : State) : ∃ t, execSnapRestore die fn slot s = .next t ∧ Steady s t := by
  refine ⟨_, rfl, ?_⟩
  refine State.serve_steady _ _ _ _ _ fun t1 _ => ?_
  extract_lets -underBinder +onlyGivenNames y2
  clear_value y2
  refine Steady.ite ?_ ?_
  · exact State.answer_steady ..
  · exact State.accept_steady ..

theorem execSnapRestoreDone_frame (die : Die) (fn : Fn) (seq : BitVec 16) (s : State) : ∃ t, execSnapRestoreDone die fn seq s = .next t ∧ Steady s t := by
  refine ⟨_, rfl, ?_⟩
  refine State.ending_steady _ _ _ _ _ fun t1 _ => ?_
  exact State.snapRestored_steady ..

/-! ## Power -/

theorem execClusterEntryComplete_frame (cl : Cl) (s : State) : ∃ t, execClusterEntryComplete cl s = .next t ∧ Held s t := by
  refine ⟨_, rfl, ?_⟩
  refine Held.ite ?_ ?_
  · exact State.entryDone_held ..
  · exact Held.refl _

theorem execClusterExitComplete_frame (cl : Cl) (s : State) : ∃ t, execClusterExitComplete cl s = .next t ∧ Held s t := by
  refine ⟨_, rfl, ?_⟩
  refine Held.ite ?_ ?_
  · exact State.exitDone_held ..
  · exact Held.refl _

theorem execThermalSensorRead_frame (cl : Cl) (raw0 raw1 : Nat) (s : State) : ∃ t, execThermalSensorRead cl raw0 raw1 s = .next t ∧ Held s t := by
  refine ⟨_, rfl, ?_⟩
  refine Held.ite ?_ ?_
  · exact State.thermalRead_held ..
  · exact Held.refl _

theorem execBreathAllowanceUpdate_frame (powerW : Nat) (s : State) : ∃ t, execBreathAllowanceUpdate powerW s = .next t ∧ Steady s t := by
  refine ⟨_, rfl, ?_⟩
  refine Steady.ite ?_ ?_
  · exact State.breathUpdate_steady ..
  · exact Steady.refl _

theorem execPowerCapAlarm_frame (s : State) : ∃ t, execPowerCapAlarm s = .next t ∧ Steady s t := by
  refine ⟨_, rfl, ?_⟩
  refine Steady.ite ?_ ?_
  · exact State.capAlarm_steady ..
  · exact Steady.refl _

theorem execAvsCurrentRead_frame (zone : Fin 48) (milliAmps : Nat) (s : State) : ∃ t, execAvsCurrentRead zone milliAmps s = .next t ∧ Steady s t := by
  refine ⟨_, rfl, ?_⟩
  refine Steady.ite ?_ ?_
  · exact State.modZone_steady ..
  · exact Steady.refl _

theorem execPmbusStatusPoll_frame (addr : BitVec 7) (page : BitVec 2) (status : BitVec 16) (vout iout pout : Nat) (s : State) : ∃ t, execPmbusStatusPoll addr page status vout iout pout s = .next t ∧ Steady s t := by
  refine ⟨_, rfl, ?_⟩
  refine Steady.ite ?_ ?_
  · exact State.statusPoll_steady ..
  · exact Steady.refl _

theorem execVoltageAckTimeout_frame (zone : Fin 48) (s : State) : ∃ t, execVoltageAckTimeout zone s = .next t ∧ Steady s t := by
  refine ⟨_, rfl, ?_⟩
  refine Steady.ite ?_ ?_
  · exact State.ackTimeout_steady ..
  · exact Steady.refl _

/-! ## Brace -/

theorem execForcedQuiesceStop_frame (s : State) : ∃ t, execForcedQuiesceStop s = .next t ∧ Steady s t := by
  refine ⟨_, rfl, ?_⟩
  exact State.forcedStop_steady ..

theorem execCommitPoint_frame (s : State) : ∃ t, execCommitPoint s = .next t ∧ Steady s t := by
  refine ⟨_, rfl, ?_⟩
  exact State.commit_steady ..

theorem execFinishingCutoff_frame (s : State) : ∃ t, execFinishingCutoff s = .next t ∧ Steady s t := by
  refine ⟨_, rfl, ?_⟩
  exact State.cutoff_steady ..

theorem execE1ExitComplete_frame (s : State) : ∃ t, execE1ExitComplete s = .next t ∧ Held s t := by
  refine ⟨_, rfl, ?_⟩
  exact State.e1ExitDone_held ..

theorem execBraceComplete_frame (s : State) : ∃ t, execBraceComplete s = .next t ∧ Keeps s t := by
  refine ⟨_, rfl, ?_⟩
  exact State.braceComplete_keeps ..

theorem execStandbyEntry_frame (s : State) : ∃ t, execStandbyEntry s = .next t ∧ Keeps s t := by
  refine ⟨_, rfl, ?_⟩
  refine Keeps.ite ?_ ?_
  · exact State.enterE2_keeps ..
  · exact Keeps.refl _

theorem execWakeTimer_frame (s : State) : ∃ t, execWakeTimer s = .next t ∧ Keeps s t := by
  refine ⟨_, rfl, ?_⟩
  exact State.wakeTimer_keeps ..

theorem execLinkPartnerDetect_frame (ld : LDie) (port : Fin 3) (s : State) : ∃ t, execLinkPartnerDetect ld port s = .next t ∧ Keeps s t := by
  refine ⟨_, rfl, ?_⟩
  refine Keeps.ite ?_ ?_
  · refine Keeps.trans ?_ (State.tryExit_keeps ..)
    exact ⟨⟨rfl, rfl, id⟩, rfl, rfl, rfl, rfl, rfl, rfl, rfl, rfl⟩
  · exact Keeps.refl _

theorem execPfwNAssert_frame (s : State) : ∃ t, execPfwNAssert s = .next t ∧ Held s t := by
  refine ⟨_, rfl, ?_⟩
  exact State.pfwLow_held ..

theorem execPfwNDeassert_frame (s : State) : ∃ t, execPfwNDeassert s = .next t ∧ Keeps s t := by
  refine ⟨_, rfl, ?_⟩
  exact State.pfwHigh_keeps ..

/-! ## Faults -/

theorem execHeartbeatSend_frame (s : State) : ∃ t, execHeartbeatSend s = .next t ∧ Steady s t := by
  refine ⟨_, rfl, ?_⟩
  refine Steady.ite ?_ ?_
  · refine Steady.each (Steady.refl _) _ fun t1 _ => ?_
    exact State.modCluster_steady ..
  · exact Steady.refl _

theorem execHeartbeatTimeout_frame (cl : Cl) (s : State) : ∃ t, execHeartbeatTimeout cl s = .next t ∧ Steady s t := by
  refine ⟨_, rfl, ?_⟩
  exact State.heartbeatLost_steady ..

theorem execMarionetteResetDone_frame (cl : Cl) (passed : Bool) (s : State) : ∃ t, execMarionetteResetDone cl passed s = .next t ∧ Held s t := by
  refine ⟨_, rfl, ?_⟩
  refine Held.ite ?_ ?_
  · exact State.marionetteBack_held ..
  · exact Held.refl _

theorem execEdgeRequestTimeout_frame (edge : Edge) (s : State) : ∃ t, execEdgeRequestTimeout edge s = .next t ∧ Steady s t := by
  refine ⟨_, rfl, ?_⟩
  refine Steady.ite ?_ ?_
  · exact State.seizeAll_steady ..
  · exact Steady.refl _

theorem execFieldRepair_frame (cl : Cl) (core : LCore) (s : State) : ∃ t, execFieldRepair cl core s = .next t ∧ Held s t := by
  refine ⟨_, rfl, ?_⟩
  refine Held.ite ?_ ?_
  · exact State.fieldRepair_held ..
  · exact Held.refl _

theorem execUnderstudyTestStart_frame (cl : Cl) (row : Fin 16) (s : State) : ∃ t, execUnderstudyTestStart cl row s = .next t ∧ Steady s t := by
  refine ⟨_, rfl, ?_⟩
  refine Steady.ite ?_ ?_
  · exact State.modCluster_steady ..
  · exact Steady.refl _

theorem execUnderstudyTestEnd_frame (cl : Cl) (row : Fin 16) (passed : Bool) (s : State) : ∃ t, execUnderstudyTestEnd cl row passed s = .next t ∧ Steady s t := by
  refine ⟨_, rfl, ?_⟩
  refine Steady.ite ?_ ?_
  · exact State.testEnd_steady ..
  · exact Steady.refl _

theorem execAuthorityCheckMiss_frame (s : State) : ∃ t, execAuthorityCheckMiss s = .next t ∧ Held s t := by
  refine ⟨_, rfl, ?_⟩
  refine Held.ite ?_ ?_
  · exact State.checkMiss_held ..
  · exact Held.refl _

/-! ## Boot -/

theorem execPower48vApplied_frame (boot : BootIn) (s : State) : ∃ t, execPower48vApplied boot s = .next t ∧ Held s t := by
  refine ⟨_, rfl, ?_⟩
  refine Held.ite ?_ ?_
  · refine Held.trans ?_ (State.unreset_held ..)
    exact ⟨rfl, rfl, id⟩
  · exact Held.refl _

theorem execResetNAssert_frame (s : State) : ∃ t, execResetNAssert s = .next t ∧ Held s t := by
  refine ⟨_, rfl, ?_⟩
  extract_lets -underBinder +onlyGivenNames x1
  have hx1 : Held s x1 := by
    subst x1
    exact State.resetEngine_held ..
  clear_value x1
  exact hx1.trans ⟨rfl, rfl, id⟩

theorem execResetNDeassert_frame (boot : BootIn) (s : State) : ∃ t, execResetNDeassert boot s = .next t ∧ Held s t := by
  refine ⟨_, rfl, ?_⟩
  refine Held.trans ?_ (State.unreset_held ..)
  exact ⟨rfl, rfl, id⟩

theorem execFirmwareRetry_frame (boot : BootIn) (s : State) : ∃ t, execFirmwareRetry boot s = .next t ∧ Held s t := by
  refine ⟨_, rfl, ?_⟩
  refine Held.ite ?_ ?_
  · exact State.bootStep3_held ..
  · exact Held.refl _

theorem execUndervoltageLockout_frame (s : State) : ∃ t, execUndervoltageLockout s = .next t ∧ Held s t := by
  refine ⟨_, rfl, ?_⟩
  refine Held.ite ?_ ?_
  · exact Held.refl _
  · exact State.powerOff_held ..

theorem execRefclkLoss_frame (s : State) : ∃ t, execRefclkLoss s = .next t ∧ Held s t := by
  refine ⟨_, rfl, ?_⟩
  extract_lets -underBinder +onlyGivenNames x1
  have hx1 : Held s x1 := by
    subst x1
    exact State.resetEngine_held ..
  clear_value x1
  exact hx1.trans ⟨rfl, rfl, id⟩

theorem execRefclkReturn_frame (boot : BootIn) (s : State) : ∃ t, execRefclkReturn boot s = .next t ∧ Held s t := by
  refine ⟨_, rfl, ?_⟩
  refine Held.trans ?_ (State.unreset_held ..)
  exact ⟨rfl, rfl, id⟩

theorem execResumeQuietExpiry_frame (s : State) : ∃ t, execResumeQuietExpiry s = .next t ∧ Held s t := by
  refine ⟨_, rfl, ?_⟩
  exact State.nowQuiet_held ..

theorem execBraceHoldExpiry_frame (s : State) : ∃ t, execBraceHoldExpiry s = .next t ∧ Keeps s t := by
  refine ⟨_, rfl, ?_⟩
  exact State.holdPassed_keeps ..

theorem execStandbyExit_frame (s : State) : ∃ t, execStandbyExit s = .next t ∧ Held s t := by
  refine ⟨_, rfl, ?_⟩
  refine Held.ite ?_ ?_
  · split
    · refine Held.trans ?_ (State.log_steady ..).toHeld
      refine Held.trans ?_ (State.bootTail_held ..)
      exact ⟨rfl, rfl, id⟩
    · exact State.leaveE2_held ..
  · exact Held.refl _

/-! ## Module -/

theorem execFwUpdateWrite_frame (die : Die) (fn : Fn) (slot : Fin 32) (image : Bytes) (s : State) : ∃ t, execFwUpdateWrite die fn slot image s = .next t ∧ Steady s t := by
  refine ⟨_, rfl, ?_⟩
  refine State.serve_steady _ _ _ _ _ fun t1 _ => ?_
  exact State.updateWrite_steady ..

theorem execFwUpdateWriteDone_frame (readBackA readBackB : Bool) (s : State) : ∃ t, execFwUpdateWriteDone readBackA readBackB s = .next t ∧ Steady s t := by
  refine ⟨_, rfl, ?_⟩
  refine Steady.ite ?_ ?_
  · exact State.updateDone_steady ..
  · exact Steady.refl _

theorem execFwUpdateStatus_frame (die : Die) (fn : Fn) (slot : Fin 32) (s : State) : ∃ t, execFwUpdateStatus die fn slot s = .next t ∧ Steady s t := by
  refine ⟨_, rfl, ?_⟩
  refine State.serve_steady _ _ _ _ _ fun t1 _ => ?_
  refine Steady.ite ?_ ?_
  · exact State.answer_steady ..
  · refine Steady.ite ?_ ?_
    · exact State.answer_steady ..
    · refine Steady.trans ?_ (State.acceptDone_steady ..)
      exact State.drew_steady ..

theorem execFwActivate_frame (die : Die) (fn : Fn) (slot : Fin 32) (s : State) : ∃ t, execFwActivate die fn slot s = .next t ∧ Steady s t := by
  refine ⟨_, rfl, ?_⟩
  refine State.serve_steady _ _ _ _ _ fun t1 _ => ?_
  exact State.activate_steady ..

theorem execFwActivateRestart_frame (fuseOk : Bool) (s : State) : ∃ t, execFwActivateRestart fuseOk s = .next t ∧ Held s t := by
  refine ⟨_, rfl, ?_⟩
  split
  · refine Held.ite ?_ ?_
    · exact State.activateDone_held ..
    · exact Held.refl _
  · exact Held.refl _

theorem execExtest_frame (drive : TapDrive) (s : State) : ∃ t, execExtest drive s = .next t ∧ Held s t := by
  refine ⟨_, rfl, ?_⟩
  extract_lets -underBinder +onlyGivenNames x1
  have hx1 : Held s x1 := by
    subst x1
    exact State.loadIr_held ..
  clear_value x1
  refine Held.trans ?_ (State.drive_steady ..).toHeld
  refine Held.ite ?_ ?_
  · exact hx1
  · exact hx1.trans (State.resetEngine_held ..)

theorem execIdcode_frame (tap : Fin 20) (boot : BootIn) (s : State) : ∃ t, execIdcode tap boot s = .next t ∧ Held s t := by
  refine ⟨_, rfl, ?_⟩
  refine Held.trans ?_ (State.unreset_held ..)
  exact State.identify_held ..

theorem execSamplePreload_frame (tap : Fin 20) (cells : List Bool) (boot : BootIn) (s : State) : ∃ t, execSamplePreload tap cells boot s = .next t ∧ Held s t := by
  refine ⟨_, rfl, ?_⟩
  extract_lets -underBinder +onlyGivenNames x1
  have hx1 : Held s x1 := by
    subst x1
    exact State.loadIr_held ..
  clear_value x1
  refine Held.trans ?_ (State.unreset_held ..)
  refine Held.ite ?_ ?_
  · exact hx1
  · exact hx1.trans ⟨rfl, rfl, id⟩

theorem execBypass_frame (tap : Fin 20) (boot : BootIn) (s : State) : ∃ t, execBypass tap boot s = .next t ∧ Held s t := by
  refine ⟨_, rfl, ?_⟩
  refine Held.trans ?_ (State.unreset_held ..)
  exact State.loadIr_held ..

theorem execPrivateInstruction_frame (tap : Fin 20) (code : BitVec 8) (boot : BootIn) (s t : State)
    (h : execPrivateInstruction tap code boot s = .next t) : Held s t := by
  unfold execPrivateInstruction at h
  split at h
  · cases h; exact Held.refl _
  · split at h
    · cases h; exact (State.loadIr_held ..).trans (State.unreset_held ..)
    · cases h

theorem execTapReset_frame (tap : Fin 20) (boot : BootIn) (s : State) : ∃ t, execTapReset tap boot s = .next t ∧ Held s t := by
  refine ⟨_, rfl, ?_⟩
  refine Held.trans ?_ (State.unreset_held ..)
  exact State.identify_held ..

theorem execCoolantSample_frame (inlet outlet : BitVec 8) (flow millivolts10 deciAmps : BitVec 16) (s : State) : ∃ t, execCoolantSample inlet outlet flow millivolts10 deciAmps s = .next t ∧ Held s t := by
  refine ⟨_, rfl, ?_⟩
  refine Held.ite ?_ ?_
  · exact Held.refl _
  · exact ⟨rfl, rfl, id⟩

theorem execSetEndpointId_frame (eid : BitVec 8) (s : State) : ∃ t, execSetEndpointId eid s = .next t ∧ Held s t := by
  refine ⟨_, rfl, ?_⟩
  extract_lets -underBinder +onlyGivenNames y1
  clear_value y1
  refine Held.ite ?_ ?_
  · exact State.respond_held ..
  · refine Held.trans ?_ (State.respond_held ..)
    refine Held.ite ?_ ?_
    · exact ⟨rfl, rfl, id⟩
    · exact Held.refl _

theorem execGetEndpointId_frame (s : State) : ∃ t, execGetEndpointId s = .next t ∧ Held s t := by
  refine ⟨_, rfl, ?_⟩
  exact State.respond_held ..

theorem execGetMctpVersionSupport_frame (s : State) : ∃ t, execGetMctpVersionSupport s = .next t ∧ Held s t := by
  refine ⟨_, rfl, ?_⟩
  exact State.respond_held ..

theorem execGetMessageTypeSupport_frame (s : State) : ∃ t, execGetMessageTypeSupport s = .next t ∧ Held s t := by
  refine ⟨_, rfl, ?_⟩
  exact State.respond_held ..

theorem execGetVendorDefinedMessageSupport_frame (s : State) : ∃ t, execGetVendorDefinedMessageSupport s = .next t ∧ Held s t := by
  refine ⟨_, rfl, ?_⟩
  exact State.respond_held ..

theorem execGetInfo_frame (s : State) : ∃ t, execGetInfo s = .next t ∧ Held s t := by
  refine ⟨_, rfl, ?_⟩
  exact State.vendor_held ..

theorem execGetStatus_frame (s : State) : ∃ t, execGetStatus s = .next t ∧ Held s t := by
  refine ⟨_, rfl, ?_⟩
  exact State.vendor_held ..

theorem execMctpUnsupportedCommand_frame (code : BitVec 8) (s : State) : ∃ t, execMctpUnsupportedCommand code s = .next t ∧ Held s t := by
  refine ⟨_, rfl, ?_⟩
  refine Held.ite ?_ ?_
  · exact Held.refl _
  · exact State.respond_held ..

end Sys2Proof.Machine
end

