-- ==== Sys2Proof/WellFormed.lean ====
section
/-!
DEFINITION. Which operands a command can carry: the sizes and ranges that its frame, cell, descriptor or register has
(spec/05_fabric.md R132, R135, R136, spec/07_plans_and_scan.md R177, R186, spec/10_serving_requests.md R257,
spec/11_memory_and_dma.md R273, R289, spec/12_links_collectives_time.md R299, R301, R303).
-/

namespace Sys2Proof

/-- A SLOT_DATA frame has 3 + 4m payload flits for m words (R186). -/
def Hdr.carries (h : Hdr) (words : List (BitVec 64)) : Bool := h.length.val == 3 + 4 * words.length

/-- The words of a SLOT_DATA or STORE_DATA frame: 1 to 31, none past word 511. -/
def wordsOk (first : Nat) (words : List (BitVec 64)) : Bool :=
  decide (1 ≤ words.length ∧ words.length ≤ 31) && decide (first + words.length ≤ 512)

/-- A data cell: one of at most 299 data positions, a payload of 256 bytes. -/
def cellOk (c : Cell) : Bool := decide (1 ≤ c.position ∧ c.position < 300) && c.payload.length == 256

/-- A command whose operands its carrier can hold. -/
def Instr.wf (i : Instr) : Bool :=
  match i with
  | .registerWrite _ _ _ off wide _ => if wide then off.toNat % 8 == 0 else off.toNat % 4 == 0
  | .splitWriteLower _ _ _ off _ => off.toNat % 8 == 0
  | .splitWriteUpper _ _ _ off _ => off.toNat % 8 == 4
  | .fetch _ _ _ desc => desc.length == 64
  | .dmaDescriptorFetch _ _ desc => desc.length == 64
  | .slotData hdr _ first _ _ words => wordsOk first words && hdr.carries words
  | .noTarget hdr => hdr.length == 1
  | .seizeFrame hdr _ _ _ => hdr.length == 4
  | .storeData _ _ first words => wordsOk first words
  | .flitParityError _ _ resends _ => decide (resends ≤ 16)
  | .hbmScrub line _ _ => decide (line < 0xC0000000)
  | .dataS _ _ cell => cellOk cell
  | .dataB _ _ cell => cellOk cell
  | .samplePreload _ cells _ => cells.length != 0
  | _ => true

end Sys2Proof
end

