-- ==== Sys2Proof/Tests/Slice0.lean ====
section
/-!
SUPPORT. The model's own tests: ill-formed commands are refused, small steps whose result the manual gives, and, for
every statement of Certificates/Slice0/Obligations.lean that has hypotheses, a state that meets those of each clause.
-/

set_option Elab.async false

namespace Sys2Proof.Tests

open Sys2Proof Sys2Proof.Machine

/-! ## Well-formed commands -/

theorem test_wf_register_write : (Instr.registerWrite 0 0 .bar0 0x32 false 1).wf = false ∧
    (Instr.registerWrite 0 0 .bar0 0x34 true 1).wf = false ∧ (Instr.registerWrite 0 0 .bar0 0x34 false 1).wf = true := by decide
theorem test_wf_split_writes : (Instr.splitWriteLower 0 0 .bar0 0x3004 1).wf = false ∧
    (Instr.splitWriteUpper 0 0 .bar0 0x3008 1).wf = false ∧ (Instr.splitWriteUpper 0 0 .bar0 0x3004 1).wf = true := by decide
theorem test_wf_descriptors : (Instr.fetch 0 1 0 (zeros 63)).wf = false ∧ (Instr.dmaDescriptorFetch 0 1 (zeros 65)).wf = false ∧
    (Instr.fetch 0 1 0 (zeros 64)).wf = true := by decide
/-- The header of a frame of Puppeteer 3 to cluster 5, of a length. -/
def frame (length : Fin 128) : Hdr := { dest := .cluster 5, target := 0, src := .pup 3, length := length }
theorem test_wf_frame_words : (Instr.slotData (frame 3) 0 0 1 1 []).wf = false ∧
    (Instr.slotData (frame 11) 0 511 1 1 [1, 2]).wf = false ∧ (Instr.slotData (frame 11) 0 510 1 1 [1, 2]).wf = true ∧
    (Instr.slotData (frame 10) 0 510 1 1 [1, 2]).wf = false ∧ (Instr.storeData (frame 1) 0 0 (List.replicate 32 0)).wf = false ∧
    (Instr.storeData (frame 1) 0 481 (List.replicate 31 0)).wf = true := by decide
theorem test_wf_frame_lengths : (Instr.noTarget (frame 2)).wf = false ∧ (Instr.noTarget (frame 1)).wf = true ∧
    (Instr.seizeFrame (frame 3) 5 5 0).wf = false ∧ (Instr.seizeFrame (frame 4) 5 5 0).wf = true := by decide
theorem test_wf_parity_resends : (Instr.flitParityError 5 .n 17 true).wf = false ∧ (Instr.flitParityError 5 .n 16 true).wf = true := by decide
theorem test_wf_scrub_line : (Instr.hbmScrub 0xC0000000 .clean false).wf = false ∧ (Instr.hbmScrub 0xBFFFFFFF .clean false).wf = true := by
  decide
theorem test_wf_cells : (Instr.dataS 0 0 ⟨false, 0, 1, 0, 0, 0, 0, 0, 0, zeros 256⟩).wf = false ∧
    (Instr.dataS 0 0 ⟨false, 300, 1, 0, 0, 0, 0, 0, 0, zeros 256⟩).wf = false ∧
    (Instr.dataB 0 0 ⟨false, 1, 1, 0, 0, 0, 0, 0, 0, zeros 255⟩).wf = false ∧
    (Instr.dataB 0 0 ⟨false, 299, 1, 0, 0, 0, 0, 0, 0, zeros 256⟩).wf = true := by decide +kernel
theorem test_wf_boundary_cells (b : BootIn) : (Instr.samplePreload 0 [] b).wf = false ∧ (Instr.samplePreload 0 [true] b).wf = true := ⟨rfl, rfl⟩

/-! ## States the tests start from -/

/-- P1: cluster 5, its windows open on host die 0, granules 0 and 1. -/
def p1 : PartState :=
  { life := .live, cfg := { hostMask := 1, x0 := 5, w := 1, h := 1, q := 12, rules := 2, granules := [0, 1] }
    ruleIdx := [(0, [4, 5])] }

/-- An engine in E0 with P0 and P1. -/
def live : State :=
  { State.reset with
    supply := .up, estate := .e0, et := 1000, etClock := .tclk, rails := Rails.up, allowance := 256
    parts := [(0, { life := .live }), (1, p1)], windows := [(0, { fwReady := true }), (1, { fwReady := true })]
    clusters := [(5, { power := .c1, assigned := true, partition := 1 })] }

/-- A command of a function, waiting in slot 0 of its window on host die 0. -/
def post (f code : Nat) (payload : Bytes) (s : State) : State :=
  s.modWindow 0 f fun w =>
    { w with busy := 1, rung := [0]
             inSlots := mwrites 0 ([5#8, 0#8, BitVec.ofNat 8 code, 0#8, BitVec.ofNat 8 payload.length, 0#8, 0#8, 0#8] ++ payload) [] }

/-- A field of the command that waits. -/
def arg (s : State) (f off n : Nat) : Nat := (s.readCmd 0 f 0).at off n

/-- The command that waits is about to be taken, and may name its partition. -/
def takes (s : State) (f code need : Nat) : Bool := s.offers 0 f 0 code need && s.ruled && s.longRoom f && s.mayName (s.readCmd 0 f 0)
/-- The same in E0. -/
def served (s : State) (f code need : Nat) : Bool := takes s f code need && s.estate == .e0

/-- The window of P1 on host die 0, changed. -/
def win1 (f : Window → Window) : State := live.modWindow 0 1 f
/-- P1, changed. -/
def part1 (f : PartState → PartState) : State := live.modPart 1 f
/-- Cluster 5, changed. -/
def clus (f : Cluster → Cluster) (s : State) : State := s.modCluster 5 f
/-- A long command of P1. -/
def long (code : BitVec 8) (payload : Bytes) : LongCmd :=
  { die := 0, fn := 1, seq := 5, code := code, sender := 1, part := 1, payload := payload }
/-- A long command of P0. -/
def long0 (code : BitVec 8) (payload : Bytes) : LongCmd := { long code payload with fn := 0, sender := 0, part := 0 }
/-- One long command open. -/
def open1 (l : LongCmd) (s : State) : State := { s with longs := [l] }

/-- A request of P1. -/
def req : Request :=
  { id := 3, die := 0, fn := 1, ring := 0, tag := 9, entry := 0, prio := 0, deadline := 9000, inLen := 64, outAddr := 8192, outLen := 64
    fetch := 900, p := 100, b := 3, i := 200, e := 50, promisedEnd := 2000, promise := 2050, pair := 0, inBase := 8192, outBase := 12288 }
/-- A verified plan of two layers and two entries. -/
def plan : Loaded :=
  { verified := true
    plan := { powerW := 300, entries := [⟨0, 2, 64, 64, 100, 0, 0⟩, ⟨0, 1, 64, 64, 0, 0, 0⟩]
              layers := [⟨0, false, none, 8⟩, ⟨1, true, none, 92⟩] } }
/-- A run of it. -/
def run : Run := { req := 3, handle := 3, entry := 0, layer := 1, layerAt := 100 }
/-- P1 with the plan bound under handle 3 and queue depth 2. -/
def bound1 (queue : List Request) (r : Option Run) : PartState :=
  { p1 with qcfg := some { d := 2, sIn := 1, sOut := 1, off := 4096 }, plans := [(3, plan)], bound := some 3, queue := queue, run := r }
/-- An engine with that P1, its cluster in C0, at CCLK 8000. -/
def busy (queue : List Request) (r : Option Run) : State :=
  clus (fun k => { k with power := .c0 }) { live.modPart 1 (fun _ => bound1 queue r) with now := 8000 }
/-- The same with one step word in logical core 16 of cluster 5, at its program counter. -/
def core (w : BitVec 64) (f : Core → Core) : State :=
  (busy [] (some run)).modCore (272 * 5 + 17) fun _ =>
    f { active := true, slot := 1, pc := 7, pt := 50, nextIssue := 50, slots := [(1, { steps := 500, words := [(7, w)] })] }

/-! ## Small steps -/

/-- R15: I of an entry of S bytes at a share q is 250 + ⌈S/q⌉ ticks. -/
theorem test_host_bound : hostBound 12 64 = 256 ∧ hostBound 384 65536 = 421 := by decide
/-- R183: W is 544 + 8 (⌊w/2⌋ + ⌊h/2⌋) CCLK. -/
theorem test_switch_time : switchTime 1 1 = 544 ∧ switchTime 40 30 = 824 := by decide
/-- R4, R5: clusters are numbered row by row from the north-west. -/
theorem test_cluster_numbers : clNum 39 29 = 1199 ∧ clX 45 = 5 ∧ clY 45 = 1 ∧ clField 1199 = 47 := by decide
/-- CRC-32C of the nine digits. -/
theorem test_crc32c : crc32c [0x31#8, 0x32#8, 0x33#8, 0x34#8, 0x35#8, 0x36#8, 0x37#8, 0x38#8, 0x39#8] = 0xE3069283#32 := by decide +kernel
/-- R72, R77: the kinds of step words. -/
theorem test_word_kinds : wordKind 0#64 = .fire ∧ wordKind 0x4000000000000000#64 = .set ∧ wordKind 0x8000000000000000#64 = .loop ∧
    wordKind 0x8800000000000000#64 = .wait ∧ wordKind 0x9000000000000000#64 = .halt ∧ wordKind 0xC000000000000000#64 = .reserved := by decide
/-- R37: a row whose omitted column is 3 keeps logical columns 0 to 2 and moves the others east by one. -/
theorem test_omitted_column : physCol 3 2 = 2 ∧ physCol 3 3 = 4 ∧ physCol 8 15 = 16 := by decide
/-- R403: the first 48 V with RESET_N high ends in E0 with ET at 0. -/
theorem test_cold_boot : (match exec (.power48vApplied { straps := 0, selfTestFail := [], understudyFail := [] }) State.reset with
    | .next t => t.supply == .up && t.estate == .e0 && t.et == 0#64 && t.etClock == .tclk
    | _ => false) = true := by decide +kernel
/-- R223, R230: ENGINE.STATE of a served window leaves one message and frees its slot. -/
theorem test_engine_state : (match exec (.engineState 0 1 0) (post 1 0x02 [] live) with
    | .next t => (t.window 0 1).busy == 0#32 && (t.window 0 1).outQ.map (fun m => (m.seq, m.status)) == [(5#16, 0#8)]
    | _ => false) = true := by decide +kernel
/-- R77: LOOP at its limit clears its counter and falls through; below it, it counts and branches. -/
theorem test_loop : (match exec (.loop 5 16 .clean) (core 0x8180000000000000#64 fun k => { k with regs := [(1, 5)], k := [(1, 4)] }) with
    | .next t => (t.coreAt (272 * 5 + 17)).pc == 256 && (t.coreAt (272 * 5 + 17)).kval 1 == 5
    | _ => false) = true ∧
    (match exec (.loop 5 16 .clean) (core 0x8180000000000000#64 fun k => { k with regs := [(1, 5)], k := [(1, 5)] }) with
    | .next t => (t.coreAt (272 * 5 + 17)).pc == 8 && (t.coreAt (272 * 5 + 17)).kval 1 == 0
    | _ => false) = true := by decide +kernel
/-- R7, R326: ET goes on by one each 8 CCLK. -/
theorem test_tick : (match step { live with sub := 7 } with | .next t => t.et == 1001#64 && t.sub == 0 | _ => false) = true := by decide +kernel

/-! ## Witnesses: the step, MMIO, mailboxes -/

theorem met_step_runs_front : ({ live with pending := [.wakeTimer] } : State).pending = Instr.wakeTimer :: [] := by decide +kernel
theorem met_empty_queue_ticks : live.pending = [] ∧ ({ live with etClock := .held } : State).etClock = .held ∧
    (live.etClock = .tclk ∧ ({ live with sub := 6 } : State).sub < 7 ∧ 7 ≤ ({ live with sub := 7 } : State).sub) ∧
    ({ live with etClock := .alwaysOn } : State).etClock = .alwaysOn ∧ ({ live with sub := 38 } : State).sub < 39 ∧
    39 ≤ ({ live with sub := 39 } : State).sub := by decide +kernel
theorem met_closed_window : live.hostUp 0 = true ∧ live.isOpen 0 2 = false ∧ live.isOpen 1 1 = false ∧ aligned 0 true = true ∧
    aligned 4 false = true ∧ aligned 4 true = false := by decide +kernel
theorem met_split_halves : live.reach 0 1 = true ∧ ((live.window 0 1).ring 6).enable = false := by decide +kernel
theorem met_register_writes : live.reach 0 1 = true ∧
    (0x1000 ≤ (0x1FFC#24).toNat ∧ (0x1FFC#24).toNat < 0x2000 ∧ (0x1FFC#24).toNat % 4 = 0) ∧
    ¬ ((16 = 32 ∧ (0x1000#24).toNat % 4 = 0) ∨ (16 = 64 ∧ (0x1000#24).toNat % 8 = 0)) ∧ aligned (0x1004#24).toNat true = false := by
  decide +kernel

/-- A window whose outbound ring holds 31 messages, with two more to write. -/
def outWin (tail : BitVec 16) : State :=
  win1 fun w => { w with outTail := tail, outAck := 3, outQ := [⟨7, 1, true, false, 0, [1]⟩, ⟨8, 1, true, false, 0, [2]⟩] }
theorem met_mailboxes : (live.reach 0 1 = true ∧ (live.window 0 1).fwReady = true) ∧
    (let w := (outWin 35).window 0 1
     32 < (w.outTail - (2#32).setWidth 16).toNat ∧ (w.outTail - (3#32).setWidth 16).toNat ≤ 32 ∧ w.outTail = (35#32).setWidth 16 ∧
       w.outTail ≠ (3#32).setWidth 16) ∧
    ((outWin 34).reach 0 1 = true ∧ ((outWin 34).window 0 1).fwReady = true ∧
      ((outWin 34).window 0 1).outQ = ⟨7, 1, true, false, 0, [1]⟩ :: [⟨8, 1, true, false, 0, [2]⟩] ∧
      (((outWin 34).window 0 1).outTail - ((outWin 34).window 0 1).outAck).toNat < 32) ∧
    32 ≤ (((outWin 35).window 0 1).outTail - ((outWin 35).window 0 1).outAck).toNat ∧
    (let s := win1 fun w => { w with fwReady := false }
     s.reach 0 1 = true ∧ (s.window 0 1).fwReady = false) := by decide +kernel
theorem met_counters_clear : live.hostUp 3 = true := by decide +kernel

/-- Ring 2 of P1 and its DMA queue enabled, the counts near their wrap. -/
def rings : State :=
  win1 fun w => { w with rings := [(2, { enable := true, sqLog2 := 4, cqLog2 := 5, sqHead := 65530, sqTail := 65535, cqTail := 9, cqHead := 3 })]
                         dma := { enable := true, sizeLog2 := 4, head := 5, tail := 6 } }
theorem met_rings : live.reach 0 1 = true ∧
    (((live.window 0 1).ring 6).enable = false ∧ 4 ≤ ((0xC41#32).extractLsb' 4 4).toNat ∧
      ((0xC41#32).extractLsb' 4 4).toNat ≤ ((0xC41#32).extractLsb' 8 4).toNat ∧ ((0xC41#32).extractLsb' 8 4).toNat ≤ 12) ∧
    ((0x431#32).extractLsb' 4 4).toNat < 4 ∧ ((0x451#32).extractLsb' 8 4).toNat < ((0x451#32).extractLsb' 4 4).toNat ∧
    12 < ((0xD41#32).extractLsb' 8 4).toNat ∧ (rings.reach 0 1 = true ∧ ((rings.window 0 1).ring 2).enable = true) ∧
    ((live.window 0 1).dma.enable = false ∧ 4 ≤ ((10#32).extractLsb' 0 4).toNat ∧ ((10#32).extractLsb' 0 4).toNat ≤ 10) ∧
    ((3#32).extractLsb' 0 4).toNat < 4 ∧ 10 < ((11#32).extractLsb' 0 4).toNat ∧ (rings.window 0 1).dma.enable = true ∧
    ((rings.window 0 1).ring 0).enable = false ∧ (rings.part 1).park = .serving := by decide +kernel
theorem met_function_reset : live.canonical = true ∧ live.hostUp 0 = true ∧ live.supply = .up ∧ live.reach 0 1 = true ∧
    (let s := post 1 0x02 [] live
     s.canonical = true ∧ s.hostUp 0 = true ∧ (s.window 0 1).busy.getLsbD 0 = true ∧ (s.window 0 1).dma.job = none) ∧
    ({ live with perst := 8 } : State).hostUp 3 = false := by decide +kernel

/-! ## Witnesses: GMP commands -/

/-- FAULT.LOG of P1. -/
def logCmd : State := post 1 0x70 ([1, 1, 0, 0, 0, 0, 0, 0] ++ toLe 8 4096 ++ toLe 4 128 ++ zeros 8) live
theorem met_engine_reads :
    ((post 1 0x01 [] live).offers 0 1 0 0x01 0 = true ∧ (post 1 0x02 [] live).offers 0 1 0 0x02 0 = true) ∧
    (takes (post 1 0x12 [1, 5] live) 1 0x12 2 = true ∧ arg (post 1 0x12 [1, 5] live) 1 1 1 = 5) ∧
    ((post 1 0x7F [] live).canTake 0 1 0 = true ∧ ((post 1 0x7F [] live).readCmd 0 1 0).code ∉ gmpCodes) ∧
    takes (post 1 0x31 [1, 1] live) 1 0x31 2 = true ∧
    (served (post 0 0x42 [0] live) 0 0x42 1 = true ∧ arg (post 0 0x42 [0] live) 0 0 1 = 0) ∧
    (served (post 0 0x50 [0] live) 0 0x50 1 = true ∧ arg (post 0 0x50 [0] live) 0 0 1 = 0) ∧
    (served (post 1 0x51 [1, 0] live) 1 0x51 2 = true ∧ arg (post 1 0x51 [1, 0] live) 1 1 1 = 0 ∧
      ((post 1 0x51 [1, 0] live).part 1).cfg.w ≠ 0) ∧
    ((post 1 0x80 [0, 0xFF] live).offers 0 1 0 0x80 2 = true ∧ arg (post 1 0x80 [0, 0xFF] live) 1 1 1 = 0xFF) ∧
    ((post 1 0x80 [0, 15] live).offers 0 1 0 0x80 2 = true ∧ arg (post 1 0x80 [0, 15] live) 1 1 1 < 16) := by decide +kernel
theorem met_long_reads :
    (served (post 1 0x82 [1, 2, 7] live) 1 0x82 3 = true ∧ arg (post 1 0x82 [1, 2, 7] live) 1 1 1 = 2 ∧
      arg (post 1 0x82 [1, 2, 7] live) 1 2 1 < 8) ∧
    ((post 0 0x90 [1] live).offers 0 0 0 0x90 1 = true ∧ (post 0 0x90 [1] live).estate = .e0 ∧ (post 0 0x90 [1] live).longRoom 0 = true ∧
      arg (post 0 0x90 [1] live) 0 0 1 = 1 ∧ (post 0 0x90 [1] live).fwJob = none) ∧
    (logCmd.offers 0 1 0 0x70 0x1C = true ∧ logCmd.longRoom 1 = true) := by decide +kernel

/-- SNAP.TAKE of P1 by P0, to a granule that holds the snapshot exactly. -/
def snapTakeCmd : State :=
  let n := PartRec.snapSize { w := 1, h := 1 }
  post 0 0x60 ([1, 0, 0, 0, 0, 0, 0, 0] ++ toLe 8 (granuleSize - n) ++ toLe 8 n) (live.modPart 0 fun q => { q with cfg := { granules := [7] } })
/-- PLAN.BIND of a plan that just fits the power budget (R181). -/
def bindCmd : State :=
  post 1 0x22 ([1, 3] ++ zeros 22) (part1 fun q => { q with plans := [(3, { verified := true, plan := { powerW := 20400, fieldPower := [432] } })] })
/-- DUMP of P1's two granules in E2 into a buffer of just their size. -/
def dumpCmd : State :=
  post 0 0xA0 ([1, 1, 0, 0, 0, 0, 0, 0] ++ zeros 32 ++ toLe 8 (2 * granuleSize) ++ zeros 24) { live with estate := .e2, rails := Rails.up.standby }
/-- PART.CREATE of P2. -/
def createCmd : State := post 0 0x10 ([2, 3, 1, 0, 10, 0, 0, 0, 2, 0, 3, 0, 100, 0, 0, 0, 2, 0, 0, 0, 0, 0, 0, 0, 0x80] ++ zeros 95) live
theorem met_long_opens :
    served (post 1 0x20 ([1] ++ zeros 19) live) 1 0x20 20 = true ∧
    (served bindCmd 1 0x22 24 = true ∧ (bindCmd.part 1).queue = [] ∧ (bindCmd.part 1).run = none ∧
      (match sfind? (bindCmd.part 1).plans 3 with | some l => l.verified && bindCmd.powerFits 1 l.plan | none => false) = true) ∧
    (served (post 1 0x23 ([1, 3] ++ zeros 22) bindCmd) 1 0x23 24 = true ∧
      (sfind? ((post 1 0x23 ([1, 3] ++ zeros 22) bindCmd).part 1).plans (arg (post 1 0x23 ([1, 3] ++ zeros 22) bindCmd) 1 1 1)).isSome = true) ∧
    (served snapTakeCmd 0 0x60 24 = true ∧ (snapTakeCmd.part 1).run = none ∧ (snapTakeCmd.part 1).queue = [] ∧
      (snapTakeCmd.part 1).cfg.snapSize ≤ arg snapTakeCmd 0 16 8 ∧
      (snapTakeCmd.part 0).cfg.holds (arg snapTakeCmd 0 8 8) (snapTakeCmd.part 1).cfg.snapSize = true) ∧
    (served (post 1 0x61 ([1] ++ zeros 23) live) 1 0x61 24 = true ∧ (live.part 1).run = none ∧ (live.part 1).queue = []) ∧
    served (post 0 0x81 [] live) 0 0x81 0 = true ∧ served (post 0 0x04 (toLe 8 256) live) 0 0x04 8 = true ∧
    (served (post 0 0x91 [0, 1] live) 0 0x91 2 = true ∧ arg (post 0 0x91 [0, 1] live) 0 0 1 ≤ 1 ∧ (live.validBoth 0).isSome = true ∧
      live.cal = none ∧ live.fwJob = none) := by decide +kernel
theorem met_standby_again : takes (post 0 0x04 (toLe 8 256) { live with estate := .e2 }) 0 0x04 8 = true := by decide +kernel
theorem met_dump_opens : takes dumpCmd 0 0xA0 (dumpCmd.readCmd 0 0 0).dumpNeed = true ∧ dumpCmd.estate = .e2 ∧ dumpCmd.dump = none ∧
    (dumpCmd.readCmd 0 0 0).dumpDies ≠ [] ∧ (∀ h ∈ (dumpCmd.readCmd 0 0 0).dumpDies, arg dumpCmd 0 (8 + 8 * h) 8 % 64 = 0) ∧
    dumpCmd.exists (arg dumpCmd 0 0 1) = true ∧
    (∀ x ∈ (dumpCmd.readCmd 0 0 0).dumpDies.zipIdx, dumpShare (dumpCmd.dumpGranules (dumpCmd.readCmd 0 0 0)).length x.2
      (dumpCmd.readCmd 0 0 0).dumpDies.length * granuleSize ≤ arg dumpCmd 0 (0x28 + 8 * x.1) 8) := by decide +kernel
theorem met_part_creates : createCmd.offers 0 0 0 0x10 120 = true ∧ createCmd.ruled = true ∧ createCmd.longRoom 0 = true ∧
    createCmd.estate = .e0 ∧ createCmd.maint = .closed ∧
    recordOk (createCmd.readCmd 0 0 0).payload 2 (parseRecord (createCmd.readCmd 0 0 0).payload) = true ∧ createCmd.creatable 2 = true ∧
    createCmd.roomFor 2 (parseRecord (createCmd.readCmd 0 0 0).payload) = true := by decide +kernel

/-- A firmware image of 576 bytes, its digest field zero. -/
def fwBytes : Bytes :=
  toLe 4 0x5746474B ++ toLe 2 1 ++ toLe 2 512 ++ toLe 2 0x1200 ++ [0xB1, 0] ++ toLe 4 9 ++ [0, 1, 5, 0] ++ toLe 4 64 ++ zeros 552
/-- FW.UPDATE of it. -/
def fwCmd : State := post 0 0x90 (zeros 8 ++ toLe 8 64 ++ toLe 4 576) live
/-- FW.UPDATE, for any hash and signature check that accept the image: the model has neither function's values. -/
theorem met_fw_update_opens (hash : ∀ b, Config.sha384 b = zeros 48) (sig : ∀ k m g, Config.ecdsaP384 k m g = true) :
    (served fwCmd 0 0x90 20 = true ∧ arg fwCmd 0 0 1 = 0 ∧ arg fwCmd 0 8 8 % 64 = 0 ∧ fwCmd.fwJob = none ∧ 512 ≤ arg fwCmd 0 0x10 4 ∧
      arg fwCmd 0 0x10 4 = field (padTo (arg fwCmd 0 0x10 4) fwBytes) 0x14 4 + 512) ∧
    fwCmd.fuses.accepts (fwCmd.fuses.image (padTo (arg fwCmd 0 0x10 4) fwBytes)) = true := by
  refine ⟨by decide +kernel, ?_⟩
  have form : imageForm (padTo (arg fwCmd 0 0x10 4) fwBytes) = true := by
    unfold imageForm; dsimp only; rw [hash]; decide +kernel
  have signed : fwCmd.fuses.signed (padTo (arg fwCmd 0 0x10 4) fwBytes) = true := by
    unfold Fuses.signed; simp only [hash, sig]; decide +kernel
  have rest : (!fwCmd.fuses.keyRevoke.getLsbD (fwCmd.fuses.image (padTo (arg fwCmd 0 0x10 4) fwBytes)).key.val &&
      decide (fwCmd.fuses.count ≤ (fwCmd.fuses.image (padTo (arg fwCmd 0 0x10 4) fwBytes)).rollback)) = true := by decide +kernel
  generalize padTo (arg fwCmd 0 0x10 4) fwBytes = b at *
  have auth : (fwCmd.fuses.image b).authentic = (imageForm b && fwCmd.fuses.signed b) := by unfold Fuses.image; exact Eq.refl _
  unfold Fuses.accepts
  rw [Bool.and_assoc, rest, auth, form, signed]; rfl

/-- A calibration with a run in progress, and one whose measurements run. -/
def calOf (forced running : Bool) (s : State) : State := { s with cal := some { kinds := 15, forced := forced, time := 3, running := running, written := running } }
/-- P1 with a self-test, and its command open. -/
def testing (t : Test) (now : Nat) : State := { open1 (long 0x40 [1, 1]) (part1 fun q => { q with test := some t }) with now := now }
theorem met_self_test_and_cal :
    (served (post 1 0x40 [1, 1] live) 1 0x40 2 = true ∧ arg (post 1 0x40 [1, 1] live) 1 1 1 ≤ 1 ∧ (live.part 1).test = none ∧
      live.longOf? 0x40#8 1 = none ∧ (live.part 1).idle = true ∧ ((part1 fun q => { q with queue := [req] }).part 1).idle = false) ∧
    (let s := post 1 0x41 [7, 0] { live with maint := .opened 5 }
     s.offers 0 1 0 0x41 2 = true ∧ s.cal = none ∧ s.maint = .opened 5 ∧ 0 < arg s 1 0 1 ∧ arg s 1 0 1 < 8 ∧ arg s 1 1 1 = 0) ∧
    (let s := post 0 0x41 [15, 1] { live with maint := .opened 5 }
     s.offers 0 0 0 0x41 2 = true ∧ arg s 0 0 1 < 16 ∧ arg s 0 1 1 < 2) ∧
    (let s := testing (.deferred 10 1) 60000000010
     (s.part 1).test = some (.deferred 10 1) ∧ (s.part 1).idle = true ∧ s.longOf? 0x40#8 1 = some (long 0x40 [1, 1]) ∧
       10 + msCclk s.testDeferMax ≤ s.now) ∧
    (let s := testing (.running 10 1) 0
     (s.part 1).test = some (.running 10 1) ∧ s.longOf? 0x40#8 1 = some (long 0x40 [1, 1])) ∧
    (let s := calOf true false live
     s.cal = some { kinds := 15, forced := true, time := 3 } ∧ ∀ p, p < 16 → (s.part p).run = none) ∧
    ((calOf true false (busy [] (some run))).part 1).run ≠ none ∧
    (let s := open1 (long0 0x41 [15, 0]) (calOf false true live)
     s.cal = some { kinds := 15, forced := false, time := 3, running := true, written := true } ∧ s.longCode? 0x41#8 = some (long0 0x41 [15, 0]) ∧
       s.maint ≠ .closing) := by decide +kernel

/-- QUEUE.CONFIG of P1, the staging area between two plan images. -/
def queueCmd : State :=
  post 1 0x30 ([1, 0] ++ toLe 2 2 ++ toLe 2 1 ++ toLe 2 1 ++ toLe 8 4096)
    (part1 fun q => { q with plans := [(1, { off := 0, len := 4096 }), (2, { off := 20480, len := 64 })] })
/-- The last of P1's two rules written. -/
def ruleCmd : State := post 1 0x30 [1, 1, 1, 1, 0, 0, 0, 0, 0, 0, 0x10, 0x80, 0, 0, 0, 0] live
theorem met_queue_config :
    (let k : QueueCfg := { d := 2, sIn := 1, sOut := 1, off := 4096 }
     served queueCmd 1 0x30 16 = true ∧ arg queueCmd 1 1 1 = 0 ∧ arg queueCmd 1 2 2 = k.d ∧ arg queueCmd 1 8 8 = k.off ∧
       (queueCmd.part 1).cfg.holds 4096 16384 = true ∧ (∀ x ∈ (queueCmd.part 1).plans, meets (4096, 16384) (x.2.off, x.2.len) = false) ∧
       queueCmd.lanesFit 1 k = true) ∧
    (served ruleCmd 1 0x30 (8 + 8 * arg ruleCmd 1 3 1) = true ∧ arg ruleCmd 1 1 1 = 1 ∧ 1 ≤ arg ruleCmd 1 3 1 ∧ arg ruleCmd 1 3 1 ≤ 13 ∧
      arg ruleCmd 1 2 1 + arg ruleCmd 1 3 1 ≤ (sget [] (ruleCmd.part 1).ruleIdx 0).length ∧
      (ruleCmd.readCmd 0 1 0).rules.all ruleOk = true ∧ (sget [] (ruleCmd.part 1).ruleIdx 0).Nodup) := by decide +kernel
theorem met_maint_window :
    (let s := post 0 0x42 ([1, 0, 0, 0] ++ toLe 4 1000) live
     s.offers 0 0 0 0x42 8 = true ∧ s.ruled = true ∧ s.estate = .e0 ∧ arg s 0 0 1 = 1 ∧ arg s 0 4 4 = 1000) ∧
    (let s := post 0 0x42 ([1, 0, 0, 0] ++ toLe 4 3600000) live
     s.offers 0 0 0 0x42 8 = true ∧ arg s 0 4 4 ≤ 3600000) ∧
    (let s := post 0 0x42 [2] live
     s.offers 0 0 0 0x42 1 = true ∧ s.ruled = true ∧ s.estate = .e0 ∧ arg s 0 0 1 = 2 ∧ s.maint = .closed ∧ s.cal = none) ∧
    (let s := post 0 0x42 [2] (calOf false true { live with maint := .opened 8 })
     s.offers 0 0 0 0x42 1 = true ∧ s.cal ≠ none ∧ s.maint = .opened 8) ∧
    (let s := post 0 0x42 [2] { live with maint := .opening 8 }
     s.offers 0 0 0 0x42 1 = true ∧ s.ruled = true ∧ s.estate = .e0 ∧ arg s 0 0 1 = 2 ∧ s.maint = .opening 8) ∧
    (let s := post 0 0x42 ([3, 0, 0, 0, 0, 0, 0, 0] ++ toLe 4 600000) live
     s.offers 0 0 0 0x42 12 = true ∧ arg s 0 0 1 = 3 ∧ arg s 0 8 4 ≤ 600000) ∧
    (∀ p, p < 16 → (live.part p).queue = []) ∧ ((part1 fun q => { q with queue := [req] }).part 1).queue ≠ [] ∧
    (let s : State := { live with maint := .opened 50, now := 50 }
     s.maint = .opened 50 ∧ 50 ≤ s.now ∧ s.cal = none ∧ s.now < 51) := by decide +kernel

/-- POWER.POLICY set. -/
def policyCmd (f t : Nat) : State :=
  post 0 0x50 ([1, 0] ++ toLe 2 23000 ++ toLe 2 f ++ toLe 2 t ++ toLe 4 30000 ++ toLe 4 20) live
theorem met_power_commands :
    ((policyCmd 256 90).offers 0 0 0 0x50 16 = true ∧ (policyCmd 256 90).ruled = true ∧ (policyCmd 256 90).estate = .e0 ∧
      arg (policyCmd 256 90) 0 0 1 = 1 ∧ ((policyCmd 256 90).readCmd 0 0 0).policy.ok = true ∧
      (policyCmd 256 90).allowance ≤ ((policyCmd 256 90).readCmd 0 0 0).policy.fMax) ∧
    ((policyCmd 100 90).offers 0 0 0 0x50 16 = true ∧ ((policyCmd 100 90).readCmd 0 0 0).policy.ok = true ∧
      ((policyCmd 100 90).readCmd 0 0 0).policy.fMax < (policyCmd 100 90).allowance) ∧
    ((policyCmd 256 69).offers 0 0 0 0x50 16 = true ∧ ((policyCmd 256 69).readCmd 0 0 0).policy.ok = false) ∧
    (let s := post 1 0x51 [1, 1, 2] live
     served s 1 0x51 3 = true ∧ arg s 1 1 1 = 1 ∧ arg s 1 2 1 = 2 ∧ (s.part 1).cfg.w ≠ 0 ∧ (s.part 1).park = .serving) ∧
    (let s := post 1 0x51 [1, 1, 3] (part1 fun q => { q with queue := [req] })
     served s 1 0x51 3 = true ∧ arg s 1 2 1 = 3 ∧ (s.part 1).idle = false) ∧
    (let s := post 1 0x51 [1, 2] (part1 fun q => { q with park := .parked })
     served s 1 0x51 2 = true ∧ arg s 1 1 1 = 2 ∧ (s.part 1).cfg.w ≠ 0 ∧ (s.part 1).park = .parked) ∧
    (let s := (win1 fun w => { w with rings := [(3, { enable := true })] }).modPart 1 fun q => { q with park := .parked }
     s.reach 0 1 = true ∧ ((s.window 0 1).ring 3).enable = true ∧ (s.part 1).park = .parked ∧ s.inE0 = true) ∧
    (let s := (win1 fun w => { w with rings := [(3, { enable := true })] }).modPart 1 fun q => { q with park := .parked, bound := some 3 }
     s.reach 0 1 = true ∧ (s.part 1).bound ≠ none ∧ (s.cluster 5).mayWake = true ∧ 5 ∈ (s.part 1).cfg.clusters ∧
       ({ s with estate := .e2 } : State).inE0 = false) := by decide +kernel

/-! ## Witnesses: the work of long commands -/

/-! ### A plan image that PLAN.LOAD accepts: 4,624 bytes as one number, so that the kernel reads its fields by division -/

section PlanImage

theorem getD_toLe (n v i : Nat) : (toLe n v).getD i 0#8 = if i < n then BitVec.ofNat 8 (v / 256 ^ i) else 0#8 := by
  induction n generalizing v i with
  | zero => simp [toLe]
  | succ k ih =>
    cases i with
    | zero => simp [toLe]
    | succ j => rw [toLe, List.getD_cons_succ, ih]; simp [Nat.pow_succ, Nat.mul_comm, Nat.div_div_eq_div_mul]
theorem slice_toLe (n v o k : Nat) (h : v < 256 ^ n) : slice (toLe n v) o k = toLe k (v / 256 ^ o) := by
  induction k generalizing o with
  | zero => rfl
  | succ k ih =>
    rw [slice, toLe, ih, getD_toLe, Nat.pow_succ, Nat.div_div_eq_div_mul]
    by_cases ho : o < n
    · rw [if_pos ho]
    · rw [if_neg ho, Nat.div_eq_of_lt (Nat.lt_of_lt_of_le h (Nat.pow_le_pow_right (by decide) (by omega)))]
theorem leNat_toLe (k v : Nat) : leNat (toLe k v) = v % 256 ^ k := by
  induction k generalizing v with
  | zero => simp [toLe, leNat, Nat.mod_one]
  | succ k ih => rw [toLe, leNat, ih, BitVec.toNat_ofNat, Nat.pow_succ _ k, Nat.mul_comm (256 ^ k), Nat.mod_mul]
theorem field_toLe (n v o k : Nat) (h : v < 256 ^ n) : field (toLe n v) o k = v / 256 ^ o % 256 ^ k := by
  rw [field, slice_toLe n v o k h, leNat_toLe]
theorem length_toLe (k v : Nat) : (toLe k v).length = k := by
  induction k generalizing v with
  | zero => rfl
  | succ k ih => rw [toLe, List.length_cons, ih]
/-- The image (R166 to R172): one slot image of a HALT word, one layer, one resident load, one entry. -/
def imageNat : Nat :=
  75 * 2 ^ 0 + 80 * 2 ^ 8 + 76 * 2 ^ 16 + 78 * 2 ^ 24 + 1 * 2 ^ 32 + 1 * 2 ^ 56 + 18 * 2 ^ 72 + 177 * 2 ^ 80 + 16 * 2 ^ 96 +
  18 * 2 ^ 104 + 81 * 2 ^ 128 + 5 * 2 ^ 192 + 1 * 2 ^ 224 + 1 * 2 ^ 240 + 44 * 2 ^ 256 + 1 * 2 ^ 264 + 1 * 2 ^ 288 + 1 * 2 ^
  304 + 1 * 2 ^ 320 + 1 * 2 ^ 336 + 138 * 2 ^ 352 + 161 * 2 ^ 360 + 244 * 2 ^ 368 + 202 * 2 ^ 376 + 1 * 2 ^ 392 + 16 * 2 ^
  416 + 16 * 2 ^ 424 + 64 * 2 ^ 448 + 17 * 2 ^ 456 + 16 * 2 ^ 480 + 128 * 2 ^ 512 + 17 * 2 ^ 520 + 48 * 2 ^ 544 + 192 * 2 ^
  576 + 17 * 2 ^ 584 + 48 * 2 ^ 608 + 18 * 2 ^ 648 + 16 * 2 ^ 672 + 44 * 2 ^ 896 + 1 * 2 ^ 904 + 1 * 2 ^ 2048 + 144 * 2 ^
  2232 + 255 * 2 ^ 35344 + 255 * 2 ^ 35352 + 64 * 2 ^ 35360 + 128 * 2 ^ 35840 + 255 * 2 ^ 35968 + 255 * 2 ^ 35976 + 255 * 2 ^
  35984 + 255 * 2 ^ 35992 + 16 * 2 ^ 36008 + 1 * 2 ^ 36368 + 64 * 2 ^ 36384 + 64 * 2 ^ 36416 + 100 * 2 ^ 36480 + 32 * 2 ^
  36552 + 48 * 2 ^ 36616
/-- Its bytes. -/
def image : Bytes := toLe 4624 imageNat
theorem imageNat_lt : imageNat < 256 ^ 4624 := by decide +kernel
theorem field_image (o k : Nat) : field image o k = imageNat / 256 ^ o % 256 ^ k := field_toLe _ _ _ _ imageNat_lt
theorem slice_image (o k : Nat) : slice image o k = toLe k (imageNat / 256 ^ o) := slice_toLe _ _ _ _ imageNat_lt
theorem length_image : image.length = 4624 := length_toLe _ _
set_option maxRecDepth 20000
theorem check1_image : check1 image = none := by unfold check1; simp only [field_image]; decide +kernel
theorem check2_image : check2 (live.part 1).cfg image 0 4624 = none := by unfold check2; simp only [field_image]; decide +kernel
theorem check5_image : check5 (live.part 1).cfg image = none := by unfold check5; simp only [field_image]; decide +kernel
theorem section_image (i : Nat) : sectionAt image i = (imageNat / 256 ^ (0x30 + 8 * i) % 256 ^ 4, imageNat / 256 ^ (0x34 + 8 * i) % 256 ^ 4) := by simp only [sectionAt, field_image]
theorem parseBitmaps_empty (k o : Nat) (b : Bytes) : parseBitmaps k b o o = some [] := by cases k <;> simp [parseBitmaps]
theorem no_bitmaps : parseBitmaps 4096 image (sectionAt image 5).1 ((sectionAt image 5).1 + (sectionAt image 5).2) = some [] := by
  have e : (sectionAt image 5).2 = 0 := by rw [section_image]; decide +kernel
  rw [e, Nat.add_zero, parseBitmaps_empty]
/-- The plan it holds. -/
def imagePlan : Plan :=
  { planId := 81, x0 := 5, w := 1, h := 1, powerW := 300, fieldPower := 300 :: List.replicate 47 0
    images := [⟨1, 0, 0x9000000000000000 :: List.replicate 511 0⟩], layers := [⟨0, false, none, 64⟩]
    loads := [⟨0, true, [⟨false, [⟨0xFFFF, 0xFFFF, 0, true⟩, ⟨0, 0, 0, false⟩, ⟨0, 0, 0, false⟩, ⟨0, 0, 0, false⟩]⟩]⟩]
    entries := [⟨0, 1, 64, 64, 100, 8192, 12288⟩] }
theorem parse_image : parsePlan image = imagePlan := by
  unfold parsePlan parseImage parseLayer parseLoad parseEntry parseAssign parseTransfer
  dsimp only
  rw [no_bitmaps]
  simp only [section_image, field_image]; decide +kernel
theorem check4_of (b : Bytes) (h : parseBitmaps 4096 b (sectionAt b 5).1 ((sectionAt b 5).1 + (sectionAt b 5).2) = some [])
    (f : [field b 0x24 2, field b 0x26 2, field b 0x28 2, field b 0x2A 2] = [1, 1, 1, 1])
    (g : ((List.range 8).flatMap (sectionOk b)).all (·.1) = true) (p : parsePlan b = imagePlan) : check4 b = none := by
  simp only [List.cons.injEq, and_true] at f
  unfold check4
  simp only [f.1, f.2.1, f.2.2.1, f.2.2.2, h, p]
  have e : firstBad ((List.range 8).flatMap (sectionOk b)) = none := by
    unfold firstBad
    rw [List.find?_eq_none.2 (by intro x hx; simpa using List.all_eq_true.1 g x hx)]; rfl
  have e' : ∀ l, l = (List.range 8).flatMap (sectionOk b) →
      firstBad ([(decide (1 ≤ 1 ∧ 1 ≤ 4096), 0x24), (decide (1 ≤ 1 ∧ 1 ≤ 64), 0x26), (decide (1 ≤ 1 ∧ 1 ≤ 4096), 0x28), (decide (1 ≤ 1 ∧ 1 ≤ 4096), 0x2A)] ++ l) = none := by
    intro l hl; rw [← hl] at e; exact e
  rw [e' _ rfl]
  rfl
theorem check4_image : check4 image = none := by
  refine check4_of image no_bitmaps ?_ ?_ parse_image
  · simp only [field_image]; decide +kernel
  · unfold sectionOk sectionNeed; simp only [section_image, field_image]; decide +kernel
theorem images_ok : imagesOk image imagePlan = none := by
  unfold imagesOk
  simp only [section_image]; decide +kernel
theorem gangs_ok : gangsOk image imagePlan = none := by
  unfold gangsOk
  simp only [section_image]; decide +kernel
theorem tracks_ok : tracksOk image imagePlan = none := by
  unfold tracksOk
  simp only [section_image]; decide +kernel
theorem check6_image : check6 image imagePlan = none := by
  unfold check6 scalesOk
  rw [images_ok, gangs_ok, tracks_ok]; rfl
theorem check7_image : check7 image imagePlan (live.part 1).cfg = none := by
  unfold check7 reservedOk
  dsimp only
  rw [no_bitmaps]
  simp only [section_image, field_image]; decide +kernel
theorem check8_image : check8 image imagePlan (live.part 1).cfg = none := by
  unfold check8
  simp only [section_image]; decide +kernel
theorem check9_image : check9 (live.part 1) imagePlan = none := by decide +kernel
theorem toLe_add (m k v : Nat) : toLe (m + k) v = toLe m v ++ toLe k (v / 256 ^ m) := by
  induction m generalizing v with
  | zero => simp [toLe]
  | succ m ih => rw [Nat.succ_add, toLe, ih, toLe, List.cons_append, Nat.div_div_eq_div_mul, Nat.pow_succ, Nat.mul_comm 256]
theorem take_toLe (n k v : Nat) : (toLe (n + k) v).take n = toLe n v := by
  rw [toLe_add, List.take_left' (length_toLe n v)]
theorem drop_toLe (n k v : Nat) : (toLe (n + k) v).drop n = toLe k (v / 256 ^ n) := by
  rw [toLe_add, List.drop_left' (length_toLe n v)]
/-- The CRC after 48 bytes, and after every 256 more. -/
def crcs : List (BitVec 32) :=
  [0xDAB1F110, 0x546E3D2E, 0x4B56FC29, 0xFAA749EA, 0x25956FB8, 0xE3649174, 0x92D6B31E, 0xABE2B75F, 0xF1D66FFD, 0x8BCAB55C, 0xA48B8C49, 0x006DD392, 0x2E9FE8A1, 0xB56DA4F9, 0x46893293, 0x733ACCD7, 0x5F4DE5AC, 0xAB86AEED]
theorem crcs_first : (toLe 44 imageNat ++ zeros 4).foldl crcByte 0xFFFFFFFF#32 = crcs.getD 0 0#32 := by decide +kernel
theorem crcs_next : ∀ i, i < 17 → (toLe 256 (imageNat / 256 ^ (48 + 256 * i))).foldl crcByte (crcs.getD i 0#32) = crcs.getD (i + 1) 0#32 := by
  decide +kernel
theorem crcs_last : ~~~((toLe 224 (imageNat / 256 ^ (48 + 256 * 17))).foldl crcByte (crcs.getD 17 0#32)) = BitVec.ofNat 32 (imageNat / 256 ^ 44 % 256 ^ 4) := by
  decide +kernel
theorem crcs_chain (n : Nat) (h : n ≤ 17) : (toLe (256 * n) (imageNat / 256 ^ 48)).foldl crcByte (crcs.getD 0 0#32) = crcs.getD n 0#32 := by
  induction n with
  | zero => rfl
  | succ n ih =>
    rw [Nat.mul_succ, toLe_add, List.foldl_append, ih (by omega), Nat.div_div_eq_div_mul, ← pow_add, crcs_next n (by omega)]
theorem check3_image : check3 image = none := by
  have e : crc32c (image.take 0x2C ++ zeros 4 ++ image.drop 0x30) = BitVec.ofNat 32 (field image 0x2C 4) := by
    rw [field_image, show image.take 0x2C = toLe 44 imageNat from take_toLe 44 4580 imageNat, show image.drop 0x30 = toLe 4576 (imageNat / 256 ^ 48) from drop_toLe 48 4576 imageNat,
      crc32c, List.foldl_append, crcs_first, show (4576 : Nat) = 256 * 17 + 224 from rfl, toLe_add, List.foldl_append, crcs_chain 17 (by omega),
      Nat.div_div_eq_div_mul, ← pow_add]
    exact crcs_last
  unfold check3
  rw [e, beq_self_eq_true]; rfl
theorem relRead_all (s : State) (r : PartRec) (bs : Bytes) (off : Nat)
    (h : ∀ i, i < bs.length → r.ea (off + i) = some (off + i) ∧ mread s.hbm (off + i) = bs.getD i 0#8) : s.relRead r off bs.length = bs := by
  induction bs generalizing off with
  | nil => rfl
  | cons b t ih =>
    rw [List.length_cons, State.relRead, ih (off + 1) fun i hi => ?_]
    · have := h 0 (by simp)
      simp only [Nat.add_zero] at this
      simp [this.1, this.2]
    · have := h (i + 1) (by simp; omega)
      simpa [Nat.add_assoc, Nat.add_comm 1 i] using this
theorem relRead_written (s : State) (r : PartRec) (bs : Bytes) (h : s.hbm = mwrites 0 bs []) (g : ∀ i, i < bs.length → r.ea i = some i) :
    s.relRead r 0 bs.length = bs := by
  refine relRead_all s r bs 0 fun i hi => ?_
  have := mread_mwrites_in [] 0 i bs hi
  rw [Nat.zero_add] at this ⊢
  exact ⟨g i hi, by rw [h, this]; simp [hi]⟩
/-- The engine with such an HBM. -/
def withHbm (m : Mem) : State := { live with hbm := m }
/-- PLAN.LOAD of a range of P1's granules. -/
def loadLong (off len : Nat) : LongCmd := long 0x20 ([1, 0, 0, 0, 0, 0, 0, 0] ++ toLe 8 off ++ toLe 4 len)
/-- PLAN.LOAD of the first bytes of P1's granules open, with such an HBM. -/
def loading (n : Nat) (m : Mem) : State := open1 (loadLong 0 n) (withHbm m)
theorem loading_hbm (n : Nat) (m : Mem) : (loading n m).hbm = m := rfl
theorem loading_part (n : Nat) (m : Mem) : (loading n m).part 1 = live.part 1 := rfl
theorem image_read : (loading 4624 (mwrites 0 image [])).relRead (live.part 1).cfg 0 4624 = image := by
  have := relRead_written (loading 4624 (mwrites 0 image [])) (live.part 1).cfg image (loading_hbm _ _) fun i hi => ?_
  · rw [length_image] at this; exact this
  · rw [length_image] at hi
    unfold PartRec.ea
    have e : (live.part 1).cfg.granules = [0, 1] := rfl
    rw [e, Nat.div_eq_of_lt (Nat.lt_trans hi (by decide)), Nat.mod_eq_of_lt (Nat.lt_trans hi (by decide))]
    simp only [List.getElem?_cons_zero, Option.map_some]; rw [show granuleBase 0 = 0 from rfl, Nat.zero_add]
theorem met_plan_load_done :
    let s := loading 4624 (mwrites 0 image [])
    (s.canonical = true ∧ s.long? 0 1 5 = some (loadLong 0 4624) ∧ (s.part 1).cfg.holds 0 4624 = true) ∧
      (s.part 1).loadFails (s.relRead (s.part 1).cfg 0 4624) 0 4624 = none := by
  have form : (loading 4624 (mwrites 0 image [])).canonical = true := by
    have := wf_mwrites 0 image [] rfl
    unfold State.canonical
    rw [loading_hbm, this]; rfl
  refine ⟨⟨form, by decide +kernel⟩, ?_⟩
  rw [loading_part, image_read]
  unfold PartState.loadFails
  simp [check1_image, check2_image, check3_image, check4_image, check5_image, parse_image, check6_image, check7_image, check8_image, check9_image]

end PlanImage

/-- A plan with no entries, loaded under handle 3, that names the engine's own power bounds. -/
def emptyPlan : Loaded := { plan := { powerW := Config.powerBound [] 48, fieldPower := (List.range 48).map (Config.powerBound []) } }
/-- PLAN.BIND or PLAN.VERIFY of handle 3. -/
def planLong (code : BitVec 8) (stale : Bool) : LongCmd := { long code ([1, 3] ++ zeros 22) with stale := stale }
/-- It open, with a plan under handle 3. -/
def planState (code : BitVec 8) (l : Loaded) (stale : Bool) : State :=
  open1 (planLong code stale) (part1 fun q => { q with plans := [(2, l), (3, l)], bound := some 2 })
theorem met_plan_work : (planState 0x22 plan false).canonical = true ∧ (planState 0x23 plan true).canonical = true ∧
    (let s := open1 (loadLong (2 * granuleSize - 64) 64) live
     s.long? 0 1 5 = some (loadLong (2 * granuleSize - 64) 64) ∧ (s.part 1).cfg.holds (2 * granuleSize - 64) 64 = true ∧
       (s.part 1).loadFails (zeros 64) (2 * granuleSize - 64) 64 = some (1, 0)) ∧
    (let s := planState 0x22 plan false
     s.long? 0 1 5 = some (planLong 0x22 false) ∧ sfind? (s.part 1).plans 3 = some plan ∧ plan.verified = true ∧
       s.powerFits 1 plan.plan = true ∧ (s.part 1).queue = [] ∧ (s.part 1).run = none ∧ (s.part 1).park = .serving ∧
       5 ∈ s.partClusters 1 ∧ (s.cluster 5).mayWake = true) ∧
    (let s := clus (fun k => { k with retired := true }) (planState 0x23 plan false)
     s.long? 0 1 5 = some (planLong 0x23 false) ∧ sfind? (s.part 1).plans 3 = some plan ∧
       (match s.verify 1 plan with | .error f => f.code | .ok _ => 0) = 11) ∧
    ((planState 0x23 plan true).long? 0 1 5 = some (planLong 0x23 true) ∧ (planLong 0x23 true).stale = true ∧
      (sfind? ((planState 0x23 plan true).part 1).plans 3).isSome = true) ∧
    (let s := post 1 0x21 [1, 2] { planState 0x22 plan false with longs := [] }
     served s 1 0x21 2 = true ∧ (sfind? (s.part 1).plans (arg s 1 1 1)).isSome = true ∧ (s.part 1).bound = some (arg s 1 1 1)) ∧
    (let s := post 1 0x21 [1, 3] (planState 0x22 plan false)
     (sfind? (s.part 1).plans (arg s 1 1 1)).isSome = true ∧ (s.part 1).bound ≠ some (arg s 1 1 1)) ∧
    sfind? ((post 1 0x21 [1, 1] (planState 0x22 plan false)).part 1).plans 1 = none := by decide +kernel
/-- PLAN.VERIFY succeeds, for any reading of R157 that finds no absent tile in an empty image. -/
theorem met_plan_verifies (absent : Config.absentTileRead [] = false) :
    (planState 0x23 emptyPlan false).long? 0 1 5 = some (planLong 0x23 false) ∧
    (planState 0x23 emptyPlan false).verify 1 emptyPlan = .ok [] := by
  refine ⟨rfl, ?_⟩
  have found : ((planState 0x23 emptyPlan false).partClusters 1).find? (fun c =>
      ((planState 0x23 emptyPlan false).cluster c).retired || ((planState 0x23 emptyPlan false).cluster c).zoneHeld) = none := rfl
  unfold State.verify
  rw [found]
  simp [emptyPlan, enum, State.verifyEntries, absent]
  intro x hx; simp [hx]

/-- A snapshot of P0, which has no cluster: its 64-byte header alone. -/
def snapBytes0 : Bytes := [0x4B, 0x4E, 0x53, 0x50, 1] ++ zeros 11 ++ toLe 8 1000 ++ zeros 9 ++ [0xA0] ++ zeros 30
/-- SNAP.TAKE or SNAP.RESTORE of P0 at an offset of granule 7. -/
def snapLong (code : BitVec 8) (off : Nat) : LongCmd := long0 code (zeros 8 ++ toLe 8 off ++ toLe 8 64)
/-- It open, with that snapshot in granule 7. -/
def snapState (code : BitVec 8) (off : Nat) : State :=
  open1 (snapLong code off)
    { live.modPart 0 (fun q => { q with cfg := { granules := [7] } }) with hbm := mwrites (7 * granuleSize + 64) snapBytes0 [] }
theorem met_snap_work :
    ((snapState 0x60 64).long? 0 0 5 = some (snapLong 0x60 64) ∧ ((snapState 0x60 64).part 0).run = none ∧
      ((snapState 0x60 64).part 0).queue = []) ∧
    ((snapState 0x61 64).long? 0 0 5 = some (snapLong 0x61 64) ∧
      (snapState 0x61 64).snapOk 0 ((snapState 0x61 64).snapBytes (snapLong 0x61 64)) = true) ∧
    ((snapState 0x61 0).long? 0 0 5 = some (snapLong 0x61 0) ∧
      (snapState 0x61 0).snapOk 0 ((snapState 0x61 0).snapBytes (snapLong 0x61 0)) = false) ∧
    (((snapState 0x61 64).modPart 0 fun q => { q with queue := [req] }).part 0).queue ≠ [] ∧
    (let s := open1 (long 0x60 []) live
     s.long? 0 1 5 = some (long 0x60 []) ∧ (s.part 1).run = none ∧ (s.part 1).queue = [] ∧ 5 ∈ s.partClusters 1 ∧
       (s.cluster 5).bypassed = false ∧ s.leasesOf 5 = []) := by decide +kernel

/-- P2 beside P1: cluster 6. -/
def p2 (r : Option Run) : PartState := { p1 with cfg := { p1.cfg with x0 := 6, hostMask := 3, granules := [9] }, run := r }
/-- PART.CREATE of P2 waits to build it. -/
def building (r : Option Run) : State :=
  open1 { long0 0x10 [] with part := 2 } ((part1 fun q => { q with run := r }).modPart 2 fun _ => { p2 none with life := .building })
/-- PART.DESTROY of P1 waits to give back what it had. -/
def left1 : Leave := { cfg := p1.cfg, ruleIdx := p1.ruleIdx, ctxIdx := [] }
def clearing (r : Option Run) : State := (part1 fun _ => { leaving := [left1] }).modPart 2 fun _ => p2 r
theorem met_partition_life :
    ((building none).canonical = true ∧ (building none).longOf? 0x10#8 2 = some { long0 0x10 [] with part := 2 } ∧
      (building none).borderRun ((building none).part 2).cfg = false ∧ ((building none).part 2).cfg.onDie 2 1 = true) ∧
    ((building (some run)).longOf? 0x10#8 2 = some { long0 0x10 [] with part := 2 } ∧
      (building (some run)).borderRun ((building (some run)).part 2).cfg = true) ∧
    ((clearing none).canonical = true ∧ ((clearing none).part 1).leaving = [left1] ∧ (clearing none).borderRun left1.cfg = false) ∧
    (((clearing (some run)).part 1).leaving = [left1] ∧ (clearing (some run)).borderRun left1.cfg = true) ∧
    (let l := { long0 0x11 [1] with part := 1 }
     let s := open1 l (clearing none)
     s.longOf? 0x11#8 1 = some l ∧ (s.longs.filter fun y => y.code == 0x11#8 && y.part.val == 1).length = 1 ∧
       ((s.cluster 5).violUnsent = 0)) := by decide +kernel
theorem met_partition_ends :
    (let s := post 0 0x11 [1] (busy [req] (some run))
     served s 0 0x11 1 = true ∧ s.maint = .closed ∧ (s.readCmd 0 0 0).named = 1 ∧ s.exists 1 = true ∧ s.fwJob = none ∧ s.longs = []) ∧
    (let s := post 1 0x13 [1, 1] (busy [req] (some run))
     served s 1 0x13 2 = true ∧ arg s 1 1 1 ≤ 1 ∧ (s.part 1).recovering = false ∧ s.canonical = true ∧ s.longs = []) ∧
    (let s := post 1 0x13 [1, 0] (part1 fun q => { q with recovering := true })
     served s 1 0x13 2 = true ∧ arg s 1 1 1 ≤ 1 ∧ (s.part 1).recovering = true) := by decide +kernel

/-- A firmware image in a slot. -/
def fwImage : FwImage := ⟨1, 9, 1, 2, 5, true, true, [1, 2]⟩
/-- FW.ACTIVATE of slot 1. -/
def activating : State :=
  { open1 (long0 0x91 []) live with
    fwJob := some (.activate 1 true), fuses := { rollback := 3 }
    flashA := { State.reset.flashA with slot1 := some fwImage }, flashB := { State.reset.flashB with slot1 := some fwImage } }
/-- A dump of no granule in progress. -/
def dumping : State :=
  { open1 (long0 0xA0 []) live with
    estate := .e2, rails := Rails.up, dump := some { die := 0, fn := 0, seq := 5, granules := [], dies := [0], addrs := [64] } }
theorem met_firmware_work :
    (let s : State := { open1 (long0 0x90 []) live with fwJob := some (.write 1 fwImage) }
     s.supply = .up ∧ s.fwJob = some (.write 1 fwImage) ∧ s.longCode? 0x90#8 = some (long0 0x90 [])) ∧
    (activating.supply = .up ∧ activating.fwJob = some (.activate 1 true) ∧ activating.longCode? 0x91#8 = some (long0 0x91 []) ∧
      activating.estate = .e0 ∧ activating.drained = true ∧ activating.validAt activating.flashA 1 = some fwImage ∧
      activating.validAt activating.flashB 1 = some fwImage) ∧
    (dumping.supply = .up ∧ (dumping.dump.map fun j => (j.die, j.fn, j.seq)) = some (0, 0, 5) ∧ dumping.long? 0 0 5 = some (long0 0xA0 []) ∧
      dumping.aonWake = 0#4) := by decide +kernel
theorem met_seizes :
    (let s := post 0 0x71 [4, 0, 0x21, 0] live
     s.offers 0 0 0 0x71 4 = true ∧ s.ruled = true ∧ s.longRoom 0 = true ∧ s.estate = .e0 ∧ (s.readCmd 0 0 0).lease = some (4, 33) ∧
       s.lease 4 33 = 0x0FFF#16) ∧
    (let s := post 0 0x71 [5, 0, 5, 0] { live with leases := [(leaseKey 5 5, 0x0001#16 ^^^ 0x0FFF#16)] }
     s.offers 0 0 0 0x71 4 = true ∧ (s.readCmd 0 0 0).lease = some (5, 5) ∧ s.lease 5 5 ≠ 0x0FFF#16) := by decide +kernel

/-- A group record with one SEND record, at offset 256. -/
def groupBytes : Bytes :=
  toLe 4 0x5052474B ++ toLe 2 1 ++ zeros 2 ++ toLe 8 0xAB ++ toLe 8 0x51 ++ toLe 8 1 ++ [2, 0] ++ toLe 2 1 ++ [1] ++ zeros 27 ++
    [0, 0, 1, 0, 0, 0, 0, 0] ++
    ([0, 0, 1, 0] ++ toLe 4 8 ++ toLe 4 0 ++ toLe 4 1 ++ toLe 2 1 ++ [0, 0xFF, 0, 0xFF, 0, 0, 4, 0, 0, 0, 0, 0, 0, 0])
/-- COLL.GROUP join of a P1 at cluster 4, which link die L0 adjoins. -/
def joinCmd : State :=
  post 1 0x82 ([1, 0, 7, 0, 0, 0, 0, 0] ++ toLe 8 256 ++ toLe 4 104)
    { part1 (fun q => { q with cfg := { q.cfg with x0 := 4, rcCount := 1 }
                               plans := [(3, { plan with plan := { plan.plan with planId := 0x51 } })] }) with hbm := mwrites 256 groupBytes [] }
/-- LINK.STATE set with the largest guard time. -/
def linkSetCmd (f : Nat) : State :=
  post f 0x80 ([0, 0xFE, 0x7F, 0] ++ toLe 2 1250 ++ [0, 0] ++ [1, 2, 3, 1, 2, 3, 1, 2, 3, 1, 2, 3, 1, 2, 3, 1]) live
theorem met_link_commands :
    (served joinCmd 1 0x82 20 = true ∧ arg joinCmd 1 2 1 < 8 ∧ arg joinCmd 1 1 1 = 0 ∧ (joinCmd.part 1).cfg.holds 256 104 = true ∧
      joinCmd.groupOk 1 (joinCmd.relRead (joinCmd.part 1).cfg 256 104) = true ∧
      (∀ r ∈ (parseGroup (joinCmd.relRead (joinCmd.part 1).cfg 256 104)).recs, r.adds = true → r.context < (joinCmd.part 1).cfg.rcCount)) ∧
    (served (post 1 0x82 [1, 1, 7] live) 1 0x82 3 = true ∧ arg (post 1 0x82 [1, 1, 7] live) 1 1 1 = 1) ∧
    ((linkSetCmd 1).offers 0 1 0 0x80 24 = true ∧ arg (linkSetCmd 1) 1 1 1 = 0xFE) ∧
    ((linkSetCmd 0).offers 0 0 0 0x80 24 = true ∧ (linkSetCmd 0).ruled = true ∧ arg (linkSetCmd 0) 0 4 2 = 1250 ∧
      (∀ m ∈ (List.range 16).map (fun d => arg (linkSetCmd 0) 0 (8 + d) 1), 1 ≤ m ∧ m ≤ 3) ∧
      ∀ d, d < 16 → (linkSetCmd 0).joinedOn d = false) := by decide +kernel

/-! ## Witnesses: serving -/

/-- P1 with the plan bound, its I and E known, and a queue. -/
def serving1 (queue : List Request) : PartState := { bound1 queue none with plans := [(3, { plan with bounds := [(255, 255)] })] }
/-- A request of higher priority than the one that waits. -/
def ahead : Request := { req with prio := 2, fetch := 1000, p := 13, b := 0, i := 255, e := 255 }
theorem met_admission_promise :
    let q := serving1 [{ req with id := 7, prio := 1, promisedEnd := 1400, promise := 1500 }]
    q.qcfg = some { d := 2, sIn := 1, sOut := 1, off := 4096 } ∧
    (match q.decide ahead with | .ok (n, _) => n == 0 | .error _ => false) = true ∧
    (q.queue.filter Request.waits)[0]? = some { req with id := 7, prio := 1, promisedEnd := 1400, promise := 1500 } := by decide +kernel

/-- Ring 2 of P1 with a descriptor at its head, and a rule of P1 for its tag. -/
def fetchable (queue : List Request) (rule : BitVec 64) : State :=
  { live.modPart 1 (fun _ => serving1 queue) with rules := [(4, rule)] }.modWindow 0 1 fun w =>
    { w with rings := [(2, { enable := true, sqLog2 := 4, cqLog2 := 4, sqHead := 65535, sqTail := 2 })] }
/-- A descriptor for entry 0 with a deadline. -/
def descriptor (deadline : Nat) : Bytes :=
  toLe 4 77 ++ zeros 4 ++ toLe 8 deadline ++ toLe 8 8192 ++ toLe 4 64 ++ zeros 4 ++ toLe 8 16384 ++ toLe 4 64 ++ zeros 20
/-- What FETCH of it decides: 0 admitted, 1 not a candidate, 2 a candidate that is shed. -/
def fate (s : State) (d : Bytes) : Nat :=
  match s.candidate 0 1 2 (parseDesc d) with
  | .error _ => 1
  | .ok x => match (s.part 1).decide x with
    | .ok _ => 0
    | .error _ => 2
/-- The engine fetches from ring 2 of P1. -/
def mayTake (s : State) : Bool := s.mayFetch 0 1 2 && s.turnOf 0 1 2 && (s.part 1).dieOrder s.tick 0
theorem met_fetch_decides :
    (let s := fetchable [] 0x82100000
     mayTake s = true ∧ fate s (descriptor 9000) = 0 ∧ fate s (descriptor 900) = 2 ∧ (s.cluster 5).mayWake = true ∧
       (s.part 1).run.any (·.breathing.isSome) = false) ∧
    (let s := (fetchable [] 0x82100000).modPart 1 fun q => { q with run := some { run with breathing := some 9000 } }
     mayTake s = true ∧ fate s (descriptor 9000) = 0 ∧ (s.part 1).run.any (·.breathing.isSome) = true) ∧
    (let s := fetchable [] 0
     mayTake s = true ∧ fate s (descriptor 9000) = 1) ∧ live.mayFetch 0 1 2 = false := by decide +kernel

theorem met_ingress :
    (let r := { req with fetch := 800, inLen := 3 }
     let s := part1 fun _ => bound1 [{ req with id := 2 }, r] none
     (s.part 1).req? 3 = some r ∧ r.stage = .ingress ∧ s.tick ≤ r.fetch + r.i ∧ s.inE0 = true ∧ (s.part 1).cfg.granules.Nodup ∧
       (s.part 1).cfg.ea (r.inBase + 63) = some 8255 ∧ (s.part 1).entryOf r = some ⟨0, 2, 64, 64, 100, 0, 0⟩ ∧ r.discard = false) ∧
    (let r := { req with fetch := 800 }
     (bound1 [r] none).req? 3 = some r ∧ r.stage = .ingress ∧ r.fetch + r.i ≤ live.tick ∧ r.discard = false) ∧
    (let r := { req with fetch := 800, discard := true }
     (bound1 [r] none).req? 3 = some r ∧ r.stage = .ingress ∧ r.fetch + r.i ≤ live.tick) := by decide +kernel

theorem met_runs :
    (let r := { req with stage := .ready, readyAt := some 900 }
     let s := busy [{ req with id := 2, stage := .egress }, r] none
     (s.part 1).next? = some r ∧ (s.part 1).boundPlan = some plan ∧ plan.plan.entries[r.entry]? = some ⟨0, 2, 64, 64, 100, 0, 0⟩ ∧
       plan.plan.layers[0]? = some ⟨0, false, none, 8⟩ ∧ s.canStart 1 r = true) ∧
    (let x := { run with layerEnd := some 8000 }
     let s := busy [{ req with stage := .running }, { req with id := 4 }] (some x)
     (s.part 1).run = some x ∧ (s.part 1).runEnded x = true ∧ s.onEdge = true ∧ x.stop = none ∧ 8000 ≤ s.now) := by decide +kernel

/-- Ring 2 of P1 with a record to write, its completion queue at a tail. -/
def records (tail : BitVec 16) : State :=
  win1 fun w => { w with compl := [{ ring := 1, tag := 7, fetch := 5, status := 0, part := 1 }, { ring := 2, tag := 7, fetch := 5, status := 0, part := 1 }]
                         rings := [(2, { cqBase := 4096, cqLog2 := 4, cqTail := tail, cqHead := 16, openReqs := 3 })] }
theorem met_egress_and_record :
    (let r := { req with stage := .egress, endAt := some 950, outAddr := 10 }
     let s := part1 fun _ => bound1 [{ req with id := 2 }, r] none
     (s.part 1).req? 3 = some r ∧ r.stage = .egress ∧ r.discard = false ∧ s.supply = .up ∧
       [64].filter (fun a => (s.part 1).cfg.granules.contains (granuleOf a)) = [64]) ∧
    (let s := records 31
     (s.window 0 1).compl.find? (fun c => c.ring == 2) = some { ring := 2, tag := 7, fetch := 5, status := 0, part := 1 } ∧ s.supply = .up ∧
         s.estate ≠ .e2 ∧ s.taken 1 = true ∧ (((s.window 0 1).ring 2).cqTail - ((s.window 0 1).ring 2).cqHead).toNat < 16) ∧
    16 ≤ ((((records 32).window 0 1).ring 2).cqTail - (((records 32).window 0 1).ring 2).cqHead).toNat := by decide +kernel

/-! ## Witnesses: the core -/

theorem met_set_writes :
    ((core 0x404800FFFFFFFFFF id).issues 5 16 .set = true ∧ wbits 0x404800FFFFFFFFFF#64 57 48 = 0x48) ∧
    ((core 0x404F000000000000 id).issues 5 16 .set = true ∧ wbits 0x404F000000000000#64 57 48 = 0x4F) ∧
    ((core 0x4010000000000001 id).issues 5 16 .set = true ∧ regMask (wbits 0x4010000000000001#64 57 48) ≠ none) ∧
    (core 0x43FF00FFFFFFFFFF id).issues 5 16 .set = true := by decide +kernel

/-- A guarded layer of an elastic plan, whose FIRE words 0 to 6 do nothing, at the LOOP that repeats words 0 to 7. -/
def skipping : State :=
  (core 0x8100000000000000 fun k => { k with guarded := true, regs := [(1, 5)], k := [(1, 4)] }).modPart 1 fun q =>
    { q with cfg := { q.cfg with attr := 1 }, plans := [(3, { plan with plan := { plan.plan with elastic := true } })] }
theorem met_control_words :
    (let s := core 0x8126800000000000 fun k => { k with regs := [(1, 5)], k := [(1, 4)] }
     s.issues 5 16 .loop = true ∧ s.skips 5 16 = false ∧ (s.coreAt 1377).kval 1 < (s.coreAt 1377).lval 1) ∧
    (let s := core 0x8126800000000000 id
     s.issues 5 16 .loop = true ∧ s.skips 5 16 = false ∧ (s.coreAt 1377).lval 1 ≤ (s.coreAt 1377).kval 1) ∧
    (skipping.issues 5 16 .loop = true ∧ skipping.skips 5 16 = true) ∧ (core 0x8800048000000000 id).issues 5 16 .wait = true ∧
    (let s := core 0x8800048000000000 fun k => { k with waitEnd := some 50 }
     s.clocked 5 = true ∧ (s.coreAt 1377).hold = none ∧ (s.coreAt 1377).waitEnd = some 50 ∧ 50 ≤ (s.coreAt 1377).pt) ∧
    (core 0x9000000000000000 id).issues 5 16 .halt = true ∧
    (∃ v ∈ ({ store := [7] } : Ecc).store, v.val = ((core 0 id).coreAt 1377).pc) := by
  refine ⟨?_, ?_, ?_, ?_, ?_, ?_, 7, ?_, ?_⟩ <;> decide +kernel
theorem met_fire_issues :
    (let s := core 0 id
     s.issues 5 16 .fire = true ∧ (s.coreAt 1377).rxHead .vec s.now = none ∧ ((s.coreAt 1377).fired 0).swap = false) ∧
    (let s := core 0x0000100000000000 id
     s.issues 5 16 .fire = true ∧ ((s.coreAt 1377).fired 0x0000100000000000).swap = true ∧ (s.coreAt 1377).due .wload = []) := by decide +kernel

/-- The core with one piece of work due. -/
def due1 (a : Act) : State := core 0 fun k => { k with pipe := [⟨90, 40, .sca 3 5⟩, ⟨50, 44, a⟩] }
theorem met_landings :
    (∀ a ∈ [Act.mac 5 false [1, 0x40000000, 3], .vec 5 [(0, 3), (31, 4)], .sca 5 9, .wload [[1], [2, 3]], .sload [1, 2]],
      (due1 a).moves 5 16 = true) ∧
    ((due1 (.mac 5 false [1, 3])).coreAt 1377).due .mac = [⟨50, 44, .mac 5 false [1, 3]⟩] ∧ ([1, 3] : List (BitVec 32))[1]? = some 3 ∧
    ((due1 (.vec 5 [(0, 3), (31, 4)])).coreAt 1377).due .vec = [⟨50, 44, .vec 5 [(0, 3), (31, 4)]⟩] ∧
    ((due1 (.sca 5 9)).coreAt 1377).due .sca = [⟨50, 44, .sca 5 9⟩] ∧
    ((due1 (.wload [[1]])).coreAt 1377).due .wload = [⟨50, 44, .wload [[1]]⟩] ∧
    ((due1 (.sload [1, 2])).coreAt 1377).due .sload = [⟨50, 44, .sload [1, 2]⟩] := by decide +kernel

/-- A gang step of cluster 5 issued at 0, at a gang time. -/
def gangStep : GangStep := { issued := 0, entry := 3, init := true, cfg := 0, rows := [(0, [1, 2])], tiles := [], done := [2] }
def ganging (t : Nat) : State := clus (fun k => { k with ganged := true, gang := [gangStep], gangPt := t }) (core 0 id)
theorem met_drain_and_gang :
    (let s := due1 (.drain 1023 32 [1, 2, 3])
     s.clocked 5 = true ∧ (s.coreAt 1377).hold = none ∧ s.holdNow 5 16 = none ∧
       (s.coreAt 1377).due .drain = [⟨50, 44, .drain 1023 32 [1, 2, 3]⟩]) ∧
    ((ganging 545).moves 5 255 = true ∧ ((ganging 545).cluster 5).gang.find? (fun g =>
      decide (g.issued + 530 + 15 + (if halfRate g.cfg then 1 else 0) ≤ ((ganging 545).cluster 5).gangPt) && !g.done.contains 15) = some gangStep) := by
  decide +kernel

/-- A core held at the phase of CCLK 8000 with a count. -/
def heldCore (w : BitVec 64) (count : Nat) : State :=
  core w fun k => { k with hold := some { phase := 0, count := count, kind := .queue, cause := .word }
                           slots := [(1, { steps := 500, presets := 1, words := [(7, w), (504, 0x40000)] })] }
theorem met_halts_and_holds :
    (let s := core 0 fun k => { k with haltAt := some 49 }
     s.clocked 5 = true ∧ (s.coreAt 1377).active = true ∧ (s.coreAt 1377).halted = false ∧ (s.coreAt 1377).hold = none ∧
       (s.coreAt 1377).haltAt = some 49 ∧ 49 < (s.coreAt 1377).pt ∧ (s.coreAt 1377).pipe = [] ∧ (s.cluster 5).gang = []) ∧
    (let s := heldCore 0 3
     s.clocked 5 = true ∧ (s.coreAt 1377).hold = some { phase := 0, count := 3, kind := .queue, cause := .word } ∧ s.phase = 0 ∧
       s.causeNow 5 16 = none) ∧
    (let s := heldCore 0x06000000 4096
     s.clocked 5 = true ∧ (s.coreAt 1377).wdog = false ∧ (s.coreAt 1377).hold = some { phase := 0, count := 4096, kind := .queue, cause := .word } ∧
       (s.causeNow 5 16).isSome = true ∧ s.partOf 5 = some 1 ∧ (s.part 1).run = some run) ∧
    (let x := { run with haltedAt := some 3904 }
     let s := (core 0 id).modPart 1 fun q => { q with run := some x }
     s.clocked 5 = true ∧ (s.coreAt 1377).wdog = false ∧ (s.coreAt 1377).hold = none ∧ (s.coreAt 1377).late = none ∧
       s.runAt 5 = some (1, x) ∧ 3904 + 4096 ≤ s.now) ∧
    (let s := core 0 fun k => { k with late := some (8000, .queue) }
     s.clocked 5 = true ∧ (s.coreAt 1377).wdog = false ∧ (s.coreAt 1377).hold = none ∧ (s.coreAt 1377).late = some (s.now, .queue)) := by
  decide +kernel

/-! ## Witnesses: the data networks and the strings -/

/-- A word on its way into port W of the core, the core routing by one vector preset word. -/
def flight : Flight := { net := .vec, cl := 5, core := 17, port := .w, time := 8000, data := [1, 2, 3] }
def routing (preset : BitVec 64) (f : Core → Core) : State :=
  { core 0 fun k => f { k with fence := 0, slots := [(1, { steps := 500, presets := 1, words := [(504, preset)] })] } with
    flights := [{ flight with port := .n }, flight] }
/-- Port W with one queued word. -/
def queuedAt (k : Core) : Core := { k with vec := { k.vec with inp := [(3, { queue := [{ data := [7] }, { data := [9] }], headFrom := 8000 })] } }
theorem met_data_networks :
    (let s := routing 0 id
     s.wafer = true ∧ s.arriving 1377 .vec .w = some flight ∧ (s.coreAt 1377).fenced .w = false ∧ s.cutsThrough 5 16 .vec .w = false) ∧
    (let s := routing 0 fun k => { k with fence := 8 }
     s.wafer = true ∧ s.arriving 1377 .vec .w = some flight ∧ (s.coreAt 1377).fenced .w = true) ∧
    (let s := routing 0x40 id
     s.arriving 1377 .vec .w = some flight ∧ s.cutsThrough 5 16 .vec .w = true ∧ (neighbour 5 16 .w).isSome = true) ∧
    (let s := routing 0x40 queuedAt
     let q := (s.coreAt 1377).inPort .vec .w
     q.queue = { data := [7] } :: [{ data := [9] }] ∧ q.headFrom ≤ s.now ∧ (s.coreAt 1377).destsOf .vec .w = ([.e], false) ∧
       s.canPass 1377 .vec .e s.now = true) ∧
    (let s := routing 0x440 fun k => queuedAt { k with vec := { out := [(2, { used := 64 })] } }
     (s.coreAt 1377).destsOf .vec .w = ([.e, .s], false) ∧ s.canPass 1377 .vec .e s.now = true ∧ s.canPass 1377 .vec .s s.now = false) ∧
    (let s := routing 0x400 fun k => queuedAt { k with vec := { out := [(2, { used := 64 })] } }
     (s.coreAt 1377).destsOf .vec .w = ([.s], false) ∧ s.canPass 1377 .vec .s s.now = false) ∧
    (let s := routing 0x40 fun k => queuedAt { k with fence := 2 }
     (s.coreAt 1377).destsOf .vec .w = ([.e], false) ∧ s.canPass 1377 .vec .e s.now = true ∧ (s.coreAt 1377).fenced .e = true) := by
  decide +kernel

/-- A frame to cluster 5. -/
def hdr (target : BitVec 9) (src : Src) : Hdr := { frame 0 with target := target, src := src }
/-- The frame is at cluster 5, and delivered. -/
def reaches (s : State) (h : Hdr) : Bool := s.supply == .up && h.dest == .cluster 5 && s.lostTo h.src 5 == none && s.delivers h.src 5
/-- Every link of cluster 5 out of service. -/
def cutOff (s : State) : State := clus (fun k => { k with linksOff := 15 }) s
theorem met_frame_rights :
    live.supply = .up ∧ (live.lostTo (.cluster 6) 5 = none ∧ live.delivers (.cluster 6) 5 = false) ∧ ((cutOff live).lostTo (.cluster 5) 6).isSome = true ∧
    live.fromPart (.cluster 6) 1 = false ∧ (live.fromPart (.cluster 5) 1 = true ∧ live.canonical = true) ∧
    ({ live with supply := .reset } : State).supply ≠ .up := by decide +kernel
theorem met_register_frames :
    (let s := busy [] none
     reaches s (hdr 17 (.pup 3)) = true ∧ (s.cluster 5).at .c0 = true ∧ (17#9).toNat < 272 ∧ nodeReg .coStatus = false ∧ regMask (0x40#10).toNat ≠ none) ∧
    (reaches live (hdr 0x1FF (.cluster 5)) = true ∧ nodeReg .nodeCfg = true) ∧
    (let s := clus (fun k => { k with power := .c3 }) live
     reaches s (hdr 17 (.pup 3)) = true ∧ (s.cluster 5).noTarget = true) ∧
    (reaches live (hdr 17 (.pup 3)) = true ∧ (live.cluster 5).noTarget = false ∧ (live.cluster 5).at .c0 = false ∧ live.breathes 5 = false) ∧
    (let x : Cl × Hdr × StrReg × BitVec 128 := (5, hdr 17 (.pup 3), .coStatus, 5)
     let s : State := { live with regReplies := [(5, hdr 16 (.pup 3), .coStatus, 4), x] }
     s.regReplies.find? (fun x => x.2.1 == hdr 17 (.pup 3) && x.2.2.1 == .coStatus) = some x ∧ s.lostBack 5 (.pup 3) = none ∧
       ((cutOff s).lostBack 5 (.pup 3)).isSome = true) ∧ live.regReplies = [] := by decide +kernel
theorem met_slot_loads :
    (let s := core 0 id
     reaches s (hdr 0x1FE (.pup 3)) = true ∧ 511 < 512 ∧ (s.cluster 5).at .c0 = true ∧ (s.coreAt 1377).active = true ∧ (s.coreAt 1377).slot = 1 ∧
       (2#16).getLsbD (16 / 16) = true ∧ (1#16).getLsbD (16 % 16) = true) ∧
    (let s := clus (fun k => { k with power := .c2 }) live
     reaches s (hdr 0x1FE (.pup 3)) = true ∧ (s.cluster 5).noTarget = true) ∧
    sfind? (live.cluster 5).store 3 = none ∧
    (sfind? ((clus (fun k => { k with store := [(3, ⟨1, 3, 0, {}⟩)] }) live).cluster 5).store 3).isSome = true := by decide +kernel

/-- Reports of cores that wait for the Marionette, and a NO_TARGET of cluster 5 for cluster 6. -/
def reports : State :=
  clus (fun k => { k with beatAt := some 3, missed := 1, violUnsent := 4, violCount := 9, haltSeen := (List.range 256).map (Fin.ofNat 256) })
    { busy [] (some run) with coreEvents := [(5, 17, true, false, false), (5, 16, false, false, true)], noTargets := [(4, .cluster 6, 3), (5, .cluster 6, 9)] }
/-- The NO_TARGET frame that tells it. -/
def answer : Hdr := { dest := .cluster 6, target := 0x1FF, src := .cluster 5, length := 1 }
theorem met_strings_node :
    (reaches reports (hdr 0x1FF (.cluster 5)) = true ∧ forNode (hdr 0x1FF (.cluster 5)) = true ∧ reports.runAt 5 = some (1, run) ∧
      5 = rectLeader (reports.part 1).cfg.x0 (reports.part 1).cfg.y0 (reports.part 1).cfg.w (reports.part 1).cfg.h ∧
      (reports.cluster 5).haltSeen.length = 256) ∧
    ((reports.lostToDie 5 3).isNone = true ∧ ((cutOff reports).lostToDie 5 3).isSome = true) := by decide +kernel
theorem met_strings_counts :
    reports.coreEvents.find? (fun x => x.1.val == 5 && x.2.1.val == 16) = some (5, 16, false, false, true) ∧
    reports.coreEvents.find? (fun x => x.1.val == 5 && x.2.1.val == 17) = some (5, 17, true, false, false) ∧
    ((reports.cluster 5).violUnsent ≠ 0 ∧ (reports.cluster 5).assigned = true) ∧
    (reports.noTargets.find? (noTargetFor answer) = some (5, .cluster 6, 9) ∧ reports.lostBack 5 (.cluster 6) = none ∧
       ((cutOff reports).lostBack 5 (.cluster 6)).isSome = true) := by decide +kernel
/-- A scan of cluster 5 that began at CCLK 5, at a CCLK. -/
def scanning (now : Nat) : State :=
  clus (fun k => { k with scanning := true, scanAt := 5 }) { live with now := now, leases := [(leaseKey 5 5, 0x1005 ^^^ 0x0FFF#16)] }
theorem met_scans :
    (reaches live (hdr 0x1FF (.pup 3)) = true ∧ forNode (hdr 0x1FF (.pup 3)) = true ∧ (live.cluster 5).scanning = false ∧ live.mayScan 5 = true ∧
      live.lease 5 5 = 0x0FFF#16) ∧
    (clus (fun k => { k with scanBypass := true }) live).mayScan 5 = false ∧
    ((scanning 40005).cluster 5).scanning = true ∧ ((scanning 40005).cluster 5).scanAt + 40000 ≤ (scanning 40005).now ∧
    (scanning 40005).leasesOf 5 = [{ kind := 5, index := 5, tag := 0x1005 }] ∧ ({ scanning 40005 with leases := [] } : State).leasesOf 5 = [] ∧
    (scanning 40004).now < ((scanning 40004).cluster 5).scanAt + 40000 ∧
    (live.lease 5 5 = 0x1005 → (0x1005#16 : BitVec 16) = 0x0FFF#16) ∧ ((scanning 5).lease 5 5 = 0x1005 ∧ (0x1005#16 : BitVec 16) ≠ 0x0FFF#16) ∧
    (let s := clus (fun k => { k with power := .c3 }) live
     reaches s (hdr 17 (.pup 3)) = true ∧ (s.cluster 5).noTarget = true) := by decide +kernel

/-! ## Witnesses: slot switches, HBM and data movement -/

/-- A plan whose second layer is loaded by its one run load. -/
def loads1 : Loaded :=
  { plan with plan := { plan.plan with loads := [⟨2, false, [⟨false, [⟨0xFFFF, 0xFFFF, 0, true⟩]⟩]⟩]
                                       images := [⟨1, 0, [0x9000000000000000#64]⟩], layers := [⟨0, false, none, 8⟩, ⟨1, true, some 0, 92⟩] } }
/-- A run of it in its first layer, the switch set for CCLK 8000. -/
def switching (sent : Bool) (c : BitVec 48) : Run :=
  { run with layer := 0, switch := some { layer := 1, time := 8000, flits := switchFlits 1 true c, sent := sent }, loads := [(0, false)] }
def runs1 (x : Run) : State := (busy [{ req with stage := .running }] (some x)).modPart 1 fun q => { q with plans := [(3, loads1)] }
/-- It with every core of the cluster commanded. -/
def commanded : State := { runs1 (switching true 8000) with cores := (List.range 272).map fun i => (1360 + i, { cmd := some (1, true, 8000) }) }
/-- It at the end of its first layer. -/
def ending : Run := { run with layer := 0, layerEnd := some 7000 }
def endState : State := clus (fun k => { k with haltSeen := (List.range 256).map (Fin.ofNat 256) }) (runs1 ending)
theorem met_slot_switches :
    (endState.wafer = true ∧ (endState.part 1).run = some ending ∧ sfind? (endState.part 1).plans 3 = some loads1 ∧
      reaches endState (hdr 0x1FF (.cluster 5)) = true ∧ forNode (hdr 0x1FF (.cluster 5)) = true ∧ endState.partOf 5 = some 1 ∧
      5 = rectLeader (endState.part 1).cfg.x0 (endState.part 1).cfg.y0 (endState.part 1).cfg.w (endState.part 1).cfg.h) ∧
    ((endState.cluster 5).haltSeen.length = 256 ∧ loads1.plan.entries[0]? = some ⟨0, 2, 64, 64, 100, 0, 0⟩ ∧
      (endState.part 1).req? 3 = some { req with stage := .running } ∧ ending.layer + 1 ≠ 0 + 2 ∧
      loads1.plan.layers[1]? = some ⟨1, true, some 0, 92⟩ ∧ ∀ x ∈ (endState.part 1).cfg.clusters, x = 5) := by decide +kernel
theorem met_slot_switch_frame :
    (let s := runs1 (switching false 8000)
     s.wafer = true ∧ s.canonical = true ∧ (∀ c ∈ s.partClusters 1, (s.cluster c).at .c0 = true) ∧
       s.fromPart ((s.part 1).cfg.switchHdr 1).src 1 = true ∧ s.now ≤ s.timeOf (switchCmd (switchFlits 1 true 8000)).2.2 ∧
       s.timeOf (switchCmd (switchFlits 1 true 7999)).2.2 < s.now ∧ (s.partClusters 1).Nodup) ∧
    (commanded.switchKnown 1 = true ∧ 8000 ≤ commanded.now ∧ commanded.phase = 0 ∧ (switching true 8000).loaded loads1.plan 1 = true ∧
      ∀ c ∈ commanded.partClusters 1, (commanded.cluster c).trans = none ∧ (commanded.cluster c).power.depth ≤ 1) ∧
    (loads1.plan.loads[0]? = some ⟨2, false, [⟨false, [⟨0xFFFF, 0xFFFF, 0, true⟩]⟩]⟩ ∧ (switching true 8000).loads.contains (0, false) = true) := by
  decide +kernel
theorem met_slot_switch_nodes (c : Nat) :
    (((runs1 (switching false 8000)).cluster c).assigned = true ∧ ((runs1 (switching false 8000)).cluster c).partition = 1) ↔
      c ∈ (runs1 (switching false 8000)).partClusters 1 := by
  have one : (runs1 (switching false 8000)).partClusters 1 = [5] := by decide +kernel
  by_cases h : c = 5
  · subst h; decide +kernel
  · have none : (runs1 (switching false 8000)).cluster c = {} := by
      have e : (runs1 (switching false 8000)).clusters = [(5, (runs1 (switching false 8000)).cluster 5)] := by decide +kernel
      rw [State.cluster, e]; simp [sget, sfind?, Ne.symm h]
    rw [one, none]; simp [h]

/-- A transfer record of each kind for the core, in layer 1. -/
def transfer (kind : Nat) : Transfer :=
  { layer := 1, kind := kind, area := 0, start := 8, count := 2, period := 1, channel := 0, hbm := 4096, cluster := 5, core := 16, spad := 65536 }
def scheduled : Loaded := { plan with plan := { plan.plan with sched := [transfer 1, transfer 2] } }
/-- A run of layer 1 from CCLK 7960, with the lines of core-to-HBM reads that wait to move. -/
def moving (lines : List (Nat × Nat × Bytes)) : Run := { run with layerAt := 7960, readLines := lines }
/-- CCLK 8000 + `sub` of it, lines for the core's port 3 waiting. -/
def port3 (sub : Nat) (lines : List (Nat × Nat × Bytes)) (chan : List ChanLine) : State :=
  { (busy [{ req with stage := .running }] (some (moving lines))).modPart 1 fun q => { q with plans := [(3, scheduled)] } with sub := sub }.modCore 1377
    fun _ => { active := true, slot := 1, pc := 2, pt := 50, nextIssue := 80, chan := chan }
def chanLine (chan : Nat) (line : LineOf) : ChanLine := ⟨7950, chan, 65536, [1, 2, 3], line⟩
theorem met_channel_lines :
    (let s := port3 2 [] [chanLine 4 (.sched 1 0 0), chanLine 3 (.sched 1 0 0)]
     s.clocked 5 = true ∧ s.wordTakes3 5 16 = false ∧
       (s.writesNow 5 16).find? (fun l => s.served3 5 16 l.eligible l.chan) = some (chanLine 3 (.sched 1 0 0))) ∧
    (let s := port3 2 [] [chanLine 64 (.link 1 2 0 1 3)]
     s.clocked 5 = true ∧ s.wordTakes3 5 16 = false ∧ (s.part 1).run = some (moving []) ∧ (moving []).stop = none ∧
       (s.writesNow 5 16).find? (fun l => s.served3 5 16 l.eligible l.chan) = some (chanLine 64 (.link 1 2 0 1 3))) ∧
    (let s := port3 2 [] []
     s.clocked 5 = true ∧ s.runAt 5 = some (1, moving []) ∧ s.wordTakes3 5 16 = false ∧
       ((s.readsNow 5 16).find? fun w => s.served3 5 16 w.since w.chan).isSome = true ∧ (s.coreAt 1377).port3 ≠ some s.now ∧
       ((s.readsNow 5 16).find? fun w => decide (w.until_ ≤ s.now)).isSome = true ∧ s.holdNow 5 16 = none) ∧
    (let s := port3 0 [(0, 0, []), (1, 0, [9, 0, 8])] []
     let x := moving [(0, 0, []), (1, 0, [9, 0, 8])]
     s.wafer = true ∧ (s.part 1).run = some x ∧ sfind? (s.part 1).plans 3 = some scheduled ∧
       (s.part 1).req? 3 = some { req with stage := .running } ∧
       (scheduled.plan.sched[0]? = some (transfer 1) ∧ s.slotReady x (transfer 1) 0 0 = true) ∧
       (scheduled.plan.sched[1]? = some (transfer 2) ∧ s.slotReady x (transfer 2) 1 0 = true) ∧
       (s.part 1).cfg.reach (transfer 1) (req.lineOff (transfer 1) 0) = some 4096 ∧
       (s.part 1).cfg.reach (transfer 2) (req.lineOff (transfer 2) 0) = some 4096 ∧ sget 0 s.slotUse (granuleOf 4096) ≠ s.tick + 1 ∧
       x.readLines.find? (fun y => y.1 == 1 && y.2.1 == 0) = some (1, 0, [9, 0, 8])) := by decide +kernel
/-- A core whose word would issue at the CCLK of its forced read, and a transfer whose channel does not reach its line. -/
theorem met_channel_corners :
    (let s := (port3 2 [] []).modCore 1377 fun k => { k with nextIssue := 50, pc := 7, slots := [(1, { steps := 500, words := [(7, 0x04000000)] })] }
     s.clocked 5 = true ∧ s.runAt 5 = some (1, moving []) ∧ (s.coreAt 1377).port3 ≠ some s.now ∧
       ((s.readsNow 5 16).find? fun w => decide (w.until_ ≤ s.now)).isSome = true ∧ (s.cluster 5).ganged = false ∧
       s.ownHold 5 16 = some (.queue, .forced)) ∧
    (let x := { transfer 1 with channel := 40 }
     let s := (port3 0 [] []).modPart 1 fun q => { q with plans := [(3, { plan with plan := { plan.plan with sched := [x] } })] }
     s.slotReady (moving []) x 0 0 = true ∧ (s.part 1).cfg.reach x (req.lineOff x 0) = none ∧
       inRect (s.part 1).cfg.x0 (s.part 1).cfg.y0 (s.part 1).cfg.w (s.part 1).cfg.h x.cluster = true) := by decide +kernel

/-- The DMA queue of P1, with a transfer in progress. -/
def dmaState (job : Option DmaJob) : State :=
  win1 fun w => { w with dma := { base := 8192, enable := true, sizeLog2 := 4, head := 15, tail := 17, job := job } }
def job (kind src dst : Nat) : DmaJob := { index := 5, tag := 7, kind := kind, length := 128, src := src, dst := dst }
theorem met_hbm_and_dma :
    (live.supply = .up ∧ 0xBFFFFFFF < 0xC0000000) ∧
    (let s := dmaState none
     s.inE0 = true ∧ s.isOpen 0 1 = true ∧ (s.window 0 1).dma.enable = true ∧ (s.window 0 1).dma.job = none ∧
       (s.window 0 1).dma.head ≠ (s.window 0 1).dma.tail) ∧
    dmaBad (zeros 64) = true ∧
    dmaBad (toLe 4 9 ++ toLe 1 1 ++ zeros 3 ++ toLe 4 128 ++ zeros 4 ++ toLe 8 4096 ++ toLe 8 64 ++ zeros 32) = false ∧
    (∀ j ∈ [job 1 4096 64, job 1 4096 (2 * granuleSize - 64), job 2 64 4096],
      (dmaState (some j)).inE0 = true ∧ ((dmaState (some j)).window 0 1).dma.job = some j) ∧
    (live.part 1).cfg.ea (4096 + Nat.min 64 128 / 64 * 64) = some 4160 ∧ (live.part 1).cfg.granules.Nodup ∧
    (job 1 4096 (2 * granuleSize - 64)).violates (live.part 1) = true ∧ (job 1 4096 64).violates (live.part 1) = false := by decide +kernel

/-! ## Witnesses: links -/

/-- Link die 2 with port 0, at ET 1008. -/
def linked (o : Port) : State := { live with links := [(2, { ports := [(0, o)] })], et := 1008 }
def upPort : Port := { up := true, everUp := true, delay := 10, owned := [(1, [3, 4])], nextSeq := 9, cycles := 5 }
def syncCell (et : BitVec 64) : SyncCell := { et := et, serial := 4, timePri := 1, isMaster := false, masterSerial := 4, lastSyncEt := 3 }
/-- A group of P1 that adjoins a port. -/
def groupOn (die : Nat) (joined : Bool) (recs : List LinkRec) : Group :=
  { token := 0xAB, planId := 0, mask := 1, members := 2, position := 0
    ports := [{ die := die, port := 0, partner := 1, joined := joined, theirs := 2 }], recs := recs }
/-- A full retime that finds an engine at ET 1009 on that port, with an offset after it. -/
def retime (d : BitVec 16) : Retime := { peers := [{ serial := 7, timePri := 1, et := 1009 }], ports := [⟨2, 0, 5, d, 1⟩] }
theorem met_link_ports :
    ((linked {}).linksOn = true ∧ 0 < ((linked {}).link 2).portCount ∧ ((linked {}).port 2 0).up = false ∧ ((linked {}).port 2 0).everUp = false) ∧
    (let s := linked { everUp := true }
     (s.port 2 0).up = false ∧ (s.port 2 0).everUp = true ∧ (s.theta 1010 (delayOf 20)).toInt.natAbs ≤ s.guardG ∧
       s.guardG < (s.theta 5000 (delayOf 20)).toInt.natAbs) ∧
    ((linked upPort).linksOn = true ∧ ((linked upPort).port 2 0).up = true ∧ ((linked upPort).port 2 0).upstream = false ∧
      (linked upPort).onEdge = true ∧ (linked upPort).tick % 36 = 0 ∧ ((linked upPort).port 2 0).cycles % 2 = 1) ∧
    ((linked { upPort with cycles := 6 }).port 2 0).cycles % 2 = 0 ∧ ((linked { upPort with cycles := 6 }).port 2 0).joins = [] ∧
    (let s := (linked { upPort with cycles := 6, joins := [(1, 2)] }).modPart 1 fun q => { q with groups := [(2, groupOn 2 true [])] }
     (s.port 2 0).joins = [(1, 2)] ∧ sfind? (s.part 1).groups 2 = some (groupOn 2 true [])) ∧
    ((linked upPort).etClock = .tclk ∧ (linked upPort).retimes (retime 0xFFFF) = true ∧ (linked upPort).groupsQuiet = true) ∧
    (linked upPort).retimes (retime 2) = false ∧
    ((linked upPort).modPart 1 fun _ => { bound1 [] (some run) with groups := [(2, groupOn 2 true [])] }).groupsQuiet = false := by decide +kernel

/-- A data cell of stream 7, and it as it waits to go out or has gone. -/
def cell (seq : BitVec 16) (index : Nat) : Cell :=
  { retrans := false, position := 3, part := 1, group := 2, seq := seq, stream := 7, index := index, et := 1000, tag := 9, payload := zeros 256 }
def outCell : OutCell := { cell := cell 0 0, bulk := false, since := 0, recNo := 0 }
def sentCell (seq : BitVec 16) (age : Nat) (again : Bool) : SentCell := { cell := cell seq 0, bulk := false, age := age, again := again }
/-- The port with cells to send, sub of a tick in. -/
def sending (sub : Nat) (sent : List SentCell) (outQ : List OutCell) : State :=
  { linked { upPort with sent := sent, outQ := outQ, free := List.replicate 16 30 } with sub := sub, now := 8000 }
theorem met_link_cells :
    (let s := sending 0 [sentCell 4 4 false, sentCell 5 3 false] [outCell]
     s.portUp 2 0 = true ∧ (s.port 2 0).expected = 0 ∧ (s.port 2 0).ahead = [] ∧ (cell 0 0).seq = 0 ∧ (cell 0 0).retrans = false ∧
       32768 ≤ ((32768#16 : BitVec 16) - (s.port 2 0).expected).toNat ∧ (sentCell 4 4 false).cell.seq = 4 ∧ 4 ≤ (sentCell 4 4 false).age) ∧
    (let s := ((sending 0 [] []).modPart 1 fun q => { q with groups := [(2, groupOn 2 true [])], run := some run, queue := [req] })
     (s.part 1).run = some run ∧ (s.part 1).req? run.req = some req ∧ req.tag = (cell 0 0).tag ∧
       (groupOn 2 true []).takes (s.port 2 0) 1 2 0 { cell := { cell 0 0 with retrans := true }, bulk := false } = true) ∧
    ((sending 2 [] []).atPosition 2 0 3 = true ∧ ((sending 2 [] []).port 2 0).pick 3 8000 (sending 2 [] []).guardG = none) ∧
    (let s := sending 2 [sentCell 4 4 true] [outCell]
     s.atPosition 2 0 3 = true ∧ (s.port 2 0).pick 3 8000 s.guardG = some (.again (sentCell 4 4 true))) ∧
    (let s := sending 2 [sentCell 4 4 false] [outCell]
     s.atPosition 2 0 3 = true ∧ (s.port 2 0).pick 3 8000 s.guardG = some (.new outCell) ∧ (s.part 1).run = none) := by decide +kernel

/-- A link record of an operation, on port 0 of link die 0. -/
def linkRec (op inPort outPort : Nat) : LinkRec :=
  { layer := 1, op := op, bulk := false, start := 8, due := 0, count := 2, period := 36, die := 0, inPort := inPort, outPort := outPort, context := 0xFF
    stream := 7, cluster := 5, core := 16, fmt := 0, spad := 65536 }
def progress (lines : Nat) : LinkProg := { cell := 1, lines := (List.range lines).map fun i => (i, []) }
/-- The group's run, one record under way at CCLK 8302. -/
def groupRun (lines : Nat) : Run := { run with layerAt := 8000, links := [(8192, progress lines)] }
def recording (r : LinkRec) (lines : Nat) (held : List RxCell) : State :=
  { (busy [{ req with stage := .running }] (some (groupRun lines))).modPart 1 fun q => { q with groups := [(2, groupOn 0 true [r])] } with
    now := 8302, sub := 2, links := [(0, { ports := [(0, { upPort with held := held })] })] }.modCore 1377
    fun _ => { active := true, slot := 1, pc := 2, pt := 50, nextIssue := 80 }
def reads (r : LinkRec) (lines : Nat) (held : List RxCell) : Prop :=
  let s := recording r lines held
  s.linkRec 1 2 0 = some (groupRun lines, groupOn 0 true [r], r, progress lines) ∧ s.clocked 5 = true ∧
    s.linkDue 1 2 0 (groupOn 0 true [r]) (groupRun lines) r = true ∧ addrBank (r.spadOf 1 lines) = s.bank3 ∧ s.linkRoom 5 16 0 = true ∧ s.wordTakes3 5 16 = false ∧
    s.forcedRead 5 16 = none ∧ s.served3 5 16 ((groupRun lines).cellAt r 1 + lines) 64 = true
/-- P1's group not joined on port 0, with link_share 5, and a JOIN for it. -/
def unjoined : State :=
  (busy [] none).modPart 1 (fun q => { q with groups := [(2, groupOn 0 false [linkRec 1 0xFF 0])], cfg := { q.cfg with linkShare := 5 } })
def joining (p : State) : State := { p with links := [(0, { ports := [(0, upPort)] })] }
def joinCell (token : BitVec 64) : JoinCell := { token := token, members := 2, position := 1, group := 3, count := 5, offered := [1, 2, 3] }
theorem met_link_records :
    (reads (linkRec 1 0xFF 0) 0 [] ∧ reads (linkRec 1 0xFF 0) 3 []) ∧
    (∀ x ∈ [(linkRec 2 0 0xFF, 0), (linkRec 3 0 0, 4), (linkRec 5 0 0, 0)],
      let s := recording x.1 x.2 [⟨cell 0 0, false⟩, ⟨cell 1 1, false⟩]
      s.linkRec 1 2 0 = some (groupRun x.2, groupOn 0 true [x.1], x.1, progress x.2) ∧ s.clocked 5 = true ∧ x.1.layer = (groupRun x.2).layer ∧
        (groupOn 0 true [x.1]).joined = true ∧ (s.part 1).names (groupOn 0 true [x.1]) 0 = true ∧ (groupRun x.2).layerEnd = none ∧ 1 < x.1.count ∧
        (groupRun x.2).cellAt x.1 1 ≤ s.now ∧ (x.1.adds = true → x.2 = 4) ∧ (groupRun x.2).stop = none ∧
        s.incoming 1 (groupOn 0 true [x.1]) (groupRun x.2) x.1 1 = some ⟨cell 1 1, false⟩) ∧
    (let s := joining unjoined
     let g := groupOn 0 false [linkRec 1 0xFF 0]
     s.portUp 0 0 = true ∧ (∀ q, q < 16 → q ≠ 1 → (s.part q).groups = []) ∧ (s.part 1).groups = [(2, g)] ∧
       g.entryOn 0 0 = some { die := 0, port := 0, partner := 1, theirs := 2 } ∧ g.token = (joinCell 0xAB).token ∧ g.token ≠ (joinCell 8).token ∧
       g.members = (joinCell 0xAB).members ∧ (joinCell 0xAB).position = 1 ∧ g.ratesFit 0 0 (s.agree 0 0 1 (joinCell 0xAB)).length = true) := by
  refine ⟨⟨?_, ?_⟩, ?_, ?_⟩
  · unfold reads; decide +kernel
  · unfold reads; decide +kernel
  · decide +kernel
  · decide +kernel

/-! ## Witnesses: power, engine states, faults -/

/-- Cluster 5 in a state and a transition. -/
def inState (p : CState) (t : Option Trans) : State := clus (fun k => { k with power := p, trans := t }) live
theorem met_cluster_states :
    (∀ aim ∈ [CState.c1, .c2, .c3], (inState .c0 (some (.enter aim none))).supply = .up ∧ (inState .c0 (some (.enter aim none))).canonical = true ∧
      ((inState .c0 (some (.enter aim none))).cluster 5).trans = some (.enter aim none)) ∧
    (let s := inState .c0 (some (.enter .c3 (some .c1)))
     (s.cluster 5).trans = some (.enter .c3 (some .c1)) ∧ (s.cluster 5).mayWake = true ∧ CState.c1.depth < CState.c3.depth) ∧
    (∀ p ∈ [CState.c1, .c3], let s := inState p (some (.exit .c1))
      s.canonical = true ∧ (s.cluster 5).trans = some (.exit .c1) ∧ (s.cluster 5).rowWait = [] ∧ s.cal = none ∧ s.partOf 5 = some 1 ∧
        (s.part 1).park = .serving ∧ (s.part 1).recovering = false ∧ (s.part 1).resetWait = none) ∧
    (let s := inState .c1 (some (.exit .c0))
     (s.cluster 5).trans = some (.exit .c0) ∧ (s.part 1).run = none ∧ (s.part 1).queue = []) ∧
    ((live.cluster 5).tripped = false ∧ live.trimmed 5 0 459 < 460 ∧ live.trimmed 5 1 400 < 460 ∧
      460 ≤ Nat.max (live.trimmed 5 0 380) (live.trimmed 5 1 460) ∧ live.canonical = true) ∧
    ((clus (fun k => { k with tripped := true }) live).cluster 5).tripped = true := by decide +kernel

/-- A zone that waits for its voltage report since CCLK 8000. -/
def awaiting (n now : Nat) : State := { live with zones := [(5, { await := some (8000, n) })], now := now }
theorem met_power_management :
    (∃ q, q < 16 ∧ (clus (fun k => { k with t1 := 360 }) live).exists q = true ∧ ∃ c ∈ (clus (fun k => { k with t1 := 360 }) live).partClusters q,
      4 * live.policy.tBreath ≤ ((clus (fun k => { k with t1 := 360 }) live).cluster c).hotter) ∧
    (live.supply = .up ∧ live.policy.capW < 23001 ∧ 21850 ≤ live.policy.capW ∧
      (∀ q, q < 16 → ∀ c ∈ live.partClusters q, ¬ 4 * live.policy.tBreath ≤ (live.cluster c).hotter) ∧
      (live.hottest + 20 ≤ 4 * live.policy.tBreath ∧ 100 * 21850 ≤ 95 * live.policy.capW) ∧ ¬ 100 * 21851 ≤ 95 * live.policy.capW) ∧
    (live.estate = .e0 ∧ pmbusKnown 0x20 0 = true ∧ pmbusKnown 0x50 0 = true ∧ statusFault (0x8000 &&& ~~~0) = true ∧
      statusFault (0x0002 &&& ~~~0) = true ∧ statusFault (0x0040 &&& ~~~0x0040) = false) ∧
    (∀ n ∈ [1, 2], ((awaiting n 1008000).zone 5).await = some (8000, n) ∧ 8000 + 1000000 ≤ (awaiting n 1008000).now ∧
      (awaiting n 1007999).now < 8000 + 1000000) ∧
    (∀ b, ({ live with overSince := some 10, now := 100000010, overLogged := b } : State).overSince = some 10 ∧ 10 + 100000000 ≤ 100000010) := by
  refine ⟨⟨1, by decide, by decide +kernel, 5, by decide +kernel, by decide +kernel⟩, ?_⟩
  decide +kernel

/-- A brace of the engine from CCLK 500 on, and E1 in it. -/
def brace0 : Brace := { time := 500, et := 1000, abortable := true }
def braced (b : Brace) (now : Nat) (f : State → State) : State := f { live with pfw := true, brace := some b, estate := .e1, now := now }
/-- P1 with a run in the brace. -/
def braceRun (x : Run) (s : State) : State := s.modPart 1 fun _ => bound1 [{ req with stage := .running }] (some x)
theorem met_brace_path :
    (live.pfw = false ∧ live.supply = .up ∧ live.estate = .e0) ∧
    (let s := braced brace0 3000499 id
     s.pfw = true ∧ s.brace = some brace0 ∧ brace0.abortable = true ∧ brace0.committed = false ∧ s.now < brace0.time + 3000000) ∧
    (let s := braced brace0 3000500 id
     s.pfw = true ∧ brace0.time + 3000000 ≤ s.now ∧ brace0.committed = false ∧ s.now < brace0.time + 6000000) ∧
    (let x : Run := { run with stop := some (.brace 3500500) }
     let s := braced brace0 6000500 (braceRun x)
     (s.part 1).run = some x ∧ x.stop = some (.brace 3500500) ∧ 3500500 + 2500000 ≤ s.now) ∧
    (let s := braced brace0 6000500 (braceRun run)
     (s.part 1).run = some run ∧ run.stop = none ∧ s.braceDone = false) ∧
    (let x : Run := { run with finishing := true }
     let s := braced brace0 6000500 (braceRun x)
     s.brace = some brace0 ∧ brace0.time + 6000000 ≤ s.now ∧ (s.part 1).run = some x ∧ x.finishing = true) ∧
    (let b := { brace0 with committed := true }
     let s := braced b 6000500 (clus fun k => { k with power := .c2 })
     s.brace = some b ∧ s.estate = .e1 ∧ b.complete = false ∧ b.exiting = false ∧ s.braceDone = true ∧ s.quiet = false ∧
       s.now < b.time + msCclk s.policy.braceHold) ∧
    (let b := { brace0 with committed := true }
     let s := braced b 30000000500 (clus fun k => { k with power := .c2 })
     s.brace = some b ∧ s.braceDone = true ∧ s.quiet = false ∧ b.time + msCclk s.policy.braceHold ≤ s.now ∧ s.handover = true ∧ s.supply = .up ∧
       s.aonWake = 0#4) ∧
    (let b := { brace0 with committed := true, complete := true, exiting := true }
     let s := braced b 6000500 fun s => { s with pfw := false }
     s.pfw = false ∧ s.supply = .up ∧ s.estate = .e1 ∧ s.brace = some b ∧ (s.part 1).run = none) ∧
    (let s : State := { live with estate := .resuming, aonWake := 1 }
     s.pfw = false ∧ s.supply = .up ∧ s.estate = .resuming) ∧
    (let x : Run := { run with stop := some (.cal 3) }
     let s := braceRun x { live with now := 2500003 }
     (s.part 1).run = some x ∧ x.stop = some (.cal 3) ∧ 3 + 2500000 ≤ s.now) := by decide +kernel

/-- E1 at CCLK 30,000,000,500, PFW_N high again or not. -/
def e1 (b : Brace) (pfw : Bool) : State := { braced b 30000000500 id with pfw := pfw, pfwHighSince := 3, quietArmed := true }
/-- E2, with time for RESUME_QUIET passed. -/
def e2 : State :=
  { live with estate := .e2, rails := Rails.up.standby, etClock := .alwaysOn, wakeEt := 1000, quietArmed := true, pfwHighSince := 3, now := 30000000500
              clusters := [(5, { assigned := true, partition := 1 })] }
theorem met_standby_path :
    (let b := { brace0 with committed := true, complete := true }
     ((e1 b true).quiet = false ∧ (e1 b true).handover = true ∧ (e1 b true).estate = .e1 ∧ (e1 b true).brace = some b ∧
       b.time + msCclk (e1 b true).policy.braceHold ≤ (e1 b true).now) ∧ ((e1 b false).quiet = true ∧ (e1 b false).estate = .e1 ∧ (e1 b false).brace = some b ∧
       b.complete = true ∧ b.exiting = false ∧ b.time + msCclk (e1 b false).policy.braceHold ≤ (e1 b false).now ∧ (e1 b false).handover = true ∧
       (e1 b false).dump = none ∧ (e1 b false).supply = .up)) ∧
    (e2.supply = .up ∧ e2.quiet = true ∧ e2.estate = .e2 ∧ e2.quietArmed = true ∧ e2.dump = none ∧ e2.wakeEt ≠ 0#64 ∧ e2.wakeEt.toNat ≤ e2.tick ∧
      0 < (e2.link 2).portCount) ∧
    (let b := { brace0 with committed := true, complete := true, exiting := true }
     (e1 b false).estate = .e1 ∧ (e1 b false).brace = some b ∧ (e1 b false).pfw = false ∧ (e1 b false).backInC1 = true) ∧
    ((part1 fun q => { q with bound := some 3 }).modCluster 5 fun k => { k with power := .c2 }).backInC1 = false ∧ ({ live with sub := 1 } : State).handover = false ∧
    (let s := open1 (long0 0x04 []) { live with draining := true }
     s.supply = .up ∧ s.mayStandby = true ∧ s.aonWake = 0#4) ∧
    (let s : State := { e2 with estate := .resuming, aonWake := 2 }
     s.supply = .up ∧ s.estate = .resuming ∧ s.sub = 0 ∧ s.pfw = false ∧ s.bootRest = none) ∧
    (({ e2 with wakeEt := 1001 } : State).tick < ({ e2 with wakeEt := 1001 } : State).wakeEt.toNat) ∧
    (let s := post 1 0x03 [] live
     s.offers 0 1 0 0x03 0 = true ∧ s.ruled = true ∧ s.estate = .e0 ∧ s.draining = false) ∧
    (let s := post 1 0x03 [] e2
     s.offers 0 1 0 0x03 0 = true ∧ s.ruled = true ∧ s.longRoom 1 = true ∧ s.estate = .e2 ∧ s.quiet = true ∧ s.dump = none) ∧
    (let s := post 1 0x03 [] { e2 with now := 4 }
     s.offers 0 1 0 0x03 0 = true ∧ s.ruled = true ∧ s.longRoom 1 = true ∧ s.estate = .e2 ∧ s.quiet = false) := by decide +kernel

/-- One lease, whose owner tag names a holder. -/
def leased (tag : BitVec 16) : State := { live with leases := [(leaseKey 4 33, tag ^^^ 0x0FFF#16)] }
theorem met_fault_recovery :
    (live.supply = .up ∧ live.estate = .e0 ∧ live.leasesOf 5 = []) ∧
    (∀ m ∈ [0, 1], ((clus (fun k => { k with beatAt := some 100, missed := m }) { live with now := 500100 }).cluster 5).beatAt = some 100 ∧
      100 + 500000 ≤ 500100 ∧ 500099 < 100 + 500000 ∧
      ((clus (fun k => { k with beatAt := some 100, missed := m }) { live with now := 500100 }).cluster 5).missed = m) ∧
    ((clus (fun k => { k with resetting := true }) live).cluster 5).resetting = true ∧ (live.cluster 5).resetting = false ∧
    live.leasesOf (edgeHolder (.link 0)) = [] ∧
    (let tag := BitVec.ofNat 16 (4096 + edgeHolder (.link 0))
     (leased tag).leases = [(leaseKey 4 33, (leased tag).lease 4 33 ^^^ 0x0FFF#16)] ∧ ((leased tag).lease 4 33).toNat % 4096 = edgeHolder (.link 0)) ∧
    (let s : State := { live with declared := [1377] }
     s.declared.contains (s.lcore 5 16) = true ∧ (s.cluster 5).retired = false ∧ (s.cluster 5).usable 1 = true) ∧
    (let s := clus (fun k => { k with omitXor := [(1, 3)] }) { live with declared := [1377] }
     s.declared.contains (s.lcore 5 16) = true ∧ (s.cluster 5).retired = false ∧ (s.cluster 5).usable 1 = false) ∧
    (let s := clus (fun k => { k with retired := true }) { live with declared := [1377] }
     s.declared.contains (s.lcore 5 16) = true ∧ (s.cluster 5).retired = true) ∧
    live.declared.contains (live.lcore 5 16) = false ∧ live.mayTest 5 1 = true ∧
    (let s := clus (fun k => { k with testRow := some 1 }) live
     (s.cluster 5).testRow = some 1 ∧ (s.cluster 5).retired = false ∧ (s.cluster 5).omitCol 1 = 8) ∧
    (let s : State := { live with authority := false }
     s.authority = false ∧ s.authorityLost = false ∧ s.missesNow = 1) ∧
    (∀ ok, let s : State := { live with authority := false, missAt := 2000000, authorityMisses := 1, now := 3000000, standbyOk := ok }
      s.authorityLost = false ∧ 2 ≤ s.missesNow ∧ s.standbyOk = ok) := by decide +kernel

/-- A boot in which PFW_N is asserted in a step, or is not. -/
def boot (pfwIn : Option (Fin 5)) : BootIn := { straps := 5, selfTestFail := [], understudyFail := [], pfwIn := pfwIn }
/-- The state before the first 48 V with RESET_N, and the same 10 s after no image was found. -/
def held (supply : Supply) (now : Nat) : State := { State.reset with supply := supply, noImageAt := 3, now := now }
theorem met_resets_and_boot :
    (live.supply ≠ .off ∧ live.resetN = false ∧ live.fwJob = none) ∧
    (State.reset.supply = .off ∧ State.reset.resetN = false ∧ State.reset.mayBoot = true ∧ State.reset.bootQuiet = true ∧
      (firstValid State.reset.candidates).isSome = true) ∧ ({ State.reset with pfw := true } : State).bootQuiet = false ∧
    ({ State.reset with refclkLost := true } : State).mayBoot = false ∧
    (let s : State := { State.reset with supply := .reset, resetN := true }
     s.supply = .reset ∧ s.mayBoot = true) ∧
    (let s : State := { State.reset with supply := .reset, refclkLost := true }
     s.supply = .reset ∧ s.resetN = false ∧ s.extest = false ∧ s.mayBoot = false) ∧
    (let s := held .noImage 10000000003
     s.supply = .noImage ∧ s.noImageAt + 10000000000 ≤ s.now ∧ (firstValid s.candidates).isSome = true ∧ s.quiet = true ∧
       ({ s with pfw := true } : State).quiet = false) ∧
    (let s : State := { held .noImage 10000000003 with flashA := { Flash.delivered with slot0 := none }, flashB := { Flash.delivered with slot0 := none } }
     s.supply = .noImage ∧ s.noImageAt + 10000000000 ≤ s.now ∧ firstValid s.candidates = none) ∧
    (held .noImage 10000000002).now < 3 + 10000000000 := by decide +kernel
theorem met_boot_waits :
    (boot none).pfwIn = none ∧ (boot (some 4)).pfwIn.isSome = true ∧
    (∀ x, let s : State := { live with supply := .waitQuiet, bootRest := some (boot x) }
      s.supply = .waitQuiet ∧ s.bootRest = some (boot x) ∧ s.quiet = true) ∧
    (∀ now, let s : State := { live with supply := .waitQuiet, pfw := true, bootWait := 5, now := 30000000005 + now }
      s.quiet = false ∧ s.bootWait + msCclk s.policy.braceHold ≤ s.now) ∧
    (let s : State := { e2 with estate := .resuming, bootRest := some (boot none) }
     s.supply = .up ∧ s.estate = .resuming ∧ s.sub = 0 ∧ s.pfw = false) := by
  refine ⟨rfl, rfl, fun x => ⟨rfl, rfl, rfl⟩, fun now => ⟨rfl, ?_⟩, by decide +kernel⟩
  show 5 + 30000000000 ≤ 30000000005 + now
  omega
/-- R407: an erase and a page program, on the directory that the factory leaves. -/
theorem test_flash : (Flash.delivered.drive (.erase 4095)).get 0 2 = [0xFF, 0xFF] ∧
    (Flash.delivered.drive (.program 15 [0x0F, 0x77])).get 15 2 = [0x03, 0x77] ∧
    (Flash.delivered.drive (.program 255 [1, 2])).get 255 2 = [1, 0xFF] ∧ Flash.delivered.copy 0 = some { active := 0, generation := 1 } := by
  refine ⟨?_, ?_, ?_, ?_⟩ <;> decide +kernel
theorem met_module_and_taps :
    (live.supply ≠ .off ∧ live.supply ≠ .reset ∧ 3 ≤ (3#8).toNat ∧ (0xFE#8).toNat ≤ 0xFE ∧ live.fuses.debugOff = true ∧ (2#8).toNat < 3) ∧
    ({ live with fuses := { debugOff := false } } : State).fuses.debugOff = false ∧
    (let s : State := { State.reset with supply := .reset, tapIr := [(4, 0x00#8 ^^^ 0x01#8)] }
     s.supply = .reset ∧ s.resetN = false ∧ s.refclkLost = false ∧ ∀ x ∈ [0x01#8, 0x02#8, 0xFF#8, 3#8],
       ({ s with tapIr := sput 0#8 4 (x ^^^ 0x01#8) s.tapIr } : State).extest = false) ∧
    (live.mctpUp = true ∧ (9#8 : BitVec 8) ≠ 0#8 ∧ (9#8 : BitVec 8) ≠ 0xFF#8 ∧ live.restarting = false) ∧ (State.reset.supply = .off) := by
  refine ⟨by decide +kernel, by decide +kernel, by decide +kernel, ⟨by decide +kernel, by decide, by decide, ?_⟩, rfl⟩
  unfold State.restarting; rfl

/-! ## Witnesses: rights and the whole machine -/

/-- A row of Table 9.9 with a code that a command in slot 0 of a function's window on host die 0 is offered to, and more. -/
def row (s : State) (f : Fn) (code : Nat) (p : GmpRow → Cmd → Bool) : Bool :=
  (gmpRows 0 f 0 [] false).any fun r => r.code == code && s.offers 0 f.val 0 r.code r.need && r.op.isNone && p r (s.readCmd 0 f.val 0)
theorem met_partition_rights :
    row (post 1 0x31 [2, 0] live) 1 0x31 (fun r c => r.scope && c.named != 1) = true ∧
    row (post 0 0x12 [5, 0] live) 0 0x12 (fun r c => r.scope && !live.exists c.named) = true ∧
    row (post 1 0x81 [] live) 1 0x81 (fun r _ => r.p0) = true ∧
    (row (post 0 0x11 [5] live) 0 0x11 (fun r c => r.cmd == .partDestroy 0 0 0 && !live.exists c.named) = true ∧
      (post 0 0x11 [5] live).ruled = true ∧ (post 0 0x11 [5] live).longRoom 0 = true ∧ live.estate = .e0 ∧ live.maint = .closed) ∧
    (row (post 0 0xA0 (5 :: zeros 71) e2) 0 0xA0 (fun r c => r.cmd == .dump 0 0 0 && !e2.exists c.named && c.named != 0xFF) = true ∧
      (post 0 0xA0 (5 :: zeros 71) e2).ruled = true ∧ e2.estate = .e2) := by decide +kernel
/-- P1 with eight long commands open. -/
def eight : State := { live with longs := (List.range 8).map fun i => { long 0x40 [] with seq := BitVec.ofNat 16 (100 + i) } }
theorem met_served_by_state :
    (row (post 1 0x40 [1, 0] { live with estate := .e1 }) 1 0x40
      (fun r c => !r.p0 && live.mayName c && !servedIn .e1 r.code) = true) ∧
    (row (post 1 0x40 [1, 0] eight) 1 0x40 (fun r c => !r.p0 && eight.mayName c && servedIn .e0 r.code && r.long) = true ∧
      (post 1 0x40 [1, 0] eight).ruled = true ∧ (post 1 0x40 [1, 0] eight).longRoom 1 = false) := by decide +kernel

/-- Whether a command answers a next state of which something holds. -/
def after (i : Instr) (s : State) (p : State → Bool) : Bool := match exec i s with
  | .next t => p t
  | _ => false
theorem met_et_forward :
    (live.supply = .up ∧ live.bootRest = none ∧ live.tick + 5 < 18446744073709551616 ∧ (live.tick + 5 = 1005)) ∧
    (match step live with | .next t => t.supply == .up | _ => false) = true ∧
    after (.fullRetime { peers := [{ serial := 7, timePri := 1, et := 1001 }], ports := [] }) live (fun t => t.supply == .up && t.et != live.et) = true := by
  decide +kernel
theorem met_fuses_only_by_activation : after (.fwActivateRestart true) activating (fun t => t.fuses != activating.fuses) = true := by
  decide +kernel
theorem met_step_keeps_form : live.canonical = true ∧ live.subOk = true ∧ (match step live with | .next _ => true | _ => false) = true := by
  decide +kernel

end Sys2Proof.Tests
end

section
/-!
The writes of the host to HD_MB_VERSION and to the inbound slots, and the MMIO accesses that are not honoured
(spec/00_scope.md R10, R11; spec/09_mailboxes_and_commands.md R223, R235, Tables 9.2 and 9.3).
-/

namespace Sys2Proof.Machine

open Sys2Proof

/-! ## Little-endian values in a byte memory (R8) -/

/-- Bits [8i+7:8i] of a value are its byte `i`. -/
theorem ofNat_div_pow_eq_extractLsb' {w : Nat} (v : BitVec w) (i : Nat) :
    BitVec.ofNat 8 (v.toNat / 256 ^ i) = v.extractLsb' (8 * i) 8 := by
  rw [BitVec.extractLsb', Nat.shiftRight_eq_div_pow, Nat.pow_mul]

/-- A memory after a number is written in `n` bytes. -/
theorem mread_mwrites_toLe (m : Mem) (a n v j : Nat) : mread (mwrites a (toLe n v) m) j =
    if a ≤ j ∧ j < a + n then BitVec.ofNat 8 (v / 256 ^ (j - a)) else mread m j := by
  induction n generalizing m a v with
  | zero => rw [if_neg (by omega)]; rfl
  | succ n ih =>
    rw [toLe, mwrites, ih, Nat.div_div_eq_div_mul]
    by_cases hj : j = a
    · subst hj
      rw [if_neg (by omega), if_pos (by omega), mread_mwrite_same, Nat.sub_self, Nat.pow_zero, Nat.div_one]
    · rw [mread_mwrite_ne _ _ _ _ hj]
      by_cases hin : a + 1 ≤ j ∧ j < a + 1 + n
      · rw [if_pos hin, if_pos (by omega), ← Nat.pow_succ', show (j - (a + 1)).succ = j - a by omega]
      · rw [if_neg hin, if_neg (by omega)]

/-- A memory after the low half of a value is written. -/
theorem mread_mwrites_setWidth (m : Mem) (a j : Nat) (v : BitVec 64) :
    mread (mwrites a (leBytes 4 (v.setWidth 32)) m) j =
      if a ≤ j ∧ j < a + 4 then v.extractLsb' (8 * (j - a)) 8 else mread m j := by
  rw [leBytes, mread_mwrites_toLe, ofNat_div_pow_eq_extractLsb']
  split
  · rw [BitVec.extractLsb'_setWidth_of_le (by omega)]
  · rfl

/-! ## The way of an access to its register -/

theorem State.reach_iff (s : State) (h f : Nat) : s.reach h f = true ↔ s.hostUp h = true ∧ s.isOpen h f = true :=
  Bool.and_eq_true_iff

/-- An access to an open window of a host die that answers reaches it. -/
theorem State.mmio_of_reach {s : State} {h f : Nat} (hr : s.reach h f = true) (act : State → State) :
    s.mmio h f act = act s := by
  obtain ⟨hup, hopen⟩ := (s.reach_iff h f).1 hr
  rw [State.mmio, if_pos hup, if_pos hopen]

/-- A ring block begins at 0x3000. -/
theorem ringAt_eq_none {off : Nat} (h : off < 0x3000) : ringAt off = none :=
  if_neg (by omega)

theorem isReg64_version (f : Nat) : isReg64 f .bar0 (0x30 / 8 * 8) = false := by
  simp [isReg64, ringAt]

theorem isReg64_inSlot (f : Nat) {off : Nat} (h1 : 0x1000 ≤ off) (h2 : off < 0x2000) :
    isReg64 f .bar0 (off / 8 * 8) = false := by
  have hring : ringAt (off / 8 * 8) = none := ringAt_eq_none (by omega)
  simp [isReg64, hring]
  omega

theorem State.write32_version (s : State) (h f : Nat) (v : BitVec 32) : s.write32 h f .bar0 0x30 v =
    s.modWindow h f fun w => { w with majorXor := v.extractLsb' 8 8 ^^^ 1#8, minor := v.extractLsb' 0 8 } := rfl

theorem State.write32_inSlot (s : State) (h f : Nat) {off : Nat} (v : BitVec 32) (h1 : 0x1000 ≤ off) (h2 : off < 0x2000) :
    s.write32 h f .bar0 off v =
      s.modWindow h f fun w => { w with inSlots := mwrites (off - 0x1000) (leBytes 4 v) w.inSlots } := by
  rw [State.write32, if_neg, if_neg, if_neg, if_neg, if_pos ⟨h1, h2⟩] <;> omega

/-! ## The accesses -/

theorem exec_registerWrite (die : Die) (fn : Fn) (bar : Bar) (off : BitVec 24) (wide : Bool) (v : BitVec 64) (s : State) :
    exec (.registerWrite die fn bar off wide v) s = execRegisterWrite die fn bar off wide v s := rfl

theorem exec_unhonouredMmioAccess (die : Die) (fn : Fn) (bar : Bar) (off : BitVec 24) (bits : Nat)
    (write : Option (BitVec 64)) (s : State) : exec (.unhonouredMmioAccess die fn bar off bits write) s =
      execUnhonouredMmioAccess die fn bar off bits write s := rfl

/-- An aligned 32-bit write outside the 64-bit registers writes its register. -/
theorem exec_registerWrite_narrow {die : Die} {fn : Fn} {bar : Bar} {off : BitVec 24} {s : State} (v : BitVec 64)
    (hr : s.reach die.val fn.val = true) (ha : off.toNat % 4 = 0) (hn : isReg64 fn.val bar (off.toNat / 8 * 8) = false) :
    exec (.registerWrite die fn bar off false v) s = .next (s.write32 die.val fn.val bar off.toNat (v.setWidth 32)) := by
  have hal : aligned off.toNat false = true := by simpa [aligned] using ha
  rw [exec_registerWrite, execRegisterWrite, if_pos hal, State.mmio_of_reach hr, State.mmioWrite, if_neg Bool.false_ne_true,
    State.mmioWrite32, if_neg (by simp [hn])]

theorem exec_registerWrite_version {die : Die} {fn : Fn} {s : State} (v : BitVec 64) (hr : s.reach die.val fn.val = true) :
    exec (.registerWrite die fn .bar0 0x30#24 false v) s = .next (s.modWindow die.val fn.val fun w =>
      { w with majorXor := v.extractLsb' 8 8 ^^^ 1#8, minor := v.extractLsb' 0 8 }) := by
  rw [exec_registerWrite_narrow v hr (by decide) (isReg64_version fn.val), show (0x30#24).toNat = 0x30 from rfl,
    State.write32_version, BitVec.extractLsb'_setWidth_of_le (by decide), BitVec.extractLsb'_setWidth_of_le (by decide)]

theorem exec_registerWrite_inSlot {die : Die} {fn : Fn} {off : BitVec 24} {s : State} (v : BitVec 64)
    (hr : s.reach die.val fn.val = true) (h1 : 0x1000 ≤ off.toNat) (h2 : off.toNat < 0x2000) (ha : off.toNat % 4 = 0) :
    exec (.registerWrite die fn .bar0 off false v) s = .next (s.modWindow die.val fn.val fun w =>
      { w with inSlots := mwrites (off.toNat - 0x1000) (leBytes 4 (v.setWidth 32)) w.inSlots }) := by
  rw [exec_registerWrite_narrow v hr ha (isReg64_inSlot fn.val h1 h2), State.write32_inSlot s _ _ _ h1 h2]

/-- A write that is not naturally aligned is ignored. -/
theorem exec_registerWrite_unaligned {off : BitVec 24} {wide : Bool} (die : Die) (fn : Fn) (bar : Bar) (v : BitVec 64)
    (s : State) (ha : aligned off.toNat wide = false) : exec (.registerWrite die fn bar off wide v) s = .next s := by
  rw [exec_registerWrite, execRegisterWrite, if_neg (by simp [ha])]

/-- A write that is not honoured is ignored. -/
theorem exec_unhonoured_write (die : Die) (fn : Fn) (bar : Bar) (off : BitVec 24) (bits : Nat) (v : BitVec 64) (s : State) :
    exec (.unhonouredMmioAccess die fn bar off bits (some v)) s = .next s := by
  rw [exec_unhonouredMmioAccess, execUnhonouredMmioAccess, if_neg (by simp)]

/-- A read that is not honoured answers zero. -/
theorem exec_unhonoured_read {die : Die} {off : BitVec 24} {bits : Nat} {s : State} (fn : Fn) (bar : Bar)
    (hup : s.hostUp die.val = true)
    (hb : ¬ ((bits = 32 ∧ off.toNat % 4 = 0) ∨ (bits = 64 ∧ off.toNat % 8 = 0))) :
    exec (.unhonouredMmioAccess die fn bar off bits none) s = .next { s with mmioData := some 0 } := by
  rw [exec_unhonouredMmioAccess, execUnhonouredMmioAccess, if_pos (by simp [hup]; tauto), State.readZero]

/-- Settles O5: each honoured write is one change of the function's window, every other access none. -/
theorem registerWrites : Obligations.RegisterWrites := by
  intro die fn bar off wide bits v s hr
  refine ⟨?version, fun h1 h2 ha => ?inSlot, fun hb => ⟨?read, ?write⟩, ?unaligned⟩
  case version =>
    exact ⟨_, exec_registerWrite_version v hr, State.modWindow_eq .., s.modWindow_one _ _ _, State.window_modWindow ..⟩
  case inSlot =>
    refine ⟨_, exec_registerWrite_inSlot v hr h1 h2 ha, State.modWindow_eq .., s.modWindow_one _ _ _, ?_, fun a => ?_⟩
    · rw [State.window_modWindow]
    · rw [State.window_modWindow]
      exact mread_mwrites_setWidth ..
  case read => exact exec_unhonoured_read fn bar ((s.reach_iff _ _).1 hr).1 hb
  case write => exact exec_unhonoured_write die fn bar off bits v s
  case unaligned => exact exec_registerWrite_unaligned die fn bar v s

end Sys2Proof.Machine
end

section
/-!
The SET word (spec/03_core.md R76, R78, R82), and what a word does that issues with no error found in it.
-/

namespace Sys2Proof.Machine

open Sys2Proof

/-! ## A change of one core -/

theorem State.modCore_coresOnly (s : State) (n : Nat) (f : Core → Core) : CoresOnly s (s.modCore n f) := rfl

theorem State.modCore_oneCore (s : State) (n : Nat) (f : Core → Core) : OneCore s (s.modCore n f) n :=
  fun m hm => s.coreAt_modCore_ne n m f hm

/-! ## A word that issues (R73, R83) -/

theorem State.issues_iff (s : State) (c lc : Nat) (kind : WordKind) : s.issues c lc kind = true ↔
    s.clocked c = true ∧ (s.coreAt (s.lcore c lc)).hold = none ∧ (s.coreAt (s.lcore c lc)).ready = true ∧
      wordKind (s.coreAt (s.lcore c lc)).word = kind ∧ s.holdNow c lc = none := by
  simp [State.issues, and_assoc]

/-- Where the core does not hold there is no hold to take back. -/
theorem State.reconsider_of_hold_none {s : State} {c lc : Nat} (h : (s.coreAt (s.lcore c lc)).hold = none) :
    s.reconsider c lc = s := by
  simp [State.reconsider, Core.heldNow, h]

@[simp] theorem State.each_nil {α : Type} (s : State) (f : State → α → State) : s.each [] f = s := rfl

@[simp] theorem State.secded_clean (s : State) (c lc slot : Nat) (words : List Nat) (reads : List (Nat × Nat)) :
    s.secded c lc slot words reads .clean = s := by
  simp [State.secded, Ecc.clean]

/-- A word that issues, with no error found, has its effect and no other. -/
theorem State.issue_clean {s : State} {c lc : Nat} {kind : WordKind} (h : s.issues c lc kind = true) (act : State → State) :
    s.issue c lc kind .clean act = act s := by
  obtain ⟨hclk, hhold, hready, hkind, hnow⟩ := (s.issues_iff c lc kind).1 h
  have hstore : Ecc.clean.store = [] := rfl
  simp [State.issue, State.reconsider_of_hold_none hhold, hclk, hhold, hready, hkind, hnow, hstore]

/-! ## Registers and counters of a core -/

/-- An advance of the free-running counters changes K alone (R78). -/
theorem Core.advanceFree_eq (k : Core) (n : Nat) : k.advanceFree n = { k with k := (k.advanceFree n).k } := by
  refine List.foldlRecOn (motive := fun x : Core => x = { k with k := x.k }) _ _ rfl fun x hx c _ => ?_
  split
  · rw [hx]; rfl
  · exact hx

/-- A write of a register changes the registers alone. -/
theorem Core.setReg_eq (k : Core) (i : Nat) (v : BitVec 40) : k.setReg i v = { k with regs := (k.setReg i v).regs } := by
  unfold Core.setReg
  split <;> rfl

theorem Core.reg_setReg_same (k : Core) {i : Nat} {m : BitVec 40} (v : BitVec 40) (hm : regMask i = some m) :
    (k.setReg i v).reg i = v &&& m := by
  simp [Core.setReg, Core.reg, hm]

theorem Core.reg_setReg_ne (k : Core) {i j : Nat} (v : BitVec 40) (h : j ≠ i) : (k.setReg i v).reg j = k.reg j := by
  unfold Core.setReg
  split
  · exact sget_sput_ne _ _ _ _ _ h
  · rfl

theorem Core.reg_advanceFree (k : Core) (n j : Nat) : (k.advanceFree n).reg j = k.reg j := by
  rw [Core.advanceFree_eq]; rfl

/-! ## The SET word -/

/-- The registers are written after the free-running counters have advanced; nothing else changes. -/
theorem Core.setReg_advanceFree_eq (k : Core) (n i : Nat) (v : BitVec 40) : (k.advanceFree n).setReg i v =
    { k with k := (k.advanceFree n).k, regs := ((k.advanceFree n).setReg i v).regs } :=
  ((k.advanceFree n).setReg_eq i v).trans <|
    congrArg (fun x : Core => { x with regs := ((k.advanceFree n).setReg i v).regs }) (k.advanceFree_eq n)

/-- The SET word, field by field (R76). -/
theorem Core.setWord_eq (k : Core) (now : Nat) : k.setWord now =
    { k with regs := ((k.advanceFree 1).setReg (wbits k.word 57 48) (BitVec.ofNat 40 (wbits k.word 39 0))).regs
             k := (k.advanceFree 1).k, pc := k.pc + 1, nextIssue := k.pt + 1, counted := true
             armed := if 0x48 ≤ wbits k.word 57 48 ∧ wbits k.word 57 48 < 0x50
               then sput 0 (wbits k.word 57 48 - 0x48) now k.armed else k.armed } := by
  dsimp only [Core.setWord]
  rw [Core.setReg_advanceFree_eq]
  split <;> rfl

theorem Core.reg_setWord (k : Core) (now j : Nat) : (k.setWord now).reg j =
    ((k.advanceFree 1).setReg (wbits k.word 57 48) (BitVec.ofNat 40 (wbits k.word 39 0))).reg j := by
  rw [Core.setWord_eq]; rfl

theorem Core.armed_setWord (k : Core) (now : Nat) : (k.setWord now).armed =
    if 0x48 ≤ wbits k.word 57 48 ∧ wbits k.word 57 48 < 0x50
      then sput 0 (wbits k.word 57 48 - 0x48) now k.armed else k.armed := by
  rw [Core.setWord_eq]

theorem exec_setWord_clean {cl : Cl} {core : LCore} {s : State} (h : s.issues cl.val core.val .set = true) :
    exec (.setWord cl core .clean) s =
      .next (s.modCore (s.lcore cl.val core.val) fun k => k.setWord s.now) :=
  congrArg Host.Outcome.next (State.issue_clean h _)

/-- Settles O29: a SET word that issues is one change of its core, whose fields the lemmas above give. -/
theorem setWrites : Obligations.SetWrites := by
  intro cl core s h
  refine ⟨_, exec_setWord_clean h, State.modCore_coresOnly .., s.modCore_oneCore _ _, ?_⟩
  rw [State.coreAt_modCore]
  refine ⟨?fields, fun m hm => ?named, fun j hj => ?others, fun hlo hhi => ?armed, fun hout => ?unarmed⟩
  case fields => rw [Core.setWord_eq]
  case named => rw [Core.reg_setWord, Core.reg_setReg_same _ _ hm]
  case others => rw [Core.reg_setWord, Core.reg_setReg_ne _ _ hj, Core.reg_advanceFree]
  case armed => rw [Core.armed_setWord, if_pos ⟨hlo, hhi⟩, sget_sput_same]
  case unarmed => rw [Core.armed_setWord, if_neg (by omega)]

end Sys2Proof.Machine
end

section
/-!
Which mailbox commands the engine turns away, and in what order (spec/09_mailboxes_and_commands.md R228, R229, R232, R239,
Tables 9.7 and 9.9; spec/08_partitions.md R199; notes/assumptions/40.md): every row of Table 9.9 is served on the common path,
and a command that is offered to the engine can fail the checks of rights, names, engine state and room alone.
-/

namespace Sys2Proof.Machine

open Sys2Proof

/-! ## The rows of Table 9.9 on the common path -/

/-- Table 9.9 gives the command `c` to the row `r`: its selecting byte is the row's. -/
def GmpRow.Selects (r : GmpRow) (c : Cmd) : Prop := ∀ o, r.op = some o → c.at o.1 1 = o.2

/-- The common path takes the command `c` of row `r` of Table 9.9 as `x` says. A command that is long in some engine states only
(ENGINE.RESUME, R247) is not long in the table. -/
structure GmpRow.Fits (r : GmpRow) (x : CmdRow) (c : Cmd) : Prop where
  code : x.code = r.code
  p0 : x.p0 = r.p0
  named : x.named = r.scope
  long : r.long = true → x.long = true
  need : x.need c ≤ r.need
  mine : x.mine c = true

/-- The common path serves row `r` of Table 9.9 for the command `c` in slot `i` of a window. -/
def GmpRow.Served (r : GmpRow) (s : State) (h f i : Nat) (c : Cmd) : Prop :=
  ∃ x act, exec r.cmd s = .next (s.serve h f i x act) ∧ r.Fits x c

section
variable {r : GmpRow} {s : State} {h f i : Nat} {c : Cmd}

/-- A row that is alone with its code needs one length and no selecting byte. -/
theorem GmpRow.Served.alone {changes : Bool} {act : State → Cmd → State}
    (he : exec r.cmd s = .next (s.serve h f i
      { code := r.code, need := fun _ => r.need, p0 := r.p0, named := r.scope, long := r.long, changes := changes } act)) :
    r.Served s h f i c :=
  ⟨_, act, he, rfl, rfl, rfl, id, Nat.le_refl _, rfl⟩

/-- A row that shares its code has a length and a test of its own. -/
theorem GmpRow.Served.shared {need : Cmd → Nat} {mine : Cmd → Bool} {changes : Bool} {act : State → Cmd → State}
    (he : exec r.cmd s = .next (s.serve h f i
      { code := r.code, need := need, mine := mine, p0 := r.p0, named := r.scope, long := r.long, changes := changes } act))
    (hn : need c ≤ r.need) (hm : mine c = true) : r.Served s h f i c :=
  ⟨_, act, he, rfl, rfl, rfl, id, hn, hm⟩

/-- A row that its selecting byte picks: the length may rest on that byte. -/
theorem GmpRow.Served.picked {need : Cmd → Nat} {off op last : Nat} {changes : Bool} {act : State → Cmd → State}
    (he : exec r.cmd s = .next (s.serve h f i { code := r.code, need := need, mine := picks off op last, p0 := r.p0
                                                named := r.scope, long := r.long, changes := changes } act))
    (ho : r.op = some (off, op)) (hsel : r.Selects c) (hn : c.at off 1 = op → need c ≤ r.need) : r.Served s h f i c :=
  have hat : c.at off 1 = op := hsel _ ho
  .shared he (hn hat) (by simp [picks, hat])

end

/-- The length a QUEUE.CONFIG rule write needs is that of its rules. -/
theorem queueConfigNeed_ruleWrite {c : Cmd} (h : c.at 1 1 = 1) (hr : c.at 3 1 ≤ 13) : queueConfigNeed c ≤ 112 := by
  simp only [queueConfigNeed, h]
  split_ifs <;> omega

theorem queueConfigNeed_queueSetting {c : Cmd} (h : c.at 1 1 = 0) : queueConfigNeed c ≤ 16 := by
  simp only [queueConfigNeed, h]
  split_ifs <;> omega

theorem groupNeed_le (c : Cmd) : groupNeed c ≤ 20 := by
  unfold groupNeed
  split_ifs <;> omega

theorem groupNeed_of_ne {c : Cmd} (h : c.at 1 1 ≠ 0) : groupNeed c ≤ 3 :=
  (if_neg fun hc => h hc.1).le

/-- A DUMP needs no more than the addresses and limits of all four host dies (Table 9.9). -/
theorem Cmd.dumpNeed_le (c : Cmd) : c.dumpNeed ≤ 0x48 := by
  refine List.foldlRecOn (motive := fun n => n ≤ 0x48) _ _ (by decide) fun n hn h hh => ?_
  have hlt : h < 4 := List.mem_range.1 (List.mem_filter.1 hh).1
  exact Nat.max_le.2 ⟨hn, by omega⟩

/-- The common path serves every row of Table 9.9; the rows stand in the order of the table. -/
theorem gmpRows_served (d : Die) (f : Fn) (i : Fin 32) (image : Bytes) (lost : Bool) (s : State) (c : Cmd) :
    ∀ r ∈ gmpRows d f i image lost, r.Selects c → (r.cmd = .queueConfigRuleWrite d f i → c.at 3 1 ≤ 13) →
      r.Served s d.val f.val i.val c := by
  intro r hr hsel hrule
  simp only [gmpRows, List.cons_append, List.nil_append, List.mem_cons, List.not_mem_nil, or_false] at hr
  rcases hr with rfl | rfl | rfl | rfl | rfl | rfl | rfl | rfl | rfl | rfl | rfl | rfl | rfl | rfl | rfl | rfl | rfl | rfl | rfl | rfl |
    rfl | rfl | rfl | rfl | rfl | rfl | rfl | rfl | rfl | rfl | rfl | rfl | rfl | rfl | rfl | rfl | rfl | rfl | rfl | rfl | rfl
  -- the engine; ENGINE.RESUME is long outside E0 alone
  iterate 2 exact .alone rfl
  · exact ⟨_, _, rfl, rfl, rfl, rfl, nofun, Nat.le_refl _, rfl⟩
  · exact .alone rfl
  -- partitions and plans
  iterate 8 exact .alone rfl
  -- queues
  · exact .picked rfl rfl hsel fun h => queueConfigNeed_queueSetting h
  · exact .picked rfl rfl hsel fun h => queueConfigNeed_ruleWrite h (hrule rfl)
  · exact .alone rfl
  -- tests, calibration and maintenance
  iterate 2 exact .alone rfl
  iterate 4 exact .picked rfl rfl hsel fun h => by simp [maintNeed, h]
  -- power
  iterate 5 exact .picked rfl rfl hsel fun h => by simp [h]
  -- snapshots, faults and leases
  iterate 4 exact .alone rfl
  -- links
  iterate 3 exact .shared rfl (by simp [linkNeed, hsel _ rfl]) (by simp [hsel _ rfl])
  · exact .alone rfl
  -- groups
  · exact .picked rfl rfl hsel fun h => groupNeed_le c
  iterate 2 exact .picked rfl rfl hsel fun h => groupNeed_of_ne (by simp [h])
  -- firmware and dumps
  iterate 2 exact .picked rfl rfl hsel fun h => by simp [updateNeed, h]
  · exact .alone rfl
  · exact .shared rfl c.dumpNeed_le rfl

/-! ## What can still refuse an offered command -/

/-- More than enough room in the slot is still enough. -/
theorem State.offers_mono {s : State} {h f i code m n : Nat} (ho : s.offers h f i code n = true) (hmn : m ≤ n) :
    s.offers h f i code m = true := by
  rw [State.offers_iff] at ho ⊢
  obtain ⟨htake, hcode, hver, hlen, hmax, hseq, hfree⟩ := ho
  exact ⟨htake, hcode, hver, hmn.trans hlen, hmax, hseq, hfree⟩

/-- An offered command passes the checks of the protocol (R228, R235): the sender's rights come next, then the partition it
names, the engine state, the engine authority and the room for long commands. -/
theorem State.refusal_of_offers {s : State} {h f i : Nat} {row : CmdRow}
    (ho : s.offers h f i row.code (row.need (s.readCmd h f i)) = true) :
    s.refusal row (s.readCmd h f i) =
      if row.p0 ∧ f ≠ 0 then some stDenied
      else if row.named ∧ f ≠ 0 ∧ (s.readCmd h f i).named ≠ f then some stDenied
      else if row.named ∧ !s.exists (s.readCmd h f i).named then some stBadArg
      else if !s.serves row.code then some stNotReady
      else if row.changes ∧ s.authorityLost then some stNotReady
      else if row.long ∧ 8 ≤ (s.longs.filter fun l => l.sender.val == f).length then some stBusy
      else none := by
  obtain ⟨-, -, hver, hlen, hmax, hseq, hfree⟩ := (State.offers_iff ..).1 ho
  have hver' : ¬ (row.code ≠ 0x01 ∧ ((s.window h f).majorXor ^^^ 1#8) ≠ s.firmware.gmpMajor) := by tauto
  have hform : ¬ (120 < (s.readCmd h f i).len ∨ (s.readCmd h f i).len < row.need (s.readCmd h f i) ∨
      (s.readCmd h f i).seq = 0xFFFF#16 ∨ (s.long? h f (s.readCmd h f i).seq).isSome) := by
    simp [hmax, hlen, hseq, hfree]
  exact (if_neg hver').trans (if_neg hform)

section
variable {s : State} {h f i : Nat} {row : CmdRow} (ho : s.offers h f i row.code (row.need (s.readCmd h f i)) = true)
include ho

theorem State.refusal_p0 (hp : row.p0 = true) (hf : f ≠ 0) : s.refusal row (s.readCmd h f i) = some stDenied := by
  rw [State.refusal_of_offers ho, if_pos ⟨hp, hf⟩]

/-- A tenant that names another partition is denied, whichever of its rights fails first. -/
theorem State.refusal_other (hn : row.named = true) (hf : f ≠ 0) (hne : (s.readCmd h f i).named ≠ f) :
    s.refusal row (s.readCmd h f i) = some stDenied := by
  rw [State.refusal_of_offers ho, if_pos (⟨hn, hf, hne⟩ : row.named ∧ _), ite_self]

theorem State.refusal_absent (hp : row.p0 = true → f = 0) (hn : row.named = true)
    (hmay : f = 0 ∨ (s.readCmd h f i).named = f) (he : s.exists (s.readCmd h f i).named = false) :
    s.refusal row (s.readCmd h f i) = some stBadArg := by
  rw [State.refusal_of_offers ho, if_neg fun x => x.2 (hp x.1), if_neg (by tauto), if_pos ⟨hn, by simp [he]⟩]

variable (hp : row.p0 = true → f = 0) (hn : row.named = true → s.mayName (s.readCmd h f i) = true)
include hp hn

/-- A command sent and named within its rights can fail the checks of state, authority and room alone. -/
theorem State.refusal_of_rights : s.refusal row (s.readCmd h f i) =
      if !s.serves row.code then some stNotReady
      else if row.changes ∧ s.authorityLost then some stNotReady
      else if row.long ∧ 8 ≤ (s.longs.filter fun l => l.sender.val == f).length then some stBusy
      else none := by
  have hname (hx : row.named = true) : (f = 0 ∨ (s.readCmd h f i).named = f) ∧ s.exists (s.readCmd h f i).named = true := by
    have hm := hn hx
    simp only [State.mayName, Bool.and_eq_true, Bool.or_eq_true, beq_iff_eq] at hm
    exact hm.1
  rw [State.refusal_of_offers ho, if_neg fun x => x.2 (hp x.1), if_neg, if_neg]
  · rintro ⟨hx, hne⟩
    simp [(hname hx).2] at hne
  · rintro ⟨hx, hf, hne⟩
    exact (hname hx).1.elim hf hne

theorem State.refusal_notServed (hs : s.serves row.code = false) : s.refusal row (s.readCmd h f i) = some stNotReady := by
  rw [State.refusal_of_rights ho hp hn, if_pos (by simp [hs])]

theorem State.refusal_noRoom (hs : s.serves row.code = true) (hr : s.ruled = true) (hl : row.long = true)
    (hroom : s.longRoom f = false) : s.refusal row (s.readCmd h f i) = some stBusy := by
  have hlost : s.authorityLost = false := by simpa [State.ruled] using hr
  have hfull : 8 ≤ (s.longs.filter fun l => l.sender.val == f).length := by simpa [State.longRoom] using hroom
  rw [State.refusal_of_rights ho hp hn, if_neg (by simp [hs]), if_neg (by simp [hlost]), if_pos ⟨hl, hfull⟩]

end

/-- Table 9.7 as the statements give it is the one the common path holds a command to. -/
theorem State.serves_eq (s : State) (code : Nat) : s.serves code = servedIn s.estate code := by
  unfold State.serves servedIn
  cases s.estate with
  | e0 | e1 | booting => rfl
  | e2 => simp only [List.contains_append]
  | resuming => simp only [List.contains_append, List.contains_cons, List.contains_nil, Bool.or_false]

/-! ## Refused commands of Table 9.9 -/

section
variable {d : Die} {f : Fn} {i : Fin 32} {s : State} {r : GmpRow}

/-- A served row's length is enough for a command it takes. -/
theorem GmpRow.Fits.offers {x : CmdRow} {h f i : Nat} (hx : r.Fits x (s.readCmd h f i)) (ho : s.offers h f i r.code r.need = true) :
    s.offers h f i x.code (x.need (s.readCmd h f i)) = true :=
  hx.code ▸ State.offers_mono ho hx.need

/-- A command that a shared check refuses is answered with that check's status, and has no other effect (R224, R239). -/
theorem GmpRow.Served.refused {st : Nat} (hrow : r.Served s d.val f.val i.val (s.readCmd d.val f.val i.val))
    (ho : s.offers d.val f.val i.val r.code r.need = true)
    (hr : ∀ x : CmdRow, r.Fits x (s.readCmd d.val f.val i.val) → s.refusal x (s.readCmd d.val f.val i.val) = some st) :
    ∃ t, exec r.cmd s = .next t ∧
      Answered s t d.val f.val i.val [(s.readCmd d.val f.val i.val).msg true st []] := by
  obtain ⟨x, act, he, hx⟩ := hrow
  obtain ⟨htake, hcode, -⟩ := (State.offers_iff ..).1 (hx.offers ho)
  rw [State.serve_refuses _ _ _ _ _ _ _ htake hcode hx.mine (hr x hx)] at he
  exact ⟨_, he, State.answer_answered ..⟩

end

/-! ## PART.DESTROY and DUMP of a partition that does not exist -/

theorem gmpRows_partDestroy (d : Die) (f : Fn) (i : Fin 32) (image : Bytes) (lost : Bool) :
    ∀ r ∈ gmpRows d f i image lost, r.cmd = .partDestroy d f i → r.code = 0x11 ∧ r.need = 1 := by
  simp [gmpRows]

theorem gmpRows_dump (d : Die) (f : Fn) (i : Fin 32) (image : Bytes) (lost : Bool) :
    ∀ r ∈ gmpRows d f i image lost, r.cmd = .dump d f i → r.code = 0xA0 ∧ r.need = 0x48 := by
  simp [gmpRows]

/-- No row has partition scope and is P0's alone. -/
theorem gmpRows_p0_of_scope (d : Die) (f : Fn) (i : Fin 32) (image : Bytes) (lost : Bool) :
    ∀ r ∈ gmpRows d f i image lost, r.scope = true → r.p0 = false := by
  simp [gmpRows]

theorem State.partDestroy_absent {s : State} {c : Cmd} (hin : s.inE0 = true) (hm : s.maint = .closed)
    (he : s.exists c.named = false) : s.partDestroy c = s.answer c stBadArg := by
  simp [State.partDestroy, hin, hm, he]

theorem State.dumpCmd_absent {s : State} {c : Cmd} (he2 : s.estate = .e2) (hall : c.named ≠ 0xFF)
    (he : s.exists c.named = false) : s.dumpCmd c = s.answer c stBadArg := by
  have hall' : c.at 0 1 ≠ 0xFF := hall
  have he' : s.exists (c.at 0 1) = false := he
  simp [State.dumpCmd, he2, hall', he']

@[simp] theorem State.take_estate (s : State) (c : Cmd) : (s.take c).estate = s.estate := rfl
@[simp] theorem State.take_maint (s : State) (c : Cmd) : (s.take c).maint = s.maint := rfl
@[simp] theorem State.take_inE0 (s : State) (c : Cmd) : (s.take c).inE0 = s.inE0 := rfl
@[simp] theorem State.take_exists (s : State) (c : Cmd) (p : Nat) : (s.take c).exists p = s.exists p := rfl

/-- A command of P0 that names no partition to the shared checks and is served runs its own rule, and answers what that
answers. -/
theorem State.serve_p0_answers {s : State} {h f i st : Nat} {row : CmdRow} {act : State → Cmd → State}
    (ho : s.offers h f i row.code (row.need (s.readCmd h f i)) = true) (hm : row.mine (s.readCmd h f i) = true) (hf : f = 0)
    (hn : row.named = false) (hs : s.serves row.code = true) (hr : s.ruled = true) (hl : s.longRoom f = true)
    (hact : act (s.take (s.readCmd h f i)) (s.readCmd h f i) =
      (s.take (s.readCmd h f i)).answer (s.readCmd h f i) st) :
    Answered s (s.serve h f i row act) h f i [(s.readCmd h f i).msg true st []] := by
  have hpass := State.refusal_none s h f i row ho (fun _ => hf) (by simp [hn]) hs (fun _ => hr) fun _ => hl
  rw [State.serve_runs _ _ _ _ _ _ ho hm hpass, hact]
  exact State.answer_answered ..

section
variable {d : Die} {f : Fn} {i : Fin 32} {s : State} (hf : f = 0) (hr : s.ruled = true) (hl : s.longRoom f.val = true)
  (he : s.exists (s.readCmd d.val f.val i.val).named = false)
include hf hr hl he

theorem exec_partDestroy_absent (ho : s.offers d.val f.val i.val 0x11 1 = true) (he0 : s.estate = .e0) (hm : s.maint = .closed) :
    ∃ t, exec (.partDestroy d f i) s = .next t ∧
      Answered s t d.val f.val i.val [(s.readCmd d.val f.val i.val).msg true stBadArg []] := by
  have hup : s.supply = .up := by
    simp only [State.offers, Bool.and_eq_true, beq_iff_eq] at ho
    tauto
  have hin : s.inE0 = true := by simp [State.inE0, hup, he0]
  refine ⟨_, rfl, State.serve_p0_answers ho rfl (congrArg Fin.val hf) rfl (by simp [State.serves, he0]) hr hl ?_⟩
  exact State.partDestroy_absent (by simp [hin]) (by simp [hm]) (by simp [he])

theorem exec_dump_absent (ho : s.offers d.val f.val i.val 0xA0 0x48 = true) (he2 : s.estate = .e2)
    (hall : (s.readCmd d.val f.val i.val).named ≠ 0xFF) :
    ∃ t, exec (.dump d f i) s = .next t ∧
      Answered s t d.val f.val i.val [(s.readCmd d.val f.val i.val).msg true stBadArg []] := by
  have ho' := State.offers_mono ho (Cmd.dumpNeed_le (s.readCmd d.val f.val i.val))
  refine ⟨_, rfl, State.serve_p0_answers ho' rfl (congrArg Fin.val hf) rfl (by simp [State.serves, he2]) hr hl ?_⟩
  exact State.dumpCmd_absent (by simp [he2]) hall (by simp [he])

end

/-! ## The statements -/

/-- Settles O54: an offered command of Table 9.9 comes to the checks of rights and names before all others that it can fail;
PART.DESTROY and DUMP check the partition they name in their own rules. -/
theorem partitionRights : Obligations.PartitionRights := by
  intro die fn slot image lost r s hmem ho c hsel hrule
  have hrow := gmpRows_served die fn slot image lost s c r hmem hsel hrule
  refine ⟨fun hscope hfn hother => ?other, fun hscope hmay habsent => ?absent, fun hp0 hfn => ?p0,
    fun hfn hruled hroom hcmd habsent => ?own⟩
  case other =>
    exact hrow.refused ho fun x hx =>
      State.refusal_other (hx.offers ho) (hx.named.trans hscope) (Fin.val_ne_zero_iff.2 hfn) hother
  case absent =>
    have hp0 := gmpRows_p0_of_scope die fn slot image lost r hmem hscope
    exact hrow.refused ho fun x hx =>
      State.refusal_absent (hx.offers ho) (by simp [hx.p0, hp0]) (hx.named.trans hscope)
        (hmay.imp_left fun h => by rw [h]; rfl) habsent
  case p0 =>
    exact hrow.refused ho fun x hx => State.refusal_p0 (hx.offers ho) (hx.p0.trans hp0) (Fin.val_ne_zero_iff.2 hfn)
  case own =>
    rcases hcmd with ⟨hcmd, hestate, hmaint⟩ | ⟨hcmd, hestate, hall⟩
    · obtain ⟨hcode, hneed⟩ := gmpRows_partDestroy die fn slot image lost r hmem hcmd
      rw [hcode, hneed] at ho
      exact hcmd ▸ exec_partDestroy_absent hfn hruled hroom habsent ho hestate hmaint
    · obtain ⟨hcode, hneed⟩ := gmpRows_dump die fn slot image lost r hmem hcmd
      rw [hcode, hneed] at ho
      exact hcmd ▸ exec_dump_absent hfn hruled hroom habsent ho hestate hall

/-- Settles O55: of an offered command within its rights, the engine state is checked first and the room for long commands
last. -/
theorem servedByState : Obligations.ServedByState := by
  intro die fn slot image lost r s hmem ho c hsel hrule hp0 hname
  have hrow := gmpRows_served die fn slot image lost s c r hmem hsel hrule
  have hp (x : CmdRow) (hx : r.Fits x c) (h : x.p0 = true) : fn.val = 0 := by
    rw [hp0 (hx.p0 ▸ h)]; rfl
  have hn (x : CmdRow) (hx : r.Fits x c) (h : x.named = true) : s.mayName c = true := hname (hx.named ▸ h)
  have hserves (x : CmdRow) (hx : r.Fits x c) : s.serves x.code = servedIn s.estate r.code := by
    rw [s.serves_eq, hx.code]
  refine ⟨fun hstate => ?notReady, fun hstate hruled hlong hroom => ?busy⟩
  case notReady =>
    exact hrow.refused ho fun x hx =>
      State.refusal_notServed (hx.offers ho) (hp x hx) (hn x hx) ((hserves x hx).trans hstate)
  case busy =>
    exact hrow.refused ho fun x hx =>
      State.refusal_noRoom (hx.offers ho) (hp x hx) (hn x hx) ((hserves x hx).trans hstate) hruled (hx.long hlong) hroom

end Sys2Proof.Machine
end

section
/-!
The fields of the state, as data: which of them an operation may change. `Fld.of f (s.op …) = f.of s` for the fields
outside a list says in one lemma what the operation leaves as it was, and `State.eq_patch` turns it into the
equations that the statements are written in.
-/

namespace Sys2Proof.Machine

open Sys2Proof

/-- The fields of the state. -/
inductive Fld where
  | pending | now | et | sub | etClock | cores | spad | flights | credits | clusters | coreEvents | regReplies | noTargets
  | hbm | hbmStacks | slotUse | hostMem | windows | rules | ambig | violCounts | opFaulted | perst | mmioData | longs
  | fetchTurn | parts | nextReq | leases | links | timePriXor | guardG | timeMaster | masterSerial | fullRetimes | fastResumes
  | retimeWanted | supply | estate | stateEt | authority | standbyOk | authorityMisses | missAt | authorityLost | draining
  | wakeEt | aonWake | wakeReasons | quietArmed | brace | pfw | pfwHighSince | lastAbort | maint | testDeferMax | cal | dump
  | policy | allowance | powerW | overSince | overLogged | overCap | therm | rails | zones | regulators | faults | faultSeq
  | faultsLost | declared | fuses | flashA | flashB | firmware | fwJob | noImageAt | bootRest | bootWait | resetN | refclkLost
  | tapIr | boundary | tapOut | carrier | mctp | freeCount
  deriving DecidableEq

/-- What a field holds. -/
def Fld.Holds : Fld → Type
  | .pending => List Instr
  | .now => Nat
  | .et => BitVec 64
  | .sub => Nat
  | .etClock => EtClock
  | .cores => SMap Core
  | .spad => Mem
  | .flights => List Flight
  | .credits => List Credit
  | .clusters => SMap Cluster
  | .coreEvents => List (Cl × LCore × Bool × Bool × Bool)
  | .regReplies => List (Cl × Hdr × StrReg × BitVec 128)
  | .noTargets => List (Cl × Src × BitVec 9)
  | .hbm => Mem
  | .hbmStacks => SMap HbmStack
  | .slotUse => SMap Nat
  | .hostMem => Mem
  | .windows => SMap Window
  | .rules => SMap (BitVec 64)
  | .ambig => SMap (BitVec 32)
  | .violCounts => SMap (BitVec 64)
  | .opFaulted => BitVec 16
  | .perst => BitVec 4
  | .mmioData => Option (BitVec 64)
  | .longs => List LongCmd
  | .fetchTurn => SMap (List Nat)
  | .parts => SMap PartState
  | .nextReq => Nat
  | .leases => SMap (BitVec 16)
  | .links => SMap LinkDie
  | .timePriXor => BitVec 8
  | .guardG => Nat
  | .timeMaster => Bool
  | .masterSerial => BitVec 64
  | .fullRetimes => BitVec 32
  | .fastResumes => BitVec 32
  | .retimeWanted => Bool
  | .supply => Supply
  | .estate => EState
  | .stateEt => BitVec 64
  | .authority => Bool
  | .standbyOk => Bool
  | .authorityMisses => Nat
  | .missAt => Nat
  | .authorityLost => Bool
  | .draining => Bool
  | .wakeEt => BitVec 64
  | .aonWake => BitVec 4
  | .wakeReasons => BitVec 4
  | .quietArmed => Bool
  | .brace => Option Brace
  | .pfw => Bool
  | .pfwHighSince => Nat
  | .lastAbort => Option Nat
  | .maint => Maint
  | .testDeferMax => Nat
  | .cal => Option Cal
  | .dump => Option DumpJob
  | .policy => Policy
  | .allowance => Nat
  | .powerW => Nat
  | .overSince => Option Nat
  | .overLogged => Bool
  | .overCap => Bool
  | .therm => Bool
  | .rails => Rails
  | .zones => SMap Zone
  | .regulators => SMap Rail
  | .faults => List FaultRec
  | .faultSeq => Nat
  | .faultsLost => Nat
  | .declared => List Nat
  | .fuses => Fuses
  | .flashA => Flash
  | .flashB => Flash
  | .firmware => Firmware
  | .fwJob => Option FwJob
  | .noImageAt => Nat
  | .bootRest => Option BootIn
  | .bootWait => Nat
  | .resetN => Bool
  | .refclkLost => Bool
  | .tapIr => SMap (BitVec 8)
  | .boundary => SMap (List Bool)
  | .tapOut => Option (BitVec 32)
  | .carrier => Carrier
  | .mctp => Mctp
  | .freeCount => Nat

/-- The field of a state. -/
def Fld.of (f : Fld) (s : State) : f.Holds :=
  match f with
  | .pending => s.pending
  | .now => s.now
  | .et => s.et
  | .sub => s.sub
  | .etClock => s.etClock
  | .cores => s.cores
  | .spad => s.spad
  | .flights => s.flights
  | .credits => s.credits
  | .clusters => s.clusters
  | .coreEvents => s.coreEvents
  | .regReplies => s.regReplies
  | .noTargets => s.noTargets
  | .hbm => s.hbm
  | .hbmStacks => s.hbmStacks
  | .slotUse => s.slotUse
  | .hostMem => s.hostMem
  | .windows => s.windows
  | .rules => s.rules
  | .ambig => s.ambig
  | .violCounts => s.violCounts
  | .opFaulted => s.opFaulted
  | .perst => s.perst
  | .mmioData => s.mmioData
  | .longs => s.longs
  | .fetchTurn => s.fetchTurn
  | .parts => s.parts
  | .nextReq => s.nextReq
  | .leases => s.leases
  | .links => s.links
  | .timePriXor => s.timePriXor
  | .guardG => s.guardG
  | .timeMaster => s.timeMaster
  | .masterSerial => s.masterSerial
  | .fullRetimes => s.fullRetimes
  | .fastResumes => s.fastResumes
  | .retimeWanted => s.retimeWanted
  | .supply => s.supply
  | .estate => s.estate
  | .stateEt => s.stateEt
  | .authority => s.authority
  | .standbyOk => s.standbyOk
  | .authorityMisses => s.authorityMisses
  | .missAt => s.missAt
  | .authorityLost => s.authorityLost
  | .draining => s.draining
  | .wakeEt => s.wakeEt
  | .aonWake => s.aonWake
  | .wakeReasons => s.wakeReasons
  | .quietArmed => s.quietArmed
  | .brace => s.brace
  | .pfw => s.pfw
  | .pfwHighSince => s.pfwHighSince
  | .lastAbort => s.lastAbort
  | .maint => s.maint
  | .testDeferMax => s.testDeferMax
  | .cal => s.cal
  | .dump => s.dump
  | .policy => s.policy
  | .allowance => s.allowance
  | .powerW => s.powerW
  | .overSince => s.overSince
  | .overLogged => s.overLogged
  | .overCap => s.overCap
  | .therm => s.therm
  | .rails => s.rails
  | .zones => s.zones
  | .regulators => s.regulators
  | .faults => s.faults
  | .faultSeq => s.faultSeq
  | .faultsLost => s.faultsLost
  | .declared => s.declared
  | .fuses => s.fuses
  | .flashA => s.flashA
  | .flashB => s.flashB
  | .firmware => s.firmware
  | .fwJob => s.fwJob
  | .noImageAt => s.noImageAt
  | .bootRest => s.bootRest
  | .bootWait => s.bootWait
  | .resetN => s.resetN
  | .refclkLost => s.refclkLost
  | .tapIr => s.tapIr
  | .boundary => s.boundary
  | .tapOut => s.tapOut
  | .carrier => s.carrier
  | .mctp => s.mctp
  | .freeCount => s.freeCount

/-- The state with the listed fields taken from another. -/
def State.patch (s : State) (L : List Fld) (t : State) : State where
  pending := bif L.contains .pending then t.pending else s.pending
  now := bif L.contains .now then t.now else s.now
  et := bif L.contains .et then t.et else s.et
  sub := bif L.contains .sub then t.sub else s.sub
  etClock := bif L.contains .etClock then t.etClock else s.etClock
  cores := bif L.contains .cores then t.cores else s.cores
  spad := bif L.contains .spad then t.spad else s.spad
  flights := bif L.contains .flights then t.flights else s.flights
  credits := bif L.contains .credits then t.credits else s.credits
  clusters := bif L.contains .clusters then t.clusters else s.clusters
  coreEvents := bif L.contains .coreEvents then t.coreEvents else s.coreEvents
  regReplies := bif L.contains .regReplies then t.regReplies else s.regReplies
  noTargets := bif L.contains .noTargets then t.noTargets else s.noTargets
  hbm := bif L.contains .hbm then t.hbm else s.hbm
  hbmStacks := bif L.contains .hbmStacks then t.hbmStacks else s.hbmStacks
  slotUse := bif L.contains .slotUse then t.slotUse else s.slotUse
  hostMem := bif L.contains .hostMem then t.hostMem else s.hostMem
  windows := bif L.contains .windows then t.windows else s.windows
  rules := bif L.contains .rules then t.rules else s.rules
  ambig := bif L.contains .ambig then t.ambig else s.ambig
  violCounts := bif L.contains .violCounts then t.violCounts else s.violCounts
  opFaulted := bif L.contains .opFaulted then t.opFaulted else s.opFaulted
  perst := bif L.contains .perst then t.perst else s.perst
  mmioData := bif L.contains .mmioData then t.mmioData else s.mmioData
  longs := bif L.contains .longs then t.longs else s.longs
  fetchTurn := bif L.contains .fetchTurn then t.fetchTurn else s.fetchTurn
  parts := bif L.contains .parts then t.parts else s.parts
  nextReq := bif L.contains .nextReq then t.nextReq else s.nextReq
  leases := bif L.contains .leases then t.leases else s.leases
  links := bif L.contains .links then t.links else s.links
  timePriXor := bif L.contains .timePriXor then t.timePriXor else s.timePriXor
  guardG := bif L.contains .guardG then t.guardG else s.guardG
  timeMaster := bif L.contains .timeMaster then t.timeMaster else s.timeMaster
  masterSerial := bif L.contains .masterSerial then t.masterSerial else s.masterSerial
  fullRetimes := bif L.contains .fullRetimes then t.fullRetimes else s.fullRetimes
  fastResumes := bif L.contains .fastResumes then t.fastResumes else s.fastResumes
  retimeWanted := bif L.contains .retimeWanted then t.retimeWanted else s.retimeWanted
  supply := bif L.contains .supply then t.supply else s.supply
  estate := bif L.contains .estate then t.estate else s.estate
  stateEt := bif L.contains .stateEt then t.stateEt else s.stateEt
  authority := bif L.contains .authority then t.authority else s.authority
  standbyOk := bif L.contains .standbyOk then t.standbyOk else s.standbyOk
  authorityMisses := bif L.contains .authorityMisses then t.authorityMisses else s.authorityMisses
  missAt := bif L.contains .missAt then t.missAt else s.missAt
  authorityLost := bif L.contains .authorityLost then t.authorityLost else s.authorityLost
  draining := bif L.contains .draining then t.draining else s.draining
  wakeEt := bif L.contains .wakeEt then t.wakeEt else s.wakeEt
  aonWake := bif L.contains .aonWake then t.aonWake else s.aonWake
  wakeReasons := bif L.contains .wakeReasons then t.wakeReasons else s.wakeReasons
  quietArmed := bif L.contains .quietArmed then t.quietArmed else s.quietArmed
  brace := bif L.contains .brace then t.brace else s.brace
  pfw := bif L.contains .pfw then t.pfw else s.pfw
  pfwHighSince := bif L.contains .pfwHighSince then t.pfwHighSince else s.pfwHighSince
  lastAbort := bif L.contains .lastAbort then t.lastAbort else s.lastAbort
  maint := bif L.contains .maint then t.maint else s.maint
  testDeferMax := bif L.contains .testDeferMax then t.testDeferMax else s.testDeferMax
  cal := bif L.contains .cal then t.cal else s.cal
  dump := bif L.contains .dump then t.dump else s.dump
  policy := bif L.contains .policy then t.policy else s.policy
  allowance := bif L.contains .allowance then t.allowance else s.allowance
  powerW := bif L.contains .powerW then t.powerW else s.powerW
  overSince := bif L.contains .overSince then t.overSince else s.overSince
  overLogged := bif L.contains .overLogged then t.overLogged else s.overLogged
  overCap := bif L.contains .overCap then t.overCap else s.overCap
  therm := bif L.contains .therm then t.therm else s.therm
  rails := bif L.contains .rails then t.rails else s.rails
  zones := bif L.contains .zones then t.zones else s.zones
  regulators := bif L.contains .regulators then t.regulators else s.regulators
  faults := bif L.contains .faults then t.faults else s.faults
  faultSeq := bif L.contains .faultSeq then t.faultSeq else s.faultSeq
  faultsLost := bif L.contains .faultsLost then t.faultsLost else s.faultsLost
  declared := bif L.contains .declared then t.declared else s.declared
  fuses := bif L.contains .fuses then t.fuses else s.fuses
  flashA := bif L.contains .flashA then t.flashA else s.flashA
  flashB := bif L.contains .flashB then t.flashB else s.flashB
  firmware := bif L.contains .firmware then t.firmware else s.firmware
  fwJob := bif L.contains .fwJob then t.fwJob else s.fwJob
  noImageAt := bif L.contains .noImageAt then t.noImageAt else s.noImageAt
  bootRest := bif L.contains .bootRest then t.bootRest else s.bootRest
  bootWait := bif L.contains .bootWait then t.bootWait else s.bootWait
  resetN := bif L.contains .resetN then t.resetN else s.resetN
  refclkLost := bif L.contains .refclkLost then t.refclkLost else s.refclkLost
  tapIr := bif L.contains .tapIr then t.tapIr else s.tapIr
  boundary := bif L.contains .boundary then t.boundary else s.boundary
  tapOut := bif L.contains .tapOut then t.tapOut else s.tapOut
  carrier := bif L.contains .carrier then t.carrier else s.carrier
  mctp := bif L.contains .mctp then t.mctp else s.mctp
  freeCount := bif L.contains .freeCount then t.freeCount else s.freeCount

theorem State.eq_of_fields {s t : State} (h : ∀ f : Fld, f.of s = f.of t) : s = t := by
  cases s
  cases t
  rw [State.mk.injEq]
  exact ⟨h .pending, h .now, h .et, h .sub, h .etClock, h .cores, h .spad, h .flights, h .credits, h .clusters, h .coreEvents,
    h .regReplies, h .noTargets, h .hbm, h .hbmStacks, h .slotUse, h .hostMem, h .windows, h .rules, h .ambig, h .violCounts,
    h .opFaulted, h .perst, h .mmioData, h .longs, h .fetchTurn, h .parts, h .nextReq, h .leases, h .links, h .timePriXor,
    h .guardG, h .timeMaster, h .masterSerial, h .fullRetimes, h .fastResumes, h .retimeWanted, h .supply, h .estate,
    h .stateEt, h .authority, h .standbyOk, h .authorityMisses, h .missAt, h .authorityLost, h .draining, h .wakeEt,
    h .aonWake, h .wakeReasons, h .quietArmed, h .brace, h .pfw, h .pfwHighSince, h .lastAbort, h .maint, h .testDeferMax,
    h .cal, h .dump, h .policy, h .allowance, h .powerW, h .overSince, h .overLogged, h .overCap, h .therm, h .rails, h .zones,
    h .regulators, h .faults, h .faultSeq, h .faultsLost, h .declared, h .fuses, h .flashA, h .flashB, h .firmware, h .fwJob,
    h .noImageAt, h .bootRest, h .bootWait, h .resetN, h .refclkLost, h .tapIr, h .boundary, h .tapOut, h .carrier, h .mctp,
    h .freeCount⟩

theorem Fld.of_patch {L : List Fld} {f : Fld} (s t : State) (hf : f ∉ L) : f.of (s.patch L t) = f.of s := by
  have hc : L.contains f = false := by simpa using hf
  cases f <;> exact congrArg (fun b => bif b then _ else _) hc

/-- A state that differs from another in the listed fields has every other field of it. -/
theorem Fld.of_upd {L : List Fld} {f : Fld} {s t : State} (e : t = s.patch L t) (hf : f ∉ L) : f.of t = f.of s := by
  rw [e]
  exact Fld.of_patch s t hf

theorem Fld.of_patch_mem {L : List Fld} {f : Fld} (s t : State) (hf : f ∈ L) : f.of (s.patch L t) = f.of t := by
  have hc : L.contains f = true := by simpa using hf
  cases f <;> exact congrArg (fun b => bif b then _ else _) hc

/-- An operation that leaves every field outside a list changes the listed fields alone. -/
theorem State.eq_patch {s t : State} (L : List Fld) (h : ∀ f : Fld, f ∉ L → f.of t = f.of s) : t = s.patch L t := by
  refine State.eq_of_fields fun f => ?_
  by_cases hf : f ∈ L
  · exact (Fld.of_patch_mem s t hf).symm
  · exact (h f hf).trans (Fld.of_patch s t hf).symm

@[simp] theorem Fld.of_ite {f : Fld} {c : Prop} [Decidable c] (a b : State) :
    f.of (if c then a else b) = if c then f.of a else f.of b := apply_ite ..

@[simp] theorem Fld.of_each {α : Type} {f : Fld} {s : State} (l : List α) {g : State → α → State}
    (hg : ∀ t a, f.of (g t a) = f.of t) : f.of (s.each l g) = f.of s := by
  induction l generalizing s with
  | nil => rfl
  | cons a r ih => exact ih.trans (hg s a)

end Sys2Proof.Machine
end

section
/-!
What each operation on the state leaves as it was, field by field: an operation changes no field outside the list
that its lemma names.
-/

namespace Sys2Proof.Machine

open Sys2Proof

@[simp] theorem Fld.of_set_flights_credits {fd : Fld} (s : State) (x0 x1) (hfd : fd ∉ [.flights, .credits]) :
    fd.of { s with flights := x0, credits := x1 } = fd.of s := Fld.of_upd rfl hfd

@[simp] theorem Fld.of_set_opFaulted {fd : Fld} (s : State) (x0) (hfd : fd ∉ [.opFaulted]) :
    fd.of { s with opFaulted := x0 } = fd.of s := Fld.of_upd rfl hfd

@[simp] theorem Fld.of_set_flashA_flashB {fd : Fld} (s : State) (x0 x1) (hfd : fd ∉ [.flashA, .flashB]) :
    fd.of { s with flashA := x0, flashB := x1 } = fd.of s := Fld.of_upd rfl hfd

@[simp] theorem Fld.of_set_clusters {fd : Fld} (s : State) (x0) (hfd : fd ∉ [.clusters]) :
    fd.of { s with clusters := x0 } = fd.of s := Fld.of_upd rfl hfd

@[simp] theorem Fld.of_set_estate_stateEt {fd : Fld} (s : State) (x0 x1) (hfd : fd ∉ [.estate, .stateEt]) :
    fd.of { s with estate := x0, stateEt := x1 } = fd.of s := Fld.of_upd rfl hfd

@[simp] theorem Fld.of_set_longs {fd : Fld} (s : State) (x0) (hfd : fd ∉ [.longs]) :
    fd.of { s with longs := x0 } = fd.of s := Fld.of_upd rfl hfd

@[simp] theorem Fld.of_set_supply_bootRest_aonWake_quietArmed_standbyOk {fd : Fld} (s : State) (x0 x1 x2 x3 x4) (hfd : fd ∉ [.supply, .bootRest, .aonWake, .quietArmed, .standbyOk]) :
    fd.of { s with supply := x0, bootRest := x1, aonWake := x2, quietArmed := x3, standbyOk := x4 } = fd.of s := Fld.of_upd rfl hfd

@[simp] theorem Fld.of_set_regulators {fd : Fld} (s : State) (x0) (hfd : fd ∉ [.regulators]) :
    fd.of { s with regulators := x0 } = fd.of s := Fld.of_upd rfl hfd

@[simp] theorem Fld.of_set_timeMaster_masterSerial {fd : Fld} (s : State) (x0 x1) (hfd : fd ∉ [.timeMaster, .masterSerial]) :
    fd.of { s with timeMaster := x0, masterSerial := x1 } = fd.of s := Fld.of_upd rfl hfd

@[simp] theorem Fld.of_set_rails {fd : Fld} (s : State) (x0) (hfd : fd ∉ [.rails]) :
    fd.of { s with rails := x0 } = fd.of s := Fld.of_upd rfl hfd

@[simp] theorem Fld.of_set_supply_bootRest_bootWait {fd : Fld} (s : State) (x0 x1 x2) (hfd : fd ∉ [.supply, .bootRest, .bootWait]) :
    fd.of { s with supply := x0, bootRest := x1, bootWait := x2 } = fd.of s := Fld.of_upd rfl hfd

@[simp] theorem Fld.of_set_firmware {fd : Fld} (s : State) (x0) (hfd : fd ∉ [.firmware]) :
    fd.of { s with firmware := x0 } = fd.of s := Fld.of_upd rfl hfd

@[simp] theorem Fld.of_set_supply_noImageAt {fd : Fld} (s : State) (x0 x1) (hfd : fd ∉ [.supply, .noImageAt]) :
    fd.of { s with supply := x0, noImageAt := x1 } = fd.of s := Fld.of_upd rfl hfd

@[simp] theorem Fld.of_set_maint {fd : Fld} (s : State) (x0) (hfd : fd ∉ [.maint]) :
    fd.of { s with maint := x0 } = fd.of s := Fld.of_upd rfl hfd

@[simp] theorem Fld.of_set_cal {fd : Fld} (s : State) (x0) (hfd : fd ∉ [.cal]) :
    fd.of { s with cal := x0 } = fd.of s := Fld.of_upd rfl hfd

@[simp] theorem Fld.of_set_rules {fd : Fld} (s : State) (x0) (hfd : fd ∉ [.rules]) :
    fd.of { s with rules := x0 } = fd.of s := Fld.of_upd rfl hfd

@[simp] theorem Fld.of_set_hbm {fd : Fld} (s : State) (x0) (hfd : fd ∉ [.hbm]) :
    fd.of { s with hbm := x0 } = fd.of s := Fld.of_upd rfl hfd

@[simp] theorem Fld.of_set_hostMem {fd : Fld} (s : State) (x0) (hfd : fd ∉ [.hostMem]) :
    fd.of { s with hostMem := x0 } = fd.of s := Fld.of_upd rfl hfd

@[simp] theorem Fld.of_set_dump_rails {fd : Fld} (s : State) (x0 x1) (hfd : fd ∉ [.dump, .rails]) :
    fd.of { s with dump := x0, rails := x1 } = fd.of s := Fld.of_upd rfl hfd

@[simp] theorem Fld.of_set_draining_wakeEt {fd : Fld} (s : State) (x0 x1) (hfd : fd ∉ [.draining, .wakeEt]) :
    fd.of { s with draining := x0, wakeEt := x1 } = fd.of s := Fld.of_upd rfl hfd

@[simp] theorem Fld.of_set_aonWake {fd : Fld} (s : State) (x0) (hfd : fd ∉ [.aonWake]) :
    fd.of { s with aonWake := x0 } = fd.of s := Fld.of_upd rfl hfd

@[simp] theorem Fld.of_set_brace {fd : Fld} (s : State) (x0) (hfd : fd ∉ [.brace]) :
    fd.of { s with brace := x0 } = fd.of s := Fld.of_upd rfl hfd

@[simp] theorem Fld.of_set_parts {fd : Fld} (s : State) (x0) (hfd : fd ∉ [.parts]) :
    fd.of { s with parts := x0 } = fd.of s := Fld.of_upd rfl hfd

@[simp] theorem Fld.of_set_links {fd : Fld} (s : State) (x0) (hfd : fd ∉ [.links]) :
    fd.of { s with links := x0 } = fd.of s := Fld.of_upd rfl hfd

@[simp] theorem Fld.of_set_spad {fd : Fld} (s : State) (x0) (hfd : fd ∉ [.spad]) :
    fd.of { s with spad := x0 } = fd.of s := Fld.of_upd rfl hfd

@[simp] theorem Fld.of_set_et {fd : Fld} (s : State) (x0) (hfd : fd ∉ [.et]) :
    fd.of { s with et := x0 } = fd.of s := Fld.of_upd rfl hfd

@[simp] theorem Fld.of_set_timeMaster_masterSerial_fullRetimes_retimeWanted {fd : Fld} (s : State) (x0 x1 x2 x3) (hfd : fd ∉ [.timeMaster, .masterSerial, .fullRetimes, .retimeWanted]) :
    fd.of { s with timeMaster := x0, masterSerial := x1, fullRetimes := x2, retimeWanted := x3 } = fd.of s := Fld.of_upd rfl hfd

@[simp] theorem Fld.of_set_brace_wakeReasons {fd : Fld} (s : State) (x0 x1) (hfd : fd ∉ [.brace, .wakeReasons]) :
    fd.of { s with brace := x0, wakeReasons := x1 } = fd.of s := Fld.of_upd rfl hfd

@[simp] theorem Fld.of_set_rails_etClock_sub_wakeReasons_aonWake_quietArmed_wakeEt {fd : Fld} (s : State) (x0 x1 x2 x3 x4 x5 x6) (hfd : fd ∉ [.rails, .etClock, .sub, .wakeReasons, .aonWake, .quietArmed, .wakeEt]) :
    fd.of { s with rails := x0, etClock := x1, sub := x2, wakeReasons := x3, aonWake := x4, quietArmed := x5, wakeEt := x6 } = fd.of s := Fld.of_upd rfl hfd

@[simp] theorem Fld.of_set_declared {fd : Fld} (s : State) (x0) (hfd : fd ∉ [.declared]) :
    fd.of { s with declared := x0 } = fd.of s := Fld.of_upd rfl hfd

@[simp] theorem Fld.of_set_authority_standbyOk_authorityMisses {fd : Fld} (s : State) (x0 x1 x2) (hfd : fd ∉ [.authority, .standbyOk, .authorityMisses]) :
    fd.of { s with authority := x0, standbyOk := x1, authorityMisses := x2 } = fd.of s := Fld.of_upd rfl hfd

@[simp] theorem Fld.of_set_authorityMisses_missAt {fd : Fld} (s : State) (x0 x1) (hfd : fd ∉ [.authorityMisses, .missAt]) :
    fd.of { s with authorityMisses := x0, missAt := x1 } = fd.of s := Fld.of_upd rfl hfd

@[simp] theorem Fld.of_set_authorityLost {fd : Fld} (s : State) (x0) (hfd : fd ∉ [.authorityLost]) :
    fd.of { s with authorityLost := x0 } = fd.of s := Fld.of_upd rfl hfd

@[simp] theorem Fld.of_set_fuses {fd : Fld} (s : State) (x0) (hfd : fd ∉ [.fuses]) :
    fd.of { s with fuses := x0 } = fd.of s := Fld.of_upd rfl hfd

@[simp] theorem Fld.of_set_hbm_freeCount {fd : Fld} (s : State) (x0 x1) (hfd : fd ∉ [.hbm, .freeCount]) :
    fd.of { s with hbm := x0, freeCount := x1 } = fd.of s := Fld.of_upd rfl hfd

@[simp] theorem Fld.of_set_windows {fd : Fld} (s : State) (x0) (hfd : fd ∉ [.windows]) :
    fd.of { s with windows := x0 } = fd.of s := Fld.of_upd rfl hfd

@[simp] theorem Fld.of_set_flights {fd : Fld} (s : State) (x0) (hfd : fd ∉ [.flights]) :
    fd.of { s with flights := x0 } = fd.of s := Fld.of_upd rfl hfd

@[simp] theorem Fld.of_set_rails_brace_draining_quietArmed_sub_etClock {fd : Fld} (s : State) (x0 x1 x2 x3 x4 x5) (hfd : fd ∉ [.rails, .brace, .draining, .quietArmed, .sub, .etClock]) :
    fd.of { s with rails := x0, brace := x1, draining := x2, quietArmed := x3, sub := x4, etClock := x5 } = fd.of s := Fld.of_upd rfl hfd

@[simp] theorem Fld.of_set_supply {fd : Fld} (s : State) (x0) (hfd : fd ∉ [.supply]) :
    fd.of { s with supply := x0 } = fd.of s := Fld.of_upd rfl hfd

@[simp] theorem Fld.of_set_allowance {fd : Fld} (s : State) (x0) (hfd : fd ∉ [.allowance]) :
    fd.of { s with allowance := x0 } = fd.of s := Fld.of_upd rfl hfd

@[simp] theorem Fld.of_set_retimeWanted {fd : Fld} (s : State) (x0) (hfd : fd ∉ [.retimeWanted]) :
    fd.of { s with retimeWanted := x0 } = fd.of s := Fld.of_upd rfl hfd

@[simp] theorem Fld.of_set_coreEvents {fd : Fld} (s : State) (x0) (hfd : fd ∉ [.coreEvents]) :
    fd.of { s with coreEvents := x0 } = fd.of s := Fld.of_upd rfl hfd

@[simp] theorem Fld.of_set_pfw_pfwHighSince {fd : Fld} (s : State) (x0 x1) (hfd : fd ∉ [.pfw, .pfwHighSince]) :
    fd.of { s with pfw := x0, pfwHighSince := x1 } = fd.of s := Fld.of_upd rfl hfd

@[simp] theorem Fld.of_set_declared_freeCount {fd : Fld} (s : State) (x0 x1) (hfd : fd ∉ [.declared, .freeCount]) :
    fd.of { s with declared := x0, freeCount := x1 } = fd.of s := Fld.of_upd rfl hfd

@[simp] theorem Fld.of_set_flashA_flashB_fwJob {fd : Fld} (s : State) (x0 x1 x2) (hfd : fd ∉ [.flashA, .flashB, .fwJob]) :
    fd.of { s with flashA := x0, flashB := x1, fwJob := x2 } = fd.of s := Fld.of_upd rfl hfd

@[simp] theorem State.modLink_of {fd : Fld} (s : State) (d : Nat) (f : LinkDie → LinkDie) (hfd : fd ∉ [.links]) :
    fd.of (s.modLink d f) = fd.of s := by
  exact Fld.of_upd rfl hfd

@[simp] theorem State.modCtx_of {fd : Fld} (s : State) (d c : Nat) (f : Context → Context) (hfd : fd ∉ [.links]) :
    fd.of (s.modCtx d c f) = fd.of s := by
  simp only [List.mem_cons, not_or] at hfd
  unfold State.modCtx
  simp [hfd]

@[simp] theorem State.modCore_of {fd : Fld} (s : State) (n : Nat) (f : Core → Core) (hfd : fd ∉ [.cores]) :
    fd.of (s.modCore n f) = fd.of s := by
  exact Fld.of_upd rfl hfd

@[simp] theorem State.dropChannel_of {fd : Fld} (s : State) (ch c : Nat) (hfd : fd ∉ [.cores]) :
    fd.of (s.dropChannel ch c) = fd.of s := by
  simp only [List.mem_cons, not_or] at hfd
  unfold State.dropChannel
  simp [hfd]

@[simp] theorem State.modWindow_of {fd : Fld} (s : State) (h f : Nat) (g : Window → Window) (hfd : fd ∉ [.windows]) :
    fd.of (s.modWindow h f g) = fd.of s := by
  exact Fld.of_upd rfl hfd

@[simp] theorem State.eventTo_of {fd : Fld} (s : State) (causes : Nat) (hf : Nat × Nat) (hfd : fd ∉ [.windows]) :
    fd.of (s.eventTo causes hf) = fd.of s := by
  simp only [List.mem_cons, not_or] at hfd
  unfold State.eventTo
  simp [hfd]

@[simp] theorem State.faulted_of {fd : Fld} (s : State) (p : Nat) (hfd : fd ∉ [.windows, .opFaulted]) :
    fd.of (s.faulted p) = fd.of s := by
  simp only [List.mem_cons, not_or] at hfd
  unfold State.faulted
  simp [hfd]

@[simp] theorem State.post_of {fd : Fld} (s : State) (h f : Nat) (m : Msg) (hfd : fd ∉ [.windows]) :
    fd.of (s.post h f m) = fd.of s := by
  simp only [List.mem_cons, not_or] at hfd
  unfold State.post
  simp [hfd]

@[simp] theorem State.reply_of {fd : Fld} (s : State) (h f : Nat) (seq : BitVec 16) (code : BitVec 8) (final : Bool) (status : Nat) (payload : Bytes) (hfd : fd ∉
    [.windows]) :
    fd.of (s.reply h f seq code final status payload) = fd.of s := by
  simp only [List.mem_cons, not_or] at hfd
  unfold State.reply
  simp [hfd]

@[simp] theorem State.modCluster_of {fd : Fld} (s : State) (c : Nat) (f : Cluster → Cluster) (hfd : fd ∉ [.clusters]) :
    fd.of (s.modCluster c f) = fd.of s := by
  exact Fld.of_upd rfl hfd

@[simp] theorem State.abandonLease_of {fd : Fld} (s : State) (kind index : Nat) (hfd : fd ∉
    [.cores, .clusters, .windows, .opFaulted, .links]) :
    fd.of (s.abandonLease kind index) = fd.of s := by
  simp only [List.mem_cons, not_or] at hfd
  unfold State.abandonLease
  dsimp only
  repeat' split
  all_goals simp [hfd]

@[simp] theorem State.drew_of {fd : Fld} (s : State) (hfd : fd ∉ [.freeCount]) :
    fd.of (s.drew) = fd.of s := by
  exact Fld.of_upd rfl hfd

@[simp] theorem State.mixSlot_of {fd : Fld} (s : State) (n slot : Nat) (new : Slot) (w : Nat) (hfd : fd ∉
    [.cores, .freeCount]) :
    fd.of (s.mixSlot n slot new w) = fd.of s := by
  simp only [List.mem_cons, not_or] at hfd
  induction w generalizing s with
  | zero => rfl
  | succ k ih =>
    rw [State.mixSlot, ih]
    split <;> simp [hfd]

@[simp] theorem State.abandonLoads_of {fd : Fld} (s : State) (p : Nat) (run : Run) (hfd : fd ∉ [.cores, .freeCount]) :
    fd.of (s.abandonLoads p run) = fd.of s := by
  unfold State.abandonLoads
  split
  · rfl
  · refine Fld.of_each _ fun t x => ?_
    split
    · rfl
    · exact Fld.of_each _ fun t c => Fld.of_each _ fun t lc => State.mixSlot_of t _ _ _ _ hfd

@[simp] theorem State.finish_of {fd : Fld} (s : State) (c : LongCmd) (status : Nat) (payload : Bytes) (hfd : fd ∉
    [.windows, .opFaulted, .longs]) :
    fd.of (s.finish c status payload) = fd.of s := by
  simp only [List.mem_cons, not_or] at hfd
  unfold State.finish
  simp [hfd]

@[simp] theorem State.modPart_of {fd : Fld} (s : State) (p : Nat) (f : PartState → PartState) (hfd : fd ∉ [.parts]) :
    fd.of (s.modPart p f) = fd.of s := by
  exact Fld.of_upd rfl hfd

@[simp] theorem State.enterAll_of {fd : Fld} (s : State) (l : List Nat) (aim : CState) (hfd : fd ∉ [.clusters]) :
    fd.of (s.enterAll l aim) = fd.of s := by
  simp only [List.mem_cons, not_or] at hfd
  unfold State.enterAll
  simp [hfd]

@[simp] theorem State.cutBind_of {fd : Fld} (s : State) (p h : Nat) (hfd : fd ∉ [.clusters, .parts]) :
    fd.of (s.cutBind p h) = fd.of s := by
  simp only [List.mem_cons, not_or] at hfd
  unfold State.cutBind
  simp [hfd]

@[simp] theorem State.placeLoad_of {fd : Fld} (s : State) (pl : Plan) (ld : Load) (c : Nat) (hfd : fd ∉ [.cores]) :
    fd.of (s.placeLoad pl ld c) = fd.of s := by
  simp only [List.mem_cons, not_or] at hfd
  unfold State.placeLoad
  simp [hfd]

@[simp] theorem State.placeResident_of {fd : Fld} (s : State) (p c : Nat) (hfd : fd ∉ [.cores]) :
    fd.of (s.placeResident p c) = fd.of s := by
  simp only [List.mem_cons, not_or] at hfd
  unfold State.placeResident
  split <;> simp [hfd]

@[simp] theorem State.zeroSpads_of {fd : Fld} (s : State) (c : Nat) (hfd : fd ∉ [.spad]) :
    fd.of (s.zeroSpads c) = fd.of s := by
  exact Fld.of_upd rfl hfd

@[simp] theorem State.dropTest_of {fd : Fld} (s : State) (p : Nat) (hfd : fd ∉ [.cores, .spad, .parts]) :
    fd.of (s.dropTest p) = fd.of s := by
  simp only [List.mem_cons, not_or] at hfd
  unfold State.dropTest
  split <;> simp [hfd]

@[simp] theorem State.voltagesReached_of {fd : Fld} (s : State) (hfd : fd ∉ [.zones]) :
    fd.of (s.voltagesReached) = fd.of s := by
  exact Fld.of_upd rfl hfd

@[simp] theorem State.wakeAll_of {fd : Fld} (s : State) (l : List Nat) (aim : CState) (hfd : fd ∉ [.clusters]) :
    fd.of (s.wakeAll l aim) = fd.of s := by
  simp only [List.mem_cons, not_or] at hfd
  unfold State.wakeAll
  simp [hfd]

@[simp] theorem State.place_of {fd : Fld} (s : State) (p : Nat) (hfd : fd ∉ [.clusters]) :
    fd.of (s.place p) = fd.of s := by
  simp only [List.mem_cons, not_or] at hfd
  unfold State.place
  simp [hfd]

@[simp] theorem State.eventAll_of {fd : Fld} (s : State) (causes : Nat) (hfd : fd ∉ [.windows]) :
    fd.of (s.eventAll causes) = fd.of s := by
  simp only [List.mem_cons, not_or] at hfd
  unfold State.eventAll
  simp [hfd]

@[simp] theorem State.closeWindow_of {fd : Fld} (s : State) (hfd : fd ∉ [.windows, .maint]) :
    fd.of (s.closeWindow) = fd.of s := by
  simp only [List.mem_cons, not_or] at hfd
  unfold State.closeWindow
  simp [hfd]

@[simp] theorem State.calOver_of {fd : Fld} (s : State) (hfd : fd ∉ [.clusters, .windows, .maint, .cal, .zones]) :
    fd.of (s.calOver) = fd.of s := by
  simp only [List.mem_cons, not_or] at hfd
  unfold State.calOver
  split <;> simp [hfd]

@[simp] theorem State.restoreCluster_of {fd : Fld} (s : State) (b : Bytes) (c i : Nat) (hfd : fd ∉ [.cores]) :
    fd.of (s.restoreCluster b c i) = fd.of s := by
  simp only [List.mem_cons, not_or] at hfd
  unfold State.restoreCluster
  simp [hfd]

@[simp] theorem State.cutRestore_of {fd : Fld} (s : State) (l : LongCmd) (hfd : fd ∉ [.cores, .freeCount]) :
    fd.of (s.cutRestore l) = fd.of s := by
  simp only [List.mem_cons, not_or] at hfd
  unfold State.cutRestore
  simp [hfd]

@[simp] theorem State.blowSome_of {fd : Fld} (s : State) (lo n : Nat) (hfd : fd ∉ [.fuses, .freeCount]) :
    fd.of (s.blowSome lo n) = fd.of s := by
  simp only [List.mem_cons, not_or] at hfd
  induction n generalizing s lo with
  | zero => rfl
  | succ k ih =>
    rw [State.blowSome]
    split
    · rw [ih]
      exact (Fld.of_upd (L := [.fuses]) rfl (by simp [hfd])).trans (State.drew_of s (by simp [hfd]))
    · simp [hfd]

@[simp] theorem State.cutCommit_of {fd : Fld} (s : State) (i : FwImage) (hfd : fd ∉ [.fuses, .freeCount]) :
    fd.of (s.cutCommit i) = fd.of s := by
  simp only [List.mem_cons, not_or] at hfd
  unfold State.cutCommit
  dsimp only
  split
  · exact (Fld.of_upd (L := [.fuses, .freeCount]) rfl (by simp [hfd])).trans (State.blowSome_of s _ _ (by simp [hfd]))
  · simp [hfd]

@[simp] theorem State.cutActivation_of {fd : Fld} (s : State) (slot : Fin 2) (commit : Bool) (hfd : fd ∉
    [.fuses, .flashA, .flashB, .freeCount]) :
    fd.of (s.cutActivation slot commit) = fd.of s := by
  simp only [List.mem_cons, not_or] at hfd
  unfold State.cutActivation
  split
  · extract_lets a b image drew t
    have ht : fd.of t = fd.of s := (Fld.of_set_flashA_flashB s.drew.drew _ _ (by simp [hfd])).trans (by simp [hfd])
    clear_value t image
    cases image with
    | none => exact ht
    | some i =>
      dsimp only
      split
      · exact (State.cutCommit_of t i (by simp [hfd])).trans ht
      · exact ht
  · rfl

@[simp] theorem State.cutFirmware_of {fd : Fld} (s : State) (may : Bool) (hfd : fd ∉
    [.fuses, .flashA, .flashB, .fwJob, .freeCount]) :
    fd.of (s.cutFirmware may) = fd.of s := by
  simp only [List.mem_cons, not_or] at hfd
  unfold State.cutFirmware
  split
  · exact Fld.of_upd (L := [.flashA, .flashB, .fwJob, .freeCount]) rfl (by simp [hfd])
  · exact (Fld.of_upd (L := [.fwJob]) rfl (by simp [hfd])).trans (State.cutActivation_of s _ _ (by simp [hfd]))
  · rfl

@[simp] theorem State.cutOff_of {fd : Fld} (s : State) (l : LongCmd) (hfd : fd ∉
    [.cores, .spad, .clusters, .windows, .parts, .draining, .wakeEt, .maint, .cal, .dump, .rails, .zones, .fuses, .flashA,
      .flashB, .fwJob, .freeCount]) :
    fd.of (s.cutOff l) = fd.of s := by
  simp only [List.mem_cons, not_or] at hfd
  unfold State.cutOff
  simp [hfd]

@[simp] theorem State.abort_of {fd : Fld} (s : State) (test : LongCmd → Bool) (hfd : fd ∉
    [.cores, .spad, .clusters, .windows, .opFaulted, .longs, .parts, .draining, .wakeEt, .maint, .cal, .dump, .rails, .zones,
      .fuses, .flashA, .flashB, .fwJob, .freeCount]) :
    fd.of (s.abort test) = fd.of s := by
  simp only [List.mem_cons, not_or] at hfd
  unfold State.abort
  simp [hfd]

@[simp] theorem State.log_of {fd : Fld} (s : State) (code : Nat) (part : Option Nat) (cluster : Option Nat) (core : Option Nat) (die : Nat) (pup : Nat) (detail : Nat) (hfd : fd ∉
    [.faults, .faultSeq, .faultsLost]) :
    fd.of (s.log code part cluster core die pup detail) = fd.of s := by
  exact Fld.of_upd rfl hfd

@[simp] theorem State.modPort_of {fd : Fld} (s : State) (d p : Nat) (f : Port → Port) (hfd : fd ∉ [.links]) :
    fd.of (s.modPort d p f) = fd.of s := by
  simp only [List.mem_cons, not_or] at hfd
  unfold State.modPort
  simp [hfd]

@[simp] theorem State.askJoin_of {fd : Fld} (s : State) (p g : Nat) (grp : Group) (hfd : fd ∉ [.links]) :
    fd.of (s.askJoin p g grp) = fd.of s := by
  simp only [List.mem_cons, not_or] at hfd
  unfold State.askJoin
  simp [hfd]

@[simp] theorem State.rejoin_of {fd : Fld} (s : State) (hfd : fd ∉ [.links]) :
    fd.of (s.rejoin) = fd.of s := by
  simp only [List.mem_cons, not_or] at hfd
  unfold State.rejoin
  simp [hfd]

@[simp] theorem State.toState_of {fd : Fld} (s : State) (e : EState) (hfd : fd ∉ [.windows, .estate, .stateEt]) :
    fd.of (s.toState e) = fd.of s := by
  simp only [List.mem_cons, not_or] at hfd
  unfold State.toState
  simp [hfd]

@[simp] theorem State.abortLongs_of {fd : Fld} (s : State) (keep : LongCmd → Bool) (hfd : fd ∉
    [.cores, .spad, .clusters, .windows, .opFaulted, .longs, .parts, .draining, .wakeEt, .maint, .cal, .dump, .rails, .zones,
      .fuses, .flashA, .flashB, .fwJob, .freeCount]) :
    fd.of (s.abortLongs keep) = fd.of s := by
  simp only [List.mem_cons, not_or] at hfd
  unfold State.abortLongs
  simp [hfd]

@[simp] theorem State.accept_of {fd : Fld} (s : State) (c : Cmd) (part : Nat) (status : Nat) (payload : Bytes) (hfd : fd ∉
    [.windows, .longs]) :
    fd.of (s.accept c part status payload) = fd.of s := by
  simp only [List.mem_cons, not_or] at hfd
  unfold State.accept
  exact (Fld.of_set_longs _ _ (by simp [hfd])).trans (State.reply_of _ _ _ _ _ _ _ _ (by simp [hfd]))

@[simp] theorem State.answer_of {fd : Fld} (s : State) (c : Cmd) (status : Nat) (payload : Bytes) (hfd : fd ∉ [.windows]) :
    fd.of (s.answer c status payload) = fd.of s := by
  simp only [List.mem_cons, not_or] at hfd
  unfold State.answer
  simp [hfd]

@[simp] theorem State.acceptDone_of {fd : Fld} (s : State) (c : Cmd) (status : Nat) (payload : Bytes) (hfd : fd ∉ [.windows]) :
    fd.of (s.acceptDone c status payload) = fd.of s := by
  simp only [List.mem_cons, not_or] at hfd
  unfold State.acceptDone
  simp [hfd]

@[simp] theorem State.modZone_of {fd : Fld} (s : State) (z : Nat) (f : Zone → Zone) (hfd : fd ∉ [.zones]) :
    fd.of (s.modZone z f) = fd.of s := by
  exact Fld.of_upd rfl hfd

@[simp] theorem State.holdZone_of {fd : Fld} (s : State) (z : Nat) (hfd : fd ∉ [.clusters, .zones]) :
    fd.of (s.holdZone z) = fd.of s := by
  simp only [List.mem_cons, not_or] at hfd
  unfold State.holdZone
  simp [hfd]

@[simp] theorem State.spadWrite_of {fd : Fld} (s : State) (n a : Nat) (bs : Bytes) (hfd : fd ∉ [.spad]) :
    fd.of (s.spadWrite n a bs) = fd.of s := by
  exact Fld.of_upd rfl hfd

@[simp] theorem State.mixWrite_of {fd : Fld} (s : State) (n a : Nat) (bs : Bytes) (hfd : fd ∉ [.spad, .freeCount]) :
    fd.of (s.mixWrite n a bs) = fd.of s := by
  simp only [List.mem_cons, not_or] at hfd
  fun_induction State.mixWrite s n a bs with
  | case1 s a b0 b1 b2 b3 b4 b5 b6 b7 r t ih =>
    rw [ih]
    subst t
    split <;> simp [hfd]
  | case2 => rfl

@[simp] theorem State.haltCore_of {fd : Fld} (s : State) (n : Nat) (hfd : fd ∉ [.cores, .spad, .freeCount]) :
    fd.of (s.haltCore n) = fd.of s := by
  simp only [List.mem_cons, not_or] at hfd
  unfold State.haltCore
  refine (State.modCore_of _ _ _ (by simp [hfd])).trans ((Fld.of_each _ fun t x => State.mixWrite_of _ _ _ _ (by simp [hfd])).trans
    (Fld.of_each _ fun t x => ?_))
  split <;> simp [hfd]

@[simp] theorem State.releasePart_of {fd : Fld} (s : State) (p : Nat) (kinds : List Nat) (hfd : fd ∉ [.leases]) :
    fd.of (s.releasePart p kinds) = fd.of s := by
  exact Fld.of_upd rfl hfd

@[simp] theorem State.stopLinks_of {fd : Fld} (s : State) (p : Nat) (hfd : fd ∉ [.links]) :
    fd.of (s.stopLinks p) = fd.of s := by
  simp only [List.mem_cons, not_or] at hfd
  unfold State.stopLinks
  simp [hfd]

@[simp] theorem State.markDelay_of {fd : Fld} (s : State) (p : Nat) (late : Bool) (flags : Flags) (hfd : fd ∉ [.parts]) :
    fd.of (s.markDelay p late flags) = fd.of s := by
  simp only [List.mem_cons, not_or] at hfd
  unfold State.markDelay
  simp [hfd]

@[simp] theorem State.rest_of {fd : Fld} (s : State) (p : Nat) (hfd : fd ∉ [.clusters]) :
    fd.of (s.rest p) = fd.of s := by
  simp only [List.mem_cons, not_or] at hfd
  unfold State.rest
  simp [hfd]

@[simp] theorem State.afterRun_of {fd : Fld} (s : State) (p : Nat) (hfd : fd ∉ [.clusters]) :
    fd.of (s.afterRun p) = fd.of s := by
  simp only [List.mem_cons, not_or] at hfd
  unfold State.afterRun
  simp [hfd]

@[simp] theorem State.stopRun_of {fd : Fld} (s : State) (p : Nat) (hfd : fd ∉
    [.cores, .spad, .flights, .credits, .clusters, .parts, .leases, .links, .freeCount]) :
    fd.of (s.stopRun p) = fd.of s := by
  simp only [List.mem_cons, not_or] at hfd
  unfold State.stopRun
  dsimp only
  repeat' split
  all_goals simp [hfd]

@[simp] theorem State.parkDone_of {fd : Fld} (s : State) (p : Nat) (hfd : fd ∉ [.parts]) :
    fd.of (s.parkDone p) = fd.of s := by
  simp only [List.mem_cons, not_or] at hfd
  unfold State.parkDone
  simp [hfd]

@[simp] theorem State.emptied_of {fd : Fld} (s : State) (p : Nat) (hfd : fd ∉ [.clusters, .parts]) :
    fd.of (s.emptied p) = fd.of s := by
  simp only [List.mem_cons, not_or] at hfd
  unfold State.emptied
  simp [hfd]

@[simp] theorem State.dequeue_of {fd : Fld} (s : State) (p id : Nat) (hfd : fd ∉ [.clusters, .parts]) :
    fd.of (s.dequeue p id) = fd.of s := by
  simp only [List.mem_cons, not_or] at hfd
  unfold State.dequeue
  simp [hfd]

@[simp] theorem State.discarded_of {fd : Fld} (s : State) (c : Compl) (hfd : fd ∉ [.clusters, .parts]) :
    fd.of (s.discarded c) = fd.of s := by
  simp only [List.mem_cons, not_or] at hfd
  unfold State.discarded
  dsimp only
  repeat' split
  all_goals simp [hfd]

@[simp] theorem State.modReq_of {fd : Fld} (s : State) (p id : Nat) (f : Request → Request) (hfd : fd ∉ [.parts]) :
    fd.of (s.modReq p id f) = fd.of s := by
  simp only [List.mem_cons, not_or] at hfd
  unfold State.modReq
  simp [hfd]

@[simp] theorem State.close_of {fd : Fld} (s : State) (p : Nat) (r : Request) (status reason : Nat) (flags : Flags) (hfd : fd ∉
    [.clusters, .windows, .parts]) :
    fd.of (s.close p r status reason flags) = fd.of s := by
  simp only [List.mem_cons, not_or] at hfd
  unfold State.close
  simp [hfd]

@[simp] theorem State.endReq_of {fd : Fld} (s : State) (p : Nat) (r : Request) (status reason : Nat) (clear : Bool) (hfd : fd ∉
    [.cores, .spad, .flights, .credits, .clusters, .windows, .parts, .leases, .links, .freeCount]) :
    fd.of (s.endReq p r status reason clear) = fd.of s := by
  simp only [List.mem_cons, not_or] at hfd
  unfold State.endReq
  simp [hfd]

@[simp] theorem State.contain_of {fd : Fld} (s : State) (p status reason : Nat) (hfd : fd ∉
    [.cores, .spad, .flights, .credits, .clusters, .windows, .opFaulted, .parts, .leases, .links, .freeCount]) :
    fd.of (s.contain p status reason) = fd.of s := by
  simp only [List.mem_cons, not_or] at hfd
  unfold State.contain
  dsimp only
  repeat' split
  all_goals simp [hfd]

@[simp] theorem State.endReqs_of {fd : Fld} (s : State) (p : Nat) (test : Request → Bool) (status reason : Nat) (clear : Bool) (hfd : fd ∉
    [.cores, .spad, .flights, .credits, .clusters, .windows, .parts, .leases, .links, .freeCount]) :
    fd.of (s.endReqs p test status reason clear) = fd.of s := by
  simp only [List.mem_cons, not_or] at hfd
  unfold State.endReqs
  simp [hfd]

@[simp] theorem State.beginRecovery_of {fd : Fld} (s : State) (p : Nat) (hfd : fd ∉
    [.cores, .spad, .flights, .credits, .clusters, .windows, .opFaulted, .parts, .leases, .links, .freeCount]) :
    fd.of (s.beginRecovery p) = fd.of s := by
  simp only [List.mem_cons, not_or] at hfd
  unfold State.beginRecovery
  simp [hfd]

@[simp] theorem State.ackMissing_of {fd : Fld} (s : State) (z : Nat) (hfd : fd ∉
    [.cores, .spad, .flights, .credits, .clusters, .windows, .opFaulted, .parts, .leases, .links, .zones, .faults, .faultSeq,
      .faultsLost, .freeCount]) :
    fd.of (s.ackMissing z) = fd.of s := by
  simp only [List.mem_cons, not_or] at hfd
  unfold State.ackMissing
  simp [hfd]

@[simp] theorem State.blow_of {fd : Fld} (s : State) (lo n : Nat) (ok : Bool) (hfd : fd ∉ [.fuses, .freeCount]) :
    fd.of (s.blow lo n ok) = fd.of s := by
  simp only [List.mem_cons, not_or] at hfd
  induction n generalizing s lo with
  | zero => rfl
  | succ k ih =>
    rw [State.blow, ih]
    simp [hfd]

@[simp] theorem State.commitFuses_of {fd : Fld} (s : State) (i : FwImage) (ok : Bool) (hfd : fd ∉ [.fuses, .freeCount]) :
    fd.of (s.commitFuses i ok) = fd.of s := by
  simp only [List.mem_cons, not_or] at hfd
  unfold State.commitFuses
  dsimp only
  split
  · exact (Fld.of_upd (L := [.fuses, .freeCount]) rfl (by simp [hfd])).trans (State.blow_of s _ _ _ (by simp [hfd]))
  · simp [hfd]

@[simp] theorem State.restartNodes_of {fd : Fld} (s : State) (hfd : fd ∉ [.clusters]) :
    fd.of (s.restartNodes) = fd.of s := by
  simp only [List.mem_cons, not_or] at hfd
  unfold State.restartNodes
  simp [hfd]

@[simp] theorem State.appendRepair_of {fd : Fld} (s : State) (e : BitVec 64) (hfd : fd ∉
    [.faults, .faultSeq, .faultsLost, .flashA, .flashB]) :
    fd.of (s.appendRepair e) = fd.of s := by
  simp only [List.mem_cons, not_or] at hfd
  unfold State.appendRepair
  simp [hfd]

@[simp] theorem State.applyEntry_of {fd : Fld} (s : State) (c : Nat) (e : BitVec 64) (hfd : fd ∉
    [.clusters, .faults, .faultSeq, .faultsLost, .flashA, .flashB]) :
    fd.of (s.applyEntry c e) = fd.of s := by
  simp only [List.mem_cons, not_or] at hfd
  unfold State.applyEntry
  simp [hfd]

@[simp] theorem State.creditBack_of {fd : Fld} (s : State) (c lc : Nat) (net : Net) (port : Dir) (hfd : fd ∉ [.credits]) :
    fd.of (s.creditBack c lc net port) = fd.of s := by
  simp only [List.mem_cons, not_or] at hfd
  unfold State.creditBack
  split
  · rfl
  · exact Fld.of_upd (L := [.credits]) rfl (by simp [hfd])

@[simp] theorem State.passOut_of {fd : Fld} (s : State) (c lc : Nat) (net : Net) (data : Bytes) (t : Nat) (d : Dir) (hfd : fd ∉
    [.cores, .flights]) :
    fd.of (s.passOut c lc net data t d) = fd.of s := by
  simp only [List.mem_cons, not_or] at hfd
  unfold State.passOut
  extract_lets n u
  have hu : fd.of u = fd.of s := by simp +zetaDelta [hfd]
  clear_value u
  split
  · rfl
  · split
    · rfl
    · exact (Fld.of_set_flights _ _ (by simp [hfd])).trans hu

@[simp] theorem State.passAll_of {fd : Fld} (s : State) (c lc : Nat) (net : Net) (data : Bytes) (t : Nat) (outs : List Dir) (hfd : fd ∉
    [.cores, .flights, .clusters]) :
    fd.of (s.passAll c lc net data t outs) = fd.of s := by
  simp only [List.mem_cons, not_or] at hfd
  unfold State.passAll
  simp [hfd]

@[simp] theorem State.clearContexts_of {fd : Fld} (s : State) (idx : SMap (List Nat)) (hfd : fd ∉ [.links]) :
    fd.of (s.clearContexts idx) = fd.of s := by
  unfold State.clearContexts
  exact Fld.of_each _ fun t x => Fld.of_each _ fun t i => State.modCtx_of t _ _ _ hfd

@[simp] theorem State.clearRules_of {fd : Fld} (s : State) (idx : SMap (List Nat)) (hfd : fd ∉ [.rules]) :
    fd.of (s.clearRules idx) = fd.of s := by
  unfold State.clearRules
  exact Fld.of_each _ fun t x => Fld.of_each _ fun t i => Fld.of_set_rules t _ hfd

@[simp] theorem State.dropIndices_of {fd : Fld} (s : State) (p : Nat) (hfd : fd ∉ [.rules, .parts, .links]) :
    fd.of (s.dropIndices p) = fd.of s := by
  simp only [List.mem_cons, not_or] at hfd
  unfold State.dropIndices
  simp [hfd]

@[simp] theorem State.assign_of {fd : Fld} (s : State) (p : Nat) (hfd : fd ∉ [.rules, .parts, .links]) :
    fd.of (s.assign p) = fd.of s := by
  simp only [List.mem_cons, not_or] at hfd
  unfold State.assign
  extract_lets r t
  have ht : fd.of t = fd.of s :=
    (Fld.of_each _ fun t h => by simp [hfd]).trans (State.dropIndices_of s p (by simp [hfd]))
  clear_value t
  refine (Fld.of_each _ fun t d => ?_).trans ht
  extract_lets used mine
  simp [hfd]

@[simp] theorem State.hostWrite_of {fd : Fld} (s : State) (h a : Nat) (bs : Bytes) (hfd : fd ∉ [.hostMem]) :
    fd.of (s.hostWrite h a bs) = fd.of s := by
  exact Fld.of_upd rfl hfd

@[simp] theorem State.report_of {fd : Fld} (s : State) (h : Nat) (desc : Bytes) (body : Bytes) (lost : Bool) (hfd : fd ∉
    [.hostMem]) :
    fd.of (s.report h desc body lost) = fd.of s := by
  simp only [List.mem_cons, not_or] at hfd
  unfold State.report
  simp [hfd]

@[simp] theorem State.modListedCores_of {fd : Fld} (s : State) (c : Nat) (f : Core → Core) (hfd : fd ∉ [.cores]) :
    fd.of (s.modListedCores c f) = fd.of s := by
  exact Fld.of_upd rfl hfd

@[simp] theorem State.sealCluster_of {fd : Fld} (s : State) (c : Nat) (hfd : fd ∉ [.cores]) :
    fd.of (s.sealCluster c) = fd.of s := by
  simp only [List.mem_cons, not_or] at hfd
  unfold State.sealCluster
  simp [hfd]

@[simp] theorem State.retire_of {fd : Fld} (s : State) (c cause : Nat) (hfd : fd ∉
    [.cores, .clusters, .faults, .faultSeq, .faultsLost]) :
    fd.of (s.retire c cause) = fd.of s := by
  simp only [List.mem_cons, not_or] at hfd
  unfold State.retire
  dsimp only
  repeat' split
  all_goals simp [hfd]

@[simp] theorem State.retireFused_of {fd : Fld} (s : State) (hfd : fd ∉ [.cores, .clusters, .faults, .faultSeq, .faultsLost]) :
    fd.of (s.retireFused) = fd.of s := by
  simp only [List.mem_cons, not_or] at hfd
  unfold State.retireFused
  simp [hfd]

@[simp] theorem State.repairTable_of {fd : Fld} (s : State) (i : Nat) (l : List (BitVec 64)) (hfd : fd ∉
    [.cores, .clusters, .faults, .faultSeq, .faultsLost]) :
    fd.of (s.repairTable i l) = fd.of s := by
  simp only [List.mem_cons, not_or] at hfd
  induction l generalizing s i with
  | nil => rfl
  | cons e r ih =>
    rw [State.repairTable, ih]
    dsimp only
    split
    · split <;> simp [hfd]
    · simp [hfd]

@[simp] theorem State.fuseMaps_of {fd : Fld} (s : State) (hfd : fd ∉ [.clusters]) :
    fd.of (s.fuseMaps) = fd.of s := by
  simp only [List.mem_cons, not_or] at hfd
  unfold State.fuseMaps
  simp [hfd]

@[simp] theorem State.selfTestFailed_of {fd : Fld} (s : State) (c : Nat) (hfd : fd ∉
    [.cores, .clusters, .faults, .faultSeq, .faultsLost]) :
    fd.of (s.selfTestFailed c) = fd.of s := by
  simp only [List.mem_cons, not_or] at hfd
  unfold State.selfTestFailed
  simp [hfd]

@[simp] theorem State.markSpareBad_of {fd : Fld} (s : State) (c r : Nat) (hfd : fd ∉
    [.clusters, .faults, .faultSeq, .faultsLost, .flashA, .flashB]) :
    fd.of (s.markSpareBad c r) = fd.of s := by
  simp only [List.mem_cons, not_or] at hfd
  unfold State.markSpareBad
  simp [hfd]

@[simp] theorem State.bistFail_of {fd : Fld} (s : State) (c r : Nat) (hfd : fd ∉
    [.cores, .clusters, .faults, .faultSeq, .faultsLost, .flashA, .flashB]) :
    fd.of (s.bistFail c r) = fd.of s := by
  simp only [List.mem_cons, not_or] at hfd
  unfold State.bistFail
  simp [hfd]

@[simp] theorem State.bist_of {fd : Fld} (s : State) (b : BootIn) (hfd : fd ∉
    [.cores, .clusters, .faults, .faultSeq, .faultsLost, .flashA, .flashB]) :
    fd.of (s.bist b) = fd.of s := by
  simp only [List.mem_cons, not_or] at hfd
  unfold State.bist
  simp [hfd]

@[simp] theorem State.serveP0_of {fd : Fld} (s : State) (hfd : fd ∉ [.windows]) :
    fd.of (s.serveP0) = fd.of s := by
  simp only [List.mem_cons, not_or] at hfd
  unfold State.serveP0
  simp [hfd]

@[simp] theorem State.bootReady_of {fd : Fld} (s : State) (hfd : fd ∉
    [.windows, .opFaulted, .longs, .supply, .estate, .stateEt, .standbyOk, .aonWake, .quietArmed, .bootRest]) :
    fd.of (s.bootReady) = fd.of s := by
  simp only [List.mem_cons, not_or] at hfd
  unfold State.bootReady
  simp [hfd]

@[simp] theorem State.writeLimits_of {fd : Fld} (s : State) (l : List (Nat × Nat)) (hfd : fd ∉ [.regulators]) :
    fd.of (s.writeLimits l) = fd.of s := by
  simp only [List.mem_cons, not_or] at hfd
  unfold State.writeLimits
  simp [hfd]

@[simp] theorem State.zoneUp_of {fd : Fld} (s : State) (silent : List (Fin 48)) (z : Nat) (hfd : fd ∉
    [.cores, .spad, .flights, .credits, .clusters, .windows, .opFaulted, .parts, .leases, .links, .zones, .faults, .faultSeq,
      .faultsLost, .freeCount]) :
    fd.of (s.zoneUp silent z) = fd.of s := by
  simp only [List.mem_cons, not_or] at hfd
  unfold State.zoneUp
  simp [hfd]

@[simp] theorem State.linkSettings_of {fd : Fld} (s : State) (hfd : fd ∉
    [.links, .timePriXor, .guardG, .timeMaster, .masterSerial]) :
    fd.of (s.linkSettings) = fd.of s := by
  simp only [List.mem_cons, not_or] at hfd
  unfold State.linkSettings
  dsimp only
  split
  · simp [hfd]
  · refine (Fld.of_each _ fun t x => ?_).trans (Fld.of_upd (L := [.timeMaster, .masterSerial, .timePriXor, .guardG]) rfl ?_)
    · simp [hfd]
    · simp [hfd]

@[simp] theorem State.bootStep_of {fd : Fld} (s : State) (b : BootIn) (k : Nat) (hfd : fd ∉
    [.et, .sub, .etClock, .cores, .spad, .flights, .credits, .clusters, .hbm, .windows, .opFaulted, .parts, .leases, .links,
      .timePriXor, .guardG, .timeMaster, .masterSerial, .rails, .zones, .regulators, .faults, .faultSeq, .faultsLost, .flashA,
      .flashB, .freeCount]) :
    fd.of (s.bootStep b k) = fd.of s := by
  simp only [List.mem_cons, not_or] at hfd
  unfold State.bootStep
  split
  · refine (Fld.of_each _ fun t z => ?_).trans ((Fld.of_set_rails _ _ ?_).trans (State.writeLimits_of _ _ ?_)) <;> simp [hfd]
  · exact Fld.of_upd (L := [.rails, .et, .sub, .etClock]) rfl (by simp [hfd])
  · simp [hfd]
  · exact Fld.of_upd (L := [.hbm, .rails]) rfl (by simp [hfd])
  · simp [hfd]

@[simp] theorem State.bootStop_of {fd : Fld} (s : State) (b : BootIn) (hfd : fd ∉
    [.etClock, .supply, .pfw, .rails, .bootRest, .bootWait]) :
    fd.of (s.bootStop b) = fd.of s := by
  exact Fld.of_upd rfl hfd

@[simp] theorem State.bootTail_of {fd : Fld} (s : State) (b : BootIn) (hfd : fd ∉
    [.et, .sub, .etClock, .cores, .spad, .flights, .credits, .clusters, .hbm, .windows, .opFaulted, .longs, .parts, .leases,
      .links, .timePriXor, .guardG, .timeMaster, .masterSerial, .supply, .estate, .stateEt, .standbyOk, .aonWake, .quietArmed,
      .pfw, .rails, .zones, .regulators, .faults, .faultSeq, .faultsLost, .flashA, .flashB, .bootRest, .bootWait, .freeCount]) :
    fd.of (s.bootTail b) = fd.of s := by
  simp only [List.mem_cons, not_or] at hfd
  unfold State.bootTail
  split <;> simp [hfd]

@[simp] theorem State.bootStep4_of {fd : Fld} (s : State) (b : BootIn) (hfd : fd ∉
    [.et, .sub, .etClock, .cores, .spad, .flights, .credits, .clusters, .hbm, .windows, .opFaulted, .longs, .parts, .leases,
      .links, .timePriXor, .guardG, .timeMaster, .masterSerial, .supply, .estate, .stateEt, .standbyOk, .aonWake, .quietArmed,
      .pfw, .rails, .zones, .regulators, .faults, .faultSeq, .faultsLost, .flashA, .flashB, .bootRest, .bootWait, .freeCount]) :
    fd.of (s.bootStep4 b) = fd.of s := by
  simp only [List.mem_cons, not_or] at hfd
  unfold State.bootStep4
  extract_lets rails t
  have ht : fd.of t = fd.of s := Fld.of_set_rails s _ (by simp [hfd])
  split
  · exact (State.bootTail_of t b (by simp [hfd])).trans ht
  · exact (Fld.of_set_supply_bootRest_bootWait t _ _ _ (by simp [hfd])).trans ht

@[simp] theorem State.bootStep3_of {fd : Fld} (s : State) (b : BootIn) (hfd : fd ∉
    [.et, .sub, .etClock, .cores, .spad, .flights, .credits, .clusters, .hbm, .windows, .opFaulted, .longs, .parts, .leases,
      .links, .timePriXor, .guardG, .timeMaster, .masterSerial, .supply, .estate, .stateEt, .standbyOk, .aonWake, .quietArmed,
      .pfw, .rails, .zones, .regulators, .faults, .faultSeq, .faultsLost, .flashA, .flashB, .firmware, .noImageAt, .bootRest,
      .bootWait, .freeCount]) :
    fd.of (s.bootStep3 b) = fd.of s := by
  simp only [List.mem_cons, not_or] at hfd
  have hd : fd.of s.drew = fd.of s := State.drew_of s (by simp [hfd])
  unfold State.bootStep3
  split
  · exact (State.bootStep4_of _ b (by simp [hfd])).trans ((Fld.of_set_firmware s.drew _ (by simp [hfd])).trans hd)
  · exact (Fld.of_set_supply_noImageAt s.drew _ _ (by simp [hfd])).trans hd

@[simp] theorem State.stopTests_of {fd : Fld} (s : State) (hfd : fd ∉ [.clusters]) :
    fd.of (s.stopTests) = fd.of s := by
  simp only [List.mem_cons, not_or] at hfd
  unfold State.stopTests
  simp [hfd]

@[simp] theorem State.restWafer_of {fd : Fld} (s : State) (hfd : fd ∉
    [.cores, .spad, .flights, .credits, .clusters, .coreEvents, .regReplies, .noTargets]) :
    fd.of (s.restWafer) = fd.of s := by
  exact Fld.of_upd rfl hfd

@[simp] theorem State.restLinks_of {fd : Fld} (s : State) (hfd : fd ∉ [.parts, .links]) :
    fd.of (s.restLinks) = fd.of s := by
  exact Fld.of_upd rfl hfd

@[simp] theorem State.dropCompl_of {fd : Fld} (s : State) (l : List Compl) (hfd : fd ∉ [.clusters, .parts]) :
    fd.of (s.dropCompl l) = fd.of s := by
  simp only [List.mem_cons, not_or] at hfd
  unfold State.dropCompl
  simp [hfd]

@[simp] theorem State.dropHeld_of {fd : Fld} (s : State) (hfd : fd ∉ [.clusters, .windows, .parts]) :
    fd.of (s.dropHeld) = fd.of s := by
  simp only [List.mem_cons, not_or] at hfd
  unfold State.dropHeld
  simp [hfd]

@[simp] theorem State.dmaMove_of {fd : Fld} (s : State) (h f : Nat) (j : DmaJob) (n : Nat) (source : Bytes) (hfd : fd ∉
    [.hbm, .hostMem]) :
    fd.of (s.dmaMove h f j n source) = fd.of s := by
  simp only [List.mem_cons, not_or] at hfd
  unfold State.dmaMove
  simp [hfd]

@[simp] theorem State.violate_of {fd : Fld} (s : State) (p kind n : Nat) (hfd : fd ∉ [.violCounts]) :
    fd.of (s.violate p kind n) = fd.of s := by
  exact Fld.of_upd rfl hfd

@[simp] theorem State.dmaDescriptor_of {fd : Fld} (s : State) (h f : Nat) (index : BitVec 16) (moved status : Nat) (hfd : fd ∉
    [.hostMem, .windows]) :
    fd.of (s.dmaDescriptor h f index moved status) = fd.of s := by
  simp only [List.mem_cons, not_or] at hfd
  unfold State.dmaDescriptor
  simp [hfd]

@[simp] theorem State.stopTransfer_of {fd : Fld} (s : State) (h f : Nat) (descriptor : Bool) (hfd : fd ∉
    [.hbm, .hostMem, .windows, .violCounts, .freeCount]) :
    fd.of (s.stopTransfer h f descriptor) = fd.of s := by
  simp only [List.mem_cons, not_or] at hfd
  unfold State.stopTransfer
  split <;> simp [hfd]

@[simp] theorem State.stopAllDma_of {fd : Fld} (s : State) (hfd : fd ∉ [.hbm, .hostMem, .windows, .violCounts, .freeCount]) :
    fd.of (s.stopAllDma) = fd.of s := by
  simp only [List.mem_cons, not_or] at hfd
  unfold State.stopAllDma
  simp [hfd]

@[simp] theorem State.finishAll_of {fd : Fld} (s : State) (p : LongCmd → Bool) (status : Nat) (hfd : fd ∉
    [.windows, .opFaulted, .longs]) :
    fd.of (s.finishAll p status) = fd.of s := by
  simp only [List.mem_cons, not_or] at hfd
  unfold State.finishAll
  simp [hfd]

@[simp] theorem State.writeVoltages_of {fd : Fld} (s : State) (zs : List Nat) (hfd : fd ∉ [.zones]) :
    fd.of (s.writeVoltages zs) = fd.of s := by
  simp only [List.mem_cons, not_or] at hfd
  unfold State.writeVoltages
  simp [hfd]

@[simp] theorem State.tryExit_of {fd : Fld} (s : State) (hfd : fd ∉
    [.windows, .estate, .stateEt, .zones, .faults, .faultSeq, .faultsLost]) :
    fd.of (s.tryExit) = fd.of s := by
  simp only [List.mem_cons, not_or] at hfd
  unfold State.tryExit
  simp [hfd]

@[simp] theorem State.latchQuiet_of {fd : Fld} (s : State) (hfd : fd ∉ [.aonWake]) :
    fd.of (s.latchQuiet) = fd.of s := by
  simp only [List.mem_cons, not_or] at hfd
  unfold State.latchQuiet
  simp [hfd]

@[simp] theorem State.exitE1_of {fd : Fld} (s : State) (hfd : fd ∉ [.clusters, .brace, .faults, .faultSeq, .faultsLost]) :
    fd.of (s.exitE1) = fd.of s := by
  simp only [List.mem_cons, not_or] at hfd
  unfold State.exitE1
  split <;> simp [hfd]

@[simp] theorem State.flagHeld_of {fd : Fld} (s : State) (hfd : fd ∉ [.parts]) :
    fd.of (s.flagHeld) = fd.of s := by
  simp only [List.mem_cons, not_or] at hfd
  unfold State.flagHeld
  refine Fld.of_each _ fun t p => ?_
  split
  · split <;> simp [hfd]
  · rfl

@[simp] theorem State.unjoin_of {fd : Fld} (s : State) (test : GroupPort → Bool) (hfd : fd ∉ [.parts]) :
    fd.of (s.unjoin test) = fd.of s := by
  simp only [List.mem_cons, not_or] at hfd
  unfold State.unjoin
  simp [hfd]

@[simp] theorem State.leaveGroups_of {fd : Fld} (s : State) (hfd : fd ∉ [.parts, .links]) :
    fd.of (s.leaveGroups) = fd.of s := by
  simp only [List.mem_cons, not_or] at hfd
  unfold State.leaveGroups
  simp [hfd]

@[simp] theorem State.stopBetween_of {fd : Fld} (s : State) (hfd : fd ∉
    [.cores, .spad, .flights, .credits, .clusters, .parts, .leases, .links, .freeCount]) :
    fd.of (s.stopBetween) = fd.of s := by
  simp only [List.mem_cons, not_or] at hfd
  unfold State.stopBetween
  refine Fld.of_each _ fun t p => ?_
  split
  · split <;> simp [hfd]
  · rfl

@[simp] theorem State.endQuiesced_of {fd : Fld} (s : State) (p : Nat) (reason : Nat) (stop : Stop) (r : Request) (hfd : fd ∉
    [.clusters, .windows, .parts]) :
    fd.of (s.endQuiesced p reason stop r) = fd.of s := by
  simp only [List.mem_cons, not_or] at hfd
  unfold State.endQuiesced
  simp [hfd]

@[simp] theorem State.sortRequests_of {fd : Fld} (s : State) (reason : Nat) (stop : Stop) (hfd : fd ∉
    [.clusters, .windows, .parts]) :
    fd.of (s.sortRequests reason stop) = fd.of s := by
  simp only [List.mem_cons, not_or] at hfd
  unfold State.sortRequests
  refine Fld.of_each _ fun t p => ?_
  dsimp only
  rw [State.modPart_of _ _ _ (by simp [hfd])]
  exact Fld.of_each _ fun t r => State.endQuiesced_of _ _ _ _ _ (by simp [hfd])

@[simp] theorem State.cutBreath_of {fd : Fld} (s : State) (p : Nat) (hfd : fd ∉ [.clusters, .parts]) :
    fd.of (s.cutBreath p) = fd.of s := by
  simp only [List.mem_cons, not_or] at hfd
  unfold State.cutBreath
  dsimp only
  repeat' split
  all_goals simp [hfd]

@[simp] theorem State.trackExcess_of {fd : Fld} (s : State) (hfd : fd ∉ [.overSince, .overLogged]) :
    fd.of (s.trackExcess) = fd.of s := by
  unfold State.trackExcess
  split
  · exact Fld.of_upd (L := [.overSince, .overLogged]) rfl hfd
  · exact Fld.of_upd rfl hfd

@[simp] theorem State.setAllowance_of {fd : Fld} (s : State) (a : Nat) (hfd : fd ∉ [.windows, .allowance]) :
    fd.of (s.setAllowance a) = fd.of s := by
  simp only [List.mem_cons, not_or] at hfd
  unfold State.setAllowance
  split
  · rfl
  · exact (State.eventAll_of _ _ (by simp [hfd])).trans (Fld.of_set_allowance _ _ (by simp [hfd]))

@[simp] theorem State.fenceCluster_of {fd : Fld} (s : State) (r : PartRec) (c : Nat) (hfd : fd ∉ [.cores]) :
    fd.of (s.fenceCluster r c) = fd.of s := by
  simp only [List.mem_cons, not_or] at hfd
  unfold State.fenceCluster
  simp [hfd]

@[simp] theorem State.build_of {fd : Fld} (s : State) (p : Nat) (hfd : fd ∉
    [.cores, .clusters, .windows, .rules, .parts, .links]) :
    fd.of (s.build p) = fd.of s := by
  simp only [List.mem_cons, not_or] at hfd
  unfold State.build
  extract_lets r t u v w x
  have ht : fd.of t = fd.of s := Fld.of_each _ fun t c => State.modCluster_of t _ _ (by simp [hfd])
  have hu : fd.of u = fd.of t := Fld.of_each _ fun t c => State.fenceCluster_of t _ _ (by simp [hfd])
  have hv : fd.of v = fd.of u := State.enterAll_of u _ _ (by simp [hfd])
  have hw : fd.of w = fd.of v := State.assign_of v _ (by simp [hfd])
  have hx : fd.of x = fd.of w := State.modPart_of w _ _ (by simp [hfd])
  have h : fd.of x = fd.of s := hx.trans (hw.trans (hv.trans (hu.trans ht)))
  clear_value x
  by_cases hp : p = 0
  · rw [if_pos hp]
    exact h
  · rw [if_neg hp]
    exact (Fld.of_each _ fun t h => Fld.of_set_windows t _ (by simp [hfd])).trans h

@[simp] theorem State.retrainLinks_of {fd : Fld} (s : State) (hfd : fd ∉ [.parts, .links, .retimeWanted]) :
    fd.of (s.retrainLinks) = fd.of s := by
  simp only [List.mem_cons, not_or] at hfd
  unfold State.retrainLinks
  extract_lets src t
  have hsrc : fd.of src = fd.of s := by simp +zetaDelta [hfd]
  clear_value src
  have ht : fd.of t = fd.of s := (Fld.of_set_retimeWanted _ _ (by simp [hfd])).trans hsrc
  clear_value t
  exact (Fld.of_set_links _ _ (by simp [hfd])).trans ht

@[simp] theorem State.retrim_of {fd : Fld} (s : State) (hfd : fd ∉ [.cal, .zones]) :
    fd.of (s.retrim) = fd.of s := by
  simp only [List.mem_cons, not_or] at hfd
  unfold State.retrim
  split <;> simp [hfd]

@[simp] theorem State.powerDown_of {fd : Fld} (s : State) (hfd : fd ∉ [.clusters]) :
    fd.of (s.powerDown) = fd.of s := by
  simp only [List.mem_cons, not_or] at hfd
  unfold State.powerDown
  simp [hfd]

@[simp] theorem State.forcedStop_of {fd : Fld} (s : State) (hfd : fd ∉
    [.cores, .spad, .flights, .credits, .clusters, .parts, .leases, .links, .freeCount]) :
    fd.of (s.forcedStop) = fd.of s := by
  simp only [List.mem_cons, not_or] at hfd
  unfold State.forcedStop
  simp [hfd]

@[simp] theorem State.release_of {fd : Fld} (s : State) (kind index : Nat) (hfd : fd ∉ [.leases]) :
    fd.of (s.release kind index) = fd.of s := by
  exact Fld.of_upd rfl hfd

@[simp] theorem State.contextDone_of {fd : Fld} (s : State) (p : Nat) (r : LinkRec) (n : Nat) (hfd : fd ∉ [.leases, .links]) :
    fd.of (s.contextDone p r n) = fd.of s := by
  simp only [List.mem_cons, not_or] at hfd
  unfold State.contextDone
  simp [hfd]

@[simp] theorem State.grant_of {fd : Fld} (s : State) (kind index : Nat) (tag : BitVec 16) (hfd : fd ∉ [.leases]) :
    fd.of (s.grant kind index tag) = fd.of s := by
  exact Fld.of_upd rfl hfd

@[simp] theorem State.contextStart_of {fd : Fld} (s : State) (p : Nat) (r : LinkRec) (n : Nat) (hfd : fd ∉ [.leases, .links]) :
    fd.of (s.contextStart p r n) = fd.of s := by
  simp only [List.mem_cons, not_or] at hfd
  unfold State.contextStart
  simp [hfd]

@[simp] theorem State.sendReply_of {fd : Fld} (s : State) (c : Nat) (h : Hdr) (r : StrReg) (v : Nat) (hfd : fd ∉
    [.regReplies]) :
    fd.of (s.sendReply c h r v) = fd.of s := by
  exact Fld.of_upd rfl hfd

@[simp] theorem State.coreGets_of {fd : Fld} (s : State) (c n : Nat) (h : Hdr) (f : CoreFrame) (hfd : fd ∉
    [.cores, .regReplies]) :
    fd.of (s.coreGets c n h f) = fd.of s := by
  simp only [List.mem_cons, not_or] at hfd
  unfold State.coreGets
  split <;> simp [hfd]

@[simp] theorem State.fixSwitch_of {fd : Fld} (s : State) (p : Nat) (hfd : fd ∉ [.clusters, .parts]) :
    fd.of (s.fixSwitch p) = fd.of s := by
  simp only [List.mem_cons, not_or] at hfd
  unfold State.fixSwitch
  dsimp only
  repeat' split
  all_goals simp [hfd]

@[simp] theorem State.layerEnds_of {fd : Fld} (s : State) (p : Nat) (hfd : fd ∉
    [.cores, .spad, .flights, .credits, .clusters, .parts, .leases, .links, .freeCount]) :
    fd.of (s.layerEnds p) = fd.of s := by
  simp only [List.mem_cons, not_or] at hfd
  unfold State.layerEnds
  split <;> simp [hfd]

@[simp] theorem State.coresGet_of {fd : Fld} (s : State) (c : Nat) (h : Hdr) (f : CoreFrame) (hfd : fd ∉
    [.cores, .regReplies]) :
    fd.of (s.coresGet c h f) = fd.of s := by
  simp only [List.mem_cons, not_or] at hfd
  unfold State.coresGet
  simp [hfd]

@[simp] theorem State.endFinishing_of {fd : Fld} (s : State) (reason : Nat) (hfd : fd ∉
    [.cores, .spad, .flights, .credits, .clusters, .windows, .opFaulted, .parts, .leases, .links, .freeCount]) :
    fd.of (s.endFinishing reason) = fd.of s := by
  simp only [List.mem_cons, not_or] at hfd
  unfold State.endFinishing
  refine Fld.of_each _ fun t p => ?_
  split
  · split <;> simp [hfd]
  · rfl

@[simp] theorem State.wdogTrip_of {fd : Fld} (s : State) (c lc : Nat) (kind : HoldKind) (hfd : fd ∉
    [.cores, .coreEvents, .faults, .faultSeq, .faultsLost]) :
    fd.of (s.wdogTrip c lc kind) = fd.of s := by
  simp only [List.mem_cons, not_or] at hfd
  unfold State.wdogTrip
  extract_lets n t u
  have ht : fd.of t = fd.of s := by simp +zetaDelta [hfd]
  clear_value t
  have hu : fd.of u = fd.of t := (Fld.of_set_coreEvents _ _ (by simp [hfd]))
  clear_value u
  simp [hfd, ht, hu]

@[simp] theorem State.delaySwitch_of {fd : Fld} (s : State) (p d : Nat) (hfd : fd ∉ [.cores, .parts]) :
    fd.of (s.delaySwitch p d) = fd.of s := by
  simp only [List.mem_cons, not_or] at hfd
  unfold State.delaySwitch
  simp [hfd]

@[simp] theorem State.popHead_of {fd : Fld} (s : State) (c lc : Nat) (net : Net) (port : Dir) (hfd : fd ∉ [.cores, .credits]) :
    fd.of (s.popHead c lc net port) = fd.of s := by
  simp only [List.mem_cons, not_or] at hfd
  unfold State.popHead
  simp [hfd]

@[simp] theorem State.setHead_of {fd : Fld} (s : State) (c lc : Nat) (net : Net) (port : Dir) (outs : List Dir) (rx : Bool) (hfd : fd ∉
    [.cores]) :
    fd.of (s.setHead c lc net port outs rx) = fd.of s := by
  simp only [List.mem_cons, not_or] at hfd
  unfold State.setHead
  simp [hfd]

@[simp] theorem State.sendViol_of {fd : Fld} (s : State) (c : Nat) (hfd : fd ∉ [.clusters, .violCounts]) :
    fd.of (s.sendViol c) = fd.of s := by
  simp only [List.mem_cons, not_or] at hfd
  unfold State.sendViol
  simp [hfd]

@[simp] theorem State.destroyEnd_of {fd : Fld} (s : State) (p : Nat) (x : Leave) (hfd : fd ∉
    [.cores, .clusters, .hbm, .violCounts, .parts, .leases]) :
    fd.of (s.destroyEnd p x) = fd.of s := by
  simp only [List.mem_cons, not_or] at hfd
  unfold State.destroyEnd
  simp [hfd]

@[simp] theorem State.stopDma_of {fd : Fld} (s : State) (p : Nat) (hfd : fd ∉
    [.hbm, .hostMem, .windows, .violCounts, .freeCount]) :
    fd.of (s.stopDma p) = fd.of s := by
  simp only [List.mem_cons, not_or] at hfd
  unfold State.stopDma
  simp [hfd]

@[simp] theorem State.unloadAll_of {fd : Fld} (s : State) (p : Nat) (hfd : fd ∉ [.clusters, .parts]) :
    fd.of (s.unloadAll p) = fd.of s := by
  simp only [List.mem_cons, not_or] at hfd
  unfold State.unloadAll
  exact (Fld.of_set_clusters _ _ (by simp [hfd])).trans (State.modPart_of s p _ (by simp [hfd]))

@[simp] theorem State.keepHeld_of {fd : Fld} (s : State) (test : Nat → Nat → Port → RxCell → Bool) (hfd : fd ∉ [.links]) :
    fd.of (s.keepHeld test) = fd.of s := by
  exact Fld.of_upd rfl hfd

@[simp] theorem State.leavePorts_of {fd : Fld} (s : State) (p : Nat) (hfd : fd ∉ [.links]) :
    fd.of (s.leavePorts p) = fd.of s := by
  simp only [List.mem_cons, not_or] at hfd
  unfold State.leavePorts
  simp [hfd]

@[simp] theorem State.destroyStart_of {fd : Fld} (s : State) (p : Nat) (hfd : fd ∉
    [.cores, .spad, .flights, .credits, .clusters, .hbm, .hostMem, .windows, .rules, .violCounts, .opFaulted, .longs, .parts,
      .leases, .links, .draining, .wakeEt, .maint, .cal, .dump, .rails, .zones, .fuses, .flashA, .flashB, .fwJob, .freeCount]) :
    fd.of (s.destroyStart p) = fd.of s := by
  simp only [List.mem_cons, not_or] at hfd
  unfold State.destroyStart
  simp [hfd]

@[simp] theorem State.modStack_of {fd : Fld} (s : State) (m : Nat) (f : HbmStack → HbmStack) (hfd : fd ∉ [.hbmStacks]) :
    fd.of (s.modStack m f) = fd.of s := by
  exact Fld.of_upd rfl hfd

@[simp] theorem State.hbmSingle_of {fd : Fld} (s : State) (ea : Nat) (hfd : fd ∉
    [.hbmStacks, .faults, .faultSeq, .faultsLost]) :
    fd.of (s.hbmSingle ea) = fd.of s := by
  simp only [List.mem_cons, not_or] at hfd
  unfold State.hbmSingle
  simp [hfd]

@[simp] theorem State.hbmSingles_of {fd : Fld} (s : State) (granules : List Nat) (l : List Nat) (hfd : fd ∉
    [.hbmStacks, .faults, .faultSeq, .faultsLost]) :
    fd.of (s.hbmSingles granules l) = fd.of s := by
  simp only [List.mem_cons, not_or] at hfd
  unfold State.hbmSingles
  simp [hfd]

@[simp] theorem State.hbmDouble_of {fd : Fld} (s : State) (part : Option Nat) (ea kind : Nat) (hfd : fd ∉
    [.faults, .faultSeq, .faultsLost]) :
    fd.of (s.hbmDouble part ea kind) = fd.of s := by
  simp only [List.mem_cons, not_or] at hfd
  unfold State.hbmDouble
  simp [hfd]

@[simp] theorem State.doubleBit_of {fd : Fld} (s : State) (c lc addr : Nat) (store : Bool) (hfd : fd ∉
    [.cores, .spad, .flights, .credits, .clusters, .coreEvents, .windows, .opFaulted, .parts, .leases, .links, .faults,
      .faultSeq, .faultsLost, .declared, .freeCount]) :
    fd.of (s.doubleBit c lc addr store) = fd.of s := by
  simp only [List.mem_cons, not_or] at hfd
  unfold State.doubleBit
  extract_lets n t u last again v w x
  have ht : fd.of t = fd.of s := by simp +zetaDelta [hfd]
  clear_value t
  have hu : fd.of u = fd.of t := (Fld.of_set_coreEvents _ _ (by simp [hfd]))
  clear_value u
  have hv : fd.of v = fd.of u := by simp +zetaDelta [hfd]
  clear_value v
  have hw : fd.of w = fd.of v := by
    dsimp only [w]
    split
    · exact (Fld.of_set_declared _ _ (by simp [hfd]))
    · rfl
  clear_value w
  have hx : fd.of x = fd.of w := by simp +zetaDelta [hfd]
  clear_value x
  split <;> simp [hfd, ht, hu, hv, hw, hx]

@[simp] theorem State.drive_of {fd : Fld} (s : State) (tap : Nat) (spi : List SpiOp) (hfd : fd ∉ [.flashA, .flashB]) :
    fd.of (s.drive tap spi) = fd.of s := by
  simp only [List.mem_cons, not_or] at hfd
  unfold State.drive
  simp [hfd]

@[simp] theorem State.dropJoins_of {fd : Fld} (s : State) (p g : Nat) (hfd : fd ∉ [.links]) :
    fd.of (s.dropJoins p g) = fd.of s := by
  simp only [List.mem_cons, not_or] at hfd
  unfold State.dropJoins
  simp [hfd]

@[simp] theorem State.nextUpstream_of {fd : Fld} (s : State) (hfd : fd ∉ [.links, .freeCount]) :
    fd.of (s.nextUpstream) = fd.of s := by
  simp only [List.mem_cons, not_or] at hfd
  unfold State.nextUpstream
  dsimp only
  repeat' split
  all_goals simp [hfd]

@[simp] theorem State.dropPort_of {fd : Fld} (s : State) (d p : Nat) (hfd : fd ∉
    [.parts, .links, .faults, .faultSeq, .faultsLost, .freeCount]) :
    fd.of (s.dropPort d p) = fd.of s := by
  simp only [List.mem_cons, not_or] at hfd
  unfold State.dropPort
  simp [hfd]

@[simp] theorem State.dumpWrite_of {fd : Fld} (s : State) (j : DumpJob) (bad : List Nat) (hfd : fd ∉ [.hostMem]) :
    fd.of (s.dumpWrite j bad) = fd.of s := by
  simp only [List.mem_cons, not_or] at hfd
  unfold State.dumpWrite
  simp [hfd]

@[simp] theorem State.repark_of {fd : Fld} (s : State) (p : Nat) (hfd : fd ∉ [.clusters, .parts]) :
    fd.of (s.repark p) = fd.of s := by
  simp only [List.mem_cons, not_or] at hfd
  unfold State.repark
  simp [hfd]

@[simp] theorem State.resetPart_of {fd : Fld} (s : State) (p : Nat) (hard : Bool) (cmd : Option LongCmd) (hfd : fd ∉
    [.cores, .spad, .flights, .credits, .clusters, .windows, .opFaulted, .longs, .parts, .leases, .links, .draining, .wakeEt,
      .maint, .cal, .dump, .rails, .zones, .faults, .faultSeq, .faultsLost, .fuses, .flashA, .flashB, .fwJob, .freeCount]) :
    fd.of (s.resetPart p hard cmd) = fd.of s := by
  simp only [List.mem_cons, not_or] at hfd
  unfold State.resetPart
  dsimp only
  repeat' split
  all_goals simp [hfd]

@[simp] theorem State.resumeReset_of {fd : Fld} (s : State) (p : Nat) (hfd : fd ∉
    [.cores, .spad, .flights, .credits, .clusters, .windows, .opFaulted, .longs, .parts, .leases, .links, .draining, .wakeEt,
      .maint, .cal, .dump, .rails, .zones, .faults, .faultSeq, .faultsLost, .fuses, .flashA, .flashB, .fwJob, .freeCount]) :
    fd.of (s.resumeReset p) = fd.of s := by
  simp only [List.mem_cons, not_or] at hfd
  unfold State.resumeReset
  split
  · rfl
  · split <;> simp [hfd]

@[simp] theorem State.tryResume_of {fd : Fld} (s : State) (p : Nat) (hfd : fd ∉ [.parts]) :
    fd.of (s.tryResume p) = fd.of s := by
  simp only [List.mem_cons, not_or] at hfd
  unfold State.tryResume
  simp [hfd]

@[simp] theorem State.resume_of {fd : Fld} (s : State) (p : Nat) (hfd : fd ∉
    [.cores, .spad, .flights, .credits, .clusters, .windows, .opFaulted, .longs, .parts, .leases, .links, .draining, .wakeEt,
      .maint, .cal, .dump, .rails, .zones, .faults, .faultSeq, .faultsLost, .fuses, .flashA, .flashB, .fwJob, .freeCount]) :
    fd.of (s.resume p) = fd.of s := by
  simp only [List.mem_cons, not_or] at hfd
  unfold State.resume
  simp [hfd]

@[simp] theorem State.unparked_of {fd : Fld} (s : State) (p : Nat) (hfd : fd ∉ [.parts]) :
    fd.of (s.unparked p) = fd.of s := by
  simp only [List.mem_cons, not_or] at hfd
  unfold State.unparked
  simp [hfd]

@[simp] theorem State.settle_of {fd : Fld} (s : State) (hfd : fd ∉
    [.cores, .spad, .flights, .credits, .clusters, .windows, .opFaulted, .longs, .parts, .leases, .links, .draining, .wakeEt,
      .maint, .cal, .dump, .rails, .zones, .faults, .faultSeq, .faultsLost, .fuses, .flashA, .flashB, .fwJob, .freeCount]) :
    fd.of (s.settle) = fd.of s := by
  simp only [List.mem_cons, not_or] at hfd
  unfold State.settle
  simp [hfd]

@[simp] theorem State.refuseRow_of {fd : Fld} (s : State) (c : Nat) (h : Hdr) (f : CoreFrame) (hfd : fd ∉ [.noTargets]) :
    fd.of (s.refuseRow c h f) = fd.of s := by
  exact Fld.of_upd rfl hfd

@[simp] theorem State.rowsRefused_of {fd : Fld} (s : State) (c : Nat) (hfd : fd ∉ [.clusters, .noTargets]) :
    fd.of (s.rowsRefused c) = fd.of s := by
  simp only [List.mem_cons, not_or] at hfd
  unfold State.rowsRefused
  simp [hfd]

@[simp] theorem State.rowsGo_of {fd : Fld} (s : State) (c : Nat) (hfd : fd ∉ [.cores, .clusters, .regReplies]) :
    fd.of (s.rowsGo c) = fd.of s := by
  simp only [List.mem_cons, not_or] at hfd
  unfold State.rowsGo
  simp [hfd]

@[simp] theorem State.settled_of {fd : Fld} (s : State) (p c : Nat) (hfd : fd ∉ [.cores, .clusters, .regReplies]) :
    fd.of (s.settled p c) = fd.of s := by
  simp only [List.mem_cons, not_or] at hfd
  unfold State.settled
  simp [hfd]

@[simp] theorem State.mapOut_of {fd : Fld} (s : State) (c n : Nat) (hfd : fd ∉
    [.cores, .spad, .clusters, .faults, .faultSeq, .faultsLost, .flashA, .flashB]) :
    fd.of (s.mapOut c n) = fd.of s := by
  simp only [List.mem_cons, not_or] at hfd
  unfold State.mapOut
  dsimp only
  repeat' split
  all_goals simp [hfd]

@[simp] theorem State.retireFor_of {fd : Fld} (s : State) (c r : Nat) (hfd : fd ∉
    [.cores, .clusters, .faults, .faultSeq, .faultsLost, .flashA, .flashB]) :
    fd.of (s.retireFor c r) = fd.of s := by
  simp only [List.mem_cons, not_or] at hfd
  unfold State.retireFor
  simp [hfd]

@[simp] theorem State.unverify_of {fd : Fld} (s : State) (p : Nat) (hfd : fd ∉ [.longs, .parts]) :
    fd.of (s.unverify p) = fd.of s := by
  simp only [List.mem_cons, not_or] at hfd
  unfold State.unverify
  simp [hfd]

@[simp] theorem State.flagAll_of {fd : Fld} (s : State) (hfd : fd ∉ [.windows, .parts]) :
    fd.of (s.flagAll) = fd.of s := by
  exact Fld.of_upd rfl hfd

@[simp] theorem State.unverifyId_of {fd : Fld} (s : State) (p : Nat) (id : BitVec 64) (hfd : fd ∉ [.longs, .parts]) :
    fd.of (s.unverifyId p id) = fd.of s := by
  simp only [List.mem_cons, not_or] at hfd
  unfold State.unverifyId
  simp [hfd]

@[simp] theorem State.modProg_of {fd : Fld} (s : State) (p key : Nat) (f : LinkProg → LinkProg) (hfd : fd ∉ [.parts]) :
    fd.of (s.modProg p key f) = fd.of s := by
  simp only [List.mem_cons, not_or] at hfd
  unfold State.modProg
  simp [hfd]

@[simp] theorem State.handIn_of {fd : Fld} (s : State) (p g i : Nat) (r : LinkRec) (n : Nat) (payload : Bytes) (hfd : fd ∉
    [.cores, .parts]) :
    fd.of (s.handIn p g i r n payload) = fd.of s := by
  simp only [List.mem_cons, not_or] at hfd
  unfold State.handIn
  simp [hfd]

@[simp] theorem State.handOut_of {fd : Fld} (s : State) (p g i : Nat) (run : Run) (r : LinkRec) (n : Nat) (payload : Bytes) (hfd : fd ∉
    [.parts, .links]) :
    fd.of (s.handOut p g i run r n payload) = fd.of s := by
  simp only [List.mem_cons, not_or] at hfd
  unfold State.handOut
  simp [hfd]

@[simp] theorem State.seizeOne_of {fd : Fld} (s : State) (x : Seized) (hfd : fd ∉
    [.cores, .clusters, .windows, .opFaulted, .leases, .links, .faults, .faultSeq, .faultsLost]) :
    fd.of (s.seizeOne x) = fd.of s := by
  simp only [List.mem_cons, not_or] at hfd
  unfold State.seizeOne
  simp [hfd]

@[simp] theorem State.seizeList_of {fd : Fld} (s : State) (l : List Seized) (hfd : fd ∉
    [.cores, .spad, .flights, .credits, .clusters, .windows, .opFaulted, .parts, .leases, .links, .faults, .faultSeq,
      .faultsLost, .freeCount]) :
    fd.of (s.seizeList l) = fd.of s := by
  simp only [List.mem_cons, not_or] at hfd
  unfold State.seizeList
  simp [hfd]

@[simp] theorem State.loadIr_of {fd : Fld} (s : State) (tap : Nat) (code : BitVec 8) (hfd : fd ∉ [.tapIr]) :
    fd.of (s.loadIr tap code) = fd.of s := by
  unfold State.loadIr
  split
  · rfl
  · exact Fld.of_upd rfl hfd

@[simp] theorem State.identify_of {fd : Fld} (s : State) (tap : Nat) (hfd : fd ∉ [.tapIr, .tapOut]) :
    fd.of (s.identify tap) = fd.of s := by
  simp only [List.mem_cons, not_or] at hfd
  unfold State.identify
  dsimp only
  split
  · simp [hfd]
  · refine (Fld.of_upd (L := [.tapOut]) rfl ?_).trans (State.loadIr_of _ _ _ ?_) <;> simp [hfd]

@[simp] theorem State.ingressLate_of {fd : Fld} (s : State) (p : Nat) (r : Request) (hfd : fd ∉ [.clusters, .windows, .parts]) :
    fd.of (s.ingressLate p r) = fd.of s := by
  simp only [List.mem_cons, not_or] at hfd
  unfold State.ingressLate
  simp [hfd]

@[simp] theorem State.wakeBound_of {fd : Fld} (s : State) (p : Nat) (hfd : fd ∉ [.cores, .clusters]) :
    fd.of (s.wakeBound p) = fd.of s := by
  simp only [List.mem_cons, not_or] at hfd
  unfold State.wakeBound
  simp [hfd]

@[simp] theorem State.setMode_of {fd : Fld} (s : State) (d mode : Nat) (hfd : fd ∉
    [.parts, .links, .faults, .faultSeq, .faultsLost, .freeCount]) :
    fd.of (s.setMode d mode) = fd.of s := by
  simp only [List.mem_cons, not_or] at hfd
  unfold State.setMode
  simp [hfd]

@[simp] theorem State.linkWait_of {fd : Fld} (s : State) (p since : Nat) (hfd : fd ∉ [.cores]) :
    fd.of (s.linkWait p since) = fd.of s := by
  simp only [List.mem_cons, not_or] at hfd
  unfold State.linkWait
  simp [hfd]

@[simp] theorem State.stopExit_of {fd : Fld} (s : State) (hfd : fd ∉ [.clusters, .brace]) :
    fd.of (s.stopExit) = fd.of s := by
  simp only [List.mem_cons, not_or] at hfd
  unfold State.stopExit
  split <;> simp [hfd]

@[simp] theorem State.unloadPlan_of {fd : Fld} (s : State) (p h : Nat) (hfd : fd ∉
    [.cores, .spad, .flights, .credits, .clusters, .windows, .parts, .leases, .links, .freeCount]) :
    fd.of (s.unloadPlan p h) = fd.of s := by
  simp only [List.mem_cons, not_or] at hfd
  unfold State.unloadPlan
  simp [hfd]

@[simp] theorem State.retryRun_of {fd : Fld} (s : State) (p : Nat) (tag : BitVec 32) (hfd : fd ∉ [.parts]) :
    fd.of (s.retryRun p tag) = fd.of s := by
  simp only [List.mem_cons, not_or] at hfd
  unfold State.retryRun
  simp [hfd]

@[simp] theorem State.retried_of {fd : Fld} (s : State) (d p : Nat) (x : RxCell) (hfd : fd ∉ [.parts]) :
    fd.of (s.retried d p x) = fd.of s := by
  simp only [List.mem_cons, not_or] at hfd
  unfold State.retried
  simp [hfd]

@[simp] theorem State.receiveCell_of {fd : Fld} (s : State) (d p : Nat) (c : Cell) (bulk : Bool) (hfd : fd ∉ [.parts, .links]) :
    fd.of (s.receiveCell d p c bulk) = fd.of s := by
  simp only [List.mem_cons, not_or] at hfd
  unfold State.receiveCell
  simp [hfd]

@[simp] theorem State.resend_of {fd : Fld} (s : State) (d p k : Nat) (x : SentCell) (hfd : fd ∉ [.parts, .links]) :
    fd.of (s.resend d p k x) = fd.of s := by
  simp only [List.mem_cons, not_or] at hfd
  unfold State.resend
  simp [hfd]

@[simp] theorem State.resetWindow_of {fd : Fld} (s : State) (h f : Nat) (hfd : fd ∉
    [.clusters, .hbm, .hostMem, .windows, .violCounts, .longs, .parts, .leases, .freeCount]) :
    fd.of (s.resetWindow h f) = fd.of s := by
  simp only [List.mem_cons, not_or] at hfd
  unfold State.resetWindow
  extract_lets t old u v w x
  have hv : fd.of v = fd.of s := by simp +zetaDelta [hfd]
  clear_value v
  exact (Fld.of_upd (L := [.longs, .parts, .windows]) rfl (by simp [hfd])).trans hv

@[simp] theorem State.respond_of {fd : Fld} (s : State) (b : Bytes) (hfd : fd ∉ [.mctp]) :
    fd.of (s.respond b) = fd.of s := by
  unfold State.respond
  split
  · exact Fld.of_upd rfl hfd
  · rfl

@[simp] theorem State.retimed_of {fd : Fld} (s : State) (f : Retime) (hfd : fd ∉
    [.et, .windows, .opFaulted, .longs, .parts, .links, .timeMaster, .masterSerial, .fullRetimes, .retimeWanted, .faults,
      .faultSeq, .faultsLost]) :
    fd.of (s.retimed f) = fd.of s := by
  simp only [List.mem_cons, not_or] at hfd
  unfold State.retimed
  simp [hfd]

@[simp] theorem State.seize_of {fd : Fld} (s : State) (kind index : Nat) (hfd : fd ∉
    [.cores, .spad, .flights, .credits, .clusters, .windows, .opFaulted, .parts, .leases, .links, .faults, .faultSeq,
      .faultsLost, .freeCount]) :
    fd.of (s.seize kind index) = fd.of s := by
  simp only [List.mem_cons, not_or] at hfd
  unfold State.seize
  simp [hfd]

@[simp] theorem State.take_of {fd : Fld} (s : State) (c : Cmd) (hfd : fd ∉ [.windows, .leases]) :
    fd.of (s.take c) = fd.of s := by
  simp only [List.mem_cons, not_or] at hfd
  unfold State.take
  simp [hfd]

@[simp] theorem State.setGang_of {fd : Fld} (s : State) (p : Nat) (pl : Plan) (slot : Fin 4) (loads : List Nat) (hfd : fd ∉
    [.clusters]) :
    fd.of (s.setGang p pl slot loads) = fd.of s := by
  simp only [List.mem_cons, not_or] at hfd
  unfold State.setGang
  simp [hfd]

@[simp] theorem State.thermAlert_of {fd : Fld} (s : State) (hot : Nat) (hfd : fd ∉ [.therm]) :
    fd.of (s.thermAlert hot) = fd.of s := by
  exact Fld.of_upd rfl hfd

@[simp] theorem State.thermTrip_of {fd : Fld} (s : State) (c hot : Nat) (hfd : fd ∉
    [.cores, .spad, .flights, .credits, .clusters, .windows, .opFaulted, .parts, .leases, .links, .faults, .faultSeq,
      .faultsLost, .freeCount]) :
    fd.of (s.thermTrip c hot) = fd.of s := by
  simp only [List.mem_cons, not_or] at hfd
  unfold State.thermTrip
  dsimp only
  repeat' split
  all_goals simp [hfd]

@[simp] theorem State.tickCluster_of {fd : Fld} (s : State) (c : Nat) (hfd : fd ∉ [.cores, .clusters]) :
    fd.of (s.tickCluster c) = fd.of s := by
  simp only [List.mem_cons, not_or] at hfd
  unfold State.tickCluster
  simp [hfd]

@[simp] theorem State.tickPart_of {fd : Fld} (s : State) (p : Nat) (hfd : fd ∉
    [.cores, .spad, .flights, .credits, .clusters, .windows, .opFaulted, .parts, .leases, .links, .freeCount]) :
    fd.of (s.tickPart p) = fd.of s := by
  simp only [List.mem_cons, not_or] at hfd
  unfold State.tickPart
  dsimp only
  repeat' split
  all_goals simp [hfd]

@[simp] theorem State.vendor_of {fd : Fld} (s : State) (command : BitVec 8) (payload : Bytes) (hfd : fd ∉ [.mctp, .freeCount]) :
    fd.of (s.vendor command payload) = fd.of s := by
  simp only [List.mem_cons, not_or] at hfd
  unfold State.vendor
  simp [hfd]

end Sys2Proof.Machine
end

section
/-!
One CCLK on an empty queue (spec/13_clocks_and_power_states.md R342, notes/assumptions/1.md).
-/

namespace Sys2Proof.Machine

open Sys2Proof

/-- What holds before a change for each member of a list, and is kept by each, holds after them all. -/
theorem State.each_induct {α : Type} {P : State → Prop} {s : State} {l : List α} {g : State → α → State} (h : P s)
    (hstep : ∀ t, P t → ∀ a ∈ l, P (g t a)) : P (s.each l g) := by
  induction l generalizing s with
  | nil => exact h
  | cons a r ih => exact ih (hstep s h a (.head _)) fun t ht x hx => hstep t ht x (.tail _ hx)

theorem State.modPart_parts_congr {s t : State} {p : Nat} {f : PartState → PartState} (h : t.parts = s.parts) :
    (t.modPart p f).parts = (s.modPart p f).parts := by
  simp only [State.modPart, h]

/-- No watchdog has tripped. -/
def State.noDeadlock (s : State) : Prop := ∀ p run, p < 16 → (s.part p).run = some run → run.deadlock = false

theorem State.tickPart_parts (s : State) (p : Nat) (h : ∀ run, (s.part p).run = some run → run.deadlock = false) :
    (s.tickPart p).parts = s.parts ∨ ∃ f : Run → Run, (∀ r, (f r).deadlock = r.deadlock) ∧
      (s.tickPart p).parts = (s.modPart p fun q => { q with run := q.run.map f }).parts := by
  unfold State.tickPart
  split
  · exact .inl rfl
  · rename_i run hrun
    dsimp only
    have hcores (t : State) (ht : t.parts = s.parts) : (match run.haltedAt with | some since => t.linkWait p since | none => t).parts = s.parts := by
      split
      · exact (State.linkWait_of (fd := .parts) _ _ _ (by decide)).trans ht
      · exact ht
    rw [if_neg (by simp [h run hrun])]
    have ht := hcores (s.each ((s.partClusters p).filter s.clocked) State.tickCluster)
      (Fld.of_each (f := .parts) _ fun t c => State.tickCluster_of t c (by decide))
    split
    · exact .inr ⟨fun r => { r with held := r.held + 1, flags := { r.flags with slip := true } }, fun _ => rfl, State.modPart_parts_congr ht⟩
    · exact .inl ht

/-- A CCLK of a partition trips no watchdog. -/
theorem State.noDeadlock_tickPart {s : State} {p : Nat} (hp : p < 16) (h : s.noDeadlock) : (s.tickPart p).noDeadlock := by
  intro k run hk hrun
  rcases s.tickPart_parts p (fun r => h p r hp) with he | ⟨f, hf, he⟩
  · exact h k run hk (by rwa [State.part, he] at hrun)
  · rw [State.part, he] at hrun
    by_cases hkp : k = p
    · subst hkp
      rw [← State.part, State.part_modPart] at hrun
      obtain ⟨r, hr, rfl⟩ := Option.map_eq_some_iff.1 hrun
      rw [hf]
      exact h k r hk hr
    · exact h k run hk ((congrArg PartState.run (State.part_modPart_ne s p k _ hkp)).symm.trans hrun)

/-- A CCLK of a partition in which its run does not end changes cores, clusters and partitions alone. -/
theorem State.tickPart_of_noDeadlock {s : State} {p : Nat} {fd : Fld} (h : ∀ run, (s.part p).run = some run → run.deadlock = false)
    (hfd : fd ∉ [.cores, .clusters, .parts]) : fd.of (s.tickPart p) = fd.of s := by
  simp only [List.mem_cons, not_or] at hfd
  unfold State.tickPart
  split
  · rfl
  · rename_i run hrun
    dsimp only
    rw [if_neg (by simp [h run hrun])]
    split <;> split <;> simp [hfd]

theorem State.tickAll_eq (s : State) : s.tickAll = (s.each (List.range 16) State.tickPart).clock := rfl

/-! ## ET's clock -/

theorem State.clock_held {s : State} (hc : s.etClock = .held) : s.clock = { s with now := s.now + 1 } := by
  simp [State.clock, hc]

/-- Within the period of the clock that advances ET, the subcount alone goes on. -/
theorem State.clock_within {s : State} (h : s.etClock = .tclk ∧ s.sub < 7 ∨ s.etClock = .alwaysOn ∧ s.sub < 39) :
    s.clock = { s with now := s.now + 1, sub := s.sub + 1 } := by
  rcases h with ⟨hc, hb⟩ | ⟨hc, hb⟩
  · have hlt : s.sub + 1 < 8 := by omega
    simp [State.clock, hc, hlt]
  · have hlt : s.sub + 1 < 40 := by omega
    simp [State.clock, hc, hlt]

theorem State.clock_tclk {s : State} (hc : s.etClock = .tclk) (hb : 7 ≤ s.sub) :
    s.clock = { s with now := s.now + 1, sub := 0, et := s.et + 1 } := by
  have hge : ¬ s.sub + 1 < 8 := by omega
  simp [State.clock, hc, hge]

theorem State.clock_alwaysOn {s : State} (hc : s.etClock = .alwaysOn) (hb : 39 ≤ s.sub) :
    s.clock = { s with now := s.now + 1, sub := 0, et := s.et + 5 } := by
  have hge : ¬ s.sub + 1 < 40 := by omega
  simp [State.clock, hc, hge]

/-- What a CCLK of ET's clock can do. -/
theorem State.clock_cases (s : State) : ∃ n e, s.clock = { s with now := s.now + 1, sub := n, et := e } ∧
    (e = s.et ∨ e = s.et + 1 ∨ e = s.et + 5) := by
  have hclock : s.etClock = .held ∨ s.etClock = .tclk ∨ s.etClock = .alwaysOn := by cases s.etClock <;> simp
  rcases hclock with hc | hc | hc
  · exact ⟨_, _, State.clock_held hc, .inl rfl⟩
  · by_cases hb : s.sub < 7
    · exact ⟨_, _, State.clock_within (.inl ⟨hc, hb⟩), .inl rfl⟩
    · exact ⟨_, _, State.clock_tclk hc (by omega), .inr (.inl rfl)⟩
  · by_cases hb : s.sub < 39
    · exact ⟨_, _, State.clock_within (.inr ⟨hc, hb⟩), .inl rfl⟩
    · exact ⟨_, _, State.clock_alwaysOn hc (by omega), .inr (.inr rfl)⟩

theorem State.clock_now (s : State) : s.clock.now = s.now + 1 := by
  obtain ⟨n, e, h, -⟩ := s.clock_cases
  rw [h]

theorem State.clock_of {s : State} {fd : Fld} (hfd : fd ∉ [.now, .sub, .et]) : fd.of s.clock = fd.of s := by
  obtain ⟨n, e, h, -⟩ := s.clock_cases
  rw [h]
  exact Fld.of_upd rfl hfd

/-- No partition's CCLK moves ET. -/
theorem State.tickParts_of {s : State} {fd : Fld}
    (hfd : fd ∉ [.cores, .spad, .flights, .credits, .clusters, .windows, .opFaulted, .parts, .leases, .links, .freeCount]) :
    fd.of (s.each (List.range 16) State.tickPart) = fd.of s :=
  Fld.of_each _ fun t p => State.tickPart_of t p hfd

theorem State.tickParts_of_noDeadlock {s : State} {fd : Fld} (h : s.noDeadlock) (hfd : fd ∉ [.cores, .clusters, .parts]) :
    fd.of (s.each (List.range 16) State.tickPart) = fd.of s := by
  refine (State.each_induct (P := fun t => t.noDeadlock ∧ fd.of t = fd.of s) ⟨h, rfl⟩ ?_).2
  rintro t ⟨ht, he⟩ p hp
  have hp' := List.mem_range.1 hp
  exact ⟨State.noDeadlock_tickPart hp' ht, (State.tickPart_of_noDeadlock (fun r => ht p r hp') hfd).trans he⟩

/-- Settles O1. -/
theorem stepRunsFront : Obligations.StepRunsFront := by
  intro c r s h
  rw [step, h]

/-- Settles O2. -/
theorem emptyQueueTicks : Obligations.EmptyQueueTicks := by
  intro s hs
  have hstep : step s = .next s.tickAll := by rw [step, hs]
  have hnow : (s.each (List.range 16) State.tickPart).now = s.now := State.tickParts_of (fd := .now) (by decide)
  have het : (s.each (List.range 16) State.tickPart).et = s.et := State.tickParts_of (fd := .et) (by decide)
  have hsub : (s.each (List.range 16) State.tickPart).sub = s.sub := State.tickParts_of (fd := .sub) (by decide)
  have hclock : (s.each (List.range 16) State.tickPart).etClock = s.etClock := State.tickParts_of (fd := .etClock) (by decide)
  have hall := State.tickAll_eq s
  have hnow' : s.tickAll.now = s.now + 1 := by rw [hall, State.clock_now, hnow]
  refine ⟨_, hstep, ?_, fun hrun => ?_, fun hc => ?_, fun hc hb => ?_, fun hc hb => ?_, fun hc hb => ?_, fun hc hb => ?_⟩
  · exact hnow'
  · have hkeep : ∀ fd : Fld, fd ∉ [.now, .et, .sub, .cores, .clusters, .parts] → fd.of s.tickAll = fd.of s := by
      intro fd hfd
      simp only [List.mem_cons, not_or] at hfd
      rw [hall, State.clock_of (by simp [hfd]), State.tickParts_of_noDeadlock hrun (by simp [hfd])]
    have hpatch := State.eq_patch _ hkeep
    generalize s.tickAll = t at hpatch hnow' ⊢
    rw [← hnow']
    exact hpatch
  all_goals
    rw [hall]
    generalize s.each (List.range 16) State.tickPart = t at het hsub hclock ⊢
  · rw [State.clock_held (hclock.trans hc)]
    exact ⟨het, hsub⟩
  · rw [State.clock_within (.inl ⟨hclock.trans hc, by omega⟩)]
    exact ⟨het, by rw [hsub]⟩
  · rw [State.clock_tclk (hclock.trans hc) (by omega)]
    exact ⟨by rw [het], rfl⟩
  · rw [State.clock_within (.inr ⟨hclock.trans hc, by omega⟩)]
    exact ⟨het, by rw [hsub]⟩
  · rw [State.clock_alwaysOn (hclock.trans hc) (by omega)]
    exact ⟨by rw [het], rfl⟩

end Sys2Proof.Machine
end

section
/-!
Which operations blow fuses and move ET (spec/16_boot_and_security.md R418, R420, Table 16.7; spec/12_links_collectives_time.md
R306): the cut-off of a firmware job inside an aborted command is the one that many operations share.
-/

namespace Sys2Proof.Machine

open Sys2Proof

/-- FW.ACTIVATE with its commit is in progress. -/
def State.committing (s : State) : Prop := ∃ n, s.fwJob = some (.activate n true)

/-- No fuse but rollback and key_revoke differs, and none of these is cleared. -/
structure Fuses.Grows (a b : Fuses) : Prop where
  rest : b = { a with rollback := b.rollback, keyRevoke := b.keyRevoke }
  rollback : ∀ n, a.rollback.getLsbD n = true → b.rollback.getLsbD n = true
  keyRevoke : ∀ n, a.keyRevoke.getLsbD n = true → b.keyRevoke.getLsbD n = true

theorem Fuses.Grows.refl (a : Fuses) : a.Grows a := ⟨rfl, fun _ => id, fun _ => id⟩

theorem Fuses.Grows.trans {a b c : Fuses} (h : a.Grows b) (k : b.Grows c) : a.Grows c :=
  ⟨by rw [k.rest, h.rest], fun n hn => k.rollback n (h.rollback n hn), fun n hn => k.keyRevoke n (h.keyRevoke n hn)⟩

theorem Fuses.Grows.rollbackOr (a : Fuses) (v : BitVec 64) : a.Grows { a with rollback := a.rollback ||| v } :=
  ⟨rfl, fun n hn => by simp [hn], fun _ => id⟩

theorem Fuses.Grows.keyRevokeOr (a : Fuses) (v : BitVec 2) : a.Grows { a with keyRevoke := a.keyRevoke ||| v } :=
  ⟨rfl, fun _ => id, fun n hn => by simp [hn]⟩

/-- An operation that moves neither ET nor any fuse, but for those that a commit in progress blows, and begins no commit. -/
structure Burns (s t : State) : Prop where
  grows : s.fuses.Grows t.fuses
  cause : t.fuses ≠ s.fuses → s.committing
  job : t.committing → s.committing
  et : t.et = s.et

theorem Burns.refl (s : State) : Burns s s := ⟨.refl _, fun h => absurd rfl h, id, rfl⟩

theorem Burns.trans {s t u : State} (a : Burns s t) (b : Burns t u) : Burns s u where
  grows := a.grows.trans b.grows
  cause h := by
    by_cases e : t.fuses = s.fuses
    · exact a.job (b.cause (e ▸ h))
    · exact a.cause e
  job h := a.job (b.job h)
  et := b.et.trans a.et

theorem Burns.of_same {s t : State} (hf : Fld.of .fuses t = Fld.of .fuses s) (hj : Fld.of .fwJob t = Fld.of .fwJob s)
    (he : Fld.of .et t = Fld.of .et s) : Burns s t where
  grows := by rw [show t.fuses = s.fuses from hf]; exact .refl _
  cause h := absurd hf h
  job h := by rwa [State.committing, show t.fwJob = s.fwJob from hj] at h
  et := he

/-- After an operation that burns fuses, one that leaves them, the firmware job and ET. -/
theorem Burns.step {s t u : State} (h : Burns s t) (hf : Fld.of .fuses u = Fld.of .fuses t := by simp +zetaDelta)
    (hj : Fld.of .fwJob u = Fld.of .fwJob t := by simp +zetaDelta) (he : Fld.of .et u = Fld.of .et t := by simp +zetaDelta) : Burns s u :=
  h.trans (.of_same hf hj he)

theorem Burns.ite {s a b : State} {c : Prop} [Decidable c] (ha : Burns s a) (hb : Burns s b) : Burns s (if c then a else b) := by
  split <;> assumption

theorem Burns.each {α : Type} {s x : State} {f : State → α → State} (h : Burns s x) (l : List α)
    (hf : ∀ t a, Burns t (f t a)) : Burns s (x.each l f) :=
  State.each_induct h fun t ht a _ => ht.trans (hf t a)

/-! ## Blowing (R418, R420) -/

theorem State.blow_grows (s : State) (lo n : Nat) (ok : Bool) : s.fuses.Grows (s.blow lo n ok).fuses := by
  induction n generalizing s lo with
  | zero => exact .refl _
  | succ k ih =>
    rw [State.blow]
    refine Fuses.Grows.trans ?_ (ih _ _)
    split
    · exact .rollbackOr ..
    · exact .refl _

theorem State.commitFuses_grows (s : State) (i : FwImage) (ok : Bool) : s.fuses.Grows (s.commitFuses i ok).fuses := by
  unfold State.commitFuses
  dsimp only
  refine (s.blow_grows s.fuses.count (i.rollback - s.fuses.count) ok).trans ?_
  split
  · exact .keyRevokeOr ..
  · exact .refl _

theorem State.blowSome_grows (s : State) (lo n : Nat) : s.fuses.Grows (s.blowSome lo n).fuses := by
  induction n generalizing s lo with
  | zero => exact .refl _
  | succ k ih =>
    rw [State.blowSome]
    split
    · exact (Fuses.Grows.rollbackOr s.fuses (BitVec.ofNat 64 (2 ^ lo))).trans (ih { s.drew with fuses := _ } (lo + 1))
    · exact .refl _

theorem State.cutCommit_grows (s : State) (i : FwImage) : s.fuses.Grows (s.cutCommit i).fuses := by
  unfold State.cutCommit
  dsimp only
  refine (s.blowSome_grows s.fuses.count (i.rollback - s.fuses.count)).trans ?_
  split
  · exact .keyRevokeOr ..
  · exact .refl _

/-- An activation that is cut off blows fuses only in its commit. -/
theorem State.cutActivation_grows (s : State) (slot : Fin 2) (commit : Bool) : s.fuses.Grows (s.cutActivation slot commit).fuses ∧
    (commit = false → (s.cutActivation slot commit).fuses = s.fuses) := by
  unfold State.cutActivation
  split
  · dsimp only
    split
    · cases commit
      · simp [Fuses.Grows.refl, State.drew]
      · refine ⟨?_, nofun⟩
        split
        · exact State.cutCommit_grows { s.drew.drew with flashA := _, flashB := _ } _
        · exact .refl _
    · exact ⟨.refl _, fun _ => rfl⟩
  · exact ⟨.refl _, fun _ => rfl⟩

theorem State.cutFirmware_burns (s : State) (may : Bool) : Burns s (s.cutFirmware may) := by
  unfold State.cutFirmware
  split
  · exact { grows := .refl _, cause := fun h => absurd rfl h, job := fun ⟨_, h⟩ => (nomatch h), et := rfl }
  · rename_i slot commit hjob
    obtain ⟨hgrows, hsame⟩ := s.cutActivation_grows slot commit
    refine ⟨hgrows, fun h => ?_, fun ⟨_, h⟩ => (nomatch h), State.cutActivation_of (fd := .et) s slot commit (by decide)⟩
    cases commit
    · exact absurd (hsame rfl) h
    · exact ⟨slot, hjob⟩
  · exact .refl _

/-! ## Operations that end long commands -/

theorem State.cutOff_burns (s : State) (l : LongCmd) : Burns s (s.cutOff l) := by
  unfold State.cutOff
  refine .ite ?_ (.ite ?_ (.ite ?_ (.ite ?_ (.ite ?_ (.ite ?_ (.ite ?_ (.ite (s.cutFirmware_burns true) (.ite ?_ (.refl s)))))))))
  all_goals exact (Burns.refl s).step

theorem State.abort_burns (s : State) (test : LongCmd → Bool) : Burns s (s.abort test) :=
  Burns.each (.refl s) _ fun t l => (t.cutOff_burns l).step

/-- Long commands end after an operation that burns fuses. -/
theorem Burns.abort {s t : State} (h : Burns s t) (test : LongCmd → Bool) : Burns s (t.abort test) :=
  h.trans (t.abort_burns test)

theorem State.destroyStart_burns (s : State) (p : Nat) : Burns s (s.destroyStart p) := by
  unfold State.destroyStart
  extract_lets t u v q w l
  have ht : Burns s t := (Burns.refl s).step
  have hu : Burns s u := (ht.step (u := (t.stopDma p).stopRun p)).abort _
  have hv : Burns s v := hu.step
  have hw : Burns s w := hv.step
  exact hw.step

theorem State.partDestroy_burns (s : State) (c : Cmd) : Burns s (s.partDestroy c) := by
  unfold State.partDestroy
  exact .ite (Burns.refl s).step (.ite (Burns.refl s).step (s.destroyStart_burns c.named).step)

theorem State.resetPart_burns (s : State) (p : Nat) (hard : Bool) (cmd : Option LongCmd) : Burns s (s.resetPart p hard cmd) := by
  unfold State.resetPart
  extract_lets t u cls v w wait x y
  have ht : Burns s t := (Burns.refl s).step
  have hu : Burns s u := (ht.abort fun l => l.ofPart p && !(cmd.any l.same)).step
  have hv : Burns s v := hu.step
  have hw : Burns s w := hv.step
  have hx : Burns s x := .ite hw.step hw
  have hy : Burns s y := hx.step
  split
  · exact .ite hy.step hy.step
  · exact hy

theorem State.partReset_burns (s : State) (c : Cmd) : Burns s (s.partReset c) := by
  unfold State.partReset
  have hc : Burns s (s.accept c c.named) := (Burns.refl s).step
  exact .ite (Burns.refl s).step (.ite hc.step (hc.trans (State.resetPart_burns ..)))

theorem State.resumeReset_burns (s : State) (p : Nat) : Burns s (s.resumeReset p) := by
  unfold State.resumeReset
  have hp : Burns s (s.modPart p fun q => { q with resetWait := none }) := (Burns.refl s).step
  split
  · exact .refl s
  · split
    · exact hp.trans (State.resetPart_burns ..)
    · exact hp.step
    · exact .refl s

theorem State.resume_burns (s : State) (p : Nat) : Burns s (s.resume p) :=
  Burns.step (t := (s.tryResume p).resumeReset p) ((Burns.refl s).step.trans ((s.tryResume p).resumeReset_burns p))
    (State.repark_of _ p (by simp)) (State.repark_of _ p (by simp)) (State.repark_of _ p (by simp))

/-- A partition resumes after an operation that burns fuses. -/
theorem Burns.resume {s t : State} (h : Burns s t) (p : Nat) : Burns s (t.resume p) := h.trans (t.resume_burns p)

theorem State.entryDone_burns (s : State) (c : Nat) : Burns s (s.entryDone c) := by
  unfold State.entryDone
  split
  · extract_lets t u v w x y
    have ht : Burns s t := .ite (.refl s) (Burns.refl s).step
    have hu : Burns s u := .ite ht.step ht
    have hv : Burns s v := .ite hu hu.step
    have hw : Burns s w := hv.step
    have hx : Burns s x := by
      subst x
      split
      · exact hw.step
      · exact hw
    have hy : Burns s y := hx.step
    split
    · rename_i p _
      exact (hy.step (u := y.parkDone p)).resume p
    · exact hy
  · exact .refl s

theorem State.exitDone_burns (s : State) (c : Nat) : Burns s (s.exitDone c) := by
  unfold State.exitDone
  split
  · extract_lets was t u v
    have ht : Burns s t := .ite (.refl s) (Burns.refl s).step
    have hu : Burns s u := .ite ht.step ht
    have hv : Burns s v := hu.step
    split
    · rename_i p _
      extract_lets w
      have hw : Burns s w := .ite hv hv.step
      exact (hw.step (u := (w.settled p c).unparked p)).resume p
    · exact hv
  · exact .refl s

theorem State.thermRelease_burns (s : State) (c : Nat) : Burns s (s.thermRelease c) := by
  unfold State.thermRelease
  extract_lets t
  have ht : Burns s t := (Burns.refl s).step
  split
  · exact (Burns.ite ht.step ht).resume _
  · exact ht

theorem State.thermalRead_burns (s : State) (c raw0 raw1 : Nat) : Burns s (s.thermalRead c raw0 raw1) := by
  unfold State.thermalRead
  extract_lets t0 t1 hot t
  have ht : Burns s t := (Burns.refl s).step
  exact .ite (.ite (ht.trans (State.thermRelease_burns ..)) ht) (.ite ht.step ht)

theorem State.settle_burns (s : State) : Burns s s.settle := by
  refine Burns.each (.refl s) _ fun t p => ?_
  extract_lets q u
  have hu : Burns t u := .ite (Burns.refl t).step (.refl t)
  exact (hu.step (u := u.unparked p)).resume p

theorem State.e1ExitDone_burns (s : State) : Burns s s.e1ExitDone := by
  unfold State.e1ExitDone
  split
  · refine .ite ?_ (.refl s)
    generalize hu : State.log _ _ _ _ _ _ _ _ = u
    have hlog : Burns s u := hu ▸ (Burns.refl s).step
    exact (hlog.trans u.settle_burns).step
  · exact .refl s

theorem State.leaveE2_burns (s : State) : Burns s s.leaveE2 := by
  unfold State.leaveE2
  extract_lets t reasons u v l
  have ht : Burns s t := (Burns.refl s).step
  have hu : Burns s u := ht.step
  have hv : Burns s v := hu.step.trans (State.settle_burns _)
  exact hv.step

theorem State.braceStart_burns (s : State) : Burns s s.braceStart := by
  unfold State.braceStart
  extract_lets b t u v
  have ht : Burns s t := (Burns.refl s).step
  have hdma : Burns s (t.toState .e1).stopAllDma := ht.step
  have hlongs : Burns s ((t.toState .e1).stopAllDma.abortLongs fun l => l.code == 0x03#8) := hdma.abort _
  have hu : Burns s u := hlongs.step
  have hv : Burns s v := hu.step
  exact hv.step

theorem State.pfwLow_burns (s : State) : Burns s s.pfwLow := by
  unfold State.pfwLow
  extract_lets t
  have ht : Burns s t := (Burns.refl s).step
  refine .ite (.refl s) (.ite ht ?_)
  split
  · exact ht.trans t.braceStart_burns
  · exact ht.step
  · exact ht.step
  · exact ht

theorem State.marionetteBack_burns (s : State) (c : Nat) (passed : Bool) : Burns s (s.marionetteBack c passed) := by
  unfold State.marionetteBack
  extract_lets +onlyGivenNames p
  clear_value p
  extract_lets t u v
  have ht : Burns s t := (Burns.refl s).step
  have hv : Burns s v := by
    refine .ite ht ?_
    have hu : Burns s u := ht.step
    split
    · exact hu.step
    · exact hu
  split
  · exact hv.resume _
  · exact hv

theorem State.fieldRepair_burns (s : State) (c n : Nat) : Burns s (s.fieldRepair c n) := by
  unfold State.fieldRepair
  extract_lets +onlyGivenNames p
  clear_value p
  extract_lets t r u v w
  have ht : Burns s t := by
    subst t
    split
    · exact (Burns.refl s).step
    · exact .refl s
  have hu : Burns s u := ht.step
  have hv : Burns s v := .ite hu (.ite hu.step hu.step)
  have hw : Burns s w := hv.step
  split
  · refine Burns.resume ?_ _
    exact hw.step
  · exact hw

theorem State.takeover_burns (s : State) : Burns s s.takeover := by
  unfold State.takeover
  extract_lets t u
  have ht : Burns s t := (Burns.refl s).abort _
  have hu : Burns s u := ht.step
  exact hu.step

theorem State.checkMiss_burns (s : State) : Burns s s.checkMiss := by
  unfold State.checkMiss
  extract_lets t
  have ht : Burns s t := (Burns.refl s).step
  clear_value t
  exact .ite ht (.ite (ht.trans t.takeover_burns) ht.step)

end Sys2Proof.Machine
end

section
/-!
Messages of the engine: the operations that only queue messages change of a window nothing but its outbound queue (`Queued`).
-/

namespace Sys2Proof.Machine

open Sys2Proof

theorem Queued.refl (s : State) : Queued s s := fun _ => rfl

theorem Queued.trans {s t u : State} (a : Queued s t) (b : Queued t u) : Queued s u := by
  intro k
  rw [b k, a k]

/-- An operation that leaves the windows. -/
theorem Queued.of_windows {s t : State} (h : Fld.of .windows t = Fld.of .windows s) : Queued s t := by
  have hw : t.windows = s.windows := h
  intro k
  rw [hw]

theorem Queued.ite {s a b : State} {c : Prop} [Decidable c] (ha : Queued s a) (hb : Queued s b) : Queued s (if c then a else b) := by
  split <;> assumption

theorem Queued.each {α : Type} {s x : State} {f : State → α → State} (h : Queued s x) (l : List α)
    (hf : ∀ t a, Queued t (f t a)) : Queued s (x.each l f) := by
  induction l generalizing x with
  | nil => exact h
  | cons a r ih => exact ih (h.trans (hf x a))

theorem State.modWindow_queued (s : State) (h f : Nat) (g : Window → Window) (hg : ∀ w, g w = { w with outQ := (g w).outQ }) :
    Queued s (s.modWindow h f g) := by
  intro k
  by_cases hk : k = 16 * h + f
  · subst hk
    rw [show sget {} (s.modWindow h f g).windows (16 * h + f) = g (s.window h f) from State.window_modWindow ..]
    exact hg _
  · rw [State.modWindow_one s h f g k hk]

/-- After an operation that queues messages, one that leaves the windows. -/
theorem Queued.step {s t u : State} (h : Queued s t) (hw : Fld.of .windows u = Fld.of .windows t := by simp +zetaDelta) : Queued s u :=
  h.trans (.of_windows hw)

theorem State.post_queued (s : State) (h f : Nat) (m : Msg) : Queued s (s.post h f m) := State.modWindow_queued _ _ _ _ fun _ => rfl

theorem State.reply_queued (s : State) (h f : Nat) (q : BitVec 16) (c : BitVec 8) (e : Bool) (st : Nat) (b : Bytes) :
    Queued s (s.reply h f q c e st b) := s.post_queued h f _

theorem Window.event_eq (w : Window) (record : Nat → Bytes) (causes : Nat) :
    w.event record causes = { w with outQ := (w.event record causes).outQ } := by
  unfold Window.event
  dsimp only
  split <;> rfl

theorem State.eventTo_queued (s : State) (causes : Nat) (hf : Nat × Nat) : Queued s (s.eventTo causes hf) :=
  State.modWindow_queued _ _ _ _ fun _ => Window.event_eq ..

theorem State.eventAll_queued (s : State) (causes : Nat) : Queued s (s.eventAll causes) :=
  Queued.each (.refl s) _ fun t hf => t.eventTo_queued causes hf

theorem State.faulted_queued (s : State) (p : Nat) : Queued s (s.faulted p) :=
  Queued.each (.of_windows rfl) _ fun t hf => t.eventTo_queued _ hf

theorem State.finish_queued (s : State) (c : LongCmd) (st : Nat) (b : Bytes) : Queued s (s.finish c st b) := by
  unfold State.finish
  extract_lets t u
  have ht : Queued s t := .of_windows rfl
  have hu : Queued s u := .ite (ht.trans (t.faulted_queued _)) ht
  exact .ite hu (hu.trans (u.reply_queued _ _ _ _ _ _ _))

theorem State.finishAll_queued (s : State) (p : LongCmd → Bool) (st : Nat) : Queued s (s.finishAll p st) :=
  Queued.each (.refl s) _ fun t c => t.finish_queued c st []

/-- A field of a window other than its outbound queue, after operations that only queue messages. -/
theorem Queued.window {s t : State} (h : Queued s t) (d f : Nat) : t.window d f = { s.window d f with outQ := (t.window d f).outQ } :=
  h (16 * d + f)

end Sys2Proof.Machine
end

section
/-!
What every command keeps: the queue of waiting commands, the model's clock, the fuses but for a commit, and ET but for a
boot or a full retime (spec/16_boot_and_security.md R401, R418; spec/12_links_collectives_time.md R306).
-/

namespace Sys2Proof.Machine

open Sys2Proof

/-! ## A full retime (R306) -/

theorem sget_smapAll {α : Type} [DecidableEq α] (d : α) (f : Nat → α → α) (m : SMap α) (k : Nat) :
    sget d (smapAll d f m) k = d ∨ ∃ v, sget d (smapAll d f m) k = f k v := by
  cases hf : sfind? (smapAll d f m) k with
  | none => exact .inl (by simp [sget, hf])
  | some w =>
    refine .inr ?_
    induction m with
    | nil => cases hf
    | cons x r ih =>
      obtain ⟨j, v⟩ := x
      rw [smapAll] at hf ⊢
      split at hf
      · rename_i hd
        rw [if_pos hd]
        exact ih hf
      · rename_i hd
        rw [if_neg hd, sget, hf]
        rw [sfind?] at hf
        split at hf
        · subst_vars
          exact ⟨v, by simpa using hf.symm⟩
        · have := ih hf
          rwa [sget, hf] at this

/-- Every request in flight carries retimed. -/
structure State.AllRetimed (s : State) : Prop where
  queue : ∀ p, ∀ x ∈ (s.part p).queue, x.flags.retimed = true
  compl : ∀ h f, ∀ x ∈ (s.window h f).compl, x.flags.retimed = true

theorem State.flagAll_allRetimed (s : State) : s.flagAll.AllRetimed where
  queue p x hx := by
    rcases sget_smapAll {} (fun _ q => { q with queue := q.queue.map fun r => { r with flags := r.flags.retime } }) s.parts p with h | ⟨v, h⟩
    · rw [State.part, State.flagAll, h] at hx
      cases hx
    · rw [State.part, State.flagAll, h] at hx
      obtain ⟨r, -, rfl⟩ := List.mem_map.1 hx
      rfl
  compl d f x hx := by
    rcases sget_smapAll {} (fun _ w => { w with compl := w.compl.map fun c => { c with flags := c.flags.retime } }) s.windows (16 * d + f)
      with h | ⟨v, h⟩
    · rw [State.window, State.flagAll, h] at hx
      cases hx
    · rw [State.window, State.flagAll, h] at hx
      obtain ⟨r, -, rfl⟩ := List.mem_map.1 hx
      rfl

theorem State.AllRetimed.queued {s t : State} (h : s.AllRetimed) (hp : Fld.of .parts t = Fld.of .parts s) (hq : Queued s t) :
    t.AllRetimed where
  queue p x hx := h.queue p x (by rwa [State.part, show t.parts = s.parts from hp] at hx)
  compl d f x hx := h.compl d f x (by rw [hq.window d f] at hx; exact hx)

/-- The latest ET of the domain (R306). -/
def State.latestEt (s : State) (f : Retime) : Nat := f.peers.foldl (fun m x => Nat.max m x.et.toNat) s.tick

theorem State.latestEt_bounds (s : State) (f : Retime) : s.tick ≤ s.latestEt f ∧ s.latestEt f < 18446744073709551616 := by
  unfold State.latestEt
  refine List.foldlRecOn (motive := fun n => s.tick ≤ n ∧ n < 18446744073709551616) _ _ ⟨Nat.le_refl _, s.et.isLt⟩ ?_
  rintro n ⟨hlo, hhi⟩ x -
  exact ⟨hlo.trans (Nat.le_max_left ..), Nat.max_lt.2 ⟨hhi, x.et.isLt⟩⟩

/-- After the requests are flagged and ET is set, a full retime leaves ET, the partitions and the completions. -/
theorem State.retimed_cases (s : State) (f : Retime) :
    (s.retimed f).et = s.et ∨ (s.tick < (s.retimed f).tick ∧ (s.retimed f).AllRetimed) := by
  unfold State.retimed
  extract_lets +onlyGivenNames latest step master mine t
  have ht : Fld.of .et t = Fld.of .et s := by simp [t]
  have hlatest : latest = s.latestEt f := rfl
  have hdiff : step = latest - s.tick := rfl
  clear_value latest step master mine t
  extract_lets src u v w
  by_cases hstep : 0 < step
  · have hu : u = { t.flagAll with et := BitVec.ofNat 64 latest } := by
      subst u
      exact if_pos hstep
    have hv : Queued u v := .of_windows (by simp [v, hstep])
    have hw : Queued v w := .of_windows (by simp [w])
    have het : Fld.of .et ((w.finishAll (fun l => l.code == 0x81#8) stOk).log 0x0502 none none none 0 15 step) = Fld.of .et u := by
      simp [w, v]
    have hparts : Fld.of .parts ((w.finishAll (fun l => l.code == 0x81#8) stOk).log 0x0502 none none none 0 15 step) = Fld.of .parts u := by
      simp [w, v]
    have hall : u.AllRetimed := by
      rw [hu]
      exact ⟨t.flagAll_allRetimed.queue, t.flagAll_allRetimed.compl⟩
    have hlog : Queued (w.finishAll (fun l => l.code == 0x81#8) stOk)
        ((w.finishAll (fun l => l.code == 0x81#8) stOk).log 0x0502 none none none 0 15 step) := .of_windows (by simp)
    refine .inr ⟨?_, hall.queued hparts (((hv.trans hw).trans (w.finishAll_queued _ _)).trans hlog)⟩
    obtain ⟨hlo, hhi⟩ := s.latestEt_bounds f
    show s.tick < BitVec.toNat (Fld.of .et (State.log _ _ _ _ _ _ _ _))
    rw [het, hu]
    show s.tick < (BitVec.ofNat 64 latest).toNat
    rw [BitVec.toNat_ofNat, Nat.mod_eq_of_lt (hlatest ▸ hhi)]
    omega
  · have hu : u = t := by
      subst u
      exact if_neg hstep
    left
    show Fld.of .et (State.log _ _ _ _ _ _ _ _) = Fld.of .et s
    simp [w, v, hu, ht]

/-! ## What every command keeps -/

/-- A command answers a next state, and keeps what only the step, a commit, a boot or a full retime may change. -/
structure Passes (i : Instr) (s t : State) : Prop extends Held s t where
  grows : s.fuses.Grows t.fuses
  cause : t.fuses ≠ s.fuses → s.committing
  time : s.supply = .up → t.supply = .up → s.bootRest = none → t.et ≠ s.et →
    (∃ f, i = .fullRetime f) ∧ s.tick < t.tick ∧ t.AllRetimed

/-- The command's outcome is a next state that it passes to. -/
def Runs (i : Instr) (s : State) (o : Outcome) : Prop := ∃ t, o = .next t ∧ Passes i s t

theorem Runs.keeps {i : Instr} {s : State} {o : Outcome} (h : ∃ t, o = .next t ∧ Keeps s t) : Runs i s o := by
  obtain ⟨t, ho, hk⟩ := h
  exact ⟨t, ho, hk.toHeld, by rw [hk.fuses]; exact .refl _, fun h => absurd hk.fuses h, fun _ _ _ h => absurd hk.et h⟩

theorem Runs.steady {i : Instr} {s : State} {o : Outcome} (h : ∃ t, o = .next t ∧ Steady s t) : Runs i s o :=
  .keeps (h.imp fun _ ht => ⟨ht.1, ht.2.toKeeps⟩)

/-- A command that burns no fuse of its own and leaves the engine without its supply, or ET. -/
theorem Runs.down {i : Instr} {s t : State} (h : ∃ u, Host.Outcome.next t = (.next u : Outcome) ∧ Held s u)
    (hg : s.fuses.Grows t.fuses) (hc : t.fuses ≠ s.fuses → s.committing)
    (hd : s.supply = .up → s.bootRest = none → t.supply = .up → t.et = s.et) : Runs i s (.next t) := by
  obtain ⟨u, ho, hk⟩ := h
  cases ho
  exact ⟨t, rfl, hk, hg, hc, fun hs ht hr h => absurd (hd hs hr ht) h⟩

/-! ## Resets (R401, R428, R433) -/

/-- What a reset leaves of the fuses, and where it leaves the engine. -/
structure Resets (s t : State) : Prop where
  grows : s.fuses.Grows t.fuses
  cause : t.fuses ≠ s.fuses → s.committing
  down : s.supply = .up → s.bootRest = none → t.supply = .up → t.et = s.et

theorem Runs.resets {i : Instr} {s t : State} (h : ∃ u, Host.Outcome.next t = (.next u : Outcome) ∧ Held s u)
    (hr : Resets s t) : Runs i s (.next t) := .down h hr.grows hr.cause hr.down

theorem Resets.of_burns {s t : State} (h : Burns s t) : Resets s t := ⟨h.grows, h.cause, fun _ _ _ => h.et⟩

/-- A reset, and then an operation that leaves fuses, supply and ET. -/
theorem Resets.step {s t u : State} (h : Resets s t) (hf : u.fuses = t.fuses) (hs : u.supply = t.supply) (he : u.et = t.et) :
    Resets s u := ⟨hf ▸ h.grows, hf ▸ h.cause, hs ▸ he ▸ h.down⟩

theorem State.resetEngine_resets (s : State) : Resets s s.resetEngine := by
  unfold State.resetEngine
  split
  · exact .of_burns (.refl s)
  · have h := s.cutFirmware_burns false
    exact ⟨h.grows, h.cause, fun _ _ hup => (nomatch hup)⟩

theorem State.powerOff_resets (s : State) : Resets s s.powerOff := by
  have h := s.cutFirmware_burns false
  exact ⟨h.grows, h.cause, fun _ _ hup => (nomatch hup)⟩

theorem State.boot_fuses (s : State) (b : BootIn) : (s.boot b).fuses = s.fuses := by
  have h : Fld.of .fuses (s.boot b) = Fld.of .fuses { s.cleared .noImage with mctp := { straps := b.straps }, rails := { host := true } } := by
    simp [State.boot]
  exact h

/-- Only an engine in reset boots. -/
theorem State.unreset_resets (s : State) (b : BootIn) : Resets s (s.unreset b) := by
  unfold State.unreset
  split
  · rename_i h
    have hf := s.boot_fuses b
    simp only [Bool.and_eq_true, beq_iff_eq] at h
    refine ⟨by rw [hf]; exact .refl _, fun hne => absurd hf hne, fun hup => ?_⟩
    rw [hup] at h
    exact nomatch h.1.1.1
  · exact .of_burns (.refl s)

/-- An operation that leaves fuses, supply, boot and ET, and then the boot. -/
theorem Resets.unreset {s t : State} (b : BootIn) (hf : t.fuses = s.fuses) (hj : t.fwJob = s.fwJob) (hs : t.supply = s.supply)
    (hr : t.bootRest = s.bootRest) (he : t.et = s.et) : Resets s (t.unreset b) := by
  have h := t.unreset_resets b
  refine ⟨hf ▸ h.grows, fun hne => ?_, fun hup hno hup' => ?_⟩
  · have := h.cause (hf ▸ hne)
    rwa [State.committing, hj] at this
  · exact (h.down (hs.trans hup) (hr.trans hno) hup').trans he

theorem State.bootTail_resets (s : State) (b : BootIn) (h : s.supply = .up → s.bootRest ≠ none) : Resets s (s.bootTail b) := by
  have hf : (s.bootTail b).fuses = s.fuses := State.bootTail_of (fd := .fuses) s b (by decide)
  exact ⟨by rw [hf]; exact .refl _, fun hne => absurd hf hne, fun hup hno => absurd hno (h hup)⟩

theorem State.bootStep3_resets (s : State) (b : BootIn) (h : s.supply ≠ .up) : Resets s (s.bootStep3 b) := by
  have hf : (s.bootStep3 b).fuses = s.fuses := State.bootStep3_of (fd := .fuses) s b (by decide)
  exact ⟨by rw [hf]; exact .refl _, fun hne => absurd hf hne, fun hup => absurd hup h⟩

theorem State.nowQuiet_resets (s : State) : Resets s s.nowQuiet := by
  unfold State.nowQuiet
  split
  · exact .of_burns (.refl s)
  · split
    · rename_i hs _
      exact s.bootTail_resets _ fun hup => nomatch hs.symm.trans hup
    · exact .of_burns (.ite (Burns.refl s).step (Burns.refl s).step)
    · exact .of_burns (.refl s)

/-! ## The arms -/

/-- PRIVATE_INSTRUCTION on a module that reads DEBUG_OFF clear (R422). -/
def stopsModel (i : Instr) (s : State) : Prop :=
  ∃ tap code b, i = .privateInstruction tap code b ∧ s.fuses.debugOff = false ∧ exec i s = .fault .privateFunctions

theorem State.serve_burns (s : State) (h f i : Nat) (row : CmdRow) {act : State → Cmd → State} (ha : ∀ t c, Burns t (act t c)) :
    Burns s (s.serve h f i row act) := by
  unfold State.serve
  extract_lets c
  refine .ite ?_ (.refl s)
  split
  · exact (Burns.refl s).step
  · exact ((Burns.refl s).step (u := s.take c)).trans (ha _ _)

theorem State.applied_resets (s : State) (b : BootIn) :
    Resets s (if s.supply == .off then ({ s with supply := .reset } : State).unreset b else s) := by
  split
  · rename_i h
    have hoff : s.supply = .off := by simpa using h
    have hu := State.unreset_resets { s with supply := .reset } b
    exact ⟨hu.grows, hu.cause, fun hup => nomatch hoff.symm.trans hup⟩
  · exact .of_burns (.refl s)

theorem State.retry_resets (s : State) (b : BootIn) :
    Resets s (if s.supply == .noImage && decide (s.noImageAt + msCclk 10000 ≤ s.now) then s.bootStep3 b else s) := by
  split
  · rename_i h
    refine s.bootStep3_resets b ?_
    intro hup
    simp [hup] at h
  · exact .of_burns (.refl s)

theorem State.lockout_resets (s : State) : Resets s (if s.supply == .off then s else s.powerOff) := by
  split
  · exact .of_burns (.refl s)
  · exact s.powerOff_resets

theorem State.standbyExit_resets (s : State) : Resets s (if s.supply == .up && s.estate == .resuming && s.sub == 0 && !s.pfw then
    (match s.bootRest with
      | some b => (({ s with wakeReasons := s.aonWake } : State).bootTail b).log 0x0407 none none none 0 s.authorityPup
      | none => s.leaveE2)
    else s) := by
  split
  · split
    · rename_i b hb
      have h : Resets s (({ s with wakeReasons := s.aonWake } : State).bootTail b) := by
        have h := State.bootTail_resets { s with wakeReasons := s.aonWake } b fun _ hn => nomatch hb.symm.trans hn
        exact ⟨h.grows, h.cause, h.down⟩
      exact h.step rfl rfl rfl
    · exact .of_burns s.leaveE2_burns
  · exact .of_burns (.refl s)

theorem State.loadIr_same (s : State) (tap : Nat) (code : BitVec 8) : s.loadIr tap code = { s with tapIr := (s.loadIr tap code).tapIr } :=
  State.eq_patch [.tapIr] fun _ hf => s.loadIr_of tap code hf

theorem State.identify_same (s : State) (tap : Nat) :
    s.identify tap = { s with tapIr := (s.identify tap).tapIr, tapOut := (s.identify tap).tapOut } :=
  State.eq_patch [.tapIr, .tapOut] fun _ hf => s.identify_of tap hf

theorem State.loadIr_resets (s : State) (tap : Nat) (code : BitVec 8) (b : BootIn) : Resets s ((s.loadIr tap code).unreset b) := by
  rw [s.loadIr_same]
  exact .unreset b rfl rfl rfl rfl rfl

theorem State.identify_resets (s : State) (tap : Nat) (b : BootIn) : Resets s ((s.identify tap).unreset b) := by
  rw [s.identify_same]
  exact .unreset b rfl rfl rfl rfl rfl

theorem State.preload_resets (s : State) (tap : Nat) (cells : List Bool) (b : BootIn) :
    Resets s ((let t := s.loadIr tap 0x02#8
      if s.supply == .off then t else { t with boundary := sput [] tap cells t.boundary }).unreset b) := by
  dsimp only
  rw [s.loadIr_same]
  split <;> exact .unreset b rfl rfl rfl rfl rfl

theorem State.extest_resets (s : State) (d : TapDrive) : Resets s (let t := s.loadIr d.tap.val 0x00#8
    (if s.resetN then t else t.resetEngine).drive d.tap.val d.spi) := by
  dsimp only
  rw [s.loadIr_same]
  generalize (s.loadIr d.tap.val 0x00#8).tapIr = ir
  have hr : Resets s (if s.resetN then { s with tapIr := ir } else State.resetEngine { s with tapIr := ir }) := by
    split
    · exact .of_burns (.of_same rfl rfl rfl)
    · have h := State.resetEngine_resets { s with tapIr := ir }
      exact ⟨h.grows, h.cause, h.down⟩
  exact hr.step (State.drive_of (fd := .fuses) _ _ _ (by decide)) (State.drive_of (fd := .supply) _ _ _ (by decide))
    (State.drive_of (fd := .et) _ _ _ (by decide))

/-- FW.ACTIVATE blows fuses with its commit alone (R420). -/
theorem State.activateDone_resets (s : State) (n : Fin 2) (commit ok : Bool) (l : LongCmd) (hj : s.fwJob = some (.activate n commit)) :
    Resets s (s.activateDone n commit ok l) := by
  unfold State.activateDone
  split
  · have hjob : Burns s { s with fwJob := none } :=
      { grows := .refl _, cause := fun h => absurd rfl h, job := fun ⟨_, h⟩ => (nomatch h), et := rfl }
    exact .of_burns hjob.step
  · rename_i i _
    extract_lets short t u src v
    have hu : s.fuses.Grows u.fuses ∧ (u.fuses ≠ s.fuses → s.committing) ∧ u.et = s.et := by
      subst u
      cases commit
      · exact ⟨.refl _, fun h => absurd rfl h, rfl⟩
      · exact ⟨t.commitFuses_grows i ok, fun _ => ⟨n, hj⟩, State.commitFuses_of (fd := .et) t i ok (by decide)⟩
    obtain ⟨hg, hc, he⟩ := hu
    have hv : Resets s v := ⟨hg, hc, fun _ _ _ => he⟩
    refine hv.step (t := v) (u := (v.eventAll evFirmware).finish l (if short then stFaulted else stOk)) ?_ ?_ ?_
    · exact Eq.trans (State.finish_of (fd := .fuses) _ _ _ _ (by decide)) (State.eventAll_of (fd := .fuses) _ _ (by decide))
    · exact Eq.trans (State.finish_of (fd := .supply) _ _ _ _ (by decide)) (State.eventAll_of (fd := .supply) _ _ (by decide))
    · exact Eq.trans (State.finish_of (fd := .et) _ _ _ _ (by decide)) (State.eventAll_of (fd := .et) _ _ (by decide))

theorem State.setEid_burns (s : State) (eid : BitVec 8) : Burns s (if eid = 0#8 ∨ eid = 0xFF#8 then s.respond [0x02#8]
    else (if s.mctpUp then { s with mctp := { s.mctp with eid := eid } } else s).respond [0#8, 0#8, eid, 0#8]) := by
  refine .ite (Burns.refl s).step ?_
  generalize hu : (if s.mctpUp then { s with mctp := { s.mctp with eid := eid } } else s) = u
  have h : Burns s u := hu ▸ .ite (.of_same rfl rfl rfl) (.refl s)
  exact h.step

theorem execFwActivateRestart_runs (ok : Bool) (s : State) : Runs (.fwActivateRestart ok) s (execFwActivateRestart ok s) := by
  refine .resets (execFwActivateRestart_frame ok s) ?_
  split
  · rename_i n commit l hj _
    split
    · exact s.activateDone_resets n commit ok l hj
    · exact .of_burns (.refl s)
  · exact .of_burns (.refl s)

theorem execFullRetime_runs (f : Retime) (s : State) : Runs (.fullRetime f) s (execFullRetime f s) := by
  obtain ⟨t, ht, hk⟩ := execFullRetime_frame f s
  have hcases : t = s ∨ t = s.retimed f := by
    unfold execFullRetime at ht
    cases ht
    split
    · exact .inr rfl
    · exact .inl rfl
  have hf : t.fuses = s.fuses := by
    rcases hcases with rfl | rfl
    · rfl
    · exact State.retimed_of (fd := .fuses) s f (by decide)
  refine ⟨t, ht, hk, by rw [hf]; exact .refl _, fun h => absurd hf h, fun _ _ _ hne => ⟨⟨f, rfl⟩, ?_⟩⟩
  rcases hcases with rfl | rfl
  · exact absurd rfl hne
  · exact (s.retimed_cases f).resolve_left hne

theorem execPrivateInstruction_runs (tap : Fin 20) (code : BitVec 8) (b : BootIn) (s : State) :
    Runs (.privateInstruction tap code b) s (execPrivateInstruction tap code b s) ∨ stopsModel (.privateInstruction tap code b) s := by
  have hexec : exec (.privateInstruction tap code b) s = execPrivateInstruction tap code b s := rfl
  have hframe := execPrivateInstruction_frame tap code b s
  unfold stopsModel
  rw [hexec]
  unfold execPrivateInstruction at hframe ⊢
  split
  · exact .inl (.resets ⟨_, rfl, .refl s⟩ (.of_burns (.refl s)))
  · rename_i hcode
    rw [if_neg hcode] at hframe
    split
    · rename_i hd
      rw [if_pos hd] at hframe
      exact .inl (.resets ⟨_, rfl, hframe _ rfl⟩ (s.loadIr_resets _ _ _))
    · rename_i hd
      exact .inr ⟨tap, code, b, rfl, by simpa using hd, rfl⟩

/-- Every command runs and keeps what only the step, a commit, a boot or a full retime may change, but PRIVATE_INSTRUCTION on such a module. -/
theorem exec_runs (i : Instr) (s : State) : Runs i s (exec i s) ∨ stopsModel i s := by
  cases i with
  | registerWrite => exact .inl (.steady (execRegisterWrite_frame ..))
  | splitWriteLower => exact .inl (.steady (execSplitWriteLower_frame ..))
  | splitWriteUpper => exact .inl (.steady (execSplitWriteUpper_frame ..))
  | splitReadLower => exact .inl (.steady (execSplitReadLower_frame ..))
  | unhonouredMmioAccess die fn bar off bits write =>
    exact .inl (.steady (execUnhonouredMmioAccess_frame die fn bar off bits write s))
  | mmioViolation die fn bar acc write => exact .inl (.steady (execMmioViolation_frame die fn bar acc write s))
  | hdMbDoorbell => exact .inl (.steady (execHdMbDoorbell_frame ..))
  | hdMbOutAck => exact .inl (.steady (execHdMbOutAck_frame ..))
  | outboundMessageWrite => exact .inl (.steady (execOutboundMessageWrite_frame ..))
  | hdViolClear => exact .inl (.steady (execHdViolClear_frame ..))
  | hdClassAmbigClear => exact .inl (.steady (execHdClassAmbigClear_frame ..))
  | functionLevelReset => exact .inl (.steady (execFunctionLevelReset_frame ..))
  | perstN => exact .inl (.steady (execPerstN_frame ..))
  | ringEnable => exact .inl (.steady (execRingEnable_frame ..))
  | ringDisable => exact .inl (.steady (execRingDisable_frame ..))
  | hdSqTail => exact .inl (.steady (execHdSqTail_frame ..))
  | hdCqHead => exact .inl (.steady (execHdCqHead_frame ..))
  | dmaQueueEnable => exact .inl (.steady (execDmaQueueEnable_frame ..))
  | dmaQueueDisable => exact .inl (.steady (execDmaQueueDisable_frame ..))
  | hdDmaTail => exact .inl (.steady (execHdDmaTail_frame ..))
  | commandReservedCode => exact .inl (.steady (execCommandReservedCode_frame ..))
  | engineInfo => exact .inl (.steady (execEngineInfo_frame ..))
  | engineState => exact .inl (.steady (execEngineState_frame ..))
  | engineResume => exact .inl (.keeps (execEngineResume_frame ..))
  | engineStandby => exact .inl (.steady (execEngineStandby_frame ..))
  | partCreate => exact .inl (.steady (execPartCreate_frame ..))
  | partCreateBuild => exact .inl (.steady (execPartCreateBuild_frame ..))
  | partDestroy => exact .inl (.resets (execPartDestroy_frame ..) (.of_burns (State.serve_burns _ _ _ _ _ fun t c => t.partDestroy_burns c)))
  | partDestroyFinish => exact .inl (.steady (execPartDestroyFinish_frame ..))
  | partQuery => exact .inl (.steady (execPartQuery_frame ..))
  | partReset => exact .inl (.resets (execPartReset_frame ..) (.of_burns (State.serve_burns _ _ _ _ _ fun t c => t.partReset_burns c)))
  | planLoad => exact .inl (.steady (execPlanLoad_frame ..))
  | planLoadDone => exact .inl (.steady (execPlanLoadDone_frame ..))
  | planUnload => exact .inl (.steady (execPlanUnload_frame ..))
  | planBind => exact .inl (.steady (execPlanBind_frame ..))
  | planBindDone => exact .inl (.steady (execPlanBindDone_frame ..))
  | planVerify => exact .inl (.steady (execPlanVerify_frame ..))
  | planVerifyDone => exact .inl (.steady (execPlanVerifyDone_frame ..))
  | queueConfigQueueSetting => exact .inl (.steady (execQueueConfigQueueSetting_frame ..))
  | queueConfigRuleWrite => exact .inl (.steady (execQueueConfigRuleWrite_frame ..))
  | queueStats => exact .inl (.steady (execQueueStats_frame ..))
  | testRun => exact .inl (.steady (execTestRun_frame ..))
  | testRunStart => exact .inl (.steady (execTestRunStart_frame ..))
  | testDeferTimeout => exact .inl (.steady (execTestDeferTimeout_frame ..))
  | testRunDone => exact .inl (.steady (execTestRunDone_frame ..))
  | calRun => exact .inl (.steady (execCalRun_frame ..))
  | calRunStart => exact .inl (.steady (execCalRunStart_frame ..))
  | calRunDone => exact .inl (.steady (execCalRunDone_frame ..))
  | maintWindowRead => exact .inl (.steady (execMaintWindowRead_frame ..))
  | maintWindowOpen => exact .inl (.steady (execMaintWindowOpen_frame ..))
  | maintWindowClose => exact .inl (.steady (execMaintWindowClose_frame ..))
  | maintWindowSetDeferral => exact .inl (.steady (execMaintWindowSetDeferral_frame ..))
  | maintWindowOpened => exact .inl (.steady (execMaintWindowOpened_frame ..))
  | maintWindowExpiry => exact .inl (.steady (execMaintWindowExpiry_frame ..))
  | powerPolicyRead => exact .inl (.steady (execPowerPolicyRead_frame ..))
  | powerPolicySet => exact .inl (.steady (execPowerPolicySet_frame ..))
  | powerIdleQuery => exact .inl (.steady (execPowerIdleQuery_frame ..))
  | powerIdlePark => exact .inl (.steady (execPowerIdlePark_frame ..))
  | powerIdleUnpark => exact .inl (.steady (execPowerIdleUnpark_frame ..))
  | snapTake => exact .inl (.steady (execSnapTake_frame ..))
  | snapTakeDone => exact .inl (.steady (execSnapTakeDone_frame ..))
  | snapRestore => exact .inl (.steady (execSnapRestore_frame ..))
  | snapRestoreDone => exact .inl (.steady (execSnapRestoreDone_frame ..))
  | faultLog => exact .inl (.steady (execFaultLog_frame ..))
  | seize => exact .inl (.steady (execSeize_frame ..))
  | linkStateSummary => exact .inl (.steady (execLinkStateSummary_frame ..))
  | linkStateDie => exact .inl (.steady (execLinkStateDie_frame ..))
  | linkStateSet => exact .inl (.steady (execLinkStateSet_frame ..))
  | linkRetime => exact .inl (.steady (execLinkRetime_frame ..))
  | collGroupJoin => exact .inl (.steady (execCollGroupJoin_frame ..))
  | collGroupLeave => exact .inl (.steady (execCollGroupLeave_frame ..))
  | collGroupStatus => exact .inl (.steady (execCollGroupStatus_frame ..))
  | fwUpdateWrite => exact .inl (.steady (execFwUpdateWrite_frame ..))
  | fwUpdateWriteDone => exact .inl (.steady (execFwUpdateWriteDone_frame ..))
  | fwUpdateStatus => exact .inl (.steady (execFwUpdateStatus_frame ..))
  | fwActivate => exact .inl (.steady (execFwActivate_frame ..))
  | fwActivateRestart => exact .inl (execFwActivateRestart_runs ..)
  | dump => exact .inl (.steady (execDump_frame ..))
  | dumpDone => exact .inl (.keeps (execDumpDone_frame ..))
  | fetch => exact .inl (.steady (execFetch_frame ..))
  | ready => exact .inl (.steady (execReady_frame ..))
  | ingressTimeout => exact .inl (.steady (execIngressTimeout_frame ..))
  | start => exact .inl (.steady (execStart_frame ..))
  | endRun => exact .inl (.steady (execEndRun_frame ..))
  | egressComplete => exact .inl (.steady (execEgressComplete_frame ..))
  | completionWrite => exact .inl (.steady (execCompletionWrite_frame ..))
  | fireWord => exact .inl (.steady (execFireWord_frame ..))
  | setWord => exact .inl (.steady (execSetWord_frame ..))
  | loop => exact .inl (.steady (execLoop_frame ..))
  | wait => exact .inl (.steady (execWait_frame ..))
  | waitEnd => exact .inl (.steady (execWaitEnd_frame ..))
  | halt => exact .inl (.steady (execHalt_frame ..))
  | coreHalted => exact .inl (.steady (execCoreHalted_frame ..))
  | holdEnd => exact .inl (.steady (execHoldEnd_frame ..))
  | watchdogTrip => exact .inl (.steady (execWatchdogTrip_frame ..))
  | accumulatorUpdate => exact .inl (.steady (execAccumulatorUpdate_frame ..))
  | gangAccumulatorUpdate => exact .inl (.steady (execGangAccumulatorUpdate_frame ..))
  | drainWrite => exact .inl (.steady (execDrainWrite_frame ..))
  | vectorResultWrite => exact .inl (.steady (execVectorResultWrite_frame ..))
  | scalarResultWrite => exact .inl (.steady (execScalarResultWrite_frame ..))
  | weightLoadLand => exact .inl (.steady (execWeightLoadLand_frame ..))
  | scaleLoadLand => exact .inl (.steady (execScaleLoadLand_frame ..))
  | wordArrival => exact .inl (.steady (execWordArrival_frame ..))
  | queueWordDepart => exact .inl (.steady (execQueueWordDepart_frame ..))
  | creditReturn => exact .inl (.steady (execCreditReturn_frame ..))
  | slotSwitch => exact .inl (.steady (execSlotSwitch_frame ..))
  | switchCclk => exact .inl (.steady (execSwitchCclk_frame ..))
  | reloadComplete => exact .inl (.steady (execReloadComplete_frame ..))
  | regRead => exact .inl (.steady (execRegRead_frame ..))
  | regWrite => exact .inl (.steady (execRegWrite_frame ..))
  | regReply => exact .inl (.steady (execRegReply_frame ..))
  | slotData => exact .inl (.steady (execSlotData_frame ..))
  | scanCtl => exact .inl (.steady (execScanCtl_frame ..))
  | fwMsg => exact .inl (.steady (execFwMsg_frame ..))
  | fwUrgent => exact .inl (.steady (execFwUrgent_frame ..))
  | viol => exact .inl (.steady (execViol_frame ..))
  | noTarget => exact .inl (.steady (execNoTarget_frame ..))
  | coreEvent => exact .inl (.steady (execCoreEvent_frame ..))
  | seizeFrame => exact .inl (.steady (execSeizeFrame_frame ..))
  | storeData => exact .inl (.steady (execStoreData_frame ..))
  | stringsReservedFrame => exact .inl (.steady (execStringsReservedFrame_frame ..))
  | flitParityError => exact .inl (.steady (execFlitParityError_frame ..))
  | scanTimeout => exact .inl (.steady (execScanTimeout_frame ..))
  | channelLineWrite => exact .inl (.steady (execChannelLineWrite_frame ..))
  | coreToHbmRead => exact .inl (.steady (execCoreToHbmRead_frame ..))
  | coreToHbmForcedRead => exact .inl (.steady (execCoreToHbmForcedRead_frame ..))
  | hbmSlotTransfer => exact .inl (.steady (execHbmSlotTransfer_frame ..))
  | hbmRefresh stack => exact .inl (.steady (execHbmRefresh_frame stack s))
  | hbmScrub => exact .inl (.steady (execHbmScrub_frame ..))
  | hbmTempRead => exact .inl (.steady (execHbmTempRead_frame ..))
  | dmaDescriptorFetch => exact .inl (.steady (execDmaDescriptorFetch_frame ..))
  | dmaTransferComplete => exact .inl (.steady (execDmaTransferComplete_frame ..))
  | portUp => exact .inl (.steady (execPortUp_frame ..))
  | portDown => exact .inl (.steady (execPortDown_frame ..))
  | glpCycleStart => exact .inl (.steady (execGlpCycleStart_frame ..))
  | dataS => exact .inl (.steady (execDataS_frame ..))
  | dataB => exact .inl (.steady (execDataB_frame ..))
  | sync => exact .inl (.steady (execSync_frame ..))
  | ack => exact .inl (.steady (execAck_frame ..))
  | join => exact .inl (.steady (execJoin_frame ..))
  | idle ld port => exact .inl (.steady (execIdle_frame ld port s))
  | cellDiscard => exact .inl (.steady (execCellDiscard_frame ..))
  | retransmitTimeout => exact .inl (.steady (execRetransmitTimeout_frame ..))
  | linkLineRead => exact .inl (.steady (execLinkLineRead_frame ..))
  | linkCellSend => exact .inl (.steady (execLinkCellSend_frame ..))
  | linkCellRelease => exact .inl (.steady (execLinkCellRelease_frame ..))
  | fullRetime => exact .inl (execFullRetime_runs ..)
  | clusterEntryComplete => exact .inl (.resets (execClusterEntryComplete_frame ..) (.of_burns (.ite (s.entryDone_burns _) (.refl s))))
  | clusterExitComplete => exact .inl (.resets (execClusterExitComplete_frame ..) (.of_burns (.ite (s.exitDone_burns _) (.refl s))))
  | thermalSensorRead => exact .inl (.resets (execThermalSensorRead_frame ..) (.of_burns (.ite (s.thermalRead_burns _ _ _) (.refl s))))
  | breathAllowanceUpdate => exact .inl (.steady (execBreathAllowanceUpdate_frame ..))
  | avsCurrentRead => exact .inl (.steady (execAvsCurrentRead_frame ..))
  | pmbusStatusPoll => exact .inl (.steady (execPmbusStatusPoll_frame ..))
  | voltageAckTimeout => exact .inl (.steady (execVoltageAckTimeout_frame ..))
  | powerCapAlarm => exact .inl (.steady (execPowerCapAlarm_frame ..))
  | standbyEntry => exact .inl (.keeps (execStandbyEntry_frame ..))
  | standbyExit => exact .inl (.resets (execStandbyExit_frame ..) s.standbyExit_resets)
  | wakeTimer => exact .inl (.keeps (execWakeTimer_frame ..))
  | linkPartnerDetect => exact .inl (.keeps (execLinkPartnerDetect_frame ..))
  | pfwNAssert => exact .inl (.resets (execPfwNAssert_frame ..) (.of_burns s.pfwLow_burns))
  | pfwNDeassert => exact .inl (.keeps (execPfwNDeassert_frame ..))
  | forcedQuiesceStop => exact .inl (.steady (execForcedQuiesceStop_frame ..))
  | commitPoint => exact .inl (.steady (execCommitPoint_frame ..))
  | finishingCutoff => exact .inl (.steady (execFinishingCutoff_frame ..))
  | braceComplete => exact .inl (.keeps (execBraceComplete_frame ..))
  | resumeQuietExpiry => exact .inl (.resets (execResumeQuietExpiry_frame ..) s.nowQuiet_resets)
  | e1ExitComplete => exact .inl (.resets (execE1ExitComplete_frame ..) (.of_burns s.e1ExitDone_burns))
  | braceHoldExpiry => exact .inl (.keeps (execBraceHoldExpiry_frame ..))
  | heartbeatSend => exact .inl (.steady (execHeartbeatSend_frame ..))
  | heartbeatTimeout => exact .inl (.steady (execHeartbeatTimeout_frame ..))
  | marionetteResetDone => exact .inl (.resets (execMarionetteResetDone_frame ..) (.of_burns (.ite (s.marionetteBack_burns _ _) (.refl s))))
  | edgeRequestTimeout => exact .inl (.steady (execEdgeRequestTimeout_frame ..))
  | fieldRepair => exact .inl (.resets (execFieldRepair_frame ..) (.of_burns (.ite (s.fieldRepair_burns _ _) (.refl s))))
  | understudyTestStart => exact .inl (.steady (execUnderstudyTestStart_frame ..))
  | understudyTestEnd => exact .inl (.steady (execUnderstudyTestEnd_frame ..))
  | authorityCheckMiss => exact .inl (.resets (execAuthorityCheckMiss_frame ..) (.of_burns (.ite s.checkMiss_burns (.refl s))))
  | power48vApplied => exact .inl (.resets (execPower48vApplied_frame ..) (s.applied_resets _))
  | resetNAssert => exact .inl (.resets (execResetNAssert_frame ..) (s.resetEngine_resets.step rfl rfl rfl))
  | resetNDeassert => exact .inl (.resets (execResetNDeassert_frame ..) (.unreset _ rfl rfl rfl rfl rfl))
  | firmwareRetry => exact .inl (.resets (execFirmwareRetry_frame ..) (s.retry_resets _))
  | undervoltageLockout => exact .inl (.resets (execUndervoltageLockout_frame ..) s.lockout_resets)
  | refclkLoss => exact .inl (.resets (execRefclkLoss_frame ..) (s.resetEngine_resets.step rfl rfl rfl))
  | refclkReturn => exact .inl (.resets (execRefclkReturn_frame ..) (.unreset _ rfl rfl rfl rfl rfl))
  | extest => exact .inl (.resets (execExtest_frame ..) (s.extest_resets _))
  | idcode => exact .inl (.resets (execIdcode_frame ..) (s.identify_resets _ _))
  | samplePreload => exact .inl (.resets (execSamplePreload_frame ..) (s.preload_resets _ _ _))
  | bypass => exact .inl (.resets (execBypass_frame ..) (s.loadIr_resets _ _ _))
  | privateInstruction tap code b => exact execPrivateInstruction_runs tap code b s
  | coolantSample => exact .inl (.resets (execCoolantSample_frame ..) (.of_burns (.ite (.refl s) (.of_same rfl rfl rfl))))
  | setEndpointId => exact .inl (.resets (execSetEndpointId_frame ..) (.of_burns (s.setEid_burns _)))
  | getEndpointId => exact .inl (.resets (execGetEndpointId_frame ..) (.of_burns (Burns.refl s).step))
  | getMctpVersionSupport => exact .inl (.resets (execGetMctpVersionSupport_frame ..) (.of_burns (Burns.refl s).step))
  | getMessageTypeSupport => exact .inl (.resets (execGetMessageTypeSupport_frame ..) (.of_burns (Burns.refl s).step))
  | getVendorDefinedMessageSupport => exact .inl (.resets (execGetVendorDefinedMessageSupport_frame ..) (.of_burns (Burns.refl s).step))
  | getInfo => exact .inl (.resets (execGetInfo_frame ..) (.of_burns (Burns.refl s).step))
  | getStatus => exact .inl (.resets (execGetStatus_frame ..) (.of_burns (Burns.refl s).step))
  | mctpUnsupportedCommand => exact .inl (.resets (execMctpUnsupportedCommand_frame ..) (.of_burns (.ite (.refl s) (Burns.refl s).step)))
  | fwReady => exact .inl (.steady (execFwReady_frame ..))
  | tapReset => exact .inl (.resets (execTapReset_frame ..) (s.identify_resets _ _))

/-- Settles O56. -/
theorem commandsRun : Obligations.CommandsRun := by
  intro i s
  rcases exec_runs i s with ⟨t, ht, hp⟩ | hstops
  · exact .inl ⟨t, ht, hp.pending, hp.now⟩
  · exact .inr hstops

/-- What passes to a next state passes to that of its outcome. -/
theorem exec_passes {i : Instr} {s t : State} (h : exec i s = .next t) : Passes i s t := by
  rcases exec_runs i s with ⟨u, hu, hp⟩ | ⟨_, _, _, _, _, hfault⟩
  · cases hu.symm.trans h
    exact hp
  · exact nomatch hfault.symm.trans h

/-- Settles O58. -/
theorem fusesOnlyByActivation : Obligations.FusesOnlyByActivation := by
  intro i s t h
  have hp := exec_passes h
  exact ⟨hp.grows.rest, hp.grows.rollback, hp.grows.keyRevoke, hp.cause⟩

/-- A CCLK moves ET forwards by 5 ticks at most. -/
theorem State.tickAll_et (s : State) : s.tickAll.et = s.et ∨ s.tickAll.et = s.et + 1 ∨ s.tickAll.et = s.et + 5 := by
  have het : (s.each (List.range 16) State.tickPart).et = s.et := State.tickParts_of (fd := .et) (by decide)
  obtain ⟨n, e, h, he⟩ := State.clock_cases (s.each (List.range 16) State.tickPart)
  rw [s.tickAll_eq, h]
  rwa [het] at he

theorem State.tick_le_tickAll (s : State) (h : s.tick + 5 < 18446744073709551616) : s.tick ≤ s.tickAll.tick := by
  unfold State.tick at h ⊢
  rcases s.tickAll_et with he | he | he <;> rw [he] <;> bv_omega

/-- Settles O57. -/
theorem etForward : Obligations.EtForward := by
  refine ⟨fun s t hstep hs ht hb hwrap => ?_, fun i s t h hs ht hb hne => ?_⟩
  · unfold step at hstep
    split at hstep
    · rw [← Host.Outcome.next.inj hstep]
      exact s.tick_le_tickAll hwrap
    · by_cases he : t.et = s.et
      · exact (congrArg BitVec.toNat he).ge
      · exact ((exec_passes hstep).time hs ht hb he).2.1.le
  · obtain ⟨hf, htick, hall⟩ := (exec_passes h).time hs ht hb hne
    exact ⟨hf, htick, hall.queue, hall.compl⟩

end Sys2Proof.Machine
end

section
/-!
The state before the first supply, and what a step does not keep.
-/

namespace Sys2Proof.Machine

open Sys2Proof

/-- Settles O59. -/
theorem resetState : Obligations.ResetState :=
  ⟨by decide, by decide, rfl, rfl, by decide, rfl, rfl, rfl, rfl, by decide, fun _ => rfl, rfl, rfl, rfl⟩

/-- A boot whose tail is cut short at once: PFW_N is asserted in step 5 (R406). -/
def BootIn.cutShort : BootIn := { straps := 0, selfTestFail := [], understudyFail := [], pfwIn := some 0 }

/-- A boot that waits for PFW_N while the always-on domain counts, at the last of the 40 ns between its increments. No boot
comes to wait with that clock, but the statement asks nothing of how the state came about. -/
def State.lateStop : State :=
  { State.reset with
    pending := [.resumeQuietExpiry], supply := .waitQuiet, etClock := .alwaysOn, sub := 39, bootRest := some BootIn.cutShort }

/-- The wait ends and the boot stops again: the clock of ET is held, and its subcount stays (R406). -/
theorem step_lateStop : step State.lateStop = .next (State.bootStop { State.lateStop with pending := [] } BootIn.cutShort) := rfl

/-- Refutes O60: PFW_N asserted in a boot holds the clock of ET without putting its subcount back, so that a subcount of the
always-on domain, up to 39, is left where the period is 8. -/
theorem not_stepKeepsForm : ¬ Obligations.StepKeepsForm := by
  intro h
  have hcanon : State.lateStop.canonical = true := by decide
  have hsub : State.lateStop.subOk = true := by decide
  obtain ⟨-, hnext⟩ := h _ _ hcanon hsub step_lateStop
  exact absurd hnext (by decide)

end Sys2Proof.Machine
end

section
/-!
MMIO: accesses to closed windows, ring bases in halves, and the registers that clear counts.
-/

namespace Sys2Proof.Machine

open Sys2Proof

/-! ## Accesses to a closed window -/

/-- An access to a closed window of a host die that answers is a violation of kind 1. -/
theorem State.mmio_of_closed {s : State} {h f : Nat} (hup : s.hostUp h = true) (hc : s.isOpen h f = false) (act : State → State) :
    s.mmio h f act = s.violate f 1 1 := by
  rw [State.mmio, if_pos hup, if_neg (by simp [hc])]

theorem execMmioViolation_closed {die : Die} {fn : Fn} {s : State} {acc : Access} (bar : Bar) (w : Option (BitVec 64))
    (hup : s.hostUp die.val = true) (hc : s.isOpen die.val fn.val = false) (ha : aligned acc.off.toNat acc.wide = true) :
    execMmioViolation die fn bar acc w s =
      .next (if w.isNone then (s.violate fn.val 1 1).readZero else s.violate fn.val 1 1) := by
  simp only [execMmioViolation, hup, hc, ha, Bool.and_self, Bool.not_false, if_true]

/-- What a violation counts, and what a read of a closed window answers. -/
theorem violation_counts (s : State) (f : Nat) (w : Option (BitVec 64)) :
    let t := if w.isNone then (s.violate f 1 1).readZero else s.violate f 1 1
    t = { s with violCounts := t.violCounts, mmioData := if w.isNone then some 0 else s.mmioData } ∧
      t.violCounts = smod 0#64 f (countViol 1 1) s.violCounts := by
  cases w <;> exact ⟨rfl, rfl⟩

/-- Settles O3: the write and the read of a closed window are the violation itself. -/
theorem closedWindowIsViolation : Obligations.ClosedWindowIsViolation := by
  unfold Obligations.ClosedWindowIsViolation
  intro die fn bar off wide v w s hup hc
  refine ⟨fun ha => ⟨?counts, ?write, ?read⟩, ?unaligned⟩
  case counts =>
    obtain ⟨hs, hv⟩ := violation_counts s fn.val w
    refine ⟨_, execMmioViolation_closed bar w hup hc ha, hs, ?_, fun k hk => ?_⟩
    · rw [hv, sget_smod_same]
    · rw [hv, sget_smod_ne _ _ _ _ _ hk]
  case write =>
    refine Eq.trans ?_ (execMmioViolation_closed bar (some v) hup hc ha).symm
    rw [exec_registerWrite, execRegisterWrite, if_pos ha, State.mmio_of_closed hup hc]
    rfl
  case read =>
    refine Eq.trans ?_ (execMmioViolation_closed bar none hup hc ha).symm
    show execSplitReadLower die fn bar ⟨off, wide⟩ s = _
    simp [execSplitReadLower, ha, hup, hc]
  case unaligned =>
    intro ha
    show execMmioViolation die fn bar ⟨off, wide⟩ w s = _
    simp [execMmioViolation, ha]

/-! ## A ring base in halves -/

/-- The base of the submission ring of a ring pair is the first register of its block (R253). -/
theorem ringAt_base (k : Fin 7) : ringAt (0x3000 + 64 * k.val) = some (k.val, 0) := by
  rw [ringAt, if_pos (by omega)]
  simp

theorem isReg64_ringBase (f : Nat) (k : Fin 7) : isReg64 f .bar0 (0x3000 + 64 * k.val) = true := by
  simp [isReg64, ringAt_base]

theorem State.reg64_ringBase (s : State) (h f : Nat) (k : Fin 7) :
    s.reg64 h f .bar0 (0x3000 + 64 * k.val) = ((s.window h f).ring k.val).sqBase := by
  simp only [State.reg64, ringAt_base]
  rw [if_neg (by omega), if_neg (by omega), if_neg (by omega)]

theorem State.write64_ringBase (s : State) (h f : Nat) (k : Fin 7) (v : BitVec 64) :
    s.write64 h f .bar0 (0x3000 + 64 * k.val) v =
      s.modWindow h f fun w => w.modRing k.val fun r => if r.enable then r else { r with sqBase := v &&& baseMask } := by
  simp only [State.write64, ringAt_base]

theorem ringBase_toNat (k : Fin 7) : (BitVec.ofNat 24 (0x3000 + 64 * k.val)).toNat = 0x3000 + 64 * k.val := by
  rw [BitVec.toNat_ofNat]
  omega

theorem ringBase_upper_toNat (k : Fin 7) : (BitVec.ofNat 24 (0x3000 + 64 * k.val) + 4#24).toNat = 0x3000 + 64 * k.val + 4 := by
  rw [BitVec.toNat_add, ringBase_toNat]
  simp
  omega

@[simp] theorem Window.ring_modRing (w : Window) (k : Nat) (f : Ring → Ring) : (w.modRing k f).ring k = f (w.ring k) := by
  simp [Window.ring, Window.modRing]

theorem Window.ring_modRing_ne (w : Window) {k j : Nat} (f : Ring → Ring) (h : j ≠ k) : (w.modRing k f).ring j = w.ring j := by
  simp [Window.ring, Window.modRing, sget_smod_ne, h]

theorem WindowsOnly.modWindow (s : State) (h f : Nat) (g : Window → Window) : WindowsOnly s (s.modWindow h f g) := rfl

/-- Windows that differ alone twice, differ alone. -/
theorem WindowsOnly.trans {s t u : State} (a : WindowsOnly s t) (b : WindowsOnly t u) : WindowsOnly s u := by
  unfold WindowsOnly at *
  rw [b, a]

/-- Two reads that change only the windows and what is answered. -/
theorem read_trans {s t u : State} (a : t = { s with windows := t.windows, mmioData := t.mmioData })
    (b : u = { t with windows := u.windows, mmioData := u.mmioData }) : u = { s with windows := u.windows, mmioData := u.mmioData } := by
  rw [b, a]

theorem OneWindow.trans {s t u : State} {h f : Nat} (a : OneWindow s t h f) (b : OneWindow t u h f) : OneWindow s u h f :=
  fun k hk => (b k hk).trans (a k hk)

/-- A change of one window together with what a read answers. -/
theorem OneWindow.modWindow_answer (s : State) (h f : Nat) (g : Window → Window) (x : Option (BitVec 64)) :
    OneWindow s { s.modWindow h f g with mmioData := x } h f := s.modWindow_one h f g

theorem execSplitWriteLower_ring {die : Die} {fn : Fn} {s : State} (k : Fin 7) (lo : BitVec 32) (hr : s.reach die.val fn.val = true) :
    execSplitWriteLower die fn .bar0 (BitVec.ofNat 24 (0x3000 + 64 * k.val)) lo s =
      .next (s.splitLower die.val fn.val .bar0 (0x3000 + 64 * k.val) lo) := by
  simp only [execSplitWriteLower, ringBase_toNat, isReg64_ringBase, State.mmio_of_reach hr, if_true]
  rw [if_pos (by omega)]

theorem execSplitWriteUpper_ring {die : Die} {fn : Fn} {s : State} (k : Fin 7) (hi : BitVec 32) (hr : s.reach die.val fn.val = true) :
    execSplitWriteUpper die fn .bar0 (BitVec.ofNat 24 (0x3000 + 64 * k.val) + 4#24) hi s =
      .next (s.splitUpper die.val fn.val .bar0 (0x3000 + 64 * k.val + 4) hi) := by
  simp only [execSplitWriteUpper, ringBase_upper_toNat, Nat.add_sub_cancel, isReg64_ringBase, State.mmio_of_reach hr, if_true]
  rw [if_pos (by omega)]

/-- An honoured read of an open window. -/
theorem execSplitReadLower_open {die : Die} {fn : Fn} {s : State} {acc : Access} (bar : Bar)
    (ha : aligned acc.off.toNat acc.wide = true) (hr : s.reach die.val fn.val = true) :
    execSplitReadLower die fn bar acc s = .next (if acc.wide then s.read64 die.val fn.val bar acc.off.toNat
      else s.read32 die.val fn.val bar acc.off.toNat) := by
  obtain ⟨hup, hopen⟩ := (s.reach_iff _ _).1 hr
  simp only [execSplitReadLower, ha, hup, hopen, Bool.not_true, Bool.or_self, Bool.false_eq_true, if_false]

/-- The held lower half and the upper half together. -/
theorem State.splitUpper_splitLower (s : State) (h f : Nat) (k : Fin 7) (lo hi : BitVec 32) :
    (s.splitLower h f .bar0 (0x3000 + 64 * k.val) lo).splitUpper h f .bar0 (0x3000 + 64 * k.val + 4) hi =
      (((s.splitLower h f .bar0 (0x3000 + 64 * k.val) lo).modWindow h f fun w => w.unhold (heldKey .bar0 (0x3000 + 64 * k.val))).modWindow
        h f fun w => w.modRing k.val fun r => if r.enable then r else { r with sqBase := (hi ++ lo) &&& baseMask }) := by
  have hheld : sget 0 ((s.splitLower h f .bar0 (0x3000 + 64 * k.val) lo).window h f).writeHeld (heldKey .bar0 (0x3000 + 64 * k.val)) =
      lo.toNat + 1 := by
    rw [State.splitLower, State.window_modWindow, sget_sput_same]
  simp only [State.splitUpper, Nat.add_sub_cancel, hheld, Nat.add_one_ne_zero, if_false, BitVec.ofNat_toNat, BitVec.setWidth_eq]
  rw [State.write64_ringBase]

/-- A 32-bit read of the lower half of a ring base answers it and holds the upper half. -/
theorem State.read32_ringBase (s : State) (h f : Nat) (k : Fin 7) : s.read32 h f .bar0 (0x3000 + 64 * k.val) =
    let v := ((s.window h f).ring k.val).sqBase
    let key := heldKey .bar0 (0x3000 + 64 * k.val)
    { s.modWindow h f (fun w => { w with readHeld := sput 0 key (v.toNat / 4294967296 + 1) w.readHeld }) with
      mmioData := some ((v.setWidth 32).setWidth 64) } := by
  have hdiv : (0x3000 + 64 * k.val) / 8 * 8 = 0x3000 + 64 * k.val := by omega
  have hmod : (0x3000 + 64 * k.val) % 8 = 0 := by omega
  simp only [State.read32, hdiv, hmod, isReg64_ringBase, State.reg64_ringBase, if_true]

theorem State.read32_ringBase_held (s : State) (h f : Nat) (k : Fin 7) :
    sget 0 ((s.read32 h f .bar0 (0x3000 + 64 * k.val)).window h f).readHeld (heldKey .bar0 (0x3000 + 64 * k.val)) =
      ((s.window h f).ring k.val).sqBase.toNat / 4294967296 + 1 := by
  have hw : (s.read32 h f .bar0 (0x3000 + 64 * k.val)).windows = smod {} (16 * h + f) (fun w =>
      { w with
        readHeld := sput 0 (heldKey .bar0 (0x3000 + 64 * k.val)) (((s.window h f).ring k.val).sqBase.toNat / 4294967296 + 1) w.readHeld }) s.windows := by
    rw [State.read32_ringBase]
    rfl
  rw [State.window, hw, sget_smod_same, sget_sput_same]

/-- A 32-bit read of the upper half of a ring base answers what is held. -/
theorem State.read32_ringUpper (s : State) (h f : Nat) (k : Fin 7) (v : Nat)
    (hheld : sget 0 (s.window h f).readHeld (heldKey .bar0 (0x3000 + 64 * k.val)) = v + 1) :
    s.read32 h f .bar0 (0x3000 + 64 * k.val + 4) =
      { s.modWindow h f (fun w => { w with readHeld := sdel (heldKey .bar0 (0x3000 + 64 * k.val)) w.readHeld }) with
        mmioData := some (BitVec.ofNat 64 v) } := by
  have hdiv : (0x3000 + 64 * k.val + 4) / 8 * 8 = 0x3000 + 64 * k.val := by omega
  have hmod : ¬ (0x3000 + 64 * k.val + 4) % 8 = 0 := by omega
  simp only [State.read32, hdiv, hmod, isReg64_ringBase, hheld, if_true, if_false, Nat.add_one_ne_zero, Nat.add_sub_cancel]

theorem exec_read_ringBase {die : Die} {fn : Fn} {s : State} (k : Fin 7) (hr : s.reach die.val fn.val = true) :
    exec (.splitReadLower die fn .bar0 ⟨BitVec.ofNat 24 (0x3000 + 64 * k.val), false⟩) s =
      .next (s.read32 die.val fn.val .bar0 (0x3000 + 64 * k.val)) := by
  refine (execSplitReadLower_open .bar0 ?_ hr).trans ?_
  · simp only [aligned, ringBase_toNat, Bool.false_eq_true, if_false, beq_iff_eq]
    omega
  · simp only [ringBase_toNat, Bool.false_eq_true, if_false]

theorem exec_read_ringUpper {die : Die} {fn : Fn} {s : State} (k : Fin 7) (hr : s.reach die.val fn.val = true) :
    exec (.splitReadLower die fn .bar0 ⟨BitVec.ofNat 24 (0x3000 + 64 * k.val) + 4#24, false⟩) s =
      .next (s.read32 die.val fn.val .bar0 (0x3000 + 64 * k.val + 4)) := by
  refine (execSplitReadLower_open .bar0 ?_ hr).trans ?_
  · simp only [aligned, ringBase_upper_toNat, Bool.false_eq_true, if_false, beq_iff_eq]
    omega
  · simp only [ringBase_upper_toNat, Bool.false_eq_true, if_false]

theorem exec_read_ringWide {die : Die} {fn : Fn} {s : State} (k : Fin 7) (hr : s.reach die.val fn.val = true) :
    exec (.splitReadLower die fn .bar0 ⟨BitVec.ofNat 24 (0x3000 + 64 * k.val), true⟩) s =
      .next { s.modWindow die.val fn.val (fun w => { w with readHeld := sdel (heldKey .bar0 (0x3000 + 64 * k.val)) w.readHeld }) with
        mmioData := some ((s.window die.val fn.val).ring k.val).sqBase } := by
  refine (execSplitReadLower_open .bar0 ?_ hr).trans ?_
  · simp only [aligned, ringBase_toNat, if_true, beq_iff_eq]
    omega
  · simp only [ringBase_toNat, State.read64, isReg64_ringBase, State.reg64_ringBase, if_true]

/-- Settles O4. -/
theorem splitHalves : Obligations.SplitHalves := by
  unfold Obligations.SplitHalves
  intro die fn k lo hi s hr hdis base
  refine ⟨_, _, execSplitWriteLower_ring k lo hr, execSplitWriteUpper_ring k hi hr, .modWindow .., s.modWindow_one _ _ _, ?lower,
    ?only, ?one, ?base, ⟨_, exec_read_ringWide k hr, rfl, .modWindow_answer _ _ _ _ _, rfl⟩, ?halves⟩
  case lower => rw [State.splitLower, State.window_modWindow]; rfl
  case only =>
    rw [State.splitUpper_splitLower]
    exact ((WindowsOnly.modWindow ..).trans (.modWindow ..)).trans (.modWindow ..)
  case one =>
    rw [State.splitUpper_splitLower]
    exact (OneWindow.trans (s.modWindow_one _ _ _) (State.modWindow_one _ _ _ _)).trans (State.modWindow_one _ _ _ _)
  case base =>
    rw [State.splitUpper_splitLower]
    simp only [State.window_modWindow, Window.ring_modRing, State.splitLower]
    exact congrArg Ring.sqBase (if_neg (by rw [Bool.not_eq_true]; exact hdis))
  case halves =>
    refine ⟨_, _, exec_read_ringBase k hr, exec_read_ringUpper k (by rw [State.read32_ringBase]; exact hr), ?_⟩
    rw [State.read32_ringUpper _ _ _ _ _ (State.read32_ringBase_held ..), State.read32_ringBase]
    refine ⟨rfl, .modWindow_answer _ _ _ _ _, rfl, read_trans rfl rfl,
      OneWindow.trans (t := { s.modWindow die.val fn.val _ with mmioData := _ }) (.modWindow_answer _ _ _ _ _) (.modWindow_answer _ _ _ _ _),
      congrArg some (BitVec.eq_of_toNat_eq ?_)⟩
    rw [BitVec.toNat_ofNat, BitVec.toNat_ushiftRight, Nat.shiftRight_eq_div_pow]
    have hlt := ((s.window die.val fn.val).ring k.val).sqBase.isLt
    omega

/-! ## The registers that clear counts -/

/-- Deleting listed keys of a map, one after the other. -/
theorem sget_foldl_sdel {α : Type} (d : α) (key : Nat → Nat) (l : List Nat) (m : SMap α) (k : Nat) :
    sget d (l.foldl (fun m n => sdel (key n) m) m) k = if k ∈ l.map key then d else sget d m k := by
  induction l generalizing m with
  | nil => rfl
  | cons a r ih =>
    rw [List.foldl_cons, ih]
    by_cases h : k = key a
    · subst h
      simp
    · simp [h, sget_sdel_ne _ _ _ _ h]

theorem State.violClear_eq (s : State) (v : BitVec 32) :
    s.violClear v = { s with violCounts := ((List.range 16).filter v.getLsbD).foldl (fun m n => sdel n m) s.violCounts } := by
  unfold State.violClear
  induction (List.range 16).filter v.getLsbD generalizing s with
  | nil => rfl
  | cons n r ih => exact ih _

theorem State.ambigClear_eq (s : State) (h : Nat) (v : BitVec 32) :
    s.ambigClear h v = { s with ambig := ((List.range 16).filter v.getLsbD).foldl (fun m n => sdel (16 * h + n) m) s.ambig } := by
  unfold State.ambigClear
  induction (List.range 16).filter v.getLsbD generalizing s with
  | nil => rfl
  | cons n r ih => exact ih _

/-- Settles O7. -/
theorem countersClear : Obligations.CountersClear := by
  unfold Obligations.CountersClear
  intro die v s hup
  refine ⟨⟨s.violClear v, ?_, ?_, fun n => ?_⟩, ⟨s.ambigClear die.val v, ?_, ?_, fun n hn => ?_, fun k hk => ?_⟩⟩
  · exact congrArg Host.Outcome.next (if_pos hup)
  · rw [State.violClear_eq]
  · rw [State.violClear_eq]
    refine (sget_foldl_sdel 0#64 id _ _ n).trans ?_
    simp
  · exact congrArg Host.Outcome.next (if_pos hup)
  · rw [State.ambigClear_eq]
  · rw [State.ambigClear_eq, sget_foldl_sdel 0#32 (16 * die.val + ·)]
    simp [hn]
  · rw [State.ambigClear_eq, sget_foldl_sdel 0#32 (16 * die.val + ·), if_neg]
    simp only [List.mem_map, List.mem_filter, List.mem_range]
    rintro ⟨n, ⟨hn, -⟩, rfl⟩
    omega

end Sys2Proof.Machine
end

section
/-!
MMIO: the mailbox registers, the ring pairs and the descriptor DMA queue.
-/

namespace Sys2Proof.Machine

open Sys2Proof

/-! ## Vectors -/

theorem Window.fire_eq (w : Window) (v : Nat) : w.fire v = { w with vectors := (w.fire v).vectors } := rfl

theorem Window.fire_outstanding (w : Window) (v : Nat) : (sget {} (w.fire v).vectors v).outstanding = true := by
  unfold Window.fire
  dsimp only
  split <;> simp

theorem Window.signal_eq (w : Window) (v : Nat) : w.signal v = { w with vectors := (w.signal v).vectors } := by
  unfold Window.signal
  split
  · rfl
  · exact w.fire_eq v

theorem Window.signal_outstanding (w : Window) (v : Nat) : (sget {} (w.signal v).vectors v).outstanding = true := by
  unfold Window.signal
  split
  next h => exact h
  next => exact w.fire_outstanding v

theorem Window.ackVector_eq (w : Window) (v : Nat) (remains : Bool) :
    w.ackVector v remains = { w with vectors := (w.ackVector v remains).vectors } := by
  unfold Window.ackVector
  dsimp only
  split
  · rw [Window.fire_eq]
  · rfl

theorem Window.ring_ackVector (w : Window) (v k : Nat) (remains : Bool) : (w.ackVector v remains).ring k = w.ring k := by
  rw [Window.ackVector_eq]
  rfl

/-- A signal stays outstanding only where something remains. -/
theorem Window.ackVector_outstanding (w : Window) (v : Nat) (remains : Bool) :
    (sget {} (w.ackVector v remains).vectors v).outstanding = remains := by
  unfold Window.ackVector
  cases remains
  · simp
  · exact Window.fire_outstanding ..

/-! ## The mailbox -/

/-- Leases granted one after another, for listed slots. -/
theorem sget_grants (s : State) (key : Nat → Nat) (tag : BitVec 16) (l : List Nat) (k : Nat) :
    sget 0#16 (s.each l fun t i => t.grant 4 (key i) tag).leases k =
      if k ∈ l.map fun i => leaseKey 4 (key i) then tag ^^^ 0x0FFF#16 else sget 0#16 s.leases k := by
  induction l generalizing s with
  | nil => rfl
  | cons a r ih =>
    refine (ih _).trans ?_
    by_cases h : k = leaseKey 4 (key a)
    · subst h
      simp [State.grant]
    · simp [h, State.grant, sget_sput_ne]

theorem State.grants_eq (s : State) (key : Nat → Nat) (tag : BitVec 16) (l : List Nat) :
    s.each l (fun t i => t.grant 4 (key i) tag) = { s with leases := (s.each l fun t i => t.grant 4 (key i) tag).leases } :=
  State.eq_patch [.leases] fun f hf => by simp at hf; simp [hf]

/-- What a doorbell leaves of its window. -/
theorem State.doorbell_eq (s : State) (h f : Nat) (v : BitVec 32) (hfw : (s.window h f).fwReady = true) :
    let w := s.window h f
    let new := (List.range 32).filter (v &&& ~~~w.busy).getLsbD
    s.doorbell h f v = (s.modWindow h f fun w =>
      { w with busy := w.busy ||| v, dbErr := w.dbErr || (v &&& w.busy) != 0#32, rung := w.rung ++ new }).each new fun t i =>
        t.grant 4 (512 * h + 32 * f + i) (ownerTag f (0xF00 + 4 * h)) := by
  simp only [State.doorbell, hfw, if_true]

theorem exec_hdMbDoorbell {die : Die} {fn : Fn} {s : State} (v : BitVec 32) (hr : s.reach die.val fn.val = true) :
    exec (.hdMbDoorbell die fn v) s = .next (s.doorbell die.val fn.val v) := congrArg Host.Outcome.next (State.mmio_of_reach hr _)

theorem exec_hdMbOutAck {die : Die} {fn : Fn} {s : State} (v : BitVec 32) (hr : s.reach die.val fn.val = true) :
    exec (.hdMbOutAck die fn v) s = .next (s.outAckWrite die.val fn.val (v.setWidth 16)) :=
  congrArg Host.Outcome.next (State.mmio_of_reach hr _)

/-- An outbound slot has 128 bytes. -/
theorem Msg.length_slot (m : Msg) : m.slot.length = 128 := by
  simp [Msg.slot, leBytes, toLe, zeros, padTo, slice]

/-- HD_MB_DOORBELL of a window that the firmware serves. -/
theorem doorbell_serves {die : Die} {fn : Fn} {s : State} (v : BitVec 32) (hfw : (s.window die.val fn.val).fwReady = true) :
    let w := s.window die.val fn.val
    let new := (List.range 32).filter (v &&& ~~~w.busy).getLsbD
    let t := s.doorbell die.val fn.val v
    t = { s with windows := t.windows, leases := t.leases } ∧ OneWindow s t die.val fn.val ∧
      t.window die.val fn.val = { w with busy := w.busy ||| v, dbErr := w.dbErr || (v &&& w.busy) != 0#32, rung := w.rung ++ new } ∧
      (∀ i, i ∈ new → t.lease 4 (512 * die.val + 32 * fn.val + i) = ownerTag fn.val (0xF00 + 4 * die.val)) ∧
      ∀ k, (∀ i ∈ new, k ≠ leaseKey 4 (512 * die.val + 32 * fn.val + i)) → sget 0#16 t.leases k = sget 0#16 s.leases k := by
  intro w new t
  let u := s.modWindow die.val fn.val fun w =>
    { w with busy := w.busy ||| v, dbErr := w.dbErr || (v &&& w.busy) != 0#32, rung := w.rung ++ new }
  have ht : t = { u with leases := t.leases } := by
    simp only [t, s.doorbell_eq _ _ v hfw]
    exact State.grants_eq u ..
  have hl : ∀ k, sget 0#16 t.leases k = if k ∈ new.map fun i => leaseKey 4 (512 * die.val + 32 * fn.val + i)
      then ownerTag fn.val (0xF00 + 4 * die.val) ^^^ 0x0FFF#16 else sget 0#16 s.leases k := by
    intro k
    simp only [t, s.doorbell_eq _ _ v hfw]
    exact sget_grants u ..
  have hw : t.windows = u.windows := by rw [ht]
  refine ⟨?_, fun k hk => ?_, ?_, fun i hi => ?_, fun k hk => ?_⟩
  · rw [hw]
    exact ht
  · rw [hw]
    exact s.modWindow_one _ _ _ k hk
  · rw [State.window, hw]
    exact State.window_modWindow ..
  · rw [State.lease, hl, if_pos (List.mem_map_of_mem hi), BitVec.xor_assoc, BitVec.xor_self, BitVec.xor_zero]
  · rw [hl, if_neg]
    rw [List.mem_map]
    rintro ⟨i, hi, rfl⟩
    exact hk i hi rfl

/-- HD_MB_OUT_ACK that runs too far is ignored; another moves ack. -/
theorem outAckWrite_window (s : State) (h f : Nat) (v : BitVec 16) :
    let w := s.window h f
    let t := s.outAckWrite h f v
    (32 < (w.outTail - v).toNat → t.window h f = { w with dbErr := true }) ∧
      ((w.outTail - v).toNat ≤ 32 → t.window h f = ({ w with outAck := v } : Window).ackVector 0 (w.outTail != v)) := by
  simp only [State.outAckWrite, State.window_modWindow, diff16]
  exact ⟨fun h => if_pos h, fun h => if_neg (by omega)⟩

/-- The engine writes an outbound message into a ring with room. -/
theorem exec_outboundMessageWrite {die : Die} {fn : Fn} {m : Msg} {rest : List Msg} {s : State} (hr : s.reach die.val fn.val = true)
    (hq : (s.window die.val fn.val).outQ = m :: rest) :
    exec (.outboundMessageWrite die fn) s = .next
      (if (s.window die.val fn.val).fwReady = true ∧ diff16 (s.window die.val fn.val).outTail (s.window die.val fn.val).outAck < 32
        then s.modWindow die.val fn.val fun w => w.writeOut m rest else s) := by
  obtain ⟨hup, hopen⟩ := (s.reach_iff _ _).1 hr
  show execOutboundMessageWrite die fn s = _
  simp only [execOutboundMessageWrite, hq, hup, hopen, Bool.true_and, Bool.and_eq_true, decide_eq_true_eq]

theorem Window.outSlots_writeOut (w : Window) (m : Msg) (rest : List Msg) :
    (w.writeOut m rest).outSlots = mwrites (w.outTail.toNat % 32 * 128) m.slot w.outSlots := by
  unfold Window.writeOut
  rw [Window.signal_eq]

theorem Window.writeOut_eq (w : Window) (m : Msg) (rest : List Msg) : w.writeOut m rest = { w with
    outTail := w.outTail + 1, outQ := rest, outSlots := (w.writeOut m rest).outSlots, vectors := (w.writeOut m rest).vectors } := by
  rw [Window.outSlots_writeOut]
  unfold Window.writeOut
  rw [Window.signal_eq]

/-- Settles O6. -/
theorem mailboxes : Obligations.Mailboxes := by
  unfold Obligations.Mailboxes
  refine ⟨fun die fn v s hr => ⟨fun hfw => ⟨_, exec_hdMbDoorbell v hr, doorbell_serves v hfw⟩, fun hfw => ?_⟩, ?ack, ?out⟩
  · rw [exec_hdMbDoorbell v hr, State.doorbell, if_neg (by simp [hfw])]
  case ack =>
    intro die fn v s hr
    obtain ⟨hfar, hnear⟩ := outAckWrite_window s die.val fn.val (v.setWidth 16)
    refine ⟨_, exec_hdMbOutAck v hr, .modWindow .., s.modWindow_one _ _ _, hfar, fun hn => ?_⟩
    rw [hnear hn]
    refine ⟨Window.ackVector_eq .., fun e => ?_, fun e => ?_⟩
    · rw [Window.ackVector_outstanding]
      simpa using e
    · rw [Window.ackVector_outstanding]
      simpa using e
  case out =>
    intro die fn m rest s hr hq
    refine ⟨fun hfw hroom => ⟨_, (exec_outboundMessageWrite hr hq).trans (congrArg _ (if_pos ⟨hfw, hroom⟩)), .modWindow ..,
      s.modWindow_one _ _ _, ?_⟩, fun hfull => ?_⟩
    · rw [State.window_modWindow]
      refine ⟨Window.writeOut_eq .., Window.signal_outstanding _ 0, fun i hi => ?_⟩
      rw [Window.outSlots_writeOut]
      have hl : i < m.slot.length := by rw [Msg.length_slot]; exact hi
      rw [mread_mwrites_in _ _ _ _ hl, List.getD_eq_getElem _ _ hl]
    · rw [exec_outboundMessageWrite hr hq, if_neg fun h => by have := h.2; unfold diff16 at this; omega]

/-! ## Ring pairs -/

/-- Setting bit 31 of a register leaves a field below it. -/
theorem extract_or_enable (v : BitVec 32) (o : Nat) (h : o + 4 ≤ 31) : (v ||| 0x80000000#32).extractLsb' o 4 = v.extractLsb' o 4 := by
  ext i hi
  have hbit : (0x80000000#32).getLsbD (o + i) = false := by
    have : o + i < 31 := by omega
    interval_cases o + i <;> rfl
  simp [BitVec.getLsbD_or, hbit]

/-- Clearing bit 31 of a register leaves a field below it. -/
theorem extract_and_disable (v : BitVec 32) (o : Nat) (h : o + 4 ≤ 31) : (v &&& 0x7FFFFFFF#32).extractLsb' o 4 = v.extractLsb' o 4 := by
  ext i hi
  have hbit : (0x7FFFFFFF#32).getLsbD (o + i) = true := by
    have : o + i < 31 := by omega
    interval_cases o + i <;> rfl
  simp [BitVec.getLsbD_and, hbit]

/-- HD_RING_CFG with enable set. -/
theorem Ring.writeCfg_enable (r : Ring) (v : BitVec 32) :
    let sq := v.extractLsb' 4 4
    let cq := v.extractLsb' 8 4
    r.writeCfg (v ||| 0x80000000#32) =
      if r.enable = true then { r with irqEn := v.getLsbD 0 }
      else if 4 ≤ sq.toNat ∧ sq.toNat ≤ cq.toNat ∧ cq.toNat ≤ 12 then
        { r with enable := true, irqEn := v.getLsbD 0, sqLog2 := sq, cqLog2 := cq, sqTail := 0, sqHead := 0, cqTail := 0, cqHead := 0 }
      else { r with irqEn := v.getLsbD 0, sqLog2 := sq, cqLog2 := cq, cfgErr := true } := by
  intro sq cq
  have hen : (v ||| 0x80000000#32).getLsbD 31 = true := by simp
  have hirq : (v ||| 0x80000000#32).getLsbD 0 = v.getLsbD 0 := by simp
  have hsizes : (4 ≤ sq.toNat ∧ sq.toNat ≤ 12 ∧ 4 ≤ cq.toNat ∧ cq.toNat ≤ 12 ∧ sq.toNat ≤ cq.toNat) ↔
      4 ≤ sq.toNat ∧ sq.toNat ≤ cq.toNat ∧ cq.toNat ≤ 12 := by omega
  simp only [Ring.writeCfg, hen, hirq, extract_or_enable v 4 (by omega), extract_or_enable v 8 (by omega), if_true]
  split
  next h => rw [← h]
  next => exact if_congr hsizes rfl rfl

/-- HD_RING_CFG with enable clear. -/
theorem Ring.writeCfg_disable (r : Ring) (v : BitVec 32) : r.writeCfg (v &&& 0x7FFFFFFF#32) =
    if r.enable = true then { r with enable := false, irqEn := v.getLsbD 0 }
    else { r with irqEn := v.getLsbD 0, sqLog2 := v.extractLsb' 4 4, cqLog2 := v.extractLsb' 8 4 } := by
  have hen : (v &&& 0x7FFFFFFF#32).getLsbD 31 = false := by simp
  have hirq : (v &&& 0x7FFFFFFF#32).getLsbD 0 = v.getLsbD 0 := by simp
  simp only [Ring.writeCfg, hen, hirq, extract_and_disable v 4 (by omega), extract_and_disable v 8 (by omega), Bool.false_eq_true,
    if_false]

/-- HD_DMA_CFG with enable set. -/
theorem DmaQueue.writeCfg_enable (d : DmaQueue) (v : BitVec 32) : d.writeCfg (v ||| 0x80000000#32) =
    if d.enable = true then d
    else if 4 ≤ (v.extractLsb' 0 4).toNat ∧ (v.extractLsb' 0 4).toNat ≤ 10 then
      { d with enable := true, sizeLog2 := v.extractLsb' 0 4, tail := 0, head := 0, done := 0 }
    else { d with sizeLog2 := v.extractLsb' 0 4, cfgErr := true } := by
  have hen : (v ||| 0x80000000#32).getLsbD 31 = true := by simp
  simp only [DmaQueue.writeCfg, hen, extract_or_enable v 0 (by omega), if_true]
  split
  next h => rw [← h]
  next => rfl

/-- HD_DMA_CFG with enable clear. -/
theorem DmaQueue.writeCfg_disable (d : DmaQueue) (v : BitVec 32) : d.writeCfg (v &&& 0x7FFFFFFF#32) =
    if d.enable = true then { d with enable := false } else { d with sizeLog2 := v.extractLsb' 0 4 } := by
  have hen : (v &&& 0x7FFFFFFF#32).getLsbD 31 = false := by simp
  simp only [DmaQueue.writeCfg, hen, extract_and_disable v 0 (by omega), Bool.false_eq_true, if_false]

/-- A write that changes one ring pair of a window changes the rings alone, and no other pair. -/
theorem modRing_write (s : State) (h f k : Nat) (g : Ring → Ring) :
    let t := s.modWindow h f fun w => w.modRing k g
    WindowsOnly s t ∧ OneWindow s t h f ∧ t.window h f = { s.window h f with rings := (t.window h f).rings } ∧
      (∀ j, j ≠ k → (t.window h f).ring j = (s.window h f).ring j) ∧ (t.window h f).ring k = g ((s.window h f).ring k) := by
  refine ⟨.modWindow .., s.modWindow_one _ _ _, ?_, fun j hj => ?_, ?_⟩
  · rw [State.window_modWindow]
    rfl
  · rw [State.window_modWindow, Window.ring_modRing_ne _ _ hj]
  · rw [State.window_modWindow, Window.ring_modRing]

/-- An access to an open window that changes the window alone. -/
theorem mmio_modWindow {s : State} {h f : Nat} (hr : s.reach h f = true) (g : Window → Window) :
    s.mmio h f (fun t => t.modWindow h f g) = s.modWindow h f g := State.mmio_of_reach hr _

/-- A write to the tail of a ring that ends no park. -/
theorem State.sqTailWrite_serving {s : State} {h f k : Nat} (v : BitVec 16) (hp : ((s.window h f).ring k).enable = false ∨
      ((s.part f).park ≠ .parked ∧ (s.part f).park ≠ .parking)) :
    s.sqTailWrite h f k v = s.modWindow h f fun w => w.modRing k (·.writeTail v) := by
  unfold State.sqTailWrite
  rcases hp with hd | ⟨h1, h2⟩
  · simp [hd]
  · dsimp only
    split
    · exact if_neg (by rintro (h | h); exacts [h1 h, h2 h])
    · rfl

/-- HD_CQ_HEAD: what it leaves of the window. -/
theorem Window.writeCqHead_eq (w : Window) (k : Nat) (v : BitVec 16) :
    w.writeCqHead k v = { w with rings := (w.writeCqHead k v).rings, vectors := (w.writeCqHead k v).vectors } ∧
      (∀ j, j ≠ k → (w.writeCqHead k v).ring j = w.ring j) ∧ (w.writeCqHead k v).ring k =
        if ((w.ring k).cqTail - (w.ring k).cqHead).toNat < ((w.ring k).cqTail - v).toNat then { w.ring k with ptrErr := true }
        else { w.ring k with cqHead := v } := by
  by_cases c : ((w.ring k).cqTail - (w.ring k).cqHead).toNat < ((w.ring k).cqTail - v).toNat
  · have e : w.writeCqHead k v = w.modRing k fun r => { r with ptrErr := true } := if_pos c
    rw [if_pos c, e]
    exact ⟨rfl, fun j hj => Window.ring_modRing_ne _ _ hj, Window.ring_modRing ..⟩
  · have e : w.writeCqHead k v = (w.modRing k fun r => { r with cqHead := v }).ackVector (k + 1) ((w.ring k).irqEn &&
        (w.ring k).cqTail != v) := if_neg c
    rw [if_neg c, e]
    simp only [Window.ring_ackVector, Window.ring_modRing]
    exact ⟨by rw [Window.ackVector_eq]; rfl, fun j hj => Window.ring_modRing_ne w _ hj, trivial⟩

/-- Settles O8. -/
theorem rings : Obligations.Rings := by
  unfold Obligations.Rings
  refine ⟨fun die fn k v s hr => ⟨?enable, ?disable⟩, fun die fn v s hr => ⟨?dmaEnable, ?dmaDisable, ?dmaTail⟩,
    fun die fn k v s hr => ⟨fun hp => ?tail, ?head⟩⟩
  case enable =>
    obtain ⟨hs, hone, hw, hne, hk⟩ := modRing_write s die.val fn.val k.val (·.writeCfg (v ||| 0x80000000#32))
    refine ⟨_, congrArg Host.Outcome.next (mmio_modWindow hr _), hs, hone, hw, hne, fun he h1 h2 h3 => ?_, fun he hb => ?_, fun he => ?_⟩
    · rw [hk, Ring.writeCfg_enable, if_neg (by simp [he]), if_pos ⟨h1, h2, h3⟩]
    · rw [hk, Ring.writeCfg_enable, if_neg (by simp [he]), if_neg (by omega)]
    · rw [hk, Ring.writeCfg_enable, if_pos he]
  case disable =>
    obtain ⟨hs, hone, hw, hne, hk⟩ := modRing_write s die.val fn.val k.val (·.writeCfg (v &&& 0x7FFFFFFF#32))
    refine ⟨_, congrArg Host.Outcome.next (mmio_modWindow hr _), hs, hone, hw, hne, fun he => ?_, fun he => ?_⟩
    · rw [hk, Ring.writeCfg_disable, if_pos he]
    · rw [hk, Ring.writeCfg_disable, if_neg (by simp [he])]
  case dmaEnable =>
    refine ⟨_, congrArg Host.Outcome.next (mmio_modWindow hr _), .modWindow .., s.modWindow_one _ _ _, ?_⟩
    rw [State.window_modWindow, DmaQueue.writeCfg_enable]
    refine ⟨fun he h1 h2 => ?_, fun he hb => ?_, fun he => ?_⟩
    · rw [if_neg (by simp [he]), if_pos ⟨h1, h2⟩]
    · rw [if_neg (by simp [he]), if_neg (by omega)]
    · rw [if_pos he]
  case dmaDisable =>
    refine ⟨_, congrArg Host.Outcome.next (mmio_modWindow hr _), .modWindow .., s.modWindow_one _ _ _, ?_⟩
    rw [State.window_modWindow, DmaQueue.writeCfg_disable]
    exact ⟨fun he => by rw [if_pos he], fun he => by rw [if_neg (by simp [he])]⟩
  case dmaTail =>
    exact ⟨_, congrArg Host.Outcome.next (mmio_modWindow hr _), .modWindow .., s.modWindow_one _ _ _, State.window_modWindow ..⟩
  case tail =>
    obtain ⟨hs, hone, hw, hne, hk⟩ := modRing_write s die.val fn.val k.val (·.writeTail (v.setWidth 16))
    exact ⟨_, congrArg Host.Outcome.next ((State.mmio_of_reach hr _).trans (State.sqTailWrite_serving _ hp)), hs, hone, hw, hne, hk⟩
  case head =>
    refine ⟨_, congrArg Host.Outcome.next (mmio_modWindow hr _), .modWindow .., s.modWindow_one _ _ _, ?_⟩
    rw [State.window_modWindow]
    exact Window.writeCqHead_eq ..

end Sys2Proof.Machine
end

section
/-!
MMIO: a function-level reset, PERST_N and the window that is served again.
-/

namespace Sys2Proof.Machine

open Sys2Proof

/-! ## Maps -/

theorem swf_cons {α : Type} [DecidableEq α] {d : α} {x : Nat × α} {r : SMap α} (h : swf d (x :: r) = true) :
    x.2 ≠ d ∧ (∀ y ∈ r, x.1 < y.1) ∧ swf d r = true := by
  obtain ⟨h1, h2⟩ := (swf_iff _ _).1 h
  rw [List.pairwise_cons] at h2
  exact ⟨h1 x (by simp), h2.1, (swf_iff _ _).2 ⟨fun y hy => h1 y (by simp [hy]), h2.2⟩⟩

theorem sget_of_not_mem {α : Type} (d : α) {m : SMap α} {k : Nat} (h : ∀ y ∈ m, y.1 ≠ k) : sget d m k = d := by
  induction m with
  | nil => rfl
  | cons x r ih =>
    have hx : x.1 ≠ k := h x (by simp)
    have := ih fun y hy => h y (by simp [hy])
    simpa [sget, sfind?, hx] using this

/-- A map of every value, where the value of an absent key stays what it is. -/
theorem sget_smapAll_swf {α : Type} [DecidableEq α] {d : α} {f : Nat → α → α} {m : SMap α} (h : swf d m = true) (k : Nat)
    (hd : f k d = d) : sget d (smapAll d f m) k = f k (sget d m k) := by
  induction m with
  | nil => exact hd.symm
  | cons x r ih =>
    obtain ⟨j, v⟩ := x
    obtain ⟨-, hlt, hr⟩ := swf_cons h
    by_cases hk : j = k
    · subst hk
      have hr0 : sget d (smapAll d f r) j = d := by
        rw [ih hr, sget_of_not_mem d (fun y hy => (hlt y hy).ne'), hd]
      by_cases hv : f j v = d
      · rw [smapAll, if_pos hv, hr0]
        simp [sget, sfind?, hv]
      · rw [smapAll, if_neg hv]
        simp [sget, sfind?]
    · have e : sget d ((j, v) :: r) k = sget d r k := by simp [sget, sfind?, hk]
      rw [e, ← ih hr, smapAll]
      split
      · rfl
      · simp [sget, sfind?, hk]

/-! ## What the loss of completion records leaves of a partition -/

/-- Of a partition only the queue, its counts, and a changeover or park that ends with the queue may differ, and every request
left in the queue was there, marked before if it was. -/
def PartState.QueueKept (q r : PartState) : Prop :=
  r = { q with queue := r.queue, stats := r.stats, changeover := r.changeover, park := r.park } ∧
    ∀ x ∈ r.queue, ∃ y ∈ q.queue, x.die = y.die ∧ x.fn = y.fn ∧ (y.discard = true → x.discard = true)

theorem PartState.QueueKept.refl (q : PartState) : q.QueueKept q := ⟨rfl, fun x hx => ⟨x, hx, rfl, rfl, id⟩⟩

theorem PartState.QueueKept.trans {q r u : PartState} (a : q.QueueKept r) (b : r.QueueKept u) : q.QueueKept u := by
  refine ⟨by rw [b.1, a.1], fun x hx => ?_⟩
  obtain ⟨y, hy, hdy, hfy, hmy⟩ := b.2 x hx
  obtain ⟨z, hz, hdz, hfz, hmz⟩ := a.2 y hy
  exact ⟨z, hz, hdy.trans hdz, hfy.trans hfz, hmy ∘ hmz⟩

/-- A change that drops requests of the queue and marks none. -/
theorem PartState.QueueKept.of_subset {q r : PartState}
    (h : r = { q with queue := r.queue, stats := r.stats, changeover := r.changeover, park := r.park }) (hs : r.queue ⊆ q.queue) :
    q.QueueKept r := ⟨h, fun x hx => ⟨x, hs hx, rfl, rfl, id⟩⟩

def QueueKept (s t : State) : Prop := ∀ p, (s.part p).QueueKept (t.part p)

theorem QueueKept.refl (s : State) : QueueKept s s := fun _ => .refl _

theorem QueueKept.trans {s t u : State} (a : QueueKept s t) (b : QueueKept t u) : QueueKept s u := fun p => (a p).trans (b p)

theorem QueueKept.of_parts {s t : State} (h : t.parts = s.parts) : QueueKept s t := by
  intro p
  rw [State.part, State.part, h]
  exact .refl _

theorem QueueKept.ite {s a b : State} {c : Prop} [Decidable c] (ha : QueueKept s a) (hb : QueueKept s b) :
    QueueKept s (if c then a else b) := by
  split <;> assumption

theorem QueueKept.each {α : Type} {s : State} {f : State → α → State} (l : List α) (hf : ∀ t a, QueueKept t (f t a)) :
    QueueKept s (s.each l f) := by
  induction l generalizing s with
  | nil => exact .refl s
  | cons a r ih => exact (hf s a).trans ih

theorem State.modPart_queueKept (s : State) (p : Nat) (f : PartState → PartState) (hf : ∀ q : PartState, q.QueueKept (f q)) :
    QueueKept s (s.modPart p f) := by
  intro k
  by_cases hk : k = p
  · subst hk
    rw [State.part_modPart]
    exact hf _
  · rw [State.part_modPart_ne _ _ _ _ hk]
    exact .refl _

theorem State.parkDone_queueKept (s : State) (p : Nat) : QueueKept s (s.parkDone p) :=
  .ite (s.modPart_queueKept _ _ fun _ => .of_subset rfl fun _ => id) (.refl s)

theorem State.enterAll_queueKept (s : State) (l : List Nat) (aim : CState) : QueueKept s (s.enterAll l aim) :=
  .of_parts (State.enterAll_of (fd := .parts) s l aim (by decide))

theorem State.emptied_queueKept (s : State) (p : Nat) : QueueKept s (s.emptied p) := by
  unfold State.emptied
  extract_lets q t
  have ht : QueueKept s t := .ite (.refl s) (s.modPart_queueKept _ _ fun _ => .of_subset rfl fun _ => id)
  exact .ite (.ite (ht.trans ((t.enterAll_queueKept _ _).trans (State.parkDone_queueKept _ _))) ht) (.refl s)

theorem State.rest_queueKept (s : State) (p : Nat) : QueueKept s (s.rest p) :=
  .of_parts (State.rest_of (fd := .parts) s p (by decide))

theorem State.dequeue_queueKept (s : State) (p id : Nat) : QueueKept s (s.dequeue p id) :=
  ((s.modPart_queueKept _ _ fun _ => .of_subset rfl fun _ hx => List.mem_of_mem_filter hx).trans (State.rest_queueKept _ _)).trans (State.emptied_queueKept _ _)

theorem State.discarded_queueKept (s : State) (c : Compl) : QueueKept s (s.discarded c) := by
  unfold State.discarded
  extract_lets p t
  have ht : QueueKept s t := .ite (s.modPart_queueKept _ _ fun _ => .of_subset rfl fun _ => id) (.refl s)
  split
  · exact ht.trans (State.dequeue_queueKept _ _ _)
  · exact ht.trans (State.emptied_queueKept _ _)

theorem State.dropCompl_queueKept (s : State) (l : List Compl) : QueueKept s (s.dropCompl l) :=
  .each l State.discarded_queueKept

/-! ## The reset of one window -/

/-- Leases given back one after another, for listed slots. -/
theorem sget_releases (s : State) (key : Nat → Nat) (l : List Nat) (k : Nat) :
    sget 0#16 (s.each l fun t i => t.release 4 (key i)).leases k =
      if k ∈ l.map fun i => leaseKey 4 (key i) then 0#16 else sget 0#16 s.leases k := by
  induction l generalizing s with
  | nil => rfl
  | cons a r ih =>
    refine (ih _).trans ?_
    by_cases h : k = leaseKey 4 (key a)
    · subst h
      simp [State.release]
    · simp [h, State.release, sget_sdel_ne]

/-- Of its window a stop of the transfer in progress changes the transfer alone. -/
theorem State.stopTransfer_window (s : State) (h f : Nat) :
    OneWindow s (s.stopTransfer h f false) h f ∧
      (s.stopTransfer h f false).window h f = { s.window h f with dma := ((s.stopTransfer h f false).window h f).dma } := by
  unfold State.stopTransfer
  split
  · exact ⟨fun _ _ => rfl, rfl⟩
  · extract_lets n t u v
    have hv : v.windows = s.windows := by
      refine Eq.trans (b := u.windows) rfl ?_
      refine (State.dmaMove_of (fd := .windows) _ h f _ n _ (by decide)).trans ?_
      split <;> rfl
    clear_value v
    simp only [Bool.false_eq_true, if_false]
    refine ⟨fun k hk => ?_, ?_⟩
    · rw [State.modWindow_one _ _ _ _ _ hk, hv]
    · rw [State.window_modWindow, State.window, hv]
      rfl

theorem State.stopTransfer_idle {s : State} {h f : Nat} (hj : (s.window h f).dma.job = none) (b : Bool) : s.stopTransfer h f b = s := by
  unfold State.stopTransfer
  rw [hj]

/-- A function's requests marked, in every partition. -/
def PartState.markFor (h f : Nat) (q : PartState) : PartState :=
  { q with queue := q.queue.map fun r => if r.die.val = h ∧ r.fn.val = f then { r with discard := true } else r }

theorem PartState.markFor_queueKept (h f : Nat) (q : PartState) : q.QueueKept (q.markFor h f) := by
  refine ⟨rfl, fun x hx => ?_⟩
  obtain ⟨y, hy, rfl⟩ := List.mem_map.1 hx
  refine ⟨y, hy, ?_⟩
  split
  · exact ⟨rfl, rfl, fun _ => rfl⟩
  · exact ⟨rfl, rfl, id⟩

theorem PartState.markFor_marks {h f : Nat} {q : PartState} {x : Request} (hx : x ∈ (q.markFor h f).queue) (hd : x.die.val = h)
    (hf : x.fn.val = f) : x.discard = true := by
  obtain ⟨y, -, rfl⟩ := List.mem_map.1 hx
  by_cases hy : y.die.val = h ∧ y.fn.val = f
  · rw [if_pos hy]
  · rw [if_neg hy] at hd hf
    exact absurd ⟨hd, hf⟩ hy

/-- The window's leases given back and its unwritten records discarded. -/
def State.resetServed (s : State) (h f : Nat) : State :=
  let s := s.stopTransfer h f false
  let old := s.window h f
  (s.each ((List.range 32).filter old.busy.getLsbD) fun t i => t.release 4 (512 * h + 32 * f + i)).dropCompl old.compl

theorem State.resetWindow_eq (s : State) (h f : Nat) : s.resetWindow h f = { s.resetServed h f with
    longs := (s.resetServed h f).longs.map fun c => if c.die.val = h ∧ c.fn.val = f then { c with discard := true } else c
    parts := smapAll {} (fun _ q => q.markFor h f) (s.resetServed h f).parts
    windows := sput {} (16 * h + f) { majorXor := (s.resetServed h f).firmware.gmpMajor ^^^ 1#8 } (s.resetServed h f).windows } := rfl

theorem State.resetServed_of {fd : Fld} (s : State) (h f : Nat)
    (hfd : fd ∉ [.clusters, .hbm, .hostMem, .windows, .violCounts, .parts, .leases, .freeCount]) :
    fd.of (s.resetServed h f) = fd.of s := by
  simp only [List.mem_cons, not_or] at hfd
  unfold State.resetServed
  simp [hfd]

theorem State.resetServed_queueKept (s : State) (h f : Nat) : QueueKept s (s.resetServed h f) := by
  unfold State.resetServed
  refine QueueKept.trans (QueueKept.of_parts ?_) (State.dropCompl_queueKept _ _)
  refine Eq.trans (b := (s.stopTransfer h f false).parts) ?_ (State.stopTransfer_of (fd := .parts) s h f false (by decide))
  exact Fld.of_each (f := .parts) _ fun t i => State.release_of _ _ _ (by decide)

theorem State.resetServed_windows (s : State) (h f : Nat) : (s.resetServed h f).windows = (s.stopTransfer h f false).windows := by
  refine (State.dropCompl_of (fd := .windows) _ _ (by decide)).trans ?_
  exact Fld.of_each (f := .windows) _ fun t i => State.release_of _ _ _ (by decide)

theorem State.resetServed_canonical (s : State) (h f : Nat) (hc : s.canonical = true) : (s.resetServed h f).canonical = true := by
  refine (State.dropCompl_steady _ _).canon ?_
  refine (Steady.each (.refl _) _ fun t i => t.release_steady _ _).canon ?_
  exact (State.stopTransfer_steady _ _ _ _).canon hc

/-- The leases of the busy slots of the window are given back. -/
theorem State.lease_resetServed (s : State) (h f : Nat) {i : Nat} (hi : i < 32) (hb : (s.window h f).busy.getLsbD i = true) :
    (s.resetServed h f).lease 4 (512 * h + 32 * f + i) = 0x0FFF#16 := by
  have hold : ((s.stopTransfer h f false).window h f).busy = (s.window h f).busy := by rw [(s.stopTransfer_window h f).2]
  have hl : (s.resetServed h f).leases = _ := State.dropCompl_of (fd := .leases) _ _ (by decide)
  rw [State.lease, hl]
  show sget 0#16 (State.each _ _ _).leases _ ^^^ _ = _
  rw [sget_releases _ (fun i => 512 * h + 32 * f + i), if_pos]
  · rfl
  · exact List.mem_map_of_mem (List.mem_filter.2 ⟨List.mem_range.2 hi, by rw [hold]; exact hb⟩)

/-- Without a transfer in progress, no memory and no count differs. -/
def Still (s t : State) : Prop := t.hbm = s.hbm ∧ t.hostMem = s.hostMem ∧ t.violCounts = s.violCounts ∧ t.freeCount = s.freeCount

theorem Still.trans {s t u : State} (a : Still s t) (b : Still t u) : Still s u :=
  ⟨b.1.trans a.1, b.2.1.trans a.2.1, b.2.2.1.trans a.2.2.1, b.2.2.2.trans a.2.2.2⟩

theorem State.resetServed_still {s : State} {h f : Nat} (hj : (s.window h f).dma.job = none) : Still s (s.resetServed h f) := by
  have hof (fd : Fld) (h1 : fd ∉ [Fld.clusters, .parts]) (h2 : fd ∉ [Fld.leases]) : fd.of (s.resetServed h f) = fd.of s := by
    unfold State.resetServed
    rw [State.stopTransfer_idle hj]
    exact (State.dropCompl_of _ _ h1).trans (Fld.of_each _ fun t i => State.release_of _ _ _ h2)
  exact ⟨hof .hbm (by decide) (by decide), hof .hostMem (by decide) (by decide), hof .violCounts (by decide) (by decide),
    hof .freeCount (by decide) (by decide)⟩

/-- The window at its reset values, under the firmware's GMP major. -/
def State.blankWindow (s : State) : Window := { majorXor := s.firmware.gmpMajor ^^^ 1#8 }

def LongCmd.markFor (l : List Nat) (h : Nat) (c : LongCmd) : LongCmd := if c.die.val = h ∧ c.fn.val ∈ l then { c with discard := true } else c

/-- The windows of listed functions of a host die are reset. -/
structure WindowsReset (s t : State) (h : Nat) (l : List Nat) : Prop where
  fields : ∀ fd : Fld, fd ∉ [Fld.clusters, .hbm, .hostMem, .windows, .violCounts, .longs, .parts, .leases, .freeCount] → fd.of t = fd.of s
  queues : QueueKept s t
  canon : t.canonical = true
  blank : ∀ f ∈ l, t.window h f = s.blankWindow
  others : ∀ k, (∀ f ∈ l, k ≠ 16 * h + f) → sget {} t.windows k = sget {} s.windows k
  longs : t.longs = s.longs.map (LongCmd.markFor l h)
  marked : ∀ p, ∀ x ∈ (t.part p).queue, x.die.val = h → x.fn.val ∈ l → x.discard = true
  still : (∀ f ∈ l, (s.window h f).dma.job = none) → Still s t

theorem State.part_resetWindow (s : State) (h f p : Nat) (hc : s.canonical = true) :
    (s.resetWindow h f).part p = ((s.resetServed h f).part p).markFor h f :=
  sget_smapAll_swf ((canonical_iff _).1 (s.resetServed_canonical h f hc)).2.2.2.2.2.2.1 p rfl

theorem State.window_resetWindow (s : State) (h f : Nat) : (s.resetWindow h f).window h f = s.blankWindow := by
  have hfw : (s.resetServed h f).firmware = s.firmware := State.resetServed_of (fd := .firmware) s h f (by decide)
  rw [State.resetWindow_eq, State.blankWindow, ← hfw]
  exact sget_sput_same ..

theorem State.resetWindow_reset (s : State) (h f : Nat) (hc : s.canonical = true) : WindowsReset s (s.resetWindow h f) h [f] where
  fields fd hfd := State.resetWindow_of s h f hfd
  queues p := by
    rw [s.part_resetWindow h f p hc]
    exact (s.resetServed_queueKept h f p).trans (PartState.markFor_queueKept ..)
  canon := (s.resetWindow_steady h f).canon hc
  blank g hg := by
    obtain rfl := List.mem_singleton.1 hg
    exact s.window_resetWindow h g
  others k hk := by
    have hk : k ≠ 16 * h + f := hk f (by simp)
    rw [State.resetWindow_eq]
    refine (sget_sput_ne _ _ _ _ _ hk).trans ?_
    rw [State.resetServed_windows]
    exact (s.stopTransfer_window h f).1 k hk
  longs := by
    have hl : (s.resetServed h f).longs = s.longs := State.resetServed_of (fd := .longs) s h f (by decide)
    rw [State.resetWindow_eq, ← hl]
    exact List.map_congr_left fun c _ => if_congr (and_congr Iff.rfl List.mem_singleton.symm) rfl rfl
  marked p x hx hd hf := by
    rw [s.part_resetWindow h f p hc] at hx
    exact PartState.markFor_marks hx hd (List.mem_singleton.1 hf)
  still hj := State.resetServed_still (hj f (by simp))

theorem Fld.firmware_eq {s t : State} (h : Fld.of .firmware t = Fld.of .firmware s) : t.blankWindow = s.blankWindow := by
  have h : t.firmware = s.firmware := h
  rw [State.blankWindow, h, State.blankWindow]

theorem LongCmd.markFor_cons (a : Nat) (l : List Nat) (h : Nat) (c : LongCmd) :
    (c.markFor [a] h).markFor l h = c.markFor (a :: l) h := by
  unfold LongCmd.markFor
  by_cases hd : c.die.val = h <;> by_cases ha : c.fn.val = a <;> by_cases hl : c.fn.val ∈ l <;> simp [hd, ha, hl]

/-- The reset of one window, then of others. -/
theorem WindowsReset.cons {s t u : State} {h a : Nat} {l : List Nat} (x : WindowsReset s t h [a]) (y : WindowsReset t u h l) :
    WindowsReset s u h (a :: l) where
  fields fd hfd := (y.fields fd hfd).trans (x.fields fd hfd)
  queues := x.queues.trans y.queues
  canon := y.canon
  blank f hf := by
    have e : t.blankWindow = s.blankWindow := Fld.firmware_eq (x.fields .firmware (by decide))
    by_cases hl : f ∈ l
    · rw [y.blank f hl, e]
    · have ha : f = a := by simpa [hl] using hf
      subst ha
      refine Eq.trans (y.others _ fun g hg hk => ?_) (x.blank f (by simp))
      have : g = f := by omega
      exact hl (this ▸ hg)
  others k hk := (y.others k fun f hf => hk f (by simp [hf])).trans (x.others k fun f hf => hk f (by simp_all))
  longs := by
    rw [y.longs, x.longs, List.map_map]
    exact List.map_congr_left fun c _ => LongCmd.markFor_cons a l h c
  marked p r hr hd hf := by
    by_cases hl : r.fn.val ∈ l
    · exact y.marked p r hr hd hl
    · obtain ⟨q, hq, hdq, hfq, hm⟩ := (y.queues p).2 r hr
      refine hm (x.marked p q hq (hdq ▸ hd) ?_)
      rw [← hfq]
      simpa [hl] using hf
  still hj := by
    refine (x.still fun f hf => hj f (by simp_all)).trans (y.still fun f hf => ?_)
    by_cases ha : f = a
    · subst ha
      rw [x.blank f (by simp)]
      rfl
    · have e : t.window h f = s.window h f := x.others _ fun g hg => by simp at hg; omega
      rw [e]
      exact hj f (by simp [hf])

theorem WindowsReset.nil {s : State} (h : Nat) (hc : s.canonical = true) : WindowsReset s s h [] where
  fields _ _ := rfl
  queues := .refl s
  canon := hc
  blank _ hf := by cases hf
  others _ _ := rfl
  longs := by
    rw [show LongCmd.markFor [] h = id from funext fun c => if_neg (by simp), List.map_id]
  marked _ _ _ _ hf := by cases hf
  still _ := ⟨rfl, rfl, rfl, rfl⟩

theorem State.resetWindows_reset (s : State) (h : Nat) (l : List Nat) (hc : s.canonical = true) :
    WindowsReset s (s.each l fun t f => t.resetWindow h f) h l := by
  induction l generalizing s with
  | nil => exact .nil h hc
  | cons a r ih =>
    have hx := s.resetWindow_reset h a hc
    exact hx.cons (ih _ hx.canon)

theorem LongCmd.markFor_fn {die : Die} {fn : Fn} : LongCmd.markFor [fn.val] die.val =
    fun c : LongCmd => if c.die = die ∧ c.fn = fn then { c with discard := true } else c := by
  funext c
  exact if_congr (by rw [Fin.ext_iff, Fin.ext_iff, List.mem_singleton]) rfl rfl

theorem LongCmd.markFor_die {die : Die} : LongCmd.markFor (List.range 16) die.val =
    fun c : LongCmd => if c.die = die then { c with discard := true } else c := by
  funext c
  exact if_congr (by simp [Fin.ext_iff]) rfl rfl

/-- What a reset of windows leaves alone, as one equation. -/
theorem WindowsReset.frame {s t : State} {h : Nat} {l : List Nat} (x : WindowsReset s t h l) :
    (t = { s with windows := t.windows, leases := t.leases, longs := t.longs, parts := t.parts, clusters := t.clusters
                  hbm := t.hbm, hostMem := t.hostMem, violCounts := t.violCounts, freeCount := t.freeCount, perst := t.perst }) ∧
      ∀ p, t.part p = { s.part p with queue := (t.part p).queue, stats := (t.part p).stats, changeover := (t.part p).changeover
                                      park := (t.part p).park } := by
  refine ⟨?_, fun p => (x.queues p).1⟩
  have hL : ∀ fd : Fld, fd ∉ [Fld.clusters, .hbm, .hostMem, .windows, .violCounts, .longs, .parts, .leases, .freeCount, .perst] →
      fd.of t = fd.of s := fun fd hfd => x.fields fd fun hm => hfd (by simp at hm ⊢; tauto)
  exact State.eq_patch _ hL

/-- Settles O9. -/
theorem functionReset : Obligations.FunctionReset := by
  unfold Obligations.FunctionReset
  intro die fn low s hc blank level frame still
  refine ⟨fun hup => ?flr, fun hup => ?perst, fun hdown => ?down, fun hsup hr => ?ready⟩
  case flr =>
    have hx := s.resetWindow_reset die.val fn.val hc
    refine ⟨_, congrArg Host.Outcome.next (if_pos hup), hx.frame, hx.fields .perst (by decide), fun k hk => hx.others k (by simpa using hk),
      hx.blank _ (by simp), fun i hi hb => ?_, ?_, fun p x hxq hd hf => ?_, fun hj => hx.still (by simpa using hj)⟩
    · have hl : (s.resetWindow die.val fn.val).leases = (s.resetServed die.val fn.val).leases := by rw [State.resetWindow_eq]
      rw [State.lease, hl]
      exact s.lease_resetServed die.val fn.val hi hb
    · rw [hx.longs, LongCmd.markFor_fn]
    · exact hx.marked p x hxq (by rw [hd]) (by simp [hf])
  case perst =>
    let t : State := { s with perst := level }
    have hx := t.resetWindows_reset die.val (List.range 16) hc
    have hf := hx.frame
    refine ⟨_, congrArg Host.Outcome.next (if_pos hup), ⟨?_, hf.2⟩, hx.fields .perst (by decide), fun f hf => hx.blank f (by simpa using hf),
      fun k hk => hx.others k fun f hf => ?_, ?_, fun p x hxq hd => ?_, fun hj => hx.still fun f hf => hj f (by simpa using hf)⟩
    · exact hf.1
    · have := List.mem_range.1 hf
      omega
    · rw [hx.longs, LongCmd.markFor_die]
    · exact hx.marked p x hxq (by rw [hd]) (by simp)
  case down => exact congrArg Host.Outcome.next (if_neg (by simp [hdown]))
  case ready =>
    obtain ⟨hup, hopen⟩ := (s.reach_iff _ _).1 hr
    exact ⟨_, congrArg Host.Outcome.next (if_pos (by simp [hsup, hup, hopen])), .modWindow .., s.modWindow_one _ _ _,
      State.window_modWindow ..⟩

end Sys2Proof.Machine
end

section
/-!
Mailbox commands that read: the message each answers, and that nothing else differs.
-/

namespace Sys2Proof.Machine

open Sys2Proof

/-! ## Taking and answering -/

/-- A command that passes the shared checks runs its own rule with its slot taken. -/
theorem State.serve_passes {s : State} {h f i : Nat} {row : CmdRow} {act : State → Cmd → State}
    (ho : s.offers h f i row.code (row.need (s.readCmd h f i)) = true) (hm : row.mine (s.readCmd h f i) = true)
    (hs : s.serves row.code = true) (hp : row.p0 = true → f = 0) (hn : row.named = true → s.mayName (s.readCmd h f i) = true)
    (hc : row.changes = true → s.ruled = true) (hl : row.long = true → s.longRoom f = true) :
    s.serve h f i row act = act (s.take (s.readCmd h f i)) (s.readCmd h f i) :=
  State.serve_runs _ _ _ _ _ _ ho hm (State.refusal_none s h f i row ho hp hn hs hc hl)

/-- A taken slot with its messages, whatever else the command's rule did. -/
theorem Took.answer {s v : State} {c : Cmd} (hw : v.windows = (s.take c).windows) (hl : v.leases = (s.take c).leases) (st : Nat)
    (payload : Bytes) : Took s (v.answer c st payload) c.die c.fn c.slot [c.msg true st payload] := by
  refine Took.of s _ c _ (fun k => ?_) hl
  rw [State.answer_eq, State.modWindow, hw]
  rfl

theorem Took.acceptDone {s v : State} {c : Cmd} (hw : v.windows = (s.take c).windows) (hl : v.leases = (s.take c).leases) (st : Nat)
    (payload : Bytes) : Took s (v.acceptDone c st payload) c.die c.fn c.slot [c.msg false stAccepted [], c.msg true st payload] := by
  obtain ⟨-, h⟩ := State.acceptDone_answered s c st payload
  have ew : (v.acceptDone c st payload).windows = ((s.take c).acceptDone c st payload).windows := by
    unfold State.acceptDone State.answer
    rw [State.reply_eq, State.reply_eq, State.reply_eq, State.reply_eq]
    unfold State.modWindow
    rw [hw]
  have el : (v.acceptDone c st payload).leases = ((s.take c).acceptDone c st payload).leases := hl
  unfold Took OneWindow OneLease State.window State.lease at h ⊢
  rw [ew, el]
  exact h

theorem State.modPart_one (s : State) (p : Nat) (f : PartState → PartState) : OnePart s (s.modPart p f) p :=
  fun k hk => s.part_modPart_ne p k f hk

/-- Engine states serve the commands that Table 9.7 names for each. -/
theorem State.serves_of_e0 {s : State} (h : s.estate = .e0) (code : Nat) : s.serves code = true := by
  rw [State.serves_eq, h]
  rfl

theorem State.serves_always (s : State) {code : Nat} (h : code ∈ [0x01, 0x02, 0x12, 0x31, 0x70, 0x80]) : s.serves code = true := by
  rw [State.serves_eq]
  simp only [List.mem_cons, List.not_mem_nil, or_false] at h
  rcases h with rfl | rfl | rfl | rfl | rfl | rfl <;> cases s.estate <;> rfl

/-! ## The reading commands -/

section
variable {die : Die} {fn : Fn} {slot : Fin 32} {s : State}

theorem exec_engineInfo (ho : s.offers die.val fn.val slot.val 0x01 0 = true) :
    exec (.engineInfo die fn slot) s = .next ((s.take (s.readCmd die.val fn.val slot.val)).answer (s.readCmd die.val fn.val slot.val) stOk
      (s.infoBytes s.et die.val fn.val)) :=
  congrArg Host.Outcome.next (State.serve_passes ho rfl (s.serves_always (by decide)) (by simp) (by simp) (by simp) (by simp))

theorem exec_engineState (ho : s.offers die.val fn.val slot.val 0x02 0 = true) :
    exec (.engineState die fn slot) s = .next ((s.take (s.readCmd die.val fn.val slot.val)).answer (s.readCmd die.val fn.val slot.val) stOk
      (s.engineRecord fn.val 0)) :=
  congrArg Host.Outcome.next (State.serve_passes ho rfl (s.serves_always (by decide)) (by simp) (by simp) (by simp) (by simp))

theorem exec_partQuery (ho : s.offers die.val fn.val slot.val 0x12 2 = true) (hn : s.mayName (s.readCmd die.val fn.val slot.val) = true) :
    exec (.partQuery die fn slot) s = .next ((s.take (s.readCmd die.val fn.val slot.val)).partQuery (s.readCmd die.val fn.val slot.val)) :=
  congrArg Host.Outcome.next (State.serve_passes ho rfl (s.serves_always (by decide)) (by simp) (fun _ => hn) (by simp) (by simp))

theorem exec_reserved (ht : s.canTake die.val fn.val slot.val = true) (hc : (s.readCmd die.val fn.val slot.val).code ∉ gmpCodes) :
    exec (.commandReservedCode die fn slot) s =
      .next ((s.take (s.readCmd die.val fn.val slot.val)).answer (s.readCmd die.val fn.val slot.val) stBadArg) :=
  congrArg Host.Outcome.next (if_pos (by simpa [ht] using hc))

theorem exec_queueStats (ho : s.offers die.val fn.val slot.val 0x31 2 = true) (hn : s.mayName (s.readCmd die.val fn.val slot.val) = true) :
    exec (.queueStats die fn slot) s = .next ((s.take (s.readCmd die.val fn.val slot.val)).queueStats (s.readCmd die.val fn.val slot.val)) :=
  congrArg Host.Outcome.next (State.serve_passes ho rfl (s.serves_always (by decide)) (by simp) (fun _ => hn) (by simp) (by simp))

theorem exec_maintWindowRead (ho : s.offers die.val fn.val slot.val 0x42 1 = true) (hf : fn = 0) (he : s.estate = .e0)
    (h0 : (s.readCmd die.val fn.val slot.val).at 0 1 = 0) :
    exec (.maintWindowRead die fn slot) s = .next ((s.take (s.readCmd die.val fn.val slot.val)).answer (s.readCmd die.val fn.val slot.val)
      stOk s.maintBytes) := by
  refine congrArg Host.Outcome.next (Eq.trans (State.serve_passes ?_ ?_ (State.serves_of_e0 he _) (by simp [hf]) (by simp) (by simp)
    (by simp)) ?_)
  · simpa [maintNeed, h0] using ho
  · simp [picks, h0]
  · simp only [State.maintOp, h0]
    rfl

theorem exec_powerPolicyRead (ho : s.offers die.val fn.val slot.val 0x50 1 = true) (hf : fn = 0) (he : s.estate = .e0)
    (h0 : (s.readCmd die.val fn.val slot.val).at 0 1 = 0) :
    exec (.powerPolicyRead die fn slot) s = .next ((s.take (s.readCmd die.val fn.val slot.val)).answer (s.readCmd die.val fn.val slot.val)
      stOk s.policyBytes) := by
  refine congrArg Host.Outcome.next (Eq.trans (State.serve_passes ?_ ?_ (State.serves_of_e0 he _) (by simp [hf]) (by simp) (by simp)
    (by simp)) ?_)
  · simpa [h0] using ho
  · simp [picks, h0]
  · simp only [h0]
    rfl

theorem exec_powerIdleQuery (ho : s.offers die.val fn.val slot.val 0x51 2 = true) (he : s.estate = .e0)
    (hn : s.mayName (s.readCmd die.val fn.val slot.val) = true) (h0 : (s.readCmd die.val fn.val slot.val).at 1 1 = 0) :
    exec (.powerIdleQuery die fn slot) s = .next (if (s.part (s.readCmd die.val fn.val slot.val).named).cfg.w = 0
      then (s.take (s.readCmd die.val fn.val slot.val)).answer (s.readCmd die.val fn.val slot.val) stBadArg []
      else (s.take (s.readCmd die.val fn.val slot.val)).answer (s.readCmd die.val fn.val slot.val) stOk
        (s.idleBytes (s.readCmd die.val fn.val slot.val).named)) := by
  refine congrArg Host.Outcome.next (Eq.trans (State.serve_passes ?_ ?_ (State.serves_of_e0 he _) (by simp [idleRow]) (fun _ => hn)
    (by simp [idleRow]) (by simp [idleRow])) ?_)
  · simpa [idleRow, h0] using ho
  · simp [idleRow, picks, h0]
  · refine if_congr ?_ rfl rfl
    rw [h0]
    simp
    rfl

theorem exec_linkStateSummary (ho : s.offers die.val fn.val slot.val 0x80 2 = true)
    (h0 : (s.readCmd die.val fn.val slot.val).at 1 1 = 0xFF) :
    exec (.linkStateSummary die fn slot) s = .next ((s.take (s.readCmd die.val fn.val slot.val)).answer
      (s.readCmd die.val fn.val slot.val) stOk (s.linkSummary fn.val)) := by
  have hlen : 2 ≤ (s.readCmd die.val fn.val slot.val).len := ((State.offers_iff ..).1 ho).2.2.2.1
  refine congrArg Host.Outcome.next (Eq.trans (State.serve_passes ?_ ?_ (s.serves_always (by decide)) (by simp) (by simp) (by simp)
    (by simp)) ?_)
  · simpa [linkNeed, h0] using ho
  · simp [h0]
  · refine Eq.trans (if_neg ?_) rfl
    simp [linkBad, h0]
    omega

theorem exec_linkStateDie (ho : s.offers die.val fn.val slot.val 0x80 2 = true)
    (h0 : (s.readCmd die.val fn.val slot.val).at 1 1 < 0xFE) :
    exec (.linkStateDie die fn slot) s = .next (
      if 16 ≤ (s.readCmd die.val fn.val slot.val).at 1 1 then
        (s.take (s.readCmd die.val fn.val slot.val)).answer (s.readCmd die.val fn.val slot.val) stBadArg []
      else if s.seesDie fn.val ((s.readCmd die.val fn.val slot.val).at 1 1) = true then
        (s.take (s.readCmd die.val fn.val slot.val)).answer (s.readCmd die.val fn.val slot.val) stOk
          (s.linkDieBytes ((s.readCmd die.val fn.val slot.val).at 1 1))
      else (s.take (s.readCmd die.val fn.val slot.val)).answer (s.readCmd die.val fn.val slot.val) stDenied []) := by
  have hlen : 2 ≤ (s.readCmd die.val fn.val slot.val).len := ((State.offers_iff ..).1 ho).2.2.2.1
  have hbad : linkBad (s.readCmd die.val fn.val slot.val) = true ↔ 16 ≤ (s.readCmd die.val fn.val slot.val).at 1 1 := by
    simp [linkBad]
    omega
  refine congrArg Host.Outcome.next (Eq.trans (State.serve_passes ?_ ?_ (s.serves_always (by decide)) (by simp) (by simp) (by simp)
    (by simp)) ?_)
  · simpa [linkNeed, h0.ne] using ho
  · simp [linkBad]
    omega
  · exact if_congr hbad rfl rfl

/-- QUEUE.STATS answers the counts, and clears them when its clear bit asks for it. -/
theorem queueStats_took (c : Cmd) :
    let t := (s.take c).queueStats c
    t = { s with windows := t.windows, leases := t.leases, parts := t.parts } ∧
      Took s t c.die c.fn c.slot [c.msg true stOk (s.statsBytes c.named c.die)] ∧ OnePart s t c.named ∧
      t.part c.named = if c.at 1 1 % 2 = 1 then { s.part c.named with stats := {} } else s.part c.named := by
  have h := State.answer_answered s c stOk (s.statsBytes c.named c.die)
  obtain ⟨hs, ht⟩ := h
  have hparts : ((s.take c).answer c stOk (s.statsBytes c.named c.die)).parts = s.parts := rfl
  have e : (s.take c).queueStats c = if c.at 1 1 % 2 = 1 then
      ((s.take c).answer c stOk (s.statsBytes c.named c.die)).modPart c.named fun q => { q with stats := {} }
      else (s.take c).answer c stOk (s.statsBytes c.named c.die) := rfl
  generalize (s.take c).answer c stOk (s.statsBytes c.named c.die) = u at hs ht hparts e
  dsimp only
  rw [e]
  by_cases hclear : c.at 1 1 % 2 = 1
  · rw [if_pos hclear, if_pos hclear]
    refine ⟨?_, ht, fun k hk => ?_, ?_⟩
    · exact State.eq_patch [.windows, .leases, .parts] fun fd hfd => by
        refine Eq.trans (State.modPart_of _ _ _ (by simp at hfd ⊢; tauto)) ?_
        rw [hs]
        exact Fld.of_upd (L := [.windows, .leases]) rfl (by simp at hfd ⊢; tauto)
    · rw [← hparts]
      exact u.modPart_one _ _ k hk
    · rw [State.part_modPart, State.part, hparts]
      rfl
  · rw [if_neg hclear, if_neg hclear]
    refine ⟨?_, ht, fun k _ => by rw [hparts], ?_⟩
    · rw [hparts]
      exact hs
    · rw [State.part, hparts]
      rfl

end

/-- Settles O10. -/
theorem engineReads : Obligations.EngineReads := by
  unfold Obligations.EngineReads
  refine ⟨fun die fn slot s => ⟨fun ho => ⟨_, exec_engineInfo ho, s.answer_answered ..⟩, fun ho => ⟨_, exec_engineState ho, s.answer_answered ..⟩,
    fun ho hn => ⟨_, exec_partQuery ho hn, ?query⟩, fun ht hc => ⟨_, exec_reserved ht hc, s.answer_answered ..⟩⟩,
    fun die fn slot s => fun ho hn => ⟨_, exec_queueStats ho hn, queueStats_took _⟩, fun die fn slot s => ⟨fun ho hf he h0 => ⟨_,
      exec_maintWindowRead ho hf he h0, s.answer_answered ..⟩, fun ho hf he h0 => ⟨_, exec_powerPolicyRead ho hf he h0, s.answer_answered ..⟩,
      fun ho he hn h0 => ⟨_, exec_powerIdleQuery ho he hn h0, ?idle⟩, fun ho h0 => ⟨_, exec_linkStateSummary ho h0, s.answer_answered ..⟩,
      fun ho h0 => ⟨_, exec_linkStateDie ho h0, ?die⟩⟩⟩
  case query =>
    unfold State.partQuery
    split <;> exact s.answer_answered ..
  case idle => split <;> exact s.answer_answered ..
  case die =>
    split
    · exact s.answer_answered ..
    · split <;> exact s.answer_answered ..

end Sys2Proof.Machine
end

section
/-!
Long mailbox commands that only read: ACCEPTED and the final message at once.
-/

namespace Sys2Proof.Machine

open Sys2Proof

/-! ## Slices -/

theorem slice_slice (b : Bytes) (o n p k : Nat) (h : p + k ≤ n) : slice (slice b o n) p k = slice b (o + p) k := by
  have hd (m q j : Nat) (hj : j < m) : (slice b q m).getD j 0#8 = b.getD (q + j) 0#8 := by
    induction m generalizing q j with
    | zero => omega
    | succ m ih =>
      cases j with
      | zero => rfl
      | succ j =>
        rw [slice, List.getD_cons_succ, ih _ _ (by omega)]
        congr 1
        omega
  induction k generalizing p with
  | zero => rfl
  | succ k ih =>
    rw [slice, slice, hd n o p (by omega), ih (p + 1) (by omega)]
    rfl

theorem field_slice (b : Bytes) (o n p k : Nat) (h : p + k ≤ n) : field (slice b o n) p k = field b (o + p) k := by
  rw [field, field, slice_slice b o n p k h]

section
variable {die : Die} {fn : Fn} {slot : Fin 32} {s : State}

theorem exec_collGroupStatus (ho : s.offers die.val fn.val slot.val 0x82 3 = true) (he : s.estate = .e0) (hr : s.ruled = true)
    (hl : s.longRoom fn.val = true) (hn : s.mayName (s.readCmd die.val fn.val slot.val) = true)
    (h1 : (s.readCmd die.val fn.val slot.val).at 1 1 = 2) (h2 : (s.readCmd die.val fn.val slot.val).at 2 1 < 8) :
    exec (.collGroupStatus die fn slot) s = .next ((s.take (s.readCmd die.val fn.val slot.val)).acceptDone
      (s.readCmd die.val fn.val slot.val) stOk
        (toLe 1 ((s.part (s.readCmd die.val fn.val slot.val).named).groups.foldl (fun a g => a + bit g.2.joined g.1) 0))) := by
  refine congrArg Host.Outcome.next (Eq.trans (State.serve_passes ?_ ?_ (State.serves_of_e0 he _) (by simp) (fun _ => hn) (fun _ => hr)
    (fun _ => hl)) ?_)
  · simpa [groupNeed, h1] using ho
  · simp [picks, h1]
  · exact if_neg (by omega)

theorem exec_fwUpdateStatus (ho : s.offers die.val fn.val slot.val 0x90 1 = true) (hf : fn = 0) (he : s.estate = .e0 ∨ s.estate = .e2)
    (hl : s.longRoom fn.val = true) (h0 : (s.readCmd die.val fn.val slot.val).at 0 1 = 1) (hj : s.fwJob = none) :
    exec (.fwUpdateStatus die fn slot) s = .next ((s.take (s.readCmd die.val fn.val slot.val)).drew.acceptDone
      (s.readCmd die.val fn.val slot.val) stOk s.updateBytes) := by
  refine congrArg Host.Outcome.next (Eq.trans (State.serve_passes ?_ ?_ ?_ (by simp [hf]) (by simp [updateRow]) (by simp [updateRow])
    (fun _ => hl)) ?_)
  · simpa [updateRow, updateNeed, h0] using ho
  · simp [updateRow, picks, h0]
  · rw [State.serves_eq]
    rcases he with he | he <;> rw [he] <;> rfl
  · have hj : (s.take (s.readCmd die.val fn.val slot.val)).fwJob = none := hj
    simp only [h0, hj]
    rfl

theorem exec_faultLog {lost : Bool} (ho : s.offers die.val fn.val slot.val 0x70 0x1C = true) (hl : s.longRoom fn.val = true) :
    exec (.faultLog die fn ⟨slot, lost⟩) s = .next ((s.take (s.readCmd die.val fn.val slot.val)).faultLog
      (s.readCmd die.val fn.val slot.val) lost) :=
  congrArg Host.Outcome.next (State.serve_passes ho rfl (s.serves_always (by decide)) (by simp) (by simp) (by simp) (fun _ => hl))

end

/-! ## A report in host memory (R237) -/

/-- A report goes where its descriptor says, as much as the buffer takes, and nothing at all where the host rejects it. -/
theorem State.report_eq (s : State) (h : Nat) (desc body : Bytes) (lost : Bool) :
    s.report h desc body lost = { s with hostMem := (s.report h desc body lost).hostMem } :=
  State.eq_patch [.hostMem] fun fd hfd => State.report_of s h desc body lost hfd

theorem State.report_reads (s : State) (h : Nat) (desc body : Bytes) (lost : Bool) :
    let base := 18446744073709551616 * h + field desc 0 8
    let n := if lost then 0 else Nat.min (field desc 8 4) body.length
    (∀ i, i < n → mread (s.report h desc body lost).hostMem (base + i) = body.getD i 0#8) ∧
      ∀ a, (a < base ∨ base + n ≤ a) → mread (s.report h desc body lost).hostMem a = mread s.hostMem a := by
  intro base n
  cases lost with
  | true =>
    have e : s.report h desc body true = s := if_pos (by simp)
    rw [e]
    exact ⟨fun i hi => by simp [n] at hi, fun _ _ => rfl⟩
  | false =>
    have hlen : (body.take (field desc 8 4)).length = n := by simp [n]
    by_cases hz : field desc 8 4 = 0
    · have e : s.report h desc body false = s := if_pos (by simp [hz])
      rw [e]
      exact ⟨fun i hi => by simp [n, hz] at hi, fun _ _ => rfl⟩
    · have e : (s.report h desc body false).hostMem = mwrites base (body.take (field desc 8 4)) s.hostMem := by
        rw [State.report, if_neg (by simp [hz])]
        rfl
      rw [e]
      refine ⟨fun i hi => ?_, fun a ha => mread_mwrites_out _ _ _ _ (by rw [hlen]; exact ha)⟩
      have hi' : i < (body.take (field desc 8 4)).length := hlen ▸ hi
      rw [mread_mwrites_in _ _ _ _ hi', List.getElem_take, List.getD_eq_getElem]

theorem State.acceptDone_of_windows (s : State) (c : Cmd) (st : Nat) (b : Bytes) :
    s.acceptDone c st b = { s with windows := (s.acceptDone c st b).windows } :=
  State.eq_patch [.windows] fun _ hfd => State.acceptDone_of s c st b hfd

/-- FW.UPDATE's status draws on what the model leaves open once. -/
theorem updateStatus_took (s : State) (c : Cmd) (b : Bytes) :
    let t := (s.take c).drew.acceptDone c stOk b
    t = { s with windows := t.windows, leases := t.leases, freeCount := s.freeCount + 1 } ∧
      Took s t c.die c.fn c.slot [c.msg false stAccepted [], c.msg true stOk b] := by
  refine ⟨?_, Took.acceptDone (v := (s.take c).drew) rfl rfl stOk b⟩
  rw [State.acceptDone_of_windows]
  rfl

/-- A report that is written while a command is taken, and the command's messages. -/
theorem report_took {s u : State} {c : Cmd} (hu : u = { s.take c with hostMem := u.hostMem }) (b : Bytes) :
    let t := u.acceptDone c stOk b
    t = { s with windows := t.windows, leases := t.leases, hostMem := t.hostMem } ∧
      Took s t c.die c.fn c.slot [c.msg false stAccepted [], c.msg true stOk b] ∧ t.hostMem = u.hostMem := by
  refine ⟨?_, Took.acceptDone (by rw [hu]) (by rw [hu]) _ _, State.acceptDone_of (fd := .hostMem) u c stOk b (by decide)⟩
  rw [State.acceptDone_of_windows, hu]
  rfl

theorem State.newestSeq_congr {s t : State} (h : t.faults = s.faults) : t.newestSeq = s.newestSeq := by
  rw [State.newestSeq, h, State.newestSeq]

theorem State.logReport_take (s : State) (c : Cmd) : (s.take c).logReport c = s.logReport c := rfl

/-- FAULT.LOG writes its report and answers. -/
theorem faultLog_took (s : State) (c : Cmd) (lost : Bool) :
    let body := s.logReport c
    let base := 18446744073709551616 * c.die + c.at 8 8
    let n := if lost then 0 else Nat.min (c.at 16 4) body.length
    let t := (s.take c).faultLog c lost
    t = { s with windows := t.windows, leases := t.leases, hostMem := t.hostMem } ∧
      Took s t c.die c.fn c.slot [c.msg false stAccepted [], c.msg true stOk (toLe 4 body.length ++ toLe 4 s.newestSeq)] ∧
      (∀ i, i < n → mread t.hostMem (base + i) = body.getD i 0#8) ∧
      ∀ a, (a < base ∨ base + n ≤ a) → mread t.hostMem a = mread s.hostMem a := by
  have hdst : field (slice c.payload 8 16) 0 8 = c.at 8 8 := field_slice _ _ _ _ _ (by omega)
  have hlen : field (slice c.payload 8 16) 8 4 = c.at 16 4 := field_slice _ _ _ _ _ (by omega)
  have hnew : (s.take c).newestSeq = s.newestSeq := State.newestSeq_congr rfl
  have hreads := State.report_reads (s.take c) c.die (slice c.payload 8 16) (s.logReport c) lost
  have htook := report_took (State.report_eq (s.take c) c.die (slice c.payload 8 16) (s.logReport c) lost)
    (toLe 4 (s.logReport c).length ++ toLe 4 s.newestSeq)
  have ht : (s.take c).faultLog c lost = ((s.take c).report c.die (slice c.payload 8 16) (s.logReport c) lost).acceptDone c stOk
      (toLe 4 (s.logReport c).length ++ toLe 4 s.newestSeq) := by
    rw [State.faultLog, State.logReport_take, hnew]
  obtain ⟨hframe, hmsgs, hmem⟩ := htook
  rw [hdst, hlen] at hreads
  rw [ht]
  refine ⟨hframe, hmsgs, ?_⟩
  rw [hmem]
  exact hreads

/-- Settles O11. -/
theorem longReads : Obligations.LongReads := by
  unfold Obligations.LongReads
  intro die fn slot lost s
  exact ⟨fun ho he hr hl hn h1 h2 => ⟨_, exec_collGroupStatus ho he hr hl hn h1 h2, s.acceptDone_answered ..⟩,
    fun ho hf he hl h0 hj => ⟨_, exec_fwUpdateStatus ho hf he hl h0 hj, updateStatus_took ..⟩,
    fun ho hl => ⟨_, exec_faultLog ho hl, faultLog_took ..⟩⟩

end Sys2Proof.Machine
end

section
/-!
Long mailbox commands that stay open once their checks pass.
-/

namespace Sys2Proof.Machine

open Sys2Proof

theorem Took.accept {s v : State} {c : Cmd} (hw : v.windows = (s.take c).windows) (hl : v.leases = (s.take c).leases) (p st : Nat)
    (payload : Bytes) : Took s (v.accept c p st payload) c.die c.fn c.slot [c.msg false st payload] := by
  refine Took.of s _ c _ (fun k => ?_) hl
  rw [State.accept_eq, State.modWindow, hw]
  rfl

/-- A command that is accepted with its slot taken is open, and nothing else differs. -/
theorem State.accept_opened (s : State) (h f i p st : Nat) (payload : Bytes) :
    Opened s ((s.take (s.readCmd h f i)).accept (s.readCmd h f i) p st payload) h f i p st payload := by
  generalize hc : s.readCmd h f i = c
  obtain ⟨rfl, rfl, rfl⟩ : h = c.die ∧ f = c.fn ∧ i = c.slot := by
    rw [← hc]
    exact ⟨rfl, rfl, rfl⟩
  refine ⟨?_, by rw [hc]; exact Took.accept rfl rfl p st payload⟩
  rw [hc, State.accept_eq, State.take_mod]
  rfl

theorem State.readCmd_congr {s t : State} (hw : t.windows = s.windows) (h f i : Nat) : t.readCmd h f i = s.readCmd h f i := by
  unfold State.readCmd State.window
  rw [hw]

/-- A command whose rule, on the state with its slot taken, changes fields and accepts it. -/
theorem State.serve_opens {s s' : State} {h f i p : Nat} {row : CmdRow} {act : State → Cmd → State}
    (ho : s.offers h f i row.code (row.need (s.readCmd h f i)) = true) (hm : row.mine (s.readCmd h f i) = true)
    (hs : s.serves row.code = true) (hp : row.p0 = true → f = 0) (hn : row.named = true → s.mayName (s.readCmd h f i) = true)
    (hc : row.changes = true → s.ruled = true) (hl : row.long = true → s.longRoom f = true) (hcmd : s'.windows = s.windows)
    (hact : act (s.take (s.readCmd h f i)) (s.readCmd h f i) = (s'.take (s.readCmd h f i)).accept (s.readCmd h f i) p) :
    Opened s' (s.serve h f i row act) h f i p stAccepted [] := by
  rw [State.serve_passes ho hm hs hp hn hc hl, hact, ← State.readCmd_congr hcmd]
  exact s'.accept_opened h f i p stAccepted []

/-- A command whose rule, on the state with its slot taken, changes fields and answers it. -/
theorem State.serve_answers {s s' : State} {h f i st : Nat} {b : Bytes} {row : CmdRow} {act : State → Cmd → State}
    (ho : s.offers h f i row.code (row.need (s.readCmd h f i)) = true) (hm : row.mine (s.readCmd h f i) = true)
    (hs : s.serves row.code = true) (hp : row.p0 = true → f = 0) (hn : row.named = true → s.mayName (s.readCmd h f i) = true)
    (hc : row.changes = true → s.ruled = true) (hl : row.long = true → s.longRoom f = true) (hcmd : s'.windows = s.windows)
    (hact : act (s.take (s.readCmd h f i)) (s.readCmd h f i) = (s'.take (s.readCmd h f i)).answer (s.readCmd h f i) st b) :
    Answered s' (s.serve h f i row act) h f i [(s.readCmd h f i).msg true st b] := by
  rw [State.serve_passes ho hm hs hp hn hc hl, hact, ← State.readCmd_congr hcmd]
  exact s'.answer_answered (s'.readCmd h f i) st b

section
variable {die : Die} {fn : Fn} {slot : Fin 32} {s : State} (he : s.estate = .e0) (hr : s.ruled = true)
  (hl : s.longRoom fn.val = true)
include he hr hl

theorem exec_planLoad_opens (ho : s.offers die.val fn.val slot.val 0x20 20 = true)
    (hn : s.mayName (s.readCmd die.val fn.val slot.val) = true) : ∃ t, exec (.planLoad die fn slot) s = .next t ∧
      Opened s t die.val fn.val slot.val (s.readCmd die.val fn.val slot.val).named stAccepted [] :=
  ⟨_, rfl, State.serve_opens ho rfl (State.serves_of_e0 he _) (by simp) (fun _ => hn) (fun _ => hr) (fun _ => hl) rfl rfl⟩

theorem exec_planBind_opens (ho : s.offers die.val fn.val slot.val 0x22 24 = true)
    (hn : s.mayName (s.readCmd die.val fn.val slot.val) = true)
    (hq : (s.part (s.readCmd die.val fn.val slot.val).named).queue = []) (hrun : (s.part (s.readCmd die.val fn.val slot.val).named).run = none)
    {l : Loaded} (hp : sfind? (s.part (s.readCmd die.val fn.val slot.val).named).plans ((s.readCmd die.val fn.val slot.val).at 1 1) = some l)
    (hv : l.verified = true) (hfit : s.powerFits (s.readCmd die.val fn.val slot.val).named l.plan = true) :
    ∃ t, exec (.planBind die fn slot) s = .next t ∧
      Opened s t die.val fn.val slot.val (s.readCmd die.val fn.val slot.val).named stAccepted [] := by
  refine ⟨_, rfl, State.serve_opens ho rfl (State.serves_of_e0 he _) (by simp) (fun _ => hn) (fun _ => hr) (fun _ => hl) rfl ?_⟩
  have hpart : (s.take (s.readCmd die.val fn.val slot.val)).part = s.part := rfl
  have hfit' : (s.take (s.readCmd die.val fn.val slot.val)).powerFits = s.powerFits := rfl
  simp only [State.planBind, hpart, hp, hfit', hfit, hv, hq, hrun]
  rfl

theorem exec_planVerify_opens (ho : s.offers die.val fn.val slot.val 0x23 24 = true)
    (hn : s.mayName (s.readCmd die.val fn.val slot.val) = true)
    (hp : (sfind? (s.part (s.readCmd die.val fn.val slot.val).named).plans ((s.readCmd die.val fn.val slot.val).at 1 1)).isSome = true) :
    ∃ t, exec (.planVerify die fn slot) s = .next t ∧
      Opened s t die.val fn.val slot.val (s.readCmd die.val fn.val slot.val).named stAccepted [] := by
  refine ⟨_, rfl, State.serve_opens ho rfl (State.serves_of_e0 he _) (by simp) (fun _ => hn) (fun _ => hr) (fun _ => hl) rfl (if_neg ?_)⟩
  have hpart : (s.take (s.readCmd die.val fn.val slot.val)).part = s.part := rfl
  rw [hpart]
  simpa using Option.isSome_iff_ne_none.1 hp

theorem exec_snapTake_opens (ho : s.offers die.val fn.val slot.val 0x60 24 = true)
    (hn : s.mayName (s.readCmd die.val fn.val slot.val) = true) (hrun : (s.part (s.readCmd die.val fn.val slot.val).named).run = none)
    (hq : (s.part (s.readCmd die.val fn.val slot.val).named).queue = [])
    (hlen : (s.part (s.readCmd die.val fn.val slot.val).named).cfg.snapSize ≤ (s.readCmd die.val fn.val slot.val).at 16 8)
    (hholds : (s.part fn.val).cfg.holds ((s.readCmd die.val fn.val slot.val).at 8 8)
      (s.part (s.readCmd die.val fn.val slot.val).named).cfg.snapSize = true) :
    ∃ t, exec (.snapTake die fn slot) s = .next t ∧
      Opened s t die.val fn.val slot.val (s.readCmd die.val fn.val slot.val).named stAccepted [] := by
  refine ⟨_, rfl, State.serve_opens ho rfl (State.serves_of_e0 he _) (by simp) (fun _ => hn) (fun _ => hr) (fun _ => hl) rfl ((if_neg ?_).trans (if_neg ?_))⟩
  · have hpart : (s.take (s.readCmd die.val fn.val slot.val)).part = s.part := rfl
    rw [hpart, hrun, hq]
    simp
  · rintro (h | h)
    · exact absurd hlen (Nat.not_le.2 h)
    · have hpart : (s.take (s.readCmd die.val fn.val slot.val)).part = s.part := rfl
      rw [hpart] at h
      exact absurd (show (!(s.part fn.val).cfg.holds _ _) = true from h) (by simp [hholds])

theorem exec_snapRestore_opens (ho : s.offers die.val fn.val slot.val 0x61 24 = true)
    (hn : s.mayName (s.readCmd die.val fn.val slot.val) = true) (hrun : (s.part (s.readCmd die.val fn.val slot.val).named).run = none)
    (hq : (s.part (s.readCmd die.val fn.val slot.val).named).queue = []) :
    ∃ t, exec (.snapRestore die fn slot) s = .next t ∧
      Opened s t die.val fn.val slot.val (s.readCmd die.val fn.val slot.val).named stAccepted [] := by
  refine ⟨_, rfl, State.serve_opens ho rfl (State.serves_of_e0 he _) (by simp) (fun _ => hn) (fun _ => hr) (fun _ => hl) rfl (if_neg ?_)⟩
  have hpart : (s.take (s.readCmd die.val fn.val slot.val)).part = s.part := rfl
  rw [hpart, hrun, hq]
  simp

theorem exec_linkRetime_opens (ho : s.offers die.val fn.val slot.val 0x81 0 = true) (hf : fn = 0) :
    ∃ t, exec (.linkRetime die fn slot) s = .next t ∧
      Opened { s with retimeWanted := true } t die.val fn.val slot.val 0 stAccepted [] :=
  ⟨_, rfl, State.serve_opens (s' := { s with retimeWanted := true }) ho rfl (State.serves_of_e0 he _) (by simp [hf]) (by simp)
    (fun _ => hr) (fun _ => hl) rfl rfl⟩

theorem exec_engineStandby_opens (ho : s.offers die.val fn.val slot.val 0x04 8 = true) (hf : fn = 0) :
    ∃ t, exec (.engineStandby die fn slot) s = .next t ∧
      Opened { s with draining := true, wakeEt := BitVec.ofNat 64 ((s.readCmd die.val fn.val slot.val).at 0 8) } t die.val fn.val
        slot.val 0 stAccepted [] := by
  generalize hx : BitVec.ofNat 64 ((s.readCmd die.val fn.val slot.val).at 0 8) = x
  refine ⟨_, rfl, State.serve_opens (s' := { s with draining := true, wakeEt := x }) ho rfl (State.serves_of_e0 he _) (by simp [hf])
    (by simp) (fun _ => hr) (fun _ => hl) rfl ((if_neg ?_).trans (by rw [hx]; rfl))⟩
  rw [State.take_estate, he]
  decide

theorem exec_fwActivate_opens (ho : s.offers die.val fn.val slot.val 0x91 2 = true) (hf : fn = 0)
    (h0 : (s.readCmd die.val fn.val slot.val).at 0 1 ≤ 1)
    (hv : (s.validBoth (if (s.readCmd die.val fn.val slot.val).at 0 1 = 0 then 0 else 1)).isSome = true) (hc : s.cal = none)
    (hj : s.fwJob = none) : ∃ t, exec (.fwActivate die fn slot) s = .next t ∧
      Opened { s with fwJob := some (.activate (if (s.readCmd die.val fn.val slot.val).at 0 1 = 0 then 0 else 1)
        ((s.readCmd die.val fn.val slot.val).at 1 1 % 2 == 1)) } t die.val fn.val slot.val 0 stAccepted [] := by
  refine ⟨_, rfl, State.serve_opens (s' := { s with fwJob := _ }) ho rfl (State.serves_of_e0 he _) (by simp [hf]) (by simp)
    (fun _ => hr) (fun _ => hl) rfl ((if_neg ?_).trans (if_neg ?_))⟩
  · rintro (h | h)
    · omega
    · exact absurd (show (s.validBoth _).isNone = true from h) (by simp [Option.isSome_iff_ne_none.1 hv])
  · rintro (h | h)
    · exact absurd (show s.cal.isSome = true from h) (by simp [hc])
    · exact absurd (show s.fwJob.isSome = true from h) (by simp [hj])

theorem exec_fwUpdateWrite_opens {image : Bytes} (ho : s.offers die.val fn.val slot.val 0x90 20 = true) (hf : fn = 0)
    (h0 : (s.readCmd die.val fn.val slot.val).at 0 1 = 0) (h8 : (s.readCmd die.val fn.val slot.val).at 8 8 % 64 = 0)
    (hj : s.fwJob = none) (h512 : 512 ≤ (s.readCmd die.val fn.val slot.val).at 0x10 4)
    (hacc : s.fuses.accepts (s.fuses.image (padTo ((s.readCmd die.val fn.val slot.val).at 0x10 4) image)) = true)
    (hlen : (s.readCmd die.val fn.val slot.val).at 0x10 4 =
      field (padTo ((s.readCmd die.val fn.val slot.val).at 0x10 4) image) 0x14 4 + 512) :
    ∃ t, exec (.fwUpdateWrite die fn slot image) s = .next t ∧
      Opened { s with freeCount := s.freeCount + 1, fwJob := some (.write (otherSlot s.activeSlot)
        (s.fuses.image (padTo ((s.readCmd die.val fn.val slot.val).at 0x10 4) image))) } t die.val fn.val slot.val 0 stAccepted [] := by
  refine ⟨_, rfl, State.serve_opens (s' := { s with freeCount := _, fwJob := _ }) ?_ ?_ (State.serves_of_e0 he _) (by simp [hf])
    (by simp [updateRow]) (fun _ => hr) (fun _ => hl) rfl ((if_neg ?_).trans ((if_neg ?_).trans (if_neg ?_)))⟩
  · simpa [updateRow, updateNeed, h0] using ho
  · simp [updateRow, picks, h0]
  · omega
  · exact fun h => absurd (show s.fwJob.isSome = true from h) (by simp [hj])
  · rintro (h | h | h)
    · omega
    · have hfuses : (s.take (s.readCmd die.val fn.val slot.val)).fuses = s.fuses := rfl
      rw [hfuses] at h
      exact absurd h (by simp [hacc])
    · exact h hlen

end

/-! ## In E2 -/

theorem State.serves_of_e2 {s : State} (h : s.estate = .e2) {code : Nat} (hc : code ∈ [0x04, 0xA0]) : s.serves code = true := by
  rw [State.serves_eq, h]
  simp only [List.mem_cons, List.not_mem_nil, or_false] at hc
  rcases hc with rfl | rfl <;> rfl

theorem State.take_wakeEt (s : State) (c : Cmd) (x : BitVec 64) : { s.take c with wakeEt := x } = State.take { s with wakeEt := x } c := rfl

/-- ENGINE.STANDBY in E2 arms its wake ET where it names one (R246). -/
theorem State.engineStandby_again {s : State} {c : Cmd} (he : ((s.take c).estate == .e2) = true) :
    (s.take c).engineStandby c =
      (State.take (if c.at 0 8 = 0 then s else { s with wakeEt := BitVec.ofNat 64 (c.at 0 8) }) c).answer c stOk [] := by
  rw [State.engineStandby, if_pos he, State.take_wakeEt]
  by_cases h : c.at 0 8 = 0
  · rw [if_pos h, if_pos h]
  · rw [if_neg h, if_neg h]

section
variable {die : Die} {fn : Fn} {slot : Fin 32} {s : State} (hf : fn = 0) (hl : s.longRoom fn.val = true) (hr : s.ruled = true)
  (he : s.estate = .e2)
include hf hl hr he

theorem exec_engineStandby_again (ho : s.offers die.val fn.val slot.val 0x04 8 = true) :
    let c := s.readCmd die.val fn.val slot.val
    let held : State := if c.at 0 8 = 0 then s else { s with wakeEt := BitVec.ofNat 64 (c.at 0 8) }
    ∃ t, exec (.engineStandby die fn slot) s = .next t ∧ Answered held t die.val fn.val slot.val [c.msg true stOk []] := by
  intro c
  have he' : ((s.take c).estate == .e2) = true := by rw [State.take_estate, he]; rfl
  refine ⟨_, rfl, State.serve_answers ho rfl (State.serves_of_e2 he (by decide)) (by simp [hf]) (by simp) (fun _ => hr) (fun _ => hl) ?_
    (State.engineStandby_again he')⟩
  split <;> rfl

theorem exec_dump_opens (ho : s.offers die.val fn.val slot.val 0xA0 (s.readCmd die.val fn.val slot.val).dumpNeed = true) (hd : s.dump = none)
    (hdies : (s.readCmd die.val fn.val slot.val).dumpDies ≠ [])
    (hal : ∀ h ∈ (s.readCmd die.val fn.val slot.val).dumpDies, (s.readCmd die.val fn.val slot.val).at (8 + 8 * h) 8 % 64 = 0)
    (hpart : (s.readCmd die.val fn.val slot.val).at 0 1 = 0xFF ∨ s.exists ((s.readCmd die.val fn.val slot.val).at 0 1) = true)
    (hroom : ∀ x ∈ (s.readCmd die.val fn.val slot.val).dumpDies.zipIdx,
      dumpShare (s.dumpGranules (s.readCmd die.val fn.val slot.val)).length x.2 (s.readCmd die.val fn.val slot.val).dumpDies.length *
        granuleSize ≤ (s.readCmd die.val fn.val slot.val).at (0x28 + 8 * x.1) 8) :
    let c := s.readCmd die.val fn.val slot.val
    ∃ t j, exec (.dump die fn slot) s = .next t ∧
      Opened { s with dump := some j, rails := { s.rails with hbmSelfRefresh := false } } t die.val fn.val slot.val 0 stAccepted [] ∧
      j.granules = s.dumpGranules c ∧ j.die = die ∧ j.fn = fn ∧ j.seq = c.seq ∧ j.dies.map (·.val) = c.dumpDies ∧
      j.addrs = c.dumpDies.map fun h => c.at (8 + 8 * h) 8 := by
  intro c
  let j : DumpJob :=
    { die := Fin.ofNat 4 c.die, fn := Fin.ofNat 16 c.fn, seq := c.seq, granules := s.dumpGranules c, dies := c.dumpDies.map (Fin.ofNat 4)
      addrs := c.dumpDies.map fun h => c.at (8 + 8 * h) 8 }
  refine ⟨_, j, rfl, State.serve_opens (s' := { s with dump := some j, rails := { s.rails with hbmSelfRefresh := false } }) ho rfl
    (State.serves_of_e2 he (by decide)) (by simp [hf]) (by simp) (fun _ => hr) (fun _ => hl) rfl
    ((if_neg ?_).trans ((if_neg ?_).trans ((if_neg ?_).trans (if_neg ?_)))), rfl, ?_, ?_, rfl, ?_, rfl⟩
  · rw [State.take_estate, he]
    decide
  · rw [State.take_exists]
    simp only [Bool.or_eq_true, Bool.and_eq_true, List.isEmpty_iff, List.any_eq_true, bne_iff_ne, Bool.not_eq_true']
    rintro ((h | ⟨x, hx, h⟩) | ⟨h1, h2⟩)
    · exact hdies h
    · exact h (hal x hx)
    · rcases hpart with h | h
      · exact h1 h
      · simp [h] at h2
  · have : (s.take c).dump = none := hd
    rw [this]
    decide
  · simp only [List.any_eq_true, decide_eq_true_eq]
    rintro ⟨x, hx, h⟩
    exact absurd (hroom x hx) (Nat.not_le.2 h)
  · exact Fin.ext (Nat.mod_eq_of_lt die.isLt)
  · exact Fin.ext (Nat.mod_eq_of_lt fn.isLt)
  · rw [List.map_map]
    refine (List.map_congr_left fun h hh => ?_).trans (List.map_id _)
    have : h < 4 := List.mem_range.1 (List.mem_of_mem_filter hh)
    exact Nat.mod_eq_of_lt this

end

/-! ## PART.CREATE -/

theorem State.accept_frame (s : State) (c : Cmd) (p st : Nat) (b : Bytes) :
    s.accept c p st b = { s with windows := (s.accept c p st b).windows, longs := s.longs ++ [c.long p] } := by
  rw [State.accept_eq]
  rfl

/-- A command whose rule changes a partition and accepts it. -/
theorem State.accept_modPart {s u v : State} {c : Cmd} {q : Nat} {f : PartState → PartState} (hu : u = s.take c) (hv : v = u.modPart q f)
    (p st : Nat) (b : Bytes) :
    let t := v.accept c p st b
    t = { s with windows := t.windows, leases := t.leases, longs := s.longs ++ [c.long p], parts := t.parts } ∧
      Took s t c.die c.fn c.slot [c.msg false st b] ∧ OnePart s t q ∧ t.part q = f (s.part q) := by
  have hs : u = { s with windows := u.windows, leases := u.leases } := by
    rw [hu]
    exact s.take_eq c
  have hmod : v = { u with parts := v.parts } := by
    rw [hv]
    rfl
  have hparts : (v.accept c p st b).parts = v.parts := by rw [State.accept_frame]
  refine ⟨?_, Took.accept (by rw [hmod, hu]) (by rw [hmod, hu]) p st b, fun k hk => ?_, ?_⟩
  · rw [State.accept_frame, hmod, hs]
  · rw [hparts, hv, State.modPart_one u q f k hk, hs]
  · rw [State.part, hparts, hv]
    refine (State.part_modPart u q f).trans ?_
    rw [hs]
    rfl

theorem exec_partCreate_opens {die : Die} {fn : Fn} {slot : Fin 32} {s : State}
    (ho : s.offers die.val fn.val slot.val 0x10 120 = true) (hf : fn = 0) (hr : s.ruled = true) (hl : s.longRoom fn.val = true)
    (he : s.estate = .e0) (hm : s.maint = .closed) :
    let c := s.readCmd die.val fn.val slot.val
    recordOk c.payload c.named (parseRecord c.payload) = true → s.creatable c.named = true → s.roomFor c.named (parseRecord c.payload) = true →
      exec (.partCreate die fn slot) s = .next (((s.take c).modPart c.named fun q =>
        { q with cfg := parseRecord c.payload, life := if c.named = 0 then .live else .building }).accept c c.named) := by
  intro c hok hcr hroom
  have hup : s.supply = .up := by
    simp only [State.offers, Bool.and_eq_true, beq_iff_eq] at ho
    tauto
  have hcr' : (s.take c).creatable c.named = true := hcr
  have hroom' : (s.take c).roomFor c.named (parseRecord c.payload) = true := hroom
  have hin : (s.take c).inE0 = true := by
    rw [State.take_inE0, State.inE0, hup, he]
    rfl
  refine congrArg Host.Outcome.next (Eq.trans (State.serve_passes ho rfl (State.serves_of_e0 he _) (by simp [hf]) (by simp)
    (fun _ => hr) (fun _ => hl)) (Eq.trans (if_neg ?_) (Eq.trans (if_neg ?_) (if_neg ?_))))
  · rw [hin, State.take_maint, hm]
    decide
  · rw [hok, hcr']
    decide
  · rw [hroom']
    decide

/-- Settles O12. -/
theorem longOpens : Obligations.LongOpens := by
  unfold Obligations.LongOpens
  refine ⟨fun die fn slot image s => ?e0, fun die fn slot s => ?e2, fun die fn slot s => ?create⟩
  case e0 =>
    intro c q hr hl he
    exact ⟨fun ho hn => exec_planLoad_opens he hr hl ho hn,
      fun ho hn hq hrun ⟨_, hp, hv, hfit⟩ => exec_planBind_opens he hr hl ho hn hq hrun hp hv hfit,
      fun ho hn hp => exec_planVerify_opens he hr hl ho hn hp,
      fun ho hn hrun hq hlen hholds => exec_snapTake_opens he hr hl ho hn hrun hq hlen hholds,
      fun ho hn hrun hq => exec_snapRestore_opens he hr hl ho hn hrun hq, fun ho hf => exec_linkRetime_opens he hr hl ho hf,
      fun ho hf => exec_engineStandby_opens he hr hl ho hf,
      fun ho hf h0 hv hc hj => exec_fwActivate_opens he hr hl ho hf h0 hv hc hj,
      fun ho hf h0 h8 hj h512 hacc hlen => exec_fwUpdateWrite_opens he hr hl ho hf h0 h8 hj h512 hacc hlen⟩
  case e2 =>
    intro c gs held hf hl hr he
    exact ⟨fun ho => exec_engineStandby_again hf hl hr he ho,
      fun ho hd hdies hal hpart hroom => exec_dump_opens hf hl hr he ho hd hdies hal hpart hroom⟩
  case create =>
    intro c r ho hf hr hl he hm hok hcr hroom
    exact ⟨_, exec_partCreate_opens ho hf hr hl he hm hok hcr hroom, State.accept_modPart rfl rfl c.named stAccepted []⟩

end Sys2Proof.Machine
end

section
/-!
The final message of a long command, and the operations on whole clusters that several commands share.
-/

namespace Sys2Proof.Machine

open Sys2Proof

/-! ## Final messages -/

/-- A final message other than FAULTED, and what it leaves where the window was reset. -/
theorem State.finish_reply {s : State} {st : Nat} (h : st ≠ stFaulted) (l : LongCmd) (b : Bytes) : s.finish l st b =
    if l.discard = true then { s with longs := s.longs.filter fun x => !x.same l }
    else State.reply { s with longs := s.longs.filter fun x => !x.same l } l.die.val l.fn.val l.seq l.code true st b := by
  unfold State.finish
  extract_lets t u
  have hu : u = t := if_neg h
  rw [hu]

theorem State.finish_windows {s : State} {st : Nat} (h : st ≠ stFaulted) (l : LongCmd) (b : Bytes) : (s.finish l st b).windows =
    if l.discard = true then s.windows
    else smod {} (16 * l.die.val + l.fn.val) (fun w => { w with outQ := w.outQ ++
      [{ seq := l.seq, command := l.code, final := true, event := false, status := BitVec.ofNat 8 st, payload := b }] }) s.windows := by
  rw [State.finish_reply h]
  split <;> rfl

theorem State.finish_longs (s : State) (l : LongCmd) (st : Nat) (b : Bytes) :
    (s.finish l st b).longs = s.longs.filter fun x => !x.same l := by
  unfold State.finish
  extract_lets t u
  have hu : u.longs = t.longs := by
    dsimp only [u]
    split
    · exact State.faulted_of (fd := .longs) _ _ (by decide)
    · rfl
  split
  · exact hu
  · exact Eq.trans (State.reply_of (fd := .longs) _ _ _ _ _ _ _ _ (by decide)) hu

/-- A final message other than FAULTED changes the long commands and one window alone. -/
theorem State.finish_eq {s : State} {st : Nat} (h : st ≠ stFaulted) (l : LongCmd) (b : Bytes) : s.finish l st b =
    { s with longs := s.longs.filter fun x => !x.same l, windows := (s.finish l st b).windows } := by
  rw [State.finish_reply h]
  split <;> rfl

theorem State.finish_of_ne {fd : Fld} {s : State} {st : Nat} (h : st ≠ stFaulted) (l : LongCmd) (b : Bytes) (hfd : fd ∉ [Fld.windows, .longs]) :
    fd.of (s.finish l st b) = fd.of s := by
  rw [State.finish_eq h]
  exact Fld.of_upd (L := [.windows, .longs]) rfl hfd

/-- The final message of a command that the work before it left open. -/
theorem State.finish_finished {s u : State} (hw : u.windows = s.windows) (hl : u.longs = s.longs) {st : Nat} (h : st ≠ stFaulted)
    (l : LongCmd) (b : Bytes) : Finished s (u.finish l st b) l st b := by
  have hwin := u.finish_windows h l b
  refine ⟨?_, fun k hk => ?_, ?_⟩
  · rw [u.finish_longs, hl]
  · rw [hwin, hw]
    split
    · rfl
    · exact sget_smod_ne (α := Window) _ _ _ _ _ hk
  · rw [State.window, hwin, hw]
    dsimp only
    split
    · rfl
    · exact sget_smod_same (α := Window) ..

/-- Work after a final message that leaves the windows and the long commands. -/
theorem Finished.after {s t u : State} {l : LongCmd} {st : Nat} {b : Bytes} (h : Finished s t l st b) (hw : u.windows = t.windows)
    (hl : u.longs = t.longs) : Finished s u l st b := by
  obtain ⟨h1, h2, h3⟩ := h
  refine ⟨hl.trans h1, fun k hk => by rw [hw]; exact h2 k hk, ?_⟩
  rw [State.window, hw]
  exact h3

/-- A fault record of a code is the newest. -/
theorem State.log_mem (s : State) (code : Nat) (part cluster core : Option Nat) (die pup detail : Nat) :
    ∃ r ∈ (s.log code part cluster core die pup detail).faults, r.code = BitVec.ofNat 16 code :=
  ⟨_, List.mem_append_right _ (List.mem_singleton_self _), rfl⟩

/-! ## Clusters -/

theorem Cluster.phys_lt (k : Cluster) {lc : Nat} (h : lc < 256) : k.phys lc < 272 := by
  have hcol (o c : Nat) (hc : c < 16) : physCol o c < 17 := by
    unfold physCol
    split <;> omega
  have h1 := hcol (k.omitCol (lc / 16)) (lc % 16) (by omega)
  unfold Cluster.phys
  omega

theorem State.lcore_div (s : State) (c : Nat) {lc : Nat} (h : lc < 256) : s.lcore c lc / 272 = c := by
  have := (s.cluster c).phys_lt h
  unfold State.lcore
  omega

/-- Changing listed clusters, each once. -/
theorem State.cluster_modAll (s : State) {l : List Nat} (g : Nat → Cluster → Cluster) (hl : l.Nodup) (c : Nat) :
    (s.each l fun t c => t.modCluster c (g c)).cluster c = if c ∈ l then g c (s.cluster c) else s.cluster c := by
  induction l generalizing s with
  | nil => rfl
  | cons a r ih =>
    obtain ⟨ha, hr⟩ := List.nodup_cons.1 hl
    refine (ih _ hr).trans ?_
    by_cases h : c = a
    · subst h
      rw [if_neg ha, if_pos (by simp), State.cluster_modCluster]
    · rw [State.cluster_modCluster_ne _ _ _ _ h]
      simp [h]

theorem State.cluster_enterAll (s : State) {l : List Nat} (aim : CState) (hl : l.Nodup) (c : Nat) :
    (s.enterAll l aim).cluster c = if c ∈ l then (s.cluster c).enter aim else s.cluster c :=
  s.cluster_modAll (fun _ k => k.enter aim) hl c

/-- A load written into a cluster's slots leaves the cores of the other clusters. -/
theorem State.coreAt_placeLoad (s : State) (pl : Plan) (ld : Load) (c : Nat) {n : Nat} (h : n / 272 ≠ c) :
    (s.placeLoad pl ld c).coreAt n = s.coreAt n := by
  unfold State.placeLoad
  have hl : ∀ lc ∈ List.range 256, lc < 256 := fun lc h => List.mem_range.1 h
  revert hl
  induction List.range 256 generalizing s with
  | nil => exact fun _ => rfl
  | cons a r ih =>
    intro hl
    refine (ih _ fun x hx => hl x (by simp [hx])).trans (State.coreAt_modCore_ne _ _ _ _ ?_)
    rintro rfl
    exact h (s.lcore_div c (hl a (by simp)))

theorem State.coreAt_placeResident (s : State) (p c : Nat) {n : Nat} (h : n / 272 ≠ c) :
    (s.placeResident p c).coreAt n = s.coreAt n := by
  unfold State.placeResident
  split
  · rfl
  · next l hl =>
    clear hl
    induction l.plan.loads.filter (·.resident) generalizing s with
    | nil => rfl
    | cons a r ih =>
      rw [State.each]
      exact (ih (s.placeLoad l.plan a c)).trans (s.coreAt_placeLoad l.plan a c h)

end Sys2Proof.Machine
end

section
/-!
TEST.RUN and CAL.RUN: accepted or deferred, started, ended.
-/

namespace Sys2Proof.Machine

open Sys2Proof

/-! ## TEST.RUN taken (R389) -/

theorem State.accept_setCal (s : State) (c : Cmd) (k : Option Cal) :
    { (s.take c).accept c 0 with cal := k } = (State.take { s with cal := k } c).accept c 0 := rfl

section
variable {die : Die} {fn : Fn} {slot : Fin 32} {s : State} (hr : s.ruled = true) (hl : s.longRoom fn.val = true) (he : s.estate = .e0)
include hr hl he

theorem exec_testRun (ho : s.offers die.val fn.val slot.val 0x40 2 = true) (hn : s.mayName (s.readCmd die.val fn.val slot.val) = true)
    (h1 : (s.readCmd die.val fn.val slot.val).at 1 1 ≤ 1) (ht : (s.part (s.readCmd die.val fn.val slot.val).named).test = none)
    (hlo : s.longOf? 0x40#8 (s.readCmd die.val fn.val slot.val).named = none) :
    let c := s.readCmd die.val fn.val slot.val
    exec (.testRun die fn slot) s = .next (
      if (s.part c.named).idle = true then
        ((s.take c).modPart c.named fun q => { q with test := some (.running s.now (c.at 1 1)) }).accept c c.named
      else ((s.take c).modPart c.named fun q => { q with test := some (.deferred s.now (c.at 1 1)) }).accept c c.named stDeferred
        (toLe 8 ((s.part c.named).queue.foldl (fun m r => Nat.max m r.promisedEnd) 0))) := by
  intro c
  refine congrArg Host.Outcome.next (Eq.trans (State.serve_passes ho rfl (State.serves_of_e0 he _) (by simp) (fun _ => hn) (fun _ => hr)
    (fun _ => hl)) (Eq.trans (if_neg ?_) (Eq.trans (if_neg ?_) ?_)))
  · omega
  · have h1 : ((s.take c).part c.named).test = none := ht
    have h2 : (s.take c).longOf? 0x40#8 c.named = none := hlo
    rw [h1, h2]
    simp
  · rfl

theorem exec_calRun_opens (ho : s.offers die.val fn.val slot.val 0x41 2 = true) (hcal : s.cal = none) {u : Nat} (hm : s.maint = .opened u)
    (h0 : 0 < (s.readCmd die.val fn.val slot.val).at 0 1) (h16 : (s.readCmd die.val fn.val slot.val).at 0 1 < 16)
    (h2 : (s.readCmd die.val fn.val slot.val).at 1 1 < 2)
    (hright : fn = 0 ∨ ((s.readCmd die.val fn.val slot.val).at 0 1 < 8 ∧ (s.readCmd die.val fn.val slot.val).at 1 1 = 0)) :
    ∃ t, exec (.calRun die fn slot) s = .next t ∧
      Opened { s with cal := some { kinds := BitVec.ofNat 4 ((s.readCmd die.val fn.val slot.val).at 0 1), forced := false, time := s.now } } t
        die.val fn.val slot.val 0 stAccepted [] := by
  generalize hk : (some { kinds := BitVec.ofNat 4 ((s.readCmd die.val fn.val slot.val).at 0 1), forced := false, time := s.now } : Option Cal) = k
  refine ⟨_, rfl, State.serve_opens (s' := { s with cal := k }) ho rfl (State.serves_of_e0 he _) (by simp) (by simp) (fun _ => hr)
    (fun _ => hl) rfl ?_⟩
  have hcal' : (s.take (s.readCmd die.val fn.val slot.val)).cal = none := hcal
  unfold State.calRun
  extract_lets k' force win t t'
  have hwin : win = true := by
    dsimp only [win]
    rw [State.take_maint, hm]
  rw [if_neg (by omega), if_neg, if_neg (by rw [hcal']; simp), if_neg (by rw [hwin]; simp), if_pos hwin]
  · have htime : t.now = s.now :=
      Eq.trans (State.accept_of (fd := .now) _ _ _ _ _ (by decide)) (State.take_of (fd := .now) _ _ (by decide))
    have hval : (some { kinds := BitVec.ofNat 4 k', forced := !win, time := t.now } : Option Cal) = k := by
      rw [hwin, htime]
      exact hk
    dsimp only [t']
    rw [hval]
    exact State.accept_setCal s (s.readCmd die.val fn.val slot.val) k
  · rintro ⟨hf, h⟩
    rcases hright with rfl | ⟨h8, hz⟩
    · exact hf rfl
    · have hforce : force = false := by simp [force, hz]
      rw [hforce] at h
      simp only [Bool.false_eq_true, false_or] at h
      omega

end

/-! ## A self-test starts, times out, ends (R389, R390) -/

theorem PartsOnly.modPart (s : State) (p : Nat) (f : PartState → PartState) : PartsOnly s (s.modPart p f) := rfl

theorem State.testStart_deferred {s : State} {p since lv : Nat} (ht : (s.part p).test = some (.deferred since lv))
    (hi : (s.part p).idle = true) : s.testStart p = s.modPart p fun q => { q with test := some (.running s.now lv) } := by
  rw [State.testStart, ht]
  exact if_pos hi

theorem State.testTimeout_passed {s : State} {p since lv : Nat} {l : LongCmd} (ht : (s.part p).test = some (.deferred since lv))
    (hl : s.longOf? 0x40#8 p = some l) (hp : since + msCclk s.testDeferMax ≤ s.now) :
    s.testTimeout p = (s.modPart p fun q => { q with test := none }).finish l stBusy := by
  rw [State.testTimeout, ht, hl]
  exact if_pos hp

/-- Every cluster of a self-test: its scratchpads zeroed, its resident loads written. -/
def State.testLeaves (s : State) (p : Nat) : State := s.each (s.partClusters p) fun t c => (t.zeroSpads c).placeResident p c

theorem State.testLeaves_of {fd : Fld} (s : State) (p : Nat) (hfd : fd ∉ [.cores, .spad]) : fd.of (s.testLeaves p) = fd.of s := by
  simp only [List.mem_cons, not_or] at hfd
  exact Fld.of_each _ fun t c => by simp [hfd]

theorem State.coreAt_testLeaves (s : State) (p : Nat) {n : Nat} (h : n / 272 ∉ s.partClusters p) :
    (s.testLeaves p).coreAt n = s.coreAt n := by
  unfold State.testLeaves
  generalize s.partClusters p = l at h ⊢
  induction l generalizing s with
  | nil => rfl
  | cons a r ih =>
    have hr : n / 272 ∉ r := fun hm => h (by simp [hm])
    have ha : n / 272 ≠ a := fun e => h (by simp [e])
    rw [State.each]
    exact (ih ((s.zeroSpads a).placeResident p a) hr).trans (State.coreAt_placeResident (s.zeroSpads a) p a ha)

theorem State.spad_testLeaves (s : State) (p n : Nat) : mread (s.testLeaves p).spad n =
    if n / (262144 * 272) ∈ s.partClusters p then 0#8 else mread s.spad n := by
  unfold State.testLeaves
  generalize s.partClusters p = l
  induction l generalizing s with
  | nil => rfl
  | cons a r ih =>
    have hplace : ((s.zeroSpads a).placeResident p a).spad = (s.zeroSpads a).spad :=
      State.placeResident_of (fd := .spad) _ _ _ (by decide)
    rw [State.each, ih, hplace]
    by_cases ha : n / (262144 * 272) = a
    · have hin : mread (s.zeroSpads a).spad n = 0#8 := mread_mclear_in _ _ _ _ (by omega)
      simp [ha, hin]
    · have hout : mread (s.zeroSpads a).spad n = mread s.spad n := mread_mclear_out _ _ _ _ (by omega)
      simp [ha, hout]

/-- Which pairs of a list of failed cores are of the partition. -/
def State.testBad (s : State) (p : Nat) (failed : List (Nat × Nat)) : List (Nat × Nat) :=
  failed.filter fun x => (s.partClusters p).contains x.1

/-- The first failed core, as the final message names it (R390). -/
def State.testFirst (s : State) (bad : List (Nat × Nat)) : Bytes :=
  match bad.head? with
  | some (c, lc) => toLe 2 c ++ toLe 2 (s.lcore c lc % 272)
  | none => toLe 4 0xFFFFFFFF

theorem State.testDone_running {s : State} {p since lv : Nat} {l : LongCmd} (failed : List (Nat × Nat))
    (ht : (s.part p).test = some (.running since lv)) (hl : s.longOf? 0x40#8 p = some l) :
    let bad := s.testBad p failed
    let tested := s.coreCount (s.testedCores p)
    let many := s.coreCount bad.length
    let u : State := { s.testLeaves p with
      declared := ((s.testLeaves p).declared ++ bad.map fun x => (s.testLeaves p).lcore x.1 x.2).eraseDups
      freeCount := (s.testLeaves p).freeCount + 2 }
    s.testDone p failed = ((u.modPart p fun q => { q with test := none }).finish l stOk (tested ++ many ++ s.testFirst bad)).log 0x0604
      (some p) none none 0 15 (leNat tested + 65536 * leNat many) := by
  rw [State.testDone, ht, hl]
  rfl

theorem testDone_ends {s u t : State} {p : Nat} {l : LongCmd} {bad : List (Nat × Nat)} {b : Bytes} {code : Nat} {q : Option Nat} {pup d : Nat}
    (hu : u = { s.testLeaves p with
      declared := ((s.testLeaves p).declared ++ bad.map fun x => (s.testLeaves p).lcore x.1 x.2).eraseDups
      freeCount := (s.testLeaves p).freeCount + 2 })
    (ht : t = ((u.modPart p fun q => { q with test := none }).finish l stOk b).log code q none none 0 pup d) :
    t = { s with windows := t.windows, longs := t.longs, parts := t.parts, cores := t.cores, spad := t.spad, declared := t.declared
                 freeCount := t.freeCount, faults := t.faults, faultSeq := t.faultSeq, faultsLost := t.faultsLost } ∧
      Finished s t l stOk b ∧ t.declared = (s.declared ++ bad.map fun x => s.lcore x.1 x.2).eraseDups ∧
      (∃ r ∈ t.faults, r.code = BitVec.ofNat 16 code) ∧ OnePart s t p ∧ t.part p = { s.part p with test := none } ∧
      t.cores = (s.testLeaves p).cores ∧ t.spad = (s.testLeaves p).spad := by
  have hne : stOk ≠ stFaulted := by decide
  have hfin (fd : Fld) (h : fd ∉ [Fld.windows, .longs, .faults, .faultSeq, .faultsLost]) :
      fd.of t = fd.of (u.modPart p fun q => { q with test := none }) := by
    rw [ht]
    exact (State.log_of _ _ _ _ _ _ _ _ (by simp at h ⊢; tauto)).trans (State.finish_of_ne hne l b (by simp at h ⊢; tauto))
  have hleft (fd : Fld) (h : fd ∉ [Fld.declared, .freeCount]) : fd.of u = fd.of (s.testLeaves p) := by
    rw [hu]
    exact Fld.of_upd (L := [.declared, .freeCount]) rfl h
  have hkept (fd : Fld) (h : fd ∉ [Fld.declared, .freeCount, .cores, .spad]) : fd.of u = fd.of s :=
    (hleft fd (by simp at h ⊢; tauto)).trans (s.testLeaves_of p (by simp at h ⊢; tauto))
  refine ⟨State.eq_patch [.windows, .longs, .parts, .cores, .spad, .declared, .freeCount, .faults, .faultSeq, .faultsLost] fun fd h => ?_,
    ?_, ?_, ?_, ?_, ?_, (hfin .cores (by decide)).trans (hleft .cores (by decide)), (hfin .spad (by decide)).trans (hleft .spad (by decide))⟩
  · exact (hfin fd (by simp at h ⊢; tauto)).trans ((State.modPart_of _ _ _ (by simp at h ⊢; tauto)).trans
      (hkept fd (by simp at h ⊢; tauto)))
  · rw [ht]
    exact (State.finish_finished (u := u.modPart p _) (hkept .windows (by decide)) (hkept .longs (by decide)) hne l b).after rfl rfl
  · have hd : t.declared = u.declared := hfin .declared (by decide)
    have hcl : (s.testLeaves p).clusters = s.clusters := s.testLeaves_of (fd := .clusters) p (by decide)
    have hdl : (s.testLeaves p).declared = s.declared := s.testLeaves_of (fd := .declared) p (by decide)
    rw [hd, hu]
    simp only [State.lcore, State.cluster, hcl, hdl]
  · rw [ht]
    exact State.log_mem ..
  · have hp : t.parts = (u.modPart p fun q => { q with test := none }).parts := hfin .parts (by decide)
    have hup : u.parts = s.parts := hkept .parts (by decide)
    intro k hk
    rw [hp, u.modPart_one p _ k hk, hup]
  · have hp : t.parts = (u.modPart p fun q => { q with test := none }).parts := hfin .parts (by decide)
    have hup : u.parts = s.parts := hkept .parts (by decide)
    rw [State.part, hp]
    refine (u.part_modPart p _).trans ?_
    rw [State.part, hup]
    rfl

theorem stBusy_ne : stBusy ≠ stFaulted := by decide

/-- A deferred self-test that has waited too long ends BUSY (R389). -/
theorem testTimeout_ends (s : State) (p : Nat) (l : LongCmd) :
    let t := (s.modPart p fun q => { q with test := none }).finish l stBusy
    t = { s with parts := t.parts, windows := t.windows, longs := t.longs } ∧ Finished s t l stBusy [] ∧ OnePart s t p ∧
      t.part p = { s.part p with test := none } := by
  have hp := State.finish_of_ne (fd := .parts) (s := s.modPart p fun q => { q with test := none }) stBusy_ne l [] (by decide)
  have hp : ((s.modPart p fun q => { q with test := none }).finish l stBusy).parts = (s.modPart p fun q => { q with test := none }).parts := hp
  refine ⟨State.eq_patch [.parts, .windows, .longs] fun fd h => ?_, State.finish_finished rfl rfl stBusy_ne l [], fun k hk => ?_, ?_⟩
  · exact (State.finish_of_ne stBusy_ne l [] (by simp at h ⊢; tauto)).trans (State.modPart_of _ _ _ (by simp at h ⊢; tauto))
  · rw [hp]
    exact s.modPart_one p _ k hk
  · rw [State.part, hp]
    exact s.part_modPart p _

/-! ## A calibration starts (R392, R394) -/

theorem sget_smapAll_of {α : Type} [DecidableEq α] {d : α} {f : Nat → α → α} {m : SMap α} {k : Nat} (P : α → Prop) (hd : P d)
    (hf : ∀ v, P (f k v)) : P (sget d (smapAll d f m) k) := by
  rcases sget_smapAll d f m k with h | ⟨v, h⟩
  · rw [h]
    exact hd
  · rw [h]
    exact hf v

/-- Link retraining takes every port down, so that no group stays joined. -/
theorem State.retrainLinks_down (s : State) : s.retrainLinks.retimeWanted = true ∧ (∀ d n, (s.retrainLinks.port d n).up = false) ∧
    ∀ p, ∀ g ∈ (s.retrainLinks.part p).groups, ∀ e ∈ g.2.ports, e.joined = false := by
  refine ⟨rfl, fun d n => ?_, fun p => ?_⟩
  · unfold State.port State.link State.retrainLinks
    refine sget_smapAll_of (fun v : LinkDie => (sget {} v.ports n).up = false) rfl fun v => ?_
    refine sget_smapAll_of (fun o : Port => o.up = false) rfl fun o => ?_
    split
    · rfl
    · next h => simpa using h
  · unfold State.part State.retrainLinks State.unjoin
    refine sget_smapAll_of (fun q : PartState => ∀ g ∈ q.groups, ∀ e ∈ g.2.ports, e.joined = false) (fun g hg => by cases hg) fun q g hg e he => ?_
    obtain ⟨x, -, rfl⟩ := List.mem_map.1 hg
    obtain ⟨y, -, rfl⟩ := List.mem_map.1 he
    rfl

/-- Every listed cluster is in C3 when each listed entry is. -/
theorem State.cluster_at_of_all {s : State} (h : s.clusters.all (fun x => x.2.at .c3) = true) (c : Nat) : (s.cluster c).at .c3 = true := by
  unfold State.cluster
  generalize s.clusters = m at h
  induction m with
  | nil => rfl
  | cons x r ih =>
    obtain ⟨hx, hr⟩ := by simpa only [List.all_cons, Bool.and_eq_true] using h
    obtain ⟨j, v⟩ := x
    by_cases hj : j = c
    · simpa [sget, sfind?, hj] using hx
    · have := ih hr
      simpa [sget, sfind?, hj] using this

/-- A re-trim that is to begin: the voltage writes go out once every cluster is in C3 (R394). -/
theorem State.retrim_running {s : State} {k : Cal} (hc : s.cal = some k) (hr : k.running = true) (h3 : k.kinds.getLsbD 3 = true)
    (hw : k.written = false) : s.retrim = if s.clusters.all (fun x => x.2.at .c3) = true
      then State.writeVoltages { s with cal := some { k with written := true } } (List.range 48) else s := by
  rw [State.retrim, hc]
  simp only [hr, h3, hw, Bool.not_false, Bool.and_true, Bool.true_and]

theorem State.calStart_runs {s : State} {k : Cal} (hc : s.cal = some k) (hr : k.running = false)
    (hf : k.forced = false ∨ ∀ p, p < 16 → (s.part p).run = none) :
    let u : State := { s with cal := some { k with running := true } }
    let v := if k.kinds.getLsbD 1 then u.retrainLinks else u
    s.calStart = if k.kinds.getLsbD 3 then (v.enterAll (List.range 1200) .c3).retrim else v := by
  rw [State.calStart, hc]
  refine if_pos ?_
  rw [hr]
  simp only [Bool.not_false, Bool.true_and, Bool.or_eq_true, Bool.not_eq_true', List.all_eq_true, List.mem_range,
    Option.isNone_iff_eq_none]
  exact hf

theorem State.calStart_waits {s : State} {k : Cal} (hc : s.cal = some k) (hr : k.running = false) (hf : k.forced = true)
    (hrun : ∃ p, p < 16 ∧ (s.part p).run ≠ none) : s.calStart = s := by
  obtain ⟨p, hp, hpr⟩ := hrun
  rw [State.calStart, hc]
  refine if_neg ?_
  rw [hr, hf]
  simp only [Bool.not_false, Bool.true_and, Bool.not_true, Bool.false_or, List.all_eq_true, List.mem_range, Option.isNone_iff_eq_none]
  exact fun h => hpr (h p hp)

/-- The voltage writes of a re-trim go out at once where every cluster is in C3 already, and else later (R394). -/
theorem State.retrim_begun {x : State} {k : Cal} (hc : x.cal = some k) (hr : k.running = true) (h3 : k.kinds.getLsbD 3 = true)
    (hw : k.written = false) : ∃ b, x.retrim.cal = some { k with written := b } ∧
      (∀ fd : Fld, fd ∉ [Fld.cal, .zones] → fd.of x.retrim = fd.of x) ∧ (b = false → x.retrim.zones = x.zones) ∧
      (b = true → x.clusters.all (fun y => y.2.at .c3) = true) := by
  rw [State.retrim_running hc hr h3 hw]
  by_cases hall : x.clusters.all (fun y => y.2.at .c3) = true
  · rw [if_pos hall]
    have hy (fd : Fld) (h : fd ∉ [Fld.zones]) :=
      State.writeVoltages_of { x with cal := some { k with written := true } } (List.range 48) h
    exact ⟨true, hy .cal (by decide), fun fd h => (hy fd (by simp at h ⊢; tauto)).trans
      (Fld.of_upd (L := [.cal]) rfl (by simp at h ⊢; tauto)), fun h => absurd h (by decide), fun _ => hall⟩
  · rw [if_neg hall]
    exact ⟨false, by rw [hc, ← hw], fun _ _ => rfl, fun _ => rfl, fun h => absurd h (by decide)⟩

/-- A calibration that starts takes the ports down for a link retraining, and the clusters towards C3 for a re-trim (R394). -/
theorem calStart_starts {s : State} {k : Cal} (hc : s.cal = some k) (hr : k.running = false) (hw : k.written = false)
    (hf : k.forced = false ∨ ∀ p, p < 16 → (s.part p).run = none) :
    let t := s.calStart
    ∃ b, t.cal = some { k with running := true, written := b } ∧
      t = { s with cal := t.cal, retimeWanted := t.retimeWanted, parts := t.parts, links := t.links, clusters := t.clusters, zones := t.zones } ∧
      (k.kinds.getLsbD 1 = false → t.retimeWanted = s.retimeWanted ∧ t.parts = s.parts ∧ t.links = s.links) ∧
      (k.kinds.getLsbD 1 = true → t.retimeWanted = true ∧ (∀ d n, (t.port d n).up = false) ∧
        ∀ p, ∀ g ∈ (t.part p).groups, ∀ e ∈ g.2.ports, e.joined = false) ∧
      (k.kinds.getLsbD 3 = false → t.clusters = s.clusters ∧ t.zones = s.zones ∧ b = false) ∧
      (k.kinds.getLsbD 3 = true → (∀ c, c < 1200 → t.cluster c = (s.cluster c).enter .c3) ∧ (b = false → t.zones = s.zones) ∧
        (b = true → ∀ c, c < 1200 → (t.cluster c).at .c3 = true)) := by
  intro t
  have ht := State.calStart_runs hc hr hf
  extract_lets u v at ht
  change t = _ at ht
  clear_value t
  have hnd : (List.range 1200).Nodup := List.nodup_range
  have hin (c : Nat) (h : c < 1200) : c ∈ List.range 1200 := List.mem_range.2 h
  generalize List.range 1200 = cs at ht hnd hin
  have hu (fd : Fld) (h : fd ∉ [Fld.cal]) : fd.of u = fd.of s := Fld.of_upd (L := [.cal]) rfl h
  have hv (fd : Fld) (h : fd ∉ [Fld.parts, .links, .retimeWanted]) : fd.of v = fd.of u :=
    (Fld.of_ite _ _).trans ((congrArg (ite _ · _) (State.retrainLinks_of u h)).trans (ite_self _))
  have hv0 (h : k.kinds.getLsbD 1 = false) : v = u := if_neg (Bool.not_eq_true _ ▸ h)
  have hv1 (h : k.kinds.getLsbD 1 = true) : v = u.retrainLinks := if_pos h
  have hvc : v.cal = some { k with running := true } := hv .cal (by decide)
  have hvl : v.clusters = s.clusters := (hv .clusters (by decide)).trans (hu .clusters (by decide))
  have hvz : v.zones = s.zones := (hv .zones (by decide)).trans (hu .zones (by decide))
  obtain ⟨b, x, hb, hx⟩ : ∃ b, ∃ x : State, t.cal = some { k with running := true, written := b } ∧
      (∀ fd : Fld, fd ∉ [Fld.cal, .clusters, .zones] → fd.of t = fd.of v) ∧
      (k.kinds.getLsbD 3 = false → t = v ∧ b = false) ∧
      (k.kinds.getLsbD 3 = true → x = v.enterAll cs .c3 ∧ t.clusters = x.clusters ∧ (b = false → t.zones = v.zones) ∧
        (b = true → x.clusters.all (fun y => y.2.at .c3) = true)) := by
    by_cases h3 : k.kinds.getLsbD 3 = true
    · rw [if_pos h3] at ht
      have hx (fd : Fld) (h : fd ∉ [Fld.clusters]) : fd.of (v.enterAll cs .c3) = fd.of v := State.enterAll_of v cs .c3 h
      obtain ⟨b, hb, hz, hz0, hall⟩ := State.retrim_begun ((hx .cal (by decide)).trans hvc) rfl h3 hw
      rw [← ht] at hb hz hz0
      exact ⟨b, v.enterAll cs .c3, hb, fun fd h => (hz fd (by simp at h ⊢; tauto)).trans (hx fd (by simp at h ⊢; tauto)),
        fun h => absurd (h3.symm.trans h) (by decide),
        fun _ => ⟨rfl, hz .clusters (by decide), fun h => (hz0 h).trans (hx .zones (by decide)), hall⟩⟩
    · rw [if_neg h3] at ht
      subst ht
      exact ⟨false, v, by rw [hvc, ← hw], fun _ _ => rfl, fun _ => ⟨rfl, rfl⟩, fun h => absurd h h3⟩
  obtain ⟨htv, hn3, h3⟩ := hx
  have htr : t.retimeWanted = v.retimeWanted := htv .retimeWanted (by decide)
  have htp : t.parts = v.parts := htv .parts (by decide)
  have htl : t.links = v.links := htv .links (by decide)
  refine ⟨b, hb, State.eq_patch [.cal, .retimeWanted, .parts, .links, .clusters, .zones] fun fd h => ?_, fun h => ?_, fun h => ?_,
    fun h => ?_, fun h => ?_⟩
  · exact (htv fd (by simp at h ⊢; tauto)).trans ((hv fd (by simp at h ⊢; tauto)).trans (hu fd (by simp at h ⊢; tauto)))
  · rw [htr, htp, htl, hv0 h]
    exact ⟨rfl, rfl, rfl⟩
  · unfold State.port State.part State.link
    rw [htr, htp, htl, hv1 h]
    exact u.retrainLinks_down
  · obtain ⟨rfl, hb0⟩ := hn3 h
    exact ⟨hvl, hvz, hb0⟩
  · obtain ⟨rfl, hcl, hz, hall⟩ := h3 h
    have hat (c : Nat) : t.cluster c = (v.enterAll cs .c3).cluster c := by
      unfold State.cluster
      rw [hcl]
    refine ⟨fun c hc => ?_, fun hb => (hz hb).trans hvz, fun hb c _ => ?_⟩
    · rw [hat, v.cluster_enterAll .c3 hnd, if_pos (hin c hc)]
      exact congrArg (fun m => (sget {} m c).enter .c3) hvl
    · rw [hat]
      exact State.cluster_at_of_all (hall hb) c

/-- A field outside a list is outside any part of it. -/
theorem Fld.not_mem {L L' : List Fld} {fd : Fld} (h : fd ∉ L') (hs : ∀ x ∈ L, x ∈ L' := by decide) : fd ∉ L := fun hm => h (hs fd hm)

/-! ## A calibration ends -/

theorem State.each_filter {α : Type} (s : State) (l : List α) (g : α → Bool) (f : State → α → State) :
    s.each (l.filter g) f = s.each l fun t a => if g a then f t a else t := by
  induction l generalizing s with
  | nil => rfl
  | cons a r ih =>
    rw [List.filter_cons]
    by_cases h : g a = true
    · rw [if_pos h]
      exact (ih _).trans (congrArg (State.each · r _) (if_pos h).symm)
    · rw [if_neg h]
      exact (ih _).trans (congrArg (State.each · r _) (if_neg h).symm)

/-- The kinds that succeeded take effect one after another: the cores, then HBM, the links and the voltages. -/
theorem State.calEffects_eq (s : State) (g : Nat → Bool) :
    s.each ([2, 0, 1, 3].filter g) State.calEffect =
      let a := if g 2 then s.calEffect 2 else s
      let b := if g 0 then a.calEffect 0 else a
      if g 3 then b.calEffect 3 else b :=
  (s.each_filter _ g _).trans (congrArg (fun x => if g 3 then State.calEffect x 3 else x) (ite_self _))

theorem State.calEffect_cores_of {fd : Fld} (s : State) (hfd : fd ∉ [Fld.clusters]) : fd.of (s.calEffect 2) = fd.of s :=
  Fld.of_each _ fun t c => State.modCluster_of t c _ hfd

theorem State.calEffect_voltages_of {fd : Fld} (s : State) (hfd : fd ∉ [Fld.zones, .freeCount]) : fd.of (s.calEffect 3) = fd.of s :=
  Fld.of_each _ fun t z => (State.drew_of _ (by simp at hfd ⊢; tauto)).trans (State.modZone_of t z _ (by simp at hfd ⊢; tauto))

/-- What the kinds that succeeded leave (R394): trained HBM, calibrated cores, voltages of new codes. -/
theorem State.calEffects_leave (s : State) (g : Nat → Bool) :
    let t := s.each ([2, 0, 1, 3].filter g) State.calEffect
    (∀ fd : Fld, fd ∉ [Fld.clusters, .rails, .zones, .freeCount] → fd.of t = fd.of s) ∧
      t.rails = (if g 0 then { s.rails with hbmTrained := true } else s.rails) ∧
      (g 3 = false → t.zones = s.zones ∧ t.freeCount = s.freeCount) ∧ (g 2 = false → t.clusters = s.clusters) ∧
      (g 2 = true → ∀ c, c < 1200 → t.cluster c = { s.cluster c with calibrated := true }) := by
  intro t
  have ht := s.calEffects_eq g
  extract_lets a b at ht
  change t = _ at ht
  clear_value t
  have ha (fd : Fld) (h : fd ∉ [Fld.clusters]) : fd.of a = fd.of s :=
    (Fld.of_ite _ _).trans ((congrArg (ite _ · _) (s.calEffect_cores_of h)).trans (ite_self _))
  have hb (fd : Fld) (h : fd ∉ [Fld.rails]) : fd.of b = fd.of a :=
    (Fld.of_ite _ _).trans ((congrArg (ite _ · _) (Fld.of_upd (L := [.rails]) rfl h)).trans (ite_self _))
  have hbt (fd : Fld) (h : fd ∉ [Fld.zones, .freeCount]) : fd.of t = fd.of b := by
    rw [ht]
    exact (Fld.of_ite _ _).trans ((congrArg (ite _ · _) (b.calEffect_voltages_of h)).trans (ite_self _))
  have hcl : t.clusters = a.clusters := (hbt .clusters (by decide)).trans (hb .clusters (by decide))
  refine ⟨fun fd h => ?_, (hbt .rails (by decide)).trans ?_, fun h => ?_, fun h => ?_, fun h c hc => ?_⟩
  · exact (hbt fd (Fld.not_mem h)).trans ((hb fd (Fld.not_mem h)).trans (ha fd (Fld.not_mem h)))
  · have har : a.rails = s.rails := ha .rails (by decide)
    rw [← har]
    exact apply_ite State.rails ..
  · rw [ht, if_neg (by simp [h])]
    exact ⟨(hb .zones (by decide)).trans (ha .zones (by decide)), (hb .freeCount (by decide)).trans (ha .freeCount (by decide))⟩
  · rw [hcl, show a = s from if_neg (by simp [h])]
  · rw [State.cluster, hcl, show a = s.calEffect 2 from if_pos h]
    exact (s.cluster_modAll _ List.nodup_range c).trans (if_pos (List.mem_range.2 hc))

/-- A calibration in a window is over: the clusters of a re-trim are placed again. -/
theorem State.calOver_leaves {s : State} {k : Cal} (hc : s.cal = some k) (hf : k.forced = false) (hm : s.maint ≠ .closing) :
    let t := s.calOver
    t.cal = none ∧ (∀ fd : Fld, fd ∉ [Fld.cal, .zones, .clusters] → fd.of t = fd.of s) ∧
      (k.kinds.getLsbD 3 = false → t.clusters = s.clusters ∧ t.zones = s.zones) := by
  intro t
  have ht : t = s.calOver := rfl
  clear_value t
  rw [State.calOver, hc] at ht
  simp only [hf, Bool.false_eq_true, if_false] at ht
  by_cases h3 : (k.running && k.kinds.getLsbD 3) = true
  · have hv (fd : Fld) (h : fd ∉ [Fld.cal, .zones, .clusters]) :
        fd.of ((({ s with cal := none } : State).voltagesReached.each (List.range 16) State.place)) = fd.of s :=
      (Fld.of_each _ fun t p => State.place_of t p (Fld.not_mem h)).trans
        ((State.voltagesReached_of _ (Fld.not_mem h)).trans (Fld.of_upd (L := [.cal]) rfl (Fld.not_mem h)))
    have hvc : ((({ s with cal := none } : State).voltagesReached.each (List.range 16) State.place)).cal = none :=
      (Fld.of_each (f := .cal) _ fun t p => State.place_of t p (by decide)).trans (State.voltagesReached_of (fd := .cal) _ (by decide))
    rw [if_pos h3] at ht
    generalize ({ s with cal := none } : State).voltagesReached.each (List.range 16) State.place = u at ht hv hvc
    have hmu : u.maint ≠ .closing := fun h => hm ((hv .maint (by decide)).symm.trans h)
    rw [if_neg hmu] at ht
    rw [ht]
    exact ⟨hvc, hv, fun h => absurd (h.symm.trans (Bool.and_eq_true_iff.1 h3).2) (by decide)⟩
  · rw [if_neg h3, if_neg hm] at ht
    rw [ht]
    exact ⟨rfl, fun fd h => Fld.of_upd (L := [.cal]) rfl (Fld.not_mem h), fun _ => ⟨rfl, rfl⟩⟩

theorem State.calDone_running {s : State} {k : Cal} {l : LongCmd} (failed : BitVec 4) (hc : s.cal = some k) (hr : k.running = true)
    (hw : k.kinds.getLsbD 3 = true → k.written = true) (hl : s.longCode? 0x41#8 = some l) :
    let good := k.kinds &&& ~~~failed
    let bad := k.kinds &&& failed
    s.calDone failed = (((s.each ([2, 0, 1, 3].filter good.getLsbD) State.calEffect).finish l stOk
      (leBytes 1 (good.setWidth 8) ++ leBytes 1 (bad.setWidth 8))).log 0x0605 none none none 0 15 (good.toNat + 256 * bad.toNat)).calOver := by
  rw [State.calDone, hc, hl]
  refine if_pos ?_
  cases h : k.kinds.getLsbD 3
  · simp [hr]
  · simp [hr, hw h]

/-- A calibration in a window ends: what succeeded has taken its effect, the command has its final, and nothing else differs. -/
theorem calDone_ends {s : State} {k : Cal} {l : LongCmd} (failed : BitVec 4) (hc : s.cal = some k) (hr : k.running = true)
    (hw : k.kinds.getLsbD 3 = true → k.written = true) (hl : s.longCode? 0x41#8 = some l) (hf : k.forced = false) (hm : s.maint ≠ .closing) :
    let good := k.kinds &&& ~~~failed
    let t := s.calDone failed
    t = { s with cal := none, windows := t.windows, longs := t.longs, faults := t.faults, faultSeq := t.faultSeq
                 faultsLost := t.faultsLost, rails := t.rails, clusters := t.clusters, zones := t.zones, freeCount := t.freeCount } ∧
      Finished s t l stOk (leBytes 1 (good.setWidth 8) ++ leBytes 1 ((k.kinds &&& failed).setWidth 8)) ∧
      (∃ r ∈ t.faults, r.code = 0x0605#16) ∧
      t.rails = (if good.getLsbD 0 then { s.rails with hbmTrained := true } else s.rails) ∧
      (k.kinds.getLsbD 3 = false → t.zones = s.zones ∧ t.freeCount = s.freeCount ∧
        (good.getLsbD 2 = false → t.clusters = s.clusters) ∧
        (good.getLsbD 2 = true → ∀ c, c < 1200 → t.cluster c = { s.cluster c with calibrated := true })) := by
  intro good t
  have hne : stOk ≠ stFaulted := by decide
  have ht : t = _ := State.calDone_running failed hc hr hw hl
  clear_value t
  have hgood : k.kinds.getLsbD 3 = false → good.getLsbD 3 = false := fun h => by simp only [good, BitVec.getLsbD_and, h, Bool.false_and]
  obtain ⟨hu, hur, huz, hu2, hu3⟩ := s.calEffects_leave good.getLsbD
  generalize s.each ([2, 0, 1, 3].filter good.getLsbD) State.calEffect = u at ht hu hur huz hu2 hu3
  generalize leBytes 1 (good.setWidth 8) ++ leBytes 1 ((k.kinds &&& failed).setWidth 8) = b at ht ⊢
  generalize good.toNat + 256 * (k.kinds &&& failed).toNat = d at ht
  have hfin := State.finish_finished (hu .windows (by decide)) (hu .longs (by decide)) hne l b
  have hv (fd : Fld) (h : fd ∉ [Fld.windows, .longs, .faults, .faultSeq, .faultsLost]) :
      fd.of ((u.finish l stOk b).log 0x0605 none none none 0 15 d) = fd.of u :=
    (State.log_of _ _ _ _ _ _ _ _ (Fld.not_mem h)).trans (State.finish_of_ne hne l b (Fld.not_mem h))
  have hfin' : Finished s ((u.finish l stOk b).log 0x0605 none none none 0 15 d) l stOk b := hfin.after rfl rfl
  have hlog := State.log_mem (u.finish l stOk b) 0x0605 none none none 0 15 d
  generalize (u.finish l stOk b).log 0x0605 none none none 0 15 d = v at ht hv hfin' hlog
  have hvc : v.cal = some k := (hv .cal (by decide)).trans ((hu .cal (by decide)).trans hc)
  have hvm : v.maint = s.maint := (hv .maint (by decide)).trans (hu .maint (by decide))
  obtain ⟨hcal, hov, hov3⟩ := State.calOver_leaves hvc hf (hvm ▸ hm)
  rw [← ht] at hcal hov hov3
  have hall (fd : Fld) (h : fd ∉ [Fld.cal, .zones, .clusters, .windows, .longs, .faults, .faultSeq, .faultsLost, .rails, .freeCount]) :
      fd.of t = fd.of s :=
    (hov fd (Fld.not_mem h)).trans ((hv fd (Fld.not_mem h)).trans (hu fd (Fld.not_mem h)))
  refine ⟨?_, hfin'.after (hov .windows (by decide)) (hov .longs (by decide)), ?_, ?_, fun h => ?_⟩
  · rw [← hcal]
    exact State.eq_patch [.cal, .zones, .clusters, .windows, .longs, .faults, .faultSeq, .faultsLost, .rails, .freeCount] hall
  · rw [show t.faults = v.faults from hov .faults (by decide)]
    exact hlog
  · exact (hov .rails (by decide)).trans ((hv .rails (by decide)).trans hur)
  · obtain ⟨hcl, hz⟩ := hov3 h
    obtain ⟨huz, huf⟩ := huz (hgood h)
    have hcl : t.clusters = u.clusters := hcl.trans (hv .clusters (by decide))
    refine ⟨hz.trans ((hv .zones (by decide)).trans huz), (hov .freeCount (by decide)).trans ((hv .freeCount (by decide)).trans huf),
      fun h2 => hcl.trans (hu2 h2), fun h2 c hc => ?_⟩
    rw [State.cluster, hcl]
    exact hu3 h2 c hc

theorem State.testFirst_cons {s : State} {bad r : List (Nat × Nat)} {c lc : Nat} (h : bad = (c, lc) :: r) :
    s.testFirst bad = toLe 2 c ++ toLe 2 (s.lcore c lc % 272) := by
  rw [h]
  rfl

/-- The scratchpads of a partition after its self-test: zero, and no other differs (R390). -/
theorem State.spad_testLeaves_core (s : State) (p c : Nat) {i a : Nat} (hi : i < 272) (ha : a < 262144) :
    mread (s.testLeaves p).spad (262144 * (272 * c + i) + a) =
      if c ∈ s.partClusters p then 0#8 else mread s.spad (262144 * (272 * c + i) + a) := by
  have hd : (262144 * (272 * c + i) + a) / (262144 * 272) = c := by omega
  rw [s.spad_testLeaves, hd]

/-- Settles O13: each clause is what the command's or the step's equation leaves. -/
theorem selfTestAndCal : Obligations.SelfTestAndCal := by
  unfold Obligations.SelfTestAndCal
  refine ⟨?_, ?_, ?_⟩
  · intro die fn slot s c q hr hl he
    refine ⟨fun ho hn h1 ht hlo => ?_, fun ho hcal ⟨u, hu⟩ h0 h16 h2 hright => exec_calRun_opens hr hl he ho hcal hu h0 h16 h2 hright⟩
    have hx := exec_testRun hr hl he ho hn h1 ht hlo
    by_cases hi : (s.part c.named).idle = true
    · obtain ⟨hf, htk, h1, hp⟩ := State.accept_modPart (s := s) (c := c) rfl rfl c.named stAccepted []
      exact ⟨_, hx.trans (congrArg Host.Outcome.next (if_pos hi)), hf, h1, fun _ => ⟨htk, hp⟩, fun h => absurd (hi.symm.trans h) (by decide)⟩
    · obtain ⟨hf, htk, h1, hp⟩ := State.accept_modPart (s := s) (c := c) rfl rfl c.named stDeferred
        (toLe 8 ((s.part c.named).queue.foldl (fun m r => Nat.max m r.promisedEnd) 0))
      exact ⟨_, hx.trans (congrArg Host.Outcome.next (if_neg hi)), hf, h1, fun h => absurd h hi, fun _ => ⟨htk, hp⟩⟩
  · intro part since lv failed l s p q bad
    refine ⟨fun ht hi => ?_, fun ht hl hp => ?_, fun ht hl => ?_⟩
    · exact ⟨_, congrArg Host.Outcome.next (State.testStart_deferred ht hi), PartsOnly.modPart .., s.modPart_one p _, s.part_modPart ..⟩
    · exact ⟨_, congrArg Host.Outcome.next (State.testTimeout_passed ht hl hp), testTimeout_ends s p l⟩
    · obtain ⟨hf, hfin, hd, hlog, h1, hp, hcores, hspad⟩ := testDone_ends rfl (State.testDone_running (failed.map fun x => (x.1.val, x.2.val)) ht hl)
      refine ⟨_, rfl, hf, fun h => ?_, fun c lc r h => ?_, hd, hlog, h1, hp, fun n hn => ?_, fun c hc i a hi ha => ?_, fun c hc i a hi ha => ?_⟩
      · have hb : s.testBad p (failed.map fun x => (x.1.val, x.2.val)) = [] := h
        rw [hb, List.append_assoc] at hfin
        rw [List.append_assoc]
        exact hfin
      · have hfirst : s.testFirst (s.testBad p (failed.map fun x => (x.1.val, x.2.val))) = _ := State.testFirst_cons h
        rw [hfirst] at hfin
        exact hfin
      · refine Eq.trans ?_ (s.coreAt_testLeaves p hn)
        exact congrArg (fun m : SMap Core => sget {} m n) hcores
      · rw [hspad, s.spad_testLeaves_core p c hi ha, if_pos hc]
      · rw [hspad, s.spad_testLeaves_core p c hi ha, if_neg hc]
  · intro k l failed s hc
    refine ⟨fun hr hw hf => ?_, fun hr hf hrun => ?_, fun hr hw hl hf hm => ?_⟩
    · obtain ⟨b, h⟩ := calStart_starts hc hr hw hf
      exact ⟨_, b, rfl, h⟩
    · exact congrArg Host.Outcome.next (State.calStart_waits hc hr hf hrun)
    · exact ⟨_, rfl, calDone_ends failed hc hr hw hl hf hm⟩

end Sys2Proof.Machine
end

section
/-!
QUEUE.CONFIG: a queue setting and a rule write.
-/

namespace Sys2Proof.Machine

open Sys2Proof

section
variable {die : Die} {fn : Fn} {slot : Fin 32} {s : State} (hr : s.ruled = true) (he : s.estate = .e0)
  (hn : s.mayName (s.readCmd die.val fn.val slot.val) = true)
include hr he hn

theorem exec_queueSetting (ho : s.offers die.val fn.val slot.val 0x30 16 = true) (h0 : (s.readCmd die.val fn.val slot.val).at 1 1 = 0) :
    exec (.queueConfigQueueSetting die fn slot) s =
      .next ((s.take (s.readCmd die.val fn.val slot.val)).queueSetting (s.readCmd die.val fn.val slot.val)) := by
  have hlen : 16 ≤ (s.readCmd die.val fn.val slot.val).len := ((State.offers_iff ..).1 ho).2.2.2.1
  refine congrArg Host.Outcome.next (State.serve_passes ?_ ?_ (State.serves_of_e0 he _) (by simp) (fun _ => hn) (fun _ => hr) (by simp))
  · have hneed : queueConfigNeed (s.readCmd die.val fn.val slot.val) = 16 := by
      rw [queueConfigNeed, if_neg (by omega), if_pos h0]
    simpa [hneed] using ho
  · simp [picks, h0]

theorem exec_ruleWrite (ho : s.offers die.val fn.val slot.val 0x30 (8 + 8 * (s.readCmd die.val fn.val slot.val).at 3 1) = true)
    (h1 : (s.readCmd die.val fn.val slot.val).at 1 1 = 1) :
    exec (.queueConfigRuleWrite die fn slot) s =
      .next ((s.take (s.readCmd die.val fn.val slot.val)).ruleWrite (s.readCmd die.val fn.val slot.val)) := by
  have hlen : 8 + 8 * (s.readCmd die.val fn.val slot.val).at 3 1 ≤ (s.readCmd die.val fn.val slot.val).len := ((State.offers_iff ..).1 ho).2.2.2.1
  refine congrArg Host.Outcome.next (State.serve_passes ?_ ?_ (State.serves_of_e0 he _) (by simp) (fun _ => hn) (fun _ => hr) (by simp))
  · have hneed : queueConfigNeed (s.readCmd die.val fn.val slot.val) = 8 + 8 * (s.readCmd die.val fn.val slot.val).at 3 1 := by
      rw [queueConfigNeed, if_neg (by omega), if_neg (by omega), if_pos h1, if_neg (by omega)]
    simpa [hneed] using ho
  · simp [picks, h1]

end

/-- A rule of a command that changes a partition and answers at once. -/
theorem State.answer_modPart (s : State) (c : Cmd) (q : Nat) (f : PartState → PartState) (st : Nat) (b : Bytes) :
    let t := ((s.take c).modPart q f).answer c st b
    t = { s with windows := t.windows, leases := t.leases, parts := t.parts } ∧ Took s t c.die c.fn c.slot [c.msg true st b] ∧
      OnePart s t q ∧ t.part q = f (s.part q) := by
  have hf (fd : Fld) (h : fd ∉ [Fld.windows, .leases, .parts]) : fd.of (((s.take c).modPart q f).answer c st b) = fd.of s :=
    (State.answer_of _ c st b (Fld.not_mem h)).trans ((State.modPart_of _ q f (Fld.not_mem h)).trans (State.take_of s c (Fld.not_mem h)))
  have hparts : (((s.take c).modPart q f).answer c st b).parts = ((s.take c).modPart q f).parts :=
    State.answer_of (fd := .parts) _ _ _ _ (by decide)
  have hp : (s.take c).parts = s.parts := State.take_of (fd := .parts) _ _ (by decide)
  refine ⟨State.eq_patch [.windows, .leases, .parts] hf, Took.answer (v := (s.take c).modPart q f) rfl rfl st b, fun k hk => ?_, ?_⟩
  · rw [hparts, (s.take c).modPart_one q f k hk, hp]
  · rw [State.part, hparts]
    exact State.part_modPart ..

/-- A queue setting that fits takes effect, with a changeover while requests are queued (R270). -/
theorem State.queueSetting_fits {s : State} {c : Cmd} (h0 : c.at 1 1 = 0) :
    let q := s.part c.named
    let k : QueueCfg := { d := c.at 2 2, sIn := c.at 4 2, sOut := c.at 6 2, off := c.at 8 8 }
    let len := k.d * 4096 * (k.sIn + k.sOut)
    1 ≤ k.d → k.d ≤ 64 → k.off % 4096 = 0 → q.cfg.holds k.off len = true →
      (∀ x ∈ q.plans, len = 0 ∨ meets (k.off, len) (x.2.off, x.2.len) = false) → s.lanesFit c.named k = true →
      s.queueSetting c = (s.modPart c.named fun q => { q with qcfg := some k, changeover := !q.queue.isEmpty }).answer c stOk := by
  intro q k len h1 h64 hoff hh hm hl
  refine Eq.trans (if_neg ?_) (if_neg ?_)
  · show ¬(1 < c.at 1 1 ∨ c.at 2 2 < 1 ∨ 64 < c.at 2 2 ∨ c.at 8 8 % 4096 ≠ 0)
    have h1 : 1 ≤ c.at 2 2 := h1
    have h64 : c.at 2 2 ≤ 64 := h64
    have hoff : c.at 8 8 % 4096 = 0 := hoff
    omega
  · have hany : q.plans.any (fun x => len != 0 && meets (k.off, len) (x.2.off, x.2.len)) = false := by
      refine List.any_eq_false.2 fun x hx => ?_
      rcases hm x hx with h | h <;> simp [h]
    change ¬((!q.cfg.holds k.off len || q.plans.any (fun x => len != 0 && meets (k.off, len) (x.2.off, x.2.len)) || !s.lanesFit c.named k) = true)
    rw [hh, hany, hl]
    decide

/-! ## Rules written one after another -/

/-- The rules of a command written at a partition's indices of a host die. -/
def State.writeRules (s : State) (p die : Nat) (l : List (Nat × BitVec 64)) : State :=
  s.each l fun t x => { t with rules := sput 0#64 (256 * die + x.1) (ownRule x.2 p) t.rules }

theorem State.writeRules_cons (s : State) (p die : Nat) (x : Nat × BitVec 64) (l : List (Nat × BitVec 64)) :
    s.writeRules p die (x :: l) = State.writeRules { s with rules := sput 0#64 (256 * die + x.1) (ownRule x.2 p) s.rules } p die l := rfl

theorem State.writeRules_of {fd : Fld} (s : State) (p die : Nat) (l : List (Nat × BitVec 64)) (hfd : fd ∉ [Fld.rules]) :
    fd.of (s.writeRules p die l) = fd.of s := Fld.of_each _ fun _ _ => Fld.of_upd (L := [.rules]) rfl hfd

theorem State.writeRules_out (s : State) (p die : Nat) {l : List (Nat × BitVec 64)} {n : Nat} (h : ∀ x ∈ l, n ≠ 256 * die + x.1) :
    sget 0#64 (s.writeRules p die l).rules n = sget 0#64 s.rules n := by
  induction l generalizing s with
  | nil => rfl
  | cons x l ih =>
    rw [State.writeRules_cons, ih _ fun y hy => h y (List.mem_cons_of_mem _ hy)]
    exact sget_sput_ne _ _ _ _ _ (h x List.mem_cons_self)

/-- Of several rules written at one index, the last stays. -/
theorem State.writeRules_at (s : State) (p die : Nat) {l : List (Nat × BitVec 64)} {j : Nat} (hj : j < l.length)
    (h : ∀ m, j < m → (hm : m < l.length) → l[m].1 ≠ l[j].1) :
    sget 0#64 (s.writeRules p die l).rules (256 * die + l[j].1) = ownRule l[j].2 p := by
  induction l generalizing s j with
  | nil => exact absurd hj (by simp)
  | cons x l ih =>
    rw [State.writeRules_cons]
    cases j with
    | zero =>
      refine (State.writeRules_out _ p die fun y hy => ?_).trans (sget_sput_same ..)
      obtain ⟨m, hm, rfl⟩ := List.getElem_of_mem hy
      have hne : l[m].1 ≠ x.1 := h (m + 1) (by omega) (by simpa using hm)
      simp only [List.getElem_cons_zero]
      omega
    | succ j => exact ih _ (by simpa using hj) fun m hjm hm => h (m + 1) (by omega) (by simpa using hm)

theorem State.ruleWrite_fits {s : State} {c : Cmd} (h1 : c.at 1 1 = 1) (hn : 1 ≤ c.at 3 1) (hn13 : c.at 3 1 ≤ 13)
    (hl : c.at 2 1 + c.at 3 1 ≤ (sget [] (s.part c.named).ruleIdx c.die).length) (hr : c.rules.all ruleOk = true) :
    s.ruleWrite c =
      (s.writeRules c.named c.die (((sget [] (s.part c.named).ruleIdx c.die).drop (c.at 2 1)).zip c.rules)).answer c stOk := by
  refine if_neg ?_
  rw [hr]
  simp only [Bool.not_true, Bool.false_eq_true, or_false]
  omega

theorem State.rules_writeRules {s u : State} (h : u.rules = s.rules) (p die : Nat) (l : List (Nat × BitVec 64)) :
    (u.writeRules p die l).rules = (s.writeRules p die l).rules := by
  induction l generalizing s u with
  | nil => exact h
  | cons x l ih => exact ih (congrArg (sput 0#64 (256 * die + x.1) (ownRule x.2 p)) h)

theorem Cmd.length_rules (c : Cmd) : c.rules.length = c.at 3 1 := by
  rw [Cmd.rules, List.length_map, List.length_range]

/-- A rule of a command that writes rules and answers at once. -/
theorem State.answer_writeRules (s : State) (c : Cmd) (p die : Nat) (l : List (Nat × BitVec 64)) (st : Nat) (b : Bytes) :
    let t := ((s.take c).writeRules p die l).answer c st b
    t = { s with windows := t.windows, leases := t.leases, rules := t.rules } ∧ Took s t c.die c.fn c.slot [c.msg true st b] ∧
      t.rules = (s.writeRules p die l).rules := by
  have hw (fd : Fld) (h : fd ∉ [Fld.rules]) : fd.of ((s.take c).writeRules p die l) = fd.of (s.take c) := State.writeRules_of _ _ _ _ h
  have hr : ((s.take c).writeRules p die l).rules = (s.writeRules p die l).rules :=
    State.rules_writeRules (State.take_of (fd := .rules) s c (by decide)) p die l
  generalize (s.take c).writeRules p die l = v at hw hr
  have hf (fd : Fld) (h : fd ∉ [Fld.windows, .leases, .rules]) : fd.of (v.answer c st b) = fd.of s :=
    (State.answer_of _ c st b (Fld.not_mem h)).trans ((hw fd (Fld.not_mem h)).trans (State.take_of s c (Fld.not_mem h)))
  exact ⟨State.eq_patch [.windows, .leases, .rules] hf, Took.answer (v := v) (hw .windows (by decide)) (hw .leases (by decide)) st b,
    (State.answer_of (fd := .rules) v c st b (by decide)).trans hr⟩

/-- Settles O14. -/
theorem queueConfig : Obligations.QueueConfig := by
  unfold Obligations.QueueConfig
  intro die fn slot s c q k len hr he hn
  refine ⟨fun ho h0 h1 h64 hoff hh hm hl => ?_, fun ho h1 hn1 hn13 => ?_⟩
  · have hcmd : (s.take c).part c.named = s.part c.named := rfl
    have hfit : (s.take c).lanesFit c.named k = true := hl
    refine ⟨_, (exec_queueSetting hr he hn ho h0).trans (congrArg Host.Outcome.next
      (State.queueSetting_fits (s := s.take c) h0 h1 h64 hoff (hcmd ▸ hh) (hcmd ▸ hm) hfit)), ?_⟩
    exact s.answer_modPart c c.named (fun q => { q with qcfg := some k, changeover := !q.queue.isEmpty }) stOk []
  · intro idx hl hrok
    have hzip : ((idx.drop (c.at 2 1)).zip c.rules).length = c.at 3 1 := by
      rw [List.length_zip, c.length_rules, List.length_drop]
      omega
    have hat (j : Nat) (hj : j < ((idx.drop (c.at 2 1)).zip c.rules).length) :
        ((idx.drop (c.at 2 1)).zip c.rules)[j] = (idx.getD (c.at 2 1 + j) 0, c.rules.getD j 0#64) := by
      have hj' : j < c.at 3 1 := hzip ▸ hj
      have hi : c.at 2 1 + j < idx.length := by omega
      have hr : j < c.rules.length := c.length_rules ▸ hj'
      simp [hi, hr]
    refine ⟨_, (exec_ruleWrite hr he hn ho h1).trans (congrArg Host.Outcome.next (State.ruleWrite_fits (s := s.take c) h1 hn1 hn13 hl hrok)), ?_⟩
    obtain ⟨hs, htk, hrules⟩ := s.answer_writeRules c c.named c.die ((idx.drop (c.at 2 1)).zip c.rules) stOk []
    refine ⟨hs, htk, fun j hj hlast => ?_, fun n hout => ?_⟩
    · have hj' : j < ((idx.drop (c.at 2 1)).zip c.rules).length := hzip.symm ▸ hj
      have h := s.writeRules_at c.named c.die hj' fun m hjm hm => by
        rw [hat m hm, hat j hj']
        exact hlast m hjm (hzip ▸ hm)
      rw [hat j hj', ← hrules] at h
      exact h
    · refine Eq.trans (congrArg (sget 0#64 · n) hrules) (s.writeRules_out c.named c.die fun x hx => hout x.1 ?_)
      obtain ⟨m, hm, rfl⟩ := List.getElem_of_mem hx
      have hm' : m < c.at 3 1 := hzip ▸ hm
      rw [List.getElem_zip]
      refine List.mem_take_iff_getElem.2 ⟨m, ?_, rfl⟩
      rw [List.length_drop]
      omega

end Sys2Proof.Machine
end

section
/-!
What an event leaves in the windows it goes to (R233); MAINT.WINDOW (R391, R392).
-/

namespace Sys2Proof.Machine

open Sys2Proof

/-! ## An event waits in every window it goes to -/

theorem slice_append_right (a b : Bytes) (o n : Nat) : slice (a ++ b) (a.length + o) n = slice b o n := by
  induction n generalizing o with
  | zero => rfl
  | succ n ih =>
    unfold slice
    rw [Nat.add_assoc, ih, List.getD_append_right _ _ _ _ (Nat.le_add_right ..), Nat.add_sub_cancel_left]

theorem length_toLe (k v : Nat) : (toLe k v).length = k := by
  induction k generalizing v with
  | zero => rfl
  | succ k ih => exact congrArg (· + 1) (ih _)

theorem leNat_toLe (k v : Nat) : leNat (toLe k v) = v % 256 ^ k := by
  induction k generalizing v with
  | zero => exact (Nat.mod_one v).symm
  | succ k ih =>
    have hm := Nat.mod_mul (x := v) (a := 256) (b := 256 ^ k)
    rw [toLe, leNat, ih, BitVec.toNat_ofNat, Nat.pow_succ (n := 256), Nat.mul_comm (256 ^ k)]
    exact hm.symm

theorem or_land_self (a b : Nat) : (a ||| b) &&& b = b := by
  refine Nat.eq_of_testBit_eq fun i => ?_
  rw [Nat.testBit_and, Nat.testBit_or]
  cases a.testBit i <;> cases b.testBit i <;> rfl

theorem field_toLe_append (n v : Nat) (b : Bytes) : field (toLe n v ++ b) 0 n = v % 256 ^ n := by
  have h (k m : Nat) (c : Bytes) : slice (c ++ (toLe k m ++ b)) c.length k = toLe k m := by
    induction k generalizing m c with
    | zero => rfl
    | succ k ih =>
      have e : c ++ (toLe (k + 1) m ++ b) = (c ++ [BitVec.ofNat 8 m]) ++ (toLe k (m / 256) ++ b) := by simp [toLe]
      have hl : (c ++ [BitVec.ofNat 8 m]).length = c.length + 1 := by simp
      rw [e]
      unfold slice
      rw [← hl, ih, toLe]
      simp
  have h0 : slice (toLe n v ++ b) 0 n = toLe n v := h n v []
  rw [field, h0, leNat_toLe]

theorem leNat_lt (b : Bytes) : leNat b < 256 ^ b.length := by
  induction b with
  | nil => decide
  | cons x b ih =>
    have hx := x.isLt
    rw [leNat, List.length_cons, Nat.pow_succ]
    omega

theorem length_slice (b : Bytes) (o n : Nat) : (slice b o n).length = n := by
  induction n generalizing o with
  | zero => rfl
  | succ n ih => exact congrArg (· + 1) (ih _)

theorem field_lt (b : Bytes) (o n : Nat) : field b o n < 256 ^ n := by
  have h := leNat_lt (slice b o n)
  rwa [length_slice] at h

/-- The causes that an engine state record carries (Table 9.11). -/
theorem State.field_engineRecord (s : State) (f causes : Nat) : field (s.engineRecord f causes) 0x1C 2 = causes % 256 ^ 2 := by
  unfold State.engineRecord
  extract_lets mine
  clear_value mine
  rw [List.append_assoc (_ ++ toLe 2 s.allowance)]
  generalize ha : toLe 1 s.stateCode ++ _ ++ _ ++ _ ++ _ ++ _ ++ _ ++ _ ++ toLe 2 s.allowance = a
  have hl : a.length = 28 := by
    rw [← ha]
    simp only [List.length_append, length_toLe, leBytes]
  have h := slice_append_right a (toLe 2 causes ++ zeros 2) 0 2
  rw [hl] at h
  rw [field, h]
  exact field_toLe_append 2 causes (zeros 2)

/-- A window has an event of a cause waiting. -/
def Window.told (w : Window) (cause : Nat) : Prop := ∃ x ∈ w.outQ, x.event = true ∧ x.causes &&& cause = cause

theorem Window.event_told (w : Window) {record : Nat → Bytes} {causes : Nat} (hr : ∀ c, field (record c) 0x1C 2 = c % 256 ^ 2)
    (hc : causes < 65536) : (w.event record causes).told causes := by
  have hcauses (c : Nat) (h : c < 65536) : Msg.causes { seq := 0xFFFF, command := 0x02, final := true, event := true, status := 0, payload := record c } = c :=
    (hr c).trans (Nat.mod_eq_of_lt h)
  unfold Window.event
  extract_lets mk
  by_cases ha : w.outQ.any Msg.event = true
  · rw [if_pos ha]
    obtain ⟨x, hx, he⟩ := List.any_eq_true.1 ha
    have hlt : x.causes ||| causes < 2 ^ 16 := Nat.or_lt_two_pow (field_lt ..) hc
    refine ⟨mk (x.causes ||| causes), List.mem_map.2 ⟨x, hx, if_pos he⟩, rfl, ?_⟩
    rw [show (mk (x.causes ||| causes)).causes = x.causes ||| causes from hcauses _ hlt]
    exact or_land_self ..
  · rw [if_neg ha]
    refine ⟨mk causes, List.mem_append_right _ List.mem_cons_self, rfl, ?_⟩
    rw [show (mk causes).causes = causes from hcauses _ hc, Nat.and_self]

theorem State.eventTo_told (s : State) {causes h f : Nat} (hf : Nat × Nat) (hc : causes < 65536)
    (ht : (s.window h f).told causes ∨ (h, f) = hf) : ((s.eventTo causes hf).window h f).told causes := by
  by_cases hk : 16 * h + f = 16 * hf.1 + hf.2
  · have hw : (s.eventTo causes hf).window h f = (s.window hf.1 hf.2).event (s.engineRecord hf.2) causes := by
      rw [State.window, hk]
      exact s.window_modWindow hf.1 hf.2 _
    rw [hw]
    exact Window.event_told _ (s.field_engineRecord hf.2) hc
  · rw [State.eventTo, State.window_modWindow_ne _ _ _ _ _ _ hk]
    exact ht.resolve_right fun e => hk (by rw [← e])

theorem State.eventEach_told (s : State) {causes h f : Nat} {l : List (Nat × Nat)} (hc : causes < 65536)
    (ht : (s.window h f).told causes ∨ (h, f) ∈ l) : ((s.each l fun t x => t.eventTo causes x).window h f).told causes := by
  induction l generalizing s with
  | nil => exact ht.resolve_right List.not_mem_nil
  | cons a r ih =>
    rcases ht with ht | ht
    · exact ih _ (.inl (s.eventTo_told a hc (.inl ht)))
    · rcases List.mem_cons.1 ht with e | hr
      · exact ih _ (.inl (s.eventTo_told a hc (.inr e)))
      · exact ih _ (.inr hr)

/-- An event to every open window waits in every open window. -/
theorem State.eventAll_tells {s u : State} {causes : Nat} (hc : causes < 65536) (hp : u.parts = s.parts) : Tells s (u.eventAll causes) causes := by
  intro h f hh hf ho
  refine u.eventEach_told hc (.inr (List.mem_filter.2 ⟨List.mem_flatMap.2 ⟨h, List.mem_range.2 hh, List.mem_map.2 ⟨f, List.mem_range.2 hf, rfl⟩⟩, ?_⟩))
  have hopen : u.isOpen h f = s.isOpen h f := by
    unfold State.isOpen State.enabled State.exists State.part
    rw [hp]
  exact hopen.trans ho

/-- What waits in a window still waits when more is appended. -/
theorem Tells.answer {s t : State} {cause : Nat} (h : Tells s t cause) (c : Cmd) (st : Nat) (b : Bytes) : Tells s (t.answer c st b) cause := by
  intro d f hd hf ho
  obtain ⟨x, hx, hev⟩ := h d f hd hf ho
  refine ⟨x, ?_, hev⟩
  rw [State.answer_eq]
  by_cases hk : 16 * d + f = 16 * c.die + c.fn
  · have hw (m : Msg) : (t.modWindow c.die c.fn fun w => { w with outQ := w.outQ ++ [m] }).window d f =
        { t.window d f with outQ := (t.window d f).outQ ++ [m] } := by
      unfold State.window
      rw [hk]
      exact t.window_modWindow c.die c.fn _
    rw [hw]
    exact List.mem_append_left _ hx
  · rw [State.window_modWindow_ne _ _ _ _ _ _ hk]
    exact hx

/-! ## MAINT.WINDOW sets (R391, R392) -/

section
variable {die : Die} {fn : Fn} {slot : Fin 32} {s : State} (hr : s.ruled = true) (he : s.estate = .e0) (hf : fn = 0)
include hr he hf

/-- An operation of MAINT.WINDOW with the length and the range it asks for. -/
theorem maint_serves {n op : Nat} {act : State → Cmd → State} (ho : s.offers die.val fn.val slot.val 0x42 n = true)
    (hop : (s.readCmd die.val fn.val slot.val).at 0 1 = op) (hneed : maintNeed (s.readCmd die.val fn.val slot.val) = n) :
    s.serve die.val fn.val slot.val { code := 0x42, need := maintNeed, mine := picks 0 op 3, p0 := true } act =
      act (s.take (s.readCmd die.val fn.val slot.val)) (s.readCmd die.val fn.val slot.val) :=
  State.serve_passes (by simpa [hneed] using ho) (by simp [picks, hop]) (State.serves_of_e0 he _) (fun _ => by rw [hf]; rfl) (by simp)
    (fun _ => hr) (by simp)

theorem exec_maintWindowOpen (ho : s.offers die.val fn.val slot.val 0x42 8 = true) (h1 : (s.readCmd die.val fn.val slot.val).at 0 1 = 1)
    (hlo : 1000 ≤ (s.readCmd die.val fn.val slot.val).at 4 4) (hhi : (s.readCmd die.val fn.val slot.val).at 4 4 ≤ 3600000) :
    let c := s.readCmd die.val fn.val slot.val
    exec (.maintWindowOpen die fn slot) s =
      .next (((s.take c).maintOpenOp (c.at 4 4)).answer c stOk ((s.take c).maintOpenOp (c.at 4 4)).maintBytes) := by
  intro c
  refine congrArg Host.Outcome.next ((maint_serves hr he hf ho h1 ?_).trans (if_neg ?_))
  · simp [maintNeed, h1]
  · simp only [h1, decide_eq_true_eq, Bool.or_eq_true, not_or, not_lt]
    exact ⟨by omega, hlo, hhi⟩

theorem exec_maintWindowClose (ho : s.offers die.val fn.val slot.val 0x42 1 = true) (h2 : (s.readCmd die.val fn.val slot.val).at 0 1 = 2) :
    let c := s.readCmd die.val fn.val slot.val
    exec (.maintWindowClose die fn slot) s = .next ((s.take c).maintClose.answer c stOk (s.take c).maintClose.maintBytes) := by
  intro c
  refine congrArg Host.Outcome.next ((maint_serves hr he hf ho h2 ?_).trans (if_neg ?_))
  · simp [maintNeed, h2]
  · simp [h2]

theorem exec_maintWindowSetDeferral (ho : s.offers die.val fn.val slot.val 0x42 12 = true)
    (h3 : (s.readCmd die.val fn.val slot.val).at 0 1 = 3) (hmax : (s.readCmd die.val fn.val slot.val).at 8 4 ≤ 600000) :
    let c := s.readCmd die.val fn.val slot.val
    exec (.maintWindowSetDeferral die fn slot) s = .next (({ s.take c with testDeferMax := c.at 8 4 } : State).answer c stOk
      ({ s.take c with testDeferMax := c.at 8 4 } : State).maintBytes) := by
  intro c
  refine congrArg Host.Outcome.next ((maint_serves hr he hf ho h3 ?_).trans (if_neg ?_))
  · simp [maintNeed, h3]
  · simp only [h3, decide_eq_true_eq, not_or, not_lt]
    exact ⟨by omega, hmax⟩

end

theorem State.take_setMaint (s : State) (c : Cmd) (m : Maint) : { s.take c with maint := m } = State.take { s with maint := m } c := rfl

theorem State.maintClose_closed {s : State} (h : s.maint = .closed) : s.maintClose = s := by
  rw [State.maintClose, h]

/-- A close with no calibration in progress, or before the window is open, closes it (R392). -/
theorem State.maintClose_closes {s : State} (h : s.maint ≠ .closed) (hc : s.cal = none ∨ ∃ ms, s.maint = .opening ms) :
    s.maintClose = ({ s with maint := .closed } : State).eventAll evMaint := by
  unfold State.maintClose
  split
  case h_1 h0 => exact absurd h0 h
  case h_2 => rfl
  case h_3 h1 =>
    have hcal : s.cal = none := hc.resolve_right fun ⟨ms, e⟩ => h1 ms e
    exact if_neg (by rw [hcal]; decide)

/-- A close of an open window waits for the calibration in progress (R392). -/
theorem State.maintClose_waits {s : State} (hc : s.cal ≠ none) (h : s.maint = .closing ∨ ∃ u, s.maint = .opened u) :
    s.maintClose = { s with maint := .closing } := by
  have hs : s.cal.isSome = true := Option.isSome_iff_ne_none.2 hc
  rcases h with h | ⟨u, h⟩ <;> rw [State.maintClose, h] <;> exact if_pos hs

/-- An event that every open window is told, beside what the command changed, and its answer. -/
theorem State.answer_eventAll {s u : State} {c : Cmd} {causes : Nat} (hc : causes < 65536) (hp : u.parts = s.parts)
    (hl : u.leases = (s.take c).leases) (st : Nat) (b : Bytes) :
    let t := (u.eventAll causes).answer c st b
    (∀ fd : Fld, fd ∉ [Fld.windows] → fd.of t = fd.of u) ∧ Tells s t causes ∧ c.msg true st b ∈ (t.window c.die c.fn).outQ ∧
      t.lease 4 (512 * c.die + 32 * c.fn + c.slot) = 0x0FFF#16 := by
  have hev (fd : Fld) (h : fd ∉ [Fld.windows]) : fd.of (u.eventAll causes) = fd.of u := State.eventAll_of _ _ h
  have htell := State.eventAll_tells hc hp
  generalize u.eventAll causes = v at hev htell
  refine ⟨fun fd h => (State.answer_of v c st b h).trans (hev fd h), htell.answer c st b, ?_, ?_⟩
  · rw [State.answer_eq, State.window_modWindow]
    exact List.mem_append_right _ List.mem_cons_self
  · have hvl : (v.answer c st b).leases = ((s.take c).answer c st b).leases :=
      (State.answer_of (fd := .leases) v c st b (by decide)).trans ((hev .leases (by decide)).trans (hl.trans
        (State.answer_of (fd := .leases) _ c st b (by decide)).symm))
    obtain ⟨-, -, hlease, -⟩ := s.answer_answered c st b
    rw [State.lease, hvl]
    exact hlease

theorem State.maintOpened_opens {s : State} {ms : Nat} (h : s.maint = .opening ms) (hq : ∀ p, p < 16 → (s.part p).queue = []) :
    s.maintOpened = ({ s with maint := .opened (s.now + msCclk ms) } : State).eventAll evMaint := by
  rw [State.maintOpened, h]
  refine if_pos (List.all_eq_true.2 fun p hp => ?_)
  rw [hq p (List.mem_range.1 hp)]
  rfl

theorem State.maintOpened_waits {s : State} {ms : Nat} (h : s.maint = .opening ms) (hq : ∃ p, p < 16 ∧ (s.part p).queue ≠ []) :
    s.maintOpened = s := by
  obtain ⟨p, hp, hne⟩ := hq
  rw [State.maintOpened, h]
  refine if_neg fun hall => hne ?_
  exact List.isEmpty_iff.1 (List.all_eq_true.1 hall p (List.mem_range.2 hp))

theorem State.maintExpire_due {s : State} {u : Nat} (h : s.maint = .opened u) (hu : u ≤ s.now) : s.maintExpire = s.maintClose := by
  rw [State.maintExpire, h]
  exact if_pos hu

theorem State.maintExpire_early {s : State} {u : Nat} (h : s.maint = .opened u) (hu : s.now < u) : s.maintExpire = s := by
  rw [State.maintExpire, h]
  exact if_neg (by omega)

/-- The window opens or closes and tells every open window. -/
theorem State.setMaint_tells (s : State) (m : Maint) :
    let t := ({ s with maint := m } : State).eventAll evMaint
    t = { s with maint := m, windows := t.windows } ∧ Queued s t ∧ Tells s t evMaint := by
  have hq : Queued s (({ s with maint := m } : State).eventAll evMaint) := State.eventAll_queued { s with maint := m } evMaint
  have ht := State.eventAll_tells (s := s) (u := { s with maint := m }) (causes := evMaint) (by decide) rfl
  have hev (fd : Fld) (h : fd ∉ [Fld.windows]) := State.eventAll_of (fd := fd) { s with maint := m } evMaint h
  generalize ({ s with maint := m } : State).eventAll evMaint = v at hq ht hev
  exact ⟨State.eq_patch (s := { s with maint := m }) [.windows] hev, hq, ht⟩

theorem State.maintBytes_congr {s t : State} (hm : t.maint = s.maint) (hn : t.now = s.now) (hd : t.testDeferMax = s.testDeferMax) :
    t.maintBytes = s.maintBytes := by
  unfold State.maintBytes
  rw [hm, hn, hd]

/-- A command that closes the window, tells every open window and answers. -/
theorem State.answer_closes (s : State) (c : Cmd) :
    let shut : State := { s with maint := .closed }
    let u : State := { s.take c with maint := .closed }
    let t := (u.eventAll evMaint).answer c stOk (u.eventAll evMaint).maintBytes
    t = { s with windows := t.windows, leases := t.leases, maint := .closed } ∧ Tells s t evMaint ∧
      c.msg true stOk shut.maintBytes ∈ (t.window c.die c.fn).outQ ∧ t.lease 4 (512 * c.die + 32 * c.fn + c.slot) = 0x0FFF#16 := by
  intro shut u
  have hev (fd : Fld) (h : fd ∉ [Fld.windows]) : fd.of (u.eventAll evMaint) = fd.of u := State.eventAll_of _ _ h
  have hu (fd : Fld) (h : fd ∉ [Fld.windows, .leases]) : fd.of u = fd.of shut :=
    State.take_of shut c h
  have hb : (u.eventAll evMaint).maintBytes = shut.maintBytes :=
    (State.maintBytes_congr (hev .maint (by decide)) (hev .now (by decide)) (hev .testDeferMax (by decide))).trans
      (State.maintBytes_congr rfl rfl rfl)
  rw [hb]
  obtain ⟨hf, htell, hmsg, hlease⟩ := State.answer_eventAll (s := s) (u := u) (c := c) (causes := evMaint) (by decide)
    (hu .parts (by decide)) rfl stOk shut.maintBytes
  refine ⟨State.eq_patch (s := shut) [.windows, .leases] fun fd h => ?_, htell, hmsg, hlease⟩
  exact (hf fd (Fld.not_mem h)).trans (hu fd h)

/-- Settles O15. -/
theorem maintWindow : Obligations.MaintWindow := by
  unfold Obligations.MaintWindow
  refine ⟨?_, ?_⟩
  · intro die fn slot s c shut hr he hf
    refine ⟨fun ho h1 hlo hhi => ?_, fun ho h2 => ?_, fun ho h3 hmax => ?_⟩
    · intro m
      refine ⟨_, exec_maintWindowOpen hr he hf ho h1 hlo hhi, ?_⟩
      have hm : (s.take c).maintOpenOp (c.at 4 4) = State.take { s with maint := m } c := rfl
      rw [hm]
      exact State.answer_answered { s with maint := m } c stOk _
    · refine ⟨_, exec_maintWindowClose hr he hf ho h2, fun h => ?_, fun h hc => ?_, fun hc h => ?_⟩
      · rw [State.maintClose_closed (s := s.take c) h]
        exact s.answer_answered c stOk _
      · rw [State.maintClose_closes (s := s.take c) h hc]
        exact s.answer_closes c
      · rw [State.maintClose_waits (s := s.take c) hc h, s.take_setMaint]
        exact State.answer_answered { s with maint := .closing } c stOk _
    · exact ⟨_, exec_maintWindowSetDeferral hr he hf ho h3 hmax, State.answer_answered { s with testDeferMax := c.at 8 4 } c stOk _⟩
  · intro ms u s
    refine ⟨fun h hq => ⟨_, congrArg Host.Outcome.next (State.maintOpened_opens h hq), ?_⟩,
      fun h hq => congrArg Host.Outcome.next (State.maintOpened_waits h hq),
      fun h hu hc => ⟨_, congrArg Host.Outcome.next ((State.maintExpire_due h hu).trans
        (State.maintClose_closes (by rw [h]; exact fun e => by cases e) (.inl hc))), s.setMaint_tells _⟩,
      fun h hu hc => congrArg Host.Outcome.next ((State.maintExpire_due h hu).trans (State.maintClose_waits hc (.inr ⟨u, h⟩))),
      fun h hu => congrArg Host.Outcome.next (State.maintExpire_early h hu)⟩
    rw [show 1000000 * ms = msCclk ms from rfl]
    exact s.setMaint_tells _

end Sys2Proof.Machine
end

section
/-!
POWER.POLICY and POWER.IDLE; a tail write that ends a park (R336, R337, R352, R355).
-/

namespace Sys2Proof.Machine

open Sys2Proof

/-! ## POWER.POLICY sets (R355) -/

section
variable {die : Die} {fn : Fn} {slot : Fin 32} {s : State} (ho : s.offers die.val fn.val slot.val 0x50 16 = true) (hr : s.ruled = true)
  (he : s.estate = .e0) (hf : fn = 0) (h1 : (s.readCmd die.val fn.val slot.val).at 0 1 = 1)
include ho hr he hf h1

theorem exec_powerPolicySet :
    let c := s.readCmd die.val fn.val slot.val
    exec (.powerPolicySet die fn slot) s = .next (if c.policy.ok = true then
      ((s.take c).setPolicy c.policy).answer c stOk ((s.take c).setPolicy c.policy).policyBytes else (s.take c).answer c stBadArg) := by
  intro c
  refine congrArg Host.Outcome.next ((State.serve_passes ?_ ?_ (State.serves_of_e0 he _) (fun _ => by rw [hf]; rfl) (by simp) (fun _ => hr)
    (by simp)).trans ?_)
  · simpa [h1] using ho
  · simp [picks, h1]
  · cases hok : c.policy.ok
    · exact if_pos (Or.inr rfl)
    · refine if_neg ?_
      rw [h1]
      simp

end

/-- A policy that leaves the allowance as it is. -/
theorem State.setPolicy_stays {s : State} {p : Policy} (h : s.allowance ≤ p.fMax) : s.setPolicy p = { s with policy := p } := by
  have hmin : Nat.min s.allowance p.fMax = s.allowance := Nat.min_eq_left h
  rw [State.setPolicy, hmin]
  exact if_pos rfl

theorem State.setPolicy_lowers {s : State} {p : Policy} (h : p.fMax < s.allowance) :
    s.setPolicy p = ({ s with policy := p, allowance := Nat.min s.allowance p.fMax } : State).eventAll evBreath := by
  have hmin : Nat.min s.allowance p.fMax = p.fMax := Nat.min_eq_right h.le
  rw [State.setPolicy]
  refine if_neg ?_
  rw [hmin]
  exact h.ne

theorem State.policyBytes_of_windows {s t : State} (h : ∀ fd : Fld, fd ∉ [Fld.windows] → fd.of t = fd.of s) : t.policyBytes = s.policyBytes := by
  rw [State.eq_patch [.windows] h]
  rfl

/-- A lower f_max lowers the breath allowance, which every open window is told (R352). -/
theorem State.answer_lowers (s : State) (c : Cmd) (p : Policy) (a : Nat) :
    let u : State := { s with policy := p, allowance := a }
    let v : State := { s.take c with policy := p, allowance := a }
    let t := (v.eventAll evBreath).answer c stOk (v.eventAll evBreath).policyBytes
    t = { s with windows := t.windows, leases := t.leases, policy := p, allowance := a } ∧
      t.lease 4 (512 * c.die + 32 * c.fn + c.slot) = 0x0FFF#16 ∧ Tells s t evBreath ∧
      c.msg true stOk u.policyBytes ∈ (t.window c.die c.fn).outQ := by
  intro u v
  have hv (fd : Fld) (h : fd ∉ [Fld.windows, .leases]) : fd.of v = fd.of u := State.take_of u c h
  have hb : (v.eventAll evBreath).policyBytes = u.policyBytes :=
    (State.policyBytes_of_windows fun fd h => State.eventAll_of v evBreath h).trans rfl
  rw [hb]
  obtain ⟨hf, htell, hmsg, hlease⟩ := State.answer_eventAll (s := s) (u := v) (c := c) (causes := evBreath) (by decide)
    (hv .parts (by decide)) rfl stOk u.policyBytes
  refine ⟨State.eq_patch (s := u) [.windows, .leases] fun fd h => ?_, hlease, htell, hmsg⟩
  exact (hf fd (Fld.not_mem h)).trans (hv fd h)

/-- POWER.POLICY, whatever it carries. -/
theorem powerPolicySet_answers (s : State) (c : Cmd) :
    let a := Nat.min s.allowance c.policy.fMax
    let t := ((s.take c).setPolicy c.policy).answer c stOk ((s.take c).setPolicy c.policy).policyBytes
    t = { s with windows := t.windows, leases := t.leases, policy := c.policy, allowance := a } ∧
      t.lease 4 (512 * c.die + 32 * c.fn + c.slot) = 0x0FFF#16 ∧
      (s.allowance ≤ c.policy.fMax → Took s t c.die c.fn c.slot [c.msg true stOk ({ s with policy := c.policy } : State).policyBytes]) ∧
      (c.policy.fMax < s.allowance → Tells s t evBreath ∧
        c.msg true stOk ({ s with policy := c.policy, allowance := a } : State).policyBytes ∈ (t.window c.die c.fn).outQ) := by
  intro a
  have hal : (s.take c).allowance = s.allowance := State.take_of (fd := .allowance) s c (by decide)
  rcases Nat.lt_or_ge c.policy.fMax s.allowance with h | h
  · rw [State.setPolicy_lowers (hal ▸ h), hal]
    obtain ⟨hs, hl, ht, hm⟩ := s.answer_lowers c c.policy a
    exact ⟨hs, hl, fun h' => absurd h' (by omega), fun _ => ⟨ht, hm⟩⟩
  · have hmin : a = s.allowance := Nat.min_eq_left h
    rw [State.setPolicy_stays (hal ▸ h), hmin]
    have hb : ({ s.take c with policy := c.policy } : State).policyBytes = ({ s with policy := c.policy } : State).policyBytes := rfl
    have hu : { s.take c with policy := c.policy } = State.take { s with policy := c.policy } c := rfl
    rw [hb, hu]
    obtain ⟨hs, ht⟩ := State.answer_answered { s with policy := c.policy } c stOk ({ s with policy := c.policy } : State).policyBytes
    have ht : Took s _ c.die c.fn c.slot _ := ht
    exact ⟨hs, ht.2.1, fun _ => ht, fun h' => absurd h' (by omega)⟩

/-! ## Clusters sent down and woken -/

theorem State.cluster_eachCluster_out (s : State) (g : Cluster → Cluster) {l : List Nat} {c : Nat} (h : c ∉ l) :
    (s.each l fun t c => t.modCluster c g).cluster c = s.cluster c := by
  induction l generalizing s with
  | nil => rfl
  | cons a r ih =>
    exact (ih _ (List.not_mem_of_not_mem_cons h)).trans (State.cluster_modCluster_ne _ _ _ _ (List.ne_of_not_mem_cons h))

/-- What one change of a cluster leaves whatever it was stands after a list of them. -/
theorem State.cluster_eachCluster (s : State) {g : Cluster → Cluster} {P : Cluster → Prop} (hg : ∀ k, P (g k)) {l : List Nat} {c : Nat} (h : c ∈ l) :
    P ((s.each l fun t c => t.modCluster c g).cluster c) := by
  induction l generalizing s with
  | nil => exact absurd h List.not_mem_nil
  | cons a r ih =>
    by_cases hr : c ∈ r
    · exact ih _ hr
    · have ha : c = a := (List.mem_cons.1 h).resolve_right hr
      refine Eq.subst (motive := P) (State.cluster_eachCluster_out _ g hr).symm ?_
      rw [ha, State.cluster_modCluster]
      exact hg _

theorem State.cluster_eachCluster_keeps {α : Type} (s : State) {g : Cluster → Cluster} {x : Cluster → α} (hg : ∀ k, x (g k) = x k) (l : List Nat) (c : Nat) :
    x ((s.each l fun t c => t.modCluster c g).cluster c) = x (s.cluster c) := by
  induction l generalizing s with
  | nil => rfl
  | cons a r ih =>
    refine (ih _).trans ?_
    by_cases ha : c = a
    · rw [ha, State.cluster_modCluster, hg]
    · rw [State.cluster_modCluster_ne _ _ _ _ ha]

theorem CState.le_deeper (a b : CState) : b.depth ≤ (deeper a b).depth := by
  unfold deeper
  split <;> omega

/-- A cluster sent towards a park state is as deep as it or on its way there. -/
theorem Cluster.enter_goesDown (k : Cluster) {aim : CState} (h : 2 ≤ aim.depth) : (k.enter aim).goesDown aim := by
  unfold Cluster.enter
  rw [if_pos h]
  extract_lets k'
  have hp : k'.power = k.power := rfl
  split
  next e w _ =>
    by_cases hlt : aim.depth < e.depth
    · refine .inr ⟨e, w.map fun x => deeper x aim, by rw [if_pos hlt], hlt.le, fun y hy => ?_⟩
      obtain ⟨x, -, rfl⟩ := Option.map_eq_some_iff.1 hy
      exact CState.le_deeper x aim
    · exact .inr ⟨aim, none, by rw [if_neg hlt], le_rfl, fun y hy => by cases hy⟩
  next e _ =>
    exact .inr ⟨deeper k'.power aim, none, by rw [if_neg (by omega)], CState.le_deeper _ aim, fun y hy => by cases hy⟩
  next hn =>
    by_cases hlt : k'.power.depth < aim.depth
    · exact .inr ⟨aim, none, by rw [if_pos hlt], le_rfl, fun y hy => by cases hy⟩
    · rw [if_neg hlt]
      exact .inl ⟨hn, by omega⟩

theorem Cluster.wake_mayWake (k : Cluster) (aim : CState) : (k.wake aim).mayWake = k.mayWake := by
  unfold Cluster.wake
  split
  · split
    · rfl
    · rfl
    · split <;> rfl
  · rfl

/-- A cluster that may wake comes up. -/
theorem Cluster.wake_comesUp (k : Cluster) (h : (k.wake .c1).mayWake = true) : (k.wake .c1).comesUp := by
  rw [k.wake_mayWake] at h
  unfold Cluster.wake
  rw [if_pos h]
  split
  next e w _ => exact .inr (.inr ⟨e, rfl⟩)
  next e _ =>
    by_cases hd : CState.c1.depth < e.depth
    · exact .inr (.inl ⟨.c1, by rw [if_pos hd], le_rfl⟩)
    · exact .inr (.inl ⟨e, by rw [if_neg hd], Nat.le_of_not_lt hd⟩)
  next hn =>
    by_cases hd : CState.c1.depth < k.power.depth
    · exact .inr (.inl ⟨.c1, by rw [if_pos hd], le_rfl⟩)
    · rw [if_neg hd]
      exact .inl ⟨hn, Nat.le_of_not_lt hd⟩

/-- Every listed cluster that may wake comes up, and no other differs. -/
theorem State.wakeAll_leaves (s : State) (l : List Nat) : (∀ x, x ∉ l → (s.wakeAll l .c1).cluster x = s.cluster x) ∧
    ∀ x ∈ l, (s.cluster x).mayWake = true → ((s.wakeAll l .c1).cluster x).comesUp := by
  refine ⟨fun x hx => s.cluster_eachCluster_out _ hx, fun x hx hm => ?_⟩
  refine s.cluster_eachCluster (g := (·.wake .c1)) (P := fun k => k.mayWake = true → k.comesUp) Cluster.wake_comesUp hx ?_
  rwa [s.cluster_eachCluster_keeps (x := Cluster.mayWake) fun k => k.wake_mayWake .c1]

/-! ## POWER.IDLE parks and unparks (R336, R337) -/

/-- A park that may be complete. -/
theorem State.parkDone_or (s : State) (p : Nat) : s.parkDone p = s ∨
    (s.parkDone p = s.modPart p (fun q => { q with park := .parked }) ∧
      ∀ x ∈ (s.part p).cfg.clusters, (s.cluster x).parkedAt (s.part p).parkTo = true) := by
  rw [State.parkDone]
  by_cases h : ((s.part p).park == .parking && (s.part p).queue.isEmpty && (s.part p).run.isNone &&
      (s.part p).cfg.clusters.all fun c => (s.cluster c).parkedAt (s.part p).parkTo) = true
  · refine .inr ⟨if_pos h, ?_⟩
    simp only [Bool.and_eq_true, List.all_eq_true] at h
    exact h.2
  · exact .inl (if_neg h)

/-- A park of a serving partition: an idle one's clusters go down, and it is parked once all are there (R336). -/
theorem State.parkPart_leaves (s : State) (p : Nat) {aim : CState} (ha : 2 ≤ aim.depth)
    (h : (s.part p).park = .serving ∨ (s.part p).park = .unparking) :
    let v := s.parkPart p aim
    let q := s.part p
    (∀ fd : Fld, fd ∉ [Fld.parts, .clusters] → fd.of v = fd.of s) ∧ OnePart s v p ∧ (∀ x, x ∉ q.cfg.clusters → v.cluster x = s.cluster x) ∧
      v.part p = { q with park := (v.part p).park, parkTo := aim } ∧
      ((v.part p).park = .parking ∨ ((v.part p).park = .parked ∧ ∀ x ∈ q.cfg.clusters, (v.cluster x).parkedAt aim = true)) ∧
      (q.idle = false → v.clusters = s.clusters ∧ (v.part p).park = .parking) ∧
      (q.idle = true → ∀ x ∈ q.cfg.clusters, (v.cluster x).goesDown aim) := by
  intro v q
  let u := s.modPart p fun q => { q with park := .parking, parkTo := aim }
  have hu : u.part p = { q with park := .parking, parkTo := aim } := s.part_modPart p _
  have hu1 : OnePart s u p := s.modPart_one p _
  have huf (fd : Fld) (h : fd ∉ [Fld.parts]) : fd.of u = fd.of s := State.modPart_of s p _ h
  have hv : v = if q.idle then (u.enterAll q.cfg.clusters aim).parkDone p else u := by
    show s.parkPart p aim = _
    unfold State.parkPart
    extract_lets
    rcases h with h | h <;> rw [show q.park = _ from h] <;> rfl
  clear_value v u
  cases hi : q.idle
  · rw [hi, if_neg (by decide)] at hv
    subst hv
    have hcl : v.clusters = s.clusters := huf .clusters (by decide)
    refine ⟨fun fd h => huf fd (Fld.not_mem h), hu1, fun x _ => ?_, by rw [hu], .inl (by rw [hu]), fun _ => ⟨hcl, by rw [hu]⟩,
      fun h => absurd h (by decide)⟩
    rw [State.cluster, hcl]
    rfl
  · rw [hi, if_pos rfl] at hv
    have hwf (fd : Fld) (h : fd ∉ [Fld.clusters]) : fd.of (u.enterAll q.cfg.clusters aim) = fd.of u := State.enterAll_of u _ aim h
    have hwout (x : Nat) (h : x ∉ q.cfg.clusters) : (u.enterAll q.cfg.clusters aim).cluster x = u.cluster x := u.cluster_eachCluster_out _ h
    have hwin (x : Nat) (h : x ∈ q.cfg.clusters) : ((u.enterAll q.cfg.clusters aim).cluster x).goesDown aim :=
      u.cluster_eachCluster (P := fun k => k.goesDown aim) (fun k => k.enter_goesDown ha) h
    generalize u.enterAll q.cfg.clusters aim = w at hv hwf hwout hwin
    have hwp : w.part p = { q with park := .parking, parkTo := aim } := by
      rw [State.part, show w.parts = u.parts from hwf .parts (by decide)]
      exact hu
    have hw1 : OnePart s w p := fun k hk => by
      rw [show w.parts = u.parts from hwf .parts (by decide)]
      exact hu1 k hk
    have hucl (x : Nat) : u.cluster x = s.cluster x := by
      rw [State.cluster, show u.clusters = s.clusters from huf .clusters (by decide)]
      rfl
    rcases w.parkDone_or p with hd | ⟨hd, hall⟩
    · rw [hd] at hv
      subst hv
      exact ⟨fun fd h => (hwf fd (Fld.not_mem h)).trans (huf fd (Fld.not_mem h)), hw1, fun x hx => (hwout x hx).trans (hucl x), by rw [hwp],
        .inl (by rw [hwp]), fun h => absurd h (by decide), fun _ => hwin⟩
    · rw [hd] at hv
      have hvp : v.part p = { q with park := .parked, parkTo := aim } := by
        rw [hv, State.part_modPart, hwp]
      have hvf (fd : Fld) (h : fd ∉ [Fld.parts]) : fd.of v = fd.of w := by
        rw [hv]
        exact State.modPart_of w p _ h
      have hvcl (x : Nat) : v.cluster x = w.cluster x := by
        rw [State.cluster, show v.clusters = w.clusters from hvf .clusters (by decide)]
        rfl
      rw [hwp] at hall
      refine ⟨fun fd h => (hvf fd (Fld.not_mem h)).trans ((hwf fd (Fld.not_mem h)).trans (huf fd (Fld.not_mem h))), fun k hk => ?_,
        fun x hx => (hvcl x).trans ((hwout x hx).trans (hucl x)), by rw [hvp], .inr ⟨by rw [hvp], fun x hx => ?_⟩, fun h => absurd h (by decide),
        fun _ x hx => ?_⟩
      · rw [hv]
        exact (w.modPart_one p _ k hk).trans (hw1 k hk)
      · rw [hvcl]
        exact hall x hx
      · rw [hvcl]
        exact hwin x hx

theorem State.place_bound {s : State} {p : Nat} (hp : (s.part p).park = .unparking) :
    s.place p = if (s.part p).bound.isSome then s.wakeAll (s.part p).cfg.clusters .c1 else s := by
  unfold State.place
  extract_lets q
  rw [show q.park = .unparking from hp]
  have hb : (q.bound.isSome && (Park.unparking == .serving || Park.unparking == .unparking)) = q.bound.isSome := Bool.and_true _
  rw [hb]
  rfl

/-- The end of a park: in E0 every cluster of a bound partition that may wake comes up (R337). -/
theorem State.unpark_leaves (s : State) (p : Nat) (h : (s.part p).park = .parked ∨ (s.part p).park = .parking) :
    let v := s.unpark p
    let q := s.part p
    (∀ fd : Fld, fd ∉ [Fld.parts, .clusters] → fd.of v = fd.of s) ∧ OnePart s v p ∧ (∀ x, x ∉ q.cfg.clusters → v.cluster x = s.cluster x) ∧
      v.part p = { q with park := (v.part p).park } ∧ ((v.part p).park = .unparking ∨ (v.part p).park = .serving) ∧
      ((s.inE0 = false ∨ q.bound = none) → v.clusters = s.clusters) ∧
      (s.inE0 = true → q.bound ≠ none → ∀ x ∈ q.cfg.clusters, (s.cluster x).mayWake = true → (v.cluster x).comesUp) := by
  intro v q
  let u := s.modPart p fun q => { q with park := .unparking }
  let w := if u.inE0 then u.place p else u
  have hu : u.part p = { q with park := .unparking } := s.part_modPart p _
  have hu1 : OnePart s u p := s.modPart_one p _
  have huf (fd : Fld) (h : fd ∉ [Fld.parts]) : fd.of u = fd.of s := State.modPart_of s p _ h
  have hue : u.inE0 = s.inE0 := rfl
  have hucl (x : Nat) : u.cluster x = s.cluster x := rfl
  have hv : v = w ∨ v = w.modPart p fun q => { q with park := .serving } := by
    have hv : v = if q.bound.isNone || q.cfg.clusters.all (fun c => (w.cluster c).retired ||
        ((w.cluster c).trans.isNone && decide ((w.cluster c).power.depth ≤ 1))) then w.modPart p (fun q => { q with park := .serving }) else w :=
      if_pos h
    rw [hv]
    split
    · exact .inr rfl
    · exact .inl rfl
  clear_value v u
  have hwf (fd : Fld) (h : fd ∉ [Fld.clusters]) : fd.of w = fd.of u :=
    (Fld.of_ite _ _).trans ((congrArg (ite _ · _) (State.place_of u p h)).trans (ite_self _))
  have hplace : u.place p = if q.bound.isSome then u.wakeAll q.cfg.clusters .c1 else u := by
    rw [State.place_bound (by rw [hu]), hu]
  have hw : w = if s.inE0 = true ∧ q.bound.isSome = true then u.wakeAll q.cfg.clusters .c1 else u := by
    show (if u.inE0 = true then u.place p else u) = _
    rw [hplace, hue, ite_and]
  clear_value w
  obtain ⟨hout, hin⟩ := u.wakeAll_leaves q.cfg.clusters
  have hwp : w.part p = { q with park := .unparking } := by
    rw [State.part, show w.parts = u.parts from hwf .parts (by decide)]
    exact hu
  have hw1 : OnePart s w p := fun k hk => by
    rw [show w.parts = u.parts from hwf .parts (by decide)]
    exact hu1 k hk
  have hwout (x : Nat) (hx : x ∉ q.cfg.clusters) : w.cluster x = s.cluster x := by
    rw [hw]
    split
    · exact (hout x hx).trans (hucl x)
    · exact hucl x
  have hwsame (h : s.inE0 = false ∨ q.bound = none) : w.clusters = s.clusters := by
    rw [hw, if_neg (by rcases h with h | h <;> simp [h])]
    exact huf .clusters (by decide)
  have hwin (he : s.inE0 = true) (hb : q.bound ≠ none) (x : Nat) (hx : x ∈ q.cfg.clusters) (hm : (s.cluster x).mayWake = true) :
      (w.cluster x).comesUp := by
    rw [hw, if_pos ⟨he, Option.isSome_iff_ne_none.2 hb⟩]
    exact hin x hx (by rwa [hucl])
  rcases hv with hv | hv
  · subst hv
    exact ⟨fun fd h => (hwf fd (Fld.not_mem h)).trans (huf fd (Fld.not_mem h)), hw1, hwout, by rw [hwp], .inl (by rw [hwp]), hwsame, hwin⟩
  · have hvf (fd : Fld) (h : fd ∉ [Fld.parts]) : fd.of v = fd.of w := by
      rw [hv]
      exact State.modPart_of w p _ h
    have hvc : v.clusters = w.clusters := hvf .clusters (by decide)
    have hvcl (x : Nat) : v.cluster x = w.cluster x := by
      rw [State.cluster, hvc]
      rfl
    have hvp : v.part p = { q with park := .serving } := by
      rw [hv, State.part_modPart, hwp]
    refine ⟨fun fd h => (hvf fd (Fld.not_mem h)).trans ((hwf fd (Fld.not_mem h)).trans (huf fd (Fld.not_mem h))), fun k hk => ?_,
      fun x hx => (hvcl x).trans (hwout x hx), by rw [hvp], .inr (by rw [hvp]), fun h => hvc.trans (hwsame h), fun he hb x hx hm => ?_⟩
    · rw [hv]
      exact (w.modPart_one p _ k hk).trans (hw1 k hk)
    · rw [hvcl]
      exact hwin he hb x hx hm

section
variable {die : Die} {fn : Fn} {slot : Fin 32} {s : State} (hr : s.ruled = true) (he : s.estate = .e0)
  (hn : s.mayName (s.readCmd die.val fn.val slot.val) = true) (hw : (s.part (s.readCmd die.val fn.val slot.val).named).cfg.w ≠ 0)
include hr he hn hw

theorem exec_powerIdlePark (ho : s.offers die.val fn.val slot.val 0x51 3 = true) (h1 : (s.readCmd die.val fn.val slot.val).at 1 1 = 1)
    (h2 : (s.readCmd die.val fn.val slot.val).at 2 1 = 2 ∨ (s.readCmd die.val fn.val slot.val).at 2 1 = 3) :
    let c := s.readCmd die.val fn.val slot.val
    let v := (s.take c).parkPart c.named (if c.at 2 1 = 2 then .c2 else .c3)
    exec (.powerIdlePark die fn slot) s = .next (v.answer c stOk (v.idleBytes c.named)) := by
  intro c v
  refine congrArg Host.Outcome.next ((State.serve_passes ?_ ?_ (State.serves_of_e0 he _) (by simp [idleRow]) (fun _ => hn) (fun _ => hr)
    (by simp [idleRow])).trans (if_neg ?_))
  · simpa [idleRow, h1] using ho
  · simp [idleRow, picks, h1]
  · have hw' : ((s.take c).part c.named).cfg.w ≠ 0 := hw
    rcases h2 with h2 | h2 <;> simp [h1, h2, c] <;> exact hw'

theorem exec_powerIdleUnpark (ho : s.offers die.val fn.val slot.val 0x51 2 = true) (h1 : (s.readCmd die.val fn.val slot.val).at 1 1 = 2) :
    let c := s.readCmd die.val fn.val slot.val
    let v := (s.take c).unpark c.named
    exec (.powerIdleUnpark die fn slot) s = .next (v.answer c stOk (v.idleBytes c.named)) := by
  intro c v
  refine congrArg Host.Outcome.next ((State.serve_passes ?_ ?_ (State.serves_of_e0 he _) (by simp [idleRow]) (fun _ => hn) (fun _ => hr)
    (by simp [idleRow])).trans (if_neg ?_))
  · simpa [idleRow, h1] using ho
  · simp [idleRow, picks, h1]
  · have hw' : ((s.take c).part c.named).cfg.w ≠ 0 := hw
    simp [h1]
    exact hw'

end

theorem State.idleBytes_congr {s t : State} (h : t.parts = s.parts) (p : Nat) : t.idleBytes p = s.idleBytes p := by
  unfold State.idleBytes State.part
  rw [h]

theorem State.part_congr {s t : State} (h : t.parts = s.parts) (p : Nat) : t.part p = s.part p := by
  unfold State.part
  rw [h]

theorem State.cluster_congr {s t : State} (h : t.clusters = s.clusters) (c : Nat) : t.cluster c = s.cluster c := by
  unfold State.cluster
  rw [h]

theorem State.window_congr {s t : State} (h : t.windows = s.windows) (d f : Nat) : t.window d f = s.window d f := by
  unfold State.window
  rw [h]

theorem State.inE0_of_offers {s : State} {h f i code need : Nat} (ho : s.offers h f i code need = true) (he : s.estate = .e0) : s.inE0 = true := by
  have ht := ((State.offers_iff ..).1 ho).1
  simp only [State.canTake, Bool.and_eq_true, beq_iff_eq] at ht
  obtain ⟨⟨⟨hup, -⟩, -⟩, -⟩ := ht
  rw [State.inE0, he, hup]
  rfl

/-- A tail write to an enabled ring ends a park. -/
theorem exec_sqTail_unparks {die : Die} {fn : Fn} {ring : Fin 7} {s : State} (v : BitVec 32) (hr : s.reach die.val fn.val = true)
    (hen : ((s.window die.val fn.val).ring ring.val).enable = true) :
    exec (.hdSqTail die fn ring v) s =
      .next ((s.modWindow die.val fn.val fun w => w.modRing ring.val (·.writeTail (v.setWidth 16))).unpark fn.val) :=
  congrArg Host.Outcome.next ((State.mmio_of_reach hr _).trans (if_pos hen))

/-- A POWER.IDLE command's answer, beside what it left of the partition and its clusters. -/
theorem State.answer_idle {s v : State} {c : Cmd} (hv : ∀ fd : Fld, fd ∉ [Fld.parts, .clusters] → fd.of v = fd.of (s.take c)) (p : Nat) :
    let t := v.answer c stOk (v.idleBytes p)
    t.parts = v.parts ∧ t.clusters = v.clusters ∧ t = { s with windows := t.windows, leases := t.leases, parts := t.parts, clusters := t.clusters } ∧
      Took s t c.die c.fn c.slot [c.msg true stOk (t.idleBytes p)] := by
  have ht (fd : Fld) (h : fd ∉ [Fld.windows]) : fd.of (v.answer c stOk (v.idleBytes p)) = fd.of v := State.answer_of v c stOk _ h
  have hp : (v.answer c stOk (v.idleBytes p)).parts = v.parts := ht .parts (by decide)
  refine ⟨hp, ht .clusters (by decide), State.eq_patch [.windows, .leases, .parts, .clusters] fun fd h => ?_, ?_⟩
  · exact (ht fd (Fld.not_mem h)).trans ((hv fd (Fld.not_mem h)).trans (State.take_of s c (Fld.not_mem h)))
  · rw [State.idleBytes_congr hp]
    exact Took.answer (v := v) (hv .windows (by decide)) (hv .leases (by decide)) stOk _

/-- Settles O16. -/
theorem powerCommands : Obligations.PowerCommands := by
  unfold Obligations.PowerCommands
  refine ⟨?_, ?_, ?_⟩
  · intro die fn slot s c a ho hr he hf h1
    refine ⟨fun hok => ⟨_, (exec_powerPolicySet ho hr he hf h1).trans (congrArg Host.Outcome.next (if_pos hok)),
      powerPolicySet_answers s c⟩, fun hok => ⟨_, (exec_powerPolicySet ho hr he hf h1).trans
        (congrArg Host.Outcome.next (if_neg (by rw [hok]; decide))), s.answer_answered c stBadArg []⟩⟩
  · intro die fn slot s c q aim frame hr he hn hw
    refine ⟨fun ho h1 h2 hpark => ?_, fun ho h1 hpark => ?_⟩
    · refine ⟨_, exec_powerIdlePark hr he hn hw ho h1 h2, ?_⟩
      have haim : 2 ≤ aim.depth := by
        dsimp only [aim]
        split <;> decide
      obtain ⟨hv, h1p, hout, hpart, hpk, hbusy, hidle⟩ := (s.take c).parkPart_leaves c.named haim hpark
      change frame (((s.take c).parkPart c.named aim).answer c stOk (((s.take c).parkPart c.named aim).idleBytes c.named)) ∧ _
      generalize (s.take c).parkPart c.named aim = v at hv h1p hout hpart hpk hbusy hidle
      obtain ⟨hp, hcl, hs, htk⟩ := State.answer_idle (s := s) hv c.named
      generalize v.answer c stOk (v.idleBytes c.named) = t at hp hcl hs htk ⊢
      have htp : t.part c.named = v.part c.named := State.part_congr hp _
      have htc (x : Nat) : t.cluster x = v.cluster x := State.cluster_congr hcl x
      rw [htp]
      refine ⟨⟨hs, fun k hk => ?_, fun x hx => (htc x).trans (hout x hx), htk⟩, hpart, ?_, fun h => ?_, fun h x hx => ?_⟩
      · rw [hp]
        exact h1p k hk
      · refine hpk.imp_right fun ⟨hd, hall⟩ => ⟨hd, fun x hx => ?_⟩
        rw [htc]
        exact hall x hx
      · exact ⟨hcl.trans (hbusy h).1, (hbusy h).2⟩
      · rw [htc]
        exact hidle h x hx
    · refine ⟨_, exec_powerIdleUnpark hr he hn hw ho h1, ?_⟩
      obtain ⟨hv, h1p, hout, hpart, hpk, hstay, hwake⟩ := (s.take c).unpark_leaves c.named hpark
      change frame (((s.take c).unpark c.named).answer c stOk (((s.take c).unpark c.named).idleBytes c.named)) ∧ _
      generalize (s.take c).unpark c.named = v at hv h1p hout hpart hpk hstay hwake
      obtain ⟨hp, hcl, hs, htk⟩ := State.answer_idle (s := s) hv c.named
      generalize v.answer c stOk (v.idleBytes c.named) = t at hp hcl hs htk ⊢
      have htp : t.part c.named = v.part c.named := State.part_congr hp _
      have htc (x : Nat) : t.cluster x = v.cluster x := State.cluster_congr hcl x
      rw [htp]
      refine ⟨⟨hs, fun k hk => ?_, fun x hx => (htc x).trans (hout x hx), htk⟩, hpart, hpk, fun h => hcl.trans (hstay (.inr h)), fun h x hx hm => ?_⟩
      · rw [hp]
        exact h1p k hk
      · rw [htc]
        exact hwake (show s.inE0 = true from State.inE0_of_offers ho he) h x hx hm
  · intro die fn ring v s q hreach hen hpark
    refine ⟨_, exec_sqTail_unparks v hreach hen, ?_⟩
    obtain ⟨hf, h1p, hout, hpart, hpk, hstay, hwake⟩ :=
      (s.modWindow die.val fn.val fun w => w.modRing ring.val (·.writeTail (v.setWidth 16))).unpark_leaves fn.val hpark
    have hw : OneWindow s (s.modWindow die.val fn.val fun w => w.modRing ring.val (·.writeTail (v.setWidth 16))) die.val fn.val :=
      s.modWindow_one die.val fn.val _
    have hat := s.window_modWindow die.val fn.val fun w => w.modRing ring.val (·.writeTail (v.setWidth 16))
    have hm (fd : Fld) (h : fd ∉ [Fld.windows]) := State.modWindow_of (fd := fd) s die.val fn.val
      (fun w => w.modRing ring.val (·.writeTail (v.setWidth 16))) h
    generalize s.modWindow die.val fn.val (fun w => w.modRing ring.val (·.writeTail (v.setWidth 16))) = u at hf h1p hout hpart hpk hstay hwake hw hat hm ⊢
    have hp : u.parts = s.parts := hm .parts (by decide)
    have hcl : u.clusters = s.clusters := hm .clusters (by decide)
    have hq : u.part fn.val = q := State.part_congr hp _
    have hc (x : Nat) : u.cluster x = s.cluster x := State.cluster_congr hcl x
    have he : u.inE0 = s.inE0 := by
      rw [State.inE0, State.inE0, show u.supply = s.supply from hm .supply (by decide), show u.estate = s.estate from hm .estate (by decide)]
    have htw : (u.unpark fn.val).windows = u.windows := hf .windows (by decide)
    rw [hq] at hout hpart hstay hwake
    rw [he, hcl] at hstay
    rw [he] at hwake
    refine ⟨State.eq_patch [.windows, .parts, .clusters] fun fd h => (hf fd (Fld.not_mem h)).trans (hm fd (Fld.not_mem h)), fun k hk => ?_, ?_,
      fun k hk => ?_, hpart, hpk, hstay, fun x hx => (hout x hx).trans (hc x), fun he0 hb x hx hmw => hwake he0 hb x hx (by rwa [hc])⟩
    · rw [htw]
      exact hw k hk
    · rw [State.window_congr htw]
      exact hat
    · rw [h1p k hk, hp]

end Sys2Proof.Machine
end

section
/-!
What is local to one partition; PLAN.LOAD, PLAN.BIND, PLAN.VERIFY and their ends (R174 to R181).
-/

namespace Sys2Proof.Machine

open Sys2Proof

/-! ## Changes that keep to one partition -/

theorem State.coreAt_congr {s t : State} (h : t.cores = s.cores) (n : Nat) : t.coreAt n = s.coreAt n := by
  unfold State.coreAt
  rw [h]

/-- Of the partitions only Pp differs, which keeps its record, and of the cores and clusters only its own. -/
structure Local (p : Nat) (s t : State) : Prop where
  cfg : (t.part p).cfg = (s.part p).cfg
  parts : OnePart s t p
  clusters : ∀ c, c ∉ s.partClusters p → t.cluster c = s.cluster c
  cores : ∀ n, n / 272 ∉ s.partClusters p → t.coreAt n = s.coreAt n

namespace Local
variable {p : Nat} {s t u : State}

theorem clusters_eq (h : Local p s t) : t.partClusters p = s.partClusters p := congrArg PartRec.clusters h.cfg

theorem within (h : Local p s t) : Within s t p := ⟨h.clusters, h.cores⟩

theorem refl (p : Nat) (s : State) : Local p s s := ⟨rfl, fun _ _ => rfl, fun _ _ => rfl, fun _ _ => rfl⟩

theorem trans (a : Local p s t) (b : Local p t u) : Local p s u where
  cfg := b.cfg.trans a.cfg
  parts k hk := (b.parts k hk).trans (a.parts k hk)
  clusters c hc := (b.clusters c (a.clusters_eq ▸ hc)).trans (a.clusters c hc)
  cores n hn := (b.cores n (a.clusters_eq ▸ hn)).trans (a.cores n hn)

theorem of_fields (hp : t.parts = s.parts) (hcl : t.clusters = s.clusters) (hc : t.cores = s.cores) : Local p s t where
  cfg := congrArg PartState.cfg (State.part_congr hp p)
  parts k _ := by rw [hp]
  clusters c _ := State.cluster_congr hcl c
  cores n _ := State.coreAt_congr hc n

theorem ite {a b : State} {c : Prop} [Decidable c] (ha : Local p s a) (hb : Local p s b) : Local p s (if c then a else b) := by
  split <;> assumption

theorem each {α : Type} {f : State → α → State} {l : List α} (h : Local p s u)
    (hf : ∀ t, Local p s t → ∀ a ∈ l, Local p t (f t a)) : Local p s (u.each l f) := by
  induction l generalizing u with
  | nil => exact h
  | cons a r ih =>
    exact ih (h.trans (hf u h a List.mem_cons_self)) fun t ht x hx => hf t ht x (List.mem_cons_of_mem _ hx)

theorem modPart (s : State) {f : PartState → PartState} (hf : (f (s.part p)).cfg = (s.part p).cfg) : Local p s (s.modPart p f) where
  cfg := (congrArg PartState.cfg (s.part_modPart p f)).trans hf
  parts := s.modPart_one p f
  clusters _ _ := rfl
  cores _ _ := rfl

theorem modCluster (s : State) {c : Nat} (f : Cluster → Cluster) (hc : c ∈ s.partClusters p) : Local p s (s.modCluster c f) where
  cfg := rfl
  parts _ _ := rfl
  clusters _ hx := s.cluster_modCluster_ne _ _ _ fun e => hx (e ▸ hc)
  cores _ _ := rfl

theorem modCore (s : State) {n : Nat} (f : Core → Core) (hn : n / 272 ∈ s.partClusters p) : Local p s (s.modCore n f) where
  cfg := rfl
  parts _ _ := rfl
  clusters _ _ := rfl
  cores _ hx := s.coreAt_modCore_ne _ _ _ fun e => hx (e ▸ hn)

/-- Clusters of the partition changed one after another. -/
theorem eachCluster (s : State) (g : Nat → Cluster → Cluster) {l : List Nat} (hl : ∀ c ∈ l, c ∈ s.partClusters p) :
    Local p s (s.each l fun t c => t.modCluster c (g c)) :=
  (refl p s).each fun _ ht c hc => modCluster _ _ (ht.clusters_eq ▸ hl c hc)

theorem enterAll (s : State) (aim : CState) : Local p s (s.enterAll (s.part p).cfg.clusters aim) := eachCluster s _ fun _ h => h

theorem wakeAll (s : State) (aim : CState) : Local p s (s.wakeAll (s.part p).cfg.clusters aim) := eachCluster s _ fun _ h => h

theorem place (s : State) : Local p s (s.place p) := by
  unfold State.place
  exact .ite (wakeAll s .c1) (refl p s)

theorem placeResident (s : State) (p' : Nat) {c : Nat} (hc : c ∈ s.partClusters p) : Local p s (s.placeResident p' c) where
  cfg := congrArg PartState.cfg (State.part_congr (State.placeResident_of (fd := .parts) s p' c (by decide)) p)
  parts k _ := by rw [show (s.placeResident p' c).parts = s.parts from State.placeResident_of (fd := .parts) s p' c (by decide)]
  clusters x _ := State.cluster_congr (State.placeResident_of (fd := .clusters) s p' c (by decide)) x
  cores _ hx := State.coreAt_placeResident s p' c fun e => hx (e ▸ hc)

end Local

/-! ## Ends of long commands -/

theorem State.ending_code {s : State} {h f : Nat} {seq : BitVec 16} {code : BitVec 8} {l : LongCmd} (hl : s.long? h f seq = some l)
    (hc : l.code = code) (act : State → LongCmd → State) : s.ending h f seq code act = act s l := by
  rw [State.ending, hl]
  exact if_pos hc

/-- A report that a long command's payload describes at 0x08. -/
theorem Reported.of_report {s u : State} (h : u.hostMem = s.hostMem) (l : LongCmd) (body : Bytes) (lost : Bool) :
    Reported s (u.report l.die.val (slice l.payload 8 16) body lost) l body lost := by
  obtain ⟨hin, hout⟩ := u.report_reads l.die.val (slice l.payload 8 16) body lost
  rw [field_slice _ _ _ _ _ (by decide), field_slice _ _ _ _ _ (by decide)] at hin hout
  rw [h] at hout
  exact ⟨hin, hout⟩

theorem Reported.after {s t u : State} {l : LongCmd} {body : Bytes} {lost : Bool} (h : Reported s t l body lost) (hm : u.hostMem = t.hostMem) :
    Reported s u l body lost := by
  obtain ⟨hin, hout⟩ := h
  unfold Reported
  rw [hm]
  exact ⟨hin, hout⟩

theorem stOk_ne : stOk ≠ stFaulted := by decide
theorem stBadArg_ne : stBadArg ≠ stFaulted := by decide

/-- A completion whose work is its final message alone. -/
theorem State.finish_only (s : State) (l : LongCmd) {st : Nat} (h : st ≠ stFaulted) (b : Bytes) :
    s.finish l st b = { s with windows := (s.finish l st b).windows, longs := (s.finish l st b).longs } ∧ Finished s (s.finish l st b) l st b :=
  ⟨State.eq_patch [.windows, .longs] fun _ hf => State.finish_of_ne h l b hf, State.finish_finished rfl rfl h l b⟩

/-! ## PLAN.LOAD (R174, R177) -/

/-- Images copied into a cluster's store: places of its own, and no other place of another plan's gains an image. -/
theorem Cluster.storeImages_keeps (k : Cluster) (p : Part) (h : Nat) (pl : Plan) (l : List Nat) :
    k.storeImages p h pl l = { k with store := (k.storeImages p h pl l).store, fill := (k.storeImages p h pl l).fill } ∧
      ∀ x ∈ (k.storeImages p h pl l).store, x ∈ k.store ∨ (x.2.part = p ∧ x.2.handle = h) := by
  induction l generalizing k with
  | nil => exact ⟨rfl, fun x hx => .inl hx⟩
  | cons i r ih =>
    unfold Cluster.storeImages
    extract_lets place slot
    obtain ⟨he, hm⟩ := ih { k with
      store := sins place { part := p, handle := h, image := i, slot := slot } k.store
      fill := k.fill.filter fun x => x.1 / 512 != place }
    refine ⟨he.trans rfl, fun x hx => ?_⟩
    rcases hm x hx with hs | hs
    · rcases mem_sins _ _ _ _ hs with rfl | hs
      · exact .inr ⟨rfl, rfl⟩
      · exact .inl hs
    · exact .inr hs

/-- A relation that each change of a cluster keeps holds after a list of changes. -/
theorem State.cluster_eachRel (s : State) {g : Nat → Cluster → Cluster} {R : Cluster → Cluster → Prop} (hr : ∀ k, R k k)
    (ht : ∀ a b c, R a b → R b c → R a c) (hg : ∀ c k, R k (g c k)) (l : List Nat) (c : Nat) :
    R (s.cluster c) ((s.each l fun t c => t.modCluster c (g c)).cluster c) := by
  induction l generalizing s with
  | nil => exact hr _
  | cons a r ih =>
    refine ht _ _ _ ?_ (ih _)
    by_cases ha : c = a
    · rw [ha, State.cluster_modCluster]
      exact hg ..
    · rw [State.cluster_modCluster_ne _ _ _ _ ha]
      exact hr _

/-- Every core of the listed clusters cleared of its slip counters and CO_QMAX, and no other. -/
theorem State.coreAt_eachListed {s : State} {f : Core → Core} (hc : swf {} s.cores = true) (hd : f {} = {}) (hf : ∀ k, f (f k) = f k)
    (l : List Nat) (n : Nat) :
    (s.each l fun t c => t.modListedCores c f).coreAt n = if n / 272 ∈ l then f (s.coreAt n) else s.coreAt n := by
  induction l generalizing s with
  | nil => rfl
  | cons a r ih =>
    have hone : (s.modListedCores a f).coreAt n = if n / 272 = a then f (s.coreAt n) else s.coreAt n := by
      refine (sget_smapAll_swf hc n ?_).trans rfl
      split
      · exact hd
      · rfl
    refine (ih (swf_smapAll _ _ _ hc)).trans ?_
    rw [hone]
    by_cases ha : n / 272 = a
    · rw [if_pos ha, if_pos (List.mem_cons.2 (.inl ha)), hf, ite_self]
    · rw [if_neg ha]
      exact if_congr (by simp [ha]) rfl rfl

theorem State.loadPlan_fst (s : State) (p : Nat) (b : Bytes) (off : Nat) : (s.loadPlan p b off).1 =
  (let h := (s.part p).freeHandle
  let pl := parsePlan b
  let s := s.modPart p fun q => { q with plans := sins h { off := off, len := b.length, plan := pl, image := b } q.plans }
  let s := s.each (s.partClusters p) fun t c => t.modCluster c fun k => k.storeImages (Fin.ofNat 16 p) h pl (pl.storeImages (pl.clusterIndex c))
  s.each (s.partClusters p) fun t c => t.modListedCores c fun k => { k with slipRange := 0, slipQueue := 0, slipHolds := 0, qmax := [] }) := by
  unfold State.loadPlan
  with_reducible rfl

/-- A loaded plan, in the partition, in its clusters' stores and in its cores (R174, R177). -/
theorem State.loadPlan_leaves {s : State} (hc : swf {} s.cores = true) (pt : Part) (b : Bytes) (off : Nat) :
    let p := pt.val
    let t := (s.loadPlan p b off).1
    let h := (s.part p).freeHandle
    (s.loadPlan p b off).2 = h ∧ (∀ fd : Fld, fd ∉ [Fld.parts, .clusters, .cores] → fd.of t = fd.of s) ∧ Local p s t ∧
      t.part p = { s.part p with plans := sins h { off := off, len := b.length, plan := parsePlan b, image := b } (s.part p).plans } ∧
      (∀ c, t.cluster c = { s.cluster c with store := (t.cluster c).store, fill := (t.cluster c).fill } ∧
        ∀ x ∈ (t.cluster c).store, x ∈ (s.cluster c).store ∨ (x.2.part = pt ∧ x.2.handle = h)) ∧
      ∀ n, n / 272 ∈ s.partClusters p → t.coreAt n = { s.coreAt n with slipRange := 0, slipQueue := 0, slipHolds := 0, qmax := [] } := by
  intro p t h
  let g (c : Nat) (k : Cluster) : Cluster := k.storeImages (Fin.ofNat 16 p) h (parsePlan b) ((parsePlan b).storeImages ((parsePlan b).clusterIndex c))
  have ht := s.loadPlan_fst p b off
  extract_lets pl u v at ht
  change t = _ at ht
  have hpt : Fin.ofNat 16 p = pt := Fin.ofNat_val_eq_self pt
  have hu : Local p s u := .modPart s (f := fun q => { q with plans := sins h { off := off, len := b.length, plan := parsePlan b, image := b } q.plans }) rfl
  have huf (fd : Fld) (hf : fd ∉ [Fld.parts]) : fd.of u = fd.of s := State.modPart_of s p _ hf
  have hup : u.part p = _ := s.part_modPart p _
  have hv : Local p u v := .eachCluster u g fun _ h => h
  have hvf (fd : Fld) (hf : fd ∉ [Fld.clusters]) : fd.of v = fd.of u := Fld.of_each _ fun t c => State.modCluster_of t c _ hf
  have hvc (c : Nat) : v.cluster c = { s.cluster c with store := (v.cluster c).store, fill := (v.cluster c).fill } ∧
      ∀ x ∈ (v.cluster c).store, x ∈ (s.cluster c).store ∨ (x.2.part = pt ∧ x.2.handle = h) := u.cluster_eachRel (g := g)
    (R := fun k k' => k' = { k with store := k'.store, fill := k'.fill } ∧ ∀ x ∈ k'.store, x ∈ k.store ∨ (x.2.part = pt ∧ x.2.handle = h))
    (fun k => ⟨rfl, fun x hx => .inl hx⟩) (fun a b c ⟨hab, hxab⟩ ⟨hbc, hxbc⟩ => ⟨by rw [hbc, hab], fun x hx => (hxbc x hx).elim (hxab x) .inr⟩)
    (fun c k => hpt ▸ k.storeImages_keeps (Fin.ofNat 16 p) h pl _) (u.partClusters p) c
  have hvs : v.partClusters p = s.partClusters p := hv.clusters_eq.trans hu.clusters_eq
  have hvcores : v.cores = s.cores := (hvf .cores (by decide)).trans (huf .cores (by decide))
  rw [hvs] at ht
  have htf (fd : Fld) (hf : fd ∉ [Fld.cores]) : fd.of t = fd.of v := by
    rw [ht]
    exact Fld.of_each _ fun t c => State.modListedCores_of t c _ hf
  have hvsw : swf {} v.cores = true := hvcores ▸ hc
  clear_value t v u
  have htn (n : Nat) : t.coreAt n = if n / 272 ∈ s.partClusters p then
      { v.coreAt n with slipRange := 0, slipQueue := 0, slipHolds := 0, qmax := [] } else v.coreAt n := by
    rw [ht]
    exact State.coreAt_eachListed (f := fun k => { k with slipRange := 0, slipQueue := 0, slipHolds := 0, qmax := [] }) hvsw rfl
      (fun _ => rfl) (s.partClusters p) n
  have hvn (n : Nat) : v.coreAt n = s.coreAt n := State.coreAt_congr hvcores n
  have htcl (c : Nat) : t.cluster c = v.cluster c := State.cluster_congr (htf .clusters (by decide)) c
  have htp : t.parts = u.parts := (htf .parts (by decide)).trans (hvf .parts (by decide))
  have htp' : t.part p = u.part p := State.part_congr htp p
  refine ⟨rfl, fun fd hf => (htf fd (Fld.not_mem hf)).trans ((hvf fd (Fld.not_mem hf)).trans (huf fd (Fld.not_mem hf))), ?_,
    ?_, fun c => ?_, fun n hn => ?_⟩
  · refine ⟨?_, fun k hk => ?_, fun c hcl => ?_, fun n hn => ?_⟩
    · rw [State.part_congr htp, hup]
    · rw [htp]
      exact hu.parts k hk
    · rw [htcl]
      exact (hu.trans hv).clusters c hcl
    · rw [htn, if_neg hn, hvn]
  · rw [htp']
    exact hup
  · rw [htcl]
    exact hvc c
  · rw [htn, if_pos hn, hvn]

/-- PLAN.LOAD ends: the plan is loaded, or the first check that fails is told. -/
theorem State.loadDone_ends {s : State} (hc : s.canonical = true) (l : LongCmd) :
    let p := l.part.val
    let q := s.part p
    let off := field l.payload 8 8
    let len := field l.payload 16 4
    let b := if q.cfg.holds off len then s.relRead q.cfg off len else s.relRead q.cfg off 256
    let t := s.loadDone l
    (q.loadFails b off len = none →
      t = { s with windows := t.windows, longs := t.longs, parts := t.parts, clusters := t.clusters, cores := t.cores } ∧
      Finished s t l stOk (toLe 8 q.freeHandle) ∧ OnePart s t p ∧ Within s t p ∧
      t.part p = { q with plans := sins q.freeHandle { off := off, len := b.length, plan := parsePlan b, image := b } q.plans } ∧
      (∀ c ∈ s.partClusters p, t.cluster c = { s.cluster c with store := (t.cluster c).store, fill := (t.cluster c).fill } ∧
        ∀ x ∈ (t.cluster c).store, x ∈ (s.cluster c).store ∨ (x.2.part = l.part ∧ x.2.handle = q.freeHandle)) ∧
      ∀ n, n / 272 ∈ s.partClusters p → t.coreAt n = { s.coreAt n with slipRange := 0, slipQueue := 0, slipHolds := 0, qmax := [] }) ∧
    (∀ n o, q.loadFails b off len = some (n, o) → t = { s with windows := t.windows, longs := t.longs } ∧
      Finished s t l (if n ≤ 7 then stBadArg else stNoResource) (toLe 4 n ++ toLe 4 o)) := by
  intro p q off len b t
  have ht0 (h : q.loadFails b off len = none) : t = (s.loadPlan p b off).1.finish l stOk (toLe 8 (s.loadPlan p b off).2) := by
    show s.loadDone l = _
    unfold State.loadDone
    extract_lets
    rw [h]
  have ht1 (n o : Nat) (h : q.loadFails b off len = some (n, o)) :
      t = s.finish l (if n ≤ 7 then stBadArg else stNoResource) (toLe 4 n ++ toLe 4 o) := by
    show s.loadDone l = _
    unfold State.loadDone
    extract_lets
    rw [h]
  clear_value t b
  refine ⟨fun h => ?_, fun n o h => ?_⟩
  · have ht := ht0 h
    obtain ⟨hh, hf, hl, hp, hcl, hco⟩ := State.loadPlan_leaves ((canonical_iff s).1 hc).2.2.2.1 l.part b off
    rw [hh] at ht
    generalize (s.loadPlan l.part.val b off).1 = u at ht hf hl hp hcl hco
    have htf (fd : Fld) (hf : fd ∉ [Fld.windows, .longs]) : fd.of t = fd.of u := by
      rw [ht]
      exact State.finish_of_ne stOk_ne l _ hf
    have hfin : Finished s t l stOk (toLe 8 q.freeHandle) := by
      rw [ht]
      exact State.finish_finished (hf .windows (by decide)) (hf .longs (by decide)) stOk_ne l _
    have hlt : Local p s t := hl.trans (.of_fields (htf .parts (by decide)) (htf .clusters (by decide)) (htf .cores (by decide)))
    have htc (c : Nat) : t.cluster c = u.cluster c := State.cluster_congr (htf .clusters (by decide)) c
    have htp : t.part p = u.part p := State.part_congr (htf .parts (by decide)) p
    have hframe := State.eq_patch [.windows, .longs, .parts, .clusters, .cores] fun fd h => (htf fd (Fld.not_mem h)).trans (hf fd (Fld.not_mem h))
    refine ⟨hframe, hfin, hlt.parts, hlt.within, ?_, fun c _ => ?_, fun n hn => ?_⟩
    · rw [htp]
      exact hp
    · rw [htc]
      exact hcl c
    · rw [State.coreAt_congr (htf .cores (by decide))]
      exact hco n hn
  · have hne : (if n ≤ 7 then stBadArg else stNoResource) ≠ stFaulted := by split <;> decide
    rw [ht1 n o h]
    exact s.finish_only l hne _

/-! ## PLAN.BIND (R181) -/

/-- A bound plan: its partition serves it, its resident loads stand in the clusters that keep state, the others come up. -/
theorem State.bindPlan_leaves (s : State) (p h : Nat) (x : Loaded) :
    let t := s.bindPlan p h x
    (∀ fd : Fld, fd ∉ [Fld.parts, .clusters, .cores] → fd.of t = fd.of s) ∧ Local p s t ∧
      t.part p = { s.part p with bound := some h, plans := sins h { x with bounds := x.plan.bounds (s.part p).cfg.q } (s.part p).plans } ∧
      (((s.part p).park = .serving ∨ (s.part p).park = .unparking) →
        ∀ c ∈ s.partClusters p, (s.cluster c).mayWake = true → (t.cluster c).comesUp) := by
  intro t
  have ht : t = s.bindPlan p h x := rfl
  clear_value t
  unfold State.bindPlan at ht
  extract_lets bounds u up at ht
  have hu : Local p s u := .modPart s (f := fun q => { q with bound := some h, plans := sins h { x with bounds := bounds } q.plans }) rfl
  have huf (fd : Fld) (hf : fd ∉ [Fld.parts]) : fd.of u = fd.of s := State.modPart_of s p _ hf
  have hup : u.part p = { s.part p with bound := some h, plans := sins h { x with bounds := bounds } (s.part p).plans } := s.part_modPart p _
  have huu : ∀ c ∈ up, c ∈ u.partClusters p := fun c hc => List.mem_of_mem_filter hc
  clear_value u up
  have hv : Local p u (u.each up fun t c => t.placeResident p c) :=
    (Local.refl p u).each fun t ht c hc => .placeResident t p (ht.clusters_eq ▸ huu c hc)
  have hvf (fd : Fld) (hf : fd ∉ [Fld.cores]) : fd.of (u.each up fun t c => t.placeResident p c) = fd.of u :=
    Fld.of_each _ fun t c => State.placeResident_of t p c hf
  generalize u.each up (fun t c => t.placeResident p c) = v at ht hv hvf
  have hvp : v.part p = u.part p := State.part_congr (hvf .parts (by decide)) p
  have htf (fd : Fld) (hf : fd ∉ [Fld.clusters]) : fd.of t = fd.of v := by
    rw [ht]
    exact State.place_of v p hf
  have htl : Local p v t := by
    rw [ht]
    exact .place v
  refine ⟨fun fd hf => (htf fd (Fld.not_mem hf)).trans ((hvf fd (Fld.not_mem hf)).trans (huf fd (Fld.not_mem hf))), (hu.trans hv).trans htl, ?_,
    fun hpark c hc hm => ?_⟩
  · rw [State.part_congr (htf .parts (by decide)), hvp]
    exact hup
  · have hcl : v.cluster c = s.cluster c :=
      State.cluster_congr ((hvf .clusters (by decide)).trans (huf .clusters (by decide))) c
    have hq : (v.part p).bound.isSome = true ∧ (v.part p).park = (s.part p).park ∧ (v.part p).cfg.clusters = (s.part p).cfg.clusters := by
      rw [hvp, hup]
      exact ⟨rfl, rfl, rfl⟩
    obtain ⟨hb, hpk, hcfg⟩ := hq
    rw [ht, State.place, hb, hpk]
    have hon : (true && ((s.part p).park == .serving || (s.part p).park == .unparking)) = true := by
      rcases hpark with h | h <;> rw [h] <;> rfl
    refine Eq.subst (motive := fun z : State => (z.cluster c).comesUp) (if_pos hon).symm ?_
    refine (v.wakeAll_leaves _).2 c ?_ (by rwa [hcl])
    rw [State.partClusters, hcfg]
    exact hc

theorem State.bindDone_binds {s : State} {l : LongCmd} {x : Loaded} (lost : Bool)
    (hx : sfind? (s.part l.part.val).plans (field l.payload 1 1) = some x) (hv : x.verified = true)
    (hw : s.powerFits l.part.val x.plan = true) (hq : (s.part l.part.val).queue = []) (hr : (s.part l.part.val).run = none) :
    let body := bindReport (x.plan.bounds (s.part l.part.val).cfg.q)
    s.bindDone l lost = ((s.bindPlan l.part.val (field l.payload 1 1) x).report l.die.val (slice l.payload 8 16) body lost).finish l stOk
      (toLe 4 body.length) := by
  unfold State.bindDone
  extract_lets body p q h
  rw [show sfind? q.plans h = some x from hx]
  refine (if_neg ?_).trans (if_neg ?_)
  · rw [hv, hw]
    decide
  · rw [show q.queue = [] from hq, show q.run = none from hr]
    decide

/-- PLAN.BIND ends: the plan is bound and its report written. -/
theorem State.bindDone_ends {s : State} {l : LongCmd} {x : Loaded} (lost : Bool)
    (hx : sfind? (s.part l.part.val).plans (field l.payload 1 1) = some x) (hv : x.verified = true)
    (hw : s.powerFits l.part.val x.plan = true) (hq : (s.part l.part.val).queue = []) (hr : (s.part l.part.val).run = none) :
    let p := l.part.val
    let q := s.part p
    let h := field l.payload 1 1
    let body := bindReport (x.plan.bounds q.cfg.q)
    let t := s.bindDone l lost
    t = { s with windows := t.windows, longs := t.longs, parts := t.parts, clusters := t.clusters, cores := t.cores, hostMem := t.hostMem } ∧
      Finished s t l stOk (toLe 4 body.length) ∧ Reported s t l body lost ∧ OnePart s t p ∧ Within s t p ∧
      t.part p = { q with bound := some h, plans := sins h { x with bounds := x.plan.bounds q.cfg.q } q.plans } ∧
      ((q.park = .serving ∨ q.park = .unparking) → ∀ c ∈ s.partClusters p, (s.cluster c).mayWake = true → (t.cluster c).comesUp) := by
  intro p q h body t
  have ht : t = ((s.bindPlan p h x).report l.die.val (slice l.payload 8 16) body lost).finish l stOk (toLe 4 body.length) :=
    State.bindDone_binds lost hx hv hw hq hr
  clear_value t body
  obtain ⟨huf, hl, hup, huw⟩ := s.bindPlan_leaves p h x
  generalize s.bindPlan p h x = u at ht huf hl hup huw
  have hrep : Reported s (u.report l.die.val (slice l.payload 8 16) body lost) l body lost := .of_report (huf .hostMem (by decide)) l body lost
  have hvf (fd : Fld) (hf : fd ∉ [Fld.hostMem]) : fd.of (u.report l.die.val (slice l.payload 8 16) body lost) = fd.of u := State.report_of u _ _ _ _ hf
  generalize u.report l.die.val (slice l.payload 8 16) body lost = v at ht hrep hvf
  have htf (fd : Fld) (hf : fd ∉ [Fld.windows, .longs]) : fd.of t = fd.of v := by
    rw [ht]
    exact State.finish_of_ne stOk_ne l _ hf
  have htu (fd : Fld) (hf : fd ∉ [Fld.windows, .longs, .hostMem]) : fd.of t = fd.of u := (htf fd (Fld.not_mem hf)).trans (hvf fd (Fld.not_mem hf))
  have hfin : Finished s t l stOk (toLe 4 body.length) := by
    rw [ht]
    exact State.finish_finished ((hvf .windows (by decide)).trans (huf .windows (by decide)))
      ((hvf .longs (by decide)).trans (huf .longs (by decide))) stOk_ne l _
  have hlt : Local p s t := hl.trans (.of_fields (htu .parts (by decide)) (htu .clusters (by decide)) (htu .cores (by decide)))
  have hframe := State.eq_patch [.windows, .longs, .parts, .clusters, .cores, .hostMem] fun fd h =>
    (htu fd (Fld.not_mem h)).trans (huf fd (Fld.not_mem h))
  have htp : t.part p = u.part p := State.part_congr (htu .parts (by decide)) p
  refine ⟨hframe, hfin, hrep.after (htf .hostMem (by decide)), hlt.parts, hlt.within, htp.trans hup, fun hpark c hc hm => ?_⟩
  rw [State.cluster_congr (htu .clusters (by decide))]
  exact huw hpark c hc hm

/-! ## PLAN.VERIFY (R179, R180) -/

theorem State.verifyDone_verified {s : State} {l : LongCmd} {x : Loaded} {m : List (Nat × Nat)} (lost : Bool)
    (hx : sfind? (s.part l.part.val).plans (field l.payload 1 1) = some x) (hs : l.stale = false) (hm : s.verify l.part.val x = .ok m) :
    s.verifyDone l lost = ((s.modPart l.part.val fun q => { q with plans := sins (field l.payload 1 1) { x with verified := true } q.plans }).report
      l.die.val (slice l.payload 8 16) (x.plan.verifyReport m) lost).finish l stOk (toLe 4 (x.plan.verifyReport m).length) := by
  unfold State.verifyDone
  extract_lets p h
  rw [show sfind? (s.part p).plans h = some x from hx]
  dsimp only
  rw [hs, if_neg (by decide), show s.verify p x = .ok m from hm]

theorem State.verifyDone_failed {s : State} {l : LongCmd} {x : Loaded} {f : VFail} (lost : Bool)
    (hx : sfind? (s.part l.part.val).plans (field l.payload 1 1) = some x) (hs : l.stale = false) (hm : s.verify l.part.val x = .error f) :
    s.verifyDone l lost = s.finish l stBadArg f.bytes := by
  unfold State.verifyDone
  extract_lets p h
  rw [show sfind? (s.part p).plans h = some x from hx]
  dsimp only
  rw [hs, if_neg (by decide), show s.verify p x = .error f from hm]

theorem State.verifyDone_stale {s : State} {l : LongCmd} (lost : Bool)
    (hx : (sfind? (s.part l.part.val).plans (field l.payload 1 1)).isSome = true) (hs : l.stale = true) :
    s.verifyDone l lost = s.finish l stBusy := by
  obtain ⟨x, hx⟩ := Option.isSome_iff_exists.1 hx
  unfold State.verifyDone
  extract_lets p h
  rw [show sfind? (s.part p).plans h = some x from hx]
  exact if_pos hs

/-- PLAN.VERIFY ends with the plan verified and its report written. -/
theorem State.verifyDone_ends {s : State} {l : LongCmd} {x : Loaded} {m : List (Nat × Nat)} (lost : Bool)
    (hx : sfind? (s.part l.part.val).plans (field l.payload 1 1) = some x) (hs : l.stale = false) (hm : s.verify l.part.val x = .ok m) :
    let p := l.part.val
    let t := s.verifyDone l lost
    t = { s with windows := t.windows, longs := t.longs, parts := t.parts, hostMem := t.hostMem } ∧
      Finished s t l stOk (toLe 4 (x.plan.verifyReport m).length) ∧ Reported s t l (x.plan.verifyReport m) lost ∧ OnePart s t p ∧
      t.part p = { s.part p with plans := sins (field l.payload 1 1) { x with verified := true } (s.part p).plans } := by
  intro p t
  have ht : t = _ := State.verifyDone_verified lost hx hs hm
  clear_value t
  generalize x.plan.verifyReport m = body at ht ⊢
  have huf (fd : Fld) (hf : fd ∉ [Fld.parts]) : fd.of (s.modPart p fun q => { q with plans := sins (field l.payload 1 1) { x with verified := true } q.plans }) = fd.of s :=
    State.modPart_of s p _ hf
  have hu1 : OnePart s (s.modPart p fun q => { q with plans := sins (field l.payload 1 1) { x with verified := true } q.plans }) p := s.modPart_one p _
  have hup := s.part_modPart p fun q => { q with plans := sins (field l.payload 1 1) { x with verified := true } q.plans }
  generalize s.modPart p (fun q => { q with plans := sins (field l.payload 1 1) { x with verified := true } q.plans }) = u at ht huf hu1 hup
  have hrep : Reported s (u.report l.die.val (slice l.payload 8 16) body lost) l body lost := .of_report (huf .hostMem (by decide)) l body lost
  have hvf (fd : Fld) (hf : fd ∉ [Fld.hostMem]) : fd.of (u.report l.die.val (slice l.payload 8 16) body lost) = fd.of u := State.report_of u _ _ _ _ hf
  generalize u.report l.die.val (slice l.payload 8 16) body lost = v at ht hrep hvf
  have htf (fd : Fld) (hf : fd ∉ [Fld.windows, .longs]) : fd.of t = fd.of v := by
    rw [ht]
    exact State.finish_of_ne stOk_ne l _ hf
  have hfin : Finished s t l stOk (toLe 4 body.length) := by
    rw [ht]
    exact State.finish_finished ((hvf .windows (by decide)).trans (huf .windows (by decide)))
      ((hvf .longs (by decide)).trans (huf .longs (by decide))) stOk_ne l _
  have htp : t.parts = u.parts := (htf .parts (by decide)).trans (hvf .parts (by decide))
  refine ⟨State.eq_patch [.windows, .longs, .parts, .hostMem] fun fd h => (htf fd (Fld.not_mem h)).trans ((hvf fd (Fld.not_mem h)).trans
    (huf fd (Fld.not_mem h))), hfin, hrep.after (htf .hostMem (by decide)), fun k hk => ?_, ?_⟩
  · rw [htp]
    exact hu1 k hk
  · rw [State.part_congr htp]
    exact hup

end Sys2Proof.Machine
end

section
/-!
What the end of a run and of requests leaves (R26, R178); PLAN.UNLOAD.
-/

namespace Sys2Proof.Machine

open Sys2Proof

/-! ## Long commands that end together -/

theorem LongCmd.same_self (l : LongCmd) : l.same l = true := by
  simp [LongCmd.same]

/-- The long commands that are left when some end with a status of no fault. -/
theorem State.finishEach_longs (s : State) (st : Nat) (cs : List LongCmd) {l : LongCmd} :
    l ∈ (s.each cs fun t c => t.finish c st).longs ↔ l ∈ s.longs ∧ ∀ c ∈ cs, l.same c = false := by
  induction cs generalizing s with
  | nil => exact ⟨fun h => ⟨h, fun c hc => absurd hc List.not_mem_nil⟩, fun h => h.1⟩
  | cons c r ih =>
    refine (ih (s.finish c st)).trans ?_
    rw [State.finish_longs, List.mem_filter]
    simp only [Bool.not_eq_true', List.forall_mem_cons]
    exact ⟨fun ⟨⟨hl, hc⟩, hr⟩ => ⟨hl, hc, hr⟩, fun ⟨hl, hc, hr⟩ => ⟨⟨hl, hc⟩, hr⟩⟩

theorem State.finishAll_longs {s : State} {p : LongCmd → Bool} {st : Nat} {l : LongCmd} (h : l ∈ (s.finishAll p st).longs) :
    l ∈ s.longs ∧ p l = false := by
  obtain ⟨hl, hs⟩ := (s.finishEach_longs st _).1 h
  refine ⟨hl, Bool.not_eq_true _ ▸ fun hp => ?_⟩
  exact absurd (hs l (List.mem_filter.2 ⟨hl, hp⟩)) (by rw [l.same_self]; decide)

theorem State.finishAll_of_none {s : State} {p : LongCmd → Bool} (st : Nat) (h : ∀ l ∈ s.longs, p l = false) : s.finishAll p st = s := by
  have hnone : s.longs.filter p = [] := List.filter_eq_nil_iff.2 fun l hl => by rw [h l hl]; decide
  rw [State.finishAll, hnone]
  rfl

/-- Long commands that end with no fault touch the windows and the list of long commands alone. -/
theorem State.finishAll_of_ne {fd : Fld} {st : Nat} (h : st ≠ stFaulted) (s : State) (p : LongCmd → Bool) (hf : fd ∉ [Fld.windows, .longs]) :
    fd.of (s.finishAll p st) = fd.of s := Fld.of_each _ fun _ c => State.finish_of_ne h c [] hf

/-! ## The end of a run stays with its partition -/

theorem State.partCores_div {s : State} {p n : Nat} (h : n ∈ s.partCores p) : n / 272 ∈ s.partClusters p := by
  obtain ⟨c, hc, hn⟩ := List.mem_flatMap.1 h
  obtain ⟨lc, hlc, rfl⟩ := List.mem_map.1 hn
  rwa [s.lcore_div c (List.mem_range.1 hlc)]

namespace Local
variable {p : Nat} {s : State}

theorem of_of (t : State) (hp : Fld.of .parts t = Fld.of .parts s) (hcl : Fld.of .clusters t = Fld.of .clusters s)
    (hc : Fld.of .cores t = Fld.of .cores s) : Local p s t := of_fields hp hcl hc

theorem mixWrite (n a : Nat) (bs : Bytes) : Local p s (s.mixWrite n a bs) :=
  of_of _ (State.mixWrite_of _ _ _ _ (by decide)) (State.mixWrite_of _ _ _ _ (by decide)) (State.mixWrite_of _ _ _ _ (by decide))

theorem haltCore {n : Nat} (hn : n / 272 ∈ s.partClusters p) : Local p s (s.haltCore n) := by
  unfold State.haltCore
  extract_lets c t u
  have ht : Local p s t := (refl p s).each fun t _ x _ => by
    split
    · exact mixWrite ..
    · exact refl p t
  have hu : Local p s u := ht.each fun t _ x _ => mixWrite ..
  exact hu.trans (modCore u _ (hu.clusters_eq ▸ hn))

theorem mixSlot {n : Nat} (slot : Nat) (new : Slot) (w : Nat) (hn : n / 272 ∈ s.partClusters p) : Local p s (s.mixSlot n slot new w) := by
  induction w generalizing s with
  | zero => exact refl p s
  | succ k ih =>
    unfold State.mixSlot
    extract_lets v t
    have ht : Local p s t := .ite (modCore s _ hn) (refl p s)
    have hd : Local p t t.drew := of_of _ rfl rfl rfl
    exact (ht.trans hd).trans (ih ((ht.trans hd).clusters_eq ▸ hn))

theorem abandonLoads (run : Run) : Local p s (s.abandonLoads p run) := by
  unfold State.abandonLoads
  split
  · exact refl p s
  · refine (refl p s).each fun t ht x _ => ?_
    split
    · exact refl p t
    · refine (refl p t).each fun u hu c hc => (refl p u).each fun v hv lc hlc => mixSlot _ _ _ ?_
      rw [State.lcore_div _ _ (List.mem_range.1 hlc), hv.clusters_eq, hu.clusters_eq, ht.clusters_eq]
      exact hc

theorem markDelay (late : Bool) (flags : Flags) : Local p s (s.markDelay p late flags) := modPart s rfl

theorem rest : Local p s (s.rest p) := by
  unfold State.rest
  exact .ite (refl p s) (enterAll s .c1)

theorem afterRun : Local p s (s.afterRun p) := by
  unfold State.afterRun
  extract_lets q committed
  exact .ite (enterAll s _) rest

theorem parkDone : Local p s (s.parkDone p) := by
  unfold State.parkDone
  exact .ite (modPart s rfl) (refl p s)

theorem emptied : Local p s (s.emptied p) := by
  unfold State.emptied
  extract_lets q t
  have ht : Local p s t := .ite (refl p s) (modPart s rfl)
  refine .ite (.ite (ht.trans (Local.trans ?_ parkDone)) ht) (refl p s)
  have hq : (t.part p).cfg.clusters = q.cfg.clusters := congrArg PartRec.clusters ht.cfg
  exact hq ▸ enterAll t q.parkTo

theorem dequeue (id : Nat) : Local p s (s.dequeue p id) := ((modPart s rfl).trans rest).trans emptied

theorem discarded {c : Compl} (hc : c.part.val = p) : Local p s (s.discarded c) := by
  subst hc
  unfold State.discarded
  extract_lets p t
  have ht : Local p s t := .ite (modPart s rfl) (refl p s)
  split
  · exact ht.trans (dequeue _)
  · exact ht.trans emptied

theorem modReq (id : Nat) (f : Request → Request) : Local p s (s.modReq p id f) := modPart s rfl

theorem close {p : Fin 16} (r : Request) (st reason : Nat) (flags : Flags) : Local p.val s (s.close p r st reason flags) := by
  unfold State.close
  extract_lets c
  exact .ite (discarded (congrArg Fin.val (Fin.ofNat_val_eq_self p))) ((modReq r.id _).trans (of_of _ rfl rfl rfl))

theorem stopRun : Local p s (s.stopRun p) := by
  unfold State.stopRun
  split
  · exact refl p s
  next run _ =>
    extract_lets cls a b c d e f g
    have ha : Local p s a := (refl p s).each fun t ht n hn => haltCore (ht.clusters_eq ▸ State.partCores_div hn)
    have hb : Local p s b := ha.trans (abandonLoads run)
    have hc : Local p s c := hb.trans (eachCluster b (fun _ k => { k with ganged := false, gang := [], haltSeen := [] }) fun x hx => hb.clusters_eq.symm ▸ hx)
    have hd : Local p c d := of_of _ rfl rfl rfl
    have he : Local p d e := of_of _ rfl rfl rfl
    have hf : Local p s f := (hc.trans (hd.trans he)).trans (modPart e rfl)
    have hg : Local p s g := by
      dsimp only [g]
      split
      · exact hf.trans (markDelay _ _)
      · exact hf
    exact hg.trans afterRun

theorem endReq {p : Fin 16} (r : Request) (st reason : Nat) (clear : Bool) : Local p.val s (s.endReq p r st reason clear) := by
  unfold State.endReq
  extract_lets flags t
  have ht : Local p.val s t := .ite stopRun (refl _ s)
  exact .ite ht (ht.trans (close r _ _ _))

theorem endReqs {p : Fin 16} (test : Request → Bool) (st reason : Nat) (clear : Bool) : Local p.val s (s.endReqs p test st reason clear) :=
  (refl _ s).each fun _ _ r _ => endReq r st reason clear

end Local

/-! ## Requests that end are closing, or gone -/

/-- A partition whose run may have ended and whose requests may have ended, but nothing else it keeps differs. -/
def PartState.Closes (q r : PartState) : Prop :=
  r = { q with queue := r.queue, run := r.run, stats := r.stats, changeover := r.changeover, park := r.park } ∧ (r.run = q.run ∨ r.run = none) ∧
    ∀ x ∈ r.queue, ∃ y ∈ q.queue, y.id = x.id ∧ (x.stage = y.stage ∨ x.stage = .closing)

theorem PartState.Closes.refl (q : PartState) : q.Closes q := ⟨rfl, .inl rfl, fun x hx => ⟨x, hx, rfl, .inl rfl⟩⟩

theorem PartState.Closes.trans {q r u : PartState} (a : q.Closes r) (b : r.Closes u) : q.Closes u := by
  obtain ⟨ha, har, haq⟩ := a
  obtain ⟨hb, hbr, hbq⟩ := b
  refine ⟨by rw [hb, ha], ?_, fun x hx => ?_⟩
  · rcases hbr with h | h
    · exact h ▸ har
    · exact .inr h
  · obtain ⟨y, hy, hyx, hst⟩ := hbq x hx
    obtain ⟨z, hz, hzy, hsz⟩ := haq y hy
    refine ⟨z, hz, hzy.trans hyx, ?_⟩
    rcases hst with h | h
    · exact h ▸ hsz
    · exact .inr h

theorem PartState.Closes.run_none {q r : PartState} (h : q.Closes r) (hq : q.run = none) : r.run = none := by
  obtain ⟨-, hr, -⟩ := h
  rcases hr with h | h
  · exact h.trans hq
  · exact h

/-- Every request of a number is closing. -/
def PartState.Closed (q : PartState) (id : Nat) : Prop := ∀ x ∈ q.queue, x.id = id → x.stage = .closing

theorem PartState.Closes.closed {q r : PartState} (h : q.Closes r) {id : Nat} (hq : q.Closed id) : r.Closed id := fun x hx e => by
  obtain ⟨y, hy, hyx, hs⟩ := h.2.2 x hx
  exact hs.elim (fun hs => hs.trans (hq y hy (hyx.trans e))) fun hs => hs

/-- What the changes of a partition that end requests and its run do. -/
def Closes (p : Nat) (s t : State) : Prop := (s.part p).Closes (t.part p)

namespace Closes
variable {p : Nat} {s t u : State}

theorem refl (p : Nat) (s : State) : Closes p s s := PartState.Closes.refl _

theorem trans (a : Closes p s t) (b : Closes p t u) : Closes p s u := PartState.Closes.trans a b

theorem of_parts (h : Fld.of .parts t = Fld.of .parts s) : Closes p s t := by
  unfold Closes
  rw [State.part_congr (s := s) (t := t) h]
  exact .refl _

theorem ite {a b : State} {c : Prop} [Decidable c] (ha : Closes p s a) (hb : Closes p s b) : Closes p s (if c then a else b) := by
  split <;> assumption

theorem modPart {f : PartState → PartState} (h : (s.part p).Closes (f (s.part p))) : Closes p s (s.modPart p f) := by
  unfold Closes
  rw [State.part_modPart]
  exact h

/-- A change of the partition's queue that keeps numbers, and closes what it does not keep at its stage. -/
theorem mapQueue {f : PartState → PartState} {g : Request → Request} (hg : ∀ r, (g r).id = r.id ∧ ((g r).stage = r.stage ∨ (g r).stage = .closing))
    (hf : ∀ q, f q = { q with queue := q.queue.map g }) : Closes p s (s.modPart p f) := by
  refine modPart ?_
  rw [hf]
  refine ⟨rfl, .inl rfl, fun x hx => ?_⟩
  obtain ⟨y, hy, rfl⟩ := List.mem_map.1 hx
  exact ⟨y, hy, (hg y).1.symm, (hg y).2⟩

theorem markDelay (late : Bool) (flags : Flags) : Closes p s (s.markDelay p late flags) := by
  refine mapQueue (g := fun r => if r.waits then { r with delay := if late then some (s.tick, flags) else none } else r) (fun r => ?_) fun _ => rfl
  split
  · exact ⟨rfl, .inl rfl⟩
  · exact ⟨rfl, .inl rfl⟩

theorem rest : Closes p s (s.rest p) := of_parts (State.rest_of s p (by decide))

theorem parkDone : Closes p s (s.parkDone p) := by
  unfold State.parkDone
  exact .ite (modPart ⟨rfl, .inl rfl, fun x hx => ⟨x, hx, rfl, .inl rfl⟩⟩) (refl p s)

theorem emptied : Closes p s (s.emptied p) := by
  unfold State.emptied
  extract_lets q t
  have ht : Closes p s t := .ite (refl p s) (modPart ⟨rfl, .inl rfl, fun x hx => ⟨x, hx, rfl, .inl rfl⟩⟩)
  exact .ite (.ite (ht.trans ((of_parts (State.enterAll_of _ _ _ (by decide))).trans parkDone)) ht) (refl p s)

theorem dequeue (id : Nat) : Closes p s (s.dequeue p id) :=
  ((modPart ⟨rfl, .inl rfl, fun x hx => ⟨x, List.mem_of_mem_filter hx, rfl, .inl rfl⟩⟩).trans rest).trans emptied

theorem discarded {c : Compl} (hc : c.part.val = p) : Closes p s (s.discarded c) := by
  subst hc
  unfold State.discarded
  extract_lets p t
  have ht : Closes p s t := .ite (modPart ⟨rfl, .inl rfl, fun x hx => ⟨x, hx, rfl, .inl rfl⟩⟩) (refl p s)
  split
  · exact ht.trans (dequeue _)
  · exact ht.trans emptied

/-- A request whose records are discarded leaves the queue. -/
theorem dequeue_closed (id : Nat) : ((s.dequeue p id).part p).Closed id := by
  have h : ((s.modPart p fun q => { q with queue := q.queue.filter fun r => r.id != id }).part p).Closed id := by
    rw [State.part_modPart]
    intro x hx e
    have := (List.mem_filter.1 hx).2
    simp [e] at this
  exact (rest.trans emptied : Closes p _ _).closed h

theorem discarded_closed {c : Compl} (hc : c.part.val = p) {id : Nat} (hid : c.req = some id) : ((s.discarded c).part p).Closed id := by
  subst hc
  unfold State.discarded
  rw [hid]
  exact dequeue_closed id

theorem modReq_closing (id : Nat) : Closes p s (s.modReq p id fun x => { x with stage := .closing }) := by
  refine mapQueue (g := fun r => if r.id = id then { r with stage := .closing } else r) (fun r => ?_) fun _ => rfl
  split
  · exact ⟨rfl, .inr rfl⟩
  · exact ⟨rfl, .inl rfl⟩

theorem close {p : Fin 16} (r : Request) (st reason : Nat) (flags : Flags) :
    Closes p.val s (s.close p r st reason flags) ∧ ((s.close p r st reason flags).part p).Closed r.id := by
  have hp : Fin.ofNat 16 p.val = p := Fin.ofNat_val_eq_self p
  unfold State.close
  extract_lets c
  by_cases hd : r.discard = true
  · rw [if_pos hd]
    exact ⟨discarded (congrArg Fin.val hp), discarded_closed (congrArg Fin.val hp) rfl⟩
  · rw [if_neg hd]
    refine ⟨(modReq_closing r.id).trans (of_parts rfl), ?_⟩
    have h : ((s.modReq p r.id fun x => { x with stage := .closing }).part p).Closed r.id := by
      rw [State.modReq, State.part_modPart]
      intro x hx e
      obtain ⟨y, -, rfl⟩ := List.mem_map.1 hx
      by_cases hy : y.id = r.id
      · rw [if_pos hy]
      · rw [if_neg hy] at e
        exact absurd e hy
    exact h

theorem stopRun : Closes p s (s.stopRun p) ∧ ((s.stopRun p).part p).run = none := by
  unfold State.stopRun
  split
  next h => exact ⟨refl p s, h⟩
  next run _ =>
    extract_lets cls a b c d e f g
    have he : Closes p s e := of_parts (by
      have h1 : Fld.of .parts a = Fld.of .parts s := Fld.of_each _ fun t n => State.haltCore_of t n (by decide)
      have h2 : Fld.of .parts b = Fld.of .parts a := State.abandonLoads_of _ _ _ (by decide)
      have h3 : Fld.of .parts c = Fld.of .parts b := Fld.of_each _ fun t x => State.modCluster_of t x _ (by decide)
      exact h3.trans (h2.trans h1))
    have hf : Closes p e f := modPart ⟨rfl, .inr rfl, fun x hx => ⟨x, hx, rfl, .inl rfl⟩⟩
    have hfr : (f.part p).run = none := by rw [State.part_modPart]
    have hg : Closes p f g := by
      dsimp only [g]
      split
      · exact markDelay _ _
      · exact refl p f
    have ha : Closes p g (g.afterRun p) := of_parts (State.afterRun_of _ _ (by decide))
    exact ⟨((he.trans hf).trans hg).trans ha, ha.run_none (hg.run_none hfr)⟩

theorem endReq {p : Fin 16} (r : Request) (st reason : Nat) (clear : Bool) (h : r.stage ≠ .closing) :
    Closes p.val s (s.endReq p r st reason clear) ∧ ((s.endReq p r st reason clear).part p).Closed r.id := by
  unfold State.endReq
  extract_lets flags t
  have ht : Closes p.val s t := .ite stopRun.1 (refl _ s)
  rw [if_neg (by simpa using h)]
  exact ⟨ht.trans (close r _ _ _).1, (close r _ _ _).2⟩

/-- Requests that end one after another. -/
theorem endEach {p : Fin 16} (st reason : Nat) (clear : Bool) {l : List Request} (h : ∀ r ∈ l, r.stage ≠ .closing) :
    Closes p.val s (s.each l fun t r => t.endReq p r st reason clear) ∧
      ∀ r ∈ l, ((s.each l fun t r => t.endReq p r st reason clear).part p).Closed r.id := by
  induction l generalizing s with
  | nil => exact ⟨refl _ s, fun r hr => absurd hr List.not_mem_nil⟩
  | cons a l ih =>
    obtain ⟨h1, hc1⟩ := endReq (s := s) (p := p) a st reason clear (h a List.mem_cons_self)
    obtain ⟨h2, hc2⟩ := ih (s := s.endReq p a st reason clear) fun r hr => h r (List.mem_cons_of_mem _ hr)
    refine ⟨h1.trans h2, fun r hr => ?_⟩
    rcases List.mem_cons.1 hr with rfl | hr
    · exact h2.closed hc1
    · exact hc2 r hr

/-- When every request of a partition ends, those that are left are closing. -/
theorem endReqs_all {p : Fin 16} (st reason : Nat) (clear : Bool) :
    Closes p.val s (s.endReqs p (fun _ => true) st reason clear) ∧
      ∀ x ∈ ((s.endReqs p (fun _ => true) st reason clear).part p).queue, x.stage = .closing := by
  obtain ⟨h, hc⟩ := endEach (s := s) (p := p) st reason clear (l := (s.part p).queue.filter fun r => true && r.stage != .closing)
    fun r hr => by simpa using (List.mem_filter.1 hr).2
  refine ⟨h, fun x hx => ?_⟩
  obtain ⟨y, hy, hyx, hs⟩ := h.2.2 x hx
  by_cases hst : y.stage = .closing
  · rcases hs with hs | hs
    · exact hs.trans hst
    · exact hs
  · exact hc y (List.mem_filter.2 ⟨hy, by simpa using hst⟩) x hx hyx.symm

end Closes

/-! ## PLAN.UNLOAD (R178) -/

/-- A change that is the same the second time, made of every listed cluster. -/
theorem State.cluster_eachOnce (s : State) {g : Cluster → Cluster} (hg : ∀ k, g (g k) = g k) (l : List Nat) (c : Nat) :
    (s.each l fun t c => t.modCluster c g).cluster c = if c ∈ l then g (s.cluster c) else s.cluster c := by
  induction l generalizing s with
  | nil => rfl
  | cons a r ih =>
    refine (ih _).trans ?_
    by_cases ha : c = a
    · rw [ha, State.cluster_modCluster, hg, ite_self, if_pos List.mem_cons_self]
    · rw [State.cluster_modCluster_ne _ _ _ _ ha]
      exact if_congr (by simp [ha]) rfl rfl

/-- The images of an unloaded plan leave a cluster's store. -/
def Cluster.dropImages (p h : Nat) (k : Cluster) : Cluster := { k with store := k.store.filter fun x => !(x.2.part.val == p && x.2.handle == h) }

theorem Cluster.dropImages_twice (p h : Nat) (k : Cluster) : (k.dropImages p h).dropImages p h = k.dropImages p h := by
  unfold Cluster.dropImages
  rw [List.filter_filter]
  simp only [Bool.and_self]

/-- The plan itself unloaded: its handle and its places are free. -/
def State.dropPlan (s : State) (p h : Nat) (bound : Bool) : State :=
  let s := s.modPart p fun q => { q with plans := sdel h q.plans, bound := if bound then none else q.bound }
  s.each (s.partClusters p) fun t c => t.modCluster c (Cluster.dropImages p h)

theorem State.unloadPlan_unbound {s : State} {p h : Nat} (hb : (s.part p).bound ≠ some h) : s.unloadPlan p h = s.dropPlan p h false := by
  have hb : ((s.part p).bound == some h) = false := by simpa using hb
  unfold State.unloadPlan
  rw [hb]
  unfold State.dropPlan
  simp only [Bool.false_eq_true, if_false]
  rfl

theorem State.unloadPlan_bound {s : State} {p h : Nat} (hb : (s.part p).bound = some h) : s.unloadPlan p h =
    (let u := ((s.endReqs p (fun _ => true) stAborted rsReset).stopRun p).dropPlan p h true
     u.enterAll (u.partClusters p) .c3) := by
  have hb : ((s.part p).bound == some h) = true := by simpa using hb
  unfold State.unloadPlan
  rw [hb]
  unfold State.dropPlan
  simp only [if_true]
  rfl

theorem State.dropPlan_leaves (s : State) (p h : Nat) (bound : Bool) :
    let t := s.dropPlan p h bound
    (∀ fd : Fld, fd ∉ [Fld.parts, .clusters] → fd.of t = fd.of s) ∧ Local p s t ∧
      t.part p = { s.part p with plans := sdel h (s.part p).plans, bound := if bound then none else (s.part p).bound } ∧
      ∀ c, t.cluster c = if c ∈ s.partClusters p then (s.cluster c).dropImages p h else s.cluster c := by
  intro t
  have ht : t = s.dropPlan p h bound := rfl
  clear_value t
  unfold State.dropPlan at ht
  extract_lets u at ht
  have hu : Local p s u :=
    .modPart s (f := fun q => { q with plans := sdel h q.plans, bound := if bound then none else q.bound }) rfl
  have huf (fd : Fld) (hf : fd ∉ [Fld.parts]) : fd.of u = fd.of s := State.modPart_of s p _ hf
  have hup : u.part p = { s.part p with plans := sdel h (s.part p).plans, bound := if bound then none else (s.part p).bound } := s.part_modPart p _
  clear_value u
  have htf (fd : Fld) (hf : fd ∉ [Fld.clusters]) : fd.of t = fd.of u := by
    rw [ht]
    exact Fld.of_each _ fun t c => State.modCluster_of t c _ hf
  have hl : Local p u t := by
    rw [ht]
    exact .eachCluster u (fun _ => Cluster.dropImages p h) fun _ hc => hc
  refine ⟨fun fd hf => (htf fd (Fld.not_mem hf)).trans (huf fd (Fld.not_mem hf)), hu.trans hl, ?_, fun c => ?_⟩
  · rw [State.part_congr (htf .parts (by decide))]
    exact hup
  · have hcl : u.cluster c = s.cluster c := State.cluster_congr (huf .clusters (by decide)) c
    rw [ht, u.cluster_eachOnce (Cluster.dropImages_twice p h), hcl, hu.clusters_eq]

/-- An unbound plan unloaded, with ACCEPTED and the final message. -/
theorem State.unload_unbound (s : State) (c : Cmd) {p h : Nat} {pred : LongCmd → Bool} (hb : (s.part p).bound ≠ some h) :
    let t := (((s.take c).finishAll pred stAborted).unloadPlan p h).acceptDone c stOk
    t = { s with windows := t.windows, leases := t.leases, longs := t.longs, parts := t.parts, clusters := t.clusters } ∧
      OnePart s t p ∧ t.part p = { s.part p with plans := sdel h (s.part p).plans } ∧ (∀ l ∈ t.longs, l ∈ s.longs ∧ pred l = false) ∧
      (∀ x, t.cluster x = if x ∈ s.partClusters p then (s.cluster x).dropImages p h else s.cluster x) ∧
      ((∀ l ∈ s.longs, pred l = false) → Took s t c.die c.fn c.slot [c.msg false stAccepted [], c.msg true stOk []]) := by
  intro t
  have hab : stAborted ≠ stFaulted := by decide
  have hff (fd : Fld) (hf : fd ∉ [Fld.windows, .longs, .leases]) : fd.of ((s.take c).finishAll pred stAborted) = fd.of s :=
    (State.finishAll_of_ne hab _ _ (Fld.not_mem hf)).trans (State.take_of s c (Fld.not_mem hf))
  have hfl (l : LongCmd) (hl : l ∈ ((s.take c).finishAll pred stAborted).longs) : l ∈ s.longs ∧ pred l = false :=
    State.finishAll_longs (s := s.take c) hl
  have hfn (hn : ∀ l ∈ s.longs, pred l = false) : (s.take c).finishAll pred stAborted = s.take c := State.finishAll_of_none stAborted hn
  have ht : t = (((s.take c).finishAll pred stAborted).unloadPlan p h).acceptDone c stOk := rfl
  clear_value t
  generalize (s.take c).finishAll pred stAborted = v at ht hff hfl hfn
  have hvp : v.part p = s.part p := State.part_congr (hff .parts (by decide)) p
  rw [State.unloadPlan_unbound (by rwa [hvp])] at ht
  obtain ⟨hdf, hdl, hdp, hdc⟩ := v.dropPlan_leaves p h false
  generalize v.dropPlan p h false = w at ht hdf hdl hdp hdc
  have htf (fd : Fld) (hf : fd ∉ [Fld.windows]) : fd.of t = fd.of w := by
    rw [ht]
    exact State.acceptDone_of w c stOk [] hf
  have hvs : v.partClusters p = s.partClusters p := congrArg (fun q : PartState => q.cfg.clusters) hvp
  have htl : t.longs = v.longs := (htf .longs (by decide)).trans (hdf .longs (by decide))
  refine ⟨State.eq_patch [.windows, .leases, .longs, .parts, .clusters] fun fd hf => ?_, fun k hk => ?_, ?_, fun l hl => hfl l (htl ▸ hl),
    fun x => ?_, fun hn => ?_⟩
  · exact (htf fd (Fld.not_mem hf)).trans ((hdf fd (Fld.not_mem hf)).trans (hff fd (Fld.not_mem hf)))
  · rw [show t.parts = w.parts from htf .parts (by decide), hdl.parts k hk, show v.parts = s.parts from hff .parts (by decide)]
  · rw [State.part_congr (htf .parts (by decide)), hdp, hvp]
    rfl
  · rw [State.cluster_congr (htf .clusters (by decide)), hdc, hvs, State.cluster_congr (s := s) (t := v) (hff .clusters (by decide))]
  · have hv := hfn hn
    rw [ht]
    exact Took.acceptDone (by rw [← hv]; exact hdf .windows (by decide)) (by rw [← hv]; exact hdf .leases (by decide)) stOk []

theorem Cluster.enter_store (k : Cluster) (aim : CState) : (k.enter aim).store = k.store := by
  unfold Cluster.enter
  extract_lets k'
  have hk : k'.store = k.store := by
    dsimp only [k']
    split <;> rfl
  split
  · exact hk
  · exact hk
  · split
    · exact hk
    · exact hk

/-- A bound plan unloaded: its requests are closing, its run is gone, its clusters go to C3 (R178). -/
theorem State.unloadPlan_ends (s : State) (p : Fin 16) {h : Nat} (hb : (s.part p).bound = some h) :
    let t := s.unloadPlan p h
    (∀ fd : Fld, fd ∈ [Fld.longs, .hbm, .fuses, .hostMem, .faults] → fd.of t = fd.of s) ∧ Local p s t ∧
      (t.part p).plans = sdel h (s.part p).plans ∧ (t.part p).bound = none ∧ (t.part p).run = none ∧
      (∀ r ∈ (t.part p).queue, r.stage = .closing) ∧
      ∀ x ∈ s.partClusters p, (t.cluster x).goesDown .c3 ∧ ∀ y ∈ (t.cluster x).store, ¬ (y.2.part.val = p ∧ y.2.handle = h) := by
  intro t
  have hfr (fd : Fld) (hf : fd ∈ [Fld.longs, .hbm, .fuses, .hostMem, .faults]) : fd.of t = fd.of s :=
    State.unloadPlan_of s p h (by revert hf; cases fd <;> decide)
  have ht : t = _ := State.unloadPlan_bound hb
  clear_value t
  obtain ⟨hac, haq⟩ := Closes.endReqs_all (s := s) (p := p) stAborted rsReset false
  have hal : Local p s (s.endReqs p (fun _ => true) stAborted rsReset) := .endReqs _ _ _ _
  generalize s.endReqs p (fun _ => true) stAborted rsReset = a at ht hac haq hal
  obtain ⟨hbc, hbr⟩ := Closes.stopRun (s := a) (p := p)
  have hbl : Local p a (a.stopRun p) := .stopRun
  generalize a.stopRun p = b at ht hbc hbr hbl
  obtain ⟨hdf, hdl, hdp, hdc⟩ := b.dropPlan_leaves p h true
  generalize b.dropPlan p h true = d at ht hdf hdl hdp hdc
  have ht : t = d.enterAll (d.partClusters p) .c3 := ht
  have htf (fd : Fld) (hf : fd ∉ [Fld.clusters]) : fd.of t = fd.of d := by
    rw [ht]
    exact State.enterAll_of d _ _ hf
  have htl : Local p d t := by
    rw [ht]
    exact .enterAll d .c3
  have htp : t.part p = { b.part p with plans := sdel h (b.part p).plans, bound := none } :=
    (State.part_congr (htf .parts (by decide)) p).trans hdp
  have hsc : Closes p s b := hac.trans hbc
  have hbq : ∀ r ∈ (b.part p).queue, r.stage = .closing := fun r hr => by
    obtain ⟨y, hy, -, hs⟩ := hbc.2.2 r hr
    rcases hs with hs | hs
    · exact hs.trans (haq y hy)
    · exact hs
  have hplans : (b.part p).plans = (s.part p).plans := by rw [hsc.1]
  have hdcl : d.partClusters p = s.partClusters p := hdl.clusters_eq.trans (hbl.clusters_eq.trans hal.clusters_eq)
  refine ⟨hfr, (hal.trans hbl).trans (hdl.trans htl), ?_, by rw [htp], ?_, ?_, fun x hx => ⟨?_, fun y hy => ?_⟩⟩
  · rw [htp, hplans]
  · rw [htp]
    exact hbr
  · rw [htp]
    exact hbq
  · rw [ht]
    exact d.cluster_eachCluster (P := fun k => k.goesDown .c3) (fun k => k.enter_goesDown (by decide)) (hdcl ▸ hx)
  · have hstore : (t.cluster x).store = (d.cluster x).store := by
      rw [ht]
      exact d.cluster_eachCluster_keeps (x := Cluster.store) (fun k => Cluster.enter_store k .c3) _ x
    have hbx : x ∈ b.partClusters p := (hbl.clusters_eq.trans hal.clusters_eq) ▸ hx
    rw [hstore, hdc, if_pos hbx] at hy
    have := (List.mem_filter.1 hy).2
    rintro ⟨h1, h2⟩
    simp [h1, h2] at this

/-- A bound plan unloaded by a command, with ACCEPTED and the final message. -/
theorem State.unload_bound (s : State) (c : Cmd) (p : Fin 16) {h : Nat} {pred : LongCmd → Bool} (hb : (s.part p).bound = some h) :
    let t := (((s.take c).finishAll pred stAborted).unloadPlan p h).acceptDone c stOk
    OnePart s t p ∧ Within s t p ∧ (t.part p).plans = sdel h (s.part p).plans ∧ (t.part p).bound = none ∧ (t.part p).run = none ∧
      (∀ r ∈ (t.part p).queue, r.stage = .closing) ∧ (∀ l ∈ t.longs, l ∈ s.longs ∧ pred l = false) ∧
      (∀ x ∈ s.partClusters p, (t.cluster x).goesDown .c3 ∧ ∀ y ∈ (t.cluster x).store, ¬ (y.2.part.val = p ∧ y.2.handle = h)) ∧
      c.msg true stOk [] ∈ (t.window c.die c.fn).outQ ∧ t.hbm = s.hbm ∧ t.fuses = s.fuses ∧ t.hostMem = s.hostMem ∧ t.faults = s.faults := by
  intro t
  have hff (fd : Fld) (hf : fd ∉ [Fld.windows, .longs, .leases]) : fd.of ((s.take c).finishAll pred stAborted) = fd.of s :=
    (State.finishAll_of_ne (by decide) _ _ (Fld.not_mem hf)).trans (State.take_of s c (Fld.not_mem hf))
  have hfl (l : LongCmd) (hl : l ∈ ((s.take c).finishAll pred stAborted).longs) : l ∈ s.longs ∧ pred l = false :=
    State.finishAll_longs (s := s.take c) hl
  have ht : t = (((s.take c).finishAll pred stAborted).unloadPlan p h).acceptDone c stOk := rfl
  clear_value t
  generalize (s.take c).finishAll pred stAborted = v at ht hff hfl
  have hvl : Local p s v := .of_fields (hff .parts (by decide)) (hff .clusters (by decide)) (hff .cores (by decide))
  have hvp : v.part p = s.part p := State.part_congr (hff .parts (by decide)) p
  obtain ⟨hwf, hwl, hwp, hwb, hwr, hwq, hwc⟩ := v.unloadPlan_ends p (h := h) (by rwa [hvp])
  generalize v.unloadPlan p h = w at ht hwf hwl hwp hwb hwr hwq hwc
  have htf (fd : Fld) (hf : fd ∉ [Fld.windows]) : fd.of t = fd.of w := by
    rw [ht]
    exact State.acceptDone_of w c stOk [] hf
  have htp : t.part p = w.part p := State.part_congr (htf .parts (by decide)) p
  have htl : Local p s t := (hvl.trans hwl).trans (.of_fields (htf .parts (by decide)) (htf .clusters (by decide)) (htf .cores (by decide)))
  rw [htp]
  refine ⟨htl.parts, htl.within, hvp ▸ hwp, hwb, hwr, hwq, fun l hl => hfl l ?_, fun x hx => ?_, ?_, ?_, ?_, ?_, ?_⟩
  · rwa [show t.longs = w.longs from htf .longs (by decide), show w.longs = v.longs from hwf .longs (by decide)] at hl
  · rw [State.cluster_congr (htf .clusters (by decide))]
    exact hwc x (hvl.clusters_eq ▸ hx)
  · rw [ht, State.acceptDone, State.answer_eq, State.window_modWindow]
    exact List.mem_append_right _ List.mem_cons_self
  · exact (htf .hbm (by decide)).trans ((hwf .hbm (by decide)).trans (hff .hbm (by decide)))
  · exact (htf .fuses (by decide)).trans ((hwf .fuses (by decide)).trans (hff .fuses (by decide)))
  · exact (htf .hostMem (by decide)).trans ((hwf .hostMem (by decide)).trans (hff .hostMem (by decide)))
  · exact (htf .faults (by decide)).trans ((hwf .faults (by decide)).trans (hff .faults (by decide)))

/-- The long commands of a plan that an unload ends. -/
def planCmds (p h : Nat) (l : LongCmd) : Bool := (l.code == 0x22#8 || l.code == 0x23#8) && l.part.val == p && field l.payload 1 1 == h

theorem planCmds_iff (p h : Nat) (l : LongCmd) :
    planCmds p h l = true ↔ (l.code = 0x22#8 ∨ l.code = 0x23#8) ∧ l.part.val = p ∧ field l.payload 1 1 = h := by
  simp [planCmds, and_assoc]

theorem planCmds_false {p h : Nat} {l : LongCmd} :
    planCmds p h l = false ↔ ¬ ((l.code = 0x22#8 ∨ l.code = 0x23#8) ∧ l.part.val = p ∧ field l.payload 1 1 = h) := by
  rw [← planCmds_iff, Bool.not_eq_true]

theorem exec_planUnload {die : Die} {fn : Fn} {slot : Fin 32} {s : State} (ho : s.offers die.val fn.val slot.val 0x21 2 = true)
    (hn : s.mayName (s.readCmd die.val fn.val slot.val) = true) (hr : s.ruled = true) (hl : s.longRoom fn.val = true) (he : s.estate = .e0) :
    let c := s.readCmd die.val fn.val slot.val
    exec (.planUnload die fn slot) s = .next (if (sfind? (s.part c.named).plans (c.at 1 1)).isNone then (s.take c).answer c stBadArg
      else (((s.take c).finishAll (planCmds c.named (c.at 1 1)) stAborted).unloadPlan c.named (c.at 1 1)).acceptDone c stOk) :=
  congrArg Host.Outcome.next (State.serve_passes ho rfl (State.serves_of_e0 he _) (by simp) (fun _ => hn) (fun _ => hr) (fun _ => hl))

theorem State.named_lt {s : State} {c : Cmd} (h : s.mayName c = true) : c.named < 16 := by
  simp only [State.mayName, Bool.and_eq_true, decide_eq_true_eq] at h
  exact h.2

/-- Settles O17. -/
theorem planWork : Obligations.PlanWork := by
  unfold Obligations.PlanWork
  refine ⟨?_, ?_⟩
  · intro die fn seq lost l s hc hlong p q off len b h
    refine ⟨fun hcode hf => ?_, fun hcode n o hf => ?_, fun hcode x hx hv hw hq hr => ?_, fun hcode x hx hs => ⟨fun m hm => ?_, fun f hm => ?_⟩,
      fun hcode hs hx => ?_⟩
    · exact ⟨_, congrArg Host.Outcome.next (State.ending_code hlong hcode _), (State.loadDone_ends hc l).1 hf⟩
    · exact ⟨_, congrArg Host.Outcome.next (State.ending_code hlong hcode _), (State.loadDone_ends hc l).2 n o hf⟩
    · exact ⟨_, congrArg Host.Outcome.next (State.ending_code hlong hcode _), State.bindDone_ends lost hx hv hw hq hr⟩
    · exact ⟨_, congrArg Host.Outcome.next (State.ending_code hlong hcode _), State.verifyDone_ends lost hx hs hm⟩
    · exact ⟨_, congrArg Host.Outcome.next ((State.ending_code hlong hcode _).trans (State.verifyDone_failed lost hx hs hm)),
        s.finish_only l stBadArg_ne _⟩
    · exact ⟨_, congrArg Host.Outcome.next ((State.ending_code hlong hcode _).trans (State.verifyDone_stale lost hx hs)),
        s.finish_only l stBusy_ne _⟩
  · intro die fn slot s c p q h open' ho hn hr hl he
    have hx := exec_planUnload ho hn hr hl he
    have hne (hs : (sfind? q.plans h).isSome = true) : ¬ ((sfind? q.plans h).isNone = true) := by
      rw [Option.isNone_iff_eq_none]
      exact fun e => by rw [e] at hs; cases hs
    refine ⟨fun hs hb => ?_, fun hs hb => ?_, fun hs => ?_⟩
    · obtain ⟨hf, h1, hp, hlg, hcl, htk⟩ := s.unload_unbound c (pred := planCmds p h) hb
      refine ⟨_, hx.trans (congrArg Host.Outcome.next (if_neg (hne hs))), hf, h1, hp, fun l hl => ?_, fun x => ?_, fun x hx => ?_, fun x hx => ?_,
        fun hno => htk fun l hl => planCmds_false.2 (hno l hl)⟩
      · exact ⟨(hlg l hl).1, planCmds_false.1 (hlg l hl).2⟩
      · have h := hcl x
        split at h
        · rw [h]
          rfl
        · rw [h]
      · exact (hcl x).trans (if_neg hx)
      · exact congrArg Cluster.store ((hcl x).trans (if_pos hx))
    · obtain ⟨h1, hw, hp, hbn, hrn, hq, hlg, hcl, hm⟩ := s.unload_bound c ⟨p, State.named_lt hn⟩ (pred := planCmds p h) hb
      exact ⟨_, hx.trans (congrArg Host.Outcome.next (if_neg (hne hs))), h1, hw, hp, hbn, hrn, hq,
        fun l hl => ⟨(hlg l hl).1, planCmds_false.1 (hlg l hl).2⟩, hcl, hm⟩
    · exact ⟨_, hx.trans (congrArg Host.Outcome.next (if_pos (Option.isNone_iff_eq_none.2 hs))), s.answer_answered c stBadArg []⟩

end Sys2Proof.Machine
end

section
/-!
The ends of SNAP.TAKE and SNAP.RESTORE (R191, R193, R194, R196).
-/

namespace Sys2Proof.Machine

open Sys2Proof

/-! ## Scans that do not return -/

theorem State.leasesOf_congr {s t : State} (h : t.leases = s.leases) (c : Nat) : t.leasesOf c = s.leasesOf c := by
  unfold State.leasesOf
  rw [h]

/-- A cluster that holds no lease is bypassed by scans, with a record, and nothing else differs. -/
theorem State.scanLost_leaves {s : State} {c : Nat} (h : s.leasesOf c = []) :
    s.scanLost c = (s.modCluster c fun k => { k with scanBypass := true }).log 0x0203 (s.partOf c) (some c) := by
  have hl : ((s.modCluster c fun k => { k with scanBypass := true }).log 0x0203 (s.partOf c) (some c)).leasesOf c = [] :=
    (State.leasesOf_congr rfl c).trans h
  unfold State.scanLost State.seizeAll
  rw [hl]
  rfl

theorem State.scanLostEach_leaves {s : State} {l : List Nat} (h : ∀ c ∈ l, s.leasesOf c = []) :
    let t := s.each l State.scanLost
    (∀ fd : Fld, fd ∉ [Fld.clusters, .faults, .faultSeq, .faultsLost] → fd.of t = fd.of s) ∧
      (∀ c ∈ l, (t.cluster c).scanBypass = true) ∧ (∀ c, c ∉ l → t.cluster c = s.cluster c) := by
  induction l generalizing s with
  | nil => exact ⟨fun _ _ => rfl, fun c hc => absurd hc List.not_mem_nil, fun _ _ => rfl⟩
  | cons a r ih =>
    have ha := State.scanLost_leaves (h a List.mem_cons_self)
    have hf (fd : Fld) (hf : fd ∉ [Fld.clusters, .faults, .faultSeq, .faultsLost]) : fd.of (s.scanLost a) = fd.of s := by
      rw [ha]
      exact (State.log_of _ _ _ _ _ _ _ _ (Fld.not_mem hf)).trans (State.modCluster_of _ _ _ (Fld.not_mem hf))
    have hcl (c : Nat) : (s.scanLost a).cluster c = (s.modCluster a fun k => { k with scanBypass := true }).cluster c := by
      rw [ha]
      exact State.cluster_congr (State.log_of (fd := .clusters) _ _ _ _ _ _ _ _ (by decide)) c
    obtain ⟨hrf, hin, hout⟩ := ih (s := s.scanLost a) fun c hc =>
      (State.leasesOf_congr (hf .leases (by decide)) c).trans (h c (List.mem_cons_of_mem _ hc))
    refine ⟨fun fd hfd => (hrf fd hfd).trans (hf fd hfd), fun c hc => ?_, fun c hc => ?_⟩
    · by_cases hr : c ∈ r
      · exact hin c hr
      · have hca : c = a := (List.mem_cons.1 hc).resolve_right hr
        have e := hout c hr
        rw [hcl, hca, State.cluster_modCluster] at e
        subst hca
        exact congrArg Cluster.scanBypass e
    · refine (hout c (List.not_mem_of_not_mem_cons hc)).trans ((hcl c).trans ?_)
      exact State.cluster_modCluster_ne _ _ _ _ (List.ne_of_not_mem_cons hc)

/-! ## A snapshot stays in its granules -/

theorem PartRec.ea_granule {r : PartRec} {off a : Nat} (h : r.ea off = some a) : granuleOf a ∈ r.granules := by
  obtain ⟨g, hg, rfl⟩ := Option.map_eq_some_iff.1 h
  have hgr : granuleOf (granuleBase g + off % granuleSize) = g := by
    unfold granuleOf granuleBase granuleSize
    omega
  rw [hgr]
  exact List.mem_of_getElem? hg

theorem mread_relWrite_out (r : PartRec) (off : Nat) (b : Bytes) (m : Mem) {a : Nat} (ha : granuleOf a ∉ r.granules) :
    mread (relWrite r off b m) a = mread m a := by
  induction b generalizing off m with
  | nil => rfl
  | cons x b ih =>
    refine (ih (off + 1) _).trans ?_
    split
    next e he => exact mread_mwrite_ne _ _ _ _ fun h => ha (h ▸ PartRec.ea_granule he)
    next => rfl

/-! ## The ends -/

theorem State.snap_idle {s : State} {p : Nat} (hr : (s.part p).run = none) (hq : (s.part p).queue = []) :
    ¬ ((s.part p).run.isSome || !(s.part p).queue.isEmpty) = true := by
  rw [hr, hq]
  decide

theorem State.snap_busy {s : State} {p : Nat} (h : (s.part p).queue ≠ [] ∨ (s.part p).run ≠ none) :
    ((s.part p).run.isSome || !(s.part p).queue.isEmpty) = true := by
  rcases h with h | h
  · rw [List.isEmpty_eq_false_iff.2 h]
    simp
  · rw [Option.isSome_iff_ne_none.2 h]
    rfl

/-- A long command that writes HBM and ends well. -/
theorem State.finish_setHbm {s u : State} (hw : u.windows = s.windows) (hl : u.longs = s.longs) (m : Mem) (n : Nat) (l : LongCmd) :
    let t := ({ u with hbm := m, freeCount := n } : State).finish l stOk
    (∀ fd : Fld, fd ∉ [Fld.windows, .longs, .hbm, .freeCount] → fd.of t = fd.of u) ∧ t.hbm = m ∧ Finished s t l stOk [] :=
  ⟨fun _ hf => (State.finish_of_ne stOk_ne l [] (Fld.not_mem hf)).trans (Fld.of_upd (L := [.hbm, .freeCount]) rfl (Fld.not_mem hf)),
    State.finish_of_ne (fd := .hbm) (s := { u with hbm := m, freeCount := n }) stOk_ne l [] (by decide),
    State.finish_finished (u := { u with hbm := m, freeCount := n }) hw hl stOk_ne l []⟩

/-- SNAP.TAKE ends: the clusters whose scan did not return are bypassed, and the snapshot is in the caller's granules. -/
theorem State.snapTaken_ends {s : State} {l : LongCmd} {late : List Nat} (hr : (s.part l.part.val).run = none) (hq : (s.part l.part.val).queue = []) :
    let p := l.part.val
    let cfg := (s.part l.sender.val).cfg
    let redacted := s.fuses.debugOff && l.sender.val == 0 && p != 0
    let lost (c : Nat) : Prop := c ∈ late ∧ c ∈ s.partClusters p ∧ (s.cluster c).bypassed = false
    let t := s.snapTaken l late
    (∀ c, lost c → s.leasesOf c = []) → ∃ u,
      t = { s with windows := t.windows, longs := t.longs, hbm := t.hbm, freeCount := t.freeCount, clusters := t.clusters
                   faults := t.faults, faultSeq := t.faultSeq, faultsLost := t.faultsLost } ∧ Finished s t l stOk [] ∧
      t.hbm = relWrite cfg (field l.payload 8 8) (u.snapshot p redacted) s.hbm ∧
      u = { s with clusters := t.clusters, faults := t.faults, faultSeq := t.faultSeq, faultsLost := t.faultsLost } ∧
      (∀ c, lost c → (t.cluster c).scanBypass = true) ∧ (∀ c, ¬ lost c → t.cluster c = s.cluster c) ∧
      ((∀ c, ¬ lost c) → t.faults = s.faults) := by
  intro p cfg redacted lost t hno
  have ht : t = s.snapTaken l late := rfl
  clear_value t
  unfold State.snapTaken at ht
  generalize 5568 = drawn at ht
  extract_lets ls u red body v at ht
  rw [if_neg (State.snap_idle hr hq)] at ht
  have hls (c : Nat) : c ∈ ls ↔ lost c := by simp [ls, lost, p]
  obtain ⟨huf, hin, hout⟩ := State.scanLostEach_leaves (s := s) (l := ls) fun c hc => hno c ((hls c).1 hc)
  have hnone (h : ∀ c, ¬ lost c) : u = s := by
    have : ls = [] := List.eq_nil_iff_forall_not_mem.2 fun c hc => h c ((hls c).1 hc)
    dsimp only [u]
    rw [this]
    rfl
  have hue : u = { s with clusters := u.clusters, faults := u.faults, faultSeq := u.faultSeq, faultsLost := u.faultsLost } :=
    State.eq_patch [.clusters, .faults, .faultSeq, .faultsLost] huf
  change ∀ fd : Fld, fd ∉ [Fld.clusters, .faults, .faultSeq, .faultsLost] → fd.of u = fd.of s at huf
  change ∀ c ∈ ls, (u.cluster c).scanBypass = true at hin
  change ∀ c, c ∉ ls → u.cluster c = s.cluster c at hout
  have hcfg : (u.part l.sender.val).cfg = cfg := congrArg PartState.cfg (State.part_congr (huf .parts (by decide)) _)
  have hred : red = redacted := by
    dsimp only [red, redacted]
    rw [show u.fuses = s.fuses from huf .fuses (by decide)]
  have hhbm : u.hbm = s.hbm := huf .hbm (by decide)
  obtain ⟨htu, hth, hfin⟩ := State.finish_setHbm (huf .windows (by decide)) (huf .longs (by decide))
    (relWrite (u.part l.sender.val).cfg (field l.payload 8 8) body u.hbm) (u.freeCount + drawn) l
  rw [← ht] at htu hth hfin
  rw [hcfg, hhbm, show body = u.snapshot p redacted from congrArg (u.snapshot p) hred] at hth
  clear_value u
  have htc (c : Nat) : t.cluster c = u.cluster c := State.cluster_congr (htu .clusters (by decide)) c
  have h1 : t.clusters = u.clusters := htu .clusters (by decide)
  have h2 : t.faults = u.faults := htu .faults (by decide)
  have h3 : t.faultSeq = u.faultSeq := htu .faultSeq (by decide)
  have h4 : t.faultsLost = u.faultsLost := htu .faultsLost (by decide)
  refine ⟨u, State.eq_patch [.windows, .longs, .hbm, .freeCount, .clusters, .faults, .faultSeq, .faultsLost] fun fd hf =>
    (htu fd (Fld.not_mem hf)).trans (huf fd (Fld.not_mem hf)), hfin, hth, ?_, fun c hc => ?_, fun c hc => ?_, fun h => ?_⟩
  · rw [h1, h2, h3, h4]
    exact hue
  · rw [htc]
    exact hin c ((hls c).2 hc)
  · rw [htc]
    exact hout c fun hm => hc ((hls c).1 hm)
  · rw [h2, hnone h]

/-- Restoring a cluster writes its own cores, and none while it is bypassed. -/
theorem State.coreAt_restoreCluster (s : State) (b : Bytes) (c i : Nat) {n : Nat} (h : n / 272 ≠ c ∨ (s.cluster c).bypassed = true) :
    (s.restoreCluster b c i).coreAt n = s.coreAt n := by
  unfold State.restoreCluster
  by_cases hb : (snapAbsent b i || (s.cluster c).bypassed) = true
  · rw [if_pos hb]
  · rw [if_neg hb]
    have hne : n / 272 ≠ c := h.resolve_right fun h => hb (by rw [h, Bool.or_true])
    have hl : ∀ lc ∈ List.range 256, lc < 256 := fun lc h => List.mem_range.1 h
    generalize List.range 256 = l at hl
    generalize s.cluster c = k
    induction l generalizing s with
    | nil => rfl
    | cons a r ih =>
      rw [State.each]
      refine (ih _ (by exact h) (by exact hb) fun lc hlc => hl lc (List.mem_cons_of_mem _ hlc)).trans ?_
      refine s.coreAt_modCore_ne _ _ _ fun e => hne ?_
      rw [e, s.lcore_div c (hl a List.mem_cons_self)]

/-- The clusters of a snapshot restored one after another. -/
theorem State.restoreEach_leaves (s : State) (b : Bytes) {p : Nat} {l : List (Nat × Nat)} (hl : ∀ x ∈ l, x.1 ∈ s.partClusters p) :
    let t := s.each l fun t (c, i) => t.restoreCluster b c i
    (∀ fd : Fld, fd ∉ [Fld.cores] → fd.of t = fd.of s) ∧ Local p s t ∧
      ∀ n, (s.cluster (n / 272)).bypassed = true → t.coreAt n = s.coreAt n := by
  induction l generalizing s with
  | nil => exact ⟨fun _ _ => rfl, .refl p s, fun _ _ => rfl⟩
  | cons x r ih =>
    obtain ⟨c, i⟩ := x
    have hf (fd : Fld) (hf : fd ∉ [Fld.cores]) : fd.of (s.restoreCluster b c i) = fd.of s := State.restoreCluster_of s b c i hf
    have hloc : Local p s (s.restoreCluster b c i) := by
      refine ⟨congrArg PartState.cfg (State.part_congr (hf .parts (by decide)) p), fun k _ => ?_,
        fun x _ => State.cluster_congr (hf .clusters (by decide)) x, fun n hn => ?_⟩
      · rw [show (s.restoreCluster b c i).parts = s.parts from hf .parts (by decide)]
      · exact s.coreAt_restoreCluster b c i (.inl fun e => hn (e ▸ hl (c, i) List.mem_cons_self))
    have hby (n : Nat) (hb : (s.cluster (n / 272)).bypassed = true) : (s.restoreCluster b c i).coreAt n = s.coreAt n := by
      refine s.coreAt_restoreCluster b c i ?_
      by_cases hn : n / 272 = c
      · exact .inr (hn ▸ hb)
      · exact .inl hn
    have hcl (x : Nat) : (s.restoreCluster b c i).cluster x = s.cluster x := State.cluster_congr (hf .clusters (by decide)) x
    obtain ⟨h1, h2, h3⟩ := ih (s.restoreCluster b c i) fun x hx => hloc.clusters_eq.symm ▸ hl x (List.mem_cons_of_mem _ hx)
    exact ⟨fun fd h => (h1 fd h).trans (hf fd h), hloc.trans h2, fun n hb => (h3 n (by rwa [hcl])).trans (hby n hb)⟩

/-- SNAP.RESTORE ends: cores of the partition alone are written, and what credits they had to come are gone. -/
theorem State.snapRestored_ends {s : State} {l : LongCmd} (hr : (s.part l.part.val).run = none) (hq : (s.part l.part.val).queue = [])
    (hok : s.snapOk l.part.val (s.snapBytes l) = true) :
    let p := l.part.val
    let t := s.snapRestored l
    t = { s with windows := t.windows, longs := t.longs, cores := t.cores
                 credits := s.credits.filter fun x => !(s.partClusters p).contains x.cl.val } ∧
      Finished s t l stOk [] ∧ Within s t p ∧
      ∀ c ∈ s.partClusters p, (s.cluster c).bypassed = true → ∀ n, n / 272 = c → t.coreAt n = s.coreAt n := by
  intro p t
  have ht : t = s.snapRestored l := rfl
  clear_value t
  unfold State.snapRestored at ht
  extract_lets b u v at ht
  rw [if_neg (State.snap_idle hr hq), if_neg (by rw [show s.snapOk l.part.val b = true from hok]; decide)] at ht
  have hl : ∀ x ∈ (s.partClusters p).zipIdx, x.1 ∈ s.partClusters p := fun x hx => List.fst_mem_of_mem_zipIdx hx
  obtain ⟨huf, hul, hub⟩ := s.restoreEach_leaves b hl
  change ∀ fd : Fld, fd ∉ [Fld.cores] → fd.of u = fd.of s at huf
  change Local p s u at hul
  change ∀ n, (s.cluster (n / 272)).bypassed = true → u.coreAt n = s.coreAt n at hub
  clear_value u b
  have hvf (fd : Fld) (hf : fd ∉ [Fld.credits]) : fd.of v = fd.of u := Fld.of_upd (L := [.credits]) rfl hf
  have hvc : v.credits = s.credits.filter fun x => !(s.partClusters p).contains x.cl.val := by
    have hcr : u.credits = s.credits := huf .credits (by decide)
    have hpc : u.partClusters l.part.val = s.partClusters p := hul.clusters_eq
    dsimp only [v]
    rw [hcr, hpc]
  clear_value v
  have htf (fd : Fld) (hf : fd ∉ [Fld.windows, .longs]) : fd.of t = fd.of v := by
    rw [ht]
    exact State.finish_of_ne stOk_ne l _ hf
  have htu (fd : Fld) (hf : fd ∉ [Fld.windows, .longs, .credits]) : fd.of t = fd.of u := (htf fd (Fld.not_mem hf)).trans (hvf fd (Fld.not_mem hf))
  have hfin : Finished s t l stOk [] := by
    rw [ht]
    exact State.finish_finished ((hvf .windows (by decide)).trans (huf .windows (by decide)))
      ((hvf .longs (by decide)).trans (huf .longs (by decide))) stOk_ne l _
  have hlt : Local p s t := hul.trans (.of_fields (htu .parts (by decide)) (htu .clusters (by decide)) (htu .cores (by decide)))
  refine ⟨?_, hfin, hlt.within, fun c _ hb n hn => ?_⟩
  · rw [← hvc, ← show t.credits = v.credits from htf .credits (by decide)]
    exact State.eq_patch [.windows, .longs, .cores, .credits] fun fd hf => (htu fd (Fld.not_mem hf)).trans (huf fd (Fld.not_mem hf))
  · rw [State.coreAt_congr (htu .cores (by decide))]
    exact hub n (hn ▸ hb)

theorem State.snapRestored_refused {s : State} {l : LongCmd} (hr : (s.part l.part.val).run = none) (hq : (s.part l.part.val).queue = [])
    (hok : s.snapOk l.part.val (s.snapBytes l) = false) : s.snapRestored l = s.finish l stBadArg := by
  unfold State.snapRestored
  extract_lets p b u v
  rw [if_neg (State.snap_idle hr hq), if_pos (by rw [show s.snapOk p b = false from hok]; rfl)]

/-- Settles O18. -/
theorem snapWork : Obligations.SnapWork := by
  unfold Obligations.SnapWork
  intro die fn seq late l s hlong p q cfg redacted lost
  refine ⟨fun hcode hr hq hno => ?_, fun hcode hr hq hok => ?_, fun hcode hr hq hok => ?_, fun hcode hb => ?_, fun hcode hb => ?_⟩
  · have hlost (c : Nat) : lost c ↔ c ∈ late.map (·.val) ∧ c ∈ s.partClusters p ∧ (s.cluster c).bypassed = false :=
      and_congr_left fun _ => List.mem_map.symm
    obtain ⟨u, hf, hfin, hh, hu, hin, hout, hn⟩ := State.snapTaken_ends (late := late.map (·.val)) hr hq fun c hc => hno c ((hlost c).2 hc)
    refine ⟨_, u, congrArg Host.Outcome.next (State.ending_code hlong hcode _), hf, hfin, hh, fun a ha => ?_, hu, fun c hc => hin c ((hlost c).1 hc),
      fun c hc => hout c fun h => hc ((hlost c).2 h), fun h => hn fun c hc => h c ((hlost c).2 hc)⟩
    rw [hh]
    exact mread_relWrite_out _ _ _ _ ha
  · exact ⟨_, congrArg Host.Outcome.next (State.ending_code hlong hcode _), State.snapRestored_ends hr hq hok⟩
  · exact ⟨_, congrArg Host.Outcome.next ((State.ending_code hlong hcode _).trans (State.snapRestored_refused hr hq hok)), s.finish_only l stBadArg_ne _⟩
  · exact ⟨_, congrArg Host.Outcome.next ((State.ending_code hlong hcode _).trans (if_pos (State.snap_busy hb))), s.finish_only l stBusy_ne _⟩
  · exact ⟨_, congrArg Host.Outcome.next ((State.ending_code hlong hcode _).trans (if_pos (State.snap_busy hb))), s.finish_only l stBusy_ne _⟩

end Sys2Proof.Machine
end

section
/-!
PART.RESET while a PART.CREATE of the same partition is open (R396, R206).
-/

namespace Sys2Proof.Machine

open Sys2Proof

/-- P0, one cluster whose core 0 stands at word 5, with its PART.CREATE still open and a PART.RESET rung. -/
def State.resetInCreate : State :=
  { supply := .up, estate := .e0
    parts := [(0, { life := .live, cfg := { w := 1, h := 1 } })]
    cores := [(0, { pc := 5 })]
    longs := [{ die := 0, fn := 0, seq := 6, code := 0x10, sender := 0, part := 0, payload := [] }]
    windows := [(0, { fwReady := true, busy := 1, rung := [0], inSlots := mwrites 0 [5, 0, 0x13, 0, 2] [] })] }

/-- The core that PART.RESET leaves at number `n`. -/
def coreAfterReset (n : Nat) (s : State) : Option Core :=
  match exec (.partReset 0 0 0) s with
  | .next t => some (t.coreAt n)
  | _ => none

/-- The PART.CREATE is cut off before the partition's cores are reset, and takes its record with it: no core is reset. -/
theorem coreAfterReset_resetInCreate : (coreAfterReset 0 State.resetInCreate).map (·.pc) = some 5 := by decide +kernel

/-- Refutes O20: a PART.RESET of a partition whose PART.CREATE is open cuts that command off first, which takes the partition's
record away, so that no core of its clusters is reset. -/
theorem not_partitionEnds : ¬ Obligations.PartitionEnds := by
  unfold Obligations.PartitionEnds
  intro h
  have hr := h 0 0 0 State.resetInCreate (by decide +kernel) (by decide +kernel) rfl
  obtain ⟨t, ht, -, -, -, -, hcore, -⟩ := hr.2.1 (by decide +kernel) (by decide +kernel) (by decide +kernel) rfl (by decide +kernel)
  have h0 := hcore 0 (by decide +kernel)
  have he := coreAfterReset_resetInCreate
  unfold coreAfterReset at he
  rw [show exec (.partReset 0 0 0) State.resetInCreate = .next t from ht] at he
  have hpc : (t.coreAt 0).pc = 5 := Option.some.inj he
  have hz : (t.coreAt 0).pc = 0 := congrArg Core.pc h0
  omega

end Sys2Proof.Machine
end

section
/-!
A partition's build and the end of its clearing (R128, R207, R216).
-/

namespace Sys2Proof.Machine

open Sys2Proof

/-! ## Indices (R205) -/

/-- Of the partitions only Pp differs, in the indices it holds. -/
def Indexed (p : Nat) (s t : State) : Prop :=
  OnePart s t p ∧ t.part p = { s.part p with ruleIdx := (t.part p).ruleIdx, ctxIdx := (t.part p).ctxIdx }

namespace Indexed
variable {p : Nat} {s t u : State}

theorem trans (a : Indexed p s t) (b : Indexed p t u) : Indexed p s u :=
  ⟨fun k hk => (b.1 k hk).trans (a.1 k hk), by rw [b.2, a.2]⟩

theorem of_parts (h : Fld.of .parts t = Fld.of .parts s) : Indexed p s t := by
  have h : t.parts = s.parts := h
  refine ⟨fun k _ => by rw [h], ?_⟩
  rw [State.part_congr h]

theorem modPart {f : PartState → PartState} (h : f (s.part p) = { s.part p with ruleIdx := (f (s.part p)).ruleIdx, ctxIdx := (f (s.part p)).ctxIdx }) :
    Indexed p s (s.modPart p f) := by
  refine ⟨s.modPart_one p f, ?_⟩
  rw [State.part_modPart]
  exact h

theorem each {α : Type} {f : State → α → State} (l : List α) (hf : ∀ t a, Indexed p t (f t a)) : Indexed p s (s.each l f) := by
  induction l generalizing s with
  | nil => exact of_parts rfl
  | cons a r ih => exact (hf s a).trans ih

theorem assign : Indexed p s (s.assign p) := by
  unfold State.assign State.dropIndices
  extract_lets r u
  have hd : Indexed p s (((s.clearRules (s.part p).ruleIdx).clearContexts (s.part p).ctxIdx).modPart p fun q => { q with ruleIdx := [], ctxIdx := [] }) :=
    (of_parts ((State.clearContexts_of _ _ (by decide)).trans (State.clearRules_of _ _ (by decide)))).trans (modPart rfl)
  refine (hd.trans (each _ fun t h => modPart rfl)).trans (each _ fun t d => ?_)
  exact (of_parts (Fld.of_each _ fun t i => State.modCtx_of t _ _ _ (by decide))).trans (modPart rfl)

end Indexed

/-! ## Windows that open ready -/

/-- The windows of a partition at their first values, on the listed host dies. -/
def State.openWindows (s : State) (p : Nat) (l : List Nat) : State :=
  s.each l fun t h => { t with windows := sput {} (16 * h + p) { fwReady := true, majorXor := t.firmware.gmpMajor ^^^ 1#8 } t.windows }

theorem State.openWindows_of {fd : Fld} (s : State) (p : Nat) (l : List Nat) (hf : fd ∉ [Fld.windows]) : fd.of (s.openWindows p l) = fd.of s :=
  Fld.of_each _ fun _ _ => Fld.of_upd (L := [.windows]) rfl hf

theorem State.window_openWindows (s : State) {p : Nat} (hp : p < 16) (l : List Nat) {h f : Nat} (hf : f < 16) :
    (s.openWindows p l).window h f = if f = p ∧ h ∈ l then { fwReady := true, majorXor := s.firmware.gmpMajor ^^^ 1#8 } else s.window h f := by
  induction l generalizing s with
  | nil => simp; rfl
  | cons a r ih =>
    refine (ih _).trans ?_
    by_cases ha : h = a ∧ f = p
    · obtain ⟨rfl, rfl⟩ := ha
      have hw : sget {} (sput {} (16 * h + f) { fwReady := true, majorXor := s.firmware.gmpMajor ^^^ 1#8 } s.windows) (16 * h + f) =
        ({ fwReady := true, majorXor := s.firmware.gmpMajor ^^^ 1#8 } : Window) := sget_sput_same ..
      refine Eq.trans ?_ (if_pos ⟨rfl, List.mem_cons_self⟩).symm
      split
      · rfl
      · exact hw
    · have hne : 16 * h + f ≠ 16 * a + p := by omega
      rw [State.window, sget_sput_ne _ _ _ _ _ hne]
      exact if_congr (by simp; omega) rfl rfl

/-! ## Fences (R128) -/

/-- The fence of every physical core of a cluster, as its record asks (R128). -/
def Cluster.fences (k : Cluster) (g : Nat → BitVec 4) (i : Nat) : BitVec 4 :=
  match k.logical i with
  | some lc => g lc
  | none => 0b1111#4

theorem State.fence_eachCore (s : State) (c : Nat) (g : Nat → BitVec 4) {l : List Nat} (hl : ∀ i ∈ l, i < 272) (n : Nat) :
    let t := s.each l fun t i => t.modCore (272 * c + i) fun k => { k with fence := g i }
    (n / 272 ≠ c → t.coreAt n = s.coreAt n) ∧ (n % 272 ∈ l → n / 272 = c → (t.coreAt n).fence = g (n % 272)) ∧
      ((t.coreAt n).fence = (s.coreAt n).fence ∨ (n / 272 = c ∧ (t.coreAt n).fence = g (n % 272))) := by
  induction l generalizing s with
  | nil => exact ⟨fun _ => rfl, fun h => absurd h List.not_mem_nil, .inl rfl⟩
  | cons a r ih =>
    have ha : a < 272 := hl a List.mem_cons_self
    obtain ⟨hout, hin, hor⟩ := ih (s.modCore (272 * c + a) fun k => { k with fence := g a }) fun i hi => hl i (List.mem_cons_of_mem _ hi)
    by_cases hn : n = 272 * c + a
    · have hm : n % 272 = a := by omega
      have hd : n / 272 = c := by omega
      have hs : ((s.modCore (272 * c + a) fun k => { k with fence := g a }).coreAt n).fence = g (n % 272) := by
        rw [hn, State.coreAt_modCore, ← hn, hm]
      have hg := hor.elim (fun h => h.trans hs) fun h => h.2
      exact ⟨fun h => absurd hd h, fun _ _ => hg, .inr ⟨hd, hg⟩⟩
    · have hs := s.coreAt_modCore_ne (272 * c + a) n (fun k => { k with fence := g a }) hn
      rw [hs] at hor
      refine ⟨fun h => (hout h).trans hs, fun hm hd => hin ((List.mem_cons.1 hm).resolve_left fun e => hn ?_) hd, hor⟩
      omega

theorem State.fenceCluster_eq (s : State) (r : PartRec) (c : Nat) : s.fenceCluster r c =
    s.each (List.range 272) fun t i => t.modCore (272 * c + i) fun k => { k with fence := (s.cluster c).fences (s.fenceOf r c) i } := rfl

theorem State.fenceCluster_leaves (s : State) (r : PartRec) (c n : Nat) :
    (n / 272 ≠ c → (s.fenceCluster r c).coreAt n = s.coreAt n) ∧
      (n / 272 = c → ((s.fenceCluster r c).coreAt n).fence = (s.cluster c).fences (s.fenceOf r c) (n % 272)) := by
  obtain ⟨hout, hin, -⟩ := s.fence_eachCore c ((s.cluster c).fences (s.fenceOf r c)) (l := List.range 272) (fun i hi => List.mem_range.1 hi) n
  rw [s.fenceCluster_eq]
  exact ⟨hout, hin (List.mem_range.2 (Nat.mod_lt _ (by decide)))⟩

/-- The fences depend on the clusters' repair maps and on what is retired alone. -/
theorem State.fenceOf_congr {s t : State} (h : ∀ c, (t.cluster c).retired = (s.cluster c).retired) (r : PartRec) (c lc : Nat) :
    t.fenceOf r c lc = s.fenceOf r c lc := by
  unfold State.fenceOf
  simp only [h]

theorem State.fenceEach_leaves (s : State) (r : PartRec) (l : List Nat) (n : Nat) :
    let t := s.each l fun t c => t.fenceCluster r c
    (n / 272 ∉ l → t.coreAt n = s.coreAt n) ∧
      (n / 272 ∈ l → (t.coreAt n).fence = (s.cluster (n / 272)).fences (s.fenceOf r (n / 272)) (n % 272)) := by
  induction l generalizing s with
  | nil => exact ⟨fun _ => rfl, fun h => absurd h List.not_mem_nil⟩
  | cons a l ih =>
    obtain ⟨hout, hin⟩ := s.fenceCluster_leaves r a n
    have hcl (c : Nat) : (s.fenceCluster r a).cluster c = s.cluster c :=
      State.cluster_congr (State.fenceCluster_of (fd := .clusters) s r a (by decide)) c
    have hf (c lc : Nat) : (s.fenceCluster r a).fenceOf r c lc = s.fenceOf r c lc := State.fenceOf_congr (fun c => by rw [hcl]) r c lc
    rw [State.each]
    generalize s.fenceCluster r a = u at hout hin hcl hf ⊢
    obtain ⟨hro, hri⟩ := ih u
    refine ⟨fun h => (hro (List.not_mem_of_not_mem_cons h)).trans (hout (List.ne_of_not_mem_cons h)), fun h => ?_⟩
    by_cases hr : n / 272 ∈ l
    · refine (hri hr).trans ?_
      rw [hcl, show u.fenceOf r (n / 272) = s.fenceOf r (n / 272) from funext (hf _)]
    · have ha : n / 272 = a := (List.mem_cons.1 h).resolve_right hr
      rw [hro hr, hin ha, ha]

/-! ## A partition is built (R207) -/

theorem Cluster.enter_keeps_assignment (k : Cluster) (aim : CState) :
    (k.enter aim).assigned = k.assigned ∧ (k.enter aim).partition = k.partition := by
  unfold Cluster.enter
  extract_lets k'
  have hk : k'.assigned = k.assigned ∧ k'.partition = k.partition := by
    dsimp only [k']
    split <;> exact ⟨rfl, rfl⟩
  split
  · exact hk
  · exact hk
  · split
    · exact hk
    · exact hk

theorem Cluster.logical_of_omit {k k' : Cluster} (h : k'.omitXor = k.omitXor) (i : Nat) : k'.logical i = k.logical i := by
  unfold Cluster.logical Cluster.omitCol
  rw [h]

/-- A partition's build: its record's clusters assigned, fenced and on their way to C3, its indices, its windows. -/
theorem State.build_leaves (s : State) (part : Part) :
    let p := part.val
    let q := s.part p
    let t := s.build p
    (∀ fd : Fld, fd ∉ [Fld.cores, .clusters, .windows, .rules, .parts, .links] → fd.of t = fd.of s) ∧ OnePart s t p ∧ Within s t p ∧
      t.part p = { q with life := .live, ruleIdx := (t.part p).ruleIdx, ctxIdx := (t.part p).ctxIdx } ∧
      (∀ c ∈ q.cfg.clusters, (t.cluster c).assigned = true ∧ (t.cluster c).partition = part ∧ (t.cluster c).goesDown .c3) ∧
      (∀ n, n / 272 ∈ q.cfg.clusters → (t.coreAt n).fence = (s.cluster (n / 272)).fences (s.fenceOf q.cfg (n / 272)) (n % 272)) ∧
      ∀ h f, f < 16 → t.window h f = if p ≠ 0 ∧ f = p ∧ h < 4 ∧ q.cfg.onDie p h = true
        then { fwReady := true, majorXor := s.firmware.gmpMajor ^^^ 1#8 } else s.window h f := by
  intro p q t
  have hp : Fin.ofNat 16 p = part := Fin.ofNat_val_eq_self part
  have hframe (fd : Fld) (hf : fd ∉ [Fld.cores, .clusters, .windows, .rules, .parts, .links]) : fd.of t = fd.of s := State.build_of s p hf
  have ht : t = s.build p := rfl
  clear_value t
  unfold State.build at ht
  extract_lets r a b d e f at ht
  have haf (fd : Fld) (hf : fd ∉ [Fld.clusters]) : fd.of a = fd.of s := Fld.of_each _ fun t c => State.modCluster_of t c _ hf
  have hac (c : Nat) : a.cluster c = if c ∈ r.clusters then { s.cluster c with assigned := true, partition := Fin.ofNat 16 p } else s.cluster c :=
    s.cluster_eachOnce (g := fun k => { k with assigned := true, partition := Fin.ofNat 16 p }) (fun _ => rfl) r.clusters c
  have hbf (fd : Fld) (hf : fd ∉ [Fld.cores]) : fd.of b = fd.of a := Fld.of_each _ fun t c => State.fenceCluster_of t r c hf
  have hbn (n : Nat) := a.fenceEach_leaves r r.clusters n
  change ∀ n, (n / 272 ∉ r.clusters → b.coreAt n = a.coreAt n) ∧
    (n / 272 ∈ r.clusters → (b.coreAt n).fence = (a.cluster (n / 272)).fences (a.fenceOf r (n / 272)) (n % 272)) at hbn
  have hdf (fd : Fld) (hf : fd ∉ [Fld.clusters]) : fd.of d = fd.of b := State.enterAll_of b _ _ hf
  have hdout (c : Nat) (hc : c ∉ r.clusters) : d.cluster c = b.cluster c := b.cluster_eachCluster_out _ hc
  have hdin (c : Nat) (hc : c ∈ r.clusters) : (d.cluster c).goesDown .c3 :=
    b.cluster_eachCluster (P := fun k => k.goesDown .c3) (fun k => k.enter_goesDown (by decide)) hc
  have hdas (c : Nat) : (d.cluster c).assigned = (b.cluster c).assigned :=
    b.cluster_eachCluster_keeps (x := Cluster.assigned) (fun k => (k.enter_keeps_assignment .c3).1) r.clusters c
  have hdpt (c : Nat) : (d.cluster c).partition = (b.cluster c).partition :=
    b.cluster_eachCluster_keeps (x := Cluster.partition) (fun k => (k.enter_keeps_assignment .c3).2) r.clusters c
  have hef (fd : Fld) (hf : fd ∉ [Fld.rules, .parts, .links]) : fd.of e = fd.of d := State.assign_of d p hf
  have hei : Indexed p d e := .assign
  have hff (fd : Fld) (hf : fd ∉ [Fld.parts]) : fd.of f = fd.of e := State.modPart_of e p _ hf
  have hfp : f.part p = { e.part p with life := .live } := e.part_modPart p _
  have hf1 : OnePart e f p := e.modPart_one p _
  have ht : t = if p = 0 then f else f.openWindows p ((List.range 4).filter (r.onDie p)) := ht
  have htf (fd : Fld) (hf : fd ∉ [Fld.windows]) : fd.of t = fd.of f := by
    rw [ht]
    exact (Fld.of_ite _ _).trans ((congrArg (ite _ _) (State.openWindows_of f p _ hf)).trans (ite_self _))
  have hr : r = q.cfg := rfl
  clear_value a b d e f r
  subst hr
  have hbs : Fld.of .parts d = Fld.of .parts s := (hdf .parts (by decide)).trans ((hbf .parts (by decide)).trans (haf .parts (by decide)))
  have hdp : d.part p = q := State.part_congr hbs p
  have htc (c : Nat) : t.cluster c = d.cluster c :=
    State.cluster_congr ((htf .clusters (by decide)).trans ((hff .clusters (by decide)).trans (hef .clusters (by decide)))) c
  have hbc (c : Nat) : b.cluster c = a.cluster c := State.cluster_congr (hbf .clusters (by decide)) c
  have htn (n : Nat) : t.coreAt n = b.coreAt n := State.coreAt_congr ((htf .cores (by decide)).trans ((hff .cores (by decide)).trans
    ((hef .cores (by decide)).trans (hdf .cores (by decide))))) n
  have htparts : t.parts = f.parts := htf .parts (by decide)
  refine ⟨hframe, fun k hk => ?_, ⟨fun c hc => ?_, fun n hn => ?_⟩, ?_, fun c hc => ⟨?_, ?_, ?_⟩, fun n hn => ?_, fun h g hg => ?_⟩
  · rw [htparts, hf1 k hk, hei.1 k hk, show d.parts = s.parts from hbs]
  · rw [htc, hdout c hc, hbc, hac]
    exact if_neg hc
  · rw [htn, (hbn n).1 hn, State.coreAt_congr (haf .cores (by decide))]
  · rw [State.part_congr htparts, hfp, hei.2, hdp]
  · rw [htc, hdas, hbc, hac, if_pos hc]
  · rw [htc, hdpt, hbc, hac, if_pos hc]
    exact hp
  · rw [htc]
    exact hdin c hc
  · have hret (c : Nat) : (a.cluster c).retired = (s.cluster c).retired := by
      rw [hac]
      split <;> rfl
    have hom : (a.cluster (n / 272)).omitXor = (s.cluster (n / 272)).omitXor := by
      rw [hac]
      split <;> rfl
    rw [htn, (hbn n).2 hn, Cluster.fences, Cluster.fences, Cluster.logical_of_omit hom,
      show a.fenceOf q.cfg (n / 272) = s.fenceOf q.cfg (n / 272) from funext (State.fenceOf_congr hret q.cfg (n / 272))]
  · have hfw : f.windows = s.windows := (hff .windows (by decide)).trans ((hef .windows (by decide)).trans ((hdf .windows (by decide)).trans
      ((hbf .windows (by decide)).trans (haf .windows (by decide)))))
    have hfm : f.firmware = s.firmware := (hff .firmware (by decide)).trans ((hef .firmware (by decide)).trans ((hdf .firmware (by decide)).trans
      ((hbf .firmware (by decide)).trans (haf .firmware (by decide)))))
    rw [ht]
    by_cases h0 : p = 0
    · rw [if_pos h0, if_neg fun h => h.1 h0]
      exact State.window_congr hfw h g
    · rw [if_neg h0, f.window_openWindows part.isLt _ hg, hfm, State.window_congr hfw]
      refine if_congr ?_ rfl rfl
      simp [h0, p]

/-- The windows after a final message: only that of the long command gains a message. -/
theorem Finished.window_ne {s t : State} {l : LongCmd} {st : Nat} {b : Bytes} (hf : Finished s t l st b) {h f : Nat} (hg : f < 16)
    (hne : h ≠ l.die.val ∨ f ≠ l.fn.val) : t.window h f = s.window h f := by
  refine hf.2.1 _ fun e => ?_
  have := l.fn.isLt
  omega

theorem State.partBuilt_builds {s : State} {p : Nat} {l : LongCmd} (hl : s.longOf? 0x10#8 p = some l) (hb : s.borderRun (s.part p).cfg = false) :
    s.partBuilt p = (s.build p).finish l stOk := by
  rw [State.partBuilt, hl]
  exact if_neg (by rw [hb]; decide)

theorem State.partBuilt_waits {s : State} {p : Nat} {l : LongCmd} (hl : s.longOf? 0x10#8 p = some l) (hb : s.borderRun (s.part p).cfg = true) :
    s.partBuilt p = s := by
  rw [State.partBuilt, hl]
  exact if_pos hb

/-- PART.CREATE ends: the partition exists. -/
theorem State.partBuilt_ends {s : State} {part : Part} {l : LongCmd} (hl : s.longOf? 0x10#8 part.val = some l)
    (hb : s.borderRun (s.part part.val).cfg = false) :
    let p := part.val
    let q := s.part p
    let t := s.partBuilt p
    t = { s with windows := t.windows, longs := s.longs.filter (fun x => !x.same l), parts := t.parts, clusters := t.clusters
                 cores := t.cores, rules := t.rules, links := t.links } ∧ OnePart s t p ∧ Within s t p ∧
      t.part p = { q with life := .live, ruleIdx := (t.part p).ruleIdx, ctxIdx := (t.part p).ctxIdx } ∧
      (∀ c ∈ q.cfg.clusters, (t.cluster c).assigned = true ∧ (t.cluster c).partition = part ∧ (t.cluster c).goesDown .c3 ∧
        ∀ i, i < 272 → (t.coreAt (272 * c + i)).fence =
          match (s.cluster c).logical i with | some lc => s.fenceOf q.cfg c lc | none => 0b1111#4) ∧
      (∀ h f, f < 16 → (f ≠ p ∨ p = 0 ∨ q.cfg.onDie p h = false) → (h ≠ l.die.val ∨ f ≠ l.fn.val) → t.window h f = s.window h f) ∧
      (p ≠ 0 → ∀ h, h < 4 → q.cfg.onDie p h = true → (h ≠ l.die.val ∨ p ≠ l.fn.val) →
        t.window h p = { fwReady := true, majorXor := s.firmware.gmpMajor ^^^ 1#8 }) ∧
      (l.discard = false → ∃ m ∈ (t.window l.die.val l.fn.val).outQ, m.seq = l.seq ∧ m.final = true ∧ m.status = 0#8) := by
  intro p q t
  have ht : t = (s.build p).finish l stOk := State.partBuilt_builds hl hb
  clear_value t
  obtain ⟨huf, hu1, huw, hup, hucl, hun, huwin⟩ := s.build_leaves part
  generalize hu : s.build part.val = u at huf hu1 huw hup hucl hun huwin
  rw [show s.build p = u from hu] at ht
  have htf (fd : Fld) (hf : fd ∉ [Fld.windows, .longs]) : fd.of t = fd.of u := by
    rw [ht]
    exact State.finish_of_ne stOk_ne l [] hf
  have hfin : Finished u t l stOk [] := by
    rw [ht]
    exact State.finish_finished rfl rfl stOk_ne l []
  have htc (c : Nat) : t.cluster c = u.cluster c := State.cluster_congr (htf .clusters (by decide)) c
  have htn (n : Nat) : t.coreAt n = u.coreAt n := State.coreAt_congr (htf .cores (by decide)) n
  have htp : t.parts = u.parts := htf .parts (by decide)
  have htp' : t.part p = u.part p := State.part_congr htp p
  have hlongs : t.longs = s.longs.filter fun x => !x.same l := by rw [hfin.1, show u.longs = s.longs from huf .longs (by decide)]
  refine ⟨?_, fun k hk => ?_, ⟨fun c hc => (htc c).trans (huw.1 c hc), fun n hn => (htn n).trans (huw.2 n hn)⟩, ?_, fun c hc => ?_, fun h f hf hn hne => ?_,
    fun h0 h hh hon hne => ?_, fun hd => ?_⟩
  · rw [← hlongs]
    exact State.eq_patch [.windows, .longs, .parts, .clusters, .cores, .rules, .links] fun fd hf =>
      (htf fd (Fld.not_mem hf)).trans (huf fd (Fld.not_mem hf))
  · rw [htp]
    exact hu1 k hk
  · rw [htp']
    exact hup
  · obtain ⟨h1, h2, h3⟩ := hucl c hc
    rw [htc]
    refine ⟨h1, h2, h3, fun i hi => ?_⟩
    have hd : (272 * c + i) / 272 = c := by omega
    have hm : (272 * c + i) % 272 = i := by omega
    have h := hun (272 * c + i) (by rw [hd]; exact hc)
    rw [hd, hm] at h
    rw [htn]
    exact h
  · rw [hfin.window_ne hf hne, huwin h f hf]
    refine if_neg fun ⟨h0, hfp, _, hon⟩ => ?_
    rcases hn with hn | hn | hn
    · exact hn hfp
    · exact h0 hn
    · exact absurd (hon.symm.trans hn) (by decide)
  · rw [hfin.window_ne part.isLt hne, huwin h p part.isLt]
    exact if_pos ⟨h0, rfl, hh, hon⟩
  · rw [hfin.2.2, hd]
    exact ⟨_, List.mem_append_right _ List.mem_cons_self, rfl, rfl, rfl⟩

/-! ## A partition is cleared (R216) -/

theorem State.sendViol_out (s : State) {c x : Nat} (h : x ≠ c) : (s.sendViol c).cluster x = s.cluster x := by
  unfold State.sendViol
  extract_lets k t
  have ht : t.cluster x = s.cluster x := s.cluster_modCluster_ne _ _ _ h
  split
  · rfl
  · split
    · exact ht
    · exact ht

theorem State.sendViol_none {s : State} {c : Nat} (h : (s.cluster c).violUnsent = 0) : s.sendViol c = s := if_pos h

theorem State.sendEach_out (s : State) {l : List Nat} {x : Nat} (h : x ∉ l) : (s.each l State.sendViol).cluster x = s.cluster x := by
  induction l generalizing s with
  | nil => rfl
  | cons a r ih => exact (ih _ (List.not_mem_of_not_mem_cons h)).trans (s.sendViol_out (List.ne_of_not_mem_cons h))

theorem State.sendEach_none {s : State} {l : List Nat} (h : ∀ c ∈ l, (s.cluster c).violUnsent = 0) : s.each l State.sendViol = s := by
  induction l with
  | nil => rfl
  | cons a r ih =>
    rw [State.each, State.sendViol_none (h a List.mem_cons_self)]
    exact ih fun c hc => h c (List.mem_cons_of_mem _ hc)

theorem State.hbm_clearGranules (s : State) (l : List Nat) (a : Nat) :
    mread (s.each l fun t g => { t with hbm := mclear (granuleBase g) (granuleBase (g + 1)) t.hbm }).hbm a =
      if granuleOf a ∈ l then 0#8 else mread s.hbm a := by
  induction l generalizing s with
  | nil => rfl
  | cons g r ih =>
    refine (ih _).trans ?_
    by_cases hg : granuleOf a = g
    · have hin : mread (mclear (granuleBase g) (granuleBase (g + 1)) s.hbm) a = 0#8 := by
        refine mread_mclear_in _ _ _ _ ?_
        unfold granuleOf at hg
        unfold granuleBase
        omega
      rw [if_pos (List.mem_cons.2 (.inl hg))]
      exact (congrArg (ite _ _) hin).trans (ite_self _)
    · have hout : mread (mclear (granuleBase g) (granuleBase (g + 1)) s.hbm) a = mread s.hbm a := by
        refine mread_mclear_out _ _ _ _ ?_
        unfold granuleOf at hg
        unfold granuleBase
        omega
      refine (congrArg (ite _ _) hout).trans (if_congr ?_ rfl rfl)
      simp [hg]

/-- What a clearing leaves of the partition's clusters, cores and memory. -/
theorem State.destroyEnd_leaves {s : State} (hc : s.canonical = true) (p : Nat) (x : Leave) :
    let t := s.destroyEnd p x
    (∀ fd : Fld, fd ∉ [Fld.cores, .clusters, .hbm, .violCounts, .parts, .leases] → fd.of t = fd.of s) ∧ OnePart s t p ∧
      t.part p = { s.part p with leaving := (s.part p).leaving.drop 1 } ∧
      (∀ a, mread t.hbm a = if granuleOf a ∈ x.cfg.granules then 0#8 else mread s.hbm a) ∧
      (∀ c ∈ x.cfg.clusters, (t.cluster c).assigned = false ∧ (t.cluster c).goesDown .c3) ∧
      (∀ c, c ∉ x.cfg.clusters → t.cluster c = s.cluster c) ∧
      (∀ n, n / 272 ∈ x.cfg.clusters → (t.coreAt n).fence = 0b1111#4) ∧
      (∀ n, n / 272 ∉ x.cfg.clusters → t.coreAt n = s.coreAt n) ∧
      ((∀ c ∈ x.cfg.clusters, (s.cluster c).violUnsent = 0) → t.violCounts = s.violCounts) := by
  intro t
  have hframe (fd : Fld) (hf : fd ∉ [Fld.cores, .clusters, .hbm, .violCounts, .parts, .leases]) : fd.of t = fd.of s := State.destroyEnd_of s p x hf
  have ht : t = s.destroyEnd p x := rfl
  clear_value t
  unfold State.destroyEnd at ht
  extract_lets cls b d e f g at ht
  let a := s.each cls State.sendViol
  have haf (fd : Fld) (hf : fd ∉ [Fld.clusters, .violCounts]) : fd.of a = fd.of s := Fld.of_each _ fun t c => State.sendViol_of t c hf
  have haout (c : Nat) (h : c ∉ cls) : a.cluster c = s.cluster c := s.sendEach_out h
  have hanone (h : ∀ c ∈ cls, (s.cluster c).violUnsent = 0) : a = s := State.sendEach_none h
  have hbf (fd : Fld) (hf : fd ∉ [Fld.clusters]) : fd.of b = fd.of a := State.enterAll_of a _ _ hf
  have hbout (c : Nat) (h : c ∉ cls) : b.cluster c = a.cluster c := a.cluster_eachCluster_out _ h
  have hbin (c : Nat) (h : c ∈ cls) : (b.cluster c).goesDown .c3 :=
    a.cluster_eachCluster (P := fun k => k.goesDown .c3) (fun k => k.enter_goesDown (by decide)) h
  have hbsw : swf {} b.cores = true := by
    rw [show b.cores = s.cores from (hbf .cores (by decide)).trans (haf .cores (by decide))]
    exact ((canonical_iff s).1 hc).2.2.2.1
  have hdn (n : Nat) : d.coreAt n = if n / 272 ∈ cls then { b.coreAt n with fence := 0b1111#4 } else b.coreAt n :=
    State.coreAt_eachListed (f := fun k => { k with fence := 0b1111#4 }) hbsw rfl (fun _ => rfl) cls n
  have hdf (fd : Fld) (hf : fd ∉ [Fld.cores]) : fd.of d = fd.of b := Fld.of_each _ fun t c => State.sealCluster_of t c hf
  have hec (c : Nat) : e.cluster c = if c ∈ cls then { d.cluster c with assigned := false, partition := 0, scanning := false } else d.cluster c :=
    d.cluster_eachOnce (g := fun k => { k with assigned := false, partition := 0, scanning := false }) (fun _ => rfl) cls c
  have hef (fd : Fld) (hf : fd ∉ [Fld.clusters]) : fd.of e = fd.of d := Fld.of_each _ fun t c => State.modCluster_of t c _ hf
  have hfm (n : Nat) : mread f.hbm n = if granuleOf n ∈ x.cfg.granules then 0#8 else mread e.hbm n := e.hbm_clearGranules _ n
  have hff (fd : Fld) (hf : fd ∉ [Fld.hbm]) : fd.of f = fd.of e := Fld.of_each _ fun t c => Fld.of_upd (L := [.hbm]) rfl hf
  have hgf (fd : Fld) (hf : fd ∉ [Fld.leases]) : fd.of g = fd.of f := State.releasePart_of f p _ hf
  clear_value a b d e f g
  have htf (fd : Fld) (hf : fd ∉ [Fld.parts]) : fd.of t = fd.of g := by
    rw [ht]
    exact State.modPart_of g p _ hf
  have hgp : g.parts = s.parts := (hgf .parts (by decide)).trans ((hff .parts (by decide)).trans ((hef .parts (by decide)).trans
    ((hdf .parts (by decide)).trans ((hbf .parts (by decide)).trans (haf .parts (by decide))))))
  have hbm0 : e.hbm = s.hbm := (hef .hbm (by decide)).trans ((hdf .hbm (by decide)).trans ((hbf .hbm (by decide)).trans (haf .hbm (by decide))))
  have htm : t.hbm = f.hbm := (htf .hbm (by decide)).trans (hgf .hbm (by decide))
  have htc (c : Nat) : t.cluster c = e.cluster c := State.cluster_congr ((htf .clusters (by decide)).trans ((hgf .clusters (by decide)).trans
    (hff .clusters (by decide)))) c
  have hdc (c : Nat) : d.cluster c = b.cluster c := State.cluster_congr (hdf .clusters (by decide)) c
  have htn (n : Nat) : t.coreAt n = d.coreAt n := State.coreAt_congr ((htf .cores (by decide)).trans ((hgf .cores (by decide)).trans
    ((hff .cores (by decide)).trans (hef .cores (by decide))))) n
  have hbn (n : Nat) : b.coreAt n = s.coreAt n := State.coreAt_congr ((hbf .cores (by decide)).trans (haf .cores (by decide))) n
  have htv : t.violCounts = a.violCounts := (htf .violCounts (by decide)).trans ((hgf .violCounts (by decide)).trans ((hff .violCounts (by decide)).trans
    ((hef .violCounts (by decide)).trans ((hdf .violCounts (by decide)).trans (hbf .violCounts (by decide))))))
  refine ⟨hframe, fun k hk => ?_, ?_, fun n => ?_, fun c hc => ?_, fun c hc => ?_, fun n hn => ?_, fun n hn => ?_, fun h => ?_⟩
  · rw [ht, g.modPart_one p _ k hk, hgp]
  · rw [ht, State.part_modPart, State.part_congr hgp]
  · rw [htm, hfm, hbm0]
  · rw [htc, hec, hdc]
    have hif : (if c ∈ cls then ({ b.cluster c with assigned := false, partition := 0, scanning := false } : Cluster) else b.cluster c) =
      { b.cluster c with assigned := false, partition := 0, scanning := false } := if_pos hc
    rw [hif]
    exact ⟨rfl, hbin c hc⟩
  · rw [htc, hec, hdc]
    exact (if_neg hc).trans ((hbout c hc).trans (haout c hc))
  · have h := congrArg Core.fence ((hdn n).trans (if_pos hn))
    rw [htn]
    exact h
  · rw [htn]
    exact ((hdn n).trans (if_neg hn)).trans (hbn n)
  · rw [htv, hanone h]

theorem State.partDestroyed_waits {s : State} {p : Nat} {x : Leave} {r : List Leave} (hq : (s.part p).leaving = x :: r)
    (hb : s.borderRun x.cfg = true) : s.partDestroyed p = s := by
  rw [State.partDestroyed, hq]
  exact if_pos hb

/-- A clearing ends as it does, and with it the oldest PART.DESTROY that is still open, unless that has been aborted. -/
theorem State.partDestroyed_or {s : State} {p : Nat} {x : Leave} {r : List Leave} (hq : (s.part p).leaving = x :: r)
    (hb : s.borderRun x.cfg = false) :
    (∃ l, s.longOf? 0x11#8 p = some l ∧ (s.longs.filter fun y => y.code == 0x11#8 && y.part.val == p).length = r.length + 1 ∧
        s.partDestroyed p = (s.destroyEnd p x).finish l stOk) ∨
      ((∀ l, s.longOf? 0x11#8 p = some l → (s.longs.filter fun y => y.code == 0x11#8 && y.part.val == p).length ≠ r.length + 1) ∧
        s.partDestroyed p = s.destroyEnd p x) := by
  have hb' : ¬ (s.borderRun x.cfg = true) := by rw [hb]; decide
  rw [State.partDestroyed, hq]
  dsimp only
  rw [if_neg hb']
  cases hl : s.longOf? 0x11#8 p with
  | none => exact .inr ⟨fun l h => absurd h (by simp), rfl⟩
  | some l =>
    by_cases hn : (s.longs.filter fun y => y.code == 0x11#8 && y.part.val == p).length = r.length + 1
    · exact .inl ⟨l, rfl, hn, if_pos hn⟩
    · exact .inr ⟨fun _ _ => hn, if_neg hn⟩

/-- Settles O19. -/
theorem partitionLife : Obligations.PartitionLife := by
  unfold Obligations.PartitionLife
  intro part l s hc p q
  refine ⟨fun hl hb => ⟨_, rfl, State.partBuilt_ends hl hb⟩, fun hl hb => congrArg Host.Outcome.next (State.partBuilt_waits hl hb),
    fun x r hq hb => ?_, fun x r hq hb => congrArg Host.Outcome.next (State.partDestroyed_waits hq hb)⟩
  obtain ⟨hf, h1, hp, hm, hin, hout, hfe, hco, hv⟩ := State.destroyEnd_leaves hc p x
  have hor := State.partDestroyed_or hq hb
  refine ⟨_, rfl, ?_⟩
  generalize s.partDestroyed part.val = t at hor ⊢
  have hor : (∃ l, s.longOf? 0x11#8 p = some l ∧ (s.longs.filter fun y => y.code == 0x11#8 && y.part.val == p).length = r.length + 1 ∧
        t = (s.destroyEnd p x).finish l stOk) ∨
      ((∀ l, s.longOf? 0x11#8 p = some l → (s.longs.filter fun y => y.code == 0x11#8 && y.part.val == p).length ≠ r.length + 1) ∧
        t = s.destroyEnd p x) := hor
  generalize s.destroyEnd p x = u at hf h1 hp hm hin hout hfe hco hv hor
  have htf (fd : Fld) (hfd : fd ∉ [Fld.windows, .longs]) : fd.of t = fd.of u := by
    rcases hor with ⟨l', -, -, rfl⟩ | ⟨-, rfl⟩
    · exact State.finish_of_ne stOk_ne l' [] hfd
    · rfl
  have htp : t.parts = u.parts := htf .parts (by decide)
  have htm : t.hbm = u.hbm := htf .hbm (by decide)
  have htc (c : Nat) : t.cluster c = u.cluster c := State.cluster_congr (htf .clusters (by decide)) c
  have htn (n : Nat) : t.coreAt n = u.coreAt n := State.coreAt_congr (htf .cores (by decide)) n
  have hpart : t.part p = { q with leaving := r } := by
    rw [State.part_congr htp, hp, show (s.part p).leaving.drop 1 = r by rw [hq]; rfl]
  refine ⟨State.eq_patch [.windows, .longs, .parts, .clusters, .cores, .hbm, .leases, .violCounts] fun fd h =>
      (htf fd (Fld.not_mem h)).trans (hf fd (Fld.not_mem h)), fun k hk => ?_, hpart, fun a ha => ?_, fun a ha => ?_, fun c hc => ?_,
    fun c hc => ?_, fun n hn => ?_, fun n hn => ?_, fun h => ?_, fun hl hn => ?_, fun hl => ?_⟩
  · rw [htp]
    exact h1 k hk
  · rw [htm, hm, if_pos ha]
  · rw [htm, hm, if_neg ha]
  · rw [htc]
    exact hin c hc
  · rw [htc]
    exact hout c hc
  · rw [htn]
    exact hfe n hn
  · rw [htn]
    exact hco n hn
  · exact (htf .violCounts (by decide)).trans (hv h)
  · rcases hor with ⟨l', hl', -, rfl⟩ | ⟨hno, -⟩
    · obtain rfl : l = l' := Option.some.inj (hl.symm.trans hl')
      exact State.finish_finished (hf .windows (by decide)) (hf .longs (by decide)) stOk_ne l []
    · exact absurd hn (hno l hl)
  · rcases hor with ⟨l', hl', -, -⟩ | ⟨-, rfl⟩
    · rw [hl] at hl'
      cases hl'
    · exact ⟨hf .windows (by decide), hf .longs (by decide)⟩

end Sys2Proof.Machine
end

section
/-!
The ends of FW.UPDATE, FW.ACTIVATE and DUMP (R293, R419, R420).
-/

namespace Sys2Proof.Machine

open Sys2Proof

/-! ## Messages beside a final one -/

/-- An event that a window has been told stays told when it is told another. -/
theorem Window.told.event {w : Window} {cause : Nat} (h : w.told cause) {record : Nat → Bytes} {causes : Nat}
    (hr : ∀ c, field (record c) 0x1C 2 = c % 256 ^ 2) (hc : causes < 65536) : (w.event record causes).told cause := by
  obtain ⟨x, hx, he, ha⟩ := h
  have hlt : x.causes ||| causes < 2 ^ 16 := Nat.or_lt_two_pow (field_lt ..) hc
  unfold Window.event
  extract_lets mk
  rw [if_pos (List.any_eq_true.2 ⟨x, hx, he⟩)]
  refine ⟨mk (x.causes ||| causes), List.mem_map.2 ⟨x, hx, if_pos he⟩, rfl, ?_⟩
  have hm : (mk (x.causes ||| causes)).causes = x.causes ||| causes := (hr _).trans (Nat.mod_eq_of_lt hlt)
  rw [hm]
  refine Nat.eq_of_testBit_eq fun i => ?_
  have hi := congrArg (Nat.testBit · i) ha
  simp only [Nat.testBit_and, Nat.testBit_or] at hi ⊢
  cases hx' : x.causes.testBit i <;> simp_all

theorem Window.told.append {w : Window} {cause : Nat} (h : w.told cause) (m : Msg) : ({ w with outQ := w.outQ ++ [m] } : Window).told cause :=
  let ⟨x, hx, he⟩ := h
  ⟨x, List.mem_append_left _ hx, he⟩

theorem Tells.modWindow {s t : State} {cause : Nat} (h : Tells s t cause) (d e : Nat) {g : Window → Window}
    (hg : ∀ w : Window, w.told cause → (g w).told cause) : Tells s (t.modWindow d e g) cause := by
  intro d' f hd hf ho
  by_cases hk : 16 * d' + f = 16 * d + e
  · have hw : (t.modWindow d e g).window d' f = g (t.window d' f) := by
      unfold State.window
      rw [hk]
      exact t.window_modWindow d e g
    rw [hw]
    exact hg _ (h d' f hd hf ho)
  · rw [State.window_modWindow_ne _ _ _ _ _ _ hk]
    exact h d' f hd hf ho

theorem Tells.of_windows {s t u : State} {cause : Nat} (h : Tells s t cause) (hw : u.windows = t.windows) : Tells s u cause := by
  intro d f hd hf ho
  rw [State.window_congr hw]
  exact h d f hd hf ho

theorem Tells.faulted {s t : State} {cause : Nat} (h : Tells s t cause) (p : Nat) : Tells s (t.faulted p) cause :=
  State.each_induct (P := fun u => Tells s u cause) (h.of_windows rfl) fun u hu hf _ =>
    hu.modWindow hf.1 hf.2 fun _ hw => hw.event (u.field_engineRecord hf.2) (by decide)

/-- What every open window has been told stays told beside a final message. -/
theorem Tells.finish {s t : State} {cause : Nat} (h : Tells s t cause) (l : LongCmd) (st : Nat) (b : Bytes) :
    Tells s (t.finish l st b) cause := by
  unfold State.finish
  extract_lets u v
  have hu : Tells s u cause := h.of_windows rfl
  have hv : Tells s v cause := by
    dsimp only [v]
    split
    · exact hu.faulted _
    · exact hu
  split
  · exact hv
  · exact hv.modWindow _ _ fun w hw => hw.append _

/-- The final message of a command whose messages are not discarded. -/
theorem State.finish_message (s : State) {l : LongCmd} (h : l.discard = false) (st : Nat) (b : Bytes) :
    ∃ m ∈ ((s.finish l st b).window l.die.val l.fn.val).outQ, m.seq = l.seq ∧ m.final = true ∧ m.status = BitVec.ofNat 8 st := by
  unfold State.finish
  extract_lets u v
  rw [if_neg (by rw [h]; decide), State.reply, State.post, State.window_modWindow]
  exact ⟨_, List.mem_append_right _ List.mem_cons_self, rfl, rfl, rfl⟩

theorem State.faulted_opFaulted (s : State) (p : Nat) : (s.faulted p).opFaulted = s.opFaulted ||| BitVec.ofNat 16 (2 ^ p) :=
  Fld.of_each (f := .opFaulted) _ fun _ _ => State.eventTo_of _ _ _ (by decide)

theorem State.finish_opFaulted (s : State) (l : LongCmd) (b : Bytes) :
    (s.finish l stFaulted b).opFaulted = s.opFaulted ||| BitVec.ofNat 16 (2 ^ l.sender.val) := by
  unfold State.finish
  extract_lets u v
  have hv : v.opFaulted = s.opFaulted ||| BitVec.ofNat 16 (2 ^ l.sender.val) := State.faulted_opFaulted u l.sender.val
  split
  · exact hv
  · exact (State.reply_of (fd := .opFaulted) v _ _ _ _ _ _ _ (by decide)).trans hv

/-! ## FW.UPDATE (R419) -/

/-- The state as the ends of FW.UPDATE leave it but for what its final message changes. -/
def State.stored (s : State) (n : Fin 2) (i : FwImage) (okA okB : Bool) : State :=
  { s with flashA := s.flashA.store n i okA, flashB := s.flashB.store n i okB, fwJob := none }

theorem State.updateDone_eq {s : State} {n : Fin 2} {i : FwImage} {l : LongCmd} (okA okB : Bool) (hj : s.fwJob = some (.write n i))
    (hl : s.longCode? 0x90#8 = some l) : s.updateDone okA okB =
      if okA && okB then (s.stored n i okA okB).finish l stOk (toLe 1 n.val) else (s.stored n i okA okB).finish l stFaulted := by
  unfold State.updateDone
  rw [hj, hl]
  rfl

theorem State.stored_of {fd : Fld} (s : State) (n : Fin 2) (i : FwImage) (okA okB : Bool) (h : fd ∉ [Fld.flashA, .flashB, .fwJob]) :
    fd.of (s.stored n i okA okB) = fd.of s := Fld.of_upd (L := [.flashA, .flashB, .fwJob]) rfl h

/-! ## FW.ACTIVATE (R418, R420) -/

/-- Bits that read back are blown one after the other (R418). -/
theorem State.blow_blown (s : State) (lo n : Nat) {k : Nat} (hlo : lo ≤ k) (hn : k < lo + n) (hk : k < 64) :
    (s.blow lo n true).fuses.rollback.getLsbD k = true := by
  induction n generalizing s lo with
  | zero => omega
  | succ n ih =>
    rw [State.blow]
    by_cases he : k = lo
    · refine (State.blow_grows _ _ _ _).rollback k ?_
      subst he
      rw [Bool.true_or, if_pos rfl]
      refine (BitVec.getLsbD_or (i := k)).trans ?_
      rw [BitVec.getLsbD_ofNat, Nat.testBit_two_pow_self, decide_eq_true hk, Bool.true_and, Bool.or_true]
    · exact ih _ _ (by omega) (by omega)

theorem State.commitFuses_rollback (s : State) (i : FwImage) {k : Nat} (hk : k < 64) (hlo : s.fuses.count ≤ k) (hhi : k < i.rollback) :
    (s.commitFuses i true).fuses.rollback.getLsbD k = true := by
  have hb : (s.blow s.fuses.count (i.rollback - s.fuses.count) true).fuses.rollback.getLsbD k = true :=
    s.blow_blown _ _ hlo (by omega) hk
  unfold State.commitFuses
  dsimp only
  split <;> exact hb

theorem State.commitFuses_revoke (s : State) {i : FwImage} (h : i.revoke = true) :
    (s.commitFuses i true).fuses.keyRevoke.getLsbD (if i.key = 0 then 1 else 0) = true := by
  unfold State.commitFuses
  dsimp only
  rw [if_pos (by simp [h])]
  split <;> simp

/-- The state that an activation leaves before every window is told. -/
def State.activated (s : State) (n : Fin 2) (commit ok : Bool) (i : FwImage) : State :=
  let s : State := { s with flashA := s.flashA.setActive n, flashB := s.flashB.setActive n }
  let s := if commit then s.commitFuses i ok else s
  { s.restartNodes with firmware := i.firmware s.firmware.candidate, fwJob := none }

theorem State.activateDone_eq {s : State} {n : Fin 2} {a b : FwImage} (commit ok : Bool) (l : LongCmd) (ha : s.validAt s.flashA n = some a)
    (hb : s.validAt s.flashB n = some b) : s.activateDone n commit ok l =
      ((s.activated n commit ok a).eventAll evFirmware).finish l (if (commit && !ok && s.fuses.blows a) = true then stFaulted else stOk) := by
  unfold State.activateDone State.validBoth
  rw [ha, hb]
  rfl

theorem State.activated_fields (s : State) (n : Fin 2) (commit ok : Bool) (i : FwImage) :
    (∀ fd : Fld, fd ∉ [Fld.flashA, .flashB, .fuses, .freeCount, .clusters, .firmware, .fwJob] → fd.of (s.activated n commit ok i) = fd.of s) ∧
      (s.activated n commit ok i).flashA = s.flashA.setActive n ∧ (s.activated n commit ok i).flashB = s.flashB.setActive n ∧
      (s.activated n commit ok i).firmware = i.firmware s.firmware.candidate ∧ (s.activated n commit ok i).fwJob = none := by
  unfold State.activated
  extract_lets a b r
  have hb (fd : Fld) (h : fd ∉ [Fld.fuses, .freeCount]) : fd.of b = fd.of a := by
    dsimp only [b]
    split
    · exact State.commitFuses_of a i ok h
    · rfl
  have hr (fd : Fld) (h : fd ∉ [Fld.clusters]) : fd.of r = fd.of b := State.restartNodes_of b h
  have hfb : b.firmware = s.firmware := hb .firmware (by decide)
  clear_value b r
  refine ⟨fun fd h => (Fld.of_upd (L := [.firmware, .fwJob]) rfl (Fld.not_mem h)).trans ((hr fd (Fld.not_mem h)).trans ((hb fd (Fld.not_mem h)).trans
    (Fld.of_upd (L := [.flashA, .flashB]) rfl (Fld.not_mem h)))), ?_, ?_, ?_, rfl⟩
  · exact (hr .flashA (by decide)).trans (hb .flashA (by decide))
  · exact (hr .flashB (by decide)).trans (hb .flashB (by decide))
  · exact congrArg (fun f : Firmware => i.firmware f.candidate) hfb

theorem State.activated_fuses (s : State) (n : Fin 2) (commit ok : Bool) (i : FwImage) : (s.activated n commit ok i).fuses =
    if commit then (State.commitFuses { s with flashA := s.flashA.setActive n, flashB := s.flashB.setActive n } i ok).fuses else s.fuses := by
  unfold State.activated
  extract_lets a b
  refine (State.restartNodes_of (fd := .fuses) b (by decide)).trans ?_
  dsimp only [b]
  split <;> rfl

/-- The fuses of an activation grow with its commit alone, up to the image's index where the bits read back (R418, R420). -/
theorem State.activated_grows (s : State) (n : Fin 2) (commit ok : Bool) (i : FwImage) :
    s.fuses.Grows (s.activated n commit ok i).fuses ∧ (commit = false → (s.activated n commit ok i).fuses = s.fuses) ∧
      (commit = true → ok = true →
        (∀ k, k < 64 → s.fuses.count ≤ k → k < i.rollback → (s.activated n commit ok i).fuses.rollback.getLsbD k = true) ∧
        (i.revoke = true → (s.activated n commit ok i).fuses.keyRevoke.getLsbD (if i.key = 0 then 1 else 0) = true)) := by
  rw [s.activated_fuses n commit ok i]
  cases commit with
  | false => exact ⟨.refl _, fun _ => rfl, fun h => absurd h (by decide)⟩
  | true =>
    refine ⟨State.commitFuses_grows { s with flashA := s.flashA.setActive n, flashB := s.flashB.setActive n } i ok, fun h => absurd h (by decide),
      fun _ hok => ?_⟩
    rw [hok]
    exact ⟨fun k hk hlo hhi => State.commitFuses_rollback { s with flashA := s.flashA.setActive n, flashB := s.flashB.setActive n } i hk hlo hhi,
      fun hr => State.commitFuses_revoke { s with flashA := s.flashA.setActive n, flashB := s.flashB.setActive n } hr⟩

/-! ## DUMP (R293, R294) -/

theorem State.tryExit_asleep {s : State} (h : s.aonWake = 0#4) : s.tryExit = s := by
  unfold State.tryExit
  exact if_neg (by rw [h]; simp)

/-- The double-bit errors of a dump are recorded. -/
theorem State.hbmDoubles_logged (s : State) {l : List Nat} (h : l ≠ []) (k : Nat) :
    ∃ r ∈ (s.each l fun t a => t.hbmDouble none a k).faults, r.code = 0x0104#16 := by
  induction l generalizing s with
  | nil => exact absurd rfl h
  | cons a r ih =>
    by_cases hr : r = []
    · subst hr
      exact s.log_mem 0x0104 ..
    · exact ih _ hr

/-- The state that a dump leaves before its final message. -/
def State.dumped (s : State) (j : DumpJob) (bad singles : List Nat) : State :=
  let s := ((s.dumpWrite j bad).hbmSingles j.granules singles).each bad fun t a => t.hbmDouble none a 4
  { s with dump := none, rails := { s.rails with hbmSelfRefresh := true } }

theorem State.dumpEnd_eq {s : State} {j : DumpJob} {l : LongCmd} {double singles bad : List Nat} (hj : s.dump = some j)
    (hbad : bad = ((double.map fun x => x / 64 * 64).filter fun x => j.granules.contains (granuleOf x)).eraseDups)
    (hl : (s.dumped j bad singles).long? j.die.val j.fn.val j.seq = some l) : s.dumpEnd double singles =
      ((s.dumped j bad singles).finish l stOk
        (toLe 4 j.granules.length ++ toLe 4 bad.length ++ leBytes 8 (s.dumped j bad singles).et)).tryExit := by
  subst hbad
  unfold State.dumpEnd
  rw [hj]
  unfold State.dumped at hl ⊢
  dsimp only at hl ⊢
  rw [hl]

theorem State.dumped_fields (s : State) (j : DumpJob) (bad singles : List Nat) :
    (∀ fd : Fld, fd ∉ [Fld.dump, .rails, .hostMem, .hbmStacks, .faults, .faultSeq, .faultsLost] → fd.of (s.dumped j bad singles) = fd.of s) ∧
      (s.dumped j bad singles).dump = none ∧ (s.dumped j bad singles).rails = { s.rails with hbmSelfRefresh := true } ∧
      (s.dumped j bad singles).hostMem = (s.dumpWrite j bad).hostMem ∧
      (bad ≠ [] → ∃ r ∈ (s.dumped j bad singles).faults, r.code = 0x0104#16) := by
  have ha (fd : Fld) (h : fd ∉ [Fld.hostMem]) : fd.of (s.dumpWrite j bad) = fd.of s := State.dumpWrite_of s j bad h
  unfold State.dumped
  generalize s.dumpWrite j bad = a at ha
  have hb (fd : Fld) (h : fd ∉ [Fld.hbmStacks, .faults, .faultSeq, .faultsLost]) : fd.of (a.hbmSingles j.granules singles) = fd.of a :=
    State.hbmSingles_of a _ _ h
  generalize a.hbmSingles j.granules singles = b at hb
  have hc (fd : Fld) (h : fd ∉ [Fld.faults, .faultSeq, .faultsLost]) : fd.of (b.each bad fun t x => t.hbmDouble none x 4) = fd.of b :=
    Fld.of_each _ fun _ _ => State.hbmDouble_of _ _ _ _ h
  have hlog := fun h => b.hbmDoubles_logged (l := bad) h 4
  generalize (b.each bad fun t x => t.hbmDouble none x 4) = c at hc hlog
  dsimp only
  refine ⟨fun fd h => (Fld.of_upd (L := [.dump, .rails]) rfl (Fld.not_mem h)).trans ((hc fd (Fld.not_mem h)).trans
    ((hb fd (Fld.not_mem h)).trans (ha fd (Fld.not_mem h)))), rfl, ?_, ?_, hlog⟩
  · exact congrArg (fun r : Rails => { r with hbmSelfRefresh := true })
      ((hc .rails (by decide)).trans ((hb .rails (by decide)).trans (ha .rails (by decide))))
  · exact (hc .hostMem (by decide)).trans (hb .hostMem (by decide))

/-! ## The obligation -/

/-- A final FAULTED changes the windows, the long commands and the faulted partitions alone. -/
theorem State.finish_patch (s : State) (l : LongCmd) (st : Nat) (b : Bytes) :
    s.finish l st b = { s with windows := (s.finish l st b).windows, longs := (s.finish l st b).longs, opFaulted := (s.finish l st b).opFaulted } :=
  State.eq_patch [.windows, .longs, .opFaulted] fun _ h => State.finish_of s l st b (Fld.not_mem h)

/-- What FW.UPDATE leaves, whatever status ends it. -/
theorem State.stored_finish (s : State) (n : Fin 2) (i : FwImage) (okA okB : Bool) (l : LongCmd) (st : Nat) (b : Bytes) :
    let t := (s.stored n i okA okB).finish l st b
    t = { s with flashA := s.flashA.store n i okA, flashB := s.flashB.store n i okB, fwJob := none, windows := t.windows, longs := t.longs
                 opFaulted := t.opFaulted } ∧ Queued s t :=
  ⟨(s.stored n i okA okB).finish_patch l st b,
    (Queued.of_windows (s.stored_of n i okA okB (fd := .windows) (by decide))).trans ((s.stored n i okA okB).finish_queued l st b)⟩

theorem exec_fwUpdateWriteDone {s : State} {n : Fin 2} {i : FwImage} {l : LongCmd} (okA okB : Bool) (hs : s.supply = .up)
    (hj : s.fwJob = some (.write n i)) (hl : s.longCode? 0x90#8 = some l) : exec (.fwUpdateWriteDone okA okB) s =
      .next (if okA && okB then (s.stored n i okA okB).finish l stOk (toLe 1 n.val) else (s.stored n i okA okB).finish l stFaulted) := by
  rw [← State.updateDone_eq okA okB hj hl]
  exact congrArg Host.Outcome.next (if_pos (by rw [hs]; decide))

/-- FW.UPDATE ends with its slot written and OK only where both devices read back (R419). -/
theorem fwUpdate_ends {s : State} {n : Fin 2} {i : FwImage} {l : LongCmd} (okA okB : Bool) (hs : s.supply = .up)
    (hj : s.fwJob = some (.write n i)) (hl : s.longCode? 0x90#8 = some l) : ∃ t, exec (.fwUpdateWriteDone okA okB) s = .next t ∧
      t = { s with flashA := s.flashA.store n i okA, flashB := s.flashB.store n i okB, fwJob := none, windows := t.windows
                   longs := t.longs, opFaulted := t.opFaulted } ∧ Queued s t ∧
      ((okA && okB) = true → Finished s t l stOk (toLe 1 n.val) ∧ t.opFaulted = s.opFaulted) ∧
      ((okA && okB) = false → t.longs = s.longs.filter (fun x => !x.same l) ∧
        t.opFaulted = s.opFaulted ||| BitVec.ofNat 16 (2 ^ l.sender.val) ∧
        (l.discard = false → ∃ m ∈ (t.window l.die.val l.fn.val).outQ, m.seq = l.seq ∧ m.final = true ∧ m.status = 0x20#8)) := by
  refine ⟨_, exec_fwUpdateWriteDone okA okB hs hj hl, ?_⟩
  by_cases hok : (okA && okB) = true
  · rw [if_pos hok]
    obtain ⟨heq, hq⟩ := s.stored_finish n i okA okB l stOk (toLe 1 n.val)
    exact ⟨heq, hq, fun _ => ⟨State.finish_finished rfl rfl stOk_ne l _,
      State.finish_of_ne (fd := .opFaulted) (s := s.stored n i okA okB) stOk_ne l _ (by decide)⟩, fun h => absurd (hok.symm.trans h) (by decide)⟩
  · rw [if_neg hok]
    obtain ⟨heq, hq⟩ := s.stored_finish n i okA okB l stFaulted []
    exact ⟨heq, hq, fun h => absurd h hok, fun _ => ⟨State.finish_longs .., State.finish_opFaulted .., fun hd => State.finish_message _ hd _ _⟩⟩

/-- FW.ACTIVATE makes the slot active and runs its image, and blows fuses only with its commit (R420). -/
theorem fwActivate_ends {s : State} {n : Fin 2} {a b : FwImage} {l : LongCmd} (commit ok : Bool) (hj : s.fwJob = some (.activate n commit))
    (hl : s.longCode? 0x91#8 = some l) (hs : s.supply = .up) (he : s.estate = .e0) (hd : s.drained = true)
    (ha : s.validAt s.flashA n = some a) (hb : s.validAt s.flashB n = some b) :
    let short := commit && !ok && s.fuses.blows a
    ∃ t, exec (.fwActivateRestart ok) s = .next t ∧
      t = { s with flashA := s.flashA.setActive n, flashB := s.flashB.setActive n, fuses := t.fuses, firmware := a.firmware s.firmware.candidate
                   fwJob := none, clusters := t.clusters, windows := t.windows, longs := s.longs.filter (fun x => !x.same l)
                   opFaulted := t.opFaulted, freeCount := t.freeCount } ∧
      t.fuses = (s.activated n commit ok a).fuses ∧ Queued s t ∧ Tells s t evFirmware ∧
      (l.discard = false → ∃ m ∈ (t.window l.die.val l.fn.val).outQ, m.seq = l.seq ∧ m.final = true ∧
        m.status = if short then 0x20#8 else 0#8) := by
  intro short
  have hst : BitVec.ofNat 8 (if short = true then stFaulted else stOk) = if short = true then 0x20#8 else 0#8 := by
    cases short <;> rfl
  have hexec : exec (.fwActivateRestart ok) s =
      .next (((s.activated n commit ok a).eventAll evFirmware).finish l (if short = true then stFaulted else stOk)) := by
    rw [← State.activateDone_eq commit ok l ha hb]
    simp only [exec, execFwActivateRestart, hj, hl, hd, State.inE0, hs, he]
    rfl
  refine ⟨_, hexec, ?_⟩
  generalize (if short = true then stFaulted else stOk) = st at hst
  obtain ⟨huf, hfA, hfB, hfw, hjob⟩ := s.activated_fields n commit ok a
  generalize s.activated n commit ok a = u at huf hfA hfB hfw hjob
  have htell : Tells s (u.eventAll evFirmware) evFirmware := State.eventAll_tells (by decide) (huf .parts (by decide))
  have hq : Queued s (u.eventAll evFirmware) := (Queued.of_windows (huf .windows (by decide))).trans (u.eventAll_queued evFirmware)
  have hvf (fd : Fld) (h : fd ∉ [Fld.windows]) : fd.of (u.eventAll evFirmware) = fd.of u := State.eventAll_of _ _ h
  generalize u.eventAll evFirmware = v at htell hq hvf
  have hlongs : (v.finish l st).longs = s.longs.filter fun x => !x.same l := by
    rw [v.finish_longs]
    exact congrArg (List.filter fun x : LongCmd => !x.same l) ((hvf .longs (by decide)).trans (huf .longs (by decide)))
  have hmsg : l.discard = false → ∃ m ∈ ((v.finish l st).window l.die.val l.fn.val).outQ, m.seq = l.seq ∧ m.final = true ∧
      m.status = if short then 0x20#8 else 0#8 := by
    intro hdis
    rw [← hst]
    exact v.finish_message hdis st []
  have hft := htell.finish l st []
  have hfq := hq.trans (v.finish_queued l st [])
  have hwf (fd : Fld) (h : fd ∉ [Fld.windows, .longs, .opFaulted]) : fd.of (v.finish l st) = fd.of v := State.finish_of _ _ _ _ (Fld.not_mem h)
  generalize v.finish l st = w at hlongs hmsg hft hfq hwf
  have hwu (fd : Fld) (h : fd ∉ [Fld.windows, .longs, .opFaulted]) : fd.of w = fd.of u := (hwf fd h).trans (hvf fd (Fld.not_mem h))
  have h1 : w.flashA = s.flashA.setActive n := (hwu .flashA (by decide)).trans hfA
  have h2 : w.flashB = s.flashB.setActive n := (hwu .flashB (by decide)).trans hfB
  have h3 : w.firmware = a.firmware s.firmware.candidate := (hwu .firmware (by decide)).trans hfw
  have h4 : w.fwJob = none := (hwu .fwJob (by decide)).trans hjob
  refine ⟨?_, hwu .fuses (by decide), hfq, hft, hmsg⟩
  rw [← h1, ← h2, ← h3, ← h4, ← hlongs]
  exact State.eq_patch [.flashA, .flashB, .fuses, .firmware, .fwJob, .clusters, .windows, .longs, .opFaulted, .freeCount] fun fd h =>
    (hwu fd (Fld.not_mem h)).trans (huf fd (Fld.not_mem h))

/-- DUMP ends with its granules in host memory and HBM in self-refresh, and no exit latched leaves the engine where it is (R293, R294). -/
theorem dump_ends {s : State} {j : DumpJob} {l : LongCmd} (double singles : List Nat) (hj : s.dump = some j)
    (hl : s.long? j.die.val j.fn.val j.seq = some l) (hw : s.aonWake = 0#4) :
    let bad := ((double.map fun x => x / 64 * 64).filter fun x => j.granules.contains (granuleOf x)).eraseDups
    ∃ t, exec (.dumpDone ⟨double, singles⟩) s = .next t ∧
      t = { s with dump := none, rails := { s.rails with hbmSelfRefresh := true }, hostMem := t.hostMem, windows := t.windows
                   longs := t.longs, hbmStacks := t.hbmStacks, faults := t.faults, faultSeq := t.faultSeq, faultsLost := t.faultsLost } ∧
      t.hostMem = (s.dumpWrite j bad).hostMem ∧ (bad ≠ [] → ∃ r ∈ t.faults, r.code = 0x0104#16) ∧
      Finished s t l stOk (toLe 4 j.granules.length ++ toLe 4 bad.length ++ leBytes 8 s.et) := by
  intro bad
  obtain ⟨huf, hdump, hrails, hmem, hlog⟩ := s.dumped_fields j bad singles
  have hul : (s.dumped j bad singles).long? j.die.val j.fn.val j.seq = some l := by
    rw [← hl]
    exact congrArg (List.find? _) (huf .longs (by decide))
  refine ⟨_, congrArg Host.Outcome.next (State.dumpEnd_eq hj rfl hul), ?_⟩
  generalize s.dumped j bad singles = u at huf hdump hrails hmem hlog
  rw [show u.et = s.et from huf .et (by decide)]
  have hfin := State.finish_finished (huf .windows (by decide)) (huf .longs (by decide)) stOk_ne l
    (toLe 4 j.granules.length ++ toLe 4 bad.length ++ leBytes 8 s.et)
  have hvf (fd : Fld) (h : fd ∉ [Fld.windows, .longs]) :
      fd.of (u.finish l stOk (toLe 4 j.granules.length ++ toLe 4 bad.length ++ leBytes 8 s.et)) = fd.of u := State.finish_of_ne stOk_ne _ _ h
  generalize u.finish l stOk (toLe 4 j.granules.length ++ toLe 4 bad.length ++ leBytes 8 s.et) = v at hfin hvf
  rw [State.tryExit_asleep ((hvf .aonWake (by decide)).trans ((huf .aonWake (by decide)).trans hw))]
  refine ⟨?_, (hvf .hostMem (by decide)).trans hmem, fun h => ?_, hfin⟩
  · rw [← show v.dump = none from (hvf .dump (by decide)).trans hdump,
      ← show v.rails = { s.rails with hbmSelfRefresh := true } from (hvf .rails (by decide)).trans hrails]
    exact State.eq_patch [.dump, .rails, .hostMem, .windows, .longs, .hbmStacks, .faults, .faultSeq, .faultsLost] fun fd h =>
      (hvf fd (Fld.not_mem h)).trans (huf fd (Fld.not_mem h))
  · rw [show v.faults = u.faults from hvf .faults (by decide)]
    exact hlog h

/-- Settles O21: each end's effects are stated by an equation for the work before its final message. -/
theorem firmwareWork : Obligations.FirmwareWork := by
  unfold Obligations.FirmwareWork
  intro l n i a b ok1 ok2 commit double singles j s hs
  refine ⟨fun hj hl => fwUpdate_ends ok1 ok2 hs hj hl, fun hj hl he hd ha hb => ?_, fun hj hl hw => dump_ends double singles hj hl hw⟩
  intro short
  obtain ⟨t, hexec, heq, hfuses, hq, htell, hmsg⟩ := fwActivate_ends commit ok1 hj hl hs he hd ha hb
  obtain ⟨hgrows, hkept, hblown⟩ := s.activated_grows n commit ok1 a
  rw [← hfuses] at hgrows hkept hblown
  exact ⟨t, hexec, heq, hgrows.rest, hgrows.rollback, hgrows.keyRevoke, hkept, hblown, hq, htell, hmsg⟩

end Sys2Proof.Machine
end

section
/-!
SEIZE (R381, R383).
-/

namespace Sys2Proof.Machine

open Sys2Proof

/-- A seizure ends the lease (step 5 of R381). -/
theorem State.seizeOne_lease (s : State) (x : Seized) : (s.seizeOne x).lease x.kind x.index = 0x0FFF#16 := by
  unfold State.seizeOne State.lease State.release
  exact congrArg (· ^^^ 0x0FFF#16) (sget_sdel_same ..)

theorem State.seizeOne_logged (s : State) (x : Seized) : ∃ r ∈ (s.seizeOne x).faults, r.code = 0x0601#16 := State.log_mem _ 0x0601 ..

theorem State.abandonLease_bypass {s : State} {n : Nat} (h : (s.cluster n).scanBypass = true) (kind index : Nat) :
    ((s.abandonLease kind index).cluster n).scanBypass = true := by
  unfold State.abandonLease
  split
  · exact h
  split
  · split
    · exact (congrArg Cluster.scanBypass (State.cluster_congr (State.dropChannel_of (fd := .clusters) s _ _ (by decide)) n)).trans h
    · exact h
  split
  · exact (congrArg Cluster.scanBypass (State.cluster_congr (State.faulted_of (fd := .clusters) _ _ (by decide)) n)).trans h
  split
  · by_cases hn : n = index
    · subst hn
      rw [State.cluster_modCluster]
      exact h
    · rw [State.cluster_modCluster_ne _ _ _ _ hn]
      exact h
  · exact h

/-- A seizure bypasses the ring of a cluster that held the lease (R191, R381). -/
theorem State.seizeOne_bypass (s : State) {x : Seized} (h : x.tag.toNat % 4096 < 1200) :
    ((s.seizeOne x).cluster (x.tag.toNat % 4096)).scanBypass = true := by
  unfold State.seizeOne
  dsimp only
  rw [if_pos h]
  refine State.abandonLease_bypass ?_ _ _
  rw [State.cluster_modCluster]

/-- What the seizure of a lease that is held leaves (R381). -/
theorem State.seize_seizes {s : State} {k i : Nat} (h : s.lease k i ≠ 0x0FFF#16) :
    (s.seize k i).lease k i = 0x0FFF#16 ∧ (∃ r ∈ (s.seize k i).faults, r.code = 0x0601#16) ∧
      ((s.lease k i).toNat % 4096 < 1200 → ((s.seize k i).cluster ((s.lease k i).toNat % 4096)).scanBypass = true) := by
  rw [State.seize, if_neg h]
  simp only [State.seizeList, State.each]
  have hres (u : State) (fd : Fld) (hf : fd ∉ [Fld.parts]) (p : Nat) : fd.of (u.tryResume p) = fd.of u := State.tryResume_of u p hf
  have h1 := (s.beginRecovery ((s.lease k i).toNat / 4096)).seizeOne_lease ⟨k, i, s.lease k i⟩
  have h2 := (s.beginRecovery ((s.lease k i).toNat / 4096)).seizeOne_logged ⟨k, i, s.lease k i⟩
  have h3 := (s.beginRecovery ((s.lease k i).toNat / 4096)).seizeOne_bypass (x := ⟨k, i, s.lease k i⟩)
  generalize (s.beginRecovery ((s.lease k i).toNat / 4096)).seizeOne ⟨k, i, s.lease k i⟩ = u at h1 h2 h3
  refine ⟨?_, ?_, fun hn => ?_⟩
  · rw [State.lease, show (u.tryResume _).leases = u.leases from hres u .leases (by decide) _]
    exact h1
  · rw [show (u.tryResume _).faults = u.faults from hres u .faults (by decide) _]
    exact h2
  · rw [State.cluster_congr (hres u .clusters (by decide) _)]
    exact h3 hn

theorem State.seize_free {s : State} {k i : Nat} (h : s.lease k i = 0x0FFF#16) : s.seize k i = s := if_pos h

/-- A payload names a lease of Table 15.2. -/
theorem Cmd.lease_lt {c : Cmd} {k i : Nat} (h : c.lease = some (k, i)) : i < 65536 := by
  simp only [Cmd.lease] at h
  split at h
  case isTrue hc =>
    obtain ⟨rfl, rfl⟩ := Prod.mk.injEq .. ▸ Option.some.inj h
    omega
  case isFalse =>
    split at h
    case isTrue hc =>
      obtain ⟨rfl, rfl⟩ := Prod.mk.injEq .. ▸ Option.some.inj h
      omega
    case isFalse =>
      split at h
      case isTrue hc =>
        obtain ⟨rfl, rfl⟩ := Prod.mk.injEq .. ▸ Option.some.inj h
        omega
      case isFalse => exact absurd h (by simp)

/-- A command's own slot gives its lease back; another lease is as it was. -/
theorem State.take_lease (s : State) {c : Cmd} {k i : Nat} (h : c.lease = some (k, i)) (hc : 512 * c.die + 32 * c.fn + c.slot < 65536)
    (hne : ¬ (k = 4 ∧ i = 512 * c.die + 32 * c.fn + c.slot)) : (s.take c).lease k i = s.lease k i := by
  have hi := Cmd.lease_lt h
  exact congrArg (· ^^^ 0x0FFF#16) (sget_sdel_ne _ _ _ _ (by unfold leaseKey; omega))

section
variable {die : Die} {fn : Fn} {slot : Fin 32} {s : State} (ho : s.offers die.val fn.val slot.val 0x71 4 = true) (hf : fn = 0)
  (hr : s.ruled = true) (hl : s.longRoom fn.val = true) (he : s.estate = .e0)
include ho hf hr hl he

theorem exec_seize : exec (.seize die fn slot) s =
    .next ((s.take (s.readCmd die.val fn.val slot.val)).seizeCmd (s.readCmd die.val fn.val slot.val)) :=
  congrArg Host.Outcome.next (State.serve_passes ho rfl (State.serves_of_e0 he _) (fun _ => by rw [hf]; rfl) (by simp) (fun _ => hr) fun _ => hl)

theorem seize_refused (h : (s.readCmd die.val fn.val slot.val).lease = none ∨
      (s.readCmd die.val fn.val slot.val).lease = some (4, 512 * die.val + 32 * fn.val + slot.val)) :
    ∃ t, exec (.seize die fn slot) s = .next t ∧
      Answered s t die.val fn.val slot.val [(s.readCmd die.val fn.val slot.val).msg true stBadArg []] := by
  refine ⟨_, exec_seize ho hf hr hl he, ?_⟩
  have hbad : (s.take (s.readCmd die.val fn.val slot.val)).seizeCmd (s.readCmd die.val fn.val slot.val) =
      (s.take (s.readCmd die.val fn.val slot.val)).answer (s.readCmd die.val fn.val slot.val) stBadArg := by
    unfold State.seizeCmd
    rcases h with h | h <;> rw [h]
    exact if_pos ⟨rfl, rfl⟩
  rw [hbad]
  exact State.answer_answered ..

variable {k i : Nat} (hk : (s.readCmd die.val fn.val slot.val).lease = some (k, i))
  (hne : ¬ (k = 4 ∧ i = 512 * die.val + 32 * fn.val + slot.val))
include hk hne

theorem exec_seize_lease : exec (.seize die fn slot) s =
    .next (((s.take (s.readCmd die.val fn.val slot.val)).seize k i).acceptDone (s.readCmd die.val fn.val slot.val) stOk
      (leBytes 2 ((s.take (s.readCmd die.val fn.val slot.val)).lease k i) ++
        toLe 1 (if (s.take (s.readCmd die.val fn.val slot.val)).lease k i = 0x0FFF#16 then 0 else 1))) := by
  rw [exec_seize ho hf hr hl he]
  unfold State.seizeCmd
  rw [hk]
  exact congrArg Host.Outcome.next (if_neg hne)

/-- A lease that is free changes nothing but the messages. -/
theorem seize_free (hfree : (s.take (s.readCmd die.val fn.val slot.val)).lease k i = 0x0FFF#16) :
    ∃ t, exec (.seize die fn slot) s = .next t ∧ t.lease k i = 0x0FFF#16 ∧
      Answered s t die.val fn.val slot.val [(s.readCmd die.val fn.val slot.val).msg false stAccepted [],
        (s.readCmd die.val fn.val slot.val).msg true stOk (leBytes 2 0x0FFF#16 ++ toLe 1 0)] := by
  refine ⟨_, exec_seize_lease ho hf hr hl he hk hne, ?_⟩
  rw [State.seize_free hfree, hfree, if_pos rfl]
  exact ⟨hfree, State.acceptDone_answered ..⟩

/-- A lease that is held is seized (R381, R383). -/
theorem seize_held (hheld : (s.take (s.readCmd die.val fn.val slot.val)).lease k i ≠ 0x0FFF#16) :
    let tag := (s.take (s.readCmd die.val fn.val slot.val)).lease k i
    ∃ t, exec (.seize die fn slot) s = .next t ∧ t.lease k i = 0x0FFF#16 ∧ (∃ r ∈ t.faults, r.code = 0x0601#16) ∧
      (tag.toNat % 4096 < 1200 → (t.cluster (tag.toNat % 4096)).scanBypass = true) ∧
      (s.readCmd die.val fn.val slot.val).msg true stOk (leBytes 2 tag ++ toLe 1 1) ∈ (t.window die.val fn.val).outQ ∧
      t.hbm = s.hbm ∧ t.fuses = s.fuses ∧ t.longs = s.longs := by
  intro tag
  refine ⟨_, exec_seize_lease ho hf hr hl he hk hne, ?_⟩
  have hu : ∀ fd : Fld, fd ∈ [Fld.hbm, .fuses, .longs] →
      fd.of ((s.take (s.readCmd die.val fn.val slot.val)).seize k i) = fd.of (s.take (s.readCmd die.val fn.val slot.val)) :=
    fun fd h => State.seize_of _ _ _ (by simp only [List.mem_cons, List.not_mem_nil, or_false] at h; rcases h with rfl | rfl | rfl <;> decide)
  obtain ⟨hlease, hlog, hring⟩ := State.seize_seizes hheld
  rw [if_neg hheld]
  generalize (s.take (s.readCmd die.val fn.val slot.val)).seize k i = u at hu hlease hlog hring
  have hvf (fd : Fld) (h : fd ∉ [Fld.windows]) (b : Bytes) : fd.of (u.acceptDone (s.readCmd die.val fn.val slot.val) stOk b) = fd.of u :=
    State.acceptDone_of _ _ _ _ h
  refine ⟨?_, ?_, fun hn => ?_, ?_, (hvf .hbm (by decide) _).trans (hu .hbm (by decide)), (hvf .fuses (by decide) _).trans (hu .fuses (by decide)),
    (hvf .longs (by decide) _).trans (hu .longs (by decide))⟩
  · rw [State.lease, show (u.acceptDone _ _ _).leases = u.leases from hvf .leases (by decide) _]
    exact hlease
  · rw [show (u.acceptDone _ _ _).faults = u.faults from hvf .faults (by decide) _]
    exact hlog
  · rw [State.cluster_congr (hvf .clusters (by decide) _)]
    exact hring hn
  · rw [State.acceptDone, State.answer_eq]
    refine Eq.mpr (congrArg (fun w : Window => _ ∈ w.outQ) (State.window_modWindow _ die.val fn.val _)) ?_
    exact List.mem_append_right _ List.mem_cons_self

end

/-- Settles O22: the lease named is another than the slot's own, so that taking the command leaves it. -/
theorem seizes : Obligations.Seizes := by
  unfold Obligations.Seizes
  intro die fn slot k i s c tag ho hf hr hl he
  refine ⟨fun hk hne => ?_, fun h => seize_refused ho hf hr hl he h⟩
  have htag : (s.take c).lease k i = tag := s.take_lease hk (by
    have := die.isLt
    have := fn.isLt
    have := slot.isLt
    simp only [c, State.readCmd]
    omega) hne
  by_cases hfree : tag = 0x0FFF#16
  · obtain ⟨t, hexec, hlease, hans⟩ := seize_free ho hf hr hl he hk hne (htag.trans hfree)
    exact ⟨t, hexec, hlease, fun _ => hans, fun h => absurd hfree h⟩
  · obtain ⟨t, hexec, hlease, hlog, hring, hmsg⟩ := seize_held ho hf hr hl he hk hne fun h => hfree (htag.symm.trans h)
    refine ⟨t, hexec, hlease, fun h => absurd h hfree, fun _ => ⟨hlog, ?_, ?_⟩⟩
    · rw [← htag]
      exact hring
    · rw [← htag]
      exact hmsg

end Sys2Proof.Machine
end

section
/-!
COLL.GROUP join and leave (R315, R317), and the set of LINK.STATE (R323, R411).
-/

namespace Sys2Proof.Machine

open Sys2Proof

/-! ## Maps -/

theorem sdel_of_none {α : Type} {k : Nat} {m : SMap α} (h : sfind? m k = none) : sdel k m = m := by
  induction m with
  | nil => rfl
  | cons x r ih =>
    obtain ⟨j, v⟩ := x
    rw [sfind?] at h
    split at h
    · cases h
    · next hj => rw [sdel, if_neg hj, ih h]

theorem mem_smapAll_value {α : Type} [DecidableEq α] {d : α} {f : Nat → α → α} {m : SMap α} {x : Nat × α} (h : x ∈ smapAll d f m) :
    ∃ v, x.2 = f x.1 v := by
  induction m with
  | nil => cases h
  | cons y r ih =>
    obtain ⟨j, w⟩ := y
    rw [smapAll] at h
    split at h
    · exact ih h
    · rcases List.mem_cons.1 h with rfl | h
      · exact ⟨w, rfl⟩
      · exact ih h

/-! ## Groups -/

/-- A change to a group of a partition, with what it makes of joins asked for and of the plans it names (R315, R317). -/
def State.regrouped (s : State) (p g : Nat) (G : SMap Group → SMap Group) (id : BitVec 64) : State :=
  ((s.dropJoins p g).modPart p fun q => { q with groups := G q.groups }).unverifyId p id

theorem State.regrouped_leaves (s : State) (p g : Nat) (G : SMap Group → SMap Group) (id : BitVec 64) :
    let t := s.regrouped p g G id
    (∀ fd : Fld, fd ∉ [Fld.links, .parts, .longs] → fd.of t = fd.of s) ∧ OnePart s t p ∧
      t.part p = { s.part p with groups := G (s.part p).groups, plans := (t.part p).plans } ∧
      (∀ x ∈ (t.part p).plans, x.2.plan.planId = id → x.2.verified = false) ∧
      ∃ f : LongCmd → Bool, t.longs = s.longs.map fun l => if f l then { l with stale := true } else l := by
  have ha (fd : Fld) (h : fd ∉ [Fld.links]) : fd.of (s.dropJoins p g) = fd.of s := State.dropJoins_of s p g h
  unfold State.regrouped
  generalize s.dropJoins p g = a at ha
  have hb (fd : Fld) (h : fd ∉ [Fld.parts]) : fd.of (a.modPart p fun q => { q with groups := G q.groups }) = fd.of a := State.modPart_of a p _ h
  have hb1 := a.modPart_one p fun q => { q with groups := G q.groups }
  have hbp : (a.modPart p fun q => { q with groups := G q.groups }).part p = { s.part p with groups := G (s.part p).groups } := by
    rw [State.part_modPart, State.part_congr (ha .parts (by decide))]
  generalize (a.modPart p fun q => { q with groups := G q.groups }) = b at hb hb1 hbp
  have hc (fd : Fld) (h : fd ∉ [Fld.longs, .parts]) : fd.of (b.unverifyId p id) = fd.of b := State.unverifyId_of b p id h
  have hcp : (b.unverifyId p id).part p =
      { b.part p with plans := smapAll {} (fun _ l => if l.plan.planId = id then { l with verified := false } else l) (b.part p).plans } :=
    State.part_modPart ..
  intro t
  refine ⟨fun fd h => (hc fd (Fld.not_mem h)).trans ((hb fd (Fld.not_mem h)).trans (ha fd (Fld.not_mem h))), fun k hk => ?_, ?_, fun x hx hid => ?_, ?_⟩
  · have hc1 : sget {} t.parts k = sget {} b.parts k := State.modPart_one (s := { b with longs := _ }) p _ k hk
    rw [hc1, hb1 k hk, show a.parts = s.parts from ha .parts (by decide)]
  · rw [show t.part p = _ from hcp, hbp]
  · rw [show t.part p = _ from hcp] at hx
    obtain ⟨v, hv⟩ := mem_smapAll_value hx
    rw [hv] at hid ⊢
    by_cases h : v.plan.planId = id
    · rw [if_pos h]
    · rw [if_neg h] at hid
      exact absurd hid h
  · exact ⟨_, congrArg (List.map _) ((hb .longs (by decide)).trans (ha .longs (by decide)))⟩

/-- A port that is up has been asked for JOIN by a group. -/
structure Port.Asks (k : Part × Fin 8) (o : Port) : Prop where
  mem : o.up = true → k ∈ o.joins

/-- A port asked for JOIN, if it is up (R317). -/
def Port.asked (k : Part × Fin 8) (o : Port) : Port := if o.up && !o.joins.contains k then { o with joins := o.joins ++ [k] } else o

theorem Port.asked_asks (k : Part × Fin 8) (o : Port) : (o.asked k).Asks k := by
  refine ⟨fun hup => ?_⟩
  unfold Port.asked at hup ⊢
  split
  · exact List.mem_append_right _ List.mem_cons_self
  · next h =>
    rw [if_neg h] at hup
    rw [hup, Bool.true_and, Bool.not_eq_true, Bool.not_eq_false'] at h
    exact List.contains_iff_mem.1 h

theorem State.port_modPort_rel {R : Port → Port → Prop} (hr : ∀ o, R o o) {g : Port → Port} (hg : ∀ o, R o (g o)) (s : State) (d p d' p' : Nat) :
    R (s.port d' p') ((s.modPort d p g).port d' p') := by
  by_cases hd : d' = d
  · subst hd
    by_cases hp : p' = p
    · subst hp
      rw [State.port_modPort]
      exact hg _
    · have hne : (s.modPort d' p g).port d' p' = s.port d' p' := by
        unfold State.port State.modPort
        rw [State.link_modLink]
        exact sget_smod_ne (α := Port) _ _ _ _ _ hp
      rw [hne]
      exact hr _
  · have hne : (s.modPort d p g).port d' p' = s.port d' p' := by
      unfold State.port State.modPort
      rw [State.link_modLink_ne _ _ _ _ hd]
    rw [hne]
    exact hr _

theorem State.askEach_asks (s : State) (k : Part × Fin 8) {l : List GroupPort} {d p : Nat}
    (h : (s.port d p).Asks k ∨ ∃ e ∈ l, e.die = d ∧ e.port = p) :
    ((s.each l fun t e => t.modPort e.die e.port (Port.asked k)).port d p).Asks k := by
  induction l generalizing s with
  | nil => exact h.resolve_right fun ⟨e, he, _⟩ => List.not_mem_nil he
  | cons a r ih =>
    refine ih _ ?_
    have hkeep : (s.port d p).Asks k → ((s.modPort a.die a.port (Port.asked k)).port d p).Asks k :=
      State.port_modPort_rel (R := fun o o' => o.Asks k → o'.Asks k) (fun _ => id) (fun o _ => o.asked_asks k) s _ _ _ _
    rcases h with h | ⟨e, he, hd, hp⟩
    · exact .inl (hkeep h)
    · rcases List.mem_cons.1 he with rfl | he
      · subst hd hp
        rw [State.port_modPort]
        exact .inl (Port.asked_asks ..)
      · exact .inr ⟨e, he, hd, hp⟩

/-- A group asks for JOIN on each of its ports that is up (R317). -/
theorem State.askJoin_asks (s : State) (p g : Nat) (grp : Group) {e : GroupPort} (he : e ∈ grp.ports) :
    ((s.askJoin p g grp).port e.die e.port).Asks (Fin.ofNat 16 p, Fin.ofNat 8 g) := s.askEach_asks _ (.inr ⟨e, he, rfl, rfl⟩)

/-! ## COLL.GROUP -/

theorem State.relRead_congr {s t : State} (h : t.hbm = s.hbm) (r : PartRec) (off n : Nat) : t.relRead r off n = s.relRead r off n := by
  induction n generalizing off with
  | zero => rfl
  | succ n ih => rw [State.relRead, State.relRead, ih, h]

theorem State.groupOk_congr {s t : State} (hp : t.parts = s.parts) (hl : t.links = s.links) (p : Nat) (b : Bytes) :
    t.groupOk p b = s.groupOk p b := by
  unfold State.groupOk State.recNames State.part State.link
  rw [hp, hl]

section
variable {die : Die} {fn : Fn} {slot : Fin 32} {s : State} (hr : s.ruled = true) (hroom : s.longRoom fn.val = true) (he : s.estate = .e0)
  (hn : s.mayName (s.readCmd die.val fn.val slot.val) = true) (h2 : (s.readCmd die.val fn.val slot.val).at 2 1 < 8)
include hr hroom he hn h2

theorem exec_collGroupJoin {c : Cmd} {p : Nat} {b : Bytes} (hc : s.readCmd die.val fn.val slot.val = c) (hp : c.named = p)
    (ho : s.offers die.val fn.val slot.val 0x82 20 = true) (h1 : c.at 1 1 = 0) (hold : (s.part p).cfg.holds (c.at 8 8) (c.at 16 4) = true)
    (hb : s.relRead (s.part p).cfg (c.at 8 8) (c.at 16 4) = b) (hok : s.groupOk p b = true)
    (hres : ∀ r ∈ (parseGroup b).recs, r.adds = true → r.context < (s.part p).cfg.rcCount) :
    exec (.collGroupJoin die fn slot) s = .next ((((s.take c).regrouped p (c.at 2 1) (sins (c.at 2 1) (parseGroup b)) (parseGroup b).planId).askJoin
      p (c.at 2 1) (parseGroup b)).acceptDone c stOk) := by
  subst hc hp
  refine congrArg Host.Outcome.next ((State.serve_passes ?_ ?_ (State.serves_of_e0 he _) (by simp) (fun _ => hn) (fun _ => hr)
    (fun _ => hroom)).trans ?_)
  · have hlen : 1 < (s.readCmd die.val fn.val slot.val).len := by
      simp only [State.offers, Bool.and_eq_true, decide_eq_true_eq] at ho
      omega
    exact (congrArg (fun n => s.offers die.val fn.val slot.val 0x82 n) (if_pos ⟨h1, hlen⟩)).trans ho
  · simp [picks, h1]
  · generalize s.readCmd die.val fn.val slot.val = c at *
    have hpart : (s.take c).part c.named = s.part c.named := rfl
    unfold State.groupJoin
    simp only [hpart]
    rw [if_pos hold, State.relRead_congr (t := s.take c) (s := s) rfl, hb, if_neg (by omega),
      State.groupOk_congr (t := s.take c) (s := s) rfl rfl, hok, if_neg (by decide), if_neg ?_]
    · rfl
    · intro h
      obtain ⟨r, hm, hx⟩ := List.any_eq_true.1 h
      rw [Bool.and_eq_true, decide_eq_true_eq] at hx
      exact absurd (hres r hm hx.1) (by omega)

theorem join_joins {c : Cmd} {p : Nat} {b : Bytes} (hc : s.readCmd die.val fn.val slot.val = c) (hp : c.named = p)
    (ho : s.offers die.val fn.val slot.val 0x82 20 = true) (h1 : c.at 1 1 = 0) (hold : (s.part p).cfg.holds (c.at 8 8) (c.at 16 4) = true)
    (hb : s.relRead (s.part p).cfg (c.at 8 8) (c.at 16 4) = b) (hok : s.groupOk p b = true)
    (hres : ∀ r ∈ (parseGroup b).recs, r.adds = true → r.context < (s.part p).cfg.rcCount) :
    ∃ t, exec (.collGroupJoin die fn slot) s = .next t ∧
      (t = { s with windows := t.windows, leases := t.leases, longs := t.longs, parts := t.parts, links := t.links } ∧
        Took s t die.val fn.val slot.val [c.msg false stAccepted [], c.msg true stOk []] ∧
        ∃ f : LongCmd → Bool, t.longs = s.longs.map fun l => if f l then { l with stale := true } else l) ∧ OnePart s t p ∧
      t.part p = { s.part p with groups := sins (c.at 2 1) (parseGroup b) (s.part p).groups, plans := (t.part p).plans } ∧
      (∀ x ∈ (t.part p).plans, x.2.plan.planId = (parseGroup b).planId → x.2.verified = false) ∧
      ∀ e ∈ (parseGroup b).ports, (t.port e.die e.port).Asks (Fin.ofNat 16 p, Fin.ofNat 8 (c.at 2 1)) := by
  refine ⟨_, exec_collGroupJoin hr hroom he hn h2 hc hp ho h1 hold hb hok hres, ?_⟩
  subst hc
  generalize parseGroup b = g
  generalize hcc : s.readCmd die.val fn.val slot.val = c
  obtain ⟨huf, hu1, hup, huv, huf'⟩ := (s.take c).regrouped_leaves p (c.at 2 1) (sins (c.at 2 1) g) g.planId
  generalize (s.take c).regrouped p (c.at 2 1) (sins (c.at 2 1) g) g.planId = u at huf hu1 hup huv huf'
  have hvf (fd : Fld) (h : fd ∉ [Fld.links]) : fd.of (u.askJoin p (c.at 2 1) g) = fd.of u := State.askJoin_of u _ _ _ h
  have hask := fun e he => u.askJoin_asks p (c.at 2 1) g (e := e) he
  generalize u.askJoin p (c.at 2 1) g = v at hvf hask
  have htook : Took s (v.acceptDone c stOk) c.die c.fn c.slot [c.msg false stAccepted [], c.msg true stOk []] :=
    Took.acceptDone ((hvf .windows (by decide)).trans (huf .windows (by decide))) ((hvf .leases (by decide)).trans (huf .leases (by decide))) _ _
  have hwf (fd : Fld) (h : fd ∉ [Fld.windows]) : fd.of (v.acceptDone c stOk) = fd.of v := State.acceptDone_of _ _ _ _ h
  generalize v.acceptDone c stOk = w at hwf htook
  have hparts : w.parts = u.parts := (hwf .parts (by decide)).trans (hvf .parts (by decide))
  have hpart : w.part p = u.part p := State.part_congr hparts p
  refine ⟨⟨?_, ?_, ?_⟩, fun k hk => ?_, ?_, ?_, fun e he => ⟨fun hon => ?_⟩⟩
  · exact State.eq_patch [.windows, .leases, .longs, .parts, .links] fun fd h => (hwf fd (Fld.not_mem h)).trans ((hvf fd (Fld.not_mem h)).trans
      ((huf fd (Fld.not_mem h)).trans (State.take_of s c (Fld.not_mem h))))
  · subst hcc
    exact htook
  · rw [show w.longs = u.longs from (hwf .longs (by decide)).trans (hvf .longs (by decide))]
    exact huf'
  · rw [hparts]
    exact hu1 k hk
  · rw [hpart]
    exact hup
  · rw [hpart]
    exact huv
  · have hport : w.port e.die e.port = v.port e.die e.port := by
      unfold State.port State.link
      rw [show w.links = v.links from hwf .links (by decide)]
    rw [hport] at hon ⊢
    exact (hask e he).mem hon

end

theorem State.flagHeld_groups (s : State) (p : Nat) : (s.flagHeld.part p).groups = (s.part p).groups := by
  unfold State.flagHeld
  refine State.each_induct (P := fun t => (t.part p).groups = (s.part p).groups) rfl fun t ht a _ => ?_
  split
  · split
    · refine Eq.trans ?_ ht
      by_cases hp : p = a
      · subst hp
        rw [State.modReq, State.part_modPart]
      · rw [State.modReq, State.part_modPart_ne _ _ _ _ hp]
    · exact ht
  · exact ht

section
variable {die : Die} {fn : Fn} {slot : Fin 32} {s : State} (hr : s.ruled = true) (hroom : s.longRoom fn.val = true) (he : s.estate = .e0)
  (hn : s.mayName (s.readCmd die.val fn.val slot.val) = true) (h2 : (s.readCmd die.val fn.val slot.val).at 2 1 < 8)
  (ho : s.offers die.val fn.val slot.val 0x82 3 = true) (h1 : (s.readCmd die.val fn.val slot.val).at 1 1 = 1)
include hr hroom he hn h2 ho h1

theorem exec_collGroupLeave : exec (.collGroupLeave die fn slot) s =
    .next ((s.take (s.readCmd die.val fn.val slot.val)).groupLeave (s.readCmd die.val fn.val slot.val)) :=
  congrArg Host.Outcome.next (State.serve_passes (by simpa [groupNeed, h1] using ho) (by simp [picks, h1]) (State.serves_of_e0 he _) (by simp)
    (fun _ => hn) (fun _ => hr) fun _ => hroom)

theorem leave_leaves : ∃ t, exec (.collGroupLeave die fn slot) s = .next t ∧
    (t = { s with windows := t.windows, leases := t.leases, longs := t.longs, parts := t.parts, links := t.links } ∧
      Took s t die.val fn.val slot.val [(s.readCmd die.val fn.val slot.val).msg false stAccepted [],
        (s.readCmd die.val fn.val slot.val).msg true stOk []] ∧
      ∃ f : LongCmd → Bool, t.longs = s.longs.map fun l => if f l then { l with stale := true } else l) ∧
    (s.retimeWanted = false → OnePart s t (s.readCmd die.val fn.val slot.val).named) ∧
    (t.part (s.readCmd die.val fn.val slot.val).named).groups =
      sdel ((s.readCmd die.val fn.val slot.val).at 2 1) (s.part (s.readCmd die.val fn.val slot.val).named).groups := by
  refine ⟨_, exec_collGroupLeave hr hroom he hn h2 ho h1, ?_⟩
  have hd : (s.readCmd die.val fn.val slot.val).die = die.val ∧ (s.readCmd die.val fn.val slot.val).fn = fn.val ∧
      (s.readCmd die.val fn.val slot.val).slot = slot.val := ⟨rfl, rfl, rfl⟩
  generalize s.readCmd die.val fn.val slot.val = c at *
  obtain ⟨hd1, hd2, hd3⟩ := hd
  rw [← hd1, ← hd2, ← hd3]
  unfold State.groupLeave
  extract_lets p
  rw [if_neg (by omega)]
  have hpart : (s.take c).part p = s.part p := rfl
  split
  next hnone =>
    have hwf (fd : Fld) (h : fd ∉ [Fld.windows, .leases]) : fd.of ((s.take c).acceptDone c stOk) = fd.of s :=
      (State.acceptDone_of _ _ _ _ (Fld.not_mem h)).trans (State.take_of s c h)
    have htook : Took s ((s.take c).acceptDone c stOk) c.die c.fn c.slot [c.msg false stAccepted [], c.msg true stOk []] :=
      Took.acceptDone rfl rfl _ _
    generalize (s.take c).acceptDone c stOk = w at hwf htook
    refine ⟨⟨State.eq_patch [.windows, .leases, .longs, .parts, .links] fun fd h => hwf fd (Fld.not_mem h), htook, fun _ => false, ?_⟩,
      fun _ k _ => ?_, ?_⟩
    · simp only [Bool.false_eq_true, if_false, List.map_id']
      exact hwf .longs (by decide)
    · rw [show w.parts = s.parts from hwf .parts (by decide)]
    · rw [sdel_of_none (hpart ▸ hnone), State.part_congr (hwf .parts (by decide))]
  next g hg =>
    rename_i a b _
    have haf (fd : Fld) (h : fd ∉ [Fld.parts]) : fd.of a = fd.of (s.take c) := by
      dsimp only [a]
      split
      · exact State.flagHeld_of _ h
      · rfl
    have hag : (a.part p).groups = (s.part p).groups := by
      dsimp only [a]
      split
      · exact (s.take c).flagHeld_groups p
      · rfl
    have haw : s.retimeWanted = false → a.parts = s.parts := by
      intro h
      have ha : a = s.take c := if_neg (by rw [show (s.take c).retimeWanted = s.retimeWanted from rfl, h]; decide)
      rw [ha]
      rfl
    have hu : b.unverifyId p g.planId = a.regrouped p (c.at 2 1) (sdel (c.at 2 1)) g.planId := rfl
    rw [hu]
    clear_value a
    obtain ⟨huf, hu1, hup, huv, hus⟩ := a.regrouped_leaves p (c.at 2 1) (sdel (c.at 2 1)) g.planId
    generalize a.regrouped p (c.at 2 1) (sdel (c.at 2 1)) g.planId = u at huf hu1 hup huv hus
    have htook : Took s (u.acceptDone c stOk) c.die c.fn c.slot [c.msg false stAccepted [], c.msg true stOk []] :=
      Took.acceptDone ((huf .windows (by decide)).trans (haf .windows (by decide))) ((huf .leases (by decide)).trans (haf .leases (by decide))) _ _
    have hwf (fd : Fld) (h : fd ∉ [Fld.windows]) : fd.of (u.acceptDone c stOk) = fd.of u := State.acceptDone_of _ _ _ _ h
    generalize u.acceptDone c stOk = w at hwf htook
    refine ⟨⟨?_, htook, ?_⟩, fun hret k hk => ?_, ?_⟩
    · exact State.eq_patch [.windows, .leases, .longs, .parts, .links] fun fd h => (hwf fd (Fld.not_mem h)).trans ((huf fd (Fld.not_mem h)).trans
        ((haf fd (Fld.not_mem h)).trans (State.take_of s c (Fld.not_mem h))))
    · obtain ⟨f, hf⟩ := hus
      refine ⟨f, (hwf .longs (by decide)).trans (hf.trans ?_)⟩
      rw [show a.longs = s.longs from (haf .longs (by decide)).trans (State.take_of (fd := .longs) s c (by decide))]
    · rw [show w.parts = u.parts from hwf .parts (by decide), hu1 k hk, haw hret]
    · rw [State.part_congr (hwf .parts (by decide)), hup, hag]

end

/-! ## The set of LINK.STATE (R323, R411) -/

/-- A link die keeps its mode, and no port of it comes up. -/
structure LinkKept (d : Nat) (s t : State) : Prop where
  mode : (t.link d).portCount = (s.link d).portCount
  down : ∀ n, (s.port d n).up = false → (t.port d n).up = false

namespace LinkKept
variable {d : Nat} {s t u : State}

theorem refl (d : Nat) (s : State) : LinkKept d s s := ⟨rfl, fun _ h => h⟩

theorem trans (a : LinkKept d s t) (b : LinkKept d t u) : LinkKept d s u := ⟨b.mode.trans a.mode, fun n h => b.down n (a.down n h)⟩

theorem of_links (h : t.links = s.links) : LinkKept d s t := by
  refine ⟨?_, fun n hn => ?_⟩
  · rw [State.link, h]
    rfl
  · rw [State.port, State.link, h]
    exact hn

theorem modLink_ne (s : State) {d' : Nat} (h : d ≠ d') (f : LinkDie → LinkDie) : LinkKept d s (s.modLink d' f) := by
  have hl : (s.modLink d' f).link d = s.link d := State.link_modLink_ne _ _ _ _ h
  refine ⟨by rw [hl], fun n hn => ?_⟩
  rw [State.port, hl]
  exact hn

theorem modPort (s : State) (d' p : Nat) {f : Port → Port} (hf : ∀ o : Port, o.up = false → (f o).up = false) :
    LinkKept d s (s.modPort d' p f) where
  mode := by
    by_cases h : d = d'
    · subst h
      rw [State.modPort, State.link_modLink]
      rfl
    · exact (modLink_ne s h _).mode
  down n := State.port_modPort_rel (R := fun o o' => o.up = false → o'.up = false) (fun _ h => h) hf s d' p d n

theorem each {α : Type} {f : State → α → State} {l : List α} (h : LinkKept d s t) (hf : ∀ u a, LinkKept d u (f u a)) :
    LinkKept d s (t.each l f) := State.each_induct h fun u hu a _ => hu.trans (hf u a)

end LinkKept

theorem State.dropPort_linkKept (s : State) (d' p d : Nat) : LinkKept d s (s.dropPort d' p) := by
  have h1 : LinkKept d s (s.modPort d' p Port.down) := LinkKept.modPort s d' p fun _ _ => rfl
  unfold State.dropPort
  extract_lets was a b
  have h2 : LinkKept d s b := h1.trans (.of_links ((State.log_of (fd := .links) _ _ _ _ _ _ _ _ (by decide)).trans
    (State.unjoin_of (fd := .links) a _ (by decide))))
  split
  · unfold State.nextUpstream
    dsimp only
    split
    · refine h2.trans (LinkKept.trans (t := b.drew) (.of_links rfl) (LinkKept.modPort b.drew _ _ fun _ h => ?_))
      exact h
    · exact h2.trans (.of_links rfl)
  · exact h2

theorem State.setMode_linkKept (s : State) {d d' : Nat} (m : Nat) (h : d ≠ d') : LinkKept d s (s.setMode d' m) := by
  unfold State.setMode
  split
  · exact .refl d s
  · exact (LinkKept.each (.refl d s) fun u p => u.dropPort_linkKept d' p d).trans (LinkKept.modLink_ne _ h _)

theorem State.setMode_same {s : State} {d m : Nat} (h : (s.link d).portCount = m) : s.setMode d m = s := if_pos h

theorem State.setMode_sets (s : State) (d : Nat) {m : Nat} (hm : 1 ≤ m) :
    ((s.setMode d m).link d).portCount = m ∧ ((s.link d).portCount ≠ m → ∀ n, ((s.setMode d m).port d n).up = false) := by
  by_cases h : (s.link d).portCount = m
  · rw [State.setMode_same h]
    exact ⟨h, fun hne => absurd h hne⟩
  · rw [State.setMode, if_neg h]
    generalize (s.each _ _) = u
    refine ⟨?_, fun _ n => ?_⟩
    · rw [State.link_modLink]
      exact Nat.sub_add_cancel hm
    · rw [State.port, State.link_modLink]
      rfl

/-- The modes of several dies, each set once. -/
def State.setModes (s : State) (g : Nat → Nat) (l : List Nat) : State := s.each l fun t d => t.setMode d (g d)

theorem State.setModes_sets (s : State) {g : Nat → Nat} {l : List Nat} (hl : l.Nodup) (hg : ∀ d ∈ l, 1 ≤ g d) (d : Nat) :
    (d ∉ l → LinkKept d s (s.setModes g l)) ∧
      (d ∈ l → ((s.setModes g l).link d).portCount = g d ∧
        ((s.link d).portCount ≠ g d → ∀ n, ((s.setModes g l).port d n).up = false)) := by
  induction l generalizing s with
  | nil => exact ⟨fun _ => .refl d s, fun h => absurd h List.not_mem_nil⟩
  | cons a r ih =>
    obtain ⟨ha, hr⟩ := List.nodup_cons.1 hl
    obtain ⟨hout, hin⟩ := ih (s.setMode a (g a)) hr fun e he => hg e (List.mem_cons_of_mem _ he)
    have hstep : s.setModes g (a :: r) = (s.setMode a (g a)).setModes g r := rfl
    rw [hstep]
    refine ⟨fun h => ?_, fun h => ?_⟩
    · rw [List.mem_cons, not_or] at h
      exact (s.setMode_linkKept (g a) h.1).trans (hout h.2)
    · by_cases hd : d = a
      · subst hd
        obtain ⟨hmode, hdown⟩ := s.setMode_sets d (hg d List.mem_cons_self)
        exact ⟨(hout ha).mode.trans hmode, fun hne n => (hout ha).down n (hdown hne n)⟩
      · obtain ⟨hmode, hdown⟩ := hin ((List.mem_cons.1 h).resolve_left hd)
        exact ⟨hmode, fun hne => hdown fun he => hne (by rw [← he, (s.setMode_linkKept (g a) hd).mode])⟩

theorem State.setModes_same {s : State} {g : Nat → Nat} {l : List Nat} (h : ∀ d ∈ l, (s.link d).portCount = g d) : s.setModes g l = s := by
  induction l with
  | nil => rfl
  | cons a r ih =>
    have hstep : s.setModes g (a :: r) = (s.setMode a (g a)).setModes g r := rfl
    rw [hstep, State.setMode_same (h a List.mem_cons_self)]
    exact ih fun d hd => h d (List.mem_cons_of_mem _ hd)

theorem State.setModes_of {fd : Fld} (s : State) (g : Nat → Nat) (l : List Nat)
    (h : fd ∉ [Fld.parts, .links, .faults, .faultSeq, .faultsLost, .freeCount]) : fd.of (s.setModes g l) = fd.of s :=
  Fld.of_each _ fun _ _ => State.setMode_of _ _ _ h

theorem zipIdx_modes (g : Nat → Nat) : ((List.range 16).map g).zipIdx = (List.range 16).map fun d => (g d, d) := rfl

theorem State.each_map {α β : Type} (s : State) (h : α → β) (l : List α) (f : State → β → State) :
    s.each (l.map h) f = s.each l fun t a => f t (h a) := by
  induction l generalizing s with
  | nil => rfl
  | cons a r ih => exact ih _

section
variable {die : Die} {fn : Fn} {slot : Fin 32} {s : State} (ho : s.offers die.val fn.val slot.val 0x80 24 = true)
  (hr : s.ruled = true) (h1 : (s.readCmd die.val fn.val slot.val).at 1 1 = 0xFE)
include ho hr h1

theorem exec_linkStateSet : exec (.linkStateSet die fn slot) s =
    .next ((s.take (s.readCmd die.val fn.val slot.val)).linkSet (s.readCmd die.val fn.val slot.val)) := by
  refine congrArg Host.Outcome.next ((State.serve_passes ?_ ?_ (s.serves_always (by decide)) (by simp) (by simp) (fun _ => hr) (by simp)).trans
    (if_neg ?_))
  · exact (congrArg (fun n => s.offers die.val fn.val slot.val 0x80 n) (if_pos h1)).trans ho
  · simp [h1]
  · simp only [State.offers, Bool.and_eq_true, decide_eq_true_eq] at ho
    rw [linkBad, h1]
    simp
    omega

theorem linkSet_denied (hf : fn ≠ 0) : ∃ t, exec (.linkStateSet die fn slot) s = .next t ∧
    Answered s t die.val fn.val slot.val [(s.readCmd die.val fn.val slot.val).msg true stDenied []] := by
  refine ⟨_, exec_linkStateSet ho hr h1, ?_⟩
  have hfn : (s.readCmd die.val fn.val slot.val).fn ≠ 0 := fun h => hf (Fin.ext h)
  have hden : (s.take (s.readCmd die.val fn.val slot.val)).linkSet (s.readCmd die.val fn.val slot.val) =
      (s.take (s.readCmd die.val fn.val slot.val)).answer (s.readCmd die.val fn.val slot.val) stDenied := if_pos hfn
  rw [hden]
  exact State.answer_answered ..

end

/-- A set of LINK.STATE that is in range and takes down no die that a joined group uses (R323). -/
theorem State.linkSet_sets {s : State} {c : Cmd} {g : Nat → Nat} (hg : g = fun d => c.at (8 + d) 1) (hf : c.fn = 0) (hlo : 125 ≤ c.at 4 2)
    (hhi : c.at 4 2 ≤ 1250) (hm : ∀ m ∈ (List.range 16).map g, 1 ≤ m ∧ m ≤ 3)
    (hj : ∀ d, d < 16 → (s.link d).portCount ≠ g d → s.joinedOn d = false) :
    s.linkSet c = (({ s.setModes g (List.range 16) with timePriXor := BitVec.ofNat 8 (c.at 2 1) ^^^ 128#8, guardG := c.at 4 2 } : State).saveSettings
      ((List.range 16).map g) (BitVec.ofNat 8 (c.at 2 1)) (c.at 4 2)).answer c stOk := by
  subst hg
  unfold State.linkSet
  extract_lets a modes
  rw [if_neg (not_not.2 hf), if_neg, if_neg]
  · rfl
  · intro h
    rw [zipIdx_modes] at h
    obtain ⟨x, hx, hb⟩ := List.any_eq_true.1 h
    obtain ⟨d, hd, rfl⟩ := List.mem_map.1 hx
    rw [Bool.and_eq_true, bne_iff_ne] at hb
    rw [hj d (List.mem_range.1 hd) hb.1] at hb
    exact absurd hb.2 (by decide)
  · rintro (h | h | h)
    · omega
    · omega
    · rw [Bool.not_eq_true', List.all_eq_false] at h
      obtain ⟨m, hmm, hne⟩ := h
      exact hne (decide_eq_true (hm m hmm))

section
variable {die : Die} {fn : Fn} {slot : Fin 32} {s : State} (ho : s.offers die.val fn.val slot.val 0x80 24 = true)
  (hr : s.ruled = true) (h1 : (s.readCmd die.val fn.val slot.val).at 1 1 = 0xFE)
include ho hr h1

/-- A set takes G, the priority and the modes, keeps them on both flash devices and takes the ports of a changed die down (R323, R411). -/
theorem linkSet_sets {g : Nat → Nat} (hg : g = fun d => (s.readCmd die.val fn.val slot.val).at (8 + d) 1) (hf : fn = 0)
    (hlo : 125 ≤ (s.readCmd die.val fn.val slot.val).at 4 2) (hhi : (s.readCmd die.val fn.val slot.val).at 4 2 ≤ 1250)
    (hm : ∀ m ∈ (List.range 16).map g, 1 ≤ m ∧ m ≤ 3) (hj : ∀ d, d < 16 → (s.link d).portCount ≠ g d → s.joinedOn d = false) :
    let c := s.readCmd die.val fn.val slot.val
    let pri := BitVec.ofNat 8 (c.at 2 1)
    let k : LinkSettings :=
      { generation := match s.settings with | some k => k.generation + 1 | none => 1, modes := (List.range 16).map g, timePri := pri, g := c.at 4 2 }
    ∃ t, exec (.linkStateSet die fn slot) s = .next t ∧ Took s t die.val fn.val slot.val [c.msg true stOk []] ∧
      t.guardG = c.at 4 2 ∧ t.timePri = pri ∧ t.flashA = s.flashA.settle k ∧ t.flashB = s.flashB.settle k ∧
      (∀ d, d < 16 → (t.link d).portCount = g d) ∧
      (∀ d, d < 16 → (s.link d).portCount ≠ g d → ∀ n, (t.port d n).up = false) ∧
      ((∀ d, d < 16 → (s.link d).portCount = g d) → t =
        { s with windows := t.windows, leases := t.leases, flashA := t.flashA, flashB := t.flashB, guardG := t.guardG, timePriXor := t.timePriXor }) ∧
      t.cores = s.cores ∧ t.hbm = s.hbm ∧ t.fuses = s.fuses ∧ t.longs = s.longs := by
  intro c pri k
  have hset : (s.take c).linkSet c = _ := State.linkSet_sets (s := s.take c) (c := c) hg (congrArg Fin.val hf) hlo hhi hm hj
  refine ⟨_, (exec_linkStateSet ho hr h1).trans (congrArg Host.Outcome.next hset), ?_⟩
  have huf (fd : Fld) (h : fd ∉ [Fld.parts, .links, .faults, .faultSeq, .faultsLost, .freeCount]) :
      fd.of ((s.take c).setModes g (List.range 16)) = fd.of (s.take c) := State.setModes_of _ _ _ h
  have hsets := fun d (h : d < 16) => ((s.take c).setModes_sets (g := g) List.nodup_range
    (fun e he => (hm (g e) (List.mem_map_of_mem he)).1) d).2 (List.mem_range.2 h)
  have hsame (h : ∀ d, d < 16 → (s.link d).portCount = g d) : (s.take c).setModes g (List.range 16) = s.take c :=
    State.setModes_same fun d hd => h d (List.mem_range.1 hd)
  have hlink (d : Nat) : (s.take c).link d = s.link d := rfl
  have hdie : c.die = die.val ∧ c.fn = fn.val ∧ c.slot = slot.val := ⟨rfl, rfl, rfl⟩
  have htf (fd : Fld) (h : fd ∉ [Fld.windows, .leases]) : fd.of (s.take c) = fd.of s := State.take_of s c h
  simp only [hlink] at hsets
  generalize (s.take c).setModes g (List.range 16) = u at huf hsets hsame
  have hsettings : u.settings = s.settings := by
    unfold State.settings
    rw [show u.flashA = s.flashA from huf .flashA (by decide), show u.flashB = s.flashB from huf .flashB (by decide)]
  have hsave : ({ u with timePriXor := pri ^^^ 128#8, guardG := c.at 4 2 } : State).saveSettings ((List.range 16).map g) pri (c.at 4 2) =
      { u with timePriXor := pri ^^^ 128#8, guardG := c.at 4 2, flashA := u.flashA.settle k, flashB := u.flashB.settle k } := by
    unfold State.saveSettings
    rw [show ({ u with timePriXor := pri ^^^ 128#8, guardG := c.at 4 2 } : State).settings = s.settings from hsettings] <;> rfl
  rw [hsave]
  have hvf (fd : Fld) (h : fd ∉ [Fld.timePriXor, .guardG, .flashA, .flashB]) :
      fd.of ({ u with timePriXor := pri ^^^ 128#8, guardG := c.at 4 2, flashA := u.flashA.settle k, flashB := u.flashB.settle k } : State) =
        fd.of u := Fld.of_upd (L := [.timePriXor, .guardG, .flashA, .flashB]) rfl h
  have hv1 : ({ u with timePriXor := pri ^^^ 128#8, guardG := c.at 4 2, flashA := u.flashA.settle k, flashB := u.flashB.settle k } : State).guardG =
      c.at 4 2 := rfl
  have hv2 : ({ u with timePriXor := pri ^^^ 128#8, guardG := c.at 4 2, flashA := u.flashA.settle k, flashB := u.flashB.settle k } : State).timePriXor =
      pri ^^^ 128#8 := rfl
  have hv3 : ({ u with timePriXor := pri ^^^ 128#8, guardG := c.at 4 2, flashA := u.flashA.settle k, flashB := u.flashB.settle k } : State).flashA =
      s.flashA.settle k := congrArg (fun f : Flash => f.settle k) (huf .flashA (by decide))
  have hv4 : ({ u with timePriXor := pri ^^^ 128#8, guardG := c.at 4 2, flashA := u.flashA.settle k, flashB := u.flashB.settle k } : State).flashB =
      s.flashB.settle k := congrArg (fun f : Flash => f.settle k) (huf .flashB (by decide))
  generalize ({ u with timePriXor := pri ^^^ 128#8, guardG := c.at 4 2, flashA := u.flashA.settle k, flashB := u.flashB.settle k } : State) = v
    at hvf hv1 hv2 hv3 hv4
  have htook : Took s (v.answer c stOk) c.die c.fn c.slot [c.msg true stOk []] :=
    Took.answer (v := v) ((hvf .windows (by decide)).trans (huf .windows (by decide)))
      ((hvf .leases (by decide)).trans (huf .leases (by decide))) stOk []
  have hwf (fd : Fld) (h : fd ∉ [Fld.windows]) : fd.of (v.answer c stOk) = fd.of v := State.answer_of _ _ _ _ h
  generalize v.answer c stOk = w at htook hwf
  have hlinks : w.links = u.links := (hwf .links (by decide)).trans (hvf .links (by decide))
  have hws (fd : Fld) (h : fd ∉ [Fld.windows, .timePriXor, .guardG, .flashA, .flashB, .parts, .links, .faults, .faultSeq, .faultsLost, .freeCount,
      .leases]) : fd.of w = fd.of s := (hwf fd (Fld.not_mem h)).trans ((hvf fd (Fld.not_mem h)).trans ((huf fd (Fld.not_mem h)).trans
    (htf fd (Fld.not_mem h))))
  obtain ⟨hd1, hd2, hd3⟩ := hdie
  rw [← hd1, ← hd2, ← hd3]
  refine ⟨htook, (hwf .guardG (by decide)).trans hv1, ?_, (hwf .flashA (by decide)).trans hv3, (hwf .flashB (by decide)).trans hv4, fun d hd => ?_,
    fun d hd hne n => ?_, fun hall => ?_, hws .cores (by decide), hws .hbm (by decide), hws .fuses (by decide), hws .longs (by decide)⟩
  · rw [State.timePri, show w.timePriXor = pri ^^^ 128#8 from (hwf .timePriXor (by decide)).trans hv2]
    rw [BitVec.xor_assoc, BitVec.xor_self, BitVec.xor_zero]
  · rw [State.link, hlinks]
    exact (hsets d hd).1
  · rw [State.port, State.link, hlinks]
    exact (hsets d hd).2 hne n
  · have hu := hsame hall
    exact State.eq_patch [.windows, .leases, .flashA, .flashB, .guardG, .timePriXor] fun fd h => (hwf fd (Fld.not_mem h)).trans
      ((hvf fd (Fld.not_mem h)).trans ((congrArg fd.of hu).trans (htf fd (Fld.not_mem h))))

end

/-- Settles O23: the join and the leave of COLL.GROUP regroup a partition, the set of LINK.STATE goes die by die. -/
theorem linkCommands : Obligations.LinkCommands := by
  unfold Obligations.LinkCommands
  constructor
  · intro die fn slot s c p q b g frame hr hroom he hn h2
    refine ⟨fun ho h1 hold hok hres => ?_, fun ho h1 => leave_leaves hr hroom he hn h2 ho h1⟩
    obtain ⟨t, hexec, hframe, h1p, hpart, hver, hask⟩ := join_joins hr hroom he hn h2 rfl rfl ho h1 hold rfl hok hres
    exact ⟨t, hexec, hframe, h1p, hpart, hver, fun e he => (hask e he).mem⟩
  · intro die fn slot s c modes pri k ho hr h1
    exact ⟨fun hf => linkSet_denied ho hr h1 hf, fun hf hlo hhi hm hj => linkSet_sets ho hr h1 rfl hf hlo hhi hm hj⟩

end Sys2Proof.Machine
end

section
/-!
Admission (R17, R267) and FETCH (R255, R262, R265, R268, R334).
-/

namespace Sys2Proof.Machine

open Sys2Proof

/-! ## The place in the queue (R267) -/

theorem place_bounds (x : Request) (ahead i : Nat) (l : List Request) :
    i ≤ place x ahead i l ∧ place x ahead i l ≤ i + l.length ∧
      ∀ m z, l[m]? = some z → place x ahead i l ≤ i + m → z.prio < x.prio := by
  induction l generalizing ahead i with
  | nil => exact ⟨le_rfl, le_rfl, fun m z h => by simp at h⟩
  | cons r t ih =>
    rw [place]
    split
    next h =>
      rw [Bool.and_eq_true] at h
      exact ⟨le_rfl, by omega, fun m z hz _ => of_decide_eq_true (List.all_eq_true.1 h.1 z (List.mem_of_getElem? hz))⟩
    next =>
      obtain ⟨hlo, hhi, hprio⟩ := ih (r.planned ahead) (i + 1)
      refine ⟨by omega, by rw [List.length_cons]; omega, fun m z hz hm => ?_⟩
      cases m with
      | zero => omega
      | succ m => exact hprio m z hz (by omega)

/-- Settles O24: the decision admits only where its own promise and bound hold, at the place found. -/
theorem admissionPromise : Obligations.AdmissionPromise := by
  unfold Obligations.AdmissionPromise
  intro q x y n k hk h
  unfold PartState.decide at h
  extract_lets n' pe x' at h
  rw [hk] at h
  dsimp only at h
  split at h
  · cases h
  next hd =>
    split at h
    · cases h
    next hb =>
      obtain ⟨rfl, rfl⟩ := Prod.mk.inj (Except.ok.inj h)
      obtain ⟨-, hlen, hprio⟩ := place_bounds x q.headEnd 0 (q.queue.filter Request.waits)
      exact ⟨rfl, rfl, Nat.le_of_not_lt hd, Nat.lt_of_not_le hb, by simpa using hlen, fun m z hz hm => hprio m z hz (by simpa using hm)⟩

/-! ## FETCH -/

/-- A cluster that may wake and is asked for C0 is there or on its way (R334, R344). -/
theorem Cluster.wake_c0 (k : Cluster) (h : (k.wake .c0).mayWake = true) :
    (k.wake .c0).at .c0 = true ∨ (k.wake .c0).trans = some (.exit .c0) ∨ ∃ e, (k.wake .c0).trans = some (.enter e (some .c0)) := by
  rw [k.wake_mayWake] at h
  unfold Cluster.wake
  rw [if_pos h]
  split
  next e w _ => exact .inr (.inr ⟨e, rfl⟩)
  next e _ =>
    refine .inr (.inl (congrArg (fun x => some (Trans.exit x)) ?_))
    cases e <;> rfl
  next hn =>
    by_cases hd : CState.c0.depth < k.power.depth
    · exact .inr (.inl (by rw [if_pos hd]))
    · rw [if_neg hd]
      refine .inl ?_
      unfold Cluster.at
      rw [hn]
      cases hp : k.power <;> simp_all [CState.depth]

/-- The state as FETCH leaves it before its decision. -/
def State.fetched (s : State) (h p ring : Nat) (d : Desc) : State :=
  let s := ((s.tookTurn h p ring).modPart p fun q => { q with lastFetch := some (s.tick, h) }).modWindow h p fun w =>
    w.modRing ring fun r => { r with sqHead := r.sqHead + 1, openReqs := r.openReqs + 1 }
  if 1 < (topRules (s.matching h p d.cls)).length then { s with ambig := smod 0#32 (16 * h + p) (satAdd · 1) s.ambig } else s

theorem State.fetched_leaves (s : State) (h p ring : Nat) (d : Desc) :
    let t := s.fetched h p ring d
    (∀ fd : Fld, fd ∉ [Fld.fetchTurn, .parts, .windows, .ambig] → fd.of t = fd.of s) ∧ OneWindow s t h p ∧ OnePart s t p ∧
      t.part p = { s.part p with lastFetch := some (s.tick, h) } ∧
      t.window h p = (s.window h p).modRing ring (fun r => { r with sqHead := r.sqHead + 1, openReqs := r.openReqs + 1 }) ∧
      t.ambig = if 1 < (topRules (s.matching h p d.cls)).length then smod 0#32 (16 * h + p) (satAdd · 1) s.ambig else s.ambig := by
  intro t
  have ht : t = s.fetched h p ring d := rfl
  clear_value t
  unfold State.fetched at ht
  extract_lets a at ht
  have haf (fd : Fld) (hf : fd ∉ [Fld.fetchTurn, .parts, .windows]) : fd.of a = fd.of s :=
    (State.modWindow_of _ _ _ _ (Fld.not_mem hf)).trans ((State.modPart_of _ _ _ (Fld.not_mem hf)).trans (Fld.of_upd (L := [.fetchTurn]) rfl (Fld.not_mem hf)))
  have hw1 : OneWindow s a h p := State.modWindow_one ((s.tookTurn h p ring).modPart p fun q => { q with lastFetch := some (s.tick, h) }) h p _
  have hw : a.window h p = (s.window h p).modRing ring (fun r => { r with sqHead := r.sqHead + 1, openReqs := r.openReqs + 1 }) :=
    State.window_modWindow ..
  have hp1 : OnePart s a p := State.modPart_one (s.tookTurn h p ring) p fun q => { q with lastFetch := some (s.tick, h) }
  have hp : a.part p = { s.part p with lastFetch := some (s.tick, h) } := (s.tookTurn h p ring).part_modPart p fun q => { q with lastFetch := some (s.tick, h) }
  have hm : a.matching h p d.cls = s.matching h p d.cls := by
    unfold State.matching
    rw [show a.rules = s.rules from haf .rules (by decide)]
  have ham : a.ambig = s.ambig := haf .ambig (by decide)
  rw [hm] at ht
  clear_value a
  have htf (fd : Fld) (hf : fd ∉ [Fld.ambig]) : fd.of t = fd.of a := by
    rw [ht]
    split
    · exact Fld.of_upd (L := [.ambig]) rfl hf
    · rfl
  refine ⟨fun fd hf => (htf fd (Fld.not_mem hf)).trans (haf fd (Fld.not_mem hf)), fun k hk => ?_, fun k hk => ?_, ?_, ?_, ?_⟩
  · rw [show t.windows = a.windows from htf .windows (by decide)]
    exact hw1 k hk
  · rw [show t.parts = a.parts from htf .parts (by decide)]
    exact hp1 k hk
  · exact (State.part_congr (htf .parts (by decide)) p).trans hp
  · exact (State.window_congr (htf .windows (by decide)) h p).trans hw
  · rw [ht]
    split
    · exact congrArg (smod 0#32 (16 * h + p) (satAdd · 1)) ham
    · exact ham

/-- What a fetch decides is what it decides of the state before it took its turn. -/
theorem State.candidate_congr {s t : State} {p : Nat} {x : Option (Nat × Nat)}
    (hf : ∀ fd : Fld, fd ∉ [Fld.fetchTurn, .parts, .windows, .ambig] → fd.of t = fd.of s) (hp : t.part p = { s.part p with lastFetch := x })
    (h ring : Nat) (d : Desc) : t.candidate h p ring d = s.candidate h p ring d := by
  have h1 : t.rules = s.rules := hf .rules (by decide)
  have h2 : t.nextReq = s.nextReq := hf .nextReq (by decide)
  have h3 : t.stopped = s.stopped := by
    unfold State.stopped State.quiescing
    rw [show t.draining = s.draining from hf .draining (by decide), show t.cal = s.cal from hf .cal (by decide)]
  have h4 : t.tick = s.tick := congrArg BitVec.toNat (hf .et (by decide))
  have h5 : t.allowance = s.allowance := hf .allowance (by decide)
  unfold State.candidate State.matching
  rw [hp, h1, h2, h3, h4, h5]
  rfl

theorem State.letIn_leaves (s : State) (p n : Nat) (x : Request) :
    let t := s.letIn p n x
    let l := insertWaiting x n (s.part p).queue
    (∀ fd : Fld, fd ∉ [Fld.parts, .nextReq, .clusters] → fd.of t = fd.of s) ∧ t.nextReq = s.nextReq + 1 ∧ OnePart s t p ∧
      t.part p = { s.part p with queue := l
                                 stats := { (s.part p).stats with admitted := sat64 (s.part p).stats.admitted
                                                                  most := Nat.max (s.part p).stats.most l.length } } ∧
      (∀ c, c ∉ s.partClusters p → t.cluster c = s.cluster c) ∧
      ((s.part p).run.any (·.breathing.isSome) = true → t.clusters = s.clusters) ∧
      ((s.part p).run.any (·.breathing.isSome) = false → ∀ c ∈ s.partClusters p, (s.cluster c).mayWake = true →
        (t.cluster c).at .c0 = true ∨ (t.cluster c).trans = some (.exit .c0) ∨ ∃ e, (t.cluster c).trans = some (.enter e (some .c0))) := by
  intro t l
  have ht : t = s.letIn p n x := rfl
  clear_value t
  unfold State.letIn at ht
  extract_lets a b at ht
  have hap : a.part p = { s.part p with queue := l
                                        stats := { (s.part p).stats with admitted := sat64 (s.part p).stats.admitted
                                                                         most := Nat.max (s.part p).stats.most l.length } } :=
    State.part_modPart ..
  have ha1 : OnePart s a p := s.modPart_one p _
  have haf (fd : Fld) (h : fd ∉ [Fld.parts]) : fd.of a = fd.of s := State.modPart_of _ _ _ h
  have hbf (fd : Fld) (h : fd ∉ [Fld.nextReq]) : fd.of b = fd.of a := Fld.of_upd (L := [.nextReq]) rfl h
  have hbn : b.nextReq = s.nextReq + 1 := rfl
  have hbp : b.part p = a.part p := rfl
  clear_value a b
  have hrun : (b.part p).run = (s.part p).run := by rw [hbp, hap]
  have hcl : b.partClusters p = s.partClusters p := by rw [State.partClusters, hbp, hap]; rfl
  have hbc (c : Nat) : b.cluster c = s.cluster c := State.cluster_congr ((hbf .clusters (by decide)).trans (haf .clusters (by decide))) c
  rw [hrun, hcl] at ht
  have htf (fd : Fld) (h : fd ∉ [Fld.clusters]) : fd.of t = fd.of b := by
    rw [ht]
    split
    · rfl
    · exact State.wakeAll_of _ _ _ h
  have hparts : t.parts = a.parts := (htf .parts (by decide)).trans (hbf .parts (by decide))
  refine ⟨fun fd h => (htf fd (Fld.not_mem h)).trans ((hbf fd (Fld.not_mem h)).trans (haf fd (Fld.not_mem h))), (htf .nextReq (by decide)).trans hbn,
    fun k hk => ?_, ?_, fun c hc => ?_, fun hb => ?_, fun hb c hc hw => ?_⟩
  · rw [hparts]
    exact ha1 k hk
  · rw [State.part_congr hparts, hap]
  · rw [ht]
    split
    · exact hbc c
    · exact (State.cluster_eachCluster_out _ _ hc).trans (hbc c)
  · rw [ht, if_pos hb]
    exact (hbf .clusters (by decide)).trans (haf .clusters (by decide))
  · rw [ht, if_neg (by rw [hb]; decide)]
    refine b.cluster_eachCluster (g := (·.wake .c0)) (P := fun k => k.mayWake = true → k.at .c0 = true ∨ k.trans = some (.exit .c0) ∨
      ∃ e, k.trans = some (.enter e (some .c0))) Cluster.wake_c0 hc ?_
    rw [b.cluster_eachCluster_keeps (x := Cluster.mayWake) fun k => k.wake_mayWake .c0, hbc]
    exact hw

section
variable {die : Die} {fn : Fn} {ring : Fin 7} {desc : Bytes} {s : State}

theorem exec_fetch_idle (h : s.mayFetch die.val fn.val ring.val = false) : exec (.fetch die fn ring desc) s = .next s := by
  refine congrArg Host.Outcome.next (if_neg ?_)
  rw [h, Bool.false_and, Bool.false_and]
  decide

theorem exec_fetch (hm : s.mayFetch die.val fn.val ring.val = true) (ht : s.turnOf die.val fn.val ring.val = true)
    (hd : (s.part fn.val).dieOrder s.tick die.val = true) : exec (.fetch die fn ring desc) s = .next
      (match (s.fetched die.val fn.val ring.val (parseDesc desc)).candidate die.val fn.val ring.val (parseDesc desc) with
      | .error w => (s.fetched die.val fn.val ring.val (parseDesc desc)).shed die.val fn.val ring.val (parseDesc desc) w
      | .ok x => match ((s.fetched die.val fn.val ring.val (parseDesc desc)).part fn.val).decide x with
        | .error w => (s.fetched die.val fn.val ring.val (parseDesc desc)).shed die.val fn.val ring.val (parseDesc desc) w
        | .ok (n, x) => (s.fetched die.val fn.val ring.val (parseDesc desc)).letIn fn.val n x) :=
  congrArg Host.Outcome.next (if_pos (by rw [hm, ht, hd]; rfl))

end

theorem State.shed_leaves (s : State) (h p : Nat) (ring : Fin 7) (d : Desc) (w : Shed) :
    let t := s.shed h p ring.val d w
    (∀ fd : Fld, fd ∉ [Fld.parts, .windows] → fd.of t = fd.of s) ∧ OneWindow s t h p ∧ OnePart s t p ∧
      t.part p = { s.part p with stats := (s.part p).stats.shed w } ∧
      ∃ c : Compl, t.window h p = { s.window h p with compl := (s.window h p).compl ++ [c] } ∧ c.status = 0x21#8 ∧ c.reason = 0#8 ∧
        c.tag = d.tag ∧ c.ring = ring ∧ c.fetch = s.et ∧ c.ready = none ∧ c.start = none ∧ c.endAt = none := by
  intro t
  have ht : t = s.shed h p ring.val d w := rfl
  clear_value t
  unfold State.shed at ht
  extract_lets a c at ht
  have hap : a.part p = { s.part p with stats := (s.part p).stats.shed w } := State.part_modPart ..
  have ha1 : OnePart s a p := s.modPart_one p _
  have haf (fd : Fld) (h : fd ∉ [Fld.parts]) : fd.of a = fd.of s := State.modPart_of _ _ _ h
  have hc : c.status = 0x21#8 ∧ c.reason = 0#8 ∧ c.tag = d.tag ∧ c.ring = ring ∧ c.fetch = s.et ∧ c.ready = none ∧ c.start = none ∧
      c.endAt = none := ⟨rfl, rfl, rfl, Fin.ext (Nat.mod_eq_of_lt ring.isLt), rfl, rfl, rfl, rfl⟩
  clear_value a c
  subst ht
  refine ⟨fun fd hf => (State.modWindow_of _ _ _ _ (Fld.not_mem hf)).trans (haf fd (Fld.not_mem hf)), fun k hk => ?_, ha1, hap, c, ?_, hc⟩
  · rw [State.modWindow_one a h p _ k hk, show a.windows = s.windows from haf .windows (by decide)]
  · rw [State.window_modWindow, State.window_congr (haf .windows (by decide))]

/-- Settles O25: the decision is that of the state before the turn was taken, and both its outcomes touch one window and one partition. -/
theorem fetchDecides : Obligations.FetchDecides := by
  unfold Obligations.FetchDecides
  intro die fn ring desc s p q w r d last taken
  refine ⟨exec_fetch_idle, fun hm ht hd => ?_⟩
  obtain ⟨huf, huw1, hup1, hup, huw, hua⟩ := s.fetched_leaves die.val p ring.val d
  have hcand : (s.fetched die.val p ring.val d).candidate die.val p ring.val d = s.candidate die.val p ring.val d :=
    State.candidate_congr huf hup ..
  have hexec := exec_fetch (desc := desc) hm ht hd
  rw [hcand] at hexec
  generalize s.fetched die.val fn.val ring.val d = u at huf huw1 hup1 hup huw hua hexec
  have hdec (x : Request) : (u.part p).decide x = q.decide x := by rw [hup]; rfl
  have hring : (u.window die.val p).ring ring.val = { r with sqHead := r.sqHead + 1, openReqs := r.openReqs + 1 } := by
    rw [huw, Window.ring_modRing]
  have hrings (j : Nat) (hj : j ≠ ring.val) : (u.window die.val p).ring j = w.ring j := by
    rw [huw, Window.ring_modRing_ne _ _ hj]
  have hambig : sget 0#32 u.ambig (16 * die.val + p) = (if 1 < (topRules (s.matching die.val p d.cls)).length
      then satAdd (sget 0#32 s.ambig (16 * die.val + p)) 1 else sget 0#32 s.ambig (16 * die.val + p)) := by
    rw [hua]
    split
    · exact sget_smod_same ..
    · rfl
  have hambigs (k : Nat) (hk : k ≠ 16 * die.val + p) : sget 0#32 u.ambig k = sget 0#32 s.ambig k := by
    rw [hua]
    split
    · exact sget_smod_ne _ _ _ _ _ hk
    · rfl
  refine ⟨fun x n y hx hy => ?_, fun why hwhy => ?_⟩
  · intro l
    rw [hx] at hexec
    dsimp only at hexec
    rw [hdec, hy] at hexec
    refine ⟨_, hexec, ?_⟩
    have hclu (c : Nat) : u.cluster c = s.cluster c := State.cluster_congr (huf .clusters (by decide)) c
    have hucl : u.partClusters p = s.partClusters p := by rw [State.partClusters, hup]; rfl
    have hurun : (u.part p).run = q.run := by rw [hup]
    obtain ⟨hvf, hvn, hv1, hvp, hvout, hvkept, hvin⟩ := u.letIn_leaves p n y
    rw [hucl] at hvout hvin
    rw [hurun] at hvkept hvin
    have hwin (j k : Nat) : (u.letIn fn.val n y).window j k = u.window j k := State.window_congr (hvf .windows (by decide)) j k
    have hw : (u.letIn fn.val n y).windows = u.windows := hvf .windows (by decide)
    have ha : (u.letIn fn.val n y).ambig = u.ambig := hvf .ambig (by decide)
    refine ⟨⟨fun k hk => ?_, fun k hk => (hv1 k hk).trans (hup1 k hk), fun j hj => ?_, ?_, ?_, fun k hk => ?_⟩, ?_, ?_, ?_, fun c hc => ?_, fun hb => ?_,
      fun hb c hc hmay => ?_⟩
    · rw [hw]
      exact huw1 k hk
    · rw [hwin]
      exact hrings j hj
    · rw [hwin]
      exact hring
    · rw [ha]
      exact hambig
    · rw [ha]
      exact hambigs k hk
    · have hn : (u.letIn fn.val n y).nextReq = s.nextReq + 1 := hvn.trans (congrArg (· + 1) (huf .nextReq (by decide)))
      rw [← hn]
      exact State.eq_patch [.windows, .parts, .ambig, .clusters, .nextReq, .fetchTurn] fun fd h => (hvf fd (Fld.not_mem h)).trans
        (huf fd (Fld.not_mem h))
    · rw [hvp, hup]
    · rw [hwin, huw]
      rfl
    · exact (hvout c hc).trans (hclu c)
    · exact (hvkept hb).trans (huf .clusters (by decide))
    · exact hvin hb c hc (by rw [hclu]; exact hmay)
  · have hshed : exec (.fetch die fn ring desc) s = .next (u.shed die.val p ring.val d why) := by
      rcases hwhy with h | ⟨x, hx, hy⟩
      · rw [hexec, h]
      · rw [hexec, hx]
        dsimp only
        rw [hdec, hy]
    obtain ⟨hvf, hvw1, hvp1, hvp, c, hcw, hst, hre, htag, hri, hfe, hc⟩ := u.shed_leaves die.val p ring d why
    refine ⟨_, c, hshed, ?_⟩
    generalize u.shed die.val p ring.val d why = v at hvf hvw1 hvp1 hvp hcw
    have ha : v.ambig = u.ambig := hvf .ambig (by decide)
    refine ⟨⟨huw1.trans hvw1, fun k hk => (hvp1 k hk).trans (hup1 k hk), fun j hj => ?_, ?_, ?_, fun k hk => ?_⟩, ?_, ?_, ?_, hst, hre, htag, hri,
      hfe.trans (huf .et (by decide)), hc⟩
    · rw [hcw]
      exact hrings j hj
    · rw [hcw]
      exact hring
    · rw [ha]
      exact hambig
    · rw [ha]
      exact hambigs k hk
    · exact State.eq_patch [.windows, .parts, .ambig, .fetchTurn] fun fd h => (hvf fd (Fld.not_mem h)).trans (huf fd (Fld.not_mem h))
    · rw [hvp, hup]
    · rw [hcw, huw]
      rfl

end Sys2Proof.Machine
end

section
/-!
READY and INGRESS_TIMEOUT (R26, R256, R264).
-/

namespace Sys2Proof.Machine

open Sys2Proof

/-! ## Bytes written into a partition -/

/-- A write into a partition's granules leaves every byte that none of its offsets names. -/
theorem mread_relWrite_ne (r : PartRec) (off : Nat) (b : Bytes) (m : Mem) {a : Nat} (ha : ∀ i, i < b.length → r.ea (off + i) ≠ some a) :
    mread (relWrite r off b m) a = mread m a := by
  induction b generalizing off m with
  | nil => rfl
  | cons x b ih =>
    refine (ih (off + 1) _ fun i hi => ?_).trans ?_
    · rw [show off + 1 + i = off + (i + 1) by omega]
      exact ha (i + 1) (by rw [List.length_cons]; omega)
    · split
      next e he => exact mread_mwrite_ne _ _ _ _ fun h => ha 0 (by simp) (h ▸ he)
      next => rfl

/-! ## A queue that a request leaves -/

/-- An operation that leaves a partition's queue and counts as they are. -/
def QueueStats (p : Nat) (s t : State) : Prop := (t.part p).queue = (s.part p).queue ∧ (t.part p).stats = (s.part p).stats

theorem QueueStats.of_parts {p : Nat} {s t : State} (h : t.parts = s.parts) : QueueStats p s t := by
  rw [QueueStats, State.part_congr h]
  exact ⟨rfl, rfl⟩

theorem QueueStats.trans {p : Nat} {s t u : State} (a : QueueStats p s t) (b : QueueStats p t u) : QueueStats p s u :=
  ⟨b.1.trans a.1, b.2.trans a.2⟩

theorem QueueStats.modPart {p : Nat} (s : State) {f : PartState → PartState}
    (h : (f (s.part p)).queue = (s.part p).queue ∧ (f (s.part p)).stats = (s.part p).stats) : QueueStats p s (s.modPart p f) := by
  rw [QueueStats, State.part_modPart]
  exact h

theorem State.emptied_queueStats (s : State) (p : Nat) : QueueStats p s (s.emptied p) := by
  unfold State.emptied
  extract_lets q t
  have ht : QueueStats p s t := by
    dsimp only [t]
    split
    · exact .of_parts rfl
    · exact .modPart s ⟨rfl, rfl⟩
  split
  · split
    · refine ht.trans ((QueueStats.of_parts (State.enterAll_of (fd := .parts) t q.cfg.clusters q.parkTo (by decide))).trans ?_)
      unfold State.parkDone
      dsimp only
      split
      · exact .modPart _ ⟨rfl, rfl⟩
      · exact .of_parts rfl
    · exact ht
  · exact .of_parts rfl

/-- A request that leaves takes nothing else of the queue with it. -/
theorem State.dequeue_queue (s : State) (p id : Nat) : ((s.dequeue p id).part p).queue = (s.part p).queue.filter (fun x => x.id != id) ∧
    ((s.dequeue p id).part p).stats = (s.part p).stats := by
  have h : QueueStats p (s.modPart p fun q => { q with queue := q.queue.filter fun r => r.id != id }) (s.dequeue p id) :=
    (QueueStats.of_parts (State.rest_of (fd := .parts) _ p (by decide))).trans (State.emptied_queueStats _ p)
  rw [QueueStats, State.part_modPart] at h
  exact h

theorem Stats.done_retry (t : Stats) (f : Flags) : t.done 0x22#8 f false = { t with retry := sat32 t.retry } := rfl

/-- A completion of RETRY that a reset window discards is counted alone (R256). -/
theorem State.discarded_retry (s : State) {c : Compl} (ha : c.admitted = true) (hr : c.req = none) (hst : c.status = 0x22#8) :
    ((s.discarded c).part c.part.val).queue = (s.part c.part.val).queue ∧
      ((s.discarded c).part c.part.val).stats = { (s.part c.part.val).stats with retry := sat32 (s.part c.part.val).stats.retry } := by
  unfold State.discarded
  rw [hr]
  dsimp only
  rw [if_pos ha]
  obtain ⟨hq, hstats⟩ := State.emptied_queueStats
    (s.modPart c.part.val fun q => { q with stats := q.stats.done c.status c.flags (c.kept (c.finalReason s.tick q.braced)) }) c.part.val
  rw [hq, hstats, State.part_modPart]
  refine ⟨rfl, ?_⟩
  have hk (n : Nat) : c.kept n = false := by rw [Compl.kept, hst]; rfl
  dsimp only
  rw [hk, hst, Stats.done_retry]

/-! ## The obligation -/

theorem PartState.req?_id {q : PartState} {n : Nat} {r : Request} (h : q.req? n = some r) : r.id = n := by
  have := List.find?_some h
  simpa using this

/-- The completion of a request whose input came too late (R26). -/
def State.lateCompl (s : State) (p : Nat) (r : Request) : Compl :=
  { ring := r.ring, tag := r.tag, fetch := BitVec.ofNat 64 r.fetch, status := BitVec.ofNat 8 stRetry
    flags := { r.flags with elastic := (s.part p).elastic }, reason := BitVec.ofNat 8 rsHostLate, part := Fin.ofNat 16 p
    admitted := true }

theorem State.ingressLate_discards {s : State} {p : Nat} {r : Request} (h : r.discard = true) :
    s.ingressLate p r = (s.discarded (s.lateCompl p r)).dequeue p r.id := by
  unfold State.ingressLate
  extract_lets _ c t
  have ht : t = s.discarded c := if_pos h
  rw [ht]
  rfl

theorem State.ingressLate_records {s : State} {p : Nat} {r : Request} (h : r.discard = false) : s.ingressLate p r =
    (s.modWindow r.die.val r.fn.val fun w => { w with compl := w.compl ++ [s.lateCompl p r] }).dequeue p r.id := by
  unfold State.ingressLate
  extract_lets _ c t
  have ht : t = s.modWindow r.die.val r.fn.val fun w => { w with compl := w.compl ++ [c] } := if_neg (by rw [h]; decide)
  rw [ht]
  rfl

theorem State.ingressLate_local (s : State) (part : Part) (r : Request) : Local part.val s (s.ingressLate part.val r) := by
  by_cases h : r.discard = true
  · rw [State.ingressLate_discards h]
    exact (Local.discarded (by exact Nat.mod_eq_of_lt part.isLt)).trans (Local.dequeue _)
  · rw [State.ingressLate_records (Bool.eq_false_iff.2 h)]
    exact (Local.of_fields (State.modWindow_of (fd := .parts) s _ _ _ (by decide)) (State.modWindow_of (fd := .clusters) s _ _ _ (by decide))
      (State.modWindow_of (fd := .cores) s _ _ _ (by decide))).trans (Local.dequeue _)

section
variable {part : Part} {req : Nat} {r : Request} {s : State} (hr : (s.part part.val).req? req = some r) (hst : r.stage = .ingress)
include hr hst

theorem ready_lands (input : Bytes) {sIn : Nat} (hs : (match (s.part part.val).entryOf r with | some e => e.sIn | none => r.inLen) = sIn)
    (ht : s.tick ≤ r.fetch + r.i) (he : s.inE0 = true) : ∃ t, exec (.ready part req input) s = .next t ∧
      t = { s with hbm := relWrite (s.part part.val).cfg r.inBase (padTo sIn (padTo r.inLen input)) s.hbm, parts := t.parts } ∧
      OnePart s t part.val ∧ t.part part.val = { s.part part.val with
        queue := (s.part part.val).queue.map fun x => if x.id = r.id then { x with stage := .ready, readyAt := some s.et } else x } ∧
      (∀ a, (∀ i, i < sIn → (s.part part.val).cfg.ea (r.inBase + i) ≠ some a) → mread t.hbm a = mread s.hbm a) := by
  subst hs
  refine ⟨s.landInput part.val r input, ?_, ?_⟩
  · refine congrArg Host.Outcome.next ?_
    rw [hr]
    exact if_pos (by rw [hst, he, decide_eq_true ht]; rfl)
  · have hp1 : OnePart s (s.landInput part.val r input) part.val :=
      State.modPart_one { s with hbm := relWrite (s.part part.val).cfg r.inBase _ s.hbm } _ _
    refine ⟨rfl, hp1, State.part_modPart .., fun a ha => ?_⟩
    exact mread_relWrite_ne _ _ _ _ fun i hi => ha i (by rwa [padTo, length_slice] at hi)

theorem exec_ingressTimeout (ht : r.fetch + r.i ≤ s.tick) : exec (.ingressTimeout part req) s = .next (s.ingressLate part.val r) := by
  refine congrArg Host.Outcome.next ?_
  rw [hr]
  exact if_pos (by rw [hst, decide_eq_true ht]; rfl)

theorem ingressTimeout_retries (ht : r.fetch + r.i ≤ s.tick) : ∃ t, exec (.ingressTimeout part req) s = .next t ∧
    t = { s with windows := t.windows, parts := t.parts, clusters := t.clusters } ∧ OnePart s t part.val ∧
    (t.part part.val).queue = (s.part part.val).queue.filter (fun x => x.id != r.id) ∧
    (∀ c, c ∉ s.partClusters part.val → t.cluster c = s.cluster c) ∧
    (r.discard = false → (t.part part.val).stats = (s.part part.val).stats ∧ OneWindow s t r.die.val r.fn.val ∧ ∃ c,
      t.window r.die.val r.fn.val = { s.window r.die.val r.fn.val with compl := (s.window r.die.val r.fn.val).compl ++ [c] } ∧
      c.status = 0x22#8 ∧ c.reason = 5#8 ∧ c.tag = r.tag ∧ c.ring = r.ring) ∧
    (r.discard = true → t.windows = s.windows ∧
      (t.part part.val).stats = { (s.part part.val).stats with retry := sat32 (s.part part.val).stats.retry }) := by
  have hloc : Local part.val s (s.ingressLate part.val r) := s.ingressLate_local part r
  have hframe (fd : Fld) (h : fd ∉ [Fld.clusters, .windows, .parts]) : fd.of (s.ingressLate part.val r) = fd.of s := State.ingressLate_of _ _ _ h
  refine ⟨_, exec_ingressTimeout hr hst ht, State.eq_patch [.windows, .parts, .clusters] fun fd h => hframe fd (Fld.not_mem h), hloc.parts, ?_,
    hloc.clusters, fun h => ?_, fun h => ?_⟩
  · by_cases h : r.discard = true
    · rw [State.ingressLate_discards h, (State.dequeue_queue _ _ _).1]
      have hd := (s.discarded_retry (c := s.lateCompl part.val r) rfl rfl rfl).1
      have hp : (s.lateCompl part.val r).part.val = part.val := Nat.mod_eq_of_lt part.isLt
      rw [hp] at hd
      rw [hd]
    · rw [State.ingressLate_records (Bool.eq_false_iff.2 h), (State.dequeue_queue _ _ _).1]
      rfl
  · rw [State.ingressLate_records h]
    have hw : (State.dequeue (s.modWindow r.die.val r.fn.val fun w => { w with compl := w.compl ++ [s.lateCompl part.val r] }) part.val
        r.id).windows = (s.modWindow r.die.val r.fn.val fun w => { w with compl := w.compl ++ [s.lateCompl part.val r] }).windows :=
      State.dequeue_of (fd := .windows) _ _ _ (by decide)
    refine ⟨(State.dequeue_queue _ _ _).2, fun k hk => ?_, s.lateCompl part.val r, ?_, rfl, rfl, rfl, rfl⟩
    · rw [hw]
      exact State.modWindow_one s _ _ _ k hk
    · rw [State.window_congr hw, State.window_modWindow]
  · rw [State.ingressLate_discards h]
    have hd := (s.discarded_retry (c := s.lateCompl part.val r) rfl rfl rfl).2
    have hp : (s.lateCompl part.val r).part.val = part.val := Nat.mod_eq_of_lt part.isLt
    rw [hp] at hd
    refine ⟨(State.dequeue_of (fd := .windows) _ _ _ (by decide)).trans (State.discarded_of (fd := .windows) _ _ (by decide)), ?_⟩
    rw [(State.dequeue_queue _ _ _).2, hd]

end

/-- Settles O26. -/
theorem ingress : Obligations.Ingress := by
  unfold Obligations.Ingress
  intro part req input r s p q sIn hr hst
  exact ⟨fun ht he => ready_lands hr hst input rfl ht he, fun ht => ingressTimeout_retries hr hst ht⟩

end Sys2Proof.Machine
end

section
/-!
START and END of a run (R14, R80, R264, R314).
-/

namespace Sys2Proof.Machine

open Sys2Proof

/-! ## Cores, leases and held cells -/

theorem State.coreAt_eachOut (s : State) (f : Core → Core) {l : List Nat} {n : Nat} (h : n ∉ l) :
    (s.each l fun t n => t.modCore n f).coreAt n = s.coreAt n := by
  induction l generalizing s with
  | nil => rfl
  | cons a r ih =>
    exact (ih _ (List.not_mem_of_not_mem_cons h)).trans (State.coreAt_modCore_ne _ _ _ _ (List.ne_of_not_mem_cons h))

theorem State.coreAt_eachOnce (s : State) {f : Core → Core} (hf : ∀ k, f (f k) = f k) {l : List Nat} {n : Nat} (h : n ∈ l) :
    (s.each l fun t n => t.modCore n f).coreAt n = f (s.coreAt n) := by
  induction l generalizing s with
  | nil => exact absurd h List.not_mem_nil
  | cons a r ih =>
    have hstep : (s.each (a :: r) fun t n => t.modCore n f) = ((s.modCore a f).each r fun t n => t.modCore n f) := rfl
    rw [hstep]
    by_cases ha : n = a
    · subst ha
      by_cases hr : n ∈ r
      · rw [ih _ hr, State.coreAt_modCore, hf]
      · rw [State.coreAt_eachOut _ _ hr, State.coreAt_modCore]
    · rw [ih _ ((List.mem_cons.1 h).resolve_left ha), State.coreAt_modCore_ne _ _ _ _ ha]

/-- Leases of one kind granted by their index. -/
theorem State.lease_grantEach (s : State) (k : Nat) (tag : Nat → BitVec 16) {l : List Nat} {i : Nat}
    (h : i ∈ l ∨ s.lease k i = tag i) : (s.each l fun t i => t.grant k i (tag i)).lease k i = tag i := by
  induction l generalizing s with
  | nil => exact h.resolve_left List.not_mem_nil
  | cons a r ih =>
    refine ih _ ?_
    by_cases ha : i = a
    · subst ha
      exact .inr (s.lease_grant k i _)
    · rw [s.lease_grant_ne _ _ _ _ _ (by unfold leaseKey; omega)]
      exact h.imp_left fun hm => (List.mem_cons.1 hm).resolve_left ha

/-- A partition that gives back its leases of some kinds holds none of them (R14). -/
theorem State.lease_releasePart (s : State) {p k i : Nat} {kinds : List Nat} (hk : k ∈ kinds) (hi : i < 65536) :
    (s.releasePart p kinds).lease k i = 0x0FFF#16 ∨ ((s.releasePart p kinds).lease k i).toNat / 4096 ≠ p := by
  unfold State.lease State.releasePart
  dsimp only
  generalize s.leases = m
  induction m with
  | nil => exact .inl (by simp [sget, sfind?])
  | cons x r ih =>
    obtain ⟨j, v⟩ := x
    rw [List.filter_cons]
    split
    next hkeep =>
      by_cases hj : j = leaseKey k i
      · rw [sget, sfind?, if_pos hj]
        refine .inr fun hp => ?_
        have hdiv : j / 65536 = k := by rw [hj, leaseKey]; omega
        have htag : tagPart v = p := hp
        rw [htag, hdiv] at hkeep
        simp [hk] at hkeep
      · have hne : sget 0#16 ((j, v) :: r.filter fun x => !(tagPart x.2 == p && kinds.contains (x.1 / 65536))) (leaseKey k i) =
            sget 0#16 (r.filter fun x => !(tagPart x.2 == p && kinds.contains (x.1 / 65536))) (leaseKey k i) := by
          rw [sget, sfind?, if_neg hj]
          rfl
        have hsame : (sget 0#16 ((j, v) :: r.filter fun x => !(tagPart x.2 == p && kinds.contains (x.1 / 65536))) (leaseKey k i) ^^^ 0x0FFF#16) =
            0x0FFF#16 ∨ (sget 0#16 ((j, v) :: r.filter fun x => !(tagPart x.2 == p && kinds.contains (x.1 / 65536))) (leaseKey k i) ^^^ 0x0FFF#16).toNat
              / 4096 ≠ p := by
          rw [hne]
          exact ih
        exact hsame
    next => exact ih

/-- Every cell that a port still holds passes the test that kept it. -/
theorem State.keepHeld_held (s : State) {test : Nat → Nat → Port → RxCell → Bool} {d k : Nat} {x : RxCell}
    (hx : x ∈ ((s.keepHeld test).port d k).held) : ∃ o : Port, (s.keepHeld test).port d k = { o with held := o.held.filter (test d k o) } ∧
      test d k o x = true := by
  unfold State.port State.link State.keepHeld at hx ⊢
  dsimp only at hx ⊢
  rcases sget_smapAll ({} : LinkDie)
    (fun d l => { l with ports := smapAll {} (fun k o => { o with held := o.held.filter (test d k o) }) l.ports }) s.links d with h | ⟨l, h⟩
  · rw [h] at hx
    exact absurd hx List.not_mem_nil
  · rw [h] at hx ⊢
    dsimp only at hx ⊢
    rcases sget_smapAll ({} : Port) (fun k o => { o with held := o.held.filter (test d k o) }) l.ports k with hp | ⟨o, hp⟩
    · rw [hp] at hx
      exact absurd hx List.not_mem_nil
    · rw [hp] at hx ⊢
      exact ⟨o, rfl, (List.mem_filter.1 hx).2⟩

/-! ## START (R14, R80, R314) -/

theorem Core.startReset_twice (c : Core) (slot : Fin 4) (guarded : Bool) :
    (c.startReset slot guarded).startReset slot guarded = c.startReset slot guarded := rfl

/-- What START leaves of the cores, clusters, leases and fabric, before the run itself (R14, R80, R171). -/
def State.readied (s : State) (p : Nat) (l : Loaded) (first : Layer) : State :=
  let s := s.each (s.partCores p) fun t n => t.modCore n fun k => k.startReset first.slot first.guarded
  let cls := s.partClusters p
  let s := s.setGang p l.plan first.slot []
  let s : State := { s with flights := s.flights.filter (fun f => !cls.contains f.cl.val)
                            credits := s.credits.filter (fun f => !cls.contains f.cl.val)
                            coreEvents := s.coreEvents.filter (fun f => !cls.contains f.1.val) }
  s.each (s.part p).cfg.granules fun t g => t.grant 1 g (ownerTag p (0xF80 + granuleStack g))

theorem State.readied_leaves (s : State) (p : Nat) (l : Loaded) (first : Layer) :
    let t := s.readied p l first
    let cls := s.partClusters p
    (∀ fd : Fld, fd ∉ [Fld.cores, .clusters, .leases, .flights, .credits, .coreEvents] → fd.of t = fd.of s) ∧
      t.flights = s.flights.filter (fun f => !cls.contains f.cl.val) ∧ t.credits = s.credits.filter (fun f => !cls.contains f.cl.val) ∧
      t.coreEvents = s.coreEvents.filter (fun f => !cls.contains f.1.val) ∧
      (∀ n ∈ s.partCores p, t.coreAt n = (s.coreAt n).startReset first.slot first.guarded) ∧
      (∀ n, n ∉ s.partCores p → t.coreAt n = s.coreAt n) ∧ (∀ c, c ∉ cls → t.cluster c = s.cluster c) ∧
      ∀ g ∈ (s.part p).cfg.granules, t.lease 1 g = ownerTag p (0xF80 + granuleStack g) := by
  intro t cls
  have ht : t = s.readied p l first := rfl
  clear_value t
  unfold State.readied at ht
  generalize hcores : s.partCores p = cores at ht ⊢
  extract_lets a cls' b c at ht
  have haf (fd : Fld) (h : fd ∉ [Fld.cores]) : fd.of a = fd.of s := Fld.of_each _ fun _ _ => State.modCore_of _ _ _ h
  have hain (n : Nat) (h : n ∈ cores) : a.coreAt n = (s.coreAt n).startReset first.slot first.guarded :=
    s.coreAt_eachOnce (fun k => k.startReset_twice first.slot first.guarded) h
  have haout (n : Nat) (h : n ∉ cores) : a.coreAt n = s.coreAt n := s.coreAt_eachOut _ h
  have hcls : cls' = cls := congrArg (fun q : PartState => q.cfg.clusters) (State.part_congr (haf .parts (by decide)) p)
  have hbf (fd : Fld) (h : fd ∉ [Fld.clusters]) : fd.of b = fd.of a := State.setGang_of a p l.plan first.slot [] h
  have hbl : Local p a b := Local.eachCluster a _ fun _ h => h
  have hac (x : Nat) : a.cluster x = s.cluster x := State.cluster_congr (haf .clusters (by decide)) x
  have hbout (x : Nat) (h : x ∉ cls) : b.cluster x = s.cluster x := (hbl.clusters x (by rw [← hcls] at h; exact h)).trans (hac x)
  have hcf (fd : Fld) (h : fd ∉ [Fld.flights, .credits, .coreEvents]) : fd.of c = fd.of b :=
    Fld.of_upd (L := [.flights, .credits, .coreEvents]) rfl h
  have hbs (fd : Fld) (h : fd ∉ [Fld.clusters, .cores]) : fd.of b = fd.of s := (hbf fd (Fld.not_mem h)).trans (haf fd (Fld.not_mem h))
  have hc1 : c.flights = s.flights.filter (fun f => !cls.contains f.cl.val) := by
    rw [← hcls]
    exact congrArg _ (hbs .flights (by decide))
  have hc2 : c.credits = s.credits.filter (fun f => !cls.contains f.cl.val) := by
    rw [← hcls]
    exact congrArg _ (hbs .credits (by decide))
  have hc3 : c.coreEvents = s.coreEvents.filter (fun f => !cls.contains f.1.val) := by
    rw [← hcls]
    exact congrArg _ (hbs .coreEvents (by decide))
  have hcp : (c.part p).cfg.granules = (s.part p).cfg.granules :=
    congrArg (fun q : PartState => q.cfg.granules) (State.part_congr ((hcf .parts (by decide)).trans (hbs .parts (by decide))) p)
  clear_value a b c
  have htf (fd : Fld) (h : fd ∉ [Fld.leases]) : fd.of t = fd.of c := by
    rw [ht]
    exact Fld.of_each _ fun _ _ => State.grant_of _ _ _ _ h
  have htcore (n : Nat) : t.coreAt n = a.coreAt n :=
    State.coreAt_congr ((htf .cores (by decide)).trans ((hcf .cores (by decide)).trans (hbf .cores (by decide)))) n
  refine ⟨fun fd h => (htf fd (Fld.not_mem h)).trans ((hcf fd (Fld.not_mem h)).trans (hbs fd (Fld.not_mem h))), (htf .flights (by decide)).trans hc1,
    (htf .credits (by decide)).trans hc2, (htf .coreEvents (by decide)).trans hc3, fun n hn => (htcore n).trans (hain n hn),
    fun n hn => (htcore n).trans (haout n hn), fun x hx => ?_, fun g hg => ?_⟩
  · exact (State.cluster_congr ((htf .clusters (by decide)).trans (hcf .clusters (by decide))) x).trans (hbout x hx)
  · rw [ht, hcp]
    exact c.lease_grantEach 1 (fun g => ownerTag p (0xF80 + granuleStack g)) (.inl hg)

theorem State.part_modReq (s : State) (p id : Nat) (f : Request → Request) : (s.modReq p id f).part p =
    { s.part p with queue := (s.part p).queue.map fun r => if r.id = id then f r else r } := State.part_modPart ..

/-- The run that START begins. -/
theorem State.startRun_starts (s : State) (p : Nat) (r : Request) (l : Loaded) (e : Entry) (first : Layer) :
    let t := s.startRun p r l e first
    let q := s.part p
    (∀ fd : Fld, fd ∉ [Fld.parts, .links] → fd.of t = fd.of (s.readied p l first)) ∧ OnePart s t p ∧
      (t.part p).run = some { req := r.id, handle := q.bound.getD 0, entry := r.entry, layer := e.first, layerAt := s.now
                              flags := { linkRetry := s.resentFor p r.entry r.tag }
                              loads := match first.load with | some k => [(k, false)] | none => [] } ∧
      (∀ d k, ∀ x ∈ (t.port d k).held, q.heldFor p r.entry d k (t.port d k) x = true → x.cell.tag = r.tag) ∧
      (t.part p).queue = q.queue.map fun x => if x.id = r.id then
        { x with stage := .running, startAt := some s.et, flags := x.startFlags } else x := by
  intro t q
  have ht : t = s.startRun p r l e first := rfl
  clear_value t
  unfold State.startRun at ht
  extract_lets handle a cls b c u run w v at ht
  have hu : u = s.readied p l first := by
    unfold State.readied
    with_reducible rfl
  obtain ⟨huf, -⟩ := s.readied_leaves p l first
  rw [← hu] at huf ⊢
  clear_value u
  have hres : u.resentFor p r.entry r.tag = s.resentFor p r.entry r.tag := by
    unfold State.resentFor
    rw [show u.links = s.links from huf .links (by decide), State.part_congr (huf .parts (by decide))]
  have hup : u.part p = q := State.part_congr (huf .parts (by decide)) p
  have hun : u.now = s.now := huf .now (by decide)
  have hue : u.et = s.et := huf .et (by decide)
  have hu1 : u.parts = s.parts := huf .parts (by decide)
  have hvp : v.part p = { q with run := some run, queue := q.queue.map fun x => if x.id = r.id then
      { x with stage := .running, startAt := some s.et, flags := x.startFlags } else x } := by
    have hv : v.part p = { w.part p with queue := (w.part p).queue.map fun x => if x.id = r.id then
        { x with stage := .running, startAt := some w.et, flags := x.startFlags } else x } := State.part_modReq w p r.id _
    have hw : w.part p = { q with run := some run } := by
      rw [← hup]
      exact State.part_modPart u p _
    have hwe : w.et = s.et := hue
    rw [hv, hw, hwe]
  have hv1 : OnePart s v p := fun k hk => by
    rw [← hu1]
    exact (w.modPart_one p _ k hk).trans (u.modPart_one p _ k hk)
  have hvf (fd : Fld) (h : fd ∉ [Fld.parts]) : fd.of v = fd.of u := (State.modReq_of _ _ _ _ h).trans (State.modPart_of _ _ _ h)
  have hrun : run = { req := r.id, handle := q.bound.getD 0, entry := r.entry, layer := e.first, layerAt := s.now
                      flags := { linkRetry := s.resentFor p r.entry r.tag }
                      loads := match first.load with | some k => [(k, false)] | none => [] } :=
    congrArg₂ (fun n f => ({ run with layerAt := n, flags := { linkRetry := f } } : Run)) hun hres
  have hheld (d k : Nat) (o : Port) (x : RxCell) : (v.part p).heldFor p r.entry d k o x = q.heldFor p r.entry d k o x := by
    rw [hvp]
    rfl
  have htf (fd : Fld) (h : fd ∉ [Fld.links]) : fd.of t = fd.of v := by
    rw [ht]
    exact State.keepHeld_of _ _ h
  have htp : t.part p = v.part p := State.part_congr (htf .parts (by decide)) p
  refine ⟨fun fd h => (htf fd (Fld.not_mem h)).trans (hvf fd (Fld.not_mem h)), fun k hk => ?_, ?_, fun d k x hx hq => ?_, ?_⟩
  · rw [show t.parts = v.parts from htf .parts (by decide)]
    exact hv1 k hk
  · rw [htp, hvp, hrun]
  · rw [ht] at hx hq
    obtain ⟨o, ho, htest⟩ := State.keepHeld_held v hx
    rw [ho] at hq
    have hqo : q.heldFor p r.entry d k o x = true := hq
    rw [hheld, hqo, Bool.and_true, Bool.not_eq_true', bne_eq_false_iff_eq] at htest
    exact htest
  · rw [htp, hvp]

theorem exec_start {part : Part} {r : Request} {l : Loaded} {e : Entry} {first : Layer} {s : State} (hr : (s.part part.val).next? = some r)
    (hl : (s.part part.val).boundPlan = some l) (he : l.plan.entries[r.entry]? = some e) (hf : l.plan.layers[e.first]? = some first)
    (hs : s.canStart part.val r = true) : exec (.start part) s = .next (s.startRun part.val r l e first) := by
  refine congrArg Host.Outcome.next ?_
  rw [hr, hl]
  dsimp only
  rw [he]
  dsimp only
  rw [hf]
  exact if_pos hs

/-! ## END (R14, R188, R264) -/

/-- The run's leases and cores given up (R14). -/
def State.handedBack (s : State) (p : Nat) (run : Run) : State :=
  let s := s.abandonLoads p run
  let s := s.releasePart p [1, 2, 3]
  let s := s.each (s.partCores p) fun t n => t.modCore n fun k => { k with active := false }
  s.each (s.partClusters p) fun t c => t.modCluster c fun k => { k with ganged := false, gang := [], haltSeen := [] }

theorem State.mixSlot_coreAt_ne (s : State) {n m : Nat} (slot : Nat) (new : Slot) (w : Nat) (h : m ≠ n) :
    (s.mixSlot n slot new w).coreAt m = s.coreAt m := by
  induction w generalizing s with
  | zero => rfl
  | succ k ih =>
    unfold State.mixSlot
    extract_lets v t
    refine (ih t.drew).trans ?_
    have ht : t.coreAt m = s.coreAt m := by
      dsimp only [t]
      split
      · exact State.coreAt_modCore_ne _ _ _ _ h
      · rfl
    exact ht

/-- A load that is abandoned touches the slots of the partition's own logical cores (R188). -/
theorem State.abandonLoads_coreAt (s : State) (p : Nat) (run : Run) {n : Nat} (h : n ∉ s.partCores p) :
    (s.abandonLoads p run).coreAt n = s.coreAt n := by
  unfold State.abandonLoads
  split
  · rfl
  · refine (State.each_induct (P := fun t => t.coreAt n = s.coreAt n ∧ t.clusters = s.clusters ∧ t.parts = s.parts) ⟨rfl, rfl, rfl⟩
      fun t ht x _ => ?_).1
    split
    · exact ht
    · refine State.each_induct (P := fun t => t.coreAt n = s.coreAt n ∧ t.clusters = s.clusters ∧ t.parts = s.parts) ht fun u hu c hc => ?_
      refine State.each_induct (P := fun t => t.coreAt n = s.coreAt n ∧ t.clusters = s.clusters ∧ t.parts = s.parts) hu fun v hv lc hlc => ?_
      obtain ⟨hvn, hvc, hvp⟩ := hv
      refine ⟨Eq.trans (v.mixSlot_coreAt_ne _ _ _ ?_) hvn, (State.mixSlot_of (fd := .clusters) _ _ _ _ _ (by decide)).trans hvc,
        (State.mixSlot_of (fd := .parts) _ _ _ _ _ (by decide)).trans hvp⟩
      intro hn
      refine h (List.mem_flatMap.2 ⟨c, hc, List.mem_map.2 ⟨lc, hlc, ?_⟩⟩)
      rw [hn, State.lcore, State.lcore, State.cluster_congr hvc]

theorem State.handedBack_leaves (s : State) (p : Nat) (run : Run) :
    let t := s.handedBack p run
    (∀ fd : Fld, fd ∉ [Fld.cores, .clusters, .leases, .freeCount] → fd.of t = fd.of s) ∧
      (∀ n ∈ s.partCores p, (t.coreAt n).active = false) ∧ (∀ n, n ∉ s.partCores p → t.coreAt n = s.coreAt n) ∧
      (∀ c, c ∉ s.partClusters p → t.cluster c = s.cluster c) ∧
      ∀ k i, 1 ≤ k → k ≤ 3 → i < 65536 → t.lease k i = 0x0FFF#16 ∨ (t.lease k i).toNat / 4096 ≠ p := by
  intro t
  have ht : t = s.handedBack p run := rfl
  clear_value t
  unfold State.handedBack at ht
  extract_lets a b c at ht
  have haf (fd : Fld) (h : fd ∉ [Fld.cores, .freeCount]) : fd.of a = fd.of s := State.abandonLoads_of s p run h
  have haout (n : Nat) (h : n ∉ s.partCores p) : a.coreAt n = s.coreAt n := s.abandonLoads_coreAt p run h
  have hbf (fd : Fld) (h : fd ∉ [Fld.leases]) : fd.of b = fd.of a := State.releasePart_of _ _ _ h
  have hbl (k i : Nat) (h1 : 1 ≤ k) (h3 : k ≤ 3) (hi : i < 65536) : b.lease k i = 0x0FFF#16 ∨ (b.lease k i).toNat / 4096 ≠ p :=
    a.lease_releasePart (by simp; omega) hi
  have hclusters (x : Nat) : b.cluster x = s.cluster x := State.cluster_congr ((hbf .clusters (by decide)).trans (haf .clusters (by decide))) x
  have hparts : b.part p = s.part p := State.part_congr ((hbf .parts (by decide)).trans (haf .parts (by decide))) p
  have hcls : b.partClusters p = s.partClusters p := congrArg (fun q : PartState => q.cfg.clusters) hparts
  have hcores : b.partCores p = s.partCores p := by
    unfold State.partCores State.lcore
    rw [hcls]
    simp only [hclusters]
  have hbc (n : Nat) : b.coreAt n = a.coreAt n := State.coreAt_congr (hbf .cores (by decide)) n
  rw [show c = b.each (s.partCores p) fun t n => t.modCore n fun k => { k with active := false } by rw [← hcores]] at ht
  clear_value a b
  have hcf (fd : Fld) (h : fd ∉ [Fld.cores]) :
      fd.of (b.each (s.partCores p) fun t n => t.modCore n fun k => { k with active := false }) = fd.of b :=
    Fld.of_each _ fun _ _ => State.modCore_of _ _ _ h
  have hcin (n : Nat) (h : n ∈ s.partCores p) : ((b.each (s.partCores p) fun t n => t.modCore n fun k => { k with active := false }).coreAt n).active =
      false := by rw [b.coreAt_eachOnce (f := fun k => { k with active := false }) (fun _ => rfl) h]
  have hcout (n : Nat) (h : n ∉ s.partCores p) : (b.each (s.partCores p) fun t n => t.modCore n fun k => { k with active := false }).coreAt n =
      s.coreAt n := (b.coreAt_eachOut _ h).trans ((hbc n).trans (haout n h))
  clear c
  generalize (b.each (s.partCores p) fun t n => t.modCore n fun k => { k with active := false }) = c at ht hcf hcin hcout
  have hcc : c.partClusters p = s.partClusters p := congrArg (fun q : PartState => q.cfg.clusters)
    ((State.part_congr (hcf .parts (by decide)) p).trans hparts)
  rw [hcc] at ht
  have htf (fd : Fld) (h : fd ∉ [Fld.clusters]) : fd.of t = fd.of c := by
    rw [ht]
    exact Fld.of_each _ fun _ _ => State.modCluster_of _ _ _ h
  have htn (n : Nat) : t.coreAt n = c.coreAt n := State.coreAt_congr (htf .cores (by decide)) n
  refine ⟨fun fd h => (htf fd (Fld.not_mem h)).trans ((hcf fd (Fld.not_mem h)).trans ((hbf fd (Fld.not_mem h)).trans (haf fd (Fld.not_mem h)))),
    fun n hn => ?_, fun n hn => (htn n).trans (hcout n hn), fun x hx => ?_, fun k i h1 h3 hi => ?_⟩
  · rw [htn]
    exact hcin n hn
  · rw [ht]
    exact (State.cluster_eachCluster_out c _ hx).trans ((State.cluster_congr (hcf .clusters (by decide)) x).trans (hclusters x))
  · rw [State.lease, show t.leases = b.leases from (htf .leases (by decide)).trans (hcf .leases (by decide))]
    exact hbl k i h1 h3 hi

/-- Requests of a queue whose waiting ones may be marked as delayed. -/
theorem State.markDelay_queue (s : State) (p : Nat) (late : Bool) (f : Flags) :
    (s.markDelay p late f).part p = { s.part p with queue := (s.part p).queue.map fun r =>
      if r.waits then { r with delay := if late then some (s.tick, f) else none } else r } := State.part_modPart ..

theorem State.markDelay_ids (s : State) (p : Nat) (late : Bool) (f : Flags) :
    ((s.markDelay p late f).part p).queue.map (·.id) = (s.part p).queue.map (·.id) ∧
      ∀ y ∈ ((s.markDelay p late f).part p).queue, ∃ x ∈ (s.part p).queue, y.id = x.id ∧ y.stage = x.stage ∧ y.endAt = x.endAt := by
  rw [s.markDelay_queue]
  refine ⟨?_, fun y hy => ?_⟩
  · rw [List.map_map]
    refine List.map_congr_left fun x _ => ?_
    rw [Function.comp]
    split <;> rfl
  · obtain ⟨x, hx, rfl⟩ := List.mem_map.1 hy
    refine ⟨x, hx, ?_⟩
    split <;> exact ⟨rfl, rfl, rfl⟩

/-- After a run the clusters alone change (R332, R364). -/
theorem State.afterRun_leaves (s : State) (p : Nat) : (∀ fd : Fld, fd ∉ [Fld.clusters] → fd.of (s.afterRun p) = fd.of s) ∧
    ∀ c, c ∉ s.partClusters p → (s.afterRun p).cluster c = s.cluster c :=
  ⟨fun _ h => State.afterRun_of _ _ h, (Local.afterRun : Local p s _).clusters⟩

/-- What END leaves (R14, R264). -/
theorem State.endOfRun_ends (s : State) (p : Nat) (run : Run) :
    let t := s.endOfRun p run
    let q := s.part p
    (∀ fd : Fld, fd ∉ [Fld.cores, .clusters, .parts, .leases, .freeCount] → fd.of t = fd.of s) ∧ OnePart s t p ∧
      t.part p = { q with run := none, queue := (t.part p).queue } ∧ (t.part p).queue.map (·.id) = q.queue.map (·.id) ∧
      (∀ y ∈ (t.part p).queue, y.id = run.req → y.stage = .egress ∧ y.endAt = some s.et) ∧
      (∀ n ∈ s.partCores p, (t.coreAt n).active = false) ∧ (∀ n, n ∉ s.partCores p → t.coreAt n = s.coreAt n) ∧
      (∀ c, c ∉ s.partClusters p → t.cluster c = s.cluster c) ∧
      ∀ k i, 1 ≤ k → k ≤ 3 → i < 65536 → t.lease k i = 0x0FFF#16 ∨ (t.lease k i).toNat / 4096 ≠ p := by
  intro t q
  have ht : t = s.endOfRun p run := rfl
  clear_value t
  unfold State.endOfRun at ht
  extract_lets a b c u v w x at ht
  have hu : u = s.handedBack p run := by
    unfold State.handedBack
    with_reducible rfl
  obtain ⟨huf, hin, hout, hcl, hlease⟩ := s.handedBack_leaves p run
  rw [← hu] at huf hin hout hcl hlease
  clear_value u
  have hup : u.part p = q := State.part_congr (huf .parts (by decide)) p
  have hvf (fd : Fld) (h : fd ∉ [Fld.parts]) : fd.of v = fd.of u := State.modPart_of _ _ _ h
  have hwf (fd : Fld) (h : fd ∉ [Fld.parts]) : fd.of w = fd.of u := (State.modReq_of _ _ _ _ h).trans (hvf fd h)
  have hve : v.et = s.et := (hvf .et (by decide)).trans (huf .et (by decide))
  have hvp : v.part p = { q with run := none } := by
    rw [← hup]
    exact State.part_modPart u p _
  have hwp : w.part p = { q with run := none, queue := q.queue.map fun x => if x.id = run.req then
      { x with stage := .egress, endAt := some s.et, flags := x.flags.or run.flags } else x } := by
    have h : w.part p = { v.part p with queue := (v.part p).queue.map fun x => if x.id = run.req then
      { x with stage := .egress, endAt := some v.et, flags := x.flags.or run.flags } else x } := State.part_modReq v p run.req _
    rw [h, hvp, hve]
  have hw1 : OnePart s w p := fun k hk => by
    rw [← show u.parts = s.parts from huf .parts (by decide)]
    exact (v.modPart_one p _ k hk).trans (u.modPart_one p _ k hk)
  clear_value v w
  have hxf (fd : Fld) (h : fd ∉ [Fld.parts]) : fd.of x = fd.of w := by
    dsimp only [x]
    split
    · exact State.markDelay_of _ _ _ _ h
    · rfl
  have hx1 : OnePart s x p := fun k hk => by
    rw [← hw1 k hk]
    dsimp only [x]
    split
    · exact w.modPart_one p _ k hk
    · rfl
  have hxp : x.part p = { w.part p with queue := (x.part p).queue } := by
    dsimp only [x]
    split
    · rw [w.markDelay_queue]
    · rfl
  have hxq : (x.part p).queue.map (·.id) = (w.part p).queue.map (·.id) ∧
      ∀ y ∈ (x.part p).queue, ∃ z ∈ (w.part p).queue, y.id = z.id ∧ y.stage = z.stage ∧ y.endAt = z.endAt := by
    dsimp only [x]
    split
    · exact w.markDelay_ids p _ _
    · exact ⟨rfl, fun y hy => ⟨y, hy, rfl, rfl, rfl⟩⟩
  clear_value x
  obtain ⟨htf, htcl⟩ := x.afterRun_leaves p
  rw [← ht] at htf htcl
  have htp : t.part p = x.part p := State.part_congr (htf .parts (by decide)) p
  have hxcl : x.partClusters p = s.partClusters p := by
    rw [State.partClusters, hxp, hwp]
    rfl
  have htu (fd : Fld) (h : fd ∉ [Fld.clusters, .parts]) : fd.of t = fd.of u :=
    (htf fd (Fld.not_mem h)).trans ((hxf fd (Fld.not_mem h)).trans (hwf fd (Fld.not_mem h)))
  have htn (n : Nat) : t.coreAt n = u.coreAt n := State.coreAt_congr (htu .cores (by decide)) n
  refine ⟨fun fd h => (htu fd (Fld.not_mem h)).trans (huf fd (Fld.not_mem h)), fun k hk => ?_, ?_, ?_, fun y hy hid => ?_, fun n hn => ?_, fun n hn => ?_,
    fun c hc => ?_, fun k i h1 h3 hi => ?_⟩
  · rw [show t.parts = x.parts from htf .parts (by decide)]
    exact hx1 k hk
  · rw [htp, hxp, hwp]
  · rw [htp, hxq.1, hwp]
    simp only [List.map_map]
    refine List.map_congr_left fun y _ => ?_
    rw [Function.comp]
    split <;> rfl
  · rw [htp] at hy
    obtain ⟨z, hz, hi, hs, he⟩ := hxq.2 y hy
    rw [hwp] at hz
    obtain ⟨z', -, rfl⟩ := List.mem_map.1 hz
    rw [hs, he]
    by_cases hq : z'.id = run.req
    · rw [if_pos hq]
      exact ⟨rfl, rfl⟩
    · rw [if_neg hq] at hi
      exact absurd (hi.symm.trans hid) hq
  · rw [htn]
    exact hin n hn
  · rw [htn]
    exact hout n hn
  · rw [htcl c (hxcl ▸ hc), State.cluster_congr ((hxf .clusters (by decide)).trans (hwf .clusters (by decide)))]
    exact hcl c hc
  · rw [State.lease, show t.leases = u.leases from htu .leases (by decide)]
    exact hlease k i h1 h3 hi

theorem exec_endRun {part : Part} {run : Run} {s : State} {d : Nat} (hr : (s.part part.val).run = some run)
    (he : (s.part part.val).runEnded run = true) (ho : s.onEdge = true) (hs : run.stop = none) (hl : run.layerEnd = some d) (hd : d ≤ s.now) :
    exec (.endRun part) s = .next (s.endOfRun part.val run) := by
  refine congrArg Host.Outcome.next ?_
  rw [hr]
  dsimp only
  rw [hl]
  exact if_pos (by rw [he, ho, hs]; exact decide_eq_true hd)

/-- Settles O27: START readies the partition and begins its run, END hands back what the run held. -/
theorem runs : Obligations.Runs := by
  unfold Obligations.Runs
  constructor
  · intro part r l e first s p q cls hr hl he hf hs
    obtain ⟨huf, hfl, hcr, hev, hin, hout, hcl, hlease⟩ := s.readied_leaves p l first
    obtain ⟨htf, h1, hrun, hheld, hqueue⟩ := s.startRun_starts p r l e first
    refine ⟨_, exec_start hr hl he hf hs, ?_⟩
    generalize s.startRun part.val r l e first = t at htf h1 hrun hheld hqueue
    generalize s.readied p l first = u at huf hfl hcr hev hin hout hcl hlease htf
    have htn (n : Nat) : t.coreAt n = u.coreAt n := State.coreAt_congr (htf .cores (by decide)) n
    refine ⟨?_, h1, hrun, fun n hn => (htn n).trans (hin n hn), fun n hn => (htn n).trans (hout n hn),
      fun c hc => (State.cluster_congr (htf .clusters (by decide)) c).trans (hcl c hc), fun g hg => ?_, hheld, hqueue⟩
    · rw [← show t.flights = _ from (htf .flights (by decide)).trans hfl, ← show t.credits = _ from (htf .credits (by decide)).trans hcr,
        ← show t.coreEvents = _ from (htf .coreEvents (by decide)).trans hev]
      exact State.eq_patch [.parts, .cores, .clusters, .leases, .links, .flights, .credits, .coreEvents] fun fd h =>
        (htf fd (Fld.not_mem h)).trans (huf fd (Fld.not_mem h))
    · rw [State.lease, show t.leases = u.leases from htf .leases (by decide)]
      exact hlease g hg
  · intro part run at' s p q hr he ho hs hl hd
    obtain ⟨hf, h⟩ := s.endOfRun_ends p run
    exact ⟨_, exec_endRun hr he ho hs hl hd, State.eq_patch [.parts, .cores, .clusters, .leases, .freeCount] fun fd h => hf fd (Fld.not_mem h), h⟩

end Sys2Proof.Machine
end

section
/-!
Egress and completion records (R258, R259, R264, R271, R276).
-/

namespace Sys2Proof.Machine

open Sys2Proof

/-! ## Bytes read and written -/

theorem State.length_relRead (s : State) (r : PartRec) (off n : Nat) : (s.relRead r off n).length = n := by
  induction n generalizing off with
  | zero => rfl
  | succ n ih => rw [State.relRead, List.length_cons, ih]

/-! ## Single-bit errors (R276) -/

theorem State.stack_modStack_ne (s : State) {m k : Nat} (f : HbmStack → HbmStack) (h : k ≠ m) : (s.modStack m f).stack k = s.stack k :=
  sget_smod_ne _ _ _ _ _ h

theorem State.stack_log (s : State) (code : Nat) (part cluster core : Option Nat) (die pup detail k : Nat) :
    (s.log code part cluster core die pup detail).stack k = s.stack k := rfl

/-- One corrected error counts at its stack and at no other. -/
theorem State.hbmSingle_corrected (s : State) (ea m : Nat) : ((s.hbmSingle ea).stack m).corrected =
    (s.stack m).corrected + if granuleStack (granuleOf ea) = m then 1 else 0 := by
  unfold State.hbmSingle
  extract_lets g k u
  have hu : (u.stack m).corrected = (s.stack m).corrected + if g = m then 1 else 0 := by
    by_cases h : g = m
    · rw [if_pos h, ← h, State.stack_modStack]
    · rw [if_neg h, State.stack_modStack_ne _ _ fun e => h e.symm]
      rfl
  clear_value u
  split
  · rw [← hu, State.stack_log]
    by_cases h : m = g
    · rw [h, State.stack_modStack]
    · rw [State.stack_modStack_ne _ _ h]
  · exact hu

theorem State.hbmEach_corrected (s : State) (l : List Nat) (m : Nat) : ((s.each l State.hbmSingle).stack m).corrected =
    (s.stack m).corrected + (l.filter fun a => granuleStack (granuleOf a) == m).length := by
  induction l generalizing s with
  | nil => rfl
  | cons a r ih =>
    refine (ih (s.hbmSingle a)).trans ?_
    rw [s.hbmSingle_corrected]
    by_cases h : granuleStack (granuleOf a) = m
    · rw [if_pos h, List.filter_cons_of_pos (by simp [h]), List.length_cons]
      omega
    · rw [if_neg h, List.filter_cons_of_neg (by simp [h])]
      omega

/-! ## A request that closes (R265) -/

/-- The completion of a request that closes. -/
def State.closing (s : State) (p : Nat) (r : Request) (status reason : Nat) (flags : Flags) : Compl :=
  { ring := r.ring, tag := r.tag, fetch := BitVec.ofNat 64 r.fetch, ready := r.readyAt, start := r.startAt
    endAt := r.endAt, status := BitVec.ofNat 8 status, flags := { flags with elastic := (s.part p).elastic }
    reason := BitVec.ofNat 8 reason, part := Fin.ofNat 16 p, admitted := true, req := some r.id, finishing := r.finishing
    bounds := some (r.e, r.p, r.promise, r.deadline) }

theorem State.close_discards {s : State} {r : Request} (h : r.discard = true) (p st reason : Nat) (flags : Flags) :
    s.close p r st reason flags = s.discarded (s.closing p r st reason flags) := if_pos h

theorem State.close_records {s : State} {r : Request} (h : r.discard = false) (p st reason : Nat) (flags : Flags) :
    s.close p r st reason flags = (s.modReq p r.id fun x => { x with stage := .closing }).modWindow r.die.val r.fn.val fun w =>
      { w with compl := w.compl ++ [s.closing p r st reason flags] } := if_neg (by rw [h]; decide)

/-- What a request that closes leaves in its window and its partition. -/
theorem State.close_recorded {s : State} {r : Request} (h : r.discard = false) (p st reason : Nat) (flags : Flags) :
    let t := s.close p r st reason flags
    (∀ fd : Fld, fd ∉ [Fld.windows, .parts] → fd.of t = fd.of s) ∧ OneWindow s t r.die.val r.fn.val ∧
      t.part p = { s.part p with queue := (s.part p).queue.map fun x => if x.id = r.id then { x with stage := .closing } else x } ∧
      t.window r.die.val r.fn.val = { s.window r.die.val r.fn.val with
        compl := (s.window r.die.val r.fn.val).compl ++ [s.closing p r st reason flags] } := by
  intro t
  have ht : t = _ := State.close_records h p st reason flags
  clear_value t
  have hp := s.part_modReq p r.id fun x => { x with stage := .closing }
  have hf (fd : Fld) (h : fd ∉ [Fld.parts]) : fd.of (s.modReq p r.id fun x => { x with stage := .closing }) = fd.of s := State.modReq_of _ _ _ _ h
  generalize s.modReq p r.id _ = u at ht hp hf
  subst ht
  refine ⟨fun fd h => (State.modWindow_of _ _ _ _ (Fld.not_mem h)).trans (hf fd (Fld.not_mem h)), fun k hk => ?_, hp, ?_⟩
  · rw [State.modWindow_one u _ _ _ k hk, show u.windows = s.windows from hf .windows (by decide)]
  · rw [State.window_modWindow, State.window_congr (hf .windows (by decide))]

/-- A request whose window was reset leaves the queue at once. -/
theorem State.close_discarded {s : State} {r : Request} (h : r.discard = true) {p : Nat} (hp : p < 16) (st reason : Nat) (flags : Flags) :
    let t := s.close p r st reason flags
    t.windows = s.windows ∧ (t.part p).queue = (s.part p).queue.filter fun x => x.id != r.id := by
  intro t
  have ht : t = _ := State.close_discards h p st reason flags
  clear_value t
  subst ht
  refine ⟨State.discarded_of (fd := .windows) _ _ (by decide), ?_⟩
  have hc : (s.closing p r st reason flags).part.val = p := Nat.mod_eq_of_lt hp
  unfold State.discarded
  rw [hc]
  extract_lets p' u
  have hu : (u.part p).queue = (s.part p).queue := by
    have hadm : u = s.modPart p _ := if_pos rfl
    rw [hadm, State.part_modPart]
  rw [← hu]
  exact (u.dequeue_queue p r.id).1

/-! ## Egress (R264) -/

/-- The bytes that egress writes to the host, and the single-bit errors it corrects. -/
def State.egressed (s : State) (p : Nat) (r : Request) (singles : List Nat) (b : Bytes) : State :=
  (s.hbmSingles (s.part p).cfg.granules singles).hostWrite r.die.val r.outAddr b

theorem State.egressed_leaves (s : State) (p : Nat) (r : Request) (singles : List Nat) {b : Bytes} (hb : b.length = r.outLen) :
    let base := 18446744073709551616 * r.die.val + r.outAddr
    let found := singles.filter fun a => (s.part p).cfg.granules.contains (granuleOf a)
    let t := s.egressed p r singles b
    (∀ fd : Fld, fd ∉ [Fld.hostMem, .hbmStacks, .faults, .faultSeq, .faultsLost] → fd.of t = fd.of s) ∧
      (∀ a, (a < base ∨ base + r.outLen ≤ a) → mread t.hostMem a = mread s.hostMem a) ∧
      (∀ i, i < r.outLen → mread t.hostMem (base + i) = b.getD i 0#8) ∧
      (∀ m, (t.stack m).corrected = (s.stack m).corrected + (found.filter fun a => granuleStack (granuleOf a) == m).length) ∧
      (found = [] → t.faults = s.faults ∧ t.hbmStacks = s.hbmStacks) := by
  intro base found t
  have ht : t = s.egressed p r singles b := rfl
  clear_value t
  unfold State.egressed at ht
  have huf (fd : Fld) (h : fd ∉ [Fld.hbmStacks, .faults, .faultSeq, .faultsLost]) :
      fd.of (s.hbmSingles (s.part p).cfg.granules singles) = fd.of s := State.hbmSingles_of _ _ _ h
  have hcor (m : Nat) : ((s.hbmSingles (s.part p).cfg.granules singles).stack m).corrected =
      (s.stack m).corrected + (found.filter fun a => granuleStack (granuleOf a) == m).length := s.hbmEach_corrected found m
  have hnone (h : found = []) : s.hbmSingles (s.part p).cfg.granules singles = s := by
    rw [State.hbmSingles, show singles.filter (fun a => (s.part p).cfg.granules.contains (granuleOf a)) = [] from h]
    rfl
  generalize s.hbmSingles (s.part p).cfg.granules singles = u at ht huf hcor hnone
  have htf (fd : Fld) (h : fd ∉ [Fld.hostMem]) : fd.of t = fd.of u := by
    rw [ht]
    exact State.hostWrite_of _ _ _ _ h
  have hm : t.hostMem = mwrites base b s.hostMem := by
    rw [ht, ← show u.hostMem = s.hostMem from huf .hostMem (by decide)]
    rfl
  refine ⟨fun fd h => (htf fd (Fld.not_mem h)).trans (huf fd (Fld.not_mem h)), fun a ha => ?_, fun i hi => ?_, fun m => ?_, fun h => ⟨?_, ?_⟩⟩
  · rw [hm]
    exact mread_mwrites_out _ _ _ _ (by rw [hb]; exact ha)
  · rw [hm]
    have hi' : i < b.length := by rwa [hb]
    exact (mread_mwrites_in _ _ _ _ hi').trans (List.getD_eq_getElem _ _ hi').symm
  · rw [State.stack, show t.hbmStacks = u.hbmStacks from htf .hbmStacks (by decide)]
    exact hcor m
  · rw [show t.faults = u.faults from htf .faults (by decide), hnone h]
  · rw [show t.hbmStacks = u.hbmStacks from htf .hbmStacks (by decide), hnone h]

section
variable {part : Part} {req : Nat} {r : Request} {s : State} (hr : (s.part part.val).req? req = some r) (hst : r.stage = .egress)
  (hs : s.supply = .up)
include hr hst hs

theorem exec_egress (singles : List Nat) : exec (.egressComplete part req ⟨none, singles⟩) s =
    .next ((s.egressed part.val r singles (s.relRead (s.part part.val).cfg r.outBase r.outLen)).close part.val r stOk 0 r.flags) := by
  refine congrArg Host.Outcome.next ?_
  rw [hr]
  refine (if_pos (by rw [hst, hs]; rfl)).trans ?_
  dsimp only
  rw [State.egress, State.egressed]
  have huf (fd : Fld) (h : fd ∉ [Fld.hbmStacks, .faults, .faultSeq, .faultsLost]) :
      fd.of (s.hbmSingles (s.part part.val).cfg.granules singles) = fd.of s := State.hbmSingles_of _ _ _ h
  rw [State.relRead_congr (huf .hbm (by decide)), State.part_congr (huf .parts (by decide))]

theorem exec_egressFault (line : Nat) (singles : List Nat) : ∃ b : Bytes, b.length = r.outLen ∧
    exec (.egressComplete part req ⟨some line, singles⟩) s = .next (((State.close
      { s.egressed part.val r singles b with freeCount := (s.egressed part.val r singles b).freeCount + r.outLen }
        part.val r stFaulted 0 r.flags).faulted part.val).hbmDouble (some part.val) line 2) := by
  refine ⟨(s.hbmSingles (s.part part.val).cfg.granules singles).freeBytes r.outLen, by simp [State.freeBytes], congrArg Host.Outcome.next ?_⟩
  rw [hr]
  exact if_pos (by rw [hst, hs]; rfl)

/-- Egress without a double-bit error: OK (R264). -/
theorem egress_completes (singles : List Nat) :
    let q := s.part part.val
    let base := 18446744073709551616 * r.die.val + r.outAddr
    let w := s.window r.die.val r.fn.val
    let found := singles.filter fun a => q.cfg.granules.contains (granuleOf a)
    ∃ t, exec (.egressComplete part req ⟨none, singles⟩) s = .next t ∧
      (∀ a, (a < base ∨ base + r.outLen ≤ a) → mread t.hostMem a = mread s.hostMem a) ∧ OnePart s t part.val ∧
      t = { s with hostMem := t.hostMem, windows := t.windows, parts := t.parts, clusters := t.clusters, hbmStacks := t.hbmStacks
                   faults := t.faults, faultSeq := t.faultSeq, faultsLost := t.faultsLost } ∧
      (∀ i, i < r.outLen → mread t.hostMem (base + i) = (s.relRead q.cfg r.outBase r.outLen).getD i 0#8) ∧
      (∀ m, (t.stack m).corrected = (s.stack m).corrected + (found.filter fun a => granuleStack (granuleOf a) == m).length) ∧
      (found = [] → t.faults = s.faults ∧ t.hbmStacks = s.hbmStacks) ∧
      (r.discard = false → OneWindow s t r.die.val r.fn.val ∧ t.clusters = s.clusters ∧
        t.part part.val = { q with queue := q.queue.map fun x => if x.id = r.id then { x with stage := .closing } else x } ∧
        ∃ c, t.window r.die.val r.fn.val = { w with compl := w.compl ++ [c] } ∧ c.status = 0#8 ∧ c.reason = 0#8 ∧ c.tag = r.tag ∧
          c.ring = r.ring ∧ c.fetch = BitVec.ofNat 64 r.fetch ∧ c.ready = r.readyAt ∧ c.start = r.startAt ∧ c.endAt = r.endAt ∧
          c.flags = { r.flags with elastic := q.elastic } ∧ c.req = some r.id) ∧
      (r.discard = true → t.windows = s.windows ∧ (t.part part.val).queue = q.queue.filter fun x => x.id != r.id) := by
  intro q base w found
  refine ⟨_, exec_egress hr hst hs singles, ?_⟩
  obtain ⟨huf, hout, hin, hcor, hnone⟩ := s.egressed_leaves part.val r singles (s.length_relRead q.cfg r.outBase r.outLen)
  generalize s.egressed part.val r singles (s.relRead (s.part part.val).cfg r.outBase r.outLen) = u at huf hout hin hcor hnone
  have hup : u.part part.val = q := State.part_congr (huf .parts (by decide)) _
  have huw : u.window r.die.val r.fn.val = w := State.window_congr (huf .windows (by decide)) _ _
  have hrec := fun h => u.close_recorded (r := r) h part.val stOk 0 r.flags
  have hdis := fun h => u.close_discarded (r := r) h part.isLt stOk 0 r.flags
  have hloc : Local part.val u (u.close part.val r stOk 0 r.flags) := Local.close r stOk 0 r.flags
  have htf (fd : Fld) (h : fd ∉ [Fld.clusters, .windows, .parts]) : fd.of (u.close part.val r stOk 0 r.flags) = fd.of u := State.close_of _ _ _ _ _ _ h
  generalize u.close part.val r stOk 0 r.flags = t at hrec hdis hloc htf
  have hm : t.hostMem = u.hostMem := htf .hostMem (by decide)
  have hst : t.hbmStacks = u.hbmStacks := htf .hbmStacks (by decide)
  refine ⟨fun a ha => ?_, fun k hk => ?_, ?_, fun i hi => ?_, fun m => ?_, fun h => ?_, fun h => ?_, fun h => ?_⟩
  · rw [hm]
    exact hout a ha
  · rw [hloc.parts k hk, show u.parts = s.parts from huf .parts (by decide)]
  · exact State.eq_patch [.hostMem, .windows, .parts, .clusters, .hbmStacks, .faults, .faultSeq, .faultsLost] fun fd h =>
      (htf fd (Fld.not_mem h)).trans (huf fd (Fld.not_mem h))
  · rw [hm]
    exact hin i hi
  · rw [State.stack, hst]
    exact hcor m
  · rw [hst, show t.faults = u.faults from htf .faults (by decide)]
    exact hnone h
  · obtain ⟨hf, h1, hp, hw⟩ := hrec h
    refine ⟨fun k hk => ?_, (hf .clusters (by decide)).trans (huf .clusters (by decide)), ?_, u.closing part.val r stOk 0 r.flags, ?_, rfl, rfl, rfl,
      rfl, rfl, rfl, rfl, rfl, ?_, rfl⟩
    · rw [h1 k hk, show u.windows = s.windows from huf .windows (by decide)]
    · rw [hp, hup]
    · rw [hw, huw]
    · rw [State.closing, hup]
  · obtain ⟨hw, hq⟩ := hdis h
    rw [hw, hq, hup]
    exact ⟨huf .windows (by decide), rfl⟩

/-- Egress that a double-bit error ends: FAULTED (R276). -/
theorem egress_faults (line : Nat) (singles : List Nat) (hd : r.discard = false) :
    let base := 18446744073709551616 * r.die.val + r.outAddr
    let w := s.window r.die.val r.fn.val
    ∃ t c, exec (.egressComplete part req ⟨some line, singles⟩) s = .next t ∧
      (∀ a, (a < base ∨ base + r.outLen ≤ a) → mread t.hostMem a = mread s.hostMem a) ∧
      (t.window r.die.val r.fn.val).compl = w.compl ++ [c] ∧ c.status = 0x20#8 ∧ c.tag = r.tag ∧
      t.opFaulted = s.opFaulted ||| BitVec.ofNat 16 (2 ^ part.val) ∧ (∃ x ∈ t.faults, x.code = 0x0104#16) ∧ t.hbm = s.hbm ∧
      t.cores = s.cores := by
  intro base w
  obtain ⟨b, hb, hexec⟩ := exec_egressFault hr hst hs line singles
  obtain ⟨huf, hout, -⟩ := s.egressed_leaves part.val r singles hb
  generalize s.egressed part.val r singles b = u at huf hout hexec
  have hvf (fd : Fld) (h : fd ∉ [Fld.freeCount]) : fd.of { u with freeCount := u.freeCount + r.outLen } = fd.of u :=
    Fld.of_upd (L := [.freeCount]) rfl h
  generalize ({ u with freeCount := u.freeCount + r.outLen } : State) = v at hvf hexec
  have hrec := v.close_recorded hd part.val stFaulted 0 r.flags
  obtain ⟨hwf, -, -, hww⟩ := hrec
  have hc1 : (v.closing part.val r stFaulted 0 r.flags).status = 0x20#8 := rfl
  have hc2 : (v.closing part.val r stFaulted 0 r.flags).tag = r.tag := rfl
  generalize v.close part.val r stFaulted 0 r.flags = x at hexec hwf hww
  generalize v.closing part.val r stFaulted 0 r.flags = c at hww hc1 hc2
  have hyf (fd : Fld) (h : fd ∉ [Fld.windows, .opFaulted]) : fd.of (x.faulted part.val) = fd.of x := State.faulted_of _ _ h
  have hyo := x.faulted_opFaulted part.val
  have hyw := (x.faulted_queued part.val).window r.die.val r.fn.val
  generalize x.faulted part.val = y at hexec hyf hyo hyw
  have hzf (fd : Fld) (h : fd ∉ [Fld.faults, .faultSeq, .faultsLost]) : fd.of (y.hbmDouble (some part.val) line 2) = fd.of y :=
    State.hbmDouble_of _ _ _ _ h
  have hlog : ∃ x ∈ (y.hbmDouble (some part.val) line 2).faults, x.code = 0x0104#16 := State.log_mem _ 0x0104 ..
  generalize y.hbmDouble (some part.val) line 2 = z at hexec hzf hlog
  have hframe (fd : Fld) (h : fd ∉ [Fld.faults, .faultSeq, .faultsLost, .windows, .opFaulted, .parts, .freeCount, .hostMem, .hbmStacks]) :
      fd.of z = fd.of s := (hzf fd (Fld.not_mem h)).trans ((hyf fd (Fld.not_mem h)).trans ((hwf fd (Fld.not_mem h)).trans
    ((hvf fd (Fld.not_mem h)).trans (huf fd (Fld.not_mem h)))))
  have hm : z.hostMem = u.hostMem := (hzf .hostMem (by decide)).trans ((hyf .hostMem (by decide)).trans ((hwf .hostMem (by decide)).trans
    (hvf .hostMem (by decide))))
  have hvw : v.window r.die.val r.fn.val = w :=
    State.window_congr ((hvf .windows (by decide)).trans (huf .windows (by decide))) _ _
  refine ⟨z, c, hexec, fun a ha => ?_, ?_, hc1, hc2, ?_, hlog, hframe .hbm (by decide), hframe .cores (by decide)⟩
  · rw [hm]
    exact hout a ha
  · rw [State.window_congr (hzf .windows (by decide)), hyw, hww, hvw]
  · rw [show z.opFaulted = y.opFaulted from hzf .opFaulted (by decide), hyo]
    exact congrArg (· ||| BitVec.ofNat 16 (2 ^ part.val)) ((hwf .opFaulted (by decide)).trans ((hvf .opFaulted (by decide)).trans
      (huf .opFaulted (by decide))))

end

/-! ## Completion records (R258, R259, R271) -/

theorem Compl.length_bytes (c : Compl) (et : BitVec 64) (reason : Nat) (phase : Bool) : (c.bytes et reason phase).length = 32 := by
  simp only [Compl.bytes, List.length_append, length_toLe, leBytes]

/-- A record written whole at the tail of its ring, which moves on by one. -/
def State.recorded (s : State) (h f : Nat) (c : Compl) : State :=
  let r := (s.window h f).ring c.ring.val
  let reason := c.finalReason s.tick (s.part c.part.val).braced
  let phase := r.cqTail.toNat / 2 ^ r.cqLog2.toNat % 2 == 0
  let s := s.hostWrite h (r.cqBase.toNat + 32 * (r.cqTail.toNat % 2 ^ r.cqLog2.toNat)) (c.bytes s.et reason phase)
  s.modWindow h f fun w =>
    let w := { w with compl := w.compl.erase c }
    let w := w.modRing c.ring.val fun r => { r with cqTail := r.cqTail + 1, openReqs := r.openReqs - 1 }
    if r.irqEn then w.signal (c.ring.val + 1) else w

theorem State.recorded_leaves (s : State) (h f : Nat) (c : Compl) :
    let t := s.recorded h f c
    let w := s.window h f
    let r := w.ring c.ring.val
    let base := 18446744073709551616 * h + r.cqBase.toNat + 32 * (r.cqTail.toNat % 2 ^ r.cqLog2.toNat)
    let phase := r.cqTail.toNat / 2 ^ r.cqLog2.toNat % 2 == 0
    let reason := c.finalReason s.tick (s.part c.part.val).braced
    (∀ fd : Fld, fd ∉ [Fld.hostMem, .windows] → fd.of t = fd.of s) ∧ OneWindow s t h f ∧
      t.window h f = { w with compl := w.compl.erase c, rings := (t.window h f).rings, vectors := (t.window h f).vectors } ∧
      (∀ j, j ≠ c.ring.val → (t.window h f).ring j = w.ring j) ∧
      (t.window h f).ring c.ring.val = { r with cqTail := r.cqTail + 1, openReqs := r.openReqs - 1 } ∧
      (r.irqEn = true → (sget {} (t.window h f).vectors (c.ring.val + 1)).outstanding = true) ∧
      (∀ a, (a < base ∨ base + 32 ≤ a) → mread t.hostMem a = mread s.hostMem a) ∧
      (∀ i, i < 32 → mread t.hostMem (base + i) = (c.bytes s.et reason phase).getD i 0#8) := by
  intro t w r base phase reason
  have ht : t = s.recorded h f c := rfl
  clear_value t
  have hm : t.hostMem = mwrites base (c.bytes s.et reason phase) s.hostMem := by
    rw [ht, show base = 18446744073709551616 * h + (r.cqBase.toNat + 32 * (r.cqTail.toNat % 2 ^ r.cqLog2.toNat)) from Nat.add_assoc ..]
    rfl
  have hlen := c.length_bytes s.et reason phase
  unfold State.recorded at ht
  extract_lets r' phase' u at ht
  have huf (fd : Fld) (h : fd ∉ [Fld.hostMem]) : fd.of u = fd.of s := State.hostWrite_of _ _ _ _ h
  clear_value u
  have hw : t.window h f = if r.irqEn then (({ w with compl := w.compl.erase c } : Window).modRing c.ring.val fun r =>
      { r with cqTail := r.cqTail + 1, openReqs := r.openReqs - 1 }).signal (c.ring.val + 1) else
      ({ w with compl := w.compl.erase c } : Window).modRing c.ring.val fun r => { r with cqTail := r.cqTail + 1, openReqs := r.openReqs - 1 } := by
    rw [ht, State.window_modWindow, State.window_congr (huf .windows (by decide))]
  have h1 : OneWindow s t h f := fun k hk => by
    rw [ht, State.modWindow_one u h f _ k hk, show u.windows = s.windows from huf .windows (by decide)]
  have hwr : ({ w with compl := w.compl.erase c } : Window).modRing c.ring.val (fun r => { r with cqTail := r.cqTail + 1, openReqs := r.openReqs - 1 }) =
      { w with compl := w.compl.erase c, rings := (({ w with compl := w.compl.erase c } : Window).modRing c.ring.val fun r =>
        { r with cqTail := r.cqTail + 1, openReqs := r.openReqs - 1 }).rings } := rfl
  have hring := ({ w with compl := w.compl.erase c } : Window).ring_modRing c.ring.val fun r =>
    { r with cqTail := r.cqTail + 1, openReqs := r.openReqs - 1 }
  have hrings := fun j (hj : j ≠ c.ring.val) => ({ w with compl := w.compl.erase c } : Window).ring_modRing_ne (fun r =>
    { r with cqTail := r.cqTail + 1, openReqs := r.openReqs - 1 }) hj
  generalize ({ w with compl := w.compl.erase c } : Window).modRing c.ring.val (fun r =>
    { r with cqTail := r.cqTail + 1, openReqs := r.openReqs - 1 }) = x at hw hwr hring hrings
  have hsig := x.signal_eq (c.ring.val + 1)
  have hrr : (t.window h f).rings = x.rings := by
    rw [hw]
    split
    · rw [hsig]
    · rfl
  have hrj (j : Nat) : (t.window h f).ring j = x.ring j := by rw [Window.ring, hrr, Window.ring]
  refine ⟨fun fd hfd => ?_, h1, ?_, fun j hj => (hrj j).trans (hrings j hj), (hrj _).trans hring, fun hi => ?_, fun a ha => ?_, fun i hi => ?_⟩
  · rw [ht]
    exact (State.modWindow_of _ _ _ _ (Fld.not_mem hfd)).trans (huf fd (Fld.not_mem hfd))
  · rw [hrr, hw]
    split
    · rw [hsig, hwr]
    · rw [hwr]
  · rw [hw, if_pos hi]
    exact x.signal_outstanding _
  · rw [hm]
    exact mread_mwrites_out _ _ _ _ (by rw [hlen]; exact ha)
  · rw [hm]
    have hi' : i < (c.bytes s.et reason phase).length := by rwa [hlen]
    exact (mread_mwrites_in _ _ _ _ hi').trans (List.getD_eq_getElem _ _ hi').symm

theorem State.writeRecord_eq (s : State) (h f : Nat) (c : Compl) : s.writeRecord h f c =
    if (s.recorded h f c).taken c.part.val then
      let u := (s.recorded h f c).modPart c.part.val fun q =>
        { q with stats := q.stats.done c.status c.flags (c.kept (c.finalReason s.tick (s.part c.part.val).braced))
                 braced := q.braced && c.finalReason s.tick (s.part c.part.val).braced != rsBraced }
      match c.req with
      | some id => u.dequeue c.part.val id
      | none => u.emptied c.part.val
    else s.recorded h f c := rfl

/-- A record that is written is counted, and ends its request (R270, R271). -/
theorem State.writeRecord_writes (s : State) (h f : Nat) (c : Compl) :
    let t := s.writeRecord h f c
    let u := s.recorded h f c
    let q := s.part c.part.val
    (∀ fd : Fld, fd ∉ [Fld.clusters, .parts] → fd.of t = fd.of u) ∧ OnePart s t c.part.val ∧
      (s.taken c.part.val = true → (t.part c.part.val).stats = q.stats.done c.status c.flags (c.kept (c.finalReason s.tick q.braced)) ∧
        (∀ id, c.req = some id → (t.part c.part.val).queue = q.queue.filter fun x => x.id != id) ∧
        (c.req = none → (t.part c.part.val).queue = q.queue)) := by
  intro t u q
  have ht : t = _ := s.writeRecord_eq h f c
  clear_value t
  have hu : u = s.recorded h f c := rfl
  rw [← hu] at ht
  obtain ⟨huf, -⟩ := s.recorded_leaves h f c
  rw [← hu] at huf
  clear_value u
  have hparts : u.parts = s.parts := huf .parts (by decide)
  have hup : u.part c.part.val = q := State.part_congr hparts _
  have htaken : u.taken c.part.val = s.taken c.part.val := by rw [State.taken, hup]; rfl
  rw [htaken] at ht
  by_cases hk : s.taken c.part.val = true
  case neg =>
    rw [if_neg hk] at ht
    subst ht
    exact ⟨fun _ _ => rfl, fun k _ => by rw [hparts], fun h => absurd h hk⟩
  case pos =>
    rw [if_pos hk] at ht
    dsimp only at ht
    have hvp := u.part_modPart c.part.val fun q =>
      { q with stats := q.stats.done c.status c.flags (c.kept (c.finalReason s.tick (s.part c.part.val).braced))
               braced := q.braced && c.finalReason s.tick (s.part c.part.val).braced != rsBraced }
    have hv1 := u.modPart_one c.part.val fun q =>
      { q with stats := q.stats.done c.status c.flags (c.kept (c.finalReason s.tick (s.part c.part.val).braced))
               braced := q.braced && c.finalReason s.tick (s.part c.part.val).braced != rsBraced }
    have hvf (fd : Fld) (h : fd ∉ [Fld.parts]) : fd.of (u.modPart c.part.val fun q =>
      { q with stats := q.stats.done c.status c.flags (c.kept (c.finalReason s.tick (s.part c.part.val).braced))
               braced := q.braced && c.finalReason s.tick (s.part c.part.val).braced != rsBraced }) = fd.of u := State.modPart_of _ _ _ h
    rw [hup] at hvp
    generalize (u.modPart c.part.val _) = v at ht hvp hv1 hvf
    have hv1' : OnePart s v c.part.val := fun k hk => by rw [hv1 k hk, hparts]
    have hvq : (v.part c.part.val).queue = q.queue := by rw [hvp]
    have hvs : (v.part c.part.val).stats = q.stats.done c.status c.flags (c.kept (c.finalReason s.tick q.braced)) := by rw [hvp]
    cases hreq : c.req with
    | some id =>
      rw [hreq] at ht
      dsimp only at ht
      subst ht
      obtain ⟨hq, hs⟩ := v.dequeue_queue c.part.val id
      refine ⟨fun fd h => (State.dequeue_of _ _ _ (Fld.not_mem h)).trans (hvf fd (Fld.not_mem h)), fun k hk => ?_, fun _ => ⟨hs.trans hvs,
        fun i hi => ?_, fun hn => absurd hn (by simp)⟩⟩
      · exact ((Local.dequeue id : Local c.part.val v _).parts k hk).trans (hv1' k hk)
      · cases hi
        rw [hq, hvq]
    | none =>
      rw [hreq] at ht
      dsimp only at ht
      subst ht
      obtain ⟨hq, hs⟩ := v.emptied_queueStats c.part.val
      refine ⟨fun fd h => (State.emptied_of _ _ (Fld.not_mem h)).trans (hvf fd (Fld.not_mem h)), fun k hk => ?_, fun _ => ⟨hs.trans hvs,
        fun i hi => absurd hi (by simp), fun _ => hq.trans hvq⟩⟩
      exact ((Local.emptied : Local c.part.val v _).parts k hk).trans (hv1' k hk)

/-- Settles O28: egress writes before its request closes, a record is written before it is counted. -/
theorem egressAndRecord : Obligations.EgressAndRecord := by
  unfold Obligations.EgressAndRecord
  constructor
  · intro part req r line singles s p q base w found outside hr hst hs
    exact ⟨egress_completes hr hst hs singles, fun hd => egress_faults hr hst hs line singles hd⟩
  · intro die fn ring c s w r q base phase reason hc hs
    have hring : c.ring = ring := by simpa using List.find?_some hc
    refine ⟨fun he hroom => ?_, fun hfull => congrArg Host.Outcome.next ?_⟩
    · refine ⟨s.writeRecord die.val fn.val c, congrArg Host.Outcome.next ?_, ?_⟩
      · rw [hc]
        exact if_pos (by rw [hs, bne_iff_ne.2 he]; exact decide_eq_true hroom)
      · obtain ⟨huf, hw1, hw, hrings, hr, hirq, hout, hin⟩ := s.recorded_leaves die.val fn.val c
        obtain ⟨htf, h1, hcount⟩ := s.writeRecord_writes die.val fn.val c
        generalize s.writeRecord die.val fn.val c = t at htf h1 hcount
        generalize s.recorded die.val fn.val c = u at huf hw1 hw hrings hr hirq hout hin htf
        have htw : t.windows = u.windows := htf .windows (by decide)
        have htm : t.hostMem = u.hostMem := htf .hostMem (by decide)
        rw [hring] at hrings hr hirq hout hin
        rw [← State.window_congr htw] at hw hr hirq
        simp only [← State.window_congr htw] at hrings
        refine ⟨State.eq_patch [.hostMem, .windows, .parts, .clusters] fun fd h => (htf fd (Fld.not_mem h)).trans (huf fd (Fld.not_mem h)),
          fun k hk => ?_, h1, hw, hrings, hr, hirq, ?_, ?_, hcount⟩
        · rw [htw]
          exact hw1 k hk
        · rw [htm]
          exact hout
        · rw [htm]
          exact hin
    · rw [hc]
      refine if_neg fun h => ?_
      rw [Bool.and_eq_true, decide_eq_true_eq] at h
      exact absurd h.2 (Nat.not_lt.2 hfull)

end Sys2Proof.Machine
end

section
/-!
LOOP, WAIT and HALT, and the errors of the word store (R55, R77, R161).
-/

namespace Sys2Proof.Machine

open Sys2Proof

/-! ## What a run that is taken away leaves in its cores (R376) -/

/-- A core over the strings: nothing issues or lands after (R376). -/
def Core.stopped (k : Core) (now : Nat) : Core :=
  { k with active := false, halted := k.halted || k.active, pipe := [], chan := [], hold := none, waitEnd := none, haltAt := none
           late := match k.hold with | some h => if 4096 ≤ h.count then some (now, h.kind) else k.late | none => k.late }

/-- A relation of cores that halting them and the loss of their loads respect. -/
structure Core.Halting (R : Core → Core → Prop) : Prop where
  refl : ∀ k, R k k
  trans : ∀ {a b c}, R a b → R b c → R a c
  stopped : ∀ k now, R k (k.stopped now)
  slots : ∀ (k : Core) sl, R k { k with slots := sl }

/-- Every core stands in a relation to what it was. -/
def CoreWise (R : Core → Core → Prop) (s t : State) : Prop := ∀ n, R (s.coreAt n) (t.coreAt n)

namespace CoreWise
variable {R : Core → Core → Prop} (h : Core.Halting R) {s t u : State}
include h

theorem of_cores (hc : t.cores = s.cores) : CoreWise R s t := fun n => by
  rw [State.coreAt_congr hc]
  exact h.refl _

theorem trans (a : CoreWise R s t) (b : CoreWise R t u) : CoreWise R s u := fun n => h.trans (a n) (b n)

theorem modCore (s : State) (n : Nat) {f : Core → Core} (hf : ∀ k, R k (f k)) : CoreWise R s (s.modCore n f) := fun m => by
  by_cases hm : m = n
  · subst hm
    rw [State.coreAt_modCore]
    exact hf _
  · rw [State.coreAt_modCore_ne _ _ _ _ hm]
    exact h.refl _

theorem each {α : Type} {f : State → α → State} {l : List α} (hf : ∀ u a, CoreWise R u (f u a)) : CoreWise R s (s.each l f) :=
  State.each_induct (P := fun t => CoreWise R s t) (of_cores h rfl) fun u hu a _ => trans h hu (hf u a)

theorem haltCore (s : State) (n : Nat) : CoreWise R s (s.haltCore n) := by
  unfold State.haltCore
  extract_lets c a b
  have ha : CoreWise R s a := of_cores h (Fld.of_each (f := .cores) _ fun t x => by
    split
    · exact State.mixWrite_of (fd := .cores) _ _ _ _ (by decide)
    · rfl)
  have hb : CoreWise R a b := of_cores h (Fld.of_each (f := .cores) _ fun t x => State.mixWrite_of (fd := .cores) _ _ _ _ (by decide))
  exact trans h (trans h ha hb) (modCore h b n fun k => h.stopped k b.now)

theorem mixSlot (s : State) (n slot : Nat) (new : Slot) (w : Nat) : CoreWise R s (s.mixSlot n slot new w) := by
  induction w generalizing s with
  | zero => exact of_cores h rfl
  | succ k ih =>
    unfold State.mixSlot
    extract_lets v t
    have ht : CoreWise R s t := by
      dsimp only [t]
      split
      · exact modCore h s n fun k => h.slots k _
      · exact of_cores h rfl
    exact trans h (trans h ht (of_cores h rfl)) (ih t.drew)

theorem abandonLoads (s : State) (p : Nat) (run : Run) : CoreWise R s (s.abandonLoads p run) := by
  unfold State.abandonLoads
  split
  · exact of_cores h rfl
  · refine each h fun u x => ?_
    split
    · exact of_cores h rfl
    · exact each h fun v c => each h fun w lc => mixSlot h w _ _ _ _

theorem stopRun (s : State) (p : Nat) : CoreWise R s (s.stopRun p) := by
  unfold State.stopRun
  split
  · exact of_cores h rfl
  · extract_lets cls a b c d e f g
    have ha : CoreWise R s a := each h fun u n => haltCore h u n
    have hb : CoreWise R a b := abandonLoads h a p _
    have hc : CoreWise R b c := of_cores h (Fld.of_each (f := .cores) _ fun t x => State.modCluster_of (fd := .cores) _ _ _ (by decide))
    have hg : g.cores = f.cores := by
      dsimp only [g]
      split
      · exact State.markDelay_of (fd := .cores) _ _ _ _ (by decide)
      · rfl
    have hf : f.cores = c.cores := rfl
    have ht : (g.afterRun p).cores = g.cores := State.afterRun_of (fd := .cores) _ _ (by decide)
    exact trans h (trans h ha hb) (trans h hc (of_cores h (ht.trans (hg.trans hf))))

theorem endReq (s : State) (p : Nat) (r : Request) (st reason : Nat) (clear : Bool) : CoreWise R s (s.endReq p r st reason clear) := by
  unfold State.endReq
  extract_lets flags t
  have ht : CoreWise R s t := by
    dsimp only [t]
    split
    · exact stopRun h s p
    · exact of_cores h rfl
  split
  · exact ht
  · exact trans h ht (of_cores h (State.close_of (fd := .cores) _ _ _ _ _ _ (by decide)))

theorem contain (s : State) (p st reason : Nat) : CoreWise R s (s.contain p st reason) := by
  unfold State.contain
  split
  · exact of_cores h rfl
  · extract_lets t
    have ht : CoreWise R s t := by
      dsimp only [t]
      split
      · exact endReq h s p _ _ _ _
      · exact stopRun h s p
    split
    · exact trans h ht (of_cores h (State.faulted_of (fd := .cores) _ _ (by decide)))
    · exact ht

end CoreWise

/-! ## A double-bit error (R55) -/

/-- What tells an error at a core: where it stands and what it has recorded. -/
def Core.errs (k : Core) : Nat × Bool × BitVec 19 := (k.pc, k.ue, k.eccUe)

theorem Core.errs_halting : Core.Halting fun a b => b.errs = a.errs := ⟨fun _ => rfl, fun a b => b.trans a, fun _ _ => rfl, fun _ _ => rfl⟩

/-- A double-bit error marks its core, tells its Marionette and is recorded; no core goes on for it (R55, R385). -/
theorem State.doubleBit_marks (s : State) (c lc addr : Nat) (store : Bool) :
    let t := s.doubleBit c lc addr store
    ((t.coreAt (s.lcore c lc)).errs = ((s.coreAt (s.lcore c lc)).pc, true, BitVec.ofNat 19 (addr + bit store 18))) ∧
      (∀ n, n ≠ s.lcore c lc → (t.coreAt n).errs = (s.coreAt n).errs) ∧
      t.coreEvents = s.coreEvents ++ [(toCl c, Fin.ofNat 256 lc, true, false, false)] ∧ ∃ r ∈ t.faults, r.code = 0x0102#16 := by
  intro t
  have ht : t = s.doubleBit c lc addr store := rfl
  clear_value t
  unfold State.doubleBit at ht
  extract_lets n a b last again x y z at ht
  have haf (fd : Fld) (h : fd ∉ [Fld.cores]) : fd.of a = fd.of s := State.modCore_of _ _ _ h
  have han : (a.coreAt n).errs = ((s.coreAt n).pc, true, BitVec.ofNat 19 (addr + bit store 18)) := by
    rw [State.coreAt_modCore]
    rfl
  have haout (m : Nat) (hm : m ≠ n) : a.coreAt m = s.coreAt m := State.coreAt_modCore_ne _ _ _ _ hm
  have hbf (fd : Fld) (h : fd ∉ [Fld.coreEvents]) : fd.of b = fd.of a := Fld.of_upd (L := [.coreEvents]) rfl h
  have hbe : b.coreEvents = s.coreEvents ++ [(toCl c, Fin.ofNat 256 lc, true, false, false)] :=
    congrArg (· ++ [(toCl c, Fin.ofNat 256 lc, true, false, false)]) (haf .coreEvents (by decide))
  have hxf (fd : Fld) (h : fd ∉ [Fld.clusters]) : fd.of x = fd.of b := State.modCluster_of _ _ _ h
  have hyf (fd : Fld) (h : fd ∉ [Fld.declared]) : fd.of y = fd.of x := by
    dsimp only [y]
    split
    · exact Fld.of_upd (L := [.declared]) rfl h
    · rfl
  have hzf (fd : Fld) (h : fd ∉ [Fld.faults, .faultSeq, .faultsLost]) : fd.of z = fd.of y := State.log_of _ _ _ _ _ _ _ _ h
  have hlog : ∃ r ∈ z.faults, r.code = 0x0102#16 := State.log_mem _ 0x0102 ..
  have hzc : z.cores = a.cores := (hzf .cores (by decide)).trans ((hyf .cores (by decide)).trans ((hxf .cores (by decide)).trans
    (hbf .cores (by decide))))
  have hze : z.coreEvents = b.coreEvents := (hzf .coreEvents (by decide)).trans ((hyf .coreEvents (by decide)).trans (hxf .coreEvents (by decide)))
  clear_value a b x y z
  have htz : CoreWise (fun a b => b.errs = a.errs) z t ∧ t.coreEvents = z.coreEvents ∧ t.faults = z.faults := by
    rw [ht]
    split
    · exact ⟨CoreWise.contain Core.errs_halting z _ _ _, State.contain_of (fd := .coreEvents) _ _ _ _ (by decide),
        State.contain_of (fd := .faults) _ _ _ _ (by decide)⟩
    · exact ⟨CoreWise.of_cores Core.errs_halting rfl, rfl, rfl⟩
  obtain ⟨hcores, hev, hfa⟩ := htz
  refine ⟨(hcores _).trans ?_, fun m hm => (hcores m).trans ?_, hev.trans (hze.trans hbe), ?_⟩
  · rw [State.coreAt_congr hzc]
    exact han
  · rw [State.coreAt_congr hzc, haout m hm]
  · rw [hfa]
    exact hlog

/-! ## Words with an error (R55) -/

/-- A word that issues, whatever SECDED finds. -/
theorem State.issue_issues {s : State} {c lc : Nat} {kind : WordKind} (h : s.issues c lc kind = true) (ecc : Ecc) (act : State → State) :
    s.issue c lc kind ecc act =
      (if ecc.store.any (fun v => v.val == (s.coreAt (s.lcore c lc)).pc) then s else act s).secded c lc (s.coreAt (s.lcore c lc)).slot.val
        (s.coreAt (s.lcore c lc)).storeReads (if kind = .fire then
          (s.coreAt (s.lcore c lc)).reads (s.coreAt (s.lcore c lc)).word s.phase (s.macReads c lc) else []) ecc := by
  obtain ⟨hclk, hhold, hready, hkind, hnow⟩ := (s.issues_iff c lc kind).1 h
  unfold State.issue
  rw [State.reconsider_of_hold_none hhold]
  extract_lets n k
  rw [if_neg (by rw [hclk, hhold, hready, hkind]; simp), hnow]

theorem Core.storeReads_of_ne {k : Core} (h : wordKind k.word ≠ .fire) : k.storeReads = [k.pc] := by
  unfold Core.storeReads
  rw [if_neg h]

theorem Core.pc_storeReads (k : Core) : k.pc ∈ k.storeReads := List.mem_cons_self

/-- What SECDED corrects before it tells of a double-bit error. -/
def State.correctedAt (s : State) (c lc : Nat) (n count : Nat) : State :=
  if n = 0 then s else s.modCore (s.lcore c lc) (·.corrected (Nat.min n count))

theorem State.correctedAt_leaves (s : State) (c lc n count : Nat) : (∀ fd : Fld, fd ∉ [Fld.cores] → fd.of (s.correctedAt c lc n count) = fd.of s) ∧
    ∀ m, ((s.correctedAt c lc n count).coreAt m).errs = (s.coreAt m).errs := by
  unfold State.correctedAt
  split
  · exact ⟨fun _ _ => rfl, fun _ => rfl⟩
  · refine ⟨fun fd h => State.modCore_of _ _ _ h, fun m => ?_⟩
    by_cases hm : m = s.lcore c lc
    · rw [hm, State.coreAt_modCore]
      rfl
    · rw [State.coreAt_modCore_ne _ _ _ _ hm]

theorem State.secded_eq (s : State) (c lc slot : Nat) (words : List Nat) (reads : List (Nat × Nat)) (ecc : Ecc) :
    s.secded c lc slot words reads ecc =
      ((s.correctedAt c lc ecc.single (words.length + 8 * reads.length)).each
        (reads.filter fun x => ecc.lines.any fun p => p.val == x.1) fun t x => t.doubleBit c lc (x.2 / 64 * 64) false).each
          (words.filter fun w => ecc.store.any fun v => v.val == w) fun t w => t.doubleBit c lc (0x1000 * slot + 8 * w) true := rfl

/-- What a double-bit error of a step tells: core `n` stays where it stood, its mark is set, and its Marionette and the log have it. -/
structure Faulty (s : State) (n : Nat) (ev : Cl × LCore × Bool × Bool × Bool) (t : State) : Prop where
  pc : (t.coreAt n).pc = (s.coreAt n).pc
  ue : (t.coreAt n).ue = true
  event : ev ∈ t.coreEvents
  fault : ∃ r ∈ t.faults, r.code = 0x0102#16
  hbm : t.hbm = s.hbm

/-- One more double-bit error of a step that may have told one already. -/
theorem State.doubleBit_faulty {s t : State} {c lc : Nat}
    (h : (t.clusters = s.clusters ∧ (t.coreAt (s.lcore c lc)).errs = (s.coreAt (s.lcore c lc)).errs ∧ t.hbm = s.hbm) ∨
      Faulty s (s.lcore c lc) (toCl c, Fin.ofNat 256 lc, true, false, false) t) (addr : Nat) (store : Bool) :
    Faulty s (s.lcore c lc) (toCl c, Fin.ofNat 256 lc, true, false, false) (t.doubleBit c lc addr store) := by
  obtain ⟨hin, hout, hev, hlog⟩ := t.doubleBit_marks c lc addr store
  have hhbm : (t.doubleBit c lc addr store).hbm = t.hbm := State.doubleBit_of (fd := .hbm) _ _ _ _ _ (by decide)
  have hpc : (t.coreAt (s.lcore c lc)).pc = (s.coreAt (s.lcore c lc)).pc := by
    rcases h with ⟨-, he, -⟩ | h
    · exact congrArg Prod.fst he
    · exact h.pc
  have hevent : (toCl c, Fin.ofNat 256 lc, true, false, false) ∈ (t.doubleBit c lc addr store).coreEvents := by
    rw [hev]
    exact List.mem_append_right _ List.mem_cons_self
  have hm : t.hbm = s.hbm := by
    rcases h with ⟨-, -, hm⟩ | h
    · exact hm
    · exact h.hbm
  by_cases hn : s.lcore c lc = t.lcore c lc
  · rw [hn] at hpc ⊢
    exact ⟨(congrArg Prod.fst hin).trans hpc, congrArg (fun e => e.2.1) hin, hevent, hlog, hhbm.trans hm⟩
  · have he := hout _ hn
    rcases h with ⟨hc, -, -⟩ | h
    · exact absurd (by rw [State.lcore, State.lcore, State.cluster_congr hc]) hn
    · exact ⟨(congrArg Prod.fst he).trans h.pc, (congrArg (fun e => e.2.1) he).trans h.ue, hevent, hlog, hhbm.trans hm⟩

/-- SECDED tells of a double-bit error in some word of the store that a step reads. -/
theorem State.secded_faulty (s : State) {c lc slot w : Nat} {words : List Nat} (reads : List (Nat × Nat)) {ecc : Ecc} (hw : w ∈ words)
    (he : (ecc.store.any fun v => v.val == w) = true) :
    Faulty s (s.lcore c lc) (toCl c, Fin.ofNat 256 lc, true, false, false) (s.secded c lc slot words reads ecc) := by
  rw [State.secded_eq]
  obtain ⟨hf, hc⟩ := s.correctedAt_leaves c lc ecc.single (words.length + 8 * reads.length)
  generalize s.correctedAt c lc ecc.single (words.length + 8 * reads.length) = u at hf hc
  have hlines := State.each_induct (P := fun t => (t.clusters = s.clusters ∧ (t.coreAt (s.lcore c lc)).errs = (s.coreAt (s.lcore c lc)).errs ∧ t.hbm = s.hbm) ∨
      Faulty s (s.lcore c lc) (toCl c, Fin.ofNat 256 lc, true, false, false) t) (s := u) (l := reads.filter fun x => ecc.lines.any fun p => p.val == x.1)
    (g := fun t x => t.doubleBit c lc (x.2 / 64 * 64) false) (.inl ⟨hf .clusters (by decide), hc _, hf .hbm (by decide)⟩)
    fun t ht x _ => .inr (State.doubleBit_faulty ht _ _)
  generalize (u.each (reads.filter fun x => ecc.lines.any fun p => p.val == x.1) fun t x => t.doubleBit c lc (x.2 / 64 * 64) false) = v at hlines
  have hmem : w ∈ words.filter fun w => ecc.store.any fun v => v.val == w := List.mem_filter.2 ⟨hw, he⟩
  generalize (words.filter fun w => ecc.store.any fun v => v.val == w) = l at hmem
  cases l with
  | nil => exact absurd hmem List.not_mem_nil
  | cons a r =>
    exact State.each_induct (P := fun t => Faulty s (s.lcore c lc) (toCl c, Fin.ofNat 256 lc, true, false, false) t)
      (s := v.doubleBit c lc (0x1000 * slot + 8 * a) true) (l := r) (State.doubleBit_faulty hlines _ _) fun t ht x _ => State.doubleBit_faulty (.inr ht) _ _

/-- The word that a core stands at names the place of an error in it (R55). -/
theorem State.secded_place (s : State) {c lc slot w : Nat} {ecc : Ecc} (he : (ecc.store.any fun v => v.val == w) = true) :
    ((s.secded c lc slot [w] [] ecc).coreAt (s.lcore c lc)).eccUe = BitVec.ofNat 19 (0x1000 * slot + 8 * w + 2 ^ 18) := by
  have hl : [w].filter (fun w => ecc.store.any fun v => v.val == w) = [w] :=
    List.filter_cons_of_pos (p := fun w => ecc.store.any fun v => v.val == w) he
  rw [State.secded_eq, hl]
  obtain ⟨hf, -⟩ := s.correctedAt_leaves c lc ecc.single ([w].length + 8 * ([] : List (Nat × Nat)).length)
  have hn : s.lcore c lc = (s.correctedAt c lc ecc.single ([w].length + 8 * ([] : List (Nat × Nat)).length)).lcore c lc := by
    rw [State.lcore, State.lcore, State.cluster_congr (hf .clusters (by decide))]
  generalize s.correctedAt c lc ecc.single ([w].length + 8 * ([] : List (Nat × Nat)).length) = u at hn
  rw [hn]
  exact congrArg (fun e => e.2.2) (u.doubleBit_marks c lc (0x1000 * slot + 8 * w) true).1

/-! ## The obligation -/

section
variable {cl : Cl} {core : LCore} {s : State}

theorem exec_loop (ecc : Ecc) : exec (.loop cl core ecc) s = .next (s.issue cl.val core.val .loop ecc fun t =>
    t.modCore (t.lcore cl.val core.val) fun k => if t.skips cl.val core.val then k.skip else k.loop) := rfl

theorem exec_wait (ecc : Ecc) : exec (.wait cl core ecc) s = .next (s.issue cl.val core.val .wait ecc fun t =>
    t.modCore (t.lcore cl.val core.val) Core.wait) := rfl

theorem exec_halt (ecc : Ecc) : exec (.halt cl core ecc) s = .next (s.issue cl.val core.val .halt ecc fun t =>
    t.modCore (t.lcore cl.val core.val) Core.halt) := rfl

/-- A step that is one change of its core changes it alone. -/
theorem modCore_changes (s : State) (n : Nat) (f : Core → Core) : CoresOnly s (s.modCore n f) ∧ OneCore s (s.modCore n f) n ∧
    (s.modCore n f).coreAt n = f (s.coreAt n) := ⟨State.modCore_coresOnly .., s.modCore_oneCore _ _, State.coreAt_modCore ..⟩

theorem loop_loops (h : s.issues cl.val core.val .loop = true) :
    let n := s.lcore cl.val core.val
    let k := s.coreAt n
    ∃ t, exec (.loop cl core .clean) s = .next t ∧ CoresOnly s t ∧ OneCore s t n ∧
      t.coreAt n = if s.skips cl.val core.val then k.skip else k.loop := by
  intro n k
  rw [exec_loop, State.issue_clean h]
  exact ⟨_, rfl, modCore_changes ..⟩

theorem waitEnd_ends {e : Nat} (hc : s.clocked cl.val = true) (hh : (s.coreAt (s.lcore cl.val core.val)).hold = none)
    (hw : (s.coreAt (s.lcore cl.val core.val)).waitEnd = some e) (he : e ≤ (s.coreAt (s.lcore cl.val core.val)).pt) :
    let n := s.lcore cl.val core.val
    let k := s.coreAt n
    ∃ t, exec (.waitEnd cl core) s = .next t ∧ CoresOnly s t ∧ OneCore s t n ∧ t.coreAt n = { k with waitEnd := none, pc := k.pc + 1 } := by
  intro n k
  have hdone : k.waitDone = { k with waitEnd := none, pc := k.pc + 1 } := by
    unfold Core.waitDone
    rw [hw]
    exact if_pos (by rw [hh, decide_eq_true he]; rfl)
  obtain ⟨h1, h2, h3⟩ := modCore_changes s n Core.waitDone
  exact ⟨s.modCore n Core.waitDone, congrArg Host.Outcome.next (if_pos hc), h1, h2, h3.trans hdone⟩

/-- A word with a double-bit error in the store has no effect (R55). -/
theorem State.issue_faulty {c lc : Nat} {kind : WordKind} (h : s.issues c lc kind = true) {ecc : Ecc}
    (he : ∃ v ∈ ecc.store, v.val = (s.coreAt (s.lcore c lc)).pc) (act : State → State) :
    Faulty s (s.lcore c lc) (toCl c, Fin.ofNat 256 lc, true, false, false) (s.issue c lc kind ecc act) ∧
      (kind ≠ .fire → ((s.issue c lc kind ecc act).coreAt (s.lcore c lc)).eccUe =
        BitVec.ofNat 19 (0x1000 * (s.coreAt (s.lcore c lc)).slot.val + 8 * (s.coreAt (s.lcore c lc)).pc + 2 ^ 18)) := by
  obtain ⟨-, -, -, hkind, -⟩ := (s.issues_iff c lc kind).1 h
  have hany : (ecc.store.any fun v => v.val == (s.coreAt (s.lcore c lc)).pc) = true := by
    obtain ⟨v, hv, he⟩ := he
    exact List.any_eq_true.2 ⟨v, hv, beq_iff_eq.2 he⟩
  rw [State.issue_issues h, if_pos hany]
  refine ⟨s.secded_faulty _ (Core.pc_storeReads _) hany, fun hne => ?_⟩
  rw [if_neg hne, Core.storeReads_of_ne (hkind ▸ hne)]
  exact s.secded_place hany

end

/-- Settles O30: a word that issues is one change of its core, and one with a double-bit error in the store none. -/
theorem controlWords : Obligations.ControlWords := by
  unfold Obligations.ControlWords
  refine ⟨?_, ?_, ?_⟩
  · intro cl core e s n k c
    refine ⟨fun h => ?_, fun h => ?_, fun hc hh hw he => waitEnd_ends hc hh hw he, fun h => ?_⟩
    · obtain ⟨t, hexec, h1, h2, hk⟩ := loop_loops h
      refine ⟨t, hexec, h1, h2, fun hs hlt => ?_, fun hs hge => ?_, fun hs => ?_⟩
      · rw [hk, if_neg (by rw [hs]; decide)]
        exact if_pos hlt
      · rw [hk, if_neg (by rw [hs]; decide)]
        exact if_neg (Nat.not_lt.2 hge)
      · rw [hk, if_pos hs]
        rfl
    · rw [exec_wait, State.issue_clean h]
      exact ⟨_, rfl, modCore_changes ..⟩
    · rw [exec_halt, State.issue_clean h]
      exact ⟨_, rfl, modCore_changes ..⟩
  · intro cl core ecc s n k hecc x hx h
    have hev : (toCl cl.val, Fin.ofNat 256 core.val, true, false, false) = (cl, core, true, false, false) := by
      rw [show toCl cl.val = cl from Fin.ext (Nat.mod_eq_of_lt cl.isLt), show Fin.ofNat 256 core.val = core from Fin.ext (Nat.mod_eq_of_lt core.isLt)]
    have hall (act : State → State) (hexec : exec x.2 s = .next (s.issue cl.val core.val x.1 ecc act)) :
        ∃ t, exec x.2 s = .next t ∧ (t.coreAt n).pc = k.pc ∧ (t.coreAt n).ue = true ∧
          (x.1 ≠ .fire → (t.coreAt n).eccUe = BitVec.ofNat 19 (0x1000 * k.slot.val + 8 * k.pc + 2 ^ 18)) ∧
          (cl, core, true, false, false) ∈ t.coreEvents ∧ (∃ r ∈ t.faults, r.code = 0x0102#16) ∧ t.hbm = s.hbm := by
      obtain ⟨hf, hplace⟩ := State.issue_faulty h hecc act
      exact ⟨_, hexec, hf.pc, hf.ue, hplace, hev ▸ hf.event, hf.fault, hf.hbm⟩
    simp only [List.mem_cons, List.not_mem_nil, or_false] at hx
    rcases hx with rfl | rfl | rfl | rfl | rfl
    · exact hall _ rfl
    · exact hall _ rfl
    · exact hall _ rfl
    · exact hall _ rfl
    · exact hall _ rfl
  · intro cl core s h n k
    obtain ⟨-, -, -, hkind, -⟩ := (s.issues_iff _ _ _).1 h
    have hwords : k.storeReads = [k.pc] := Core.storeReads_of_ne (by rw [hkind]; decide)
    rw [exec_halt, State.issue_issues h, if_neg (by simp), if_neg (by decide), hwords]
    obtain ⟨-, h2, h3⟩ := modCore_changes s n Core.halt
    obtain ⟨-, h5, h6⟩ := modCore_changes (s.modCore n Core.halt) n (Core.corrected · 1)
    refine ⟨(s.modCore n Core.halt).modCore n (Core.corrected · 1), rfl, rfl, fun m hm => (h5 m hm).trans (h2 m hm), ?_⟩
    rw [h6, h3]
    rfl

end Sys2Proof.Machine
end

section
/-!
FIRE words that issue (R60 to R69, R73, R143).
-/

namespace Sys2Proof.Machine

open Sys2Proof

/-! ## What the units of a FIRE word may touch -/

/-- What a FIRE word does with a core beside its switches, registers and pipelines. -/
def Core.work (k : Core) : Nat × SMap Slot × SMap (BitVec 32) × List Pend × SMap (BitVec 16) × SMap (BitVec 16) × Nat :=
  (k.pt, k.slots, k.acc, k.pipe, k.active_w, k.shadow_w, k.wfill)

/-- A step within one core, its cluster and its scratchpad, and on the networks. -/
structure Fires (c lc : Nat) (s t : State) : Prop where
  frame : ∀ fd : Fld, fd ∉ [Fld.cores, .clusters, .spad, .flights, .credits] → fd.of t = fd.of s
  cores : OneCore s t (s.lcore c lc)
  clusters : OneCluster s t c
  lcore : t.lcore c lc = s.lcore c lc
  spad : ∀ a, (a < 262144 * s.lcore c lc ∨ 262144 * (s.lcore c lc + 1) ≤ a) → mread t.spad a = mread s.spad a

namespace Fires
variable {c lc : Nat} {s t u : State}

theorem refl (c lc : Nat) (s : State) : Fires c lc s s := ⟨fun _ _ => rfl, fun _ _ => rfl, fun _ _ => rfl, rfl, fun _ _ => rfl⟩

theorem trans (a : Fires c lc s t) (b : Fires c lc t u) : Fires c lc s u where
  frame fd h := (b.frame fd h).trans (a.frame fd h)
  cores m hm := (b.cores m (by rw [a.lcore]; exact hm)).trans (a.cores m hm)
  clusters x hx := (b.clusters x hx).trans (a.clusters x hx)
  lcore := b.lcore.trans a.lcore
  spad x hx := (b.spad x (by rw [a.lcore]; exact hx)).trans (a.spad x hx)

theorem modCore (s : State) (f : Core → Core) : Fires c lc s (s.modCore (s.lcore c lc) f) where
  frame _ h := State.modCore_of _ _ _ (Fld.not_mem h)
  cores := s.modCore_oneCore _ _
  clusters _ _ := rfl
  lcore := rfl
  spad _ _ := rfl

theorem modCluster (s : State) {f : Cluster → Cluster} (hf : ∀ k x, (f k).phys x = k.phys x) : Fires c lc s (s.modCluster c f) where
  frame _ h := State.modCluster_of _ _ _ (Fld.not_mem h)
  cores _ _ := rfl
  clusters x hx := sget_smod_ne (α := Cluster) _ _ _ _ _ hx
  lcore := by rw [State.lcore, State.lcore, State.cluster_modCluster, hf]
  spad _ _ := rfl

theorem flights (s : State) (l : List Flight) : Fires c lc s { s with flights := l } where
  frame _ h := Fld.of_upd (L := [.flights]) rfl (Fld.not_mem h)
  cores _ _ := rfl
  clusters _ _ := rfl
  lcore := rfl
  spad _ _ := rfl

theorem credits (s : State) (l : List Credit) : Fires c lc s { s with credits := l } where
  frame _ h := Fld.of_upd (L := [.credits]) rfl (Fld.not_mem h)
  cores _ _ := rfl
  clusters _ _ := rfl
  lcore := rfl
  spad _ _ := rfl

theorem spadWrite (s : State) {a : Nat} {bs : Bytes} (h : a + bs.length ≤ 262144) : Fires c lc s (s.spadWrite (s.lcore c lc) a bs) where
  frame _ h := State.spadWrite_of _ _ _ _ (Fld.not_mem h)
  cores _ _ := rfl
  clusters _ _ := rfl
  lcore := rfl
  spad x hx := mread_mwrites_out _ _ _ _ (by omega)

end Fires

theorem Core.modSw_work (k : Core) (net : Net) (f : Switch → Switch) : (k.modSw net f).work = k.work := by
  cases net <;> rfl

/-- A step that leaves the work of the core as well. -/
def Eases (c lc : Nat) (s t : State) : Prop := Fires c lc s t ∧ (t.coreAt (s.lcore c lc)).work = (s.coreAt (s.lcore c lc)).work

namespace Eases
variable {c lc : Nat} {s t u : State}

theorem refl (c lc : Nat) (s : State) : Eases c lc s s := ⟨.refl c lc s, rfl⟩

theorem trans (a : Eases c lc s t) (b : Eases c lc t u) : Eases c lc s u :=
  ⟨a.1.trans b.1, by
    have hb := b.2
    rw [a.1.lcore] at hb
    exact hb.trans a.2⟩

theorem modCore (s : State) {f : Core → Core} (hf : ∀ k, (f k).work = k.work) : Eases c lc s (s.modCore (s.lcore c lc) f) :=
  ⟨.modCore s f, by rw [State.coreAt_modCore, hf]⟩

theorem modCluster (s : State) {f : Cluster → Cluster} (hf : ∀ k x, (f k).phys x = k.phys x) : Eases c lc s (s.modCluster c f) :=
  ⟨.modCluster s hf, rfl⟩

theorem flights (s : State) (l : List Flight) : Eases c lc s { s with flights := l } := ⟨.flights s l, rfl⟩

theorem credits (s : State) (l : List Credit) : Eases c lc s { s with credits := l } := ⟨.credits s l, rfl⟩

theorem spadWrite (s : State) {a : Nat} {bs : Bytes} (h : a + bs.length ≤ 262144) : Eases c lc s (s.spadWrite (s.lcore c lc) a bs) :=
  ⟨.spadWrite s h, rfl⟩

theorem each {α : Type} {f : State → α → State} {l : List α} (hf : ∀ u a, Eases c lc u (f u a)) : Eases c lc s (s.each l f) :=
  State.each_induct (P := fun t => Eases c lc s t) (refl c lc s) fun u hu a _ => hu.trans (hf u a)

theorem passOut (s : State) (net : Net) (data : Bytes) (t : Nat) (d : Dir) : Eases c lc s (s.passOut c lc net data t d) := by
  unfold State.passOut
  extract_lets n
  split
  · exact refl c lc s
  · split
    · exact refl c lc s
    · exact (modCore s fun k => Core.modSw_work k net _).trans (flights (s.modCore (s.lcore c lc) _) _)

theorem passAll (s : State) (net : Net) (data : Bytes) (t : Nat) (outs : List Dir) : Eases c lc s (s.passAll c lc net data t outs) := by
  unfold State.passAll
  extract_lets k u
  have hu : Eases c lc s u := each fun v d => passOut v net data t d
  split
  · exact hu.trans (modCluster u fun _ _ => rfl)
  · exact hu

theorem creditBack (s : State) (net : Net) (port : Dir) : Eases c lc s (s.creditBack c lc net port) := by
  unfold State.creditBack
  split
  · exact refl c lc s
  · exact credits s _

theorem popHead (s : State) (net : Net) (port : Dir) : Eases c lc s (s.popHead c lc net port) :=
  (modCore s fun k => Core.modSw_work k net _).trans (creditBack _ net port)

theorem setHead (s : State) (net : Net) (port : Dir) (outs : List Dir) (rx : Bool) : Eases c lc s (s.setHead c lc net port outs rx) :=
  modCore s fun k => Core.modSw_work k net _

theorem takeRx (s : State) (net : Net) : Eases c lc s (s.takeRx c lc net) := by
  unfold State.takeRx
  extract_lets k
  split
  · exact refl c lc s
  · split
    · exact refl c lc s
    · extract_lets outs
      split
      · exact popHead s _ _
      · exact setHead s _ _ _ _

end Eases

/-! ## The parts of a FIRE word -/

theorem Fmt.bits_cases (f : Fmt) : f.bits = 8 ∨ f.bits = 16 ∨ f.bits = 32 := by
  cases f <;> simp [Fmt.bits]

theorem length_packLanes (f : Fmt) (l : List Nat) : (packLanes f l).length = l.length * (f.bits / 8) := by
  simp [packLanes, List.length_flatMap, length_toLe]

/-- The bytes of a vector store stay within its line. -/
theorem Core.storeLanes_fits (k : Core) (o : VOp) : (k.storeLanes o).1 + (k.storeLanes o).2.length ≤ 64 := by
  unfold Core.storeLanes
  extract_lets f first n
  rw [length_packLanes, List.length_map, List.length_range]
  obtain hf | hf | hf := f.bits_cases <;> simp only [n, hf]
  · split <;> simp
  · simp
  · simp

/-- A line stays within its scratchpad. -/
theorem lineAddr_fits (port phase line : Nat) : lineAddr (bankOf port phase) line + 64 ≤ 262144 := by
  unfold lineAddr bankOf
  omega

theorem Core.setReg_work (k : Core) (i : Nat) (v : BitVec 40) : (k.setReg i v).work = k.work := by
  unfold Core.setReg
  split <;> rfl

theorem Core.lower_work (k : Core) (now bank line : Nat) : (k.lower now bank line).work = k.work := by
  unfold Core.lower
  split
  · refine List.foldlRecOn (motive := fun x : Core => x.work = k.work) _ _ rfl fun x hx i _ => ?_
    split
    · exact hx
    · exact hx
  · rfl

theorem State.scalarSide_eases (s : State) (c lc : Nat) (k : Core) (o : SOp) (preset : Nat) :
    Eases c lc s (s.scalarSide c lc k o preset) := by
  unfold State.scalarSide
  extract_lets n
  split
  · exact .modCore s fun x => Core.setReg_work x _ _
  · refine .spadWrite s ?_
    have hline := lineAddr_fits 2 s.phase (k.scaLine o)
    have hbits : bitsOf (k.scaAddr o) 3 1 < 8 := Nat.mod_lt _ (by decide)
    simp only [leBytes, List.length_append, length_toLe]
    omega
  · exact .passAll s _ _ _ _
  · exact .takeRx s _
  · exact .refl c lc s

theorem State.netSide_eases (s : State) (c lc : Nat) (k : Core) (w : BitVec 64) (receive : Bool) {rx : Bytes} (preset : Nat) (hrx : rx.length ≤ 64) :
    Eases c lc s (s.netSide c lc k w receive rx preset) := by
  unfold State.netSide
  extract_lets n line bank u
  have hu : Eases c lc s u := by
    simp only [u]
    split
    · have hline := lineAddr_fits 3 s.phase line
      have ha : Eases c lc s (s.spadWrite n (lineAddr bank line) rx) := .spadWrite s (by simp only [bank]; omega)
      have hb := ha.trans (Eases.takeRx _ Net.vec)
      refine hb.trans ?_
      have hc := Eases.modCore (c := c) (lc := lc) ((s.spadWrite n (lineAddr bank line) rx).takeRx c lc .vec) fun x => Core.lower_work x s.now bank line
      rw [hb.1.lcore] at hc
      exact hc
    · exact .passAll s _ _ _ _
  refine hu.trans ?_
  have hc := Eases.modCore (c := c) (lc := lc) u (f := fun x => { x with port3 := some u.now }) fun x => rfl
  rw [hu.1.lcore] at hc
  exact hc

/-- What a swap of the tiles makes of a core. -/
def Core.swapped (k : Core) : Core :=
  { k.land .wload with active_w := (k.land .wload).shadow_w, shadow_w := (k.land .wload).active_w, wfill := 0 }

/-- Weights that land reach the shadow tile alone. -/
theorem Core.land_wload (k : Core) :
    (k.land .wload).pt = k.pt ∧ (k.land .wload).slots = k.slots ∧ (k.land .wload).acc = k.acc := by
  unfold Core.land
  refine List.foldlRecOn (motive := fun x : Core => x.pt = k.pt ∧ x.slots = k.slots ∧ x.acc = k.acc) _ _ ⟨rfl, rfl, rfl⟩
    fun x hx a ha => ?_
  have hs : a.act.stream = .wload := by
    have hd := (List.mem_filter.mp ha).2
    exact eq_of_beq (Bool.and_eq_true_iff.mp hd).1
  cases hact : a.act with
  | wload rows => exact hx
  | mac | drain | vec | sca | sload => simp [hact, Act.stream] at hs

theorem State.swap_fires (s : State) (c lc : Nat) :
    Fires c lc s (s.swap c lc) ∧ (s.swap c lc).coreAt (s.lcore c lc) = (s.coreAt (s.lcore c lc)).swapped := by
  unfold State.swap
  extract_lets n old u
  have hu : Eases c lc s u := by
    simp only [u]
    split
    · exact .modCluster s fun _ _ => rfl
    · exact .refl c lc s
  have hcore : u.coreAt n = s.coreAt n := by
    simp only [u]
    split
    · rfl
    · rfl
  constructor
  · have hc := Fires.modCore (c := c) (lc := lc) u Core.swapped
    rw [hu.1.lcore] at hc
    exact hu.1.trans hc
  · rw [State.coreAt_modCore, hcore]
    rfl

/-- The parts of a FIRE word before its pipelines take its work up. -/
theorem State.fire_fires (s : State) (c lc : Nat)
    (hrx : ∀ b, (s.coreAt (s.lcore c lc)).rxHead .vec s.now = some b → b.length ≤ 64) :
    let n := s.lcore c lc
    let k := s.coreAt n
    ∃ u, Fires c lc s u ∧ (u.coreAt n).work = (if (k.fired k.word).swap then k.swapped else k).work ∧
      s.fire c lc = u.modCore n fun x => { x with
        pipe := x.pipe ++ k.started k.word (s.cluster c).ganged
          (fun port l => s.spadRead n (lineAddr (bankOf port s.phase) l) 64) ((k.rxHead .sca s.now).getD [])
        presetNext := k.nextPreset k.word, pc := k.pc + 1, nextIssue := k.pt + 1 } := by
  intro n k
  have hrx' : ((k.rxHead .vec s.now).getD []).length ≤ 64 := by
    cases hb : k.rxHead .vec s.now with
    | none => exact Nat.zero_le _
    | some b => exact hrx b hb
  unfold State.fire
  extract_lets w f phase gang line preset started cfg acts s1 s2 s3 s4 s5
  have h1 : Eases c lc s s1 := by
    simp only [s1]
    split
    · exact .modCluster s fun _ _ => rfl
    · exact .refl c lc s
  have h1c : s1.coreAt n = k := by
    simp only [s1]
    split
    · rfl
    · rfl
  have h2 : Fires c lc s s2 ∧ (s2.coreAt n).work = (if f.swap then k.swapped else k).work := by
    simp only [s2]
    split
    · have hs := s1.swap_fires c lc
      rw [h1.1.lcore] at hs
      refine ⟨h1.1.trans hs.1, ?_⟩
      rw [hs.2, h1c]
    · exact ⟨h1.1, congrArg Core.work h1c⟩
  have h3 : Eases c lc s2 s3 := by
    simp only [s3]
    split
    · split
      · next v _ ho =>
        have hfit := k.storeLanes_fits (vopOf (k.reg (0x20 + v)))
        have hline := lineAddr_fits 2 s.phase (k.agLine (wbits w 11 8))
        have hw := Eases.spadWrite (c := c) (lc := lc) s2
          (a := lineAddr (bankOf 2 phase) (k.agLine (wbits w 11 8)) + (k.storeLanes (vopOf (k.reg (0x20 + v)))).1)
          (bs := (k.storeLanes (vopOf (k.reg (0x20 + v)))).2) (by simp only [phase]; omega)
        rw [h2.1.lcore] at hw
        exact hw
      · exact .refl c lc s2
    · exact .refl c lc s2
  have h4 : Eases c lc s3 s4 := by
    simp only [s4]
    split
    · exact s3.scalarSide_eases c lc _ _ _
    · exact .refl c lc s3
  have h5 : Eases c lc s4 s5 := by
    simp only [s5]
    split
    · refine s4.netSide_eases c lc _ _ _ _ ?_
      rw [show s4.now = s.now from (h3.trans h4).1.frame .now (by decide) |>.trans (h2.1.frame .now (by decide))]
      exact hrx'
    · exact .refl c lc s4
  have h := (h3.trans h4).trans h5
  refine ⟨s5, h2.1.trans h.1, ?_, rfl⟩
  have hw := h.2
  rw [h2.1.lcore] at hw
  exact hw.trans h2.2

theorem Core.swapped_of_none {k : Core} (h : k.due .wload = []) : k.swapped.active_w = k.shadow_w ∧
    k.swapped.shadow_w = k.active_w ∧ k.swapped.wfill = 0 := by
  unfold Core.swapped Core.land
  rw [h]
  exact ⟨rfl, rfl, rfl⟩

theorem exec_fireWord (cl : Cl) (core : LCore) (ecc : Ecc) (s : State) :
    exec (.fireWord cl core ecc) s = .next (s.issue cl.val core.val .fire ecc fun t => t.fire cl.val core.val) := rfl

/-- Of a word, swapped tiles or not, the step counter, the slots and the accumulator stay. -/
theorem Core.kept_of_work {k x : Core} {b : Bool} (h : x.work = (if b then k.swapped else k).work) :
    x.pt = k.pt ∧ x.slots = k.slots ∧ x.acc = k.acc := by
  simp only [Core.work, Prod.mk.injEq] at h
  obtain ⟨hpt, hslots, hacc, -⟩ := h
  rw [hpt, hslots, hacc]
  cases b with
  | false => exact ⟨rfl, rfl, rfl⟩
  | true => exact k.land_wload

/-- Settles O31: each part of the word stays within its core, its cluster and its scratchpad; only a swap of the tiles reaches the
tiles, and the pipelines take the word's work up last. -/
theorem fireIssues : Obligations.FireIssues := by
  unfold Obligations.FireIssues
  intro cl core s hissues n k hrx work
  obtain ⟨u, hu, hwork, hfire⟩ := s.fire_fires cl.val core.val hrx
  have hmod := Fires.modCore (c := cl.val) (lc := core.val) u fun x => { x with
        pipe := x.pipe ++ work, presetNext := k.nextPreset k.word, pc := k.pc + 1, nextIssue := k.pt + 1 }
  rw [hu.lcore] at hmod
  have ht := hu.trans hmod
  refine ⟨s.fire cl.val core.val, by rw [exec_fireWord, State.issue_clean hissues], ?_⟩
  rw [hfire]
  refine ⟨State.eq_patch [.cores, .clusters, .spad, .flights, .credits] ht.frame, ht.cores, ht.clusters, ?_⟩
  rw [State.coreAt_modCore]
  obtain ⟨hpt, hslots, hacc⟩ := Core.kept_of_work hwork
  simp only [Core.work, Prod.mk.injEq] at hwork
  obtain ⟨-, -, -, hpipe, hactive, hshadow, hfill⟩ := hwork
  refine ⟨rfl, rfl, rfl, hpt, hslots, hacc, fun hswap => ?_, fun hswap hdue => ?_, ht.spad⟩
  · rw [hswap] at hpipe hactive
    exact ⟨congrArg (· ++ work) hpipe, hactive⟩
  · rw [hswap] at hactive hshadow hfill
    obtain ⟨ha, hs, hf⟩ := Core.swapped_of_none hdue
    exact ⟨hactive.trans ha, hshadow.trans hs, hfill.trans hf⟩


end Sys2Proof.Machine
end

section
/-!
Results that land (R60 to R69), the drain write and the gang step (R65, R161).
-/

namespace Sys2Proof.Machine

open Sys2Proof

/-! ## Many entries of a sparse map at once -/

theorem sget_sputAll_of_notMem {α : Type} [DecidableEq α] (d : α) {kv : List (Nat × α)} {k : Nat} (m : SMap α)
    (h : k ∉ kv.map (·.1)) : sget d (sputAll d kv m) k = sget d m k := by
  induction kv generalizing m with
  | nil => rfl
  | cons x kv ih =>
    obtain ⟨hne, hrest⟩ := not_or.1 (mt List.mem_cons.2 (List.map_cons ▸ h))
    exact (ih _ hrest).trans (sget_sput_ne d x.2 m x.1 k hne)

/-- A key all of whose entries agree is found with their value. -/
theorem sget_sputAll_of_mem {α : Type} [DecidableEq α] (d : α) {kv : List (Nat × α)} {k : Nat} {v : α} (m : SMap α)
    (h : (k, v) ∈ kv) (hv : ∀ w, (k, w) ∈ kv → w = v) : sget d (sputAll d kv m) k = v := by
  induction kv generalizing m with
  | nil => exact absurd h List.not_mem_nil
  | cons x kv ih =>
    by_cases hk : (k, v) ∈ kv
    · exact ih _ hk fun w hw => hv w (List.mem_cons_of_mem _ hw)
    · obtain rfl : (k, v) = x := (List.mem_cons.1 h).resolve_right hk
      refine (sget_sputAll_of_notMem d (sput d k v m) fun hmem => ?_).trans (sget_sput_same ..)
      obtain ⟨⟨a, w⟩, hw, rfl⟩ := List.mem_map.1 hmem
      exact hk (hv w (List.mem_cons_of_mem _ hw) ▸ hw)

/-- Where the keys of numbered entries differ, each entry is found at its key. -/
theorem sget_sputAll_zipIdx {α β : Type} [DecidableEq α] (d : α) {l : List β} {key : Nat → Nat} {val : β → Nat → α} (m : SMap α)
    (hkey : ∀ i j, i < l.length → j < l.length → key i = key j → i = j) {j : Nat} {v : β} (h : l[j]? = some v) :
    sget d (sputAll d (l.zipIdx.map fun x => (key x.2, val x.1 x.2)) m) (key j) = val v j := by
  refine sget_sputAll_of_mem d m (List.mem_map.2 ⟨(v, j), List.mk_mem_zipIdx_iff_getElem?.2 h, rfl⟩) fun w hw => ?_
  obtain ⟨⟨u, i⟩, hu, he⟩ := List.mem_map.1 hw
  have hi := List.mk_mem_zipIdx_iff_getElem?.1 hu
  have hij : i = j := hkey i j (List.getElem?_eq_some_iff.1 hi).1 (List.getElem?_eq_some_iff.1 h).1 (Prod.mk.inj he).1
  subst hij
  rw [Option.some.inj (hi.symm.trans h)] at he
  exact (Prod.mk.inj he).2.symm

/-! ## Landings -/

/-- A core whose pipelines move lands the due work of the kind. -/
theorem State.landing_moves {s : State} {c lc : Nat} (h : s.moves c lc = true) (q : Stream) :
    s.landing c lc q = s.modCore (s.lcore c lc) (·.land q) := by
  obtain ⟨hclk, hst⟩ := Bool.and_eq_true_iff.1 h
  unfold State.landing
  rw [if_pos (by rw [hclk, hst]; rfl)]

/-- One piece of due work lands alone. -/
theorem Core.land_one {k : Core} {q : Stream} {x : Pend} (h : k.due q = [x]) : k.land q = (k.undue q).landOne x.act := by
  unfold Core.land
  rw [h]
  rfl

/-- A landing changes its core alone. -/
theorem exec_lands {i : Instr} {s : State} {c lc : Nat} {q : Stream} (hexec : exec i s = .next (s.landing c lc q))
    (h : s.moves c lc = true) :
    ∃ t, exec i s = .next t ∧ CoresOnly s t ∧ OneCore s t (s.lcore c lc) ∧ t.coreAt (s.lcore c lc) = (s.coreAt (s.lcore c lc)).land q := by
  refine ⟨_, hexec, ?_⟩
  rw [State.landing_moves h]
  exact ⟨s.modCore_coresOnly _ _, s.modCore_oneCore _ _, s.coreAt_modCore _ _⟩

theorem Core.landMac_sums (k : Core) (e : Nat) (init : Bool) (sums : List (BitVec 32)) {j : Nat} {v : BitVec 32} (h : sums[j]? = some v) :
    sget 0#32 (k.landMac e init sums).acc (32 * e + j) = accUpdate (sget 0#32 k.acc (32 * e + j)) v init :=
  sget_sputAll_zipIdx 0#32 (key := (32 * e + ·)) (val := fun v j => accUpdate (sget 0#32 k.acc (32 * e + j)) v init) k.acc
    (fun _ _ _ _ he => Nat.add_left_cancel he) h

/-- Places that wrap within 32 differ for fewer than 32 entries. -/
theorem wrap_inj (f : Nat) {n i j : Nat} (hn : n ≤ 32) (hi : i < n) (hj : j < n) (h : (f + i) % 32 = (f + j) % 32) : i = j := by
  omega

theorem Core.landScales_entries (k : Core) {es : List (BitVec 64)} (hes : es.length ≤ 32) {d : Nat} {v : BitVec 64} (h : es[d]? = some v) :
    sget 0#64 (k.landScales es).scale ((k.sfill + d) % 32) = v :=
  sget_sputAll_zipIdx 0#64 (key := fun d => (k.sfill + d) % 32) (val := fun v _ => v) k.scale (fun _ _ hi hj => wrap_inj _ hes hi hj) h

theorem Core.landWeights_rows (k : Core) {rows : List (List (BitVec 16))} (hrows : rows.length ≤ 32) (hr : ∀ r ∈ rows, r.length ≤ 32)
    {d i : Nat} {v : BitVec 16} (hd : d < rows.length) (h : (rows.getD ((k.wfill + d) % rows.length) [])[i]? = some v) :
    sget 0#16 (k.landWeights rows).shadow_w (32 * ((k.wfill + d) % 32) + i) = v := by
  have hrow : ∀ {e j : Nat} {w : BitVec 16}, (rows.getD ((k.wfill + e) % rows.length) [])[j]? = some w → j < 32 := by
    intro e j w hw
    have hj := (List.getElem?_eq_some_iff.1 hw).1
    refine Nat.lt_of_lt_of_le hj (hr _ ?_)
    rw [List.getD_eq_getElem?_getD, List.getElem?_eq_getElem (Nat.mod_lt _ (by omega))]
    exact List.getElem_mem _
  refine sget_sputAll_of_mem 0#16 k.shadow_w ?_ fun w hw => ?_
  · exact List.mem_flatMap.2 ⟨d, List.mem_range.2 hd, List.mem_map.2 ⟨(v, i), List.mk_mem_zipIdx_iff_getElem?.2 h, rfl⟩⟩
  · obtain ⟨e, he, hw⟩ := List.mem_flatMap.1 hw
    obtain ⟨⟨u, j⟩, hu, heq⟩ := List.mem_map.1 hw
    have hu := List.mk_mem_zipIdx_iff_getElem?.1 hu
    obtain ⟨hkey, hval⟩ := Prod.mk.inj heq
    have hi := hrow h
    have hj := hrow hu
    have hed : e = d := wrap_inj k.wfill hrows (List.mem_range.1 he) hd (by omega)
    have hji : j = i := by omega
    subst hed hji
    exact hval.symm.trans (Option.some.inj (hu.symm.trans h))

/-- Settles O32: the due work lands in its core, each entry at a place of its own. -/
theorem landings : Obligations.Landings := by
  unfold Obligations.Landings
  intro cl core x s hmoves n k
  refine ⟨?_, ?_, ?_, ?_, ?_⟩
  · obtain ⟨t, hexec, hcores, hone, hk⟩ := exec_lands (i := .accumulatorUpdate cl core) rfl hmoves
    refine ⟨t, hexec, hcores, hone, fun e init sums hdue hact => ?_⟩
    rw [hk, Core.land_one hdue, hact]
    exact ⟨fun j v hv => (k.undue .mac).landMac_sums e init sums hv, rfl⟩
  · obtain ⟨t, hexec, hcores, hone, hk⟩ := exec_lands (i := .vectorResultWrite cl core) rfl hmoves
    refine ⟨t, hexec, hcores, hone, fun vd lanes hdue hact hnd => ?_⟩
    rw [hk, Core.land_one hdue, hact]
    refine ⟨fun y hy => ?_, rfl⟩
    refine sget_sputAll_of_mem 0#32 _ (List.mem_map.2 ⟨y, hy, rfl⟩) fun w hw => ?_
    obtain ⟨z, hz, he⟩ := List.mem_map.1 hw
    obtain ⟨hkey, hval⟩ := Prod.mk.inj he
    rw [← hval, List.inj_on_of_nodup_map hnd hz hy (Nat.add_left_cancel hkey)]
  · obtain ⟨t, hexec, hcores, hone, hk⟩ := exec_lands (i := .scalarResultWrite cl core) rfl hmoves
    refine ⟨t, hexec, hcores, hone, fun sd v hdue hact => ?_⟩
    rw [hk, Core.land_one hdue, hact]
    exact ⟨sget_sput_same .., fun d hd => sget_sput_ne _ _ _ _ _ hd, rfl⟩
  · obtain ⟨t, hexec, hcores, hone, hk⟩ := exec_lands (i := .weightLoadLand cl core) rfl hmoves
    refine ⟨t, hexec, hcores, hone, fun rows hdue hact => ?_⟩
    rw [hk, Core.land_one hdue, hact]
    exact ⟨rfl, rfl, fun hrows hr d i v hd hv => (k.undue .wload).landWeights_rows hrows hr hd hv⟩
  · obtain ⟨t, hexec, hcores, hone, hk⟩ := exec_lands (i := .scaleLoadLand cl core) rfl hmoves
    refine ⟨t, hexec, hcores, hone, fun es hdue hact => ?_⟩
    rw [hk, Core.land_one hdue, hact]
    exact ⟨rfl, rfl, fun hes d v hv => (k.undue .sload).landScales_entries hes hv⟩

/-! ## The drain write and the gang step -/

theorem State.drainWrite_one {s : State} {c lc line off : Nat} {data : Bytes} {x : Pend} (hclk : s.clocked c = true)
    (hhold : (s.coreAt (s.lcore c lc)).hold = none) (hnow : s.holdNow c lc = none)
    (hdue : (s.coreAt (s.lcore c lc)).due .drain = [x]) (hact : x.act = .drain line off data) :
    s.drainWrite c lc = (s.spadWrite (s.lcore c lc) (lineAddr (bankOf 1 s.phase) line + off) data).modCore (s.lcore c lc) (·.undue .drain) := by
  unfold State.drainWrite
  simp only [hclk, hhold, hnow, hdue, hact, State.each, List.foldl, Bool.not_true, Option.isSome_none, Bool.or_self, Bool.false_eq_true,
    if_false]

/-- A gang step whose bottom-row core `k` has its sums; it is gone once all sixteen have. -/
def Cluster.gangDone (g : GangStep) (k : Nat) (x : Cluster) : Cluster :=
  { x with gang := (x.gang.map fun y => if y.issued = g.issued then { y with done := y.done ++ [k] } else y).filter fun y =>
      decide (y.done.length < 16) }

theorem State.gangUpdate_moves {s : State} {c k : Nat} {g : GangStep} (h : s.moves c (240 + k) = true)
    (hg : (s.cluster c).gang.find? (fun g => decide (g.issued + 530 + k + (if halfRate g.cfg then 1 else 0) ≤ (s.cluster c).gangPt)
      && !g.done.contains k) = some g) :
    s.gangUpdate c k = (s.modCore (s.lcore c (240 + k)) fun x =>
      x.landMac g.entry g.init ((List.range 32).map fun j => (s.gangSum c g k j).word)).modCluster c (Cluster.gangDone g k) := by
  obtain ⟨hclk, hst⟩ := Bool.and_eq_true_iff.1 h
  unfold State.gangUpdate
  extract_lets cl
  rw [if_neg (by simp [hclk, show s.stalled c (240 + k) = false by simpa using hst]), hg]
  rfl

/-- Settles O33: the one drain write that is due stores its bytes; the gang step at hand lands in its bottom-row core. -/
theorem drainAndGang : Obligations.DrainAndGang := by
  unfold Obligations.DrainAndGang
  intro cl core k16 x line off data g s n k
  refine ⟨fun hclk hhold hnow hdue hact => ?_, fun hmoves hg => ?_⟩
  · have ht := State.drainWrite_one hclk hhold hnow hdue hact
    refine ⟨s.drainWrite cl.val core.val, rfl, ?_⟩
    rw [ht]
    refine ⟨rfl, (s.spadWrite _ _ _).modCore_oneCore _ _, State.coreAt_modCore _ _ _, fun i hi => ?_, fun a ha => ?_⟩
    · rw [List.getD_eq_getElem?_getD, List.getElem?_eq_getElem hi, Option.getD_some]
      exact mread_mwrites_in _ _ _ _ hi
    · exact mread_mwrites_out _ _ _ _ (by omega)
  · intro m
    have ht := State.gangUpdate_moves hmoves hg
    refine ⟨s.gangUpdate cl.val k16.val, rfl, ?_⟩
    rw [ht]
    refine ⟨rfl, fun d hd => ?_, fun d hd => sget_smod_ne (α := Cluster) _ _ _ _ _ hd, ?_⟩
    · rw [State.modCluster_cores]
      exact s.modCore_oneCore _ _ d hd
    · rw [State.coreAt_congr (State.modCluster_cores _ _ _)]
      exact State.coreAt_modCore _ _ _

end Sys2Proof.Machine
end

section
/-!
The halt of a core, the end of a hold and the watchdog (R77, R84, R86).
-/

namespace Sys2Proof.Machine

open Sys2Proof

/-! ## What the end of a run leaves of a halt -/

theorem Core.halted_halting : Core.Halting fun a b => a.halted = true → b.halted = true where
  refl _ := id
  trans a b := b ∘ a
  stopped k _ h := by simp [Core.stopped, h]
  slots _ _ h := h

/-- Entering a state keeps the stamp of the last halt. -/
theorem Cluster.enter_lastHalt (k : Cluster) (aim : CState) : (k.enter aim).lastHalt = k.lastHalt := by
  unfold Cluster.enter
  extract_lets c
  have hc : c.lastHalt = k.lastHalt := by
    simp only [c]
    split
    · rfl
    · rfl
  split
  · exact hc
  · exact hc
  · split
    · exact hc
    · exact hc

/-- What a step on clusters keeps of one of them holds after the step was made on each of a list. -/
theorem State.cluster_eachCluster_holds {P : Cluster → Prop} {g : Cluster → Cluster} (hg : ∀ k, P k → P (g k)) (s : State) (l : List Nat) {c : Nat}
    (h : P (s.cluster c)) : P ((s.each l fun t c => t.modCluster c g).cluster c) :=
  State.each_induct (P := fun t => P (t.cluster c)) h fun t ht n _ => by
    by_cases hc : c = n
    · subst hc
      rw [State.cluster_modCluster]
      exact hg _ ht
    · rwa [State.cluster_modCluster_ne _ _ _ _ hc]

section
variable {P : Cluster → Prop} (hx : ∀ k aim, P k → P (k.enter aim)) (hg : ∀ k : Cluster, P k → P { k with ganged := false, gang := [], haltSeen := [] })
include hx

theorem State.rest_holds (s : State) (p : Nat) {c : Nat} (h : P (s.cluster c)) : P ((s.rest p).cluster c) := by
  unfold State.rest
  extract_lets q
  split
  · exact h
  · exact s.cluster_eachCluster_holds (fun k => hx k _) _ h

theorem State.afterRun_holds (s : State) (p : Nat) {c : Nat} (h : P (s.cluster c)) : P ((s.afterRun p).cluster c) := by
  unfold State.afterRun
  extract_lets q committed
  split
  · exact s.cluster_eachCluster_holds (fun k => hx k _) _ h
  · exact s.rest_holds hx p h

include hg

theorem State.stopRun_holds (s : State) (p : Nat) {c : Nat} (h : P (s.cluster c)) : P ((s.stopRun p).cluster c) := by
  unfold State.stopRun
  split
  · exact h
  · next run _ =>
    extract_lets cls u v w w' y y' z
    have hu : u.clusters = s.clusters := Fld.of_each (f := .clusters) _ fun t n => State.haltCore_of (fd := .clusters) _ _ (by decide)
    have hv : v.clusters = u.clusters := State.abandonLoads_of (fd := .clusters) _ _ _ (by decide)
    have hw : P (w.cluster c) := v.cluster_eachCluster_holds (g := fun k => { k with ganged := false, gang := [], haltSeen := [] }) hg cls
      (by rw [State.cluster_congr hv, State.cluster_congr hu]; exact h)
    have hy : y.clusters = w.clusters :=
      (State.releasePart_of (fd := .clusters) _ _ _ (by decide)).trans (State.stopLinks_of (fd := .clusters) _ _ (by decide))
    have hz : z.clusters = y.clusters := by
      simp only [z]
      split
      · exact State.markDelay_of (fd := .clusters) _ _ _ _ (by decide)
      · rfl
    exact z.afterRun_holds hx p (by rw [State.cluster_congr hz, State.cluster_congr hy]; exact hw)

end

section
variable {α : Type} {x : Cluster → α} (hx : ∀ k aim, x (k.enter aim) = x k)
include hx

theorem State.stopRun_keeps (hg : ∀ k : Cluster, x { k with ganged := false, gang := [], haltSeen := [] } = x k) (s : State) (p c : Nat) :
    x ((s.stopRun p).cluster c) = x (s.cluster c) :=
  s.stopRun_holds (P := fun k => x k = x (s.cluster c)) (fun k aim => (hx k aim).trans) (fun k => (hg k).trans) p rfl

end

theorem State.fixSwitch_lastHalt (s : State) (p c : Nat) : ((s.fixSwitch p).cluster c).lastHalt = (s.cluster c).lastHalt := by
  unfold State.fixSwitch
  extract_lets q
  split
  · rfl
  · split
    · split
      · rfl
      · extract_lets t b time flits u
        have hu : (u.cluster c).lastHalt = (s.cluster c).lastHalt := by
          simp only [u]
          split
          · rfl
          · exact s.cluster_eachCluster_keeps (g := fun k => { k with power := .c1 }) (fun _ => rfl) _ c
        exact hu
    · rfl

theorem State.layerEnds_lastHalt (s : State) (p c : Nat) : ((s.layerEnds p).cluster c).lastHalt = (s.cluster c).lastHalt := by
  unfold State.layerEnds
  split
  · rfl
  · split
    · rfl
    · split
      · split
        · rfl
        · rfl
      · extract_lets u
        split
        · exact u.stopRun_keeps Cluster.enter_lastHalt (fun _ => rfl) p c
        · exact u.fixSwitch_lastHalt p c

theorem State.layerEnds_halted (s : State) (p : Nat) : CoreWise (fun a b => a.halted = true → b.halted = true) s (s.layerEnds p) := by
  have same {t u : State} (h : u.cores = t.cores) : CoreWise (fun a b => a.halted = true → b.halted = true) t u := CoreWise.of_cores Core.halted_halting h
  unfold State.layerEnds
  split
  · exact same rfl
  · split
    · exact same rfl
    · split
      · split
        · exact same rfl
        · exact same rfl
      · extract_lets u
        have hu : u.cores = s.cores := rfl
        refine (same hu).trans Core.halted_halting ?_
        split
        · exact .stopRun Core.halted_halting u p
        · exact same (State.fixSwitch_of (fd := .cores) u p (by decide))

/-- A layer that ends in a run that goes on leaves what is beside clusters and partitions. -/
theorem State.layerEnds_goes (s : State) {p : Nat} (h : ∀ run, (s.part p).run = some run → run.stop = none) {fd : Fld}
    (hfd : fd ∉ [.clusters, .parts]) : fd.of (s.layerEnds p) = fd.of s := by
  unfold State.layerEnds
  split
  · rfl
  · next run hrun =>
    split
    · rfl
    · split
      · split
        · rfl
        · exact State.modPart_of _ _ _ (Fld.not_mem hfd)
      · extract_lets u
        rw [if_neg (by simp [h run hrun])]
        exact (State.fixSwitch_of u p hfd).trans (State.modPart_of _ _ _ (Fld.not_mem hfd))

/-! ## A halted core (R77, R182) -/

/-- What the halt of a core leaves before its layer is considered. -/
def State.haltSeen (s : State) (c lc : Nat) : State :=
  { (s.modCore (s.lcore c lc) fun k => { k with halted := true }).modCluster c fun k => { k with lastHalt := s.now } with
    coreEvents := s.coreEvents ++ [(toCl c, Fin.ofNat 256 lc, false, false, true)] }

theorem State.coreHalt_halts {s : State} {c lc at' : Nat} (hclk : s.clocked c = true)
    (hactive : (s.coreAt (s.lcore c lc)).active = true) (hhalted : (s.coreAt (s.lcore c lc)).halted = false)
    (hhold : (s.coreAt (s.lcore c lc)).hold = none) (hat : (s.coreAt (s.lcore c lc)).haltAt = some at')
    (hpt : at' < (s.coreAt (s.lcore c lc)).pt) (hpipe : (s.coreAt (s.lcore c lc)).pipe = []) (hgang : (s.cluster c).gang = []) :
    s.coreHalt c lc = match s.partOf c with | some p => (s.haltSeen c lc).layerEnds p | none => s.haltSeen c lc := by
  unfold State.coreHalt
  simp only [hclk, hactive, hhalted, hhold, hat, hpt, hpipe, hgang, decide_true, Bool.not_false, Option.isNone_none, List.isEmpty_nil,
    Bool.and_self, if_true]
  rfl

theorem State.haltSeen_cores (s : State) (c lc : Nat) :
    (s.haltSeen c lc).cores = (s.modCore (s.lcore c lc) fun k => { k with halted := true }).cores := rfl

theorem State.haltSeen_clusters (s : State) (c lc : Nat) :
    (s.haltSeen c lc).clusters = (s.modCluster c fun k => { k with lastHalt := s.now }).clusters := rfl

theorem State.haltSeen_core (s : State) (c lc : Nat) :
    (s.haltSeen c lc).coreAt (s.lcore c lc) = { s.coreAt (s.lcore c lc) with halted := true } :=
  (State.coreAt_congr (s.haltSeen_cores c lc) _).trans (State.coreAt_modCore ..)

theorem State.haltSeen_lastHalt (s : State) (c lc : Nat) : ((s.haltSeen c lc).cluster c).lastHalt = s.now := by
  rw [State.cluster_congr (s.haltSeen_clusters c lc), State.cluster_modCluster]

section
variable {cl : Cl} {core : LCore} {s : State}

theorem coreHalted_halts {at' : Nat} (hclk : s.clocked cl.val = true) (hactive : (s.coreAt (s.lcore cl.val core.val)).active = true)
    (hhalted : (s.coreAt (s.lcore cl.val core.val)).halted = false) (hhold : (s.coreAt (s.lcore cl.val core.val)).hold = none)
    (hat : (s.coreAt (s.lcore cl.val core.val)).haltAt = some at') (hpt : at' < (s.coreAt (s.lcore cl.val core.val)).pt)
    (hpipe : (s.coreAt (s.lcore cl.val core.val)).pipe = []) (hgang : (s.cluster cl.val).gang = []) :
    let n := s.lcore cl.val core.val
    ∃ t, exec (.coreHalted cl core) s = .next t ∧ (t.coreAt n).halted = true ∧ (t.cluster cl.val).lastHalt = s.now ∧
      t.coreEvents = s.coreEvents ++ [(cl, core, false, false, true)] ∧ t.hbm = s.hbm ∧ t.windows = s.windows ∧
      ((∀ p run, s.partOf cl.val = some p → (s.part p).run = some run → run.stop = none) →
        t = { s with cores := t.cores, clusters := t.clusters, coreEvents := t.coreEvents, parts := t.parts } ∧ OneCore s t n ∧
        t.coreAt n = { s.coreAt n with halted := true }) := by
  intro n
  have hev : (s.haltSeen cl.val core.val).coreEvents = s.coreEvents ++ [(cl, core, false, false, true)] := by
    unfold State.haltSeen
    rw [show toCl cl.val = cl from Fin.ext (Nat.mod_eq_of_lt cl.isLt), show Fin.ofNat 256 core.val = core from Fin.ext (Nat.mod_eq_of_lt core.isLt)]
  have hcore := s.haltSeen_core cl.val core.val
  have hone : OneCore s (s.haltSeen cl.val core.val) n := fun m hm => by
    rw [State.haltSeen_cores]
    exact s.modCore_oneCore n _ m hm
  have hframe (fd : Fld) (hfd : fd ∉ [Fld.cores, .clusters, .coreEvents]) : fd.of (s.haltSeen cl.val core.val) = fd.of s :=
    (Fld.of_upd (L := [.coreEvents]) rfl (Fld.not_mem hfd)).trans
      ((State.modCluster_of _ _ _ (Fld.not_mem hfd)).trans (State.modCore_of _ _ _ (Fld.not_mem hfd)))
  refine ⟨s.coreHalt cl.val core.val, rfl, ?_⟩
  rw [State.coreHalt_halts hclk hactive hhalted hhold hat hpt hpipe hgang]
  split
  · next p hp =>
    refine ⟨(s.haltSeen cl.val core.val).layerEnds_halted p n (by rw [hcore]), ?_, ?_, ?_, ?_, fun hstop => ?_⟩
    · rw [State.layerEnds_lastHalt, State.haltSeen_lastHalt]
    · exact (State.layerEnds_of (fd := .coreEvents) _ p (by decide)).trans hev
    · exact (State.layerEnds_of (fd := .hbm) _ p (by decide)).trans (hframe .hbm (by decide))
    · exact (State.layerEnds_of (fd := .windows) _ p (by decide)).trans (hframe .windows (by decide))
    · have hgoes {fd : Fld} := (s.haltSeen cl.val core.val).layerEnds_goes (p := p) (fd := fd) fun run hrun => by
        refine hstop p run hp ?_
        rwa [State.part_congr (hframe .parts (by decide))] at hrun
      have hcores := hgoes (fd := .cores) (by decide)
      refine ⟨State.eq_patch [.cores, .clusters, .coreEvents, .parts] fun fd hfd => (hgoes (Fld.not_mem hfd)).trans (hframe fd (Fld.not_mem hfd)), ?_, ?_⟩
      · intro m hm
        rw [show State.cores _ = _ from hcores]
        exact hone m hm
      · rw [State.coreAt_congr hcores, hcore]
  · exact ⟨by rw [hcore], s.haltSeen_lastHalt _ _, hev, hframe .hbm (by decide), hframe .windows (by decide),
      fun _ => ⟨State.eq_patch [.cores, .clusters, .coreEvents, .parts] fun fd hfd => hframe fd (Fld.not_mem hfd), hone, hcore⟩⟩

end

/-! ## The watchdog (R86, R316) -/

/-- What the watchdog of a core leaves when it trips. -/
structure Trips (cl : Cl) (core : LCore) (s t : State) : Prop where
  frame : t = { s with cores := t.cores, coreEvents := s.coreEvents ++ [(cl, core, false, true, false)], parts := t.parts
                       faults := t.faults, faultSeq := t.faultSeq, faultsLost := t.faultsLost }
  cores : OneCore s t (s.lcore cl.val core.val)
  core : t.coreAt (s.lcore cl.val core.val) = { s.coreAt (s.lcore cl.val core.val) with wdog := true }
  fault : ∃ r ∈ t.faults, r.code = 0x0201#16

section
variable {cl : Cl} {core : LCore} {s : State}

theorem wdogTrip_trips (kind : HoldKind) : Trips cl core s (s.wdogTrip cl.val core.val kind) := by
  unfold State.wdogTrip
  extract_lets n u v
  have hv : v.coreEvents = s.coreEvents ++ [(cl, core, false, true, false)] := by
    simp only [v, u]
    rw [State.modCore_coreEvents, show toCl cl.val = cl from Fin.ext (Nat.mod_eq_of_lt cl.isLt),
      show Fin.ofNat 256 core.val = core from Fin.ext (Nat.mod_eq_of_lt core.isLt)]
  have hcores : (v.log 0x0201 (v.partOf cl.val) (some cl.val) (some (n % 272)) 0 15 (if kind = .queue then 1 else 0)).cores =
      (s.modCore n fun k => { k with wdog := true }).cores := rfl
  refine ⟨?_, fun m hm => ?_, (State.coreAt_congr hcores n).trans (State.coreAt_modCore ..), ?_⟩
  · rw [← hv]
    rfl
  · rw [hcores]
    exact s.modCore_oneCore n _ m hm
  · exact State.log_mem ..

theorem wdogTrip_parts (kind : HoldKind) : (s.wdogTrip cl.val core.val kind).parts = s.parts :=
  State.wdogTrip_of (fd := .parts) _ _ _ _ (by decide)

theorem deadlock_trips (kind : HoldKind) : Trips cl core s (s.deadlock cl.val core.val kind) := by
  have hw := wdogTrip_trips (cl := cl) (core := core) (s := s) kind
  unfold State.deadlock State.modRunAt
  split
  · exact ⟨by rw [hw.frame]; rfl, hw.cores, hw.core, hw.fault⟩
  · exact hw

theorem deadlock_part (kind : HoldKind) {p : Nat} {run : Run} (hp : s.partOf cl.val = some p) (hrun : (s.part p).run = some run) :
    OnePart s (s.deadlock cl.val core.val kind) p ∧ ((s.deadlock cl.val core.val kind).part p).run = some { run with deadlock := true } := by
  have hparts := wdogTrip_parts (cl := cl) (core := core) (s := s) kind
  have hpart (q : Nat) := State.part_congr hparts q
  have hof : (s.wdogTrip cl.val core.val kind).partOf cl.val = some p := by
    rw [← hp]
    simp only [State.partOf, State.taken, hpart]
  unfold State.deadlock State.modRunAt
  rw [hof]
  refine ⟨fun q hq => ?_, ?_⟩
  · exact (State.part_modPart_ne _ p q _ hq).trans (hpart q)
  · dsimp only
    rw [State.part_modPart, hpart, hrun]
    rfl

/-- The watchdog of a core that holds too long. -/
theorem trip_held {h : Hold} (hw : (s.coreAt (s.lcore cl.val core.val)).wdog = false)
    (hh : (s.coreAt (s.lcore cl.val core.val)).hold = some h) (hclk : s.clocked cl.val = true) (hcount : 4096 ≤ h.count)
    (hover : s.phase ≠ h.phase ∨ (s.causeNow cl.val core.val).isSome = true) :
    s.trip cl.val core.val = s.deadlock cl.val core.val h.kind := by
  have ho : s.holdOver cl.val core.val h = false := by
    unfold State.holdOver
    rcases hover with hp | hc
    · rw [beq_eq_false_iff_ne.2 hp, Bool.and_false, Bool.false_and]
    · rw [Option.isNone_eq_false_iff.2 hc, Bool.and_false]
  unfold State.trip
  simp only [hw, hh, hclk, ho, hcount, decide_true, Bool.not_false, Bool.and_self, if_true, Bool.false_eq_true, if_false]

/-- The watchdog of halted cores that wait for link records too long. -/
theorem trip_waiting {p at' : Nat} {run : Run} (hw : (s.coreAt (s.lcore cl.val core.val)).wdog = false)
    (hh : (s.coreAt (s.lcore cl.val core.val)).hold = none) (hl : (s.coreAt (s.lcore cl.val core.val)).late = none)
    (hrun : s.runAt cl.val = some (p, run)) (hat : run.haltedAt = some at') (hnow : at' + 4096 ≤ s.now) :
    s.trip cl.val core.val = s.deadlock cl.val core.val .queue := by
  unfold State.trip
  simp only [hw, hh, hl, hrun, hat, hnow, if_true, Bool.false_eq_true, if_false]

/-- The watchdog of a core whose fault ended the run in this CCLK. -/
theorem trip_late {kind : HoldKind} (hw : (s.coreAt (s.lcore cl.val core.val)).wdog = false)
    (hh : (s.coreAt (s.lcore cl.val core.val)).hold = none) (hl : (s.coreAt (s.lcore cl.val core.val)).late = some (s.now, kind)) :
    s.trip cl.val core.val = s.wdogTrip cl.val core.val kind := by
  unfold State.trip
  simp only [hw, hh, hl, if_true, Bool.false_eq_true, if_false]

theorem runAt_some {c p : Nat} {run : Run} (h : s.runAt c = some (p, run)) : s.partOf c = some p ∧ (s.part p).run = some run := by
  unfold State.runAt at h
  obtain ⟨q, hq, hr⟩ := Option.bind_eq_some_iff.1 h
  obtain ⟨r, hr, he⟩ := Option.map_eq_some_iff.1 hr
  cases he
  exact ⟨hq, hr⟩

end

/-- Settles O34: a halt is one change of its core before its layer is considered, and a trip the watchdog's mark, its event and its record. -/
theorem haltsAndHolds : Obligations.HaltsAndHolds := by
  unfold Obligations.HaltsAndHolds
  intro cl core h at' p run s hclk n k tripped
  refine ⟨coreHalted_halts hclk, fun hh hcount hphase hcause => ?_, fun hw hh hcount hover => ?_, fun hw hh hl hrun hat hnow => ?_,
    fun kind hw hh hl => ?_, fun hh hcount => ?_⟩
  · have ht : s.holdEnds cl.val core.val = s.modCore n fun k => { k with hold := none } := by
      unfold State.holdEnds State.holdOver
      rw [hh]
      simp only [hclk, hcount, hphase, hcause, decide_true, beq_self_eq_true, Option.isNone_none, Bool.and_self, if_true]
      rfl
    exact ⟨_, congrArg Host.Outcome.next ht, modCore_changes s n _⟩
  · have ht := trip_held hw hh hclk hcount hover
    have htr := deadlock_trips (cl := cl) (core := core) (s := s) h.kind
    exact ⟨_, congrArg Host.Outcome.next ht, ⟨htr.frame, htr.cores, htr.core, htr.fault⟩, fun hp hrun => deadlock_part _ hp hrun⟩
  · have ht := trip_waiting hw hh hl hrun hat hnow
    have htr := deadlock_trips (cl := cl) (core := core) (s := s) .queue
    obtain ⟨hp, hrun⟩ := runAt_some hrun
    exact ⟨_, congrArg Host.Outcome.next ht, ⟨htr.frame, htr.cores, htr.core, htr.fault⟩, deadlock_part _ hp hrun⟩
  · have ht := trip_late hw hh hl
    have htr := wdogTrip_trips (cl := cl) (core := core) (s := s) kind
    exact ⟨_, congrArg Host.Outcome.next ht, ⟨htr.frame, htr.cores, htr.core, htr.fault⟩, wdogTrip_parts kind⟩
  · have ht : s.trip cl.val core.val = s := by
      unfold State.trip
      simp only [show s.coreAt (s.lcore cl.val core.val) = k from rfl, hh, decide_eq_false (Nat.not_le.2 hcount), Bool.and_false, Bool.false_and, Bool.false_eq_true,
        if_false, ite_self]
    exact congrArg Host.Outcome.next ht

end Sys2Proof.Machine
end

section
/-!
The vector and scalar networks (R113 to R122, R129).
-/

namespace Sys2Proof.Machine

open Sys2Proof

/-! ## Ports of a core -/

theorem dirNum_inj {a b : Dir} (h : dirNum a = dirNum b) : a = b := by
  revert h
  cases a <;> cases b <;> decide

theorem Core.sw_modSw (k : Core) (net : Net) (f : Switch → Switch) : (k.modSw net f).sw net = f (k.sw net) := by
  cases net <;> rfl

theorem Core.inPort_modIn (k : Core) (net : Net) (d : Dir) (f : InPort → InPort) : (k.modIn net d f).inPort net d = f (k.inPort net d) := by
  unfold Core.inPort Core.modIn
  rw [Core.sw_modSw]
  exact sget_smod_same ..

theorem Core.inPort_modIn_ne (k : Core) (net : Net) {d e : Dir} (f : InPort → InPort) (h : e ≠ d) :
    (k.modIn net d f).inPort net e = k.inPort net e := by
  unfold Core.inPort Core.modIn
  rw [Core.sw_modSw]
  exact sget_smod_ne _ _ _ _ _ fun he => h (dirNum_inj he)

theorem Core.outPort_modOut (k : Core) (net : Net) (d : Dir) (f : OutPort → OutPort) : (k.modOut net d f).outPort net d = f (k.outPort net d) := by
  unfold Core.outPort Core.modOut
  rw [Core.sw_modSw]
  exact sget_smod_same ..

theorem Core.outPort_modOut_ne (k : Core) (net : Net) {d e : Dir} (f : OutPort → OutPort) (h : e ≠ d) :
    (k.modOut net d f).outPort net e = k.outPort net e := by
  unfold Core.outPort Core.modOut
  rw [Core.sw_modSw]
  exact sget_smod_ne _ _ _ _ _ fun he => h (dirNum_inj he)

/-- The input ports of a core and its fences. -/
def Core.inputs (k : Core) : SMap InPort × SMap InPort × BitVec 4 := (k.vec.inp, k.sca.inp, k.fence)

theorem Core.inputs_modOut (k : Core) (net : Net) (d : Dir) (f : OutPort → OutPort) : (k.modOut net d f).inputs = k.inputs := by
  cases net <;> rfl

theorem Core.inPort_congr {k x : Core} (h : x.inputs = k.inputs) (net : Net) (d : Dir) : x.inPort net d = k.inPort net d := by
  simp only [Core.inputs, Prod.mk.injEq] at h
  obtain ⟨hv, hs, -⟩ := h
  cases net with
  | vec => exact congrArg (sget {} · (dirNum d)) hv
  | sca => exact congrArg (sget {} · (dirNum d)) hs

theorem Core.fenced_congr {k x : Core} (h : x.inputs = k.inputs) (d : Dir) : x.fenced d = k.fenced d := by
  simp only [Core.inputs, Prod.mk.injEq] at h
  exact congrArg (BitVec.getLsbD · (dirNum d)) h.2.2

/-! ## Words passed on -/

/-- The word on its way to a neighbour. -/
def State.sent (s : State) (c lc : Nat) (net : Net) (data : Bytes) (t : Nat) (d : Dir) (c' lc' : Nat) : Flight :=
  { net := net, cl := toCl c', core := Fin.ofNat 272 (s.lcore c' lc' % 272), port := dirOpp d
    time := t + hopCost (s.cluster c) lc d, data := data }

theorem State.sent_congr {s u : State} (h : u.clusters = s.clusters) (c lc : Nat) (net : Net) (data : Bytes) (t : Nat) (d : Dir) (c' lc' : Nat) :
    u.sent c lc net data t d c' lc' = s.sent c lc net data t d c' lc' := by
  unfold State.sent State.lcore
  rw [State.cluster_congr h, State.cluster_congr h]

theorem State.lcore_congr {s u : State} (h : u.clusters = s.clusters) (c lc : Nat) : u.lcore c lc = s.lcore c lc := by
  unfold State.lcore
  rw [State.cluster_congr h]

/-- Passing a word on by an output: nothing where it is fenced or leads nowhere. -/
theorem State.passOut_of_fenced {s : State} {c lc : Nat} {d : Dir} (h : (s.coreAt (s.lcore c lc)).fenced d = true) (net : Net) (data : Bytes) (t : Nat) :
    s.passOut c lc net data t d = s := by
  unfold State.passOut
  extract_lets n
  exact if_pos h

theorem State.passOut_sends {s : State} {c lc c' lc' : Nat} {d : Dir} (h : (s.coreAt (s.lcore c lc)).fenced d = false)
    (hn : neighbour c lc d = some (c', lc')) (net : Net) (data : Bytes) (t : Nat) :
    (s.passOut c lc net data t d).flights = s.flights ++ [s.sent c lc net data t d c' lc'] := by
  unfold State.passOut
  extract_lets n
  rw [if_neg (by rw [h]; decide), hn]
  rfl

theorem State.passOut_keeps (s : State) (c lc : Nat) (net : Net) (data : Bytes) (t : Nat) (d : Dir) :
    ((s.passOut c lc net data t d).coreAt (s.lcore c lc)).inputs = (s.coreAt (s.lcore c lc)).inputs ∧
      ∃ l, (s.passOut c lc net data t d).flights = s.flights ++ l := by
  unfold State.passOut
  extract_lets n
  split
  · exact ⟨rfl, [], (List.append_nil _).symm⟩
  · split
    · exact ⟨rfl, [], (List.append_nil _).symm⟩
    · refine ⟨?_, _, rfl⟩
      have hout (u : State) (hu : ∃ f, u.cores = (s.modCore n fun k => k.modOut net d f).cores) :
          (u.coreAt n).inputs = (s.coreAt n).inputs := by
        obtain ⟨f, hu⟩ := hu
        rw [State.coreAt_congr hu, State.coreAt_modCore, Core.inputs_modOut]
      exact hout _ ⟨_, rfl⟩

theorem State.passOut_clusters (s : State) (c lc : Nat) (net : Net) (data : Bytes) (t : Nat) (d : Dir) :
    (s.passOut c lc net data t d).clusters = s.clusters := State.passOut_of (fd := .clusters) _ _ _ _ _ _ _ (by decide)

section
variable (c lc : Nat) (net : Net) (data : Bytes) (t : Nat)

/-- A word passed on by several outputs, before its discard is counted. -/
def State.passEach (s : State) (outs : List Dir) : State := s.each outs fun u d => u.passOut c lc net data t d

theorem State.passEach_cons (s : State) (d : Dir) (outs : List Dir) :
    s.passEach c lc net data t (d :: outs) = (s.passOut c lc net data t d).passEach c lc net data t outs := rfl

theorem State.passEach_clusters (s : State) (outs : List Dir) : (s.passEach c lc net data t outs).clusters = s.clusters :=
  Fld.of_each (f := .clusters) _ fun u d => u.passOut_clusters c lc net data t d

theorem State.passEach_keeps (s : State) (outs : List Dir) :
    ((s.passEach c lc net data t outs).coreAt (s.lcore c lc)).inputs = (s.coreAt (s.lcore c lc)).inputs ∧
      ∃ l, (s.passEach c lc net data t outs).flights = s.flights ++ l := by
  induction outs generalizing s with
  | nil => exact ⟨rfl, [], (List.append_nil _).symm⟩
  | cons d outs ih =>
    obtain ⟨hk, l, hl⟩ := s.passOut_keeps c lc net data t d
    obtain ⟨hk', l', hl'⟩ := ih (s.passOut c lc net data t d)
    rw [State.lcore_congr (s.passOut_clusters c lc net data t d)] at hk'
    rw [State.passEach_cons]
    exact ⟨hk'.trans hk, l ++ l', by rw [hl', hl, List.append_assoc]⟩

theorem State.passEach_fenced (s : State) {outs : List Dir} (h : ∀ d ∈ outs, (s.coreAt (s.lcore c lc)).fenced d = true) :
    s.passEach c lc net data t outs = s := by
  induction outs with
  | nil => rfl
  | cons d outs ih =>
    rw [State.passEach_cons, State.passOut_of_fenced (h d List.mem_cons_self)]
    exact ih fun e he => h e (List.mem_cons_of_mem _ he)

theorem State.passEach_sends (s : State) {outs : List Dir} {d : Dir} {c' lc' : Nat} (hd : d ∈ outs)
    (h : (s.coreAt (s.lcore c lc)).fenced d = false) (hn : neighbour c lc d = some (c', lc')) :
    s.sent c lc net data t d c' lc' ∈ (s.passEach c lc net data t outs).flights := by
  induction outs generalizing s with
  | nil => exact absurd hd List.not_mem_nil
  | cons e outs ih =>
    have hcl := s.passOut_clusters c lc net data t e
    obtain ⟨hk, -⟩ := s.passOut_keeps c lc net data t e
    obtain ⟨-, l, hl⟩ := (s.passOut c lc net data t e).passEach_keeps c lc net data t outs
    rw [State.passEach_cons]
    rcases List.mem_cons.1 hd with rfl | hd
    · rw [hl, State.passOut_sends h hn]
      exact List.mem_append_left _ (List.mem_append_right _ (List.mem_singleton_self _))
    · rw [← State.sent_congr hcl]
      refine ih _ hd ?_
      rw [State.lcore_congr hcl, Core.fenced_congr hk, h]

end

theorem State.passAll_eq (s : State) (c lc : Nat) (net : Net) (data : Bytes) (t : Nat) (outs : List Dir) :
    s.passAll c lc net data t outs = if outs.any (s.coreAt (s.lcore c lc)).fenced then (s.passEach c lc net data t outs).modCluster c (·.discard 1)
      else s.passEach c lc net data t outs := rfl

theorem satAdd_zero {w : Nat} (c : BitVec w) : satAdd c 0 = c := by
  simp [satAdd, c.isLt]

/-- What a word passed on by several outputs leaves of the state. -/
structure PassesAll (s : State) (c lc : Nat) (net : Net) (data : Bytes) (t : Nat) (outs : List Dir) (u : State) : Prop where
  frame : ∀ fd : Fld, fd ∉ [Fld.cores, .clusters, .flights] → fd.of u = fd.of s
  cores : OneCore s u (s.lcore c lc)
  clusters : OneCluster s u c
  lcore : u.lcore c lc = s.lcore c lc
  inputs : (u.coreAt (s.lcore c lc)).inputs = (s.coreAt (s.lcore c lc)).inputs
  kept : ∀ x ∈ s.flights, x ∈ u.flights
  sends : ∀ d ∈ outs, (s.coreAt (s.lcore c lc)).fenced d = false → ∀ c' lc', neighbour c lc d = some (c', lc') →
    s.sent c lc net data t d c' lc' ∈ u.flights
  fenced : (∀ d ∈ outs, (s.coreAt (s.lcore c lc)).fenced d = true) → u.flights = s.flights
  viol : (u.cluster c).violCount = satAdd (s.cluster c).violCount (if outs.any (s.coreAt (s.lcore c lc)).fenced then 1 else 0)

theorem State.passAll_passes (s : State) (c lc : Nat) (net : Net) (data : Bytes) (t : Nat) (outs : List Dir) :
    PassesAll s c lc net data t outs (s.passAll c lc net data t outs) := by
  have hf := (Eases.passAll (c := c) (lc := lc) s net data t outs).1
  have hframe (fd : Fld) (hfd : fd ∉ [Fld.cores, .clusters, .flights]) := State.passAll_of s c lc net data t outs (Fld.not_mem hfd)
  obtain ⟨hk, l, hl⟩ := s.passEach_keeps c lc net data t outs
  have hflights : (s.passAll c lc net data t outs).flights = (s.passEach c lc net data t outs).flights := by
    rw [State.passAll_eq]
    split
    · rfl
    · rfl
  have hcores : (s.passAll c lc net data t outs).cores = (s.passEach c lc net data t outs).cores := by
    rw [State.passAll_eq]
    split
    · rfl
    · rfl
  refine ⟨hframe, hf.cores, hf.clusters, hf.lcore, ?_, fun x hx => ?_, fun d hd hfence c' lc' hn => ?_, fun hall => ?_, ?_⟩
  · rw [State.coreAt_congr hcores, hk]
  · rw [hflights, hl]
    exact List.mem_append_left _ hx
  · rw [hflights]
    exact s.passEach_sends c lc net data t hd hfence hn
  · rw [hflights, s.passEach_fenced c lc net data t hall]
  · have hcl (b : Nat) := State.cluster_congr (s.passEach_clusters c lc net data t outs) b
    rw [State.passAll_eq]
    split
    · rw [State.cluster_modCluster, hcl]
      rfl
    · rw [hcl, satAdd_zero]

/-! ## Queues and credits -/

theorem Core.enqueue_port (k : Core) (net : Net) (port : Dir) (data : Bytes) (now : Nat) :
    (k.enqueue net port data now).inPort net port = { k.inPort net port with
        queue := (k.inPort net port).queue ++ [{ data := data }]
        headFrom := if (k.inPort net port).queue.isEmpty then now + 1 else (k.inPort net port).headFrom } :=
  (Core.inPort_congr rfl net port).trans (Core.inPort_modIn ..)

theorem Core.enqueue_port_ne (k : Core) (net : Net) {port d : Dir} (data : Bytes) (now : Nat) (h : d ≠ port) :
    (k.enqueue net port data now).inPort net d = k.inPort net d :=
  (Core.inPort_congr rfl net d).trans (Core.inPort_modIn_ne _ _ _ h)

theorem Core.enqueue_changes (k : Core) (net : Net) (port : Dir) (data : Bytes) (now : Nat) :
    k.enqueue net port data now = { k with vec := (k.enqueue net port data now).vec, sca := (k.enqueue net port data now).sca
                                           qmax := (k.enqueue net port data now).qmax } := by
  cases net <;> rfl

theorem State.creditBack_length (s : State) {c lc : Nat} (net : Net) {port : Dir} (h : (neighbour c lc port).isSome = true) :
    (s.creditBack c lc net port).credits.length = s.credits.length + 1 := by
  unfold State.creditBack
  obtain ⟨x, hx⟩ := Option.isSome_iff_exists.1 h
  rw [hx]
  exact List.length_append

theorem State.creditBack_cores (s : State) (c lc : Nat) (net : Net) (port : Dir) : (s.creditBack c lc net port).cores = s.cores :=
  State.creditBack_of (fd := .cores) _ _ _ _ _ (by decide)

theorem State.popHead_port (s : State) (c lc : Nat) (net : Net) (port : Dir) :
    ((s.popHead c lc net port).coreAt (s.lcore c lc)).inPort net port =
      { queue := ((s.coreAt (s.lcore c lc)).inPort net port).queue.drop 1, headFrom := s.now + 1, lastLeave := some s.now } := by
  unfold State.popHead
  rw [State.coreAt_congr (State.creditBack_cores ..), State.coreAt_modCore, Core.inPort_modIn]

theorem State.setHead_queue (s : State) (c lc : Nat) (net : Net) (port : Dir) (outs : List Dir) (rx : Bool) {w : QWord} {rest : List QWord}
    (h : ((s.coreAt (s.lcore c lc)).inPort net port).queue = w :: rest) :
    (((s.setHead c lc net port outs rx).coreAt (s.lcore c lc)).inPort net port).queue = { w with dests := some (outs, rx) } :: rest := by
  unfold State.setHead
  rw [State.coreAt_modCore, Core.inPort_modIn, h]

/-! ## Arrival -/

section
variable {cl : Cl} {core : LCore} {net : Net} {port : Dir} {s : State}

theorem exec_wordArrival (hw : s.wafer = true) :
    exec (.wordArrival cl core net port) s = .next (s.arrive cl.val core.val net port) :=
  congrArg Host.Outcome.next (if_pos hw)

theorem exec_queueWordDepart (hw : s.wafer = true) :
    exec (.queueWordDepart cl core net port) s = .next (s.depart cl.val core.val net port) :=
  congrArg Host.Outcome.next (if_pos hw)

theorem exec_creditReturn (hw : s.wafer = true) : exec (.creditReturn cl core net port) s = .next (s.credit cl.val core.val net port) :=
  congrArg Host.Outcome.next (if_pos hw)

end

/-- An arriving word at a fenced input is gone; another cuts through or joins its queue. -/
theorem State.arrive_eq {s : State} {c lc : Nat} {net : Net} {port : Dir} {f : Flight} (h : s.arriving (s.lcore c lc) net port = some f) :
    s.arrive c lc net port =
      if (s.coreAt (s.lcore c lc)).fenced port then { s with flights := s.flights.erase f }
      else if s.cutsThrough c lc net port then
        (({ s with flights := s.flights.erase f } : State).passAll c lc net f.data s.now
          ((s.coreAt (s.lcore c lc)).destsOf net port).1).creditBack c lc net port
      else ({ s with flights := s.flights.erase f } : State).modCore (s.lcore c lc) fun k => k.enqueue net port f.data s.now := by
  unfold State.arrive
  extract_lets n
  rw [h]
  rfl

/-- The outputs that can take the head of a queue take it. -/
theorem State.depart_eq {s : State} {c lc : Nat} {net : Net} {port : Dir} {w : QWord} {rest : List QWord}
    (hq : ((s.coreAt (s.lcore c lc)).inPort net port).queue = w :: rest)
    (hfrom : ((s.coreAt (s.lcore c lc)).inPort net port).headFrom ≤ s.now) :
    let n := s.lcore c lc
    let d := w.dests.getD ((s.coreAt n).destsOf net port)
    let taken := d.1.filter fun x => s.canPass n net x s.now
    let left := d.1.filter fun x => !s.canPass n net x s.now
    s.depart c lc net port = if taken.isEmpty then s
      else if left.isEmpty && !d.2 then (s.passAll c lc net w.data s.now taken).popHead c lc net port
      else (s.passAll c lc net w.data s.now taken).setHead c lc net port left d.2 := by
  intro n d taken left
  unfold State.depart
  extract_lets k q
  rw [show q.queue = w :: rest from hq]
  dsimp only
  rw [show decide (s.now < q.headFrom) = false from decide_eq_false (Nat.not_lt.2 hfrom), Bool.false_or]

/-- Settles O35: a word is passed on by every open output of it, and a queue, a count of credits or the flights change as the case says. -/
theorem dataNetworks : Obligations.DataNetworks := by
  unfold Obligations.DataNetworks
  intro left
  have hleft {s u t : State} {c lc : Nat} {net : Net} {data : Bytes} {outs : List Dir} (hu : PassesAll s c lc net data s.now outs u)
      (ht : t.flights = u.flights) : left s t c lc net data outs := fun d hd hfence c' lc' hn =>
    ⟨_, ht ▸ hu.sends d hd hfence c' lc' hn, rfl, rfl, rfl, rfl, rfl, rfl⟩
  refine ⟨?_, ?_, ?_⟩
  · intro cl core net port f s hw n q harr
    rw [exec_wordArrival hw, State.arrive_eq harr]
    refine ⟨fun hf => ?_, fun hf hcut => ?_, fun hf hcut => ?_⟩
    · rw [if_pos hf]
    · rw [if_neg (by rw [hf]; decide), if_neg (by rw [hcut]; decide)]
      refine ⟨_, rfl, rfl, State.modCore_oneCore _ n _, ?_⟩
      rw [State.coreAt_modCore]
      exact ⟨Core.enqueue_port .., fun d hd => Core.enqueue_port_ne _ _ _ _ hd, Core.enqueue_changes ..⟩
    · rw [if_neg (by rw [hf]; decide), if_pos hcut]
      have hp := ({ s with flights := s.flights.erase f } : State).passAll_passes cl.val core.val net f.data s.now ((s.coreAt n).destsOf net port).1
      have hcred := State.creditBack_cores (({ s with flights := s.flights.erase f } : State).passAll cl.val core.val net f.data s.now
        ((s.coreAt n).destsOf net port).1) cl.val core.val net port
      have hback (fd : Fld) (hfd : fd ∉ [Fld.credits]) := State.creditBack_of (({ s with flights := s.flights.erase f } : State).passAll cl.val core.val net f.data
        s.now ((s.coreAt n).destsOf net port).1) cl.val core.val net port hfd
      refine ⟨_, rfl, State.eq_patch [.flights, .cores, .clusters, .credits] fun fd hfd => ?_, fun m hm => ?_, fun m hm => ?_, ?_,
        
        fun d hd hfence c' lc' hn => ⟨s.sent cl.val core.val net f.data s.now d c' lc', ?_, rfl, rfl, rfl, rfl, rfl, rfl⟩, fun hn => ?_⟩
      · exact (State.creditBack_of _ _ _ _ _ (Fld.not_mem hfd)).trans ((hp.frame fd (Fld.not_mem hfd)).trans
          (Fld.of_upd (L := [.flights]) rfl (Fld.not_mem hfd)))
      · rw [hcred]
        exact hp.cores m hm
      · rw [show State.clusters _ = _ from hback .clusters (by decide)]
        exact hp.clusters m hm
      · rw [State.coreAt_congr hcred]
        exact Core.inPort_congr hp.inputs net port
      · rw [show State.flights _ = _ from hback .flights (by decide)]
        exact hp.sends d hd hfence c' lc' hn
      · rw [State.creditBack_length _ _ hn]
        exact congrArg (List.length · + 1) (hp.frame .credits (by decide))
  · intro cl core net port w rest s hw n k q d taken hq hfrom
    have hdep := State.depart_eq hq hfrom
    rw [exec_queueWordDepart hw, hdep]
    refine ⟨fun ht => ?_, fun ht => ?_⟩
    · rw [if_pos (List.isEmpty_iff.2 ht)]
    · rw [if_neg (mt List.isEmpty_iff.1 ht)]
      have hp := s.passAll_passes cl.val core.val net w.data s.now taken
      have hall : (d.1.filter fun x => !s.canPass n net x s.now) = [] ↔ taken = d.1 := by
        simp only [taken, List.filter_eq_nil_iff, List.filter_eq_self, Bool.not_eq_true', Bool.not_eq_false]
      have hport : ((s.passAll cl.val core.val net w.data s.now taken).coreAt n).inPort net port = q := Core.inPort_congr hp.inputs net port
      have hrest (v : State) (hv : ∀ fd : Fld, fd ∉ [Fld.cores, .credits] → fd.of v = fd.of (s.passAll cl.val core.val net w.data s.now taken))
          (hone : OneCore (s.passAll cl.val core.val net w.data s.now taken) v n) :
          v = { s with flights := v.flights, cores := v.cores, clusters := v.clusters, credits := v.credits } ∧ OneCore s v n ∧
            OneCluster s v cl.val ∧ left s v cl.val core.val net w.data taken ∧
            ((∀ x ∈ taken, k.fenced x = true) → v.flights = s.flights) ∧
            (v.cluster cl.val).violCount = satAdd (s.cluster cl.val).violCount (if taken.any k.fenced then 1 else 0) := by
        have hcl : v.clusters = _ := hv .clusters (by decide)
        have hfl : v.flights = _ := hv .flights (by decide)
        refine ⟨State.eq_patch [.flights, .cores, .clusters, .credits] fun fd hfd => ?_, fun m hm => (hone m hm).trans (hp.cores m hm),
          fun m hm => ?_, hleft hp hfl, fun hf => hfl.trans (hp.fenced hf), ?_⟩
        · exact (hv fd (Fld.not_mem hfd)).trans (hp.frame fd (Fld.not_mem hfd))
        · rw [hcl]
          exact hp.clusters m hm
        · rw [State.cluster_congr hcl]
          exact hp.viol
      by_cases hend : taken = d.1 ∧ d.2 = false
      · rw [if_pos (by rw [hall.2 hend.1, hend.2]; rfl)]
        have hone := (Eases.popHead (c := cl.val) (lc := core.val) (s.passAll cl.val core.val net w.data s.now taken) net port).1.cores
        have hpop := (s.passAll cl.val core.val net w.data s.now taken).popHead_port cl.val core.val net port
        rw [hp.lcore] at hone hpop
        rw [hport, hq, show State.now _ = _ from hp.frame .now (by decide)] at hpop
        obtain ⟨h1, h2, h3, h4, h5, h6⟩ := hrest _ (fun fd hfd => State.popHead_of _ _ _ _ _ hfd) hone
        refine ⟨_, rfl, h1, h2, h3, h4, fun _ _ => ⟨?_, ?_, fun hn => ?_⟩, fun h => absurd hend h, h5, h6⟩
        · rw [hpop]
          rfl
        · rw [hpop]
          rfl
        · unfold State.popHead
          rw [State.creditBack_length _ _ hn]
          exact congrArg (List.length · + 1) (hp.frame .credits (by decide))
      · rw [if_neg (by rw [Bool.and_eq_true_iff, List.isEmpty_iff, hall, Bool.not_eq_true']; exact hend)]
        have hone := (Eases.setHead (c := cl.val) (lc := core.val) (s.passAll cl.val core.val net w.data s.now taken) net port
          (d.1.filter fun x => !s.canPass n net x s.now) d.2).1.cores
        have hset := (s.passAll cl.val core.val net w.data s.now taken).setHead_queue cl.val core.val net port
          (d.1.filter fun x => !s.canPass n net x s.now) d.2 (w := w) (rest := rest) (by rw [hp.lcore, hport]; exact hq)
        rw [hp.lcore] at hone hset
        obtain ⟨h1, h2, h3, h4, h5, h6⟩ := hrest _ (fun fd hfd => State.setHead_of _ _ _ _ _ _ _ (Fld.not_mem hfd)) hone
        exact ⟨_, rfl, h1, h2, h3, h4, fun ha hb => absurd ⟨ha, hb⟩ hend, fun _ => ⟨hp.frame .credits (by decide), hset⟩, h5, h6⟩
  · intro cl core net out s hw n o
    rw [exec_creditReturn hw]
    have hcore : (s.credit cl.val core.val net out).coreAt n = (s.coreAt n).modOut net out fun o => { o with used := o.used - s.creditsBy n net out s.now } :=
      State.coreAt_modCore ..
    refine ⟨_, rfl, rfl, State.modCore_oneCore _ n _, ?_⟩
    rw [hcore]
    refine ⟨Core.outPort_modOut .., ?_, fun x hx hfor => ?_, fun d hd => Core.outPort_modOut_ne _ _ _ hd⟩
    · refine List.length_eq_zero_iff.2 (List.filter_eq_nil_iff.2 fun x hx => ?_)
      have hx := (List.mem_filter.1 hx).2
      exact fun h => absurd hx (by rw [h]; decide)
    · exact List.mem_filter.2 ⟨hx, by rw [hfor]; rfl⟩

end Sys2Proof.Machine
end

section
/-!
Frames on the strings (R130 to R137).
-/

namespace Sys2Proof.Machine

open Sys2Proof

/-! ## Values of a canonical map -/

/-- A canonical map lists each key once, with its value. -/
theorem mem_of_swf {α : Type} [DecidableEq α] {d : α} {m : SMap α} (h : swf d m = true) {k : Nat} {v : α} :
    (k, v) ∈ m ↔ sget d m k = v ∧ v ≠ d := by
  induction m with
  | nil => exact ⟨fun hm => absurd hm List.not_mem_nil, fun ⟨hv, hd⟩ => absurd hv.symm hd⟩
  | cons x r ih =>
    obtain ⟨j, w⟩ := x
    obtain ⟨hw, hlt, hr⟩ := swf_cons h
    by_cases hj : j = k
    · subst hj
      have hget : sget d ((j, w) :: r) j = w := by simp [sget, sfind?]
      rw [hget, List.mem_cons, Prod.mk.injEq]
      refine ⟨fun hm => ?_, fun ⟨hv, _⟩ => .inl ⟨rfl, hv.symm⟩⟩
      rcases hm with ⟨-, rfl⟩ | hm
      · exact ⟨rfl, hw⟩
      · exact absurd (hlt _ hm) (lt_irrefl _)
    · have hget : sget d ((j, w) :: r) k = sget d r k := by simp [sget, sfind?, hj]
      rw [hget, ← ih hr, List.mem_cons, Prod.mk.injEq]
      exact or_iff_right fun hm => hj hm.1.symm

theorem nodup_keys_of_swf {α : Type} [DecidableEq α] {d : α} {m : SMap α} (h : swf d m = true) : (m.map (·.1)).Nodup :=
  List.pairwise_map.2 (((swf_iff d m).1 h).2.imp Nat.ne_of_lt)

/-! ## Where a frame goes -/

section
variable {s : State} {h : Hdr} (act : State → Nat → State)

theorem State.frame_down (hs : s.supply ≠ .up) : s.frame h act = s := by
  unfold State.frame
  rw [if_pos (bne_iff_ne.2 hs)]

theorem State.frame_up (hs : s.supply = .up) : s.frame h act = match h.dest with
    | .cluster d => match s.lostTo h.src d.val with
      | some n => s.modCluster n Cluster.drop
      | none => if s.delivers h.src d.val then act s d.val else s.modCluster d.val Cluster.drop
    | .part p =>
      if s.fromPart h.src p then
        s.each ((s.clusters.filter fun x => x.2.assigned && x.2.partition == p).map (·.1)) act
      else s := by
  unfold State.frame
  rw [if_neg (by rw [hs]; decide)] <;> rfl

theorem State.frame_lost (hs : s.supply = .up) {d : Cl} {n : Nat} (hd : h.dest = .cluster d) (hl : s.lostTo h.src d.val = some n) :
    s.frame h act = s.modCluster n Cluster.drop := by
  rw [State.frame_up act hs, hd]
  dsimp only
  rw [hl]

theorem State.frame_refused (hs : s.supply = .up) {d : Cl} (hd : h.dest = .cluster d) (hl : s.lostTo h.src d.val = none)
    (hr : s.delivers h.src d.val = false) : s.frame h act = s.modCluster d.val Cluster.drop := by
  rw [State.frame_up act hs, hd]
  dsimp only
  rw [hl]
  exact if_neg (by rw [hr]; decide)

theorem State.frame_delivered (hs : s.supply = .up) {d : Cl} (hd : h.dest = .cluster d) (hl : s.lostTo h.src d.val = none)
    (hr : s.delivers h.src d.val = true) : s.frame h act = act s d.val := by
  rw [State.frame_up act hs, hd]
  dsimp only
  rw [hl]
  exact if_pos hr

theorem State.frame_unheard (hs : s.supply = .up) {p : Part} (hd : h.dest = .part p) (hr : s.fromPart h.src p = false) : s.frame h act = s := by
  rw [State.frame_up act hs, hd]
  exact if_neg (by rw [hr]; decide)

theorem State.frame_broadcast (hs : s.supply = .up) {p : Part} (hd : h.dest = .part p) (hr : s.fromPart h.src p = true) :
    s.frame h act = s.each ((s.clusters.filter fun x => x.2.assigned && x.2.partition == p).map (·.1)) act := by
  rw [State.frame_up act hs, hd]
  exact if_pos hr

end

/-- Of a canonical state, the clusters listed for a partition are those assigned to it. -/
theorem State.mem_assigned {s : State} (hs : swf {} s.clusters = true) (p : Part) (c : Nat) :
    c ∈ (s.clusters.filter fun x => x.2.assigned && x.2.partition == p).map (·.1) ↔
      (s.cluster c).assigned = true ∧ (s.cluster c).partition = p := by
  rw [List.mem_map]
  constructor
  · rintro ⟨⟨c, k⟩, hk, rfl⟩
    obtain ⟨hm, hp⟩ := List.mem_filter.1 hk
    obtain ⟨hget, -⟩ := (mem_of_swf hs).1 hm
    rw [show s.cluster c = k from hget]
    simpa using hp
  · rintro ⟨ha, hp⟩
    have hne : s.cluster c ≠ {} := fun he => absurd (he ▸ ha) (by decide)
    exact ⟨(c, s.cluster c), List.mem_filter.2 ⟨(mem_of_swf hs).2 ⟨rfl, hne⟩, by rw [ha, hp, beq_self_eq_true]; rfl⟩, rfl⟩

/-- A step that changes one cluster. -/
theorem modCluster_changes (s : State) (n : Nat) (f : Cluster → Cluster) : ClustersOnly s (s.modCluster n f) ∧
    OneCluster s (s.modCluster n f) n ∧ (s.modCluster n f).cluster n = f (s.cluster n) :=
  ⟨rfl, fun c hc => sget_smod_ne (α := Cluster) _ _ _ _ _ hc, State.cluster_modCluster s n f⟩

/-- Settles O36: whatever a frame carries, only the delivery at its destination depends on it. -/
theorem frameRights : Obligations.FrameRights := by
  unfold Obligations.FrameRights
  intro hdr reg val slot place first rows cols words kind index tag s every lost
  have hevery {t : State} (ht : ∀ act, s.frame hdr act = t) : every s t :=
    ⟨congrArg Host.Outcome.next (ht _), congrArg Host.Outcome.next (ht _), congrArg Host.Outcome.next (ht _),
      congrArg Host.Outcome.next (ht _), congrArg Host.Outcome.next (ht _), congrArg Host.Outcome.next (ht _),
      congrArg Host.Outcome.next (ht _), congrArg Host.Outcome.next (ht _), congrArg Host.Outcome.next (ht _)⟩
  refine ⟨fun hs => hevery fun act => State.frame_down act hs,
    fun d n hs hd hl => ⟨_, hevery fun act => State.frame_lost act hs hd hl, modCluster_changes s n Cluster.drop⟩,
    fun d hs hd hl hr => ⟨_, hevery fun act => State.frame_refused act hs hd hl hr, modCluster_changes s d.val Cluster.drop⟩,
    fun p hs hd hr => hevery fun act => State.frame_unheard act hs hd hr, fun p hs hcan hd hr => ?_⟩
  have hwf : swf {} s.clusters = true := by
    obtain ⟨-, -, -, -, hwf, -⟩ := (canonical_iff s).1 hcan
    exact hwf
  refine ⟨_, congrArg Host.Outcome.next (State.frame_broadcast _ hs hd hr), ?_, fun c => ?_⟩
  · exact State.eq_patch [.clusters] fun fd hfd => Fld.of_each (f := fd) _ fun t c => State.modCluster_of _ _ _ (Fld.not_mem hfd)
  · rw [State.cluster_modAll s (fun c k => k.storeData place.val first words)
      ((nodup_keys_of_swf hwf).sublist (List.Sublist.map _ List.filter_sublist))]
    exact if_congr (State.mem_assigned hwf p c) rfl rfl

end Sys2Proof.Machine
end

section
/-!
Registers and slots over the strings (R131, R137, R139, R177, R186, R344).
-/

namespace Sys2Proof.Machine

open Sys2Proof

/-! ## Frames for the cores of a cluster -/

theorem forNode_iff (h : Hdr) : forNode h = true ↔ h.target = 0x1FF#9 := beq_iff_eq

/-- A frame for one core is for no node. -/
theorem forNode_of_lt {h : Hdr} (ht : h.target.toNat < 272) : forNode h = false := by
  refine Bool.eq_false_iff.2 fun hf => ?_
  rw [(forNode_iff h).1 hf] at ht
  exact absurd ht (by decide)

theorem targetCores_of_lt {t : Nat} (ht : t < 272) : targetCores t = [t] := if_pos ht

/-- A cluster that is in C0 takes frames. -/
theorem Cluster.noTarget_of_c0 {k : Cluster} (h : k.at .c0 = true) : k.noTarget = false := by
  obtain ⟨hp, ht⟩ := Bool.and_eq_true_iff.1 h
  unfold Cluster.noTarget
  rw [Option.isNone_iff_eq_none.1 ht, eq_of_beq hp]
  rfl

section
variable {s : State} {c : Nat} {h : Hdr} {f : CoreFrame}

theorem State.toCores_c0 (hc : (s.cluster c).at .c0 = true) : s.toCores c h f = s.coresGet c h f := by
  unfold State.toCores
  extract_lets k
  rw [if_neg (by rw [Cluster.noTarget_of_c0 hc]; decide), if_pos hc]

theorem State.toCores_refused (hc : (s.cluster c).noTarget = true) : s.toCores c h f = s.refuseRow c h f := by
  unfold State.toCores
  extract_lets k
  rw [if_pos hc]

theorem State.coresFor_one (ht : h.target.toNat < 272) (hf : ∀ slot first rows cols words, f ≠ .slotData slot first rows cols words) :
    s.coresFor c h f = [h.target.toNat] := by
  unfold State.coresFor
  extract_lets l
  have hl : l = [h.target.toNat] := targetCores_of_lt ht
  split
  · exact absurd rfl (hf _ _ _ _ _)
  · exact hl

/-- A frame for one core reaches that core. -/
theorem State.coresGet_one (ht : h.target.toNat < 272) (hf : ∀ slot first rows cols words, f ≠ .slotData slot first rows cols words) :
    s.coresGet c h f = s.coreGets c h.target.toNat h f := by
  unfold State.coresGet
  rw [State.coresFor_one ht hf]
  rfl

/-- A row node refuses a frame for one core. -/
theorem State.refuseRow_one (ht : h.target.toNat < 272) (hf : ∀ slot first rows cols words, f ≠ .slotData slot first rows cols words) :
    s.refuseRow c h f = { s with noTargets := s.noTargets ++ [(toCl c, h.src, h.target)] } := by
  unfold State.refuseRow
  rw [State.coresFor_one ht hf, List.map_singleton, BitVec.ofNat_toNat, BitVec.setWidth_eq]

/-- A frame for a cluster in C1 waits at the row node, with a wake. -/
theorem State.toCores_waits (hc : (s.cluster c).noTarget = false) (h0 : (s.cluster c).at .c0 = false) (hb : s.breathes c = false) :
    s.toCores c h f = (s.modCluster c fun k => { k with rowWait := k.rowWait ++ [(h, f)] }).modCluster c (·.wake .c0) := by
  unfold State.toCores
  extract_lets k u
  rw [if_neg (by rw [hc]; decide), if_neg (by rw [h0]; decide), if_neg (by rw [show u.breathes c = s.breathes c from rfl, hb]; decide)]

end

theorem Cluster.wake_rowWait (k : Cluster) (aim : CState) (l : List (Hdr × CoreFrame)) :
    ({ k with rowWait := l } : Cluster).wake aim = { k.wake aim with rowWait := l } := by
  unfold Cluster.wake
  rw [show Cluster.mayWake { k with rowWait := l } = k.mayWake from rfl]
  split
  · rcases ht : k.trans with _ | ⟨e, w⟩ | e
    · dsimp only
      split
      · rfl
      · simp only [ht]
    · rfl
    · rfl
  · rfl

/-! ## Registers -/

theorem Cluster.writeCfg_eq (k : Cluster) (v : BitVec 64) : k.writeCfg v =
    { k with assigned := v.getLsbD 8, partition := Fin.ofNat 16 (v.extractLsb' 4 4).toNat, linksOff := ~~~(v.setWidth 4) } := by
  have hp : (Fin.ofNat 16 (bitsOf v.toNat 7 4) : Part) = Fin.ofNat 16 (v.extractLsb' 4 4).toNat := by
    refine congrArg (Fin.ofNat 16) ?_
    rw [BitVec.extractLsb'_toNat, Nat.shiftRight_eq_div_pow]
    rfl
  unfold Cluster.writeCfg
  rw [hp]

section
variable {hdr : Hdr} {d : Cl} {reg : StrReg} {s : State}

/-- A frame that its destination takes. -/
structure Taken (hdr : Hdr) (d : Cl) (s : State) : Prop where
  up : s.supply = .up
  dest : hdr.dest = .cluster d
  way : s.lostTo hdr.src d.val = none
  delivers : s.delivers hdr.src d.val = true

theorem Taken.frame (h : Taken hdr d s) (act : State → Nat → State) : s.frame hdr act = act s d.val :=
  State.frame_delivered act h.up h.dest h.way h.delivers

/-- A read of a core's register goes to the row node. -/
theorem Taken.regRead (h : Taken hdr d s) (ht : hdr.target.toNat < 272) (hr : nodeReg reg = false) :
    exec (.regRead hdr reg) s = .next (s.toCores d.val hdr (.regRead reg)) := by
  refine congrArg Host.Outcome.next ((h.frame _).trans ?_)
  rw [if_neg (by rw [hr]; decide), if_neg (by rw [forNode_of_lt ht]; decide)]

/-- And a write of one. -/
theorem Taken.regWrite (h : Taken hdr d s) (ht : hdr.target.toNat < 272) (hr : nodeReg reg = false) (val : BitVec 64) :
    exec (.regWrite hdr reg val) s = .next (s.toCores d.val hdr (.regWrite reg val)) := by
  refine congrArg Host.Outcome.next ((h.frame _).trans ?_)
  rw [if_neg (by rw [hr]; decide), if_neg (by rw [forNode_of_lt ht]; decide)]

/-- A read or a write of one core in C0. -/
theorem Taken.coreGets (h : Taken hdr d s) (ht : hdr.target.toNat < 272) (hc : (s.cluster d.val).at .c0 = true) (hr : nodeReg reg = false) (val : BitVec 64) :
    exec (.regRead hdr reg) s = .next (s.coreGets d.val hdr.target.toNat hdr (.regRead reg)) ∧
      exec (.regWrite hdr reg val) s = .next (s.coreGets d.val hdr.target.toNat hdr (.regWrite reg val)) := by
  rw [h.regRead ht hr, h.regWrite ht hr, State.toCores_c0 hc, State.toCores_c0 hc, State.coresGet_one ht (by intros; nofun),
    State.coresGet_one ht (by intros; nofun)]
  exact ⟨rfl, rfl⟩

end

/-- Settles O37: a read leaves a reply, a write is one change of its core or node, and a row node that takes no frames refuses. -/
theorem registerFrames : Obligations.RegisterFrames := by
  unfold Obligations.RegisterFrames
  intro hdr d reg i m val x s hs c n k there
  have htaken (h : there) : Taken hdr d s := ⟨hs, h.1, h.2.1, h.2.2⟩
  have hd : toCl c = d := Fin.ext (Nat.mod_eq_of_lt d.isLt)
  refine ⟨fun h ht hc hr => ?_, fun h ht hr => ?_, fun h ht hc hm => ?_, fun h ht hc => ?_, fun h ht => ?_, fun h ht hc hr => ?_,
    fun h ht hc h0 hr hb => ?_, fun hx => ⟨fun hl => ?_, fun l hl => ?_⟩, fun hx => ?_⟩
  · refine ⟨_, ((htaken h).coreGets ht hc hr val).1, ?_⟩
    exact congrArg (fun y => { s with regReplies := s.regReplies ++ [(y, hdr, reg, BitVec.ofNat 128 ((s.coreAt n).readReg reg))] }) hd
  · refine ⟨{ s with regReplies := s.regReplies ++ [(d, hdr, reg, BitVec.ofNat 128 (s.readNode c reg))] }, ?_, rfl⟩
    refine congrArg Host.Outcome.next (((htaken h).frame _).trans ?_)
    rw [if_pos hr]
    unfold State.toNode
    rw [if_pos ((forNode_iff hdr).2 ht)]
    exact congrArg (fun y => { s with regReplies := s.regReplies ++ [(y, hdr, reg, BitVec.ofNat 128 (s.readNode c reg))] }) hd
  · obtain ⟨h1, h2, h3⟩ := modCore_changes s n (·.setReg i.toNat (val.setWidth 40))
    refine ⟨s.modCore n (·.setReg i.toNat (val.setWidth 40)), ((htaken h).coreGets (reg := .coSet i) ht hc rfl val).2, h1, h2, ?_⟩
    rw [h3]
    exact ⟨Core.setReg_eq .., Core.reg_setReg_same _ _ hm, fun j hj => Core.reg_setReg_ne _ _ hj⟩
  · exact ⟨_, ((htaken h).coreGets (reg := .coFence) ht hc rfl val).2, modCore_changes s n (·.writeReg .coFence val)⟩
  · refine ⟨s.modCluster c (·.writeCfg val), ?_, ?_⟩
    · refine congrArg Host.Outcome.next (((htaken h).frame _).trans ?_)
      rw [if_pos (show nodeReg .nodeCfg = true from rfl)]
      unfold State.toNode
      rw [if_pos ((forNode_iff hdr).2 ht)]
      exact if_pos rfl
    · rw [← Cluster.writeCfg_eq]
      exact modCluster_changes s c (·.writeCfg val)
  · refine ⟨_, rfl, ?_, ?_⟩
    · rw [(htaken h).regRead ht hr, State.toCores_refused hc, State.refuseRow_one ht (by intros; nofun), hd]
    · rw [(htaken h).regWrite ht hr, State.toCores_refused hc, State.refuseRow_one ht (by intros; nofun), hd]
  · have ht := (htaken h).regRead ht hr
    rw [State.toCores_waits hc h0 hb] at ht
    refine ⟨_, ht, rfl, fun j hj => ?_, ?_⟩
    · exact ((s.modCluster c _).cluster_modCluster_ne c j _ hj).trans (s.cluster_modCluster_ne c j _ hj)
    · rw [State.cluster_modCluster, State.cluster_modCluster]
      exact Cluster.wake_rowWait ..
  · refine congrArg Host.Outcome.next ?_
    rw [hx]
    dsimp only
    rw [hl]
  · obtain ⟨h1, h2, h3⟩ := modCluster_changes { s with regReplies := s.regReplies.erase x } l Cluster.drop
    refine ⟨({ s with regReplies := s.regReplies.erase x } : State).modCluster l Cluster.drop, congrArg Host.Outcome.next ?_, h1, h2, h3⟩
    rw [hx]
    dsimp only
    rw [hl]
  · refine congrArg Host.Outcome.next ?_
    rw [List.find?_eq_none.2 fun y hy => by simpa using hx y hy]

end Sys2Proof.Machine
end

section
/-!
SLOT_DATA and STORE_DATA (R71, R137, R177, R186).
-/

namespace Sys2Proof.Machine

open Sys2Proof

/-! ## Logical and physical cores -/

/-- The logical core at a physical core's place is the one placed there. -/
theorem Cluster.logical_phys (k : Cluster) (lc : Nat) : k.logical (k.phys lc) = some lc := by
  unfold Cluster.logical Cluster.phys
  have hp : physCol (k.omitCol (lc / 16)) (lc % 16) < 17 := by
    unfold physCol
    split <;> omega
  have hr : (17 * (lc / 16) + physCol (k.omitCol (lc / 16)) (lc % 16)) / 17 = lc / 16 := by omega
  have hc : (17 * (lc / 16) + physCol (k.omitCol (lc / 16)) (lc % 16)) % 17 = physCol (k.omitCol (lc / 16)) (lc % 16) := by omega
  simp only [hr, hc]
  unfold physCol
  split
  · next hlt =>
    rw [if_neg (by omega)]
    exact congrArg some (Nat.div_add_mod lc 16)
  · rw [if_neg (by omega), if_neg (by omega)]
    refine congrArg some ?_
    have := Nat.div_add_mod lc 16
    omega

/-! ## Words for slots and image stores -/

/-- A word for a slot of a core, unless the slot is active. -/
theorem Core.writeSlot_active {k : Core} {slot : Fin 4} (h : k.active = true ∧ k.slot = slot) (first : Nat) (words : List (BitVec 64)) :
    k.writeSlot slot.val first words = k := by
  unfold Core.writeSlot
  rw [if_pos (by rw [h.1, h.2, beq_self_eq_true]; rfl)]

theorem Core.writeSlot_free {k : Core} {slot : Fin 4} (h : k.active = false ∨ k.slot ≠ slot) (first : Nat) (words : List (BitVec 64)) :
    k.writeSlot slot.val first words =
      { k with slots := smod {} slot.val (fun o => { o with words := writeWords words first o.words }) k.slots } := by
  unfold Core.writeSlot
  refine if_neg fun hand => ?_
  obtain ⟨ha, hs⟩ := Bool.and_eq_true_iff.1 hand
  rcases h with h | h
  · exact absurd ha (by rw [h]; decide)
  · exact h (Fin.ext (eq_of_beq hs))

theorem writeWords_one {w : BitVec 64} {first : Nat} (h : first < 512) (m : SMap (BitVec 64)) :
    writeWords [w] first m = sput 0#64 first w m := if_pos h

/-- A word written to a free slot of a core. -/
theorem Core.writeSlot_writes {k : Core} {slot : Fin 4} (h : k.active = false ∨ k.slot ≠ slot) {first : Nat} (hf : first < 512) (w : BitVec 64) :
    k.writeSlot slot.val first [w] = { k with slots := (k.writeSlot slot.val first [w]).slots } ∧
      sget 0#64 (sget {} (k.writeSlot slot.val first [w]).slots slot.val).words first = w ∧
      (∀ a, a ≠ first → sget 0#64 (sget {} (k.writeSlot slot.val first [w]).slots slot.val).words a =
        sget 0#64 (sget {} k.slots slot.val).words a) ∧
      ∀ j, j ≠ slot.val → sget {} (k.writeSlot slot.val first [w]).slots j = sget {} k.slots j := by
  rw [Core.writeSlot_free h]
  dsimp only
  rw [sget_smod_same, writeWords_one hf]
  exact ⟨rfl, sget_sput_same .., fun a ha => sget_sput_ne _ _ _ _ _ ha, fun j hj => sget_smod_ne _ _ _ _ _ hj⟩

/-- A word for a place of an image store. -/
theorem Cluster.storeData_one (k : Cluster) {place first : Nat} (hf : first < 512) (w : BitVec 64) :
    k.storeData place first [w] = if (sfind? k.store place).isSome then k else { k with fill := sput 0#64 (512 * place + first) w k.fill } := by
  unfold Cluster.storeData
  simp [List.zipIdx, hf]

/-! ## SLOT_DATA at its cores -/

theorem State.coreAt_eachNodup (s : State) (f : Core → Core) {l : List Nat} {n : Nat} (hl : l.Nodup) (h : n ∈ l) :
    (s.each l fun t n => t.modCore n f).coreAt n = f (s.coreAt n) := by
  induction l generalizing s with
  | nil => exact absurd h List.not_mem_nil
  | cons a r ih =>
    obtain ⟨ha, hr⟩ := List.nodup_cons.1 hl
    rcases List.mem_cons.1 h with rfl | h
    · exact (State.coreAt_eachOut (s.modCore n f) f ha).trans (State.coreAt_modCore ..)
    · exact (ih (s.modCore a f) hr h).trans (congrArg f (State.coreAt_modCore_ne _ _ _ _ fun he : n = a => ha (he ▸ h)))

/-- The physical cores that SLOT_DATA for every core is for. -/
theorem State.mem_coresFor_slotData {s : State} {c : Nat} {h : Hdr} (ht : h.target = 0x1FE#9) {slot : Fin 4} {first : Nat} {rows cols : BitVec 16}
    {words : List (BitVec 64)} {core : LCore} : (s.cluster c).phys core.val ∈ s.coresFor c h (.slotData slot first rows cols words) ↔
      rows.getLsbD (core.val / 16) = true ∧ cols.getLsbD (core.val % 16) = true := by
  have hl : targetCores h.target.toNat = List.range 272 := by
    rw [ht]
    rfl
  unfold State.coresFor
  extract_lets l
  rw [show l = List.range 272 from hl, List.mem_filter, List.mem_range, Cluster.logical_phys]
  simp [Cluster.phys_lt _ core.isLt]

theorem State.coresFor_nodup (s : State) (c : Nat) (h : Hdr) (f : CoreFrame) : (s.coresFor c h f).Nodup := by
  have hl : (targetCores h.target.toNat).Nodup := by
    unfold targetCores
    split
    · exact List.nodup_singleton _
    · split
      · exact List.nodup_range
      · exact List.nodup_nil
  unfold State.coresFor
  extract_lets l
  split
  · exact hl.filter _
  · exact hl

theorem State.coresFor_lt (s : State) (c : Nat) (h : Hdr) (f : CoreFrame) : ∀ n ∈ s.coresFor c h f, n < 272 := by
  have hl : ∀ n ∈ targetCores h.target.toNat, n < 272 := by
    intro n hn
    unfold targetCores at hn
    split at hn
    · next hlt => exact (List.mem_singleton.1 hn) ▸ hlt
    · split at hn
      · exact List.mem_range.1 hn
      · exact absurd hn List.not_mem_nil
  unfold State.coresFor
  extract_lets l
  split
  · exact fun n hn => hl n (List.mem_filter.1 hn).1
  · exact hl

/-- SLOT_DATA at the cores it is for. -/
theorem State.coresGet_slotData (s : State) (c : Nat) (h : Hdr) (slot : Fin 4) (first : Nat) (rows cols : BitVec 16) (words : List (BitVec 64)) :
    s.coresGet c h (.slotData slot first rows cols words) =
      s.each ((s.coresFor c h (.slotData slot first rows cols words)).map (272 * c + ·)) fun t n => t.modCore n (·.writeSlot slot.val first words) :=
  (s.each_map (272 * c + ·) _ fun t n => t.modCore n (·.writeSlot slot.val first words)).symm

/-- Settles O38: the words reach the cores of the masks alone, each a core of its own, and no place that a plan owns. -/
theorem slotLoads : Obligations.SlotLoads := by
  unfold Obligations.SlotLoads
  intro hdr d slot place first rows cols w core s hs hdest hway hdel hfirst c n
  have htaken : Taken hdr d s := ⟨hs, hdest, hway, hdel⟩
  have hslot (hn : forNode hdr = false) : exec (.slotData hdr slot first rows cols [w]) s =
      .next (s.toCores c hdr (.slotData slot first rows cols [w])) :=
    congrArg Host.Outcome.next ((htaken.frame _).trans (if_neg (by rw [hn]; decide)))
  have hphys := Cluster.phys_lt (s.cluster c) core.isLt
  refine ⟨fun hc ht => ?_, fun hc ht => ?_, ?_⟩
  · have hn : forNode hdr = false := Bool.eq_false_iff.2 fun hf => absurd ((forNode_iff hdr).1 hf) (by rw [ht]; decide)
    have hmem : n ∈ (s.coresFor c hdr (.slotData slot first rows cols [w])).map (272 * c + ·) ↔
        rows.getLsbD (core.val / 16) = true ∧ cols.getLsbD (core.val % 16) = true := by
      rw [← State.mem_coresFor_slotData ht (s := s) (c := c) (slot := slot) (first := first) (words := [w]), List.mem_map]
      exact ⟨fun ⟨m, hm, he⟩ => Nat.add_left_cancel he ▸ hm, fun hm => ⟨_, hm, rfl⟩⟩
    have hnd : ((s.coresFor c hdr (.slotData slot first rows cols [w])).map (272 * c + ·)).Nodup :=
      (s.coresFor_nodup c hdr _).map fun a b h => Nat.add_left_cancel h
    refine ⟨_, hslot hn, ?_⟩
    rw [State.toCores_c0 hc, State.coresGet_slotData]
    refine ⟨State.eq_patch [.cores] fun fd hfd => Fld.of_each (f := fd) _ fun t m => State.modCore_of _ _ _ hfd, fun m hm => ?_, fun hspare => ?_,
      fun hr hcol hfree => ?_⟩
    · refine State.coreAt_eachOut s _ fun h => ?_
      obtain ⟨j, hj, rfl⟩ := List.mem_map.1 h
      have := s.coresFor_lt c hdr _ j hj
      omega
    · by_cases hin : n ∈ (s.coresFor c hdr (.slotData slot first rows cols [w])).map (272 * c + ·)
      · obtain ⟨hr, hcol⟩ := hmem.1 hin
        have hact := (or_iff_left (by rw [hr, hcol]; decide)).1 hspare
        rw [State.coreAt_eachNodup s _ hnd hin, Core.writeSlot_active hact]
      · exact State.coreAt_eachOut s _ hin
    · rw [State.coreAt_eachNodup s _ hnd (hmem.2 ⟨hr, hcol⟩)]
      exact Core.writeSlot_writes hfree hfirst w
  · have hn : forNode hdr = false := Bool.eq_false_iff.2 fun hf => ht ((forNode_iff hdr).1 hf)
    refine ⟨_, hslot hn, ?_⟩
    rw [State.toCores_refused hc]
    refine ⟨rfl, fun ht hr hcol => ?_⟩
    refine List.mem_append_right _ (List.mem_map.2 ⟨_, (State.mem_coresFor_slotData ht).2 ⟨hr, hcol⟩, ?_⟩)
    rw [show toCl c = d from Fin.ext (Nat.mod_eq_of_lt d.isLt), show n - 272 * c = (s.cluster c).phys core.val from Nat.add_sub_cancel_left ..]
  · obtain ⟨h1, h2, h3⟩ := modCluster_changes s c (·.storeData place.val first [w])
    refine ⟨s.modCluster c (·.storeData place.val first [w]), congrArg Host.Outcome.next (htaken.frame _), h1, h2, ?_⟩
    rw [h3, Cluster.storeData_one _ hfirst]
    split
    · next hsome => exact ⟨rfl, fun _ => rfl, fun hnone => absurd hsome (by rw [hnone]; decide)⟩
    · next hnone => exact ⟨rfl, fun hsome => absurd hsome hnone, fun _ => ⟨sget_sput_same .., fun a ha => sget_sput_ne _ _ _ _ _ ha⟩⟩

end Sys2Proof.Machine
end

section
/-!
Frames for a strings node and its counts (R129, R131, R136, R137, R182, R212, R384).
-/

namespace Sys2Proof.Machine

open Sys2Proof

/-! ## Frames of the firmware -/

theorem State.coresGet_other (s : State) (c : Nat) (h : Hdr) : s.coresGet c h .other = s := by
  have hl : ∀ l : List Nat, (s.each l fun t n => t.coreGets c n h .other) = s := by
    intro l
    induction l with
    | nil => rfl
    | cons n l ih => exact ih
  exact hl _

theorem State.toNode_node {s : State} {c : Nat} {h : Hdr} (hn : forNode h = true) (act : State → State) : s.toNode c h act = act s :=
  if_pos hn

/-- A frame without meaning, for a node or for cores in C0. -/
theorem State.toNode_idle {s : State} {c : Nat} {h : Hdr} (hn : forNode h = true ∨ (s.cluster c).at .c0 = true) : s.toNode c h (fun u => u) = s := by
  unfold State.toNode
  split
  · rfl
  · next hf => rw [State.toCores_c0 (hn.resolve_left hf), State.coresGet_other]

/-- The run of a partition whose switch is fixed keeps its reports. -/
theorem State.fixSwitch_reports {s : State} {p : Nat} {run : Run} (hrun : (s.part p).run = some run) :
    OnePart s (s.fixSwitch p) p ∧ ∃ u, ((s.fixSwitch p).part p).run = some u ∧ u.reports = run.reports := by
  have same : OnePart s s p ∧ ∃ u, (s.part p).run = some u ∧ u.reports = run.reports := ⟨fun _ _ => rfl, run, hrun, rfl⟩
  unfold State.fixSwitch
  extract_lets q
  split
  · exact same
  next run' hrun' =>
  obtain rfl : run' = run := Option.some.inj (hrun'.symm.trans hrun)
  split
  · split
    · exact same
    · extract_lets t b time flits u
      have hu (k : Nat) : u.part k = s.part k := by
        refine State.part_congr ?_ k
        simp only [u]
        split
        · rfl
        · exact Fld.of_each (f := .parts) _ fun v c => State.modCluster_of (fd := .parts) _ _ _ (by decide)
      refine ⟨fun k hk => ?_, ?_⟩
      · exact (State.part_modPart_ne _ _ _ _ hk).trans (hu k)
      · rw [State.part_modPart, hu, hrun]
        exact ⟨_, rfl, rfl⟩
  · exact same

section
variable {hdr : Hdr} {c d : Cl} {s : State}

/-- The halt report of a cluster all of whose cores have halted, at its leader. -/
theorem Taken.haltReport (h : Taken hdr d s) (hn : forNode hdr = true) (hsrc : hdr.src = .cluster c) {p : Nat} {run : Run}
    (hrun : s.runAt c.val = some (p, run))
    (hlead : d.val = rectLeader (s.part p).cfg.x0 (s.part p).cfg.y0 (s.part p).cfg.w (s.part p).cfg.h) (hseen : (s.cluster c.val).haltSeen.length = 256) :
    exec (.fwUrgent hdr .haltReport) s = .next ((s.modPart p fun q =>
      { q with run := q.run.map fun x => { x with reports := sins c.val (s.cluster c.val).lastHalt x.reports } }).fixSwitch p) := by
  refine congrArg Host.Outcome.next ((h.frame _).trans ((State.toNode_node hn _).trans ?_))
  unfold State.haltReport
  rw [hsrc]
  dsimp only
  rw [hrun]
  dsimp only
  rw [hseen, hlead, beq_self_eq_true]
  rfl

theorem exec_heartbeat (hs : s.supply = .up) (hsrc : hdr.src = .cluster c) : exec (.fwUrgent hdr .heartbeatAnswer) s =
    .next (match s.lostToDie c.val 3 with
      | some n => s.modCluster n Cluster.drop
      | none => s.modCluster c.val fun k => { k with beatAt := none, missed := if k.beatAt.isSome then 0 else k.missed }) := by
  refine congrArg Host.Outcome.next ((if_pos (by rw [hs]; rfl)).trans ?_)
  unfold State.heartbeatAnswer
  rw [hsrc] <;> rfl

end

/-! ## Counts of the fabric -/

theorem State.sendViol_sends (s : State) (c : Nat) :
    s.sendViol c = { s with clusters := (s.sendViol c).clusters, violCounts := (s.sendViol c).violCounts } ∧ OneCluster s (s.sendViol c) c ∧
      (s.sendViol c).cluster c = { s.cluster c with violUnsent := 0 } ∧
      (∀ p, p ≠ (s.cluster c).partition.val → sget 0#64 (s.sendViol c).violCounts p = sget 0#64 s.violCounts p) ∧
      sget 0#64 (s.sendViol c).violCounts (s.cluster c).partition.val =
        if (s.cluster c).violUnsent ≠ 0 ∧ (s.cluster c).assigned = true then
          countViol 3 (s.cluster c).violUnsent (sget 0#64 s.violCounts (s.cluster c).partition.val)
        else sget 0#64 s.violCounts (s.cluster c).partition.val := by
  unfold State.sendViol
  extract_lets k u
  split
  · next h =>
    refine ⟨rfl, fun _ _ => rfl, ?_, fun _ _ => rfl, (if_neg fun hand => hand.1 h).symm⟩
    exact congrArg (fun v => { s.cluster c with violUnsent := v }) h
  · next h =>
    obtain ⟨h1, h2, h3⟩ := modCluster_changes s c fun k => { k with violUnsent := 0 }
    split
    · next ha =>
      refine ⟨rfl, h2, h3, fun p hp => sget_smod_ne _ _ _ _ _ hp, ?_⟩
      rw [if_pos ⟨h, ha⟩]
      exact sget_smod_same ..
    · next ha => exact ⟨rfl, h2, h3, fun _ _ => rfl, (if_neg fun hand => ha hand.2).symm⟩

/-- A core's report at its Marionette (R131, R182). -/
theorem coreEvent_reaches {cl : Cl} {core : LCore} {x : Cl × LCore × Bool × Bool × Bool} {s : State}
    (hx : s.coreEvents.find? (fun x => x.1.val == cl.val && x.2.1.val == core.val) = some x) :
    ∃ t, exec (.coreEvent cl core) s = .next t ∧ t = { s with coreEvents := s.coreEvents.erase x, clusters := t.clusters } ∧
      OneCluster s t cl.val ∧ (x.2.2.2.2 = true → core ∈ (t.cluster cl.val).haltSeen) ∧ (x.2.2.2.2 = false → t.clusters = s.clusters) := by
  have hcore : x.2.1 = core := by
    have hp := List.find?_some hx
    exact Fin.ext (eq_of_beq (Bool.and_eq_true_iff.1 hp).2)
  refine ⟨_, rfl, ?_⟩
  unfold State.coreEvent
  rw [hx]
  dsimp only
  split
  · next hh =>
    refine ⟨rfl, fun k hk => State.cluster_modCluster_ne _ _ k _ hk, fun _ => ?_, fun hf => absurd hh (by rw [hf]; decide)⟩
    rw [State.cluster_modCluster, hcore]
    dsimp only
    split
    · next hc => exact List.contains_iff_mem.1 hc
    · exact List.mem_append_right _ (List.mem_singleton_self _)
  · next hh => exact ⟨rfl, fun _ _ => rfl, fun ht => absurd ht hh, fun _ => rfl⟩

/-- A link of the fabric that fails leaves service (R136). -/
theorem flitParity_fails {cl : Cl} {dir : Dir} {resends : Nat} {s : State} (hs : s.supply = .up) :
    ∃ t, exec (.flitParityError cl dir resends true) s = .next t ∧
      t = { s with clusters := t.clusters, faults := t.faults, faultSeq := t.faultSeq, faultsLost := t.faultsLost } ∧ OneCluster s t cl.val ∧
      t.cluster cl.val = { s.cluster cl.val with
        parityCount := satAdd (s.cluster cl.val).parityCount 16, dropCount := satAdd (s.cluster cl.val).dropCount 1
        linksOff := (s.cluster cl.val).linksOff ||| BitVec.ofNat 4 (2 ^ dirNum dir) } ∧ ∃ r ∈ t.faults, r.code = 0x0202#16 := by
  let counted := s.modCluster cl.val fun k => { k with parityCount := satAdd k.parityCount 16 }
  let failed := counted.modCluster cl.val fun k => { k.drop with linksOff := k.linksOff ||| BitVec.ofNat 4 (2 ^ dirNum dir) }
  obtain ⟨-, hc1, hc2⟩ : _ ∧ OneCluster s counted cl.val ∧ _ := modCluster_changes s cl.val _
  obtain ⟨-, hf1, hf2⟩ : _ ∧ OneCluster counted failed cl.val ∧ _ := modCluster_changes counted cl.val _
  have hexec : exec (.flitParityError cl dir resends true) s = .next (failed.log 0x0202 (counted.partOf cl.val) (some cl.val) none 0 15 (2 ^ dirNum dir)) :=
    congrArg Host.Outcome.next (if_neg (by rw [hs]; decide))
  have hlog (fd : Fld) (h : fd ∉ [Fld.faults, .faultSeq, .faultsLost]) :=
    State.log_of failed 0x0202 (counted.partOf cl.val) (some cl.val) none 0 15 (2 ^ dirNum dir) (Fld.not_mem h)
  refine ⟨_, hexec, State.eq_patch [.clusters, .faults, .faultSeq, .faultsLost] fun fd hfd => ?_, ?_, ?_, State.log_mem ..⟩
  · exact (hlog fd (Fld.not_mem hfd)).trans
      ((State.modCluster_of counted _ _ (Fld.not_mem hfd)).trans (State.modCluster_of s _ _ (Fld.not_mem hfd)))
  · intro k hk
    rw [show State.clusters _ = _ from hlog .clusters (by decide)]
    exact (hf1 k hk).trans (hc1 k hk)
  · rw [State.cluster_congr (hlog .clusters (by decide)), hf2, hc2]
    rfl

/-- Settles O39: a frame at its node does what its message says, and each count is one change of one cluster. -/
theorem stringsNode : Obligations.StringsNode := by
  unfold Obligations.StringsNode
  constructor
  · intro hdr c d cl core x p run s hs there
    have htaken (h : there) : Taken hdr d s := ⟨hs, h.1, h.2.1, h.2.2⟩
    refine ⟨fun h hn => ?_, fun h hn hsrc hrun hlead hseen => ?_, fun hsrc hl => ?_, fun n hsrc hl => ?_, fun hx => ?_⟩
    · exact ⟨congrArg Host.Outcome.next (((htaken h).frame _).trans (State.toNode_idle hn)),
        congrArg Host.Outcome.next (((htaken h).frame _).trans (State.toNode_idle hn))⟩
    · have hexec := (htaken h).haltReport hn hsrc hrun hlead hseen
      obtain ⟨-, hpart⟩ := runAt_some hrun
      have hreported : ((s.modPart p fun q =>
          { q with run := q.run.map fun x => { x with reports := sins c.val (s.cluster c.val).lastHalt x.reports } }).part p).run =
            some { run with reports := sins c.val (s.cluster c.val).lastHalt run.reports } := by
        rw [State.part_modPart, hpart]
        rfl
      obtain ⟨hone, u, hu, hr⟩ := State.fixSwitch_reports hreported
      refine ⟨_, u, hexec, State.eq_patch [.parts, .clusters] fun fd hfd => ?_, fun k hk => (hone k hk).trans (s.modPart_one p _ k hk), hu, hr⟩
      exact (State.fixSwitch_of _ p (Fld.not_mem hfd)).trans (State.modPart_of _ _ _ (Fld.not_mem hfd))
    · have hexec := exec_heartbeat hs hsrc
      rw [hl] at hexec
      exact ⟨_, hexec, modCluster_changes ..⟩
    · have hexec := exec_heartbeat hs hsrc
      rw [hl] at hexec
      exact ⟨_, hexec, modCluster_changes ..⟩
    · exact coreEvent_reaches hx
  · intro cl dir resends hdr x s hs k
    have hup : (s.supply == .up) = true := by rw [hs]; rfl
    have hdown : (s.supply != .up) = false := by rw [hs]; rfl
    refine ⟨⟨_, congrArg Host.Outcome.next (if_pos hup), s.sendViol_sends cl.val⟩,
      ⟨_, congrArg Host.Outcome.next (if_pos hup), modCluster_changes ..⟩, ?_, ?_, fun hx => ⟨fun hl => ?_, fun n hl => ?_⟩⟩
    · exact ⟨_, congrArg Host.Outcome.next (if_neg (by rw [hdown]; decide)), modCluster_changes s cl.val fun k => { k with parityCount := satAdd k.parityCount resends }⟩
    · exact flitParity_fails hs
    · refine congrArg Host.Outcome.next ?_
      rw [hx]
      dsimp only
      rw [hl]
    · obtain ⟨h1, h2, h3⟩ := modCluster_changes { s with noTargets := s.noTargets.erase x } n Cluster.drop
      refine ⟨({ s with noTargets := s.noTargets.erase x } : State).modCluster n Cluster.drop, congrArg Host.Outcome.next ?_, h1, h2, h3⟩
      rw [hx]
      dsimp only
      rw [hl]

end Sys2Proof.Machine
end

section
/-!
Scans of a cluster's ring and the seizure of what it leases (R190, R191, R378, R381).
-/

namespace Sys2Proof.Machine

open Sys2Proof

/-! ## What a recovery leaves of a cluster -/

/-- Entering a state keeps the bypass of the scan ring and whether it is scanned. -/
theorem Cluster.enter_scan (k : Cluster) (aim : CState) : ((k.enter aim).scanBypass, (k.enter aim).scanning) = (k.scanBypass, k.scanning) := by
  unfold Cluster.enter
  extract_lets c
  have hc : (c.scanBypass, c.scanning) = (k.scanBypass, k.scanning) := by
    simp only [c]
    split
    · rfl
    · rfl
  split
  · exact hc
  · exact hc
  · split
    · exact hc
    · exact hc

section
variable {P : Cluster → Prop} (hx : ∀ k aim, P k → P (k.enter aim)) (hg : ∀ k : Cluster, P k → P { k with ganged := false, gang := [], haltSeen := [] })
include hx

theorem State.emptied_holds (s : State) (p : Nat) {c : Nat} (h : P (s.cluster c)) : P ((s.emptied p).cluster c) := by
  unfold State.emptied
  extract_lets q u
  split
  · have hu (k : Nat) : u.cluster k = s.cluster k := by
      simp only [u]
      split
      · rfl
      · rfl
    split
    · rw [State.cluster_congr (State.parkDone_of (fd := .clusters) _ p (by decide))]
      exact u.cluster_eachCluster_holds (fun k => hx k _) _ (by rw [hu]; exact h)
    · rw [hu]
      exact h
  · exact h

theorem State.dequeue_holds (s : State) (p id : Nat) {c : Nat} (h : P (s.cluster c)) : P ((s.dequeue p id).cluster c) := by
  unfold State.dequeue
  exact State.emptied_holds hx _ p (State.rest_holds hx _ p h)

theorem State.discarded_holds (s : State) (a : Compl) {c : Nat} (h : P (s.cluster c)) : P ((s.discarded a).cluster c) := by
  unfold State.discarded
  extract_lets p u
  have hu : P (u.cluster c) := by
    simp only [u]
    split
    · exact h
    · exact h
  split
  · exact u.dequeue_holds hx p _ hu
  · exact u.emptied_holds hx p hu

theorem State.close_holds (s : State) (p : Nat) (r : Request) (st reason : Nat) (flags : Flags) {c : Nat} (h : P (s.cluster c)) :
    P ((s.close p r st reason flags).cluster c) := by
  unfold State.close
  extract_lets a
  split
  · exact s.discarded_holds hx a h
  · exact h

include hg

theorem State.endReq_holds (s : State) (p : Nat) (r : Request) (st reason : Nat) (clear : Bool) {c : Nat} (h : P (s.cluster c)) :
    P ((s.endReq p r st reason clear).cluster c) := by
  unfold State.endReq
  extract_lets flags t
  have ht : P (t.cluster c) := by
    simp only [t]
    split
    · exact s.stopRun_holds hx hg p h
    · exact h
  split
  · exact ht
  · exact t.close_holds hx p r st reason _ ht

theorem State.endReqs_holds (s : State) (p : Nat) (test : Request → Bool) (st reason : Nat) (clear : Bool) {c : Nat} (h : P (s.cluster c)) :
    P ((s.endReqs p test st reason clear).cluster c) :=
  State.each_induct (P := fun u => P (u.cluster c)) h fun u hu r _ => u.endReq_holds hx hg p r st reason clear hu

theorem State.contain_holds (s : State) (p st reason : Nat) {c : Nat} (h : P (s.cluster c)) : P ((s.contain p st reason).cluster c) := by
  unfold State.contain
  split
  · exact h
  · extract_lets u
    have hu : P (u.cluster c) := by
      simp only [u]
      split
      · exact s.endReq_holds hx hg p _ st reason _ h
      · exact s.stopRun_holds hx hg p h
    split
    · rw [State.cluster_congr (State.faulted_of (fd := .clusters) u p (by decide))]
      exact hu
    · exact hu

theorem State.beginRecovery_holds (s : State) (p : Nat) {c : Nat} (h : P (s.cluster c)) : P ((s.beginRecovery p).cluster c) := by
  unfold State.beginRecovery
  split
  · extract_lets u v
    have hv : P (v.cluster c) := u.contain_holds hx hg p stFaulted 0 h
    exact (v.endReqs p (fun _ => true) stFaulted 0).rest_holds hx p (v.endReqs_holds hx hg p _ _ _ _ hv)
  · exact h

end

theorem State.beginRecovery_keeps {α : Type} {x : Cluster → α} (hx : ∀ k aim, x (k.enter aim) = x k)
    (hg : ∀ k : Cluster, x { k with ganged := false, gang := [], haltSeen := [] } = x k) (s : State) (p c : Nat) :
    x ((s.beginRecovery p).cluster c) = x (s.cluster c) :=
  s.beginRecovery_holds (P := fun k => x k = x (s.cluster c)) (fun k aim => (hx k aim).trans) (fun k => (hg k).trans) p rfl

/-! ## Seizures -/

theorem State.seizeOne_bypassed {s : State} {n : Nat} (h : (s.cluster n).scanBypass = true) (y : Seized) :
    ((s.seizeOne y).cluster n).scanBypass = true := by
  unfold State.seizeOne
  extract_lets holder u
  refine State.abandonLease_bypass ?_ _ _
  simp only [u]
  split
  · by_cases hn : n = holder
    · subst hn
      rw [State.cluster_modCluster]
    · rw [State.cluster_modCluster_ne _ _ _ _ hn]
      exact h
  · exact h

/-- A seizure of a scan's lease ends the scan. -/
theorem State.seizeOne_scan (s : State) (c : Nat) (tag : BitVec 16) : ((s.seizeOne ⟨5, c, tag⟩).cluster c).scanning = false := by
  unfold State.seizeOne
  extract_lets holder u
  exact congrArg Cluster.scanning (u.cluster_modCluster c fun k => { k with scanning := false })

theorem State.seizeList_bypassed {s : State} {n : Nat} (h : (s.cluster n).scanBypass = true) (l : List Seized) :
    ((s.seizeList l).cluster n).scanBypass = true := by
  have hx (k : Cluster) (aim : CState) : (k.enter aim).scanBypass = k.scanBypass := congrArg Prod.fst (k.enter_scan aim)
  unfold State.seizeList
  extract_lets u v
  have hu : (u.cluster n).scanBypass = true := State.each_induct (P := fun t => (t.cluster n).scanBypass = true) h
    fun t ht y _ => (t.beginRecovery_keeps hx (fun _ => rfl) _ n).trans ht
  have hv : (v.cluster n).scanBypass = true := State.each_induct (P := fun t => (t.cluster n).scanBypass = true) hu
    fun t ht y _ => t.seizeOne_bypassed ht y
  exact (congrArg Cluster.scanBypass (State.cluster_congr (Fld.of_each (f := .clusters) l fun t y =>
    State.tryResume_of (fd := .clusters) t _ (by decide)) n)).trans hv

/-- A seizure of one lease (R381). -/
theorem State.seizeList_one (s : State) (y : Seized) : (s.seizeList [y]).lease y.kind y.index = 0x0FFF#16 ∧
    (∃ r ∈ (s.seizeList [y]).faults, r.code = 0x0601#16) ∧
    ∀ c, (s.seizeList [y]).cluster c = ((s.beginRecovery (y.tag.toNat / 4096)).seizeOne y).cluster c := by
  have hres (u : State) (fd : Fld) (hf : fd ∉ [Fld.parts]) (p : Nat) : fd.of (u.tryResume p) = fd.of u := State.tryResume_of u p hf
  have h1 := (s.beginRecovery (y.tag.toNat / 4096)).seizeOne_lease y
  have h2 := (s.beginRecovery (y.tag.toNat / 4096)).seizeOne_logged y
  have he : s.seizeList [y] = ((s.beginRecovery (y.tag.toNat / 4096)).seizeOne y).tryResume (y.tag.toNat / 4096) := rfl
  rw [he]
  refine ⟨?_, ?_, fun c => State.cluster_congr (hres _ .clusters (by decide) _) c⟩
  · rw [State.lease, show State.leases _ = _ from hres _ .leases (by decide) _]
    exact h1
  · rw [show State.faults _ = _ from hres _ .faults (by decide) _]
    exact h2

/-! ## The scan ring -/

section
variable {hdr : Hdr} {d cl : Cl} {s : State}

/-- A state whose clusters are those of a change of one cluster. -/
theorem changes_of_clusters {t : State} {c : Nat} {f : Cluster → Cluster} (h : t.clusters = (s.modCluster c f).clusters) :
    OneCluster s t c ∧ t.cluster c = f (s.cluster c) :=
  ⟨fun k hk => (State.cluster_congr h k).trans (s.cluster_modCluster_ne c k f hk), (State.cluster_congr h c).trans (s.cluster_modCluster c f)⟩

/-- A ring that has not returned in time. -/
theorem scanTimeout_lost (hs : (s.cluster cl.val).scanning = true) (ht : (s.cluster cl.val).scanAt + 40000 ≤ s.now) :
    exec (.scanTimeout cl) s = .next (s.scanLost cl.val) :=
  congrArg Host.Outcome.next (if_pos (by rw [hs, decide_eq_true ht]; rfl))

theorem scanTimeout_waits (h : (s.cluster cl.val).scanning = false ∨ s.now < (s.cluster cl.val).scanAt + 40000) :
    exec (.scanTimeout cl) s = .next s := by
  refine congrArg Host.Outcome.next (if_neg fun hand => ?_)
  obtain ⟨hs, ht⟩ := Bool.and_eq_true_iff.1 hand
  rcases h with h | h
  · exact absurd hs (by rw [h]; decide)
  · exact absurd (of_decide_eq_true ht) (by omega)

/-- The state in which what a lost ring's holder leases is seized. -/
def State.ringLost (s : State) (c : Nat) : State := (s.modCluster c fun k => { k with scanBypass := true }).log 0x0203 (s.partOf c) (some c)

theorem State.scanLost_eq (s : State) (c : Nat) : s.scanLost c = (s.ringLost c).seizeList (s.leasesOf c) := rfl

theorem State.ringLost_cluster (s : State) (c k : Nat) : (s.ringLost c).cluster k = (s.modCluster c fun k => { k with scanBypass := true }).cluster k :=
  State.cluster_congr (State.log_of (fd := .clusters) _ _ _ _ _ _ _ _ (by decide)) k

theorem State.ringLost_bypass (s : State) (c : Nat) : ((s.ringLost c).cluster c).scanBypass = true := by
  rw [State.ringLost_cluster, State.cluster_modCluster]

theorem State.ringLost_one (s : State) (c : Nat) : OneCluster s (s.ringLost c) c := fun k hk =>
  (s.ringLost_cluster c k).trans (s.cluster_modCluster_ne _ _ _ hk)

/-- A SEIZE frame whose tag the lease no longer has (R381). -/
theorem State.seizeAt_held {c : Nat} {tag : BitVec 16} (k : Nat) (h : s.lease k c = tag → tag = 0x0FFF#16) :
    s.seizeAt c k c tag = s.modCluster c fun k => { k with scanBypass := true } := by
  unfold State.seizeAt
  extract_lets u
  refine if_neg fun hand => ?_
  obtain ⟨hl, ht⟩ := Bool.and_eq_true_iff.1 hand
  exact bne_iff_ne.1 ht (h (eq_of_beq hl))

/-- One for a scan's lease that still has its tag. -/
theorem State.seizeAt_scan {c : Nat} {tag : BitVec 16} (h : s.lease 5 c = tag) (ht : tag ≠ 0x0FFF#16) :
    ClustersOnly s (s.seizeAt c 5 c tag) ∧ OneCluster s (s.seizeAt c 5 c tag) c ∧
      (s.seizeAt c 5 c tag).cluster c = { s.cluster c with scanBypass := true, scanning := false } := by
  unfold State.seizeAt
  extract_lets u
  obtain ⟨-, h1, h2⟩ : _ ∧ OneCluster s u c ∧ _ := modCluster_changes s c _
  obtain ⟨-, h3, h4⟩ := modCluster_changes u c fun k => { k with scanning := false }
  rw [if_pos (by rw [show u.lease 5 c = tag from h, beq_self_eq_true, bne_iff_ne.2 ht]; rfl)]
  exact ⟨rfl, fun k hk => (h3 k hk).trans (h1 k hk), h4.trans (by rw [h2])⟩

theorem ofNat_cluster (d : Cl) : (BitVec.ofNat 16 d.val).toNat = d.val := by
  rw [BitVec.toNat_ofNat]
  exact Nat.mod_eq_of_lt (by have := d.isLt; omega)

end

/-- Settles O40: a scan and its end are one change of a cluster and a lease, and a lost ring bypasses the cluster before any seizure. -/
theorem scans : Obligations.Scans := by
  unfold Obligations.Scans
  intro hdr d cl tag s hs c p there
  have htaken (h : there) : Taken hdr d s := ⟨hs, h.1, h.2.1, h.2.2⟩
  have hctl (h : there) (hn : forNode hdr = true) : exec (.scanCtl hdr) s = .next (s.scanCtl c) :=
    congrArg Host.Outcome.next (((htaken h).frame _).trans (State.toNode_node hn _))
  have hseize (h : there) (hn : forNode hdr = true) : exec (.seizeFrame hdr 5#4 (BitVec.ofNat 16 c) tag) s = .next (s.seizeAt c 5 c tag) := by
    refine congrArg Host.Outcome.next (((htaken h).frame _).trans ?_)
    rw [if_neg (by rw [hn]; exact Bool.false_ne_true), ofNat_cluster]
    rfl
  refine ⟨fun h hn hscan hmay hfree => ?_, fun h hn hscan hmay => ?_, fun h hn hscan => ?_, fun hscan ht => ?_, scanTimeout_waits,
    fun h hn htag => ?_, fun h hn hl htag => ?_, fun h ht hno => ?_⟩
  · have hexec := hctl h hn
    have he : s.scanCtl c = (s.modCluster c fun k => { k with scanning := true, scanAt := s.now }).grant 5 c (ownerTag p c) := by
      unfold State.scanCtl
      rw [hscan, hmay, hfree]
      rfl
    obtain ⟨h1, h2⟩ := changes_of_clusters (t := s.scanCtl c) (f := fun k => { k with scanning := true, scanAt := s.now })
      (by rw [he]; rfl)
    refine ⟨_, hexec, ?_, h1, fun k hk => ?_, h2, ?_⟩
    · rw [he]
      rfl
    · rw [he]
      exact sget_sput_ne _ _ _ _ _ hk
    · rw [he]
      exact State.lease_grant ..
  · refine (hctl h hn).trans (congrArg Host.Outcome.next ?_)
    unfold State.scanCtl
    rw [hscan, hmay]
    rfl
  · have hexec := hctl h hn
    have he : s.scanCtl c = (s.modCluster c fun k => { k with scanning := false }).release 5 c := by
      unfold State.scanCtl
      rw [hscan]
      rfl
    obtain ⟨h1, h2⟩ := changes_of_clusters (t := s.scanCtl c) (f := fun k => { k with scanning := false }) (by rw [he]; rfl)
    refine ⟨_, hexec, ?_, h1, fun k hk => ?_, h2, ?_⟩
    · rw [he]
      rfl
    · rw [he]
      exact sget_sdel_ne _ _ _ _ hk
    · rw [he]
      exact State.lease_release ..
  · refine ⟨s.scanLost cl.val, scanTimeout_lost hscan ht, ?_⟩
    rw [State.scanLost_eq]
    refine ⟨State.seizeList_bypassed (s.ringLost_bypass cl.val) _, fun hl => ?_, fun hl => ?_⟩
    · rw [hl]
      exact ⟨s.ringLost_one cl.val, State.log_mem ..⟩
    · rw [hl]
      obtain ⟨h1, h2, h3⟩ := (s.ringLost cl.val).seizeList_one { kind := 5, index := cl.val, tag := s.lease 5 cl.val }
      refine ⟨?_, h1, h2⟩
      rw [h3]
      exact State.seizeOne_scan ..
  · obtain ⟨h1, h2, h3⟩ := modCluster_changes s c fun k => { k with scanBypass := true }
    have hexec := hseize h hn
    rw [State.seizeAt_held _ htag] at hexec
    exact ⟨_, hexec, h1, h2, h3⟩
  · have hexec := hseize h hn
    exact ⟨_, hexec, State.seizeAt_scan hl htag⟩
  · refine congrArg Host.Outcome.next (((htaken h).frame _).trans ?_)
    rw [if_pos (by rw [forNode_of_lt ht, hno]; rfl), State.toCores_refused hno, State.refuseRow_one ht (by intros; nofun),
      show toCl c = d from Fin.ext (Nat.mod_eq_of_lt d.isLt)]

end Sys2Proof.Machine
end

section
/-!
Slot switches and run loads (R81, R182 to R189).
-/

namespace Sys2Proof.Machine

open Sys2Proof

/-! ## The cores of a partition -/

theorem Cluster.phys_inj (k : Cluster) {a b : Nat} (h : k.phys a = k.phys b) : a = b :=
  Option.some.inj ((k.logical_phys a).symm.trans ((congrArg k.logical h).trans (k.logical_phys b)))

theorem State.partCores_nodup {s : State} {p : Nat} (h : (s.partClusters p).Nodup) : (s.partCores p).Nodup := by
  unfold State.partCores
  refine List.nodup_flatMap.2 ⟨fun c _ => ?_, h.imp fun {a b} hab => ?_⟩
  · exact List.nodup_range.map fun a b hab => (s.cluster c).phys_inj (Nat.add_left_cancel hab)
  · rw [Function.onFun, List.disjoint_left]
    intro n hna hnb
    obtain ⟨i, hi, rfl⟩ := List.mem_map.1 hna
    obtain ⟨j, hj, he⟩ := List.mem_map.1 hnb
    refine hab ?_
    rw [← s.lcore_div a (List.mem_range.1 hi), ← s.lcore_div b (List.mem_range.1 hj), he]

/-! ## SLOT_SWITCH at the cores of a partition -/

section
variable {h : Hdr} {flits : List (BitVec 16)}

/-- The command of SLOT_SWITCH in a core. -/
def Core.told (flits : List (BitVec 16)) (k : Core) : Core := { k with cmd := some (switchCmd flits) }

theorem State.coresGet_switch (s : State) (c : Nat) (ht : h.target = 0x1FE#9) : s.coresGet c h (.slotSwitch flits) =
    s.each ((List.range 272).map (272 * c + ·)) fun t n => t.modCore n (Core.told flits) := by
  have hl : s.coresFor c h (.slotSwitch flits) = List.range 272 := by
    unfold State.coresFor
    rw [ht]
    rfl
  unfold State.coresGet
  rw [hl]
  exact (s.each_map (272 * c + ·) _ fun t n => t.modCore n (Core.told flits)).symm

/-- SLOT_SWITCH for clusters in C0. -/
theorem State.toCores_switch (s : State) {l : List Nat} (ht : h.target = 0x1FE#9) (hl : ∀ c ∈ l, (s.cluster c).at .c0 = true) :
    (∀ fd : Fld, fd ∉ [Fld.cores] → fd.of (s.each l fun t c => t.toCores c h (.slotSwitch flits)) = fd.of s) ∧
      ∀ n, (s.each l fun t c => t.toCores c h (.slotSwitch flits)).coreAt n =
        if n / 272 ∈ l then (s.coreAt n).told flits else s.coreAt n := by
  induction l generalizing s with
  | nil => exact ⟨fun _ _ => rfl, fun n => (if_neg List.not_mem_nil).symm⟩
  | cons c l ih =>
    have hc : s.toCores c h (.slotSwitch flits) = s.each ((List.range 272).map (272 * c + ·)) fun t n => t.modCore n (Core.told flits) :=
      (State.toCores_c0 (hl c List.mem_cons_self)).trans (s.coresGet_switch c ht)
    have hf (fd : Fld) (hfd : fd ∉ [Fld.cores]) : fd.of (s.toCores c h (.slotSwitch flits)) = fd.of s := by
      rw [hc]
      exact Fld.of_each (f := fd) _ fun t n => State.modCore_of _ _ _ hfd
    have hn (n : Nat) : (s.toCores c h (.slotSwitch flits)).coreAt n = if n / 272 = c then (s.coreAt n).told flits else s.coreAt n := by
      rw [hc]
      split
      · next hn =>
        have hmem : n ∈ (List.range 272).map (272 * c + ·) :=
          List.mem_map.2 ⟨n % 272, List.mem_range.2 (Nat.mod_lt _ (by decide)), by rw [← hn]; exact Nat.div_add_mod n 272⟩
        exact State.coreAt_eachOnce s (f := Core.told flits) (fun k => rfl) hmem
      · next hn =>
        refine State.coreAt_eachOut s (Core.told flits) fun hm => ?_
        obtain ⟨j, hj, rfl⟩ := List.mem_map.1 hm
        have hj := List.mem_range.1 hj
        omega
    obtain ⟨h1, h2⟩ := ih (s.toCores c h (.slotSwitch flits)) fun k hk => by
      rw [State.cluster_congr (hf .clusters (by decide))]
      exact hl k (List.mem_cons_of_mem _ hk)
    refine ⟨fun fd hfd => (h1 fd hfd).trans (hf fd hfd), fun n => (h2 n).trans ?_⟩
    rw [hn]
    by_cases ha : n / 272 = c <;> by_cases hb : n / 272 ∈ l <;> simp [ha, hb, Core.told]

end

/-! ## The switch that the last halt report fixes (R182, R183, R354) -/

/-- A change of a partition's run leaves its clusters. -/
theorem State.partClusters_modRun (s : State) (p : Nat) (f : Run → Run) :
    (s.modPart p fun q => { q with run := q.run.map f }).partClusters p = s.partClusters p := by
  unfold State.partClusters
  rw [State.part_modPart]

/-- The breath of a layer does not depend on the reports of its run. -/
theorem State.breathOf_modRun (s : State) (p : Nat) (f : Run → Run) (run : Run) (reps : SMap Nat) (r : Request) (n len : Nat) :
    (s.modPart p fun q => { q with run := q.run.map f }).breathOf p { run with reports := reps } r n len = s.breathOf p run r n len := by
  unfold State.breathOf
  rw [State.partClusters_modRun]
  rfl

section
variable {s : State} {p : Nat} {run : Run} {l : Loaded} {e : Entry} {r : Request} {y : Layer}

/-- What the last halt report of a layer makes of its run (R182, R183). -/
def State.switchSet (s : State) (p : Nat) (run : Run) (e : Entry) (r : Request) (y : Layer) : Run :=
  let fin := run.reports.foldl (fun m x => Nat.max m x.2) run.linkEnd
  let b := s.breathOf p run r e.n (fin - run.layerAt)
  let time := s.phase0From (fin + 8 * b + switchTime (s.part p).cfg.w (s.part p).cfg.h)
  { run with
    switch := some { layer := run.layer + 1, time := time, flits := switchFlits y.slot y.guarded (s.cclkAt time) }
    spent := run.spent + b
    breathing := if b = 0 then none else some (fin + 8 * b)
    flags := { run.flags with breath := run.flags.breath || decide (0 < b) } }

theorem State.fixSwitch_fixes (hrun : (s.part p).run = some run) (hend : run.layerEnd.isSome = true)
    (hl : sfind? (s.part p).plans run.handle = some l) (he : l.plan.entries[run.entry]? = some e) (hr : (s.part p).req? run.req = some r)
    (hswitch : run.switch = none) (hstop : run.stop = none) (hlast : run.layer + 1 ≠ e.first + e.count)
    (hy : l.plan.layers[run.layer + 1]? = some y) (hall : ∀ x ∈ (s.part p).cfg.clusters, (sfind? run.reports x).isSome = true) :
    ((s.fixSwitch p).part p).run = some (s.switchSet p run e r y) ∧
      (s.breathOf p run r e.n (run.reports.foldl (fun m x => Nat.max m x.2) run.linkEnd - run.layerAt) = 0 →
        (s.fixSwitch p).clusters = s.clusters) := by
  obtain ⟨at', hat⟩ := Option.isSome_iff_exists.1 hend
  have hcond : (run.switch.isSome || run.stop.isSome || run.layer + 1 == e.first + e.count ||
      !(s.part p).cfg.clusters.all fun c => (sfind? run.reports c).isSome) = false := by
    rw [hswitch, hstop, beq_eq_false_iff_ne.2 hlast, List.all_eq_true.2 hall]
    rfl
  unfold State.fixSwitch
  extract_lets q
  rw [show q.run = some run from hrun]
  dsimp only
  rw [hat, show q.plans = (s.part p).plans from rfl, hl, show q.req? run.req = some r from hr, Option.bind_some, he, Option.map_some]
  dsimp only
  rw [hcond, if_neg Bool.false_ne_true, hy]
  have hbreath (b : Nat) (cs : List Nat) (k : Nat) :
      (if b = 0 then s else s.each cs fun u c => u.modCluster c fun k => { k with power := .c1 }).part k = s.part k := by
    refine State.part_congr ?_ k
    split
    · rfl
    · exact Fld.of_each (f := .parts) _ fun v c => State.modCluster_of (fd := .parts) _ _ _ (by decide)
  refine ⟨?_, fun hb => ?_⟩
  · rw [State.part_modPart, hbreath, hrun]
    rfl
  · rw [hb, if_pos rfl]
    rfl

end

/-! ## SLOT_SWITCH and the switch CCLK -/

theorem State.le_phase0From (s : State) (t : Nat) : t ≤ s.phase0From t := Nat.le_add_right _ _

/-- A switch that waits: the cores count the CCLK as held. -/
theorem State.delaySwitch_zero (s : State) (p : Nat) : s.delaySwitch p 0 = s := if_pos rfl

theorem State.delaySwitch_pos (s : State) (p : Nat) {d : Nat} (hd : d ≠ 0) : s.delaySwitch p d =
    (s.each (s.partCores p) fun t n => t.modCore n fun k => { k.slips .queue d with slipHolds := satAdd k.slipHolds 1 }).modPart p fun q =>
      { q with run := q.run.map fun r => { r with held := r.held + d, flags := { r.flags with slip := true } } } := if_neg hd

theorem State.delaySwitch_out (s : State) {p n : Nat} (d : Nat) (h : n ∉ s.partCores p) : (s.delaySwitch p d).coreAt n = s.coreAt n := by
  by_cases hd : d = 0
  · rw [hd, State.delaySwitch_zero]
  · rw [State.delaySwitch_pos s p hd]
    exact State.coreAt_eachOut s _ h

theorem State.delaySwitch_core (s : State) {p n d : Nat} (hd : d ≠ 0) (hp : (s.partClusters p).Nodup) (h : n ∈ s.partCores p) :
    (s.delaySwitch p d).coreAt n = { (s.coreAt n).slips .queue d with slipHolds := satAdd (s.coreAt n).slipHolds 1 } := by
  rw [State.delaySwitch_pos s p hd]
  exact State.coreAt_eachNodup s _ (State.partCores_nodup hp) h

theorem State.delaySwitch_part (s : State) {p : Nat} {run : Run} (d : Nat) (hrun : (s.part p).run = some run) :
    OnePart s (s.delaySwitch p d) p ∧ (s.delaySwitch p d).part p = { s.part p with run := some { run with
      held := run.held + d, flags := { run.flags with slip := run.flags.slip || decide (d ≠ 0) } } } := by
  by_cases hd : d = 0
  · rw [hd, State.delaySwitch_zero]
    refine ⟨fun _ _ => rfl, ?_⟩
    simp only [ne_eq, not_true_eq_false, decide_false, Bool.or_false, Nat.add_zero]
    rw [← hrun]
  · have hpart (k : Nat) : (s.each (s.partCores p) fun t n => t.modCore n fun k => { k.slips .queue d with slipHolds := satAdd k.slipHolds 1 }).part k =
        s.part k := State.part_congr (Fld.of_each (f := .parts) _ fun t n => State.modCore_of (fd := .parts) _ _ _ (by decide)) k
    rw [State.delaySwitch_pos s p hd, State.part_modPart, hpart, hrun]
    refine ⟨fun k hk => (State.part_modPart_ne _ _ _ _ hk).trans (hpart k), ?_⟩
    simp only [hd, ne_eq, not_false_eq_true, decide_true, Bool.or_true, Option.map_some]

/-- Every core of a partition has SLOT_SWITCH. -/
theorem State.switchKnown_of {s : State} {p : Nat} (h : ∀ n ∈ s.partCores p, (s.coreAt n).cmd.isSome = true) : s.switchKnown p = true := by
  refine List.all_eq_true.2 fun c hc => List.all_eq_true.2 fun lc hlc => ?_
  unfold State.hasSwitch
  rw [h _ (List.mem_flatMap.2 ⟨c, hc, List.mem_map.2 ⟨lc, hlc, rfl⟩⟩), Bool.true_or]

section
variable {part : Part} {s : State} {run : Run} {w : SwitchTo}

/-- The state in which SLOT_SWITCH has reached every core of its partition. -/
def State.switchHeard (s : State) (part : Part) (w : SwitchTo) : State :=
  s.frame ((s.part part.val).cfg.switchHdr part.val) fun t c => t.toCores c ((s.part part.val).cfg.switchHdr part.val) (.slotSwitch w.flits)

theorem State.switchHeard_hears (hs : s.supply = .up) (hcan : s.canonical = true)
    (hfrom : s.fromPart ((s.part part.val).cfg.switchHdr part.val).src part = true)
    (hown : ∀ c, ((s.cluster c).assigned = true ∧ (s.cluster c).partition = part) ↔ c ∈ s.partClusters part.val)
    (hc0 : ∀ c ∈ s.partClusters part.val, (s.cluster c).at .c0 = true) (w : SwitchTo) :
    (∀ fd : Fld, fd ∉ [Fld.cores] → fd.of (s.switchHeard part w) = fd.of s) ∧
      ∀ n, (s.switchHeard part w).coreAt n = if n / 272 ∈ s.partClusters part.val then (s.coreAt n).told w.flits else s.coreAt n := by
  have hwf : swf {} s.clusters = true := by
    obtain ⟨-, -, -, -, hwf, -⟩ := (canonical_iff s).1 hcan
    exact hwf
  have hdest : ((s.part part.val).cfg.switchHdr part.val).dest = .part part :=
    congrArg Dest.part (Fin.ext (Nat.mod_eq_of_lt part.isLt))
  have hmem (c : Nat) := (State.mem_assigned hwf part c).trans (hown c)
  unfold State.switchHeard
  rw [State.frame_broadcast _ hs hdest hfrom]
  obtain ⟨h1, h2⟩ := s.toCores_switch (h := (s.part part.val).cfg.switchHdr part.val) (flits := w.flits)
    (l := (s.clusters.filter fun x => x.2.assigned && x.2.partition == part).map (·.1)) rfl fun c hc => hc0 c ((hmem c).1 hc)
  refine ⟨h1, fun n => (h2 n).trans ?_⟩
  exact if_congr (hmem _) rfl rfl

end

/-- The state in which a cluster's halt report has reached its run (R182). -/
def State.reported (s : State) (p c : Nat) : State :=
  s.modPart p fun q => { q with run := q.run.map fun x => { x with reports := sins c (s.cluster c).lastHalt x.reports } }

section
variable {part : Part} {hdr : Hdr} {c d : Cl} {run : Run} {l : Loaded} {e : Entry} {r : Request} {y : Layer} {s : State}

theorem haltReport_fixes (htaken : Taken hdr d s) (hn : forNode hdr = true) (hsrc : hdr.src = .cluster c) (hp : s.partOf c.val = some part.val)
    (hrun : (s.part part.val).run = some run) (hl : sfind? (s.part part.val).plans run.handle = some l)
    (hlead : d.val = rectLeader (s.part part.val).cfg.x0 (s.part part.val).cfg.y0 (s.part part.val).cfg.w (s.part part.val).cfg.h)
    (hseen : (s.cluster c.val).haltSeen.length = 256) (hend : run.layerEnd.isSome = true) (hswitch : run.switch = none) (hstop : run.stop = none)
    (he : l.plan.entries[run.entry]? = some e) (hr : (s.part part.val).req? run.req = some r) (hlast : run.layer + 1 ≠ e.first + e.count)
    (hy : l.plan.layers[run.layer + 1]? = some y)
    (hall : ∀ x ∈ (s.part part.val).cfg.clusters, x = c.val ∨ (sfind? run.reports x).isSome = true) :
    let reps := sins c.val (s.cluster c.val).lastHalt run.reports
    let fin := reps.foldl (fun m x => Nat.max m x.2) run.linkEnd
    let b := s.breathOf part.val run r e.n (fin - run.layerAt)
    let at' := s.phase0From (fin + 8 * b + switchTime (s.part part.val).cfg.w (s.part part.val).cfg.h)
    ∃ t, exec (.fwUrgent hdr .haltReport) s = .next t ∧ t = { s with parts := t.parts, clusters := t.clusters } ∧ OnePart s t part.val ∧
      (t.part part.val).run = some { run with
        reports := reps, spent := run.spent + b
        switch := some { layer := run.layer + 1, time := at', flits := switchFlits y.slot y.guarded (s.cclkAt at') }
        breathing := if b = 0 then none else some (fin + 8 * b)
        flags := { run.flags with breath := run.flags.breath || decide (0 < b) } } ∧
      (b = 0 → t.clusters = s.clusters) := by
  intro reps fin b at'
  have hat : s.runAt c.val = some (part.val, run) := by
    unfold State.runAt
    rw [hp, Option.bind_some, hrun]
    rfl
  have hexec := htaken.haltReport hn hsrc hat hlead hseen
  have hpart : (s.reported part.val c.val).part part.val =
      { s.part part.val with run := some { run with reports := reps } } := by
    unfold State.reported
    rw [State.part_modPart, hrun]
    rfl
  have hbreath : (s.reported part.val c.val).breathOf part.val { run with reports := reps } r e.n (fin - run.layerAt) = b :=
    s.breathOf_modRun ..
  have hreps : ∀ x ∈ (s.part part.val).cfg.clusters, (sfind? reps x).isSome = true := by
    intro x hx
    by_cases hxc : x = c.val
    · rw [hxc, sfind?_sins_same]
      rfl
    · rw [sfind?_sins_ne _ _ _ _ hxc]
      exact (hall x hx).resolve_left hxc
  obtain ⟨h1, h2⟩ := State.fixSwitch_fixes (s := s.reported part.val c.val)
    (p := part.val) (run := { run with reports := reps }) (l := l) (e := e) (r := r) (y := y) (by rw [hpart]) hend (by rw [hpart]; exact hl) he
    (by rw [hpart]; exact hr) hswitch hstop hlast hy (by rw [hpart]; exact hreps)
  obtain ⟨hone, -⟩ := State.fixSwitch_reports (s := s.reported part.val c.val)
    (p := part.val) (run := { run with reports := reps }) (by rw [hpart])
  refine ⟨_, hexec, State.eq_patch [.parts, .clusters] fun fd hfd => ?_, fun k hk => (hone k hk).trans (s.modPart_one _ _ k hk), h1.trans ?_, fun hb => h2 ?_⟩
  · exact (State.fixSwitch_of _ _ (Fld.not_mem hfd)).trans (State.modPart_of _ _ _ (Fld.not_mem hfd))
  · unfold State.switchSet
    dsimp only
    rw [hbreath, hpart]
    rfl
  · exact hbreath.trans hb

end

section
variable {part : Part} {run : Run} {w : SwitchTo} {s : State}

/-- What SLOT_SWITCH leaves, where its switch is at a time (R184, R185). -/
def State.switchSent (u : State) (p : Nat) (w : SwitchTo) (due time : Nat) : State :=
  (u.delaySwitch p (time - due)).modPart p fun q => { q with run := q.run.map fun r => { r with switch := some { w with time := time, sent := true } } }

theorem State.slotSwitch_eq (hrun : (s.part part.val).run = some run) (hw : run.switch = some w) (hsent : w.sent = false) :
    s.slotSwitch part.val = (s.switchHeard part w).switchSent part.val w ((s.switchHeard part w).timeOf (switchCmd w.flits).2.2)
      (if (s.switchHeard part w).now ≤ (s.switchHeard part w).timeOf (switchCmd w.flits).2.2 || !(s.switchHeard part w).switchKnown part.val then
        (s.switchHeard part w).timeOf (switchCmd w.flits).2.2 else (s.switchHeard part w).phase0From (s.switchHeard part w).now) := by
  unfold State.slotSwitch
  rw [hrun, Option.bind_some, hw]
  dsimp only
  rw [hsent, Bool.false_and, if_neg Bool.false_ne_true]
  rfl

theorem State.switchSent_part (u : State) {p : Nat} (w : SwitchTo) (due time : Nat) (hrun : (u.part p).run = some run) :
    OnePart u (u.switchSent p w due time) p ∧ (u.switchSent p w due time).part p = { u.part p with run := some { run with
      held := run.held + (time - due), flags := { run.flags with slip := run.flags.slip || decide (time - due ≠ 0) }
      switch := some { w with time := time, sent := true } } } := by
  obtain ⟨h1, h2⟩ := u.delaySwitch_part (time - due) hrun
  unfold State.switchSent
  rw [State.part_modPart, h2]
  exact ⟨fun k hk => (State.part_modPart_ne _ _ _ _ hk).trans (h1 k hk), rfl⟩

theorem slotSwitch_sends (hwafer : s.wafer = true) (hrun : (s.part part.val).run = some run) (hw : run.switch = some w) (hsent : w.sent = false)
    (hcan : s.canonical = true) (hfrom : s.fromPart ((s.part part.val).cfg.switchHdr part.val).src part = true)
    (hown : ∀ c, ((s.cluster c).assigned = true ∧ (s.cluster c).partition = part) ↔ c ∈ s.partClusters part.val)
    (hc0 : ∀ c ∈ s.partClusters part.val, (s.cluster c).at .c0 = true) :
    let p := part.val
    let due := s.timeOf (switchCmd w.flits).2.2
    ∃ t, exec (.slotSwitch part) s = .next t ∧ t = { s with parts := t.parts, cores := t.cores } ∧ OnePart s t p ∧
      (∀ n, n / 272 ∉ s.partClusters p → t.coreAt n = s.coreAt n) ∧
      (s.now ≤ due → (∀ n ∈ s.partCores p, t.coreAt n = { s.coreAt n with cmd := some (switchCmd w.flits) }) ∧
        t.part p = { s.part p with run := some { run with switch := some { w with time := due, sent := true } } }) ∧
      (due < s.now →
        (t.part p).run = some { run with held := run.held + (s.phase0From s.now - due), flags := { run.flags with slip := true }
                                         switch := some { w with time := s.phase0From s.now, sent := true } } ∧
        ((s.partClusters p).Nodup → ∀ n ∈ s.partCores p,
          (t.coreAt n).slipQueue = satAdd (s.coreAt n).slipQueue (s.phase0From s.now - due) ∧
          (t.coreAt n).slipHolds = satAdd (s.coreAt n).slipHolds 1)) := by
  intro p due
  have hs : s.supply = .up := eq_of_beq (Bool.and_eq_true_iff.1 hwafer).1
  obtain ⟨hf, hn⟩ := State.switchHeard_hears hs hcan hfrom hown hc0 w
  have hexec : exec (.slotSwitch part) s = .next (s.slotSwitch p) := congrArg Host.Outcome.next (if_pos hwafer)
  rw [State.slotSwitch_eq hrun hw hsent] at hexec
  generalize s.switchHeard part w = u at hf hn hexec
  have hnow : u.now = s.now := hf .now (by decide)
  have hsub : u.sub = s.sub := hf .sub (by decide)
  have het : u.et = s.et := hf .et (by decide)
  have hdue : u.timeOf (switchCmd w.flits).2.2 = due := by
    unfold State.timeOf State.cclk
    rw [hnow, hsub, het]
    rfl
  have hphase : u.phase0From s.now = s.phase0From s.now := by
    unfold State.phase0From
    rw [hnow, hsub]
  have hpart (k : Nat) : u.part k = s.part k := State.part_congr (hf .parts (by decide)) k
  have hclusters : u.partClusters p = s.partClusters p := by
    unfold State.partClusters
    rw [hpart]
  have hcores : u.partCores p = s.partCores p := by
    unfold State.partCores
    rw [hclusters]
    exact List.flatMap_congr fun c _ => List.map_congr_left fun lc _ => State.lcore_congr (hf .clusters (by decide)) c lc
  have hin (n : Nat) (h : n ∈ s.partCores p) : u.coreAt n = (s.coreAt n).told w.flits :=
    (hn n).trans (if_pos (State.partCores_div h))
  have hout (time n : Nat) (h : n / 272 ∉ s.partClusters p) : (u.switchSent p w due time).coreAt n = s.coreAt n := by
    refine (u.delaySwitch_out _ fun hm => h ?_).trans ((hn n).trans (if_neg h))
    exact State.partCores_div (hcores ▸ hm)
  rw [hdue, hnow, hphase] at hexec
  refine ⟨_, hexec, State.eq_patch [.parts, .cores] fun fd hfd => ?_, fun k hk => ?_, fun n h => hout _ n h, fun hle => ?_, fun hlt => ?_⟩
  · exact (State.modPart_of _ _ _ (Fld.not_mem hfd)).trans ((State.delaySwitch_of _ _ _ (Fld.not_mem hfd)).trans (hf fd (Fld.not_mem hfd)))
  · exact ((u.switchSent_part w due _ (hpart p ▸ hrun)).1 k hk).trans (hpart k)
  · have htime : (if (decide (s.now ≤ due) || !u.switchKnown p) = true then due else s.phase0From s.now) = due := by
      rw [decide_eq_true hle]
      rfl
    rw [htime, (u.switchSent_part w due due (hpart p ▸ hrun)).2, hpart]
    unfold State.switchSent
    rw [Nat.sub_self, State.delaySwitch_zero]
    refine ⟨hin, ?_⟩
    simp only [ne_eq, not_true_eq_false, decide_false, Bool.or_false, Nat.add_zero]
    rfl
  · have hknown : u.switchKnown p = true := State.switchKnown_of fun n hm => by
      rw [hin n (hcores ▸ hm)]
      rfl
    have htime : (if (decide (s.now ≤ due) || !u.switchKnown p) = true then due else s.phase0From s.now) = s.phase0From s.now := by
      rw [decide_eq_false (Nat.not_le.2 hlt), hknown]
      rfl
    have hd : s.phase0From s.now - due ≠ 0 := by
      have := s.le_phase0From s.now
      omega
    rw [htime, (u.switchSent_part w due _ (hpart p ▸ hrun)).2]
    refine ⟨by simp only [hd, ne_eq, not_false_eq_true, decide_true, Bool.or_true], fun hnd n hm => ?_⟩
    have hcore : (u.switchSent p w due (s.phase0From s.now)).coreAt n =
        { ((s.coreAt n).told w.flits).slips .queue (s.phase0From s.now - due) with slipHolds := satAdd (s.coreAt n).slipHolds 1 } := by
      refine (u.delaySwitch_core hd (hclusters ▸ hnd) (hcores ▸ hm)).trans ?_
      rw [hin n hm]
      rfl
    rw [hcore]
    exact ⟨rfl, rfl⟩

end

end Sys2Proof.Machine
end

section
/-!
The switch CCLK and the end of a run load (R81, R188).
-/

namespace Sys2Proof.Machine

open Sys2Proof

/-! ## The switch CCLK -/

/-- What the frames that waited at row nodes leave of clusters (R344). -/
theorem State.rowsGo_cluster (s : State) (c k : Nat) : (s.rowsGo c).cluster k = (s.modCluster c fun k => { k with rowWait := [] }).cluster k := by
  unfold State.rowsGo
  exact State.cluster_congr (Fld.of_each (f := .clusters) _ fun t x => State.coresGet_of (fd := .clusters) _ _ _ _ (by decide)) k

theorem State.rowsGo_power (s : State) (c k : Nat) : ((s.rowsGo c).cluster k).power = (s.cluster k).power := by
  rw [State.rowsGo_cluster]
  by_cases hk : k = c
  · rw [hk, State.cluster_modCluster]
  · rw [State.cluster_modCluster_ne _ _ _ _ hk]

/-- The clusters of a run that breathes are back in C0 at its switch (R354). -/
theorem State.wakes_power (s : State) {l : List Nat} {c : Nat} (h : c ∈ l) :
    ((s.each l fun t c => (t.modCluster c fun k => { k with power := .c0 }).rowsGo c).cluster c).power = .c0 := by
  have hstep (t : State) (a : Nat) : (((t.modCluster a fun k => { k with power := .c0 }).rowsGo a).cluster c).power =
      if c = a then .c0 else (t.cluster c).power := by
    rw [State.rowsGo_power]
    split
    · next ha => rw [ha, State.cluster_modCluster]
    · next ha => rw [State.cluster_modCluster_ne _ _ _ _ ha]
  have hall (l : List Nat) (t : State) (ht : c ∈ l ∨ (t.cluster c).power = .c0) :
      ((t.each l fun t c => (t.modCluster c fun k => { k with power := .c0 }).rowsGo c).cluster c).power = .c0 := by
    induction l generalizing t with
    | nil => exact ht.resolve_left List.not_mem_nil
    | cons a l ih =>
      refine ih _ ?_
      rw [hstep]
      by_cases ha : c = a
      · exact .inr (if_pos ha)
      · rw [if_neg ha]
        exact ht.imp_left fun hm => (List.mem_cons.1 hm).resolve_left ha
  exact hall l s (.inl h)

theorem State.setGang_power (s : State) (p : Nat) (pl : Plan) (slot : Fin 4) (loads : List Nat) (c : Nat) :
    ((s.setGang p pl slot loads).cluster c).power = (s.cluster c).power :=
  s.cluster_eachRel (g := fun c k => { k with ganged := pl.gangs slot loads (pl.clusterIndex c), gangPt := 0, gang := [], haltSeen := [] })
    (R := fun a b => b.power = a.power) (fun _ => rfl) (fun _ _ _ h1 h2 => h2.trans h1) (fun _ _ => rfl) (s.partClusters p) c

/-- A core that has its command. -/
theorem Core.obey_obey (k : Core) : k.obey.obey = k.obey := by
  unfold Core.obey
  cases h : k.cmd with
  | none => simp only [h]
  | some x => rfl

/-- The state before the run's record of a switch (R81, R185). -/
def State.switched (s : State) (p : Nat) (run : Run) (pl : Plan) (w : SwitchTo) (l : Layer) : State :=
  let a := s.delaySwitch p (s.now - w.time)
  let b := if run.breathing.isSome then a.each (a.partClusters p) fun t c => (t.modCluster c fun k => { k with power := .c0 }).rowsGo c else a
  (b.each (b.partCores p) fun t n => t.modCore n Core.obey).setGang p pl l.slot (run.loads.map (·.1))

/-- The run's record of a switch. -/
def Run.switched (r : Run) (w : SwitchTo) (l : Layer) (now : Nat) : Run :=
  { r with layer := w.layer, layerAt := now, layerEnd := none, haltedAt := none, linkEnd := 0, switch := none, reports := [], breathing := none
           loads := match l.load with | some i => (r.loads.filter fun x => x.1 != i) ++ [(i, false)] | none => r.loads
           moved := [], readLines := [], links := [] }

theorem Run.switched_fields (r : Run) (w : SwitchTo) (l : Layer) (now : Nat) :
    (r.switched w l now).layer = w.layer ∧ (r.switched w l now).layerAt = now ∧ (r.switched w l now).layerEnd = none ∧
      (r.switched w l now).switch = none ∧ (r.switched w l now).reports = [] ∧ (r.switched w l now).breathing = none :=
  ⟨rfl, rfl, rfl, rfl, rfl, rfl⟩

theorem State.switchNow_eq (s : State) (p : Nat) (run : Run) (pl : Plan) (w : SwitchTo) (l : Layer) :
    s.switchNow p run pl w l = (s.switched p run pl w l).modPart p fun q =>
      { q with run := q.run.map fun r => r.switched w l (s.switched p run pl w l).now } := by
  unfold State.switchNow State.switched Run.switched
  rfl

/-- A switch that waits keeps what its cores have been told and accumulated. -/
theorem State.delaySwitch_keeps (s : State) (p d n : Nat) :
    ((s.delaySwitch p d).coreAt n).cmd = (s.coreAt n).cmd ∧ ((s.delaySwitch p d).coreAt n).acc = (s.coreAt n).acc := by
  by_cases hd : d = 0
  · rw [hd, State.delaySwitch_zero]
    exact ⟨rfl, rfl⟩
  · rw [State.delaySwitch_pos s p hd]
    refine State.each_induct (P := fun t => (t.coreAt n).cmd = (s.coreAt n).cmd ∧ (t.coreAt n).acc = (s.coreAt n).acc) ⟨rfl, rfl⟩ fun t ht m _ => ?_
    by_cases hm : n = m
    · rw [hm, State.coreAt_modCore, ← hm]
      exact ht
    · rw [State.coreAt_modCore_ne _ _ _ _ hm]
      exact ht

/-- What the switch CCLK leaves (R81, R185, R354). -/
theorem State.switched_leaves (s : State) {p : Nat} {run : Run} (pl : Plan) (w : SwitchTo) (l : Layer) (hrun : (s.part p).run = some run) :
    let t := s.switched p run pl w l
    OnePart s t p ∧ t.now = s.now ∧ (t.part p).run.isSome = true ∧
      (run.breathing.isSome = true → ∀ c ∈ s.partClusters p, (t.cluster c).power = .c0) ∧
      (run.breathing = none → (∀ fd : Fld, fd ∉ [Fld.parts, .cores, .clusters] → fd.of t = fd.of s) ∧
        (∀ n, n ∉ s.partCores p → t.coreAt n = s.coreAt n) ∧ ∀ n ∈ s.partCores p, ∃ k : Core, t.coreAt n = k.obey ∧ k.cmd = (s.coreAt n).cmd ∧ k.acc = (s.coreAt n).acc) := by
  intro t
  have ht : t = s.switched p run pl w l := rfl
  clear_value t
  unfold State.switched at ht
  extract_lets a b at ht
  obtain ⟨ha1, ha2⟩ := s.delaySwitch_part (s.now - w.time) hrun
  have ha (fd : Fld) (h : fd ∉ [Fld.cores, .parts]) : fd.of a = fd.of s := State.delaySwitch_of s p _ h
  have hclusters : a.partClusters p = s.partClusters p := by
    unfold State.partClusters
    rw [ha2]
  have hcores : a.partCores p = s.partCores p := by
    unfold State.partCores
    rw [hclusters]
    exact List.flatMap_congr fun c _ => List.map_congr_left fun lc _ => State.lcore_congr (ha .clusters (by decide)) c lc
  have hb (fd : Fld) (h : fd ∉ [Fld.cores, .clusters, .regReplies]) : fd.of b = fd.of a := by
    simp only [b]
    split
    · exact Fld.of_each (f := fd) _ fun v c => (State.rowsGo_of _ _ h).trans (State.modCluster_of _ _ _ (Fld.not_mem h))
    · rfl
  have ho (fd : Fld) (h : fd ∉ [Fld.cores]) : fd.of (b.each (b.partCores p) fun t n => t.modCore n Core.obey) = fd.of b :=
    Fld.of_each (f := fd) _ fun v n => State.modCore_of _ _ _ h
  have hg (fd : Fld) (h : fd ∉ [Fld.clusters]) : fd.of t = fd.of (b.each (b.partCores p) fun t n => t.modCore n Core.obey) := by
    rw [ht]
    exact State.setGang_of _ _ _ _ _ h
  have hpart (k : Nat) : t.part k = a.part k :=
    State.part_congr ((hg .parts (by decide)).trans ((ho .parts (by decide)).trans (hb .parts (by decide)))) k
  refine ⟨fun k hk => (hpart k).trans (ha1 k hk), ?_, ?_, fun hbreath c hc => ?_, fun hbreath => ?_⟩
  · exact (hg .now (by decide)).trans ((ho .now (by decide)).trans ((hb .now (by decide)).trans (ha .now (by decide))))
  · rw [hpart, ha2]
    rfl
  · rw [ht, State.setGang_power, State.cluster_congr (ho .clusters (by decide))]
    simp only [b]
    rw [if_pos hbreath]
    exact a.wakes_power (hclusters ▸ hc)
  · have hba : b = a := if_neg (by rw [hbreath]; decide)
    have hcore (n : Nat) : t.coreAt n = (a.each (s.partCores p) fun t n => t.modCore n Core.obey).coreAt n := by
      rw [State.coreAt_congr (hg .cores (by decide)), hba, hcores]
    refine ⟨fun fd h => ?_, fun n hn => ?_, fun n hn => ⟨a.coreAt n, ?_, s.delaySwitch_keeps p _ n⟩⟩
    · exact (hg fd (Fld.not_mem h)).trans ((ho fd (Fld.not_mem h)).trans ((congrArg fd.of hba).trans (ha fd (Fld.not_mem h))))
    · rw [hcore, State.coreAt_eachOut _ _ hn]
      exact s.delaySwitch_out _ hn
    · rw [hcore, State.coreAt_eachOnce a Core.obey_obey hn]

/-! ## The end of a run load (R188) -/

/-- What one step of many establishes and the others keep. -/
theorem State.each_establishes {α : Type} {I Q : State → Prop} {f : State → α → State} {l : List α} {s : State} {a : α} (ha : a ∈ l) (hs : I s)
    (hI : ∀ t, I t → ∀ b ∈ l, I (f t b)) (hset : ∀ t, I t → Q (f t a)) (hkeep : ∀ t, I t → Q t → ∀ b ∈ l, Q (f t b)) : I (s.each l f) ∧ Q (s.each l f) := by
  have hall (m : List α) (hm : ∀ b ∈ m, b ∈ l) (t : State) (ht : I t) (hq : a ∈ m ∨ Q t) : I (t.each m f) ∧ Q (t.each m f) := by
    induction m generalizing t with
    | nil => exact ⟨ht, hq.resolve_left List.not_mem_nil⟩
    | cons b m ih =>
      have hb := hm b List.mem_cons_self
      refine ih (fun c hc => hm c (List.mem_cons_of_mem _ hc)) _ (hI t ht b hb) ?_
      rcases hq with hq | hq
      · rcases List.mem_cons.1 hq with rfl | hq
        · exact .inr (hset t ht)
        · exact .inl hq
      · exact .inr (hkeep t ht hq b hb)
  exact hall l (fun _ h => h) s hs (.inl ha)

/-- The slot of a core that a load fills. -/
def Core.slotIs (k : Core) (slot : Nat) (v : Slot) : Prop := sget {} k.slots slot = v

theorem State.lcore_inj {s : State} {c c' lc lc' : Nat} (h : lc < 256) (h' : lc' < 256) (he : s.lcore c lc = s.lcore c' lc') : c = c' ∧ lc = lc' := by
  have hc : c = c' := by rw [← s.lcore_div c h, ← s.lcore_div c' h', he]
  subst hc
  exact ⟨rfl, (s.cluster c).phys_inj (Nat.add_left_cancel he)⟩

section
variable (s : State) (pl : Plan) (ld : Load) (l : List Nat)

/-- A load placed in one core. -/
def State.placeOne (s : State) (c lc : Nat) : State :=
  s.modCore (s.lcore c lc) fun k => { k with slots := sput {} ld.slot.val (pl.loadSlot ld (pl.clusterIndex c) lc) k.slots }

theorem State.placeLoad_eq (c : Nat) : s.placeLoad pl ld c = s.each (List.range 256) fun t lc => t.placeOne pl ld c lc := rfl

theorem State.placeOne_clusters (c lc : Nat) : (s.placeOne pl ld c lc).clusters = s.clusters := rfl

theorem State.placeOne_same (c lc : Nat) :
    ((s.placeOne pl ld c lc).coreAt (s.lcore c lc)).slotIs ld.slot.val (pl.loadSlot ld (pl.clusterIndex c) lc) := by
  unfold State.placeOne
  rw [State.coreAt_modCore]
  exact sget_sput_same ..

theorem State.placeOne_ne {n c lc : Nat} (h : n ≠ s.lcore c lc) : (s.placeOne pl ld c lc).coreAt n = s.coreAt n := State.coreAt_modCore_ne _ _ _ _ h

/-- A load placed in every core of clusters. -/
theorem State.placeLoad_places {c lc : Nat} (hc : c ∈ l) (hlc : lc < 256) :
    ((s.each l fun t c => t.placeLoad pl ld c).coreAt (s.lcore c lc)).slotIs ld.slot.val (pl.loadSlot ld (pl.clusterIndex c) lc) := by
  let Q (t : State) : Prop := (t.coreAt (s.lcore c lc)).slotIs ld.slot.val (pl.loadSlot ld (pl.clusterIndex c) lc)
  have hone (t : State) (ht : t.clusters = s.clusters) (b j : Nat) (hj : j < 256) (h : (b = c ∧ j = lc) ∨ Q t) : Q (t.placeOne pl ld b j) := by
    by_cases he : s.lcore c lc = s.lcore b j
    · obtain ⟨rfl, rfl⟩ := State.lcore_inj hlc hj he
      have hsame := t.placeOne_same pl ld c lc
      rwa [State.lcore_congr ht] at hsame
    · have hq : Q t := h.resolve_left fun hand => he (by rw [hand.1, hand.2])
      have hne := t.placeOne_ne pl ld (n := s.lcore c lc) (c := b) (lc := j) (by rwa [State.lcore_congr ht])
      simp only [Q]
      rwa [hne]
  have hkeep (t : State) (ht : t.clusters = s.clusters) (b : Nat) (h : b = c ∨ Q t) : Q (t.placeLoad pl ld b) := by
    rw [State.placeLoad_eq]
    rcases h with rfl | h
    · exact (State.each_establishes (I := fun u => u.clusters = s.clusters) (Q := Q) (List.mem_range.2 hlc) ht
        (fun u hu j _ => (u.placeOne_clusters pl ld b j).trans hu) (fun u hu => hone u hu b lc hlc (.inl ⟨rfl, rfl⟩))
        fun u hu hq j hj => hone u hu b j (List.mem_range.1 hj) (.inr hq)).2
    · exact (State.each_induct (P := fun u => u.clusters = s.clusters ∧ Q u) ⟨ht, h⟩
        fun u hu j hj => ⟨(u.placeOne_clusters pl ld b j).trans hu.1, hone u hu.1 b j (List.mem_range.1 hj) (.inr hu.2)⟩).2
  exact (State.each_establishes (I := fun t => t.clusters = s.clusters) (Q := Q) hc rfl
    (fun t ht b _ => (State.placeLoad_of (fd := .clusters) t pl ld b (by decide)).trans ht) (fun t ht => hkeep t ht c (.inl rfl))
    fun t ht hq b _ => hkeep t ht b (.inr hq)).2

/-- And in no other core. -/
theorem State.placeLoad_out {n : Nat} (h : ∀ c ∈ l, ∀ lc < 256, n ≠ s.lcore c lc) :
    (s.each l fun t c => t.placeLoad pl ld c).coreAt n = s.coreAt n := by
  refine (State.each_induct (P := fun t => t.clusters = s.clusters ∧ t.coreAt n = s.coreAt n) ⟨rfl, rfl⟩ fun t ht c hc => ?_).2
  rw [State.placeLoad_eq]
  refine State.each_induct (P := fun t => t.clusters = s.clusters ∧ t.coreAt n = s.coreAt n) ht fun u hu lc hlc =>
    ⟨(u.placeOne_clusters pl ld c lc).trans hu.1, (u.placeOne_ne pl ld ?_).trans hu.2⟩
  rw [State.lcore_congr hu.1]
  exact h c hc lc (List.mem_range.1 hlc)

end

/-- Settles O41: the report, the frame, the switch CCLK and the end of a load are each one change of the run, with the cores as the case says. -/
theorem slotSwitches : Obligations.SlotSwitches := by
  unfold Obligations.SlotSwitches
  intro part hdr c d run w l e r y load ld s hwafer p cfg h due reps fin b at' hrun hl
  have hs : s.supply = .up := eq_of_beq (Bool.and_eq_true_iff.1 hwafer).1
  refine ⟨fun hd hway hdel hn hsrc hp hlead hseen hend hsw hstop he hr hlast hy hall => ?_, fun hw hsent hcan hfrom hown hc0 => ?_,
    fun hw hsent hknown htime hphase hy hloaded hready => ?_, fun hld hopen => ?_⟩
  · exact haltReport_fixes ⟨hs, hd, hway, hdel⟩ hn hsrc hp hrun hl hlead hseen hend hsw hstop he hr hlast hy hall
  · exact slotSwitch_sends hwafer hrun hw hsent hcan hfrom hown hc0
  · have hexec : exec (.switchCclk part) s = .next (s.switchNow p run l.plan w y) := by
      refine congrArg Host.Outcome.next ?_
      rw [hrun]
      dsimp only
      rw [hw, hl]
      dsimp only
      rw [hy]
      dsimp only
      have hall : (s.partClusters part.val).all (fun c => (s.cluster c).trans.isNone && decide ((s.cluster c).power.depth ≤ 1)) = true :=
        List.all_eq_true.2 fun c hc => by
          obtain ⟨h1, h2⟩ := hready c hc
          rw [h1, decide_eq_true h2]
          rfl
      rw [if_pos (by rw [hwafer, hsent, hknown, decide_eq_true htime, hphase, hloaded, hall]; rfl)]
    rw [State.switchNow_eq] at hexec
    obtain ⟨h1, h2, h3, h4, h5⟩ := s.switched_leaves l.plan w y hrun
    generalize s.switched p run l.plan w y = u at hexec h1 h2 h3 h4 h5
    obtain ⟨r, hr⟩ := Option.isSome_iff_exists.1 h3
    obtain ⟨f1, f2, f3, f4, f5, f6⟩ := r.switched_fields w y u.now
    refine ⟨_, r.switched w y u.now, hexec, fun k hk => (State.part_modPart_ne _ _ _ _ hk).trans (h1 k hk), ?_,
      f1, f2.trans h2, f3, f4, f5, f6, h4, fun hb => ?_⟩
    · rw [State.part_modPart, hr]
      rfl
    · obtain ⟨h6, h7, h8⟩ := h5 hb
      refine ⟨State.eq_patch [.parts, .cores, .clusters] fun fd hfd => (State.modPart_of _ _ _ (Fld.not_mem hfd)).trans (h6 fd hfd), h7,
        fun n hn sl g z hcmd => ?_⟩
      obtain ⟨k, hk, hkc, hka⟩ := h8 n hn
      have hobey : k.obey = k.switchTo sl g := by
        unfold Core.obey
        rw [hkc, hcmd]
      have hcore : u.coreAt n = k.switchTo sl g := hk.trans hobey
      refine ⟨congrArg Core.slot hcore, congrArg Core.guarded hcore, congrArg Core.pc hcore, congrArg Core.halted hcore,
        congrArg Core.active hcore, (congrArg Core.acc hcore).trans hka, congrArg Core.cmd hcore⟩
  · have hexec : exec (.reloadComplete part load) s = .next (s.reloaded p load) := congrArg Host.Outcome.next (if_pos hwafer)
    have hre : s.reloaded p load = (s.each (s.partClusters p) fun t c => t.placeLoad l.plan ld c).modPart p fun q =>
        { q with run := q.run.map fun r => { r with loads := r.loads.map fun x => if x.1 = load then (load, true) else x } } := by
      unfold State.reloaded
      rw [hrun]
      dsimp only
      rw [hl, Option.bind_some, hld, Option.map_some]
      exact if_pos hopen
    rw [hre] at hexec
    have hplaced (fd : Fld) (hfd : fd ∉ [Fld.cores]) : fd.of (s.each (s.partClusters p) fun t c => t.placeLoad l.plan ld c) = fd.of s :=
      Fld.of_each (f := fd) _ fun t c => State.placeLoad_of _ _ _ _ hfd
    have hpart (k : Nat) := State.part_congr (hplaced .parts (by decide)) k
    refine ⟨_, hexec, State.eq_patch [.parts, .cores] fun fd hfd => (State.modPart_of _ _ _ (Fld.not_mem hfd)).trans (hplaced fd (Fld.not_mem hfd)),
      fun k hk => (State.part_modPart_ne _ _ _ _ hk).trans (hpart k), fun n hn => ?_, fun c hc lc hlc => s.placeLoad_places l.plan ld _ hc hlc, ?_⟩
    · refine s.placeLoad_out l.plan ld _ fun c hc lc hlc he => hn ?_
      exact List.mem_flatMap.2 ⟨c, hc, List.mem_map.2 ⟨lc, List.mem_range.2 hlc, he.symm⟩⟩
    · rw [State.part_modPart, hpart, hrun]
      rfl

end Sys2Proof.Machine
end

section
/-!
A link line that ends a layer under a breath (R57, R182, R316, R354).
-/

namespace Sys2Proof.Machine

open Sys2Proof

/-- A request of 1000 ticks of breath. -/
def breathing : Request :=
  { id := 1, die := 0, fn := 1, ring := 0, tag := 0, entry := 0, prio := 0, deadline := 0, inLen := 0, outAddr := 0, outLen := 0, fetch := 0
    p := 0, b := 1000, i := 0, e := 0, promisedEnd := 0, promise := 0, pair := 0, inBase := 0, outBase := 0 }

/-- The line that the last link record of a layer waits for. -/
def lastLine : ChanLine := ⟨0, 0, 0, [], .link 1 0 0 0 0⟩

/-- P1 of cluster 1 with every core halted, above the power cap; its layer ends with the line that cluster 0 writes. -/
def State.lineLeft : State :=
  { supply := .up, rails := { cclk := true }, overCap := true, now := 1000, sub := 1
    clusters := [(0, { power := .c0 })]
    cores := (0, { chan := [lastLine] }) :: (List.range 272).map fun i => (272 + i, { halted := true })
    parts := [(1, { life := .live, cfg := { x0 := 1, w := 1, h := 1 }, queue := [breathing]
                    plans := [(0, { plan := { entries := [⟨0, 2, 0, 0, 1000, 0, 0⟩] } })]
                    run := some { req := 1, handle := 0, entry := 0, layer := 0, layerAt := 0, reports := [(1, 1000)] } })] }

/-- The power state of a cluster after the line. -/
def powerAfterLine (c : Nat) (s : State) : Option CState :=
  match exec (.channelLineWrite 0 0) s with
  | .next t => some (t.cluster c).power
  | _ => none

theorem powerAfterLine_lineLeft : powerAfterLine 1 State.lineLeft = some .c1 ∧ (State.lineLeft.cluster 1).power ≠ .c1 := by decide +kernel

/-- Refutes O42: the line that a link record waits for may end a layer, and a breath then sends clusters of the record's partition to C1
besides the cluster whose port 3 writes the line. -/
theorem not_channelLines : ¬ Obligations.ChannelLines := by
  unfold Obligations.ChannelLines
  intro h
  obtain ⟨hwrite, -⟩ := h 0 0 0 0 0 0 0 lastLine ⟨0, 0, 0, 0, 0, 0⟩ { req := 0, handle := 0, entry := 0, layer := 0, layerAt := 0 } {} breathing
    ⟨0, 0, 0, 0, 0, 0, 0, 0, 0, 0, 0⟩ (0, 0, []) 1 0 0 0 .clean State.lineLeft
  obtain ⟨-, hlink⟩ := hwrite (by decide +kernel) (by decide +kernel) (by decide +kernel)
  obtain ⟨t, ht, -, hstored, -⟩ := hlink rfl fun u hu => .inl (congrArg Run.stop (Option.some.inj hu).symm)
  obtain ⟨-, hone, -⟩ := hstored
  obtain ⟨hafter, hbefore⟩ := powerAfterLine_lineLeft
  unfold powerAfterLine at hafter
  rw [show exec (.channelLineWrite 0 0) State.lineLeft = .next t from ht] at hafter
  have hpower : (t.cluster 1).power = .c1 := Option.some.inj hafter
  exact hbefore ((congrArg Cluster.power (hone 1 (by decide))).symm.trans hpower)

end Sys2Proof.Machine
end

section
/-!
Stacks of HBM and descriptor DMA (R272 to R277, R287 to R290).
-/

namespace Sys2Proof.Machine

open Sys2Proof

/-! ## What a transfer writes -/

theorem mread_dmaWrite_out (q : PartState) (off : Nat) (b : Bytes) (m : Mem) {a : Nat} (ha : granuleOf a ∉ q.cfg.granules) :
    mread (dmaWrite q off b m) a = mread m a := by
  induction b generalizing off m with
  | nil => rfl
  | cons x b ih =>
    refine (ih (off + 1) _).trans ?_
    split
    next e he =>
      split
      · rfl
      · exact mread_mwrite_ne _ _ _ _ fun h => ha (h ▸ PartRec.ea_granule he)
    next => rfl

/-- Two offsets of a partition whose granules differ have different addresses. -/
theorem PartRec.ea_inj {r : PartRec} (hr : r.granules.Nodup) {i j a : Nat} (hi : r.ea i = some a) (hj : r.ea j = some a) : i = j := by
  obtain ⟨g, hg, hga⟩ := Option.map_eq_some_iff.1 hi
  obtain ⟨g', hg', hga'⟩ := Option.map_eq_some_iff.1 hj
  unfold granuleBase granuleSize at hga hga'
  have hgg : g = g' := by omega
  have hdiv : i / granuleSize = j / granuleSize :=
    (List.getElem?_inj (List.getElem?_eq_some_iff.1 hg).1 hr).1 (hg.trans (hgg ▸ hg'.symm))
  unfold granuleSize at hdiv
  omega

/-- A transfer that has gone past an offset leaves its byte. -/
theorem mread_dmaWrite_past {q : PartState} (hq : q.cfg.granules.Nodup) {i o a : Nat} (b : Bytes) (m : Mem) (ho : i < o)
    (ha : q.cfg.ea i = some a) : mread (dmaWrite q o b m) a = mread m a := by
  induction b generalizing o m with
  | nil => rfl
  | cons x b ih =>
    refine (ih _ (Nat.lt_succ_of_lt ho)).trans ?_
    split
    next e he =>
      split
      · rfl
      · exact mread_mwrite_ne _ _ _ _ fun h => absurd (PartRec.ea_inj hq ha (h ▸ he)) (Nat.ne_of_lt ho)
    next => rfl

/-- A byte that a transfer may write reads as written. -/
theorem mread_dmaWrite_in {q : PartState} (hq : q.cfg.granules.Nodup) {off i a : Nat} {b : Bytes} (m : Mem) (hi : i < b.length)
    (ha : q.cfg.ea (off + i) = some a) (hin : q.inImage (off + i) 1 = false) : mread (dmaWrite q off b m) a = b.getD i 0#8 := by
  induction b generalizing off i m with
  | nil => exact absurd hi (Nat.not_lt_zero i)
  | cons x b ih =>
    cases i with
    | zero =>
      rw [Nat.add_zero] at ha hin
      refine (mread_dmaWrite_past hq b _ (Nat.lt_succ_self off) ha).trans ?_
      rw [ha]
      dsimp only
      rw [hin, if_neg Bool.false_ne_true]
      exact mread_mwrite_same ..
    | succ i =>
      have he : off + (i + 1) = off + 1 + i := by omega
      rw [he] at ha hin
      exact ih _ (Nat.lt_of_succ_lt_succ hi) ha hin

/-! ## The end of a descriptor -/

section
variable (s : State) (h f : Nat)

/-- The host address of a descriptor's bytes 0x38 to 0x3F. -/
def State.dmaAt (i : BitVec 16) : Nat :=
  18446744073709551616 * h + ((s.window h f).dma.base.toNat + 64 * (i.toNat % 2 ^ (s.window h f).dma.sizeLog2.toNat) + 0x38)

/-- A descriptor written back: its status, that it is done, and nothing else of the host's memory. -/
theorem State.dmaDescriptor_writes (i : BitVec 16) (moved status : Nat) :
    (∀ fd : Fld, fd ∉ [Fld.hostMem, .windows] → fd.of (s.dmaDescriptor h f i moved status) = fd.of s) ∧
      OneWindow s (s.dmaDescriptor h f i moved status) h f ∧
      (s.dmaDescriptor h f i moved status).window h f =
        { s.window h f with dma := { (s.window h f).dma with done := (s.window h f).dma.done + 1, job := none } } ∧
      mread (s.dmaDescriptor h f i moved status).hostMem (s.dmaAt h f i + 4) = BitVec.ofNat 8 status ∧
      mread (s.dmaDescriptor h f i moved status).hostMem (s.dmaAt h f i + 5) = 1#8 ∧
      ∀ a, (a < s.dmaAt h f i ∨ s.dmaAt h f i + 8 ≤ a) → mread (s.dmaDescriptor h f i moved status).hostMem a = mread s.hostMem a := by
  have hmem : (s.dmaDescriptor h f i moved status).hostMem = mwrites (s.dmaAt h f i) (toLe 4 moved ++ toLe 1 status ++ toLe 1 1 ++ zeros 2) s.hostMem := rfl
  have hlen : (toLe 4 moved ++ toLe 1 status ++ toLe 1 1 ++ zeros 2).length = 8 := by simp [length_toLe, zeros]
  refine ⟨fun fd hfd => State.dmaDescriptor_of _ _ _ _ _ _ hfd, State.modWindow_one _ h f _, State.window_modWindow .., ?_, ?_, fun a ha => ?_⟩
  · rw [hmem]
    exact mread_mwrites_in _ _ 4 _ (by omega)
  · rw [hmem]
    exact mread_mwrites_in _ _ 5 _ (by omega)
  · rw [hmem]
    exact mread_mwrites_out _ _ _ _ (by omega)

/-- What the end of a transfer leaves beside the errors of what it read. -/
structure DmaEnds (j : DmaJob) (status : Nat) (t : State) : Prop where
  frame : ∀ fd : Fld, fd ∉ [Fld.hbm, .hostMem, .windows, .violCounts] → fd.of t = fd.of s
  windows : OneWindow s t h f
  window : t.window h f = { s.window h f with dma := { (s.window h f).dma with done := (s.window h f).dma.done + 1, job := none } }
  hbm : ∀ a, granuleOf a ∉ (s.part f).cfg.granules → mread t.hbm a = mread s.hbm a
  kept : j.kind = 2 → t.hbm = s.hbm
  viols : ∀ n, n ≠ f → sget 0#64 t.violCounts n = sget 0#64 s.violCounts n
  viol : sget 0#64 t.violCounts f =
    if j.violates (s.part f) then countViol 2 1 (sget 0#64 s.violCounts f) else sget 0#64 s.violCounts f
  status : mread t.hostMem (s.dmaAt h f j.index + 4) = BitVec.ofNat 8 status
  done : mread t.hostMem (s.dmaAt h f j.index + 5) = 1#8

/-- The end of a transfer after the errors of what it read. -/
theorem DmaEnds.of_errors {s v t : State} {h f : Nat} {j : DmaJob} {status : Nat}
    (hv : ∀ fd : Fld, fd ∉ [Fld.hbmStacks, .faults, .faultSeq, .faultsLost] → fd.of v = fd.of s) (ht : DmaEnds v h f j status t) :
    (OneWindow s t h f ∧
      t.window h f = { s.window h f with dma := { (s.window h f).dma with done := (s.window h f).dma.done + 1, job := none } } ∧
      (∀ a, granuleOf a ∉ (s.part f).cfg.granules → mread t.hbm a = mread s.hbm a) ∧ (j.kind = 2 → t.hbm = s.hbm) ∧
      (∀ n, n ≠ f → sget 0#64 t.violCounts n = sget 0#64 s.violCounts n) ∧
      sget 0#64 t.violCounts f =
        (if j.violates (s.part f) then countViol 2 1 (sget 0#64 s.violCounts f) else sget 0#64 s.violCounts f)) ∧
      mread t.hostMem (s.dmaAt h f j.index + 4) = BitVec.ofNat 8 status ∧ mread t.hostMem (s.dmaAt h f j.index + 5) = 1#8 := by
  obtain ⟨-, h2, h3, h4, h5, h6, h7, h8, h9⟩ := ht
  have hwin (k i : Nat) : v.window k i = s.window k i := State.window_congr (hv .windows (by decide)) k i
  have hpart := State.part_congr (hv .parts (by decide)) f
  have hviol : v.violCounts = s.violCounts := hv .violCounts (by decide)
  have hhbm : v.hbm = s.hbm := hv .hbm (by decide)
  have hat : v.dmaAt h f j.index = s.dmaAt h f j.index := by
    unfold State.dmaAt
    rw [hwin]
  rw [hwin] at h3
  rw [hpart, hhbm] at h4
  rw [hhbm] at h5
  rw [hviol] at h6 h7
  rw [hpart] at h7
  rw [hat] at h8 h9
  exact ⟨⟨fun k hk => (h2 k hk).trans (congrArg (sget {} · k) (hv .windows (by decide))), h3, h4, h5, h6, h7⟩, h8, h9⟩

theorem State.dmaMove_moves (j : DmaJob) (n : Nat) (source : Bytes) :
    (∀ fd : Fld, fd ∉ [Fld.hbm, .hostMem] → fd.of (s.dmaMove h f j n source) = fd.of s) ∧
      (∀ a, granuleOf a ∉ (s.part f).cfg.granules → mread (s.dmaMove h f j n source).hbm a = mread s.hbm a) ∧
      (j.kind = 2 → (s.dmaMove h f j n source).hbm = s.hbm) ∧
      (j.kind = 1 → (s.dmaMove h f j n source).hbm = dmaWrite (s.part f) j.dst (slice source 0 n) s.hbm) ∧
      (j.kind = 2 → (s.dmaMove h f j n source).hostMem =
        mwrites (18446744073709551616 * h + j.dst) (s.relRead (s.part f).cfg j.src n) s.hostMem) := by
  refine ⟨fun fd hfd => State.dmaMove_of _ _ _ _ _ _ hfd, ?_⟩
  unfold State.dmaMove
  extract_lets q
  split
  · next hk =>
    exact ⟨fun a ha => mread_dmaWrite_out _ _ _ _ ha, fun h2 => absurd (hk.symm.trans h2) (by decide), fun _ => rfl,
      fun h2 => absurd (hk.symm.trans h2) (by decide)⟩
  · next hk =>
    split
    · exact ⟨fun _ _ => rfl, fun _ => rfl, fun h1 => absurd h1 hk, fun _ => rfl⟩
    · next hk2 =>
      exact ⟨fun a ha => mread_dmaWrite_out _ _ _ _ ha, fun h2 => absurd h2 hk2, fun h1 => absurd h1 hk, fun h2 => absurd h2 hk2⟩

theorem State.dmaEnd_ends (j : DmaJob) (n : Nat) (source : Bytes) (moved status : Nat) :
    DmaEnds s h f j status (s.dmaEnd h f j n source moved status) ∧
      (j.kind = 1 → (s.dmaEnd h f j n source moved status).hbm = dmaWrite (s.part f) j.dst (slice source 0 n) s.hbm) ∧
      (j.kind = 2 → ∀ a, (a < s.dmaAt h f j.index ∨ s.dmaAt h f j.index + 8 ≤ a) → mread (s.dmaEnd h f j n source moved status).hostMem a =
        mread (mwrites (18446744073709551616 * h + j.dst) (s.relRead (s.part f).cfg j.src n) s.hostMem) a) := by
  have hu : ∃ u : State, s.dmaEnd h f j n source moved status = u.dmaDescriptor h f j.index moved status ∧
      (∀ fd : Fld, fd ∉ [Fld.hbm, .hostMem, .violCounts] → fd.of u = fd.of s) ∧
      (∀ a, granuleOf a ∉ (s.part f).cfg.granules → mread u.hbm a = mread s.hbm a) ∧ (j.kind = 2 → u.hbm = s.hbm) ∧
      (∀ n, n ≠ f → sget 0#64 u.violCounts n = sget 0#64 s.violCounts n) ∧
      sget 0#64 u.violCounts f = (if j.violates (s.part f) then countViol 2 1 (sget 0#64 s.violCounts f) else sget 0#64 s.violCounts f) ∧
      (j.kind = 1 → u.hbm = dmaWrite (s.part f) j.dst (slice source 0 n) s.hbm) ∧
      (j.kind = 2 → u.hostMem = mwrites (18446744073709551616 * h + j.dst) (s.relRead (s.part f).cfg j.src n) s.hostMem) := by
    have hv : ∃ v : State, s.dmaEnd h f j n source moved status = (v.dmaMove h f j n source).dmaDescriptor h f j.index moved status ∧
        v = { s with violCounts := v.violCounts } ∧ (∀ k, k ≠ f → sget 0#64 v.violCounts k = sget 0#64 s.violCounts k) ∧
        sget 0#64 v.violCounts f =
          (if j.violates (s.part f) then countViol 2 1 (sget 0#64 s.violCounts f) else sget 0#64 s.violCounts f) := by
      refine ⟨if j.violates (s.part f) then s.violate f 2 1 else s, rfl, ?_⟩
      split
      · exact ⟨rfl, fun k hk => sget_smod_ne _ _ _ _ _ hk, sget_smod_same ..⟩
      · exact ⟨rfl, fun _ _ => rfl, rfl⟩
    obtain ⟨v, hv, hvs, hv1, hv2⟩ := hv
    obtain ⟨m1, m2, m3, m4, m5⟩ := v.dmaMove_moves h f j n source
    refine ⟨v.dmaMove h f j n source, hv, fun fd hfd => (m1 fd (Fld.not_mem hfd)).trans ?_, ?_, ?_, ?_, ?_, ?_, ?_⟩
    · rw [hvs]
      exact Fld.of_upd (L := [.violCounts]) rfl (Fld.not_mem hfd)
    · rw [hvs] at m2 ⊢
      exact m2
    · rw [hvs] at m3 ⊢
      exact m3
    · intro k hk
      rw [show State.violCounts _ = _ from m1 .violCounts (by decide)]
      exact hv1 k hk
    · rw [show State.violCounts _ = _ from m1 .violCounts (by decide)]
      exact hv2
    · rw [hvs] at m4 ⊢
      exact m4
    · rw [hvs] at m5 ⊢
      exact fun hk => (m5 hk).trans (congrArg (mwrites (18446744073709551616 * h + j.dst) · s.hostMem)
        (State.relRead_congr (s := s) (t := { s with violCounts := v.violCounts }) rfl _ _ _))
  obtain ⟨u, ht, hf, hhbm, hkept, hviols, hviol, h1, h2⟩ := hu
  rw [ht]
  obtain ⟨d1, d2, d3, d4, d5, d6⟩ := u.dmaDescriptor_writes h f j.index moved status
  have hwin (k i : Nat) : u.window k i = s.window k i := State.window_congr (hf .windows (by decide)) k i
  have hat : u.dmaAt h f j.index = s.dmaAt h f j.index := by
    unfold State.dmaAt
    rw [hwin]
  have hmem : (u.dmaDescriptor h f j.index moved status).hbm = u.hbm := d1 .hbm (by decide)
  have hcounts : (u.dmaDescriptor h f j.index moved status).violCounts = u.violCounts := d1 .violCounts (by decide)
  refine ⟨⟨fun fd hfd => (d1 fd (Fld.not_mem hfd)).trans (hf fd (Fld.not_mem hfd)), fun k hk => ?_, by rw [d3, hwin],
    fun a ha => by rw [hmem, hhbm a ha], fun hk => hmem.trans (hkept hk), fun k hk => by rw [hcounts, hviols k hk], by rw [hcounts, hviol],
    by rw [← hat, d4], by rw [← hat, d5]⟩, fun hk => hmem.trans (h1 hk), fun hk a ha => ?_⟩
  · exact (d2 k hk).trans (congrArg (sget {} · k) (hf .windows (by decide)))
  · rw [d6 a (hat.symm ▸ ha), h2 hk]

/-- A descriptor at the head of its queue that is faulty ends at once. -/
theorem State.dmaFetch_bad {desc : Bytes} (hbad : dmaBad desc = true) (hjob : (s.window h f).dma.job = none) :
    (∀ fd : Fld, fd ∉ [Fld.hostMem, .windows] → fd.of (s.dmaFetch h f desc) = fd.of s) ∧ OneWindow s (s.dmaFetch h f desc) h f ∧
      (s.dmaFetch h f desc).window h f = { s.window h f with
        dma := { (s.window h f).dma with head := (s.window h f).dma.head + 1, done := (s.window h f).dma.done + 1 } } ∧
      mread (s.dmaFetch h f desc).hostMem (s.dmaAt h f (s.window h f).dma.head + 4) = BitVec.ofNat 8 stBadArg ∧
      mread (s.dmaFetch h f desc).hostMem (s.dmaAt h f (s.window h f).dma.head + 5) = 1#8 ∧
      ∀ a, (a < s.dmaAt h f (s.window h f).dma.head ∨ s.dmaAt h f (s.window h f).dma.head + 8 ≤ a) →
        mread (s.dmaFetch h f desc).hostMem a = mread s.hostMem a := by
  have hfetch : s.dmaFetch h f desc = (s.modWindow h f fun w => { w with dma := { w.dma with head := w.dma.head + 1 } }).dmaDescriptor h f
      (s.window h f).dma.head 0 stBadArg := by
    unfold State.dmaFetch
    extract_lets i u
    exact if_pos hbad
  have hwin := s.window_modWindow h f fun w => { w with dma := { w.dma with head := w.dma.head + 1 } }
  have hone := State.modWindow_one s h f fun w => { w with dma := { w.dma with head := w.dma.head + 1 } }
  have hf (fd : Fld) (hfd : fd ∉ [Fld.windows]) : fd.of (s.modWindow h f fun w => { w with dma := { w.dma with head := w.dma.head + 1 } }) = fd.of s :=
    State.modWindow_of _ _ _ _ hfd
  rw [hfetch]
  generalize s.modWindow h f (fun w => { w with dma := { w.dma with head := w.dma.head + 1 } }) = u at hwin hone hf
  obtain ⟨d1, d2, d3, d4, d5, d6⟩ := u.dmaDescriptor_writes h f (s.window h f).dma.head 0 stBadArg
  have hat : u.dmaAt h f (s.window h f).dma.head = s.dmaAt h f (s.window h f).dma.head := by
    unfold State.dmaAt
    rw [hwin]
  rw [hat] at d4 d5 d6
  refine ⟨fun fd hfd => (d1 fd hfd).trans (hf fd (Fld.not_mem hfd)), fun k hk => (d2 k hk).trans (hone k hk), ?_, d4, d5,
    fun a ha => (d6 a ha).trans (congrArg (mread · a) (hf .hostMem (by decide)))⟩
  rw [d3, hwin]
  dsimp only
  rw [hjob]

/-- Another becomes the transfer in progress. -/
theorem State.dmaFetch_takes {desc : Bytes} (hok : dmaBad desc = false) :
    WindowsOnly s (s.dmaFetch h f desc) ∧ OneWindow s (s.dmaFetch h f desc) h f ∧
      (s.dmaFetch h f desc).window h f = { s.window h f with dma := { (s.window h f).dma with
        head := (s.window h f).dma.head + 1
        job := some ⟨(s.window h f).dma.head, BitVec.ofNat 32 (field desc 0 4), field desc 4 1, field desc 8 4, field desc 0x10 8, field desc 0x18 8⟩ } } := by
  have hwin := s.window_modWindow h f fun w => { w with dma := { w.dma with head := w.dma.head + 1 } }
  have hone := State.modWindow_one s h f fun w => { w with dma := { w.dma with head := w.dma.head + 1 } }
  unfold State.dmaFetch
  extract_lets i u j
  rw [if_neg (by rw [hok]; decide)]
  refine ⟨rfl, fun k hk => (State.modWindow_one u h f _ k hk).trans (hone k hk), ?_⟩
  rw [State.window_modWindow, show u.window h f = _ from hwin]

end

/-! ## The end of a transfer -/

/-- The state after the corrected errors of what a transfer read. -/
def State.readErrors (s : State) (f : Nat) (j : DmaJob) (singles : List Nat) : State :=
  if j.kind = 1 then s else s.hbmSingles (s.part f).cfg.granules singles

theorem getD_slice (b : Bytes) (o : Nat) {n i : Nat} (hi : i < n) : (slice b o n).getD i 0#8 = b.getD (o + i) 0#8 := by
  induction n generalizing o i with
  | zero => exact absurd hi (Nat.not_lt_zero i)
  | succ n ih =>
    cases i with
    | zero => rfl
    | succ i =>
      rw [slice, List.getD_cons_succ, ih (o + 1) (Nat.lt_of_succ_lt_succ hi), Nat.add_assoc, Nat.add_comm 1 i]

theorem State.readErrors_of (s : State) (f : Nat) (j : DmaJob) (singles : List Nat) {fd : Fld}
    (hfd : fd ∉ [Fld.hbmStacks, .faults, .faultSeq, .faultsLost]) : fd.of (s.readErrors f j singles) = fd.of s := by
  unfold State.readErrors
  split
  · rfl
  · exact State.hbmSingles_of _ _ _ hfd

theorem State.readErrors_none {s : State} {f : Nat} {j : DmaJob} {singles : List Nat} (h : singles = [] ∨ j.kind = 1) :
    s.readErrors f j singles = s := by
  unfold State.readErrors
  split
  · rfl
  · next hk =>
    rw [h.resolve_right hk]
    rfl

section
variable {s : State} {h f : Nat} {j : DmaJob} (hjob : (s.window h f).dma.job = some j)
include hjob

theorem State.dmaDone_done (source : Bytes) (singles : List Nat) :
    s.dmaDone h f source .done singles = (s.readErrors f j singles).dmaEnd h f j j.length source j.length stOk := by
  unfold State.dmaDone
  rw [hjob]
  rfl

theorem State.dmaDone_hostError (hk : j.kind ≠ 3) (source : Bytes) (k : Nat) :
    s.dmaDone h f source (.hostError k) [] = s.dmaEnd h f j (Nat.min k j.length) source (Nat.min k j.length) stFaulted := by
  have hnone := State.readErrors_none (s := s) (f := f) (j := j) (singles := []) (.inl rfl)
  unfold State.dmaDone
  rw [hjob]
  dsimp only
  rw [if_neg hk, ← State.readErrors, hnone]

theorem State.dmaDone_double (hk : j.kind ≠ 1) (source : Bytes) {k a : Nat} (ha : (s.part f).cfg.ea (j.src + Nat.min k j.length / 64 * 64) = some a) :
    s.dmaDone h f source (.hbmDouble k) [] = (s.hbmDouble (some f) a 3).dmaEnd h f j (Nat.min k j.length / 64 * 64) source
      (Nat.min k j.length / 64 * 64) stFaulted := by
  have hnone := State.readErrors_none (s := s) (f := f) (j := j) (singles := []) (.inl rfl)
  unfold State.dmaDone
  rw [hjob]
  dsimp only
  rw [if_neg hk, ← State.readErrors, hnone, ha]

end

/-! ## Stacks -/

theorem State.hbmSingle_logged {s : State} {ea : Nat} (h : (s.stack (granuleStack (granuleOf ea))).logAt = 0) :
    ∃ r ∈ (s.hbmSingle ea).faults, r.code = 0x0103#16 := by
  unfold State.hbmSingle
  extract_lets m k u
  rw [if_pos (Or.inl h)]
  exact State.log_mem ..

/-- Settles O43: a stack's reading and its errors are one change each, and a descriptor's end is its move within the granules and its eight bytes. -/
theorem hbmAndDma : Obligations.HbmAndDma := by
  unfold Obligations.HbmAndDma
  intro m line celsius k die fn desc source singles j s w cfg at' written ended
  refine ⟨rfl, fun hs => ?_, fun hs hline => ?_, fun he ho hen hjob hhead => ⟨fun hbad => ?_, fun hok => ?_⟩, fun he hjob => ?_⟩
  · refine ⟨_, congrArg Host.Outcome.next (if_pos (by rw [hs]; rfl)), rfl, State.stack_modStack .., fun k hk => ?_⟩
    exact State.stack_modStack_ne _ _ hk
  · have hcond (ecc : HbmEcc) : (s.supply != .up || (false && ecc == .clean) || decide (0xC0000000 ≤ line)) = false := by
      rw [hs, Bool.false_and, decide_eq_false (Nat.not_le.2 hline)]
      rfl
    have hexec (ecc : HbmEcc) : exec (.hbmScrub line ecc false) s = .next (match ecc with
        | .clean => s
        | .single => s.hbmSingle (64 * line)
        | .double => s.hbmDouble none (64 * line) 5) := by
      refine congrArg Host.Outcome.next (if_neg ?_)
      rw [hcond]
      exact Bool.false_ne_true
    refine ⟨hexec .clean, ⟨_, hexec .single, ?_, ?_, fun hlog => State.hbmSingle_logged hlog⟩, ⟨_, hexec .double, rfl, State.log_mem ..⟩⟩
    · exact State.eq_patch [.hbmStacks, .faults, .faultSeq, .faultsLost] fun fd hfd => State.hbmSingle_of _ _ (Fld.not_mem hfd)
    · rw [State.hbmSingle_corrected, if_pos rfl]
  · have hfetch : exec (.dmaDescriptorFetch die fn desc) s = .next (s.dmaFetch die.val fn.val desc) :=
      congrArg Host.Outcome.next (if_pos (by rw [he, ho, hen, hjob, bne_iff_ne.2 hhead]; rfl))
    obtain ⟨h1, h2, h3, h4, h5, h6⟩ := s.dmaFetch_bad die.val fn.val hbad hjob
    exact ⟨_, hfetch, State.eq_patch [.windows, .hostMem] fun fd hfd => h1 fd (Fld.not_mem hfd), h2, h3, ⟨h4, h5⟩, h6⟩
  · have hfetch : exec (.dmaDescriptorFetch die fn desc) s = .next (s.dmaFetch die.val fn.val desc) :=
      congrArg Host.Outcome.next (if_pos (by rw [he, ho, hen, hjob, bne_iff_ne.2 hhead]; rfl))
    exact ⟨_, hfetch, s.dmaFetch_takes die.val fn.val hok⟩
  · have hdone (how : Found DmaEnd) : exec (.dmaTransferComplete die fn source how) s = .next (s.dmaDone die.val fn.val source how.res how.singles) :=
      congrArg Host.Outcome.next (if_pos he)
    refine ⟨?_, fun hk => ?_, fun hk a ha => ?_⟩
    · have hv (fd : Fld) (hfd : fd ∉ [Fld.hbmStacks, .faults, .faultSeq, .faultsLost]) := s.readErrors_of fn.val j singles hfd
      obtain ⟨hends, h1, h2⟩ := (s.readErrors fn.val j singles).dmaEnd_ends die.val fn.val j j.length source j.length stOk
      have hexec := hdone ⟨.done, singles⟩
      rw [State.dmaDone_done hjob] at hexec
      obtain ⟨hend, hwrit⟩ := hends.of_errors hv
      refine ⟨_, hexec, State.eq_patch [.hbm, .hostMem, .windows, .violCounts, .hbmStacks, .faults, .faultSeq, .faultsLost] fun fd hfd =>
        (hends.frame fd (Fld.not_mem hfd)).trans (hv fd (Fld.not_mem hfd)), hend, hwrit, fun hclean => ?_, fun hk hnd i a hi ha hin => ?_, fun hk i hi => ?_⟩
      · have hs := State.readErrors_none (s := s) (f := fn.val) hclean
        exact ⟨(hends.frame .hbmStacks (by decide)).trans (congrArg State.hbmStacks hs), (hends.frame .faults (by decide)).trans (congrArg State.faults hs)⟩
      · have hone : s.readErrors fn.val j singles = s := State.readErrors_none (.inr hk)
        rw [h1 hk, hone, mread_dmaWrite_in hnd _ ((length_slice source 0 j.length).symm ▸ hi) ha hin, getD_slice source 0 hi, Nat.zero_add]
      · intro b hb
        have hpart : (s.readErrors fn.val j singles).part fn.val = s.part fn.val := State.part_congr (hv .parts (by decide)) _
        have hat : (s.readErrors fn.val j singles).dmaAt die.val fn.val j.index = s.dmaAt die.val fn.val j.index := by
          unfold State.dmaAt
          rw [State.window_congr (hv .windows (by decide))]
        have hlen : i < (s.relRead (s.part fn.val).cfg j.src j.length).length := (State.length_relRead ..).symm ▸ hi
        rw [h2 hk b (hat.symm ▸ hb), hpart, State.relRead_congr (hv .hbm (by decide)), mread_mwrites_in _ _ _ _ hlen, List.getD_eq_getElem?_getD,
          List.getElem?_eq_getElem hlen, Option.getD_some]
    · have hexec := hdone ⟨.hostError k, []⟩
      rw [State.dmaDone_hostError hjob hk] at hexec
      obtain ⟨hends, -⟩ := s.dmaEnd_ends die.val fn.val j (Nat.min k j.length) source (Nat.min k j.length) stFaulted
      obtain ⟨hend, hwrit⟩ := hends.of_errors fun _ _ => rfl
      exact ⟨_, hexec, State.eq_patch [.hbm, .hostMem, .windows, .violCounts] fun fd hfd => hends.frame fd (Fld.not_mem hfd), hend, hwrit⟩
    · have hexec := hdone ⟨.hbmDouble k, []⟩
      rw [State.dmaDone_double hjob hk source ha] at hexec
      obtain ⟨hends, -⟩ := (s.hbmDouble (some fn.val) a 3).dmaEnd_ends die.val fn.val j (Nat.min k j.length / 64 * 64) source
        (Nat.min k j.length / 64 * 64) stFaulted
      obtain ⟨hend, hwrit⟩ := hends.of_errors fun fd hfd => State.hbmDouble_of s (some fn.val) a 3 (Fld.not_mem hfd)
      refine ⟨_, hexec, State.eq_patch [.hbm, .hostMem, .windows, .violCounts, .faults, .faultSeq, .faultsLost] fun fd hfd =>
        (hends.frame fd (Fld.not_mem hfd)).trans (State.hbmDouble_of s (some fn.val) a 3 (Fld.not_mem hfd)), hend, hwrit, ?_⟩
      rw [show State.faults _ = _ from hends.frame .faults (by decide)]
      exact State.log_mem ..

end Sys2Proof.Machine
end

section
/-!
PROOFS of the statements about ports (spec/12_links_collectives_time.md R297 to R311): a port that comes up or goes down, SYNC, the
start of a cycle, and the full retime.
-/

namespace Sys2Proof.Machine

open Sys2Proof

/-! ## Ports and groups -/

theorem State.port_congr {s t : State} (h : t.links = s.links) (d p : Nat) : t.port d p = s.port d p := by
  rw [State.port, State.port, State.link, State.link, h]

theorem State.modPort_one (s : State) (d p : Nat) (f : Port → Port) : OneLink s (s.modPort d p f) d :=
  fun _ hk => State.link_modLink_ne _ _ _ _ hk

theorem State.port_modPort_ne (s : State) {d p d' p' : Nat} (f : Port → Port) (h : ¬(d' = d ∧ p' = p)) :
    (s.modPort d p f).port d' p' = s.port d' p' := by
  by_cases hd : d' = d
  · subst hd
    unfold State.port State.modPort
    rw [State.link_modLink]
    exact sget_smod_ne (α := Port) _ _ _ _ _ fun hp => h ⟨rfl, hp⟩
  · unfold State.port State.modPort
    rw [State.link_modLink_ne _ _ _ _ hd]

theorem sget_smapAll_keeps {α : Type} [DecidableEq α] {d : α} {f : Nat → α → α} {m : SMap α} {k : Nat} (hd : f k d = d)
    (h : f k (sget d m k) ≠ d) : sget d (smapAll d f m) k = f k (sget d m k) := by
  induction m with
  | nil => exact absurd hd h
  | cons x r ih =>
    obtain ⟨j, v⟩ := x
    by_cases hj : j = k
    · subst hj
      have hv : sget d ((j, v) :: r) j = v := by simp [sget, sfind?]
      rw [hv] at h ⊢
      rw [smapAll, if_neg h]
      simp [sget, sfind?]
    · have hv : sget d ((j, v) :: r) k = sget d r k := by simp [sget, sfind?, hj]
      rw [hv] at h ⊢
      rw [smapAll]
      split
      · exact ih h
      · rw [← ih h]
        simp [sget, sfind?, hj]

/-- No group is joined on a port. -/
def State.Unjoined (s : State) (d p : Nat) : Prop :=
  ∀ q, ∀ g ∈ (s.part q).groups, ∀ e ∈ g.2.ports, e.die = d → e.port = p → e.joined = false

/-- Every group still stands, with an entry on each port where it had one. -/
def GroupsStand (s t : State) : Prop :=
  ∀ q, ∀ g ∈ (s.part q).groups, ∃ g' ∈ (t.part q).groups, g'.1 = g.1 ∧ ∀ d p, (g.2.entryOn d p).isSome = true → (g'.2.entryOn d p).isSome = true

theorem GroupsStand.of_parts {s t : State} (h : t.parts = s.parts) : GroupsStand s t := fun q g hg =>
  ⟨g, (State.part_congr h q).symm ▸ hg, rfl, fun _ _ h => h⟩

theorem State.unjoin_unjoined (s : State) (d p : Nat) : (s.unjoin fun e => e.die == d && e.port == p).Unjoined d p := by
  intro q
  unfold State.part State.unjoin
  refine sget_smapAll_of (fun q : PartState => ∀ g ∈ q.groups, ∀ e ∈ g.2.ports, e.die = d → e.port = p → e.joined = false)
    (fun g hg => nomatch hg) fun q g hg e he hd hp => ?_
  obtain ⟨x, -, rfl⟩ := List.mem_map.1 hg
  obtain ⟨y, -, rfl⟩ := List.mem_map.1 he
  by_cases ht : (y.die == d && y.port == p) = true
  · rw [if_pos ht]
  · rw [if_neg ht] at hd hp
    exact absurd (by rw [hd, hp]; simp) ht

theorem State.unjoin_stand (s : State) (test : GroupPort → Bool) : GroupsStand s (s.unjoin test) := by
  intro q g hg
  have hflag : ((if s.retimeWanted then s.flagHeld else s).part q).groups = (s.part q).groups := by
    split
    · exact s.flagHeld_groups q
    · rfl
  unfold State.unjoin
  extract_lets off u
  rw [← hflag] at hg
  change g ∈ (u.part q).groups at hg
  have hmem : (g.1, off g.2) ∈ (u.part q).groups.map fun x => (x.1, off x.2) := List.mem_map.2 ⟨g, hg, rfl⟩
  refine ⟨(g.1, off g.2), ?_, rfl, fun d p h => ?_⟩
  · unfold State.part at hmem ⊢
    dsimp only at hmem ⊢
    rw [sget_smapAll_keeps rfl fun h => ?_]
    · exact hmem
    · have := congrArg PartState.groups h
      dsimp only at this
      rw [this] at hmem
      cases hmem
  · unfold Group.entryOn at h ⊢
    obtain ⟨e, he, ht⟩ := List.find?_isSome.1 h
    refine List.find?_isSome.2 ⟨_, List.mem_map.2 ⟨e, he, rfl⟩, ?_⟩
    split
    · exact ht
    · exact ht

/-! ## SYNC (R307) -/

/-- What a SYNC leaves. -/
structure Synced (s : State) (d p : Nat) (c : SyncCell) (t : State) : Prop where
  frame : ∀ fd : Fld, fd ∉ [Fld.links, .parts, .retimeWanted] → fd.of t = fd.of s
  link : OneLink s t d
  port : t.port d p = { s.port d p with offset := s.theta c.et (s.port d p).delay, partner := some c, lastSync := s.et }
  wanted : t.retimeWanted = (s.retimeWanted || decide (s.guardG < (s.theta c.et (s.port d p).delay).toInt.natAbs))
  parts : if c.inE0 then t.parts = s.parts else t.Unjoined d p
  stand : GroupsStand s t

theorem State.sync_synced (s : State) (d p : Nat) (c : SyncCell) : Synced s d p c (s.sync d p c) := by
  unfold State.sync
  extract_lets o a b
  have ha (fd : Fld) (h : fd ∉ [Fld.links]) : fd.of a = fd.of s := State.modPort_of s d p _ h
  have hb : (∀ fd : Fld, fd ∉ [Fld.parts] → fd.of b = fd.of a) ∧ (if c.inE0 then b.parts = a.parts else b.Unjoined d p) ∧ GroupsStand a b := by
    dsimp only [b]
    split
    · exact ⟨fun _ _ => rfl, rfl, .of_parts rfl⟩
    · exact ⟨fun _ h => State.unjoin_of _ _ h, State.unjoin_unjoined a d p, fun q g hg => State.unjoin_stand a _ q g hg⟩
  obtain ⟨hbf, hbp, hbs⟩ := hb
  have hport : b.port d p = { o with offset := s.theta c.et o.delay, partner := some c, lastSync := s.et } :=
    (State.port_congr (hbf .links (by decide)) d p).trans (State.port_modPort ..)
  have hlink : OneLink s b d := fun k hk => (congrArg (sget {} · k) (hbf .links (by decide))).trans (s.modPort_one d p _ k hk)
  have hone : GroupsStand s b := hbs
  have hguard : b.guardG = s.guardG := (hbf .guardG (by decide)).trans (ha .guardG (by decide))
  have hskew : (b.port d p).skew = (s.theta c.et o.delay).toInt.natAbs := congrArg Port.skew hport
  have hwant : b.retimeWanted = s.retimeWanted := (hbf .retimeWanted (by decide)).trans (ha .retimeWanted (by decide))
  have hab (fd : Fld) (h : fd ∉ [Fld.links, .parts, .retimeWanted]) : fd.of b = fd.of s :=
    (hbf fd (Fld.not_mem h)).trans (ha fd (Fld.not_mem h))
  split
  · next h =>
    rw [hguard, hskew] at h
    refine ⟨fun fd hfd => (Fld.of_upd (L := [.retimeWanted]) rfl (Fld.not_mem hfd)).trans (hab fd hfd), hlink, hport, ?_, hbp, hone⟩
    rw [decide_eq_true h, Bool.or_true]
  · next h =>
    rw [hguard, hskew] at h
    refine ⟨hab, hlink, hport, ?_, hbp, hone⟩
    rw [decide_eq_false h, Bool.or_false, hwant]

/-! ## Ports up and down (R297, R309) -/

/-- What asking for JOINs leaves of a port: it may have more of them. -/
def Port.AsksMore (o o' : Port) : Prop := o' = { o with joins := o'.joins } ∧ ∀ k ∈ o.joins, k ∈ o'.joins

theorem Port.AsksMore.refl (o : Port) : o.AsksMore o := ⟨rfl, fun _ h => h⟩

theorem Port.AsksMore.trans {o o' o'' : Port} (h : o.AsksMore o') (h' : o'.AsksMore o'') : o.AsksMore o'' := by
  obtain ⟨h1, h2⟩ := h
  obtain ⟨h1', h2'⟩ := h'
  refine ⟨?_, fun k hk => h2' k (h2 k hk)⟩
  rw [h1', h1]

theorem Port.asked_asksMore (k : Part × Fin 8) (o : Port) : o.AsksMore (o.asked k) := by
  unfold Port.asked
  split
  · exact ⟨rfl, fun _ h => List.mem_append_left _ h⟩
  · exact .refl o

theorem State.askJoin_asksMore (s : State) (p g : Nat) (grp : Group) (d n : Nat) : (s.port d n).AsksMore ((s.askJoin p g grp).port d n) :=
  State.each_induct (P := fun t => (s.port d n).AsksMore (t.port d n)) (.refl _) fun t ht e _ =>
    ht.trans (State.port_modPort_rel (R := Port.AsksMore) Port.AsksMore.refl (Port.asked_asksMore (Fin.ofNat 16 p, Fin.ofNat 8 g)) t _ _ _ _)

/-- Every group on a port asks for JOIN there, if it is up. -/
theorem State.askJoins (s : State) {l : List (Nat × Nat × Group)} (d n : Nat) :
    let t := s.each l fun u (q, g) => if (g.2.entryOn d n).isSome then u.askJoin q g.1 g.2 else u
    (s.port d n).AsksMore (t.port d n) ∧ ((s.port d n).up = true → ∀ x ∈ l, (x.2.2.entryOn d n).isSome = true →
      (Fin.ofNat 16 x.1, Fin.ofNat 8 x.2.1) ∈ (t.port d n).joins) := by
  intro t
  have hstep (u : State) (x : Nat × Nat × Group) :
      (u.port d n).AsksMore ((if (x.2.2.entryOn d n).isSome then u.askJoin x.1 x.2.1 x.2.2 else u).port d n) := by
    split
    · exact u.askJoin_asksMore _ _ _ d n
    · exact .refl _
  have hmore : (s.port d n).AsksMore (t.port d n) :=
    State.each_induct (P := fun u => (s.port d n).AsksMore (u.port d n)) (.refl _) fun u hu x _ => hu.trans (hstep u x)
  refine ⟨hmore, fun hup x hx he => (State.each_establishes (I := fun u => (u.port d n).up = true)
    (Q := fun u => (Fin.ofNat 16 x.1, Fin.ofNat 8 x.2.1) ∈ (u.port d n).joins) hx hup (fun u hu y _ => ?_) (fun u hu => ?_)
    fun u _ hm y _ => (hstep u y).2 _ hm).2⟩
  · rw [(hstep u y).1]
    exact hu
  · rw [if_pos he]
    obtain ⟨e, hf⟩ := Option.isSome_iff_exists.1 he
    have hp := List.find?_some hf
    simp only [Bool.and_eq_true, beq_iff_eq] at hp
    obtain ⟨rfl, rfl⟩ := hp
    refine (u.askJoin_asks x.1 x.2.1 x.2.2 (List.mem_of_find?_eq_some hf)).mem ?_
    rw [(u.askJoin_asksMore x.1 x.2.1 x.2.2 e.die e.port).1]
    exact hu

theorem State.askJoins_of (s : State) {l : List (Nat × Nat × Group)} (d n : Nat) {fd : Fld} (h : fd ∉ [Fld.links]) :
    fd.of (s.each l fun u (q, g) => if (g.2.entryOn d n).isSome then u.askJoin q g.1 g.2 else u) = fd.of s :=
  State.each_induct (P := fun u => fd.of u = fd.of s) rfl fun u hu x _ => by
    dsimp only
    split
    · exact (State.askJoin_of _ _ _ _ h).trans hu
    · exact hu

section
variable (s : State) (d p : Nat) (train : PortTrain)

/-- A port as it comes up, before the SYNC it takes up. -/
def Port.trained (o : Port) (train : PortTrain) : Port :=
  { o with up := true, everUp := true, partnerSerial := train.partnerSerial, partnerDie := train.partnerDie, partnerPort := train.partnerPort
           delay := delayOf train.roundTrip, upstream := false, nextSeq := BitVec.ofNat 16 o.sent.length, high := none, nak := [], ahead := []
           cycles := 0, used := [], free := [], sent := renumber o.sent }

/-- What a port that comes up leaves (R309). -/
structure Trained (t : State) : Prop where
  frame : ∀ fd : Fld, fd ∉ [Fld.links, .parts, .retimeWanted, .fastResumes] → fd.of t = fd.of s
  port : ({ (s.port d p).trained train with offset := s.theta train.sync.et (delayOf train.roundTrip), partner := some train.sync, lastSync := s.et } : Port).AsksMore
    (t.port d p)
  joins : ∀ q, q < 16 → ∀ g ∈ (s.part q).groups, (g.2.entryOn d p).isSome = true → (Fin.ofNat 16 q, Fin.ofNat 8 g.1) ∈ (t.port d p).joins
  slow : (s.port d p).everUp = false ∨ s.guardG < (s.theta train.sync.et (delayOf train.roundTrip)).toInt.natAbs →
    t.retimeWanted = true ∧ t.fastResumes = s.fastResumes
  fast : (s.port d p).everUp = true → (s.theta train.sync.et (delayOf train.roundTrip)).toInt.natAbs ≤ s.guardG →
    t.fastResumes = s.fastResumes + 1 ∧ t.retimeWanted = s.retimeWanted
  parts : if train.sync.inE0 then t.parts = s.parts else t.Unjoined d p

theorem State.trainPort_trained : Trained s d p train (s.trainPort d p train) := by
  have ha (fd : Fld) (h : fd ∉ [Fld.links]) : fd.of (s.modPort d p (Port.trained · train)) = fd.of s := State.modPort_of s d p _ h
  have haport : (s.modPort d p (Port.trained · train)).port d p = (s.port d p).trained train := State.port_modPort ..
  have hsync := (s.modPort d p (Port.trained · train)).sync_synced d p train.sync
  have hth : (s.modPort d p (Port.trained · train)).theta train.sync.et ((s.modPort d p (Port.trained · train)).port d p).delay =
      s.theta train.sync.et (delayOf train.roundTrip) := by
    rw [haport]
    rfl
  obtain ⟨hf, -, hport, hwant, hparts, hstand⟩ := hsync
  rw [hth] at hport hwant
  rw [haport, show (s.modPort d p (Port.trained · train)).et = s.et from rfl] at hport
  unfold State.trainPort
  extract_lets o a b c
  change Trained s d p train (c.each _ _)
  have hbdef : b = (s.modPort d p (Port.trained · train)).sync d p train.sync := rfl
  rw [← hbdef] at hf hport hwant hparts hstand
  have hguard : b.guardG = s.guardG := (hf .guardG (by decide)).trans (ha .guardG (by decide))
  have hskew : (b.port d p).skew = (s.theta train.sync.et (delayOf train.roundTrip)).toInt.natAbs := congrArg Port.skew hport
  have hresume : b.fastResumes = s.fastResumes := (hf .fastResumes (by decide)).trans (ha .fastResumes (by decide))
  have hc : c = { b with retimeWanted := c.retimeWanted, fastResumes := c.fastResumes } := by
    dsimp only [c]
    split
    · rfl
    · split <;> rfl
  have hslow : o.everUp = false ∨ s.guardG < (s.theta train.sync.et (delayOf train.roundTrip)).toInt.natAbs →
      c.retimeWanted = true ∧ c.fastResumes = s.fastResumes := by
    intro h
    dsimp only [c]
    split
    · exact ⟨rfl, hresume⟩
    · next hev =>
      have hlt := h.resolve_left fun h => hev (by rw [h]; rfl)
      rw [if_neg (by rw [hskew, hguard]; exact Nat.not_le.2 hlt)]
      exact ⟨hwant.trans (by rw [show (s.modPort d p (Port.trained · train)).guardG = s.guardG from rfl, decide_eq_true hlt, Bool.or_true]), hresume⟩
  have hfast : o.everUp = true → (s.theta train.sync.et (delayOf train.roundTrip)).toInt.natAbs ≤ s.guardG →
      c.fastResumes = s.fastResumes + 1 ∧ c.retimeWanted = s.retimeWanted := by
    intro hev hle
    dsimp only [c]
    rw [if_neg (by rw [hev]; exact Bool.false_ne_true), if_pos (by rw [hskew, hguard]; exact hle)]
    refine ⟨congrArg (· + 1) hresume, hwant.trans ?_⟩
    rw [show (s.modPort d p (Port.trained · train)).guardG = s.guardG from rfl, decide_eq_false (Nat.not_lt.2 hle), Bool.or_false]
    rfl
  have hcp : c.parts = b.parts := by rw [hc]
  have hcl : c.links = b.links := by rw [hc]
  clear_value b c
  obtain ⟨hmore, hjoins⟩ := c.askJoins (l := (List.range 16).flatMap fun q => (c.part q).groups.map fun g => (q, g)) d p
  have hlast (fd : Fld) (h : fd ∉ [Fld.links]) := c.askJoins_of (l := (List.range 16).flatMap fun q => (c.part q).groups.map fun g => (q, g)) d p h
  generalize c.each _ _ = t at hmore hjoins hlast ⊢
  have hcport : c.port d p = _ := (State.port_congr hcl d p).trans hport
  refine ⟨fun fd h => (hlast fd (Fld.not_mem h)).trans ?_, hcport ▸ hmore, fun q hq g hg he => ?_, fun h => ?_, fun h h' => ?_, ?_⟩
  · rw [hc]
    exact (Fld.of_upd (L := [.retimeWanted, .fastResumes]) rfl (Fld.not_mem h)).trans ((hf fd (Fld.not_mem h)).trans (ha fd (Fld.not_mem h)))
  · obtain ⟨g', hg', hkey, hent⟩ := hstand q g hg
    rw [← hkey]
    refine hjoins (by rw [hcport]; rfl) (q, g') (List.mem_flatMap.2 ⟨q, List.mem_range.2 hq, List.mem_map.2 ⟨g', ?_, rfl⟩⟩) (hent d p he)
    exact (State.part_congr hcp q).symm ▸ hg'
  · rw [show t.retimeWanted = c.retimeWanted from hlast .retimeWanted (by decide), show t.fastResumes = c.fastResumes from hlast .fastResumes (by decide)]
    exact hslow h
  · rw [show t.retimeWanted = c.retimeWanted from hlast .retimeWanted (by decide), show t.fastResumes = c.fastResumes from hlast .fastResumes (by decide)]
    exact hfast h h'
  · have htp : t.parts = b.parts := (hlast .parts (by decide)).trans hcp
    split
    · next h =>
      rw [if_pos h] at hparts
      exact htp.trans (hparts.trans (ha .parts (by decide)))
    · next h =>
      rw [if_neg h] at hparts
      exact fun q => (State.part_congr htp q).symm ▸ hparts q

end

/-- What a port leaves that goes down (R297, R306). -/
theorem State.dropPort_drops (s : State) (d p : Nat) :
    (s.dropPort d p).port d p = (s.port d p).down ∧ (∃ r ∈ (s.dropPort d p).faults, r.code = 0x0501#16) ∧ (s.dropPort d p).Unjoined d p ∧
      ((s.port d p).upstream = false → OneLink s (s.dropPort d p) d ∧ (s.dropPort d p).freeCount = s.freeCount) := by
  unfold State.dropPort
  extract_lets was a b
  have hbl : b.links = a.links := (State.log_of (fd := .links) _ _ _ _ _ _ _ _ (by decide)).trans (State.unjoin_of (fd := .links) _ _ (by decide))
  have hbp : b.parts = (a.unjoin fun e => e.die == d && e.port == p).parts := State.log_of (fd := .parts) _ _ _ _ _ _ _ _ (by decide)
  have hbc : b.freeCount = s.freeCount := (State.log_of (fd := .freeCount) _ _ _ _ _ _ _ _ (by decide)).trans
    ((State.unjoin_of (fd := .freeCount) _ _ (by decide)).trans (State.modPort_of (fd := .freeCount) _ _ _ _ (by decide)))
  have hport : b.port d p = (s.port d p).down := (State.port_congr hbl d p).trans (State.port_modPort ..)
  have hrec : ∃ r ∈ b.faults, r.code = 0x0501#16 := State.log_mem ..
  have hun : b.Unjoined d p := fun q => (State.part_congr hbp q).symm ▸ State.unjoin_unjoined a d p q
  have hone : OneLink s b d := fun k hk => (congrArg (sget {} · k) hbl).trans (s.modPort_one d p _ k hk)
  clear_value b
  split
  · next hwas =>
    have hnext (fd : Fld) (h : fd ∉ [Fld.links, .freeCount]) : fd.of b.nextUpstream = fd.of b := State.nextUpstream_of _ h
    refine ⟨?_, ?_, fun q => (State.part_congr (hnext .parts (by decide)) q).symm ▸ hun q, fun h => absurd hwas (by rw [show was = false from h]; exact Bool.false_ne_true)⟩
    · unfold State.nextUpstream
      extract_lets l i
      split
      · next d' p' hat =>
        have hup : (b.port d' p').up = true := by
          obtain ⟨x, -, hx⟩ := List.mem_flatMap.1 (List.mem_of_getElem? hat)
          obtain ⟨y, hy, heq⟩ := List.mem_map.1 hx
          obtain ⟨rfl, rfl⟩ := Prod.mk.inj heq
          exact (List.mem_filter.1 hy).2
        have hne : ¬(d = d' ∧ p = p') := fun ⟨h1, h2⟩ =>
          absurd (show (b.port d p).up = true by rw [h1, h2]; exact hup) (by rw [hport]; exact Bool.false_ne_true)
        exact (State.port_modPort_ne b.drew _ hne).trans hport
      · exact hport
    · rw [show b.nextUpstream.faults = b.faults from hnext .faults (by decide)]
      exact hrec
  · exact ⟨hport, hrec, hun, fun _ => ⟨hone, hbc⟩⟩

/-! ## The start of a cycle (R299, R301) -/

section
variable (s : State) (d p : Nat)

/-- What the control cell of a cycle leaves. -/
structure Controlled (t : State) : Prop where
  frame : ∀ fd : Fld, fd ∉ [Fld.links, .parts, .freeCount] → fd.of t = fd.of s
  link : OneLink s t d
  nextSeq : (t.port d p).nextSeq = (s.port d p).nextSeq
  cycles : (t.port d p).cycles = (s.port d p).cycles
  ack : (s.port d p).cycles % 2 = 1 → (t.port d p).control = 0x11#8 ∧ t.parts = s.parts
  sync : (s.port d p).cycles % 2 = 0 → (s.port d p).joins = [] → (t.port d p).control = 0x10#8 ∧ t.parts = s.parts
  join : ∀ (q : Part) (g : Fin 8) rest grp, (s.port d p).cycles % 2 = 0 → (s.port d p).joins = (q, g) :: rest →
    sfind? (s.part q.val).groups g.val = some grp → (t.port d p).control = 0x13#8 ∧ OnePart s t q.val

theorem State.control_controlled : Controlled s d p (s.control d p) := by
  have hmod (n : Nat) (f : Port → Port) (fd : Fld) (h : fd ∉ [Fld.links, .parts, .freeCount]) :
      fd.of (({ s with freeCount := n } : State).modPort d p f) = fd.of s :=
    (State.modPort_of _ _ _ _ (Fld.not_mem h)).trans (Fld.of_upd (L := [.freeCount]) rfl (Fld.not_mem h))
  have hone (n : Nat) (f : Port → Port) : OneLink s (({ s with freeCount := n } : State).modPort d p f) d :=
    State.modPort_one { s with freeCount := n } d p f
  have hport (n : Nat) (f : Port → Port) : (({ s with freeCount := n } : State).modPort d p f).port d p = f (s.port d p) := State.port_modPort ..
  unfold State.control
  extract_lets o
  split
  · next hodd =>
    refine ⟨hmod _ _, hone _ _, ?_, ?_, fun _ => ⟨?_, rfl⟩, fun h => absurd (hodd.symm.trans h) (by decide),
      fun _ _ _ _ h => absurd (hodd.symm.trans h) (by decide)⟩
    · rw [hport]
    · rw [hport]
    · exact congrArg Port.control (hport _ _)
  · next hodd =>
    split
    · next q g rest hj =>
      split
      · next grp hg =>
        extract_lets joined
        have hlink (f : Port → Port) (h : PartState → PartState) : ((s.modPort d p f).modPart q.val h).port d p = f (s.port d p) :=
          (State.port_congr (State.modPart_of (fd := .links) _ _ _ (by decide)) d p).trans (State.port_modPort ..)
        refine ⟨fun fd h => (State.modPart_of _ _ _ (Fld.not_mem h)).trans (hmod s.freeCount _ fd h), fun k hk => ?_, ?_, ?_, fun h => absurd h hodd,
          fun _ h => absurd (hj.symm.trans h) (List.cons_ne_nil _ _), fun q' g' rest' grp' _ hj' _ => ?_⟩
        · exact (congrArg (sget {} · k) (State.modPart_of (fd := .links) _ _ _ (by decide))).trans (s.modPort_one d p _ k hk)
        · rw [hlink]
        · rw [hlink]
        · have heq := (List.cons.inj (hj.symm.trans hj')).1
          obtain ⟨rfl, rfl⟩ := Prod.mk.inj heq
          refine ⟨(congrArg Port.control (hlink _ _)).trans rfl, fun k hk => (State.modPart_one _ _ _ k hk).trans ?_⟩
          rfl
      · next hnone =>
        refine ⟨hmod s.freeCount _, hone s.freeCount _, ?_, ?_, fun h => absurd h hodd, fun _ h => absurd (hj.symm.trans h) (List.cons_ne_nil _ _),
          fun q' g' rest' grp' _ hj' hg' => ?_⟩
        · rw [State.port_modPort]
        · rw [State.port_modPort]
        · have heq := (List.cons.inj (hj.symm.trans hj')).1
          obtain ⟨rfl, rfl⟩ := Prod.mk.inj heq
          rw [hnone] at hg'
          cases hg'
    · next hj =>
      refine ⟨hmod s.freeCount _, hone s.freeCount _, ?_, ?_, fun h => absurd h hodd, fun _ _ => ⟨?_, rfl⟩,
        fun q' g' rest' grp' _ hj' _ => absurd (hj.symm.trans hj') (List.cons_ne_nil _ _).symm⟩
      · rw [State.port_modPort]
      · rw [State.port_modPort]
      · exact congrArg Port.control (State.port_modPort ..)

end

/-! ## The election (R306) -/

/-- An engine goes before another as time master, or is as good. -/
def Leads (m x : Peer) : Prop := x.timePri.toNat ≤ m.timePri.toNat ∧ (x.timePri = m.timePri → m.serial.toNat ≤ x.serial.toNat)

theorem Leads.trans {a b c : Peer} (h : Leads a b) (h' : Leads b c) : Leads a c := by
  obtain ⟨h1, h2⟩ := h
  obtain ⟨h1', h2'⟩ := h'
  refine ⟨h1'.trans h1, fun heq => ?_⟩
  have hba : b.timePri = a.timePri := BitVec.eq_of_toNat_eq (Nat.le_antisymm h1 (heq ▸ h1'))
  exact (h2 hba).trans (h2' (heq.trans hba.symm))

theorem beats_leads {a b : Peer} (h : beats a b = true) : Leads a b := by
  unfold beats at h
  simp only [Bool.or_eq_true, Bool.and_eq_true, beq_iff_eq, decide_eq_true_eq] at h
  rcases h with h | ⟨h, h'⟩
  · exact ⟨h.le, fun heq => absurd (congrArg BitVec.toNat heq) (by omega)⟩
  · exact ⟨by rw [h], fun _ => h'.le⟩

theorem leads_of_not_beats {a b : Peer} (h : ¬beats a b = true) : Leads b a := by
  unfold beats at h
  simp only [Bool.or_eq_true, Bool.and_eq_true, beq_iff_eq, decide_eq_true_eq, not_or, not_and, Nat.not_lt] at h
  exact ⟨h.1, h.2⟩

/-- The engine elected is one of the domain, and the best of it. -/
theorem elect_leads (me : Peer) (l : List Peer) : elect me l ∈ me :: l ∧ ∀ x ∈ me :: l, Leads (elect me l) x := by
  induction l generalizing me with
  | nil => exact ⟨List.mem_cons_self, fun x hx => by rw [List.mem_singleton.1 hx]; exact ⟨le_rfl, fun _ => le_rfl⟩⟩
  | cons y r ih =>
    change elect (if beats y me then y else me) r ∈ _ ∧ ∀ x ∈ _, Leads (elect (if beats y me then y else me) r) x
    have hbest : Leads (if beats y me then y else me) me ∧ Leads (if beats y me then y else me) y ∧ (if beats y me then y else me) ∈ [me, y] := by
      split
      · next h => exact ⟨beats_leads h, ⟨le_rfl, fun _ => le_rfl⟩, by simp⟩
      · next h => exact ⟨⟨le_rfl, fun _ => le_rfl⟩, leads_of_not_beats h, by simp⟩
    obtain ⟨hme, hy, hmem⟩ := hbest
    obtain ⟨hin, hall⟩ := ih (if beats y me then y else me)
    have hfirst := hall _ List.mem_cons_self
    refine ⟨?_, fun x hx => ?_⟩
    · rcases List.mem_cons.1 hin with h | h
      · rw [h]
        rcases List.mem_cons.1 hmem with h | h
        · rw [h]; exact List.mem_cons_self
        · rw [List.mem_singleton.1 h]; exact List.mem_cons_of_mem _ List.mem_cons_self
      · exact List.mem_cons_of_mem _ (List.mem_cons_of_mem _ h)
    · rcases List.mem_cons.1 hx with rfl | hx
      · exact hfirst.trans hme
      · rcases List.mem_cons.1 hx with rfl | hx
        · exact hfirst.trans hy
        · exact hall x (List.mem_cons_of_mem _ hx)

/-! ## The step of ET (R310) -/

/-- The latest ET of a domain. -/
theorem latest_of (l : List Peer) (n : Nat) : let m := l.foldl (fun m x => Nat.max m x.et.toNat) n
    n ≤ m ∧ (∀ x ∈ l, x.et.toNat ≤ m) ∧ (m = n ∨ ∃ x ∈ l, m = x.et.toNat) := by
  induction l generalizing n with
  | nil => exact ⟨le_rfl, fun x hx => absurd hx List.not_mem_nil, .inl rfl⟩
  | cons y r ih =>
    obtain ⟨h1, h2, h3⟩ := ih (Nat.max n y.et.toNat)
    refine ⟨(Nat.le_max_left _ _).trans h1, fun x hx => ?_, ?_⟩
    · rcases List.mem_cons.1 hx with rfl | hx
      · exact (Nat.le_max_right _ _).trans h1
      · exact h2 x hx
    · rcases h3 with h3 | ⟨x, hx, h3⟩
      · rcases Nat.le_total n y.et.toNat with h | h
        · exact .inr ⟨y, List.mem_cons_self, h3.trans (Nat.max_eq_right h)⟩
        · exact .inl (h3.trans (Nat.max_eq_left h))
      · exact .inr ⟨x, List.mem_cons_of_mem _ hx, h3⟩

theorem State.flagAll_flags (s : State) : (∀ p, ∀ x ∈ (s.flagAll.part p).queue, x.flags.retimed = true) ∧
    ∀ h f, ∀ x ∈ (s.flagAll.window h f).compl, x.flags.retimed = true := by
  refine ⟨fun p => ?_, fun h f => ?_⟩
  · unfold State.part State.flagAll
    refine sget_smapAll_of (fun q : PartState => ∀ x ∈ q.queue, x.flags.retimed = true) (fun x hx => nomatch hx) fun q x hx => ?_
    obtain ⟨y, -, rfl⟩ := List.mem_map.1 hx
    rfl
  · unfold State.window State.flagAll
    refine sget_smapAll_of (fun w : Window => ∀ x ∈ w.compl, x.flags.retimed = true) (fun x hx => nomatch hx) fun w x hx => ?_
    obtain ⟨y, -, rfl⟩ := List.mem_map.1 hx
    rfl

/-- The message of a long command's end leaves the records that wait. -/
theorem State.finish_compl (s : State) {st : Nat} (h : st ≠ stFaulted) (l : LongCmd) (b : Bytes) (d f : Nat) :
    ((s.finish l st b).window d f).compl = (s.window d f).compl := by
  unfold State.window
  rw [State.finish_windows h]
  split
  · rfl
  · by_cases hk : 16 * d + f = 16 * l.die.val + l.fn.val
    · rw [hk, sget_smod_same]
    · rw [sget_smod_ne _ _ _ _ _ hk]

/-! ## A full retime (R310) -/

theorem State.upPorts_nodup (s : State) : s.upPorts.Nodup := by
  refine List.nodup_flatMap.2 ⟨fun d _ => (List.nodup_range.filter _).map fun _ _ h => (Prod.mk.inj h).2, ?_⟩
  refine (List.nodup_range (n := 16)).imp fun {a b} hab => ?_
  refine List.disjoint_left.2 fun x hx hy => ?_
  obtain ⟨p, -, rfl⟩ := List.mem_map.1 hx
  obtain ⟨q, -, h⟩ := List.mem_map.1 hy
  exact hab (Prod.mk.inj h).1.symm

/-- What one port is set to, of ports that are each named once. -/
theorem State.port_eachNodup (s : State) {l : List RetimePort} (g : RetimePort → Port → Port)
    (hn : (l.map fun x => (x.die.val, x.port.val)).Nodup) {x : RetimePort} (hx : x ∈ l) :
    (s.each l fun t x => t.modPort x.die.val x.port.val (g x)).port x.die.val x.port.val = g x (s.port x.die.val x.port.val) := by
  induction l generalizing s with
  | nil => exact absurd hx List.not_mem_nil
  | cons y r ih =>
    obtain ⟨hy, hr⟩ := List.nodup_cons.1 hn
    rcases List.mem_cons.1 hx with rfl | hx
    · refine State.each_induct (s := s.modPort x.die.val x.port.val (g x)) (l := r)
        (P := fun t => t.port x.die.val x.port.val = g x (s.port x.die.val x.port.val)) (State.port_modPort ..) fun t ht z hz => ?_
      rw [State.port_modPort_ne _ _ fun ⟨h1, h2⟩ => hy (List.mem_map.2 ⟨z, hz, Prod.ext h1.symm h2.symm⟩)]
      exact ht
    · refine (ih (s.modPort y.die.val y.port.val (g y)) hr hx).trans (congrArg (g x) (State.port_modPort_ne _ _ fun ⟨h1, h2⟩ => hy ?_))
      exact List.mem_map.2 ⟨x, hx, Prod.ext h1 h2⟩

section
variable (s : State) (f : Retime)

/-- What a full retime leaves of a domain whose ports it names once each (R310). -/
structure Retimed (t : State) : Prop where
  frame : ∀ fd : Fld, fd ∉ [Fld.parts, .windows, .et, .links, .timeMaster, .masterSerial, .fullRetimes, .retimeWanted, .longs, .faults, .faultSeq,
    .faultsLost] → fd.of t = fd.of s
  forward : s.tick ≤ t.tick
  latest : ∀ x ∈ f.peers, x.et.toNat ≤ t.tick
  taken : t.et = s.et ∨ ∃ x ∈ f.peers, t.et = x.et
  flags : s.tick < t.tick → (∀ p, ∀ x ∈ (t.part p).queue, x.flags.retimed = true) ∧ ∀ h i, ∀ x ∈ (t.window h i).compl, x.flags.retimed = true
  master : ∃ m ∈ s.self :: f.peers, t.masterSerial = m.serial ∧ t.timeMaster = (m.serial == s.fuses.serial) ∧ ∀ x ∈ s.self :: f.peers, Leads m x
  ports : ∀ x ∈ f.ports, t.port x.die.val x.port.val = { s.port x.die.val x.port.val with
    delay := delayOf x.roundTrip, offset := x.offset.signExtend 64, upstream := !t.timeMaster && nearest f == some x }
  counted : t.fullRetimes = s.fullRetimes + 1 ∧ t.retimeWanted = false
  answered : ∀ l ∈ t.longs, l.code ≠ 0x81#8
  recorded : ∃ r ∈ t.faults, r.code = 0x0502#16

/-- Step 5 of R310: ET as the latest of the domain, and every request in flight flagged if that moves it. -/
def State.stepTo (s : State) (latest : Nat) : State := if s.tick < latest then { s.flagAll with et := BitVec.ofNat 64 latest } else s

theorem State.stepTo_of {tick : Nat} (h : s.tick = tick) (latest : Nat) :
    (if 0 < latest - tick then { s.flagAll with et := BitVec.ofNat 64 latest } else s) = s.stepTo latest := by
  subst h
  unfold State.stepTo
  by_cases h : s.tick < latest
  · rw [if_pos h, if_pos (Nat.sub_pos_of_lt h)]
  · rw [if_neg h, if_neg (by rw [Nat.sub_eq_zero_of_le (Nat.not_lt.1 h)]; exact Nat.lt_irrefl 0)]

theorem State.stepTo_steps {latest : Nat} (hl : s.tick ≤ latest) (hlt : latest < 18446744073709551616) :
    (∀ fd : Fld, fd ∉ [Fld.parts, .windows, .et] → fd.of (s.stepTo latest) = fd.of s) ∧ (s.stepTo latest).tick = latest ∧
      (s.tick < latest → (∀ p, ∀ x ∈ ((s.stepTo latest).part p).queue, x.flags.retimed = true) ∧
        ∀ h i, ∀ x ∈ ((s.stepTo latest).window h i).compl, x.flags.retimed = true) := by
  unfold State.stepTo
  split
  · refine ⟨fun fd h => Fld.of_upd (s := s) (L := [.parts, .windows, .et]) rfl h, ?_, fun _ => s.flagAll_flags⟩
    exact (BitVec.toNat_ofNat _ _).trans (Nat.mod_eq_of_lt hlt)
  · next h => exact ⟨fun _ _ => rfl, Nat.le_antisymm hl (Nat.not_lt.1 h), fun h' => absurd h' h⟩

/-- Steps 3 to 6 of R310: what stands before the commands are answered and the record is made. -/
structure Stepped (d : State) : Prop where
  frame : ∀ fd : Fld, fd ∉ [Fld.parts, .windows, .et, .links, .timeMaster, .masterSerial, .fullRetimes, .retimeWanted] → fd.of d = fd.of s
  tick : d.tick = f.peers.foldl (fun m x => Nat.max m x.et.toNat) s.tick
  flags : s.tick < d.tick → (∀ p, ∀ x ∈ (d.part p).queue, x.flags.retimed = true) ∧ ∀ h i, ∀ x ∈ (d.window h i).compl, x.flags.retimed = true
  serial : d.masterSerial = (elect s.self f.peers).serial
  master : d.timeMaster = ((elect s.self f.peers).serial == s.fuses.serial)
  ports : ∀ x ∈ f.ports, d.port x.die.val x.port.val = { s.port x.die.val x.port.val with
    delay := delayOf x.roundTrip, offset := x.offset.signExtend 64, upstream := !d.timeMaster && nearest f == some x }
  counted : d.fullRetimes = s.fullRetimes + 1
  wanted : d.retimeWanted = false

theorem State.retimed_steps (hn : (f.ports.map fun x => (x.die.val, x.port.val)).Nodup) : ∃ d step, Stepped s f d ∧
    s.retimed f = (d.finishAll (fun l => l.code == 0x81#8) stOk).log 0x0502 none none none 0 15 step := by
  obtain ⟨hl1, -, hl3⟩ := latest_of f.peers s.tick
  unfold State.retimed
  extract_lets latest step master mine a flagged b c d
  refine ⟨d, step, ?_, rfl⟩
  have ha (fd : Fld) (h : fd ∉ [Fld.parts]) : fd.of a = fd.of s := State.flagHeld_of s h
  have hatick : a.tick = s.tick := congrArg BitVec.toNat (ha .et (by decide))
  have hlt : latest < 18446744073709551616 := by
    rcases hl3 with h | ⟨x, -, h⟩
    · exact lt_of_eq_of_lt h s.et.isLt
    · exact lt_of_eq_of_lt h x.et.isLt
  have hb : b = a.stepTo latest := a.stepTo_of hatick latest
  obtain ⟨hbf, hbt, hbq⟩ := a.stepTo_steps (hatick.symm ▸ hl1) hlt
  rw [← hb] at hbf hbt hbq
  rw [hatick] at hbq
  have hbs (fd : Fld) (h : fd ∉ [Fld.parts, .windows, .et]) : fd.of b = fd.of s := (hbf fd h).trans (ha fd (Fld.not_mem h))
  have hc (fd : Fld) (h : fd ∉ [Fld.links]) : fd.of c = fd.of b := Fld.of_each (f := fd) f.ports fun t x => State.modPort_of t x.die.val x.port.val _ h
  have hcport (x : RetimePort) (hx : x ∈ f.ports) : c.port x.die.val x.port.val = { s.port x.die.val x.port.val with
      delay := delayOf x.roundTrip, offset := x.offset.signExtend 64, upstream := !mine && nearest f == some x } := by
    rw [← State.port_congr (hbs .links (by decide))]
    exact b.port_eachNodup (fun x o => { o with delay := delayOf x.roundTrip, offset := x.offset.signExtend 64, upstream := !mine && nearest f == some x }) hn hx
  clear_value a b c
  have hd (fd : Fld) (h : fd ∉ [Fld.timeMaster, .masterSerial, .fullRetimes, .retimeWanted]) : fd.of d = fd.of c :=
    Fld.of_upd (s := c) (t := d) (L := [.timeMaster, .masterSerial, .fullRetimes, .retimeWanted]) rfl h
  have hdb (fd : Fld) (h : fd ∉ [Fld.links, .timeMaster, .masterSerial, .fullRetimes, .retimeWanted]) : fd.of d = fd.of b :=
    (hd fd (Fld.not_mem h)).trans (hc fd (Fld.not_mem h))
  have hcount : c.fullRetimes = s.fullRetimes := (hc .fullRetimes (by decide)).trans (hbs .fullRetimes (by decide))
  have hdt : d.tick = latest := (congrArg BitVec.toNat (hdb .et (by decide))).trans hbt
  refine ⟨fun fd h => (hdb fd (Fld.not_mem h)).trans (hbs fd (Fld.not_mem h)), hdt, fun h => ?_, rfl, rfl, hcport, congrArg (· + 1) hcount, rfl⟩
  obtain ⟨hq, hw⟩ := hbq (hdt ▸ h)
  exact ⟨fun p => (State.part_congr (hdb .parts (by decide)) p).symm ▸ hq p, fun k i => (State.window_congr (hdb .windows (by decide)) k i).symm ▸ hw k i⟩

theorem State.retimed_retimed (hn : (f.ports.map fun x => (x.die.val, x.port.val)).Nodup) : Retimed s f (s.retimed f) := by
  obtain ⟨hl1, hl2, hl3⟩ := latest_of f.peers s.tick
  obtain ⟨hm1, hm2⟩ := elect_leads s.self f.peers
  obtain ⟨d, step, ⟨hd, hdt, hdq, hserial, hmaster, hports, hcount, hwant⟩, ht⟩ := s.retimed_steps f hn
  rw [ht]
  have hall (fd : Fld) (h : fd ∉ [Fld.windows, .longs]) : fd.of (d.finishAll (fun l => l.code == 0x81#8) stOk) = fd.of d :=
    State.finishAll_of_ne stOk_ne d _ h
  have hcompl (h i : Nat) : ((d.finishAll (fun l => l.code == 0x81#8) stOk).window h i).compl = (d.window h i).compl :=
    State.each_induct (P := fun t => (t.window h i).compl = (d.window h i).compl) rfl fun t ht l _ => (t.finish_compl stOk_ne l [] h i).trans ht
  have hlongs (l : LongCmd) (h : l ∈ (d.finishAll (fun l => l.code == 0x81#8) stOk).longs) : l.code ≠ 0x81#8 := fun hl =>
    absurd (State.finishAll_longs h).2 (by rw [hl]; decide)
  generalize d.finishAll (fun l => l.code == 0x81#8) stOk = e at hall hcompl hlongs
  have hlog (fd : Fld) (h : fd ∉ [Fld.faults, .faultSeq, .faultsLost]) : fd.of (e.log 0x0502 none none none 0 15 step) = fd.of e := State.log_of _ _ _ _ _ _ _ _ h
  have hrec : ∃ r ∈ (e.log 0x0502 none none none 0 15 step).faults, r.code = 0x0502#16 := State.log_mem ..
  generalize e.log 0x0502 none none none 0 15 step = t at hlog hrec
  have htd (fd : Fld) (h : fd ∉ [Fld.windows, .longs, .faults, .faultSeq, .faultsLost]) : fd.of t = fd.of d :=
    (hlog fd (Fld.not_mem h)).trans (hall fd (Fld.not_mem h))
  have htick : t.tick = d.tick := congrArg BitVec.toNat (htd .et (by decide))
  have htm : t.timeMaster = d.timeMaster := htd .timeMaster (by decide)
  refine ⟨fun fd h => (htd fd (Fld.not_mem h)).trans (hd fd (Fld.not_mem h)), ?_, fun x hx => ?_, ?_, fun h => ?_,
    ⟨_, hm1, (htd .masterSerial (by decide)).trans hserial, htm.trans hmaster, hm2⟩, fun x hx => ?_,
    ⟨(htd .fullRetimes (by decide)).trans hcount, (htd .retimeWanted (by decide)).trans hwant⟩, fun l hl => hlongs l ?_, hrec⟩
  · rw [htick, hdt]
    exact hl1
  · rw [htick, hdt]
    exact hl2 x hx
  · rcases hl3 with h | ⟨x, hx, h⟩
    · exact .inl (BitVec.eq_of_toNat_eq ((htick.trans hdt).trans h))
    · exact .inr ⟨x, hx, BitVec.eq_of_toNat_eq ((htick.trans hdt).trans h)⟩
  · obtain ⟨hq, hw⟩ := hdq (htick ▸ h)
    refine ⟨fun p => (State.part_congr (htd .parts (by decide)) p).symm ▸ hq p, fun k i => ?_⟩
    have hwd : (t.window k i).compl = (d.window k i).compl :=
      (congrArg Window.compl (State.window_congr (hlog .windows (by decide)) k i)).trans (hcompl k i)
    exact hwd.symm ▸ hw k i
  · rw [htm, ← hports x hx]
    exact State.port_congr (htd .links (by decide)) _ _
  · rwa [show t.longs = e.longs from hlog .longs (by decide)] at hl

end

theorem signExtend_natAbs (v : BitVec 16) : (v.signExtend 64).toInt.natAbs = v.toInt.natAbs := by
  rw [BitVec.toInt_signExtend_of_le (by decide)]

theorem renumber_again {l : List SentCell} {z : SentCell} (h : z ∈ renumber l) : z.again = true := by
  obtain ⟨x, -, rfl⟩ := List.mem_map.1 h
  rfl

section
variable (ld : LDie) (port : Fin 3) {s : State} (hon : s.linksOn = true)
include hon

theorem State.portUp_of (hup : (s.port ld.val port.val).up = true) : s.portUp ld.val port.val = true := by
  rw [State.portUp, hon, hup, Bool.and_self]

theorem exec_portUp (train : PortTrain) (hp : port.val < (s.link ld.val).portCount) (hdown : (s.port ld.val port.val).up = false) :
    exec (.portUp ld port train) s = .next (s.trainPort ld.val port.val train) :=
  congrArg Host.Outcome.next (if_pos (by rw [hon, hdown, decide_eq_true hp]; rfl))

theorem exec_portDown (hup : (s.port ld.val port.val).up = true) : exec (.portDown ld port) s = .next (s.dropPort ld.val port.val) :=
  congrArg Host.Outcome.next (if_pos (State.portUp_of ld port hon hup))

theorem exec_sync (cell : SyncCell) (hup : (s.port ld.val port.val).up = true) :
    exec (.sync ld port cell) s = .next (s.sync ld.val port.val cell) :=
  congrArg Host.Outcome.next (if_pos (State.portUp_of ld port hon hup))

theorem exec_glpCycleStart (hup : (s.port ld.val port.val).up = true) (he : s.onEdge = true) (ht : s.tick % 36 = 0) :
    exec (.glpCycleStart ld port) s = .next ((s.control ld.val port.val).modPort ld.val port.val fun o =>
      { o with cycles := o.cycles + 1, used := [0], sent := o.sent.map fun x => { x with age := x.age + 1 } }) :=
  congrArg Host.Outcome.next (if_pos (by rw [State.portUp_of ld port hon hup, he, ht]; rfl))

theorem exec_fullRetime (f : Retime) (he : s.onEdge = true) (hc : s.etClock = .tclk) :
    exec (.fullRetime f) s = .next (if s.groupsQuiet && s.retimes f then s.retimed f else s) := by
  refine congrArg Host.Outcome.next ?_
  rw [hon, he, hc, Bool.and_assoc]
  rfl

end

/-- Settles O44: a port that comes up or goes down, SYNC, the start of a cycle and the full retime, each through what its operation leaves. -/
theorem linkPorts : Obligations.LinkPorts := by
  unfold Obligations.LinkPorts
  refine ⟨fun ld port train cell s hon => ?_, fun f s hon he hc => ⟨fun h => ?_, fun hq hr => ?_⟩⟩
  · intro o theta0 unjoined
    refine ⟨rfl, fun hp hdown => ?_, fun hup => ?_, fun hup => ?_, fun hup he ht => ?_, fun hup => ?_⟩
    · refine ⟨_, exec_portUp ld port hon train hp hdown, ?_⟩
      obtain ⟨hf, hport, hjoins, hslow, hfast, hparts⟩ := s.trainPort_trained ld.val port.val train
      generalize s.trainPort ld.val port.val train = t at *
      refine ⟨State.eq_patch [.links, .parts, .retimeWanted, .fastResumes] hf, ?_, hslow, hfast, hparts⟩
      intro u
      have hu : u = _ := hport.1
      refine ⟨by rw [hu]; rfl, by rw [hu]; rfl, by rw [hu]; rfl, by rw [hu]; rfl, by rw [hu], by rw [hu]; rfl, by rw [hu]; rfl, fun z hz => ?_, hjoins⟩
      rw [hu] at hz
      exact renumber_again hz
    · obtain ⟨hport, hrec, hun, hone⟩ := s.dropPort_drops ld.val port.val
      refine ⟨_, exec_portDown ld port hon hup, hport, hrec, hun, ?_, hone⟩
      exact State.eq_patch [.links, .parts, .freeCount, .faults, .faultSeq, .faultsLost] fun fd h => State.dropPort_of s _ _ (Fld.not_mem h)
    · obtain ⟨hf, hone, hport, hwant, hparts, -⟩ := s.sync_synced ld.val port.val cell
      exact ⟨_, exec_sync ld port hon cell hup, State.eq_patch [.links, .parts, .retimeWanted] hf, hone, hport, hwant, hparts⟩
    · obtain ⟨hf, hone, hseq, hcyc, hack, hsync, hjoin⟩ := s.control_controlled ld.val port.val
      refine ⟨_, exec_glpCycleStart ld port hon hup he ht, ?_⟩
      generalize s.control ld.val port.val = u at *
      have hparts : (u.modPort ld.val port.val fun o => { o with cycles := o.cycles + 1, used := [0], sent := o.sent.map fun x => { x with age := x.age + 1 } }).parts =
        u.parts := rfl
      refine ⟨State.eq_patch [.links, .parts, .freeCount] fun fd h => (State.modPort_of u _ _ _ (Fld.not_mem h)).trans (hf fd h),
        fun k hk => (u.modPort_one _ _ _ k hk).trans (hone k hk), ?_, ?_, ?_, fun h => ?_, fun h h' => ?_, fun p g rest grp h h' h'' => ?_⟩
      · rw [State.port_modPort, ← hcyc]
      · rw [State.port_modPort]
      · rw [State.port_modPort, ← hseq]
      · rw [State.port_modPort]
        exact hack h
      · rw [State.port_modPort]
        exact hsync h h'
      · rw [State.port_modPort]
        exact hjoin p g rest grp h h' h''
    · refine ⟨_, congrArg Host.Outcome.next (if_pos (State.portUp_of ld port hon hup)), rfl, fun k hk => s.modPort_one _ _ _ k hk, State.port_modPort ..⟩
  · rw [exec_fullRetime hon f he hc, if_neg]
    rcases h with h | h
    · rw [h]
      exact Bool.false_ne_true
    · rw [h, Bool.and_false]
      exact Bool.false_ne_true
  · obtain ⟨hports, hoff⟩ := Bool.and_eq_true_iff.1 hr
    have hn : (f.ports.map fun x => (x.die.val, x.port.val)).Nodup := by
      rw [beq_iff_eq.1 hports]
      exact s.upPorts_nodup
    refine ⟨_, (exec_fullRetime hon f he hc).trans (congrArg Host.Outcome.next (if_pos (by rw [hq, hr]; rfl))), ?_⟩
    obtain ⟨hf, h1, h2, h3, h4, h5, h6, ⟨h7, h8⟩, h9, h10⟩ := s.retimed_retimed f hn
    generalize s.retimed f = t at *
    refine ⟨h1, h2, h3, h4, h5, fun x hx => ?_, h7, h8, h9, h10, hf .cores (by decide), hf .spad (by decide), hf .hbm (by decide), hf .fuses (by decide)⟩
    intro u
    have hu : u = _ := h6 x hx
    refine ⟨by rw [hu], ?_, by rw [hu]⟩
    rw [hu, signExtend_natAbs]
    exact of_decide_eq_true (List.all_eq_true.1 hoff x hx)

end Sys2Proof.Machine
end

section
/-!
PROOFS of the statement about data cells (spec/12_links_collectives_time.md R301, R302, R304, R314, R325): cells received, acknowledged,
timed out and sent.
-/

namespace Sys2Proof.Machine

open Sys2Proof

/-! ## The end of a layer that ends no run -/

/-- The run of a partition whose switch is fixed keeps the progress of its link records. -/
theorem State.fixSwitch_links {s : State} {p : Nat} {run : Run} (hrun : (s.part p).run = some run) :
    ∃ u, ((s.fixSwitch p).part p).run = some u ∧ u.links = run.links := by
  have same : ∃ u, (s.part p).run = some u ∧ u.links = run.links := ⟨run, hrun, rfl⟩
  unfold State.fixSwitch
  extract_lets q
  split
  · exact same
  next run' hrun' =>
  obtain rfl : run' = run := Option.some.inj (hrun'.symm.trans hrun)
  split
  · split
    · exact same
    · extract_lets t b time flits u
      have hu : u.part p = s.part p := by
        refine State.part_congr ?_ p
        simp only [u]
        split
        · rfl
        · exact Fld.of_each (f := .parts) _ fun v c => State.modCluster_of (fd := .parts) _ _ _ (by decide)
      rw [State.part_modPart, hu, hrun]
      exact ⟨_, rfl, rfl⟩
  · exact same

section
variable {s : State} {p : Nat}

/-- A layer may end without ending the run of the partition: the run is to go on, or some core has not halted. -/
def State.GoesOn (s : State) (p : Nat) : Prop :=
  ∀ run, (s.part p).run = some run → run.stop = none ∨ ∃ n ∈ s.partCores p, (s.coreAt n).halted = false

/-- What the end of a layer leaves that ends no run. -/
structure LayerKept (s : State) (p : Nat) (t : State) : Prop where
  frame : ∀ fd : Fld, fd ∉ [Fld.clusters, .parts] → fd.of t = fd.of s
  part : OnePart s t p
  run : ∀ run, (s.part p).run = some run → ∃ u, (t.part p).run = some u ∧ u.links = run.links

theorem State.layerEnds_kept (h : s.GoesOn p) : LayerKept s p (s.layerEnds p) := by
  have same : LayerKept s p s := ⟨fun _ _ => rfl, fun _ _ => rfl, fun run h => ⟨run, h, rfl⟩⟩
  unfold State.layerEnds
  split
  · exact same
  next run hrun =>
  split
  · exact same
  next hhalt =>
  have hgo : run.stop = none := (h run hrun).resolve_right fun ⟨n, hn, hne⟩ => hhalt <| by
    rw [Bool.or_eq_true, Bool.not_eq_true', List.all_eq_false]
    exact .inr ⟨n, hn, by rw [hne]; exact Bool.false_ne_true⟩
  have hmod {f : Run → Run} (hf : ∀ r, (f r).links = r.links) : LayerKept s p (s.modPart p fun q => { q with run := q.run.map f }) := by
    refine ⟨fun fd hfd => State.modPart_of _ _ _ (Fld.not_mem hfd), fun k hk => s.modPart_one _ _ k hk, fun r hr => ⟨f r, ?_, hf r⟩⟩
    rw [State.part_modPart, hr]
    rfl
  split
  · split
    · exact same
    · exact hmod fun _ => rfl
  · extract_lets u
    obtain ⟨hframe, hpart, hlinks⟩ : LayerKept s p u := hmod fun _ => rfl
    clear_value u
    rw [if_neg (by rw [hgo]; exact Bool.false_ne_true)]
    obtain ⟨r, hr, heq⟩ := hlinks run hrun
    refine ⟨fun fd hfd => (State.fixSwitch_of u p hfd).trans (hframe fd hfd),
      fun k hk => ((State.fixSwitch_reports hr).1 k hk).trans (hpart k hk), fun r' hr' => ?_⟩
    obtain ⟨w, hw, hweq⟩ := State.fixSwitch_links hr
    obtain rfl : run = r' := Option.some.inj (hrun.symm.trans hr')
    exact ⟨w, hw, hweq.trans heq⟩

end

/-! ## A cell received (R302, R325) -/

/-- The run of a cell that was sent again. -/
def Run.retried (run : Run) : Run := { run with flags := { run.flags with linkRetry := true } }

/-- The run of a partition is marked for a cell with the tag of its request. -/
theorem State.retryRun_marks {s : State} {p : Nat} {run : Run} {r : Request} (hrun : (s.part p).run = some run)
    (hr : (s.part p).req? run.req = some r) : (s.retryRun p r.tag).part p = { s.part p with run := some run.retried } := by
  unfold State.retryRun
  rw [if_pos (by rw [hrun, Option.any_some, hr, Option.any_some, beq_self_eq_true]), State.part_modPart, hrun]
  rfl

theorem State.retryRun_part_ne (s : State) {p q : Nat} (tag : BitVec 32) (h : p ≠ q) : (s.retryRun q tag).part p = s.part p := by
  unfold State.retryRun
  extract_lets r
  split
  · exact State.part_modPart_ne _ _ _ _ h
  · rfl

/-- The marks that cells sent again may leave on the run of a partition. -/
structure Marks (s : State) (p : Nat) (run : Run) (t : State) : Prop where
  links : t.links = s.links
  part : ∃ u : Run, t.part p = { s.part p with run := some u } ∧ u.req = run.req ∧ u.retried = run.retried

/-- A cell that was sent again marks the run of a partition whose group takes it. -/
theorem State.retried_marks {s : State} {d n p : Nat} {x : RxCell} {run : Run} {r : Request} (hp : p < 16) (hrun : (s.part p).run = some run)
    (hr : (s.part p).req? run.req = some r) (htag : r.tag = x.cell.tag)
    (hg : ∃ g ∈ (s.part p).groups, g.2.takes (s.port d n) p d n x = true) : ((s.retried d n x).part p).run = some run.retried := by
  obtain ⟨g, hg, htakes⟩ := hg
  have hmark {t : State} (h : Marks s p run t) : (t.retryRun p x.cell.tag).part p = { s.part p with run := some run.retried } := by
    obtain ⟨u, hu, hreq, hret⟩ := h.part
    rw [← htag, State.retryRun_marks (run := u) (by rw [hu]) (by rw [hu, hreq]; exact hr), hu, hret]
  have hmarks {t : State} (h : Marks s p run t) (q : Nat) : Marks s p run (t.retryRun q x.cell.tag) := by
    refine ⟨(State.retryRun_of (fd := .links) t q _ (by decide)).trans h.links, ?_⟩
    by_cases hq : p = q
    · subst hq
      exact ⟨run.retried, hmark h, rfl, rfl⟩
    · rw [t.retryRun_part_ne _ hq]
      exact h.part
  refine (State.each_establishes (I := Marks s p run) (Q := fun t => (t.part p).run = some run.retried)
    (List.mem_range.2 hp) ⟨rfl, run, by rw [← hrun], rfl, rfl⟩ (fun t ht q _ => ?_) (fun t ht => ?_) fun t ht hm q _ => ?_).2
  · split
    · exact hmarks ht q
    · exact ht
  · have htrue : ((t.part p).groups.any fun g => g.2.takes (t.port d n) p d n x) = true := by
      obtain ⟨u, hu, -⟩ := ht.part
      rw [hu, State.port_congr ht.links]
      exact List.any_eq_true.2 ⟨g, hg, htakes⟩
    rw [if_pos htrue, hmark ht]
  · split
    · by_cases hq : p = q
      · subst hq
        rw [hmark ht]
      · rwa [t.retryRun_part_ne _ hq]
    · exact hm

theorem Port.advance_owned (o : Port) (n : Nat) : (o.advance n).owned = o.owned := by
  induction n generalizing o with
  | zero => rfl
  | succ n ih =>
    rw [Port.advance]
    split
    · exact ih _
    · rfl

theorem Port.receive_owned (o : Port) (seq : BitVec 16) : (o.receive seq).2.owned = o.owned := by
  unfold Port.receive
  extract_lets e
  split
  · exact Port.advance_owned ..
  · split
    · rfl
    · rfl

theorem Group.takes_congr {o o' : Port} (h : o'.owned = o.owned) (g : Group) (p d k : Nat) (x : RxCell) : g.takes o' p d k x = g.takes o p d k x := by
  unfold Group.takes Port.owner
  rw [h]

/-- A cell held at a die that another one, sent again, repeats (R325). -/
def RxCell.repeated (c : Cell) (bulk : Bool) (y : RxCell) : RxCell :=
  if c.retrans && !bulk && !y.bulk && sameCell y.cell c then { y with cell := { y.cell with retrans := true } } else y

/-- A port after a data cell. -/
def Port.holds (o : Port) (c : Cell) (bulk : Bool) : Port :=
  { (o.receive c.seq).2 with held := (o.receive c.seq).2.held.map (RxCell.repeated c bulk) ++ if (o.receive c.seq).1 then [{ cell := c, bulk := bulk }] else [] }

theorem RxCell.repeated_none {c : Cell} {bulk : Bool} (h : (c.retrans && !bulk) = false) (l : List RxCell) : l.map (RxCell.repeated c bulk) = l := by
  refine (List.map_congr_left fun y _ => ?_).trans (List.map_id l)
  rw [RxCell.repeated, h]
  rfl

/-- A data cell in order is new (R302). -/
theorem Port.holds_next {o : Port} {c : Cell} {bulk : Bool} (hseq : c.seq = o.expected) (ha : o.ahead = []) (h : (c.retrans && !bulk) = false) :
    (o.holds c bulk).held = o.held ++ [{ cell := c, bulk := bulk }] ∧ (o.holds c bulk).high = some c.seq := by
  have hr : o.receive c.seq = (true, { o with high := some o.expected, nak := o.nak.filter (· != c.seq) }) := by
    unfold Port.receive
    rw [if_pos hseq, ha]
    rfl
  unfold Port.holds
  rw [hr, RxCell.repeated_none h, hseq]
  exact ⟨rfl, rfl⟩

/-- A data cell that was received before changes nothing at its port (R302). -/
theorem Port.holds_old {o : Port} {c : Cell} {bulk : Bool} (hseq : 32768 ≤ (c.seq - o.expected).toNat) (h : (c.retrans && !bulk) = false) :
    o.holds c bulk = o := by
  have hr : o.receive c.seq = (false, o) := by
    unfold Port.receive
    rw [if_neg fun heq => ?_, if_pos (.inl hseq)]
    rw [heq, BitVec.sub_self] at hseq
    exact absurd hseq (by decide)
  unfold Port.holds
  rw [hr, RxCell.repeated_none h]
  exact congrArg (fun l => { o with held := l }) (List.append_nil _)

/-- What a data cell leaves. -/
theorem State.receiveCell_receives (s : State) (d n : Nat) (c : Cell) (bulk : Bool) : ∃ u : State, LinksOnly s u ∧ OneLink s u d ∧
    u.port d n = (s.port d n).holds c bulk ∧ s.receiveCell d n c bulk = if c.retrans && !bulk then u.retried d n { cell := c, bulk := bulk } else u := by
  unfold State.receiveCell
  generalize hr : (s.port d n).receive c.seq = r
  obtain ⟨new, o⟩ := r
  dsimp only
  refine ⟨_, ?_, ?_, ?_, rfl⟩
  · split
    · rfl
    · rfl
  · intro k hk
    split
    · exact (State.modPort_one _ d n _ k hk).trans ((State.modPort_one _ d n _ k hk).trans (State.modPort_one s d n _ k hk))
    · exact (State.modPort_one _ d n _ k hk).trans (State.modPort_one s d n _ k hk)
  · unfold Port.holds
    rw [hr]
    cases new with
    | true => rw [if_pos rfl, State.port_modPort, State.port_modPort, State.port_modPort]; rfl
    | false => rw [if_neg Bool.false_ne_true, State.port_modPort, State.port_modPort]; exact congrArg (fun l => { o with held := l }) (List.append_nil _).symm

/-! ## Acknowledged cells (R302) -/

theorem Port.acked_again {o : Port} {high : BitVec 16} {naks : List (BitVec 16)} {free : List Nat} {z : SentCell} (hz : z ∈ (o.acked high naks free).sent) :
    (naks.contains z.cell.seq = true → z.again = true) ∧
      (naks.contains z.cell.seq = false → covered high z.cell.seq = false ∧ z ∈ o.sent) := by
  obtain ⟨x, hx, rfl⟩ := List.mem_map.1 hz
  obtain ⟨hx, hc⟩ := List.mem_filter.1 hx
  by_cases hn : naks.contains x.cell.seq = true
  · rw [if_pos hn]
    exact ⟨fun _ => rfl, fun h => absurd (hn.symm.trans h) Bool.true_eq_false.mp⟩
  · rw [if_neg hn]
    refine ⟨fun h => absurd h hn, fun h => ⟨?_, hx⟩⟩
    rwa [h, Bool.or_false, Bool.not_eq_true'] at hc

theorem Port.acked_kept {o : Port} {high : BitVec 16} {naks : List (BitVec 16)} {free : List Nat} {z : SentCell} (hz : z ∈ o.sent)
    (hc : covered high z.cell.seq = false) (hn : naks.contains z.cell.seq = false) : z ∈ (o.acked high naks free).sent := by
  refine List.mem_map.2 ⟨z, List.mem_filter.2 ⟨hz, by rw [hc]; rfl⟩, ?_⟩
  rw [hn]
  rfl

/-! ## A position of a cycle (R302 to R304) -/

theorem State.partCores_congr {s t : State} {p : Nat} (hp : (t.part p).cfg = (s.part p).cfg) (hc : t.clusters = s.clusters) :
    t.partCores p = s.partCores p := by
  unfold State.partCores State.partClusters
  rw [hp]
  exact List.flatMap_congr fun c _ => List.map_congr_left fun lc _ => State.lcore_congr hc c lc

/-- The progress of a record has no say in whether a run goes on. -/
theorem State.GoesOn.modProg {s u : State} {p : Nat} (h : s.GoesOn p) (hp : (u.part p).cfg = (s.part p).cfg)
    (hrun : ∀ run, (u.part p).run = some run → ∃ r, (s.part p).run = some r ∧ r.stop = run.stop)
    (hc : u.clusters = s.clusters) (hcore : ∀ n ∈ s.partCores p, (u.coreAt n).halted = (s.coreAt n).halted) (key : Nat) (f : LinkProg → LinkProg) :
    (u.modProg p key f).GoesOn p := by
  intro run hr
  have hpart : (u.modProg p key f).part p = { u.part p with run := (u.part p).run.map fun r => { r with links := smod {} key f r.links } } :=
    State.part_modPart ..
  rw [hpart] at hr
  dsimp only at hr
  obtain ⟨r, hru, rfl⟩ := Option.map_eq_some_iff.1 hr
  obtain ⟨r', hr', hstop⟩ := hrun r hru
  have hcores : (u.modProg p key f).partCores p = s.partCores p := State.partCores_congr (by rw [hpart]; exact hp) hc
  refine (h r' hr').imp (fun h => hstop.symm.trans h) fun ⟨n, hn, hne⟩ => ⟨n, hcores.symm ▸ hn, ?_⟩
  exact (congrArg Core.halted (State.coreAt_congr (s := u) (State.modPart_of (fd := .cores) _ _ _ (by decide)) n)).trans ((hcore n hn).trans hne)

section
variable (s : State) (d n k : Nat)

/-- What a cell sent again leaves of its port. -/
def Port.resends (o : Port) (x : SentCell) (et : BitVec 64) : Port :=
  let c : Cell := { x.cell with retrans := true, position := k, et := et }
  { o with retx := satAdd o.retx 1, tx := dataBytes c x.bulk k et
           sent := o.sent.map fun y => if y.cell.seq = x.cell.seq then { y with cell := c, age := 0, again := false } else y
           turn := if x.bulk then c.part.val else o.turn }

/-- What a new cell leaves of its port. -/
def Port.sends (o : Port) (x : OutCell) (et : BitVec 64) : Port :=
  let c : Cell := { x.cell with position := k, seq := o.nextSeq, et := et }
  { o with nextSeq := o.nextSeq + 1, outQ := o.outQ.erase x, sent := o.sent ++ [{ cell := c, bulk := x.bulk }]
           free := o.free.set c.part.val (o.free.getD c.part.val 0 - 1), tx := dataBytes c x.bulk k et
           turn := if x.bulk then c.part.val else o.turn }

theorem State.resend_leaves (x : SentCell) : OneLink s (s.resend d n k x) d ∧ (s.resend d n k x).port d n = (s.port d n).resends k x s.et := by
  have hone := s.modPort_one d n fun o => o.resends k x s.et
  have hport : (s.modPort d n fun o => o.resends k x s.et).port d n = (s.port d n).resends k x s.et := State.port_modPort ..
  have hr : s.resend d n k x = if x.bulk then s.modPort d n fun o => o.resends k x s.et
      else (s.modPort d n fun o => o.resends k x s.et).retryRun x.cell.part.val x.cell.tag := rfl
  rw [hr]
  generalize s.modPort d n (fun o => o.resends k x s.et) = u at hone hport ⊢
  split
  · exact ⟨hone, hport⟩
  · have hl : (u.retryRun x.cell.part.val x.cell.tag).links = u.links := State.retryRun_of (fd := .links) _ _ _ (by decide)
    exact ⟨fun j hj => (congrArg (sget {} · j) hl).trans (hone j hj), (State.port_congr hl d n).trans hport⟩

theorem State.sendNew_leaves {x : OutCell} (h : s.GoesOn x.cell.part.val) :
    (∀ fd : Fld, fd ∉ [Fld.links, .parts, .clusters] → fd.of (s.sendNew d n k x) = fd.of s) ∧ OneLink s (s.sendNew d n k x) d ∧
      OnePart s (s.sendNew d n k x) x.cell.part.val ∧ (s.sendNew d n k x).port d n = (s.port d n).sends k x s.et := by
  have hone := s.modPort_one d n fun o => o.sends k x s.et
  have hport : (s.modPort d n fun o => o.sends k x s.et).port d n = (s.port d n).sends k x s.et := State.port_modPort ..
  have hf (fd : Fld) (hfd : fd ∉ [Fld.links]) : fd.of (s.modPort d n fun o => o.sends k x s.et) = fd.of s := State.modPort_of _ _ _ _ hfd
  have hr : s.sendNew d n k x = ((s.modPort d n fun o => o.sends k x s.et).modProg x.cell.part.val (4096 * x.cell.group.val + x.recNo)
    fun g => { g with queued := g.queued - 1 }).layerEnds x.cell.part.val := rfl
  rw [hr]
  generalize s.modPort d n (fun o => o.sends k x s.et) = u at hone hport hf ⊢
  have hup := State.part_congr (hf .parts (by decide)) x.cell.part.val
  have hgo := h.modProg (u := u) (by rw [hup]) (fun run hrun => ⟨run, hup ▸ hrun, rfl⟩) (hf .clusters (by decide))
    (fun m _ => congrArg Core.halted (State.coreAt_congr (hf .cores (by decide)) m)) (4096 * x.cell.group.val + x.recNo)
    fun g => { g with queued := g.queued - 1 }
  have hm (fd : Fld) (hfd : fd ∉ [Fld.parts]) : fd.of (u.modProg x.cell.part.val (4096 * x.cell.group.val + x.recNo) fun g =>
    { g with queued := g.queued - 1 }) = fd.of u := State.modPart_of _ _ _ hfd
  have hmone : OnePart u (u.modProg x.cell.part.val (4096 * x.cell.group.val + x.recNo) fun g => { g with queued := g.queued - 1 }) x.cell.part.val :=
    u.modPart_one _ _
  generalize u.modProg x.cell.part.val _ _ = v at hgo hm hmone ⊢
  obtain ⟨hlf, hlp, -⟩ := State.layerEnds_kept hgo
  have hl : (v.layerEnds x.cell.part.val).links = u.links := (hlf .links (by decide)).trans (hm .links (by decide))
  exact ⟨fun fd hfd => (hlf fd (Fld.not_mem hfd)).trans ((hm fd (Fld.not_mem hfd)).trans (hf fd (Fld.not_mem hfd))),
    fun j hj => (congrArg (sget {} · j) hl).trans (hone j hj),
    fun j hj => (hlp j hj).trans ((hmone j hj).trans (congrArg (sget {} · j) (hf .parts (by decide)))), (State.port_congr hl d n).trans hport⟩

end

/-- A port whose position is taken. -/
def State.useAt (s : State) (d n k : Nat) : State := s.modPort d n fun x => { x with used := x.used ++ [k] }

theorem State.useAt_leaves (s : State) (d n k : Nat) : (∀ fd : Fld, fd ∉ [Fld.links] → fd.of (s.useAt d n k) = fd.of s) ∧ OneLink s (s.useAt d n k) d ∧
    (s.useAt d n k).port d n = { s.port d n with used := (s.port d n).used ++ [k] } :=
  ⟨fun _ h => State.modPort_of _ _ _ _ h, fun j hj => s.modPort_one _ _ _ j hj, State.port_modPort ..⟩

section
variable {s : State} {ld : LDie} {port : Fin 3} {k : Nat} (hat : s.atPosition ld.val port.val k = true)
include hat

theorem exec_linkCellSend_idle (hp : (s.port ld.val port.val).pick k s.now s.guardG = none) : exec (.linkCellSend ld port k) s =
    .next ((s.useAt ld.val port.val k).modPort ld.val port.val fun x => { x with tx := cellBytes 0x14 0 k 0xFF 0 0 0 0 s.et 0 (zeros 256) }) := by
  refine congrArg Host.Outcome.next ((if_pos hat).trans ?_)
  unfold State.sendAt
  extract_lets o u
  rw [show o.pick k u.now u.guardG = none from hp]
  rfl

theorem exec_linkCellSend_again {y : SentCell} (hp : (s.port ld.val port.val).pick k s.now s.guardG = some (.again y)) :
    exec (.linkCellSend ld port k) s = .next ((s.useAt ld.val port.val k).resend ld.val port.val k y) := by
  refine congrArg Host.Outcome.next ((if_pos hat).trans ?_)
  unfold State.sendAt
  extract_lets o u
  rw [show o.pick k u.now u.guardG = some (.again y) from hp]
  rfl

theorem exec_linkCellSend_new {x : OutCell} (hp : (s.port ld.val port.val).pick k s.now s.guardG = some (.new x)) :
    exec (.linkCellSend ld port k) s = .next ((s.useAt ld.val port.val k).sendNew ld.val port.val k x) := by
  refine congrArg Host.Outcome.next ((if_pos hat).trans ?_)
  unfold State.sendAt
  extract_lets o u
  rw [show o.pick k u.now u.guardG = some (.new x) from hp]
  rfl

end

/-- A scheduled cell that was sent again marks the run that owns it (R325). -/
theorem State.receiveCell_marks (s : State) (d n : Nat) {cell : Cell} (hret : cell.retrans = true) :
    OneLink s (s.receiveCell d n cell false) d ∧ ∀ p run r, p < 16 → (s.part p).run = some run → (s.part p).req? run.req = some r → r.tag = cell.tag →
      (∃ g ∈ (s.part p).groups, g.2.takes (s.port d n) p d n { cell := cell, bulk := false } = true) →
      ((s.receiveCell d n cell false).part p).run = some run.retried := by
  obtain ⟨u, hu, hone, hport, heq⟩ := s.receiveCell_receives d n cell false
  rw [heq, hret, if_pos (show (true && !false) = true from rfl)]
  have huf (fd : Fld) (h : fd ∉ [Fld.links]) : fd.of u = fd.of s := Fld.of_upd (L := [.links]) hu h
  have hl : (u.retried d n { cell := cell, bulk := false }).links = u.links := State.retried_of (fd := .links) _ _ _ _ (by decide)
  refine ⟨fun j hj => by rw [hl]; exact hone j hj, ?_⟩
  intro p run r hp hrun hr htag hg
  obtain ⟨g, hg, ht⟩ := hg
  have hpart := State.part_congr (huf .parts (by decide)) p
  rw [← hpart] at hrun hr hg
  refine State.retried_marks hp hrun hr htag ⟨g, hg, ?_⟩
  rw [Group.takes_congr ((congrArg Port.owned hport).trans (Port.receive_owned ..))]
  exact ht

/-- Settles O45: a data cell received, acknowledged, timed out and sent, each by what it leaves of its port. -/
theorem linkCells : Obligations.LinkCells := by
  unfold Obligations.LinkCells
  intro ld port cell high seq naks free k x y s hup o
  have hS : exec (.dataS ld port cell) s = .next (s.receiveCell ld.val port.val cell false) := congrArg Host.Outcome.next (if_pos hup)
  have hB : exec (.dataB ld port cell) s = .next (s.receiveCell ld.val port.val cell true) := congrArg Host.Outcome.next (if_pos hup)
  have hfirst {bulk : Bool} (h : (cell.retrans && !bulk) = false) : LinksOnly s (s.receiveCell ld.val port.val cell bulk) ∧
      OneLink s (s.receiveCell ld.val port.val cell bulk) ld.val ∧ (s.receiveCell ld.val port.val cell bulk).port ld.val port.val = o.holds cell bulk := by
    obtain ⟨u, hu, hone, hport, heq⟩ := s.receiveCell_receives ld.val port.val cell bulk
    rw [heq, h]
    exact ⟨hu, hone, hport⟩
  have hbulk : (cell.retrans && !true) = false := Bool.and_false _
  refine ⟨fun hseq ha hret => ?_, fun hseq => ⟨fun hret => ?_, ?_⟩, fun hret => ?_, ?_, ?_, fun hat => ⟨fun hp => ?_, fun hp => ?_, fun hp hgo => ?_⟩⟩
  · have hsched : (cell.retrans && !false) = false := by rw [hret]; rfl
    obtain ⟨h1, h2, h3⟩ := hfirst hsched
    obtain ⟨h1', h2', h3'⟩ := hfirst hbulk
    refine ⟨⟨_, hS, h1, h2, ?_⟩, _, hB, h1', h2', ?_⟩
    · rw [h3]
      exact Port.holds_next hseq ha hsched
    · rw [h3']
      exact Port.holds_next hseq ha hbulk
  · have hsched : (cell.retrans && !false) = false := by rw [hret]; rfl
    obtain ⟨h1, h2, h3⟩ := hfirst hsched
    exact ⟨_, hS, h1, h2, h3.trans (Port.holds_old hseq hsched)⟩
  · obtain ⟨h1, h2, h3⟩ := hfirst hbulk
    exact ⟨_, hB, h1, h2, h3.trans (Port.holds_old hseq hbulk)⟩
  · refine ⟨_, hS, State.eq_patch [.links, .parts] fun fd h => State.receiveCell_of _ _ _ _ _ (Fld.not_mem h), ?_⟩
    exact s.receiveCell_marks ld.val port.val hret
  · refine ⟨_, congrArg Host.Outcome.next (if_pos hup), rfl, fun j hj => s.modPort_one _ _ _ j hj, ?_⟩
    rw [State.port_modPort]
    exact ⟨rfl, fun z hz => Port.acked_again hz, fun z hz hc hn => Port.acked_kept hz hc hn⟩
  · refine ⟨_, congrArg Host.Outcome.next (if_pos hup), rfl, fun j hj => s.modPort_one _ _ _ j hj, ?_⟩
    rw [State.port_modPort]
    refine ⟨rfl, List.length_map _, fun z hz hseq hage => ?_⟩
    obtain ⟨w, hw, rfl⟩ := List.mem_map.1 hz
    by_cases hdue : w.cell.seq = seq ∧ 4 ≤ w.age
    · rw [if_pos hdue]
    · rw [if_neg hdue] at hseq hage
      exact absurd ⟨hseq, hage⟩ hdue
  · refine ⟨_, exec_linkCellSend_idle hat hp, ?_⟩
    obtain ⟨hf, hone, hport⟩ := s.useAt_leaves ld.val port.val k
    generalize s.useAt ld.val port.val k = u at hf hone hport ⊢
    refine ⟨State.eq_patch [.links] fun fd h => (State.modPort_of _ _ _ _ h).trans (hf fd h), fun j hj => (u.modPort_one _ _ _ j hj).trans (hone j hj), ?_⟩
    rw [State.port_modPort, hport]
  · refine ⟨_, exec_linkCellSend_again hat hp, ?_⟩
    obtain ⟨hf, hone, hport⟩ := s.useAt_leaves ld.val port.val k
    generalize s.useAt ld.val port.val k = u at hf hone hport ⊢
    obtain ⟨h1, h2⟩ := u.resend_leaves ld.val port.val k y
    have het : u.et = s.et := hf .et (by decide)
    refine ⟨State.eq_patch [.links, .parts] fun fd h => (State.resend_of _ _ _ _ _ (Fld.not_mem h)).trans (hf fd (Fld.not_mem h)),
      fun j hj => (h1 j hj).trans (hone j hj), ?_⟩
    rw [h2, hport, het]
    refine ⟨rfl, rfl, rfl, fun z hz hseq => ?_⟩
    obtain ⟨w, hw, rfl⟩ := List.mem_map.1 hz
    by_cases hsame : w.cell.seq = y.cell.seq
    · rw [if_pos hsame]
    · rw [if_neg hsame] at hseq
      exact absurd hseq hsame
  · refine ⟨_, exec_linkCellSend_new hat hp, ?_⟩
    obtain ⟨hf, hone, hport⟩ := s.useAt_leaves ld.val port.val k
    generalize s.useAt ld.val port.val k = u at hf hone hport ⊢
    have hpu := State.part_congr (hf .parts (by decide)) x.cell.part.val
    have hcores : u.partCores x.cell.part.val = s.partCores x.cell.part.val := State.partCores_congr (by rw [hpu]) (hf .clusters (by decide))
    have hgo' : u.GoesOn x.cell.part.val := fun run hrun => (hgo run (hpu ▸ hrun)).imp id fun ⟨m, hm, hne⟩ =>
      ⟨m, hcores.symm ▸ hm, (congrArg Core.halted (State.coreAt_congr (hf .cores (by decide)) m)).trans hne⟩
    obtain ⟨h1, h2, h3, h4⟩ := u.sendNew_leaves ld.val port.val k hgo'
    have het : u.et = s.et := hf .et (by decide)
    refine ⟨State.eq_patch [.links, .parts, .clusters] fun fd h => (h1 fd h).trans (hf fd (Fld.not_mem h)),
      fun j hj => (h2 j hj).trans (hone j hj), fun j hj => (h3 j hj).trans (congrArg (sget {} · j) (hf .parts (by decide))), ?_⟩
    rw [h4, hport, het]
    exact ⟨rfl, rfl, rfl, rfl⟩

end Sys2Proof.Machine
end

section
/-!
PROOFS of the statement about link records (spec/12_links_collectives_time.md R301, R303, R313 to R318): a local line read, a held cell that
goes on, and JOIN.
-/

namespace Sys2Proof.Machine

open Sys2Proof

/-! ## The progress of a record -/

/-- A partition whose run differs in the progress of its records alone: that of one record by `h`. -/
structure Moves (s : State) (p : Nat) (run : Run) (key : Nat) (h : LinkProg → LinkProg) (t : State) : Prop where
  one : OnePart s t p
  part : ∃ L, t.part p = { s.part p with run := some { run with links := L } } ∧ sget {} L key = h (sget {} run.links key)

section
variable {s t u : State} {p key : Nat} {run : Run} {h : LinkProg → LinkProg}

theorem Moves.refl (hrun : (s.part p).run = some run) : Moves s p run key id s := ⟨fun _ _ => rfl, run.links, by rw [← hrun], rfl⟩

theorem Moves.of_parts (hm : Moves s p run key h t) (hu : u.parts = t.parts) : Moves s p run key h u := by
  obtain ⟨hone, L, hL, hkey⟩ := hm
  exact ⟨fun k hk => (congrArg (sget {} · k) hu).trans (hone k hk), L, (State.part_congr hu p).trans hL, hkey⟩

theorem Moves.modProg (hm : Moves s p run key h t) (f : LinkProg → LinkProg) : Moves s p run key (f ∘ h) (t.modProg p key f) := by
  obtain ⟨hone, L, hL, hkey⟩ := hm
  refine ⟨fun k hk => (t.modPart_one p _ k hk).trans (hone k hk), smod {} key f L, ?_, ?_⟩
  · rw [State.modProg, State.part_modPart, hL]
    rfl
  · rw [sget_smod_same, hkey]
    rfl

/-- The progress of records has no say in whether a run goes on. -/
theorem Moves.goesOn (hm : Moves s p run key h t) (hc : t.clusters = s.clusters) (hcore : ∀ n, (t.coreAt n).halted = (s.coreAt n).halted)
    (hgo : run.stop = none ∨ ∃ n ∈ s.partCores p, (s.coreAt n).halted = false) : t.GoesOn p := by
  obtain ⟨-, L, hL, -⟩ := hm
  intro run' hrun
  rw [hL] at hrun
  obtain rfl := Option.some.inj hrun
  have hcores : t.partCores p = s.partCores p := State.partCores_congr (by rw [hL]) hc
  exact hgo.imp id fun ⟨n, hn, hne⟩ => ⟨n, hcores.symm ▸ hn, (hcore n).trans hne⟩

end

/-! ## Contexts (R322) -/

theorem State.ctx_congr {s t : State} (h : t.links = s.links) (d c : Nat) : t.ctx d c = s.ctx d c := by
  rw [State.ctx, State.ctx, State.link, State.link, h]

theorem State.port_modCtx (s : State) (d c : Nat) (f : Context → Context) (d' p : Nat) : (s.modCtx d c f).port d' p = s.port d' p := by
  unfold State.port State.modCtx
  by_cases h : d' = d
  · subst h
    rw [State.link_modLink]
  · rw [State.link_modLink_ne _ _ _ _ h]

theorem State.ctx_modPort (s : State) (d p : Nat) (f : Port → Port) (d' c : Nat) : (s.modPort d p f).ctx d' c = s.ctx d' c := by
  unfold State.ctx State.modPort
  by_cases h : d' = d
  · subst h
    rw [State.link_modLink]
  · rw [State.link_modLink_ne _ _ _ _ h]

section
variable (s : State) (p : Nat) (r : LinkRec) (n : Nat)

theorem State.contextStart_starts : ((s.contextStart p r n).ctx r.die ((s.part p).context r)).busy = true ∧
    ∀ d k, (s.contextStart p r n).port d k = s.port d k := by
  unfold State.contextStart
  extract_lets c u
  have hc : (u.ctx r.die c).busy = true := by
    dsimp only [u]
    rw [State.ctx_modCtx]
  have hp (d k : Nat) : u.port d k = s.port d k := State.port_modCtx ..
  clear_value u
  split
  · exact ⟨hc, hp⟩
  · exact ⟨hc, hp⟩

theorem State.contextDone_ends : ((s.contextDone p r n).ctx r.die ((s.part p).context r)).busy = false ∧
    ∀ d k, (s.contextDone p r n).port d k = s.port d k := by
  unfold State.contextDone
  extract_lets c u
  have hc : (u.ctx r.die c).busy = false := by
    dsimp only [u]
    rw [State.ctx_modCtx]
  have hp (d k : Nat) : u.port d k = s.port d k := State.port_modCtx ..
  clear_value u
  split
  · exact ⟨hc, hp⟩
  · exact ⟨hc, hp⟩

end

/-! ## Cells handed out and in (R314) -/

section
variable (s : State) (p g i : Nat) (r : LinkRec) (n : Nat) (payload : Bytes)

/-- A cell handed to a port waits there last, and touches nothing else of a link. -/
theorem State.handOut_leaves (run : Run) : ∃ x, ((s.handOut p g i run r n payload).port r.die r.outPort).outQ = (s.port r.die r.outPort).outQ ++ [x] ∧
    (∀ d k, ((s.handOut p g i run r n payload).port d k).held = (s.port d k).held) ∧ ∀ d c, (s.handOut p g i run r n payload).ctx d c = s.ctx d c := by
  unfold State.handOut
  extract_lets tag c x
  have hl (key : Nat) (u : State) : (u.modProg p key fun k => { k with queued := k.queued + 1 }).links = u.links :=
    State.modProg_of (fd := .links) _ _ _ _ (by decide)
  refine ⟨x, ?_, fun d k => ?_, fun d c => ?_⟩
  · rw [State.port_congr (hl _ _), State.port_modPort]
  · rw [State.port_congr (hl _ _)]
    exact State.port_modPort_rel (R := fun o o' => o'.held = o.held) (fun _ => rfl) (g := fun o => { o with outQ := o.outQ ++ [x] }) (fun _ => rfl) s r.die r.outPort d k
  · rw [State.ctx_congr (hl _ _)]
    exact State.ctx_modPort ..

/-- The lines of a cell on their way into a core (R57). -/
def LinkRec.lines (r : LinkRec) (p g i n now : Nat) (payload : Bytes) : List ChanLine :=
  (List.range 4).map fun j =>
    { eligible := now, chan := 64 + r.die, addr := BitVec.ofNat 18 (r.spadOf n j), data := slice payload (64 * j) 64
      line := .link (Fin.ofNat 16 p) (Fin.ofNat 8 g) i n j }

theorem State.handIn_leaves : OneCore s (s.handIn p g i r n payload) (s.lcore r.cluster r.core) ∧
    (s.handIn p g i r n payload).coreAt (s.lcore r.cluster r.core) = { s.coreAt (s.lcore r.cluster r.core) with
      chan := (s.coreAt (s.lcore r.cluster r.core)).chan ++ r.lines p g i n s.now payload } := by
  obtain ⟨-, hone, hcore⟩ := modCore_changes s (s.lcore r.cluster r.core) fun k => { k with chan := k.chan ++ r.lines p g i n s.now payload }
  have hc : (s.handIn p g i r n payload).cores =
      (s.modCore (s.lcore r.cluster r.core) fun k => { k with chan := k.chan ++ r.lines p g i n s.now payload }).cores :=
    State.modProg_of (fd := .cores) _ _ _ _ (by decide)
  exact ⟨fun k hk => (congrArg (sget {} · k) hc).trans (hone k hk), (State.coreAt_congr hc _).trans hcore⟩

theorem LinkRec.mem_lines {j : Nat} (now : Nat) (hj : j < 4) : ∃ l ∈ r.lines p g i n now payload,
    l.addr = BitVec.ofNat 18 (r.spadOf n j) ∧ l.eligible = now ∧ l.data = slice payload (64 * j) 64 :=
  ⟨_, List.mem_map.2 ⟨j, List.mem_range.2 hj, rfl⟩, rfl, rfl, rfl⟩

variable {s : State} {t : State} {run run' : Run} {h : LinkProg → LinkProg}

theorem Moves.handOut (hm : Moves s p run (4096 * g + i) h t) :
    Moves s p run (4096 * g + i) ((fun k => { k with queued := k.queued + 1 }) ∘ h) (t.handOut p g i run' r n payload) :=
  (hm.of_parts (State.modPort_of (fd := .parts) _ _ _ _ (by decide))).modProg _

theorem Moves.handIn (hm : Moves s p run (4096 * g + i) h t) :
    Moves s p run (4096 * g + i) ((fun k => { k with writing := k.writing + 4 }) ∘ h) (t.handIn p g i r n payload) :=
  (hm.of_parts (State.modCore_of (fd := .parts) _ _ _ (by decide))).modProg _

end

theorem State.linkRec_run {s : State} {p g i : Nat} {run : Run} {grp : Group} {r : LinkRec} {x : LinkProg} (h : s.linkRec p g i = some (run, grp, r, x)) :
    (s.part p).run = some run ∧ sget {} run.links (4096 * g + i) = x := by
  unfold State.linkRec at h
  obtain ⟨run', hrun, h⟩ := Option.bind_eq_some_iff.1 h
  obtain ⟨grp', -, h⟩ := Option.bind_eq_some_iff.1 h
  obtain ⟨r', -, h⟩ := Option.map_eq_some_iff.1 h
  rw [Prod.mk.injEq, Prod.mk.injEq, Prod.mk.injEq] at h
  obtain ⟨rfl, -, -, hx⟩ := h
  exact ⟨hrun, hx⟩

/-! ## A local line read (R57, R314) -/

section
variable (s : State) (c lc d : Nat)

/-- A line of a link channel counts at its cluster and at its core. -/
theorem State.linkLineIn_counts : (∀ fd : Fld, fd ∉ [Fld.cores, .clusters] → fd.of (s.linkLineIn c lc d) = fd.of s) ∧
    OneCore s (s.linkLineIn c lc d) (s.lcore c lc) ∧ OneCluster s (s.linkLineIn c lc d) c ∧
    (s.linkLineIn c lc d).coreAt (s.lcore c lc) = (s.coreAt (s.lcore c lc)).lineIn s.tick ∧
    ∀ k l, (s.linkLineIn c lc d).lcore k l = s.lcore k l := by
  unfold State.linkLineIn
  generalize hf : (fun k : Cluster => { k with linkUse := smod (0, 0) d (fun u => (s.tick, if u.1 = s.tick then u.2 + 1 else 1)) k.linkUse }) = f
  have hphys (k : Cluster) (l : Nat) : (f k).phys l = k.phys l := by rw [← hf]; rfl
  obtain ⟨-, hone, -⟩ := modCluster_changes s c f
  obtain ⟨-, hcore, hat⟩ := modCore_changes (s.modCluster c f) (s.lcore c lc) (·.lineIn s.tick)
  refine ⟨fun fd h => (State.modCore_of _ _ _ (Fld.not_mem h)).trans (State.modCluster_of _ _ _ (Fld.not_mem h)), fun k hk => ?_, fun k hk => ?_, ?_, fun k l => ?_⟩
  · exact (hcore k hk).trans (congrArg (sget {} · k) (State.modCluster_of (fd := .cores) s c f (by decide)))
  · exact (congrArg (sget {} · k) (State.modCore_of (fd := .clusters) _ _ _ (by decide))).trans (hone k hk)
  · rw [hat, State.coreAt_congr (State.modCluster_of (fd := .cores) s c f (by decide))]
  · rw [State.lcore_congr (State.modCore_of (fd := .clusters) _ _ _ (by decide)), State.lcore, State.lcore]
    by_cases hk : k = c
    · subst hk
      rw [State.cluster_modCluster, hphys]
    · rw [State.cluster_modCluster_ne _ _ _ _ hk]

end

theorem Core.corrected_zero (k : Core) : k.corrected 0 = k := by rw [Core.corrected, satAdd_zero]

section
variable {s : State} {p g i : Nat} {run : Run} {r : LinkRec} {x : LinkProg}

/-- The lines of a record's cell once one more is read. -/
def State.readOn (s : State) (r : LinkRec) (x : LinkProg) : List (Nat × Bytes) :=
  x.lines ++ [(x.lines.length, s.spadRead (s.lcore r.cluster r.core) (r.spadOf x.cell x.lines.length / 64 * 64) 64)]

/-- What a line read leaves, before its error counts. -/
structure LineRead (s : State) (p g i : Nat) (run : Run) (r : LinkRec) (x : LinkProg) (t : State) : Prop where
  frame : ∀ fd : Fld, fd ∉ [Fld.cores, .parts, .links, .leases, .clusters] → fd.of t = fd.of s
  core : OneCore s t (s.lcore r.cluster r.core)
  cluster : OneCluster s t r.cluster
  at' : t.coreAt (s.lcore r.cluster r.core) = { (s.coreAt (s.lcore r.cluster r.core)).lineIn s.tick with port3 := some s.now }
  going : r.op ≠ 1 ∨ x.lines.length ≠ 3 → Moves s p run (4096 * g + i) (fun k => { k with lines := s.readOn r x }) t
  sent : r.op = 1 → x.lines.length = 3 → Moves s p run (4096 * g + i) (fun k => { k with cell := k.cell + 1, lines := [], queued := k.queued + 1 }) t ∧
    (t.port r.die r.outPort).outQ.length = (s.port r.die r.outPort).outQ.length + 1
  context : r.adds = true → x.lines = [] → (t.ctx r.die ((s.part p).context r)).busy = true

theorem State.lineRead_reads (hrun : (s.part p).run = some run) : LineRead s p g i run r x (s.lineRead p g i run r x .clean) := by
  unfold State.lineRead
  extract_lets n a data lines u v w t
  have hlen : lines.length = x.lines.length + 1 := List.length_append
  have hlines : lines = s.readOn r x := rfl
  clear_value lines data
  have ht : t = w.modCore n (·.corrected 0) := rfl
  rw [if_pos (show Ecc.clean.lines.isEmpty = true from rfl)]
  clear_value t
  -- the line through port 3
  have hmod := modCore_changes s n fun k => { k with port3 := some s.now }
  obtain ⟨huf, hucore, hucl, huat, -⟩ := (s.modCore n fun k => { k with port3 := some s.now }).linkLineIn_counts r.cluster r.core r.die
  have hu : u = (s.modCore n fun k => { k with port3 := some s.now }).linkLineIn r.cluster r.core r.die := rfl
  have hlc : (s.modCore n fun k => { k with port3 := some s.now }).lcore r.cluster r.core = n :=
    State.lcore_congr (State.modCore_of (fd := .clusters) _ _ _ (by decide)) _ _
  rw [← hu] at huf hucore hucl huat
  rw [hlc] at hucore huat
  rw [hmod.2.2] at huat
  have hucore' : OneCore s u n := fun k hk => (hucore k hk).trans (hmod.2.1 k hk)
  have hus (fd : Fld) (h : fd ∉ [Fld.cores, .clusters]) : fd.of u = fd.of s := (huf fd h).trans (State.modCore_of _ _ _ (Fld.not_mem h))
  have hucl' : OneCluster s u r.cluster := fun k hk =>
    (hucl k hk).trans (congrArg (sget {} · k) (State.modCore_of (fd := .clusters) s n _ (by decide)))
  clear_value u
  -- the context that starts
  have hv : (∀ fd : Fld, fd ∉ [Fld.leases, .links] → fd.of v = fd.of u) ∧ (∀ d k, v.port d k = u.port d k) ∧
      (r.adds = true → x.lines = [] → (v.ctx r.die ((s.part p).context r)).busy = true) := by
    dsimp only [v]
    split
    · obtain ⟨h1, h2⟩ := u.contextStart_starts p r x.cell
      rw [State.part_congr (hus .parts (by decide))] at h1
      exact ⟨fun fd h => State.contextStart_of _ _ _ _ h, h2, fun _ _ => h1⟩
    · next hne =>
      refine ⟨fun _ _ => rfl, fun _ _ => rfl, fun h h' => absurd ?_ hne⟩
      rw [h, h']
      rfl
  obtain ⟨hvf, hvport, hvctx⟩ := hv
  clear_value v
  have hvs (fd : Fld) (h : fd ∉ [Fld.cores, .clusters, .leases, .links]) : fd.of v = fd.of s := (hvf fd (Fld.not_mem h)).trans (hus fd (Fld.not_mem h))
  have hvm : Moves s p run (4096 * g + i) id v := (Moves.refl hrun).of_parts (hvs .parts (by decide))
  -- the record
  have hw : (∀ fd : Fld, fd ∉ [Fld.links, .parts] → fd.of w = fd.of v) ∧ (∀ d c, w.ctx d c = v.ctx d c) ∧
      (r.op ≠ 1 ∨ x.lines.length ≠ 3 → Moves s p run (4096 * g + i) (fun k => { k with lines := lines }) w) ∧
      (r.op = 1 → x.lines.length = 3 → Moves s p run (4096 * g + i) (fun k => { k with cell := k.cell + 1, lines := [], queued := k.queued + 1 }) w ∧
        (w.port r.die r.outPort).outQ.length = (v.port r.die r.outPort).outQ.length + 1) := by
    dsimp only [w]
    split
    · next h =>
      obtain ⟨y, hy, -, hctx⟩ := v.handOut_leaves p g i r x.cell (lines.flatMap (·.2)) run
      have hl (f : LinkProg → LinkProg) (u : State) : (u.modProg p (4096 * g + i) f).links = u.links := State.modProg_of (fd := .links) _ _ _ _ (by decide)
      refine ⟨fun fd h => (State.modProg_of _ _ _ _ (Fld.not_mem h)).trans (State.handOut_of _ _ _ _ _ _ _ _ (Fld.not_mem h)), fun d c => ?_,
        fun hne => absurd h ?_, fun _ _ => ⟨(Moves.handOut p g i r x.cell _ hvm).modProg fun k => { k with cell := k.cell + 1, lines := [] }, ?_⟩⟩
      · rw [State.ctx_congr (hl _ _)]
        exact hctx d c
      · rw [hlen]
        omega
      · rw [State.port_congr (hl _ _), hy, List.length_append]
        rfl
    · next h =>
      refine ⟨fun fd h => State.modProg_of _ _ _ _ (Fld.not_mem h), fun d c => State.ctx_congr (State.modProg_of (fd := .links) _ _ _ _ (by decide)) _ _,
        fun _ => hvm.modProg fun k => { k with lines := lines }, fun h1 h2 => absurd ⟨h1, ?_⟩ h⟩
      rw [hlen, h2]
  obtain ⟨hwf, hwctx, hwgo, hwsent⟩ := hw
  clear_value w
  have hlast := modCore_changes w n (·.corrected 0)
  rw [← ht] at hlast
  have htf (fd : Fld) (h : fd ∉ [Fld.cores]) : fd.of t = fd.of w := ht ▸ State.modCore_of w n _ h
  have hcores : w.cores = u.cores := (hwf .cores (by decide)).trans (hvf .cores (by decide))
  refine ⟨fun fd h => (htf fd (Fld.not_mem h)).trans ((hwf fd (Fld.not_mem h)).trans (hvs fd (Fld.not_mem h))), fun k hk => ?_, fun k hk => ?_, ?_,
    fun h => hlines ▸ (hwgo h).of_parts (htf .parts (by decide)), fun h h' => ?_, fun h h' => ?_⟩
  · exact (hlast.2.1 k hk).trans ((congrArg (sget {} · k) hcores).trans (hucore' k hk))
  · exact (congrArg (sget {} · k) ((htf .clusters (by decide)).trans ((hwf .clusters (by decide)).trans (hvf .clusters (by decide))))).trans (hucl' k hk)
  · rw [hlast.2.2, Core.corrected_zero, State.coreAt_congr hcores, huat]
    rfl
  · obtain ⟨h1, h2⟩ := hwsent h h'
    refine ⟨h1.of_parts (htf .parts (by decide)), ?_⟩
    rw [State.port_congr (htf .links (by decide)), h2, hvport, State.port_congr (hus .links (by decide))]
  · rw [State.ctx_congr (htf .links (by decide)), hwctx]
    exact hvctx h h'

end

/-! ## A held cell that goes on (R314) -/

section
variable {s : State} {p g i : Nat} {run : Run} {r : LinkRec} {x : LinkProg} {c : RxCell}

/-- What a record leaves that lets a held cell go on. -/
structure Released (s : State) (p g i : Nat) (run : Run) (r : LinkRec) (x : LinkProg) (c : RxCell) (t : State) : Prop where
  frame : ∀ fd : Fld, fd ∉ [Fld.cores, .parts, .links, .leases, .clusters] → fd.of t = fd.of s
  core : OneCore s t (s.lcore r.cluster r.core)
  part : OnePart s t p
  held : (t.port r.die r.inPort).held = (s.port r.die r.inPort).held.erase c
  run : ∃ u, (t.part p).run = some u ∧ (sget {} u.links (4096 * g + i)).cell = (sget {} run.links (4096 * g + i)).cell + 1 ∧
    (sget {} u.links (4096 * g + i)).lines = []
  receives : r.op = 2 → ∀ j, j < 4 → ∃ l ∈ (t.coreAt (s.lcore r.cluster r.core)).chan,
    l.addr = BitVec.ofNat 18 (r.spadOf x.cell j) ∧ l.eligible = s.now ∧ l.data = slice (padTo 256 c.cell.payload) (64 * j) 64
  passes : r.op = 3 → t.cores = s.cores
  context : r.adds = true → (t.ctx r.die ((s.part p).context r)).busy = false

theorem State.releaseCell_releases (hrun : (s.part p).run = some run)
    (hgo : run.stop = none ∨ ∃ n ∈ s.partCores p, (s.coreAt n).halted = false) : Released s p g i run r x c (s.releaseCell p g i run r x c) := by
  unfold State.releaseCell
  extract_lets payload a b d e
  have hpay : r.op = 2 → payload = padTo 256 c.cell.payload := fun h => if_neg (by rw [LinkRec.adds, h]; decide)
  clear_value payload
  -- the cell is held no more
  have haf (fd : Fld) (h : fd ∉ [Fld.links]) : fd.of a = fd.of s := State.modPort_of _ _ _ _ h
  have haheld : (a.port r.die r.inPort).held = (s.port r.die r.inPort).held.erase c := by
    dsimp only [a]
    rw [State.port_modPort]
  have ham : Moves s p run (4096 * g + i) id a := (Moves.refl hrun).of_parts (haf .parts (by decide))
  have halc : a.lcore r.cluster r.core = s.lcore r.cluster r.core := State.lcore_congr (haf .clusters (by decide)) _ _
  clear_value a
  -- into the core
  have hb : (∀ fd : Fld, fd ∉ [Fld.cores, .parts] → fd.of b = fd.of a) ∧ OneCore s b (s.lcore r.cluster r.core) ∧
      (∃ h : LinkProg → LinkProg, (∀ k, (h k).cell = k.cell) ∧ Moves s p run (4096 * g + i) h b) ∧ (∀ n, (b.coreAt n).halted = (s.coreAt n).halted) ∧
      (r.op = 2 → ∀ l ∈ r.lines p g i x.cell s.now payload, l ∈ (b.coreAt (s.lcore r.cluster r.core)).chan) ∧ (r.op = 3 → b.cores = s.cores) := by
    dsimp only [b]
    split
    · next hin =>
      obtain ⟨h1, h2⟩ := a.handIn_leaves p g i r x.cell payload
      rw [halc] at h1 h2
      have hac : a.cores = s.cores := haf .cores (by decide)
      have hone : OneCore s (a.handIn p g i r x.cell payload) (s.lcore r.cluster r.core) := fun k hk => (h1 k hk).trans (by rw [hac])
      refine ⟨fun fd h => State.handIn_of _ _ _ _ _ _ _ (Fld.not_mem h), hone, ⟨(fun k : LinkProg => { k with writing := k.writing + 4 }) ∘ id, fun _ => rfl, Moves.handIn p g i r x.cell _ ham⟩, fun n => ?_,
        fun _ l hl => ?_, fun h3 => ?_⟩
      · by_cases hn : n = s.lcore r.cluster r.core
        · rw [hn, h2, State.coreAt_congr hac]
        · exact congrArg Core.halted (hone n hn)
      · rw [h2]
        rw [show a.now = s.now from haf .now (by decide)]
        exact List.mem_append_right _ hl
      · omega
    · next hin =>
      exact ⟨fun _ _ => rfl, fun k _ => congrArg (sget {} · k) (haf .cores (by decide)), ⟨_, fun _ => rfl, ham⟩,
        fun n => congrArg Core.halted (State.coreAt_congr (haf .cores (by decide)) n), fun h => absurd (.inl h) hin, fun _ => haf .cores (by decide)⟩
  obtain ⟨hbf, hbone, ⟨hbh, hbcell, hbm⟩, hbhalt, hbchan, hbthree⟩ := hb
  clear_value b
  -- out again
  have hd : (∀ fd : Fld, fd ∉ [Fld.links, .parts] → fd.of d = fd.of b) ∧ (∀ n k, (d.port n k).held = (b.port n k).held) ∧
      ∃ h : LinkProg → LinkProg, (∀ k, (h k).cell = k.cell) ∧ Moves s p run (4096 * g + i) h d := by
    dsimp only [d]
    split
    · obtain ⟨y, -, h2, -⟩ := b.handOut_leaves p g i r x.cell payload run
      exact ⟨fun fd h => State.handOut_of _ _ _ _ _ _ _ _ (Fld.not_mem h), h2,
        (fun k : LinkProg => { k with queued := k.queued + 1 }) ∘ hbh, fun k => hbcell k, Moves.handOut p g i r x.cell _ hbm⟩
    · exact ⟨fun _ _ => rfl, fun _ _ => rfl, hbh, hbcell, hbm⟩
  obtain ⟨hdf, hdheld, hdh, hdcell, hdm⟩ := hd
  clear_value d
  -- the context is done with it
  have he : (∀ fd : Fld, fd ∉ [Fld.leases, .links] → fd.of e = fd.of d) ∧ (∀ n k, e.port n k = d.port n k) ∧
      (r.adds = true → (e.ctx r.die ((s.part p).context r)).busy = false) := by
    dsimp only [e]
    split
    · obtain ⟨h1, h2⟩ := d.contextDone_ends p r x.cell
      obtain ⟨-, L, hL, -⟩ := hdm
      have hctx : (d.part p).context r = (s.part p).context r := by rw [hL]; rfl
      rw [hctx] at h1
      exact ⟨fun fd h => State.contextDone_of _ _ _ _ h, h2, fun _ => h1⟩
    · next hne => exact ⟨fun _ _ => rfl, fun _ _ => rfl, fun h => absurd h hne⟩
  obtain ⟨hef, heport, hectx⟩ := he
  have hem := hdm.of_parts (hef .parts (by decide))
  clear_value e
  -- the record goes on, and its layer may end
  have hlast := hem.modProg fun k => { k with cell := k.cell + 1, lines := [] }
  have hlf (fd : Fld) (h : fd ∉ [Fld.parts]) : fd.of (e.modProg p (4096 * g + i) fun k => { k with cell := k.cell + 1, lines := [] }) = fd.of e :=
    State.modProg_of _ _ _ _ h
  generalize (e.modProg p (4096 * g + i) fun k => { k with cell := k.cell + 1, lines := [] }) = v at hlast hlf ⊢
  have hvcores : v.cores = b.cores := (hlf .cores (by decide)).trans ((hef .cores (by decide)).trans (hdf .cores (by decide)))
  have hvcl : v.clusters = s.clusters := (hlf .clusters (by decide)).trans ((hef .clusters (by decide)).trans ((hdf .clusters (by decide)).trans
    ((hbf .clusters (by decide)).trans (haf .clusters (by decide)))))
  have hgoes := hlast.goesOn hvcl (fun n => (congrArg Core.halted (State.coreAt_congr hvcores n)).trans (hbhalt n)) hgo
  obtain ⟨htf, htp, htrun⟩ := State.layerEnds_kept hgoes
  generalize v.layerEnds p = t at htf htp htrun ⊢
  have htcores : t.cores = b.cores := (htf .cores (by decide)).trans hvcores
  have htlinks : t.links = e.links := (htf .links (by decide)).trans (hlf .links (by decide))
  obtain ⟨hone, L, hL, hkey⟩ := hlast
  refine ⟨fun fd h => ?_, fun k hk => (congrArg (sget {} · k) htcores).trans (hbone k hk), fun k hk => (htp k hk).trans (hone k hk), ?_, ?_,
    fun h j hj => ?_, fun h => htcores.trans (hbthree h), fun h => ?_⟩
  · exact (htf fd (Fld.not_mem h)).trans ((hlf fd (Fld.not_mem h)).trans ((hef fd (Fld.not_mem h)).trans ((hdf fd (Fld.not_mem h)).trans
      ((hbf fd (Fld.not_mem h)).trans (haf fd (Fld.not_mem h))))))
  · rw [State.port_congr htlinks, heport, hdheld, State.port_congr (hbf .links (by decide)), haheld]
  · obtain ⟨u, hu, hul⟩ := htrun { run with links := L } (by rw [hL])
    refine ⟨u, hu, ?_, ?_⟩
    · rw [hul]
      dsimp only
      rw [hkey]
      exact congrArg (· + 1) (hdcell _)
    · rw [hul]
      dsimp only
      rw [hkey]
      rfl
  · obtain ⟨l, hl, hl'⟩ := r.mem_lines p g i x.cell payload s.now hj
    rw [hpay h] at hl'
    exact ⟨l, (State.coreAt_congr htcores _).symm ▸ hbchan h l hl, hl'⟩
  · rw [State.ctx_congr htlinks]
    exact hectx h

end

/-! ## JOIN (R303, R318) -/

theorem State.each_append {α : Type} (s : State) (l m : List α) (f : State → α → State) : s.each (l ++ m) f = (s.each l f).each m f := by
  induction l generalizing s with
  | nil => rfl
  | cons a r ih => exact ih _

theorem State.each_flatMap {α β : Type} (s : State) (l : List α) (h : α → List β) (f : State → β → State) :
    s.each (l.flatMap h) f = s.each l fun t a => t.each (h a) f := by
  induction l generalizing s with
  | nil => rfl
  | cons a r ih =>
    rw [List.flatMap_cons]
    exact (State.each_append ..).trans (ih _)

/-- Of a list in which one element alone has any work. -/
theorem State.each_single {α : Type} {l : List α} (hn : l.Nodup) {a : α} (ha : a ∈ l) {f : State → α → State} (h : ∀ b ∈ l, b ≠ a → ∀ t, f t b = t)
    (s : State) : s.each l f = f s a := by
  induction l generalizing s with
  | nil => exact absurd ha List.not_mem_nil
  | cons b r ih =>
    obtain ⟨hb, hr⟩ := List.nodup_cons.1 hn
    rcases List.mem_cons.1 ha with rfl | ha
    · exact State.each_induct (s := f s a) (l := r) (P := fun t => t = f s a) rfl fun t ht c hc =>
        (h c (List.mem_cons_of_mem _ hc) (fun he => hb (he ▸ hc)) t).trans ht
    · exact (ih hr ha (fun c hc => h c (List.mem_cons_of_mem _ hc)) (f s b)).trans
        (congrArg (f · a) (h b List.mem_cons_self (fun he => hb (he ▸ ha)) s))

section
variable {s : State} {d n p g : Nat} {grp : Group} {j : JoinCell}

theorem State.joinGroup_none (h : ∀ e, grp.entryOn d n = some e → ¬(grp.token = j.token ∧ grp.members = j.members ∧ e.partner = j.position)) :
    s.joinGroup d n p g grp j = s := by
  unfold State.joinGroup
  split
  · rfl
  · next e he =>
    refine if_neg fun hc => h e he ?_
    simpa only [Bool.and_eq_true, beq_iff_eq, and_assoc] using hc

variable {e : GroupPort} (he : grp.entryOn d n = some e) (h1 : grp.token = j.token) (h2 : grp.members = j.members) (h3 : e.partner = j.position)
include he h1 h2 h3

/-- A JOIN that matches the one group of a partition (R303, R318). -/
theorem State.joinGroup_joins (hg : (s.part p).groups = [(g, grp)]) (hup : (s.port d n).up = true) :
    let t := s.joinGroup d n p g grp j
    (∀ fd : Fld, fd ∉ [Fld.links, .parts] → fd.of t = fd.of s) ∧ OneLink s t d ∧ OnePart s t p ∧ sget [] (t.port d n).owned p = s.agree d n p j ∧
      (t.part p).groups = [(g, grp.hears d n j (j.fits && grp.ratesFit d n (s.agree d n p j).length))] ∧
      (e.joined = true → 1 ≤ e.heard → (Fin.ofNat 16 p, Fin.ofNat 8 g) ∈ (t.port d n).joins) ∧
      (e.joined = false → (t.port d n).joins = (s.port d n).joins) := by
  intro t
  have ht : t = s.joinGroup d n p g grp j := rfl
  clear_value t
  obtain ⟨hd, hn⟩ : e.die = d ∧ e.port = n := by simpa using List.find?_some he
  unfold State.joinGroup at ht
  rw [he] at ht
  dsimp only at ht
  rw [if_pos (by simp [h1, h2, h3])] at ht
  generalize s.agree d n p j = l at ht ⊢
  have ha := s.modPort_one d n fun o => { o with owned := sput [] p l o.owned }
  have hport : (s.modPort d n fun o => { o with owned := sput [] p l o.owned }).port d n = { s.port d n with owned := sput [] p l (s.port d n).owned } :=
    State.port_modPort ..
  have haf (fd : Fld) (h : fd ∉ [Fld.links]) : fd.of (s.modPort d n fun o => { o with owned := sput [] p l o.owned }) = fd.of s := State.modPort_of _ _ _ _ h
  generalize s.modPort d n (fun o => { o with owned := sput [] p l o.owned }) = a at ht ha hport haf
  generalize hq : grp.hears d n j (j.fits && grp.ratesFit d n l.length) = heard at ht ⊢
  have hbf (fd : Fld) (h : fd ∉ [Fld.parts]) : fd.of (a.modPart p fun q => { q with groups := sins g heard q.groups }) = fd.of a := State.modPart_of _ _ _ h
  have hbone := a.modPart_one p fun q => { q with groups := sins g heard q.groups }
  have hbg : ((a.modPart p fun q => { q with groups := sins g heard q.groups }).part p).groups = [(g, heard)] := by
    rw [State.part_modPart, State.part_congr (haf .parts (by decide)), hg]
    simp [sins]
  generalize (a.modPart p fun q => { q with groups := sins g heard q.groups }) = b at ht hbf hbone hbg
  have hbs (fd : Fld) (h : fd ∉ [Fld.links, .parts]) : fd.of b = fd.of s := (hbf fd (Fld.not_mem h)).trans (haf fd (Fld.not_mem h))
  have hbport : b.port d n = _ := (State.port_congr (hbf .links (by decide)) d n).trans hport
  have hblink : OneLink s b d := fun k hk => (congrArg (sget {} · k) (hbf .links (by decide))).trans (ha k hk)
  have hbpart : OnePart s b p := fun k hk => (hbone k hk).trans (congrArg (sget {} · k) (haf .parts (by decide)))
  split at ht
  · have hask := b.askJoin_asksMore p g { grp with ports := [e] } d n
    have hone : OneLink b (b.askJoin p g { grp with ports := [e] }) d := hd ▸ b.modPort_one e.die e.port _
    have hjoin := b.askJoin_asks p g { grp with ports := [e] } (e := e) List.mem_cons_self
    rw [hd, hn] at hjoin
    have htf (fd : Fld) (h : fd ∉ [Fld.links]) : fd.of t = fd.of b := ht ▸ State.askJoin_of _ _ _ _ h
    rw [← ht] at hask hone hjoin
    obtain ⟨hrest, -⟩ := hask
    next hjh =>
    refine ⟨fun fd h => (htf fd (Fld.not_mem h)).trans (hbs fd h), fun k hk => (hone k hk).trans (hblink k hk),
      fun k hk => (congrArg (sget {} · k) (htf .parts (by decide))).trans (hbpart k hk), ?_, ?_, fun _ _ => hjoin.mem ?_, fun h => ?_⟩
    · rw [hrest, hbport]
      exact sget_sput_same ..
    · rw [State.part_congr (htf .parts (by decide)), hbg]
    · rw [hrest, hbport]
      exact hup
    · rw [h] at hjh
      cases hjh
  · next hjh =>
    subst ht
    refine ⟨hbs, hblink, hbpart, ?_, hbg, fun h h' => absurd (by rw [h, decide_eq_true h']; rfl) hjh, fun _ => ?_⟩
    · rw [hbport]
      exact sget_sput_same ..
    · rw [hbport]

end

section
variable {part : Part} {group : Fin 8} {rec : Nat} {run : Run} {grp : Group} {r : LinkRec} {x : LinkProg} {s : State}
  (hrec : s.linkRec part.val group.val rec = some (run, grp, r, x)) (hclk : s.clocked r.cluster = true)
include hrec hclk

theorem exec_linkLineRead (hdue : s.linkDue part.val group.val rec grp run r = true) (hbank : addrBank (r.spadOf x.cell x.lines.length) = s.bank3)
    (hroom : s.linkRoom r.cluster r.core r.die = true) (hword : s.wordTakes3 r.cluster r.core = false) (hforced : s.forcedRead r.cluster r.core = none)
    (hserved : s.served3 r.cluster r.core (run.cellAt r x.cell + x.lines.length) (64 + r.die) = true) (ecc : Ecc) :
    exec (.linkLineRead part group rec ecc) s = .next (s.lineRead part.val group.val rec run r x ecc) := by
  refine congrArg Host.Outcome.next ?_
  dsimp only
  rw [hrec]
  exact if_pos (by rw [hclk, hdue, hbank, hroom, hword, hforced, hserved, beq_self_eq_true]; rfl)

theorem exec_linkCellRelease (hlayer : r.layer = run.layer) (hj : grp.joined = true) (hnames : (s.part part.val).names grp run.entry = true)
    (hend : run.layerEnd = none) (hop : r.op ≠ 1) (hcell : x.cell < r.count) (hat : run.cellAt r x.cell ≤ s.now)
    (hadds : r.adds = true → x.lines.length = 4) {c : RxCell} (hin : s.incoming part.val grp run r x.cell = some c) :
    exec (.linkCellRelease part group rec) s = .next (s.releaseCell part.val group.val rec run r x c) := by
  have hlines : (!r.adds || x.lines.length == 4) = true := by
    by_cases h : r.adds = true
    · rw [hadds h, beq_self_eq_true, Bool.or_true]
    · rw [Bool.eq_false_iff.2 h]
      rfl
  refine congrArg Host.Outcome.next ?_
  rw [hrec]
  dsimp only
  rw [if_pos (by rw [hclk, hlayer, hj, hnames, hend, bne_iff_ne.2 hop, decide_eq_true hcell, decide_eq_true hat, hlines, beq_self_eq_true]; rfl), hin]

end

section
variable {ld : LDie} {port : Fin 3} {j : JoinCell} {s : State} (hup : s.portUp ld.val port.val = true)
include hup

theorem exec_join : exec (.join ld port j) s = .next (s.each (List.range 16) fun t q => t.each ((s.part q).groups.map fun g => (q, g)) fun t (q, g) =>
    t.joinGroup ld.val port.val q g.1 g.2 j) :=
  congrArg Host.Outcome.next ((if_pos hup).trans (State.each_flatMap ..))

theorem exec_join_none (h : ∀ q, q < 16 → ∀ y ∈ (s.part q).groups, ∀ e, y.2.entryOn ld.val port.val = some e →
    ¬(y.2.token = j.token ∧ y.2.members = j.members ∧ e.partner = j.position)) : exec (.join ld port j) s = .next s := by
  refine (exec_join hup).trans (congrArg Host.Outcome.next ?_)
  refine State.each_induct (P := fun t => t = s) rfl fun t ht q hq => State.each_induct (P := fun t => t = s) ht fun t ht y hy => ?_
  obtain ⟨z, hz, rfl⟩ := List.mem_map.1 hy
  exact (State.joinGroup_none (h q (List.mem_range.1 hq) z hz)).trans ht

theorem exec_join_one {p : Nat} {y : Nat × Group} (hp : p < 16) (hothers : ∀ q, q < 16 → q ≠ p → (s.part q).groups = []) (hg : (s.part p).groups = [y]) :
    exec (.join ld port j) s = .next (s.joinGroup ld.val port.val p y.1 y.2 j) := by
  refine (exec_join hup).trans (congrArg Host.Outcome.next ?_)
  refine (State.each_single List.nodup_range (List.mem_range.2 hp) (fun q hq hne t => ?_) s).trans ?_
  · rw [hothers q (List.mem_range.1 hq) hne]
    rfl
  · rw [hg]
    rfl

end

/-- Settles O46: a local line read and a held cell that goes on, by what each leaves beside the progress of its record; a JOIN that matches no group,
and one that matches the one there is. -/
theorem linkRecords : Obligations.LinkRecords := by
  unfold Obligations.LinkRecords
  intro part group rec run grp r x c ld port e j s p g n a
  refine ⟨fun hrec hclk hdue hbank hroom hword hforced hserved => ?_,
    fun hrec hclk hlayer hj hnames hend hop hcell hat hadds hin hgo => ?_, exec_join_none, fun hup hothers hg he h1 h2 h3 => ?_⟩
  · obtain ⟨hrun, hx⟩ := State.linkRec_run hrec
    obtain ⟨hf, hcore, hcl, hat, hgoing, hsent, hctx⟩ := State.lineRead_reads (r := r) (x := x) (g := g) (i := rec) hrun
    have hexec := exec_linkLineRead hrec hclk hdue hbank hroom hword hforced hserved .clean
    change exec _ s = .next (s.lineRead p g rec run r x .clean) at hexec
    generalize s.lineRead p g rec run r x .clean = t at hf hcore hcl hat hgoing hsent hctx hexec
    have hframe := State.eq_patch [.cores, .parts, .links, .leases, .clusters] hf
    by_cases hlast : r.op = 1 ∧ x.lines.length = 3
    · obtain ⟨⟨hone, L, hL, hkey⟩, hq⟩ := hsent hlast.1 hlast.2
      rw [hx] at hkey
      refine ⟨t, { run with links := L }, hexec, hframe, hcore, hone, hcl, hat, by rw [hL], ?_, hctx⟩
      intro z
      have hz : z = _ := hkey
      refine ⟨fun h => absurd hlast (by omega), fun _ _ => ⟨by rw [hz], by rw [hz], by rw [hz], hq⟩⟩
    · obtain ⟨hone, L, hL, hkey⟩ := hgoing (by omega)
      rw [hx] at hkey
      refine ⟨t, { run with links := L }, hexec, hframe, hcore, hone, hcl, hat, by rw [hL], ?_, hctx⟩
      intro z
      have hz : z = _ := hkey
      exact ⟨fun _ => ⟨by rw [hz], by rw [hz]; rfl⟩, fun h h' => absurd ⟨h, h'⟩ hlast⟩
  · obtain ⟨hrun, hx⟩ := State.linkRec_run hrec
    obtain ⟨hf, hcore, hone, hheld, ⟨u, hu, hcell', hlines⟩, hin2, hin3, hctx⟩ :=
      State.releaseCell_releases (g := g) (i := rec) (r := r) (x := x) (c := c) hrun hgo
    have hexec := exec_linkCellRelease hrec hclk hlayer hj hnames hend (by omega) hcell hat hadds hin
    rw [hx] at hcell'
    exact ⟨_, u, hexec, State.eq_patch [.cores, .parts, .links, .leases, .clusters] hf, hcore, hone, hheld, hu, hcell', hlines, hin2, hin3, hctx⟩
  · intro l
    have hpup : (s.port ld.val port.val).up = true := (Bool.and_eq_true_iff.1 hup).2
    obtain ⟨hf, hlink, hpart, howned, hgroups, hjoins, hkept⟩ := State.joinGroup_joins he h1 h2 h3 hg hpup
    refine ⟨_, exec_join_one hup part.isLt hothers hg, State.eq_patch [.links, .parts] hf, hlink, hpart, howned, hgroups, fun h h' => ?_, hkept⟩
    have hmem := hjoins h h'
    rwa [Fin.ofNat_val_eq_self, Fin.ofNat_val_eq_self] at hmem

end Sys2Proof.Machine
end

section
/-!
PROOFS of the statement about cluster states (spec/13_clocks_and_power_states.md R331, R332, R337, R344, R345, R351): the ends of entries and
exits, and readings of the thermal sensors.
-/

namespace Sys2Proof.Machine

open Sys2Proof

/-! ## What no partition's work changes of a cluster -/

/-- Whether a cluster serves, its row map, and what its Marionette's image store was being filled with. -/
def Cluster.marks (k : Cluster) : Bool × Bool × Nat × BitVec 16 × SMap (BitVec 5) × SMap (BitVec 64) :=
  (k.retired, k.resetting, k.missed, k.spareBad, k.omitXor, k.fill)

/-- The state a cluster is in, its thermal readings and whether they tripped it, and its marks. -/
def Cluster.sensed (k : Cluster) : CState × Bool × Nat × Nat × (Bool × Bool × Nat × BitVec 16 × SMap (BitVec 5) × SMap (BitVec 64)) :=
  (k.power, k.tripped, k.t0, k.t1, k.marks)

/-- Entering a state touches the cluster's transition and its background test alone. -/
theorem Cluster.enter_eq (k : Cluster) (aim : CState) : ∃ row tr, k.enter aim = { k with testRow := row, trans := tr } := by
  unfold Cluster.enter
  extract_lets c
  have hc : ∃ row, c = { k with testRow := row } := by
    simp only [c]
    split
    · exact ⟨none, rfl⟩
    · exact ⟨k.testRow, rfl⟩
  obtain ⟨row, hc⟩ := hc
  rw [hc]
  split
  · exact ⟨row, _, rfl⟩
  · exact ⟨row, _, rfl⟩
  · split
    · exact ⟨row, _, rfl⟩
    · exact ⟨row, k.trans, rfl⟩

theorem Cluster.enter_sensed (k : Cluster) (aim : CState) : (k.enter aim).sensed = k.sensed := by
  obtain ⟨row, tr, h⟩ := k.enter_eq aim
  rw [h]
  rfl

theorem Cluster.enter_zoneHeld (k : Cluster) (aim : CState) : (k.enter aim).zoneHeld = k.zoneHeld := by
  obtain ⟨row, tr, h⟩ := k.enter_eq aim
  rw [h]

theorem Cluster.wake_sensed (k : Cluster) (aim : CState) : (k.wake aim).sensed = k.sensed := by
  unfold Cluster.wake
  split
  · split
    · rfl
    · rfl
    · split
      · rfl
      · rfl
  · rfl

theorem Cluster.cycle_sensed (k : Cluster) : k.cycle.sensed = k.sensed := by
  unfold Cluster.cycle
  split
  · rfl
  · split
    · rfl
    · rfl

/-- No cluster has changed its state, its readings or its trip. -/
structure Sensed (s t : State) : Prop where
  cluster : ∀ c, (t.cluster c).sensed = (s.cluster c).sensed

namespace Sensed
variable {s t u : State}

theorem refl (s : State) : Sensed s s := ⟨fun _ => rfl⟩

theorem trans (h : Sensed s t) (h' : Sensed t u) : Sensed s u := ⟨fun c => (h'.cluster c).trans (h.cluster c)⟩

theorem of_clusters (h : t.clusters = s.clusters) : Sensed s t :=
  ⟨fun c => congrArg Cluster.sensed (State.cluster_congr h c)⟩

/-- The same from the field's name, so that no check looks into the operation that keeps it. -/
theorem of_of (h : Fld.of .clusters t = Fld.of .clusters s) : Sensed s t := of_clusters h

theorem modCluster (s : State) (c : Nat) {f : Cluster → Cluster} (hf : ∀ k, (f k).sensed = k.sensed) : Sensed s (s.modCluster c f) := by
  refine ⟨fun n => ?_⟩
  by_cases hn : n = c
  · subst hn
    rw [State.cluster_modCluster]
    exact hf _
  · rw [State.cluster_modCluster_ne _ _ _ _ hn]

theorem ite {a b : State} {c : Prop} [Decidable c] (ha : Sensed s a) (hb : Sensed s b) : Sensed s (if c then a else b) := by
  split <;> assumption

theorem each {α : Type} {f : State → α → State} {l : List α} (h : Sensed s t) (hf : ∀ u a, Sensed u (f u a)) : Sensed s (t.each l f) :=
  State.each_induct h fun u hu a _ => hu.trans (hf u a)

theorem eachCluster (s : State) (l : List Nat) {f : Cluster → Cluster} (hf : ∀ k, (f k).sensed = k.sensed) :
    Sensed s (s.each l fun t c => t.modCluster c f) := (refl s).each fun u c => modCluster u c hf

theorem modPart (s : State) (p : Nat) (f : PartState → PartState) : Sensed s (s.modPart p f) := of_clusters rfl

theorem enterAll (s : State) (l : List Nat) (aim : CState) : Sensed s (s.enterAll l aim) := eachCluster s l fun k => k.enter_sensed aim

theorem wakeAll (s : State) (l : List Nat) (aim : CState) : Sensed s (s.wakeAll l aim) := eachCluster s l fun k => k.wake_sensed aim

theorem rest (s : State) (p : Nat) : Sensed s (s.rest p) := ⟨fun c =>
  s.rest_holds (P := fun k => k.sensed = (s.cluster c).sensed) (fun k aim => (k.enter_sensed aim).trans) p rfl⟩

theorem stopRun (s : State) (p : Nat) : Sensed s (s.stopRun p) :=
  ⟨fun c => s.stopRun_keeps Cluster.enter_sensed (fun _ => rfl) p c⟩

theorem endReqs (s : State) (p : Nat) (test : Request → Bool) (st reason : Nat) (clear : Bool) : Sensed s (s.endReqs p test st reason clear) := ⟨fun c =>
  s.endReqs_holds (P := fun k => k.sensed = (s.cluster c).sensed) (fun k aim => (k.enter_sensed aim).trans) (fun _ => id) p test st reason clear rfl⟩

theorem place (s : State) (p : Nat) : Sensed s (s.place p) := by
  unfold State.place
  extract_lets q
  split
  · exact wakeAll ..
  · exact refl s

theorem calOver (s : State) : Sensed s s.calOver := by
  unfold State.calOver
  split
  · exact refl s
  · next k _ =>
    extract_lets a b c
    have hb : Sensed s b := by
      simp only [b]
      split
      · exact (of_clusters (s := s) (t := a.voltagesReached) rfl).each fun u p => place u p
      · exact of_clusters rfl
    have hc : Sensed s c := by
      simp only [c]
      split
      · exact hb.trans (of_clusters (State.eventAll_of (fd := .clusters) _ _ (by decide)))
      · exact hb
    split
    · exact hc.trans (of_clusters (State.closeWindow_of (fd := .clusters) _ (by decide)))
    · exact hc

theorem cutOff (s : State) (l : LongCmd) : Sensed s (s.cutOff l) := by
  have hbind : Sensed s (s.cutBind l.part.val (field l.payload 1 1)) := by
    unfold State.cutBind
    exact ite ((modPart s l.part.val _).trans (enterAll ..)) (refl s)
  unfold State.cutOff
  extract_lets p
  have hdump : Sensed s { s with dump := none, rails := { s.rails with hbmSelfRefresh := true } } := of_clusters rfl
  have hdrain : Sensed s { s with draining := false, wakeEt := 0 } := of_clusters rfl
  refine ite hdrain (ite (modPart ..) (ite (modPart ..) (ite hbind (ite ?_ (ite (calOver s) (ite ?_ (ite ?_ (ite hdump (refl s)))))))))
  · exact of_clusters (State.dropTest_of (fd := .clusters) s p (by decide))
  · exact of_of (State.cutRestore_of s l (by decide))
  · exact of_clusters (State.cutFirmware_of (fd := .clusters) s true (by decide))

theorem abort (s : State) (test : LongCmd → Bool) : Sensed s (s.abort test) :=
  (refl s).each fun u l => (cutOff u l).trans (of_clusters (State.finish_of (fd := .clusters) _ _ _ _ (by decide)))

theorem resetPart (s : State) (p : Nat) (hard : Bool) (cmd : Option LongCmd) : Sensed s (s.resetPart p hard cmd) := by
  unfold State.resetPart
  extract_lets a b cls c d wait e f
  have ha : Sensed s a := (stopRun s p).trans (endReqs ..)
  have hb : Sensed s b := (ha.trans (abort a _)).trans (of_clusters (State.dropTest_of (fd := .clusters) _ _ (by decide)))
  have hc : Sensed s c := (hb.trans (of_clusters (State.releasePart_of (fd := .clusters) b p [1, 2, 3, 4, 5] (by decide)))).trans
    (eachCluster (b.releasePart p [1, 2, 3, 4, 5]) cls (f := fun k => { k with scanning := false }) fun _ => rfl)
  have hd : Sensed s d := (hc.each fun u n => of_clusters (State.modListedCores_of (fd := .clusters) u n Core.softReset (by decide))).trans (rest (c.each cls fun t c => t.modListedCores c Core.softReset) p)
  have he : Sensed s e := by
    simp only [e]
    split
    · exact (hd.trans (eachCluster d cls Cluster.cycle_sensed)).trans (modPart ..)
    · exact hd
  have hf : Sensed s f := he.trans (of_clusters (State.log_of (fd := .clusters) _ _ _ _ _ _ _ _ (by decide)))
  split
  · split
    · exact hf.trans (modPart ..)
    · exact hf.trans (of_clusters (State.finish_of (fd := .clusters) _ _ _ _ (by decide)))
  · exact hf

theorem resume (s : State) (p : Nat) : Sensed s (s.resume p) := by
  have hreset (u : State) : Sensed u (u.resumeReset p) := by
    unfold State.resumeReset
    split
    · exact refl u
    · split
      · exact (modPart u p _).trans (resetPart ..)
      · exact (modPart u p _).trans
          (of_clusters (State.finish_of (fd := .clusters) _ _ _ _ (by decide)))
      · exact refl u
  have hpark (u : State) : Sensed u (u.repark p) := by
    unfold State.repark
    extract_lets q
    split
    · exact ((modPart u p _).trans (enterAll ..)).trans
        (of_clusters (State.parkDone_of (fd := .clusters) _ _ (by decide)))
    · exact refl u
  exact ((of_clusters (State.tryResume_of (fd := .clusters) s p (by decide))).trans (hreset _)).trans (hpark _)

end Sensed

/-! ## A cluster that loses its supply (R331, R332) -/

/-- The cores and scratchpads of a cluster that is, or was, in a state. -/
def State.poweredIn (s : State) (c : Nat) (p : CState) : State :=
  let s := if p.depth ≤ 1 then s else s.modListedCores c Core.powerReset
  if p = .c3 then s.zeroSpads c else s

/-- C1 keeps the cores, C2 keeps the scratchpads, C3 keeps nothing. -/
structure PoweredIn (s : State) (c : Nat) (p : CState) (t : State) : Prop where
  cores : p.depth ≤ 1 → t.cores = s.cores
  spad : p.depth ≤ 2 → t.spad = s.spad
  reset : 2 ≤ p.depth → (∀ n, n / 272 = c → t.coreAt n = { fence := (s.coreAt n).fence }) ∧ ∀ n, n / 272 ≠ c → t.coreAt n = s.coreAt n
  zero : p = .c3 → (∀ a, 262144 * 272 * c ≤ a ∧ a < 262144 * 272 * (c + 1) → mread t.spad a = 0#8) ∧
    ∀ a, ¬(262144 * 272 * c ≤ a ∧ a < 262144 * 272 * (c + 1)) → mread t.spad a = mread s.spad a

theorem PoweredIn.of_stores {s t u : State} {c : Nat} {p : CState} (h : PoweredIn s c p t) (hc : u.cores = t.cores) (hs : u.spad = t.spad) :
    PoweredIn s c p u := by
  obtain ⟨h1, h2, h3, h4⟩ := h
  refine ⟨fun h => hc.trans (h1 h), fun h => hs.trans (h2 h), fun h => ?_, fun h => ?_⟩
  · simp only [State.coreAt_congr hc]
    exact h3 h
  · rw [hs]
    exact h4 h

theorem State.coreAt_modListedCores {s : State} (hs : swf {} s.cores = true) (c : Nat) {f : Core → Core} (hf : f {} = {}) (n : Nat) :
    (s.modListedCores c f).coreAt n = if n / 272 = c then f (s.coreAt n) else s.coreAt n :=
  sget_smapAll_swf hs n (by split <;> trivial)

theorem State.poweredIn_leaves {s : State} (hs : swf {} s.cores = true) (c : Nat) (p : CState) : PoweredIn s c p (s.poweredIn c p) ∧
    ∀ fd : Fld, fd ∉ [Fld.cores, .spad] → fd.of (s.poweredIn c p) = fd.of s := by
  unfold State.poweredIn
  extract_lets u
  have hu : (∀ fd : Fld, fd ∉ [Fld.cores] → fd.of u = fd.of s) ∧ (p.depth ≤ 1 → u.cores = s.cores) ∧ (2 ≤ p.depth →
      (∀ n, n / 272 = c → u.coreAt n = { fence := (s.coreAt n).fence }) ∧ ∀ n, n / 272 ≠ c → u.coreAt n = s.coreAt n) := by
    dsimp only [u]
    split
    · exact ⟨fun _ _ => rfl, fun _ => rfl, fun h => by omega⟩
    · refine ⟨fun fd h => State.modListedCores_of _ _ _ h, fun h => by omega, fun _ => ⟨fun n hn => ?_, fun n hn => ?_⟩⟩
      · rw [State.coreAt_modListedCores hs c rfl, if_pos hn]
        rfl
      · rw [State.coreAt_modListedCores hs c rfl, if_neg hn]
  obtain ⟨hf, hcores, hreset⟩ := hu
  clear_value u
  have hspad : u.spad = s.spad := hf .spad (by decide)
  split
  · next h3 =>
    have hc : (u.zeroSpads c).cores = u.cores := rfl
    refine ⟨⟨fun h => hcores h, fun h => ?_, hreset, fun _ => ⟨fun a ha => mread_mclear_in _ _ _ _ ha, fun a ha => ?_⟩⟩,
      fun fd h => (State.zeroSpads_of _ _ (Fld.not_mem h)).trans (hf fd (Fld.not_mem h))⟩
    · rw [h3] at h
      exact absurd h (by decide)
    · rw [← hspad]
      exact mread_mclear_out _ _ _ _ (by omega)
  · next h3 => exact ⟨⟨hcores, fun _ => hspad, hreset, fun h => absurd h h3⟩, fun fd h => hf fd (Fld.not_mem h)⟩

/-! ## The end of an entry (R331, R344) -/

/-- A cluster in the state it was entering, before its partition takes notice. -/
def State.entered (s : State) (c : Nat) (aim : CState) : State :=
  (if aim.depth ≤ 1 then s.poweredIn c aim else (s.poweredIn c aim).rowsRefused c).modCluster c fun k => { k with power := aim, trans := none }

theorem State.rowsRefused_clusters (s : State) (c : Nat) : (s.rowsRefused c).clusters = (s.modCluster c fun k => { k with rowWait := [] }).clusters :=
  Fld.of_each (f := .clusters) _ fun t x => State.refuseRow_of (fd := .clusters) t c x.1 x.2 (by decide)

/-- What the end of an entry leaves, before its partition takes notice. -/
structure Entered (s : State) (c : Nat) (aim : CState) (t : State) : Prop where
  frame : ∀ fd : Fld, fd ∉ [Fld.cores, .spad, .clusters, .noTargets] → fd.of t = fd.of s
  one : OneCluster s t c
  cluster : t.cluster c = { s.cluster c with power := aim, trans := none, rowWait := if aim.depth ≤ 1 then (s.cluster c).rowWait else [] }
  noTargets : aim.depth ≤ 1 ∨ (s.cluster c).rowWait = [] → t.noTargets = s.noTargets
  power : PoweredIn s c aim t

theorem State.entered_enters {s : State} (hs : swf {} s.cores = true) (c : Nat) (aim : CState) : Entered s c aim (s.entered c aim) := by
  obtain ⟨hp, hpf⟩ := State.poweredIn_leaves hs c aim
  unfold State.entered
  generalize s.poweredIn c aim = u at hp hpf ⊢
  have hcl : u.clusters = s.clusters := hpf .clusters (by decide)
  split
  · next hd =>
    obtain ⟨-, hone, hat⟩ := modCluster_changes u c fun k => { k with power := aim, trans := none }
    refine ⟨fun fd h => (State.modCluster_of _ _ _ (Fld.not_mem h)).trans (hpf fd (Fld.not_mem h)), fun k hk => (hone k hk).trans (by rw [hcl]), ?_,
      fun _ => hpf .noTargets (by decide), hp.of_stores rfl rfl⟩
    rw [hat, State.cluster_congr hcl, if_pos hd]
  · next hd =>
    obtain ⟨-, hone, hat⟩ := modCluster_changes (u.rowsRefused c) c fun k => { k with power := aim, trans := none }
    obtain ⟨-, hone', hat'⟩ := modCluster_changes u c fun k => { k with rowWait := [] }
    have hrows := u.rowsRefused_clusters c
    have hrf (fd : Fld) (h : fd ∉ [Fld.clusters, .noTargets]) : fd.of (u.rowsRefused c) = fd.of u := State.rowsRefused_of u c h
    refine ⟨fun fd h => (State.modCluster_of _ _ _ (Fld.not_mem h)).trans ((hrf fd (Fld.not_mem h)).trans (hpf fd (Fld.not_mem h))), fun k hk => ?_, ?_,
      fun h => ?_, hp.of_stores (hrf .cores (by decide)) (hrf .spad (by decide))⟩
    · rw [hone k hk, hrows, hone' k hk, hcl]
    · rw [hat, State.cluster_congr hrows, hat', State.cluster_congr hcl, if_neg hd]
    · have hnone := h.resolve_left hd
      have hn : (u.rowsRefused c).noTargets = u.noTargets := by
        unfold State.rowsRefused
        rw [State.cluster_congr hcl, hnone]
        rfl
      exact hn.trans (hpf .noTargets (by decide))

/-- Neither a recovery nor a reset, a park or a re-trim waits for the clusters of a partition. -/
structure State.Calm (s : State) (c : Nat) : Prop where
  cal : s.cal = none
  part : ∀ p, s.partOf c = some p → (s.part p).recovering = false ∧ (s.part p).resetWait = none ∧ (s.part p).park ≠ .parked ∧ (s.part p).park ≠ .parking

theorem State.resume_calm {s : State} {p : Nat} (h1 : (s.part p).recovering = false) (h2 : (s.part p).resetWait = none) (h3 : (s.part p).park ≠ .parked) :
    s.resume p = s := by
  have ht : s.tryResume p = s := if_neg (by rw [h1]; exact Bool.false_ne_true)
  have hr : s.resumeReset p = s := by
    unfold State.resumeReset
    rw [if_neg (by rw [h1]; exact Bool.false_ne_true), h2]
  have hp : s.repark p = s := if_neg (by rw [beq_eq_false_iff_ne.2 h3, Bool.and_false, Bool.false_and, Bool.false_and]; exact Bool.false_ne_true)
  rw [State.resume, ht, hr, hp]

theorem State.parkDone_calm {s : State} {p : Nat} (h : (s.part p).park ≠ .parking) : s.parkDone p = s :=
  if_neg (by rw [beq_eq_false_iff_ne.2 h, Bool.false_and, Bool.false_and, Bool.false_and]; exact Bool.false_ne_true)

theorem State.partOf_congr {s t : State} (h : t.parts = s.parts) (c : Nat) : t.partOf c = s.partOf c := by
  unfold State.partOf State.taken State.part
  rw [h]

/-- A partition takes notice of a cluster's entry: a re-trim, a park or a recovery may go on (R336, R377, R394). -/
def State.noticed (s : State) (c : Nat) : State :=
  match s.retrim.partOf c with
  | some p => (s.retrim.parkDone p).resume p
  | none => s.retrim

theorem State.noticed_sensed (s : State) (c : Nat) : Sensed s (s.noticed c) := by
  have hr : Sensed s s.retrim := .of_of (State.retrim_of s (by decide))
  unfold State.noticed
  split
  · exact (hr.trans (.of_of (State.parkDone_of _ _ (by decide)))).trans (.resume _ _)
  · exact hr

theorem State.noticed_calm {s : State} {c : Nat} (h : s.Calm c) : s.noticed c = s := by
  obtain ⟨hc, hp⟩ := h
  have hr : s.retrim = s := by
    unfold State.retrim
    rw [hc]
  unfold State.noticed
  rw [hr]
  split
  · next p hpart =>
    obtain ⟨h1, h2, h3, h4⟩ := hp p hpart
    rw [State.parkDone_calm h4, State.resume_calm h1 h2 h3]
  · rfl

theorem State.Calm.of_fields {s t : State} {c : Nat} (h : s.Calm c) (hc : t.cal = s.cal) (hp : t.parts = s.parts) : t.Calm c := by
  obtain ⟨h1, h2⟩ := h
  refine ⟨hc.trans h1, fun p hpart => ?_⟩
  rw [State.part_congr hp]
  exact h2 p ((State.partOf_congr hp c) ▸ hpart)

theorem State.entryDone_entered {s : State} {c : Nat} {aim : CState} (h : (s.cluster c).trans = some (.enter aim none)) :
    s.entryDone c = (s.entered c aim).noticed c := by
  unfold State.entryDone
  rw [h]
  rfl

theorem State.entryDone_wakes {s : State} {c : Nat} {aim w : CState} (h : (s.cluster c).trans = some (.enter aim (some w))) :
    s.entryDone c = ((s.entered c aim).modCluster c (·.wake w)).noticed c := by
  unfold State.entryDone
  rw [h]
  rfl

/-! ## The end of an exit (R332) -/

/-- A cluster in the state it was leaving for, before its partition takes notice. -/
def State.exited (s : State) (c : Nat) (aim : CState) : State :=
  (s.poweredIn c (s.cluster c).power).modCluster c fun k => { k with power := aim, trans := none }

/-- The resident loads go into cores that have lost theirs. -/
def State.refilled (s : State) (p c : Nat) (was : CState) : State := if was.depth ≤ 1 then s else s.placeResident p c

theorem State.exitDone_exited {s : State} {c : Nat} {aim : CState} (h : (s.cluster c).trans = some (.exit aim)) :
    s.exitDone c = match (s.exited c aim).partOf c with
      | some p => ((((s.exited c aim).refilled p c (s.cluster c).power).settled p c).unparked p).resume p
      | none => s.exited c aim := by
  unfold State.exitDone
  rw [h]
  rfl

theorem State.settled_sensed (s : State) (p c : Nat) : Sensed s (s.settled p c) := by
  have hrows : Sensed s (s.rowsGo c) := by
    unfold State.rowsGo
    extract_lets l
    refine (Sensed.modCluster s c (f := fun k => { k with rowWait := [] }) fun _ => rfl).each fun u x => ?_
    exact .of_of (State.coresGet_of u c x.1 x.2 (by decide))
  unfold State.settled
  exact .ite (hrows.trans (.rest _ _)) (.refl s)

/-- What loads leave of the cores of a cluster: their slots may differ. -/
theorem State.placeResident_slots (s : State) (p c : Nat) : (∀ n, ∃ m, (s.placeResident p c).coreAt n = { s.coreAt n with slots := m }) ∧
    ∀ n, n / 272 ≠ c → (s.placeResident p c).coreAt n = s.coreAt n := by
  have hone (pl : Plan) (ld : Load) (t : State) : (∀ n, ∃ m, (t.placeLoad pl ld c).coreAt n = { t.coreAt n with slots := m }) ∧
      ∀ n, n / 272 ≠ c → (t.placeLoad pl ld c).coreAt n = t.coreAt n := by
    refine State.each_induct (P := fun u => (∀ n, ∃ m, u.coreAt n = { t.coreAt n with slots := m }) ∧ ∀ n, n / 272 ≠ c → u.coreAt n = t.coreAt n)
      ⟨fun n => ⟨(t.coreAt n).slots, rfl⟩, fun _ _ => rfl⟩ fun u hu lc hlc => ?_
    obtain ⟨h1, h2⟩ := hu
    have hdiv := u.lcore_div c (List.mem_range.1 hlc)
    refine ⟨fun n => ?_, fun n hn => ?_⟩
    · obtain ⟨m, hm⟩ := h1 n
      by_cases hn : n = u.lcore c lc
      · rw [hn, State.coreAt_modCore, ← hn, hm]
        exact ⟨_, rfl⟩
      · rw [State.coreAt_modCore_ne _ _ _ _ hn]
        exact ⟨m, hm⟩
    · rw [State.coreAt_modCore_ne _ _ _ _ fun h => hn (by rw [h]; exact hdiv)]
      exact h2 n hn
  unfold State.placeResident
  split
  · exact ⟨fun n => ⟨(s.coreAt n).slots, rfl⟩, fun _ _ => rfl⟩
  · next l _ =>
    refine State.each_induct (P := fun u => (∀ n, ∃ m, u.coreAt n = { s.coreAt n with slots := m }) ∧ ∀ n, n / 272 ≠ c → u.coreAt n = s.coreAt n)
      ⟨fun n => ⟨(s.coreAt n).slots, rfl⟩, fun _ _ => rfl⟩ fun u hu ld _ => ?_
    obtain ⟨h1, h2⟩ := hu
    obtain ⟨h3, h4⟩ := hone l.plan ld u
    refine ⟨fun n => ?_, fun n hn => (h4 n hn).trans (h2 n hn)⟩
    obtain ⟨m, hm⟩ := h1 n
    obtain ⟨m', hm'⟩ := h3 n
    exact ⟨m', by rw [hm', hm]⟩

theorem mem_rectClusters {x0 y0 w h c : Nat} (hc : inRect x0 y0 w h c = true) : c ∈ rectClusters x0 y0 w h := by
  unfold inRect clX clY at hc
  obtain ⟨h1, h2, h3, h4⟩ := of_decide_eq_true hc
  refine List.mem_flatMap.2 ⟨c / 40 - y0, List.mem_range.2 (by omega), List.mem_map.2 ⟨c % 40 - x0, List.mem_range.2 (by omega), ?_⟩⟩
  unfold clNum
  omega

theorem State.partOf_mem {s : State} {c p : Nat} (h : s.partOf c = some p) : c ∈ (s.part p).cfg.clusters := by
  have hp := List.find?_some h
  simp only [Bool.and_eq_true] at hp
  exact mem_rectClusters hp.2

/-- What the end of an exit leaves, before its partition takes notice. -/
theorem State.exited_exits {s : State} (hs : swf {} s.cores = true) (c : Nat) (aim : CState) :
    (∀ fd : Fld, fd ∉ [Fld.cores, .spad, .clusters] → fd.of (s.exited c aim) = fd.of s) ∧ OneCluster s (s.exited c aim) c ∧
      (s.exited c aim).cluster c = { s.cluster c with power := aim, trans := none } ∧ PoweredIn s c (s.cluster c).power (s.exited c aim) := by
  obtain ⟨hp, hpf⟩ := State.poweredIn_leaves hs c (s.cluster c).power
  unfold State.exited
  generalize s.poweredIn c (s.cluster c).power = u at hp hpf ⊢
  have hcl : u.clusters = s.clusters := hpf .clusters (by decide)
  obtain ⟨-, hone, hat⟩ := modCluster_changes u c fun k => { k with power := aim, trans := none }
  refine ⟨fun fd h => (State.modCluster_of _ _ _ (Fld.not_mem h)).trans (hpf fd (Fld.not_mem h)), fun k hk => (hone k hk).trans (by rw [hcl]), ?_,
    hp.of_stores rfl rfl⟩
  rw [hat, State.cluster_congr hcl]

theorem State.refilled_of {fd : Fld} (s : State) (p c : Nat) (was : CState) (h : fd ∉ [Fld.cores]) : fd.of (s.refilled p c was) = fd.of s := by
  unfold State.refilled
  split
  · rfl
  · exact State.placeResident_of s p c h

theorem State.refilled_slots (s : State) (p c : Nat) (was : CState) : (was.depth ≤ 1 → (s.refilled p c was).cores = s.cores) ∧
    (∀ n, ∃ m, (s.refilled p c was).coreAt n = { s.coreAt n with slots := m }) ∧ ∀ n, n / 272 ≠ c → (s.refilled p c was).coreAt n = s.coreAt n := by
  unfold State.refilled
  split
  · exact ⟨fun _ => rfl, fun n => ⟨(s.coreAt n).slots, rfl⟩, fun _ _ => rfl⟩
  · next h => exact ⟨fun h' => absurd h' h, (s.placeResident_slots p c).1, (s.placeResident_slots p c).2⟩

theorem State.enterAll_c1 {s : State} {l : List Nat} {c : Nat} (hc : c ∈ l) (ht : (s.cluster c).trans = none) (hp : (s.cluster c).power = .c0) :
    ((s.enterAll l .c1).cluster c).trans = some (.enter .c1 none) := by
  have hfirst {k : Cluster} (h : k.trans = none ∧ k.power = .c0) : (k.enter .c1).trans = some (.enter .c1 none) := by
    unfold Cluster.enter
    simp [h.1, h.2, CState.depth]
  have hagain {k : Cluster} (h : k.trans = some (.enter .c1 none)) : (k.enter .c1).trans = some (.enter .c1 none) := by
    unfold Cluster.enter
    simp [h, CState.depth]
  have hany {k : Cluster} (h : (k.trans = none ∧ k.power = .c0) ∨ k.trans = some (.enter .c1 none)) : (k.enter .c1).trans = some (.enter .c1 none) :=
    h.elim hfirst hagain
  have hstep (t : State) (n : Nat) (h : ((t.cluster c).trans = none ∧ (t.cluster c).power = .c0) ∨ (t.cluster c).trans = some (.enter .c1 none)) :
      (((t.modCluster n (·.enter .c1)).cluster c).trans = none ∧ ((t.modCluster n (·.enter .c1)).cluster c).power = .c0) ∨
        ((t.modCluster n (·.enter .c1)).cluster c).trans = some (.enter .c1 none) := by
    by_cases hn : c = n
    · subst hn
      rw [State.cluster_modCluster]
      exact .inr (hany h)
    · rw [State.cluster_modCluster_ne _ _ _ _ hn]
      exact h
  refine (State.each_establishes (I := fun t => ((t.cluster c).trans = none ∧ (t.cluster c).power = .c0) ∨ (t.cluster c).trans = some (.enter .c1 none))
    (Q := fun t => (t.cluster c).trans = some (.enter .c1 none)) hc (.inl ⟨ht, hp⟩) (fun t h n _ => hstep t n h) (fun t h => ?_) fun t _ h n _ => ?_).2
  · rw [State.cluster_modCluster]
    exact hany h
  · by_cases hn : c = n
    · subst hn
      rw [State.cluster_modCluster]
      exact hagain h
    · rw [State.cluster_modCluster_ne _ _ _ _ hn]
      exact h

/-- A partition takes notice of a cluster that is up: it stays, or with nothing to run goes to C1 again (Table 13.2). -/
theorem State.settled_leaves {s : State} {p c : Nat} (hrow : (s.cluster c).rowWait = []) :
    (∀ fd : Fld, fd ∉ [Fld.clusters] → fd.of (s.settled p c) = fd.of s) ∧
      ((s.cluster c).at .c0 = false ∨ (s.part p).run.isSome = true → OneCluster s (s.settled p c) c ∧ (s.settled p c).cluster c = s.cluster c) ∧
      ((s.cluster c).at .c0 = true → c ∈ (s.part p).cfg.clusters → (s.part p).run = none → (∀ x ∈ (s.part p).queue, x.waits = false) →
        ((s.settled p c).cluster c).trans = some (.enter .c1 none)) := by
  have hgo : s.rowsGo c = s.modCluster c fun k => { k with rowWait := [] } := by
    unfold State.rowsGo
    rw [hrow]
    rfl
  have hsettled : s.settled p c = if (s.cluster c).at .c0 then (s.modCluster c fun k => { k with rowWait := [] }).rest p else s := by
    rw [← hgo]
    rfl
  obtain ⟨-, hone, hat⟩ := modCluster_changes s c fun k => { k with rowWait := [] }
  have hsame : (s.modCluster c fun k => { k with rowWait := [] }).cluster c = s.cluster c := by
    rw [hat, ← hrow]
  have hf (fd : Fld) (h : fd ∉ [Fld.clusters]) : fd.of (s.modCluster c fun k => { k with rowWait := [] }) = fd.of s := State.modCluster_of _ _ _ h
  rw [hsettled]
  generalize (s.modCluster c fun k => { k with rowWait := [] }) = u at hone hsame hf ⊢
  have hup : u.part p = s.part p := State.part_congr (hf .parts (by decide)) p
  refine ⟨fun fd h => ?_, fun h => ?_, fun h hc hrun hq => ?_⟩
  · split
    · exact (State.rest_of u p h).trans (hf fd h)
    · rfl
  · split
    · next h0 =>
      have hrun := h.resolve_left (by rw [h0]; exact Bool.noConfusion)
      have hr : u.rest p = u := by
        unfold State.rest
        extract_lets q
        exact if_pos (by rw [show q = s.part p from hup, hrun]; rfl)
      rw [hr]
      exact ⟨hone, hsame⟩
    · exact ⟨fun _ _ => rfl, rfl⟩
  · rw [if_pos h]
    have hany : (s.part p).queue.any (·.waits) = false := List.any_eq_false.2 fun x hx => by rw [hq x hx]; exact Bool.false_ne_true
    have hr : u.rest p = u.enterAll (s.part p).cfg.clusters .c1 := by
      unfold State.rest
      rw [hup]
      exact if_neg (by rw [hrun, hany, Bool.and_false]; exact Bool.false_ne_true)
    obtain ⟨hpow, htr⟩ := Bool.and_eq_true_iff.1 h
    rw [hr]
    exact State.enterAll_c1 hc (by rw [hsame]; exact Option.isNone_iff_eq_none.1 htr) (by rw [hsame]; exact beq_iff_eq.1 hpow)

/-- The end of an unpark changes a partition's park state alone. -/
theorem State.unparked_part (s : State) (p : Nat) : ∃ k, (s.unparked p).part p = { s.part p with park := k } ∧ (k = .serving ∨ k = (s.part p).park) := by
  unfold State.unparked
  extract_lets q
  split
  · exact ⟨.serving, State.part_modPart .., .inl rfl⟩
  · exact ⟨(s.part p).park, rfl, .inr rfl⟩

/-- What the end of an exit leaves of a partition that nothing waits for. -/
structure Exited (s : State) (c : Nat) (aim : CState) (t : State) : Prop where
  frame : ∀ fd : Fld, fd ∉ [Fld.cores, .spad, .clusters, .parts] → fd.of t = fd.of s
  kept : (s.cluster c).power.depth ≤ 1 → t.cores = s.cores ∧ t.spad = s.spad
  reset : 2 ≤ (s.cluster c).power.depth → (∀ n, n / 272 = c → t.coreAt n = { fence := (s.coreAt n).fence, slots := (t.coreAt n).slots }) ∧
    ∀ n, n / 272 ≠ c → t.coreAt n = s.coreAt n
  zero : (s.cluster c).power = .c3 → (∀ a, 262144 * 272 * c ≤ a ∧ a < 262144 * 272 * (c + 1) → mread t.spad a = 0#8) ∧
    ∀ a, ¬(262144 * 272 * c ≤ a ∧ a < 262144 * 272 * (c + 1)) → mread t.spad a = mread s.spad a
  stays : (aim ≠ .c0 ∨ ∀ p, s.partOf c = some p → (s.part p).run.isSome = true) →
    OneCluster s t c ∧ t.cluster c = { s.cluster c with power := aim, trans := none }
  rests : aim = .c0 → ∀ p, s.partOf c = some p → (s.part p).run = none ∧ (∀ x ∈ (s.part p).queue, x.waits = false) →
    (t.cluster c).trans = some (.enter .c1 none)

theorem State.exitDone_exits {s : State} (hs : swf {} s.cores = true) {c : Nat} {aim : CState} (h : (s.cluster c).trans = some (.exit aim))
    (hcalm : s.Calm c) (hrow : (s.cluster c).rowWait = []) : Exited s c aim (s.exitDone c) := by
  obtain ⟨hf, hone, hcl, hpow⟩ := State.exited_exits hs c aim
  rw [State.exitDone_exited h]
  generalize s.exited c aim = u at hf hone hcl hpow ⊢
  have hpart := State.partOf_congr (hf .parts (by decide)) c
  split
  · next p hp =>
    have hps : s.partOf c = some p := hpart ▸ hp
    obtain ⟨hr1, hr2, hr3, hr4⟩ := hcalm.part p hps
    -- the loads
    have hvf {fd : Fld} (h : fd ∉ [Fld.cores]) : fd.of (u.refilled p c (s.cluster c).power) = fd.of u := u.refilled_of p c _ h
    obtain ⟨hv1, hv2, hv3⟩ := u.refilled_slots p c (s.cluster c).power
    generalize u.refilled p c (s.cluster c).power = v at hvf hv1 hv2 hv3 ⊢
    have hvc : v.cluster c = u.cluster c := State.cluster_congr (hvf (fd := .clusters) (by decide)) c
    have hvp (q : Nat) : v.part q = s.part q := State.part_congr ((hvf (fd := .parts) (by decide)).trans (hf .parts (by decide))) q
    -- the cluster that is up
    obtain ⟨hw1, hw2, hw3⟩ := State.settled_leaves (s := v) (p := p) (c := c) (by rw [hvc, hcl]; exact hrow)
    rw [hvp] at hw2 hw3
    generalize v.settled p c = w at hw1 hw2 hw3 ⊢
    have hwp : w.part p = s.part p := (State.part_congr (hw1 .parts (by decide)) p).trans (hvp p)
    -- the partition
    obtain ⟨k, hk, hpark⟩ := w.unparked_part p
    have hxf {fd : Fld} (h : fd ∉ [Fld.parts]) : fd.of (w.unparked p) = fd.of w := State.unparked_of w p h
    generalize w.unparked p = x at hk hxf ⊢
    rw [hwp] at hk hpark
    have hcalm' : x.resume p = x := State.resume_calm (by rw [hk]; exact hr1) (by rw [hk]; exact hr2) (by
      rw [hk]
      rcases hpark with h | h
      · rw [h]
        exact Park.noConfusion
      · rw [h]
        exact hr3)
    rw [hcalm']
    have hxc : x.cores = v.cores := (hxf (fd := .cores) (by decide)).trans (hw1 .cores (by decide))
    have hxs : x.spad = u.spad := (hxf (fd := .spad) (by decide)).trans ((hw1 .spad (by decide)).trans (hvf (fd := .spad) (by decide)))
    have hat : (v.cluster c).at .c0 = (aim == .c0) := by
      rw [hvc, hcl]
      exact Bool.and_true _
    have hxcl : x.clusters = w.clusters := hxf (fd := .clusters) (by decide)
    refine ⟨fun fd h => ?_, fun hd => ⟨?_, hxs.trans (hpow.spad (by omega))⟩, fun hd => ⟨fun n hn => ?_, fun n hn => ?_⟩, fun h3 => ?_, fun hstay => ?_,
      fun h0 q hq hidle => ?_⟩
    · exact (hxf (Fld.not_mem h)).trans ((hw1 fd (Fld.not_mem h)).trans ((hvf (Fld.not_mem h)).trans (hf fd (Fld.not_mem h))))
    · exact hxc.trans ((hv1 hd).trans (hpow.cores hd))
    · obtain ⟨m, hm⟩ := hv2 n
      rw [State.coreAt_congr hxc, hm, (hpow.reset hd).1 n hn]
    · rw [State.coreAt_congr hxc, hv3 n hn, (hpow.reset hd).2 n hn]
    · rw [hxs]
      exact hpow.zero h3
    · have hno : (v.cluster c).at .c0 = false ∨ (s.part p).run.isSome = true := hstay.imp
        (fun h => by rw [hat]; exact beq_eq_false_iff_ne.2 h) fun h => h p hps
      obtain ⟨h1, h2⟩ := hw2 hno
      refine ⟨fun j hj => ?_, ?_⟩
      · rw [hxcl, h1 j hj]
        exact (congrArg (sget {} · j) (hvf (fd := .clusters) (by decide))).trans (hone j hj)
      · rw [State.cluster_congr hxcl, h2, hvc, hcl]
    · obtain rfl : p = q := Option.some.inj (hps.symm.trans hq)
      rw [State.cluster_congr hxcl]
      exact hw3 (by rw [hat, h0]; rfl) (State.partOf_mem hps) hidle.1 hidle.2
  · next hnone =>
    have hnone' : s.partOf c = none := hpart ▸ hnone
    refine ⟨fun fd h => hf fd (Fld.not_mem h), fun hd => ⟨hpow.cores hd, hpow.spad (by omega)⟩, fun hd => ⟨fun n hn => ?_, (hpow.reset hd).2⟩, hpow.zero,
      fun _ => ⟨hone, hcl⟩, fun _ p hp => absurd (hnone'.symm.trans hp) (Option.some_ne_none p).symm⟩
    rw [(hpow.reset hd).1 n hn]

theorem State.exitDone_power {s : State} {c : Nat} {aim : CState} (hs : swf {} s.cores = true) (h : (s.cluster c).trans = some (.exit aim)) :
    ((s.exitDone c).cluster c).power = aim := by
  obtain ⟨-, -, hcl, -⟩ := State.exited_exits hs c aim
  rw [State.exitDone_exited h]
  generalize s.exited c aim = u at hcl ⊢
  have hpow {t : State} (ht : Sensed u t) : (t.cluster c).power = aim := (congrArg Prod.fst (ht.cluster c)).trans (congrArg Cluster.power hcl)
  split
  · next p _ =>
    refine hpow ((((Sensed.of_of (u.refilled_of p c (s.cluster c).power (by decide))).trans (State.settled_sensed _ p c)).trans ?_).trans (.resume _ p))
    exact .of_of (State.unparked_of _ p (by decide))
  · exact hpow (.refl u)

theorem State.entryDone_power {s : State} {c : Nat} {aim : CState} (hs : swf {} s.cores = true) {w : Option CState}
    (h : (s.cluster c).trans = some (.enter aim w)) : ((s.entryDone c).cluster c).power = aim := by
  have hcl := (State.entered_enters hs c aim).cluster
  have hpow {t : State} (ht : Sensed (s.entered c aim) t) : (t.cluster c).power = aim :=
    (congrArg Prod.fst (ht.cluster c)).trans (congrArg Cluster.power hcl)
  cases w with
  | none =>
    rw [State.entryDone_entered h]
    exact hpow (State.noticed_sensed _ c)
  | some w =>
    rw [State.entryDone_wakes h]
    exact hpow ((Sensed.modCluster _ c fun k => k.wake_sensed w).trans (State.noticed_sensed _ c))

/-! ## Thermal readings (R351) -/

section
variable (s : State) (c raw0 raw1 : Nat)

/-- A reading kept, with THERM_ALERT_N as it then is. -/
def State.thermKept : State :=
  (s.modCluster c fun k => { k with t0 := s.trimmed c 0 raw0, t1 := s.trimmed c 1 raw1 }).thermAlert (Nat.max (s.trimmed c 0 raw0) (s.trimmed c 1 raw1))

theorem State.thermKept_keeps : (∀ fd : Fld, fd ∉ [Fld.clusters, .therm] → fd.of (s.thermKept c raw0 raw1) = fd.of s) ∧
    OneCluster s (s.thermKept c raw0 raw1) c ∧
    (s.thermKept c raw0 raw1).cluster c = { s.cluster c with t0 := s.trimmed c 0 raw0, t1 := s.trimmed c 1 raw1 } ∧
    (s.thermKept c raw0 raw1).therm = (decide (420 ≤ Nat.max (s.trimmed c 0 raw0) (s.trimmed c 1 raw1)) ||
      (s.therm && decide (400 ≤ (s.thermKept c raw0 raw1).hottest))) := by
  obtain ⟨-, hone, hat⟩ := modCluster_changes s c fun k => { k with t0 := s.trimmed c 0 raw0, t1 := s.trimmed c 1 raw1 }
  exact ⟨fun fd h => (State.thermAlert_of _ _ (Fld.not_mem h)).trans (State.modCluster_of _ _ _ (Fld.not_mem h)), hone, hat, rfl⟩

theorem exec_thermalSensorRead {cl : Cl} (hs : s.supply = .up) : exec (.thermalSensorRead cl raw0 raw1) s =
    .next (let u := s.thermKept cl.val raw0 raw1
      if (s.cluster cl.val).tripped then
        (if Nat.max (s.trimmed cl.val 0 raw0) (s.trimmed cl.val 1 raw1) < 380 then u.thermRelease cl.val else u)
      else if 460 ≤ Nat.max (s.trimmed cl.val 0 raw0) (s.trimmed cl.val 1 raw1) then
        u.thermTrip cl.val (Nat.max (s.trimmed cl.val 0 raw0) (s.trimmed cl.val 1 raw1)) else u) := by
  obtain ⟨-, -, hcl, -⟩ := s.thermKept_keeps cl.val raw0 raw1
  have htrip : ((s.thermKept cl.val raw0 raw1).cluster cl.val).tripped = (s.cluster cl.val).tripped := by rw [hcl]
  refine congrArg Host.Outcome.next ((if_pos (by rw [hs]; rfl)).trans ?_)
  rw [← htrip]
  rfl

end

/-- A cluster that is going down goes on so, whatever more it is asked to enter. -/
theorem Cluster.goesDown_enter {k : Cluster} {aim : CState} (h : k.goesDown aim) (a : CState) : (k.enter a).goesDown aim := by
  have hc : (if 2 ≤ a.depth then { k with testRow := none } else k).trans = k.trans ∧ (if 2 ≤ a.depth then { k with testRow := none } else k).power = k.power := by
    split
    · exact ⟨rfl, rfl⟩
    · exact ⟨rfl, rfl⟩
  unfold Cluster.enter
  extract_lets c
  change c.trans = k.trans ∧ c.power = k.power at hc
  obtain ⟨ht, hp⟩ := hc
  rcases h with ⟨hn, hd⟩ | ⟨e, w, he, hd, hw⟩
  · rw [ht, hn]
    dsimp only
    split
    · next hlt => exact .inr ⟨a, none, rfl, by rw [hp] at hlt; omega, fun _ h => nomatch h⟩
    · exact .inl ⟨ht.trans hn, hp.symm ▸ hd⟩
  · rw [ht, he]
    dsimp only
    split
    · next hlt =>
      refine .inr ⟨e, w.map fun x => deeper x a, rfl, hd, fun y hy => ?_⟩
      obtain ⟨x, hx, rfl⟩ := Option.map_eq_some_iff.1 hy
      have hxd := hw x hx
      unfold deeper
      split
      · next hxa => omega
      · exact hxd
    · next hge => exact .inr ⟨a, none, rfl, by omega, fun _ h => nomatch h⟩

/-- A thermal trip takes the cluster into C3 (R351). -/
theorem State.thermTrip_trips (s : State) (c hot : Nat) : ((s.thermTrip c hot).cluster c).tripped = true ∧ ((s.thermTrip c hot).cluster c).goesDown .c3 ∧
    (s.thermTrip c hot).therm = s.therm ∧ ∃ r ∈ (s.thermTrip c hot).faults, r.code = 0x0410#16 ∧ r.detail = BitVec.ofNat 64 (hot / 4) := by
  obtain ⟨-, -, hat⟩ := modCluster_changes s c fun k => { (k.enter .c3) with tripped := true }
  unfold State.thermTrip
  extract_lets p u v
  have hu : (u.cluster c).tripped = true ∧ (u.cluster c).goesDown .c3 := by
    rw [show u.cluster c = _ from hat]
    exact ⟨rfl, (s.cluster c).enter_goesDown (by decide)⟩
  have htherm : u.therm = s.therm := State.modCluster_of (fd := .therm) _ _ _ (by decide)
  have hv : ((v.cluster c).tripped = true ∧ (v.cluster c).goesDown .c3) ∧ v.therm = s.therm := by
    dsimp only [v]
    clear_value p
    cases p with
    | some p =>
      refine ⟨u.beginRecovery_holds (P := fun k => k.tripped = true ∧ k.goesDown .c3) (fun k aim h => ⟨?_, Cluster.goesDown_enter h.2 aim⟩) (fun k h => h) p hu,
        (State.beginRecovery_of (fd := .therm) u p (by decide)).trans htherm⟩
      exact (congrArg (fun x => x.2.1) (k.enter_sensed aim)).trans h.1
    | none => exact ⟨hu, htherm⟩
  clear_value v
  obtain ⟨⟨h1, h2⟩, h3⟩ := hv
  have hl (fd : Fld) (h : fd ∉ [Fld.faults, .faultSeq, .faultsLost]) : fd.of (v.log 0x0410 p (some c) none 0 15 (hot / 4)) = fd.of v :=
    State.log_of _ _ _ _ _ _ _ _ h
  refine ⟨?_, ?_, (hl .therm (by decide)).trans h3, _, List.mem_append_right _ (List.mem_singleton_self _), rfl, rfl⟩
  · rw [State.cluster_congr (hl .clusters (by decide))]
    exact h1
  · rw [State.cluster_congr (hl .clusters (by decide))]
    exact h2

theorem State.thermRelease_releases (s : State) (c : Nat) : ((s.thermRelease c).cluster c).sensed = ((s.cluster c).power, false, (s.cluster c).t0, (s.cluster c).t1, (s.cluster c).marks) := by
  obtain ⟨-, -, hat⟩ := modCluster_changes s c fun k => { k with tripped := false }
  unfold State.thermRelease
  extract_lets u
  have hu : (u.cluster c).sensed = ((s.cluster c).power, false, (s.cluster c).t0, (s.cluster c).t1, (s.cluster c).marks) := by
    rw [show u.cluster c = _ from hat]
    rfl
  clear_value u
  split
  · next p _ => exact (((Sensed.ite (.place u p) (.refl u)).trans (.resume _ p)).cluster c).trans hu
  · exact hu

/-- Settles O47: the ends of entries and exits, of a cluster whose partition waits for nothing and of any, and the thermal readings by their bands. -/
theorem clusterStates : Obligations.ClusterStates := by
  unfold Obligations.ClusterStates
  intro cl aim w raw0 raw1 s hs hcan c k inside t0 t1 calm idle
  obtain ⟨-, -, -, hcores, -⟩ := (canonical_iff s).1 hcan
  have hentry : exec (.clusterEntryComplete cl) s = .next (s.entryDone c) := congrArg Host.Outcome.next (if_pos (by rw [hs]; rfl))
  have hexit : exec (.clusterExitComplete cl) s = .next (s.exitDone c) := congrArg Host.Outcome.next (if_pos (by rw [hs]; rfl))
  have hcalm (h : calm) : s.Calm c := ⟨h.1, h.2⟩
  obtain ⟨hef, hone, hcl, hnot, hpow⟩ := State.entered_enters hcores c aim
  have hecalm (h : calm) : (s.entered c aim).Calm c := (hcalm h).of_fields (hef .cal (by decide)) (hef .parts (by decide))
  refine ⟨fun h => ⟨_, hentry, State.entryDone_power hcores h, fun hc => ?_⟩, fun h hc hw hd => ⟨_, hentry, State.entryDone_power hcores h, ?_⟩,
    fun h => ⟨_, hexit, State.exitDone_power hcores h, fun hc hrow => ?_⟩, fun htrip h0 h1 => ?_, fun htrip hhot => ?_, fun htrip => ?_⟩
  · rw [State.entryDone_entered h, State.noticed_calm (hecalm hc)]
    exact ⟨State.eq_patch [.cores, .spad, .clusters, .noTargets] hef, hone, hcl, hnot, hpow.cores, hpow.spad, hpow.reset, hpow.zero⟩
  · have hc' : ((s.entered c aim).modCluster c (·.wake w)).Calm c := (hecalm hc).of_fields rfl rfl
    rw [State.entryDone_wakes h, State.noticed_calm hc', State.cluster_modCluster, hcl]
    have hmay : ({ k with power := aim, trans := none, rowWait := if aim.depth ≤ 1 then k.rowWait else [] } : Cluster).mayWake = true := hw
    unfold Cluster.wake
    rw [if_pos hmay]
    dsimp only
    rw [if_pos hd]
  · obtain ⟨h1, h2, h3, h4, h5, h6⟩ := State.exitDone_exits hcores h (hcalm hc) hrow
    exact ⟨State.eq_patch [.cores, .spad, .clusters, .parts] h1, h2, h3, h4, h5, h6⟩
  · obtain ⟨hf, hone, hcl, htherm⟩ := s.thermKept_keeps c raw0 raw1
    refine ⟨_, (exec_thermalSensorRead s raw0 raw1 hs).trans (congrArg Host.Outcome.next ?_), State.eq_patch [.clusters, .therm] hf, hone, hcl, htherm⟩
    dsimp only
    rw [if_neg (by rw [htrip]; exact Bool.false_ne_true), if_neg (Nat.not_le.2 (Nat.max_lt.2 ⟨h0, h1⟩))]
  · obtain ⟨-, -, -, htherm⟩ := s.thermKept_keeps c raw0 raw1
    obtain ⟨h1, h2, h3, h4⟩ := (s.thermKept c raw0 raw1).thermTrip_trips c (Nat.max t0 t1)
    refine ⟨_, (exec_thermalSensorRead s raw0 raw1 hs).trans (congrArg Host.Outcome.next ?_), h1, h2, h3.trans (htherm.trans ?_), h4⟩
    · dsimp only
      rw [if_neg (by rw [htrip]; exact Bool.false_ne_true), if_pos hhot]
    · rw [decide_eq_true (Nat.le_trans (by decide) hhot), Bool.true_or]
  · obtain ⟨-, -, hcl, -⟩ := s.thermKept_keeps c raw0 raw1
    refine ⟨_, exec_thermalSensorRead s raw0 raw1 hs, ?_⟩
    dsimp only
    rw [if_pos htrip]
    split
    · next hlt =>
      have hrel := (s.thermKept c raw0 raw1).thermRelease_releases c
      rw [hcl] at hrel
      refine ⟨?_, congrArg (fun x => x.2.2.1) hrel, congrArg (fun x => x.2.2.2.1) hrel⟩
      rw [decide_eq_false (Nat.not_le.2 hlt)]
      exact congrArg (fun x => x.2.1) hrel
    · next hge =>
      rw [hcl]
      exact ⟨htrip.trans (decide_eq_true (Nat.not_lt.1 hge)).symm, rfl, rfl⟩

end Sys2Proof.Machine
end

section
/-!
PROOFS of the statement about power management (spec/13_clocks_and_power_states.md R347 to R349, R352, R357): the breath allowance, the
regulators and the cap alarm.
-/

namespace Sys2Proof.Machine

open Sys2Proof

/-! ## The breath allowance (R352, R357) -/

/-- Some cluster of a partition is as hot as a breath allows. -/
def State.HotPart (s : State) : Prop := ∃ q, q < 16 ∧ s.exists q = true ∧ ∃ c ∈ s.partClusters q, 4 * s.policy.tBreath ≤ (s.cluster c).hotter

section
variable (s : State) (w : Nat)

theorem State.any_hot : (s.existing.any fun p => (s.partClusters p).any fun c => decide (4 * s.policy.tBreath ≤ (s.cluster c).hotter)) = true ↔ s.HotPart := by
  simp only [State.existing, State.HotPart, List.any_eq_true, List.mem_filter, List.mem_range, decide_eq_true_eq, and_assoc]

theorem State.newAllowance_rises (h : s.HotPart ∨ s.policy.capW < w) : s.newAllowance w = Nat.min s.policy.fMax (s.allowance + 64) :=
  if_pos (h.imp_left s.any_hot.2)

theorem State.newAllowance_cool (h : ¬s.HotPart) (hw : w ≤ s.policy.capW) : s.newAllowance w =
    if s.hottest + 20 ≤ 4 * s.policy.tBreath ∧ 100 * w ≤ 95 * s.policy.capW then s.allowance - 16 else s.allowance :=
  if_neg fun h' => h'.elim (fun h' => h (s.any_hot.1 h')) (Nat.not_lt.2 hw)

theorem State.setAllowance_sets (a : Nat) : (s.setAllowance a).allowance = a ∧ Queued s (s.setAllowance a) ∧
    (a = s.allowance → (s.setAllowance a).windows = s.windows) := by
  unfold State.setAllowance
  split
  · next h => exact ⟨h.symm, fun _ => rfl, fun _ => rfl⟩
  · next h =>
    exact ⟨State.eventAll_of (fd := .allowance) _ _ (by decide), State.eventAll_queued { s with allowance := a } evBreath, fun h' => absurd h' h⟩

theorem State.trackExcess_times : (s.overCap = true → s.allowance = s.policy.fMax →
      s.trackExcess.overSince = some (s.overSince.getD s.now) ∧ s.trackExcess.overLogged = s.overLogged) ∧
    (s.overCap = false ∨ s.allowance ≠ s.policy.fMax → s.trackExcess.overSince = none ∧ s.trackExcess.overLogged = false) := by
  unfold State.trackExcess
  split
  · next h =>
    obtain ⟨hc, ha⟩ := Bool.and_eq_true_iff.1 h
    refine ⟨fun _ _ => ⟨?_, rfl⟩, fun h' => ?_⟩
    · cases s.overSince <;> rfl
    · exact h'.elim (fun h' => absurd (hc.symm.trans h') Bool.true_eq_false.mp) fun h' => absurd (beq_iff_eq.1 ha) h'
  · next h =>
    refine ⟨fun hc ha => absurd ?_ h, fun _ => ⟨rfl, rfl⟩⟩
    rw [hc, ha, beq_self_eq_true]
    rfl

/-- The update of every 1 ms (R352). -/
theorem State.breathUpdate_updates : let t := s.breathUpdate w
    (∀ fd : Fld, fd ∉ [Fld.powerW, .overCap, .allowance, .windows, .overSince, .overLogged] → fd.of t = fd.of s) ∧ t.powerW = w ∧
      t.overCap = decide (s.policy.capW < w) ∧ Queued s t ∧ t.allowance = s.newAllowance w ∧ (s.newAllowance w = s.allowance → t.windows = s.windows) ∧
      (s.policy.capW < w → t.allowance = s.policy.fMax → t.overSince = some (s.overSince.getD s.now) ∧ t.overLogged = s.overLogged) ∧
      (w ≤ s.policy.capW ∨ t.allowance ≠ s.policy.fMax → t.overSince = none ∧ t.overLogged = false) := by
  intro t
  have ht : t = (({ s with powerW := w, overCap := decide (s.policy.capW < w) } : State).setAllowance (s.newAllowance w)).trackExcess := rfl
  clear_value t
  obtain ⟨h1, h2, h3⟩ := ({ s with powerW := w, overCap := decide (s.policy.capW < w) } : State).setAllowance_sets (s.newAllowance w)
  have huf (fd : Fld) (h : fd ∉ [Fld.windows, .allowance]) := ({ s with powerW := w, overCap := decide (s.policy.capW < w) } : State).setAllowance_of (s.newAllowance w) h
  generalize ({ s with powerW := w, overCap := decide (s.policy.capW < w) } : State).setAllowance (s.newAllowance w) = u at ht h1 h2 h3 huf
  have htf (fd : Fld) (h : fd ∉ [Fld.overSince, .overLogged]) : fd.of t = fd.of u := ht ▸ u.trackExcess_of h
  obtain ⟨h4, h5⟩ := u.trackExcess_times
  rw [← ht] at h4 h5
  have hpol : u.policy = s.policy := huf .policy (by decide)
  have hcap : u.overCap = decide (s.policy.capW < w) := huf .overCap (by decide)
  have hsince : u.overSince = s.overSince := huf .overSince (by decide)
  have hnow : u.now = s.now := huf .now (by decide)
  have hlogged : u.overLogged = s.overLogged := huf .overLogged (by decide)
  have hall : t.allowance = u.allowance := htf .allowance (by decide)
  have hwin : t.windows = u.windows := htf .windows (by decide)
  rw [hpol, hcap, hsince, hnow, hlogged, ← hall] at h4
  rw [hpol, hcap, ← hall] at h5
  refine ⟨fun fd h => (htf fd (Fld.not_mem h)).trans ((huf fd (Fld.not_mem h)).trans (Fld.of_upd (L := [.powerW, .overCap]) rfl (Fld.not_mem h))),
    (htf .powerW (by decide)).trans (huf .powerW (by decide)), (htf .overCap (by decide)).trans hcap, fun k => ?_, hall.trans h1, fun h => hwin.trans (h3 h),
    fun h => h4 (decide_eq_true h), fun h => h5 (h.imp_left fun h => decide_eq_false (Nat.not_lt.2 h))⟩
  rw [hwin]
  exact h2 k

end

/-! ## Regulators (R347 to R349) -/

theorem State.modZone_one (s : State) (z : Nat) (f : Zone → Zone) : (s.modZone z f).zone z = f (s.zone z) ∧ ∀ k, k ≠ z → (s.modZone z f).zone k = s.zone k :=
  ⟨sget_smod_same (α := Zone) .., fun _ hk => sget_smod_ne (α := Zone) _ _ _ _ _ hk⟩

theorem State.zone_congr {s t : State} (h : t.zones = s.zones) (z : Nat) : t.zone z = s.zone z := by
  rw [State.zone, State.zone, h]

/-- A poll keeps what a regulator reports, and records a fault bit that is new (R348). -/
theorem State.statusPoll_polls (s : State) (addr page : Nat) (w : BitVec 16) (v i p : Nat) : let t := s.statusPoll addr page w v i p
    let old := sget {} s.regulators (4 * addr + page)
    (∀ fd : Fld, fd ∉ [Fld.regulators, .faults, .faultSeq, .faultsLost] → fd.of t = fd.of s) ∧
      sget {} t.regulators (4 * addr + page) =
        (if addr < 0x50 then { old with status := w } else { old with status := w, vout := v, iout := i, pout := p }) ∧
      (∀ k, k ≠ 4 * addr + page → sget {} t.regulators k = sget {} s.regulators k) ∧
      (statusFault (w &&& ~~~old.status) = true → ∃ r ∈ t.faults, r.code = 0x0412#16) ∧
      (statusFault (w &&& ~~~old.status) = false → t.faults = s.faults) := by
  intro t old
  have ht : t = s.statusPoll addr page w v i p := rfl
  clear_value t
  unfold State.statusPoll at ht
  extract_lets key old' new u at ht
  have hu : (∀ fd : Fld, fd ∉ [Fld.regulators] → fd.of u = fd.of s) ∧ sget {} u.regulators key = new ∧
      ∀ k, k ≠ key → sget {} u.regulators k = sget {} s.regulators k :=
    ⟨fun fd h => Fld.of_upd (s := s) (t := u) (L := [.regulators]) rfl h, sget_sput_same .., fun k hk => sget_sput_ne _ _ _ _ _ hk⟩
  clear_value u
  obtain ⟨hf, hnew, hothers⟩ := hu
  by_cases hfault : statusFault (w &&& ~~~old.status) = true
  · rw [if_pos hfault] at ht
    have hl (fd : Fld) (h : fd ∉ [Fld.faults, .faultSeq, .faultsLost]) : fd.of t = fd.of u := ht ▸ State.log_of _ _ _ _ _ _ _ _ h
    have hreg : t.regulators = u.regulators := hl .regulators (by decide)
    refine ⟨fun fd h => (hl fd (Fld.not_mem h)).trans (hf fd (Fld.not_mem h)), by rw [hreg]; exact hnew, by rw [hreg]; exact hothers,
      fun _ => ht ▸ State.log_mem .., fun h => absurd (hfault.symm.trans h) Bool.true_eq_false.mp⟩
  · rw [if_neg hfault] at ht
    subst ht
    exact ⟨fun fd h => hf fd (Fld.not_mem h), hnew, hothers, fun h => absurd h hfault, fun _ => hf .faults (by decide)⟩

/-- A zone whose second write has no report is held in C3 (R349). -/
theorem State.ackMissing_holds (s : State) (z : Nat) : ((s.ackMissing z).zone z).held = true ∧
    (∀ c, c < 1200 → clField c = z → ((s.ackMissing z).cluster c).zoneHeld = true ∧ ((s.ackMissing z).cluster c).goesDown .c3) ∧
    ∃ r ∈ (s.ackMissing z).faults, r.code = 0x0411#16 := by
  have hz := (s.modZone_one z fun k => { k with await := none, held := true }).1
  have hcl {c : Nat} (hc : c ∈ zoneClusters z) : ((s.holdZone z).cluster c).zoneHeld = true ∧ ((s.holdZone z).cluster c).goesDown .c3 :=
    State.cluster_eachCluster (g := fun k => { (k.enter .c3) with zoneHeld := true }) (P := fun k => k.zoneHeld = true ∧ k.goesDown .c3)
      (s.modZone z fun k => { k with await := none, held := true }) (fun k => ⟨rfl, k.enter_goesDown (by decide)⟩) hc
  have hzone : (s.holdZone z).zones = (s.modZone z fun k => { k with await := none, held := true }).zones :=
    Fld.of_each (f := .zones) _ fun t c => State.modCluster_of (fd := .zones) _ _ _ (by decide)
  unfold State.ackMissing
  extract_lets hit
  generalize s.holdZone z = u at hcl hzone
  have hw : ((u.each hit State.beginRecovery).zones = u.zones) ∧ ∀ c, c ∈ zoneClusters z →
      ((u.each hit State.beginRecovery).cluster c).zoneHeld = true ∧ ((u.each hit State.beginRecovery).cluster c).goesDown .c3 :=
    State.each_induct (P := fun t => t.zones = u.zones ∧ ∀ c, c ∈ zoneClusters z → (t.cluster c).zoneHeld = true ∧ (t.cluster c).goesDown .c3)
      ⟨rfl, fun c hc => hcl hc⟩ fun t ht p _ => ⟨(State.beginRecovery_of (fd := .zones) t p (by decide)).trans ht.1, fun c hc =>
        t.beginRecovery_holds (P := fun k => k.zoneHeld = true ∧ k.goesDown .c3)
          (fun k aim h => ⟨(k.enter_zoneHeld aim).trans h.1, Cluster.goesDown_enter h.2 aim⟩) (fun _ h => h) p (ht.2 c hc)⟩
  generalize u.each hit State.beginRecovery = v at hw
  have hl (fd : Fld) (h : fd ∉ [Fld.faults, .faultSeq, .faultsLost]) : fd.of (v.log 0x0411 none none none 0 s.authorityPup z) = fd.of v :=
    State.log_of _ _ _ _ _ _ _ _ h
  refine ⟨?_, fun c hc hf => ?_, State.log_mem ..⟩
  · rw [State.zone_congr ((hl .zones (by decide)).trans (hw.1.trans hzone)), hz]
  · rw [State.cluster_congr (hl .clusters (by decide))]
    exact hw.2 c (List.mem_filter.2 ⟨List.mem_range.2 hc, beq_iff_eq.2 hf⟩)

section
variable {s : State} {zone : Fin 48} {since n : Nat} (hs : s.supply = .up) (ha : (s.zone zone.val).await = some (since, n))
include hs ha

theorem exec_voltageAckTimeout : exec (.voltageAckTimeout zone) s = .next (if s.now < since + 1000000 then s
    else if n ≤ 1 then s.modZone zone.val fun k => { k with await := some (s.now, 2) } else s.ackMissing zone.val) := by
  refine congrArg Host.Outcome.next ((if_pos (by rw [hs]; rfl)).trans ?_)
  unfold State.ackTimeout
  rw [ha]
  rfl

end

/-- Settles O48: the allowance by its three bands and the excess above the cap, the regulators' readings and the voltage acknowledges, the cap alarm. -/
theorem powerManagement : Obligations.PowerManagement := by
  unfold Obligations.PowerManagement
  intro watt zone ma addr page st v i p from' n s hs hot margin
  have hup : (s.supply == .up) = true := by rw [hs]; rfl
  refine ⟨?_, ?_, fun he hk => ?_, fun ha => ⟨fun h => ?_, fun h hn => ?_, fun h hn => ?_⟩, fun hsince hlate => ⟨fun hno => ?_, fun hyes => ?_⟩⟩
  · obtain ⟨hf, h1, h2, h3, h4, h5, h6, h7⟩ := s.breathUpdate_updates watt
    refine ⟨_, congrArg Host.Outcome.next (if_pos hup), ?_⟩
    generalize s.breathUpdate watt = t at hf h1 h2 h3 h4 h5 h6 h7 ⊢
    refine ⟨?_, h3, fun h => h4.trans (s.newAllowance_rises watt h), fun h hw hm => h4.trans ((s.newAllowance_cool watt h hw).trans (if_pos hm)),
      fun h hw hm => h4.trans ((s.newAllowance_cool watt h hw).trans (if_neg hm)), fun h => h5 (h4.symm.trans h), h6, h7⟩
    rw [← h2, ← h1]
    exact State.eq_patch [.powerW, .overCap, .allowance, .windows, .overSince, .overLogged] hf
  · obtain ⟨h1, h2⟩ := s.modZone_one zone.val fun k => { k with milliAmps := ma }
    exact ⟨_, congrArg Host.Outcome.next (if_pos hup), rfl, h1, h2⟩
  · intro old
    obtain ⟨hf, h1, h2, h3, h4⟩ := s.statusPoll_polls addr.toNat page.toNat st v i p
    refine ⟨_, congrArg Host.Outcome.next (if_pos ?_), State.eq_patch [.regulators, .faults, .faultSeq, .faultsLost] hf, h1, h2, h3, h4⟩
    rw [hup, hk]
    rcases he with he | he
    · rw [he]; rfl
    · rw [he]; rfl
  · exact (exec_voltageAckTimeout hs ha).trans (congrArg Host.Outcome.next (if_pos h))
  · obtain ⟨h1, h2⟩ := s.modZone_one zone.val fun k => { k with await := some (s.now, 2) }
    exact ⟨_, (exec_voltageAckTimeout hs ha).trans (congrArg Host.Outcome.next ((if_neg (Nat.not_lt.2 h)).trans (if_pos hn))), rfl, by rw [h1], h2⟩
  · exact ⟨_, (exec_voltageAckTimeout hs ha).trans (congrArg Host.Outcome.next ((if_neg (Nat.not_lt.2 h)).trans (if_neg (by omega)))),
      s.ackMissing_holds zone.val⟩
  · have hexec : exec .powerCapAlarm s =
        .next (({ s with overLogged := true } : State).log 0x0413 none none none 0 s.authorityPup (s.powerW % 65536)) := by
      refine congrArg Host.Outcome.next ((if_pos hup).trans ?_)
      unfold State.capAlarm
      rw [hsince]
      exact if_pos ⟨hlate, by rw [hno]; rfl⟩
    refine ⟨_, hexec, ?_, State.log_mem ..⟩
    exact State.eq_patch (s := { s with overLogged := true }) [.faults, .faultSeq, .faultsLost] fun fd h => State.log_of _ _ _ _ _ _ _ _ h
  · refine congrArg Host.Outcome.next ((if_pos hup).trans ?_)
    unfold State.capAlarm
    rw [hsince]
    exact if_neg fun h => absurd h.2 (by rw [hyes]; exact Bool.false_ne_true)

end Sys2Proof.Machine
end

section
/-!
The brace (R358 to R371): its start, its return, the forced stop, the commit point, the cutoff and its completion.
-/

namespace Sys2Proof.Machine

open Sys2Proof

/-! ## The fault log keeps what was recorded lately -/

/-- The record is one of the last k. -/
def State.Recent (s : State) (k code : Nat) : Prop := ∃ r ∈ s.faults.drop (s.faults.length - k), r.code = BitVec.ofNat 16 code

namespace State.Recent
variable {s t : State} {k code : Nat}

theorem mem (h : s.Recent k code) : ∃ r ∈ s.faults, r.code = BitVec.ofNat 16 code := by
  obtain ⟨r, hr, hc⟩ := h
  exact ⟨r, List.mem_of_mem_drop hr, hc⟩

theorem new (s : State) (code : Nat) (p : Option Nat) (c n : Option Nat) (d u x : Nat) : (s.log code p c n d u x).Recent 1 code := by
  unfold State.Recent State.log
  dsimp only
  rw [List.length_append, List.length_singleton, Nat.add_sub_cancel, List.drop_left]
  exact ⟨_, List.mem_singleton_self _, rfl⟩

theorem of_faults (h : s.Recent k code) (hf : Fld.of .faults t = Fld.of .faults s) : t.Recent k code := by
  have hf : t.faults = s.faults := hf
  unfold State.Recent
  rw [hf]
  exact h

/-- A log of 16,384 records drops its oldest one alone. -/
theorem log (h : s.Recent k code) (hk : k < 16384) (co : Nat) (p : Option Nat) (c n : Option Nat) (d u x : Nat) :
    (s.log co p c n d u x).Recent (k + 1) code := by
  obtain ⟨r, hr, hc⟩ := h
  refine ⟨r, ?_, hc⟩
  unfold State.log
  dsimp only
  rw [List.length_append, List.length_singleton, Nat.add_sub_add_right]
  split
  · next hfull =>
    have hlen := of_decide_eq_true hfull
    rw [List.length_drop, List.drop_append_of_le_length (by rw [List.length_drop]; omega), List.drop_drop,
      show 1 + (s.faults.length - 1 - k) = s.faults.length - k by omega]
    exact List.mem_append_left _ hr
  · rw [List.drop_append_of_le_length (Nat.sub_le _ _)]
    exact List.mem_append_left _ hr

end State.Recent

/-! ## What ends as the engine leaves E0 (R240, R318, R360) -/

/-- A property of each of the ways that a command which is cut off leaves holds of the state it leaves. -/
theorem State.cutOff_cases {P : State → Prop} {s : State} {l : LongCmd} (h4 : l.code = 0x04#8 → P { s with draining := false, wakeEt := 0 })
    (h10 : ∀ f, l.code = 0x10#8 → P (s.modPart l.part.val f)) (h13 : l.code = 0x13#8 → P (s.modPart l.part.val fun q => { q with resetWait := none }))
    (h22 : l.code = 0x22#8 → P (s.cutBind l.part.val (field l.payload 1 1))) (h40 : l.code = 0x40#8 → P (s.dropTest l.part.val))
    (h41 : l.code = 0x41#8 → P s.calOver) (h61 : l.code = 0x61#8 → P (s.cutRestore l))
    (h9 : l.code = 0x90#8 ∨ l.code = 0x91#8 → P (s.cutFirmware true))
    (hA0 : l.code = 0xA0#8 → P { s with dump := none, rails := { s.rails with hbmSelfRefresh := true } })
    (hs : l.code ≠ 0x41#8 → ¬ (l.code = 0x90#8 ∨ l.code = 0x91#8) → P s) : P (s.cutOff l) := by
  have hite {c : Prop} [Decidable c] {a b : State} (ha : c → P a) (hb : ¬ c → P b) : P (if c then a else b) := by
    split
    next h => exact ha h
    next h => exact hb h
  unfold State.cutOff
  exact hite h4 fun _ => hite (h10 _) fun _ => hite h13 fun _ => hite h22 fun _ => hite h40 fun _ => hite h41 fun n41 => hite h61 fun _ =>
    hite h9 fun n9 => hite (fun h => hA0 h.1) fun _ => hs n41 n9

theorem State.calOver_cal (s : State) : s.calOver.cal = none := by
  unfold State.calOver
  split
  next h => exact h
  next k _ =>
    extract_lets a b c
    have hb : b.cal = a.cal := by
      dsimp only [b]
      split
      next =>
        have h1 : Fld.of .cal a.voltagesReached = Fld.of .cal a := State.voltagesReached_of _ (by decide)
        exact Eq.trans (Fld.of_each (f := .cal) _ fun t p => State.place_of t p (by decide)) h1
      next => rfl
    have hc : c.cal = b.cal := by
      dsimp only [c]
      split
      next => exact State.eventAll_of (fd := .cal) _ _ (by decide)
      next => rfl
    split
    next => exact (State.closeWindow_of (fd := .cal) c (by decide)).trans (hc.trans hb)
    next => exact hc.trans hb

/-- A command that is cut off leaves no calibration begun by it, and begins none. -/
theorem State.cutOff_cal {s : State} {l : LongCmd} (h : s.cal = none ∨ l.code = 0x41#8) : (s.cutOff l).cal = none := by
  have hkeep {t : State} {x : BitVec 8} (hx : x ≠ 0x41#8) (ht : Fld.of .cal t = Fld.of .cal s) (hl : l.code = x) : t.cal = none :=
    Eq.trans (b := s.cal) ht (h.resolve_right (hl ▸ hx))
  refine State.cutOff_cases (P := fun t => t.cal = none) (hkeep (by decide) rfl) (fun f => hkeep (by decide) (State.modPart_of _ _ _ (by decide)))
    (hkeep (by decide) (State.modPart_of _ _ _ (by decide))) (hkeep (by decide) (State.cutBind_of _ _ _ (by decide)))
    (hkeep (by decide) (State.dropTest_of _ _ (by decide))) (fun _ => s.calOver_cal) (hkeep (by decide) (State.cutRestore_of _ _ (by decide)))
    (fun h9 => ?_) (hkeep (by decide) rfl) (fun n _ => h.resolve_right n)
  have hf : Fld.of .cal (s.cutFirmware true) = Fld.of .cal s := State.cutFirmware_of _ _ (by decide)
  exact h9.elim (hkeep (by decide) hf) (hkeep (by decide) hf)

theorem State.cutFirmware_fwJob (s : State) (may : Bool) : (s.cutFirmware may).fwJob = none := by
  unfold State.cutFirmware
  split
  · rfl
  · rfl
  · assumption

/-- A command that is cut off leaves no firmware job begun by it, and begins none. -/
theorem State.cutOff_fwJob {s : State} {l : LongCmd} (h : s.fwJob = none ∨ l.code = 0x90#8 ∨ l.code = 0x91#8) : (s.cutOff l).fwJob = none := by
  have hkeep {t : State} {x : BitVec 8} (hx : ¬ (x = 0x90#8 ∨ x = 0x91#8)) (ht : Fld.of .fwJob t = Fld.of .fwJob s) (hl : l.code = x) :
      t.fwJob = none := Eq.trans (b := s.fwJob) ht (h.resolve_right (hl ▸ hx))
  exact State.cutOff_cases (P := fun t => t.fwJob = none) (hkeep (by decide) rfl) (fun f => hkeep (by decide) (State.modPart_of _ _ _ (by decide)))
    (hkeep (by decide) (State.modPart_of _ _ _ (by decide))) (hkeep (by decide) (State.cutBind_of _ _ _ (by decide)))
    (hkeep (by decide) (State.dropTest_of _ _ (by decide))) (hkeep (by decide) (State.calOver_of _ (by decide)))
    (hkeep (by decide) (State.cutRestore_of _ _ (by decide))) (fun _ => State.cutFirmware_fwJob s true) (hkeep (by decide) rfl)
    (fun _ n => h.resolve_right n)

/-- A field that every command of the list leaves empty, or that was empty before, is empty once they are aborted. -/
theorem State.abort_empties {P : State → Prop} {C : LongCmd → Prop} {s : State} {test : LongCmd → Bool}
    (hcut : ∀ {t l}, P t ∨ C l → P (t.cutOff l)) (hfin : ∀ {t} {l : LongCmd}, P t → P (t.finish l stAborted))
    (h : P s ∨ ∃ l ∈ s.longs, C l ∧ test l = true) : P (s.abort test) := by
  unfold State.abort
  rcases h with h | ⟨l, hl, hc, ht⟩
  · exact State.each_induct (P := P) h fun t ht l _ => hfin (hcut (.inl ht))
  · exact (State.each_establishes (I := fun _ => True) (List.mem_filter.2 ⟨hl, ht⟩) trivial (fun _ _ _ _ => trivial)
      (fun t _ => hfin (hcut (.inr hc))) fun t _ ht b _ => hfin (hcut (.inl ht))).2

theorem State.abort_cal {s : State} {test : LongCmd → Bool} (h : s.cal = none ∨ ∃ l ∈ s.longs, l.code = 0x41#8 ∧ test l = true) :
    (s.abort test).cal = none :=
  State.abort_empties (P := fun t => t.cal = none) (C := fun l => l.code = 0x41#8) State.cutOff_cal
    (fun {t l} ht => Eq.trans (State.finish_of (fd := .cal) t l stAborted [] (by decide)) ht) h

theorem State.abort_fwJob {s : State} {test : LongCmd → Bool}
    (h : s.fwJob = none ∨ ∃ l ∈ s.longs, (l.code = 0x90#8 ∨ l.code = 0x91#8) ∧ test l = true) : (s.abort test).fwJob = none :=
  State.abort_empties (P := fun t => t.fwJob = none) (C := fun l => l.code = 0x90#8 ∨ l.code = 0x91#8) State.cutOff_fwJob
    (fun {t l} ht => Eq.trans (State.finish_of (fd := .fwJob) t l stAborted [] (by decide)) ht) h

/-- Only the commands that the test keeps are left. -/
theorem State.abort_longs {s : State} {test : LongCmd → Bool} {l : LongCmd} (h : l ∈ (s.abort test).longs) : l ∈ s.longs ∧ test l = false := by
  have hall (cs : List LongCmd) (t : State) (h : l ∈ (t.each cs fun u c => (u.cutOff c).finish c stAborted).longs) :
      l ∈ t.longs ∧ ∀ c ∈ cs, l.same c = false := by
    induction cs generalizing t with
    | nil => exact ⟨h, fun c hc => absurd hc List.not_mem_nil⟩
    | cons c r ih =>
      obtain ⟨hl, hr⟩ := ih _ h
      have hlongs : (t.cutOff c).longs = t.longs := State.cutOff_of (fd := .longs) t c (by decide)
      rw [State.finish_longs, hlongs, List.mem_filter, Bool.not_eq_true'] at hl
      exact ⟨hl.1, List.forall_mem_cons.2 ⟨hl.2, hr⟩⟩
  obtain ⟨hl, hs⟩ := hall _ _ h
  refine ⟨hl, Bool.not_eq_true _ ▸ fun hp => ?_⟩
  exact absurd (hs l (List.mem_filter.2 ⟨hl, hp⟩)) (by rw [l.same_self]; decide)

/-- Nobody is joined once the engine leaves E0 (R318). -/
theorem State.leaveGroups_unjoined (s : State) (p : Nat) : ∀ g ∈ (s.leaveGroups.part p).groups, ∀ e ∈ g.2.ports, e.joined = false := by
  unfold State.part State.leaveGroups State.unjoin
  refine sget_smapAll_of (fun q : PartState => ∀ g ∈ q.groups, ∀ e ∈ g.2.ports, e.joined = false) (fun g hg => nomatch hg) fun q g hg e he => ?_
  obtain ⟨x, -, rfl⟩ := List.mem_map.1 hg
  obtain ⟨y, -, rfl⟩ := List.mem_map.1 he
  rfl

/-- A breath cut short keeps every partition's groups. -/
theorem State.cutBreath_groups (s : State) (p r : Nat) : ((s.cutBreath p).part r).groups = (s.part r).groups := by
  unfold State.cutBreath
  split
  · split
    · extract_lets past cfg time u
      have hu : u.part r = s.part r := State.part_congr (Fld.of_each (f := .parts) _ fun t c => State.modCluster_of t c _ (by decide)) r
      rw [← hu]
      by_cases hr : r = p
      · subst hr
        rw [State.part_modPart]
      · rw [State.part_modPart_ne _ _ _ _ hr]
    · rfl
  · rfl

/-! ## The start of a brace (R360) -/

/-- What follows the abort of the long commands touches the wafer, the partitions and the windows alone, and no group. -/
theorem State.sorted_of {fd : Fld} (s : State) (stop : Stop) (hf : fd ∉ [Fld.cores, .spad, .flights, .credits, .clusters, .windows, .parts, .leases,
    .links, .freeCount]) : fd.of ((s.stopTests.sortRequests rsBrace stop).stopBetween).leaveGroups = fd.of s := by
  exact (State.leaveGroups_of _ (Fld.not_mem hf)).trans ((State.stopBetween_of _ (Fld.not_mem hf)).trans
    ((State.sortRequests_of _ _ _ (Fld.not_mem hf)).trans (State.stopTests_of _ (Fld.not_mem hf))))

/-- A partition without a run goes to C1, and the breath of another is cut short. -/
def State.braceWafer (s : State) : State :=
  s.each (List.range 16) fun t p => if (t.part p).run.isNone then t.enterAll (t.partClusters p) .c1 else t.cutBreath p

theorem State.braceWafer_of {fd : Fld} (s : State) (hf : fd ∉ [Fld.clusters, .parts]) : fd.of s.braceWafer = fd.of s :=
  Fld.of_each _ fun t p => by
    split
    · exact State.enterAll_of _ _ _ (Fld.not_mem hf)
    · exact State.cutBreath_of _ _ hf

theorem State.braceWafer_groups (s : State) (r : Nat) : (s.braceWafer.part r).groups = (s.part r).groups :=
  State.each_induct (P := fun t => (t.part r).groups = (s.part r).groups) rfl fun t ht p _ => by
    refine Eq.trans ?_ ht
    split
    · rw [State.part_congr (State.enterAll_of (fd := .parts) t _ _ (by decide))]
    · exact t.cutBreath_groups p r

/-- A brace at τ = 0: the level and the record, the long commands, then what is on the wafer. -/
theorem State.braceStart_starts (s : State) : let t := s.braceStart
    t.pfw = s.pfw ∧ t.estate = .e1 ∧ t.stateEt = s.et ∧ t.brace = some { time := s.now, et := s.et, abortable := s.mayAbort } ∧
      (∀ l ∈ t.longs, l.code = 0x03#8) ∧ ((s.cal = none ∨ ∃ l ∈ s.longs, l.code = 0x41#8) → t.cal = none) ∧
      ((s.fwJob = none ∨ ∃ l ∈ s.longs, l.code = 0x90#8 ∨ l.code = 0x91#8) → t.fwJob = none) ∧
      (∀ p, ∀ g ∈ (t.part p).groups, ∀ e ∈ g.2.ports, e.joined = false) ∧ t.et = s.et := by
  intro t
  let b : Brace := { time := s.now, et := s.et, abortable := s.mayAbort }
  let v : State := { s with brace := some b }
  let u := v.log 0x0401 none none none 0 s.authorityPup
  let a := (u.toState .e1).stopAllDma
  let test : LongCmd → Bool := fun l => !(l.code == 0x03#8)
  let c := a.abort test
  let w := ((c.stopTests.sortRequests rsBrace (.brace c.stopTests.now)).stopBetween).leaveGroups
  have ht : t = w.braceWafer := rfl
  have hv {fd : Fld} (hf : fd ∉ [Fld.brace]) : fd.of v = fd.of s := Fld.of_upd (s := s) (t := v) (L := [.brace]) rfl hf
  have hu {fd : Fld} (hf : fd ∉ [Fld.faults, .faultSeq, .faultsLost]) : fd.of u = fd.of v := State.log_of _ _ _ _ _ _ _ _ hf
  have ha {fd : Fld} (hf : fd ∉ [Fld.hbm, .hostMem, .windows, .violCounts, .freeCount]) : fd.of a = fd.of (u.toState .e1) :=
    State.stopAllDma_of _ hf
  have hau {fd : Fld} (hf : fd ∉ [Fld.hbm, .hostMem, .windows, .violCounts, .freeCount, .estate, .stateEt]) : fd.of a = fd.of u := by
    exact (ha (Fld.not_mem hf)).trans (State.toState_of _ _ (Fld.not_mem hf))
  have hest : (u.toState .e1).estate = .e1 ∧ (u.toState .e1).stateEt = u.et := by
    unfold State.toState
    exact ⟨State.eventAll_of (fd := .estate) _ _ (by decide), State.eventAll_of (fd := .stateEt) _ _ (by decide)⟩
  have hlongs : a.longs = s.longs := (hau (fd := .longs) (by decide)).trans ((hu (fd := .longs) (by decide)).trans (hv (fd := .longs) (by decide)))
  have hcal : a.cal = s.cal := (hau (fd := .cal) (by decide)).trans ((hu (fd := .cal) (by decide)).trans (hv (fd := .cal) (by decide)))
  have hfw : a.fwJob = s.fwJob := (hau (fd := .fwJob) (by decide)).trans ((hu (fd := .fwJob) (by decide)).trans (hv (fd := .fwJob) (by decide)))
  have hca {fd : Fld} (hf : fd ∉ [Fld.cores, .spad, .clusters, .windows, .opFaulted, .longs, .parts, .draining, .wakeEt, .maint, .cal, .dump, .rails,
      .zones, .fuses, .flashA, .flashB, .fwJob, .freeCount]) : fd.of c = fd.of a := State.abort_of _ _ hf
  have htc {fd : Fld} (hf : fd ∉ [Fld.cores, .spad, .flights, .credits, .clusters, .windows, .parts, .leases, .links, .freeCount]) :
      fd.of t = fd.of c := by
    exact (congrArg fd.of ht).trans ((State.braceWafer_of w (Fld.not_mem hf)).trans (State.sorted_of c _ hf))
  have htest {l : LongCmd} {x : BitVec 8} (h : l.code = x) (hx : x ≠ 0x03#8) : test l = true := by
    dsimp only [test]
    rw [h, Bool.not_eq_true', beq_eq_false_iff_ne]
    exact hx
  have hlate {fd : Fld} (hf : fd ∉ [Fld.cores, .spad, .flights, .credits, .clusters, .windows, .parts, .leases, .links, .freeCount, .opFaulted,
      .longs, .draining, .wakeEt, .maint, .cal, .dump, .rails, .zones, .fuses, .flashA, .flashB, .fwJob]) : fd.of t = fd.of a := by
    exact (htc (Fld.not_mem hf)).trans (hca (Fld.not_mem hf))
  clear_value t
  refine ⟨?_, ?_, ?_, ?_, fun l hl => ?_, fun h => ?_, fun h => ?_, fun p => ?_, ?_⟩
  · exact (hlate (fd := .pfw) (by decide)).trans ((hau (fd := .pfw) (by decide)).trans (hu (fd := .pfw) (by decide)))
  · exact (hlate (fd := .estate) (by decide)).trans ((ha (fd := .estate) (by decide)).trans hest.1)
  · exact (hlate (fd := .stateEt) (by decide)).trans ((ha (fd := .stateEt) (by decide)).trans hest.2)
  · exact (hlate (fd := .brace) (by decide)).trans ((hau (fd := .brace) (by decide)).trans (hu (fd := .brace) (by decide)))
  · have hlt : t.longs = c.longs := htc (fd := .longs) (by decide)
    rw [hlt] at hl
    simpa [test] using (State.abort_longs hl).2
  · refine (htc (fd := .cal) (by decide)).trans (State.abort_cal ?_)
    rw [hlongs, hcal]
    exact h.imp_right fun ⟨l, hl, hc⟩ => ⟨l, hl, hc, htest hc (by decide)⟩
  · refine (htc (fd := .fwJob) (by decide)).trans (State.abort_fwJob ?_)
    rw [hlongs, hfw]
    exact h.imp_right fun ⟨l, hl, hc⟩ => ⟨l, hl, hc, hc.elim (htest · (by decide)) (htest · (by decide))⟩
  · rw [ht, State.braceWafer_groups]
    exact State.leaveGroups_unjoined _ p
  · exact (hlate (fd := .et) (by decide)).trans ((hau (fd := .et) (by decide)).trans (hu (fd := .et) (by decide)))

/-! ## Stops, the commit point and the cutoff (R363 to R365) -/

/-- A run that stops leaves no other partition's record different. -/
theorem State.forcedStop_others {s : State} {p : Nat} (h : (s.part p).run = none) : s.forcedStop.part p = s.part p := by
  refine State.each_induct (P := fun t => t.part p = s.part p) rfl fun t ht r _ => ?_
  split
  next hdue =>
    by_cases hr : p = r
    · subst hr
      rw [ht, h] at hdue
      exact absurd hdue Bool.false_ne_true
    · exact (Local.stopRun.parts p hr).trans ht
  next => exact ht

/-- A run stopped for 2.5 ms is gone. -/
theorem State.forcedStop_stops {s : State} {p since : Nat} {run : Run} (hp : p < 16) (hrun : (s.part p).run = some run)
    (hstop : run.stop = some (.brace since) ∨ run.stop = some (.cal since)) (hdue : since + 2500000 ≤ s.now) :
    (s.forcedStop.part p).run = none := by
  let I : State → Prop := fun t => t.part p = s.part p ∨ (t.part p).run = none
  let Q : State → Prop := fun t => (t.part p).run = none
  have hkeep {t : State} {r : Nat} (ht : Q t) : ((t.stopRun r).part p).run = none := by
    by_cases hr : p = r
    · subst hr
      exact Closes.stopRun.2
    · exact (congrArg PartState.run (Local.stopRun.parts p hr)).trans ht
  unfold State.forcedStop
  extract_lets due
  refine (State.each_establishes (I := I) (Q := Q) (List.mem_range.2 hp) (.inl rfl) (fun t ht r _ => ?_) (fun t ht => ?_) fun t _ ht r _ => ?_).2
  · split
    · rcases ht with ht | ht
      · by_cases hr : p = r
        · subst hr
          exact .inr Closes.stopRun.2
        · exact .inl ((Local.stopRun.parts p hr).trans ht)
      · exact .inr (hkeep ht)
    · exact ht
  · rcases ht with ht | ht
    · rw [if_pos]
      · exact Closes.stopRun.2
      · rw [ht, hrun, Option.any_some]
        rcases hstop with h | h <;> (rw [h, Option.any_some]; exact decide_eq_true hdue)
    · split
      · exact Closes.stopRun.2
      · exact ht
  · split
    · exact hkeep ht
    · exact ht

theorem State.forcedStop_none {s : State} (h : ∀ p run, p < 16 → (s.part p).run = some run → run.stop = none) : s.forcedStop = s :=
  State.each_induct (P := fun t => t = s) rfl fun t ht p hp => by
    subst ht
    refine if_neg ?_
    cases hrun : (t.part p).run with
    | none => exact Bool.false_ne_true
    | some run =>
      rw [Option.any_some, h p run (List.mem_range.1 hp) hrun]
      exact Bool.false_ne_true

/-- Every cluster of a partition without a run is in the partition's state of the brace, or on its way there. -/
theorem State.powerDown_goes {s : State} {p : Nat} (hp : p < 16) (hrun : (s.part p).run = none) {c : Nat} (hc : c ∈ s.partClusters p) :
    (s.powerDown.cluster c).goesDown (s.part p).bracedState := by
  have hparts {t : State} {l : List Nat} {aim : CState} : (t.enterAll l aim).parts = t.parts := State.enterAll_of (fd := .parts) _ _ _ (by decide)
  refine (State.each_establishes (I := fun t => t.parts = s.parts) (Q := fun t => (t.cluster c).goesDown (s.part p).bracedState)
    (List.mem_range.2 hp) rfl (fun t ht r _ => ?_) (fun t ht => ?_) fun t _ hq r _ => ?_).2
  · split
    · exact hparts.trans ht
    · exact ht
  · have hq : t.part p = s.part p := State.part_congr ht p
    rw [hq, hrun, if_pos Option.isNone_none]
    refine State.cluster_eachCluster t (P := fun k => k.goesDown (s.part p).bracedState) (fun k => k.enter_goesDown ?_) (show c ∈ (t.part p).cfg.clusters from hq ▸ hc)
    unfold PartState.bracedState
    split <;> decide
  · split
    · exact State.cluster_eachCluster_holds (P := fun k => k.goesDown (s.part p).bracedState) (fun k hk => Cluster.goesDown_enter hk _) t _ hq
    · exact hq

/-- The run of a finishing request is over with the request's end. -/
theorem State.contain_ends (s : State) (p : Fin 16) {st : Nat} (hst : st ≠ stFaulted) (reason : Nat) :
    Local p.val s (s.contain p st reason) ∧ ((s.contain p st reason).part p.val).run = none := by
  unfold State.contain
  split
  next h => exact ⟨.refl _ _, h⟩
  next run hrun =>
    extract_lets t
    rw [if_neg hst]
    dsimp only [t]
    split
    next r hr =>
      refine ⟨Local.endReq r _ _ _, ?_⟩
      have hid : r.id = run.req := PartState.req?_id hr
      unfold State.endReq
      extract_lets flags u
      have hu : u = s.stopRun p := if_pos (by rw [hrun, Option.any_some, hid, beq_self_eq_true])
      have hnone : (u.part p.val).run = none := hu ▸ Closes.stopRun.2
      split
      · exact hnone
      · exact (Closes.close r _ _ _).1.run_none hnone
    next => exact ⟨.stopRun, Closes.stopRun.2⟩

/-- No run that finishes is left. -/
theorem State.endFinishing_ends {s : State} {p : Nat} {run : Run} (hp : p < 16) (hrun : (s.part p).run = some run) (hfin : run.finishing = true)
    (reason : Nat) : ((s.endFinishing reason).part p).run = none := by
  let I : State → Prop := fun t => t.part p = s.part p ∨ (t.part p).run = none
  have hcontain (t : State) {r : Nat} (hr : r < 16) (x : Nat) := t.contain_ends ⟨r, hr⟩ (st := stRetry) (by decide) x
  have hkeep {t : State} {r : Nat} (hr : r < 16) (ht : (t.part p).run = none) : ((t.contain r stRetry reason).part p).run = none := by
    by_cases hpr : p = r
    · subst hpr
      exact (hcontain t hr reason).2
    · exact (congrArg PartState.run ((hcontain t hr reason).1.parts p hpr)).trans ht
  refine (State.each_establishes (I := I) (Q := fun t => (t.part p).run = none) (List.mem_range.2 hp) (.inl rfl) (fun t ht r hr => ?_)
    (fun t ht => ?_) fun t _ ht r hr => ?_).2
  · have hr := List.mem_range.1 hr
    split
    · split
      · rcases ht with ht | ht
        · by_cases hpr : p = r
          · subst hpr
            exact .inr (hcontain t hr reason).2
          · exact .inl (((hcontain t hr reason).1.parts p hpr).trans ht)
        · exact .inr (hkeep hr ht)
      · exact ht
    · exact ht
  · rcases ht with ht | ht
    · rw [ht, hrun]
      dsimp only
      rw [if_pos hfin]
      exact (hcontain t hp reason).2
    · rw [ht]
      exact ht
  · have hr := List.mem_range.1 hr
    split
    · split
      · exact hkeep hr ht
      · exact ht
    · exact ht

/-! ## A brace that aborts (R367) -/

theorem State.toState_estate (s : State) (e : EState) : (s.toState e).estate = e := State.eventAll_of (fd := .estate) _ _ (by decide)

/-- The run of a partition, if it has one, finishes no more. -/
def State.goesOn (s : State) (p : Nat) : State :=
  if (s.part p).run.isSome then s.modPart p fun q => { q with run := q.run.map fun r => { r with finishing := false } } else s

theorem State.goesOn_set (s : State) (p : Nat) : ∀ run, ((s.goesOn p).part p).run = some run → run.finishing = false := by
  intro run
  unfold State.goesOn
  split
  · rw [State.part_modPart]
    intro h
    obtain ⟨r, -, rfl⟩ := Option.map_eq_some_iff.1 h
    rfl
  next hn =>
    intro h
    exact absurd (by rw [h]; rfl) hn

theorem State.goesOn_ne (s : State) {p r : Nat} (h : p ≠ r) : (s.goesOn r).part p = s.part p := by
  unfold State.goesOn
  split
  · exact State.part_modPart_ne _ _ _ _ h
  · rfl

/-- The runs go on and the clusters of those that serve come up. -/
def State.allGoOn (s : State) : State := s.each (List.range 16) fun t p => (t.goesOn p).place p

theorem State.allGoOn_of {fd : Fld} (s : State) (hf : fd ∉ [Fld.clusters, .parts]) : fd.of s.allGoOn = fd.of s :=
  Fld.of_each _ fun t p => by
    refine (State.place_of _ _ (Fld.not_mem hf)).trans ?_
    unfold State.goesOn
    split
    · exact State.modPart_of _ _ _ (Fld.not_mem hf)
    · rfl

theorem State.allGoOn_set (s : State) {p : Nat} (hp : p < 16) : ∀ run, (s.allGoOn.part p).run = some run → run.finishing = false := by
  have hplace (t : State) (r : Nat) : (t.place r).part p = t.part p := State.part_congr (State.place_of (fd := .parts) t r (by decide)) p
  refine (State.each_establishes (I := fun _ => True) (Q := fun t => ∀ run, (t.part p).run = some run → run.finishing = false)
    (List.mem_range.2 hp) trivial (fun _ _ _ _ => trivial) (fun t _ run h => ?_) fun t _ ht r _ run h => ?_).2
  · exact t.goesOn_set p run (hplace _ p ▸ h)
  · have h := hplace (t.goesOn r) r ▸ h
    by_cases hr : p = r
    · subst hr
      exact t.goesOn_set p run h
    · exact ht run (t.goesOn_ne hr ▸ h)

/-- A brace that aborts: the finishing runs go on as others do. -/
theorem State.abortBrace_aborts (s : State) : let t := s.abortBrace
    t.pfw = s.pfw ∧ t.pfwHighSince = s.pfwHighSince ∧ t.estate = .e0 ∧ t.brace = none ∧ t.lastAbort = some s.now ∧
      (∃ r ∈ t.faults, r.code = 0x0402#16) ∧ (∃ r ∈ t.faults, r.code = 0x0407#16) ∧
      ∀ p run, p < 16 → (t.part p).run = some run → run.finishing = false := by
  intro t
  let z : State := { s with brace := none, lastAbort := some s.now }
  let u := z.log 0x0402 none none none 0 s.authorityPup
  let v := u.allGoOn
  let a := v.toState .e0
  let b := a.log 0x0407 none none none 0 v.authorityPup
  have ht : t = b.rejoin := rfl
  have htb {fd : Fld} (hf : fd ∉ [Fld.links]) : fd.of t = fd.of b := (congrArg fd.of ht).trans (State.rejoin_of b hf)
  have hba {fd : Fld} (hf : fd ∉ [Fld.faults, .faultSeq, .faultsLost]) : fd.of b = fd.of a := State.log_of _ _ _ _ _ _ _ _ hf
  have hav {fd : Fld} (hf : fd ∉ [Fld.windows, .estate, .stateEt]) : fd.of a = fd.of v := State.toState_of _ _ hf
  have hvu {fd : Fld} (hf : fd ∉ [Fld.clusters, .parts]) : fd.of v = fd.of u := State.allGoOn_of u hf
  have hus {fd : Fld} (hf : fd ∉ [Fld.faults, .faultSeq, .faultsLost]) : fd.of u = fd.of z := State.log_of _ _ _ _ _ _ _ _ hf
  have hall {fd : Fld} (hf : fd ∉ [Fld.links, .faults, .faultSeq, .faultsLost, .windows, .estate, .stateEt, .clusters, .parts]) :
      fd.of t = fd.of z :=
    (htb (Fld.not_mem hf)).trans ((hba (Fld.not_mem hf)).trans ((hav (Fld.not_mem hf)).trans ((hvu (Fld.not_mem hf)).trans (hus (Fld.not_mem hf)))))
  have hfirst : u.Recent 1 0x0402 := .new ..
  have hboth : b.Recent 2 0x0402 := State.Recent.log ((hfirst.of_faults (hvu (by decide))).of_faults (hav (by decide))) (by decide) ..
  have hlast : b.Recent 1 0x0407 := .new ..
  have hfin (p : Nat) (hp : p < 16) := u.allGoOn_set hp
  have hparts : t.parts = v.parts := (htb (fd := .parts) (by decide)).trans ((hba (fd := .parts) (by decide)).trans (hav (fd := .parts) (by decide)))
  clear_value t
  refine ⟨hall (fd := .pfw) (by decide), hall (fd := .pfwHighSince) (by decide), ?_, hall (fd := .brace) (by decide), hall (fd := .lastAbort) (by decide),
    (hboth.of_faults (htb (by decide))).mem, (hlast.of_faults (htb (by decide))).mem, fun p run hp hrun => ?_⟩
  · exact (htb (fd := .estate) (by decide)).trans ((hba (fd := .estate) (by decide)).trans (State.toState_estate v .e0))
  · exact hfin p hp run (State.part_congr hparts p ▸ hrun)

/-! ## The completion of a brace (R366, R370, R371) -/

theorem PartState.Closes.braced {q r : PartState} (h : q.Closes r) : r.braced = q.braced := by rw [h.1]

/-- Partition p has been through a brace. -/
def State.Braced (p : Nat) (s : State) : Prop := (s.part p).braced = true

namespace State.Braced
variable {p : Nat} {s : State}

theorem of_parts {t : State} (h : s.Braced p) (hp : Fld.of .parts t = Fld.of .parts s) : t.Braced p := by
  unfold State.Braced
  rw [State.part_congr (s := s) (t := t) hp]
  exact h

theorem dropCompl (h : s.Braced p) (l : List Compl) : (s.dropCompl l).Braced p :=
  State.each_induct (P := State.Braced p) h fun t ht c _ => by
    by_cases hc : p = c.part.val
    · exact (PartState.Closes.braced (Closes.discarded hc.symm)).trans ht
    · exact (congrArg PartState.braced ((Local.discarded rfl).parts p hc)).trans ht

theorem restLinks (h : s.Braced p) : s.restLinks.Braced p := by
  unfold State.Braced State.part State.restLinks
  dsimp only
  rw [sget_smapAll_keeps rfl]
  · exact h
  · intro he
    have h : (sget {} s.parts p).braced = true := h
    exact absurd (h.symm.trans (congrArg PartState.braced he : _ = ({} : PartState).braced)) (by decide)

theorem dropHeld (h : s.Braced p) : s.dropHeld.Braced p :=
  State.each_induct (P := State.Braced p) h fun t ht hf _ => (ht.dropCompl _).of_parts (State.modWindow_of _ _ _ _ (by decide))

end State.Braced

/-- E2 as it is reached, before a source that is latched already starts the exit. -/
theorem State.enterE2_reaches (s : State) (arm : Bool) : ∃ w : State, s.enterE2 arm = w.latchQuiet.tryExit ∧
    (∀ {fd : Fld}, fd ∉ [Fld.sub, .etClock, .cores, .spad, .flights, .credits, .clusters, .coreEvents, .regReplies, .noTargets, .hbm, .hostMem,
      .windows, .violCounts, .longs, .parts, .links, .estate, .stateEt, .draining, .quietArmed, .brace, .rails, .faults, .faultSeq, .faultsLost,
      .freeCount] → fd.of w = fd.of s) ∧
    w.estate = .e2 ∧ w.brace = none ∧ w.quietArmed = arm ∧ (∀ k code, k < 16384 → s.Recent k code → w.Recent (k + 1) code) ∧
    (∀ p, s.Braced p → w.Braced p) ∧ w.rails = s.rails.standby := by
  let r := s.stopAllDma.dropHeld.restLinks
  let u := r.restWafer.stopTests
  let v : State := { u with rails := u.rails.standby, brace := none, draining := false, quietArmed := arm, sub := 0
                            etClock := if u.etClock = .tclk then .alwaysOn else u.etClock }
  let x := v.toState .e2
  let y := x.log 0x0405 none none none 0 v.authorityPup
  let w := y.finishAll (fun l => l.code == 0x04#8) stOk
  have hw : s.enterE2 arm = w.latchQuiet.tryExit := rfl
  have hrs {fd : Fld} (hf : fd ∉ [Fld.clusters, .windows, .parts, .links, .hbm, .hostMem, .violCounts, .freeCount]) : fd.of r = fd.of s :=
    (State.restLinks_of _ (Fld.not_mem hf)).trans ((State.dropHeld_of _ (Fld.not_mem hf)).trans (State.stopAllDma_of _ (Fld.not_mem hf)))
  have hur {fd : Fld} (hf : fd ∉ [Fld.cores, .spad, .flights, .credits, .clusters, .coreEvents, .regReplies, .noTargets]) : fd.of u = fd.of r :=
    (State.stopTests_of _ (Fld.not_mem hf)).trans (State.restWafer_of _ (Fld.not_mem hf))
  have hvu {fd : Fld} (hf : fd ∉ [Fld.rails, .brace, .draining, .quietArmed, .sub, .etClock]) : fd.of v = fd.of u :=
    Fld.of_set_rails_brace_draining_quietArmed_sub_etClock u _ _ _ _ _ _ hf
  have hxv {fd : Fld} (hf : fd ∉ [Fld.windows, .estate, .stateEt]) : fd.of x = fd.of v := State.toState_of _ _ hf
  have hyx {fd : Fld} (hf : fd ∉ [Fld.faults, .faultSeq, .faultsLost]) : fd.of y = fd.of x := State.log_of _ _ _ _ _ _ _ _ hf
  have hwy {fd : Fld} (hf : fd ∉ [Fld.windows, .longs]) : fd.of w = fd.of y := State.finishAll_of_ne stOk_ne _ _ hf
  have hest : x.estate = .e2 := State.toState_estate v .e2
  have hbr : v.brace = none ∧ v.quietArmed = arm ∧ v.rails = u.rails.standby := ⟨rfl, rfl, rfl⟩
  have hlog (k code : Nat) (hk : k < 16384) (h : x.Recent k code) : y.Recent (k + 1) code := h.log hk ..
  have hbraced (p : Nat) (h : s.Braced p) : r.Braced p := ((h.of_parts (State.stopAllDma_of _ (by decide))).dropHeld).restLinks
  refine ⟨w, hw, ?_⟩
  clear hw
  clear_value w y x v u r
  refine ⟨fun {fd} hf => (hwy (Fld.not_mem hf)).trans ((hyx (Fld.not_mem hf)).trans ((hxv (Fld.not_mem hf)).trans ((hvu (Fld.not_mem hf)).trans
    ((hur (Fld.not_mem hf)).trans (hrs (Fld.not_mem hf)))))), ?_, ?_, ?_, fun k code hk h => ?_, fun p h => ?_, ?_⟩
  · exact (hwy (fd := .estate) (by decide)).trans ((hyx (fd := .estate) (by decide)).trans hest)
  · exact (hwy (fd := .brace) (by decide)).trans ((hyx (fd := .brace) (by decide)).trans ((hxv (fd := .brace) (by decide)).trans hbr.1))
  · exact (hwy (fd := .quietArmed) (by decide)).trans ((hyx (fd := .quietArmed) (by decide)).trans ((hxv (fd := .quietArmed) (by decide)).trans hbr.2.1))
  · exact (hlog k code hk ((((h.of_faults (hrs (by decide))).of_faults (hur (by decide))).of_faults (hvu (by decide))).of_faults
      (hxv (by decide)))).of_faults (hwy (by decide))
  · exact ((((hbraced p h).of_parts (hur (by decide))).of_parts (hvu (by decide))).of_parts (hxv (by decide)) |>.of_parts
      (hyx (by decide))).of_parts (hwy (by decide))
  · have hu : u.rails = s.rails := (hur (fd := .rails) (by decide)).trans (hrs (fd := .rails) (by decide))
    exact (hwy (fd := .rails) (by decide)).trans ((hyx (fd := .rails) (by decide)).trans ((hxv (fd := .rails) (by decide)).trans
      (hbr.2.2.trans (congrArg Rails.standby hu))))

theorem State.tryExit_loud {s : State} (h : s.quiet = false) : s.tryExit = s := by
  refine if_neg ?_
  rw [h]
  simp

theorem State.latchQuiet_loud {s : State} (h : s.quiet = false) : s.latchQuiet = s := by
  refine if_neg ?_
  rw [h, Bool.and_false]
  exact Bool.false_ne_true

/-- Whether PFW_N is quiet depends on its level, its last rise, the time and the policy. -/
theorem State.quiet_congr {s t : State} (hp : t.pfw = s.pfw) (hh : t.pfwHighSince = s.pfwHighSince) (hpol : t.policy = s.policy) (hn : t.now = s.now) :
    t.quiet = s.quiet := by
  unfold State.quiet
  rw [hp, hh, hpol, hn]

theorem State.Recent.mono {s : State} {k m code : Nat} (h : s.Recent k code) (hk : k ≤ m) : s.Recent m code := by
  obtain ⟨r, hr, hc⟩ := h
  refine ⟨r, List.mem_of_mem_drop (i := s.faults.length - k - (s.faults.length - m)) ?_, hc⟩
  rw [List.drop_drop, show s.faults.length - m + (s.faults.length - k - (s.faults.length - m)) = s.faults.length - k by omega]
  exact hr

/-- The exit from E1 begins if PFW_N is quiet, and else nothing does. -/
theorem State.exitE1_begins {s : State} {b : Brace} (hb : s.brace = some b) (he : s.estate = .e1) (hc : b.complete = true) (hx : b.exiting = false) :
    let t := s.exitE1
    (∀ {fd : Fld}, fd ∉ [Fld.clusters, .brace, .faults, .faultSeq, .faultsLost] → fd.of t = fd.of s) ∧
      t.brace = some { b with exiting := s.quiet } ∧ ∀ k code, k < 16384 → s.Recent k code → t.Recent (k + 1) code := by
  intro t
  have ht : t = s.exitE1 := rfl
  clear_value t
  subst ht
  refine ⟨fun hf => State.exitE1_of s hf, ?_⟩
  rw [State.exitE1, hb]
  dsimp only
  cases hq : s.quiet with
  | false =>
    rw [if_neg (by simp)]
    refine ⟨?_, fun k code _ h => h.mono (Nat.le_succ k)⟩
    rw [← hx]
    exact hb
  | true =>
    rw [if_pos (by rw [he, hc, hx]; rfl)]
    let u : State := ({ s with brace := some { b with exiting := true } } : State).log 0x0406 none none none 0 s.authorityPup
    have hframe {fd : Fld} (hf : fd ∉ [Fld.clusters]) : fd.of (u.each (List.range 16) fun t p =>
        if (t.part p).bound.isSome then t.wakeAll (t.partClusters p) .c1 else t) = fd.of u := Fld.of_each _ fun t p => by
      split
      · exact State.wakeAll_of _ _ _ hf
      · rfl
    have hub : u.brace = some { b with exiting := true } :=
      State.log_of (fd := .brace) { s with brace := some { b with exiting := true } } 0x0406 none none none 0 s.authorityPup 0 (by decide)
    refine ⟨(hframe (fd := .brace) (by decide)).trans hub, fun k code hk h => ?_⟩
    exact State.Recent.of_faults (State.Recent.log (State.Recent.of_faults (t := { s with brace := some { b with exiting := true } }) h rfl) hk ..)
      (hframe (by decide))

/-- BRACE_HOLD is over with PFW_N not quiet, on an edge that hands ET over (R371). -/
def State.Held (s : State) (b : Brace) : Prop :=
  s.quiet = false ∧ b.time + msCclk s.policy.braceHold ≤ s.now ∧ s.handover = true ∧ s.supply = .up

theorem State.Held.congr {s t : State} {b c : Brace} (hq : t.quiet = s.quiet) (hpol : t.policy = s.policy) (hn : t.now = s.now) (hs : t.sub = s.sub)
    (het : t.et = s.et) (hsup : t.supply = s.supply) (hc : c.time = b.time) : t.Held c ↔ s.Held b := by
  have hh : t.handover = s.handover := by unfold State.handover State.onEdge State.tick; rw [hs, het]
  unfold State.Held
  rw [hq, hpol, hn, hh, hsup, hc]

theorem State.braceHeld_eq {s : State} {b : Brace} (hb : s.brace = some b) (he : s.estate = .e1) (hc : b.complete = true) (hx : b.exiting = false) :
    (s.Held b → s.braceHeld = s.enterE2 true) ∧ (¬ s.Held b → s.braceHeld = s) := by
  have hiff : (s.supply == .up && s.estate == .e1 && b.complete && !b.exiting && !s.quiet && decide (b.time + msCclk s.policy.braceHold ≤ s.now) &&
      s.handover) = true ↔ s.Held b := by
    unfold State.Held
    rw [he, hc, hx]
    simp only [Bool.and_eq_true, beq_iff_eq, Bool.not_eq_true', decide_eq_true_eq]
    exact ⟨fun ⟨⟨⟨⟨⟨⟨hs, _⟩, _⟩, _⟩, hq⟩, ht⟩, hh⟩ => ⟨hq, ht, hh, hs⟩, fun ⟨hq, ht, hh, hs⟩ => ⟨⟨⟨⟨⟨⟨hs, trivial⟩, trivial⟩, trivial⟩, hq⟩, ht⟩, hh⟩⟩
  rw [State.braceHeld, hb]
  exact ⟨fun h => if_pos (hiff.2 h), fun h => if_neg (mt hiff.1 h)⟩

theorem State.braceHeld_exiting {s : State} {b : Brace} (hb : s.brace = some b) (hx : b.exiting = true) : s.braceHeld = s := by
  rw [State.braceHeld, hb]
  exact if_neg (by rw [hx]; simp)

/-- The brace has completed: each partition that exists is marked (R370). -/
def State.braceMarked (s : State) (b : Brace) : State :=
  (({ s with brace := some b } : State).log 0x0404 none none none 0 s.authorityPup).each s.existing fun t p =>
    t.modPart p fun q => { q with braced := true }

theorem State.braceMarked_marks (s : State) (b : Brace) : let t := s.braceMarked b
    (∀ {fd : Fld}, fd ∉ [Fld.brace, .faults, .faultSeq, .faultsLost, .parts] → fd.of t = fd.of s) ∧ t.brace = some b ∧ t.Recent 1 0x0404 ∧
      ∀ p, p < 16 → s.exists p = true → t.Braced p := by
  intro t
  let z : State := { s with brace := some b }
  let u := z.log 0x0404 none none none 0 s.authorityPup
  have htu {fd : Fld} (hf : fd ∉ [Fld.parts]) : fd.of t = fd.of u := Fld.of_each _ fun x p => State.modPart_of _ _ _ hf
  have huz {fd : Fld} (hf : fd ∉ [Fld.faults, .faultSeq, .faultsLost]) : fd.of u = fd.of z := State.log_of _ _ _ _ _ _ _ _ hf
  refine ⟨fun hf => (htu (Fld.not_mem hf)).trans ((huz (Fld.not_mem hf)).trans (Fld.of_upd (s := s) (L := [.brace]) rfl (Fld.not_mem hf))),
    (htu (fd := .brace) (by decide)).trans (huz (fd := .brace) (by decide)), ?_, fun p hp hex => ?_⟩
  · exact (State.Recent.new z ..).of_faults (htu (by decide))
  · exact (State.each_establishes (I := fun _ => True) (Q := State.Braced p) (List.mem_filter.2 ⟨List.mem_range.2 hp, hex⟩) trivial
      (fun _ _ _ _ => trivial) (fun x _ => by unfold State.Braced; rw [State.part_modPart]) fun x _ hx r _ => by
        unfold State.Braced
        by_cases hr : p = r
        · subst hr
          rw [State.part_modPart]
        · rw [State.part_modPart_ne _ _ _ _ hr]
          exact hx).2

/-- A brace that completes, with the exit from E1 or the way to E2 where one begins. -/
theorem State.braceComplete_completes {s : State} {b : Brace} (hb : s.brace = some b) (he : s.estate = .e1) (hcom : b.committed = true)
    (hc : b.complete = false) (hx : b.exiting = false) (hdone : s.braceDone = true) : let t := s.braceComplete
    (∃ r ∈ t.faults, r.code = 0x0404#16) ∧ (∀ p, p < 16 → s.exists p = true → (t.part p).braced = true) ∧
      (¬ s.Held b → t.estate = .e1 ∧ t.brace = some { b with complete := true, exiting := s.quiet }) ∧
      (s.Held b → s.aonWake = 0#4 → t.estate = .e2 ∧ t.brace = none ∧ t.quietArmed = true) := by
  intro t
  have ht : t = ((s.braceMarked { b with complete := true }).exitE1).braceHeld := by
    dsimp only [t]
    rw [State.braceComplete, hb]
    exact if_pos (by rw [he, hcom, hc, hdone]; rfl)
  clear_value t
  obtain ⟨hvf, hvb, hvr, hvp⟩ := s.braceMarked_marks { b with complete := true }
  generalize s.braceMarked { b with complete := true } = v at hvf hvb hvr hvp ht
  have hve : v.estate = .e1 := (hvf (fd := .estate) (by decide)).trans he
  have hq : v.quiet = s.quiet := State.quiet_congr (hvf (fd := .pfw) (by decide)) (hvf (fd := .pfwHighSince) (by decide))
    (hvf (fd := .policy) (by decide)) (hvf (fd := .now) (by decide))
  obtain ⟨hef, heb, her⟩ := State.exitE1_begins hvb hve rfl hx
  generalize v.exitE1 = e at hef heb her ht
  have hee : e.estate = .e1 := (hef (fd := .estate) (by decide)).trans hve
  have heq : e.quiet = v.quiet := State.quiet_congr (hef (fd := .pfw) (by decide)) (hef (fd := .pfwHighSince) (by decide))
    (hef (fd := .policy) (by decide)) (hef (fd := .now) (by decide))
  have hrec : e.Recent 2 0x0404 := her 1 _ (by decide) hvr
  have hbraced (p : Nat) (hp : p < 16) (hex : s.exists p = true) : e.Braced p := (hvp p hp hex).of_parts (hef (by decide))
  rw [hq] at heb
  cases hsq : s.quiet with
  | true =>
    rw [hsq] at heb
    rw [State.braceHeld_exiting heb rfl] at ht
    subst ht
    refine ⟨hrec.mem, hbraced, fun _ => ⟨hee, heb⟩, fun h => ?_⟩
    exact absurd (hsq.symm.trans h.1) (by decide)
  | false =>
    rw [hsq] at heb
    have hall {fd : Fld} (hf : fd ∉ [Fld.brace, .faults, .faultSeq, .faultsLost, .parts, .clusters]) : fd.of e = fd.of s :=
      (hef (Fld.not_mem hf)).trans (hvf (Fld.not_mem hf))
    have hiff : e.Held { b with complete := true, exiting := false } ↔ s.Held b := State.Held.congr (heq.trans hq) (hall (fd := .policy) (by decide))
      (hall (fd := .now) (by decide)) (hall (fd := .sub) (by decide)) (hall (fd := .et) (by decide)) (hall (fd := .supply) (by decide)) rfl
    obtain ⟨hyes, hno⟩ := State.braceHeld_eq heb hee rfl rfl
    rw [hiff] at hyes hno
    by_cases hh : s.Held b
    · rw [hyes hh] at ht
      obtain ⟨w, hw, hwf, hwe, hwb, hwq, hwr, hwp, -⟩ := e.enterE2_reaches true
      have hloud : w.quiet = false := (State.quiet_congr (hwf (fd := .pfw) (by decide)) (hwf (fd := .pfwHighSince) (by decide))
        (hwf (fd := .policy) (by decide)) (hwf (fd := .now) (by decide))).trans (heq.trans (hq.trans hsq))
      rw [State.latchQuiet_loud hloud, State.tryExit_loud hloud] at hw
      rw [ht, hw]
      exact ⟨(hwr 2 _ (by decide) hrec).mem, fun p hp hex => hwp p (hbraced p hp hex), fun h => absurd hh h, fun _ _ => ⟨hwe, hwb, hwq⟩⟩
    · rw [hno hh] at ht
      subst ht
      exact ⟨hrec.mem, hbraced, fun _ => ⟨hee, heb⟩, fun h => absurd h hh⟩

/-- The commit point: every partition without a run goes down (R365). -/
theorem State.commit_commits {s : State} {b : Brace} (hb : s.brace = some b) (hc : b.committed = false) (hd : b.time + 3000000 ≤ s.now) :
    let t := s.commit
    t.brace = some { b with committed := true } ∧ t.estate = s.estate ∧ (∃ r ∈ t.faults, r.code = 0x0403#16) ∧
      ∀ p, p < 16 → (s.part p).run = none → ∀ c ∈ s.partClusters p, (t.cluster c).goesDown (s.part p).bracedState := by
  intro t
  obtain ⟨v, hv⟩ : ∃ v : State, v = { s.forcedStop with brace := some { b with committed := true } } := ⟨_, rfl⟩
  obtain ⟨u, hu⟩ : ∃ u : State, u = v.powerDown := ⟨_, rfl⟩
  have ht : t = u.log 0x0403 none none none 0 s.authorityPup := by
    dsimp only [t]
    rw [State.commit, hb, hu, hv]
    exact if_neg fun h => h.elim (fun h => by rw [hc] at h; cases h) (Nat.not_lt.2 hd)
  clear_value t
  have hvs {fd : Fld} (hf : fd ∉ [Fld.brace]) : fd.of v = fd.of s.forcedStop := (congrArg fd.of hv).trans (Fld.of_set_brace _ _ hf)
  have hvb : v.brace = some { b with committed := true } := congrArg State.brace hv
  have hve : v.estate = s.estate := (hvs (fd := .estate) (by decide)).trans (State.forcedStop_of (fd := .estate) s (by decide))
  have hpart (p : Nat) (h : (s.part p).run = none) : v.part p = s.part p :=
    (State.part_congr (hvs (fd := .parts) (by decide)) p).trans (State.forcedStop_others (s := s) h)
  have huv {fd : Fld} (hf : fd ∉ [Fld.clusters]) : fd.of u = fd.of v := (congrArg fd.of hu).trans (State.powerDown_of v hf)
  have htu {fd : Fld} (hf : fd ∉ [Fld.faults, .faultSeq, .faultsLost]) : fd.of t = fd.of u :=
    (congrArg fd.of ht).trans (State.log_of _ _ _ _ _ _ _ _ hf)
  refine ⟨(htu (fd := .brace) (by decide)).trans ((huv (fd := .brace) (by decide)).trans hvb),
    (htu (fd := .estate) (by decide)).trans ((huv (fd := .estate) (by decide)).trans hve), ?_, fun p hp hrun c hcl => ?_⟩
  · rw [ht]
    exact State.log_mem ..
  · have hq := hpart p hrun
    have hgo := State.powerDown_goes (s := v) hp ((congrArg PartState.run hq).trans hrun) (show c ∈ (v.part p).cfg.clusters from hq ▸ hcl)
    rw [hq, ← hu] at hgo
    rw [State.cluster_congr (htu (fd := .clusters) (by decide))]
    exact hgo

/-- An exit from E1 that stops: the partitions without a run go down again (R373). -/
theorem State.stopExit_stops {s : State} {b : Brace} (hb : s.brace = some b) (hx : b.exiting = true) : let t := s.stopExit
    (∀ {fd : Fld}, fd ∉ [Fld.clusters, .brace] → fd.of t = fd.of s) ∧ t.brace = some { b with exiting := false } ∧
      ∀ p, p < 16 → (s.part p).run = none → ∀ c ∈ s.partClusters p, (t.cluster c).goesDown (s.part p).bracedState := by
  intro t
  obtain ⟨v, hv⟩ : ∃ v : State, v = { s with brace := some { b with exiting := false } } := ⟨_, rfl⟩
  have ht : t = v.powerDown := by
    dsimp only [t]
    rw [State.stopExit, hb, hv]
    exact if_pos hx
  clear_value t
  have hvs {fd : Fld} (hf : fd ∉ [Fld.brace]) : fd.of v = fd.of s := (congrArg fd.of hv).trans (Fld.of_set_brace _ _ hf)
  have htv {fd : Fld} (hf : fd ∉ [Fld.clusters]) : fd.of t = fd.of v := (congrArg fd.of ht).trans (State.powerDown_of v hf)
  refine ⟨fun hf => (htv (Fld.not_mem hf)).trans (hvs (Fld.not_mem hf)), (htv (fd := .brace) (by decide)).trans (congrArg State.brace hv),
    fun p hp hrun c hc => ?_⟩
  have hq : v.part p = s.part p := State.part_congr (hvs (fd := .parts) (by decide)) p
  have hgo := State.powerDown_goes (s := v) hp ((congrArg PartState.run hq).trans hrun) (show c ∈ (v.part p).cfg.clusters from hq ▸ hc)
  rw [hq, ← ht] at hgo
  exact hgo

theorem exec_pfwNAssert {s u : State} (hu : u = { s with pfw := true }) (h : s.pfw = false) (hs : s.supply = .up) : exec .pfwNAssert s = .next
    (match u.estate with
      | .e0 => u.braceStart
      | .e1 => u.stopExit
      | .resuming => (({ u.voltagesReached with quietArmed := true } : State).toState .e2).log 0x0405 none none none 0 u.voltagesReached.authorityPup
      | _ => u) := by
  refine congrArg Host.Outcome.next ?_
  rw [State.pfwLow, h, if_neg Bool.false_ne_true, hu]
  exact if_neg (by rw [hs]; decide)

theorem exec_pfwNDeassert {s : State} (h : s.pfw = true) : exec .pfwNDeassert s = .next
    (let u : State := { s with pfw := false, pfwHighSince := s.now }
     match u.brace with
      | some b => if b.abortable ∧ !b.committed ∧ u.now < b.time + msCclk 3 then u.abortBrace else u
      | none => u) := by
  refine congrArg Host.Outcome.next ?_
  rw [State.pfwHigh, h]
  exact if_neg (by decide)

/-- Settles O49: each clause by the lemma on its operation, with the records of the fault log kept as recent ones. -/
theorem bracePath : Obligations.BracePath := by
  unfold Obligations.BracePath
  intro b s held
  refine ⟨fun h hs he => ?_, fun h hs he hb hx => ?_, fun h hs he => ?_, fun h hn => ?_, fun h => ?_, fun h => ?_, fun h hb ha hc hn => ?_,
    fun h hn => ?_, ?_, fun hb hc hn => ⟨_, rfl, State.commit_commits hb hc hn⟩, fun hb hn => ?_, fun hb hn => ?_, fun hb hn => ?_,
    fun hb he hcom hc hx hd => ⟨_, rfl, State.braceComplete_completes hb he hcom hc hx hd⟩, fun hd => ?_⟩
  · obtain ⟨u, hu⟩ : ∃ u : State, u = { s with pfw := true } := ⟨_, rfl⟩
    have heu : u.estate = .e0 := hu ▸ he
    rw [exec_pfwNAssert hu h hs, heu]
    refine ⟨u.braceStart, rfl, ?_⟩
    have hstart := u.braceStart_starts
    generalize u.braceStart = t at hstart ⊢
    subst hu
    exact hstart
  · obtain ⟨u, hu⟩ : ∃ u : State, u = { s with pfw := true } := ⟨_, rfl⟩
    have heu : u.estate = .e1 := hu ▸ he
    rw [exec_pfwNAssert hu h hs, heu]
    refine ⟨u.stopExit, rfl, ?_⟩
    obtain ⟨hf, hbr, hdown⟩ := State.stopExit_stops (s := u) (b := b) (hu ▸ hb) hx
    generalize u.stopExit = t at hf hbr hdown ⊢
    have hpfw : t.pfw = u.pfw := hf (fd := .pfw) (by decide)
    have hest : t.estate = u.estate := hf (fd := .estate) (by decide)
    subst hu
    exact ⟨hpfw, hest.trans he, hbr, hdown⟩
  · obtain ⟨u, hu⟩ : ∃ u : State, u = { s with pfw := true } := ⟨_, rfl⟩
    have heu : u.estate = .resuming := hu ▸ he
    rw [exec_pfwNAssert hu h hs, heu]
    refine ⟨_, rfl, ?_⟩
    dsimp only
    generalize hv : ({ u.voltagesReached with quietArmed := true } : State) = v
    have hpfw : v.pfw = true := by
      rw [← hv]
      exact (State.voltagesReached_of (fd := .pfw) u (by decide)).trans (by rw [hu]; rfl)
    have harm : v.quietArmed = true := by rw [← hv]
    generalize ht : (v.toState .e2).log 0x0405 none none none 0 _ = t
    have hlog {fd : Fld} (hf : fd ∉ [Fld.faults, .faultSeq, .faultsLost]) : fd.of t = fd.of (v.toState .e2) :=
      (congrArg fd.of ht.symm).trans (State.log_of _ _ _ _ _ _ _ _ hf)
    have hst {fd : Fld} (hf : fd ∉ [Fld.windows, .estate, .stateEt]) : fd.of (v.toState .e2) = fd.of v := State.toState_of v .e2 hf
    exact ⟨((hlog (fd := .pfw) (by decide)).trans (hst (fd := .pfw) (by decide))).trans hpfw,
      (hlog (fd := .estate) (by decide)).trans (v.toState_estate .e2),
      ((hlog (fd := .quietArmed) (by decide)).trans (hst (fd := .quietArmed) (by decide))).trans harm, ht ▸ State.log_mem ..⟩
  · refine congrArg Host.Outcome.next ?_
    rw [State.pfwLow, h, if_neg Bool.false_ne_true]
    rcases hn with hn | hn
    · exact if_pos (by simpa using hn)
    · dsimp only
      rw [hn]
      exact ite_self _
  · exact congrArg Host.Outcome.next (if_pos h)
  · exact congrArg Host.Outcome.next (if_pos (by rw [h]; rfl))
  · rw [exec_pfwNDeassert h]
    dsimp only
    rw [hb]
    dsimp only
    rw [if_pos ⟨ha, by rw [hc]; rfl, hn⟩]
    exact ⟨_, rfl, State.abortBrace_aborts _⟩
  · rw [exec_pfwNDeassert h]
    refine congrArg Host.Outcome.next ?_
    dsimp only
    split
    next b hb =>
      refine if_neg fun ⟨ha, hc, ht⟩ => ?_
      rcases hn b hb with h | h | h
      · rw [h] at ha
        cases ha
      · rw [h] at hc
        cases hc
      · exact Nat.not_lt.2 h ht
    next => rfl
  · refine ⟨_, rfl, State.forcedStop_of (fd := .brace) s (by decide), State.forcedStop_of (fd := .estate) s (by decide),
      fun p run since hp hrun hst hd => State.forcedStop_stops hp hrun hst hd, State.forcedStop_none⟩
  · refine congrArg Host.Outcome.next ?_
    rw [State.commit, hb]
    exact if_pos (.inr hn)
  · refine ⟨_, rfl, ?_⟩
    have ht : s.cutoff = s.endFinishing rsBrace := by
      rw [State.cutoff, hb]
      exact if_pos hn
    rw [ht]
    exact ⟨State.endFinishing_of (fd := .estate) s _ (by decide), fun p run hp hrun hfin => State.endFinishing_ends hp hrun hfin _⟩
  · refine congrArg Host.Outcome.next ?_
    rw [State.cutoff, hb]
    exact if_neg (Nat.not_le.2 hn)
  · refine congrArg Host.Outcome.next ?_
    unfold State.braceComplete
    split
    · exact if_neg (by rw [hd]; simp)
    · rfl

end Sys2Proof.Machine
end

section
/-!
The exit from E2 with a PART.RESET that waits while a dump is in progress (R293, R341, R396).
-/

namespace Sys2Proof.Machine

open Sys2Proof

/-- The exit from E2 is due; a DUMP of P0 is in progress, and a PART.RESET of P0 waits for its recovery to end. -/
def State.resetInDump : State :=
  { supply := .up, estate := .resuming
    dump := some { die := 0, fn := 0, seq := 2, granules := [], dies := [], addrs := [] }
    parts := [(0, { life := .live, resetWait := some false })]
    longs := [{ die := 0, fn := 0, seq := 1, code := 0x13, sender := 0, part := 0, payload := [0, 0] },
      { die := 0, fn := 0, seq := 2, code := 0xA0, sender := 0, part := 0, payload := [] }] }

/-- Whether HBM is in self-refresh once the exit from E2 is complete. -/
def refreshAfterExit (s : State) : Option Bool :=
  match exec .standbyExit s with
  | .next t => some t.rails.hbmSelfRefresh
  | _ => none

/-- The PART.RESET takes place as the exit completes and cuts the DUMP off, which puts HBM back into self-refresh in E0. -/
theorem refreshAfterExit_resetInDump : refreshAfterExit State.resetInDump = some true := by decide +kernel

/-- Refutes O50: the exit from E2 sets the rails of E0 and then lets a PART.RESET that waits take place, which cuts a DUMP of its
partition off and puts HBM back into self-refresh. -/
theorem not_standbyPath : ¬ Obligations.StandbyPath := by
  unfold Obligations.StandbyPath
  intro h
  obtain ⟨-, -, -, -, -, -, -, -, -, hexit, -⟩ := h { time := 0, et := 0, abortable := true } 0 0 0 0 0 State.resetInDump rfl
  obtain ⟨t, ht, -, hrails, -⟩ := hexit rfl rfl rfl rfl
  have hr := refreshAfterExit_resetInDump
  have hrun : refreshAfterExit State.resetInDump = some t.rails.hbmSelfRefresh := by rw [refreshAfterExit, ht]
  rw [hrun, hrails] at hr
  exact absurd hr (by decide)

end Sys2Proof.Machine
end

section
/-!
Recovery from faults (R380, R384 to R388, R395): heartbeats, edge requests, field repair, understudies, and the authority.
-/

namespace Sys2Proof.Machine

open Sys2Proof

theorem Sensed.marks {s t : State} (h : Sensed s t) (c : Nat) : (t.cluster c).marks = (s.cluster c).marks :=
  congrArg (fun x => x.2.2.2.2) (h.cluster c)

theorem Sensed.beginRecovery (s : State) (p : Nat) : Sensed s (s.beginRecovery p) :=
  ⟨fun c => s.beginRecovery_keeps Cluster.enter_sensed (fun _ => rfl) p c⟩

/-! ## Heartbeats (R384) -/

theorem Cluster.beat_beat (k : Cluster) (now : Nat) : (k.beat now).beat now = k.beat now := by
  cases h : k.retired || k.resetting with
  | true => simp [Cluster.beat, h]
  | false => simp [Cluster.beat, h]

/-- A heartbeat goes out to every listed Marionette once. -/
theorem State.beatAll_beats (s : State) (l : List Nat) : let t := s.each l fun t c => t.modCluster c fun k => k.beat t.now
    ClustersOnly s t ∧ ∀ d ∈ l, t.cluster d = (s.cluster d).beat s.now := by
  refine ⟨State.eq_patch [.clusters] fun fd hfd => Fld.of_each _ fun u c => State.modCluster_of u c _ hfd, fun d hd => ?_⟩
  let I : State → Prop := fun u => u.now = s.now ∧ (u.cluster d = s.cluster d ∨ u.cluster d = (s.cluster d).beat s.now)
  have hset (u : State) (hu : I u) : (u.modCluster d fun k => k.beat u.now).cluster d = (s.cluster d).beat s.now := by
    obtain ⟨hn, hc | hc⟩ := hu
    · rw [State.cluster_modCluster, hn, hc]
    · rw [State.cluster_modCluster, hn, hc, Cluster.beat_beat]
  refine (State.each_establishes (I := I) (f := fun t c => t.modCluster c fun k => k.beat t.now)
    (Q := fun u => u.cluster d = (s.cluster d).beat s.now) hd ⟨rfl, .inl rfl⟩
    (fun u hu c _ => ⟨hu.1, ?_⟩) hset fun u hi hu c _ => ?_).2
  · by_cases hc : d = c
    · subst hc
      exact .inr (hset u hu)
    · rw [State.cluster_modCluster_ne _ _ _ _ hc]
      exact hu.2
  · by_cases hc : d = c
    · subst hc
      exact hset u hi
    · rw [State.cluster_modCluster_ne _ _ _ _ hc]
      exact hu

/-! ## Seizures leave the clusters' marks -/

theorem Sensed.abandonLease (s : State) (kind index : Nat) : Sensed s (s.abandonLease kind index) := by
  unfold State.abandonLease
  refine .ite (.of_clusters rfl) (.ite ?_ (.ite (.of_of ?_) (.ite (.modCluster s index fun _ => rfl) (.refl s))))
  · split
    · exact .of_of (State.dropChannel_of s _ _ (by decide))
    · exact .refl s
  · exact (State.faulted_of _ _ (by decide)).trans ((State.reply_of _ _ _ _ _ _ _ _ (by decide)).trans (State.modWindow_of _ _ _ _ (by decide)))

theorem Sensed.seizeOne (s : State) (x : Seized) : Sensed s (s.seizeOne x) := by
  unfold State.seizeOne
  extract_lets holder u
  have hu : Sensed s u := .ite (.modCluster s holder fun _ => rfl) (.refl s)
  exact hu.trans ((Sensed.abandonLease u _ _).trans (.of_of ((State.log_of _ _ _ _ _ _ _ _ (by decide)).trans (State.release_of _ _ _ (by decide)))))

theorem Sensed.seizeAll (s : State) (holder : Nat) : Sensed s (s.seizeAll holder) := by
  have h1 : Sensed s _ := (Sensed.refl s).each (l := s.leasesOf holder) fun t x => Sensed.beginRecovery t (x.tag.toNat / 4096)
  have h2 := h1.each (l := s.leasesOf holder) Sensed.seizeOne
  exact h2.each (l := s.leasesOf holder) fun t x => .of_of (State.tryResume_of t (x.tag.toNat / 4096) (by decide))

theorem State.seizeAll_none {s : State} {holder : Nat} (h : s.leasesOf holder = []) : s.seizeAll holder = s := by
  rw [State.seizeAll, h]
  rfl

/-! ## The Marionette's faults (R384) -/

/-- A Marionette found faulty is in reset, with no heartbeat missed; the record tells its cluster. -/
theorem State.marionetteFaulty_resets (s : State) (c : Nat) : let t := s.marionetteFaulty c
    (t.cluster c).resetting = true ∧ (t.cluster c).missed = 0 ∧ (s.leasesOf c = [] → ∃ x ∈ t.faults, x.code = 0x0204#16) := by
  intro t
  obtain ⟨u, hu⟩ : ∃ u : State, u = (s.modCluster c fun k => { k with missed := 0, resetting := true }).log 0x0204 (s.partOf c) (some c) := ⟨_, rfl⟩
  obtain ⟨v, hv⟩ : ∃ v : State, v = u.seizeAll c := ⟨_, rfl⟩
  have ht : t = match s.partOf c with | some p => v.beginRecovery p | none => v := by
    subst hv hu
    rfl
  have huc : u.cluster c = { s.cluster c with missed := 0, resetting := true } := by
    rw [hu, State.cluster_congr (State.log_of (fd := .clusters) _ _ _ _ _ _ _ _ (by decide)), State.cluster_modCluster]
  have hlog : ∃ x ∈ u.faults, x.code = 0x0204#16 := hu ▸ State.log_mem ..
  have hleases : u.leasesOf c = s.leasesOf c := by rw [hu]; rfl
  have hsame : s.leasesOf c = [] → v.faults = u.faults := fun h => by rw [hv, State.seizeAll_none (hleases.trans h)]
  have hsv : Sensed u v := hv ▸ Sensed.seizeAll u c
  have hst : Sensed v t ∧ t.faults = v.faults := by
    rw [ht]
    split
    · exact ⟨.beginRecovery v _, State.beginRecovery_of (fd := .faults) v _ (by decide)⟩
    · exact ⟨.refl v, rfl⟩
  clear_value t
  have hm : (t.cluster c).marks = (u.cluster c).marks := (hsv.trans hst.1).marks c
  rw [huc] at hm
  refine ⟨congrArg (·.2.1) hm, congrArg (·.2.2.1) hm, fun h => ?_⟩
  rw [hst.2, hsame h]
  exact hlog

/-- A cluster retires, and keeps its row map. -/
theorem State.retire_retires (s : State) (c cause : Nat) : ((s.retire c cause).cluster c).retired = true ∧
    ((s.retire c cause).cluster c).marks = (true, (s.cluster c).marks.2) := by
  unfold State.retire
  extract_lets u v
  have hu : u.cluster c = { s.cluster c with retired := true } := by
    have h := State.cluster_congr (State.log_of (fd := .clusters) (s.modCluster c fun k => { k with retired := true }) 0x0303 (s.partOf c) (some c) none 0 15
      cause (by decide)) c
    exact h.trans (State.cluster_modCluster ..)
  have hv : (v.cluster c).marks = (true, (s.cluster c).marks.2) := by
    have h1 : Sensed u v := Sensed.trans (.of_of (State.sealCluster_of u c (by decide))) (.modCluster _ c fun k => k.enter_sensed .c3)
    rw [h1.marks c, hu]
    rfl
  have hend {t : State} (h : Fld.of .clusters t = Fld.of .clusters v) : (t.cluster c).retired = true ∧
      (t.cluster c).marks = (true, (s.cluster c).marks.2) := by
    rw [State.cluster_congr h]
    exact ⟨congrArg Prod.fst hv, hv⟩
  clear_value v
  split
  · exact hend rfl
  · exact hend (Fld.of_each (f := .clusters) _ fun t x => by
      obtain ⟨c', lc, d⟩ := x
      dsimp only
      split
      · exact State.modCore_of _ _ _ (by decide)
      · rfl)

/-- A Marionette's reset that passes leaves the cluster in service if it was, and one that fails retires it. -/
theorem State.marionetteBack_marks (s : State) (c : Nat) (passed : Bool) :
    ((s.marionetteBack c passed).cluster c).marks = ((s.cluster c).retired || !passed, false, (s.cluster c).missed, (s.cluster c).spareBad, (s.cluster c).omitXor, []) := by
  unfold State.marionetteBack
  extract_lets p u r v
  clear_value p
  have hu : (u.cluster c).marks = ((s.cluster c).retired, false, (s.cluster c).missed, (s.cluster c).spareBad, (s.cluster c).omitXor, []) :=
    congrArg Cluster.marks (State.cluster_modCluster ..)
  have hv : (v.cluster c).marks = ((s.cluster c).retired || !passed, false, (s.cluster c).missed, (s.cluster c).spareBad, (s.cluster c).omitXor, []) := by
    clear_value u
    dsimp only [v]
    split
    next hp =>
      rw [hu, hp, Bool.not_true, Bool.or_false]
    next hp =>
      have hlog {t : State} (h : Fld.of .clusters t = Fld.of .clusters r) :
          (t.cluster c).marks = ((s.cluster c).retired || !passed, false, (s.cluster c).missed, (s.cluster c).spareBad, (s.cluster c).omitXor, []) := by
        rw [State.cluster_congr h, show r.cluster c = _ from State.cluster_congr (State.log_of (fd := .clusters) (u.retire c 5) 0x0204 p (some c) none 0 15 1 (by decide)) c,
          (u.retire_retires c 5).2, hu, Bool.eq_false_of_not_eq_true hp, Bool.not_false, Bool.or_true]
      cases p with
      | some p => exact hlog (State.unverify_of _ _ (by decide))
      | none => exact hlog rfl
  clear_value v
  cases p with
  | some p => exact ((Sensed.resume v p).marks c).trans hv
  | none => exact hv

/-! ## Repair entries (R385, R386, Table 16.6) -/

/-- The fields of a repair entry as it was put together. -/
theorem repairEntry_fields {kind col row c : Nat} (hk : kind < 256) (hcol : col < 32) (hrow : row < 16) (hc : c < 65536) :
    bitsOf (repairEntry kind col row c).toNat 31 24 = kind ∧ bitsOf (repairEntry kind col row c).toNat 19 16 = row ∧
      bitsOf (repairEntry kind col row c).toNat 36 32 = col := by
  have he : (repairEntry kind col row c).toNat = col * 4294967296 + kind * 16777216 + row * 65536 + c := by
    rw [repairEntry, BitVec.toNat_ofNat]
    omega
  rw [he]
  unfold bitsOf
  refine ⟨?_, ?_, ?_⟩ <;> omega

/-- A row without a repair whose understudy is not known bad omits another column from then on. -/
theorem Cluster.repair_maps {k : Cluster} {col row c : Nat} (hcol : col < 32) (hrow : row < 16) (hc : c < 65536) (h8 : col ≠ 8)
    (hret : k.retired = false) (hu : k.omitCol row = 8) (hb : k.spareBad.getLsbD row = false) :
    (k.repair (repairEntry 1 col row c)).1.retired = false ∧ (k.repair (repairEntry 1 col row c)).1.omitCol row = col := by
  obtain ⟨h1, h2, h3⟩ := repairEntry_fields (kind := 1) (by decide) hcol hrow hc
  unfold Cluster.repair
  extract_lets kind r co u
  have hkind : kind = 1 := h1
  have hr : r = row := h2
  have hco : co = col := h3
  have hu' : u = 8 := by
    simp only [u]
    rw [hr, hu]
  clear_value kind r co u
  subst hkind hr hco hu'
  rw [hret, if_neg Bool.false_ne_true, if_neg (by decide), if_neg (by simpa using h8), if_neg (by decide), hb, if_neg Bool.false_ne_true]
  refine ⟨rfl, ?_⟩
  unfold Cluster.omitCol
  rw [sget_sput_same, BitVec.xor_comm (BitVec.ofNat 5 co), ← BitVec.xor_assoc, BitVec.xor_self, BitVec.zero_xor, BitVec.toNat_ofNat]
  exact Nat.mod_eq_of_lt hcol

/-- An understudy of a row without a repair is marked bad. -/
theorem Cluster.repair_spareBad {k : Cluster} {row c : Nat} (hrow : row < 16) (hc : c < 65536) (hret : k.retired = false) (hu : k.omitCol row = 8) :
    (k.repair (repairEntry 2 0 row c)).1 = { k with spareBad := k.spareBad ||| BitVec.ofNat 16 (2 ^ row) } := by
  obtain ⟨h1, h2, -⟩ := repairEntry_fields (kind := 2) (col := 0) (by decide) (by decide) hrow hc
  unfold Cluster.repair
  extract_lets kind r co u
  have hkind : kind = 2 := h1
  have hr : r = row := h2
  have hu' : u = 8 := by
    simp only [u]
    rw [hr, hu]
  clear_value kind r co u
  subst hkind hr hu'
  rw [hret, if_neg Bool.false_ne_true, if_neg (by decide), if_pos (by simp), if_neg (by decide)]

theorem State.applyEntry_cluster (s : State) (c : Nat) (e : BitVec 64) : (s.applyEntry c e).cluster c = ((s.cluster c).repair e).1 := by
  rw [State.applyEntry, State.cluster_modCluster, State.cluster_congr (State.appendRepair_of (fd := .clusters) s e (by decide))]

/-! ## Field repair (R386) -/

/-- Beside the entry, a core that is mapped out leaves the clusters as they were. -/
theorem State.mapOut_clusters (s : State) (c n : Nat) :
    Fld.of .clusters (s.mapOut c n) = Fld.of .clusters (s.applyEntry c (repairEntry 1 (coreCol n) (coreRow n) c)) := by
  unfold State.mapOut
  extract_lets r u w v x
  have hv : Fld.of .clusters v = Fld.of .clusters u := Fld.of_set_spad u (mclear (262144 * w) (262144 * (w + 1)) u.spad) (by decide)
  have hu : Fld.of .clusters u = Fld.of .clusters (s.applyEntry c (repairEntry 1 (coreCol n) (coreRow n) c)) := rfl
  rw [← hu]
  clear_value v u
  refine (State.log_of x _ _ _ _ _ _ _ (by decide)).trans (Eq.trans ?_ hv)
  simp only [x]
  split
  · split
    · exact (State.placeResident_of _ _ _ (by decide)).trans (State.fenceCluster_of _ _ _ (by decide))
    · exact State.fenceCluster_of _ _ _ (by decide)
  · rfl

/-- A core mapped out: its row omits its column, and its cluster stays in service. -/
theorem State.mapOut_maps {s : State} {c n : Nat} (hc : c < 1200) (hcol : coreCol n ≠ 8) (hret : (s.cluster c).retired = false)
    (hus : (s.cluster c).usable (coreRow n) = true) : ((s.mapOut c n).cluster c).omitCol (coreRow n) = coreCol n ∧
    ((s.mapOut c n).cluster c).retired = false := by
  have h1 : coreCol n < 32 := Nat.lt_trans (Nat.mod_lt _ (by decide)) (by decide)
  have h2 : coreRow n < 16 := Nat.div_lt_of_lt_mul (Nat.mod_lt n (by decide : 0 < 272))
  unfold Cluster.usable at hus
  rw [Bool.and_eq_true, Bool.and_eq_true, beq_iff_eq, Bool.not_eq_true', Bool.not_eq_true'] at hus
  obtain ⟨⟨hu, hb⟩, -⟩ := hus
  obtain ⟨hr, hm⟩ := Cluster.repair_maps h1 h2 (Nat.lt_trans hc (by decide)) hcol hret hu hb
  rw [State.cluster_congr (s.mapOut_clusters c n), State.applyEntry_cluster]
  exact ⟨hm, hr⟩

/-- No spare is left: the cluster retires. -/
theorem State.retireFor_retires (s : State) (c r : Nat) : ((s.retireFor c r).cluster c).retired = true := by
  unfold State.retireFor
  extract_lets u
  exact (State.retire_retires (u.appendRepair (repairEntry 3 0 0 c)) c 4).1

/-- What happens of a core whose partition has begun its recovery (R386). -/
def State.repaired (s : State) (c n : Nat) : State :=
  let r := coreRow n
  let s := s.modCluster c fun k => if k.testRow.any (·.val == r) then { k with testRow := none } else k
  if (s.cluster c).retired then s else if (s.cluster c).usable r then s.mapOut c n else s.retireFor c r

theorem State.repaired_declared (s : State) (c n : Nat) : (s.repaired c n).declared = s.declared := by
  have hmod {f : Cluster → Cluster} : (s.modCluster c f).declared = s.declared := rfl
  unfold State.repaired
  extract_lets r u
  split
  · rfl
  split
  · exact State.mapOut_of (fd := .declared) u c n (by decide)
  · exact State.retireFor_of (fd := .declared) u c r (by decide)

theorem State.repaired_cluster {s : State} {c n : Nat} (hc : c < 1200) : let k := s.cluster c
    let k' := (s.repaired c n).cluster c
    (k.retired = true → k'.omitXor = k.omitXor) ∧
      (k.retired = false → k.usable (coreRow n) = true → coreCol n ≠ 8 → k'.omitCol (coreRow n) = coreCol n ∧ k'.retired = false) ∧
      (k.retired = false → k.usable (coreRow n) = false → k'.retired = true) := by
  intro k k'
  have hk' : k' = (s.repaired c n).cluster c := rfl
  clear_value k'
  unfold State.repaired at hk'
  extract_lets r u at hk'
  have hu : u.cluster c = if k.testRow.any (·.val == r) then { k with testRow := none } else k := State.cluster_modCluster ..
  have hret : (u.cluster c).retired = k.retired ∧ (u.cluster c).omitXor = k.omitXor ∧ (u.cluster c).usable r = k.usable r := by
    rw [hu]
    split
    · exact ⟨rfl, rfl, rfl⟩
    · exact ⟨rfl, rfl, rfl⟩
  clear_value u
  obtain ⟨h1, h2, h3⟩ := hret
  refine ⟨fun h => ?_, fun h hus hcol => ?_, fun h hus => ?_⟩
  · rw [if_pos (h1.trans h)] at hk'
    rw [hk', h2]
  · rw [if_neg (by rw [h1, h]; exact Bool.false_ne_true), if_pos (h3.trans hus)] at hk'
    rw [hk']
    exact State.mapOut_maps hc hcol (h1.trans h) (h3.trans hus)
  · rw [if_neg (by rw [h1, h]; exact Bool.false_ne_true), if_neg (by rw [h3, hus]; exact Bool.false_ne_true)] at hk'
    rw [hk']
    exact State.retireFor_retires u c r

/-- The core of a row without a repair is not its understudy. -/
theorem State.coreCol_lcore {s : State} {c core : Nat} (hcore : core < 256) (hu : (s.cluster c).omitCol (coreRow (s.lcore c core)) = 8) :
    coreCol (s.lcore c core) ≠ 8 := by
  have hle : physCol ((s.cluster c).omitCol (core / 16)) (core % 16) ≤ 16 := by
    unfold physCol
    split <;> omega
  have hrow : coreRow (s.lcore c core) = core / 16 := by
    unfold coreRow State.lcore Cluster.phys
    omega
  rw [hrow] at hu
  rw [hu] at hle
  unfold coreCol State.lcore Cluster.phys
  rw [hu]
  have h8 : physCol 8 (core % 16) ≠ 8 := by
    unfold physCol
    split <;> omega
  omega

/-- The recovery that a repair begins leaves what the repair reads. -/
theorem State.beginRecovery_repairable (s : State) (p : Option Nat) (c : Nat) : let a := match p with | some p => s.beginRecovery p | none => s
    (a.cluster c).sensed = (s.cluster c).sensed ∧ (a.cluster c).lastFailed = (s.cluster c).lastFailed ∧ a.declared = s.declared := by
  cases p with
  | some q =>
    refine ⟨(Sensed.beginRecovery s q).cluster c, ?_, State.beginRecovery_of (fd := .declared) s q (by decide)⟩
    refine s.beginRecovery_keeps (x := Cluster.lastFailed) (fun k aim => ?_) (fun _ => rfl) q c
    obtain ⟨row, tr, h⟩ := k.enter_eq aim
    rw [h]
  | none => exact ⟨rfl, rfl, rfl⟩

/-- A repair leaves what the work on the core leaves, for the core's partition to go on. -/
theorem State.fieldRepair_repairs {s : State} {c n : Nat} (hc : c < 1200) (hn : (s.cluster c).usable (coreRow n) = true → coreCol n ≠ 8) :
    let t := s.fieldRepair c n
    let k := s.cluster c
    t.declared = s.declared.filter (fun x => x != n) ∧ (k.retired = true → (t.cluster c).omitXor = k.omitXor) ∧
      (k.retired = false → k.usable (coreRow n) = true → (t.cluster c).omitCol (coreRow n) = coreCol n ∧ (t.cluster c).retired = false) ∧
      (k.retired = false → k.usable (coreRow n) = false → (t.cluster c).retired = true) := by
  intro t k
  have ht : t = s.fieldRepair c n := rfl
  clear_value t
  unfold State.fieldRepair at ht
  extract_lets p a r b d e at ht
  have hda : d = a.repaired c n := rfl
  have hed : e.declared = d.declared.filter (· != n) := rfl
  have hec : Sensed d e := .of_clusters rfl
  have ha : (a.cluster c).sensed = k.sensed ∧ (a.cluster c).lastFailed = k.lastFailed ∧ a.declared = s.declared := s.beginRecovery_repairable p c
  have hn : k.usable (coreRow n) = true → coreCol n ≠ 8 := hn
  have hend : Sensed e t ∧ t.declared = e.declared := by
    rw [ht]
    clear_value p e
    cases p with
    | some q =>
      exact ⟨Sensed.trans (.of_of (State.unverify_of e q (by decide))) (.resume _ q),
        (State.resume_of (fd := .declared) (e.unverify q) q (by decide)).trans (State.unverify_of (fd := .declared) e q (by decide))⟩
    | none => exact ⟨.refl e, rfl⟩
  clear_value e d a k
  subst hda
  obtain ⟨hs, hlf, hdecl⟩ := ha
  have hmarks : (a.cluster c).marks = k.marks := congrArg (fun x => x.2.2.2.2) hs
  have hret : (a.cluster c).retired = k.retired := congrArg (·.1) hmarks
  have hbad : (a.cluster c).spareBad = k.spareBad := congrArg (·.2.2.2.1) hmarks
  have homit : (a.cluster c).omitXor = k.omitXor := congrArg (·.2.2.2.2.1) hmarks
  have hcol (q : Nat) : (a.cluster c).omitCol q = k.omitCol q := by unfold Cluster.omitCol; rw [homit]
  have hus (q : Nat) : (a.cluster c).usable q = k.usable q := by unfold Cluster.usable; rw [hcol, hbad, hlf]
  have hfin : (t.cluster c).marks = ((a.repaired c n).cluster c).marks := (hec.trans hend.1).marks c
  have hfret : (t.cluster c).retired = ((a.repaired c n).cluster c).retired := congrArg (·.1) hfin
  have hfomit : (t.cluster c).omitXor = ((a.repaired c n).cluster c).omitXor := congrArg (·.2.2.2.2.1) hfin
  have hfcol (q : Nat) : (t.cluster c).omitCol q = ((a.repaired c n).cluster c).omitCol q := by unfold Cluster.omitCol; rw [hfomit]
  obtain ⟨h1, h2, h3⟩ := State.repaired_cluster (s := a) (n := n) hc
  refine ⟨by rw [hend.2, hed, State.repaired_declared, hdecl], fun h => ?_, fun h hu => ?_, fun h hu => ?_⟩
  · rw [hfomit, h1 (hret.trans h), homit]
  · have h8 : coreCol n ≠ 8 := hn hu
    rw [hfcol, hfret]
    exact h2 (hret.trans h) ((hus _).trans hu) h8
  · rw [hfret]
    exact h3 (hret.trans h) ((hus _).trans hu)

/-- An understudy that fails its test is marked bad (R388). -/
theorem State.testEnd_fails {s : State} {c : Nat} {row : Fin 16} (hc : c < 1200) (hret : (s.cluster c).retired = false)
    (hu : (s.cluster c).omitCol row.val = 8) : let t := s.testEnd c row false
    (t.cluster c).testRow = none ∧ (t.cluster c).spareBad = (s.cluster c).spareBad ||| BitVec.ofNat 16 (2 ^ row.val) ∧
      ∃ x ∈ t.faults, x.code = 0x0302#16 := by
  intro t
  obtain ⟨u, hum⟩ : ∃ u : State, u = s.modCluster c fun k => { k with testRow := none, lastFailed := k.lastFailed ||| BitVec.ofNat 16 (2 ^ row.val) } :=
    ⟨_, rfl⟩
  obtain ⟨v, hv⟩ : ∃ v : State, v = u.applyEntry c (repairEntry 2 0 row.val c) := ⟨_, rfl⟩
  have ht : t = v.log 0x0302 (u.partOf c) (some c) none 0 15 row.val := by
    subst hv hum
    rfl
  clear_value t
  have hk : u.cluster c = { s.cluster c with testRow := none, lastFailed := (s.cluster c).lastFailed ||| BitVec.ofNat 16 (2 ^ row.val) } := by
    rw [hum, State.cluster_modCluster]
  have hvk : v.cluster c = { u.cluster c with spareBad := (u.cluster c).spareBad ||| BitVec.ofNat 16 (2 ^ row.val) } := by
    rw [hv, State.applyEntry_cluster, Cluster.repair_spareBad row.isLt (Nat.lt_trans hc (by decide)) (by rw [hk]; exact hret) (by rw [hk]; exact hu)]
  have htk : t.cluster c = v.cluster c := State.cluster_congr ((congrArg (Fld.of .clusters) ht).trans (State.log_of _ _ _ _ _ _ _ _ (by decide))) c
  rw [htk, hvk, hk]
  refine ⟨rfl, rfl, ?_⟩
  rw [ht]
  exact State.log_mem ..

/-! ## The authority (R395) -/

/-- H1 takes over: every long command has ended, and the takeover is recorded. -/
theorem State.takeover_takes (s : State) : let t := s.takeover
    t.authority = true ∧ t.standbyOk = false ∧ t.longs = [] ∧ ∃ x ∈ t.faults, x.code = 0x0603#16 := by
  intro t
  obtain ⟨u, hu⟩ : ∃ u : State, u = s.abort fun _ => true := ⟨_, rfl⟩
  obtain ⟨v, hv⟩ : ∃ v : State, v = { u with authority := true, standbyOk := false, authorityMisses := 0 } := ⟨_, rfl⟩
  have ht : t = (v.eventAll evState).log 0x0603 none none none 0 7 := by
    subst hv hu
    rfl
  clear_value t
  have htv {fd : Fld} (hf : fd ∉ [Fld.windows, .faults, .faultSeq, .faultsLost]) : fd.of t = fd.of v := (congrArg fd.of ht).trans
    ((State.log_of _ _ _ _ _ _ _ _ (Fld.not_mem hf)).trans (State.eventAll_of _ _ (Fld.not_mem hf)))
  have hlongs : v.longs = [] := by
    rw [hv, hu]
    exact List.eq_nil_iff_forall_not_mem.2 fun l hl => absurd (State.abort_longs hl).2 (by decide)
  refine ⟨(htv (fd := .authority) (by decide)).trans (congrArg State.authority hv), (htv (fd := .standbyOk) (by decide)).trans (congrArg State.standbyOk hv),
    (htv (fd := .longs) (by decide)).trans hlongs, ?_⟩
  rw [ht]
  exact State.log_mem ..

theorem State.leasesOf_one {s : State} {kind i holder : Nat} (hi : i < 65536) (hl : s.leases = [(leaseKey kind i, s.lease kind i ^^^ 0x0FFF#16)])
    (hh : (s.lease kind i).toNat % 4096 = holder) : s.leasesOf holder = [{ kind := kind, index := i, tag := s.lease kind i }] := by
  have hx : s.lease kind i ^^^ 0x0FFF#16 ^^^ 0x0FFF#16 = s.lease kind i := by
    rw [BitVec.xor_assoc, BitVec.xor_self, BitVec.xor_zero]
  have hk : leaseKey kind i / 65536 = kind ∧ leaseKey kind i % 65536 = i := by
    unfold leaseKey
    omega
  rw [State.leasesOf, hl, List.filter_cons_of_pos (by dsimp only; rw [hx, hh]; exact beq_self_eq_true _), List.filter_nil, List.map_cons, List.map_nil]
  dsimp only
  rw [hx, hk.1, hk.2]

section
variable {cl : Cl} {s : State}

theorem exec_heartbeatTimeout {at' : Nat} (hb : (s.cluster cl.val).beatAt = some at') : exec (.heartbeatTimeout cl) s = .next
    (if s.now < at' + 500000 then s
    else
      let s := s.modCluster cl.val fun k => { k with beatAt := none, missed := k.missed + 1 }
      if 2 ≤ (s.cluster cl.val).missed then s.marionetteFaulty cl.val else s) := by
  refine congrArg Host.Outcome.next ?_
  rw [State.heartbeatLost, hb]

theorem exec_marionetteResetDone (hs : s.supply = .up) (passed : Bool) : exec (.marionetteResetDone cl passed) s =
    .next (if (s.cluster cl.val).resetting then s.marionetteBack cl.val passed else s) := by
  refine congrArg Host.Outcome.next ?_
  rw [hs, beq_self_eq_true, Bool.true_and]

theorem exec_authorityCheckMiss (hs : s.supply = .up) (ha : s.authority = false) (hl : s.authorityLost = false) :
    exec .authorityCheckMiss s = .next s.checkMiss := by
  refine congrArg Host.Outcome.next (if_pos ?_)
  rw [hs, ha, hl]
  rfl

/-- A second heartbeat in a row is lost. -/
theorem State.heartbeatLost_faulty {at' : Nat} (hb : (s.cluster cl.val).beatAt = some at') (hd : at' + 500000 ≤ s.now) (hm : (s.cluster cl.val).missed = 1) :
    ∃ t, exec (.heartbeatTimeout cl) s = .next t ∧ (t.cluster cl.val).resetting = true ∧ (t.cluster cl.val).missed = 0 ∧
      (s.leasesOf cl.val = [] → ∃ x ∈ t.faults, x.code = 0x0204#16) := by
  rw [exec_heartbeatTimeout hb, if_neg (Nat.not_lt.2 hd)]
  obtain ⟨u, hu⟩ : ∃ u : State, u = s.modCluster cl.val fun k => { k with beatAt := none, missed := k.missed + 1 } := ⟨_, rfl⟩
  have hmiss : 2 ≤ (u.cluster cl.val).missed := by
    rw [hu, State.cluster_modCluster, hm]
  have hleases : u.leasesOf cl.val = s.leasesOf cl.val := by rw [hu]; rfl
  refine ⟨u.marionetteFaulty cl.val, ?_, ?_⟩
  · dsimp only
    rw [← hu, if_pos hmiss]
  · rw [← hleases]
    exact u.marionetteFaulty_resets cl.val

end

/-- Settles O51: each clause by the lemma on its operation; what recoveries do beside leaves the clusters' marks. -/
theorem faultRecovery : Obligations.FaultRecovery := by
  unfold Obligations.FaultRecovery
  intro cl core row edge at' s hs c k n r
  refine ⟨fun he => ?_, fun hb => ⟨fun h => ?_, fun h hm => ?_, fun h hm => State.heartbeatLost_faulty hb h hm⟩, fun h => ?_, fun h => ?_, fun h => ?_,
    fun h => ?_, fun kind i _ hi hl hh => ?_, fun h => ?_, fun h => ?_, fun h => ?_, fun h => ?_, fun h hret hu => ?_, fun ha hlost => ⟨fun hm => ?_, fun hm hsb => ?_,
    fun hm hsb => ?_⟩⟩
  · refine ⟨_, congrArg Host.Outcome.next (if_pos (by rw [hs]; rcases he with he | he <;> rw [he] <;> rfl)), ?_⟩
    obtain ⟨h1, h2⟩ := s.beatAll_beats (List.range 1200)
    exact ⟨h1, fun d hd => h2 d (List.mem_range.2 hd)⟩
  · rw [exec_heartbeatTimeout hb, if_pos h]
  · rw [exec_heartbeatTimeout hb, if_neg (Nat.not_lt.2 h)]
    dsimp only
    rw [if_neg (by rw [State.cluster_modCluster, show (s.cluster cl.val).missed = 0 from hm]; exact Nat.not_succ_le_self 1)]
    obtain ⟨h1, h2, h3⟩ := modCluster_changes s cl.val fun k => { k with beatAt := none, missed := k.missed + 1 }
    refine ⟨_, rfl, h1, h2, h3.trans ?_⟩
    rw [show (s.cluster cl.val).missed = 0 from hm]
  · rw [exec_marionetteResetDone hs, if_pos h]
    have hm := s.marionetteBack_marks cl.val true
    rw [Bool.not_true, Bool.or_false] at hm
    exact ⟨_, rfl, congrArg (·.2.1) hm, congrArg (·.1) hm, congrArg (·.2.2.2.2.2) hm⟩
  · rw [exec_marionetteResetDone hs, if_pos h]
    have hm := s.marionetteBack_marks cl.val false
    rw [Bool.not_false, Bool.or_true] at hm
    exact ⟨_, rfl, congrArg (·.2.1) hm, congrArg (·.1) hm⟩
  · rw [exec_marionetteResetDone hs, if_neg (by rw [show (s.cluster cl.val).resetting = false from h]; exact Bool.false_ne_true)]
  · refine congrArg Host.Outcome.next ?_
    rw [State.seizeAll_none h, ite_self]
  · refine ⟨_, congrArg Host.Outcome.next (if_pos (by rw [hs]; rfl)), ?_⟩
    rw [State.seizeAll, State.leasesOf_one hi hl hh]
    obtain ⟨h1, h2, -⟩ := s.seizeList_one { kind := kind, index := i, tag := s.lease kind i }
    exact ⟨h1, h2⟩
  · refine ⟨_, congrArg Host.Outcome.next (if_pos (by rw [hs]; exact h)), State.fieldRepair_repairs cl.isLt fun hu => ?_⟩
    refine State.coreCol_lcore core.isLt ?_
    unfold Cluster.usable at hu
    rw [Bool.and_eq_true, Bool.and_eq_true, beq_iff_eq] at hu
    exact hu.1.1
  · exact congrArg Host.Outcome.next (if_neg (by rw [show s.declared.contains (s.lcore cl.val core.val) = false from h, Bool.and_false]; exact Bool.false_ne_true))
  · exact ⟨_, congrArg Host.Outcome.next (if_pos h), modCluster_changes ..⟩
  · refine ⟨_, congrArg Host.Outcome.next (if_pos (by rw [show (s.cluster cl.val).testRow = some row from h]; exact beq_self_eq_true _)), ?_⟩
    exact modCluster_changes ..
  · refine ⟨_, congrArg Host.Outcome.next (if_pos (by rw [show (s.cluster cl.val).testRow = some row from h]; exact beq_self_eq_true _)), ?_⟩
    exact State.testEnd_fails cl.isLt hret hu
  · rw [exec_authorityCheckMiss hs ha hlost]
    refine congrArg Host.Outcome.next ?_
    rw [State.checkMiss, hm]
    rfl
  · rw [exec_authorityCheckMiss hs ha hlost]
    have ht : s.checkMiss = State.takeover { s with authorityMisses := s.missesNow, missAt := s.now } := by
      rw [State.checkMiss]
      dsimp only
      rw [if_neg (Nat.not_lt.2 hm), if_pos hsb]
    rw [ht]
    exact ⟨_, rfl, State.takeover_takes _⟩
  · rw [exec_authorityCheckMiss hs ha hlost]
    refine congrArg Host.Outcome.next ?_
    rw [State.checkMiss]
    dsimp only
    rw [if_neg (Nat.not_lt.2 hm), if_neg (by rw [hsb]; exact Bool.false_ne_true)]

end Sys2Proof.Machine
end

section
/-!
The cold boot and the resets (R401 to R418, R423, R428, R433).
-/

namespace Sys2Proof.Machine

open Sys2Proof

/-! ## Firmware candidates (R414) -/

/-- The candidates depend on the flash, the fuses and the next free bit. -/
theorem State.candidates_congr {s t : State} (ha : t.flashA = s.flashA) (hb : t.flashB = s.flashB) (hf : t.fuses = s.fuses)
    (hc : t.freeCount = s.freeCount) : t.candidates = s.candidates := by
  have hslot : t.activeSlot = s.activeSlot := by
    unfold State.activeSlot State.freeBit
    rw [ha, hb, hc]
  unfold State.candidates
  dsimp only
  unfold State.validAt
  rw [ha, hb, hf, hslot]

/-! ## The steps of the cold boot (R403, Table 16.2) -/

/-- The list of the regulator outputs ascends. -/
theorem railOutputs_ascend : (railOutputs.map Prod.fst).IsChain (· < ·) := by decide +kernel

/-- No regulator output stands twice in the list of the outputs. -/
theorem railOutputs_inj {x y : Nat × Nat} (hx : x ∈ railOutputs) (hy : y ∈ railOutputs) (h : y.1 = x.1) : y = x :=
  List.inj_on_of_nodup_map ((List.isChain_iff_pairwise.1 railOutputs_ascend).imp Nat.ne_of_lt) hy hx h

/-- Every listed output has the limit that the fuses give its kind. -/
def State.Limited (f : Fuses) (t : State) : Prop :=
  ∀ x ∈ railOutputs, (sget {} t.regulators x.1).limits = f.railLimit.extractLsb' (16 * x.2) 16

theorem State.Limited.of_regulators {f : Fuses} {s t : State} (h : s.Limited f) (hr : Fld.of .regulators t = Fld.of .regulators s) : t.Limited f := by
  have hr : t.regulators = s.regulators := hr
  unfold State.Limited
  rw [hr]
  exact h

/-- An output's limit as the fuses give its kind. -/
def State.writeLimit (s : State) (x : Nat × Nat) : State :=
  { s with regulators := smod {} x.1 (fun r => { r with limits := s.fuses.railLimit.extractLsb' (16 * x.2) 16 }) s.regulators }

theorem State.writeLimit_same {s t : State} (h : t.fuses = s.fuses) {x y : Nat × Nat} (h1 : y.1 = x.1) (h2 : y.2 = x.2) :
    (sget {} (t.writeLimit y).regulators x.1).limits = s.fuses.railLimit.extractLsb' (16 * x.2) 16 := by
  unfold State.writeLimit
  dsimp only
  rw [h1, h2, sget_smod_same, h]

theorem State.writeLimit_ne (t : State) {x y : Nat × Nat} (h : y.1 ≠ x.1) : sget {} (t.writeLimit y).regulators x.1 = sget {} t.regulators x.1 := by
  unfold State.writeLimit
  dsimp only
  rw [sget_smod_ne _ _ _ _ _ (Ne.symm h)]

theorem State.writeLimits_limits (s : State) : (s.writeLimits railOutputs).Limited s.fuses := fun x hx =>
  (State.each_establishes (I := fun t => t.fuses = s.fuses) (f := State.writeLimit)
    (Q := fun t => (sget {} t.regulators x.1).limits = s.fuses.railLimit.extractLsb' (16 * x.2) 16) hx rfl (fun t ht y _ => ht)
    (fun t ht => State.writeLimit_same ht rfl rfl) fun t ht hq y hy => by
      by_cases hxy : y.1 = x.1
      · exact State.writeLimit_same ht hxy (congrArg Prod.snd (railOutputs_inj hx hy hxy))
      · exact (congrArg Rail.limits (t.writeLimit_ne hxy)).trans hq).2

/-- What steps 5 to 9 of the boot leave. -/
structure BootSteps (s u : State) : Prop where
  et : u.et = 0
  etClock : u.etClock = .tclk
  hbm : u.hbm = []
  limits : u.Limited s.fuses
  rails : u.rails = { s.rails with core := true, cclk := true, hbmTrained := true, hbmSelfRefresh := false }

theorem State.bootSteps_five (s : State) (b : BootIn) : BootSteps s (s.each (List.range 5) fun t k => t.bootStep b k) := by
  obtain ⟨v, hv⟩ : ∃ v : State, v = { s.writeLimits railOutputs with rails := { s.rails with core := true } } := ⟨_, rfl⟩
  obtain ⟨u0, h0⟩ : ∃ u : State, u = v.each (List.range 48) fun t z => t.zoneUp b.noReport z := ⟨_, rfl⟩
  obtain ⟨u1, h1⟩ : ∃ u : State, u = { u0 with rails := { u0.rails with cclk := true }, et := 0, sub := 0, etClock := .tclk } := ⟨_, rfl⟩
  obtain ⟨u2, h2⟩ : ∃ u : State, u = u1.bist b := ⟨_, rfl⟩
  obtain ⟨u3, h3⟩ : ∃ u : State, u = { u2 with hbm := [], rails := { u2.rails with hbmTrained := true, hbmSelfRefresh := false } } := ⟨_, rfl⟩
  have hs0 : s.bootStep b 0 = u0 := by rw [h0, hv]; rfl
  have hs1 : u0.bootStep b 1 = u1 := by rw [h1]; rfl
  have hs2 : u1.bootStep b 2 = u2 := by rw [h2]; rfl
  have hs3 : u2.bootStep b 3 = u3 := by rw [h3]; rfl
  have hs4 : u3.bootStep b 4 = u3.linkSettings := rfl
  have he : (s.each (List.range 5) fun t k => t.bootStep b k) = u3.linkSettings := by
    simp only [show List.range 5 = [0, 1, 2, 3, 4] from rfl, State.each, hs0, hs1, hs2, hs3, hs4]
  have hv0 {fd : Fld} (hf : fd ∉ [Fld.cores, .spad, .flights, .credits, .clusters, .windows, .opFaulted, .parts, .leases, .links, .zones, .faults,
      .faultSeq, .faultsLost, .freeCount]) : fd.of u0 = fd.of v :=
    (congrArg fd.of h0).trans (Fld.of_each _ fun t z => State.zoneUp_of t _ z hf)
  have h12 {fd : Fld} (hf : fd ∉ [Fld.cores, .clusters, .faults, .faultSeq, .faultsLost, .flashA, .flashB]) : fd.of u2 = fd.of u1 :=
    (congrArg fd.of h2).trans (State.bist_of u1 b hf)
  have h34 {fd : Fld} (hf : fd ∉ [Fld.links, .timePriXor, .guardG, .timeMaster, .masterSerial]) : fd.of u3.linkSettings = fd.of u3 :=
    State.linkSettings_of u3 hf
  have hlim : v.Limited s.fuses := by
    rw [hv]
    exact s.writeLimits_limits
  have hrv : v.rails = { s.rails with core := true } := congrArg State.rails hv
  have hr0 : u0.rails = v.rails := hv0 (fd := .rails) (by decide)
  have hr1 : u1.rails = { u0.rails with cclk := true } := congrArg State.rails h1
  have hr2 : u2.rails = u1.rails := h12 (fd := .rails) (by decide)
  have hr3 : u3.rails = { u2.rails with hbmTrained := true, hbmSelfRefresh := false } := congrArg State.rails h3
  have hreg1 : u1.regulators = u0.regulators := by rw [h1]
  have hreg3 : u3.regulators = u2.regulators := by rw [h3]
  have het3 : u3.et = u2.et := by rw [h3]
  have hcl3 : u3.etClock = u2.etClock := by rw [h3]
  have het1 : u1.et = 0 := congrArg State.et h1
  have hcl1 : u1.etClock = .tclk := congrArg State.etClock h1
  have hhbm : u3.hbm = [] := congrArg State.hbm h3
  have hrails : u3.rails = { s.rails with core := true, cclk := true, hbmTrained := true, hbmSelfRefresh := false } := by
    rw [hr3, hr2, hr1, hr0, hrv]
  rw [he]
  generalize u3.linkSettings = t at h34 ⊢
  exact ⟨(h34 (fd := .et) (by decide)).trans (het3.trans ((h12 (fd := .et) (by decide)).trans het1)),
    (h34 (fd := .etClock) (by decide)).trans (hcl3.trans ((h12 (fd := .etClock) (by decide)).trans hcl1)),
    (h34 (fd := .hbm) (by decide)).trans hhbm,
    ((((hlim.of_regulators (hv0 (by decide))).of_regulators hreg1).of_regulators (h12 (by decide))).of_regulators hreg3).of_regulators (h34 (by decide)),
    (h34 (fd := .rails) (by decide)).trans hrails⟩

/-! ## The end of the boot, and its stop for PFW_N (R403, R406) -/

/-- The P0 windows serve and E0 is reached, with nothing of the rest that steps 5 to 9 set up different. -/
theorem State.bootReady_ready {s u : State} (h : BootSteps s u) : Ready s u.bootReady ∧ u.bootReady.rails = u.rails ∧ u.bootReady.bootRest = none := by
  obtain ⟨v, hv⟩ : ∃ v : State, v = { u with supply := .up, bootRest := none, aonWake := 0#4, quietArmed := false, standbyOk := true } := ⟨_, rfl⟩
  obtain ⟨w, hw⟩ : ∃ w : State, w = v.serveP0.toState .e0 := ⟨_, rfl⟩
  obtain ⟨t, ht⟩ : ∃ t : State, t = u.bootReady := ⟨_, rfl⟩
  have htw {fd : Fld} (hf : fd ∉ [Fld.windows, .longs]) : fd.of t = fd.of w := by
    rw [ht, hw, hv]
    exact Fld.of_each _ fun x l => State.finish_of_ne stOk_ne l _ hf
  have hwv {fd : Fld} (hf : fd ∉ [Fld.windows, .estate, .stateEt]) : fd.of w = fd.of v := (congrArg fd.of hw).trans
    ((State.toState_of _ _ hf).trans (State.serveP0_of v (Fld.not_mem hf)))
  have hest : w.estate = .e0 := hw ▸ v.serveP0.toState_estate .e0
  have htu {fd : Fld} (hf : fd ∉ [Fld.windows, .opFaulted, .longs, .supply, .estate, .stateEt, .standbyOk, .aonWake, .quietArmed, .bootRest]) :
      fd.of t = fd.of u := (congrArg fd.of ht).trans (State.bootReady_of u hf)
  rw [← ht]
  exact ⟨⟨(htw (fd := .supply) (by decide)).trans ((hwv (fd := .supply) (by decide)).trans (by rw [hv]; rfl)),
    (htw (fd := .estate) (by decide)).trans hest, (htu (fd := .et) (by decide)).trans h.et, (htu (fd := .etClock) (by decide)).trans h.etClock,
    (htw (fd := .standbyOk) (by decide)).trans ((hwv (fd := .standbyOk) (by decide)).trans (by rw [hv]; rfl)),
    (htu (fd := .hbm) (by decide)).trans h.hbm, h.limits.of_regulators (htu (by decide))⟩, htu (fd := .rails) (by decide),
    (htw (fd := .bootRest) (by decide)).trans ((hwv (fd := .bootRest) (by decide)).trans (by rw [hv]; rfl))⟩

/-- The rest of a boot in which PFW_N stays quiet. -/
theorem State.bootTail_ready (s : State) {b : BootIn} (hb : b.pfwIn = none) : Ready s (s.bootTail b) ∧
    (s.bootTail b).rails = { s.rails with core := true, cclk := true, hbmTrained := true, hbmSelfRefresh := false } ∧ (s.bootTail b).bootRest = none := by
  have h := s.bootSteps_five b
  have ht : s.bootTail b = (s.each (List.range 5) fun t k => t.bootStep b k).bootReady := by
    rw [State.bootTail, hb]
  rw [ht]
  generalize (s.each (List.range 5) fun t k => t.bootStep b k) = u at h
  obtain ⟨h1, h2, h3⟩ := State.bootReady_ready h
  exact ⟨h1, h2.trans h.rails, h3⟩

/-- No step of the boot stops the PLL. -/
theorem State.bootStep_pll (s : State) (b : BootIn) (k : Nat) : (s.bootStep b k).rails.pll = s.rails.pll := by
  unfold State.bootStep
  split
  · extract_lets limited rails u
    have hr (x : State) (h : Fld.of .rails x = Fld.of .rails u) : x.rails.pll = s.rails.pll := (congrArg Rails.pll (show x.rails = u.rails from h)).trans rfl
    exact hr _ (Fld.of_each (f := .rails) _ fun t z => State.zoneUp_of t _ z (by decide))
  · rfl
  · exact congrArg Rails.pll (State.bist_of (fd := .rails) s b (by decide))
  · rfl
  · exact congrArg Rails.pll (State.linkSettings_of (fd := .rails) s (by decide))

/-- The rest of a boot in which PFW_N is asserted: it waits at the end of step 4. -/
theorem State.bootTail_stops (s : State) {b : BootIn} (hb : b.pfwIn.isSome = true) : let t := s.bootTail b
    t.supply = .waitQuiet ∧ t.bootWait = s.now ∧ t.pfw = true ∧ t.rails.core = false ∧ t.rails.cclk = false ∧ t.rails.pll = s.rails.pll ∧
      t.etClock = .held ∧ t.bootRest = some { b with pfwIn := none } := by
  intro t
  obtain ⟨n, hn⟩ := Option.isSome_iff_exists.1 hb
  obtain ⟨u, hu⟩ : ∃ u : State, u = s.each (List.range n.val) fun t k => t.bootStep b k := ⟨_, rfl⟩
  have ht : t = u.bootStop b := by
    dsimp only [t]
    rw [State.bootTail, hn, hu]
  have hnow : Fld.of .now u = Fld.of .now s := (congrArg (Fld.of .now) hu).trans (Fld.of_each (f := .now) _ fun t k => State.bootStep_of t b k (by decide))
  have hpll : u.rails.pll = s.rails.pll := by
    rw [hu]
    exact State.each_induct (P := fun t => t.rails.pll = s.rails.pll) rfl fun t ht k _ => (t.bootStep_pll b k).trans ht
  clear_value t
  rw [ht]
  exact ⟨rfl, hnow, rfl, rfl, rfl, hpll, rfl, rfl⟩

/-! ## The cold boot from step 1 (R403, R414) -/

/-- Step 4: the rest of the boot while PFW_N is quiet, and else the wait for it. -/
theorem State.bootStep4_boots (s : State) (b : BootIn) : let t := s.bootStep4 b
    t.firmware = s.firmware ∧
      (s.quiet = false → t.supply = .waitQuiet ∧ t.bootWait = s.now ∧ t.rails = { s.rails with pll := true, puppeteersOnKclk := true } ∧
        t.etClock = s.etClock ∧ t.bootRest = some b) ∧
      (s.quiet = true → b.pfwIn.isSome = true → Waits s t ∧ t.pfw = true ∧ t.bootRest = some { b with pfwIn := none }) ∧
      (s.quiet = true → b.pfwIn = none → Ready s t ∧ t.bootRest = none ∧
        t.rails = { s.rails with pll := true, puppeteersOnKclk := true, core := true, cclk := true, hbmTrained := true, hbmSelfRefresh := false }) := by
  intro t
  have hfirm : t.firmware = s.firmware := State.bootStep4_of (fd := .firmware) s b (by decide)
  obtain ⟨u, hu⟩ : ∃ u : State, u = { s with rails := { s.rails with pll := true, puppeteersOnKclk := true } } := ⟨_, rfl⟩
  have hq : u.quiet = s.quiet := by rw [hu]; rfl
  have ht : t = if u.quiet then u.bootTail b else { u with supply := .waitQuiet, bootRest := some b, bootWait := u.now } := by
    rw [hu]
    rfl
  have hr : u.rails = { s.rails with pll := true, puppeteersOnKclk := true } := by rw [hu]
  have hnow : u.now = s.now := by rw [hu]
  have hcl : u.etClock = s.etClock := by rw [hu]
  have hfu : u.fuses = s.fuses := by rw [hu]
  clear_value t
  rw [hq] at ht
  refine ⟨hfirm, fun h => ?_, fun h hb => ?_, fun h hb => ?_⟩
  · rw [h, if_neg Bool.false_ne_true] at ht
    rw [ht]
    exact ⟨rfl, hnow, hr, hcl, rfl⟩
  · rw [h, if_pos rfl] at ht
    obtain ⟨h1, h2, h3, h4, h5, h6, h7, h8⟩ := u.bootTail_stops hb
    rw [ht]
    exact ⟨⟨h1, h2.trans hnow, h4, h5, h6.trans (by rw [hr]), h7⟩, h3, h8⟩
  · rw [h, if_pos rfl] at ht
    obtain ⟨h1, h2, h3⟩ := u.bootTail_ready hb
    rw [ht]
    refine ⟨?_, h3, h2.trans (by rw [hr])⟩
    unfold Ready at h1 ⊢
    rw [hfu] at h1
    exact h1

/-- The state that a cold boot begins from: step 2 has turned VHOST on. -/
theorem State.boot_begins (s : State) (b : BootIn) : ∃ v : State, s.boot b = v.bootStep3 b ∧ v.mctp.straps = b.straps ∧ v.rails = { host := true } ∧
    v.etClock = .held ∧ v.fuses = s.fuses ∧ v.now = s.now ∧ v.candidates = s.candidates ∧ v.quiet = s.bootQuiet ∧ v.tapOut = s.tapOut ∧
    v.boundary = s.boundary := by
  obtain ⟨u, hu⟩ : ∃ u : State, u = { s.cleared .noImage with mctp := { straps := b.straps }, rails := { host := true } } := ⟨_, rfl⟩
  obtain ⟨v, hv⟩ : ∃ v : State, v = u.writeLimits (railOutputs.filter fun x => x.2 == 7) := ⟨_, rfl⟩
  have hvu {fd : Fld} (hf : fd ∉ [Fld.regulators]) : fd.of v = fd.of u := (congrArg fd.of hv).trans (State.writeLimits_of u _ hf)
  have hb : s.boot b = v.bootStep3 b := by
    rw [hv, hu]
    rfl
  have hm : v.mctp = u.mctp := hvu (fd := .mctp) (by decide)
  have hr : v.rails = u.rails := hvu (fd := .rails) (by decide)
  have hc : v.etClock = u.etClock := hvu (fd := .etClock) (by decide)
  have hf : v.fuses = u.fuses := hvu (fd := .fuses) (by decide)
  have hn : v.now = u.now := hvu (fd := .now) (by decide)
  have ha : v.flashA = u.flashA := hvu (fd := .flashA) (by decide)
  have hbf : v.flashB = u.flashB := hvu (fd := .flashB) (by decide)
  have hfc : v.freeCount = u.freeCount := hvu (fd := .freeCount) (by decide)
  have hq : v.quiet = u.quiet := State.quiet_congr (hvu (fd := .pfw) (by decide)) (hvu (fd := .pfwHighSince) (by decide))
    (hvu (fd := .policy) (by decide)) (hvu (fd := .now) (by decide))
  have ht : v.tapOut = u.tapOut := hvu (fd := .tapOut) (by decide)
  have hbo : v.boundary = u.boundary := hvu (fd := .boundary) (by decide)
  have hcand : u.candidates = s.candidates := by
    subst hu
    exact State.candidates_congr rfl rfl rfl rfl
  refine ⟨v, hb, ?_⟩
  clear hb hvu hv
  subst hu
  exact ⟨congrArg (·.straps) hm, hr, hc, hf, hn, (State.candidates_congr ha hbf hf hfc).trans hcand, hq, ht, hbo⟩

theorem State.bootStep3_none {s : State} (b : BootIn) (h : firstValid s.candidates = none) :
    s.bootStep3 b = { s.drew with supply := .noImage, noImageAt := s.now } := by
  unfold State.bootStep3
  rw [h]

theorem State.bootStep3_some {s : State} (b : BootIn) {n : Nat} {i : FwImage} (h : firstValid s.candidates = some (n, i)) :
    s.bootStep3 b = ({ s.drew with firmware := i.firmware n } : State).bootStep4 b := by
  unfold State.bootStep3
  rw [h]

/-- A cold boot ends with no image, at the wait for PFW_N, or ready. -/
theorem State.boot_boots (s : State) (b : BootIn) : Booted s (s.boot b) b ∧ (s.boot b).tapOut = s.tapOut ∧ (s.boot b).boundary = s.boundary := by
  obtain ⟨v, hb, hm, hr, hc, hf, hn, hcand, hq, ht, hbo⟩ := s.boot_begins b
  obtain ⟨t, htd⟩ : ∃ t : State, t = v.bootStep3 b := ⟨_, rfl⟩
  have hmt : t.mctp = v.mctp := (congrArg (Fld.of .mctp) htd).trans (State.bootStep3_of (fd := .mctp) v b (by decide))
  have htt : t.tapOut = v.tapOut := (congrArg (Fld.of .tapOut) htd).trans (State.bootStep3_of (fd := .tapOut) v b (by decide))
  have hbt : t.boundary = v.boundary := (congrArg (Fld.of .boundary) htd).trans (State.bootStep3_of (fd := .boundary) v b (by decide))
  rw [hb, ← htd]
  refine ⟨⟨(congrArg (·.straps) hmt).trans hm, ?_⟩, htt.trans ht, hbt.trans hbo⟩
  clear hmt htt hbt
  split
  next hnone =>
    rw [State.bootStep3_none b ((congrArg firstValid hcand).trans hnone)] at htd
    rw [htd]
    exact ⟨rfl, hn⟩
  next n i hsome =>
    rw [State.bootStep3_some b ((congrArg firstValid hcand).trans hsome)] at htd
    obtain ⟨w, hw⟩ : ∃ w : State, w = { v.drew with firmware := i.firmware n } := ⟨_, rfl⟩
    rw [← hw] at htd
    have hwf : w.firmware = i.firmware n ∧ w.quiet = v.quiet ∧ w.now = v.now ∧ w.rails = v.rails ∧ w.etClock = v.etClock ∧ w.fuses = v.fuses := by
      rw [hw]
      exact ⟨rfl, rfl, rfl, rfl, rfl, rfl⟩
    clear hw
    obtain ⟨hwf, hwq, hwn, hwr, hwc, hwu⟩ := hwf
    obtain ⟨h1, h2, h3, h4⟩ := w.bootStep4_boots b
    rw [← htd] at h1 h2 h3 h4
    rw [hwq, hq] at h2 h3 h4
    refine ⟨h1.trans hwf, fun h => ?_, fun h hp => ?_, fun h hp => ?_⟩
    · obtain ⟨g1, g2, g3, g4, g5⟩ := h2 h
      rw [hwr, hr] at g3
      exact ⟨⟨g1, g2.trans (hwn.trans hn), by rw [g3], by rw [g3], by rw [g3], g4.trans (hwc.trans hc)⟩, g5⟩
    · obtain ⟨g1, g2, g3⟩ := h3 h hp
      obtain ⟨k1, k2, k3⟩ := g1
      exact ⟨⟨k1, k2.trans (hwn.trans hn), k3⟩, g2, g3⟩
    · obtain ⟨g1, g2, g3⟩ := h4 h hp
      unfold Ready at g1 ⊢
      rw [hwu, hf] at g1
      rw [hwr, hr] at g3
      exact ⟨g1, g3, g2⟩

theorem State.unreset_boots {s : State} (b : BootIn) (hs : s.supply = .reset) (hr : s.resetN = false) (hm : s.mayBoot = true) : s.unreset b = s.boot b := by
  unfold State.mayBoot at hm
  rw [Bool.and_eq_true, Bool.not_eq_true', Bool.not_eq_true'] at hm
  obtain ⟨h1, h2⟩ := hm
  exact if_pos (by rw [hs, hr, h1, h2]; rfl)

theorem State.unreset_waits {s : State} (b : BootIn) (h : s.supply ≠ .reset ∨ s.resetN = true ∨ s.mayBoot = false) : s.unreset b = s := by
  refine if_neg ?_
  rcases h with h | h | h
  · rw [beq_eq_false_iff_ne.2 h]
    simp
  · rw [h]
    simp
  · unfold State.mayBoot at h
    cases h1 : s.refclkLost with
    | true => simp
    | false =>
      rw [h1, Bool.not_false, Bool.true_and, Bool.not_eq_false'] at h
      rw [h]
      simp

/-! ## What a reset clears (R401, Table 16.7) -/

/-- An activation that is cut off blows no fuse but with its commit. -/
theorem State.cutActivation_fuses (s : State) (n : Fin 2) : (s.cutActivation n false).fuses = s.fuses := by
  unfold State.cutActivation
  split
  · dsimp only
    split
    · rw [Bool.and_false, if_neg Bool.false_ne_true]
      rfl
    · rfl
  · rfl

theorem State.cutFirmware_fuses {s : State} (h : ∀ n, s.fwJob ≠ some (.activate n true)) : (s.cutFirmware false).fuses = s.fuses := by
  unfold State.cutFirmware
  split
  · rfl
  next n commit hj =>
    cases commit with
    | true => exact absurd hj (h n)
    | false => exact s.cutActivation_fuses n
  · rfl

theorem State.cutFirmware_none {s : State} (may : Bool) (h : s.fwJob = none) : s.cutFirmware may = s := by
  unfold State.cutFirmware
  rw [h]

/-- What clears the engine after a firmware job is cut off wipes it. -/
theorem State.cut_wiped {s t : State} (sup : Supply) (h : t = (s.cutFirmware false).cleared sup) : Wiped s t ∧
    (s.fwJob = none → t.flashA = s.flashA ∧ t.flashB = s.flashB) := by
  have hm : (s.cutFirmware false).hostMem = s.hostMem := State.cutFirmware_of (fd := .hostMem) s false (by decide)
  have hf := State.cutFirmware_fuses (s := s)
  have hn := State.cutFirmware_none (s := s) false
  generalize s.cutFirmware false = u at hm hf hn h
  subst h
  exact ⟨⟨rfl, rfl, rfl, rfl, rfl, rfl, rfl, rfl, rfl, rfl, hm, hf⟩, fun h => by rw [hn h]; exact ⟨rfl, rfl⟩⟩

/-! ## The pins of the flash devices (R407, R423) -/

theorem Flash.get_one (f : Flash) (x : Nat) : f.get x 1 = [~~~mread f.mem x] := rfl

/-- A program clears bits: what is there stays as clear as it was, and the zeros written are added. -/
theorem mread_progBytes (a : Nat) (bs : Bytes) (m : Mem) (x : Nat) : mread (progBytes a bs m) x =
    if a ≤ x ∧ x < a + bs.length then mread m x ||| ~~~bs.getD (x - a) 0#8 else mread m x := by
  induction bs generalizing a m with
  | nil =>
    rw [if_neg (by rw [List.length_nil]; omega)]
    rfl
  | cons y r ih =>
    rw [progBytes, ih, List.length_cons]
    by_cases hx : x = a
    · subst hx
      rw [if_neg (by omega), if_pos (by omega), mread_mwrite_same, Nat.sub_self, List.getD_cons_zero]
    · rw [mread_mwrite_ne _ _ _ _ hx]
      by_cases hin : a + 1 ≤ x ∧ x < a + 1 + r.length
      · rw [if_pos hin, if_pos (by omega), show x - a = x - (a + 1) + 1 by omega, List.getD_cons_succ]
      · rw [if_neg hin, if_neg (by omega)]

theorem Flash.drive_erase (f : Flash) (a : BitVec 26) (x : Nat) :
    (f.drive (.erase a)).get x 1 = if x / 4096 = a.toNat / 4096 then [0xFF#8] else f.get x 1 := by
  have hm : (f.drive (.erase a)).mem = mclear (a.toNat / 4096 * 4096) (a.toNat / 4096 * 4096 + 4096 * 1) f.mem := rfl
  rw [Flash.get_one, Flash.get_one, hm]
  split
  next h =>
    rw [mread_mclear_in _ _ _ _ (by omega)]
    rfl
  next h => rw [mread_mclear_out _ _ _ _ (by omega)]

theorem Flash.drive_program (f : Flash) (a : BitVec 26) (d : Bytes) (x : Nat) : (f.drive (.program a d)).get x 1 =
    if a.toNat ≤ x ∧ x < a.toNat + Nat.min d.length (256 - a.toNat % 256) then [~~~mread f.mem x &&& d.getD (x - a.toNat) 0#8] else f.get x 1 := by
  have hm : (f.drive (.program a d)).mem = progBytes a.toNat (d.take (256 - a.toNat % 256)) f.mem := rfl
  have hlen : (d.take (256 - a.toNat % 256)).length = Nat.min d.length (256 - a.toNat % 256) := by
    rw [List.length_take]
    exact Nat.min_comm _ _
  rw [Flash.get_one, Flash.get_one, hm, mread_progBytes, hlen]
  split
  next h =>
    have hlt : x - a.toNat < 256 - a.toNat % 256 := by
      have hle : Nat.min d.length (256 - a.toNat % 256) ≤ 256 - a.toNat % 256 := Nat.min_le_right ..
      omega
    have hd : (d.take (256 - a.toNat % 256)).getD (x - a.toNat) 0#8 = d.getD (x - a.toNat) 0#8 := by
      rw [List.getD_eq_getElem?_getD, List.getD_eq_getElem?_getD, List.getElem?_take_of_lt hlt]
    rw [hd, BitVec.not_or, BitVec.not_not]
  next => rfl

/-! ## EXTEST (R423) -/

/-- A value that a map gives and that is not its default stands in its list. -/
theorem mem_of_sget_ne {α : Type} {d : α} {m : SMap α} {k : Nat} (h : sget d m k ≠ d) : (k, sget d m k) ∈ m := by
  induction m with
  | nil => exact absurd rfl h
  | cons y r ih =>
    obtain ⟨j, v⟩ := y
    by_cases hj : j = k
    · subst hj
      have hv : sget d ((j, v) :: r) j = v := by simp [sget, sfind?]
      rw [hv]
      exact List.mem_cons_self
    · have hv : sget d ((j, v) :: r) k = sget d r k := by simp [sget, sfind?, hj]
      rw [hv] at h ⊢
      exact List.mem_cons_of_mem _ (ih h)

theorem State.extest_of_ir {s : State} {k : Nat} (h : sget 0#8 s.tapIr k = 0x01#8) : s.extest = true :=
  List.any_eq_true.2 ⟨_, mem_of_sget_ne (h ▸ by decide), beq_iff_eq.2 h⟩

theorem State.drive_flash (s : State) (tap : Nat) (spi : List SpiOp) (hs : s.supply ≠ .off) :
    (s.drive tap spi).flashA = (if tap = 0 then spi.foldl Flash.drive s.flashA else s.flashA) ∧
      (s.drive tap spi).flashB = if tap = 1 then spi.foldl Flash.drive s.flashB else s.flashB := by
  unfold State.drive
  rw [if_neg (by simpa using hs)]
  by_cases h0 : tap = 0
  · subst h0
    exact ⟨rfl, rfl⟩
  · rw [if_neg h0, if_neg h0]
    by_cases h1 : tap = 1
    · rw [if_pos h1, if_pos h1]
      exact ⟨rfl, rfl⟩
    · rw [if_neg h1, if_neg h1]
      exact ⟨rfl, rfl⟩

end Sys2Proof.Machine
end

section
/-!
PROOFS of the statement about resets and the boot (spec/16_boot_and_security.md R400 to R414, R423, R428, R433).
-/

namespace Sys2Proof.Machine

open Sys2Proof

section
variable {s : State}

theorem State.resetEngine_on (h : s.supply ≠ .off) : s.resetEngine = (s.cutFirmware false).cleared .reset :=
  if_neg (by simpa using h)

theorem State.resetEngine_off (h : s.supply = .off) : s.resetEngine = s := if_pos (by rw [h]; rfl)

/-- RESET_N and the loss of REFCLK wipe the engine. -/
theorem State.resetEngine_wipes (h : s.supply ≠ .off) : let t := s.resetEngine
    t.supply = .reset ∧ Wiped s t ∧ (s.fwJob = none → t.flashA = s.flashA ∧ t.flashB = s.flashB) ∧ t.tapIr = s.tapIr := by
  intro t
  obtain ⟨hw, hf⟩ := State.cut_wiped (s := s) .reset (State.resetEngine_on h)
  have ht : (s.cutFirmware false).tapIr = s.tapIr := State.cutFirmware_of (fd := .tapIr) s false (by decide)
  have hs : t.supply = .reset := by
    dsimp only [t]
    rw [State.resetEngine_on h]
    rfl
  refine ⟨hs, hw, hf, ?_⟩
  dsimp only [t]
  rw [State.resetEngine_on h]
  exact ht

theorem exec_resetNAssert (h : s.supply ≠ .off) : ∃ t, exec .resetNAssert s = .next t ∧ t.supply = .reset ∧ t.resetN = true ∧ Wiped s t ∧
    (s.fwJob = none → t.flashA = s.flashA ∧ t.flashB = s.flashB) := by
  obtain ⟨h1, h2, h3, -⟩ := State.resetEngine_wipes h
  refine ⟨{ s.resetEngine with resetN := true }, rfl, ?_⟩
  generalize s.resetEngine = t at h1 h2 h3
  exact ⟨h1, rfl, h2, h3⟩

theorem exec_refclkLoss (h : s.supply ≠ .off) : ∃ t, exec .refclkLoss s = .next t ∧ t.supply = .reset ∧ t.refclkLost = true ∧ Wiped s t ∧
    (s.fwJob = none → t.flashA = s.flashA ∧ t.flashB = s.flashB) := by
  obtain ⟨h1, h2, h3, -⟩ := State.resetEngine_wipes h
  refine ⟨{ s.resetEngine with refclkLost := true }, rfl, ?_⟩
  generalize s.resetEngine = t at h1 h2 h3
  exact ⟨h1, rfl, h2, h3⟩

theorem exec_undervoltageLockout (h : s.supply ≠ .off) : ∃ t, exec .undervoltageLockout s = .next t ∧ t.supply = .off ∧ t.tapIr = [] ∧ Wiped s t ∧
    (s.fwJob = none → t.flashA = s.flashA ∧ t.flashB = s.flashB) := by
  obtain ⟨t, ht⟩ : ∃ t : State, t = (s.cutFirmware false).cleared .off := ⟨_, rfl⟩
  obtain ⟨hw, hf⟩ := State.cut_wiped .off ht
  have hs : t.supply = .off := by rw [ht]; rfl
  refine ⟨{ t with tapIr := [], boundary := [], tapOut := none }, ?_, hs, rfl, hw, hf⟩
  refine congrArg Host.Outcome.next ((if_neg (by simpa using h)).trans ?_)
  rw [ht]
  rfl

end

/-- EXTEST with 48 V present: the engine is in reset, as with RESET_N, and then the pins of its die are driven. -/
theorem exec_extest {s : State} {tap : Fin 20} {spi : List SpiOp} (h : s.supply ≠ .off) : ∃ t, exec (.extest ⟨tap, spi⟩) s = .next t ∧
    sget 0#8 t.tapIr tap.val = 0x01#8 ∧ (∀ k, k ≠ tap.val → sget 0#8 t.tapIr k = sget 0#8 s.tapIr k) ∧
    (s.resetN = true → t = { s with tapIr := t.tapIr, flashA := t.flashA, flashB := t.flashB }) ∧
    (s.resetN = false → t.supply = .reset ∧ t.extest = true ∧ Wiped s t) ∧
    (s.resetN = true ∨ s.fwJob = none → t.flashA = (if tap = 0 then spi.foldl Flash.drive s.flashA else s.flashA) ∧
      t.flashB = if tap = 1 then spi.foldl Flash.drive s.flashB else s.flashB) := by
  obtain ⟨u, hu⟩ : ∃ u : State, u = { s with tapIr := sput 0#8 tap.val 0x01#8 s.tapIr } := ⟨_, rfl⟩
  obtain ⟨v, hv⟩ : ∃ v : State, v = if s.resetN then u else u.resetEngine := ⟨_, rfl⟩
  have hload : s.loadIr tap.val 0x00#8 = u := by
    rw [hu]
    exact if_neg (by simpa using h)
  refine ⟨v.drive tap.val spi, ?_, ?_⟩
  · refine congrArg Host.Outcome.next ?_
    dsimp only
    rw [hload, ← hv]
  have hus : u.supply ≠ .off := by rw [hu]; exact h
  obtain ⟨r1, r2, r3, r4⟩ := State.resetEngine_wipes hus
  have hir : v.tapIr = sput 0#8 tap.val 0x01#8 s.tapIr := by
    have hut : u.tapIr = sput 0#8 tap.val 0x01#8 s.tapIr := by rw [hu]
    rw [hv]
    split
    · exact hut
    · exact r4.trans hut
  have hvs : v.supply ≠ .off := by
    rw [hv]
    split
    · exact hus
    · rw [r1]
      decide
  obtain ⟨hA, hB⟩ := v.drive_flash tap.val spi hvs
  have hfr {fd : Fld} (hf : fd ∉ [Fld.flashA, .flashB]) : fd.of (v.drive tap.val spi) = fd.of v := State.drive_of v _ _ hf
  have h0 : (tap.val = 0) = (tap = 0) := propext (Fin.ext_iff (a := tap) (b := 0)).symm
  have h1 : (tap.val = 1) = (tap = 1) := propext (Fin.ext_iff (a := tap) (b := 1)).symm
  simp only [h0] at hA
  simp only [h1] at hB
  generalize v.drive tap.val spi = t at hA hB hfr ⊢
  have hti : t.tapIr = sput 0#8 tap.val 0x01#8 s.tapIr := (hfr (fd := .tapIr) (by decide)).trans hir
  have hone : sget 0#8 t.tapIr tap.val = 0x01#8 := by rw [hti, sget_sput_same]
  refine ⟨hone, fun k hk => by rw [hti, sget_sput_ne _ _ _ _ _ hk], fun hr => ?_, fun hr => ?_, fun hr => ?_⟩
  · rw [hr, if_pos rfl] at hv
    refine State.eq_patch [.tapIr, .flashA, .flashB] fun fd hf => (hfr (Fld.not_mem hf)).trans ?_
    rw [hv, hu]
    exact Fld.of_upd (s := s) (L := [.tapIr]) rfl (Fld.not_mem hf)
  · rw [hr, if_neg Bool.false_ne_true] at hv
    rw [← hv] at r1 r2
    refine ⟨(hfr (fd := .supply) (by decide)).trans r1, State.extest_of_ir hone, ?_⟩
    obtain ⟨w1, w2, w3, w4, w5, w6, w7, w8, w9, w10, w11, w12⟩ := r2
    refine ⟨(hfr (fd := .parts) (by decide)).trans w1, (hfr (fd := .cores) (by decide)).trans w2, (hfr (fd := .spad) (by decide)).trans w3,
      (hfr (fd := .hbm) (by decide)).trans w4, (hfr (fd := .leases) (by decide)).trans w5, (hfr (fd := .longs) (by decide)).trans w6,
      (hfr (fd := .windows) (by decide)).trans w7, (hfr (fd := .et) (by decide)).trans w8, (hfr (fd := .etClock) (by decide)).trans w9,
      (hfr (fd := .fwJob) (by decide)).trans w10, (hfr (fd := .hostMem) (by decide)).trans (w11.trans ?_),
      fun h => (hfr (fd := .fuses) (by decide)).trans ((w12 fun n => ?_).trans ?_)⟩
    · rw [hu]
    · rw [hu]
      exact h n
    · rw [hu]
  · have hflash : v.flashA = s.flashA ∧ v.flashB = s.flashB := by
      have huf : u.flashA = s.flashA ∧ u.flashB = s.flashB := by
        rw [hu]
        exact ⟨rfl, rfl⟩
      rw [hv]
      split
      · exact huf
      · next hn =>
        have hj : u.fwJob = none := by
          rw [hu]
          exact hr.resolve_left hn
        exact ⟨(r3 hj).1.trans huf.1, (r3 hj).2.trans huf.2⟩
    rw [hflash.1] at hA
    rw [hflash.2] at hB
    exact ⟨hA, hB⟩

/-! ## A boot without a valid image, and one that waits for PFW_N (R406, R414) -/

/-- The wait of a boot ends: the rest of it, or, where BRACE_HOLD passes first, E2. -/
theorem State.bootStandby_stands {s : State} (hq : s.quiet = false) : let t := s.bootStandby
    t.supply = .up ∧ t.estate = .e2 ∧ t.quietArmed = true ∧ t.rails = s.rails.standby ∧ t.bootRest = s.bootRest := by
  intro t
  obtain ⟨u, hu⟩ : ∃ u : State, u = { s.serveP0 with supply := .up } := ⟨_, rfl⟩
  have ht : t = u.enterE2 true := by
    rw [hu]
    rfl
  have hus {fd : Fld} (hf : fd ∉ [Fld.windows, .supply]) : fd.of u = fd.of s := by
    rw [hu]
    exact (Fld.of_set_supply _ _ (Fld.not_mem hf)).trans (State.serveP0_of s (Fld.not_mem hf))
  have hsup : u.supply = .up := by rw [hu]
  obtain ⟨w, hw, hwf, hwe, -, hwq, -, -, hwr⟩ := u.enterE2_reaches true
  have hloud : w.quiet = false := (State.quiet_congr (hwf (fd := .pfw) (by decide)) (hwf (fd := .pfwHighSince) (by decide))
    (hwf (fd := .policy) (by decide)) (hwf (fd := .now) (by decide))).trans ((State.quiet_congr (hus (fd := .pfw) (by decide))
      (hus (fd := .pfwHighSince) (by decide)) (hus (fd := .policy) (by decide)) (hus (fd := .now) (by decide))).trans hq)
  rw [State.latchQuiet_loud hloud, State.tryExit_loud hloud] at hw
  have hrails : u.rails = s.rails := hus (fd := .rails) (by decide)
  clear_value t
  rw [ht, hw]
  exact ⟨(hwf (fd := .supply) (by decide)).trans hsup, hwe, hwq, hwr.trans (congrArg Rails.standby hrails),
    (hwf (fd := .bootRest) (by decide)).trans (hus (fd := .bootRest) (by decide))⟩

section
variable {s : State}

theorem exec_firmwareRetry (b : BootIn) (hs : s.supply = .noImage) (ht : s.noImageAt + 10000000000 ≤ s.now) :
    exec (.firmwareRetry b) s = .next (s.bootStep3 b) :=
  congrArg Host.Outcome.next (if_pos (by rw [hs, Bool.and_eq_true, decide_eq_true_eq]; exact ⟨rfl, ht⟩))

/-- A retry that finds an image boots on from step 4. -/
theorem firmwareRetry_boots {b : BootIn} {n : Nat} {i : FwImage} (hs : s.supply = .noImage) (ht : s.noImageAt + 10000000000 ≤ s.now)
    (hf : firstValid s.candidates = some (n, i)) : ∃ t, exec (.firmwareRetry b) s = .next t ∧ t.firmware = i.firmware n ∧
      (s.quiet = true → b.pfwIn = none → Ready s t ∧ t.bootRest = none) ∧
      (s.quiet = true → b.pfwIn.isSome = true → Waits s t ∧ t.pfw = true ∧ t.bootRest = some { b with pfwIn := none }) ∧
      (s.quiet = false → t.supply = .waitQuiet ∧ t.bootWait = s.now ∧ t.bootRest = some b) := by
  obtain ⟨w, hw⟩ : ∃ w : State, w = { s.drew with firmware := i.firmware n } := ⟨_, rfl⟩
  have hws : w.firmware = i.firmware n ∧ w.quiet = s.quiet ∧ w.now = s.now ∧ w.fuses = s.fuses := by
    rw [hw]
    exact ⟨rfl, rfl, rfl, rfl⟩
  obtain ⟨hwf, hwq, hwn, hwu⟩ := hws
  refine ⟨w.bootStep4 b, ?_, ?_⟩
  · rw [exec_firmwareRetry b hs ht, State.bootStep3_some b hf, hw]
  obtain ⟨h1, h2, h3, h4⟩ := w.bootStep4_boots b
  generalize w.bootStep4 b = t at h1 h2 h3 h4
  rw [hwq] at h2 h3 h4
  refine ⟨h1.trans hwf, fun h hp => ?_, fun h hp => ?_, fun h => ?_⟩
  · obtain ⟨g1, g2, -⟩ := h4 h hp
    unfold Ready at g1 ⊢
    rw [hwu] at g1
    exact ⟨g1, g2⟩
  · obtain ⟨⟨k1, k2, k3⟩, g2⟩ := h3 h hp
    exact ⟨⟨k1, k2.trans hwn, k3⟩, g2⟩
  · obtain ⟨g1, g2, -, -, g5⟩ := h2 h
    exact ⟨g1, g2.trans hwn, g5⟩

/-- A boot that waited goes on from step 5. -/
theorem resumeQuietExpiry_boots {b : BootIn} (hs : s.supply = .waitQuiet) (hb : s.bootRest = some b) (hq : s.quiet = true) :
    exec .resumeQuietExpiry s = .next (s.bootTail b) := by
  refine congrArg Host.Outcome.next ?_
  rw [State.nowQuiet, hq, hs, hb]
  rfl

/-- The exit from E2 of a boot that had not finished (R406). -/
theorem standbyExit_boots {b : BootIn} (hs : s.supply = .up) (he : s.estate = .resuming) (h0 : s.sub = 0) (hp : s.pfw = false)
    (hb : s.bootRest = some b) (hn : b.pfwIn = none) :
    ∃ t, exec .standbyExit s = .next t ∧ Ready s t ∧ t.bootRest = none ∧ t.wakeReasons = s.aonWake := by
  obtain ⟨u, hu⟩ : ∃ u : State, u = { s with wakeReasons := s.aonWake } := ⟨_, rfl⟩
  obtain ⟨v, hv⟩ : ∃ v : State, v = u.bootTail b := ⟨_, rfl⟩
  refine ⟨v.log 0x0407 none none none 0 s.authorityPup, ?_, ?_⟩
  · refine congrArg Host.Outcome.next ((if_pos (by rw [hs, he, h0, hp]; rfl)).trans ?_)
    rw [hv, hu]
    split
    next b' h' => rw [Option.some.inj (h'.symm.trans hb)]
    next h' => exact absurd (h'.symm.trans hb) (Option.some_ne_none b).symm
  obtain ⟨h1, -, h3⟩ := u.bootTail_ready hn
  have hw : v.wakeReasons = u.wakeReasons := (congrArg (Fld.of .wakeReasons) hv).trans (State.bootTail_of (fd := .wakeReasons) u b (by decide))
  rw [← hv] at h1 h3
  have hlog {fd : Fld} (hf : fd ∉ [Fld.faults, .faultSeq, .faultsLost]) : fd.of (v.log 0x0407 none none none 0 s.authorityPup) = fd.of v :=
    State.log_of _ _ _ _ _ _ _ _ hf
  generalize v.log 0x0407 none none none 0 s.authorityPup = t at hlog
  obtain ⟨r1, r2, r3, r4, r5, r6, r7⟩ := h1
  have hfu : u.fuses = s.fuses := by rw [hu]
  rw [hfu] at r7
  refine ⟨⟨(hlog (fd := .supply) (by decide)).trans r1, (hlog (fd := .estate) (by decide)).trans r2, (hlog (fd := .et) (by decide)).trans r3,
    (hlog (fd := .etClock) (by decide)).trans r4, (hlog (fd := .standbyOk) (by decide)).trans r5, (hlog (fd := .hbm) (by decide)).trans r6,
    State.Limited.of_regulators r7 (hlog (by decide))⟩, (hlog (fd := .bootRest) (by decide)).trans h3, ?_⟩
  exact (hlog (fd := .wakeReasons) (by decide)).trans (hw.trans (by rw [hu]))

end

/-- Nothing that a boot reads differs. -/
structure BootsAs (s u : State) : Prop where
  flashA : u.flashA = s.flashA
  flashB : u.flashB = s.flashB
  fuses : u.fuses = s.fuses
  freeCount : u.freeCount = s.freeCount
  now : u.now = s.now
  pfw : u.pfw = s.pfw
  pfwHighSince : u.pfwHighSince = s.pfwHighSince

theorem Booted.of_same {s u t : State} {b : BootIn} (h : Booted u t b) (hs : BootsAs s u) : Booted s t b := by
  have hc := State.candidates_congr hs.flashA hs.flashB hs.fuses hs.freeCount
  have hq : u.bootQuiet = s.bootQuiet := by
    unfold State.bootQuiet
    rw [hs.pfw, hs.pfwHighSince, hs.now]
  unfold Booted Waits Ready at h ⊢
  rw [hc, hq, hs.now, hs.fuses] at h
  exact h

/-- Settles O52: a reset wipes, a boot goes through its steps, and the pins drive the flash. -/
theorem resetsAndBoot : Obligations.ResetsAndBoot := by
  unfold Obligations.ResetsAndBoot
  refine ⟨fun tap spi b n i s => ⟨fun h => ⟨exec_resetNAssert h, exec_refclkLoss h, exec_undervoltageLockout h, exec_extest h, ?_⟩,
    fun h => ⟨?_, ?_, ?_, ?_, fun hr hm => ?_, fun hm => ?_⟩, fun hs hm => ?_, fun h => ?_, fun hs hr hx => ?_, fun h => ?_,
    fun hs ht => ⟨fun hf => ?_, firmwareRetry_boots hs ht⟩, fun h => ?_, fun hs => ⟨fun hb hq => ?_, fun hq => ?_, fun hq ht => ?_, fun hq => ?_⟩,
    fun hs he h0 hp hb hn => standbyExit_boots hs he h0 hp hb hn⟩, fun f a d x => ⟨f.drive_erase a x, f.drive_program a d x⟩⟩
  · exact congrArg Host.Outcome.next (if_neg (by simpa using h))
  · exact congrArg Host.Outcome.next (if_pos (by rw [h]; rfl))
  · refine congrArg Host.Outcome.next ?_
    rw [State.resetEngine_off h]
  · refine congrArg Host.Outcome.next ?_
    rw [State.resetEngine_off h]
  · refine congrArg Host.Outcome.next ?_
    have hl : s.loadIr tap.val 0x00#8 = s := if_pos (by rw [h]; rfl)
    dsimp only
    rw [hl, State.resetEngine_off h, ite_self]
    exact if_pos (by rw [h]; rfl)
  · refine ⟨_, congrArg Host.Outcome.next ((if_pos (by rw [h]; rfl)).trans (State.unreset_boots b rfl hr hm)), ?_⟩
    exact Booted.of_same (State.boot_boots _ b).1 ⟨rfl, rfl, rfl, rfl, rfl, rfl, rfl⟩
  · refine congrArg Host.Outcome.next ((if_pos (by rw [h]; rfl)).trans ?_)
    exact State.unreset_waits b (.inr hm)
  · refine ⟨_, congrArg Host.Outcome.next (State.unreset_boots b hs rfl hm), ?_⟩
    exact Booted.of_same (State.boot_boots _ b).1 ⟨rfl, rfl, rfl, rfl, rfl, rfl, rfl⟩
  · refine congrArg Host.Outcome.next (State.unreset_waits b ?_)
    exact h.imp_right .inr
  · have hm : ({ s with refclkLost := false } : State).mayBoot = true := by
      show (!false && !s.extest) = true
      rw [hx]
      rfl
    refine ⟨_, congrArg Host.Outcome.next (State.unreset_boots b hs hr hm), ?_⟩
    exact Booted.of_same (State.boot_boots _ b).1 ⟨rfl, rfl, rfl, rfl, rfl, rfl, rfl⟩
  · refine congrArg Host.Outcome.next (State.unreset_waits b ?_)
    refine h.imp_right fun h => h.imp_right fun h => ?_
    show (!false && !s.extest) = false
    rw [h]
    rfl
  · rw [exec_firmwareRetry b hs ht, State.bootStep3_none b hf, ← hs]
    rfl
  · refine congrArg Host.Outcome.next (if_neg ?_)
    rw [Bool.and_eq_true, beq_iff_eq, decide_eq_true_eq]
    exact fun ⟨h1, h2⟩ => h.elim (· h1) (Nat.not_lt.2 h2)
  · refine ⟨_, resumeQuietExpiry_boots hs hb hq, fun hp => ?_, fun hp => ?_⟩
    · obtain ⟨h1, -, h3⟩ := s.bootTail_ready hp
      exact ⟨h1, h3⟩
    · obtain ⟨h1, h2, h3, h4, h5, -, -, h8⟩ := s.bootTail_stops hp
      exact ⟨h1, h2, h3, h4, h5, h8⟩
  · refine congrArg Host.Outcome.next (if_pos ?_)
    rw [hq]
    rfl
  · refine ⟨_, congrArg Host.Outcome.next ((if_pos (by rw [hs]; rfl)).trans (if_pos ⟨ht, hq⟩)), State.bootStandby_stands hq⟩
  · refine congrArg Host.Outcome.next ((if_pos (by rw [hs]; rfl)).trans (if_neg fun ⟨h1, h2⟩ => ?_))
    rcases hq with hq | hq
    · exact absurd (hq.symm.trans h2) (by decide)
    · exact Nat.not_lt.2 h1 hq

end Sys2Proof.Machine
end

section
/-!
PROOFS of the statement about the TAPs, the carrier and the MCTP endpoint (spec/16_boot_and_security.md R421 to R423,
spec/17_module_and_signals.md R427, R437, R438).
-/

namespace Sys2Proof.Machine

open Sys2Proof

/-! ## The TAPs (R421 to R423) -/

section
variable {s : State} {tap : Nat}

theorem State.loadIr_off (h : s.supply = .off) (code : BitVec 8) : s.loadIr tap code = s := if_pos (by rw [h]; rfl)

theorem State.loadIr_on (h : s.supply ≠ .off) (code : BitVec 8) :
    s.loadIr tap code = { s with tapIr := sput 0#8 tap (code ^^^ 0x01#8) s.tapIr } := if_neg (by simpa using h)

theorem State.identify_off (h : s.supply = .off) : s.identify tap = s := by
  unfold State.identify
  rw [State.loadIr_off h]
  exact if_pos (by rw [h]; rfl)

theorem State.identify_on (h : s.supply ≠ .off) :
    s.identify tap = { s with tapIr := sput 0#8 tap (0x01#8 ^^^ 0x01#8) s.tapIr, tapOut := some (idcodeOf tap) } := by
  unfold State.identify
  rw [State.loadIr_on h]
  exact if_neg (by simpa using h)

end

/-- An engine that is not in reset boots for no TAP. -/
theorem State.unreset_up {s : State} (b : BootIn) (h : s.supply ≠ .reset) : s.unreset b = s := State.unreset_waits b (.inl h)

/-- An instruction that leaves no EXTEST loaded lets the engine boot. -/
theorem State.unreset_loaded {s u : State} (b : BootIn) (hu : BootsAs s u) (hs : u.supply = .reset) (hr : u.resetN = false) (hc : u.refclkLost = false)
    (hx : u.extest = false) : Booted s (u.unreset b) b ∧ (u.unreset b).tapOut = u.tapOut ∧ (u.unreset b).boundary = u.boundary := by
  rw [State.unreset_boots b hs hr (by unfold State.mayBoot; rw [hc, hx]; rfl)]
  obtain ⟨h1, h2⟩ := u.boot_boots b
  exact ⟨h1.of_same hu, h2⟩

theorem exec_privateInstruction {s : State} {tap : Fin 20} {code : BitVec 8} (b : BootIn) (hs : s.supply ≠ .off) (h3 : 3 ≤ code.toNat)
    (hf : code.toNat ≤ 0xFE) : exec (.privateInstruction tap code b) s =
      if s.fuses.debugOff then .next ((s.loadIr tap.val code).unreset b) else .fault .privateFunctions := by
  refine if_neg ?_
  rintro (h | h | h)
  · omega
  · rw [h] at hf
    exact absurd hf (by decide)
  · exact hs h

theorem exec_samplePreload {s u : State} {tap : Fin 20} {cells : List Bool} (b : BootIn) (hs : s.supply ≠ .off)
    (hu : u = { s with tapIr := sput 0#8 tap.val (0x02#8 ^^^ 0x01#8) s.tapIr, boundary := sput [] tap.val cells s.boundary }) :
    exec (.samplePreload tap cells b) s = .next (u.unreset b) := by
  refine congrArg Host.Outcome.next (congrArg (State.unreset · b) ?_)
  dsimp only
  rw [if_neg (by simpa using hs), State.loadIr_on hs, hu]

/-- SAMPLE/PRELOAD in place of the last EXTEST lets the engine boot. -/
theorem samplePreload_boots {s : State} {tap : Fin 20} {cells : List Bool} (b : BootIn) (hs : s.supply = .reset) (hr : s.resetN = false)
    (hc : s.refclkLost = false) (hx : ({ s with tapIr := sput 0#8 tap.val (0x02#8 ^^^ 0x01#8) s.tapIr } : State).extest = false) :
    ∃ t, exec (.samplePreload tap cells b) s = .next t ∧ Booted s t b ∧ sget [] t.boundary tap.val = cells := by
  obtain ⟨u, hu⟩ : ∃ u : State, u = { s with tapIr := sput 0#8 tap.val (0x02#8 ^^^ 0x01#8) s.tapIr, boundary := sput [] tap.val cells s.boundary } :=
    ⟨_, rfl⟩
  have hsame : BootsAs s u := by
    rw [hu]
    exact ⟨rfl, rfl, rfl, rfl, rfl, rfl, rfl⟩
  obtain ⟨h1, -, h3⟩ := State.unreset_loaded b hsame (by rw [hu]; exact hs) (by rw [hu]; exact hr) (by rw [hu]; exact hc) (by rw [hu]; exact hx)
  refine ⟨u.unreset b, exec_samplePreload b (by rw [hs]; decide) hu, h1, ?_⟩
  rw [h3, hu]
  exact sget_sput_same ..

/-- A TAP's identification in place of the last EXTEST lets the engine boot. -/
theorem identify_boots {s u : State} {tap : Fin 20} (b : BootIn)
    (hu : u = { s with tapIr := sput 0#8 tap.val (0x01#8 ^^^ 0x01#8) s.tapIr, tapOut := some (idcodeOf tap.val) }) (hs : s.supply = .reset)
    (hr : s.resetN = false) (hc : s.refclkLost = false) (hx : u.extest = false) :
    (∃ t, exec (.idcode tap b) s = .next t ∧ Booted s t b ∧ t.tapOut = some (idcodeOf tap.val)) ∧
      ∃ t, exec (.tapReset tap b) s = .next t ∧ Booted s t b ∧ t.tapOut = some (idcodeOf tap.val) := by
  have hsame : BootsAs s u := by
    rw [hu]
    exact ⟨rfl, rfl, rfl, rfl, rfl, rfl, rfl⟩
  obtain ⟨h1, h2, -⟩ := State.unreset_loaded b hsame (by rw [hu]; exact hs) (by rw [hu]; exact hr) (by rw [hu]; exact hc) hx
  have hout : u.tapOut = some (idcodeOf tap.val) := by rw [hu]
  have he : s.identify tap.val = u := hu ▸ State.identify_on (by rw [hs]; decide)
  have hd : exec (.idcode tap b) s = .next (u.unreset b) := congrArg (fun u : State => Host.Outcome.next (u.unreset b)) he
  have ht : exec (.tapReset tap b) s = .next (u.unreset b) := congrArg (fun u : State => Host.Outcome.next (u.unreset b)) he
  exact ⟨⟨_, hd, h1, h2.trans hout⟩, ⟨_, ht, h1, h2.trans hout⟩⟩

/-! ## The MCTP endpoint (R437, R438) -/

theorem State.respond_down {s : State} (h : s.mctpUp = false) (r : Bytes) : s.respond r = s := if_neg (by rw [h]; exact Bool.false_ne_true)

theorem State.respond_up {s : State} (h : s.mctpUp = true) (r : Bytes) : s.respond r = { s with mctp := { s.mctp with response := some r } } := if_pos h

theorem State.vendor_down {s : State} (h : s.mctpUp = false) (c : BitVec 8) (r : Bytes) : s.vendor c r = s.drew := by
  unfold State.vendor
  rw [State.respond_down h]

theorem State.vendor_serving {s : State} (h : s.mctpUp = true) (hr : s.restarting = false) (c : BitVec 8) (r : Bytes) : s.vendor c r =
    { s with mctp := { s.mctp with response := some (vendorBytes ++ [c, 0x00#8] ++ r) }, freeCount := s.freeCount + 1 } := by
  unfold State.vendor
  rw [State.respond_up h, hr]
  rfl

theorem State.vendor_restarting {s : State} (h : s.mctpUp = true) (hr : s.restarting = true) (c : BitVec 8) (r : Bytes) : s.vendor c r =
    { s with mctp := { s.mctp with response := some (vendorBytes ++ [c, 0x02#8]) }, freeCount := s.freeCount + 1 } := by
  unfold State.vendor
  rw [State.respond_up h, hr, if_pos rfl]
  unfold vendorReply
  rw [List.append_nil]
  rfl

/-- What the carrier and the MCTP endpoint do. -/
theorem endpoint_answers (a b code eid : BitVec 8) (x y z : BitVec 16) (s : State) :
    let resp (r : Bytes) : State := { s with mctp := { s.mctp with response := some r } }
    (s.supply ≠ .off → exec (.coolantSample a b x y z) s = .next { s with carrier := ⟨a, b, x, y, z⟩ }) ∧
    (s.supply = .off → exec (.coolantSample a b x y z) s = .next s) ∧
    (s.mctpUp = false → exec (.setEndpointId eid) s = .next s ∧ exec .getEndpointId s = .next s ∧ exec .getMctpVersionSupport s = .next s ∧
      exec .getMessageTypeSupport s = .next s ∧ exec .getVendorDefinedMessageSupport s = .next s ∧ exec .getInfo s = .next s.drew ∧
      exec .getStatus s = .next s.drew ∧ exec (.mctpUnsupportedCommand code) s = .next s) ∧
    (s.mctpUp = true →
      (eid ≠ 0#8 → eid ≠ 0xFF#8 → exec (.setEndpointId eid) s =
        .next { s with mctp := { s.mctp with eid := eid, response := some [0#8, 0#8, eid, 0#8] } }) ∧
      ((eid = 0#8 ∨ eid = 0xFF#8) → exec (.setEndpointId eid) s = .next (resp [0x02#8])) ∧
      exec .getEndpointId s = .next (resp [0#8, s.mctp.eid, 0#8, 0#8]) ∧
      exec .getMctpVersionSupport s = .next (resp (0#8 :: Config.mctpVersions)) ∧
      exec .getMessageTypeSupport s = .next (resp [0#8, 1#8, 0x7E#8]) ∧
      exec .getVendorDefinedMessageSupport s = .next (resp ([0#8, 0xFF#8, 0#8] ++ vendorBytes ++
        [Config.mctpVendorSet.extractLsb' 8 8, Config.mctpVendorSet.extractLsb' 0 8])) ∧
      (s.restarting = false →
        exec .getInfo s = .next { resp (vendorBytes ++ [0x01#8, 0x00#8] ++ s.infoBytes 0 0 0) with freeCount := s.freeCount + 1 } ∧
        exec .getStatus s = .next { resp (vendorBytes ++ [0x02#8, 0x00#8] ++ s.statusBytes) with freeCount := s.freeCount + 1 }) ∧
      (s.restarting = true →
        exec .getInfo s = .next { resp (vendorBytes ++ [0x01#8, 0x02#8]) with freeCount := s.freeCount + 1 } ∧
        exec .getStatus s = .next { resp (vendorBytes ++ [0x02#8, 0x02#8]) with freeCount := s.freeCount + 1 }) ∧
      (code ≠ 0x01#8 → code ≠ 0x02#8 → exec (.mctpUnsupportedCommand code) s = .next (resp (vendorBytes ++ [code, 0x01#8])))) := by
  intro resp
  have hif (c : Prop) [Decidable c] (h : s.mctpUp = false) (r : Bytes) : (if c then s else s.respond r) = s := by
    rw [State.respond_down h, ite_self]
  refine ⟨fun hs => ?_, fun hs => ?_, fun hd => ⟨?_, ?_, ?_, ?_, ?_, ?_, ?_, ?_⟩, fun hu => ⟨fun h0 hF => ?_, fun h0 => ?_, ?_, ?_, ?_, ?_, fun hr => ⟨?_, ?_⟩,
    fun hr => ⟨?_, ?_⟩, fun h1 h2 => ?_⟩⟩
  · exact congrArg Host.Outcome.next (if_neg (by simpa using hs))
  · exact congrArg Host.Outcome.next (if_pos (by rw [hs]; rfl))
  · refine congrArg Host.Outcome.next ?_
    rw [State.respond_down hd, if_neg (c := s.mctpUp = true) (by rw [hd]; exact Bool.false_ne_true), State.respond_down hd, ite_self]
  · exact congrArg Host.Outcome.next (State.respond_down hd _)
  · exact congrArg Host.Outcome.next (State.respond_down hd _)
  · exact congrArg Host.Outcome.next (State.respond_down hd _)
  · exact congrArg Host.Outcome.next (State.respond_down hd _)
  · exact congrArg Host.Outcome.next (State.vendor_down hd _ _)
  · exact congrArg Host.Outcome.next (State.vendor_down hd _ _)
  · exact congrArg Host.Outcome.next (hif _ hd _)
  · refine congrArg Host.Outcome.next ((if_neg (not_or.2 ⟨h0, hF⟩)).trans ?_)
    rw [if_pos hu]
    exact State.respond_up (s := { s with mctp := { s.mctp with eid := eid } }) hu _
  · exact congrArg Host.Outcome.next ((if_pos h0).trans (State.respond_up hu _))
  · exact congrArg Host.Outcome.next (State.respond_up hu _)
  · exact congrArg Host.Outcome.next (State.respond_up hu _)
  · exact congrArg Host.Outcome.next (State.respond_up hu _)
  · exact congrArg Host.Outcome.next (State.respond_up hu _)
  · exact congrArg Host.Outcome.next (State.vendor_serving hu hr _ _)
  · exact congrArg Host.Outcome.next (State.vendor_serving hu hr _ _)
  · exact congrArg Host.Outcome.next (State.vendor_restarting hu hr _ _)
  · exact congrArg Host.Outcome.next (State.vendor_restarting hu hr _ _)
  · refine congrArg Host.Outcome.next ((if_neg (not_or.2 ⟨h1, h2⟩)).trans ((State.respond_up hu _).trans ?_))
    unfold vendorReply
    rw [List.append_nil]

/-- Settles O53: each TAP instruction by what it loads, each MCTP command by its response. -/
theorem moduleAndTaps : Obligations.ModuleAndTaps := by
  unfold Obligations.ModuleAndTaps
  refine ⟨fun tap code cells b s => ⟨fun hs => ?_, fun hs => ?_⟩, endpoint_answers⟩
  · have hx : s.unreset b = s := State.unreset_up b (by rw [hs]; decide)
    refine ⟨?_, ?_, ?_, ?_, if_pos (.inr (.inr hs))⟩
    · exact congrArg Host.Outcome.next (by rw [State.identify_off hs, hx])
    · exact congrArg Host.Outcome.next (by rw [State.identify_off hs, hx])
    · exact congrArg Host.Outcome.next (by rw [State.loadIr_off hs, hx])
    · refine congrArg Host.Outcome.next ?_
      dsimp only
      rw [State.loadIr_off hs, if_pos (by rw [hs]; rfl), hx]
  · intro ir id
    have hid : s.identify tap.val = id := State.identify_on hs
    have hir (x : BitVec 8) : s.loadIr tap.val x = ir x := State.loadIr_on hs x
    refine ⟨fun hr => ⟨?_, ?_, ?_, ?_, fun h3 hf hd => ?_⟩, fun h3 hf hd => ?_, fun h => ?_, fun hr hn hc => ?_⟩
    · exact congrArg Host.Outcome.next (by rw [hid]; exact State.unreset_up b hr)
    · exact congrArg Host.Outcome.next (by rw [hid]; exact State.unreset_up b hr)
    · exact congrArg Host.Outcome.next (by rw [hir]; exact State.unreset_up b hr)
    · refine ⟨{ ir 0x02#8 with boundary := sput [] tap.val cells s.boundary }, (exec_samplePreload b hs rfl).trans ?_, rfl, sget_sput_same ..,
        fun k hk => sget_sput_ne _ _ _ _ _ hk⟩
      exact congrArg Host.Outcome.next (State.unreset_up b hr)
    · rw [exec_privateInstruction b hs h3 hf, if_pos hd, hir]
      exact congrArg Host.Outcome.next (State.unreset_up b hr)
    · rw [exec_privateInstruction b hs h3 hf, hd]
      exact if_neg Bool.false_ne_true
    · exact if_pos (h.imp_right .inl)
    · have hsame (x : BitVec 8) : BootsAs s (ir x) := ⟨rfl, rfl, rfl, rfl, rfl, rfl, rfl⟩
      have hboots (x : BitVec 8) (hx : (ir x).extest = false) := State.unreset_loaded b (hsame x) hr hn hc hx
      refine ⟨fun hx => ?_, fun hx => ?_, fun hx => ?_, fun h3 hf hd hx => ?_⟩
      · exact identify_boots b rfl hr hn hc hx
      · exact samplePreload_boots b hr hn hc hx
      · exact ⟨(ir 0xFF#8).unreset b, congrArg (fun u : State => Host.Outcome.next (u.unreset b)) (hir 0xFF#8), (hboots _ hx).1⟩
      · rw [exec_privateInstruction b hs h3 hf, if_pos hd, hir]
        exact ⟨_, rfl, (hboots _ hx).1⟩

end Sys2Proof.Machine
end
